-- ==== Sys2Proof/Word.lean ====
section
/-! DEFINITION. The words of the device and the sparse table that holds everything numbered.
R8: bit 0 is the least significant bit; multi-byte values are little-endian. -/

namespace Sys2Proof

abbrev Byte := BitVec 8
abbrev Word32 := BitVec 32
abbrev Word64 := BitVec 64

/-- A sparse table: pairs of a number and an entry, numbers strictly rising, no entry equal to the
default that an unlisted number reads as (`Sys2Proof.Machine.tabGet`, `tabSet`, `tabWf`). -/
abbrev Tab (α : Type) := List (Nat × α)

end Sys2Proof
end

