-- ==== Sys2Proof/Syntax.lean ====
section
/-! DEFINITION. The commands of the block: one constructor of `Instr` per row of
spec/opcode_table.json, with the row's operands. What an operand means is said where it is read
(Sys2Proof/Machine). A descriptor is given as its 512 bits (R345, R350), a thread-plane instruction
as its R63 word, with the operation named where the spec tabulates no code for it (R64). -/

namespace Sys2Proof

/-- The number formats of R126 (codes of R108), and ZB8's two element kinds (R130). -/
inductive Fmt
  | int8 | uint8 | zf8a | zf8g | binary16 | zf16g | zf4 | int4 | bit1 | binary32 | int32 | zb8m | zb8v
  deriving DecidableEq, Repr

/-- The block formats of R137. -/
inductive BlockFmt
  | zf4 | zb8m | zb8v
  deriving DecidableEq, Repr

/-- Class 0x0 operations on scalar registers and on the path (R64). -/
inductive ScalarOp
  | add | sub | mul | cmpEq | cmpNe | cmpLtS | cmpLtU
  | branch | call | ret | exit
  deriving DecidableEq, Repr

/-- Class 0x1 operations (R64). -/
inductive IntOp
  | add | sub | mul | shl | shrU | shrS | and | or | xor
  | cmpEq | cmpNe | cmpLtS | cmpLtU | shuffle
  deriving DecidableEq, Repr

/-- Class 0x2 operations (R64, R134). -/
inductive F32Op
  | fma | add | mul | min | max | cmpEq | cmpNe | cmpLt | cmpLe | cmpGt | cmpGe
  deriving DecidableEq, Repr

/-- The atomics of R73. -/
inductive AtomOp
  | add | min | max | and | or | xor | swap | cas
  deriving DecidableEq, Repr

/-- The operand types of R73. -/
inductive AtomTy
  | int32 | uint32 | binary32 | bits32 | bits64
  deriving DecidableEq, Repr

/-- Where an atomic acts (R73). -/
inductive AtomSpace
  | scratch | cluster (rank : Nat) | memory
  deriving DecidableEq, Repr

/-- The functions of the row engine (R81). -/
inductive RowFn
  | exp2 | log2 | recip | rsqrt
  deriving DecidableEq, Repr

inductive RowRed
  | sum | sumSq | max | min
  deriving DecidableEq, Repr

inductive RowOp
  | elem (f : RowFn) | reduce (r : RowRed) | fused (f : RowFn)
  deriving DecidableEq, Repr

/-- Class 0xC operations (R64, R65). -/
inductive SysOp
  | enableDiagonal | disableDiagonal
  deriving DecidableEq, Repr

/-- One per-lane access: the R63 word, the size in bytes and the addresses of the 32 lanes. The spec does not say how a lane's
address comes from SRCA and IMM; each is an operand of the command (DESIGN CHOICE, assumption 140). -/
structure LaneMem where
  word  : Word64
  size  : Nat
  addrs : List Nat
  deriving DecidableEq, Repr

/-- Where a tile DMA transfer's other end lies (R84). -/
inductive DmaPlace
  | memory (va : Nat) | cluster (rank offset : Nat) | prefetch (va : Nat)
  deriving DecidableEq, Repr

/-- A tile DMA transfer (R84, R85, R273). -/
structure DmaSpec where
  word     : Word64
  inbound  : Bool
  scratch  : Nat
  other    : DmaPlace
  rowLen   : Nat
  rows     : Nat
  scratchPitch : Nat
  otherPitch   : Nat
  counter  : Option Nat
  signal   : Option (Nat × Word64)
  compress : Nat
  elem     : Nat
  stream   : Nat
  budget   : Nat
  deriving DecidableEq, Repr

/-- Test access port instructions (R500). -/
inductive JtagOp
  | idcode | bypass | other (code : Nat)
  deriving DecidableEq, Repr

/-- What the boot ROM finds out about a firmware image (R442, R443). -/
structure FwImage where
  format   : Nat
  variant  : Nat
  svn      : Nat
  keyOk    : Bool
  sigOk    : Bool
  lengthOk : Bool
  floor    : Nat
  digest   : BitVec 256
  deriving DecidableEq, Repr

/-- A debug or retire token (R452). -/
structure Token where
  kind     : Nat
  serial   : BitVec 128
  nonce    : BitVec 256
  maxLevel : Nat
  duration : Nat
  keyOk    : Bool
  sigOk    : Bool
  deriving DecidableEq, Repr

/-- What every fabric-manager message carries (R461). -/
structure FmHead where
  sigOk : Bool
  issue : Word64
  deriving DecidableEq, Repr

/-- What every fabric request carries (R251, R256). -/
structure FabHead where
  src   : Nat
  part  : Nat
  route : Nat
  seq   : Nat
  deriving DecidableEq, Repr

/-- The ways a target rejects a request (R251, R262). -/
inductive RejKind
  | access | reduction
  deriving DecidableEq, Repr

/-- How an acknowledgement ends its request (R251, R255, R326): acknowledged, with data or old values, with poison
(R193), or a fence signal's outcome. -/
inductive AckBody
  | plain | data (bytes : List Byte) | poison | regression (reason : Nat) (home : Word64) | denied (reason : Nat) | doubleArrival
  deriving DecidableEq, Repr

/-- One sluice (R32, R33): its kind, its two ends, as island numbers, and the attachment point of a path to a stack
or a gateway (R194). -/
inductive SluiceKind
  | mesh | port | free
  deriving DecidableEq, Repr

structure SluiceId where
  kind : SluiceKind
  src  : Nat
  dst  : Nat
  point : Nat
  deriving DecidableEq, Repr

/-- Reset groups (R46). -/
inductive ResetGroup
  | tile (t : Nat) | cistern (s : Nat) | stack (k : Nat) | bridge (b : Nat) | port (p : Nat)
  | hostPort | compute | device
  deriving DecidableEq, Repr

/-- What training found out (R48, R298): whether it succeeded, the largest round trip, the visibility
latencies of the fit check in both directions, the partner's identity, reference domain and class, and
how many consecutive closed culverts the link crosses (R281). -/
structure TrainResult where
  ok       : Bool
  rt       : Nat
  fitOut   : Nat
  fitIn    : Nat
  peerId   : Nat
  peerRef  : Nat
  peerClass : Nat
  culverts : Nat
  deriving DecidableEq, Repr

/-- What Halnor reads in one control period (R410, R414, R420): rail powers in watts as binary32 codes
and sensor temperatures in degrees C. -/
structure Readings where
  powH : Word32
  powL : Word32
  powM : Word32
  powC : Word32
  junction : List Int
  stack    : List Int
  deriving DecidableEq, Repr

/-- The sensors of R463. -/
inductive Sensor
  | inputVoltage | inputCurrent | inputPower | rail (g : Nat) | junction (die : Nat)
  | stackBase (k : Nat) | stackDram (k : Nat) | applied | own | thermal
  | effectiveCap | hostCap | mgmtCap | band (die : Nat) | link (p : Nat)
  | lifecycle | level | power | eolDate | eolDays | eolMonitor | slowdown (die : Nat)
  | counter (offset : Nat)
  deriving DecidableEq, Repr

/-- One entry of an export's permitted list (R329). -/
structure Grant where
  device : Nat
  ctx    : Nat
  signal : Bool
  wait   : Bool
  deriving DecidableEq, Repr

/-- What an epoch probe brings beside its counts (R295, R412): the latency its sender has measured the other way, and a
parent's agreed ratios for the current period and the next two. -/
structure ProbeResult where
  latency : Word64
  ratios  : List Nat
  deriving DecidableEq, Repr

/-- R403, R249: the height of a lane's eye, and the frames its port has corrected since the last sample. -/
structure EyeSample where
  height    : Nat
  corrected : Nat
  deriving DecidableEq, Repr

/-- What diagnostics found (R401). -/
inductive DiagResult
  | tile (die row pcol : Nat) | forwarding (die row pcol : Nat) | nothing
  deriving DecidableEq, Repr

/-- THE COMMANDS. -/
inductive Instr
  -- power, pins, boot, security, management
  | powerInputApplied
  | pwrEnHigh
  | pwrEnLow
  | perstNAssert (short : Bool)
  | perstNDeassert
  | internalBusBelowMinimum
  | standbyBelowMinimum
  | hotInsertion (pwrEn : Bool)
  | analogComparatorTrip (die : Nat)
  | tickrefLost
  | tickrefReturn
  | islandUnlocked (island : Nat)
  | tapReset
  | jtagInstruction (op : JtagOp)
  | gaugeNFallingEdge (widthNs sinceNs : Nat)
  | droopReport (die monitor : Nat)
  | droopTrip (die monitor : Nat)
  | fwCtlGo (img : FwImage)
  | fwCtlAbort
  | pldmFirmwareUpdate (img : FwImage)
  | imageVerificationDone
  | readyReached
  | computeEnableSet
  | computeEnableClear
  | levelReq (level : Nat)
  | endDebug
  | debugSessionExpiry
  | nonceRequest (session : Nat)
  | nonceExpiry
  | debugToken (session : Nat) (tok : Token)
  | retireToken (session : Nat) (tok : Token)
  | getCertificate (slot : Nat)
  | challenge (slot : Nat) (nonce : BitVec 256)
  | getMeasurements (index : Nat) (sign : Bool) (nonce : BitVec 256)
  | keyExchange
  | heartbeat (session : Nat)
  | firmwareReload (img : FwImage)
  | firmwareReloadComplete
  | inServiceBankWrite
  | smbusArp (addr : BitVec 7)
  | mctpEndpointIdAssignment (eid : BitVec 8)
  | pldmSensorRead (sensor : Sensor)
  | pldmEventRead
  | mgmtCapEffecter (watts : Nat)
  | fabricManagerKeyInstall (key : BitVec 256)
  | healthLogReadout (first count : Nat)
  | bmcRegisterAccess (write : Bool) (offset size : Nat) (value : Word64)
  | fabricIdentityAssignment (m : FmHead) (deviceId domainSlot : Nat)
  | partitionAssignment (m : FmHead) (partition : Nat) (members : List Nat) (domain : List Nat)
      (root : Bool) (parentPort : Nat) (children : List (Nat × Nat))
  | multicastGroupDefinition (m : FmHead) (group : Nat) (members : List Nat)
  | partitionRevocation (m : FmHead) (partition : Nat)
  | revocationWalkEnd
  | gaugeTrigger
  | gaugeBroadcastReceipt (tick : Word64)
  | gaugeLatch
  | gaugeExportGo (fn : Nat)
  | deviceReset
  | registerWrite (fn offset size : Nat) (value : Word64)
  | hostCapWrite (watts : Nat)
  | trippedClear
  | keepClear
  | keepSweepEnd
  | retrain (downstream : Bool)
  | chainEnableWrite (downstream enable : Bool)
  | adminQueueEnable (fn : Nat) (enable : Bool) (log2 : Nat)
  | bar4WindowWrite (base : Nat)
  | msixUnmask (fn entry : Nat)
  | bar4Write (offset : Nat) (data : List Byte)
  | bar4Read (offset len : Nat)
  | functionLevelReset (fn : Nat)
  | vfDisable
  | atsInvalidation (pasid iova len : Nat)
  | doorbellWrite (fn offset size : Nat) (value : Word64)
  | adminDoorbell (fn size : Nat) (value : Word64)
  -- admin commands (R345)
  | ctxCreate (fn : Nat) (desc : BitVec 512)
  | ctxSetStep (fn : Nat) (desc : BitVec 512)
  | ctxSetFlags (fn : Nat) (desc : BitVec 512)
  | ctxSetWaitWdog (fn : Nat) (desc : BitVec 512)
  | ctxSetQuantum (fn : Nat) (desc : BitVec 512)
  | ctxSetWatchRing (fn : Nat) (desc : BitVec 512)
  | ctxSetSyncMap (fn : Nat) (desc : BitVec 512)
  | ctxSetHeap (fn : Nat) (desc : BitVec 512)
  | ctxSetFaultClear (fn : Nat) (desc : BitVec 512)
  | ctxReset (fn : Nat) (desc : BitVec 512)
  | ctxDestroy (fn : Nat) (desc : BitVec 512)
  | queueCreate (fn : Nat) (desc : BitVec 512)
  | queueDestroy (fn : Nat) (desc : BitVec 512)
  | queueRestart (fn : Nat) (desc : BitVec 512)
  | objAlloc (fn : Nat) (desc : BitVec 512)
  | objFree (fn : Nat) (desc : BitVec 512)
  | mapPages (fn : Nat) (desc : BitVec 512)
  | unmapPages (fn : Nat) (desc : BitVec 512)
  | slotSet (fn : Nat) (desc : BitVec 512)
  | syncAlloc (fn : Nat) (desc : BitVec 512) (barrier : Bool) (value : Word64) (expected : Nat)
  | syncFree (fn : Nat) (desc : BitVec 512) (index : Nat)
  | syncMapSet (fn : Nat) (desc : BitVec 512) (vid : Nat) (entry : BitVec 128)
  | shareExport (fn : Nat) (desc : BitVec 512) (index : Nat) (grants : List Grant)
  | shareUnexport (fn : Nat) (desc : BitVec 512) (handle : Nat)
  | apertureAdd (fn : Nat) (desc : BitVec 512)
  | apertureRemove (fn : Nat) (desc : BitVec 512)
  | reclaim (fn : Nat) (desc : BitVec 512)
  | fnAssign (fn : Nat) (desc : BitVec 512)
  -- queue descriptors (R350) and their engines
  | descNop (ctx queue : Nat) (desc : BitVec 512)
  | descCopy (ctx queue : Nat) (desc : BitVec 512)
  | copySegment
  | descCompute (ctx queue : Nat) (desc : BitVec 512)
  | descFlume (ctx queue : Nat) (desc : BitVec 512)
  | descIntake (ctx queue : Nat) (desc : BitVec 512)
  | descWait (ctx queue : Nat) (desc : BitVec 512)
  | descSignal (ctx queue : Nat) (desc : BitVec 512)
  | descArrive (ctx queue : Nat) (desc : BitVec 512)
  | descSetStep (ctx queue : Nat) (desc : BitVec 512)
  | descriptorCompletion (ctx queue : Nat)
  | slotGrant
  | quantumExpiry (ctx : Nat)
  | slotGiveUp (ctx : Nat)
  | blockStart (tile : Nat)
  -- thread-plane instructions
  | scalarControl (tile slot : Nat) (op : ScalarOp) (word : Word64)
  | immediateLoad (tile slot : Nat) (word imm : Word64)
  | reconverge (tile slot : Nat) (word : Word64)
  | vectorInteger (tile slot : Nat) (op : IntOp) (word : Word64)
  | rdraw (tile slot : Nat) (word : Word64)
  | vectorBinary32 (tile slot : Nat) (op : F32Op) (word : Word64)
  | conversion (tile slot : Nat) (src dst : Fmt) (sr : Bool) (word : Word64)
  | splitConversion (tile slot : Nat) (word : Word64)
  | blockConversion (tile slot : Nat) (dst : BlockFmt) (sr : Bool) (word : Word64)
  | scratchLoad (tile slot : Nat) (m : LaneMem)
  | scratchStore (tile slot : Nat) (m : LaneMem)
  | clusterScratchLoad (tile slot rank : Nat) (m : LaneMem)
  | clusterScratchStore (tile slot rank : Nat) (m : LaneMem)
  | clusterScratchResponse (id : Nat)
  | memoryLoad (tile slot : Nat) (cached : Bool) (m : LaneMem)
  | memoryStore (tile slot : Nat) (m : LaneMem)
  | flagStore (tile slot : Nat) (m : LaneMem)
  | flagStoreSend (id : Nat)
  | memoryLoadReturn (id : Nat)
  | deferredFaultReturn (id : Nat)
  | atomic (tile slot : Nat) (space : AtomSpace) (op : AtomOp) (ty : AtomTy) (m : LaneMem)
  | readOnlyCacheFill (tile line sector : Nat)
  | rowEngine (tile slot : Nat) (op : RowOp) (len src dst : Nat) (word : Word64)
  | tileDmaStart (tile slot : Nat) (d : DmaSpec)
  | tileDmaTestWait (tile slot entry : Nat) (wait : Bool) (word : Word64)
  | tileDmaCompletion (tile entry : Nat)
  | systemInstruction (tile slot : Nat) (op : SysOp) (word : Word64)
  | heapAlloc (tile slot : Nat) (word : Word64)
  | heapFree (tile slot : Nat) (word : Word64)
  | groupRestore (tile : Nat)
  | mload (tile slot : Nat) (word : Word64)
  | mpass (tile slot : Nat) (word : Word64)
  | mdrain (tile slot : Nat) (word : Word64)
  | mzero (tile slot : Nat) (word : Word64)
  | mdiag (tile slot : Nat) (word : Word64)
  | mbread (tile slot : Nat) (word : Word64)
  | mbwrite (tile slot : Nat) (word : Word64)
  | mend (tile slot : Nat) (word : Word64)
  | matrixCommandBegin (tile : Nat)
  | fenceRel (tile slot : Nat) (word : Word64)
  | acquire (tile slot : Nat) (word : Word64)
  | flush (tile slot : Nat) (word : Word64)
  | fenceOrd (tile slot : Nat) (word : Word64)
  | cisternWalkEnd (walk : Nat)
  | storeAcknowledgement (id : Nat)
  | sigSet (tile slot : Nat) (word : Word64)
  | sigAdd (tile slot : Nat) (word : Word64)
  | syncWait (tile slot : Nat) (word : Word64)
  | syncTest (tile slot : Nat) (word : Word64)
  | syncArrive (tile slot : Nat) (word : Word64)
  | signalApply (id : Nat)
  | arrivalApply (id : Nat)
  | waitRegistration (id : Nat)
  | syncWake (id : Nat)
  | waiterPoll (id : Nat)
  | waitWatchdogExamination
  -- memory stacks, cistern, fabric
  | homeAccess (id : Nat)
  | sectorFillCompletion (channel line sector : Nat) (odd many : Bool)
  | writeBackAcknowledgement (channel line : Nat)
  | patrolScrub (channel line sector : Nat) (odd many : Bool)
  | atomicUnitOperation (id : Nat)
  | rowRepair (channel die bank row : Nat)
  | rowRepairSwitch (channel die bank row : Nat)
  | tsvShift (channel signal : Nat)
  | channelReplacement (channel : Nat)
  | jobBoundary
  | cisternLoad (id : Nat)
  | cisternStore (id : Nat)
  | cisternFillCompletion (dev line : Nat) (data : List (Option (List Byte)))
  | cisternEviction (slice set : Nat)
  | remoteAtomicForward (id : Nat)
  | fabricLoad (h : FabHead) (offset len : Nat)
  | fabricStore (h : FabHead) (offset : Nat) (data : List (Option Byte))
  | fabricAtomic (h : FabHead) (offset : Nat) (op : AtomOp) (ty : AtomTy) (a b : Word64)
  | reductionLine (h : FabHead) (offset index line : Nat) (data : List Byte)
  | contributionClose (h : FabHead) (offset index : Nat) (count : Word32)
  | orderedReductionCombine (offset : Nat)
  | multicastStore (h : FabHead) (group offset : Nat) (data : List (Option Byte))
  | fenceSignal (h : FabHead) (ctx handle : Nat) (add arrive : Bool) (value : Word64) (count : Nat)
  | fabricAcknowledgement (dev route seq : Nat) (body : AckBody)
  | fabricRejection (dev route seq : Nat) (why : RejKind)
  | requestResend (dev route seq : Nat)
  | pathTableReweight (delays : List Nat)
  | frameRetry (port attempt : Nat)
  | laneMove (port : Nat) (failed : Bool)
  | fabricPortDown (port : Nat)
  | portTraining (port : Nat) (r : TrainResult)
  | chainLoopbackTraining
  | linkSignalLoss (port : Nat)
  | requestTimeout (dev route seq : Nat)
  | fabricTimeout
  | retainGraceExpiry
  | sluiceSend (i : SluiceId) (timed : Bool) (data : List Byte) (dest : Option (Nat × Nat))
  | itemVisible (i : SluiceId)
  | sluiceRelease (i : SluiceId)
  | eventLineToggle (line : Nat)
  | halnorEventApply
  | resetGroupRequest (g : ResetGroup) (escalate : Bool)
  | resetGroupDrained
  | resetGroupDrainTimeout
  -- timed regions
  | epochStart
  | epochProbe (port : Nat) (jobTick jobWet : Word64) (visible : Word64) (result : ProbeResult)
  | epochOffsetsSet
  | epochCompletionReport (child : Nat)
  | epochTimeout
  | referenceDrift (port : Nat) (latency : Nat) (outbound : Bool)
  | readyMessage (dev : Nat)
  | refusedMessage (dev : Nat)
  | entryTickMessage (tick : Word64)
  | regionEntry
  | flumeEntryFetch (tile : Nat)
  | flumeNop (tile : Nat)
  | flumeMatrix (tile : Nat)
  | flumeRow (tile : Nat) (op : RowOp) (len src dst : Nat)
  | flumeDma (tile : Nat) (d : DmaSpec)
  | flumeSend (tile : Nat)
  | flumeAdmission (tile : Nat)
  | gateBegin (tile : Nat)
  | gateEnd (tile : Nat)
  | flumePhase (tile : Nat)
  | loopBegin (tile : Nat)
  | loopEnd (tile : Nat)
  | flumeSeta (tile : Nat)
  | flumeSignal (tile : Nat)
  | flumeRelease (tile : Nat)
  | releaseSpanEnd (tile : Nat)
  | flumeEnd (tile : Nat)
  | regionEnd
  | regionAbortMessage
  | timedWatchdog
  -- intake, repair, power
  | intakeJobStart (stack : Nat)
  | intakeJobCompletion (stack : Nat)
  | diagnosticsRequest (r : DiagResult)
  | ageingMeasurement (slowdown : List Nat)
  | eyeMonitorSample (port lane : Nat) (sample : EyeSample)
  | phyTrim (rail : Nat) (up : Bool)
  | controlPeriodBoundary (r : Readings)
  | requirementComputation
  | weirContribution (child : Nat) (period : Nat) (ratio : Nat)
  | rootCombineDeadline
  | agreementReceipt (period ratio : Nat)
  | agreementMissing
  | capPersistenceExpiry
  | capStop
  | instructionCacheFill (tile line : Nat)
  | reservedClassInstruction (tile slot : Nat) (word : Word64)
  | spdmAlgorithmNegotiation (offersExtended : Bool)
  deriving DecidableEq, Repr

end Sys2Proof
end

