-- ==== Sys2Proof/Machine/Tabs.lean ====
section
/-! DEFINITION. Sparse tables: read, write, canonical form. Everything numbered (device memory's bytes,
tiles, contexts, queues, ports, registers of a group) is read and written through these. -/

namespace Sys2Proof.Machine

variable {α : Type}

/-- The entry of number `k`; `d` where none is listed. -/
def tabGet (t : Tab α) (d : α) (k : Nat) : α :=
  match t with
  | [] => d
  | (k', v) :: r => if k' = k then v else tabGet r d k

/-- The table without an entry for `k`. -/
def tabErase (t : Tab α) (k : Nat) : Tab α :=
  match t with
  | [] => []
  | (k', v) :: r => if k' = k then tabErase r k else (k', v) :: tabErase r k

/-- The table with `v` at `k`, kept in rising order. -/
def tabPut (t : Tab α) (k : Nat) (v : α) : Tab α :=
  match t with
  | [] => [(k, v)]
  | (k', v') :: r =>
    if k < k' then (k, v) :: (k', v') :: r
    else if k' = k then (k, v) :: r
    else (k', v') :: tabPut r k v

/-- A write keeps the canonical form: writing the default removes the entry. -/
def tabSet [DecidableEq α] (t : Tab α) (d : α) (k : Nat) (v : α) : Tab α :=
  if v = d then tabErase t k else tabPut t k v

/-- The entry of `k` changed by `f`. -/
def tabMod [DecidableEq α] (t : Tab α) (d : α) (k : Nat) (f : α → α) : Tab α :=
  tabSet t d k (f (tabGet t d k))

/-- Numbers strictly rising from `lo`, no entry equal to the default. -/
def tabWfFrom [DecidableEq α] (d : α) (lo : Nat) (t : Tab α) : Bool :=
  match t with
  | [] => true
  | (k, v) :: r => decide (lo ≤ k) && decide (v ≠ d) && tabWfFrom d (k + 1) r

/-- The canonical form (R8's memories are equal exactly when their tables are). -/
def tabWf [DecidableEq α] (d : α) (t : Tab α) : Bool := tabWfFrom d 0 t

/-- The entries whose numbers lie outside [lo, lo + n). -/
def tabCut (t : Tab α) (lo n : Nat) : Tab α :=
  t.filter (fun e => decide (e.1 < lo) || decide (lo + n ≤ e.1))

/-- `n` consecutive entries from `lo`. -/
def tabRange (t : Tab α) (d : α) (lo n : Nat) : List α :=
  (List.range n).map (fun i => tabGet t d (lo + i))

/-- A list written to consecutive numbers. -/
def tabWrite [DecidableEq α] (t : Tab α) (d : α) (lo : Nat) (vs : List α) : Tab α :=
  match vs with
  | [] => t
  | v :: r => tabWrite (tabSet t d lo v) d (lo + 1) r

/-- As `tabWrite`, only where a value is given (a store with a byte mask). -/
def tabWriteMasked [DecidableEq α] (t : Tab α) (d : α) (lo : Nat) (vs : List (Option α)) : Tab α :=
  match vs with
  | [] => t
  | none :: r => tabWriteMasked t d (lo + 1) r
  | some v :: r => tabWriteMasked (tabSet t d lo v) d (lo + 1) r

/-- List entry `i` changed by `f`. -/
def listMod (l : List α) (i : Nat) (f : α → α) : List α :=
  match l, i with
  | [], _ => []
  | x :: r, 0 => f x :: r
  | x :: r, i + 1 => x :: listMod r i f

end Sys2Proof.Machine
end

