-- ==== Sys2Proof/Machine/Bits.lean ====
section
/-! DEFINITION. Bit fields, byte order (R8), saturating counts, and the small list operations the
meanings use. -/

namespace Sys2Proof.Machine

/-- The field of width `w` whose lowest bit is `lo` (R8). -/
def fld (x lo w : Nat) : Nat := x / 2 ^ lo % 2 ^ w

/-- The field [lo + w − 1 : lo] of a bit vector. -/
def bvFld {n : Nat} (x : BitVec n) (lo w : Nat) : Nat := fld x.toNat lo w

/-- One bit. -/
def bit (x i : Nat) : Bool := x.testBit i

def ofBool (b : Bool) : Nat := if b then 1 else 0

/-- Bytes, the lowest address first, as a number (R8: little-endian). -/
def leNat : List Byte → Nat
  | [] => 0
  | b :: r => b.toNat + 256 * leNat r

/-- The `k` low bytes of a number, the lowest address first (R8). -/
def leBytes (k n : Nat) : List Byte :=
  match k with
  | 0 => []
  | k + 1 => BitVec.ofNat 8 n :: leBytes k (n / 256)

/-- `n` bytes of a list from position `lo`; missing bytes read as zero. -/
def sliceAt (l : List Byte) (lo n : Nat) : List Byte :=
  (l.drop lo).take n ++ List.replicate (n - (l.length - lo)) 0

/-- A counter of `w` bits that saturates (R223, R433, R468, R486). -/
def satAdd (w x n : Nat) : Nat := min (2 ^ w - 1) (x + n)

/-- The two's complement value of the `w` low bits. -/
def signed (w x : Nat) : Int :=
  let y := x % 2 ^ w
  if 2 * y < 2 ^ w then (y : Int) else (y : Int) - (2 : Int) ^ w

/-- An integer as a number of `w` bits, wrapping. -/
def unsigned (w : Nat) (x : Int) : Nat := (x % (2 : Int) ^ w).toNat

/-- Round up to a multiple. -/
def roundUp (x m : Nat) : Nat := (x + m - 1) / m * m

/-- The least power of two not below `x`, by fuel. -/
def pow2Up (x : Nat) : Nat → Nat → Nat
  | p, 0 => p
  | p, f + 1 => if x ≤ p then p else pow2Up x (2 * p) f

/-- A power of two, up to 2^64. -/
def isPow2 (x : Nat) : Bool := (List.range 65).any (fun i => x == 2 ^ i)

/-- Keep the elements a predicate rejects. -/
def dropIf {α : Type} (l : List α) (p : α → Bool) : List α := l.filter (fun x => !p x)

/-- Every element that satisfies a predicate changed. -/
def modIf {α : Type} (l : List α) (p : α → Bool) (f : α → α) : List α :=
  l.map (fun x => if p x then f x else x)

/-- An element added if it is not yet in the list. -/
def addNew {α : Type} [DecidableEq α] (l : List α) (x : α) : List α :=
  if l.elem x then l else l ++ [x]

/-- The order of the six low bits reversed (R408). -/
def rev6 (n : Nat) : Nat :=
  32 * (n % 2) + 16 * (n / 2 % 2) + 8 * (n / 4 % 2) + 4 * (n / 8 % 2) + 2 * (n / 16 % 2) + n / 32 % 2

/-- The lowest set bit of a number of `w` bits, if any. -/
def lowBit (x w : Nat) : Option Nat := (List.range w).find? (fun i => x.testBit i)

end Sys2Proof.Machine
end

