-- ==== Sys2Proof/Machine/State.lean ====
section
/-! DEFINITION. The state of the device as plain data: every register, buffer, queue, counter, mode
and pin the spec gives it, the commands waiting, and what has left the device (`sent`). Each field's
docstring names the rule. `State.reset` is the module in AUX right after power-up (R441, R464). -/

namespace Sys2Proof.Machine

/-- The stops that are not a behaviour the spec gives. -/
inductive Fault
  /-- Raised by the tick on an empty queue when the 64-bit tick count would wrap: R6 defines no
  behaviour for it. Safe: the model stops where the device would go on. -/
  | tickWrap
  deriving DecidableEq, Repr

/-- Refusals. -/
inductive Refusal
  /-- A command with no meaning yet. Raised by Dispatch only; safe. -/
  | notModelled (mnemonic : String)
  deriving DecidableEq, Repr

/-! ## What leaves the device -/

/-- The fault codes of R357. -/
inductive Code
  | illegalInstruction | privilegedInstruction | misalignedAccess | scratchBounds | clusterRange
  | matrixDivergence | basinRange | heapFreeInvalid
  | frontCollision | entryCollision | basinHazard | lateAdmission | scheduleConflict
  | scheduleLength | partnerLost | refDrift | timedWatchdog | timedLaunch | sluiceLate
  | sluiceOverrun | linkBudget
  | memUncorrectable | translationFault | fabricAccess | reductionIndex | partitionRevoked
  | fabricTimeout
  | fenceRegression | syncDenied | doubleArrival | ownerLost | waitWatchdog
  | descInvalid | descBounds | queueOverrun | launchRefused | paramMismatch
  | islandUnlocked | capUnattainable | thermalTrip | debugHold
  | intakeUnsupported
  deriving DecidableEq, Repr

/-- Kinds of health-log entry (R43, R193, R210, R244, R249, R385, R419, R421, R424, R425, R462, R391, R395). -/
inductive LogKind
  | sluiceLate | poison | deadDrop | revokedLine | laneMove | suspicion | cap | trip | trim | trimLimit
  | droop | droopTrip | repair | quarantine | unlocked | unrepairable | laneRate | resetFailed | record
  | mismatch | alarm | eye | corrected
  deriving DecidableEq, Repr

structure LogEntry where
  kind : LogKind
  args : List Nat
  tick : Nat
  deriving DecidableEq, Repr

/-- Causes of ALERT_N (R460), in the order of DEV_ALERT's bits (R481). -/
inductive Alert
  | thermal | cap | eol | droop | record | unlocked | debugHold
  deriving DecidableEq, Repr

/-- What a fabric request does at its target (R255). -/
inductive FabOp
  | load (off len : Nat)
  | store (off : Nat) (data : List (Option Byte))
  | atomic (off : Nat) (op : AtomOp) (ty : AtomTy) (lanes : List (Nat × Word64 × Word64))
  | redLine (off idx line : Nat) (data : List Byte)
  | close (off idx : Nat) (count : Word32)
  | multicast (group off : Nat) (data : List (Option Byte))
  | fence (ctx handle : Nat) (add arrive : Bool) (value : Word64) (count : Nat)
  deriving DecidableEq, Repr

/-- A target's answer to a request (R251, R255). -/
inductive FabAns
  | data (bytes : List Byte) | poison | old (vals : List Word64) | ack | reject (why : RejKind)
  | refusedEarly | regression (reason : Nat) (home : Word64) | denied (reason : Nat) | doubleArrival
  deriving DecidableEq, Repr

/-- Everything the device sends to something outside it. -/
inductive Out
  | msix (fn entry : Nat) | bar4Data (bytes : List Byte) | alert (a : Alert) | pldmEvent (a : Alert)
  | request (dev route seq part port plane : Nat) (op : FabOp)
  | answer (dev route seq : Nat) (a : FabAns)
  | timeoutReport (dev route seq port plane : Nat) | epochFailed | epochDone | agreementLost
  | abort (dev : Option Nat) | ready (dev : Nat) | refused (dev : Nat) | entryTick (tick : Word64)
  | probe (port : Nat) (jobTick jobWet : Word64) (ratios : List Nat) | epochReport
  | contribution (period ratio : Nat) | agreement (period ratio : Nat)
  | gaugeBroadcast (tick : Word64)
  | certificate (bytes : List Byte) | signature (bytes : List Byte) | spdmError
  | measurement (index : Nat) (bytes : List Byte) (signed : Bool)
  | session (id : Nat) | heartbeatAck (id : Nat) | algorithms | nonce (n : BitVec 256)
  | sensor (values : List Int) | log (entries : List LogEntry) | bmcValue (value : Word64) | bmcRefused
  | bmcDone | tdo (bits : Word64) | resetFailed (g : ResetGroup) | linkUp | linkDown
  | timedItem (port : Nat) (dev tile off : Nat) (data : List Byte) (stamp : Nat)
  | compressed (mode bytes : Nat)
  deriving DecidableEq, Repr

/-! ## Memory -/

/-- Bytes with an address (R197): `cells` is canonical (rising, no entry equal to the byte its
address otherwise reads as); an unlisted byte inside a `stale` range (from, to, loss number) reads as
a free value, any other as zero. -/
structure Mem where
  cells : Tab Byte
  stale : List (Nat × Nat × Nat)
  deriving DecidableEq, Repr

/-- A line of a memory-side cache slice (R201) or of the cistern (R212): its line number, 128 bytes,
four sector-valid bits, the dirty byte mask, keep; `route` and `dev` are the cistern's (R213). The
order of a set's list is its use order, most recent first. -/
structure Line where
  tag   : Nat
  dev   : Nat
  data  : List Byte
  valid : BitVec 4
  dirty : BitVec 128
  keep  : Bool
  route : Nat
  deriving DecidableEq, Repr

/-- A miss register (R203, R213): line, sectors outstanding, waiting accesses. A cistern line has one for each request that
is out (R228): `discard` is set once an acquire, or an invalidation of the line, has met the fill (R236), `newer` holds the
dirty bytes that have left the line since, which the fill does not replace (R237). -/
structure Miss where
  tag     : Nat
  dev     : Nat
  sectors : BitVec 4
  waiters : List Nat
  discard : Bool
  newer   : List (Option Byte)
  deriving DecidableEq, Repr

/-- A keep sweep (R208): the device tick and the wet tick in which it began, and the sets whose visit has been made, a
memory-side set as 512 · channel + set, a cistern set as 2^20 + its number. -/
structure KeepSweep where
  tick : Nat
  wet  : Nat
  done : List Nat
  deriving DecidableEq, Repr

/-- One channel slice of a memory-side cache (R201 to R210): sets by number, miss registers, requests
waiting at the input, the write-back buffer (oldest first), lines dropped under DEAD_POISON (oldest
first). -/
structure Slice where
  sets : Tab (List Line)
  miss : List Miss
  inq  : List Nat
  wb   : List Line
  dead : List Nat
  deriving DecidableEq, Repr

/-- Counters of a stack or a cistern slice (R223). -/
structure MemCounters where
  keepDemoted  : Nat
  keepPressure : Nat
  deadDrops    : Nat
  ceSectors    : Nat
  ueSectors    : Nat
  poisonReads  : Nat
  waitOverflow : Nat
  deriving DecidableEq, Repr

/-- Where an access goes. -/
inductive Place
  | dram (dpa : Nat)
  | remote (dev off route slot : Nat)
  | host (iova : Nat)
  deriving DecidableEq, Repr

/-- Who an access, a transfer or a signal belongs to. -/
inductive Who
  | group (tile uid : Nat)
  | dma (tile entry : Nat)
  | queue (ctx q : Nat)
  | region (tile : Nat)
  | fabric (src route seq : Nat)
  | device
  deriving DecidableEq, Repr

/-- What an access does to its line. -/
inductive AccOp
  | load
  | store (data : List (Option Byte))
  | atomic (op : AtomOp) (ty : AtomTy) (lanes : List (Nat × Word64 × Word64))
  | redLine (ty op : Nat) (data : List Byte)
  deriving DecidableEq, Repr

/-- How far an access has come: on its way; held by a miss register or queued; sent to its target;
served with its data (or old values); acknowledged; ended by poison or by a rejection. -/
inductive AccStage
  | moving | waiting | forwarded | served (data : List Byte) (old : List Word64) | acked | poisoned
  | rejected
  deriving DecidableEq, Repr

/-- One part of an access: one line's share of one instruction or transfer (R225, R226); a cached load's part that joins
a request already out names it in `join` (R80). -/
structure Access where
  id     : Nat
  issue  : Nat
  who    : Who
  ctx    : Nat
  op     : AccOp
  place  : Place
  va     : Nat
  len    : Nat
  hint   : Nat
  cached : Bool
  flag   : Bool
  join   : Option Nat
  stage  : AccStage
  deriving DecidableEq, Repr

/-- An issued thread-plane load, atomic, cluster load, allocation or signal whose end is still to
come: what R93 needs to name it (`mask` is its path's), the lanes with their addresses and the destination; `data` is what a request to another
tile's scratch brought back, by lane. -/
structure Issue where
  id    : Nat
  tile  : Nat
  slot  : Nat
  uid   : Nat
  ctx   : Nat
  kern  : Nat
  pc    : Word64
  mask  : Word32
  lanes : Word32
  addrs : List Nat
  size  : Nat
  dst   : Nat
  rank  : Option Nat
  ready : Nat
  fault : Option (Code × Nat × Word64 × Nat)
  data  : Option (List (Nat × List Byte))
  deriving DecidableEq, Repr

/-- A cistern walk (R216, R233, R236, R244): what it does, its range as (device, first line, last
line) or everything, who waits, the wet tick by which the slices have examined it (none: not begun). -/
inductive WalkKind
  | flush | acquire | revoke
  deriving DecidableEq, Repr

structure Walk where
  id    : Nat
  kind  : WalkKind
  ranges : Option (List (Nat × Nat × Nat))
  who   : Who
  untilTick : Option Nat
  acks  : List (Nat × Nat × Nat)
  ended : Bool
  deriving DecidableEq, Repr

/-! ## Contexts, queues, objects -/

inductive CtxState
  | free | idle | pending | resident | stopped | destroying
  deriving DecidableEq, Repr

inductive QState
  | absent | running | stopped | destroyed
  deriving DecidableEq, Repr

/-- The fault record of R356; `object`, `value` and `home` are what R316 and R328 add: the object, the value signalled or waited for,
and VALUE at the home. -/
structure FaultRec where
  code     : Code
  detail   : Nat
  deferred : Bool
  tile     : Nat
  slot     : Nat
  queue    : Nat
  where'   : Word64
  lanes    : Word32
  address  : Word64
  device   : Nat
  tick     : Word64
  address2 : Word64
  lanes2   : Word32
  object   : Nat
  value    : Word64
  home     : Word64
  deriving DecidableEq, Repr

/-- A descriptor in progress (R349): what its engine still has to do, or how it ended
(status value, detail, result); an intake job with the bytes of its record (R360). -/
inductive Work
  | copy (moved : Nat) (fault : Option (Code × Nat)) (step seed : Word64)
  | compute (kernel : Nat)
  | region
  | intake (stack : Nat) (record : List Byte)
  | wait (id : Nat)
  | signal (id : Nat)
  | done (status detail : Nat) (result : Nat)
  deriving DecidableEq, Repr

/-- A queue entry (R348). `skip` counts that QUEUE_RESTART asked to complete the descriptor at C as
skipped; `overrun` is the P at which a doorbell overran (R348). -/
structure Queue where
  st    : QState
  kind  : Nat
  log2  : Nat
  ring  : Nat
  wb    : Nat
  msix  : Nat
  p     : Word32
  c     : Word32
  held  : Option (BitVec 512)
  work  : Option Work
  stage : Nat
  failed : Bool
  overrun : Option Word32
  deriving DecidableEq, Repr

inductive MapTarget
  | dram (dpa : Nat) | fabric (slot off : Nat) | host (iova : Nat)
  deriving DecidableEq, Repr

/-- Page-table entries of consecutive pages (R343, R344). -/
structure Mapping where
  va     : Nat
  len    : Nat
  big    : Bool
  target : MapTarget
  obj    : Nat
  read   : Bool
  write  : Bool
  atom   : Bool
  deriving DecidableEq, Repr

/-- A context record (R340), its page tables (R343), heap blocks (R351), and its residency (R342): the device tick since
which it is resident or pending, and the QUANTUM of its slot grant (R346). -/
structure Ctx where
  st        : CtxState
  kind      : Nat
  fn        : Nat
  syncDenyFault  : Bool
  regressionStop : Bool
  pasid     : Nat
  jobSeed   : Word64
  step      : Word64
  syncMap   : Nat
  syncMapSize : Nat
  waitWdog  : Nat
  quantum   : Nat
  saveArea  : Nat
  saveRecords : Nat
  watchSize : Nat
  watchRing : Nat
  watchProduced : Nat
  credential : BitVec 256
  heap      : Nat
  fault     : Option FaultRec
  lastRecorded : Option FaultRec
  secondFaults : Nat
  denied    : Nat
  regressions : Nat
  watchDropped : Nat
  allocFailed : Nat
  queues    : Tab Queue
  slots     : Tab (BitVec 128)
  maps      : List Mapping
  heapBlocks : List (Nat × Nat)
  resident  : Bool
  expired   : Bool
  since     : Nat
  quantumNow : Nat
  deriving DecidableEq, Repr

/-- A memory object (R344, R271): place in device memory, owner, flags, its export to the partition's
aperture (target offset and permissions), the grace period and Halnor's millisecond count at its start. -/
structure Obj where
  num      : Nat
  owner    : Nat
  dpa      : Nat
  size     : Nat
  stackLocal : Option Nat
  retained : Bool
  heap     : Bool
  aperture : Option (Nat × Bool × Bool × Bool)
  orphan   : Bool
  grace    : Bool
  since    : Nat
  credential : BitVec 256
  deriving DecidableEq, Repr

/-- A launched kernel (R352): where its blocks go and how many have ended. -/
structure Kernel where
  id     : Nat
  ctx    : Nat
  queue  : Nat
  entry  : Word64
  args   : Word64
  blocks : Nat
  threads : Nat
  scratch : Nat
  cw     : Nat
  ch     : Nat
  place  : List Nat
  started : Nat
  ended  : Nat
  step   : Word64
  seed   : Word64
  stop   : Bool
  fault  : Option (Code × Nat)
  flush  : Bool
  deriving DecidableEq, Repr

/-! ## The tile -/

inductive Park
  | no | reconverge | matrix
  deriving DecidableEq, Repr

/-- A path (R60): address, lanes, whether and where it is parked. -/
structure Path where
  pc   : Word64
  mask : Word32
  park : Park
  deriving DecidableEq, Repr

/-- What a group waits for besides its registers (R56, R59, R232, R324). `wait` holds the
registration's number, `fence` a release fence, `walks` cistern walks, `loads` earlier loads only (ACQUIRE,
R232), `send` a signal to be sent once earlier accesses are complete, `dma` a transfer. -/
inductive Hold
  | none
  | wait (id : Nat) (dst : Nat) (faultOnLost : Bool)
  | fence
  | loads
  | walk (id : Nat)
  | send (id : Nat)
  | dma (entry : Nat)
  | icache (line : Nat)
  deriving DecidableEq, Repr

/-- A group of 32 threads (R52, R53, R60): key 32·r + lane of v(r); s; p; paths; the path whose turn
it is (by its lowest lane) and its issues in this turn (R61); the wet tick at which a register (128 + n
for s(n)) is ready; what it waits for and
Halnor's millisecond count when that began (R328). -/
structure Group where
  uid    : Nat
  kern   : Nat
  block  : Nat
  ctx    : Nat
  v      : Tab Word32
  s      : Tab Word64
  p      : Tab Word32
  paths  : List Path
  turn   : Nat
  issued : Nat
  ready  : Tab Nat
  hold   : Hold
  since  : Nat
  readyAt : Nat
  stopped : Bool
  deriving DecidableEq, Repr

/-- A block on a tile (R53, R55, R70): kernel, index, cluster rank and rectangle origin, scratch
window, live groups, completion counters (R85). -/
structure Block where
  kern   : Nat
  index  : Nat
  rank   : Nat
  origin : Nat
  base   : Nat
  size   : Nat
  groups : Nat
  counters : Tab Nat
  deriving DecidableEq, Repr

/-- A queued matrix command (R105): its word and source values, its issue tick, the lanes live at its
issue, the data of an MBWRITE, and the job seed and step of stochastic drains (R150). -/
structure MCmd where
  op    : Nat
  word  : Word64
  a     : Word64
  b     : Word64
  c     : Word64
  tick  : Nat
  live  : Word32
  slot  : Nat
  uid   : Nat
  base  : Nat
  data  : List Word32
  seed  : Word64
  step  : Word64
  deriving DecidableEq, Repr

/-- A stationary block (R95, R107, R111): its number, its front's start, where port B reads it and how many columns it has
read, mode and format, codes by 256·i + j, ZF4 scales by column·2 + half. -/
structure Front where
  num    : Nat
  start  : Nat
  base   : Nat
  trans  : Bool
  read   : Nat
  mode   : Nat
  fmt    : Nat
  codes  : Tab Nat
  scales : Tab Nat
  deriving DecidableEq, Repr

/-- A streaming row in the array (R95, R96): its number, whether its lane lives, its elements and scales, and how many of
its columns have reached the basin. -/
structure RowIn where
  row    : Nat
  live   : Bool
  codes  : List Nat
  scales : List Nat
  done   : Nat
  deriving DecidableEq, Repr

/-- A pass that has begun (R95 to R100): first entry tick, rows, first basin row and row width, the grid, its block, the
streaming operand, the rows that have entered and those whose results are not all in the basin yet. -/
structure Pass where
  start : Nat
  rows  : Nat
  first : Nat
  width : Nat
  kst   : Nat
  nst   : Nat
  num   : Nat
  fmt   : Nat
  base  : Nat
  trans : Bool
  acc   : Bool
  capture : Bool
  scaleExp : Int
  live  : Word32
  entered : Nat
  flight : List RowIn
  deriving DecidableEq, Repr

/-- An MDRAIN or MDIAG that has begun (R120, R123): the command, the block's mode and format, its next row and the tick of
it; of a flume program, the address of its entry. -/
structure Sweep where
  cmd   : MCmd
  mode  : Nat
  fmt   : Nat
  next  : Nat
  due   : Nat
  place : Option Nat
  deriving DecidableEq, Repr

/-- The matrix array (R94 to R125, R510): basin words; the blocks that passes still use, the current one last; the current
block's mode and format, the capture buffer, the command queue, the holder; the last front's start and format; pass times;
passes, drains and diagonal runs in progress; a basin hazard met, as its tick and entry (R123). -/
structure MArray where
  basin  : Tab Word32
  blocks : List Front
  mode   : Nat
  fmt    : Nat
  capture : Option (Nat × Tab Nat)
  cmds   : List MCmd
  holder : Option Nat
  loaded : Bool
  front  : Option (Nat × Nat)
  lastEntry : Option Nat
  lastUpdate : Option Nat
  passes : List Pass
  sweeps : List Sweep
  hazard : Option (Nat × Nat)
  diag   : Bool
  deriving DecidableEq, Repr

/-- A tile DMA transfer in progress (R84): its specification, owner, completion slot of a flume program, its
window, the path mask of the instruction that started it, the number its accesses carry, the wet tick by which its bytes have
passed the DMA ports, and the code and address at which it stops (R85). -/
structure Dma where
  spec  : DmaSpec
  ctx   : Nat
  slot  : Nat
  kern  : Nat
  block : Nat
  flume : Option Nat
  base  : Nat
  pc    : Word64
  mask  : Word32
  issue : Nat
  due   : Nat
  fault : Option (Code × Nat)
  deriving DecidableEq, Repr

/-- A line of the read-only cache (R77): virtual line number, sector valid bits, data. -/
structure RoLine where
  vline : Nat
  valid : BitVec 4
  data  : List Byte
  deriving DecidableEq, Repr

/-- A miss register of the read-only cache (R80): line, sectors outstanding, the request that fetches each, waiters with
the sectors each needs. -/
structure RoMiss where
  vline   : Nat
  sectors : BitVec 4
  reqs    : List (Nat × Nat)
  waiters : List (Nat × BitVec 4)
  deriving DecidableEq, Repr

/-- What a tile held when the flume program's present tick began, and what that tick has started since: DMA entries,
items by sluice, signals. A precise fault of the tick takes all of it back (R114). -/
structure TickStart where
  scratch : Tab Byte
  array   : MArray
  rowBusy : Nat
  rowOut  : List (Nat × Nat × Nat)
  dmaIn   : Nat
  dmaOut  : Nat
  dmas    : List Nat
  sends   : List SluiceId
  signals : List Nat
  deriving DecidableEq, Repr

/-- The flume sequencer of a tile (R286 to R293): program address and region window, fetched entries
with their positions, the fetch unit's position, loop stack and the wet tick from which it may fetch, a0–a15, g0–g3, the loop stack, open
gated phases (true: closed), completion slots (1 in progress, 2 complete), released resources with the
tick each span ends, ticks and units used, the present tick's start. -/
structure Flume where
  active  : Bool
  prog    : Nat
  base    : Nat
  size    : Nat
  buf     : List (Nat × BitVec 256)
  fetchAt : Nat
  fetchLoops : List (Nat × Nat)
  fetched : Nat
  fetchFrom : Nat
  fetchEnd : Bool
  a       : Tab Word64
  g       : Tab Word64
  loops   : List (Nat × Nat)
  gates   : List Bool
  slots   : Tab Nat
  released : List (Nat × Nat)
  lastTick : Nat
  inTick  : Nat
  units   : List Nat
  loaded  : Bool
  rowBusy : Nat
  before  : Option TickStart
  ended   : Bool
  stopped : Bool
  deriving DecidableEq, Repr

/-- A tile (R21, R52): its context, blocks, waiting blocks, groups, the wet tick from which a slot whose group is being
saved is free (R59), descheduled groups, the slot that issued last and the first wet tick in which the next instruction may
issue (R52, R57), scratch and its thread port, the row engine with the results it has still to deliver, as (first operand
address, end, wet tick of first use) (R81), array, DMA engine with the wet ticks to which its two directions are taken (R84), caches and flume sequencer. -/
structure Tile where
  ctx     : Option Nat
  blocks  : List Block
  waiting : List (Nat × Nat)
  groups  : Tab (Option Group)
  freeAt  : Tab Nat
  saved   : List Group
  lastSlot : Nat
  issueAt : Nat
  scratch : Tab Byte
  portBusy : Nat
  rowBusy : Nat
  rowOut  : List (Nat × Nat × Nat)
  array   : MArray
  dma     : Tab (Option Dma)
  dmaIn   : Nat
  dmaOut  : Nat
  ro      : Tab (List RoLine)
  roMiss  : List RoMiss
  icache  : Tab (List Nat)
  flume   : Flume
  deriving DecidableEq, Repr

/-! ## Sluices and Halnor events -/

/-- What an item does where it is released: bytes for its receiver; a flume send's bytes for an offset in the region
window of a tile, on this device or through a port (R289); an access on its way to its home or cistern slice; stores of a
group (by its tile and number), a load or an atomic for the scratch of another tile of the cluster (R72, R73), an
atomic's lanes as (lane, address, operands). -/
inductive Payload
  | bytes (data : List Byte)
  | scratch (tile off : Nat) (data : List Byte)
  | forward (port dev tile off : Nat) (data : List Byte)
  | request (id : Nat)
  | cells (src uid tile : Nat) (writes : List (Nat × List Byte))
  | clusterLoad (id : Nat)
  | clusterAtomic (id : Nat) (op : AtomOp) (ty : AtomTy) (lanes : List (Nat × Nat × Word64 × Word64))
  deriving DecidableEq, Repr

/-- An item in a sluice (R32, R33): the low 16 bits of the sender's wet-tick count, whether it belongs
to a timed region, the release delay, the wet tick in which its pointer update reaches the receive half (R36), whether
it is visible, what it carries. -/
structure Item where
  stamp   : BitVec 16
  timed   : Bool
  delay   : Nat
  arrive  : Nat
  visible : Bool
  what    : Payload
  deriving DecidableEq, Repr

/-- A sluice (R32): write and read pointers in Gray code, the write pointer as the receive half has seen it, the device
ticks in which the send half sees the entries freed last (`Sluice.seenR` is the read pointer it has seen), the items, oldest
first, and the items of senders that wait for credit (R44). -/
structure Sluice where
  wptr : BitVec 16
  rptr : BitVec 16
  seenW : BitVec 16
  back  : List Nat
  items : List Item
  waiting : List Payload
  deriving DecidableEq, Repr

/-- An event line (R41): the sender's level, the level last seen, the tick of the last toggle, the pulses
so far. -/
structure EventLine where
  level : Bool
  seen  : Bool
  last  : Nat
  pulses : Nat
  deriving DecidableEq, Repr

/-- A Halnor event with its effective device tick (R42). -/
inductive HalnorEvent
  | ratio (period k : Nat) (tick : Nat)
  deriving DecidableEq, Repr

inductive GroupState
  | running | quiescing (since : Nat) (escalate : Bool)
  deriving DecidableEq, Repr

/-! ## Synchronisation -/

/-- A sync object (R312): kind 0 free, 1 fence, 2 barrier. -/
structure SyncObj where
  value    : Word64
  kind     : Nat
  poisoned : Bool
  exported : Bool
  owner    : Nat
  expected : Nat
  countOpen : Nat
  countHeld : Nat
  waiters  : Nat
  deriving DecidableEq, Repr

/-- A share-table entry (R329): the object it names while in use, the permitted list, the tag. -/
structure Share where
  obj    : Option Nat
  grants : List Grant
  tag    : Nat
  deriving DecidableEq, Repr

inductive SyncKind
  | set | add | arrive
  deriving DecidableEq, Repr

/-- A signal or arrival on its way to its home (R316, R318): `sent` false while R324 holds it at its
group. Its target is a local object, an import's handle, or another device. -/
structure SyncOp where
  id     : Nat
  kind   : SyncKind
  who    : Who
  slot   : Nat
  ctx    : Nat
  index  : Nat
  handle : Option Nat
  remote : Option (Nat × Nat)
  vid    : Nat
  value  : Word64
  count  : Nat
  pc     : Word64
  lanes  : Word32
  kern   : Nat
  sent   : Bool
  applied : Bool
  deriving DecidableEq, Repr

/-- A wait (R321): registered in the home's pool, polling, satisfied or owner-lost with its wake under
way; `since` is Halnor's millisecond count at its start (R328). -/
inductive WaitState
  | moving | pooled | polling | wake (status : Nat)
  deriving DecidableEq, Repr

structure Wait where
  id     : Nat
  who    : Who
  ctx    : Nat
  index  : Nat
  handle : Option Nat
  vid    : Nat
  target : Word64
  state  : WaitState
  since  : Nat
  deriving DecidableEq, Repr

/-- Sync counters of a stack home (R334). -/
structure SyncCounters where
  signals : Nat
  regressions : Nat
  deniedIn : Nat
  doubleArrivals : Nat
  waiterOverflow : Nat
  waitersHigh : Nat
  deriving DecidableEq, Repr

structure Sync where
  objs   : Tab SyncObj
  shares : Tab Share
  ops    : List SyncOp
  waits  : List Wait
  counters : Tab SyncCounters
  enable : Bool
  active : Bool
  base   : Nat
  baseActive : Nat
  deriving DecidableEq, Repr

/-! ## Fabric, links, regions -/

/-- A port (R247, R249, R285, R309, R486): fabric ports 0 to 15, upstream 16, downstream 17. -/
structure Port where
  up       : Bool
  inPath   : Bool
  spare    : Bool
  trainFailed : Bool
  peerId   : Nat
  peerRef  : Nat
  floor    : Nat
  cls      : Nat
  vis      : Nat
  held     : Bool
  unfit    : Bool
  refOk    : Bool
  fitMaxOut : Nat
  fitMaxIn : Nat
  loopback : Bool
  enable   : Bool
  compress : Bool
  broken   : Bool
  frameRetries : Nat
  ceFrames : Nat
  downEvents : Nat
  laneMoves : Nat
  resends  : Nat
  deriving DecidableEq, Repr

/-- A request the device keeps until it is acknowledged (R258); `left` once it has left the device, at the device tick
`sentAt` (R269). -/
structure OutReq where
  dev    : Nat
  route  : Nat
  seq    : Nat
  op     : FabOp
  access : Option Nat
  sync   : Option Nat
  ctx    : Nat
  left   : Bool
  reported : Bool
  port   : Nat
  plane  : Nat
  sentAt : Nat
  deriving DecidableEq, Repr

/-- A request that arrived ahead of its turn (R258). -/
structure Early where
  head : FabHead
  op   : FabOp
  deriving DecidableEq, Repr

structure Fabric where
  deviceId  : Nat
  domainSlot : Nat
  valid     : Bool
  partition : Nat
  partValid : Bool
  members   : List Nat
  domain    : List Nat
  fmKey     : Option (BitVec 256)
  lastIssue : Word64
  rejected  : Nat
  reqTimeout : Nat
  retainGrace : Nat
  pathAdapt : Bool
  ports     : Tab Port
  path      : Tab (Nat × Nat)
  outSeq    : Tab Nat
  inSeq     : Tab Nat
  out       : List OutReq
  early     : List Early
  groups    : Tab (List Nat)
  reports   : List (Nat × Nat)
  revoked   : List Nat
  deriving DecidableEq, Repr

inductive RegionStage
  | launching | ready | entry (tick : Word64) | running
  deriving DecidableEq, Repr

/-- A timed region on this device (R287, R300 to R304): `entryWet` in job wet ticks, `idle` the wet tick of the last
progress (R304), the context's STEP and JOB_SEED at its start (R350). -/
structure Region where
  id      : Word64
  ctx     : Nat
  queue   : Nat
  logical : Nat
  devices : Nat
  marker  : Nat
  length  : Nat
  phaseSet : Nat
  portClass : List Nat
  portPeer : List Nat
  map     : List Nat
  tiles   : List Nat
  stage   : RegionStage
  entryWet : Nat
  idle    : Nat
  marks   : List (Nat × Word64)
  step    : Word64
  seed    : Word64
  deriving DecidableEq, Repr

/-- Timed-region settings and the epoch (R294, R295, R307, R308): `children` as (port, device), the largest latencies
of the parent's probes as signed counts, the ratios that the parent passed with them (R412), the devices that have reported, the READY messages the root holds (R300). -/
structure Timed where
  wdogExp   : Nat
  refDomain : Nat
  valid     : Bool
  formedAt  : Nat
  root      : Bool
  parent    : Nat
  refDrift  : Bool
  offset    : Word64
  wetOffset : Word64
  children  : List (Nat × Nat)
  probes    : Nat
  largestIn : Int
  largestOut : Int
  dryDiff   : Word64
  passed    : List Nat
  offsetsSet : Bool
  reported  : List Nat
  started   : Bool
  readies   : List Nat
  region    : Option Region
  deriving DecidableEq, Repr

/-! ## Power -/

/-- What Halnor has learned of one phase (R416), the last 8 regions' values first: start and length in wet
ticks, P_CW and M-group power in watts as binary32. -/
structure Phase where
  id     : Nat
  starts : List Nat
  lens   : List Nat
  pcw    : List Word32
  pm     : List Word32
  deriving DecidableEq, Repr

structure Power where
  enable  : Bool
  guard   : Nat
  minRatio : Nat
  predict : Bool
  hostCap : Nat
  mgmtCap : Nat
  effective : Nat
  capRejected : Bool
  applied : Nat
  own     : Nat
  thermal : Nat
  agreed  : Bool
  unatt   : Bool
  unattSeen : Bool
  predicted : Bool
  junctionMax : Nat
  stackMax : Nat
  bands   : List Nat
  volts   : List Nat
  tripped : Bool
  hot      : List (Nat × Nat)
  tripping : Option (Nat × Nat)
  cool    : Bool
  coolCount : Nat
  period  : Nat
  readings : Readings
  measuredK : Nat
  contributions : Tab Nat
  agreements : Tab (Option Nat)
  lastAgreed : Nat
  beyond  : Nat
  waitBoundary : Bool
  stepSeen : Bool
  waitSince : Nat
  stopped : Bool
  dryTicks : Nat
  lateContrib : Nat
  agreementLost : Nat
  capUnattEvents : Nat
  throttlePeriods : Nat
  droopEvents : Nat
  phyTrims : Nat
  phasesUnlearned : Nat
  trims   : Tab Int
  trimAt  : Tab Nat
  phaseSets : List (Nat × List Phase)
  deriving DecidableEq, Repr

/-! ## Security, firmware, gauge, Halnor -/

/-- The vendor section of the part record as the boot ROM finds it (R438, R439, R441); `channels` is its spare map: the
physical channel of its stack that a logical channel is bound to, where it is not the one of its own number (R190); `repairs` are
the row and TSV repairs and spare lanes made at test, `exponent` the n of each die in thousandths (R439). -/
structure PartRecord where
  sigOk     : Bool
  moduleKeyOk : Bool
  baseKeysOk : List Bool
  variant   : Nat
  lifecycle : Nat
  params    : List Nat
  svnFloor  : Nat
  serial    : BitVec 128
  retired   : List (Nat × Nat × Nat)
  margin    : Nat
  exponent  : List Nat
  channels  : Tab Nat
  repairs   : List (Nat × Nat × Nat × Nat × Nat)
  deriving DecidableEq, Repr

/-- An in-service bank (R440). -/
structure Bank where
  valid   : Bool
  seq     : Nat
  repairs : List (Nat × Nat × Nat × Nat × Nat)
  floor   : Nat
  quarantines : List Nat
  droops  : List Nat
  ageing  : List (List Nat)
  marker  : Bool
  deriving DecidableEq, Repr

inductive PState
  | off | aux | ready | run | hold
  deriving DecidableEq, Repr

/-- The module's pins, rails and lifecycle (R434 to R437, R490 to R503). -/
structure Module where
  state    : PState
  blades   : Bool
  standby  : Bool
  pwrEn    : Bool
  pg       : Bool
  perstN   : Bool
  hostUp   : Bool
  mated    : Bool
  tickref  : Bool
  locked   : Bool
  comparator : Bool
  chainActive : Bool
  alertN   : Bool
  memTrained : Bool
  computeHeld : Bool
  tapIr    : JtagOp
  prov     : List Bool
  ret      : List Bool
  record   : PartRecord
  bankA    : Bank
  bankB    : Bank
  deriving DecidableEq, Repr

/-- Security, firmware and sessions (R441 to R468); `levelNext` is a debug level that waits for the HOLD
its change forces (R450). -/
structure Sec where
  recordOk  : Bool
  identity  : List Bool
  inserviceLost : Bool
  debugSession : Bool
  maxLevel  : Nat
  level     : Nat
  levelReq  : Nat
  levelNext : Option Nat
  levelDenied : Bool
  tokenRefused : Nat
  remaining : Nat
  nonce     : Option (BitVec 256)
  nonceAt   : Nat
  tokenDigest : Nat
  computeEnable : Bool
  fwState   : Nat
  fwError   : Nat
  fwAttempts : Nat
  fwSvn     : Nat
  fwLength  : Nat
  fwWindow  : Tab Byte
  verifying : Option FwImage
  running   : Option FwImage
  algorithms : Bool
  sessions  : List Nat
  deriving DecidableEq, Repr

/-- A pending gauge (R456, R457): effective device tick, source mask, LATE,
whether the device then enters HOLD for a level change (R450). -/
structure PendingGauge where
  tick : Nat
  mask : Nat
  late : Bool
  hold : Bool
  deriving DecidableEq, Repr

/-- The lower half of a spanning field, held until its upper half arrives (R470). -/
structure HeldWrite where
  fn     : Nat
  offset : Nat
  size   : Nat
  value  : Word64
  deriving DecidableEq, Repr

/-- A sector that the memory's code found in error (R191, R400): its number (address div 32), Halnor's millisecond count, and
whether it was uncorrectable. -/
structure MemError where
  sector : Nat
  ms     : Nat
  lost   : Bool
  deriving DecidableEq, Repr

/-- Halnor's own state: the health log, events, deferred work, alerts, addresses, seepage settings and counters, ageing, and the
memory errors of R400, which start afresh at every power-up (R405). -/
structure Halnor where
  log      : List LogEntry
  events   : List HalnorEvent
  reloading : Bool
  reloadImg : Option FwImage
  deferred : List Instr
  half     : List HeldWrite
  alerts   : List Alert
  devAlert : BitVec 7
  smbus    : BitVec 7
  eid      : BitVec 8
  ms       : Nat
  resetBusy : Bool
  layoutConflict : Bool
  seepLevel : Nat
  nSteps   : Nat
  pondW    : Nat
  seepUnits : Nat
  seepSkipped : Nat
  seepSuspicions : Nat
  seepAlarms : Nat
  slowdown : List Nat
  eolDate  : Nat
  eolMonitor : Nat
  eolHold  : Bool
  eyes     : Tab Nat
  needRecovery : Bool
  memErrors : List MemError
  bankAt   : Option Nat
  resets   : List (ResetGroup × GroupState)
  deriving DecidableEq, Repr

/-- Spares used and repairs in progress (R190, R217 to R219, R400, R50); channels that wait for a job boundary, ports whose
lane move waits for a region's end. -/
structure Repair where
  retired  : List (Nat × Nat × Nat)
  toRetire : List (Nat × Nat × Nat)
  rows     : List (Nat × Nat × Nat × Nat)
  rowsDone : Tab Nat
  tsvs     : Tab Nat
  channels : Tab Nat
  bound    : Tab Nat
  failed   : List Nat
  waiting  : List Nat
  laneWait : List Nat
  unrecorded : List (Nat × Nat × Nat × Nat × Nat)
  deriving DecidableEq, Repr

/-- A headworks (R359, R376, R377): the job in progress as (context, queue), the queue
last served, enable, counters. -/
structure Headworks where
  enable  : Bool
  job     : Option (Nat × Nat)
  lastServed : Nat
  grainSeen : Bool
  jobs    : Nat
  pictures : Nat
  concealed : Nat
  propagated : Nat
  missing : Nat
  discont : Nat
  skipped : Nat
  unsupported : Nat
  deriving DecidableEq, Repr

/-- A gauge record (R458): the header, and what its sections show: of each tile its physical number, the context whose blocks or
region it held and all it holds; sluices; stacks with their counters, repairs in progress and headworks; ports with sequence
numbers and requests kept; the cistern's misses and walks; Halnor's power and thermal state and its last 64 log entries. -/
structure GaugeRec where
  seq   : Nat
  mask  : Nat
  jobTick : Word64
  tick  : Word64
  wet   : Word64
  offset : Word64
  device : Nat
  part  : Nat
  region : Word64
  lifecycle : Nat
  level : Nat
  late  : Bool
  imm   : Bool
  absent : Bool
  tiles : List (Nat × Option Nat × Tile)
  sluices : List (SluiceId × Sluice)
  slices : Tab Slice
  counters : Tab MemCounters
  rows  : List (Nat × Nat × Nat × Nat)
  hdwk  : Tab Headworks
  ports : Tab Port
  outSeq : Tab Nat
  inSeq : Tab Nat
  unacked : List OutReq
  cisMiss : List Miss
  walks : List Walk
  power : Power
  logs  : List LogEntry
  deriving DecidableEq, Repr

structure Gauge where
  enable : Bool
  sources : BitVec 5
  scope  : Bool
  holdAfter : Bool
  keepUnread : Bool
  atTick : Word64
  base   : Nat
  baseActive : Nat
  lastSlot : Nat
  unread : BitVec 8
  late   : Bool
  dropped : Nat
  pending : List PendingGauge
  slots  : Tab (Option GaugeRec)
  nextSlot : Nat
  seqNo  : Nat
  expSlot : Nat
  expCtx : Nat
  expObj : Nat
  expDone : Bool
  expDenied : Bool
  recording : Bool
  deriving DecidableEq, Repr

/-- An MSI-X table entry (R349, R487). -/
structure Vector where
  addr    : Word64
  data    : Word32
  masked  : Bool
  pending : Bool
  deriving DecidableEq, Repr

/-- A PCIe function (R339, R345, R470, R487, R488). -/
structure Fn where
  enabled : Bool
  adminBase : Word64
  log2    : Nat
  enable  : Bool
  stopped : Bool
  p       : Word32
  c       : Word32
  discarded : Nat
  bar0Bad : Nat
  pendingFaults : List Nat
  vectors : Tab Vector
  funcMask : Bool
  msixEnable : Bool
  ctxs    : List Nat
  deriving DecidableEq, Repr

/-- The state of the device. -/
structure State where
  /-- The commands waiting, first in first out. -/
  pending : List Instr
  /-- Device tick count and wet-tick count (R30, R31). -/
  tick    : Word64
  wet     : Word64
  /-- What the device has sent, latest first. -/
  sent    : List Out
  /-- The number of the next free value, and of the next access, issue, wait, walk, kernel. -/
  freeCtr : Nat
  nextId  : Nat
  mod     : Module
  sec     : Sec
  /-- Device memory as DRAM holds it, and poisoned sectors by address div 32 (R192, R197). -/
  dram    : Mem
  losses  : Nat
  poison  : List Nat
  hostMem : Tab Byte
  slices  : Tab Slice
  memCounters : Tab MemCounters
  cistern : Tab (List Line)
  cisMiss : List Miss
  /-- Accesses that wait at the cistern's input (R213), and lines it dropped under DEAD_POISON as (device, line), oldest
  first (R215). -/
  cisInq  : List Nat
  cisDead : List (Nat × Nat)
  cisCounters : Tab MemCounters
  /-- Admin commands that wait: for a revocation's walk (R244), for accesses in progress (R345, UNMAP), or behind one of their
  ring that waits; oldest first. -/
  adminHeld : List Instr
  flights : List Access
  issues  : List Issue
  walks   : List Walk
  /-- MEM_LAYOUT and CACHE_CTL (R221, R222). -/
  stackLocal  : Nat
  localActive : Nat
  layoutRejected : Bool
  keepCap : Nat
  deadPoison : Bool
  capClamped : Bool
  keepSweep : Option KeepSweep
  ctxs    : Tab Ctx
  objs    : List Obj
  kernels : List Kernel
  pendingOrder : List Nat
  ctxEnable : Bool
  ctxActive : Bool
  ctxBase : Nat
  ctxBaseActive : Nat
  bar4Base : Nat
  bar4Blocked : Nat
  fns     : Tab Fn
  nVf     : Nat
  /-- R336, R343: translations cached as (PASID, 4 KiB page), and the host ranges invalidated since as
  (PASID, IOVA, length). -/
  ats     : List (Nat × Nat)
  invalid : List (Nat × Nat × Nat)
  copyNext : Nat
  tiles   : Tab Tile
  sluices : List (SluiceId × Sluice)
  lines   : Tab EventLine
  sync    : Sync
  fab     : Fabric
  timed   : Timed
  power   : Power
  gauge   : Gauge
  hal     : Halnor
  repair  : Repair
  hdwk    : Tab Headworks
  deriving DecidableEq, Repr

/-! ## Reset -/

/-- R223: counters at zero. -/
def MemCounters.zero : MemCounters := ⟨0, 0, 0, 0, 0, 0, 0⟩
def SyncCounters.zero : SyncCounters := ⟨0, 0, 0, 0, 0, 0⟩
def SyncObj.free : SyncObj := ⟨0, 0, false, false, 0, 0, 0, 0, 0⟩
def Share.free : Share := ⟨none, [], 0⟩
def Slice.empty : Slice := ⟨[], [], [], [], []⟩
def Sluice.empty : Sluice := ⟨0, 0, 0, [], [], []⟩
def EventLine.idle : EventLine := ⟨false, false, 0, 0⟩
def Queue.absent : Queue := ⟨.absent, 0, 4, 0, 0, 0, 0, 0, none, none, 0, false, none⟩

/-- A free context record: WAIT_WDOG 10 s, QUANTUM 40 (R340). -/
def Ctx.free : Ctx :=
  { st := .free, kind := 0, fn := 0, syncDenyFault := false, regressionStop := false, pasid := 0,
    jobSeed := 0, step := 0, syncMap := 0, syncMapSize := 0, waitWdog := 10, quantum := 40,
    saveArea := 0, saveRecords := 0, watchSize := 0, watchRing := 0, watchProduced := 0,
    credential := 0, heap := 0, fault := none, lastRecorded := none, secondFaults := 0, denied := 0,
    regressions := 0, watchDropped := 0, allocFailed := 0, queues := [], slots := [], maps := [],
    heapBlocks := [], resident := false, expired := false, since := 0, quantumNow := 40 }

/-- R510: the zero block in multiply-add mode with format ZF8a. -/
def MArray.reset : MArray :=
  { basin := [], blocks := [], mode := 0, fmt := 2, capture := none, cmds := [],
    holder := none, loaded := false, front := none, lastEntry := none,
    lastUpdate := none, passes := [], sweeps := [], hazard := none, diag := false }

def Flume.idle : Flume :=
  { active := false, prog := 0, base := 0, size := 0, buf := [], fetchAt := 0, fetchLoops := [],
    fetched := 0, fetchFrom := 0, fetchEnd := false, a := [], g := [], loops := [], gates := [], slots := [],
    released := [], lastTick := 0, inTick := 0, units := [], loaded := false, rowBusy := 0,
    before := none, ended := false, stopped := false }

def Tile.reset : Tile :=
  { ctx := none, blocks := [], waiting := [], groups := [], freeAt := [], saved := [], lastSlot := 15,
    issueAt := 0, scratch := [], portBusy := 0, rowBusy := 0, rowOut := [], array := MArray.reset, dma := [],
    dmaIn := 0, dmaOut := 0, ro := [],
    roMiss := [], icache := [], flume := Flume.idle }

/-- R283, R285, R309, R486: COMPRESS_ALLOW is 1, everything else 0. -/
def Port.reset : Port :=
  { up := false, inPath := false, spare := false, trainFailed := false, peerId := 0, peerRef := 0,
    floor := 0, cls := 0, vis := 0, held := false, unfit := false, refOk := false, fitMaxOut := 0,
    fitMaxIn := 0, loopback := false, enable := false, compress := true, broken := false,
    frameRetries := 0, ceFrames := 0, downEvents := 0, laneMoves := 0, resends := 0 }

def Fabric.reset : Fabric :=
  { deviceId := 0, domainSlot := 0, valid := false, partition := 0, partValid := false,
    members := [], domain := [], fmKey := none, lastIssue := 0, rejected := 0, reqTimeout := 0x32,
    retainGrace := 0x78, pathAdapt := true, ports := [], path := [], outSeq := [], inSeq := [],
    out := [], early := [], groups := [], reports := [], revoked := [] }

def Timed.reset : Timed :=
  { wdogExp := 0x14, refDomain := 0, valid := false, formedAt := 0, root := false, parent := 0, refDrift := false,
    offset := 0, wetOffset := 0, children := [], probes := 0, largestIn := 0, largestOut := 0,
    dryDiff := 0, passed := [], offsetsSet := false, reported := [], started := false, readies := [], region := none }

def Sync.reset : Sync :=
  { objs := [], shares := [], ops := [], waits := [], counters := [], enable := false,
    active := false, base := 0, baseActive := 0 }

def Readings.none : Readings := ⟨0, 0, 0, 0, [], []⟩

/-- R429 to R433. -/
def Power.reset : Power :=
  { enable := true, guard := 4, minRatio := 0, predict := true, hostCap := 2800, mgmtCap := 2800,
    effective := 2800, capRejected := false, applied := 0, own := 0, thermal := 0, agreed := false,
    unatt := false, unattSeen := false, predicted := false, junctionMax := 0, stackMax := 0,
    bands := [0, 0, 0, 0], volts := [0, 0, 0, 0], tripped := false, hot := [], tripping := none, cool := true,
    coolCount := 0, period := 0, readings := Readings.none, measuredK := 0, contributions := [],
    agreements := [], lastAgreed := 0, beyond := 0, waitBoundary := false, stepSeen := false, waitSince := 0, stopped := false,
    dryTicks := 0, lateContrib := 0, agreementLost := 0, capUnattEvents := 0, throttlePeriods := 0,
    droopEvents := 0, phyTrims := 0, phasesUnlearned := 0, trims := [], trimAt := [], phaseSets := [] }

/-- R467: SOURCES is 0b00010, SCOPE and ENABLE 1. -/
def Gauge.reset : Gauge :=
  { enable := true, sources := 2, scope := true, holdAfter := false, keepUnread := false,
    atTick := 0, base := 0, baseActive := 0, lastSlot := 0, unread := 0, late := false, dropped := 0,
    pending := [], slots := [], nextSlot := 0, seqNo := 0, expSlot := 0, expCtx := 0, expObj := 0,
    expDone := false, expDenied := false, recording := true }

def Bank.empty : Bank := ⟨true, 0, [], 0, [], [], [], false⟩

/-- The twelve part parameters of R24. -/
def lystinParams : List Nat := [2304, 48, 48, 16, 64, 1572864, 12, 384, 16, 128, 65536, 64]

/-- The record of a module as shipped (R437 to R439): accepted, OPERATIONAL, no tile retired. -/
def PartRecord.shipped : PartRecord :=
  { sigOk := true, moduleKeyOk := true, baseKeysOk := List.replicate 12 true, variant := 0x2304,
    lifecycle := 2, params := lystinParams, svnFloor := 0, serial := 0, retired := [], margin := 50,
    exponent := [200, 200, 200, 200], channels := [], repairs := [] }

def Halnor.reset : Halnor :=
  { log := [], events := [], reloading := false, reloadImg := none, deferred := [],
    half := [], alerts := [], devAlert := 0, smbus := 0x64, eid := 0, ms := 0,
    resetBusy := false, layoutConflict := false, seepLevel := 0, nSteps := 0, pondW := 2,
    seepUnits := 0, seepSkipped := 0, seepSuspicions := 0, seepAlarms := 0, slowdown := [0, 0, 0, 0],
    eolDate := 220924800000, eolMonitor := 0, eolHold := false, eyes := [], needRecovery := false, memErrors := [], bankAt := none, resets := [] }

def Headworks.reset : Headworks := ⟨true, none, 0, false, 0, 0, 0, 0, 0, 0, 0, 0⟩

/-- PCIe leaves vectors masked and MSI-X disabled (R349, R487). -/
def Vector.reset : Vector := ⟨0, 0, true, false⟩
def Fn.reset : Fn := ⟨false, 0, 4, false, false, 0, 0, 0, 0, [], [], false, false, []⟩
def Repair.none : Repair := ⟨[], [], [], [], [], [], [], [], [], [], []⟩

/-- The security block after a power-up with an accepted record: level 1 in OPERATIONAL (R449). -/
def Sec.reset : Sec :=
  { recordOk := true, identity := List.replicate 13 true, inserviceLost := false,
    debugSession := false, maxLevel := 1, level := 1, levelReq := 0, levelNext := none, levelDenied := false, tokenRefused := 0,
    remaining := 0, nonce := none, nonceAt := 0, tokenDigest := 0, computeEnable := false, fwState := 0,
    fwError := 0, fwAttempts := 0, fwSvn := 0, fwLength := 0, fwWindow := [], verifying := none,
    running := none, algorithms := false, sessions := [] }

/-- In AUX: standby good, PWR_EN and PERST_N low, the tick reference present. -/
def Module.reset : Module :=
  { state := .aux, blades := true, standby := true, pwrEn := false, pg := false, perstN := false,
    hostUp := false, mated := true, tickref := true, locked := false, comparator := false,
    chainActive := false, alertN := true, memTrained := false, computeHeld := true,
    tapIr := .idcode, prov := List.replicate 13 true, ret := List.replicate 13 false,
    record := PartRecord.shipped, bankA := Bank.empty, bankB := Bank.empty }

/-- The device right after power-up, in AUX (R441, R464, R472). -/
def State.reset : State :=
  { pending := [], tick := 0, wet := 0, sent := [], freeCtr := 0, nextId := 0, mod := Module.reset,
    sec := Sec.reset, dram := ⟨[], []⟩, losses := 0, poison := [], hostMem := [], slices := [],
    memCounters := [], cistern := [], cisMiss := [], cisInq := [], cisDead := [], cisCounters := [], adminHeld := [], flights := [], issues := [],
    walks := [], stackLocal := 0x10, localActive := 0x10, layoutRejected := false, keepCap := 12,
    deadPoison := false, capClamped := false, keepSweep := none, ctxs := [], objs := [],
    kernels := [], pendingOrder := [], ctxEnable := false, ctxActive := false,
    ctxBase := 0, ctxBaseActive := 0, bar4Base := 0, bar4Blocked := 0, fns := [(0, { Fn.reset with enabled := true })],
    nVf := 0, ats := [], invalid := [], copyNext := 0, tiles := [], sluices := [], lines := [], sync := Sync.reset,
    fab := Fabric.reset, timed := Timed.reset, power := Power.reset, gauge := Gauge.reset,
    hal := Halnor.reset, repair := Repair.none, hdwk := [] }

end Sys2Proof.Machine
end

