-- ==== Sys2Proof/Machine/Clock.lean ====
section
/-! DEFINITION. Time: job ticks, wet and dry ticks. -/

namespace Sys2Proof.Machine

/-- R294, R308: the job tick count is the device tick count plus TICK_OFFSET; outside a partition the
offset reads zero. -/
def State.jobTick (s : State) : Word64 := s.tick + s.timed.offset

/-- The job's wet-tick count (R308). -/
def State.jobWet (s : State) : Word64 := s.wet + s.timed.wetOffset

/-- The device tick of a job tick. -/
def State.deviceTickOf (s : State) (t : Word64) : Nat := (t - s.timed.offset).toNat

/-- R408: with ratio k, the tick with job tick count n is dry if and only if rev6 (n mod 64) < k. -/
def dryTick (k n : Nat) : Bool := decide (rev6 (n % 64) < k)

/-- The present tick is dry: the pattern of R408, but for the probes of an epoch (R295), or no further wet tick after a
trip (R421 step 1). -/
def State.dryNow (s : State) : Bool :=
  s.power.stopped || (!(s.timed.started && !s.timed.offsetsSet) && dryTick s.power.applied s.jobTick.toNat)

/-- The compute islands are out of reset, locked and clocked (R448). -/
def State.running (s : State) : Bool := s.mod.state == .run

/-- R42, R409, R410: a ratio applies from the tick that its event names. -/
def Halnor.ratioAt (h : Halnor) (tick old : Nat) : Nat :=
  h.events.foldl (fun k e => match e with
    | .ratio _ r t => if t = tick then r else k) old

/-- The events that are not of a tick. -/
def Halnor.passed (h : Halnor) (tick : Nat) : Halnor :=
  { h with events := h.events.filter (fun e => match e with
    | .ratio _ _ t => decide (t ≠ tick)) }

/-- One tick of a running device: the tick count rises by one (R30), Halnor's events of that tick take effect (R42), and the
wet-tick count rises unless the tick is dry (R31), which is counted (R433). -/
def State.tickOnce (s : State) : State :=
  let n := (s.tick + 1).toNat
  let s : State := { s with
    tick := s.tick + 1, hal := s.hal.passed n, power := { s.power with applied := s.hal.ratioAt n s.power.applied } }
  if s.dryNow then { s with power := { s.power with dryTicks := satAdd 64 s.power.dryTicks 1 } }
  else { s with wet := s.wet + 1 }

/-- A number of ticks passes. -/
def State.passTicks : Nat → State → State
  | 0, s => s
  | n + 1, s => passTicks n s.tickOnce

/-- Ticks pass, by fuel, until the wet-tick count reaches `w` and the tick is wet. -/
def tickUntil : Nat → Nat → State → State
  | 0, _, s => s
  | f + 1, w, s => if w ≤ s.wet.toNat ∧ !s.dryNow then s else tickUntil f w s.tickOnce

def State.waitWet (s : State) (w : Nat) : State := tickUntil (17 * (w - s.wet.toNat) + 65) w s

/-- The wet-tick count passes by `n` ticks, to a wet tick (R38: nothing is released in a dry one). -/
def State.passWet (s : State) (n : Nat) : State := s.waitWet (s.wet.toNat + n)

end Sys2Proof.Machine
end

