-- ==== Sys2Proof/Machine/Floats.lean ====
section
/-! DEFINITION. Number formats and bit-exact arithmetic (R126 to R137, R144, R152): values as exact dyadic
numbers, one rounding, binary32 operations, the operations of the atomic unit. -/

namespace Sys2Proof.Machine

/-- A value: NaN, a signed infinity, or (−1)^neg · m · 2^e. -/
inductive FP
  | nan
  | inf (neg : Bool)
  | fin (neg : Bool) (m : Nat) (e : Int)
  deriving DecidableEq, Repr

/-- What a format reserves (R126): infinities and NaN at the top exponent, ZF8a's two NaN codes, or
nothing. -/
inductive Reserve
  | ieee | nanOnly | none
  deriving DecidableEq, Repr

/-- A floating-point format (R126, R127). -/
structure FFmt where
  ebits : Nat
  mbits : Nat
  bias  : Nat
  res   : Reserve
  deriving DecidableEq, Repr

def f32 : FFmt := ⟨8, 23, 127, .ieee⟩
def f16 : FFmt := ⟨5, 10, 15, .ieee⟩
def zf16g : FFmt := ⟨8, 7, 127, .ieee⟩
def zf8a : FFmt := ⟨4, 3, 7, .nanOnly⟩
def zf8g : FFmt := ⟨5, 2, 15, .ieee⟩
/-- The ZF4 element before its block scale (R128). -/
def zf4e : FFmt := ⟨2, 1, 1, .none⟩
/-- The unsigned E4M4 element of ZB8-V, given a sign bit that is always 0 (R130). -/
def e4m4 : FFmt := ⟨4, 4, 15, .none⟩

def FFmt.width (f : FFmt) : Nat := 1 + f.ebits + f.mbits

/-- R126: the largest finite magnitude, as (m, e). -/
def FFmt.maxFin (f : FFmt) : Nat × Int :=
  match f.res with
  | .ieee => (2 ^ (f.mbits + 1) - 1, (2 ^ f.ebits - 2 : Int) - f.bias - f.mbits)
  | .nanOnly => (2 ^ (f.mbits + 1) - 2, (2 ^ f.ebits - 1 : Int) - f.bias - f.mbits)
  | .none => (2 ^ (f.mbits + 1) - 1, (2 ^ f.ebits - 1 : Int) - f.bias - f.mbits)

/-- R133: the canonical NaN. -/
def FFmt.nanCode (f : FFmt) : Nat :=
  match f.res with
  | .ieee => (2 ^ f.ebits - 1) * 2 ^ f.mbits + 2 ^ (f.mbits - 1)
  | .nanOnly => 2 ^ (f.ebits + f.mbits) - 1
  | .none => 0

def FFmt.signBit (f : FFmt) (neg : Bool) : Nat := if neg then 2 ^ (f.ebits + f.mbits) else 0

/-- The code of the largest finite value. -/
def FFmt.maxCode (f : FFmt) : Nat :=
  match f.res with
  | .ieee => (2 ^ f.ebits - 1) * 2 ^ f.mbits - 1
  | .nanOnly => 2 ^ (f.ebits + f.mbits) - 2
  | .none => 2 ^ (f.ebits + f.mbits) - 1

/-- R136: what an overflow gives: an infinity where the format has one, else the largest finite value. -/
def FFmt.overflowCode (f : FFmt) (neg : Bool) : Nat :=
  match f.res with
  | .ieee => f.signBit neg + (2 ^ f.ebits - 1) * 2 ^ f.mbits
  | _ => f.signBit neg + f.maxCode

/-- R127, R126: the value of a code. -/
def FFmt.value (f : FFmt) (code : Nat) : FP :=
  let neg := bit code (f.ebits + f.mbits)
  let e := fld code f.mbits f.ebits
  let m := fld code 0 f.mbits
  let top := 2 ^ f.ebits - 1
  if f.res = .ieee ∧ e = top then (if m = 0 then .inf neg else .nan)
  else if f.res = .nanOnly ∧ e = top ∧ m = 2 ^ f.mbits - 1 then .nan
  else if e = 0 then .fin neg m (1 - f.bias - f.mbits)
  else .fin neg (2 ^ f.mbits + m) (e - f.bias - f.mbits)

/-- m · 2^e as a whole multiple of 2^q, with what is cut off as (numerator, bits). -/
def scaleTo (m : Nat) (e q : Int) : Nat × Nat × Nat :=
  if q ≤ e then (m * 2 ^ (e - q).toNat, 0, 0)
  else
    let k := (q - e).toNat
    (m / 2 ^ k, m % 2 ^ k, k)

/-- How one rounding goes: R132's RNE; R141's with a sticky bit below; R152's with the drawn value; R275's
(nearest, ties by the drawn value). -/
inductive Rnd
  | rne
  | sticky (s : Bool)
  | sr (r : Nat)
  | tieDraw (r : Nat)
  deriving DecidableEq, Repr

/-- The whole part after rounding n + rem / 2^k. -/
def roundInt (rnd : Rnd) (n rem k : Nat) : Nat :=
  if rem = 0 ∧ k = 0 then n else
  let half := 2 ^ k
  match rnd with
  | .rne => if 2 * rem < half then n else if half < 2 * rem then n + 1 else if n % 2 = 1 then n + 1 else n
  | .sticky s =>
    if 2 * rem < half then n else if half < 2 * rem then n + 1
    else if s then n + 1 else if n % 2 = 1 then n + 1 else n
  | .sr r => if 2 ^ 16 ≤ rem * 2 ^ 16 / half + r then n + 1 else n
  | .tieDraw r => if 2 * rem < half then n else if half < 2 * rem then n + 1
    else if 2 ^ 15 ≤ r then n + 1 else n

/-- The code of n · 2^q, where n has at most mbits + 1 bits or is 2^(mbits + 1). -/
def FFmt.encode (f : FFmt) (neg : Bool) (n : Nat) (q : Int) : Nat :=
  let n' := if 2 ^ (f.mbits + 1) ≤ n then n / 2 else n
  let q' := if 2 ^ (f.mbits + 1) ≤ n then q + 1 else q
  if n' < 2 ^ f.mbits then f.signBit neg + n'
  else f.signBit neg + (q' + f.mbits + f.bias).toNat * 2 ^ f.mbits + (n' - 2 ^ f.mbits)

/-- a · 2^ea > b · 2^eb. -/
def dyGt (a : Nat) (ea : Int) (b : Nat) (eb : Int) : Bool :=
  if eb ≤ ea then decide (b < a * 2 ^ (ea - eb).toNat) else decide (b * 2 ^ (eb - ea).toNat < a)

/-- R132, R136, R141, R152: a value rounded once to a format. -/
def FFmt.round (f : FFmt) (rnd : Rnd) (v : FP) : Nat :=
  match v with
  | .nan => f.nanCode
  | .inf neg => match f.res with
    | .nanOnly => f.nanCode
    | _ => f.overflowCode neg
  | .fin neg m e =>
    if m = 0 then f.signBit neg else
    let lg : Int := (Nat.log2 m : Int) + e
    let q : Int := max lg (1 - f.bias) - f.mbits
    let (n, rem, k) := scaleTo m e q
    let n' := roundInt rnd n rem k
    let ovf := match rnd with
      | .sr _ => dyGt m e f.maxFin.1 f.maxFin.2
      | _ => dyGt n' q f.maxFin.1 f.maxFin.2
    if ovf then f.overflowCode neg else
    -- a stochastic rounding of a value within range stays within range
    if dyGt n' q f.maxFin.1 f.maxFin.2 then f.signBit neg + f.maxCode else f.encode neg n' q

/-! ## Exact operations -/

def FP.isNan : FP → Bool
  | .nan => true
  | _ => false

def FP.isInf : FP → Bool
  | .inf _ => true
  | _ => false

def FP.isZero : FP → Bool
  | .fin _ 0 _ => true
  | _ => false

def FP.neg : FP → Bool
  | .nan => false
  | .inf n => n
  | .fin n _ _ => n

def FP.negate : FP → FP
  | .nan => .nan
  | .inf n => .inf (!n)
  | .fin n m e => .fin (!n) m e

def signedMant (neg : Bool) (m : Nat) : Int := if neg then -(m : Int) else (m : Int)

/-- The exact sum (R134): opposite infinities give NaN, an exact zero of opposite signs is +0. -/
def FP.add : FP → FP → FP
  | .nan, _ => .nan
  | _, .nan => .nan
  | .inf a, .inf b => if a = b then .inf a else .nan
  | .inf a, _ => .inf a
  | _, .inf b => .inf b
  | .fin a m e, .fin b n f =>
    let g := min e f
    let x := signedMant a (m * 2 ^ (e - g).toNat) + signedMant b (n * 2 ^ (f - g).toNat)
    if x = 0 then .fin (a && b) 0 0 else .fin (decide (x < 0)) x.natAbs g

/-- The exact product (R134, R139): 0 × ∞ is NaN. -/
def FP.mul : FP → FP → FP
  | .nan, _ => .nan
  | _, .nan => .nan
  | .inf a, .inf b => .inf (a != b)
  | .inf a, .fin b n _ => if n = 0 then .nan else .inf (a != b)
  | .fin a m _, .inf b => if m = 0 then .nan else .inf (a != b)
  | .fin a m e, .fin b n f => .fin (a != b) (m * n) (e + f)

/-- The quotient to 64 bits below the dividend's and a sticky bit, which is exact enough for one rounding
to binary32. -/
def FP.div : FP → FP → FP
  | .nan, _ | _, .nan | .inf _, .inf _ => .nan
  | .inf a, .fin b _ _ => .inf (a != b)
  | .fin a _ _, .inf b => .fin (a != b) 0 0
  | .fin a m e, .fin b n f =>
    if n = 0 then (if m = 0 then .nan else .inf (a != b))
    else
      let q := m * 2 ^ 64 / n
      .fin (a != b) (2 * q + (if m * 2 ^ 64 % n = 0 then 0 else 1)) (e - f - 65)

/-- Scaled by 2^k exactly. -/
def FP.scale (v : FP) (k : Int) : FP :=
  match v with
  | .fin a m e => .fin a m (e + k)
  | v => v

def FP.abs : FP → FP
  | .nan => .nan
  | .inf _ => .inf false
  | .fin _ m e => .fin false m e

/-- a < b of two values that are no NaN; zeros compare equal. -/
def FP.lt : FP → FP → Bool
  | .nan, _ => false
  | _, .nan => false
  | .inf a, .inf b => a && !b
  | .inf a, .fin .. => a
  | .fin .., .inf b => !b
  | .fin a m e, .fin b n f =>
    let g := min e f
    decide (signedMant a (m * 2 ^ (e - g).toNat) < signedMant b (n * 2 ^ (f - g).toNat))

def FP.eq (a b : FP) : Bool := !a.isNan && !b.isNan && !a.lt b && !b.lt a

/-! ## binary32 (R134) -/

def f32Val (x : Word32) : FP := f32.value x.toNat
def f32Of (v : FP) : Word32 := BitVec.ofNat 32 (f32.round .rne v)

def f32Add (a b : Word32) : Word32 := f32Of ((f32Val a).add (f32Val b))
def f32Sub (a b : Word32) : Word32 := f32Of ((f32Val a).add (f32Val b).negate)
def f32Div (a b : Word32) : Word32 := f32Of ((f32Val a).div (f32Val b))
def f32Mul (a b : Word32) : Word32 := f32Of ((f32Val a).mul (f32Val b))
/-- R134: FMA rounds once. -/
def f32Fma (a b c : Word32) : Word32 := f32Of (((f32Val a).mul (f32Val b)).add (f32Val c))

def f32Nan : Word32 := 0x7FC00000#32

/-- R134: the lesser; NaN if either is NaN; −0.0 below +0.0. -/
def f32Min (a b : Word32) : Word32 :=
  let x := f32Val a
  let y := f32Val b
  if x.isNan || y.isNan then f32Nan
  else if x.lt y then a else if y.lt x then b
  else if x.neg then a else b

def f32Max (a b : Word32) : Word32 :=
  let x := f32Val a
  let y := f32Val b
  if x.isNan || y.isNan then f32Nan
  else if x.lt y then b else if y.lt x then a
  else if x.neg then b else a

/-- R134: a compare with a NaN is unordered. -/
def f32Lt (a b : Word32) : Bool := (f32Val a).lt (f32Val b)
def f32Eq (a b : Word32) : Bool := (f32Val a).eq (f32Val b)
def f32Ne (a b : Word32) : Bool := !f32Eq a b
def f32Le (a b : Word32) : Bool := f32Lt a b || f32Eq a b

/-! ## Integers (R129, R136) -/

/-- A value rounded to an integer; infinities saturate, NaN gives 0; a stochastic rounding overflows where the magnitude
exceeds the largest value before it is rounded (R136). -/
def FP.toIntSat (rnd : Rnd) (lo hi : Int) : FP → Int
  | .nan => 0
  | .inf neg => if neg then lo else hi
  | .fin neg m e =>
    let early := match rnd with
      | .sr _ => dyGt m e hi.toNat 0
      | _ => false
    if early then (if neg then lo else hi)
    else
      let (n, rem, k) := scaleTo m e 0
      let v := signedMant neg (roundInt rnd n rem k)
      if v < lo then lo else if hi < v then hi else v

/-- An integer as an exact value. -/
def FP.ofInt (x : Int) : FP := .fin (decide (x < 0)) x.natAbs 0

/-! ## Format codes (R108, R126) -/

/-- The format of a code of R108; codes above 0xA are none. -/
def fmtOfCode : Nat → Option Fmt
  | 0 => some .int8
  | 1 => some .uint8
  | 2 => some .zf8a
  | 3 => some .zf8g
  | 4 => some .binary16
  | 5 => some .zf16g
  | 6 => some .zf4
  | 7 => some .int4
  | 8 => some .bit1
  | 9 => some .binary32
  | 10 => some .int32
  | _ => none

def fmtBits : Fmt → Nat
  | .int8 | .uint8 | .zf8a | .zf8g | .zb8m | .zb8v => 8
  | .binary16 | .zf16g => 16
  | .zf4 | .int4 => 4
  | .bit1 => 1
  | .binary32 | .int32 => 32

def fmtIsInt : Fmt → Bool
  | .int8 | .uint8 | .int4 | .bit1 | .int32 => true
  | _ => false

def fmtF : Fmt → FFmt
  | .zf8a => zf8a
  | .zf8g => zf8g
  | .binary16 => f16
  | .zf16g => zf16g
  | .zf4 => zf4e
  | .zb8v => e4m4
  | _ => f32

/-- The formats whose elements have a block scale (R128, R130). -/
def fmtScaled : Fmt → Bool
  | .zf4 | .zb8m | .zb8v => true
  | _ => false

/-- The exact value of an element (R127 to R130); `scale` is its block's (R128, R130). -/
def fmtValue (f : Fmt) (scale code : Nat) : FP :=
  match f with
  | .int8 => FP.ofInt (signed 8 code)
  | .uint8 => FP.ofInt (code % 256 : Nat)
  | .int4 => FP.ofInt (signed 4 code)
  | .bit1 => FP.ofInt (code % 2 : Nat)
  | .int32 => FP.ofInt (signed 32 code)
  | .zf4 => if scale = 0xFF then .nan else (zf4e.value code).scale ((scale : Int) - 127)
  | .zb8m => if scale = 0xFF then .nan else (FP.ofInt (signed 8 code)).scale ((scale : Int) - 127)
  | .zb8v => if scale = 0xFF then .nan else (e4m4.value (code % 256)).scale ((scale : Int) - 127)
  | f => (fmtF f).value code

/-- R136: a value narrowed to a format, as a code of the format's width. -/
def fmtNarrow (f : Fmt) (rnd : Rnd) (v : FP) : Nat :=
  match f with
  | .int8 => unsigned 8 (v.toIntSat rnd (-128) 127)
  | .uint8 => unsigned 8 (v.toIntSat rnd 0 255)
  | .int4 => unsigned 4 (v.toIntSat rnd (-8) 7)
  | .int32 => unsigned 32 (v.toIntSat rnd (-2147483648) 2147483647)
  | .bit1 => unsigned 1 (v.toIntSat rnd 0 1)
  | .zb8m => unsigned 8 (v.toIntSat rnd (-127) 127)
  | f => (fmtF f).round rnd v

/-! ## The atomic unit (R73, R74, R75) -/

/-- One atomic on an old value with operands a (and b for compare-swap: compare a, new b). -/
def atomicNew (op : AtomOp) (ty : AtomTy) (old a b : Word64) : Word64 :=
  let lo : Word64 → Word32 := fun x => x.setWidth 32
  match ty with
  | .bits64 => match op with
    | .add => old + a
    | .min => if old.toNat ≤ a.toNat then old else a
    | .max => if old.toNat ≤ a.toNat then a else old
    | .and => old &&& a
    | .or => old ||| a
    | .xor => old ^^^ a
    | .swap => a
    | .cas => if old = a then b else old
  | _ =>
    let o := lo old
    let x := lo a
    let r : Word32 := match op, ty with
      | .add, .binary32 => f32Add o x
      | .min, .binary32 => f32Min o x
      | .max, .binary32 => f32Max o x
      | .add, _ => o + x
      | .min, .int32 => if o.toInt ≤ x.toInt then o else x
      | .max, .int32 => if o.toInt ≤ x.toInt then x else o
      | .min, _ => if o.toNat ≤ x.toNat then o else x
      | .max, _ => if o.toNat ≤ x.toNat then x else o
      | .and, _ => o &&& x
      | .or, _ => o ||| x
      | .xor, _ => o ^^^ x
      | .swap, _ => x
      | .cas, _ => if o = x then lo b else o
    r.setWidth 64

def atomBytes : AtomTy → Nat
  | .bits64 => 8
  | _ => 4

end Sys2Proof.Machine
end

