-- ==== Sys2Proof/Config.lean ====
section
/-! DEFINITION. What the spec leaves open: the FREE VALUES. Each is a constant with no body, so no
proof can see what it is; a statement about one holds for every value. Each is named in a row of
notes/assumptions. -/

namespace Sys2Proof.Config

/-- A sampled output element (R380): the narrow result, the partner's split pair, the norms of its streaming row and its
stationary column. -/
structure SeepElem where
  narrow : Word32
  hi     : Word32
  lo     : Word32
  normA  : Word32
  normB  : Word32
  deriving DecidableEq, Repr

/-- A sampled check unit (R379): its layer and output block, the primary's logical tile, its class (0 8-bit, 1 4-bit,
2 binary16, 3 ZF16g), whether its formats are integers, the groups of 32 along K, SCALE_EXP, whether a ZF4 block scale lies
above 252 (R378), and its elements. -/
structure SeepUnit where
  layer  : Nat
  block  : Nat
  tile   : Nat
  cls    : Nat
  int    : Bool
  groups : Nat
  scaleExp : Int
  bigScale : Bool
  elems  : List SeepElem
  deriving DecidableEq, Repr

/-- What host software reports to Halnor of a replay: a suspicion's replays matched (R391), else a verification mismatch
(R395); the step, the tier of R393, the unit's logical tile. -/
structure HostReport where
  matched : Bool
  step : Nat
  tier : Nat
  tile : Nat
  deriving DecidableEq, Repr

/-- The byte an unwritten address reads as after the contents of device memory have become undefined
(R221, R492, R502), by the number of the loss and the address. -/
opaque memByte : Nat → Nat → Byte

/-- A fresh word the spec does not fix, by the number of the draw (State.freeCtr). -/
opaque word : Nat → Word64

/-- R153, R154: the one fixed function behind each element-wise row-engine function, by the
function's number and the binary32 input. -/
opaque rowFn : Nat → Word32 → Word32

/-- The 32-bit register contents after a result narrower than 32 bits (a 1- or 2-byte load, a conversion),
whose bits above the result R64 does not state: by width in bits and the result. -/
opaque narrowHigh : Nat → Word32 → Word32

/-- Which part of a line dropped under the dead hint reads as the value last written (R209), by the
draw and the byte's address: true is the value last written, false what DRAM held. -/
opaque deadKept : Nat → Nat → Bool

/-- The plane that the path table's plane arithmetic counts modulo is the switch system's (R257). -/
opaque planes : Nat

/-- R445, R446: the bytes of a certificate, a signature or a digest, by what is asked for. -/
opaque crypto : Nat → Nat → List Byte

/-- R423: the voltage table of the signed part record, in millivolts, by die and band. -/
opaque voltage : Nat → Nat → Nat

/-- R439, R415: the leakage table of the signed part record: compute power with every tick dry, in
watts as binary32, by the hottest junction temperatures of the four dies in °C. -/
opaque leakage : List Int → Word32

/-- R404: the exponent fitted to a die's daily samples of the four dies' slowdown, in thousandths. -/
opaque fitExponent : Nat → List (List Nat) → Nat

/-- R404: the date, in Halnor's milliseconds, on which a die's slowdown reaches its margin, by the die, the margin, the exponent
in thousandths, its present slowdown and the daily samples. -/
opaque slowdownEnd : Nat → Nat → Nat → Nat → List (List Nat) → Nat

/-- R404: the date, in Halnor's milliseconds, on which a lane's eye height, extrapolated, reaches the port's minimum, by the
lane's number and its present height. -/
opaque eyeEnd : Nat → Nat → Nat

/-- R442, R443: what the boot ROM finds out about an image in the firmware window, by the bytes written to the window and the
length declared: format, variant, SVN, whether the key, the signature and the length are right, the floor it sets, its digest. -/
opaque fwImage : List (Nat × BitVec 8) → Nat → Nat × Nat × Nat × Bool × Bool × Bool × Nat × BitVec 256

/-- R257: Halnor's reassignment of path-table entry b from the measured delays, as a port number. -/
opaque pathPort : List Nat → Nat → Nat

/-- As pathPort, the switch plane. -/
opaque pathPlane : List Nat → Nat → Nat

/-- R274: the length in bytes of the exponent-delta encoding of one 256 B chunk, whose escape code
the spec does not lay out; the elements are binary32 (true) or ZF16g. -/
opaque deltaLength : Bool → List Byte → Nat

/-- R351: the part of a heap that serves a request, as an offset in the heap object, by allocator
unit, rounded size and the blocks already allocated. -/
opaque heapPick : Nat → Nat → List Nat → Option Nat

/-- R500: what TDO shifts out for a test instruction other than IDCODE and BYPASS. -/
opaque tdo : Nat → Word64

/-- R343: whether the host still translates a page it has invalidated, by the draw, PASID and page. -/
opaque hostGrant : Nat → Nat → Nat → Bool

/-- R64: a vector shift by 32 or more, whose result is not stated: by operation, value and amount. -/
opaque overShift : Nat → Word32 → Word32 → Word32

/-- R120: the 8-bit format, by its code of R108, in which diagonal mode reads its operands. -/
opaque diagFormat : Nat

/-- R340: the PASID of a context, which no command sets; 20 bits are used. -/
opaque pasid : Nat → Nat

/-- R345: the MSI-X entry of a function's admin queue. -/
opaque adminVector : Nat → Nat

/-- R345, R508: the bit position that DETAIL names for operand k of a synchronisation or export command, whose
layout the spec does not give. -/
opaque subField : Nat → Nat

/-- Which of the free places the device takes, by what is chosen (0 the place of an object in units of 64 KiB, 1 an
object number, 2 a sync object, 3 a share-table entry) and the draw. -/
opaque pick : Nat → Nat → Nat

/-- What a host read through BAR4 returns for a poisoned line (R192, R239), by the draw and the address. -/
opaque poisonByte : Nat → Nat → Byte

/-- R275, R277, R289: what a flume SEND's entry does not state of its compression, by the sending tile and the entry's
position: whether its elements are binary32 (else ZF16g), its stream ID, and its budget in bytes. -/
opaque sendWide : Nat → Nat → Bool
opaque sendStream : Nat → Nat → Nat
opaque sendBudget : Nat → Nat → Nat

/-- R379, R383: the units whose checks a region held, with the data that the partner tiles met, by the draw: no flume entry
says which of its work is a check, of which layer. -/
opaque seepUnits : Nat → List SeepUnit

/-- R391, R395: the reports of host software since the last job boundary, by the draw: no command carries them. -/
opaque hostReports : Nat → List HostReport

/-- R190, R193: the die, bank and row of a byte of a channel, by its offset in the channel. -/
opaque dramPlace : Nat → Nat × Nat × Nat

/-- R217, R219: the sectors found uncorrectable while a row or a channel is copied, by the draw and the channel. -/
opaque copyPoison : Nat → Nat → List Nat

/-- R32: a sluice's synchroniser takes 3 cycles, not 2, by the sluice's ends and the device tick. -/
opaque slowSync : Nat → Nat → Nat → Bool

/-! ## Video (R362 to R364): what the decoders of the outside standards make of a stream, by its kind (INPUT of R360; 0 is
the payload of a transport stream) and its bytes. Pictures are numbered in decoding order. -/

/-- The video PID of a transport stream's first program (ISO/IEC 13818-1's tables), none where no stream suits. -/
opaque videoPid : List Byte → Option Nat

/-- The standard of the elementary stream in a transport stream's payload: 1 H.262, 2 H.264, 3 H.265. -/
opaque videoStandard : List Byte → Nat

/-- A header that declares something unsupported: DETAIL less 16 (R375) and the number of pictures before it. -/
opaque videoError : Nat → List Byte → Option (Nat × Nat)

/-- The number of pictures, and the decoded picture buffer size the stream declares. -/
opaque videoPictures : Nat → List Byte → Nat
opaque videoBuffer : Nat → List Byte → Nat

/-- A fact of a picture: 0 its place in display order, 1 width, 2 height, 3 depth (10, or else 8), 4 chroma (1 is 4:2:2,
else 4:2:0), 5 matrix signalled (1 to 3, else none), 6 full range, 7 bottom field first, 8 random access, 9 corrupt
(R370), 10 a reference picture, 11 constant-luminance BT.2020; flags are 1 where they hold. -/
opaque videoInfo : Nat → List Byte → Nat → Nat → Nat

/-- The pictures a picture references. -/
opaque videoRefs : Nat → List Byte → Nat → List Nat

/-- A decoded sample: picture, plane (0 luma, 1 Cb, 2 Cr), column, row. -/
opaque videoSample : Nat → List Byte → Nat → Nat → Nat → Nat → Nat

/-- The film_grain_params bits of a picture's header. -/
opaque videoGrain : Nat → List Byte → Nat → List Bool

end Sys2Proof.Config
end

