-- ==== Sys2Proof/Machine/Ops.lean ====
section
/-! DEFINITION. The operations over the state that the meanings share: reading and changing the numbered
parts, what is sent and logged, gauge requests (R456, R457), and TAKING A FAULT (R356, R357, R341). -/

namespace Sys2Proof.Machine

/-! ## Numbered parts -/

def State.emit (s : State) (o : Out) : State := { s with sent := o :: s.sent }

/-- A fresh free value (R446, R452 and the other values the spec leaves open). -/
def State.draw (s : State) : Word64 := Config.word s.freeCtr
def State.drawn (s : State) : State := { s with freeCtr := s.freeCtr + 1 }

/-- A fresh number for an access, an issue, a wait, a walk or a kernel. -/
def State.fresh (s : State) : State := { s with nextId := s.nextId + 1 }

def State.tile (s : State) (t : Nat) : Tile := tabGet s.tiles Tile.reset t
def State.setTile (s : State) (t : Nat) (x : Tile) : State := { s with tiles := tabSet s.tiles Tile.reset t x }
def State.modTile (s : State) (t : Nat) (f : Tile → Tile) : State := s.setTile t (f (s.tile t))

def State.ctx (s : State) (c : Nat) : Ctx := tabGet s.ctxs Ctx.free c
def State.setCtx (s : State) (c : Nat) (x : Ctx) : State := { s with ctxs := tabSet s.ctxs Ctx.free c x }
def State.modCtx (s : State) (c : Nat) (f : Ctx → Ctx) : State := s.setCtx c (f (s.ctx c))

def Ctx.queue (x : Ctx) (q : Nat) : Queue := tabGet x.queues Queue.absent q
def Ctx.modQueue (x : Ctx) (q : Nat) (f : Queue → Queue) : Ctx :=
  { x with queues := tabMod x.queues Queue.absent q f }
def State.queue (s : State) (c q : Nat) : Queue := (s.ctx c).queue q
def State.modQueue (s : State) (c q : Nat) (f : Queue → Queue) : State :=
  s.modCtx c (fun x => x.modQueue q f)

def State.fn (s : State) (f : Nat) : Fn := tabGet s.fns Fn.reset f
def State.modFn (s : State) (f : Nat) (g : Fn → Fn) : State := { s with fns := tabMod s.fns Fn.reset f g }

def State.port (s : State) (p : Nat) : Port := tabGet s.fab.ports Port.reset p
def State.modPort (s : State) (p : Nat) (f : Port → Port) : State :=
  { s with fab := { s.fab with ports := tabMod s.fab.ports Port.reset p f } }

def State.headworks (s : State) (k : Nat) : Headworks := tabGet s.hdwk Headworks.reset k
def State.modHeadworks (s : State) (k : Nat) (f : Headworks → Headworks) : State :=
  { s with hdwk := tabMod s.hdwk Headworks.reset k f }

def State.slice (s : State) (ch : Nat) : Slice := tabGet s.slices Slice.empty ch
def State.setSlice (s : State) (ch : Nat) (x : Slice) : State :=
  { s with slices := tabSet s.slices Slice.empty ch x }

def State.memCount (s : State) (k : Nat) (f : MemCounters → MemCounters) : State :=
  { s with memCounters := tabMod s.memCounters MemCounters.zero k f }
def State.cisCount (s : State) (k : Nat) (f : MemCounters → MemCounters) : State :=
  { s with cisCounters := tabMod s.cisCounters MemCounters.zero k f }
def State.syncCount (s : State) (k : Nat) (f : SyncCounters → SyncCounters) : State :=
  { s with sync := { s.sync with counters := tabMod s.sync.counters SyncCounters.zero k f } }

def State.obj (s : State) (n : Nat) : Option Obj := s.objs.find? (fun o => o.num == n)
def State.modObj (s : State) (n : Nat) (f : Obj → Obj) : State :=
  { s with objs := modIf s.objs (fun o => o.num == n) f }

def State.syncObj (s : State) (i : Nat) : SyncObj := tabGet s.sync.objs SyncObj.free i
def State.setSyncObj (s : State) (i : Nat) (x : SyncObj) : State :=
  { s with sync := { s.sync with objs := tabSet s.sync.objs SyncObj.free i x } }

def State.modHal (s : State) (f : Halnor → Halnor) : State := { s with hal := f s.hal }
def State.modPower (s : State) (f : Power → Power) : State := { s with power := f s.power }
def State.modSec (s : State) (f : Sec → Sec) : State := { s with sec := f s.sec }
def State.modMod (s : State) (f : Module → Module) : State := { s with mod := f s.mod }
def State.modFab (s : State) (f : Fabric → Fabric) : State := { s with fab := f s.fab }
def State.modTimed (s : State) (f : Timed → Timed) : State := { s with timed := f s.timed }
def State.modGauge (s : State) (f : Gauge → Gauge) : State := { s with gauge := f s.gauge }
def State.modSync (s : State) (f : Sync → Sync) : State := { s with sync := f s.sync }

/-! ## Identities (R11, R50) -/

def numTiles : Nat := 2304
def numCtxs : Nat := 4096
def tileRow (t : Nat) : Nat := t / 48
def tileCol (t : Nat) : Nat := t % 48

/-- R11: the compute die of a logical tile. -/
def tileDie (t : Nat) : Nat := tileRow t / 24 * 2 + tileCol t / 24

/-- The device's memory (R197): 576 × 10⁹ bytes. -/
def memBytes : Nat := 576000000000

/-- R437: the lifecycle state, as SEC_STATUS.LIFECYCLE reports it (R464). With PROV and RET burned and the record failing its
checks it reads 4 (DEDUCED, assumption 139: R437 ignores the record of a RETIRED device, R441 and R464 would give 7). -/
def State.lifecycle (s : State) : Nat :=
  if s.mod.ret.headD false then 4
  else if !s.mod.prov.headD false then 0
  else if !s.sec.recordOk then 7
  else if s.sec.debugSession then 3
  else s.mod.record.lifecycle

/-- R449: the default level of a lifecycle state. -/
def State.defaultLevel (s : State) : Nat :=
  match s.lifecycle with
  | 0 => 3
  | 1 => 2
  | 2 => 1
  | 3 => s.sec.maxLevel
  | _ => 0

/-- The device has its identity (R435, R445). -/
def State.hasIdentity (s : State) : Bool :=
  s.sec.identity.headD false && s.sec.recordOk && s.mod.prov.headD false && !s.mod.ret.headD false

/-! ## Log and alerts (R460, R462, R481) -/

/-- R462: a health-log entry; the ring holds the newest 4,096. -/
def State.logEntry (s : State) (k : LogKind) (args : List Nat) : State :=
  s.modHal (fun h => { h with log := (⟨k, args, s.tick.toNat⟩ :: h.log).take 4096 })

/-- The bit of DEV_ALERT (R481). -/
def Alert.bit : Alert → Nat
  | .thermal => 0
  | .cap => 1
  | .eol => 2
  | .droop => 3
  | .record => 4
  | .unlocked => 5
  | .debugHold => 6

/-- R460: ALERT_N is asserted together with a PLDM event, and the cause's bit set in DEV_ALERT (R481). -/
def State.raiseAlert (s : State) (a : Alert) : State :=
  let s := s.modMod (fun m => { m with alertN := false })
  let s := s.modHal (fun h => { h with
    alerts := h.alerts ++ [a], devAlert := h.devAlert ||| BitVec.ofNat 7 (2 ^ a.bit) })
  (s.emit (.alert a)).emit (.pldmEvent a)

/-! ## MSI-X (R338, R349) -/

/-- R338: the entries of a function's MSI-X table that messages can use. -/
def State.vectors (s : State) (f : Nat) : Nat := if f = 0 then 2048 - 32 * s.nVf else 32

/-- R349 step 5: the message of entry `e`: sent, or held pending while masked, or neither while MSI-X is
disabled. -/
def State.sendMsix (s : State) (f e : Nat) : State :=
  let x := s.fn f
  if !x.msixEnable then s
  else if x.funcMask || (tabGet x.vectors Vector.reset e).masked then
    s.modFn f (fun x => { x with vectors := tabMod x.vectors Vector.reset e (fun v => { v with pending := true }) })
  else s.emit (.msix f e)

/-! ## Gauge requests (R456, R457) -/

/-- R457: a request merges into a pending gauge within 65,536 ticks, else it is queued; a fifth is
dropped and counted. -/
def State.gaugeAdd (s : State) (src tick : Nat) (late hold : Bool) : State :=
  let near : PendingGauge → Bool := fun p => decide (tick ≤ p.tick + 65536) && decide (p.tick ≤ tick + 65536)
  s.modGauge (fun g =>
    match g.pending.find? near with
    | some p =>
      { g with pending := modIf g.pending (fun x => x == p)
                (fun x => { x with mask := x.mask ||| 2 ^ src, late := x.late || late, hold := x.hold || hold }) }
    | none =>
      if 4 ≤ g.pending.length then { g with dropped := satAdd 16 g.dropped 1 }
      else { g with pending := g.pending ++ [⟨tick, 2 ^ src, late, hold⟩] })

/-- R456: a gauge from source `src`, effective 16,384 ticks after detection. A gauge that R30, R419,
R450 or R398 requires is taken whatever SOURCES and ENABLE select. With SCOPE 1 and a valid epoch it is
broadcast. -/
def State.gaugeRequest (s : State) (src : Nat) (required hold : Bool) : State :=
  if required || (s.gauge.enable && s.gauge.sources.getLsbD src) then
    let t := s.jobTick + 16384
    let s := if s.gauge.scope && s.timed.valid then s.emit (.gaugeBroadcast t) else s
    s.gaugeAdd src (s.tick.toNat + 16384) false hold
  else s

/-! ## Faults (R356, R357, R508) -/

/-- The fault values of R357. -/
def Code.value : Code → Nat
  | .illegalInstruction => 0x0101
  | .privilegedInstruction => 0x0102
  | .misalignedAccess => 0x0103
  | .scratchBounds => 0x0104
  | .clusterRange => 0x0105
  | .matrixDivergence => 0x0106
  | .basinRange => 0x0107
  | .heapFreeInvalid => 0x0108
  | .frontCollision => 0x0201
  | .entryCollision => 0x0202
  | .basinHazard => 0x0203
  | .lateAdmission => 0x0204
  | .scheduleConflict => 0x0205
  | .scheduleLength => 0x0206
  | .partnerLost => 0x0207
  | .refDrift => 0x0208
  | .timedWatchdog => 0x0209
  | .timedLaunch => 0x020A
  | .sluiceLate => 0x020B
  | .sluiceOverrun => 0x020C
  | .linkBudget => 0x020D
  | .memUncorrectable => 0x0301
  | .translationFault => 0x0302
  | .fabricAccess => 0x0303
  | .reductionIndex => 0x0304
  | .partitionRevoked => 0x0305
  | .fabricTimeout => 0x0306
  | .fenceRegression => 0x0401
  | .syncDenied => 0x0402
  | .doubleArrival => 0x0403
  | .ownerLost => 0x0404
  | .waitWatchdog => 0x0405
  | .descInvalid => 0x0501
  | .descBounds => 0x0502
  | .queueOverrun => 0x0503
  | .launchRefused => 0x0504
  | .paramMismatch => 0x0505
  | .islandUnlocked => 0x0601
  | .capUnattainable => 0x0602
  | .thermalTrip => 0x0603
  | .debugHold => 0x0604
  | .intakeUnsupported => 0x0701

/-- R456: the device faults take a gauge of their own (R30, R419, R421, R450). -/
def Code.ownGauge : Code → Bool
  | .islandUnlocked | .capUnattainable | .thermalTrip | .debugHold => true
  | _ => false

/-- A fault record with the defaults of R356: no tile, no queue. -/
def faultOf (code : Code) (detail : Nat) : FaultRec :=
  { code := code, detail := detail, deferred := false, tile := 0xFFFF, slot := 0, queue := 0xF,
    where' := 0, lanes := 0, address := 0, device := 0, tick := 0, address2 := 0, lanes2 := 0, object := 0, value := 0, home := 0 }

/-- DETAIL[15:0] of the record: the reason, with bit 15 for a deferred fault (R93). -/
def FaultRec.detailBits (f : FaultRec) : Nat := f.detail % 0x8000 + (if f.deferred then 0x8000 else 0)

/-- R488: the bit of a context in its function's FN_FAULT_PENDING. -/
def State.pendingBit (s : State) (c : Nat) : Nat :=
  let f := (s.ctx c).fn
  if f = 0 then c else (s.fn f).ctxs.idxOf c

/-- R353: the bytes a descriptor has written when it ends early. -/
def Work.result : Work → Nat
  | .copy moved _ _ _ => moved
  | .done _ _ r => r
  | _ => 0

/-- A descriptor in progress ends with a fault's value; one that has ended, and a region, which ends by
R302 or R303 only, stay (assumption 14). -/
def Work.endWith (status detail : Nat) : Work → Work
  | .done a b c => .done a b c
  | .region => .region
  | w => .done status detail w.result

/-- A queue stops; its descriptor in progress completes with the fault (R356). -/
def Queue.stopWith (status detail : Nat) (q : Queue) : Queue :=
  match q.st with
  | .running | .stopped => { q with st := .stopped, work := q.work.map (Work.endWith status detail) }
  | _ => q

/-- R92, R355 step 1: the groups and kernels of a context stop before their next issue. -/
def State.stopBlocks (s : State) (c : Nat) : State :=
  { s with
    tiles := s.tiles.map (fun e =>
      (e.1, if e.2.ctx = some c then
        { e.2 with groups := e.2.groups.map (fun g => (g.1, g.2.map (fun x => { x with stopped := true })))
                   saved := e.2.saved.map (fun x => { x with stopped := true }) }
      else e.2))
    kernels := modIf s.kernels (fun k => k.ctx == c) (fun k => { k with stop := true }) }

/-- R341: the states from which a stopping fault stops a context; a STOPPED one stays so. -/
def CtxState.stoppable : CtxState → Bool
  | .idle | .pending | .resident | .stopped => true
  | .free | .destroying => false

/-- R356: FAULT is written when it is empty, with the message and the pending bit; a second stopping fault
is counted and its record discarded (R357). -/
def State.recordFault (s : State) (c : Nat) (f : FaultRec) : State :=
  let f := { f with tick := s.jobTick }
  match (s.ctx c).fault with
  | some _ => s.modCtx c (fun x => { x with secondFaults := satAdd 32 x.secondFaults 1 })
  | none =>
    let b := s.pendingBit c
    let fn := (s.ctx c).fn
    let s := s.modCtx c (fun x => { x with fault := some f })
    let s := s.modFn fn (fun x => { x with pendingFaults := addNew x.pendingFaults b })
    s.sendMsix fn 0

/-- TAKING A STOPPING FAULT (R356, R357, R341): the record is written, the context is STOPPED, and either
one queue (`only`) or every queue and every group of the context stops, each stopped queue's descriptor in
progress completing with the fault's value. A stopping fault requests a gauge (R456 source 1). -/
def State.takeFault (s : State) (c : Nat) (only : Option Nat) (f : FaultRec) : State :=
  if (s.ctx c).st.stoppable then
    let s := s.recordFault c f
    let s := s.modCtx c (fun x => { x with st := .stopped })
    let s := { s with pendingOrder := s.pendingOrder.filter (fun x => x != c) }
    let stop := Queue.stopWith f.code.value (f.detail % 0x8000)
    let s := match only with
      | some q => s.modQueue c q stop
      | none => (s.modCtx c (fun x => { x with queues := x.queues.map (fun e => (e.1, stop e.2)) })).stopBlocks c
    if f.code.ownGauge then s else s.gaugeRequest 1 false false
  else s

/-- R356: a fault that does not stop the context goes to LAST_RECORDED. -/
def State.recordOnly (s : State) (c : Nat) (f : FaultRec) : State :=
  s.modCtx c (fun x => { x with lastRecorded := some { f with tick := s.jobTick } })

/-- The contexts that are not FREE. -/
def State.liveCtxs (s : State) : List Nat :=
  (s.ctxs.filter (fun e => e.2.st != .free)).map (fun e => e.1)

/-- R356: every context of the device stops. -/
def State.stopAll (s : State) (f : FaultRec) : State :=
  s.liveCtxs.foldl (fun s c => s.takeFault c none f) s

/-! ## Region abort (R303) -/

/-- R303: the region aborts: every tile stops, an abort goes to the root and the partner ports, and the
region's context stops with `f`. -/
def State.abortRegion (s : State) (f : FaultRec) : State :=
  match s.timed.region with
  | none => s
  | some r =>
    let s := r.tiles.foldl (fun s t => s.modTile t (fun x =>
      { x with flume := { x.flume with active := false, stopped := true } })) s
    let s := s.modTimed (fun t => { t with region := none, readies := [] })
    let s := s.emit (.abort none)
    let s := s.modQueue r.ctx r.queue (fun q => match q.work with
      | some .region => { q with work := some (.done f.code.value (f.detail % 0x8000) 0) }
      | _ => q)
    s.takeFault r.ctx none { f with queue := r.queue }

/-! ## Ready and entry (R300 steps 4 and 5) -/

def State.modRegion (s : State) (f : Region → Region) : State := s.modTimed (fun t => { t with region := t.region.map f })

/-- The root holds READY from every device: it chooses the entry tick, its job tick plus 2^17, and sends it down the
tree. -/
def State.chooseEntry (s : State) : State :=
  match s.timed.region with
  | none => s
  | some r =>
    if r.stage = .ready ∧ r.logical = 0 ∧ r.map.all (fun d => s.timed.readies.elem d) then
      let t := s.jobTick + 131072
      let s := (s.modRegion (fun r => { r with stage := .entry t })).modTimed (fun x => { x with readies := [] })
      if r.devices = 1 then s else s.emit (.entryTick t)
    else s

/-- A named tile is the region's: its first 1,024 entries (or all) are in the buffer and no transfer of the thread plane
is in progress (R291, R300 step 2). -/
def Tile.launched (x : Tile) : Bool :=
  (x.flume.fetchEnd || decide (1024 ≤ x.flume.fetched)) && x.dma.all (fun e => match e.2 with
    | some d => d.flume.isSome
    | none => true)

/-- R300 step 4: READY is sent once every tile is ready; the watchdog counts from here (R304). -/
def State.tryReady (s : State) : State :=
  match s.timed.region with
  | none => s
  | some r =>
    if r.stage = .launching ∧ r.tiles.all (fun t => (s.tile t).launched) then
      let s := s.modRegion (fun r => { r with stage := .ready, idle := s.wet.toNat })
      if r.logical = 0 then
        (s.modTimed (fun x => { x with readies := addNew x.readies (r.map.getD 0 0) })).chooseEntry
      else s.emit (.ready s.fab.deviceId)
    else s

/-- R268, R280, R303: a region that uses port `p` aborts. -/
def State.abortRegionOn (s : State) (p : Nat) (f : FaultRec) : State :=
  match s.timed.region with
  | some r => if r.portClass.getD p 0 ≠ 0 then s.abortRegion f else s
  | none => s

/-! ## Work deferred by a firmware reload (R402, R476) -/

/-- R402, R476: work deferred by a firmware reload. -/
def State.defer (s : State) (c : Instr) : State := s.modHal (fun h => { h with deferred := h.deferred ++ [c] })

/-- A command that a reload defers, or its effect. -/
def State.orDefer (s : State) (c : Instr) (f : State) : Host.Outcome State Fault Refusal :=
  if s.hal.reloading then .next (s.defer c) else .next f

end Sys2Proof.Machine
end

