-- ==== Sys2Proof/Machine/Memory.lean ====
section
/-! DEFINITION. Local memory: the channel hash (R197 to R199), DRAM with its poison (R192), the
memory-side cache that is every line's home (R201 to R210), and the named reads and writes over it. -/

namespace Sys2Proof.Machine

/-! ## DRAM (R192, R221) -/

/-- The byte an address that `cells` does not list reads as: a free value inside a range whose contents
have become undefined, zero elsewhere (assumption 3). -/
def Mem.empty (m : Mem) (a : Nat) : Byte :=
  match m.stale.find? (fun r => decide (r.1 ≤ a) && decide (a < r.2.1)) with
  | some r => Config.memByte r.2.2 a
  | none => 0

def Mem.isStale (m : Mem) (a : Nat) : Bool :=
  m.stale.any (fun r => decide (r.1 ≤ a) && decide (a < r.2.1))

/-- The byte listed for an address, if any. -/
def cellOf (t : Tab Byte) (a : Nat) : Option Byte := (t.find? (fun e => e.1 == a)).map (fun e => e.2)

def Mem.read (m : Mem) (a : Nat) : Byte := (cellOf m.cells a).getD (m.empty a)

/-- A write keeps the canonical form: outside a stale range a zero byte is not listed. -/
def Mem.write (m : Mem) (a : Nat) (v : Byte) : Mem :=
  if m.isStale a then { m with cells := tabPut m.cells a v }
  else { m with cells := tabSet m.cells 0 a v }

def Mem.writeList (m : Mem) (a : Nat) : List (Option Byte) → Mem
  | [] => m
  | none :: r => Mem.writeList m (a + 1) r
  | some v :: r => Mem.writeList (m.write a v) (a + 1) r

/-- Numbers rising, no zero byte listed outside a stale range. -/
def memWfFrom (m : Mem) (lo : Nat) : Tab Byte → Bool
  | [] => true
  | (a, v) :: r => decide (lo ≤ a) && (m.isStale a || decide (v ≠ 0)) && memWfFrom m (a + 1) r

/-- THE CANONICAL FORM of memory. -/
def Mem.wf (m : Mem) : Bool := memWfFrom m 0 m.cells

/-- A range zeroed (R344, R271, R454): nothing listed in it, no stale range over it. -/
def Mem.zero (m : Mem) (a n : Nat) : Mem :=
  { cells := tabCut m.cells a n
    stale := (m.stale.flatMap (fun r =>
      [(r.1, min r.2.1 a, r.2.2), (max r.1 (a + n), r.2.1, r.2.2)])).filter (fun r => decide (r.1 < r.2.1)) }

/-- A range whose contents become undefined: free values from loss number `g` (R221, R492). -/
def Mem.lose (m : Mem) (a n g : Nat) : Mem :=
  let z := m.zero a n
  { z with stale := z.stale ++ [(a, a + n, g)] }

/-! ## Where an address lies (R190, R197 to R199) -/

def State.windowBytes (s : State) : Nat := s.localActive * 2 ^ 28
def State.interleaved (s : State) : Nat := memBytes - 12 * s.windowBytes
def State.channelGranules (s : State) : Nat := 5859375 - s.windowBytes / 8192

/-- R198: the XOR of the 7-bit slices and of bits [22:21]. -/
def fold7 (l : Nat) : Nat := fld l 0 7 ^^^ fld l 7 7 ^^^ fld l 14 7 ^^^ fld l 21 2

/-- R199: the XOR of the 5-bit slices and of bits [21:20]. -/
def fold5 (l : Nat) : Nat := fld l 0 5 ^^^ fld l 5 5 ^^^ fld l 10 5 ^^^ fld l 15 5 ^^^ fld l 20 2

/-- R198: (logical channel, byte offset in the channel) of an interleaved address. -/
def locateInterleaved (dpa : Nat) : Nat × Nat :=
  let g := dpa / 256
  let h := g / 3
  let l := h / 128
  (128 * (g % 3) + (h % 128 ^^^ fold7 l), l * 256 + dpa % 256)

/-- R199: the same for offset `q` of stack k's window, X granules of each channel being interleaved. -/
def locateLocal (x q k : Nat) : Nat × Nat :=
  let g := q / 256
  let j := g % 32 ^^^ fold5 (g / 32)
  (32 * k + j, (x + g / 32) * 256 + q % 256)

/-- The logical channel and offset of a device physical address. -/
def State.locate (s : State) (dpa : Nat) : Nat × Nat :=
  if dpa < s.interleaved then locateInterleaved dpa
  else
    let q := dpa - s.interleaved
    if s.windowBytes = 0 then (0, 0)
    else locateLocal s.channelGranules (q % s.windowBytes) (q / s.windowBytes)

def State.channelOf (s : State) (line : Nat) : Nat := (s.locate (line * 128)).1
def State.stackOf (s : State) (line : Nat) : Nat := s.channelOf line / 32

/-- R201: the set of a line within its channel's slice. -/
def State.setOf (s : State) (line : Nat) : Nat :=
  let l := (s.locate (line * 128)).2 / 128
  l % 512 ^^^ l / 512 % 512

/-! ## One set of a cache (R206, R207): most recently used first -/

def Line.new (tag dev route : Nat) : Line := ⟨tag, dev, List.replicate 128 0, 0, 0, false, route⟩

def keepCount (set : List Line) : Nat := (set.filter (fun l => l.keep)).length

/-- R207: the least recently used keep lines become normal until the cap is met. -/
def demoteKeep (cap : Nat) (set : List Line) : List Line :=
  let rec go : List Line → Nat → List Line
    | [], _ => []
    | l :: r, room => if l.keep then (if 0 < room then l :: go r (room - 1) else { l with keep := false } :: go r 0)
                      else l :: go r room
  go set cap

/-- R206: a hit line takes its place and keep status under the hint; the flag says that a keep request
exceeded the cap. Hints: 0 normal, 1 keep, 2 evict-first, 3 dead. -/
def hintLine (hint cap : Nat) (l : Line) (rest : List Line) : List Line × Bool :=
  match hint with
  | 1 => if l.keep then (l :: rest, false)
         else if keepCount rest < cap then ({ l with keep := true } :: rest, false) else (l :: rest, true)
  | 2 => (rest ++ [{ l with keep := false }], false)
  | _ => (l :: rest, false)

/-- R207: the victim: the least recently used line that is not keep and not busy, else the least recently
used that is not busy. -/
def victim (busy : Line → Bool) (set : List Line) : Option Line :=
  match set.reverse.find? (fun l => !l.keep && !busy l) with
  | some l => some l
  | none => set.reverse.find? (fun l => !busy l)

/-- What room for a new line costs: nothing, an evicted line, or no victim. -/
inductive Room
  | free | evict (l : Line) | none
  deriving DecidableEq, Repr

def roomIn (busy : Line → Bool) (set : List Line) : Room :=
  if set.length < 16 then .free
  else match victim busy set with
    | some l => .evict l
    | none => .none

/-! ## Bytes of a line -/

/-- Bytes of `d` where given, of `l` elsewhere. -/
def overlayBytes : List Byte → List (Option Byte) → List Byte
  | [], _ => []
  | b :: r, [] => b :: r
  | _ :: r, some v :: q => v :: overlayBytes r q
  | b :: r, none :: q => b :: overlayBytes r q

/-- The mask of the bytes given, from bit `i`. -/
def maskOf (i : Nat) : List (Option Byte) → Nat
  | [] => 0
  | none :: r => maskOf (i + 1) r
  | some _ :: r => 2 ^ i + maskOf (i + 1) r

/-- `n` bytes given from offset `off` of a line. -/
def placeAt (off : Nat) (d : List (Option Byte)) : List (Option Byte) :=
  (List.replicate off none ++ d).take 128

/-- The sectors whose 32 bytes all lie in a byte mask. -/
def fullSectors (m : Nat) : Nat :=
  (List.range 4).foldl (fun a i => if fld m (32 * i) 32 = 2 ^ 32 - 1 then a + 2 ^ i else a) 0

/-- The sectors a byte range touches. -/
def sectorsOf (off n : Nat) : Nat :=
  (List.range 4).foldl (fun a i => if 32 * i < off + n ∧ off < 32 * i + 32 then a + 2 ^ i else a) 0

/-- R204: a store's bytes in a line: written, dirty, a sector valid once all its bytes are written or
fetched. -/
def Line.store (l : Line) (d : List (Option Byte)) : Line :=
  let dirty := l.dirty.toNat ||| maskOf 0 d % 2 ^ 128
  { l with data := overlayBytes l.data d, dirty := BitVec.ofNat 128 dirty,
           valid := l.valid ||| BitVec.ofNat 4 (fullSectors dirty) }

/-- R204, R205: a fetched sector is merged under the dirty mask and becomes valid. -/
def Line.fill (l : Line) (sector : Nat) (d : List Byte) : Line :=
  let fresh := (List.range 128).map (fun i =>
    if i / 32 = sector ∧ !l.dirty.getLsbD i then some (d.getD (i % 32) 0) else none)
  { l with data := overlayBytes l.data fresh, valid := l.valid ||| BitVec.ofNat 4 (2 ^ sector) }

/-- The dirty bytes of a line, as a store. -/
def Line.dirtyBytes (l : Line) : List (Option Byte) :=
  (List.range 128).map (fun i => if l.dirty.getLsbD i then some (l.data.getD i 0) else none)

/-- The line holds byte i. -/
def Line.holds (l : Line) (i : Nat) : Bool := l.dirty.getLsbD i || l.valid.getLsbD (i / 32)

/-! ## The home (R202) -/

def Slice.set (x : Slice) (i : Nat) : List Line := tabGet x.sets [] i
def Slice.setSet (x : Slice) (i : Nat) (l : List Line) : Slice := { x with sets := tabSet x.sets [] i l }

/-- The cached line, and the newest copy in the write-back buffer. -/
def State.cached (s : State) (line : Nat) : Option Line :=
  ((s.slice (s.channelOf line)).set (s.setOf line)).find? (fun l => l.tag == line)
def State.buffered (s : State) (line : Nat) : Option Line :=
  ((s.slice (s.channelOf line)).wb.reverse).find? (fun l => l.tag == line)

/-- R204: a byte that the cache does not hold: the newest dirty one in the write-back buffer, else DRAM's. -/
def State.underByte (s : State) (a : Nat) : Byte :=
  match ((s.slice (s.channelOf (a / 128))).wb.reverse).find? (fun l => l.tag == a / 128 && l.dirty.getLsbD (a % 128)) with
  | some l => l.data.getD (a % 128) 0
  | none => s.dram.read a

/-- R210: the pattern 0x7FDE_ADED, by byte address. -/
def deadByte (a : Nat) : Byte :=
  match a % 4 with
  | 0 => 0xED
  | 1 => 0xAD
  | 2 => 0xDE
  | _ => 0x7F

/-- R202, R204, R210: the byte the home serves: the cache's, the write-back buffer's, a dead line's
pattern, or DRAM's. -/
def State.homeByte (s : State) (a : Nat) : Byte :=
  let line := a / 128
  let i := a % 128
  match s.cached line with
  | some l => if l.holds i then l.data.getD i 0 else s.underByte a
  | none => if (s.slice (s.channelOf line)).dead.elem line then deadByte a else s.underByte a

def State.homeBytes (s : State) (a n : Nat) : List Byte := (List.range n).map (fun i => s.homeByte (a + i))

/-- The sectors of a line that the cache or the write-back buffer holds valid; of a line in the buffer, those written
whole. -/
def State.validAt (s : State) (line : Nat) : Nat :=
  let c := match s.cached line with
    | some l => l.valid.toNat
    | none => 0
  ((s.slice (s.channelOf line)).wb.filter (fun l => l.tag == line)).foldl (fun m l => m ||| fullSectors l.dirty.toNat) c

/-- R192, R219: reading a sector returns poison: its channel has failed, or DRAM holds it poisoned and neither the cache
nor the write-back buffer holds it. -/
def State.sectorPoisoned (s : State) (sec : Nat) : Bool :=
  let line := sec / 4
  s.repair.failed.elem (s.channelOf line) || (s.poison.elem sec && !(s.validAt line).testBit (sec % 4))

/-- Some sector of [a, a + n) reads as poison. -/
def State.poisoned (s : State) (a n : Nat) : Bool :=
  (List.range ((a + n + 31) / 32 - a / 32)).any (fun i => s.sectorPoisoned (a / 32 + i))

/-- R204: a line's dirty bytes reach DRAM; a sector is no longer poisoned once a write covers its 32
bytes (R192). -/
def State.writeBack (s : State) (l : Line) : State :=
  let full := fullSectors l.dirty.toNat
  { s with
    dram := s.dram.writeList (l.tag * 128) l.dirtyBytes
    poison := s.poison.filter (fun p => !(p / 4 == l.tag && full.testBit (p % 4))) }

/-- R204: a victim's dirty bytes move to the write-back buffer of 32 lines; the oldest leaves when it is
full. -/
def State.evictTo (s : State) (ch : Nat) (l : Line) : State :=
  if l.dirty = 0 then s else
  let x := s.slice ch
  if x.wb.length < 32 then s.setSlice ch { x with wb := x.wb ++ [l] }
  else match x.wb with
    | o :: r => (s.writeBack o).setSlice ch { x with wb := r ++ [l] }
    | [] => s

/-- R207: a normal line evicted from a set at the keep cap is counted. -/
def State.countPressure (s : State) (ch : Nat) (set : List Line) (l : Line) : State :=
  if !l.keep && decide (s.keepCap ≤ keepCount set) then
    s.memCount (ch / 32) (fun c => { c with keepPressure := satAdd 48 c.keepPressure 1 })
  else s

def State.countDemoted (s : State) (ch : Nat) (ov : Bool) : State :=
  if ov then s.memCount (ch / 32) (fun c => { c with keepDemoted := satAdd 48 c.keepDemoted 1 }) else s

def unkeepSet (set : List Line) : List Line := set.map (fun l => { l with keep := false })

/-- R208: a keep sweep visits set `i` of a slice in the tick i + 1 after it began; the visit is made when the set is next
looked at (assumption 56). -/
def State.sweepHome (s : State) (ch i : Nat) : State :=
  match s.keepSweep with
  | none => s
  | some w =>
    if w.tick + i < s.tick.toNat ∧ !w.done.elem (ch * 512 + i) then
      let x := s.slice ch
      ({ s with keepSweep := some { w with done := (ch * 512 + i) :: w.done } } : State).setSlice ch (x.setSet i (unkeepSet (x.set i)))
    else s

/-- A line has a fill outstanding: it is never a victim (R207). -/
def Slice.busy (x : Slice) (l : Line) : Bool := x.miss.any (fun m => m.tag == l.tag)

/-- R204, R206, R207: the line is brought to hand in its set, allocated if absent (evicting a victim),
changed by `f` and placed under the hint; none where no victim exists. -/
def State.touchLine (s : State) (line hint : Nat) (f : Line → Line) : Option State :=
  let ch := s.channelOf line
  let i := s.setOf line
  let s := s.sweepHome ch i
  let x := s.slice ch
  let set := demoteKeep s.keepCap (x.set i)
  match set.find? (fun l => l.tag == line) with
  | some l =>
    let (set', ov) := hintLine hint s.keepCap (f l) (set.filter (fun l => l.tag != line))
    some ((s.setSlice ch (x.setSet i set')).countDemoted ch ov)
  | none =>
    match roomIn x.busy set with
    | .none => none
    | .free =>
      let (set', ov) := hintLine hint s.keepCap (f (Line.new line 0 0)) set
      some ((s.setSlice ch (x.setSet i set')).countDemoted ch ov)
    | .evict v =>
      let rest := set.filter (fun l => l.tag != v.tag)
      let (set', ov) := hintLine hint s.keepCap (f (Line.new line 0 0)) rest
      let s := s.countPressure ch set v
      some (((s.setSlice ch (x.setSet i set')).evictTo ch v).countDemoted ch ov)

/-- A line's record under DEAD_POISON ends, by the next write or because it was the oldest of too many (R210); what the
cache filled with the pattern goes with it. -/
def State.undead (s : State) (line : Nat) : State :=
  let ch := s.channelOf line
  let x := s.slice ch
  let clean : Line → Line := fun l => { l with valid := BitVec.ofNat 4 (fullSectors l.dirty.toNat) }
  if x.dead.elem line then
    s.setSlice ch { x.setSet (s.setOf line) (modIf (x.set (s.setOf line)) (fun l => l.tag == line) clean) with
      dead := x.dead.filter (fun l => l != line) }
  else s

/-- R210: a dropped line recorded, the slice's oldest record released beyond 4,096. -/
def State.recordDead (s : State) (line : Nat) : State :=
  let ch := s.channelOf line
  let dead := (s.slice ch).dead.filter (fun l => l != line) ++ [line]
  let s := s.setSlice ch { s.slice ch with dead := dead }
  (dead.take (dead.length - 4096)).foldl State.undead s

/-- R204, R229: a store applied at the home: `d` from byte `off` of the line. Where the set offers no
victim the bytes go to the write-back buffer. -/
def State.storeLine (s : State) (line off hint : Nat) (d : List (Option Byte)) : State :=
  let s := s.undead line
  let h := if hint = 3 then 0 else hint
  match s.touchLine line h (fun l => l.store (placeAt off d)) with
  | some s => s
  | none => s.evictTo (s.channelOf line) ((Line.new line 0 0).store (placeAt off d))

/-- The 32 bytes a fetch of a sector returns: DRAM's under the write-back buffer's, or the pattern of
R210. -/
def State.fetchSector (s : State) (line sector : Nat) : List Byte :=
  (List.range 32).map (fun j =>
    let a := line * 128 + 32 * sector + j
    if (s.slice (s.channelOf line)).dead.elem line then deadByte a else s.underByte a)

/-- The line's sectors of a mask that are not valid, filled. -/
def fillMissing (mask : Nat) (fetch : Nat → List Byte) (l : Line) : Line :=
  (List.range 4).foldl (fun l i => if mask.testBit i && !l.valid.getLsbD i then l.fill i (fetch i) else l) l

/-- Counted when an access returns poison (R223). -/
def State.countPoison (s : State) (line : Nat) : State :=
  s.memCount (s.stackOf line) (fun c => { c with poisonReads := satAdd 32 c.poisonReads 1 })

/-- R193: Halnor records a sector that read as poison: stack, channel, die, bank, row (the map of a channel's lines to these
is a free value), and its line. -/
def State.logPoison (s : State) (line : Nat) : State :=
  let at_ := Config.dramPlace (s.locate (line * 128)).2
  s.logEntry .poison [s.stackOf line, s.channelOf line, at_.1, at_.2.1, at_.2.2, line]

/-- R400: Halnor notes a sector in error. -/
def State.noteError (s : State) (sector : Nat) (lost : Bool) : State :=
  { s with hal := { s.hal with memErrors := s.hal.memErrors ++ [⟨sector, s.hal.ms, lost⟩] } }

/-- R191, R192: a sector found uncorrectable is poisoned, counted and logged. -/
def State.poisonSector (s : State) (line sector : Nat) : State :=
  let s : State := { s.noteError (line * 4 + sector) true with poison := addNew s.poison (line * 4 + sector) }
  (s.memCount (s.stackOf line) (fun c => { c with ueSectors := satAdd 32 c.ueSectors 1 })).logPoison line

/-- R217, R219: of the sectors given, those not yet poisoned are found uncorrectable while they are copied. -/
def State.poisonCopied (s : State) (secs : List Nat) : State :=
  secs.foldl (fun s c => if s.poison.elem c then s else s.poisonSector (c / 4) (c % 4)) s

/-- R209, R210: the cache drops a line it holds, dirty bytes included; nothing is written back. A later
read returns, byte by byte, the last value written or DRAM's: which is a free value. -/
def State.dropLine (s : State) (line : Nat) : State :=
  match s.cached line with
  | none => s
  | some l =>
    let ch := s.channelOf line
    let x := s.slice ch
    let set := (x.set (s.setOf line)).filter (fun k => k.tag != line)
    let kept := (List.range 128).map (fun i =>
      if l.dirty.getLsbD i && Config.deadKept s.freeCtr (line * 128 + i) then some (l.data.getD i 0) else none)
    let s' := { s with dram := s.dram.writeList (line * 128) kept, freeCtr := s.freeCtr + 1 }
    let s' := s'.setSlice ch (x.setSet (s.setOf line) set)
    let s' := s'.memCount (ch / 32) (fun c => { c with deadDrops := satAdd 48 c.deadDrops 1 })
    if s.deadPoison then (s'.recordDead line).logEntry .deadDrop [ch / 32, ch, (s.locate (line * 128)).2 / 128] else s'

/-- R206, R209: what a load with its hint does to its line once its data is read: fills, takes its place,
or, when dead and wholly covered, drops it. -/
def State.loadEffect (s : State) (line off n hint : Nat) : State :=
  if hint = 3 then (if off = 0 ∧ n = 128 then s.dropLine line else s)
  else (s.touchLine line hint (fillMissing (sectorsOf off n) (fun k => s.fetchSector line k))).getD s

/-- A load within one line served whole: its bytes, or none for poison (R193), and the state after. -/
def State.loadLine (s : State) (line off n hint : Nat) : Option (List Byte) × State :=
  if s.poisoned (line * 128 + off) n then (none, s.countPoison line)
  else (some (s.homeBytes (line * 128 + off) n), s.loadEffect line off n hint)

/-- R211: one read-modify-write at the home: `f` on the line's 128 bytes gives the bytes to write. Poison
leaves the line as it is. -/
def State.rmwLine (s : State) (line : Nat) (f : List Byte → List (Option Byte)) : Option (List Byte) × State :=
  if s.poisoned (line * 128) 128 then (none, s.countPoison line)
  else
    let old := s.homeBytes (line * 128) 128
    let s := s.loadEffect line 0 128 0
    (some old, s.storeLine line 0 0 (f old))

/-! ## Ranges of device memory (R225: one part per line) -/

/-- The parts of a range, one per line: (line, offset, bytes), by fuel. -/
def lineParts : Nat → Nat → Nat → List (Nat × Nat × Nat)
  | 0, _, _ => []
  | _, _, 0 => []
  | f + 1, a, n =>
    let k := min n (128 - a % 128)
    (a / 128, a % 128, k) :: lineParts f (a + k) (n - k)

def partsOf (a n : Nat) : List (Nat × Nat × Nat) := lineParts (n / 128 + 2) a n

/-- A store of a range through the homes. -/
def State.storeRange (s : State) (a hint : Nat) (d : List (Option Byte)) : State :=
  (partsOf a d.length).foldl (fun s p =>
    s.storeLine p.1 p.2.1 hint ((d.drop (p.1 * 128 + p.2.1 - a)).take p.2.2)) s

def State.storeBytes (s : State) (a : Nat) (d : List Byte) : State := s.storeRange a 0 (d.map some)

/-- A load of a range through the homes: the bytes before the first poisoned line, whether poison was met,
and the state after. -/
def State.loadRange (s : State) (a n hint : Nat) : List Byte × Bool × State :=
  (partsOf a n).foldl (fun acc p =>
    if acc.2.1 then acc else
    match acc.2.2.loadLine p.1 p.2.1 p.2.2 hint with
    | (some d, s) => (acc.1 ++ d, false, s)
    | (none, s) => (acc.1, true, s)) ([], false, s)

/-- The lines of a range leave the caches of this device, unwritten: used where a range is zeroed. -/
def State.forget (s : State) (a n : Nat) : State :=
  let inRange : Nat → Bool := fun line => decide (a ≤ line * 128) && decide (line * 128 < a + n)
  { s with
    slices := s.slices.map (fun e => (e.1, { e.2 with
      sets := e.2.sets.map (fun f => (f.1, f.2.filter (fun l => !inRange l.tag)))
      wb := e.2.wb.filter (fun l => !inRange l.tag)
      dead := e.2.dead.filter (fun l => !inRange l) }))
    poison := s.poison.filter (fun p => !inRange (p / 4)) }

/-- R344, R271, R454: a range of device memory is zeroed. -/
def State.zeroRange (s : State) (a n : Nat) : State :=
  let s := s.forget a n
  { s with dram := s.dram.zero a n }

/-- R221, R492, R502: the contents of all device memory are undefined. -/
def State.loseMemory (s : State) : State :=
  { s with gauge := { s.gauge with slots := [] }, dram := ⟨[], [(0, memBytes, s.losses)]⟩, losses := s.losses + 1, slices := [], poison := [] }

/-- A reset of one stack (R46): its caches are empty; lines that were dirty become free values (assumption 9). -/
def State.dropStack (s : State) (k : Nat) : State :=
  let mine := s.slices.filter (fun e => e.1 / 32 == k)
  let dirty := mine.flatMap (fun e =>
    (e.2.sets.flatMap (fun f => f.2) ++ e.2.wb).filter (fun l => decide (l.dirty ≠ 0)))
  let dram := dirty.foldl (fun m l => m.lose (l.tag * 128) 128 s.losses) s.dram
  { s with dram := dram, losses := s.losses + 1, slices := s.slices.filter (fun e => e.1 / 32 != k) }

/-- A reset of the base dies: lines that are dirty in a cache become free values, and the caches are
empty; DRAM keeps the rest (assumption 9). -/
def State.dropCaches (s : State) : State :=
  let dirty := s.slices.flatMap (fun e =>
    (e.2.sets.flatMap (fun f => f.2) ++ e.2.wb).filter (fun l => decide (l.dirty ≠ 0)))
  let dram := dirty.foldl (fun m l => m.lose (l.tag * 128) 128 s.losses) s.dram
  { s with dram := dram, losses := s.losses + 1, slices := [], cistern := [], cisMiss := [], cisInq := [], cisDead := [] }

end Sys2Proof.Machine
end

