-- ==== Sys2Proof/Machine/Paging.lean ====
section
/-! DEFINITION. Address spaces: page-table lookup (R343), host memory (R336, R337), the fabric slot check
at issue (R250 to R254), and the structures the device itself reads and writes (R350). -/

namespace Sys2Proof.Machine

/-! ## Pages (R343, R344) -/

def Mapping.covers (m : Mapping) (va : Nat) : Bool := decide (m.va ≤ va) && decide (va < m.va + m.len)

def Ctx.mapOf (x : Ctx) (va : Nat) : Option Mapping := x.maps.find? (fun m => m.covers va)

/-- Permissions: 0 read, 1 write, 2 atomic. -/
def Mapping.allows (m : Mapping) (perm : Nat) : Bool :=
  match perm with
  | 0 => m.read
  | 1 => m.write
  | _ => m.atom

/-- Where an address of a mapping lies. -/
def Mapping.at (m : Mapping) (va : Nat) : MapTarget :=
  let d := va - m.va
  match m.target with
  | .dram a => .dram (a + d)
  | .fabric slot o => .fabric slot (o + d)
  | .host i => .host (i + d)

/-- R343: the target of an address, none where the page is unmapped or lacks the permission. -/
def Ctx.translate (x : Ctx) (va perm : Nat) : Option MapTarget :=
  match x.mapOf (va % 2 ^ 48) with
  | some m => if m.allows perm then some (m.at (va % 2 ^ 48)) else none
  | none => none

/-! ## Host memory (R336, R337, R343) -/

/-- The key of a host byte: each PASID is an address space; a function's own space is numbered above
them. -/
def hostKey (space iova : Nat) : Nat := space * 2 ^ 64 + iova
def fnSpace (f : Nat) : Nat := 2 ^ 20 + f

def hostPages (iova n : Nat) : List Nat := (List.range ((iova + n + 4095) / 4096 - iova / 4096)).map (fun i => iova / 4096 + i)

/-- One page: cached, or translated by the host anew. A page the host has invalidated is granted or not
as a free value (assumption 12). -/
def State.hostPage (s : State) (space page : Nat) : Bool × State :=
  if s.ats.elem (space, page) then (true, s) else
  let gone := s.invalid.any (fun r => r.1 == space && decide (r.2.1 < (page + 1) * 4096) && decide (page * 4096 < r.2.1 + r.2.2))
  let ok := !gone || Config.hostGrant s.freeCtr space page
  let s := if gone then s.drawn else s
  if ok then (true, { s with ats := (addNew s.ats (space, page)).drop ((addNew s.ats (space, page)).length - 2048) })
  else (false, s)

/-- Every page of a host range translates. -/
def State.hostRange (s : State) (space iova n : Nat) : Bool × State :=
  (hostPages iova n).foldl (fun acc p => if acc.1 then acc.2.hostPage space p else acc) (true, s)

def State.hostRead (s : State) (space iova n : Nat) : List Byte := tabRange s.hostMem 0 (hostKey space iova) n
def State.hostWrite (s : State) (space iova : Nat) (d : List Byte) : State :=
  { s with hostMem := tabWrite s.hostMem 0 (hostKey space iova) d }

/-! ## Fabric slots (R252 to R254) -/

def slotValid (e : BitVec 128) : Bool := e.getLsbD 0
def slotKind (e : BitVec 128) : Nat := bvFld e 1 2
def slotRoute (e : BitVec 128) : Nat := bvFld e 6 2
def slotTarget (e : BitVec 128) : Nat := bvFld e 16 16
def slotBase (e : BitVec 128) : Nat := bvFld e 64 40

def Ctx.slot (x : Ctx) (i : Nat) : BitVec 128 := tabGet x.slots 0 i

/-- R252: the reserved fields of an entry are zero. -/
def slotReservedZero (e : BitVec 128) : Bool :=
  decide (bvFld e 8 8 = 0) && decide (bvFld e 32 32 = 0) && decide (bvFld e 104 24 = 0)

/-- What a request wants of its slot. -/
inductive FabUse
  | threadLoad | threadStore | threadAtomic | engineLoad | engineStore | reduction
  deriving DecidableEq, Repr

def FabUse.permBit : FabUse → Nat
  | .threadLoad | .engineLoad => 3
  | .threadStore | .engineStore => 4
  | .threadAtomic | .reduction => 5

/-- R253: the operations a kind of slot allows. -/
def kindAllows (kind : Nat) (u : FabUse) : Bool :=
  match kind, u with
  | 0, _ => true
  | 1, .engineLoad | 1, .engineStore | 1, .reduction => true
  | 2, .engineStore => true
  | _, _ => false

/-- R254: the device that a chain route reaches; the fabric route reaches any. -/
def State.routeReaches (s : State) (route dev : Nat) : Bool :=
  match route with
  | 0 => true
  | 1 => (s.port 16).peerId == dev
  | 2 => (s.port 17).peerId == dev
  | _ => false

/-- R250, R252 to R254: the slot check at issue, apart from what it is used for. A group is not the device at the end of a
chain port (R254). -/
def State.slotUsable (s : State) (e : BitVec 128) : Bool :=
  s.fab.valid && slotValid e && decide (slotKind e ≠ 3) && decide (slotRoute e ≠ 3) && slotReservedZero e &&
  (match slotKind e with
   | 0 => s.fab.domain.elem (slotTarget e) && s.routeReaches (slotRoute e) (slotTarget e)
   | 1 => s.routeReaches (slotRoute e) (slotTarget e)
   | _ => decide (slotRoute e = 0) && decide ((tabGet s.fab.groups [] (slotTarget e)) ≠ []))

/-- A multicast group as a destination, numbered above the devices. -/
def groupDev (g : Nat) : Nat := 65536 + g

/-- R252: a request through slot `slot` at offset `o`: its target device (or group), target offset and
route; none is FABRIC_ACCESS. -/
def State.fabricTarget (s : State) (c slot o : Nat) (u : FabUse) : Option (Nat × Nat × Nat) :=
  let e := (s.ctx c).slot slot
  if s.slotUsable e && kindAllows (slotKind e) u && e.getLsbD u.permBit then
    some ((if slotKind e = 2 then groupDev (slotTarget e) else slotTarget e), (slotBase e + o) % 2 ^ 40, slotRoute e)
  else none

/-- How an address is reached for one use. -/
inductive Reach
  | place (p : Place)
  | noPage
  | noFabric
  deriving DecidableEq, Repr

/-- R343, R252: an address of a context, for one use. -/
def State.reach (s : State) (c va perm : Nat) (u : FabUse) : Reach :=
  match (s.ctx c).translate va perm with
  | none => .noPage
  | some (.dram a) => .place (.dram a)
  | some (.host i) => .place (.host i)
  | some (.fabric slot o) =>
    match s.fabricTarget c slot o u with
    | some (dev, off, route) => .place (.remote dev off route slot)
    | none => .noFabric

/-! ## Structures the device reads and writes (R350): local or host memory only -/

inductive StructErr
  | page (va : Nat) | fabric | poison (va : Nat)
  deriving DecidableEq, Repr

/-- One part of a structure, within one 128 B line. -/
def State.readPart (s : State) (c va n : Nat) : Except StructErr (List Byte) × State :=
  match (s.ctx c).translate va 0 with
  | none => (.error (.page va), s)
  | some (.fabric ..) => (.error .fabric, s)
  | some (.dram a) =>
    match s.loadLine (a / 128) (a % 128) n 0 with
    | (some d, s) => (.ok d, s)
    | (none, s) => (.error (.poison va), s)
  | some (.host i) =>
    let (ok, s) := s.hostRange (s.ctx c).pasid i n
    if ok then (.ok (s.hostRead (s.ctx c).pasid i n), s) else (.error (.page va), s)

/-- `n` bytes of a structure at a virtual address. -/
def State.readStruct (s : State) (c va n : Nat) : Except StructErr (List Byte) × State :=
  (partsOf va n).foldl (fun acc p =>
    match acc with
    | (.error e, s) => (.error e, s)
    | (.ok d, s) =>
      match s.readPart c (p.1 * 128 + p.2.1) p.2.2 with
      | (.ok d', s) => (.ok (d ++ d'), s)
      | (.error e, s) => (.error e, s)) (.ok [], s)

/-- One part written; none where it does not translate to local or host memory. -/
def State.writePart (s : State) (c va : Nat) (d : List Byte) : Option State :=
  match (s.ctx c).translate va 1 with
  | some (.dram a) => some (s.storeLine (a / 128) (a % 128) 0 (d.map some))
  | some (.host i) =>
    let (ok, s) := s.hostRange (s.ctx c).pasid i d.length
    if ok then some (s.hostWrite (s.ctx c).pasid i d) else none
  | _ => none

/-- Bytes written at a virtual address, or none (and nothing written) where a part does not translate. -/
def State.writeStruct (s : State) (c va : Nat) (d : List Byte) : Option State :=
  (partsOf va d.length).foldl (fun acc p => acc.bind (fun s =>
    s.writePart c (p.1 * 128 + p.2.1) ((d.drop (p.1 * 128 + p.2.1 - va)).take p.2.2))) (some s)

end Sys2Proof.Machine
end

