-- ==== Sys2Proof/Machine/SyncOps.lean ====
section
/-! DEFINITION. Sync objects at their homes (R311 to R335): names, the share check, signals, arrivals,
waits and wakes, poisoning, and how an outcome reaches the signaller. -/

namespace Sys2Proof.Machine

/-- R317: values from 2⁶³ are the poison range. -/
def poisonBase : Nat := 2 ^ 63

/-- R317: the poison value of a former owner. -/
def poisonValue (reason owner : Nat) : Word64 := BitVec.ofNat 64 (2 ^ 63 + reason * 2 ^ 48 + owner % 4096)

/-- R311: the stack that homes an object. -/
def State.syncHome (s : State) (i : Nat) : Nat := s.stackOf ((s.sync.baseActive * 2 ^ 22 + 64 * i) / 128)

/-! ## Names (R314, R330) -/

/-- R314: the sync map entry of a virtual ID, read where the map lies. -/
def State.syncEntry (s : State) (c vid : Nat) : Nat :=
  leNat (s.homeBytes ((s.ctx c).syncMap + 16 * vid) 16)

/-- What a virtual ID names, or the reason of R508 for which it is denied. -/
inductive SyncRef
  | denied (reason : Nat)
  | own (i : Nat)
  | shared (i handle : Nat)
  | remote (dev handle : Nat)
  deriving DecidableEq, Repr

/-- R314, R333: `wait` asks for the WAIT bit, else the SIGNAL bit. -/
def State.resolveSync (s : State) (c vid : Nat) (wait : Bool) : SyncRef :=
  if !s.sync.active then .denied 7 else
  if (s.ctx c).syncMapSize ≤ vid then .denied 1 else
  let e := s.syncEntry c vid
  if !bit e 0 then .denied 1
  else match fld e 1 2 with
    | 3 => .denied 1
    | ref =>
      if !bit e (if wait then 4 else 3) then .denied 2
      else if ref = 0 then
        let i := fld e 16 16
        let o := s.syncObj i
        if o.kind ≠ 0 ∧ o.owner = c then .own i else .denied 3
      else if ref = 1 then .shared (fld e 16 16) (fld e 64 32)
      else if wait then .denied 6 else .remote (fld e 32 16) (fld e 64 32)

/-- R330: the object a handle names for a context of a device with a right, none where the check fails. -/
def State.shareCheck (s : State) (handle dev c : Nat) (wait : Bool) : Option Nat :=
  let e := tabGet s.sync.shares Share.free (fld handle 0 14)
  if e.tag = fld handle 14 18 ∧
      e.grants.any (fun g => g.device == dev && g.ctx == c && (if wait then g.wait else g.signal))
  then e.obj else none

/-- R334: a denied operation through a handle is counted at the stack that homes the object its entry
names, else at stack 0. -/
def State.countDeniedHandle (s : State) (handle : Nat) : State :=
  let k := match (tabGet s.sync.shares Share.free (fld handle 0 14)).obj with
    | some i => s.syncHome i
    | none => 0
  s.syncCount k (fun x => { x with deniedIn := satAdd 32 x.deniedIn 1 })

/-! ## Waiters (R321, R322) -/

/-- A registered wait of object `i` that its value satisfies gets its wake: status 1 for poison. -/
def wakeOf (i : Nat) (value : Word64) (w : Wait) : Wait :=
  if w.index = i ∧ w.state = .pooled then
    if poisonBase ≤ value.toNat then { w with state := .wake 1 }
    else if w.target.toNat ≤ value.toNat then { w with state := .wake 0 } else w
  else w

/-- R319 step 3, R321: every waiter the object's value satisfies is woken, in order of registration; the
pool entries free. -/
def State.wakeWaiters (s : State) (i : Nat) : State :=
  let v := (s.syncObj i).value
  let ws := s.sync.waits.map (wakeOf i v)
  let left := (ws.filter (fun w => w.index == i && decide (w.state = .pooled))).length
  let s := s.modSync (fun y => { y with waits := ws })
  s.setSyncObj i { s.syncObj i with waiters := left }

/-- R321: the pool entries in use at a stack. -/
def State.poolUse (s : State) (k : Nat) : Nat :=
  (s.sync.waits.filter (fun w => decide (w.state = .pooled) && s.syncHome w.index == k)).length

/-- R321: a registration or a poll applied at the home. -/
def State.registerWait (s : State) (w : Wait) : State :=
  let o := s.syncObj w.index
  let k := s.syncHome w.index
  let put : WaitState → State := fun st =>
    s.modSync (fun y => { y with waits := modIf y.waits (fun x => x.id == w.id) (fun x => { x with state := st }) })
  if poisonBase ≤ o.value.toNat then put (.wake 1)
  else if w.target.toNat ≤ o.value.toNat then put (.wake 0)
  else if s.poolUse k < 4096 then
    let s' := put .pooled
    let s' := s'.setSyncObj w.index { o with waiters := o.waiters + 1 }
    s'.syncCount k (fun x => { x with waitersHigh := max x.waitersHigh (min 65535 (s.poolUse k + 1)) })
  else if w.state = .polling then s
  else (put .polling).syncCount k (fun x => { x with waiterOverflow := satAdd 32 x.waiterOverflow 1 })

/-! ## Signals and arrivals (R316, R318, R319) -/

/-- How a signal or arrival ends at its home. -/
inductive SyncOut
  | applied
  | regression (reason : Nat) (home : Word64)
  | denied (reason : Nat)
  | double
  deriving DecidableEq, Repr

/-- R316: the new value of a fence, or the reason for which the signal is a regression. -/
def fenceNext (o : SyncObj) (add : Bool) (v : Nat) : Except Nat Word64 :=
  if o.poisoned || decide (poisonBase ≤ o.value.toNat) then .error 3
  else if add then
    let n := v % 2 ^ 32
    if n = 0 ∨ poisonBase ≤ o.value.toNat + n then .error 2 else .ok (o.value + BitVec.ofNat 64 n)
  else if poisonBase ≤ v then .error 2
  else if v ≤ o.value.toNat then .error 1
  else .ok (BitVec.ofNat 64 v)

def State.countSignals (s : State) (i : Nat) : State :=
  s.syncCount (s.syncHome i) (fun x => { x with signals := satAdd 48 x.signals 1 })
def State.countRegression (s : State) (i : Nat) : State :=
  s.syncCount (s.syncHome i) (fun x => { x with regressions := satAdd 32 x.regressions 1 })
def State.countDeniedAt (s : State) (i : Nat) : State :=
  s.syncCount (s.syncHome i) (fun x => { x with deniedIn := satAdd 32 x.deniedIn 1 })

/-- R316, R320: a signal applied at the home of object `i`. -/
def State.applySignal (s : State) (i : Nat) (add : Bool) (v : Nat) : State × SyncOut :=
  let o := s.syncObj i
  if o.kind = 1 then
    match fenceNext o add v with
    | .ok n => ((((s.setSyncObj i { o with value := n }).wakeWaiters i).countSignals i), .applied)
    | .error r => (s.countRegression i, .regression r o.value)
  else if o.kind = 2 then
    if o.poisoned then (s.countRegression i, .regression 3 o.value) else (s.countDeniedAt i, .denied 5)
  else (s.countDeniedAt i, .denied 3)

/-- R319: generations complete while the open count equals EXPECTED; the held count moves up. The second
round ends it, since the held count is then zero. -/
def completeGen (o : SyncObj) : SyncObj :=
  if o.countOpen = o.expected then
    { o with value := o.value + 1, countOpen := o.countHeld, countHeld := 0 } else o

/-- R318, R320: an arrival applied at the home. -/
def State.applyArrival (s : State) (i gen n : Nat) : State × SyncOut :=
  let o := s.syncObj i
  if o.kind = 2 then
    if o.poisoned then (s.countRegression i, .regression 3 o.value)
    else
      let fail := (s.syncCount (s.syncHome i) (fun x => { x with doubleArrivals := satAdd 32 x.doubleArrivals 1 }), SyncOut.double)
      if gen = o.value.toNat ∧ o.countOpen + n ≤ o.expected then
        let o' := completeGen (completeGen { o with countOpen := o.countOpen + n })
        ((((s.setSyncObj i o').wakeWaiters i).countSignals i), .applied)
      else if gen = o.value.toNat + 1 ∧ o.countHeld + n ≤ o.expected then
        (((s.setSyncObj i { o with countHeld := o.countHeld + n }).countSignals i), .applied)
      else fail
  else if o.kind = 1 then
    if o.poisoned then (s.countRegression i, .regression 3 o.value) else (s.countDeniedAt i, .denied 5)
  else (s.countDeniedAt i, .denied 3)

/-! ## How an outcome reaches the signaller (R315, R316, R318, R326, R93, R303) -/

/-- The queue a signaller is, if it is one. -/
def Who.queue? : Who → Option Nat
  | .queue _ q => some q
  | _ => none

def Who.isRegion : Who → Bool
  | .region _ => true
  | _ => false

/-- A fault of a signal: a region's SIGNAL aborts the region (R303), a queue's stops the queue at the
descriptor, any other is a deferred fault of the context (R93). -/
def State.syncFault (s : State) (who : Who) (c : Nat) (f : FaultRec) : State :=
  match who with
  | .region _ => s.abortRegion f
  | .queue _ q => s.takeFault c (some q) { f with queue := q }
  | _ => s.takeFault c none { f with deferred := true }

/-- R315, R316, R318: what the signaller's context records, and whether it stops. `f` names the
signalling place; a regression's record has VALUE at the home as well (R316, assumption 148). -/
def State.syncReport (s : State) (who : Who) (c : Nat) (f : FaultRec) (out : SyncOut) : State :=
  match out with
  | .applied => s
  | .denied r =>
    let f := { f with code := .syncDenied, detail := r }
    let s := s.modCtx c (fun x => { x with denied := satAdd 32 x.denied 1 })
    let s := s.recordOnly c f
    if (s.ctx c).syncDenyFault then s.syncFault who c f else s
  | .regression r home =>
    let f := { f with code := .fenceRegression, detail := r, home := home }
    let s := s.modCtx c (fun x => { x with regressions := satAdd 32 x.regressions 1 })
    let s := s.recordOnly c f
    if (s.ctx c).regressionStop then s.syncFault who c f else s
  | .double => s.syncFault who c { f with code := .doubleArrival, detail := 0 }

/-- What a signalling operation's fault record names (R326): instruction, lanes, virtual ID; and the object, or the handle of
another device's, with the signalled value (R316). -/
def SyncOp.place (o : SyncOp) : FaultRec :=
  let tile := match o.who with
    | .group t _ | .dma t _ | .region t => t
    | _ => 0xFFFF
  { faultOf .syncDenied 0 with tile := tile, slot := o.slot, where' := o.pc, lanes := o.lanes, address := BitVec.ofNat 64 o.vid,
                               device := match o.remote with | some d => d.1 | none => 0
                               object := if o.remote.isSome then o.handle.getD 0 else o.index, value := o.value }

/-! ## Owners that go away (R327) -/

/-- R327: every object the context owns is set to poison, and its waiters are woken with OWNER_LOST. -/
def State.poisonOwned (s : State) (c reason : Nat) : State :=
  let mine := (s.sync.objs.filter (fun e => e.2.kind != 0 && e.2.owner == c)).map (fun e => e.1)
  mine.foldl (fun s i =>
    (s.setSyncObj i { s.syncObj i with value := poisonValue reason c, poisoned := true }).wakeWaiters i) s

/-- R327: a waiter whose own context is reset or destroyed is removed and receives no wake. -/
def State.dropWaits (s : State) (c : Nat) : State :=
  let gone := s.sync.waits.filter (fun w => w.ctx == c && decide (w.state = .pooled))
  let s := s.modSync (fun y => { y with waits := y.waits.filter (fun w => w.ctx != c) })
  gone.foldl (fun s w => s.setSyncObj w.index { s.syncObj w.index with waiters := (s.syncObj w.index).waiters - 1 }) s

/-- R331: a share entry is unregistered: its tag advances and the entry becomes free. -/
def State.unshare (s : State) (e : Nat) : State :=
  let x := tabGet s.sync.shares Share.free e
  let s := s.modSync (fun y => { y with shares := tabSet y.shares Share.free e ⟨none, [], (x.tag + 1) % 2 ^ 18⟩ })
  match x.obj with
  | some i =>
    let still := s.sync.shares.any (fun e => e.2.obj == some i)
    s.setSyncObj i { s.syncObj i with exported := still }
  | none => s

end Sys2Proof.Machine
end

