-- ==== Sys2Proof/Machine/Fabric.lean ====
section
/-! DEFINITION. The sending side of the fabric (R256 to R258) and the cistern (R212 to R216, R228,
R234 to R236). -/

namespace Sys2Proof.Machine

/-! ## Requests that leave the device -/

def seqKey (dev route : Nat) : Nat := dev * 4 + route

/-- R257: the bucket of a request: the XOR of the 8-bit slices of (line xor dev) over bits [39:0]. -/
def pathBucket (dev line : Nat) : Nat :=
  let x := line ^^^ dev
  fld x 0 8 ^^^ fld x 8 8 ^^^ fld x 16 8 ^^^ fld x 24 8 ^^^ fld x 32 8

/-- The target offset an operation acts on. -/
def FabOp.offset : FabOp → Nat
  | .load o _ => o
  | .store o _ => o
  | .atomic o _ _ _ => o
  | .redLine o _ _ _ => o
  | .close o _ _ => o
  | .multicast _ o _ => o
  | .fence .. => 0

/-- R257: port and plane of a request on its route. -/
def State.pathOf (s : State) (dev route : Nat) (op : FabOp) : Nat × Nat :=
  match route with
  | 1 => (16, 0)
  | 2 => (17, 0)
  | _ => tabGet s.fab.path (0, 0) (pathBucket dev (op.offset / 128))

/-- A port of the route is up (R268). -/
def State.routeUp (s : State) (route : Nat) : Bool :=
  match route with
  | 1 => (s.port 16).up
  | 2 => (s.port 17).up
  | _ => (List.range 16).any (fun p => (s.port p).up)

/-- R258: at most 512 unacknowledged requests per destination have left the device. -/
def State.mayLeave (s : State) (dev route : Nat) : Bool :=
  s.routeUp route && decide ((s.fab.out.filter (fun r => r.left && r.dev == dev)).length < 512)

/-- R255: a store to a group is a multicast store. -/
def FabOp.toDest (op : FabOp) (dev : Nat) : FabOp :=
  match op with
  | .store o d => if 65536 ≤ dev then .multicast (dev - 65536) o d else .store o d
  | op => op

/-- R256: a request takes the next sequence number of its destination and route and leaves when it may. -/
def State.sendFabric (s : State) (dev route : Nat) (op : FabOp) (access sync : Option Nat) (c : Nat) : State :=
  let op := op.toDest dev
  let k := seqKey dev route
  let n := tabGet s.fab.outSeq 0 k
  let ok := s.mayLeave dev route && !(s.fab.out.any (fun r => !r.left && r.dev == dev && r.route == route))
  let p := s.pathOf dev route op
  let s := s.modFab (fun f => { f with
    outSeq := tabSet f.outSeq 0 k (n + 1)
    out := f.out ++ [⟨dev, route, n, op, access, sync, c, ok, false, p.1, p.2, s.tick.toNat⟩] })
  if ok then
    s.emit (.request dev route n s.fab.partition p.1 p.2 op)
  else s

/-- The sequence number the next request will take. -/
def State.nextSeq (s : State) (dev route : Nat) : Nat := tabGet s.fab.outSeq 0 (seqKey dev route)

/-- Requests that waited leave, in order, while they may. -/
def State.pumpOut (s : State) : State :=
  (s.fab.out.filter (fun r => !r.left)).foldl (fun s r =>
    if s.mayLeave r.dev r.route then
      let p := s.pathOf r.dev r.route r.op
      (s.modFab (fun f => { f with out := modIf f.out (fun x => x == r) (fun x =>
        { x with left := true, port := p.1, plane := p.2, sentAt := s.tick.toNat }) })).emit
        (.request r.dev r.route r.seq s.fab.partition p.1 p.2 r.op)
    else s) s

/-! ## Signals that leave (R324, R326) -/

/-- A signal or arrival sent: one for another device leaves as a fence signal (R255). -/
def State.sendOp (s : State) (o : SyncOp) : State :=
  let s := s.modSync (fun y => { y with ops := modIf y.ops (fun x => x.id == o.id) (fun x => { x with sent := true }) })
  match o.remote with
  | some d => s.sendFabric d.1 d.2 (.fence o.ctx (o.handle.getD 0) (decide (o.kind = .add)) (decide (o.kind = .arrive)) o.value o.count)
      none (some o.id) o.ctx
  | none => s

/-- R324: the signals a group holds back are sent. -/
def State.sendOps (s : State) (tile uid : Nat) : State :=
  (s.sync.ops.filter (fun o => decide (o.who = .group tile uid) && !o.sent)).foldl State.sendOp s

/-! ## The cistern (R212, R213) -/

def cisSlice (dev n : Nat) : Nat := n % 4 ^^^ dev % 4
def cisSet (dev n : Nat) : Nat := fld n 2 13 ^^^ fld n 15 13 ^^^ fld dev 3 13

/-- R212: the one place of a fabric line on this device. -/
def cisKey (dev n : Nat) : Nat := cisSlice dev n * 8192 + cisSet dev n

def Line.isFab (l : Line) (dev n : Nat) : Bool := l.tag == n && l.dev == dev

def State.cisLine (s : State) (dev n : Nat) : Option Line :=
  (tabGet s.cistern [] (cisKey dev n)).find? (fun l => l.isFab dev n)

def State.setCis (s : State) (k : Nat) (set : List Line) : State := { s with cistern := tabSet s.cistern [] k set }

def Miss.isFab (m : Miss) (dev n : Nat) : Bool := m.tag == n && m.dev == dev

/-- A request of the line is out. -/
def State.cisMissOf (s : State) (dev n : Nat) : Option Miss := s.cisMiss.find? (fun m => m.isFab dev n)

/-- Bytes given by `d`, else by `o`. -/
def overBytes (o d : List (Option Byte)) : List (Option Byte) :=
  (List.range 128).map (fun i => match d.getD i none with
    | some v => some v
    | none => o.getD i none)

/-- R237: bytes that leave a line are newer than what its outstanding fills bring. -/
def State.overFills (s : State) (dev n : Nat) (d : List (Option Byte)) : State :=
  { s with cisMiss := modIf s.cisMiss (fun m => m.isFab dev n) (fun m => { m with newer := overBytes m.newer d }) }

/-- The outstanding fills of a line serve the waiters they have and are then discarded. -/
def State.stopFills (s : State) (dev n : Nat) : State :=
  { s with cisMiss := modIf s.cisMiss (fun m => m.isFab dev n) (fun m => { m with discard := true }) }

/-- R213: a line's dirty bytes leave as one write on a route. -/
def State.sendDirty (s : State) (l : Line) (route c : Nat) : State :=
  if l.dirty = 0 then s
  else (s.sendFabric l.dev route (.store (l.tag * 128) l.dirtyBytes) none none c).overFills l.dev l.tag l.dirtyBytes

def State.countCisDemoted (s : State) (k : Nat) (b : Bool) : State :=
  if b then s.cisCount k (fun c => { c with keepDemoted := satAdd 48 c.keepDemoted 1 }) else s

/-- R208: as `sweepHome`, of a cistern set; the slices visit theirs in wet ticks (R38). -/
def State.sweepCis (s : State) (k : Nat) : State :=
  match s.keepSweep with
  | none => s
  | some w =>
    if w.wet + k % 8192 < s.wet.toNat ∧ !w.done.elem (2 ^ 20 + k) then
      ({ s with keepSweep := some { w with done := (2 ^ 20 + k) :: w.done } } : State).setCis k (unkeepSet (tabGet s.cistern [] k))
    else s

/-- R244: the devices whose lines a revocation's walk has still to invalidate: no such line is written back. -/
def State.revokedDevs (s : State) : List Nat :=
  (s.walks.filter (fun w => decide (w.kind = .revoke))).flatMap (fun w => (w.ranges.getD []).map (fun r => r.1))

/-- R206, R207, R213: the line brought to hand in its set, allocated if absent; a dirty victim leaves on
its recorded route. None where no victim exists. -/
def State.touchCis (s : State) (dev n hint : Nat) (f : Line → Line) : Option State :=
  let k := cisKey dev n
  let sl := cisSlice dev n
  let s := s.sweepCis k
  let set := demoteKeep s.keepCap (tabGet s.cistern [] k)
  match set.find? (fun l => l.isFab dev n) with
  | some l =>
    let (set', dem) := hintLine hint s.keepCap (f l) (set.filter (fun l => !l.isFab dev n))
    some ((s.setCis k set').countCisDemoted sl dem)
  | none =>
    let busy : Line → Bool := fun l => (s.cisMissOf l.dev l.tag).isSome || s.revokedDevs.elem l.dev
    match roomIn busy set with
    | .none => none
    | .free =>
      let (set', dem) := hintLine hint s.keepCap (f (Line.new n dev 0)) set
      some ((s.setCis k set').countCisDemoted sl dem)
    | .evict v =>
      let (set', dem) := hintLine hint s.keepCap (f (Line.new n dev 0)) (set.filter (fun l => !l.isFab v.dev v.tag))
      let s := if !v.keep && decide (s.keepCap ≤ keepCount set) then
          s.cisCount sl (fun c => { c with keepPressure := satAdd 48 c.keepPressure 1 }) else s
      some (((s.setCis k set').countCisDemoted sl dem).sendDirty v v.route numCtxs)

/-- R210, R215: the pattern's record of a line ends, and what was filled with the pattern goes. -/
def State.cisUndead (s : State) (dev n : Nat) : State :=
  if s.cisDead.elem (dev, n) then
    let k := cisKey dev n
    ({ s with cisDead := s.cisDead.filter (fun e => e != (dev, n)) } : State).setCis k
      (modIf (tabGet s.cistern [] k) (fun l => l.isFab dev n) (fun l => { l with valid := BitVec.ofNat 4 (fullSectors l.dirty.toNat) }))
  else s

/-- R210, R215: a dropped line recorded, a slice's oldest record released beyond 4,096. -/
def State.recordCisDead (s : State) (dev n : Nat) : State :=
  let s : State := { s with cisDead := s.cisDead.filter (fun e => e != (dev, n)) ++ [(dev, n)] }
  let mine := s.cisDead.filter (fun e => cisSlice e.1 e.2 == cisSlice dev n)
  (mine.take (mine.length - 4096)).foldl (fun s e => s.cisUndead e.1 e.2) s

/-- R213: a remote store held in the cistern: no fetch; the route of the store that first dirties the
line is recorded. -/
def State.cisStore (s : State) (dev n route off hint : Nat) (d : List (Option Byte)) : Option State :=
  (s.cisUndead dev n).touchCis dev n (if hint = 3 then 0 else hint) (fun l =>
    let l := if l.dirty = 0 then { l with route := route } else l
    l.store (placeAt off d))

/-- The cistern's copy of a line is invalidated. -/
def State.cisInvalidate (s : State) (dev n : Nat) : State :=
  let k := cisKey dev n
  s.setCis k ((tabGet s.cistern [] k).filter (fun l => !l.isFab dev n))

/-- The devices whose homes a request's line has: its target, or the members of its group (R260). -/
def State.targets (s : State) (dev : Nat) : List Nat :=
  if 65536 ≤ dev then tabGet s.fab.groups [] (dev - 65536) else [dev]

/-- One device's line: its dirty bytes leave, its copy and its outstanding fills are not kept. -/
def State.flushLine (s : State) (dev n route c : Nat) : State :=
  let s := (s.cisUndead dev n).stopFills dev n
  match s.cisLine dev n with
  | some l => (s.sendDirty l route c).cisInvalidate dev n
  | none => s

/-- R214, R234: the dirty bytes of the line leave first, on the operation's own route, and the copy is
invalidated. -/
def State.flushFirst (s : State) (dev n route c : Nat) : State :=
  (s.targets dev).foldl (fun s d => s.flushLine d n route c) s

/-- R228: the sectors a load of [off, off + len) fetches: every needed sector when one of them is missing,
a dirty sector's clean bytes included. -/
def cisFetchMask (l : Option Line) (off len : Nat) : Nat :=
  let need := sectorsOf off len
  match l with
  | none => need
  | some l => if need &&& l.valid.toNat = need then 0 else need

/-- R215: a dead load drops a wholly covered line, dirty bytes included. -/
def State.cisDrop (s : State) (dev n : Nat) : State :=
  match s.cisLine dev n with
  | none => s
  | some _ =>
    let s := (s.cisInvalidate dev n).cisCount (cisSlice dev n) (fun c => { c with deadDrops := satAdd 48 c.deadDrops 1 })
    if s.deadPoison then (s.recordCisDead dev n).logEntry .deadDrop [dev, n] else s

/-! ## Walks (R216, R233, R236, R244) -/

/-- Every line the cistern holds. -/
def State.cisLines (s : State) : List Line := s.cistern.flatMap (fun e => e.2)

/-- A fabric line lies in one of the ranges (device, first line, last line); none means everything. -/
def inRanges (rs : Option (List (Nat × Nat × Nat))) (l : Line) : Bool :=
  match rs with
  | none => true
  | some rs => rs.any (fun r => r.1 == l.dev && decide (r.2.1 ≤ l.tag) && decide (l.tag ≤ r.2.2))

/-- R216: the ticks a walk takes: 8 lines per tick in each slice, the whole slice at most. -/
def walkTicks (rs : Option (List (Nat × Nat × Nat))) : Nat :=
  match rs with
  | none => 16384
  | some rs =>
    let lines := rs.foldl (fun a r => a + (r.2.2 + 1 - r.2.1)) 0
    let per := (lines + 3) / 4
    if 131072 < per then 16384 else (per + 7) / 8

/-- The fabric lines of a virtual range: pages that are unmapped or map local or host memory are skipped
(R232). -/
def State.rangeLines (s : State) (c base len : Nat) : List (Nat × Nat × Nat) :=
  (s.ctx c).maps.filterMap (fun m =>
    match m.target with
    | .fabric slot o =>
      let e := (s.ctx c).slot slot
      let lo := max base m.va
      let hi := min (base + len) (m.va + m.len)
      if lo < hi ∧ slotValid e then
        let t := slotBase e + o + (lo - m.va)
        some (slotTarget e, t % 2 ^ 40 / 128, (t + (hi - lo) - 1) % 2 ^ 40 / 128)
      else none
    | _ => none)

/-- A line whose dirty bytes have left. -/
def Line.cleaned (l : Line) : Line :=
  { l with dirty := 0, valid := l.valid ||| BitVec.ofNat 4 (fullSectors l.dirty.toNat) }

/-- R233: a walk writes back every dirty line of its range; the requests it waits for. -/
def State.writeBackLines (s : State) (rs : Option (List (Nat × Nat × Nat))) (c : Nat) : State × List (Nat × Nat × Nat) :=
  (s.cisLines.filter (fun l => inRanges rs l && decide (l.dirty ≠ 0) && !s.revokedDevs.elem l.dev)).foldl (fun acc l =>
    let s := acc.1
    let id := (l.dev, l.route, s.nextSeq l.dev l.route)
    let s := s.sendDirty l l.route c
    let k := cisKey l.dev l.tag
    let clean := modIf (tabGet s.cistern [] k) (fun x => x.isFab l.dev l.tag) Line.cleaned
    (s.setCis k clean, acc.2 ++ [id])) (s, [])

/-- R236: an acquire invalidates the clean sectors of its range and keeps dirty bytes; an outstanding fill
is discarded once it has served its waiters. -/
def State.acquireLines (s : State) (rs : Option (List (Nat × Nat × Nat))) : State :=
  { s with
    cistern := (s.cistern.map (fun e => (e.1, (e.2.map (fun l =>
      if inRanges rs l then { l with valid := BitVec.ofNat 4 (fullSectors l.dirty.toNat) } else l)).filter
        (fun l => decide (l.valid ≠ 0) || decide (l.dirty ≠ 0) || (s.cisMissOf l.dev l.tag).isSome)))).filter
          (fun e => decide (e.2 ≠ []))
    cisMiss := s.cisMiss.map (fun m => if inRanges rs (Line.new m.tag m.dev 0) then { m with discard := true } else m) }

/-- R244: revocation invalidates every line of the revoked devices; discarded dirty bytes are logged. -/
def State.revokeLines (s : State) (devs : List Nat) : State :=
  let hit := s.cisLines.filter (fun l => devs.elem l.dev)
  let s := (hit.filter (fun l => decide (l.dirty ≠ 0))).foldl (fun s l => s.logEntry .revokedLine [l.dev, l.tag]) s
  { s with
    cistern := (s.cistern.map (fun e => (e.1, e.2.filter (fun l => !devs.elem l.dev)))).filter (fun e => decide (e.2 ≠ []))
    cisMiss := s.cisMiss.filter (fun m => !devs.elem m.dev), cisDead := s.cisDead.filter (fun e => !devs.elem e.1) }

/-- R355 step 4: lines reached only through this context's slots are written back. -/
def State.writeBackCtx (s : State) (c : Nat) : State :=
  let others := (s.ctxs.filter (fun e => e.1 != c && e.2.st != .free)).flatMap (fun e => e.2.slots.map (fun x => slotTarget x.2))
  let mine := (s.ctx c).slots.map (fun x => slotTarget x.2)
  let only := mine.filter (fun d => !others.elem d)
  (s.writeBackLines (some (only.map (fun d => (d, 0, 2 ^ 33)))) c).1

end Sys2Proof.Machine
end

