-- ==== Sys2Proof/Machine/Resets.lean ====
section
/-! DEFINITION. What ends work: context reset and process death (R355), the epoch lost, HOLD (R451), the
compute reset, the device reset with its staged fields (R472 to R474), main rails off (R502), entry to RUN
(R444). -/

namespace Sys2Proof.Machine

/-! ## Contexts (R327, R345, R355) -/

/-- R28: island numbers: logical tiles 0 to 2303, cistern slices, array sides, memory sides, headworks,
ports, the host port, Halnor. -/
def islandCistern (k : Nat) : Nat := 2400 + k
def islandArray (k : Nat) : Nat := 2404 + k
def islandMemory (k : Nat) : Nat := 2416 + k
def islandHeadworks (k : Nat) : Nat := 2428 + k
def islandPort (p : Nat) : Nat := 2440 + p
def islandHost : Nat := 2458
def islandHalnor : Nat := 2459
def isComputeIsland (i : Nat) : Bool := decide (i < 2416)

/-- A store in flight reaches its place: the home, the cistern, or, from an engine, the fabric. -/
def State.landStore (s : State) (a : Access) : State :=
  match a.op, a.place with
  | .store d, .dram p => s.storeLine (p / 128) (p % 128) a.hint d
  | .store d, .remote dev off route _ => (s.cisStore dev (off / 128) route (off % 128) a.hint d).getD s
  | _, _ => s

/-- The accesses of a context that have left their tile and are still under way are served, and its
unsent work is dropped (R355: each step begins after the previous one has finished). -/
def State.drainCtx (s : State) (c : Nat) : State :=
  let s := (s.flights.filter (fun a => a.ctx == c && (a.stage == .moving || a.stage == .waiting))).foldl State.landStore s
  { s with
    flights := s.flights.filter (fun a => a.ctx != c)
    issues := s.issues.filter (fun i => i.ctx != c)
    walks := s.walks.filter (fun w => match w.who with
      | .queue d _ => d != c
      | .group t u => !((s.tile t).groups.any (fun e => match e.2 with
        | some g => g.uid == u && g.ctx == c
        | none => false))
      | _ => true)
    sync := { s.sync with ops := s.sync.ops.filter (fun o => o.ctx != c || o.sent) } }

/-- The tile without the context's blocks, groups and transfers; the array's commands end with them. -/
def Tile.clearCtx (x : Tile) (c : Nat) : Tile :=
  if x.ctx = some c then
    { x with blocks := [], waiting := [], groups := [], saved := [], dma := [],
             array := { x.array with cmds := [], holder := none } }
  else x

def State.clearTiles (s : State) (c : Nat) : State :=
  { s with tiles := s.tiles.map (fun e => (e.1, e.2.clearCtx c))
           kernels := s.kernels.filter (fun k => k.ctx != c) }

/-- The region of a context aborts with PARTNER_LOST (R355 step 2). -/
def State.abortRegionOf (s : State) (c : Nat) : State :=
  match s.timed.region with
  | some r => if r.ctx = c then s.abortRegion (faultOf .partnerLost 0) else s
  | none => s

/-- R345 step 1, R355 step 1: the context's work ends: queues, blocks, transfers. -/
def State.endWork (s : State) (c : Nat) : State :=
  let s := s.abortRegionOf c
  let s := s.drainCtx c
  let s := s.clearTiles c
  { s with
    pendingOrder := s.pendingOrder.filter (fun x => x != c)
    hdwk := s.hdwk.map (fun e => (e.1, if (e.2.job.map (fun j => j.1)) = some c then { e.2 with job := none } else e.2)) }

/-- A queue emptied: everything announced is discarded, and no record is written (R345 CTX_RESET). -/
def Queue.emptied (q : Queue) : Queue :=
  match q.st with
  | .absent | .destroyed => q
  | _ => { q with st := .running, c := q.p, work := none, held := none, failed := false, overrun := none, stage := 0 }

/-- CTX_RESET (R345, R327): the context stops, its objects are poisoned with REASON 2, its queues are
emptied and FAULT is cleared; memory and mappings stay. -/
def State.resetCtx (s : State) (c : Nat) : State :=
  let s := s.endWork c
  let s := (s.poisonOwned c 2).dropWaits c
  s.modCtx c (fun x => { x with
    st := .idle, fault := none, secondFaults := 0, resident := false, expired := false
    queues := x.queues.map (fun e => (e.1, e.2.emptied)) })

/-- An object still referred to: the aperture, or another context's mapping (R254, R345 OBJ_FREE). -/
def State.objInUse (s : State) (n : Nat) (but : Option Nat) : Bool :=
  (match s.obj n with | some o => o.aperture.isSome | none => false) ||
  s.ctxs.any (fun e => some e.1 != but && e.2.st != .free && e.2.maps.any (fun m => m.obj == n))

/-- R355 steps 5 and 6: the context's objects: retained ones enter the grace period under its credential,
others are freed once nothing refers to them. -/
def State.releaseObjs (s : State) (c : Nat) : State :=
  let cred := (s.ctx c).credential
  { s with objs := (s.objs.map (fun o =>
      if o.owner = c ∧ !o.grace then
        if o.retained && !o.orphan then { o with grace := true, since := s.hal.ms, credential := cred, owner := numCtxs }
        else { o with orphan := true, owner := numCtxs }
      else o)).filter (fun o => !(o.orphan && !s.objInUse o.num (some c))) }

/-- THE PROCESS-DEATH SEQUENCE (R355), whole. The tiles remember that the context that held them is gone, so
that a later one with its number is a different context (R99). -/
def State.destroyCtx (s : State) (c : Nat) : State :=
  if (s.ctx c).st = .free then s else
  let s := s.endWork c
  let s := (s.poisonOwned c 1).dropWaits c
  let s := s.writeBackCtx c
  let s := s.releaseObjs c
  let f := (s.ctx c).fn
  let s : State := { s with tiles := s.tiles.map (fun (e : Nat × Tile) => (e.1, if e.2.ctx = some c then { e.2 with ctx := some numCtxs } else e.2)) }
  s.setCtx c { Ctx.free with fn := f }

/-! ## The epoch and the compute islands (R30, R411, R451) -/

/-- TICK_EPOCH.VALID becomes 0: the offsets read zero (R308) and the device leaves the agreement. -/
def State.dropEpoch (s : State) : State :=
  let s := s.modTimed (fun t => { t with valid := false, offset := 0, wetOffset := 0, started := false, offsetsSet := false })
  s.modPower (fun p => { p with agreed := false, agreements := [] })

def Slice.unkeep (x : Slice) : Slice := { x with sets := x.sets.map (fun f => (f.1, unkeepSet f.2)) }

/-- R208: a compute reset clears all keep status. -/
def State.clearKeep (s : State) : State :=
  { s with slices := s.slices.map (fun e => (e.1, e.2.unkeep)), keepSweep := none
           cistern := s.cistern.map (fun e => (e.1, unkeepSet e.2)) }

/-- R46: a sluice with no compute half. -/
def sluiceNoCompute (i : SluiceId) : Bool :=
  i.kind == .free && !isComputeIsland i.src && !isComputeIsland i.dst

/-- R279: both CHAIN_ACTIVE signals go low, and the culvert closes. -/
def State.chainLow (s : State) : State := s.modMod (fun m => { m with chainActive := false })

/-- A context with work that a compute reset cuts off stops with PARTNER_LOST (assumption 15). -/
def State.stopCut (s : State) : State :=
  (s.kernels.map (fun k => k.ctx)).dedup.foldl (fun s c => s.takeFault c none (faultOf .partnerLost 0)) s

def Port.unloop (p : Port) : Port := { p with loopback := false }

/-- Work of tiles, which a compute reset ends. -/
def Who.ofTile : Who → Bool
  | .group .. | .dma .. | .region .. => true
  | _ => false

/-- THE COMPUTE RESET (R46, R451, R99): scratch, basins, registers and tick counts are lost, every sluice
with a compute half is reset, keep status is cleared, CHAIN_ACTIVE falls. -/
def State.computeReset (s : State) : State :=
  let s := s.abortRegion (faultOf .partnerLost 0)
  let s := s.stopCut
  let s := s.dropEpoch
  let s := s.clearKeep.chainLow
  let s := s.modPower (fun p => { p with dryTicks := 0, stopped := false, applied := 0, agreements := [], contributions := [] })
  let s := s.modHal (fun h => { h with events := [] })
  let s := s.modGauge (fun g => { g with pending := [] })
  let s := s.modSync (fun y => { y with
    ops := y.ops.filter (fun o => !o.who.ofTile)
    waits := y.waits.filter (fun w => !w.who.ofTile) })
  let s : State := s.modFab (fun f => { f with ports := f.ports.map (fun e => (e.1, Port.unloop e.2)) })
  { s with
    tiles := [], kernels := [], issues := [], tick := 0, wet := 0, lines := []
    walks := (s.walks.filter (fun w => decide (w.who = .device))).map (fun w => { w with untilTick := w.untilTick.map (fun _ => 0) })
    fab := { s.fab with out := s.fab.out.map (fun o => { o with sentAt := 0 }) }
    ctxs := s.ctxs.map (fun (e : Nat × Ctx) => (e.1, { e.2 with since := 0 }))
    flights := s.flights.filter (fun a => !a.who.ofTile)
    sluices := s.sluices.filter (fun e => sluiceNoCompute e.1) }

/-- The compute reset group held: the device is without compute (R444, R465); a debug level that waited for HOLD applies
(R450). -/
def State.holdCompute (s : State) : State :=
  let s := s.computeReset
  let s := s.modSec (fun x => { x with level := x.levelNext.getD x.level, levelNext := none })
  s.modMod (fun m => { m with
    computeHeld := true, locked := false
    state := if m.state = .run ∨ m.state = .hold then .ready else m.state })

/-- R449: the lifecycle states that permit RUN. -/
def State.runPermitted (s : State) : Bool := decide (s.lifecycle ≤ 3)

/-- R444 step 5, R421, R30: RUN is entered when COMPUTE_ENABLE is 1, the lifecycle permits compute, the
tick reference is present, the memory is trained, and neither a thermal trip nor the end-of-life hold of
R404 stands. The counts start at zero. -/
def State.tryRun (s : State) : State :=
  if s.sec.computeEnable && s.mod.state == .ready && s.mod.memTrained && s.runPermitted && s.mod.tickref &&
      !s.power.tripped && !s.hal.eolHold then
    let s := s.modMod (fun m => { m with computeHeld := false, locked := true, state := .run })
    { s with tick := 0, wet := 0 }
  else s

/-- R451: HOLD: the compute clocks stop; the device leaves the agreement and its epoch; its regions abort;
CHAIN_ACTIVE stays. -/
def State.enterHold (s : State) : State :=
  let s := s.abortRegion (faultOf .partnerLost 0)
  let s := s.dropEpoch
  s.modMod (fun m => { m with state := .hold })

/-- A change of debug level takes effect (R450). -/
def State.setLevel (s : State) (level : Nat) : State := s.modSec (fun x => { x with level := level })

/-- R450: in RUN, a gauge 16,384 ticks ahead, then HOLD, at which the new level applies: the level waits
in `levelNext`. In every other power state it applies at once. -/
def State.changeLevel (s : State) (level : Nat) : State :=
  if s.mod.state = .run then
    (s.modSec (fun x => { x with levelNext := some level })).gaugeAdd 1 (s.tick.toNat + 16384) false true
  else s.setLevel level

/-! ## Device reset (R46, R472 to R474) -/

def regionsClash (a b : Nat × Nat) : Bool := decide (a.1 < b.1 + b.2) && decide (b.1 < a.1 + a.2)

/-- R474: the regions placed: the sync table (4 MiB) and the context table (16 MiB) where they are enabled, the gauge region
(88 MiB) (assumption 150). -/
def State.reservedRegions (s : State) : List (Nat × Nat) :=
  (if s.sync.enable then [(s.sync.base * 2 ^ 22, 2 ^ 22)] else []) ++
  (if s.ctxEnable then [(s.ctxBase * 2 ^ 24, 2 ^ 24)] else []) ++
  [(s.gauge.base * 2 ^ 23, 88 * 2 ^ 20)]

/-- R474: two regions overlap, or one passes the end of local memory. -/
def State.layoutBad (s : State) : Bool :=
  let r := s.reservedRegions
  r.any (fun a => decide (memBytes < a.1 + a.2)) ||
  (match r with
   | [a, b, c] => regionsClash a b || regionsClash a c || regionsClash b c
   | [a, b] => regionsClash a b
   | _ => false)

/-- The regions that are in effect (R344, R485: never mapped, never reached through BAR4). -/
def State.reservedActive (s : State) : List (Nat × Nat) :=
  (if s.sync.active then [(s.sync.baseActive * 2 ^ 22, 2 ^ 22)] else []) ++
  (if s.ctxActive then [(s.ctxBaseActive * 2 ^ 24, 2 ^ 24)] else []) ++
  (if s.gauge.recording then [(s.gauge.baseActive * 2 ^ 23, 88 * 2 ^ 20)] else [])

/-- A range meets a reserved region. -/
def State.meetsReserved (s : State) (a n : Nat) : Bool := s.reservedActive.any (fun r => regionsClash r (a, n))

/-- Every context, object, transfer and request of the device ends (R327, R473). Retained objects enter
their grace period (R271). -/
def State.dropWork (s : State) : State :=
  let s := s.computeReset
  { s with
    ctxs := [], kernels := [], flights := [], issues := [], walks := [], adminHeld := [], pendingOrder := [], hdwk := []
    objs := (s.objs.filter (fun o => o.retained)).map (fun o =>
      if o.grace then o else { o with grace := true, since := s.hal.ms, credential := (s.ctx o.owner).credential, owner := numCtxs, aperture := none })
    fns := [(0, { Fn.reset with enabled := true })], nVf := 0, ats := [], invalid := [], bar4Base := 0, bar4Blocked := 0
    sluices := s.sluices.filter (fun e => e.1.src == islandHalnor || e.1.dst == islandHalnor), lines := [] }

/-- What a device reset leaves of the ports: the lanes that have failed (R249, R440). -/
def keepLanes (t : Tab Port) : Tab Port :=
  (t.map (fun e => (e.1, { Port.reset with spare := e.2.spare, broken := e.2.broken }))).filter (fun e => decide (e.2 ≠ Port.reset))

/-- R472: every register of the Device domain takes its reset value, staged fields apart. -/
def State.deviceDefaults (s : State) : State :=
  let f := s.fab
  let p := s.power
  { s with
    fab := { Fabric.reset with fmKey := f.fmKey, lastIssue := f.lastIssue, rejected := f.rejected, ports := keepLanes f.ports }
    timed := Timed.reset
    memCounters := [], cisCounters := [], layoutRejected := false, keepCap := 12, deadPoison := false
    capClamped := false, keepSweep := none, copyNext := 0
    power := { p with dryTicks := 0, lateContrib := 0, agreementLost := 0, capUnattEvents := 0
                      throttlePeriods := 0, droopEvents := 0, phyTrims := 0, phasesUnlearned := 0 }
    hal := { s.hal with half := [], seepUnits := 0, seepSkipped := 0, seepSuspicions := 0, seepAlarms := 0
                        resets := [] } }

/-- R221: a change of layout leaves all contents undefined, and retained objects do not survive it. -/
def State.applyLayout (s : State) : State :=
  if s.stackLocal = s.localActive then s
  else { s.loseMemory with localActive := s.stackLocal, objs := [] }

/-- R472, R474, R333, R484, R467: staged fields become active, unless the placement check fails. -/
def State.applyStaged (s : State) : State :=
  let s := s.applyLayout
  let bad := s.layoutBad
  { s with
    sync := { Sync.reset with enable := s.sync.enable, base := s.sync.base
                              active := s.sync.enable && !bad, baseActive := s.sync.base }
    ctxActive := s.ctxEnable && !bad, ctxBaseActive := s.ctxBase
    gauge := { s.gauge with baseActive := s.gauge.base, recording := !bad
                            slots := if s.gauge.base = s.gauge.baseActive then s.gauge.slots else [] }
    hal := { s.hal with layoutConflict := bad } }

/-- R453: a device reset or power-off ends a debug session: OPERATIONAL at level 1. -/
def State.endSession (s : State) : State :=
  if s.sec.debugSession then
    s.modSec (fun x => { x with debugSession := false, maxLevel := 1, level := 1, remaining := 0, levelNext := none })
  else s

/-- THE DEVICE RESET (R46, R473): work ends, caches are lost, device-domain registers return to their reset
values, staged fields take effect; the accepted image stays, and READY is reached again by READY_REACHED. -/
def State.deviceReset (s : State) (busy : Bool) : State :=
  let s := s.dropWork.dropCaches
  let s := s.deviceDefaults.applyStaged.endSession
  let s := s.modHal (fun h => { h with
    resetBusy := busy, eolHold := h.slowdown.any (fun d => decide (s.mod.record.margin ≤ d)) })
  s.modMod (fun m => { m with state := if m.state = .off then .off else .aux
                              memTrained := false, computeHeld := true, locked := false
                              hostUp := m.perstN && m.pg })

/-- R502, R492: the main rails go off: everything but Halnor is lost, device memory included. -/
def State.railsOff (s : State) : State :=
  let s := s.deviceReset false
  let s := { s.loseMemory with objs := [] }
  s.modMod (fun m => { m with pg := false, hostUp := false })

/-- R501: the main rails rise once the standby rail is good, PWR_EN is high, the module is mated and no
comparator has fired since PWR_EN last rose. -/
def State.railsOn (s : State) : State :=
  if s.mod.standby && s.mod.pwrEn && s.mod.mated && s.mod.blades && !s.mod.comparator then
    s.modMod (fun m => { m with pg := true, hostUp := m.perstN })
  else s

end Sys2Proof.Machine
end

