-- ==== Sys2Proof/Machine/Gauge.lean ====
section
/-! DEFINITION. The gauge (R456 to R459): scheduling, the record, export; and the rows of the gauge. -/

namespace Sys2Proof.Machine

/-- R50: the physical tile (die × 600 + row × 25 + pcol) of a logical tile: the tiles of a row from the
retired column on lie one column further out. -/
def State.physTile (s : State) (t : Nat) : Nat :=
  let d := tileDie t
  let row := tileRow t % 24
  let k := if d % 2 = 0 then 23 - tileCol t % 24 else tileCol t % 24
  let out := s.repair.retired.any (fun r => r.1 == d && r.2.1 == row && decide (r.2.2 ≤ k))
  d * 600 + row * 25 + k + ofBool out

/-! ## GAUGE_AT (R456 source 0) -/

/-- The pending gauges without the scheduled one. -/
def unscheduled (l : List PendingGauge) : List PendingGauge :=
  (l.map (fun p => { p with mask := p.mask - p.mask % 2 })).filter (fun p => decide (p.mask ≠ 0) || p.hold)

/-- R456: the gauge that GAUGE_AT schedules, as SOURCES, ENABLE and SCOPE now stand; 0 schedules none. With SCOPE 0 or without an
epoch the tick is the device's own. Halnor sends no event with less
than 4,096 ticks to go (R42): a tick nearer than that is latched late, as R457 says of a broadcast (DESIGN CHOICE, assumption
135). -/
def State.armAt (s : State) : State :=
  let s := s.modGauge (fun g => { g with pending := unscheduled g.pending })
  if s.gauge.atTick ≠ 0 ∧ s.gauge.enable ∧ s.gauge.sources.getLsbD 0 then
    let job := s.gauge.scope && s.timed.valid
    let s := if job then s.emit (.gaugeBroadcast s.gauge.atTick) else s
    let t := if job then s.deviceTickOf s.gauge.atTick else s.gauge.atTick.toNat
    let soon := s.tick.toNat + 4096
    s.gaugeAdd 0 (max t soon) (decide (t < soon)) false
  else s

/-! ## The record (R458) -/

/-- The context whose blocks or region a tile holds. -/
def State.tileOwner (s : State) (t : Nat) : Option Nat :=
  match s.timed.region with
  | some r => if r.tiles.elem t then some r.ctx else if (s.tile t).blocks = [] then none else (s.tile t).ctx
  | none => if (s.tile t).blocks = [] then none else (s.tile t).ctx

/-- R457: the tile, cistern and array-side sections are absent outside RUN and HOLD. -/
def State.gaugeRec (s : State) (mask : Nat) (at_ : Word64) (late imm : Bool) : GaugeRec :=
  let live := s.mod.state == .run || s.mod.state == .hold
  { seq := s.gauge.seqNo, mask := mask, jobTick := at_, tick := s.tick, wet := s.wet
    offset := s.timed.offset, device := s.fab.deviceId, part := s.fab.partition
    region := match s.timed.region with
      | some r => r.id
      | none => 0
    lifecycle := s.lifecycle, level := s.sec.level, late := late, imm := imm, absent := !live
    tiles := if live then s.tiles.map (fun e => (s.physTile e.1, s.tileOwner e.1, e.2)) else []
    sluices := if live then s.sluices else []
    cisMiss := if live then s.cisMiss else [], walks := if live then s.walks else []
    slices := s.slices, counters := s.memCounters, rows := s.repair.rows, hdwk := s.hdwk, ports := s.fab.ports
    outSeq := s.fab.outSeq, inSeq := s.fab.inSeq, unacked := s.fab.out, power := s.power, logs := s.hal.log.take 64 }

/-- The slot of the next record: the next in turn that has been read, else the oldest. -/
def Gauge.pick (g : Gauge) : Nat × Bool :=
  match ((List.range 8).map (fun i => (g.nextSlot + i) % 8)).find? (fun i => !g.unread.getLsbD i) with
  | some i => (i, true)
  | none =>
    let seqOf := fun i => match tabGet g.slots none i with
      | some r => r.seq
      | none => 0
    ((List.range 8).foldl (fun a i => if seqOf i < seqOf a then i else a) 0, false)

/-- R458, R474: the record is written to a slot, or dropped and counted under KEEP_UNREAD; none is
recorded after a layout conflict. -/
def State.writeGauge (s : State) (mask : Nat) (at_ : Word64) (late imm : Bool) : State :=
  if !s.gauge.recording then s else
  let p := s.gauge.pick
  if !p.2 && s.gauge.keepUnread then s.modGauge (fun g => { g with dropped := satAdd 16 g.dropped 1 })
  else
    let r := s.gaugeRec mask at_ late imm
    s.modGauge (fun g => { g with
      slots := tabSet g.slots none p.1 (some r), lastSlot := p.1, unread := g.unread ||| BitVec.ofNat 8 (2 ^ p.1)
      nextSlot := (p.1 + 1) % 8, seqNo := g.seqNo + 1, late := g.late || late })

/-- R456: an immediate gauge: written before the stop and reset it accompanies; the caller has selected it. -/
def State.gaugeNow (s : State) : State := s.writeGauge 2 s.jobTick false true

/-- After a latch: HOLD for a level change (R450), or under HOLD_AFTER at level 2 or above (R457). -/
def State.afterLatch (s : State) (hold : Bool) : State :=
  if s.mod.state ≠ .run then
    match s.sec.levelNext with
    | some l => if hold then (s.setLevel l).modSec (fun x => { x with levelNext := none }) else s
    | none => s
  else if hold then
    let s := s.enterHold
    let s := s.stopAll (faultOf .debugHold 0)
    let s := match s.sec.levelNext with
      | some l => (s.setLevel l).modSec (fun x => { x with levelNext := none })
      | none => s
    s.raiseAlert .debugHold
  else if s.gauge.holdAfter && decide (2 ≤ s.sec.level) then s.enterHold
  else s

/-- A gauge latches at its tick: the record is written, GAUGE_AT cleared when it is that one (R467). -/
def State.latch (s : State) (p : PendingGauge) : State :=
  let s := s.modGauge (fun g => { g with
    pending := dropIf g.pending (fun x => x == p), atTick := if p.mask % 2 = 1 then 0 else g.atTick })
  (s.writeGauge p.mask (BitVec.ofNat 64 p.tick + s.timed.offset) p.late false).afterLatch p.hold

/-- The pending gauge whose tick comes first. -/
def firstGauge : List PendingGauge → Option PendingGauge
  | [] => none
  | p :: r => some (r.foldl (fun m q => if q.tick < m.tick then q else m) p)

/-- GAUGE_LATCH (R456, R42): ticks pass to the one at which the first pending gauge is effective, and it latches. One whose tick
has passed raises SLUICE_LATE (R43). -/
def execGaugeLatch (s : State) : Host.Outcome State Fault Refusal :=
  match firstGauge s.gauge.pending with
  | none => .next s
  | some p =>
    if s.running ∧ p.tick < s.tick.toNat then
      let s := s.modGauge (fun g => { g with pending := dropIf g.pending (fun x => x == p) })
      .next ((s.logEntry .sluiceLate [islandHalnor]).abortRegion (faultOf .sluiceLate 0))
    else
      let s := if s.running then State.passTicks (p.tick - s.tick.toNat) s else s
      .next (s.latch p)

/-- GAUGE_TRIGGER (R456 source 2): a gauge at the write + 16,384. -/
def doGaugeTrigger (s : State) : State := s.gaugeRequest 2 false false
def execGaugeTrigger (s : State) : Host.Outcome State Fault Refusal := s.orDefer .gaugeTrigger (doGaugeTrigger s)

/-- GAUGE_BROADCAST_RECEIPT (R456 source 4, R457): at the tick carried, or at arrival + 4,096 with LATE;
passed on down the epoch tree. -/
def execGaugeBroadcastReceipt (tick : Word64) (s : State) : Host.Outcome State Fault Refusal :=
  let s := if s.timed.valid then s.emit (.gaugeBroadcast tick) else s
  if s.gauge.enable && s.gauge.sources.getLsbD 4 then
    let t := s.deviceTickOf tick
    let now := s.tick.toNat
    if now + 4096 ≤ t then .next (s.gaugeAdd 4 t false false)
    else .next (s.gaugeAdd 4 (now + 4096) true false)
  else .next s

/-- GAUGE_N_FALLING_EDGE (R499): accepted when the pulse is at least 100 ns and 1 µs has passed since the
last accepted edge; ignored under 20 ns; between the two the module may do either. -/
def execGaugeNFallingEdge (widthNs sinceNs : Nat) (s : State) : Host.Outcome State Fault Refusal :=
  if s.mod.state = .off ∨ widthNs < 20 ∨ sinceNs ≤ 1000 then .next s
  else if 100 ≤ widthNs then .next (s.gaugeRequest 3 false false)
  else if s.draw.getLsbD 0 then .next (s.drawn.gaugeRequest 3 false false)
  else .next s.drawn

/-! ## Export (R459) -/

/-- The bytes of a record: a 4 KiB header, 2,400 tile sections of 4 KiB, and the stack, port, cistern and
Halnor sections. -/
def gaugeRecordBytes : Nat := 9996 * 1024

/-- A section written into the object: its offsets within the section are not the spec's, so its bytes
are free values. -/
def State.exportSection (s : State) (o : Obj) (off n : Nat) : State :=
  let n := min n (o.size - off)
  if n = 0 then s else { s with dram := s.dram.lose (o.dpa + off) n s.losses, losses := s.losses + 1 }

/-- The record copied to the extent the level allows: at level 1 the header and the context's own tile
sections, everything else zero. -/
def State.exportTo (s : State) (r : Option GaugeRec) (o : Obj) (c : Nat) : State :=
  let s := s.zeroRange o.dpa (min o.size gaugeRecordBytes)
  if 2 ≤ s.sec.level then
    let s := s.exportSection o 0 gaugeRecordBytes
    if gaugeRecordBytes + 8 * 2 ^ 20 ≤ o.size then
      (s.forget (o.dpa + gaugeRecordBytes) (8 * 2 ^ 20)).exportSection o gaugeRecordBytes (8 * 2 ^ 20)
    else s
  else
    let s := s.exportSection o 0 4096
    match r with
    | some r => (r.tiles.filter (fun t => t.2.1 == some c)).foldl (fun s t =>
        s.exportSection o (4096 + 4096 * t.1) 4096) s
    | none => s

/-- GAUGE_EXPORT_GO (R459). -/
def doGaugeExportGo (fn : Nat) (s : State) : State :=
  let g := s.gauge
  let x := s.ctx g.expCtx
  match s.obj g.expObj with
  | some o =>
    if 1 ≤ s.sec.level ∧ x.st ≠ .free ∧ x.fn = fn ∧ o.owner = g.expCtx then
      let s := s.exportTo (tabGet g.slots none g.expSlot) o g.expCtx
      s.modGauge (fun g => { g with
        expDone := true, unread := g.unread &&& ~~~(BitVec.ofNat 8 (2 ^ g.expSlot)) })
    else s.modGauge (fun g => { g with expDenied := true, expDone := false })
  | none => s.modGauge (fun g => { g with expDenied := true, expDone := false })
def execGaugeExportGo (fn : Nat) (s : State) : Host.Outcome State Fault Refusal :=
  s.orDefer (.gaugeExportGo fn) (doGaugeExportGo fn s)

end Sys2Proof.Machine
end

