-- ==== Sys2Proof/Machine/Mesh.lean ====
section
/-! DEFINITION. The mesh and its sluices (R32 to R40, R44, R194 to R196): where islands lie, paths, delays, ports, and how
an item enters a send half, is held for want of credit, and leaves a receive half. -/

namespace Sys2Proof.Machine

/-! ## Where an island lies (R35, R194 to R196) -/

/-- R194: attachment point `q` of stack `k`: row, column, and the hops R195 adds for it. -/
def stackPoint (k q : Nat) : Nat × Nat × Nat :=
  match k with
  | 0 => (10 + q, 0, 2)
  | 1 => if q < 10 then (q, 0, 2) else (0, q - 10, 1)
  | 2 => (0, 4 + q, 1)
  | 3 => (10 + q, 47, 2)
  | 4 => if q < 10 then (q, 47, 2) else (0, 34 + q, 1)
  | 5 => (0, 30 + q, 1)
  | 6 => (24 + q, 0, 2)
  | 7 => if q < 10 then (38 + q, 0, 2) else (47, q - 10, 1)
  | 8 => (47, 4 + q, 1)
  | 9 => (24 + q, 47, 2)
  | 10 => if q < 10 then (38 + q, 47, 2) else (47, 34 + q, 1)
  | _ => (47, 30 + q, 1)

/-- R194: point `q` of the gateway of die `d`. -/
def gatewayPoint (d q : Nat) : Nat × Nat × Nat := (if d < 2 then 0 else 47, (if d % 2 = 0 then 18 else 24) + q, 1)

/-- R196, R247: the fixed gateway point of a port. -/
def portPoint (p : Nat) : Nat × Nat × Nat :=
  if p < 16 then gatewayPoint (p / 4) (p % 4) else if p = 16 then gatewayPoint 0 4 else gatewayPoint 3 4

/-- The mesh position of a compute island or of a port's compute side; `q` is its attachment point. -/
def meshPos (i q : Nat) : Option (Nat × Nat × Nat) :=
  if i < numTiles then some (tileRow i, tileCol i, 0)
  else if 2400 ≤ i ∧ i < 2404 ∧ q < 6 then some (gatewayPoint (i - 2400) q)
  else if 2404 ≤ i ∧ i < 2416 ∧ q < 14 then some (stackPoint (i - 2404) q)
  else if 2440 ≤ i ∧ i < 2458 then some (portPoint (i - 2440))
  else none

def posDie (a : Nat × Nat × Nat) : Nat := a.1 / 24 * 2 + a.2.1 / 24
def apart (a b : Nat) : Nat := (a - b) + (b - a)

/-- The die boundaries a mesh path crosses. -/
def bridgesOf (a b : Nat × Nat × Nat) : Nat := ofBool (a.1 / 24 != b.1 / 24) + ofBool (a.2.1 / 24 != b.2.1 / 24)

/-- R35, R195: the release delay of a mesh path: 3 + h + 4b. -/
def pathDelay (a b : Nat × Nat × Nat) : Nat :=
  3 + (apart a.1 b.1 + apart a.2.1 b.2.1 + a.2.2 + b.2.2) + 4 * bridgesOf a b

/-- R49, R50: the physical column of a mesh position, from the western spare column: a tile displaced by a retirement lies
one further out; attachment points stay. -/
def State.physCol (s : State) (a : Nat × Nat × Nat) : Nat :=
  let die := posDie a
  let k := if die % 2 = 0 then 23 - a.2.1 % 24 else a.2.1 % 24
  let out := a.2.2 == 0 && s.repair.retired.any (fun r => r.1 == die && r.2.1 == a.1 % 24 && decide (r.2.2 ≤ k))
  if out then (if die % 2 = 0 then a.2.1 else a.2.1 + 2) else a.2.1 + 1

/-- R36: the wet ticks from the send to the arrival of the pointer update: p physical hops and 3 a boundary. -/
def State.pathTime (s : State) (a b : Nat × Nat × Nat) : Nat :=
  apart a.1 b.1 + apart (s.physCol a) (s.physCol b) + a.2.2 + b.2.2 + 3 * bridgesOf a b

/-! ## Ports and routes (assumption 126): along the row first, then along the column -/

/-- The edge an attachment point lies on: 0 north, 1 east, 2 south, 3 west. -/
def edgeOf (a : Nat × Nat × Nat) : Nat :=
  if a.2.2 = 2 then (if a.2.1 = 0 then 3 else 1) else if a.1 = 0 then 0 else 2

/-- The direction in which a path leaves tile `a`. -/
def firstHop (a b : Nat × Nat × Nat) : Nat :=
  if a.2.1 < b.2.1 then 1 else if b.2.1 < a.2.1 then 3
  else if a.1 < b.1 then 2 else if b.1 < a.1 then 0 else edgeOf b

/-- The port of tile `b` by which a path arrives. -/
def lastHop (a b : Nat × Nat × Nat) : Nat :=
  if a.1 < b.1 then 0 else if b.1 < a.1 then 2
  else if a.2.1 < b.2.1 then 3 else if b.2.1 < a.2.1 then 1 else edgeOf a

/-- The ends of a mesh sluice. -/
def pathEnds (i : SluiceId) : Option ((Nat × Nat × Nat) × (Nat × Nat × Nat)) :=
  match meshPos i.src i.point, meshPos i.dst i.point with
  | some a, some b => some (a, b)
  | _, _ => none

/-- The send half's port: a tile's direction, or 4 + the attachment point. -/
def outPort (i : SluiceId) : Nat :=
  match pathEnds i with
  | some (a, b) => if a.2.2 = 0 then firstHop a b else 4 + i.point
  | none => 4 + i.point

/-- The receive half's port. -/
def inPort (i : SluiceId) : Nat :=
  match pathEnds i with
  | some (a, b) => if b.2.2 = 0 then lastHop a b else 4 + i.point
  | none => 4 + i.point

/-- The path runs through a tile: along its first row, then along its last column. -/
def runsThrough (i : SluiceId) (row col : Nat) : Bool :=
  match pathEnds i with
  | some (a, b) =>
    i.kind == .mesh &&
    ((a.1 == row && decide (min a.2.1 b.2.1 ≤ col) && decide (col ≤ max a.2.1 b.2.1)) ||
     (b.2.1 == col && decide (min a.1 b.1 ≤ row) && decide (row ≤ max a.1 b.1)))
  | none => false

/-- The path ends at a point of a vertical edge, so that it runs through the spare column of that row (R195). -/
def runsThroughSpare (i : SluiceId) (row : Nat) (east : Bool) : Bool :=
  match pathEnds i with
  | some (a, b) =>
    let hits : Nat × Nat × Nat → Bool := fun x => x.2.2 == 2 && x.1 == row && (x.2.1 == if east then 47 else 0)
    i.kind == .mesh && (hits a || hits b)
  | none => false

/-- The bridges a path crosses (R46): 0–1 and 2–3 along its row, 0–2 and 1–3 along its column. -/
def crossesBridge (i : SluiceId) (bridge : Nat) : Bool :=
  match pathEnds i with
  | some (a, b) =>
    i.kind == .mesh && (match bridge with
      | 0 => a.2.1 / 24 != b.2.1 / 24 && decide (a.1 < 24)
      | 1 => a.1 / 24 != b.1 / 24 && decide (b.2.1 < 24)
      | 2 => a.1 / 24 != b.1 / 24 && decide (24 ≤ b.2.1)
      | _ => a.2.1 / 24 != b.2.1 / 24 && decide (24 ≤ a.1))
  | none => false

/-- The port of a port sluice (its island number is one end or both). -/
def sluicePort (i : SluiceId) : Option Nat :=
  if 2440 ≤ i.dst ∧ i.dst < 2458 then some (i.dst - 2440)
  else if 2440 ≤ i.src ∧ i.src < 2458 then some (i.src - 2440) else none

/-- R35: the release delay of a sluice's items; none where the sluice does not exist. -/
def State.sluiceDelay (s : State) (i : SluiceId) : Option Nat :=
  match i.kind with
  | .free => if i.src < 2460 ∧ i.dst < 2460 then some 0 else none
  | .mesh => (pathEnds i).map (fun e => pathDelay e.1 e.2)
  | .port => (sluicePort i).map (fun p => (s.port p).cls)

/-- The sluice from port `p` towards its partner, and from the partner. -/
def linkOut (p : Nat) : SluiceId := ⟨.port, islandPort p, 2460, 0⟩
def linkIn (p : Nat) : SluiceId := ⟨.port, 2460, islandPort p, 0⟩

/-- R48: a port sluice carries nothing until its port is trained. -/
def State.linkDown (s : State) (i : SluiceId) : Bool :=
  i.kind == .port && (match sluicePort i with
    | some p => !(s.port p).up
    | none => true)

/-- R33. -/
def sluiceDepth : SluiceKind → Nat
  | .mesh => 16
  | .port => 1024
  | .free => 64

/-! ## Pointers (R32) -/

/-- Gray code and back, and its successor. -/
def toGray (x : BitVec 16) : BitVec 16 := x ^^^ (x >>> 1)
def ofGray (x : BitVec 16) : BitVec 16 :=
  let x := x ^^^ (x >>> 8)
  let x := x ^^^ (x >>> 4)
  let x := x ^^^ (x >>> 2)
  x ^^^ (x >>> 1)
def nextGray (x : BitVec 16) : BitVec 16 := toGray (ofGray x + 1)

def State.sluice (s : State) (i : SluiceId) : Sluice := ((s.sluices.find? (fun e => e.1 == i)).map (fun e => e.2)).getD Sluice.empty
def State.setSluice (s : State) (i : SluiceId) (x : Sluice) : State :=
  { s with sluices := s.sluices.filter (fun e => e.1 != i) ++ (if x = Sluice.empty then [] else [(i, x)]) }

/-- R33, R294: the count a sluice's stamps are taken from: the job's on a port crossing. -/
def State.stampCount (s : State) (i : SluiceId) : Nat := if i.kind = .port then s.jobWet.toNat else s.wet.toNat

/-! ## Reset groups (R46) -/

/-- R46: a sluice lies on the boundary of a group, both halves. -/
def onBoundary (g : ResetGroup) (i : SluiceId) : Bool :=
  let at_ : Nat → Bool := fun n => i.src == n || i.dst == n
  match g with
  | .tile t => at_ t
  | .cistern k => at_ (islandCistern k)
  | .stack k => at_ (islandArray k) || at_ (islandMemory k) || at_ (islandHeadworks k)
  | .bridge b => crossesBridge i b
  | .port p => at_ (islandPort p)
  | .hostPort => at_ islandHost
  | .compute => !sluiceNoCompute i
  | .device => !at_ islandHalnor

/-- R47 step 1: the sluices whose items keep a group from being reset: its boundary's, and for a tile every path that runs
through it; tiles 2,304 to 2,399 are the spare ones, by die and row. -/
def drainsWith (g : ResetGroup) (i : SluiceId) : Bool :=
  onBoundary g i || (match g with
    | .tile t =>
      if t < numTiles then runsThrough i (tileRow t) (tileCol t)
      else
        let die := (t - numTiles) / 24
        runsThroughSpare i (die / 2 * 24 + (t - numTiles) % 24) (die % 2 == 1)
    | _ => false)

def GroupState.quiet : GroupState → Bool
  | .quiescing .. => true
  | .running => false

/-- R47 step 1: senders into and out of a group that drains are stopped. -/
def State.quiesced (s : State) (i : SluiceId) : Bool := s.hal.resets.any (fun r => r.2.quiet && drainsWith r.1 i)

/-- R45, R46: both halves of every boundary sluice of a group reset in one tick, pointers at zero. -/
def State.clearBoundary (s : State) (g : ResetGroup) : State :=
  { s with sluices := s.sluices.filter (fun e => !onBoundary g e.1) }

/-- The reset of a tile's group. -/
def State.resetTile (s : State) (t : Nat) : State := (s.clearBoundary (.tile t)).setTile t Tile.reset

/-! ## The send half (R32, R33, R44) -/

/-- R32: the ticks a pointer takes through a synchroniser, after the tick in which it arrives. -/
def syncTicks (i : SluiceId) (tick : Nat) : Nat := 1 + ofBool (Config.slowSync i.src i.dst tick)

/-- Entries taken in the send half, as its side of the read pointer shows them. -/
def Sluice.taken (x : Sluice) (tick : Nat) : Nat := x.items.length + (x.back.filter (fun t => decide (tick < t))).length

/-- The read pointer as the send half has seen it. -/
def Sluice.seenR (x : Sluice) (tick : Nat) : BitVec 16 :=
  toGray (ofGray x.rptr - BitVec.ofNat 16 (x.back.filter (fun t => decide (tick < t))).length)

/-- Two sluices share a send half: all paths by one direction of a tile port, or one attachment point. -/
def sharesSend (i j : SluiceId) : Bool :=
  i == j || (i.kind == .mesh && j.kind == .mesh && i.src == j.src && outPort i == outPort j)

/-- A send half has a free entry and its sender is not stopped. -/
def State.room (s : State) (i : SluiceId) : Bool :=
  !s.quiesced i && !s.linkDown i &&
  decide ((s.sluices.filter (fun e => sharesSend e.1 i)).foldl (fun a e => a + e.2.taken s.tick.toNat) 0 < sluiceDepth i.kind)

/-- Timed items that this tick's link slot of the send half carries (R37, R89). -/
def State.slotTaken (s : State) (i : SluiceId) : Nat :=
  let now : BitVec 16 := BitVec.ofNat 16 (s.stampCount i)
  (s.sluices.filter (fun e => sharesSend e.1 i)).foldl (fun k e => k + (e.2.items.filter (fun it => it.timed && it.stamp == now)).length) 0

/-- An item as the send half stamps it (R33, R36); an untimed one gives way to the timed items of its tick. -/
def State.itemOf (s : State) (i : SluiceId) (timed : Bool) (what : Payload) : Item :=
  { stamp := BitVec.ofNat 16 (s.stampCount i), timed := timed && decide (i.kind ≠ .free)
    delay := (s.sluiceDelay i).getD 0
    arrive := s.wet.toNat + (if timed then 0 else s.slotTaken i) + (match i.kind, pathEnds i with
      | .mesh, some e => s.pathTime e.1 e.2
      | _, _ => 0)
    visible := false, what := what }

/-- The item and its stamp are written and the write pointer moves. -/
def State.put (s : State) (i : SluiceId) (timed : Bool) (what : Payload) : State :=
  let x := s.sluice i
  s.setSluice i { x with wptr := nextGray x.wptr, items := x.items ++ [s.itemOf i timed what] }

/-- R37, R89: untimed items sent in this tick give way to a timed one. -/
def State.yieldSlots (s : State) (i : SluiceId) : State :=
  let now : BitVec 16 := BitVec.ofNat 16 (s.stampCount i)
  { s with sluices := s.sluices.map (fun e => if sharesSend e.1 i then
      (e.1, { e.2 with items := modIf e.2.items (fun it => !it.timed && it.stamp == now) (fun it => { it with arrive := it.arrive + 1 }) })
    else e) }

/-- A timed item is sent; the send half has a free entry. -/
def State.sendTimed (s : State) (i : SluiceId) (what : Payload) : State := (s.yieldSlots i).put i true what

/-- Credit has returned: senders that waited write their items, in order (R44). -/
def State.credit (s : State) (i : SluiceId) : State :=
  (s.sluice i).waiting.foldl (fun s w =>
    if s.room i then
      (s.setSluice i { s.sluice i with waiting := (s.sluice i).waiting.drop 1 }).put i false w
    else s) s

/-- An untimed item is sent, or its sender waits for credit behind those that wait already (R44). -/
def State.sendUntimed (s : State) (i : SluiceId) (what : Payload) : State :=
  let s := s.credit i
  if (s.sluice i).waiting = [] ∧ s.room i then s.put i false what
  else s.setSluice i { s.sluice i with waiting := (s.sluice i).waiting ++ [what] }

/-! ## The receive half (R34, R37) -/

/-- The ticks an item's stamp lies back (R37). -/
def State.itemAge (s : State) (i : SluiceId) (it : Item) : Nat := (BitVec.ofNat 16 (s.stampCount i) - it.stamp).toNat

/-- An item leaves: the read pointer moves, and the entry is free once the send half has seen it. -/
def State.takeItem (s : State) (i : SluiceId) (it : Item) : State :=
  let x := s.sluice i
  let now := s.tick.toNat
  s.setSluice i { x with
    rptr := nextGray x.rptr, items := x.items.erase it
    back := x.back.filter (fun t => decide (now < t)) ++ [now + 1 + syncTicks i now] }

/-- The item released next: the first that is timed or visible; an untimed one that is not visible holds no timed one back
(R37). -/
def Sluice.nextOut (x : Sluice) : Option Item := x.items.find? (fun it => it.timed || it.visible)

/-- A release that is due in this tick (R34, R37). -/
def State.dueNow (s : State) (i : SluiceId) (it : Item) : Bool :=
  it.visible && (if it.timed then s.itemAge i it == it.delay else decide (it.delay ≤ s.itemAge i it))

/-- The sluice that carries an access, if one does. -/
def State.carrier (s : State) (id : Nat) : Option SluiceId :=
  (s.sluices.find? (fun e => e.2.items.any (fun it => it.what == .request id) || e.2.waiting.elem (.request id))).map (fun e => e.1)

/-- An access's item is released, at stamp + D and after every earlier item of its sluice (R37); none while an earlier one
waits. An access that no sluice carries has arrived; earlier items whose access has ended go with it. -/
def State.arrive (s : State) (id : Nat) : Option State :=
  match s.carrier id with
  | none => some s
  | some i =>
    let s := s.credit i
    let dead : Item → Bool := fun it => match it.what with
      | .request k => k != id && s.flights.all (fun a => a.id != k)
      | _ => false
    let s := ((s.sluice i).items.takeWhile dead).foldl (fun s it => s.takeItem i it) s
    match (s.sluice i).items with
    | it :: _ =>
      if it.what = .request id then
        let s := s.passWet (it.delay - s.itemAge i it)
        some (s.takeItem i it)
      else none
    | [] => none

end Sys2Proof.Machine
end

