-- ==== Sys2Proof/Machine/Board.lean ====
section
/-! DEFINITION. Power, pins, reset and boot: the rows of R501 to R503, R492, R422, R425, R30, R441, R444,
R465, R500 and the test access port. -/

namespace Sys2Proof.Machine

/-- The module is not OFF. -/
def State.alive (s : State) : Bool := s.mod.state != .off

/-! ## In-service banks (R440) -/

/-- R440: the valid bank with the higher sequence: false A, true B. -/
def Module.bankB? (m : Module) : Option Bool :=
  if m.bankA.valid then some (m.bankB.valid && decide (m.bankA.seq < m.bankB.seq))
  else if m.bankB.valid then some true else none

def Module.bank (m : Module) : Bank :=
  match m.bankB? with
  | some true => m.bankB
  | some false => m.bankA
  | none => { Bank.empty with valid := false }

/-- R440: a date within the last 30 days. -/
def State.inMonth (s : State) (t : Nat) : Bool := decide (s.hal.ms < t + 2592000000)

/-- R440: the bank that holds the newer sequence plus one and every change not yet recorded: repairs
(kinds 0 to 4), droop trips 5, quarantines 6, the raised floor 7, ageing samples 8, spare lanes 9. -/
def State.nextBank (s : State) (marker : Bool) : Bank :=
  let b := s.mod.bank
  let of := fun k => s.repair.unrecorded.filter (fun u => u.1 == k)
  { valid := true, seq := b.seq + 1
    repairs := b.repairs ++ s.repair.unrecorded.filter (fun u => decide (u.1 < 5) || u.1 == 9)
    floor := (of 7).foldl (fun a u => max a u.2.1) b.floor
    droops := (b.droops ++ (of 5).map (fun u => u.2.1)).filter s.inMonth
    quarantines := (b.quarantines ++ (of 6).map (fun u => u.2.1)).filter s.inMonth
    ageing := b.ageing ++ (of 8).map (fun u => [u.2.1, u.2.2.1, u.2.2.2.1, u.2.2.2.2])
    marker := b.marker || marker }

/-- R440: Halnor writes the bank that does not hold the newer valid sequence. -/
def State.writeBank (s : State) (marker : Bool) : State :=
  let b := s.nextBank marker
  let s := s.modMod (fun m => if m.bankB? = some false then { m with bankB := b } else { m with bankA := b })
  let s := s.modHal (fun h => { h with bankAt := some h.ms })
  { s with repair := { s.repair with unrecorded := [] } }

/-- R440: Halnor has written a bank within the last hour. -/
def State.bankRecent (s : State) : Bool :=
  match s.hal.bankAt with
  | some t => decide (s.hal.ms < t + 3600000)
  | none => false

/-- IN_SERVICE_BANK_WRITE (R440): the batched changes, if any, at most once per hour; a bank written after the recovery diagnostics
ends INSERVICE_LOST (R441). -/
def execInServiceBankWrite (s : State) : Host.Outcome State Fault Refusal :=
  if !s.alive || s.bankRecent || !s.sec.recordOk || (s.repair.unrecorded = [] && !s.sec.inserviceLost) then .next s
  else
    let s := s.writeBank false
    .next (s.modSec (fun x => { x with inserviceLost := x.inserviceLost && s.hal.needRecovery }))

/-! ## Boot (R435, R437, R441) -/

/-- R441: the checks of the boot ROM on the vendor section, and R435's on the module key. -/
def PartRecord.accepted (r : PartRecord) : Bool :=
  r.sigOk && r.moduleKeyOk && decide (r.variant = 0x2304) && decide (r.params.length = 12) &&
  (r.lifecycle == 1 || r.lifecycle == 2)

/-- R435, R437: which of the thirteen dies have an identity. -/
def Module.identities (m : Module) (ok : Bool) : List Bool :=
  let p := m.prov.headD false
  let r := m.ret.headD false
  (ok && p && !r) ::
    (List.range 12).map (fun k =>
      ok && p && !r && m.record.baseKeysOk.getD k false && m.prov.getD (k + 1) false == p && m.ret.getD (k + 1) false == r)

/-- The key of a bank's spare rows (R217): channel, die, bank, of any number. -/
def rowKey (ch die bank : Nat) : Nat := Nat.pair ch (Nat.pair die bank)

/-- R440, R444 step 4: a repair of the record or a bank, applied. -/
def Repair.apply (r : Repair) (u : Nat × Nat × Nat × Nat × Nat) : Repair :=
  match u.1 with
  | 0 => { r with retired := addNew r.retired (u.2.1, u.2.2.1, u.2.2.2.1) }
  | 1 => { r with rowsDone := tabMod r.rowsDone 0 (rowKey u.2.1 u.2.2.1 u.2.2.2.1) (fun n => n + 1) }
  | 2 => { r with tsvs := tabMod r.tsvs 0 u.2.1 (fun n => n + 1) }
  | 3 => { r with channels := tabMod r.channels 0 (u.2.1 / 32) (fun n => n + 1), bound := tabPut r.bound u.2.1 u.2.2.1 }
  | 4 => { r with failed := addNew r.failed u.2.1 }
  | _ => r

/-- R440: a spare-lane assignment of the bank, applied to its port; the last number is 1 when a further lane failed
(R249). -/
def laneUse (t : Tab Port) (u : Nat × Nat × Nat × Nat × Nat) : Tab Port :=
  if u.1 = 9 then tabMod t Port.reset u.2.1 (fun p => { p with spare := true, broken := p.broken || decide (u.2.2.1 ≠ 0) })
  else t

/-- THE BOOT ROM (R441): the record accepted or rejected, identities, the in-service bank in use; the repairs made at test and in
service (R439, R440) and the ageing last recorded, which may hold the device without compute (R404). -/
def State.bootRom (s : State) : State :=
  let prov := s.mod.prov.headD false
  let ret := s.mod.ret.headD false
  let ok := s.mod.record.accepted
  let lost := ok && prov && !ret && s.mod.bankB?.isNone
  let b := s.mod.bank
  let s := s.modSec (fun x => { x with recordOk := ok, identity := s.mod.identities ok, inserviceLost := lost })
  let s := s.modSec (fun x => { x with level := s.defaultLevel, maxLevel := s.defaultLevel })
  let made := (if ok then s.mod.record.repairs else []) ++ b.repairs
  let s := { s with repair := made.foldl Repair.apply { Repair.none with retired := if ok then s.mod.record.retired else [] } }
  let slow := b.ageing.getLast?.getD [0, 0, 0, 0]
  let s := s.modHal (fun h => { h with
    needRecovery := lost, slowdown := slow, eolHold := ok && slow.any (fun d => decide (s.mod.record.margin ≤ d)) })
  let s := s.modFab (fun f => { f with ports := made.foldl laneUse f.ports })
  if (prov && !ret && !ok) || lost then s.raiseAlert .record else s

/-- R444 steps 3 to 5: with the rails up and an image running, READY; then RUN if COMPUTE_ENABLE asks. -/
def State.reachReady (s : State) : State :=
  if s.mod.state = .aux ∧ s.mod.pg ∧ s.sec.running.isSome then
    let s := s.modMod (fun m => { m with state := .ready, memTrained := true, computeHeld := true, hostUp := m.perstN })
    let s := s.modHal (fun h => { h with resetBusy := false })
    s.tryRun
  else s

/-- POWER-UP (R472): the entry to AUX from OFF. Only the serial memory, the latches, the pins and the host
keep what they held. -/
def State.powerUp (s : State) : State :=
  let r := State.reset
  let s : State := { r with
    pending := s.pending, sent := s.sent, freeCtr := s.freeCtr, nextId := s.nextId, hostMem := s.hostMem
    losses := s.losses
    mod := { r.mod with prov := s.mod.prov, ret := s.mod.ret, record := s.mod.record, bankA := s.mod.bankA
                        bankB := s.mod.bankB, tickref := s.mod.tickref, pwrEn := s.mod.pwrEn
                        perstN := s.mod.perstN }
    hal := { r.hal with ms := s.hal.ms } }
  s.loseMemory.bootRom.railsOn

/-! ## Rows of R501 to R503, R492, R493, R422 -/

/-- POWER_INPUT_APPLIED (R501). -/
def execPowerInputApplied (s : State) : Host.Outcome State Fault Refusal :=
  if !s.mod.mated then .next (s.modMod (fun m => { m with blades := true }))
  else if s.mod.state = .off then .next s.powerUp
  else .next (s.modMod (fun m => { m with blades := true })).railsOn

/-- PWR_EN_HIGH (R501): ignored until the standby rail is good. -/
def execPwrEnHigh (s : State) : Host.Outcome State Fault Refusal :=
  .next (s.modMod (fun m => { m with pwrEn := true })).railsOn

/-- PWR_EN_LOW (R502): compute is held, contexts stop, the rails go off, PG falls; device memory is lost. A
fired comparator is released by the cycle (R422). -/
def execPwrEnLow (s : State) : Host.Outcome State Fault Refusal :=
  let s' := s.modMod (fun m => { m with pwrEn := false, comparator := false })
  .next (if s.mod.pg then s'.railsOff else s')

/-- PERST_N_ASSERT (R472, R501): a device reset; a pulse under 100 µs may or may not reset the device. -/
def execPerstNAssert (short : Bool) (s : State) : Host.Outcome State Fault Refusal :=
  let s' := s.modMod (fun m => { m with perstN := false })
  if !s.alive then .next s'
  else if !short then .next (s'.deviceReset false)
  else if s.draw.getLsbD 0 then .next (s'.drawn.deviceReset false)
  else .next s'.drawn

/-- PERST_N_DEASSERT (R501): with the rails up the host port trains. -/
def execPerstNDeassert (s : State) : Host.Outcome State Fault Refusal :=
  .next (s.modMod (fun m => { m with perstN := true, hostUp := m.pg }))

/-- INTERNAL_BUS_BELOW_MINIMUM (R492): below 40 V the rails turn off, PG and CHAIN_ACTIVE fall. -/
def execInternalBusBelowMinimum (s : State) : Host.Outcome State Fault Refusal :=
  if s.alive then .next (s.railsOff.modMod (fun m => { m with blades := false }))
  else .next (s.modMod (fun m => { m with blades := false }))

/-- STANDBY_BELOW_MINIMUM (R492): below 30 V the module is OFF and everything volatile is lost. -/
def execStandbyBelowMinimum (s : State) : Host.Outcome State Fault Refusal :=
  let s := if s.alive then s.railsOff else s
  .next (s.modMod (fun m => { m with blades := false, standby := false, state := .off }))

/-- HOT_INSERTION (R493, R503): the module, so far OFF, mates into a live carrier. -/
def execHotInsertion (pwrEn : Bool) (s : State) : Host.Outcome State Fault Refusal :=
  if s.mod.state = .off then .next (s.modMod (fun m => { m with mated := true, pwrEn := pwrEn })).powerUp
  else .next s

/-- ANALOG_COMPARATOR_TRIP (R422, R503): power off until PWR_EN is cycled. -/
def execAnalogComparatorTrip (_die : Nat) (s : State) : Host.Outcome State Fault Refusal :=
  if s.alive then .next (s.railsOff.modMod (fun m => { m with comparator := true })) else .next s

/-! ## The tick reference (R30) -/

/-- ISLAND_UNLOCKED (R30): an immediate gauge; every context stops; ALERT_N; the compute reset, which leaves
the device in READY. -/
def State.unlock (s : State) (args : List Nat) : State :=
  let s := s.gaugeNow
  let s := (s.logEntry .unlocked args).raiseAlert .unlocked
  (s.stopAll (faultOf .islandUnlocked 0)).holdCompute

def State.ticking (s : State) : Bool := s.mod.state == .run || s.mod.state == .hold

/-- TICKREF_LOST (R30, R503): every compute island reports unlock; READY until the reference returns. -/
def execTickrefLost (s : State) : Host.Outcome State Fault Refusal :=
  let s' := s.modMod (fun m => { m with tickref := false })
  .next (if s.ticking then s'.unlock [] else s')

/-- TICKREF_RETURN (R30): lock can be restored, by the compute reset that RUN begins with. -/
def execTickrefReturn (s : State) : Host.Outcome State Fault Refusal :=
  .next (s.modMod (fun m => { m with tickref := true })).tryRun

/-- ISLAND_UNLOCKED (R30). -/
def execIslandUnlocked (island : Nat) (s : State) : Host.Outcome State Fault Refusal :=
  if s.ticking then .next (s.unlock [island]).tryRun else .next s

/-! ## The test access port (R500) -/

/-- TAP_RESET (R500): the TAP alone, whose first instruction is IDCODE. -/
def execTapReset (s : State) : Host.Outcome State Fault Refusal :=
  .next (s.modMod (fun m => { m with tapIr := .idcode }))

/-- JTAG_INSTRUCTION (R449, R500): IDCODE reads 0x12304987; below level 3 every other instruction acts as
BYPASS; at level 3 TDO is what the standard gives. -/
def execJtagInstruction (op : JtagOp) (s : State) : Host.Outcome State Fault Refusal :=
  if !s.alive then .next s else
  match op with
  | .idcode => .next ((s.modMod (fun m => { m with tapIr := .idcode })).emit (.tdo 0x12304987))
  | .bypass => .next ((s.modMod (fun m => { m with tapIr := .bypass })).emit (.tdo 0))
  | .other code =>
    if 3 ≤ s.sec.level then
      .next ((s.modMod (fun m => { m with tapIr := .other code })).emit (.tdo (Config.tdo code)))
    else .next ((s.modMod (fun m => { m with tapIr := .bypass })).emit (.tdo 0))

/-! ## Droop (R425, R426) -/

/-- DROOP_REPORT (R425). -/
def execDroopReport (die monitor : Nat) (s : State) : Host.Outcome State Fault Refusal :=
  if s.mod.pg then
    .next ((s.modPower (fun p => { p with droopEvents := satAdd 32 p.droopEvents 1 })).logEntry .droop [die, monitor])
  else .next s

/-- R426, R401: the events of a kind of the last 30 days, by Halnor's millisecond count. -/
def State.recent (s : State) (kind : Nat) (old : List Nat) : Nat :=
  let all := old ++ (s.repair.unrecorded.filter (fun u => u.1 == kind)).map (fun u => u.2.1)
  (all.filter s.inMonth).length

def State.record (s : State) (u : Nat × Nat × Nat × Nat × Nat) : State :=
  { s with repair := { s.repair with unrecorded := s.repair.unrecorded ++ [u] } }

/-- DROOP_TRIP (R425, R426): a device reset, a health-log entry and ALERT_N; the second within 30 days is an
unrepairable defect (R400). -/
def execDroopTrip (die monitor : Nat) (s : State) : Host.Outcome State Fault Refusal :=
  if s.mod.pg then
    let s := (s.logEntry .droopTrip [die, monitor]).raiseAlert .droop
    let s := s.record (5, s.hal.ms, die, monitor, 0)
    let s := if 2 ≤ s.recent 5 s.mod.bank.droops then s.logEntry .unrepairable [die, monitor] else s
    .next (s.deviceReset false)
  else .next s

/-! ## READY, RUN, device reset (R444, R465, R473) -/

/-- READY_REACHED (R444 step 4). -/
def execReadyReached (s : State) : Host.Outcome State Fault Refusal := .next s.reachReady

/-- COMPUTE_ENABLE_SET (R444 step 5). -/
def doComputeEnableSet (s : State) : State := (s.modSec (fun x => { x with computeEnable := true })).tryRun
def execComputeEnableSet (s : State) : Host.Outcome State Fault Refusal :=
  s.orDefer .computeEnableSet (doComputeEnableSet s)

/-- COMPUTE_ENABLE_CLEAR (R465): the compute reset group is held, ending RUN or HOLD. -/
def doComputeEnableClear (s : State) : State :=
  let s' := s.modSec (fun x => { x with computeEnable := false })
  if s.ticking then s'.holdCompute else s'
def execComputeEnableClear (s : State) : Host.Outcome State Fault Refusal :=
  s.orDefer .computeEnableClear (doComputeEnableClear s)

/-- DEVICE_RESET (R473, R482): without effect while RESET_BUSY is 1. -/
def doDeviceReset (s : State) : State :=
  if s.hal.resetBusy || !s.alive then s else s.deviceReset s.sec.running.isSome
def execDeviceReset (s : State) : Host.Outcome State Fault Refusal := .next (doDeviceReset s)

end Sys2Proof.Machine
end

