-- ==== Sys2Proof/Machine/Security.lean ====
section
/-! DEFINITION. Firmware (R442 to R444, R466, R402), debug levels and tokens (R450 to R455), attestation
(R445, R446). -/

namespace Sys2Proof.Machine

/-! ## Firmware -/

/-- R443: the SVN floor: the record's, the in-service floor, and one raised since. -/
def State.svnFloor (s : State) : Nat :=
  max s.mod.record.svnFloor
    ((s.repair.unrecorded.filter (fun u => u.1 == 7)).foldl (fun a u => max a u.2.1) s.mod.bank.floor)

/-- R443, R444, R466: the error an image is rejected with: 5 format or length, 1 key hash, 2 signature,
4 variant, 3 SVN; 0 when it is accepted. `least` is the least SVN. -/
def State.imageError (s : State) (i : FwImage) (least : Nat) : Nat :=
  if i.format ≠ 1 ∨ !i.lengthOk then 5
  else if !i.keyOk then 1
  else if !i.sigOk then 2
  else if s.lifecycle ≠ 0 ∧ i.variant ≠ s.mod.record.variant then 4
  else if i.svn < max least s.svnFloor then 3
  else 0

/-- R444: an accepted image may raise the in-service floor. -/
def State.raiseFloor (s : State) (i : FwImage) : State :=
  if s.svnFloor < i.floor then s.record (7, i.floor, 0, 0, 0) else s

/-- R443: an image has been loaded: verification starts, or error 6 while another is being verified. Each
attempt is counted. -/
def State.loadImage (s : State) (i : FwImage) : State :=
  if !s.alive then s else
  let s := s.modSec (fun x => { x with fwAttempts := satAdd 8 x.fwAttempts 1 })
  match s.sec.verifying with
  | some _ => s.modSec (fun x => { x with fwError := 6 })
  | none => s.modSec (fun x => { x with verifying := some i, fwState := 1 })

/-- FW_CTL_GO (R443, R466): LENGTH is 1 to 32,768 units of 256 B. -/
def doFwCtlGo (img : FwImage) (s : State) : State :=
  let ok := decide (1 ≤ s.sec.fwLength) && decide (s.sec.fwLength ≤ 32768)
  s.loadImage { img with lengthOk := img.lengthOk && ok }
def execFwCtlGo (img : FwImage) (s : State) : Host.Outcome State Fault Refusal :=
  s.orDefer (.fwCtlGo img) (doFwCtlGo img s)

/-- The image that lies in the firmware window (R442). -/
def State.windowImage (s : State) : FwImage :=
  let i := Config.fwImage s.sec.fwWindow s.sec.fwLength
  ⟨i.1, i.2.1, i.2.2.1, i.2.2.2.1, i.2.2.2.2.1, i.2.2.2.2.2.1, i.2.2.2.2.2.2.1, i.2.2.2.2.2.2.2⟩

/-- FW_CTL_ABORT (R466): the window's content is discarded. -/
def doFwCtlAbort (s : State) : State := s.modSec (fun x => { x with fwWindow := [] })
def execFwCtlAbort (s : State) : Host.Outcome State Fault Refusal := s.orDefer .fwCtlAbort (doFwCtlAbort s)

/-- PLDM_FIRMWARE_UPDATE (R442). -/
def doPldmFirmwareUpdate (img : FwImage) (s : State) : State := s.loadImage img
def execPldmFirmwareUpdate (img : FwImage) (s : State) : Host.Outcome State Fault Refusal :=
  s.orDefer (.pldmFirmwareUpdate img) (doPldmFirmwareUpdate img s)

/-- An accepted image runs. -/
def State.runImage (s : State) (i : FwImage) : State :=
  (s.modSec (fun x => { x with running := some i, fwState := 2, fwError := 0, fwSvn := i.svn })).raiseFloor i

/-- IMAGE_VERIFICATION_DONE (R443): accepted and started, or rejected with FW_STATUS.ERROR. Over a running
image an accepted one begins an in-service reload (R444). -/
def execImageVerificationDone (s : State) : Host.Outcome State Fault Refusal :=
  match s.sec.verifying with
  | none => .next s
  | some i =>
    let e := s.imageError i s.sec.fwSvn
    let s := s.modSec (fun x => { x with verifying := none })
    if e ≠ 0 then
      .next (s.modSec (fun x => { x with fwError := e, fwState := if x.running.isSome then 2 else 3 }))
    else if s.sec.running.isSome then
      .next ((s.modSec (fun x => { x with fwState := 2, fwError := 0 })).modHal (fun h =>
        { h with reloading := true, reloadImg := some i }))
    else .next (s.runImage i)

/-- FIRMWARE_RELOAD (R402, R444): the same checks, and an SVN not below the running image's. -/
def execFirmwareReload (img : FwImage) (s : State) : Host.Outcome State Fault Refusal :=
  if s.sec.running.isNone || s.hal.reloading then .next s
  else
    let s := s.modSec (fun x => { x with fwAttempts := satAdd 8 x.fwAttempts 1 })
    let e := s.imageError img s.sec.fwSvn
    if e ≠ 0 then .next (s.modSec (fun x => { x with fwError := e }))
    else .next ((s.modSec (fun x => { x with fwError := 0 })).modHal (fun h =>
      { h with reloading := true, reloadImg := some img }))

/-! ## Debug levels (R449, R450, R453) -/

/-- R449: the greatest level a lifecycle state allows. -/
def State.levelLimit (s : State) : Nat := s.defaultLevel

/-- R450: a level other than the one in effect, or the one that waits for HOLD, is a change. -/
def State.toLevel (s : State) (level : Nat) : State :=
  if s.sec.levelNext.getD s.sec.level = level then s else s.changeLevel level

/-- LEVEL_REQ (R450): beyond the limit the level stays and LEVEL_DENIED is set. -/
def doLevelReq (level : Nat) (s : State) : State :=
  let level := level % 4
  let s := s.modSec (fun x => { x with levelReq := level })
  if s.levelLimit < level then s.modSec (fun x => { x with levelDenied := true })
  else s.toLevel level
def execLevelReq (level : Nat) (s : State) : Host.Outcome State Fault Refusal :=
  s.orDefer (.levelReq level) (doLevelReq level s)

/-- R453: the session ends: OPERATIONAL at level 1, under R450. -/
def doEndDebug (s : State) : State :=
  if s.sec.debugSession then
    (s.modSec (fun x => { x with debugSession := false, maxLevel := 1, remaining := 0 })).toLevel 1
  else s
def execEndDebug (s : State) : Host.Outcome State Fault Refusal := s.orDefer .endDebug (doEndDebug s)

/-- DEBUG_SESSION_EXPIRY (R453): once no time of the session remains. -/
def execDebugSessionExpiry (s : State) : Host.Outcome State Fault Refusal :=
  .next (if s.sec.remaining = 0 then doEndDebug s else s)

/-! ## Tokens (R452 to R455) -/

/-- A secured session of this number is open. -/
def State.inSession (s : State) (session : Nat) : Bool := s.sec.sessions.elem session

/-- 256 bits from four draws. -/
def State.draw256 (s : State) : BitVec 256 :=
  Config.word s.freeCtr ++ Config.word (s.freeCtr + 1) ++ Config.word (s.freeCtr + 2) ++ Config.word (s.freeCtr + 3)
def State.drawn4 (s : State) : State := { s with freeCtr := s.freeCtr + 4 }

/-- NONCE_REQUEST (R452): a fresh nonce, which alone is valid. -/
def execNonceRequest (session : Nat) (s : State) : Host.Outcome State Fault Refusal :=
  if s.inSession session then
    .next ((s.drawn4.modSec (fun x => { x with nonce := some s.draw256, nonceAt := s.hal.ms })).emit (.nonce s.draw256))
  else .next (s.emit .spdmError)

/-- R452: a nonce is valid for 10 min. -/
def State.nonceFresh (s : State) : Bool := decide (s.hal.ms < s.sec.nonceAt + 600000)

/-- NONCE_EXPIRY (R452): once 10 min have passed. -/
def execNonceExpiry (s : State) : Host.Outcome State Fault Refusal :=
  .next (if s.nonceFresh then s else s.modSec (fun x => { x with nonce := none }))

/-- R452: the checks of any token. -/
def State.tokenOk (s : State) (kind : Nat) (t : Token) : Bool :=
  t.keyOk && t.sigOk && t.kind == kind && t.serial == s.mod.record.serial && s.sec.nonce == some t.nonce && s.nonceFresh

def State.refuseToken (s : State) : State := s.modSec (fun x => { x with tokenRefused := satAdd 16 x.tokenRefused 1 })

/-- DEBUG_TOKEN (R453): in OPERATIONAL, or replacing the token of a running session. -/
def execDebugToken (session : Nat) (tok : Token) (s : State) : Host.Outcome State Fault Refusal :=
  if !s.inSession session then .next (s.emit .spdmError)
  else if s.tokenOk 1 tok && (tok.maxLevel == 2 || tok.maxLevel == 3) && decide (60 ≤ tok.duration) &&
      decide (tok.duration ≤ 86400) && (s.lifecycle == 2 || s.lifecycle == 3) then
    let s' := s.drawn.modSec (fun x => { x with
      debugSession := true, maxLevel := tok.maxLevel, remaining := tok.duration, nonce := none
      tokenDigest := s.draw.toNat })
    .next (s'.toLevel tok.maxLevel)
  else .next s.refuseToken

/-- R454: memory zeroed, retained objects and the tables in it included. -/
def State.zeroAll (s : State) : State :=
  { s.zeroRange 0 memBytes with
    gauge := { s.gauge with slots := [] }
    ctxs := [], objs := [], kernels := [], pendingOrder := [], flights := [], cistern := []
    sync := { s.sync with objs := [], shares := [], ops := [], waits := [] }
    fns := s.fns.map (fun e => (e.1, { e.2 with ctxs := [], pendingFaults := [] })) }

/-- RETIRE_TOKEN (R454, R455): in READY only: memory zeroed, the marker written, RET burned, identities
erased; RETIRED at level 0. -/
def execRetireToken (session : Nat) (tok : Token) (s : State) : Host.Outcome State Fault Refusal :=
  if !s.inSession session then .next (s.emit .spdmError)
  else if s.tokenOk 2 tok && s.mod.state == .ready then
    let s := (s.modSec (fun x => { x with nonce := none })).zeroAll
    let s := s.writeBank true
    let s := s.modMod (fun m => { m with ret := List.replicate 13 true })
    .next (s.modSec (fun x => { x with
      identity := List.replicate 13 false, debugSession := false, remaining := 0, maxLevel := 0, level := 0
      levelNext := none }))
  else .next s.refuseToken

/-! ## Attestation (R445, R446) -/

/-- GET_CERTIFICATE (R445): slot 0, with an identity. -/
def execGetCertificate (slot : Nat) (s : State) : Host.Outcome State Fault Refusal :=
  if s.hasIdentity && slot == 0 then .next (s.emit (.certificate (Config.crypto 0 slot)))
  else .next (s.emit .spdmError)

/-- CHALLENGE (R445). -/
def execChallenge (slot : Nat) (nonce : BitVec 256) (s : State) : Host.Outcome State Fault Refusal :=
  if s.hasIdentity && slot == 0 then .next (s.emit (.signature (Config.crypto 1 nonce.toNat)))
  else .next (s.emit .spdmError)

/-- R446: the content of a measurement block, none where there is no such block. -/
def State.measurement (s : State) (index : Nat) (nonce : BitVec 256) : Option (List Byte) :=
  match index with
  | 1 => some (Config.crypto 2 0)
  | 2 => some (match s.sec.running with
      | some i => leBytes 32 i.digest.toNat
      | none => Config.crypto 2 1)
  | 3 => some (leBytes 2 s.sec.fwSvn ++ Config.crypto 2 2)
  | 4 => some (Config.crypto 2 3)
  | 5 => some (Config.crypto 2 (4 + s.mod.bank.seq) ++ leBytes 8 s.mod.bank.seq)
  | 6 => some (leBytes 1 s.lifecycle ++ leBytes 1 s.sec.level ++
      leBytes 32 (if s.sec.debugSession then s.sec.tokenDigest else 0))
  | 7 => some (match s.fab.fmKey with
      | some k => Config.crypto 3 k.toNat
      | none => List.replicate 32 0)
  | i =>
    if 0x20 ≤ i ∧ i ≤ 0x2B ∧ s.sec.identity.getD (i - 0x20 + 1) false then some (Config.crypto i nonce.toNat)
    else none

/-- GET_MEASUREMENTS (R446): signed when asked for and an identity exists. -/
def execGetMeasurements (index : Nat) (sign : Bool) (nonce : BitVec 256) (s : State) : Host.Outcome State Fault Refusal :=
  match s.measurement index nonce with
  | some b => .next (s.emit (.measurement index b (sign && s.hasIdentity)))
  | none => .next (s.emit .spdmError)

/-- SPDM_ALGORITHM_NEGOTIATION (R445). -/
def execSpdmAlgorithmNegotiation (offersExtended : Bool) (s : State) : Host.Outcome State Fault Refusal :=
  let s := s.modSec (fun x => { x with algorithms := offersExtended })
  .next (s.emit (if offersExtended then .algorithms else .spdmError))

/-- KEY_EXCHANGE (R445): one of at most four sessions, after a negotiation and with an identity. -/
def execKeyExchange (s : State) : Host.Outcome State Fault Refusal :=
  if s.hasIdentity && s.sec.algorithms && decide (s.sec.sessions.length < 4) then
    let id := s.nextId
    .next ((s.fresh.modSec (fun x => { x with sessions := x.sessions ++ [id] })).emit (.session id))
  else .next (s.emit .spdmError)

/-- HEARTBEAT (R445). -/
def execHeartbeat (session : Nat) (s : State) : Host.Outcome State Fault Refusal :=
  .next (s.emit (if s.inSession session then .heartbeatAck session else .spdmError))

end Sys2Proof.Machine
end

