-- ==== Sys2Proof/Machine/Power.lean ====
section
/-! DEFINITION. Power and thermal control (R408 to R433): the requirement, the job-wide agreement, the
cap, temperatures and the trip, the predictor. -/

namespace Sys2Proof.Machine

def periodTicks : Nat := 38400

/-- The control period of the present job tick (R410). -/
def State.periodNow (s : State) : Nat := s.jobTick.toNat / periodTicks

def natF32 (n : Nat) : Word32 := f32Of (.fin false n 0)

/-- The least integer not below a value, clamped to 0 to 61; NaN counts as beyond reach. -/
def ceil61 (v : FP) : Nat :=
  match v with
  | .nan => 61
  | .inf neg => if neg then 0 else 61
  | .fin neg m e =>
    if neg then 0
    else if 0 ≤ e then min 61 (m * 2 ^ e.toNat)
    else min 61 ((m + 2 ^ (-e).toNat - 1) / 2 ^ (-e).toNat)

/-! ## The priority estimate (R415) and the predictor (R416, R417) -/

/-- P_CW of a measured period with ratio k. -/
def wetPower (pC pCI : Word32) (k : Nat) : Word32 :=
  f32Div (f32Max 0 (f32Sub pC pCI)) (f32Div (natF32 (64 - k)) (natF32 64))

/-- R415 from P_CW on: the requirement, 61 for beyond reach. -/
def requirePower (pH pL pM pCW pCI cap guard : Word32) : Nat :=
  let target := f32Sub cap guard
  let b := f32Sub (f32Sub (f32Sub target pH) pL) pM
  let room := f32Sub b pCI
  if !f32Lt 0 room then 61
  else if f32Eq pCW 0 then 0
  else
    let w := f32Div room pCW
    if f32Le (natF32 1) w then 0 else ceil61 (f32Val (f32Mul (natF32 64) (f32Sub (natF32 1) w)))

/-- The greatest element of a list of temperatures. -/
def hottest (l : List Int) : Option Int :=
  l.foldl (fun a t => match a with
    | none => some t
    | some m => some (max m t)) none

/-- The junction readings of a die (16 sensors each). -/
def dieReadings (r : Readings) (d : Nat) : List Int := (r.junction.drop (16 * d)).take 16

/-- P_CI: the leakage table at the hottest junction of each die (R415), 0 °C before the first reading. -/
def State.idlePower (s : State) : Word32 :=
  Config.leakage ((List.range 4).map (fun d => ((hottest (dieReadings s.power.readings d)).getD 0)))

def State.capF (s : State) : Word32 := natF32 s.power.effective
def State.guardF (s : State) : Word32 := natF32 (5 * s.power.guard)

/-- R415 on the last measured period. -/
def State.priorityEstimate (s : State) : Nat :=
  let p := s.power
  requirePower p.readings.powH p.readings.powL p.readings.powM
    (wetPower p.readings.powC s.idlePower p.measuredK) s.idlePower s.capF s.guardF

def meanNat (l : List Nat) : Nat := l.sum / l.length
def meanF32 (l : List Word32) : Word32 := f32Div (l.foldl f32Add 0) (natF32 l.length)

/-- R410, R417: the wet ticks, from region entry, at which the next period begins, which is the one a requirement is for: what has
passed and the rest of this period at the ratio agreed. A region that waits for its entry tick has passed none; one without an
entry tick overlaps no period yet. -/
def State.wetAtTarget (s : State) (r : Region) : Option Int :=
  let rest := periodTicks - s.jobTick.toNat % periodTicks
  let next := s.jobTick.toNat + rest
  let wet : Nat → Int := fun n => (n * (64 - s.power.applied) / 64 : Nat)
  match r.stage with
  | .running => some ((s.jobWet.toNat : Int) - r.entryWet + wet rest)
  | .entry k => some (wet (next - k.toNat) - (k.toNat - next : Nat))
  | .launching | .ready => none

/-- R417: a learned phase, widened by one period on each side, overlaps the target period that begins `w`
wet ticks after entry. -/
def Phase.overlaps (p : Phase) (w : Int) : Bool :=
  decide ((meanNat p.starts : Int) ≤ w + 2 * periodTicks) &&
  decide (w ≤ (meanNat p.starts + meanNat p.lens : Nat) + (periodTicks : Int))

def State.phaseSetOf (s : State) (n : Nat) : List Phase :=
  ((s.power.phaseSets.find? (fun e => e.1 == n)).map (fun e => e.2)).getD []

/-- R417: the largest requirement of the phases predicted to overlap the target period; none without
history, a region or PREDICT. -/
def State.predicted (s : State) : Option Nat :=
  if !s.power.predict then none else
  match s.timed.region with
  | none => none
  | some r =>
    let hit := (s.phaseSetOf r.phaseSet).filter (fun p => decide (p.starts ≠ []) && (s.wetAtTarget r).any p.overlaps)
    if hit ≠ [] then
      some (hit.foldl (fun a p => max a (requirePower s.power.readings.powH s.power.readings.powL
        (meanF32 p.pm) (meanF32 p.pcw) s.idlePower s.capF s.guardF)) 0)
    else none

/-- R410 step 2, R429: the power requirement and whether the predictor was used. -/
def State.powerRequirement (s : State) : Nat × Bool :=
  if !s.power.enable then (0, false)
  else match s.predicted with
    | some k => (max s.priorityEstimate k, true)
    | none => (s.priorityEstimate, false)

/-- R410, R419: what the device contributes: the largest of its requirements, 61 counting as 60. -/
def Power.contribution (p : Power) : Nat := max (max (min 60 p.own) p.thermal) p.minRatio

/-- R301, R416: a phase mark reaches Halnor: the first 256 IDs of a set are learned, others are counted. -/
def State.markPhase (s : State) (id : Nat) : State :=
  match s.timed.region with
  | none => s
  | some r =>
    let s := s.modTimed (fun t => { t with region := some { r with
      marks := r.marks ++ [(id, BitVec.ofNat 64 (s.jobWet.toNat - r.entryWet))] } })
    let set := s.phaseSetOf r.phaseSet
    if !s.power.predict then s
    else if set.any (fun p => p.id == id) then s
    else if set.length < 256 then
      s.modPower (fun p => { p with
        phaseSets := modIf p.phaseSets (fun e => e.1 == r.phaseSet) (fun e => (e.1, e.2 ++ [⟨id, [], [], [], []⟩])) })
    else s.modPower (fun p => { p with phasesUnlearned := satAdd 32 p.phasesUnlearned 1 })

/-- R416: a PHASE_SET is launched: sixteen are kept, the least recently launched replaced. -/
def State.launchPhases (s : State) (n : Nat) : State :=
  s.modPower (fun p => { p with
    phaseSets := ((n, s.phaseSetOf n) :: p.phaseSets.filter (fun e => e.1 != n)).take 16 })

/-- R419: a step boundary of the job has come: a flume descriptor completed, or a SET_STEP descriptor applied. -/
def State.stepBoundary (s : State) : State :=
  if s.power.waitBoundary then s.modPower (fun p => { p with stepSeen := true }) else s

/-- A region's marks as (phase, start, length): a phase lasts to the next mark or the region's end. -/
def markSpans (marks : List (Nat × Word64)) (fin : Nat) : List (Nat × Nat × Nat) :=
  match marks with
  | [] => []
  | [m] => [(m.1, m.2.toNat, fin - m.2.toNat)]
  | m :: n :: r => (m.1, m.2.toNat, n.2.toNat - m.2.toNat) :: markSpans (n :: r) fin

/-- R416: a completed region is learned with PREDICT 1: each phase's first span, and its powers, which
Halnor measures (free values). The last 8 regions count. -/
def State.learnPhases (s : State) (r : Region) : State :=
  if !s.power.predict then s else
  let spans := markSpans r.marks r.length
  let learn : Phase → Phase := fun p =>
    match spans.find? (fun m => m.1 == p.id) with
    | some m =>
      { p with starts := (m.2.1 :: p.starts).take 8, lens := (m.2.2 :: p.lens).take 8
               pcw := ((Config.word (s.freeCtr + 2 * p.id)).truncate 32 :: p.pcw).take 8
               pm := ((Config.word (s.freeCtr + 2 * p.id + 1)).truncate 32 :: p.pm).take 8 }
    | none => p
  let s' := s.modPower (fun p => { p with
    phaseSets := modIf p.phaseSets (fun e => e.1 == r.phaseSet) (fun e => (e.1, e.2.map learn)) })
  { s' with freeCtr := s.freeCtr + 131072 }

/-! ## The agreement (R410, R411) -/

/-- A contribution with the period it is for. -/
def putContribution (period ratio : Nat) : Nat := period * 64 + ratio

/-- R410 step 3: the maximum of the device's own contribution and its children's latest. -/
def State.combined (s : State) : Nat :=
  s.power.contributions.foldl (fun a e => max a (e.2 % 64)) s.power.contribution

/-- WEIR_CONTRIBUTION (R410 step 3): a child's contribution is combined and passed on. -/
def execWeirContribution (child period ratio : Nat) (s : State) : Host.Outcome State Fault Refusal :=
  if s.power.agreed then
    let s := s.modPower (fun p => { p with
      contributions := tabPut p.contributions child (putContribution period (min 60 ratio)) })
    if s.timed.root then .next s else .next (s.emit (.contribution period s.combined))
  else .next s

/-- The device tick of a period's first tick. -/
def State.periodTick (s : State) (period : Nat) : Nat := s.deviceTickOf (BitVec.ofNat 64 (period * periodTicks))

/-- R42, R411: an agreement still reaches the period with 4,096 ticks to go. -/
def State.inTime (s : State) (period : Nat) : Bool := decide (s.tick.toNat + 4096 ≤ s.periodTick period)

/-- R410 step 4, R42: the agreed ratio of a period, as an event at the period's first tick. -/
def State.agree (s : State) (period ratio : Nat) : State :=
  let s := s.modPower (fun p => { p with agreements := tabSet p.agreements none period (some ratio), lastAgreed := ratio })
  s.modHal (fun h => { h with
    events := h.events ++ [.ratio period ratio (s.periodTick period)] })

/-- R410 step 5, R411: the ratio of a period for a device outside the agreement: its own requirement, and
the last agreed ratio after leaving one. -/
def State.setOwnRatio (s : State) (period : Nat) : State :=
  let k := max s.power.contribution s.power.lastAgreed
  let s := s.modPower (fun p => { p with agreements := tabSet p.agreements none period (some k) })
  s.modHal (fun h => { h with events := h.events ++ [.ratio period k (s.periodTick period)] })

/-- The children whose contribution for a period has not arrived (R411). -/
def State.missingContributions (s : State) (period : Nat) : Nat :=
  (s.timed.children.filter (fun c => tabGet s.power.contributions 0 c.2 / 64 ≠ period)).length

/-- REQUIREMENT_COMPUTATION (R410 step 2, R413): during a reload the last requirement is contributed. -/
def execRequirementComputation (s : State) : Host.Outcome State Fault Refusal :=
  let s := if s.hal.reloading then s else
    let k := s.powerRequirement
    s.modPower (fun p => { p with own := k.1, predicted := k.2 })
  let target := s.power.period + 1
  if s.power.agreed then
    if s.timed.root then .next s else .next (s.emit (.contribution target s.combined))
  else if s.inTime target then .next (s.setOwnRatio target) else .next s

/-- ROOT_COMBINE_DEADLINE (R410, R411): the root takes the maximum and distributes it; missing contributions
are counted and the last ones used. -/
def execRootCombineDeadline (s : State) : Host.Outcome State Fault Refusal :=
  let target := (s.jobTick.toNat + 16384) / periodTicks
  if s.power.agreed && s.timed.root && s.inTime target && (tabGet s.power.agreements none target).isNone then
    let k := s.combined
    let s := s.modPower (fun p => { p with lateContrib := satAdd 32 p.lateContrib (s.missingContributions target) })
    .next ((s.emit (.agreement target k)).agree target k)
  else .next s

/-- AGREEMENT_RECEIPT (R410 step 4): the ratio is kept for its period and passed down the tree. One that comes later than
R411 allows is not held. -/
def execAgreementReceipt (period ratio : Nat) (s : State) : Host.Outcome State Fault Refusal :=
  if s.power.agreed && !s.timed.root && s.inTime period then
    let k := min 60 ratio
    .next ((if s.timed.children = [] then s else s.emit (.agreement period k)).agree period k)
  else .next s

/-- R411, R421: the device leaves the agreement: its regions abort and its epoch is invalid. -/
def State.leaveAgreement (s : State) : State :=
  (s.abortRegion (faultOf .partnerLost 0)).dropEpoch

/-- AGREEMENT_MISSING (R411): no agreement is held for the period that begins within 4,096 ticks. -/
def execAgreementMissing (s : State) : Host.Outcome State Fault Refusal :=
  let target := (s.jobTick.toNat + 4096) / periodTicks
  if s.power.agreed && decide (s.periodNow < target) && (tabGet s.power.agreements none target).isNone then
    let s := (s.setOwnRatio target).leaveAgreement
    let s := s.modPower (fun p => { p with agreementLost := satAdd 32 p.agreementLost 1 })
    .next (s.emit .agreementLost)
  else .next s

/-! ## Temperatures (R420, R421, R423) -/

/-- The largest excess over the throttle limits, in °C. -/
def readingsExcess (r : Readings) : Option Int :=
  hottest ((r.junction.map (fun t => t - 105)) ++ (r.stack.map (fun t => t - 95)))

/-- The sensors at their trip threshold, as (0 junction or 1 stack, number) (R421). -/
def hotSensors (r : Readings) : List (Nat × Nat) :=
  ((List.range r.junction.length).filter (fun i => decide (115 ≤ r.junction.getD i 0))).map (fun i => (0, i)) ++
  ((List.range r.stack.length).filter (fun i => decide (105 ≤ r.stack.getD i 0))).map (fun i => (1, i))

/-- R421: cool enough for TRIPPED to be cleared. -/
def readingsCool (r : Readings) : Bool :=
  r.junction.all (fun t => decide (t < 95)) && r.stack.all (fun t => decide (t < 85))

/-- R420: k_th after one period; `tenth` is every 16th period. -/
def thermalNext (k : Nat) (e : Option Int) (sixteenth : Bool) : Nat :=
  match e with
  | none => k
  | some e => if 0 ≤ e then min 60 (k + 2) else if -3 ≤ e then k else if sixteenth then k - 1 else k

/-- R423: the band entered at a temperature, from the band held: up at the edge, down 3 °C below it. -/
def bandNext (old : Nat) (t : Int) : Nat :=
  let up := if 95 ≤ t then 3 else if 75 ≤ t then 2 else if 50 ≤ t then 1 else 0
  let down := if 92 ≤ t then 3 else if 72 ≤ t then 2 else if 47 ≤ t then 1 else 0
  if old < up then up else min old down

/-- R410 step 1, R420, R423: a period's measurements taken in. -/
def Power.measure (p : Power) (r : Readings) : Power :=
  let count := (p.coolCount + 1) % 16
  let k := thermalNext p.thermal (readingsExcess r) (count = 0)
  let bands := (List.range 4).map (fun d => match hottest (dieReadings r d) with
    | some t => bandNext (p.bands.getD d 0) t
    | none => p.bands.getD d 0)
  { p with
    readings := r, measuredK := (tabGet p.agreements none p.period).getD p.applied, coolCount := count, thermal := k
    throttlePeriods := if 0 < k then satAdd 48 p.throttlePeriods 1 else p.throttlePeriods
    junctionMax := match hottest r.junction with
      | some t => min 255 t.toNat
      | none => p.junctionMax
    stackMax := match hottest r.stack with
      | some t => min 255 t.toNat
      | none => p.stackMax
    bands := bands, volts := (List.range 4).map (fun d => Config.voltage d (bands.getD d 0))
    hot := hotSensors r, tripping := (hotSensors r).find? (fun i => p.hot.elem i)
    cool := readingsCool r }

/-- THE THERMAL TRIP (R421, R428) by a sensor. -/
def State.trip (s : State) (i : Nat × Nat) : State :=
  let s := s.leaveAgreement.modPower (fun p => { p with stopped := true })
  let s := if s.gauge.enable && s.gauge.sources.getLsbD 1 then s.gaugeNow else s
  let s := s.stopAll (faultOf .thermalTrip 0)
  let s := s.holdCompute
  let s := s.modPower (fun p => { p with tripped := true, waitBoundary := false, beyond := 0 })
  (s.raiseAlert .thermal).logEntry .trip [i.1, i.2]

/-- R419 step 1: a period beyond reach, or one within it. -/
def State.capCheck (s : State) : State :=
  if s.power.own = 61 then
    let s' := s.modPower (fun p => { p with unatt := true, unattSeen := true, beyond := p.beyond + 1 })
    if s.power.unatt then s'
    else
      let s' := s'.modPower (fun p => { p with capUnattEvents := satAdd 32 p.capUnattEvents 1 })
      (s'.raiseAlert .cap).logEntry .cap [s.power.effective]
  else s.modPower (fun p => { p with unatt := false, beyond := 0, waitBoundary := false })

/-- CONTROL_PERIOD_BOUNDARY (R410, R418 to R423): the effective cap, the measurements of the old period, and the trip on a
sensor's second hot read. The new period's ratio applies in its first tick (`tickOnce`); it is noted as the one measured with (R415). -/
def execControlPeriodBoundary (r : Readings) (s : State) : Host.Outcome State Fault Refusal :=
  if !s.alive then .next s else
  let warm := s.power.thermal
  let s := s.modPower (fun p => (p.measure r))
  let s := s.modPower (fun p => { p with
    effective := min p.hostCap p.mgmtCap
    period := if s.running then s.periodNow else p.period + 1 })
  let s := s.modPower (fun p => { p with
    agreements := tabMod (p.agreements.filter (fun e => decide (p.period ≤ e.1))) none p.period (fun k => some (k.getD p.applied)) })
  let s := s.capCheck
  let s := if warm = 0 ∧ 0 < s.power.thermal then s.raiseAlert .thermal else s
  match s.power.tripping with
  | some i => if s.power.tripped then .next s else .next (s.trip i)
  | none => .next s

/-- TRIPPED_CLEAR (R421, R432): only once the sensors have cooled. -/
def doTrippedClear (s : State) : State :=
  if s.power.cool then (s.modPower (fun p => { p with tripped := false })).tryRun else s
def execTrippedClear (s : State) : Host.Outcome State Fault Refusal := s.orDefer .trippedClear (doTrippedClear s)

/-! ## The cap (R418, R419, R430) -/

def capInRange (w : Nat) : Bool := decide (900 ≤ w) && decide (w ≤ 2800)

/-- HOST_CAP_WRITE (R418, R430). -/
def doHostCapWrite (watts : Nat) (s : State) : State :=
  if capInRange watts then s.modPower (fun p => { p with hostCap := watts })
  else s.modPower (fun p => { p with capRejected := true })
def execHostCapWrite (watts : Nat) (s : State) : Host.Outcome State Fault Refusal :=
  s.orDefer (.hostCapWrite watts) (doHostCapWrite watts s)

/-- MGMT_CAP_EFFECTER (R418): a value out of range is refused with an error completion. -/
def doMgmtCapEffecter (watts : Nat) (s : State) : State :=
  if capInRange watts then (s.modPower (fun p => { p with mgmtCap := watts })).emit .bmcDone
  else s.emit .bmcRefused
def execMgmtCapEffecter (watts : Nat) (s : State) : Host.Outcome State Fault Refusal :=
  s.orDefer (.mgmtCapEffecter watts) (doMgmtCapEffecter watts s)

/-- CAP_PERSISTENCE_EXPIRY (R419 step 2): 7,813 consecutive periods beyond reach. -/
def execCapPersistenceExpiry (s : State) : Host.Outcome State Fault Refusal :=
  if 7813 ≤ s.power.beyond ∧ !s.power.waitBoundary then
    .next (s.modPower (fun p => { p with waitBoundary := true, stepSeen := false, waitSince := s.hal.ms }))
  else .next s

/-- CAP_STOP (R419 step 3): at the step boundary, or after 1 s without one: a gauge whatever the settings, then every context
stops. -/
def execCapStop (s : State) : Host.Outcome State Fault Refusal :=
  if s.power.waitBoundary ∧ (s.power.stepSeen ∨ s.power.waitSince + 1000 ≤ s.hal.ms) then
    let s := s.modPower (fun p => { p with waitBoundary := false })
    let s := s.gaugeRequest 1 true false
    let s := s.abortRegion (faultOf .partnerLost 0)
    .next (s.stopAll (faultOf .capUnattainable 0))
  else .next s

/-- PHY_TRIM (R424): one 2.5 mV step within ±30 mV of nominal, at most one per rail and hour, or logged as at its limit. -/
def doPhyTrim (rail : Nat) (up : Bool) (s : State) : State :=
  let recent := match s.power.trimAt.find? (fun e => e.1 == rail) with
    | some e => decide (s.hal.ms < e.2 + 3600000)
    | none => false
  if recent then s else
  let t := tabGet s.power.trims 0 rail + (if up then 1 else -1)
  if -12 ≤ t ∧ t ≤ 12 then
    (s.modPower (fun p => { p with trims := tabSet p.trims 0 rail t, trimAt := tabPut p.trimAt rail s.hal.ms, phyTrims := satAdd 32 p.phyTrims 1 })).logEntry
      .trim [rail, ofBool up]
  else s.logEntry .trimLimit [rail]
def execPhyTrim (rail : Nat) (up : Bool) (s : State) : Host.Outcome State Fault Refusal :=
  .next (doPhyTrim rail up s)

end Sys2Proof.Machine
end

