-- ==== Sys2Proof/Machine/Repair.lean ====
section
/-! DEFINITION. Repairs in service (R217 to R219, R400, R50), diagnostics (R401) and ageing (R403, R404). -/

namespace Sys2Proof.Machine

def State.modRepair (s : State) (f : Repair → Repair) : State := { s with repair := f s.repair }

/-- A repair done: applied, logged, and to be recorded in the in-service bank (R400, R440, R462). -/
def State.repaired (s : State) (u : Nat × Nat × Nat × Nat × Nat) : State :=
  ((s.modRepair (fun r => r.apply u)).record u).logEntry .repair [u.1, u.2.1, u.2.2.1, u.2.2.2.1, u.2.2.2.2]

/-- A channel whose spares are used up waits for its replacement at a job boundary (R400). -/
def State.awaitChannel (s : State) (ch : Nat) : State := s.modRepair (fun r => { r with waiting := addNew r.waiting ch })

/-- R190, R217: a sector lies in a row. -/
def State.inRow (s : State) (ch die bank row sector : Nat) : Bool :=
  decide (s.channelOf (sector / 4) = ch) && Config.dramPlace (s.locate (sector / 4 * 128)).2 == (die, bank, row)

/-- Noted within the last 24 hours (R400). -/
def State.inDay (s : State) (e : MemError) : Bool := decide (s.hal.ms < e.ms + 86400000)

/-- R400: a row is to be repaired: an uncorrectable sector of it, or corrected errors in 3 distinct sectors within 24 h. -/
def State.rowDue (s : State) (ch die bank row : Nat) : Bool :=
  let es := s.hal.memErrors.filter (fun e => s.inRow ch die bank row e.sector)
  es.any (fun e => e.lost) || decide (3 ≤ ((es.filter s.inDay).map (fun e => e.sector)).dedup.length)

/-- R400: a channel is to be replaced: its spares or its TSVs are used up, or 64 uncorrectable sectors within 24 h. -/
def State.channelDue (s : State) (ch : Nat) : Bool :=
  s.repair.waiting.elem ch ||
  decide (64 ≤ (s.hal.memErrors.filter (fun e => e.lost && s.inDay e && decide (s.channelOf (e.sector / 4) = ch))).length)

/-- ROW_REPAIR (R217, R400): Halnor begins the copy of a row that is due to one of the bank's 16 spare rows of the die; with
none left the channel awaits replacement. -/
def doRowRepair (ch die bank row : Nat) (s : State) : State :=
  if !s.rowDue ch die bank row then s else
  let busy := (s.repair.rows.filter (fun r => r.1 == ch && r.2.1 == die && r.2.2.1 == bank)).length
  if tabGet s.repair.rowsDone 0 (rowKey ch die bank) + busy < 16 then
    s.modRepair (fun r => { r with rows := addNew r.rows (ch, die, bank, row) })
  else s.awaitChannel ch
def execRowRepair (channel die bank row : Nat) (s : State) : Host.Outcome State Fault Refusal :=
  s.orDefer (.rowRepair channel die bank row) (doRowRepair channel die bank row s)

/-- ROW_REPAIR_SWITCH (R217): at the end of the copy the row's address goes to the spare; sectors found uncorrectable in
the copy, which are a free value, are poison there. -/
def execRowRepairSwitch (channel die bank row : Nat) (s : State) : Host.Outcome State Fault Refusal :=
  if s.repair.rows.elem (channel, die, bank, row) then
    let s := (s.poisonCopied ((Config.copyPoison s.freeCtr channel).filter (s.inRow channel die bank row))).drawn
    let s := s.modHal (fun h => { h with memErrors := h.memErrors.filter (fun e => !s.inRow channel die bank row e.sector) })
    .next ((s.modRepair (fun r => { r with rows := r.rows.filter (fun x => x != (channel, die, bank, row)) })).repaired
      (1, channel, die, bank, row))
  else .next s

/-- TSV_SHIFT (R218): onto one of the channel's two spares; a third failure asks for a new channel. -/
def doTsvShift (ch signal : Nat) (s : State) : State :=
  if tabGet s.repair.tsvs 0 ch < 2 then s.repaired (2, ch, signal, 0, 0) else s.awaitChannel ch
def execTsvShift (channel signal : Nat) (s : State) : Host.Outcome State Fault Refusal :=
  s.orDefer (.tsvShift channel signal) (doTsvShift channel signal s)

/-- R190: the physical channel of its stack, 0 to 33, that a logical channel is bound to: by the record's spare map and the
repairs made in service. -/
def State.physicalOf (s : State) (ch : Nat) : Nat := tabGet s.repair.bound (tabGet s.mod.record.channels (ch % 32) ch) ch

/-- R190, R219: a physical channel of the stack that no logical channel is bound to and that no replacement has left. -/
def State.spareChannel (s : State) (k : Nat) : Option Nat :=
  (List.range 34).find? (fun p => (List.range 32).all (fun c =>
    decide (s.physicalOf (k * 32 + c) ≠ p) && decide (tabGet s.mod.record.channels c (k * 32 + c) ≠ p)))

/-- R219: the channel copied to a spare of its stack, sectors that cannot be corrected as poison, and rebound, its contents
and every address unchanged; a third replacement finds no spare and the channel is marked failed. -/
def State.replaceChannel (s : State) (ch : Nat) : State :=
  let s := s.modRepair (fun r => { r with waiting := r.waiting.filter (fun c => c != ch) })
  let s := s.modHal (fun h => { h with memErrors := h.memErrors.filter (fun e => decide (s.channelOf (e.sector / 4) ≠ ch)) })
  if tabGet s.repair.channels 0 (ch / 32) < 2 then
    let secs := (Config.copyPoison s.freeCtr ch).filter (fun c => decide (s.channelOf (c / 4) = ch))
    (s.poisonCopied secs).drawn.repaired (3, ch, (s.spareChannel (ch / 32)).getD (32 + tabGet s.repair.channels 0 (ch / 32)), 0, 0)
  else ((s.modRepair (fun r => r.apply (4, ch, 0, 0, 0))).record (4, ch, 0, 0, 0)).logEntry .unrepairable [1, ch]

/-- R47, R50, R219: a job boundary: no kernel and no timed region is in progress. -/
def State.jobBoundary (s : State) : Bool := s.kernels.isEmpty && s.timed.region.isNone

/-- CHANNEL_REPLACEMENT (R219, R400): of a channel that is due, at once at a job boundary, else at the next. -/
def doChannelReplacement (ch : Nat) (s : State) : State :=
  if !s.channelDue ch then s else if s.jobBoundary then s.replaceChannel ch else s.awaitChannel ch
def execChannelReplacement (channel : Nat) (s : State) : Host.Outcome State Fault Refusal :=
  s.orDefer (.channelReplacement channel) (doChannelReplacement channel s)

/-- R50: the tile retired at a job boundary; its row may have no other retirement on that die. The logical
tiles of the row that move are reset, each with its reset group's sluices (R45). -/
def State.retireTile (s : State) (t : Nat × Nat × Nat) : State :=
  let s := s.modRepair (fun r => { r with toRetire := r.toRetire.filter (fun x => x != t) })
  if s.repair.retired.any (fun r => r.1 == t.1 && r.2.1 == t.2.1) then s.logEntry .unrepairable [0, t.1, t.2.1, t.2.2]
  else
    let before := s
    let s := s.repaired (0, t.1, t.2.1, t.2.2, 0)
    let row := (List.range 24).map (fun c => (t.1 / 2 * 24 + t.2.1) * 48 + t.1 % 2 * 24 + c)
    (row.filter (fun n => before.physTile n != s.physTile n)).foldl State.resetTile s

/-- DIAGNOSTICS_REQUEST (R401): run in a recovery context; the quarantine is recorded, the second within 30
days asks for a new module. A tile fault leads to retirement at the next job boundary (R400), a forwarding
fault cannot be repaired (R51). The recovery of R441 is complete. -/
def execDiagnosticsRequest (r : DiagResult) (s : State) : Host.Outcome State Fault Refusal :=
  if s.ctxs.any (fun e => e.2.kind == 3 && e.2.st != .free) then
    let s := (s.record (6, s.hal.ms, 0, 0, 0)).logEntry .quarantine []
    let s := if 2 ≤ s.recent 6 s.mod.bank.quarantines then s.logEntry .unrepairable [2] else s
    let s := s.modHal (fun h => { h with needRecovery := false })
    match r with
    | .tile d row pcol => .next (s.modRepair (fun x => { x with toRetire := addNew x.toRetire (d, row, pcol) }))
    | .forwarding d row pcol => .next (s.logEntry .unrepairable [3, d, row, pcol])
    | .nothing => .next s
  else .next s

/-- R404: the days remaining. -/
def Halnor.eolDays (h : Halnor) : Nat := (h.eolDate - h.ms) / 86400000

/-- R404: the exponent of a die, in thousandths: the record's until 90 days are measured, then the fitted one within 0.1 to 0.5. -/
def State.exponentOf (s : State) (die : Nat) : Nat :=
  if s.mod.bank.ageing.length < 90 then s.mod.record.exponent.getD die 0
  else min 500 (max 100 (Config.fitExponent die s.mod.bank.ageing))

/-- R404: the dates on which the dies (0 to 3) reach their margin and the lanes (4 on) their port's minimum eye. -/
def State.endDates (s : State) : List (Nat × Nat) :=
  (List.range 4).map (fun d =>
    (d, Config.slowdownEnd d s.mod.record.margin (s.exponentOf d) (s.hal.slowdown.getD d 0) s.mod.bank.ageing)) ++
  s.hal.eyes.map (fun e => (4 + e.1, Config.eyeEnd e.1 e.2))

/-- The earliest of some dates, with what it belongs to. -/
def earliest (l : List (Nat × Nat)) (d : Nat × Nat) : Nat × Nat := l.foldl (fun a x => if x.2 < a.2 then x else a) d

/-- R404: the prediction renewed: the earliest of the dates, and the monitor it comes from; fewer than 30 days, or a die at its
margin, raises ALERT_N. -/
def State.predictLife (s : State) : State :=
  let e := earliest (s.endDates.drop 1) (s.endDates.headD (0, 0))
  let s := s.modHal (fun h => { h with eolDate := e.2, eolMonitor := e.1 })
  if s.hal.eolDays < 30 ∨ s.hal.slowdown.any (fun x => decide (s.mod.record.margin ≤ x)) then s.raiseAlert .eol else s

/-- AGEING_MEASUREMENT (R403, R404, R440): the dies' slowdown, recorded in the bank once per day. -/
def execAgeingMeasurement (slowdown : List Nat) (s : State) : Host.Outcome State Fault Refusal :=
  if !s.alive then .next s else
  let s := s.modHal (fun h => { h with slowdown := (List.range 4).map (fun d => slowdown.getD d 0) })
  let done := s.mod.bank.ageing.length + (s.repair.unrecorded.filter (fun u => u.1 == 8)).length
  let s := if done ≤ s.hal.ms / 86400000 then
      s.record (8, slowdown.getD 0 0, slowdown.getD 1 0, slowdown.getD 2 0, slowdown.getD 3 0) else s
  .next s.predictLife

/-- EYE_MONITOR_SAMPLE (R403, R404, R249): a lane's eye and the frames its port has corrected since the last sample feed the
health log. -/
def execEyeMonitorSample (port lane : Nat) (sample : EyeSample) (s : State) : Host.Outcome State Fault Refusal :=
  if s.mod.pg then
    let s := s.modHal (fun h => { h with eyes := tabPut h.eyes (port * 16 + lane) sample.height })
    let s := s.modPort port (fun x => { x with ceFrames := satAdd 48 x.ceFrames sample.corrected })
    .next ((s.logEntry .eye [port, lane, sample.height]).logEntry .corrected [port, sample.corrected]).predictLife
  else .next s

end Sys2Proof.Machine
end

