-- ==== Sys2Proof/Machine/Rng.lean ====
section
/-! DEFINITION. The counter-based generator (R149 to R151, R170, R172). -/

namespace Sys2Proof.Machine

def rngMul (i : Nat) : Word64 :=
  match i with
  | 0 => 0x9F3B5C27E1D486A5
  | 1 => 0xC6A13E957B02DF4B
  | 2 => 0xA57DE81234C96B1D
  | _ => 0xE2B861FA0D93C577

def rngAdd (i : Nat) : Word64 :=
  match i with
  | 0 => 0x71A30E5CB829D4F6
  | 1 => 0x2D58C19B6E07A3F1
  | 2 => 0xB6407DE219C58A3E
  | _ => 0x4EF9A26DC01375B8

def rngRot (i : Nat) : Nat :=
  match i with
  | 0 => 27
  | 1 => 41
  | 2 => 13
  | _ => 34

/-- R149: one round, and the permutation. -/
def rngRound (key x : Word64) (i : Nat) : Word64 :=
  ((x * rngMul i) ^^^ (key + rngAdd i)).rotateLeft (rngRot i)

def permute (x key : Word64) : Word64 := (List.range 4).foldl (rngRound key) x

/-- R150: the key of a rounding generator. -/
def deriveKey (seed step : Word64) (stream tile source lane : Nat) : Word64 :=
  permute (BitVec.ofNat 64 (stream % 2 ^ 32 * 2 ^ 32 + source * 2 ^ 20 + tile * 2 ^ 8 + lane)) (permute step seed)

/-- R170: the key of a dropout site. -/
def deriveDropoutKey (seed step : Word64) (site : Nat) : Word64 :=
  permute (BitVec.ofNat 64 (site % 2 ^ 32 * 2 ^ 32 + 2 * 2 ^ 20)) (permute step seed)

/-- R151: value j of a generator: 16 bits. -/
def rngValue (key : Word64) (j : Nat) : Nat := fld (permute (BitVec.ofNat 64 (j / 4)) key).toNat (16 * (j % 4)) 16

end Sys2Proof.Machine
end

