-- ==== Sys2Proof/Machine/Operands.lean ====
section
/-! DEFINITION. The instruction word (R63), registers (R52), issue (R56 to R61), paths (R60 to R62), precise
faults (R92), and what the end of a group does. -/

namespace Sys2Proof.Machine

/-! ## The word (R63) -/

def wClass (w : Word64) : Nat := bvFld w 60 4
def wOp (w : Word64) : Nat := bvFld w 52 8
def wDst (w : Word64) : Nat := bvFld w 45 7
def wA (w : Word64) : Nat := bvFld w 38 7
def wB (w : Word64) : Nat := bvFld w 31 7
def wC (w : Word64) : Nat := bvFld w 24 7
def wPred (w : Word64) : Nat := bvFld w 21 3
def wPneg (w : Word64) : Bool := w.getLsbD 20
def wHint (w : Word64) : Nat := bvFld w 18 2
def wImm (w : Word64) : Nat := bvFld w 0 18
def wImmS (w : Word64) : Int := signed 18 (wImm w)

/-- R63, R64: a word of a class outside the memory classes: HINT zero and no bit of IMM set above `immMax`, for the bits that
the operation defines (assumption 127). -/
def plainWord (cls immMax : Nat) (w : Word64) : Bool :=
  wClass w == cls && wHint w == 0 && decide (wImm w ≤ immMax)

/-- R63: a source field that names a scalar register lies in 64 to 127 (assumption 127). -/
def scalarField (n : Nat) : Bool := decide (64 ≤ n)

/-! ## Registers (R52) -/

/-- Keys of the readiness table: v(n), s(n), p(n). -/
def keyV (n : Nat) : Nat := n
def keyS (n : Nat) : Nat := 128 + n % 64
def keyP (n : Nat) : Nat := 192 + n % 8

/-- The ready tick of a register whose operation has yet to return. -/
def never : Nat := 2 ^ 70

def Group.vreg (g : Group) (r lane : Nat) : Word32 := tabGet g.v 0 (32 * r + lane)
def Group.setVreg (g : Group) (r lane : Nat) (x : Word32) : Group := { g with v := tabSet g.v 0 (32 * r + lane) x }

/-- s(n mod 64): a field in 64..127 names s(n − 64). -/
def Group.sreg (g : Group) (n : Nat) : Word64 := tabGet g.s 0 (n % 64)
def Group.setSreg (g : Group) (n : Nat) (x : Word64) : Group := { g with s := tabSet g.s 0 (n % 64) x }

/-- p7 always reads 1. -/
def Group.preg (g : Group) (n lane : Nat) : Bool := if n % 8 = 7 then true else (tabGet g.p 0 (n % 8)).getLsbD lane

/-- p7 ignores writes. -/
def Group.setPreg (g : Group) (n lane : Nat) (b : Bool) : Group :=
  if n % 8 = 7 then g
  else
    let m := tabGet g.p 0 (n % 8)
    let bitm : Word32 := BitVec.ofNat 32 (2 ^ lane)
    { g with p := tabSet g.p 0 (n % 8) (if b then m ||| bitm else m &&& ~~~bitm) }

/-- The register will be ready at a wet tick. -/
def Group.readyOn (g : Group) (key at_ : Nat) : Group := { g with ready := tabSet g.ready 0 key at_ }

/-- The tick at which all of some registers are ready. -/
def Group.readyAll (g : Group) (keys : List Nat) : Nat := keys.foldl (fun a k => max a (tabGet g.ready 0 k)) g.readyAt

/-! ## Paths (R60 to R62) -/

def lanesOf (m : Word32) : List Nat := (List.range 32).filter (fun l => m.getLsbD l)
def Path.low (p : Path) : Nat := (lanesOf p.mask).headD 32

/-- Every live lane of the group. -/
def Group.live (g : Group) : Word32 := g.paths.foldl (fun a p => a ||| p.mask) 0

/-- R60: paths that are not parked at one address merge. -/
def mergePaths : List Path → List Path
  | [] => []
  | p :: r =>
    let m := mergePaths r
    match m.find? (fun q => q.pc == p.pc && q.park == p.park) with
    | some q => { p with mask := p.mask ||| q.mask } :: m.filter (fun x => x != q)
    | none => p :: m

/-- R61: the path whose turn follows: the next that is not parked, by lowest lane, wrapping. -/
def Group.nextTurn (g : Group) : Group :=
  let ps := mergePaths g.paths
  let free := ps.filter (fun p => p.park == .no)
  let after := free.filter (fun p => decide (g.turn < p.low))
  let least : List Path → Option Nat := fun l => match l with
    | [] => none
    | p :: r => some (r.foldl (fun a q => min a q.low) p.low)
  match least after, least free with
  | some t, _ => { g with paths := ps, turn := t, issued := 0 }
  | none, some t => { g with paths := ps, turn := t, issued := 0 }
  | none, none => { g with paths := ps }

def Group.cur (g : Group) : Option Path := g.paths.find? (fun p => p.low == g.turn && p.park == .no)

/-- R61: the turn goes on, or after 16 issues or when its path is gone passes to the next. -/
def Group.atTurn (g : Group) : Group := if g.cur.isSome && decide (g.issued < 16) then g else g.nextTurn

/-- The path replaced by others. -/
def Group.replace (g : Group) (p : Path) (new : List Path) : Group :=
  { g with paths := g.paths.filter (fun q => q != p) ++ new.filter (fun q => decide (q.mask ≠ 0)) }

/-- The current path's instruction done: its address moves on, and the turn counts it. -/
def Group.step (g : Group) (p : Path) (bytes : Nat) : Group :=
  { g.replace p [{ p with pc := p.pc + BitVec.ofNat 64 bytes }] with issued := g.issued + 1 }

/-- R61: the path's turn ends: the next issue is the next path's. -/
def Group.endTurn (g : Group) : Group := { g with issued := 16 }

/-- A path parks; the group's wait is timed from its first parked path (R328). -/
def Group.parkAt (g : Group) (p : Path) (k : Park) (ms : Nat) : Group :=
  let since := if g.paths.any (fun q => q.park != .no) then g.since else ms
  { g.replace p [{ p with park := k }] with since := since }

/-- R62: every live path is parked: the reconverge paths are released, those at one address merged. -/
def Group.settle (g : Group) : Group :=
  if g.paths ≠ [] ∧ g.paths.all (fun p => p.park != .no) ∧ g.paths.any (fun p => p.park == .reconverge) then
    { g with paths := (mergePaths g.paths).map (fun p =>
        if p.park = .reconverge then { p with pc := p.pc + 8, park := .no } else p) }
  else g

/-- The lanes an instruction executes in (R63). -/
def Group.active (g : Group) (p : Path) (w : Word64) : Word32 :=
  (List.range 32).foldl (fun a l =>
    if p.mask.getLsbD l && (g.preg (wPred w) l != wPneg w) then a ||| BitVec.ofNat 32 (2 ^ l) else a) 0

/-! ## Groups of a tile -/

def Tile.group (x : Tile) (slot : Nat) : Option Group := tabGet x.groups none slot
def State.group (s : State) (tile slot : Nat) : Option Group := (s.tile tile).group slot
def State.putGroup (s : State) (tile slot : Nat) (g : Group) : State :=
  s.modTile tile (fun x => { x with groups := tabSet x.groups none slot (some g) })
def State.noGroup (s : State) (tile slot : Nat) : State :=
  s.modTile tile (fun x => { x with groups := tabSet x.groups none slot none })

/-- The block of a group. -/
def State.blockOf (s : State) (tile : Nat) (g : Group) : Option Block :=
  (s.tile tile).blocks.find? (fun b => b.kern == g.kern && b.index == g.block)

/-- A group by its number, wherever it now is. -/
def State.slotOf (s : State) (tile uid : Nat) : Option Nat :=
  ((s.tile tile).groups.find? (fun e => match e.2 with
    | some g => g.uid == uid
    | none => false)).map (fun e => e.1)

/-- The group with a number changed, in its slot or its save record. -/
def State.modGroup (s : State) (tile uid : Nat) (f : Group → Group) : State :=
  s.modTile tile (fun x =>
    { x with groups := x.groups.map (fun e => (e.1, e.2.map (fun g => if g.uid = uid then f g else g)))
             saved := modIf x.saved (fun g => g.uid == uid) f })

/-! ## Issue (R56, R58) -/

/-- R52: the instruction cache: 64 sets of four lines, least recently used out. -/
def Tile.iHit (x : Tile) (line : Nat) : Bool := (tabGet x.icache [] (line % 64)).elem line
def Tile.iFill (x : Tile) (line : Nat) : Tile :=
  { x with icache := tabSet x.icache [] (line % 64) ((line :: (tabGet x.icache [] (line % 64)).filter (fun l => l != line)).take 4) }

/-- A group that may issue: in its slot, not stopped, not waiting. -/
def State.ready (s : State) (tile slot : Nat) : Option (Group × Path) :=
  if !s.running then none else
  match s.group tile slot with
  | none => none
  | some g =>
    if g.stopped || decide (g.hold ≠ .none) then none
    else
      let g := g.atTurn
      g.cur.map (fun p => (g, p))

/-- The first wet tick from `due` on in which the tile can issue: one instruction a tick (R52). The next instruction
issues in a later tick, and the search for it starts after this slot (R57). -/
def State.issueFrom (s : State) (tile slot due : Nat) : State :=
  let s := s.waitWet (max due (s.tile tile).issueAt)
  s.modTile tile (fun x => { x with lastSlot := slot, issueAt := s.wet.toNat + 1 })

/-- THE ISSUE of an instruction (R56): the group ready, its line in the instruction cache (else the group
waits for it), its sources final, and its unit or port accepting it (`ok`): then `f`, in the first wet tick that allows
it. A group that cannot issue leaves the state as it is. -/
def State.issueIf (s : State) (tile slot : Nat) (keys : List Nat) (ok : State → Group → Path → Bool)
    (f : State → Group → Path → State) : State :=
  match s.ready tile slot with
  | none => s
  | some (g, p) =>
    let line := p.pc.toNat / 128
    if !(s.tile tile).iHit line then s.putGroup tile slot { g with hold := .icache line, since := s.hal.ms }
    else
      let due := g.readyAll keys
      if never ≤ due then s
      else
        let u := s.issueFrom tile slot due
        if ok u g p then f u g p else s

/-- The issue of an instruction whose unit accepts one in every tick. -/
def State.issue (s : State) (tile slot : Nat) (keys : List Nat) (f : State → Group → Path → State) : State :=
  s.issueIf tile slot keys (fun _ _ _ => true) f

/-- INSTRUCTION_CACHE_FILL (R56): the line arrives and the groups waiting on it become ready. -/
def execInstructionCacheFill (tile line : Nat) (s : State) : Host.Outcome State Fault Refusal :=
  if !s.running then .next s else
  .next (s.modTile tile (fun x =>
    { x.iFill line with groups := x.groups.map (fun e => (e.1, e.2.map (fun g =>
        if g.hold = .icache line then { g with hold := .none } else g))) }))

/-- R81: the wet tick from which the row engine's results in an operand range can be used. -/
def Tile.outReady (x : Tile) (lo hi : Nat) : Nat :=
  x.rowOut.foldl (fun m e => if lo < e.2.1 ∧ e.1 < hi then max m e.2.2 else m) 0

/-! ## Precise faults (R92) -/

/-- A precise fault at an instruction: no effect in any lane; the group, its kernel and its context stop. -/
def State.preciseAt (s : State) (tile slot : Nat) (g : Group) (p : Path) (code : Code) (detail address : Nat) : State :=
  s.takeFault g.ctx none { faultOf code detail with
    tile := tile, slot := slot, where' := p.pc, lanes := p.mask, address := BitVec.ofNat 64 address
    queue := match s.kernels.find? (fun k => k.id == g.kern) with
      | some k => k.queue
      | none => 0xF }

def State.illegal (s : State) (tile slot : Nat) (g : Group) (p : Path) : State :=
  s.preciseAt tile slot g p .illegalInstruction 0 0

/-! ## The end of groups and blocks -/

/-- R78: a kernel that ends empties the read-only caches of its tiles. -/
def State.emptyRo (s : State) (tile : Nat) : State := s.modTile tile (fun x => { x with ro := [], roMiss := [] })

def State.modKernel (s : State) (k : Nat) (f : Kernel → Kernel) : State :=
  { s with kernels := modIf s.kernels (fun x => x.id == k) f }

/-- A block whose last group has exited leaves its tile. -/
def State.endBlock (s : State) (tile : Nat) (b : Block) : State :=
  let s := s.modTile tile (fun x => { x with blocks := x.blocks.filter (fun y => !(y.kern == b.kern && y.index == b.index)) })
  let s := s.modKernel b.kern (fun k => { k with ended := k.ended + 1 })
  match s.kernels.find? (fun k => k.id == b.kern) with
  | some k => if k.ended = k.blocks then k.place.dedup.foldl State.emptyRo s else s
  | none => s

/-- R104: a group that exits releases the array. -/
def MArray.release (x : MArray) (uid : Nat) : MArray :=
  if x.holder = some uid then { x with holder := none, loaded := false } else x

/-- A group whose last thread has exited leaves its slot. -/
def State.endGroup (s : State) (tile slot : Nat) (g : Group) : State :=
  let s := (s.noGroup tile slot).modTile tile (fun x => { x with array := x.array.release g.uid })
  match s.blockOf tile g with
  | none => s
  | some b =>
    if b.groups ≤ 1 then s.endBlock tile b
    else s.modTile tile (fun x => { x with
      blocks := modIf x.blocks (fun y => y.kern == b.kern && y.index == b.index) (fun y => { y with groups := y.groups - 1 }) })

/-- The group after an instruction: settled (R62), or at its end when no thread is left. -/
def State.finish (s : State) (tile slot : Nat) (g : Group) : State :=
  if g.paths = [] then s.endGroup tile slot g else s.putGroup tile slot g.settle

end Sys2Proof.Machine
end

