-- ==== Sys2Proof/Machine/Thread.lean ====
section
/-! DEFINITION. Classes 0x0 to 0x3 and 0xC of the thread plane (R60 to R65, R134 to R137, R144, R173). -/

namespace Sys2Proof.Machine

/-- Lane by lane, a change of the group in the active lanes. -/
def Group.eachLane (g : Group) (m : Word32) (f : Group → Nat → Group) : Group := (lanesOf m).foldl f g

/-- A register result is ready `n` wet ticks after issue. -/
def State.due (s : State) (n : Nat) : Nat := s.wet.toNat + n

/-! ## Class 0x0 -/

/-- An operation that reads SRCA and SRCB as scalar registers, its predicate with them. -/
def scalarKeys (w : Word64) : List Nat := [keyS (wA w), keyS (wB w), keyP (wPred w)]
def scalarPair (w : Word64) : Bool := scalarField (wA w) && scalarField (wB w)

/-- The registers a class 0x0 operation reads: a branch, call or exit only its predicate, a return the address. -/
def ctlKeys (op : ScalarOp) (w : Word64) : List Nat :=
  match op with
  | .branch | .call | .exit => [keyP (wPred w)]
  | .ret => [keyS (wA w), keyP (wPred w)]
  | _ => scalarKeys w

/-- A legal class 0x0 word: a branch and a call have an offset, OP 0xFF is the immediate load's. -/
def ctlLegal (op : ScalarOp) (w : Word64) : Bool :=
  decide (wOp w ≠ 0xFF) && (match op with
  | .branch | .call => plainWord 0 (2 ^ 18) w
  | .exit => plainWord 0 0 w
  | .ret => plainWord 0 0 w && scalarField (wA w)
  | _ => plainWord 0 0 w && scalarPair w)

/-- A taken branch's address: the instruction's own plus IMM bytes (assumption 22). -/
def branchTo (p : Path) (w : Word64) : Word64 := p.pc + BitVec.ofInt 64 (wImmS w)

/-- R60: the lanes that jump and those that go on; a divergent branch splits the path. The half with the old path's lowest
lane keeps the turn (DESIGN CHOICE, assumption 128: R61 does not say which half does). -/
def Group.jump (g : Group) (p : Path) (taken : Word32) (target : Word64) : Group :=
  { g.replace p [{ p with pc := target, mask := p.mask &&& taken },
                 { p with pc := p.pc + 8, mask := p.mask &&& ~~~taken }] with
    issued := g.issued + 1, turn := g.turn }

/-- The value a scalar operation writes. -/
def scalarValue (op : ScalarOp) (a b : Word64) : Word64 :=
  match op with
  | .add => a + b
  | .sub => a - b
  | .mul => a * b
  | .cmpEq => BitVec.ofNat 64 (ofBool (a == b))
  | .cmpNe => BitVec.ofNat 64 (ofBool (a != b))
  | .cmpLtS => BitVec.ofNat 64 (ofBool (decide (a.toInt < b.toInt)))
  | .cmpLtU => BitVec.ofNat 64 (ofBool (decide (a.toNat < b.toNat)))
  | _ => 0

/-- SCALAR_CONTROL_INSTRUCTION (R64, R60): arithmetic and compares write s(DST) when a lane is active; a
branch, call, return or exit acts in the active lanes. -/
def execScalarControl (tile slot : Nat) (op : ScalarOp) (word : Word64) (s : State) : Host.Outcome State Fault Refusal :=
  .next (s.issue tile slot (ctlKeys op word) (fun s g p =>
    if !ctlLegal op word then s.illegal tile slot g p else
    let m := g.active p word
    match op with
    | .branch => s.finish tile slot (g.jump p m (branchTo p word))
    | .call =>
      let g := if m = 0 then g else (g.setSreg (wDst word) (p.pc + 8)).readyOn (keyS (wDst word)) 0
      s.finish tile slot (g.jump p m (branchTo p word))
    | .ret => s.finish tile slot (g.jump p m (g.sreg (wA word)))
    | .exit =>
      let q : Path := { p with pc := p.pc + 8, mask := p.mask &&& ~~~m }
      s.finish tile slot { g.replace p [q] with issued := g.issued + 1, turn := if q.mask = 0 then g.turn else q.low }
    | op =>
      let v := scalarValue op (g.sreg (wA word)) (g.sreg (wB word))
      let g := if m = 0 then g else (g.setSreg (wDst word) v).readyOn (keyS (wDst word)) 0
      s.finish tile slot (g.step p 8)))

/-- IMMEDIATE_LOAD (R63): the second word into s(DST). -/
def execImmediateLoad (tile slot : Nat) (word imm : Word64) (s : State) : Host.Outcome State Fault Refusal :=
  .next (s.issue tile slot [keyP (wPred word)] (fun s g p =>
    if !plainWord 0 0 word ∨ wOp word ≠ 0xFF then s.illegal tile slot g p else
    let g' := if g.active p word = 0 then g else (g.setSreg (wDst word) imm).readyOn (keyS (wDst word)) 0
    s.finish tile slot (g'.step p 16)))

/-- RECONVERGE (R62): the path parks, which ends its turn (R61); when every live path is parked the reconverge paths are released. -/
def execReconverge (tile slot : Nat) (word : Word64) (s : State) : Host.Outcome State Fault Refusal :=
  .next (s.issue tile slot [] (fun s g p =>
    if !plainWord 0 0 word ∨ wOp word = 0xFF then s.illegal tile slot g p else
    s.finish tile slot (g.parkAt p .reconverge s.hal.ms).endTurn))

/-! ## Class 0x1 -/

/-- The vector registers an operation of one, two or three sources reads, and its predicate. -/
def oneKey (w : Word64) : List Nat := [keyV (wA w), keyP (wPred w)]
def vecKeys (w : Word64) : List Nat := [keyV (wA w), keyV (wB w), keyP (wPred w)]
def fmaKeys (w : Word64) : List Nat := keyV (wC w) :: vecKeys w

/-- A vector result written in the active lanes. -/
def Group.writeLanes (g : Group) (m : Word32) (dst : Nat) (f : Nat → Word32) : Group :=
  g.eachLane m (fun h l => h.setVreg dst l (f l))

/-- A compare's result written to a predicate in the active lanes. -/
def Group.writePred (g : Group) (m : Word32) (dst : Nat) (f : Nat → Bool) : Group :=
  g.eachLane m (fun h l => h.setPreg dst l (f l))

/-- A vector result: latency 4 (R52). -/
def State.vecDone (s : State) (tile slot : Nat) (g : Group) (p : Path) (m : Word32) (dst : Nat) (f : Nat → Word32) : State :=
  s.finish tile slot (((g.writeLanes m dst f).readyOn (keyV dst) (s.due 4)).step p 8)

/-- A predicate result; p7 ignores it and is always ready (R52). -/
def State.predDone (s : State) (tile slot : Nat) (g : Group) (p : Path) (m : Word32) (dst : Nat) (f : Nat → Bool) : State :=
  let g := if dst % 8 = 7 then g else (g.writePred m dst f).readyOn (keyP dst) (s.due 4)
  s.finish tile slot (g.step p 8)

/-- A shift: by 32 or more the result is a free value. -/
def shiftLane (n : Nat) (f : Word32 → Nat → Word32) (a b : Word32) : Word32 :=
  if b.toNat < 32 then f a b.toNat else Config.overShift n a b

/-- The lane value of an integer operation. -/
def intValue (op : IntOp) (a b : Word32) : Word32 :=
  match op with
  | .add => a + b
  | .sub => a - b
  | .mul => a * b
  | .shl => shiftLane 0 (fun a n => a <<< n) a b
  | .shrU => shiftLane 1 (fun a n => a >>> n) a b
  | .shrS => shiftLane 2 (fun a n => a.sshiftRight n) a b
  | .and => a &&& b
  | .or => a ||| b
  | .xor => a ^^^ b
  | _ => 0

/-- VECTOR_INTEGER_INSTRUCTION (R64): 32-bit lanes; compares write p(DST); a shuffle reads the lane that
v(SRCB) names. -/
def execVectorInteger (tile slot : Nat) (op : IntOp) (word : Word64) (s : State) : Host.Outcome State Fault Refusal :=
  .next (s.issue tile slot (vecKeys word) (fun s g p =>
    if !plainWord 1 0 word ∨ wOp word = 0x3C then s.illegal tile slot g p else
    let m := g.active p word
    let a := fun l => g.vreg (wA word) l
    let b := fun l => g.vreg (wB word) l
    match op with
    | .cmpEq => s.predDone tile slot g p m (wDst word) (fun l => a l == b l)
    | .cmpNe => s.predDone tile slot g p m (wDst word) (fun l => a l != b l)
    | .cmpLtS => s.predDone tile slot g p m (wDst word) (fun l => decide ((a l).toInt < (b l).toInt))
    | .cmpLtU => s.predDone tile slot g p m (wDst word) (fun l => decide ((a l).toNat < (b l).toNat))
    | .shuffle => s.vecDone tile slot g p m (wDst word) (fun l => a ((b l).toNat % 32))
    | op => s.vecDone tile slot g p m (wDst word) (fun l => intValue op (a l) (b l))))

/-- RDRAW (R173): lane k draws the value of index e₀ + k × IMM of the key; a stride of 0 is illegal. -/
def execRdraw (tile slot : Nat) (word : Word64) (s : State) : Host.Outcome State Fault Refusal :=
  .next (s.issue tile slot (scalarKeys word) (fun s g p =>
    if !plainWord 1 (2 ^ 17 - 1) word ∨ wOp word ≠ 0x3C ∨ !scalarPair word ∨ wImm word = 0 then s.illegal tile slot g p else
    let key := g.sreg (wA word)
    let e0 := (g.sreg (wB word)).toNat
    let f := fun l => BitVec.ofNat 32 (rngValue key ((e0 + l * wImm word) % 2 ^ 64))
    let g := ((g.writeLanes (g.active p word) (wDst word) f).readyOn (keyV (wDst word)) (s.due 6)).step p 8
    s.finish tile slot g))

/-! ## Class 0x2 (R134) -/

/-- VECTOR_BINARY32_INSTRUCTION (R134). -/
def execVectorBinary32 (tile slot : Nat) (op : F32Op) (word : Word64) (s : State) : Host.Outcome State Fault Refusal :=
  .next (s.issue tile slot (if op = .fma then fmaKeys word else vecKeys word) (fun s g p =>
    if !plainWord 2 0 word then s.illegal tile slot g p else
    let m := g.active p word
    let a := fun l => g.vreg (wA word) l
    let b := fun l => g.vreg (wB word) l
    let v := fun f => s.vecDone tile slot g p m (wDst word) f
    let c := fun f => s.predDone tile slot g p m (wDst word) f
    match op with
    | .fma => v (fun l => f32Fma (a l) (b l) (g.vreg (wC word) l))
    | .add => v (fun l => f32Add (a l) (b l))
    | .mul => v (fun l => f32Mul (a l) (b l))
    | .min => v (fun l => f32Min (a l) (b l))
    | .max => v (fun l => f32Max (a l) (b l))
    | .cmpEq => c (fun l => f32Eq (a l) (b l))
    | .cmpNe => c (fun l => f32Ne (a l) (b l))
    | .cmpLt => c (fun l => f32Lt (a l) (b l))
    | .cmpLe => c (fun l => f32Le (a l) (b l))
    | .cmpGt => c (fun l => f32Lt (b l) (a l))
    | .cmpGe => c (fun l => f32Le (b l) (a l))))

/-! ## Class 0x3 (R135 to R137, R144) -/

/-- R136: the narrowing conversions of the table. -/
def narrowing (src dst : Fmt) : Bool :=
  match dst, src with
  | .binary32, .int32 | .binary16, .binary32 | .int32, .binary32 => true
  | .zf16g, .binary32 | .zf16g, .binary16 => true
  | .zf8g, .binary32 | .zf8g, .binary16 | .zf8g, .zf16g => true
  | .zf8a, .binary32 | .zf8a, .binary16 | .zf8a, .zf16g => true
  | .int8, .binary32 | .int8, .int32 | .uint8, .binary32 | .uint8, .int32 | .int4, .binary32 | .int4, .int32 => true
  | _, _ => false

/-- R135: the widening conversions: every value of the source is a value of the target (a block element's, with its scale,
one of binary32). -/
def widening (src dst : Fmt) : Bool :=
  match dst with
  | .binary32 => src != .binary32 && src != .int32
  | .int32 => [Fmt.int8, .uint8, .int4, .bit1].elem src
  | .binary16 | .zf16g => [Fmt.zf8a, .zf8g, .int8, .uint8, .int4, .bit1].elem src
  | .zf8a | .zf8g | .int8 => [Fmt.int4, .bit1].elem src
  | .uint8 | .int4 => src == .bit1
  | _ => false

def convertible (src dst : Fmt) : Bool := narrowing src dst || widening src dst

/-- R150, R350: the job seed and step a group's kernel runs with. -/
def State.seedOf (s : State) (g : Group) : Word64 × Word64 :=
  match s.kernels.find? (fun k => k.id == g.kern) with
  | some k => (k.seed, k.step)
  | none => ((s.ctx g.ctx).jobSeed, (s.ctx g.ctx).step)

/-- R151: the value a lane's stochastic conversion draws: s(SRCC) holds stream and index. -/
def State.laneDraw (s : State) (g : Group) (tile lane : Nat) (c : Word64) : Nat :=
  let x := s.seedOf g
  rngValue (deriveKey x.1 x.2 (bvFld c 0 32) tile 1 lane) (bvFld c 32 32)

/-- A code of `n` bits as register contents: the bits above it are not stated (assumption 21). -/
def narrowReg (n code : Nat) : Word32 :=
  if n = 32 then BitVec.ofNat 32 code
  else
    let h := Config.narrowHigh n (BitVec.ofNat 32 code)
    BitVec.ofNat 32 (code % 2 ^ n + h.toNat / 2 ^ n * 2 ^ n)

/-- R135, R136: one lane's conversion; the source code lies in the register's low bits. -/
def convertLane (src dst : Fmt) (rnd : Rnd) (x : Word32) (scale : Nat) : Word32 :=
  let code := x.toNat % 2 ^ fmtBits src
  narrowReg (fmtBits dst) (fmtNarrow dst rnd (fmtValue src scale code))

/-- The registers a conversion reads: SRCA, the block scale in SRCB, the stream and index of a stochastic one in SRCC. -/
def convKeys (scaled sr : Bool) (w : Word64) : List Nat :=
  (if sr then [keyS (wC w)] else []) ++ (if scaled then vecKeys w else oneKey w)

/-- A legal class 0x3 word. -/
def convLegal (sr : Bool) (w : Word64) : Bool := plainWord 3 0 w && (!sr || scalarField (wC w))

/-- CONVERSION_INSTRUCTION (R130, R135, R136, R151). A ZF4, ZB8-M or ZB8-V source takes its block's scale from v(SRCB). -/
def execConversion (tile slot : Nat) (src dst : Fmt) (sr : Bool) (word : Word64) (s : State) : Host.Outcome State Fault Refusal :=
  .next (s.issue tile slot (convKeys (fmtScaled src) sr word) (fun s g p =>
    if !convLegal sr word ∨ !convertible src dst then s.illegal tile slot g p else
    s.vecDone tile slot g p (g.active p word) (wDst word) (fun l =>
      let rnd := if sr then Rnd.sr (s.laneDraw g tile l (g.sreg (wC word))) else Rnd.rne
      convertLane src dst rnd (g.vreg (wA word) l) ((g.vreg (wB word) l).toNat % 256))))

/-- R144: hi and lo as ZF16g codes. -/
def splitHi (x : Word32) : Nat :=
  match f32Val x with
  | .fin neg m e =>
    let h := zf16g.round .rne (.fin neg m e)
    if (zf16g.value h).isInf then zf16g.signBit neg + zf16g.maxCode else h
  | v => zf16g.round .rne v

def splitLo (x : Word32) : Nat :=
  match f32Val x with
  | .fin .. => zf16g.round .rne (f32Val (f32Sub x (f32Of (zf16g.value (splitHi x)))))
  | _ => 0

/-- SPLIT_CONVERSION (R144): hi into v(DST), lo into v(DST + 1) (assumption 23). -/
def execSplitConversion (tile slot : Nat) (word : Word64) (s : State) : Host.Outcome State Fault Refusal :=
  .next (s.issue tile slot (oneKey word) (fun s g p =>
    if !plainWord 3 0 word then s.illegal tile slot g p else
    let m := g.active p word
    let d := (wDst word + 1) % 128
    let lo := (g.writeLanes m (wDst word) (fun l => narrowReg 16 (splitHi (g.vreg (wA word) l)))).writeLanes m d
      (fun l => narrowReg 16 (splitLo (g.vreg (wA word) l)))
    s.finish tile slot (((lo.readyOn (keyV (wDst word)) (s.due 4)).readyOn (keyV d) (s.due 4)).step p 8)))

/-- R137: the scale of a block of 32 values with greatest magnitude m · 2^e. -/
def blockScale (k : BlockFmt) (m : FP) : Nat :=
  match m with
  | .fin _ n e =>
    if n = 0 then 0
    else
      let c : Int := match k with
        | .zf4 => -2
        | .zb8m => -6
        | .zb8v => 0
      (max 0 (min 254 ((Nat.log2 n : Int) + e + c + 127))).toNat
  | _ => 0xFF

/-- R137 step 4, 5: one element. -/
def blockElem (k : BlockFmt) (rnd : Rnd) (scale : Nat) (v : FP) : Nat :=
  let y := v.scale (127 - (scale : Int))
  match k with
  | .zf4 =>
    let c := zf4e.round rnd y
    c % 16
  | .zb8m => unsigned 8 (y.toIntSat rnd (-127) 127)
  | .zb8v => if y.neg then 0 else (e4m4.round rnd y) % 256

/-- The greatest magnitude of a list, NaN and infinity winning. -/
def maxAbs (l : List FP) : FP :=
  l.foldl (fun a v =>
    if a.isNan || a.isInf then a else if v.isNan || v.isInf then v.abs else if a.lt v.abs then v.abs else a) (.fin false 0 0)

/-- BLOCK_CONVERSION (R137, R151): lane k's element into v(DST), the scale into v(DST + 1) of every lane;
lanes that do not take part supply +0.0. -/
def execBlockConversion (tile slot : Nat) (dst : BlockFmt) (sr : Bool) (word : Word64) (s : State) : Host.Outcome State Fault Refusal :=
  .next (s.issue tile slot (convKeys false sr word) (fun s g p =>
    if !convLegal sr word then s.illegal tile slot g p else
    let m := g.active p word
    let val := fun l => if m.getLsbD l then
        f32Val (g.vreg (wA word) l) else FP.fin false 0 0
    let top := maxAbs ((List.range 32).map val)
    let sc := blockScale dst top
    let rnd := fun l => if sr then Rnd.sr (s.laneDraw g tile l (g.sreg (wC word))) else Rnd.rne
    let elem := fun l => if sc = 0xFF ∨ top.isZero then 0 else blockElem dst (rnd l) sc (val l)
    let d := (wDst word + 1) % 128
    let bits := if dst = .zf4 then 4 else 8
    let h := (g.writeLanes m (wDst word) (fun l => narrowReg bits (elem l))).writeLanes m d (fun _ => BitVec.ofNat 32 sc)
    s.finish tile slot (((h.readyOn (keyV (wDst word)) (s.due 4)).readyOn (keyV d) (s.due 4)).step p 8)))

/-! ## Class 0xC and the reserved classes (R64, R65) -/

/-- R65: the context is a self-test, manufacturing-test or recovery one. -/
def State.privileged (s : State) (g : Group) : Bool := decide ((s.ctx g.ctx).kind ≠ 0)

/-- SYSTEM_INSTRUCTION (R65, R120): PRIVILEGED_INSTRUCTION outside the privileged kinds. -/
def execSystemInstruction (tile slot : Nat) (op : SysOp) (word : Word64) (s : State) : Host.Outcome State Fault Refusal :=
  .next (s.issue tile slot [] (fun s g p =>
    if !s.privileged g then s.preciseAt tile slot g p .privilegedInstruction 0 0
    else if !plainWord 0xC 0 word then s.illegal tile slot g p
    else
      let on := match op with
        | .enableDiagonal => true
        | .disableDiagonal => false
      (s.modTile tile (fun x => { x with array := { x.array with diag := on } })).finish tile slot (g.step p 8)))

/-- RESERVED_CLASS_INSTRUCTION (R64): a class or an opcode that the table does not define: ILLEGAL_INSTRUCTION. -/
def execReservedClassInstruction (tile slot : Nat) (_word : Word64) (s : State) : Host.Outcome State Fault Refusal :=
  .next (s.issue tile slot [] (fun s g p => s.illegal tile slot g p))

end Sys2Proof.Machine
end

