-- ==== Sys2Proof/Machine/MatrixCalc.lean ====
section
/-! DEFINITION. The arithmetic of the matrix array: grids and layouts (R94, R97, R101 to R103), terms and column
combines (R117, R118), the Zynsal dot product (R138 to R143), split pairs (R145 to R148), drains (R123). -/

namespace Sys2Proof.Machine

/-! ## Grids and widths (R94, R97, R510) -/

/-- Stage rows and columns of a format's grid. -/
def gridOf (fmt : Nat) : Nat × Nat :=
  match fmt with
  | 4 | 5 => (32, 32)
  | 6 | 7 => (64, 256)
  | _ => (64, 64)

/-- R94: the stage grids: 0 8-bit, 1 1-bit, 2 16-bit, 3 4-bit. -/
def gridKind (fmt : Nat) : Nat :=
  match fmt with
  | 4 | 5 => 2
  | 6 | 7 => 3
  | 8 => 1
  | _ => 0

/-- Words per basin row under a block's mode and format. -/
def basinWidth (mode fmt : Nat) : Nat := if mode = 7 then 64 else (gridOf fmt).2

/-- R117: the basin type is int32. -/
def intBasin (mode fmt : Nat) : Bool := mode == 5 || mode == 6 || fmt == 0 || fmt == 1 || fmt == 7

/-- R117: the initial value of a mode. -/
def initWord (mode fmt : Nat) : Word32 :=
  match mode with
  | 3 => if intBasin mode fmt then 0x7FFFFFFF else 0x7F800000
  | 4 => if intBasin mode fmt then 0x80000000 else 0xFF800000
  | _ => 0

def basinWords : Nat := 65536

/-! ## Layouts (R101, R103) -/

/-- R101: the address of element (r, c) of a diagonal-layout tile. -/
def diagAddr (wide : Bool) (t r c : Nat) : Nat :=
  let a := r / 2
  if wide then t + 128 * a + 4 * ((a + c) % 32) + 2 * (r % 2)
  else t + 128 * a + 4 * ((a + c / 2) % 32) + 2 * (r % 2) + c % 2

def wideFmt (fmt : Nat) : Bool := fmt == 4 || fmt == 5
def kvecFmt (fmt : Nat) : Bool := fmt == 6 || fmt == 7

/-- R103: the pitch of a K-vector. -/
def kPitch (fmt : Nat) : Nat := if fmt = 6 then 36 else 32

/-- The side and the size of a stored tile (R101). -/
def tileSide (wide : Bool) : Nat := if wide then 32 else 64
def tileSize (wide : Bool) : Nat := if wide then 2048 else 4096

def scratchNum (sc : Tab Byte) (a n : Nat) : Nat := leNat (tabRange sc 0 a n)

/-- The code of element (r, c) of a stored tile. -/
def tileCode (sc : Tab Byte) (fmt t r c : Nat) : Nat :=
  if wideFmt fmt then scratchNum sc (diagAddr true t r c) 2 else scratchNum sc (diagAddr false t r c) 1

/-- R103: element k of a K-vector, and the scale of its half. -/
def kvecCode (sc : Tab Byte) (base k : Nat) : Nat := fld (scratchNum sc (base + k / 2) 1) (4 * (k % 2)) 4
def kvecScale (sc : Tab Byte) (base half : Nat) : Nat := scratchNum sc (base + 32 + half) 1

/-- R109: element i of streaming row m, and the scale of its half. -/
def streamCode (sc : Tab Byte) (fmt base m i : Nat) (trans : Bool) : Nat :=
  if kvecFmt fmt then kvecCode sc (base + m * kPitch fmt) i
  else
    let side := tileSide (wideFmt fmt)
    let t := base + m / side * tileSize (wideFmt fmt)
    if trans then tileCode sc fmt t i (m % side) else tileCode sc fmt t (m % side) i

def streamScale (sc : Tab Byte) (fmt base m half : Nat) : Nat :=
  if fmt = 6 then kvecScale sc (base + m * kPitch fmt) half else 0

/-- R95, R107: column j of a stationary block as scratch holds it: its codes by 256·i + j, ZF4 scales by 2·j + half. -/
def columnCodes (sc : Tab Byte) (fmt base : Nat) (trans : Bool) (j : Nat) : List (Nat × Nat) :=
  (List.range (gridOf fmt).1).map (fun i =>
    (256 * i + j,
      if kvecFmt fmt then kvecCode sc (base + j * kPitch fmt) i
      else if trans then tileCode sc fmt base j i else tileCode sc fmt base i j))

def columnScales (sc : Tab Byte) (fmt base j : Nat) : List (Nat × Nat) :=
  if fmt = 6 then [(2 * j, kvecScale sc (base + j * 36) 0), (2 * j + 1, kvecScale sc (base + j * 36) 1)] else []

/-- Entries written to a table. -/
def tabFill (t : Tab Nat) (es : List (Nat × Nat)) : Tab Nat := es.foldl (fun t e => tabSet t 0 e.1 e.2) t

/-! ## Terms (R117, R118) -/

def codeValue (fmt scale code : Nat) : FP := fmtValue ((fmtOfCode fmt).getD .zf8a) scale code

/-- R118: binary16 sums and differences are rounded once to binary32. -/
def onceRounded (fmt : Nat) (v : FP) : FP := if fmt = 4 then f32.value (f32.round .rne v) else v

/-- The term of a stage: streaming a, stationary b. -/
def termOf (mode fmt : Nat) (a b : FP) : FP :=
  let diff := onceRounded fmt (a.add b.negate)
  match mode with
  | 1 => diff.abs
  | 2 => diff.mul diff
  | 3 | 4 => onceRounded fmt (a.add b)
  | 6 => FP.ofInt (ofBool (b.lt a))
  | _ => a.mul b

def popcount8 (x : Nat) : Nat := (List.range 8).foldl (fun n i => n + ofBool (x.testBit i)) 0

/-- The integer value of a finite term. -/
def FP.toInt : FP → Int
  | .fin neg m e => signedMant neg (scaleTo m e 0).1
  | _ => 0

/-! ## Column combine (R138 to R142, R145) -/

/-- The exponent floor(log2 |p|) of a non-zero term. -/
def FP.lg : FP → Option Int
  | .fin _ m e => if m = 0 then none else some ((Nat.log2 m : Int) + e)
  | _ => none

def maxLg (ps : List FP) : Option Int :=
  ps.foldl (fun a p => match a, p.lg with
    | some x, some y => some (max x y)
    | none, y => y
    | x, none => x) none

/-- R139: what settles a group before any summing. -/
def groupSpecial (ps : List FP) : Option Word32 :=
  if ps.any FP.isNan then some f32Nan
  else if ps.any (fun p => p == .inf false) then (if ps.any (fun p => p == .inf true) then some f32Nan else some 0x7F800000)
  else if ps.any (fun p => p == .inf true) then some 0xFF800000
  else none

/-- R140 steps 2 and 3: the truncated sum in units of 2^u, and the sticky bit. -/
def windowSum (ps : List FP) (u : Int) : Int × Bool :=
  ps.foldl (fun acc p => match p with
    | .fin neg m e =>
      let t := scaleTo m e u
      (acc.1 + signedMant neg t.1, acc.2 || decide (t.2.1 ≠ 0))
    | _ => acc) (0, false)

/-- R142: a zero result with no non-zero term. -/
def groupZero (ps : List FP) : Word32 := if ps.all FP.neg then 0x80000000 else 0

/-- R139 to R142: one group of 32 terms. -/
def groupSum (ps : List FP) (scaleExp : Int) : Word32 :=
  match groupSpecial ps with
  | some w => w
  | none =>
    match maxLg ps with
    | none => groupZero ps
    | some e =>
      let w := windowSum ps (e - 26)
      let r : Word32 := BitVec.ofNat 32 (f32.round (.sticky w.2) (.fin (decide (w.1 < 0)) w.1.natAbs (e - 26 + scaleExp)))
      if w.1 = 0 ∨ r &&& 0x7FFFFFFF = 0 then 0 else r

def f32Finite (w : Word32) : Bool := !(f32Val w).isNan && !(f32Val w).isInf

/-- R145: one group of a split-pair pass. -/
def groupPair (ps : List FP) (scaleExp : Int) : Word32 × Word32 :=
  match groupSpecial ps with
  | some w => (w, 0)
  | none =>
    match maxLg ps with
    | none => (groupZero ps, 0)
    | some e =>
      let w := windowSum ps (e - 45)
      if w.1 = 0 then (0, 0)
      else
        let v : FP := .fin (decide (w.1 < 0)) w.1.natAbs (e - 45 + scaleExp)
        let hi := f32Of v
        if f32Finite hi then (hi, f32Of (v.add (f32Val hi).negate)) else (hi, 0)

/-- R146: a pair added to an accumulator pair. -/
def pairAdd (a g : Word32 × Word32) : Word32 × Word32 :=
  let s := f32Add a.1 g.1
  if !f32Finite a.1 || !f32Finite g.1 || !f32Finite s then (s, 0)
  else
    let v := f32Sub s a.1
    let e := f32Add (f32Sub a.1 (f32Sub s v)) (f32Sub g.1 v)
    let e := f32Add e (f32Add a.2 g.2)
    let hi := f32Add s e
    (hi, f32Sub e (f32Sub hi s))

/-- R98, R143: a result combined with the word it accumulates into. -/
def combine (mode : Nat) (int : Bool) (old new : Word32) : Word32 :=
  match mode, int with
  | 3, true => if new.toInt < old.toInt then new else old
  | 4, true => if old.toInt < new.toInt then new else old
  | _, true => old + new
  | 3, false => f32Min old new
  | 4, false => f32Max old new
  | _, false => f32Add old new

/-- The first result placed where `place`, the others combined in order (R143). -/
def accumulate (mode : Nat) (int place : Bool) (old : Word32) (rs : List Word32) : Word32 :=
  match rs with
  | [] => old
  | r :: rest => rest.foldl (combine mode int) (if place then r else combine mode int old r)

/-- The results of one column, in ascending group order (R96). -/
def columnResults (mode : Nat) (int : Bool) (scaleExp : Int) (ts : List FP) : List Word32 :=
  if int then
    match mode with
    | 3 => [BitVec.ofInt 32 (ts.foldl (fun a t => min a t.toInt) 2147483647)]
    | 4 => [BitVec.ofInt 32 (ts.foldl (fun a t => max a t.toInt) (-2147483648))]
    | _ => [BitVec.ofInt 32 (ts.foldl (fun a t => a + t.toInt) 0)]
  else
    match mode with
    | 3 => [ts.foldl (fun a t => f32Min a (f32Of t)) 0x7F800000]
    | 4 => [ts.foldl (fun a t => f32Max a (f32Of t)) 0xFF800000]
    | _ => if ts.length ≤ 32 then [groupSum ts scaleExp] else [groupSum (ts.take 32) scaleExp, groupSum (ts.drop 32) scaleExp]

/-! ## A pass (R95 to R98, R143) -/

/-- The terms of output column j of a streaming row; an exited lane's row gives +0.0 in the sums of R139, and streams
zeros elsewhere. -/
def passTerms (b : Front) (p : Pass) (r : RowIn) (j : Nat) : List FP :=
  (List.range p.kst).map (fun i =>
    let code := tabGet b.codes 0 (256 * i + j)
    let stat := codeValue b.fmt (tabGet b.scales 0 (2 * j + i / 32)) code
    if b.mode = 5 then FP.ofInt (popcount8 ((if r.live then r.codes.getD i 0 else 0) ^^^ code))
    else if r.live then termOf b.mode p.fmt (codeValue p.fmt (r.scales.getD (i / 32) 0) (r.codes.getD i 0)) stat
    else if !intBasin b.mode b.fmt && (b.mode == 0 || b.mode == 1 || b.mode == 2 || b.mode == 7) then .fin false 0 0
    else termOf b.mode p.fmt (.fin false 0 0) stat)

/-- The words of output column j after a pass's update: one, or a split pair (R146). -/
def passCell (b : Front) (p : Pass) (r : RowIn) (j : Nat) (old : List Word32) : List Word32 :=
  if b.mode = 7 then
    let g := groupPair (passTerms b p r j) p.scaleExp
    let v := if p.acc then pairAdd (old.getD 0 0, old.getD 1 0) g else g
    [v.1, v.2]
  else
    [accumulate b.mode (intBasin b.mode b.fmt) (!p.acc) (old.getD 0 0)
      (columnResults b.mode (intBasin b.mode b.fmt) p.scaleExp (passTerms b p r j))]

/-! ## Drains (R123, R148) -/

/-- The bytes of one output value of OUT_FMT, none for a code that is no target. -/
def outBytes (fmt : Nat) : Option Nat :=
  match fmt with
  | 0 | 2 | 3 => some 1
  | 4 | 5 => some 2
  | 9 | 10 => some 4
  | _ => none

/-- R123: the targets of the words' type. -/
def drainTarget (int : Bool) (fmt : Nat) : Bool :=
  if int then fmt == 0 || fmt == 10 else fmt == 2 || fmt == 3 || fmt == 4 || fmt == 5 || fmt == 9

/-- The value of a drained output: a word, or a split pair (R148). -/
def drainValue (mode : Nat) (int : Bool) (row : List Word32) (j : Nat) : FP :=
  if mode = 7 then (f32Val (row.getD (2 * j) 0)).add (f32Val (row.getD (2 * j + 1) 0))
  else if int then FP.ofInt (row.getD j 0).toInt else f32Val (row.getD j 0)

/-- R123: where value (i, c) of a drain lies. -/
def drainAddr (base w e : Nat) (diagonal : Bool) (i c : Nat) : Nat :=
  if diagonal then
    let wide := e == 2
    let side := tileSide wide
    let t := max 1 (w / side)
    diagAddr wide (base + (i / side * t + c / side) * tileSize wide) (i % side) (c % side)
  else base + (i * w + c) * e

/-- The scratch bytes a drain covers from its base (R109). -/
def drainSpan (rows w e : Nat) (diagonal : Bool) : Nat :=
  if diagonal then
    let wide := e == 2
    ((rows + tileSide wide - 1) / tileSide wide) * max 1 (w / tileSide wide) * tileSize wide
  else rows * w * e

end Sys2Proof.Machine
end

