-- ==== Sys2Proof/Machine/Array.lean ====
section
/-! DEFINITION. The matrix array in time (R95, R96, R100, R111, R112, R120, R121, R123): fronts, passes, drains and
diagonal runs take their steps tick by tick. A tile's state is brought up to a tick when the tile's scratch or basin is next
read or written: `Tile.settled`. -/

namespace Sys2Proof.Machine

/-! ## Words (R106, R107) -/

def mLoad : Nat := 1
def mPass : Nat := 2
def mDrain : Nat := 3
def mZero : Nat := 4
def mDiag : Nat := 5
def mBread : Nat := 6
def mBwrite : Nat := 7
def mEnd : Nat := 15

/-- MLOAD's fields. -/
def mlFmt (w : Word64) : Nat := fld (wImm w) 0 4
def mlMode (w : Word64) : Nat := fld (wImm w) 4 3
def mlTrans (w : Word64) : Bool := bit (wImm w) 7
def mlCapture (w : Word64) : Bool := bit (wImm w) 8

/-- MPASS's fields; TRANS, ACC, CAPTURE are bits 4 to 6. -/
def mpTerm (w : Word64) : Nat := fld (wImm w) 7 2

/-- The fields of the SRCB scalar. -/
def rowCount (b : Word64) : Nat := bvFld b 0 16
def firstRow (b : Word64) : Nat := bvFld b 16 16
def expField (b : Word64) : Int := signed 8 (bvFld b 32 8)

/-- R86, R109: row m of an operand belongs to a lane that has not exited. -/
def rowLive (live : Word32) (m : Nat) : Bool := live.getLsbD (m % 64 / 2)

/-! ## Fronts and streaming rows (R95, R112, R121) -/

/-- The columns of `n` that port B has read at the end of wet tick `t`: column j in tick t₀ + j − 1. -/
def Front.columns (f : Front) (t : Nat) : Nat := min (gridOf f.fmt).2 (t + 2 - f.start)

/-- Port B reads the columns due by tick `t`. -/
def Front.readTo (f : Front) (sc : Tab Byte) (t : Nat) : Front :=
  let js := (List.range (f.columns t)).drop f.read
  { f with
    read := max f.read (f.columns t)
    codes := js.foldl (fun c j => tabFill c (columnCodes sc f.fmt f.base f.trans j)) f.codes
    scales := js.foldl (fun c j => tabFill c (columnScales sc f.fmt f.base j)) f.scales }

/-- The rows that have entered at the end of tick `t`. -/
def Pass.rowsBy (p : Pass) (t : Nat) : Nat := min p.rows (t + 1 - p.start)

/-- Row m as port A reads it; a row of a lane that has exited is zeros. -/
def Pass.readRow (p : Pass) (sc : Tab Byte) (m : Nat) : RowIn :=
  if rowLive p.live m then
    { row := m, live := true, done := 0
      codes := (List.range p.kst).map (fun i => streamCode sc p.fmt p.base m i p.trans)
      scales := [streamScale sc p.fmt p.base m 0, streamScale sc p.fmt p.base m 1] }
  else { row := m, live := false, codes := [], scales := [], done := 0 }

/-- The rows that enter up to tick `t`. -/
def Pass.enter (p : Pass) (sc : Tab Byte) (t : Nat) : List RowIn :=
  ((List.range (p.rowsBy t)).drop p.entered).map (p.readRow sc)

def Pass.enterTo (p : Pass) (sc : Tab Byte) (t : Nat) : Pass :=
  { p with entered := max p.entered (p.rowsBy t), flight := p.flight ++ p.enter sc t }

/-- R121: streaming row m kept as stationary row m, an exited lane's as zeros (assumption 137). -/
def captureRow (c : Tab Nat) (r : RowIn) : Tab Nat :=
  ((List.range r.codes.length).zip r.codes).foldl (fun c e => tabSet c 0 (256 * r.row + e.1) e.2) c

def captureFrom (c : Option (Nat × Tab Nat)) (ps : List Pass) (sc : Tab Byte) (t : Nat) : Option (Nat × Tab Nat) :=
  (ps.filter (fun p => p.capture)).foldl (fun c p => c.map (fun k => (k.1, (p.enter sc t).foldl captureRow k.2))) c

/-- What ports A and B read up to tick `t`. -/
def MArray.reads (a : MArray) (sc : Tab Byte) (t : Nat) : MArray :=
  { a with
    blocks := a.blocks.map (fun f => f.readTo sc t)
    capture := captureFrom a.capture a.passes sc t
    passes := a.passes.map (fun p => p.enterTo sc t) }

/-! ## Results (R96, R98) -/

/-- R96: the last update of a row that entered at a tick. -/
def Pass.update (p : Pass) (row : Nat) : Nat := p.start + row + p.kst + p.nst + 4

/-- The columns of a row whose results have reached the basin at the end of tick `t`: column j in tick u(m, j). -/
def Pass.columnsBy (p : Pass) (row t : Nat) : Nat := min p.nst (t + 1 - (p.start + row + p.kst + 5))

def zeroBlock : Front := ⟨0, 0, 0, false, 0, 0, 2, [], []⟩

def MArray.blockOf (a : MArray) (num : Nat) : Front := (a.blocks.find? (fun f => f.num == num)).getD zeroBlock

/-- The words of output column j of a row: their place and how many. -/
def Pass.cell (p : Pass) (mode row j : Nat) : Nat × Nat :=
  if mode = 7 then ((p.first + row) * p.width + 2 * j, 2) else ((p.first + row) * p.width + j, 1)

/-- The results of a row that are due by tick `t` enter the basin. -/
def Pass.applyRow (p : Pass) (b : Front) (t : Nat) (acc : Tab Word32 × List RowIn) (r : RowIn) : Tab Word32 × List RowIn :=
  let n := p.columnsBy r.row t
  let basin := ((List.range n).drop r.done).foldl (fun w j =>
    let c := p.cell b.mode r.row j
    tabWrite w 0 c.1 (passCell b p r j (tabRange w 0 c.1 c.2))) acc.1
  (basin, if n = p.nst then acc.2 else acc.2 ++ [{ r with done := max r.done n }])

/-- Every pass's results due by tick `t`, in the order in which the passes started (R98). -/
def MArray.updates (a : MArray) (t : Nat) : MArray :=
  let r := a.passes.foldl (fun (acc : Tab Word32 × List Pass) p =>
    let q := p.flight.foldl (p.applyRow (a.blockOf p.num) t) (acc.1, [])
    (q.1, acc.2 ++ [{ p with flight := q.2 }])) (a.basin, [])
  { a with basin := r.1, passes := r.2 }

/-- The tick from which words [lo, hi) may be read, of the passes `ps` (R100). -/
def freeFrom (ps : List Pass) (lo hi : Nat) : Nat :=
  ps.foldl (fun a p =>
    (List.range p.rows).foldl (fun a m =>
      if (p.first + m) * p.width < hi ∧ lo < (p.first + m + 1) * p.width then max a (p.update m + 1) else a) a) 0

/-- The last update of any pass to words [lo, hi). -/
def MArray.rowFree (x : MArray) (lo hi : Nat) : Nat := freeFrom x.passes lo hi

/-! ## Drains and diagonal runs (R120, R123, R148, R151) -/

/-- The basin with rows set to an initial value. -/
def fillRows (b : Tab Word32) (first rows w : Nat) (v : Word32) : Tab Word32 :=
  tabWrite b 0 (first * w) (List.replicate (rows * w) v)

def Sweep.rows (s : Sweep) : Nat := if s.cmd.op = mDiag then rowCount s.cmd.c else rowCount s.cmd.b
def Sweep.width (s : Sweep) : Nat := if s.cmd.op = mDiag then 64 else basinWidth s.mode s.fmt

/-- The basin words of the next row. -/
def Sweep.lo (s : Sweep) (i : Nat) : Nat := ((if s.cmd.op = mDiag then firstRow s.cmd.c else firstRow s.cmd.b) + i) * s.width

/-- R123: four ticks per row in the 4-bit width, else one. -/
def Sweep.pace (s : Sweep) : Nat := if s.width = 256 then 4 else 1

/-- The codes of a drained row (R123, R148, R151). -/
def Sweep.codes (s : Sweep) (tile : Nat) (row : List Word32) : List Nat :=
  let c := s.cmd
  let n := if s.mode = 7 then 32 else s.width
  let o := (fmtOfCode (mlFmt c.word)).getD .binary32
  (List.range n).map (fun j =>
    let rnd := if bit (wImm c.word) 5 then
        Rnd.sr (rngValue (deriveKey c.seed c.step (bvFld c.c 0 32) tile 0 j) s.next) else Rnd.rne
    fmtNarrow o rnd ((drainValue s.mode (intBasin s.mode s.fmt) row j).scale (expField c.b)))

/-- The scratch after a drained row. -/
def Sweep.put (s : Sweep) (tile : Nat) (row : List Word32) (sc : Tab Byte) : Tab Byte :=
  let c := s.cmd
  let n := if s.mode = 7 then 32 else s.width
  let e := (outBytes (mlFmt c.word)).getD 4
  ((List.range n).zip (s.codes tile row)).foldl (fun sc jc =>
    tabWrite sc 0 (drainAddr (c.base + c.a.toNat) n e (bit (wImm c.word) 4) s.next jc.1) (leBytes e jc.2)) sc

/-- R120: D := C + A·B for a row, each result rounded once; the operands' 8-bit format is a free value. -/
def Sweep.diag (s : Sweep) (sc : Tab Byte) (old : List Word32) : List Word32 :=
  let c := s.cmd
  let f := Config.diagFormat % 4
  (List.range 64).map (fun j =>
    let a := if rowLive c.live s.next then codeValue f 0 (streamCode sc 2 (c.base + c.a.toNat) s.next j false) else .fin false 0 0
    let b := codeValue f 0 (streamCode sc 2 (c.base + c.b.toNat) s.next j false)
    f32Of ((f32Val (old.getD j 0)).add (a.mul b)))

/-- The next row of a drain or a diagonal run. -/
def Sweep.row (s : Sweep) (tile : Nat) (a : MArray) (sc : Tab Byte) : MArray × Tab Byte :=
  let old := tabRange a.basin 0 (s.lo s.next) s.width
  if s.cmd.op = mDiag then ({ a with basin := tabWrite a.basin 0 (s.lo s.next) (s.diag sc old) }, sc)
  else
    let a := if bit (wImm s.cmd.word) 6 then
        { a with basin := tabWrite a.basin 0 (s.lo s.next) (List.replicate s.width (initWord s.mode s.fmt)) } else a
    (a, s.put tile old sc)

/-- The passes that started before tick `t` have updates of the next row at or after it (R100). -/
def Sweep.blocked (s : Sweep) (a : MArray) (t : Nat) : Bool :=
  decide (t < freeFrom (a.passes.filter (fun p => decide (p.start < t))) (s.lo s.next) (s.lo s.next + s.width))

/-- One sweep in tick `t`: its row if it is due. A row with updates to come waits in the thread plane, and is a hazard in a
flume program, which ends the drain (R100, R123). -/
def Sweep.tick (tile t : Nat) (acc : MArray × Tab Byte) (s : Sweep) : MArray × Tab Byte :=
  let a := acc.1
  let keep : MArray → Sweep → MArray := fun a s => { a with sweeps := a.sweeps ++ [s] }
  if t < s.due then (keep a s, acc.2)
  else if s.blocked a t then
    (match s.place with
     | none => (keep a { s with due := t + 1 }, acc.2)
     | some place => ({ a with hazard := some (a.hazard.getD (t, place)) }, acc.2))
  else
    let r := s.row tile a acc.2
    (if s.next + 1 < s.rows then keep r.1 { s with next := s.next + 1, due := t + s.pace } else r.1, r.2)

def sweepAll (tile t : Nat) (a : MArray) (sc : Tab Byte) : MArray × Tab Byte :=
  a.sweeps.foldl (Sweep.tick tile t) ({ a with sweeps := [] }, sc)

/-! ## Time -/

/-- One wet tick of the array: reads, then drains and diagonal runs, then the results of passes (R100: a word updated in
tick t can be read from tick t + 1). -/
def arrayTick (tile t : Nat) (x : MArray × Tab Byte) : MArray × Tab Byte :=
  let r := sweepAll tile t (x.1.reads x.2 t) x.2
  (r.1.updates t, r.2)

/-- Nothing of the array is in progress. -/
def MArray.idle (a : MArray) : Bool :=
  a.sweeps.isEmpty && a.passes.all (fun p => p.flight.isEmpty && p.entered == p.rows) &&
  a.blocks.all (fun f => f.read == (gridOf f.fmt).2)

/-- The first tick in which something is still to be done, and the tick after the last. -/
def MArray.firstDue (a : MArray) (now : Nat) : Nat :=
  let m := a.blocks.foldl (fun m f => if f.read = (gridOf f.fmt).2 then m else min m (f.start + f.read - 1)) now
  let m := a.passes.foldl (fun m p =>
    let m := if p.entered < p.rows then min m (p.start + p.entered) else m
    p.flight.foldl (fun m r => min m (p.start + r.row + p.kst + r.done + 5)) m) m
  a.sweeps.foldl (fun m s => min m s.due) m

def MArray.lastDue (a : MArray) : Nat :=
  let m := a.blocks.foldl (fun m f => max m (f.start + (gridOf f.fmt).2)) 0
  let m := a.passes.foldl (fun m p => max m (p.update p.rows)) m
  a.sweeps.foldl (fun m s => max m s.due + s.pace * s.rows) m

/-- Every tick before `now`. -/
def arrayTo (tile now : Nat) (x : MArray × Tab Byte) : MArray × Tab Byte :=
  if x.1.idle then x
  else
    let from_ := x.1.firstDue now
    (List.range (min now x.1.lastDue - from_)).foldl (fun x k => arrayTick tile (from_ + k) x) x

/-- A tile with its array brought up to wet tick `now`. -/
def Tile.settled (x : Tile) (tile now : Nat) : Tile :=
  let r := arrayTo tile now (x.array, x.scratch)
  { x with array := r.1, scratch := r.2 }

/-- A tile at the present wet tick. -/
def State.nowTile (s : State) (tile : Nat) : Tile := (s.tile tile).settled tile s.wet.toNat

/-- A tile whose array is idle is as it stands. -/
theorem Tile.settled_idle (x : Tile) (tile now : Nat) (h : x.array.idle = true) : x.settled tile now = x := by
  simp [Tile.settled, arrayTo, h]

/-- The tick by which a sweep has taken its last row, with no further pass. -/
def Sweep.ends (a : MArray) (s : Sweep) : Nat :=
  ((List.range s.rows).drop s.next).foldl (fun t i => max t (a.rowFree (s.lo i) (s.lo i + s.width)) + s.pace) s.due

/-- The drains and diagonal runs in progress are over. -/
def MArray.sweepsEnd (a : MArray) : Nat := a.sweeps.foldl (fun m s => max m (s.ends a)) 0

/-- Everything in progress is over (R300 step 2). -/
def MArray.workEnd (a : MArray) : Nat :=
  max a.sweepsEnd (if a.idle then 0 else max (a.lastUpdate.elim 0 (fun u => u + 1)) (a.lastEntry.elim 0 (fun e => e + 1)))

end Sys2Proof.Machine
end

