-- ==== Sys2Proof/Machine/Access.lean ====
section
/-! DEFINITION. Classes 0x4 to 0x7 of the thread plane: scratch (R66 to R69), cluster scratch (R70 to R72),
memory (R224 to R231, R343), atomics (R73, R74), the read-only cache (R77 to R80), the heap (R351); and
how results and faults return (R93). -/

namespace Sys2Proof.Machine

/-! ## Lanes of an access -/

def LaneSize (n : Nat) : Bool := n == 1 || n == 2 || n == 4 || n == 8 || n == 16

def laneAddr (m : LaneMem) (l : Nat) : Nat := m.addrs.getD l 0

/-- R69: some active lane is not aligned to its size. -/
def misaligned (m : LaneMem) (lanes : List Nat) : Bool := lanes.any (fun l => decide (laneAddr m l % m.size ≠ 0))

/-- The 32-bit registers an access of a size uses, consecutive from the one named (assumption 24). -/
def wordsOf (size : Nat) : Nat := (size + 3) / 4

/-- A lane's bytes from its registers. -/
def Group.laneBytes (g : Group) (r lane size : Nat) : List Byte :=
  ((List.range (wordsOf size)).flatMap (fun i => leBytes 4 (g.vreg ((r + i) % 128) lane).toNat)).take size

/-- A lane's registers from its bytes; the bits above a 1- or 2-byte result are not stated (assumption 21). -/
def Group.setLane (g : Group) (r lane size : Nat) (d : List Byte) : Group :=
  if size < 4 then g.setVreg r lane (narrowReg (8 * size) (leNat d))
  else (List.range (wordsOf size)).foldl (fun g i =>
    g.setVreg ((r + i) % 128) lane (BitVec.ofNat 32 (leNat (sliceAt d (4 * i) 4)))) g

/-- Every register of a result becomes ready at a tick. -/
def Group.readyDst (g : Group) (r size at_ : Nat) : Group :=
  (List.range (wordsOf size)).foldl (fun g i => g.readyOn (keyV ((r + i) % 128)) at_) g

/-- The registers a store reads besides its addresses and predicate: its data; an atomic's two operands. -/
def dataKeys (r size : Nat) : List Nat := (List.range (wordsOf size)).map (fun i => keyV ((r + i) % 128))
def storeKeys (w : Word64) (size : Nat) : List Nat := oneKey w ++ dataKeys (wB w) size
def atomKeys (w : Word64) (size : Nat) : List Nat := keyP (wPred w) :: dataKeys (wA w) size ++ dataKeys (wB w) size

/-! ## Scratch (R66 to R69) -/

/-- R66: the ports of a tile's scratch and the bytes each moves in a tick. -/
inductive ScratchPort
  | thread | arrayA | arrayB | arrayWrite | dmaRead | dmaWrite
  deriving DecidableEq, Repr

def portBytes : ScratchPort → Nat
  | .thread => 32 * 4
  | .arrayA | .arrayB => 64
  | .arrayWrite | .dmaRead | .dmaWrite => 256

/-- R67: the ticks the thread port is held: the most distinct words in one of the 32 banks. -/
def portTicks (words : List Nat) : Nat :=
  let d := words.dedup
  (List.range 32).foldl (fun a b => max a ((d.filter (fun w => w % 32 == b)).length)) 1

/-- The 4-byte words the lanes address, from the window's base. -/
def wordsAddressed (base : Nat) (m : LaneMem) (lanes : List Nat) : List Nat :=
  lanes.flatMap (fun l => (List.range ((laneAddr m l % 4 + m.size + 3) / 4)).map (fun i => (base + laneAddr m l) / 4 + i))

/-- Bytes of a tile's scratch, and bytes written there, at the present tick: what the array has done before it stands. -/
def State.scratchBytes (s : State) (tile a n : Nat) : List Byte := tabRange (s.nowTile tile).scratch 0 a n
def State.scratchWrite (s : State) (tile a : Nat) (d : List Byte) : State :=
  s.modTile tile (fun _ => { s.nowTile tile with scratch := tabWrite (s.nowTile tile).scratch 0 a d })

/-- R67: the port is free of earlier instructions before this one issues, and then held `n` ticks. -/
def State.takePort (s : State) (tile n : Nat) : State :=
  let s := s.waitWet (s.tile tile).portBusy
  s.modTile tile (fun x => { x with portBusy := s.wet.toNat + n })

/-- R55, R69: what is wrong with a scratch access in a window of `size` bytes. -/
def scratchFault (m : LaneMem) (lanes : List Nat) (size : Nat) (code : Code) : Option (Code × Nat) :=
  if misaligned m lanes then some (.misalignedAccess, (lanes.find? (fun l => decide (laneAddr m l % m.size ≠ 0))).elim 0 (laneAddr m))
  else match lanes.find? (fun l => decide (size < laneAddr m l + m.size)) with
    | some l => some (code, laneAddr m l)
    | none => none

/-- Loads of a window at `base` of a tile into the lanes' registers. -/
def State.loadWindow (s : State) (from_ base : Nat) (g : Group) (m : LaneMem) (lanes : List Nat) : Group :=
  lanes.foldl (fun g l => g.setLane (wDst m.word) l m.size (s.scratchBytes from_ (base + laneAddr m l) m.size)) g

/-- Stores, the highest lane winning each byte (R69). -/
def State.storeWindow (s : State) (dest base : Nat) (g : Group) (m : LaneMem) (lanes : List Nat) : State :=
  lanes.foldl (fun s l => s.scratchWrite dest (base + laneAddr m l) (g.laneBytes (wB m.word) l m.size)) s

/-- A legal word of an access of a class: HINT zero outside class 0x6 and 0x7 (R64, assumption 127). -/
def laneLegal (cls : Nat) (m : LaneMem) : Bool :=
  wClass m.word == cls && (decide (6 ≤ cls) || wHint m.word == 0) && LaneSize m.size &&
  (cls != 6 || decide (wOp m.word ≠ 0x30 ∧ wOp m.word ≠ 0x31))

/-- The checks every scratch access makes: an illegal word of its class, else its lanes and the group's block. -/
def State.scratchIssue (s : State) (tile slot cls : Nat) (keys : List Nat) (m : LaneMem)
    (f : State → Group → Path → Block → List Nat → State) : State :=
  s.issue tile slot keys (fun s g p =>
    match s.blockOf tile g with
    | none => s
    | some b =>
      if !laneLegal cls m then s.illegal tile slot g p
      else f s g p b (lanesOf (g.active p m.word)))

/-- The wet tick from which every byte the lanes name of a tile's scratch can be used (R81). -/
def Tile.lanesReady (x : Tile) (base : Nat) (m : LaneMem) (lanes : List Nat) : Nat :=
  lanes.foldl (fun n l => max n (x.outReady (base + laneAddr m l) (base + laneAddr m l + m.size))) 0

/-- SCRATCH_LOAD (R68): ready 2 + n ticks after issue. -/
def execScratchLoad (tile slot : Nat) (m : LaneMem) (s : State) : Host.Outcome State Fault Refusal :=
  .next (s.scratchIssue tile slot 4 (oneKey m.word) m (fun s g p b lanes =>
    match scratchFault m lanes b.size .scratchBounds with
    | some e => s.preciseAt tile slot g p e.1 0 e.2
    | none =>
      let n := portTicks (wordsAddressed b.base m lanes)
      let s := (s.waitWet ((s.tile tile).lanesReady b.base m lanes)).takePort tile n
      let g := (s.loadWindow tile b.base g m lanes).readyDst (wDst m.word) m.size (s.due (2 + n))
      s.finish tile slot (g.step p 8)))

/-- SCRATCH_STORE (R69). -/
def execScratchStore (tile slot : Nat) (m : LaneMem) (s : State) : Host.Outcome State Fault Refusal :=
  .next (s.scratchIssue tile slot 4 (storeKeys m.word m.size) m (fun s g p b lanes =>
    match scratchFault m lanes b.size .scratchBounds with
    | some e => s.preciseAt tile slot g p e.1 0 e.2
    | none =>
      let s := s.takePort tile (portTicks (wordsAddressed b.base m lanes))
      (s.storeWindow tile b.base g m lanes).finish tile slot (g.step p 8)))

/-! ## Clusters (R70 to R72) -/

/-- R35: the release delay of a mesh path between two tiles, and the sluice of that path. -/
def meshDelay (a b : Nat) : Nat := pathDelay (tileRow a, tileCol a, 0) (tileRow b, tileCol b, 0)
def meshSluice (a b : Nat) : SluiceId := ⟨.mesh, a, b, 0⟩

/-- The tile and block of a rank of a block's cluster, none beyond the cluster's size. A rank whose block has ended is
reached at its tile in a window like the issuer's (DESIGN CHOICE, assumption 129: R71 does not say what an access to it
does). -/
def State.rankBlock (s : State) (b : Block) (rank : Nat) : Option (Nat × Block) :=
  match s.kernels.find? (fun k => k.id == b.kern) with
  | none => none
  | some k =>
    if k.cw * k.ch ≤ rank then none
    else
      let t := b.origin + rank / k.cw * 48 + rank % k.cw
      let i := b.index - b.rank + rank
      match (s.tile t).blocks.find? (fun y => y.kern == b.kern && y.index == i) with
      | some y => some (t, y)
      | none => some (t, { b with index := i, rank := rank, base := b.base, size := k.scratch })

/-- The record of an operation whose answer is to come (R93). -/
def State.issueOf (s : State) (tile slot : Nat) (g : Group) (p : Path) (m : LaneMem) (dst : Nat) : Issue :=
  { id := s.nextId, tile := tile, slot := slot, uid := g.uid, ctx := g.ctx, kern := g.kern, pc := p.pc, mask := p.mask
    lanes := g.active p m.word, addrs := m.addrs, size := m.size, dst := dst, rank := none, ready := 0, fault := none
    data := none }

/-- A load or atomic on another tile's scratch: its request is an untimed item, and its answer is back no earlier than
3 + 2D ticks after issue (R72). -/
def State.sendCluster (s : State) (tile slot t base : Nat) (g : Group) (p : Path) (m : LaneMem) (what : Nat → Payload) : State :=
  let i : Issue := { s.issueOf tile slot g p m (wDst m.word) with
    addrs := (List.range 32).map (fun l => base + laneAddr m l), rank := some t, ready := s.due (3 + 2 * meshDelay tile t) }
  let s : State := { s.fresh with issues := s.issues ++ [i] }
  (s.sendUntimed (meshSluice tile t) (what i.id)).finish tile slot ((g.readyDst (wDst m.word) m.size never).step p 8)

/-- CLUSTER_SCRATCH_LOAD (R71, R72): the own rank is served locally; another's answer arrives with
CLUSTER_SCRATCH_RESPONSE. -/
def execClusterScratchLoad (tile slot rank : Nat) (m : LaneMem) (s : State) : Host.Outcome State Fault Refusal :=
  .next (s.scratchIssue tile slot 5 (oneKey m.word) m (fun s g p b lanes =>
    match s.rankBlock b rank with
    | none => s.preciseAt tile slot g p .clusterRange 0 0
    | some (t, y) =>
      match scratchFault m lanes y.size .clusterRange with
      | some e => s.preciseAt tile slot g p e.1 0 e.2
      | none =>
        if t = tile then
          let n := portTicks (wordsAddressed b.base m lanes)
          let s := (s.waitWet ((s.tile tile).lanesReady b.base m lanes)).takePort tile n
          let g := (s.loadWindow tile b.base g m lanes).readyDst (wDst m.word) m.size (s.due (2 + n))
          s.finish tile slot (g.step p 8)
        else s.sendCluster tile slot t y.base g p m .clusterLoad))

/-- R33: items of at most 256 B. -/
def itemsOf (n : Nat) : Nat → List Nat → List (List Nat)
  | 0, _ => []
  | _, [] => []
  | f + 1, l => l.take n :: itemsOf n f (l.drop n)

/-- CLUSTER_SCRATCH_STORE (R71, R72): on the own rank at once, on another's where its items are released, in issue
order. -/
def execClusterScratchStore (tile slot rank : Nat) (m : LaneMem) (s : State) : Host.Outcome State Fault Refusal :=
  .next (s.scratchIssue tile slot 5 (storeKeys m.word m.size) m (fun s g p b lanes =>
    match s.rankBlock b rank with
    | none => s.preciseAt tile slot g p .clusterRange 0 0
    | some (t, y) =>
      match scratchFault m lanes y.size .clusterRange with
      | some e => s.preciseAt tile slot g p e.1 0 e.2
      | none =>
        if t = tile then
          ((s.takePort tile (portTicks (wordsAddressed b.base m lanes))).storeWindow t y.base g m lanes).finish tile slot (g.step p 8)
        else
          let put : State → List Nat → State := fun s ls => s.sendUntimed (meshSluice tile t)
            (.cells tile g.uid t (ls.map (fun l => (y.base + laneAddr m l, g.laneBytes (wB m.word) l m.size))))
          ((itemsOf (256 / m.size) 32 lanes).foldl put s).finish tile slot (g.step p 8)))

/-! ## Ends of issued operations -/

/-- A load, atomic or cluster load of a group has still to return. -/
def State.loadsOut (s : State) (tile uid : Nat) : Bool :=
  s.issues.any (fun i => i.tile == tile && i.uid == uid &&
    (i.rank.isSome || s.flights.any (fun a => a.issue == i.id && (match a.op with
      | .store _ => false
      | _ => true))))

/-- Stores of a group for another tile's scratch are still to be applied (R240). -/
def State.cellsOut (s : State) (tile uid : Nat) : Bool :=
  let mine : Payload → Bool := fun w => match w with
    | .cells t u _ _ => t == tile && u == uid
    | _ => false
  s.sluices.any (fun e => e.2.items.any (fun it => mine it.what) || e.2.waiting.any mine)

/-- Every earlier access of a group is over (R232, R240). -/
def State.fenced (s : State) (tile uid : Nat) : Bool :=
  !s.issues.any (fun i => i.tile == tile && i.uid == uid) && !s.cellsOut tile uid

/-- What the end of an access allows (R232): a release fence ends and a flush's walk begins when nothing the
group issued is outstanding, and a signal it held back is sent (R324); an acquire that has ended its walk waits for loads alone. -/
def State.wakeFence (s : State) (tile uid : Nat) : State :=
  let s := if s.loadsOut tile uid then s
    else s.modGroup tile uid (fun g => if g.hold = .loads then { g with hold := .none } else g)
  if s.fenced tile uid then
    let s := (s.sendOps tile uid).modGroup tile uid (fun g =>
      match g.hold with
      | .fence | .send _ => { g with hold := .none }
      | _ => g)
    { s with
      walks := modIf s.walks (fun w => decide (w.who = .group tile uid) && w.untilTick.isNone)
        (fun w => { w with untilTick := some (s.wet.toNat + walkTicks w.ranges) }) }
  else s

/-- An issued operation is over. -/
def State.endIssue (s : State) (i : Issue) : State :=
  let s : State := { s with
    issues := s.issues.filter (fun x => x.id != i.id), flights := s.flights.filter (fun a => a.issue != i.id) }
  s.wakeFence i.tile i.uid

/-! ## Memory instructions (R225, R226, R343, R252) -/

/-- The lines the lanes touch, as virtual line numbers, in lane order. -/
def linesTouched (m : LaneMem) (lanes : List Nat) : List Nat := (lanes.map (fun l => laneAddr m l / 128)).dedup

/-- The bytes of a line that the lanes touch: first offset, length, and whether all 128 are touched. -/
def lineSpan (m : LaneMem) (lanes : List Nat) (line : Nat) : Nat × Nat × Bool :=
  let ls := lanes.filter (fun l => laneAddr m l / 128 == line)
  let lo := ls.foldl (fun a l => min a (laneAddr m l % 128)) 128
  let hi := ls.foldl (fun a l => max a (laneAddr m l % 128 + m.size)) 0
  let full := (List.range 128).all (fun i => ls.any (fun l => decide (laneAddr m l % 128 ≤ i) && decide (i < laneAddr m l % 128 + m.size)))
  (lo, hi - lo, full)

/-- The bytes a store gives from offset `lo` of a line, the highest lane winning (R69). -/
def storeData (g : Group) (m : LaneMem) (lanes : List Nat) (line lo len : Nat) : List (Option Byte) :=
  let ls := (lanes.filter (fun l => laneAddr m l / 128 == line)).reverse
  (List.range len).map (fun i =>
    (ls.find? (fun l => decide (laneAddr m l % 128 ≤ lo + i) && decide (lo + i < laneAddr m l % 128 + m.size))).map
      (fun l => (g.laneBytes (wB m.word) l m.size).getD (lo + i - laneAddr m l % 128) 0))

/-- Why an address may not be accessed at issue, if so: R343's or R252's fault. Host pages are translated
now; the state holds the translation. -/
def State.reachFault (s : State) (c va n perm : Nat) (u : FabUse) : Option Code × State :=
  match s.reach c va perm u with
  | .noPage => (some .translationFault, s)
  | .noFabric => (some .fabricAccess, s)
  | .place (.host i) =>
    if perm = 2 then (some .translationFault, s)
    else
      let (ok, s) := s.hostRange (s.ctx c).pasid i n
      (if ok then none else some .translationFault, s)
  | .place _ => (none, s)

/-- The first line of an access that may not be accessed. -/
def State.firstFault (s : State) (c perm : Nat) (u : FabUse) (spans : List (Nat × Nat)) : Option (Code × Nat) × State :=
  spans.foldl (fun acc v =>
    match acc with
    | (some e, s) => (some e, s)
    | (none, s) =>
      match s.reachFault c v.1 v.2 perm u with
      | (some e, s) => (some (e, v.1), s)
      | (none, s) => (none, s)) (none, s)

/-- Where an address that passed its check lies. -/
def State.placeOf (s : State) (c va perm : Nat) (u : FabUse) : Place :=
  match s.reach c va perm u with
  | .place p => p
  | _ => .host 0

/-- The checks every class 0x6 and 0x7 memory instruction makes before anything is sent (R69, R343, R252),
and the issue record of the operation; `ok` is whether what it needs of the tile accepts it (R80). -/
def State.memIssue (s : State) (tile slot : Nat) (keys : List Nat) (m : LaneMem) (perm : Nat) (u : FabUse) (legal : Bool) (dst : Nat)
    (ok : State → Group → Path → Bool) (f : State → Group → Path → Issue → List Nat → State) : State :=
  s.issueIf tile slot keys ok (fun s g p =>
    let lanes := lanesOf (g.active p m.word)
    if !legal then s.illegal tile slot g p
    else if misaligned m lanes then
      s.preciseAt tile slot g p .misalignedAccess 0 ((lanes.find? (fun l => decide (laneAddr m l % m.size ≠ 0))).elim 0 (laneAddr m))
    else
      let spans := (linesTouched m lanes).map (fun n => (n * 128 + (lineSpan m lanes n).1, (lineSpan m lanes n).2.1))
      match s.firstFault g.ctx perm u spans with
      | (some e, s) => s.preciseAt tile slot g p e.1 0 e.2
      | (none, s) => f s.fresh g p (s.issueOf tile slot g p m dst) lanes)

/-- The sluice an access travels by: from its tile to attachment point a mod 14 of the stack that holds its line, to point
n mod 6 of the gateway of its cistern slice, or to the host port (R196, R40). An engine of no tile has none. -/
def State.accessPath (s : State) (a : Access) : Option SluiceId :=
  let go : Nat → SluiceId := fun t => match a.place with
    | .dram dpa => ⟨.mesh, t, islandArray (s.stackOf (dpa / 128)), dpa / 128 % 14⟩
    | .remote dev off _ _ => ⟨.mesh, t, islandCistern (cisSlice dev (off / 128)), off / 128 % 6⟩
    | .host _ => ⟨.free, t, islandHost, 0⟩
  match a.who with
  | .group t _ | .dma t _ => if t < numTiles then some (go t) else none
  | _ => none

/-- An access leaves its tile as an untimed item (R37). -/
def State.sendAccess (s : State) (a : Access) : State :=
  match s.accessPath a with
  | some i => s.sendUntimed i (.request a.id)
  | none => s

/-- A part of an access under the next number, sent if it is on its way. -/
def State.launch (s : State) (a : Access) : State :=
  let a := { a with id := s.nextId }
  let s : State := { s.fresh with flights := s.flights ++ [a] }
  if a.stage = .moving then s.sendAccess a else s

/-- R206, R209: the dead hint holds for lines wholly covered, others are treated as normal. -/
def partHint (hint : Nat) (full : Bool) : Nat := if hint = 3 ∧ !full then 0 else hint

/-! ## The read-only cache (R77 to R80) -/

def roSet (line : Nat) : Nat := line % 128
def Tile.roLine (x : Tile) (line : Nat) : Option RoLine := (tabGet x.ro [] (roSet line)).find? (fun l => l.vline == line)

/-- R80, R77: a miss can be taken: its line's list has room, or a register is free and a way of the set has no fill
outstanding. -/
def Tile.roRoom (x : Tile) (line : Nat) : Bool :=
  match x.roMiss.find? (fun m => m.vline == line) with
  | some m => decide (m.waiters.length < 8)
  | none =>
    decide (x.roMiss.length < 32) && decide ((x.roMiss.filter (fun m => roSet m.vline == roSet line)).length < 4)

/-- A miss joins or takes a register. -/
def Tile.roTrack (x : Tile) (line sectors issue : Nat) : Tile :=
  let w := (issue, BitVec.ofNat 4 sectors)
  if x.roMiss.any (fun m => m.vline == line) then
    { x with roMiss := modIf x.roMiss (fun m => m.vline == line) (fun m =>
        { m with sectors := m.sectors ||| BitVec.ofNat 4 sectors, waiters := m.waiters ++ [w] }) }
  else { x with roMiss := x.roMiss ++ [⟨line, BitVec.ofNat 4 sectors, [], [w]⟩] }

/-- The request that fetches a sector of a tracked line. -/
def Tile.roRequest (x : Tile) (line sector : Nat) : Option Nat :=
  (x.roMiss.find? (fun m => m.vline == line)).bind (fun m => (m.reqs.find? (fun e => e.1 == sector)).map (fun e => e.2))

def Tile.roNote (x : Tile) (line sector id : Nat) : Tile :=
  { x with roMiss := modIf x.roMiss (fun m => m.vline == line) (fun m => { m with reqs := m.reqs ++ [(sector, id)] }) }

/-- A sector is outstanding no more; a register with none left is free. -/
def Tile.roClear (x : Tile) (line sector : Nat) : Tile :=
  let miss := modIf x.roMiss (fun m => m.vline == line) (fun m =>
    { m with sectors := m.sectors &&& ~~~(BitVec.ofNat 4 (2 ^ sector)), reqs := m.reqs.filter (fun e => e.1 != sector) })
  { x with roMiss := miss.filter (fun m => decide (m.sectors ≠ 0)) }

/-- R77: a line that is used is the set's most recent. -/
def Tile.roTouch (x : Tile) (line : Nat) : Tile :=
  match x.roLine line with
  | some l => { x with ro := tabSet x.ro [] (roSet line) (l :: (tabGet x.ro [] (roSet line)).filter (fun y => y.vline != line)) }
  | none => x

/-- R77: a sector put in its line, which takes the place of the least recently used line without a fill. -/
def Tile.roFill (x : Tile) (line sector : Nat) (d : List Byte) : Tile :=
  let set := tabGet x.ro [] (roSet line)
  let old := (x.roLine line).getD ⟨line, 0, List.replicate 128 0⟩
  let new := { old with valid := old.valid ||| BitVec.ofNat 4 (2 ^ sector)
                        data := overlayBytes old.data (List.replicate (32 * sector) none ++ d.map some) }
  let rest := set.filter (fun l => l.vline != line)
  let rest := if rest.length < 4 then rest else
    match rest.reverse.find? (fun l => !x.roMiss.any (fun m => m.vline == l.vline)) with
    | some v => rest.filter (fun l => l.vline != v.vline)
    | none => rest.take 3
  ({ x with ro := tabSet x.ro [] (roSet line) (new :: rest) }).roClear line sector

/-- A cached request of a tile for the sector at an address, that joins no other. -/
def sectorRequest (tile va : Nat) (b : Access) : Bool :=
  b.cached && !b.flag && b.join.isNone && b.va == va && (match b.who with
    | .group t _ => t == tile
    | _ => false)

/-- The sector is valid in the tile's cache: its bytes. -/
def Tile.roData (x : Tile) (line sector : Nat) : Option (List Byte) :=
  match x.roLine line with
  | some l => if l.valid.getLsbD sector then some (sliceAt l.data (32 * sector) 32) else none
  | none => none

/-- One sector of a cached load: served by the cache, joined to the request its register already has out, or requested;
it carries no dead hint, which the cache's sectors cannot cover a line with (DESIGN CHOICE, assumption 130). -/
def State.roSector (s : State) (i : Issue) (line sector hint : Nat) : State :=
  let va := line * 128 + 32 * sector
  let a : Access := { id := 0, issue := i.id, who := .group i.tile i.uid, ctx := i.ctx, op := .load
                      place := s.placeOf i.ctx va 0 .threadLoad, va := va, len := 32, hint := if hint = 3 then 0 else hint
                      cached := true, flag := false, join := none, stage := .moving }
  match (s.tile i.tile).roData line sector with
  | some d => (s.modTile i.tile (fun x => x.roTouch line)).launch { a with stage := .served d [], flag := true }
  | none => match (s.tile i.tile).roRequest line sector with
    | some r => s.launch { a with join := some r, stage := .waiting }
    | none => (s.modTile i.tile (fun x => x.roNote line sector s.nextId)).launch a

/-- The sectors of a line that a load needs and the tile's cache does not hold. -/
def Tile.roMissing (x : Tile) (m : LaneMem) (lanes : List Nat) (line : Nat) : Nat :=
  let sp := lineSpan m lanes line
  let need := sectorsOf sp.1 sp.2.1
  match x.roLine line with
  | some l => need &&& (15 - l.valid.toNat)
  | none => need

/-- The lines of a cached load that go through the cache: at most four of a set, beyond which no way could ever be free; the
rest are read past it (DESIGN CHOICE, assumption 131). -/
def roLines (lines : List Nat) : List Nat :=
  lines.filter (fun n => decide (((lines.takeWhile (fun k => k != n)).filter (fun k => roSet k == roSet n)).length < 4))

/-- R80: registers for every line of a load that misses, one after another; none where one cannot be tracked. -/
def Tile.roTakes (x : Tile) (missing : Nat → Nat) (issue : Nat) (lines : List Nat) : Option Tile :=
  lines.foldl (fun acc n => acc.bind (fun x =>
    if missing n = 0 then some x else if x.roRoom n then some (x.roTrack n (missing n) issue) else none)) (some x)

/-- MEMORY_LOAD (R224 to R228, R77 to R80). A cached load whose lines cannot all be tracked does not issue. -/
def execMemoryLoad (tile slot : Nat) (cached : Bool) (m : LaneMem) (s : State) : Host.Outcome State Fault Refusal :=
  let missing : State → List Nat → Nat → Nat := fun s lanes n => (s.tile tile).roMissing m lanes n
  let through : List Nat → List Nat := fun lanes => if cached then roLines (linesTouched m lanes) else []
  .next (s.memIssue tile slot (oneKey m.word) m 0 .threadLoad (laneLegal 6 m) (wDst m.word)
    (fun s g p =>
      let lanes := lanesOf (g.active p m.word)
      ((s.tile tile).roTakes (missing s lanes) 0 (through lanes)).isSome)
    (fun s g p i lanes =>
      let s : State := { s with issues := s.issues ++ [i] }
      let s := match (s.tile tile).roTakes (missing s lanes) i.id (through lanes) with
        | some x => s.setTile tile x
        | none => s
      let s := (linesTouched m lanes).foldl (fun s n =>
        let sp := lineSpan m lanes n
        if (through lanes).elem n then
          ((List.range 4).filter (fun k => (sectorsOf sp.1 sp.2.1).testBit k)).foldl (fun s k => s.roSector i n k (wHint m.word)) s
        else
          let va := n * 128 + sp.1
          s.launch { id := 0, issue := i.id, who := .group tile g.uid, ctx := g.ctx, op := .load
                     place := s.placeOf g.ctx va 0 .threadLoad, va := va, len := sp.2.1
                     hint := partHint (wHint m.word) sp.2.2, cached := false, flag := false, join := none, stage := .moving }) s
      s.finish tile slot ((g.readyDst (wDst m.word) m.size never).step p 8)))

/-- READ_ONLY_CACHE_FILL (R80): the sector serves the loads that wait for its request, and enters the cache if that
request is still its register's (an acquire or the end of a kernel has given the register up, R78). -/
def execReadOnlyCacheFill (tile line sector : Nat) (s : State) : Host.Outcome State Fault Refusal :=
  match s.flights.find? (fun b => sectorRequest tile (line * 128 + 32 * sector) b && (match b.stage with
      | .served _ _ | .poisoned | .rejected => true
      | _ => false)) with
  | none => .next s
  | some a =>
    let s := if (s.tile tile).roRequest line sector = some a.id then
        s.modTile tile (fun x => match a.stage with
          | .served d _ => x.roFill line sector d
          | _ => x.roClear line sector)
      else s
    .next { s with
      flights := modIf s.flights (fun b => b.id == a.id || b.join == some a.id) (fun b => { b with stage := a.stage, flag := true }) }

/-! ## Stores -/

/-- The parts of a store. A flag store waits, under its own number, for the requests that have left the
device (R259). -/
def State.sendStores (s : State) (g : Group) (i : Issue) (m : LaneMem) (lanes : List Nat) (flag : Bool) : State :=
  (linesTouched m lanes).foldl (fun s n =>
    let sp := lineSpan m lanes n
    let va := n * 128 + sp.1
    let id := s.nextId
    let s := s.launch { id := 0, issue := i.id, who := .group i.tile g.uid, ctx := g.ctx
                        op := .store (storeData g m lanes n sp.1 sp.2.1), place := s.placeOf g.ctx va 1 .threadStore
                        va := va, len := sp.2.1, hint := partHint (wHint m.word) sp.2.2, cached := false, flag := flag, join := none
                        stage := if flag then .waiting else .moving }
    if flag then
      { s with walks := s.walks ++ [{ id := id, kind := .flush, ranges := some [], who := .device, untilTick := none
                                      acks := (s.fab.out.filter (fun r => r.left)).map (fun r => (r.dev, r.route, r.seq))
                                      ended := true }] }
    else s) s

/-- MEMORY_STORE (R226, R229, R234). -/
def execMemoryStore (tile slot : Nat) (m : LaneMem) (s : State) : Host.Outcome State Fault Refusal :=
  .next (s.memIssue tile slot (storeKeys m.word m.size) m 1 .threadStore (laneLegal 6 m) 0 (fun _ _ _ => true) (fun s g p i lanes =>
    let s : State := if lanes = [] then s else { s with issues := s.issues ++ [i] }
    (s.sendStores g i m lanes false).finish tile slot (g.step p 8)))

/-- FLAG_STORE (R259). -/
def execFlagStore (tile slot : Nat) (m : LaneMem) (s : State) : Host.Outcome State Fault Refusal :=
  .next (s.memIssue tile slot (storeKeys m.word m.size) m 1 .threadStore (laneLegal 6 m) 0 (fun _ _ _ => true) (fun s g p i lanes =>
    let s : State := if lanes = [] then s else { s with issues := s.issues ++ [i] }
    (s.sendStores g i m lanes true).finish tile slot (g.step p 8)))

/-- An access's stage set. -/
def State.setStage (s : State) (id : Nat) (st : AccStage) : State :=
  { s with flights := modIf s.flights (fun a => a.id == id) (fun a => { a with stage := st }) }

def State.access (s : State) (id : Nat) : Option Access := s.flights.find? (fun a => a.id == id)

/-- FLAG_STORE_SEND (R259): every earlier request is acknowledged: a local flag store goes to its home, a
remote one leaves at once, its line's held bytes before it. -/
def execFlagStoreSend (id : Nat) (s : State) : Host.Outcome State Fault Refusal :=
  match s.access id, s.walks.find? (fun w => w.id == id) with
  | some a, some w =>
    if a.flag ∧ a.stage = .waiting ∧ w.acks = [] then
      let s : State := { s with walks := s.walks.filter (fun x => x.id != id) }
      match a.place, a.op with
      | .remote dev off route _, .store d =>
        .next (((s.flushFirst dev (off / 128) route a.ctx).sendFabric dev route (.store off d) (some id) none a.ctx).setStage id .forwarded)
      | _, _ => .next ((s.setStage id .moving).sendAccess a)
    else .next s
  | _, _ => .next s

/-! ## Atomics (R73, R74) -/

/-- R73: the operand types of each operation. -/
def atomLegal (op : AtomOp) (ty : AtomTy) : Bool :=
  match op, ty with
  | .cas, .bits64 | .swap, .bits64 => true
  | .cas, _ | _, .bits64 => false
  | .add, .bits32 | .min, .bits32 | .max, .bits32 => false
  | .and, .binary32 | .or, .binary32 | .xor, .binary32 => false
  | _, _ => true

/-- A lane's operands: v(SRCA) and v(SRCB), in pairs for 64 bits. -/
def Group.atomArgs (g : Group) (w : Word64) (ty : AtomTy) (lane : Nat) : Word64 × Word64 :=
  let n := atomBytes ty
  (BitVec.ofNat 64 (leNat (g.laneBytes (wA w) lane n)), BitVec.ofNat 64 (leNat (g.laneBytes (wB w) lane n)))

/-- R74: the lanes that name an address applied one after another: the old value each receives, and the
last value. -/
def applyLanes (op : AtomOp) (ty : AtomTy) (v : Word64) (args : List (Word64 × Word64)) : List Word64 × Word64 :=
  args.foldl (fun acc ab => (acc.1 ++ [acc.2], atomicNew op ty acc.2 ab.1 ab.2)) ([], v)

/-- The distinct addresses, in ascending order of the lowest lane naming each. -/
def atomAddrs (m : LaneMem) (lanes : List Nat) : List Nat :=
  lanes.foldl (fun acc l => if acc.elem (laneAddr m l) then acc else acc ++ [laneAddr m l]) []

def lanesAt (m : LaneMem) (lanes : List Nat) (a : Nat) : List Nat := lanes.filter (fun l => laneAddr m l == a)

/-- Atomics on the scratch of a tile: each lane's old value into its register. -/
def State.scratchAtomics (s : State) (t base : Nat) (g : Group) (m : LaneMem) (op : AtomOp) (ty : AtomTy) (lanes : List Nat) :
    State × Group :=
  (atomAddrs m lanes).foldl (fun acc a =>
    let n := atomBytes ty
    let old := BitVec.ofNat 64 (leNat (acc.1.scratchBytes t (base + a) n))
    let ls := lanesAt m lanes a
    let r := applyLanes op ty old (ls.map (fun l => g.atomArgs m.word ty l))
    let h := (ls.zip r.1).foldl (fun h e => h.setLane (wDst m.word) e.1 n (leBytes n e.2.toNat)) acc.2
    (acc.1.scratchWrite t (base + a) (leBytes n r.2.toNat), h)) (s, g)

/-- An atomic on scratch or cluster scratch; one on another tile's is applied where its request is released (R72, R73,
assumption 132). -/
def State.scratchAtomic (s : State) (tile slot : Nat) (rank : Option Nat) (op : AtomOp) (ty : AtomTy) (m : LaneMem) : State :=
  s.scratchIssue tile slot 7 (atomKeys m.word m.size) m (fun s g p b lanes =>
    if !atomLegal op ty then s.illegal tile slot g p else
    match rank.elim (some (tile, b)) (s.rankBlock b) with
    | none => s.preciseAt tile slot g p .clusterRange 0 0
    | some (t, y) =>
      match scratchFault m lanes y.size (if rank.isSome then .clusterRange else .scratchBounds) with
      | some e => s.preciseAt tile slot g p e.1 0 e.2
      | none =>
        if t = tile then
          let n := portTicks (wordsAddressed y.base m lanes)
          let r := (s.takePort tile n).scratchAtomics t y.base g m op ty lanes
          r.1.finish tile slot ((r.2.readyDst (wDst m.word) (atomBytes ty) (r.1.due (2 + n))).step p 8)
        else s.sendCluster tile slot t y.base g p m (fun id => .clusterAtomic id op ty (lanes.map (fun l =>
          (l, y.base + laneAddr m l, (g.atomArgs m.word ty l).1, (g.atomArgs m.word ty l).2)))))

/-- ATOMIC (R73, R74): on memory one operation goes to the home of each distinct address. -/
def execAtomic (tile slot : Nat) (space : AtomSpace) (op : AtomOp) (ty : AtomTy) (m : LaneMem) (s : State) :
    Host.Outcome State Fault Refusal :=
  let m := { m with size := atomBytes ty }
  match space with
  | .scratch => .next (s.scratchAtomic tile slot none op ty m)
  | .cluster rank => .next (s.scratchAtomic tile slot (some rank) op ty m)
  | .memory =>
    .next (s.memIssue tile slot (atomKeys m.word m.size) m 2 .threadAtomic (laneLegal 7 m && atomLegal op ty) (wDst m.word)
      (fun _ _ _ => true) (fun s g p i lanes =>
      let s : State := if lanes = [] then s else { s with issues := s.issues ++ [i] }
      let s := (atomAddrs m lanes).foldl (fun s a =>
        let args := (lanesAt m lanes a).map (fun l => (a % 128, (g.atomArgs m.word ty l).1, (g.atomArgs m.word ty l).2))
        s.launch { id := 0, issue := i.id, who := .group tile g.uid, ctx := g.ctx, op := .atomic op ty args
                   place := s.placeOf g.ctx a 2 .threadAtomic, va := a, len := m.size, hint := wHint m.word
                   cached := false, flag := false, join := none, stage := .moving }) s
      let g := if lanes = [] then g else g.readyDst (wDst m.word) m.size never
      s.finish tile slot (g.step p 8)))

/-! ## Returns (R93, R231) -/

def AccStage.served? : AccStage → Option (List Byte × List Word64)
  | .served d o => some (d, o)
  | _ => none

/-- The part has all it needs: served, and for a cached load filled. -/
def Access.done (a : Access) : Bool :=
  match a.stage with
  | .served _ _ => !a.cached || a.flag
  | _ => false

/-- The byte of a virtual address among the parts of a load. -/
def partByte (parts : List Access) (va : Nat) : Byte :=
  match parts.find? (fun a => decide (a.va ≤ va) && decide (va < a.va + a.len)) with
  | some a => (match a.stage with
    | .served d _ => d.getD (va - a.va) 0
    | _ => 0)
  | none => 0

/-- What a lane receives: the bytes of a load, or the old value of its atomic. -/
def laneResult (parts : List Access) (i : Issue) (lane : Nat) : List Byte :=
  let va := i.addrs.getD lane 0
  match parts.find? (fun a => a.va == va && (match a.op with | .atomic .. => true | _ => false)) with
  | some a =>
    let before := (lanesOf i.lanes).filter (fun l => decide (l < lane) && i.addrs.getD l 0 == va)
    (match a.stage with
     | .served _ old => leBytes i.size (old.getD before.length 0).toNat
     | _ => leBytes i.size 0)
  | none => (List.range i.size).map (fun k => partByte parts (va + k))

/-- MEMORY_LOAD_RETURN (R93): every part has been served: the registers are written and ready. -/
def execMemoryLoadReturn (id : Nat) (s : State) : Host.Outcome State Fault Refusal :=
  match s.issues.find? (fun i => i.id == id && i.rank.isNone) with
  | none => .next s
  | some i =>
    let parts := s.flights.filter (fun a => a.issue == id)
    if parts.all Access.done then
      let put : Group → Group := fun g =>
        ((lanesOf i.lanes).foldl (fun g l => g.setLane i.dst l i.size (laneResult parts i l)) g).readyDst i.dst i.size 0
      .next ((s.modGroup i.tile i.uid put).endIssue i)
    else .next s

/-- The fault a part returned: poison (R193) or a rejection (R251). -/
def Access.fault (a : Access) : Option Code :=
  match a.stage with
  | .poisoned => some .memUncorrectable
  | .rejected => some .fabricAccess
  | _ => none

/-- DEFERRED_FAULT_RETURN (R93): the operation has no effect; its group, kernel and context stop, and the
record names the instruction. -/
def execDeferredFaultReturn (id : Nat) (s : State) : Host.Outcome State Fault Refusal :=
  match s.issues.find? (fun i => i.id == id) with
  | none => .next s
  | some i =>
    match (s.flights.filter (fun a => a.issue == id)).find? (fun a => a.fault.isSome) with
    | none => .next s
    | some a =>
      let dev := match a.place with
        | .remote d off _ _ => (d, off)
        | _ => (0, a.va)
      let f := { faultOf (a.fault.getD .memUncorrectable) 0 with
        deferred := true, tile := i.tile, slot := i.slot, where' := i.pc, lanes := i.mask
        address := BitVec.ofNat 64 dev.2, device := dev.1
        queue := match s.kernels.find? (fun k => k.id == i.kern) with
          | some k => k.queue
          | none => 0xF }
      .next ((s.takeFault i.ctx none f).endIssue i)

/-- STORE_ACKNOWLEDGEMENT (R231, R326): an acknowledged part, or an applied signal, is over. -/
def execStoreAcknowledgement (id : Nat) (s : State) : Host.Outcome State Fault Refusal :=
  match s.access id with
  | some a =>
    if a.stage = .acked then
      let s : State := { s with flights := s.flights.filter (fun b => b.id != id) }
      match s.issues.find? (fun i => i.id == a.issue) with
      | some i => if s.flights.any (fun b => b.issue == i.id) then .next s else .next (s.endIssue i)
      | none => .next s
    else .next s
  | none => .next (s.modSync (fun y => { y with ops := y.ops.filter (fun o => !(o.id == id && o.applied)) }))

/-! ## The heap (R351) -/

/-- ALLOC: rounded to a power of two of 64 B to 1 GiB and placed by the unit of stack (tile mod 12), or 0. -/
def State.heapAlloc (s : State) (tile : Nat) (c : Nat) (size : Nat) : Nat × State :=
  let x := s.ctx c
  let fail := (0, s.modCtx c (fun x => { x with allocFailed := satAdd 32 x.allocFailed 1 }))
  if size = 0 ∨ 2 ^ 30 < size then fail
  else
    let n := pow2Up size 64 32
    match s.obj x.heap, x.maps.find? (fun m => m.obj == x.heap) with
    | some o, some mp =>
      match Config.heapPick (tile % 12) n (x.heapBlocks.map (fun b => b.1)) with
      | some off =>
        let a := mp.va + off
        let clash := x.heapBlocks.any (fun b => decide (b.1 < a + n) && decide (a < b.1 + b.2))
        if a % n = 0 ∧ off + n ≤ o.size ∧ off + n ≤ mp.len ∧ !clash then
          (a, s.modCtx c (fun x => { x with heapBlocks := x.heapBlocks ++ [(a, n)] }))
        else fail
      | none => fail
    | _, _ => fail

/-- A legal word of the allocator's class 0x6 operations. -/
def heapLegal (op : Nat) (w : Word64) : Bool := wClass w == 6 && wOp w == op && wImm w == 0 && scalarField (wA w)

/-- ALLOC (R351): the group is not ready for at least 40 ticks. -/
def execHeapAlloc (tile slot : Nat) (word : Word64) (s : State) : Host.Outcome State Fault Refusal :=
  .next (s.issue tile slot [keyS (wA word), keyP (wPred word)] (fun s g p =>
    if !heapLegal 0x30 word then s.illegal tile slot g p
    else if g.active p word = 0 then s.finish tile slot (g.step p 8) else
    let r := s.heapAlloc tile g.ctx (g.sreg (wA word)).toNat
    let g := (g.setSreg (wDst word) (BitVec.ofNat 64 r.1)).readyOn (keyS (wDst word)) 0
    r.2.finish tile slot { g.step p 8 with readyAt := s.due 40 }))

/-- FREE (R351). -/
def execHeapFree (tile slot : Nat) (word : Word64) (s : State) : Host.Outcome State Fault Refusal :=
  .next (s.issue tile slot [keyS (wA word), keyP (wPred word)] (fun s g p =>
    if !heapLegal 0x31 word then s.illegal tile slot g p
    else if g.active p word = 0 then s.finish tile slot (g.step p 8) else
    let a := (g.sreg (wA word)).toNat
    if (s.ctx g.ctx).heapBlocks.any (fun b => b.1 == a) then
      let s' := s.modCtx g.ctx (fun x => { x with heapBlocks := x.heapBlocks.filter (fun b => b.1 != a) })
      s'.finish tile slot { g.step p 8 with readyAt := s.due 40 }
    else s.preciseAt tile slot g p .heapFreeInvalid 0 a))

end Sys2Proof.Machine
end

