-- ==== Sys2Proof/Machine/Home.lean ====
section
/-! DEFINITION. What happens at the homes (R202 to R211, R191, R192) and in the cistern (R213 to R215,
R228): the rows of chapters 7 and 8 that serve accesses on their way. -/

namespace Sys2Proof.Machine

/-! ## Serving an access at its home -/

/-- The sectors an access needs valid: a load those it touches, an atomic its whole line (R211). -/
def Access.needs (a : Access) (off : Nat) : Nat :=
  match a.op with
  | .load => sectorsOf off a.len
  | .store _ => 0
  | _ => 15

/-- Poison returned to an access (R192, R223). -/
def State.servePoison (s : State) (a : Access) (line : Nat) : State :=
  ((s.countPoison line).logPoison line).setStage a.id .poisoned

/-- A load whose sectors are at hand: its data, then its hint's effect (R206, R209). -/
def State.serveLoad (s : State) (a : Access) (dpa : Nat) : State :=
  let d := s.homeBytes dpa a.len
  let s := s.setStage a.id (.served d [])
  if a.hint = 3 then s.dropLine (dpa / 128)
  else match s.cached (dpa / 128) with
    | some _ => (s.touchLine (dpa / 128) a.hint id).getD s
    | none => s

def Access.isAtomic (a : Access) : Bool :=
  match a.op with
  | .load | .store _ => false
  | _ => true

/-- The access goes to a line of local memory. -/
def Access.onLine (a : Access) (line : Nat) : Bool :=
  match a.place with
  | .dram d => d / 128 == line
  | _ => false

/-- R202: an earlier access to the line has still to be applied: an atomic that waits for its fill or lies at its unit, or a
request at the slice's input. -/
def State.lineHeld (s : State) (ch line id : Nat) : Bool :=
  s.flights.any (fun b => b.id != id && b.onLine line &&
    ((b.isAtomic && (decide (b.stage = .waiting) || decide (b.stage = .forwarded))) || (s.slice ch).inq.elem b.id))

/-- A request waits at the slice's input (R203); `full` is whether it does for want of a miss register. -/
def State.waitAt (s : State) (ch id : Nat) (full : Bool) : State :=
  let s := (s.setSlice ch { s.slice ch with inq := (s.slice ch).inq ++ [id] }).setStage id .waiting
  if full then s.memCount (ch / 32) (fun c => { c with waitOverflow := satAdd 48 c.waitOverflow 1 }) else s

/-- The line allocated for a fill (R206): a keep request marks it when it is served. -/
def State.allocFor (s : State) (line hint : Nat) : State :=
  if hint = 3 then s else (s.touchLine line (if hint = 1 then 0 else hint) id).getD s

/-- A miss register for sectors of a line, none where all 64 are busy (R203). -/
def State.fillLine (s : State) (line missing hint : Nat) (waiters : List Nat) : Option State :=
  let ch := s.channelOf line
  match (s.slice ch).miss.find? (fun m => m.tag == line) with
  | some m =>
    if m.waiters.length + waiters.length ≤ 16 then
      let s := s.allocFor line hint
      some (s.setSlice ch { s.slice ch with miss := modIf (s.slice ch).miss (fun m => m.tag == line) (fun m =>
        { m with sectors := m.sectors ||| BitVec.ofNat 4 missing, waiters := m.waiters ++ waiters }) })
    else none
  | none =>
    if (s.slice ch).miss.length < 64 then
      let s := s.allocFor line hint
      some (s.setSlice ch { s.slice ch with miss := (s.slice ch).miss ++ [⟨line, 0, BitVec.ofNat 4 missing, waiters, false, []⟩] })
    else none

/-- R203: a miss joins the line's register or takes a free one; otherwise the request waits at the input. -/
def State.missAt (s : State) (a : Access) (line missing : Nat) (again : Bool) : State :=
  match s.fillLine line missing a.hint [a.id] with
  | some s => s.setStage a.id .waiting
  | none => s.waitAt (s.channelOf line) a.id (!again)

/-- R202: an access of local memory reaches its home. -/
def State.serveHome (s : State) (a : Access) (dpa : Nat) (again : Bool) : State :=
  let line := dpa / 128
  let ch := s.channelOf line
  if s.repair.failed.elem ch then s.servePoison a line
  else if s.lineHeld ch line a.id then s.waitAt ch a.id false
  else
    let need := a.needs (dpa % 128)
    let missing := need &&& (15 - s.validAt line)
    match a.op with
    | .store d => (s.storeLine line (dpa % 128) a.hint d).setStage a.id .acked
    | .load => if missing = 0 then s.serveLoad a dpa else s.missAt a line missing again
    | _ => if missing = 0 then s.setStage a.id .forwarded else s.missAt a line missing again

/-- An access of host memory (R336, R343): its translation was made at issue. -/
def State.serveHost (s : State) (a : Access) (iova : Nat) : State :=
  let p := (s.ctx a.ctx).pasid
  match a.op with
  | .load => s.setStage a.id (.served (s.hostRead p iova a.len) [])
  | .store d =>
    ({ s with hostMem := tabWriteMasked s.hostMem 0 (hostKey p iova) d } : State).setStage a.id .acked
  | _ => s

/-- HOME_ACCESS (R202, R230): the access arrives, after those its sluice carries before it. -/
def execHomeAccess (id : Nat) (s : State) : Host.Outcome State Fault Refusal :=
  match s.access id with
  | none => .next s
  | some a =>
    if a.stage ≠ .moving then .next s else
    match a.place, s.arrive id with
    | .dram dpa, some s => .next (s.serveHome a dpa false)
    | .host iova, some s => .next (s.serveHost a iova)
    | _, _ => .next s

/-- The device address of a local access. -/
def Access.dpa? (a : Access) : Option Nat :=
  match a.place with
  | .dram d => some d
  | _ => none

/-- A waiter none of whose sectors is outstanding any more is served. -/
def State.serveWaiter (s : State) (id : Nat) (outstanding : Nat) : State :=
  match s.access id with
  | none => s
  | some a =>
    match a.dpa? with
    | none => s
    | some d =>
      if a.stage = .waiting ∧ a.needs (d % 128) &&& outstanding = 0 then
        match a.op with
        | .load => s.serveLoad a d
        | _ => s.setStage id .forwarded
      else s

/-- Requests that waited at the input try again, in arrival order (R203). -/
def State.retryInput (s : State) (ch : Nat) : State :=
  let x := s.slice ch
  let s := s.setSlice ch { x with inq := [] }
  x.inq.foldl (fun s id =>
    match s.access id with
    | some a => (match a.dpa? with
      | some d => s.serveHome a d true
      | none => s)
    | none => s) s

/-- R191: one symbol in error is corrected, and counted. -/
def State.countCorrected (s : State) (line sector : Nat) (symbols : BitVec 2) : State :=
  if symbols = 1 then
    (s.memCount (s.stackOf line) (fun c => { c with ceSectors := satAdd 48 c.ceSectors 1 })).noteError (line * 4 + sector) false
  else s

/-- R191: the number of symbols of a sector in error, 0 to 3, from its parity and whether it is two or more. -/
def wrongSymbols (odd many : Bool) : BitVec 2 := BitVec.ofBool many ++ BitVec.ofBool odd

/-- R191: two or three symbols in error are found uncorrectable; a sector that is poisoned already stays so (R192). -/
def State.codeCheck (s : State) (line sector : Nat) (symbols : BitVec 2) : State :=
  let s := s.countCorrected line sector symbols
  if 1 < symbols ∧ !s.poison.elem (line * 4 + sector) then s.poisonSector line sector else s

/-- A waiter that needs a poisoned sector gets poison. -/
def State.poisonWaiters (s : State) (ids : List Nat) (line sector : Nat) : State :=
  ids.foldl (fun s id =>
    match s.access id with
    | some a => (match a.dpa? with
      | some d => if (a.needs (d % 128)).testBit sector then s.servePoison a line else s
      | none => s)
    | none => s) s

/-- A sector that DRAM returns for a line with a fill outstanding (R191, R192, R203): merged under the dirty mask, it
serves the waiters; an uncorrectable or poisoned one returns poison. -/
def State.fillSector (s : State) (m : Miss) (line sector : Nat) (symbols : BitVec 2) : State :=
  let ch := s.channelOf line
  let left := m.sectors &&& ~~~(BitVec.ofNat 4 (2 ^ sector))
  let s := s.codeCheck line sector symbols
  let poisoned := s.poison.elem (line * 4 + sector)
  let data := s.fetchSector line sector
  let x := s.slice ch
  let i := s.setOf line
  let x := if poisoned then x else x.setSet i (modIf (x.set i) (fun l => l.tag == line) (fun l => l.fill sector data))
  let misses := if left = 0 then x.miss.filter (fun m => m.tag != line)
    else modIf x.miss (fun m => m.tag == line) (fun m => { m with sectors := left })
  let s := s.setSlice ch { x with miss := misses }
  let s := if poisoned then s.poisonWaiters m.waiters line sector else s
  let s := m.waiters.foldl (fun s id => s.serveWaiter id left.toNat) s
  if left = 0 then s.retryInput ch else s

/-- WRITE_BACK_ACKNOWLEDGEMENT (R204): the buffered bytes are in DRAM and the entry frees. -/
def execWriteBackAcknowledgement (channel line : Nat) (s : State) : Host.Outcome State Fault Refusal :=
  let x := s.slice channel
  match x.wb.find? (fun l => l.tag == line) with
  | none => .next s
  | some l => .next ((s.writeBack l).setSlice channel { x with wb := x.wb.erase l })

/-- PATROL_SCRUB (R191, R192). -/
def execPatrolScrub (channel line sector : Nat) (odd many : Bool) (s : State) : Host.Outcome State Fault Refusal :=
  if s.mod.memTrained ∧ s.channelOf line = channel then .next (s.codeCheck line (sector % 4) (wrongSymbols odd many)) else .next s

/-- R211, R74: the atomic and reduction unit applies an atomic to its line's current contents, the result left as dirty bytes
under its hint; a poisoned line is left alone. Then what waited behind it is served (R202). -/
def State.atomicUnit (s : State) (id : Nat) : State :=
  match s.access id with
  | none => s
  | some a =>
    match a.op, a.place, a.stage with
    | .atomic op ty lanes, .dram dpa, .forwarded =>
      let n := atomBytes ty
      let ch := s.channelOf (dpa / 128)
      if s.poisoned (dpa / 128 * 128) 128 then (s.servePoison a (dpa / 128)).retryInput ch
      else
        let old := BitVec.ofNat 64 (leNat (s.homeBytes dpa n))
        let r := applyLanes op ty old (lanes.map (fun l => (l.2.1, l.2.2)))
        let s := s.storeLine (dpa / 128) (dpa % 128) a.hint ((leBytes n r.2.toNat).map some)
        (s.setStage id (.served [] r.1)).retryInput ch
    | _, _, _ => s

/-! ## The keep sweep (R208) -/

/-- KEEP_CLEAR (R208, R222): a write while a sweep runs has no effect. -/
def doKeepClear (s : State) : State :=
  if s.mod.memTrained ∧ s.keepSweep = none then { s with keepSweep := some ⟨s.tick.toNat, s.wet.toNat, []⟩ } else s
def execKeepClear (s : State) : Host.Outcome State Fault Refusal := .next (doKeepClear s)

/-- The visits a sweep has still to make. -/
def KeepSweep.rest (w : KeepSweep) (s : State) : State :=
  { s with
    slices := s.slices.map (fun e => (e.1, { e.2 with
      sets := e.2.sets.map (fun f => (f.1, if w.done.elem (e.1 * 512 + f.1) then f.2 else unkeepSet f.2)) }))
    cistern := s.cistern.map (fun e => (e.1, if w.done.elem (2 ^ 20 + e.1) then e.2 else unkeepSet e.2)) }

/-- KEEP_SWEEP_END (R208): every set has been visited. -/
def execKeepSweepEnd (s : State) : Host.Outcome State Fault Refusal :=
  match s.keepSweep with
  | some w => .next { w.rest s with keepSweep := none }
  | none => .next s

/-! ## The cistern (R213, R228) -/

/-- The remote place of an access. -/
def Access.remote? (a : Access) : Option (Nat × Nat × Nat) :=
  match a.place with
  | .remote dev off route _ => some (dev, off, route)
  | _ => none

/-- What a load with its hint does to a cistern line once its data is read (R206, R215). -/
def State.cisHint (s : State) (a : Access) (dev n : Nat) : State :=
  if a.hint = 3 then s.cisDrop dev n
  else match s.cisLine dev n with
    | some _ => (s.touchCis dev n a.hint id).getD s
    | none => s

/-- A load served from the bytes of a line. -/
def State.serveCis (s : State) (a : Access) (dev off : Nat) (l : Line) : State :=
  (s.setStage a.id (.served (sliceAt l.data (off % 128) a.len) [])).cisHint a dev (off / 128)

/-- R228: one request for the sectors of a line. -/
def State.fetchCis (s : State) (dev n route mask c : Nat) : State :=
  let lo := (lowBit mask 4).getD 0
  let hi := ((List.range 4).filter (fun k => mask.testBit k)).foldl max 0
  s.sendFabric dev route (.load (n * 128 + 32 * lo) (32 * (hi + 1 - lo))) none none c

/-- An access waits at the input of its cistern slice (R213); `full` is whether it does for want of a miss register. -/
def State.waitCis (s : State) (id sl : Nat) (full : Bool) : State :=
  let s := ({ s with cisInq := s.cisInq ++ [id] } : State).setStage id .waiting
  if full then s.cisCount sl (fun c => { c with waitOverflow := satAdd 48 c.waitOverflow 1 }) else s

/-- Another access to the line waits at the input: the present one stays behind it. -/
def State.cisHeld (s : State) (dev n id : Nat) : Bool :=
  s.cisInq.any (fun k => k != id && (match s.access k with
    | some b => b.remote?.any (fun r => r.1 == dev && r.2.1 / 128 == n)
    | none => false))

/-- R213: the line has 16 waiters, or has none and all 512 registers of its slice are busy. -/
def State.cisFull (s : State) (dev n : Nat) : Bool :=
  let mine := s.cisMiss.filter (fun m => m.isFab dev n)
  decide (16 ≤ mine.foldl (fun k m => k + m.waiters.length) 0) ||
  (mine.isEmpty && decide (512 ≤ ((s.cisMiss.filter (fun m => cisSlice m.dev m.tag == cisSlice dev n)).map (fun m => (m.dev, m.tag))).dedup.length))

/-- R213, R228: a cistern miss takes its sectors from one request: one that is out and brings them all, or its own. -/
def State.missCis (s : State) (a : Access) (dev off route mask : Nat) (again : Bool) : State :=
  let n := off / 128
  if s.cisFull dev n then s.waitCis a.id (cisSlice dev n) (!again)
  else
    match (if a.hint = 3 then some s else s.touchCis dev n (if a.hint = 1 then 0 else a.hint) id) with
    | none => s.waitCis a.id (cisSlice dev n) false
    | some s =>
      let s := s.setStage a.id .waiting
      let fits : Miss → Bool := fun m => m.isFab dev n && !m.discard && m.sectors.toNat &&& mask == mask
      match s.cisMiss.find? fits with
      | some m => { s with cisMiss := modIf s.cisMiss (fun x => x == m) (fun x => { x with waiters := x.waiters ++ [a.id] }) }
      | none =>
        ({ s with cisMiss := s.cisMiss ++ [⟨n, dev, BitVec.ofNat 4 mask, [a.id], false, []⟩] } : State).fetchCis dev n route mask a.ctx

/-- A load at its cistern slice: a hit is served at once. -/
def State.loadCis (s : State) (a : Access) (dev off route : Nat) (again : Bool) : State :=
  if s.cisHeld dev (off / 128) a.id then s.waitCis a.id 0 false
  else
    let mask := cisFetchMask (s.cisLine dev (off / 128)) (off % 128) a.len
    match s.cisLine dev (off / 128), mask with
    | some l, 0 => s.serveCis a dev off l
    | _, _ => s.missCis a dev off route mask again

/-- A store that goes past the cistern (R214, R234): the dirty bytes of its line first. -/
def State.storePast (s : State) (a : Access) (dev off route : Nat) (d : List (Option Byte)) : State :=
  ((s.flushFirst dev (off / 128) route a.ctx).sendFabric dev route (.store off d) (some a.id) none a.ctx).setStage a.id .forwarded

/-- A thread-plane store at its cistern slice: held as dirty bytes with no fetch; accepted, so acknowledged (R231). A multicast
store is never held (R214). -/
def State.storeCis (s : State) (a : Access) (dev off route : Nat) (d : List (Option Byte)) : State :=
  if 65536 ≤ dev then s.storePast a dev off route d
  else if s.cisHeld dev (off / 128) a.id then s.waitCis a.id 0 false
  else match s.cisStore dev (off / 128) route (off % 128) a.hint d with
    | some s => s.setStage a.id .acked
    | none => s.waitCis a.id 0 false

/-- Accesses that waited at the cistern's input try again, in arrival order. -/
def State.retryCis (s : State) : State :=
  s.cisInq.foldl (fun s id =>
    match s.access id with
    | some a => (match a.remote?, a.op with
      | some (dev, off, route), .load => s.loadCis a dev off route true
      | some (dev, off, route), .store d => s.storeCis a dev off route d
      | _, _ => s)
    | none => s) ({ s with cisInq := [] } : State)

/-- CISTERN_LOAD (R213, R228): a hit is served at once; a miss fetches its sectors in one request. -/
def execCisternLoad (id : Nat) (s : State) : Host.Outcome State Fault Refusal :=
  match s.access id with
  | none => .next s
  | some a =>
    match a.remote?, a.op, a.stage, s.arrive id with
    | some (dev, off, route), .load, .moving, some s => .next (s.loadCis a dev off route false)
    | _, _, _, _ => .next s

/-- CISTERN_STORE (R213). -/
def execCisternStore (id : Nat) (s : State) : Host.Outcome State Fault Refusal :=
  match s.access id with
  | none => .next s
  | some a =>
    match a.remote?, a.op, a.stage, s.arrive id with
    | some (dev, off, route), .store d, .moving, some s => .next (s.storeCis a dev off route d)
    | _, _, _, _ => .next s

/-- The sectors that arrived. -/
def gotSectors (data : List (Option (List Byte))) : Nat :=
  (List.range 4).foldl (fun a i => if (data.getD i none).isSome then a + 2 ^ i else a) 0

/-- The sectors that arrived, put into a line under its dirty mask. -/
def fillSectors (data : List (Option (List Byte))) (l : Line) : Line :=
  (List.range 4).foldl (fun l k => match data.getD k none with
    | some d => l.fill k d
    | none => l) l

/-- Bytes that are newer than a fill, where the line is not dirty (R237). -/
def Line.keepNewer (l : Line) (o : List (Option Byte)) : Line :=
  { l with data := overlayBytes l.data ((List.range 128).map (fun i => if l.dirty.getLsbD i then none else o.getD i none)) }

/-- A line as a fill makes it: the sectors that arrived, or the pattern where the line was dropped under DEAD_POISON (R215),
under the bytes that are newer (R237) and the dirty ones. -/
def State.filledLine (s : State) (dev line : Nat) (m : Miss) (data : List (Option (List Byte))) : Line :=
  let dead := s.cisDead.elem (dev, line)
  let d := (List.range 4).map (fun k => (data.getD k none).map (fun d => if dead then (List.range 32).map deadByte else d))
  (fillSectors d ((s.cisLine dev line).getD (Line.new line dev 0))).keepNewer m.newer

/-- CISTERN_FILL_COMPLETION (R228, R236): the sectors of one request arrive, are overlaid by the dirty bytes, and serve the
waiters; a line that is still held, and that no acquire or invalidation has met, keeps them. -/
def execCisternFillCompletion (dev line : Nat) (data : List (Option (List Byte))) (s : State) : Host.Outcome State Fault Refusal :=
  match s.cisMiss.find? (fun m => m.isFab dev line && m.sectors.toNat == gotSectors data) with
  | none => .next s
  | some m =>
    let l := s.filledLine dev line m data
    let k := cisKey dev line
    let s : State := { s with cisMiss := s.cisMiss.erase m }
    let s := if m.discard then s else s.setCis k (modIf (tabGet s.cistern [] k) (fun x => x.isFab dev line) (fun _ => l))
    let s := m.waiters.foldl (fun s id =>
      match s.access id with
      | some a => (match a.remote? with
        | some (_, off, _) => if a.stage = .waiting then s.serveCis a dev off l else s
        | none => s)
      | none => s) s
    .next s.retryCis

/-- CISTERN_EVICTION (R213): the set's victim leaves, its dirty bytes as one write on its recorded route; lines of revoked
devices do not (R244). -/
def execCisternEviction (slice set : Nat) (s : State) : Host.Outcome State Fault Refusal :=
  let k := slice % 4 * 8192 + set % 8192
  let s := s.sweepCis k
  let lines := demoteKeep s.keepCap (tabGet s.cistern [] k)
  match victim (fun l => (s.cisMissOf l.dev l.tag).isSome || s.revokedDevs.elem l.dev) lines with
  | none => .next s
  | some v =>
    let s := if !v.keep && decide (s.keepCap ≤ keepCount lines) then
        s.cisCount (slice % 4) (fun c => { c with keepPressure := satAdd 48 c.keepPressure 1 }) else s
    .next ((s.setCis k (lines.filter (fun l => !l.isFab v.dev v.tag))).sendDirty v v.route numCtxs).retryCis

/-- REMOTE_ATOMIC_FORWARD (R214): the line's dirty bytes leave first on the operation's route, the operation
follows, and the copy is invalidated. -/
def execRemoteAtomicForward (id : Nat) (s : State) : Host.Outcome State Fault Refusal :=
  match s.access id with
  | none => .next s
  | some a =>
    match a.remote?, a.op, a.stage, s.arrive id with
    | some (dev, off, route), .atomic op ty lanes, .moving, some s =>
      .next (((s.flushFirst dev (off / 128) route a.ctx).sendFabric dev route (.atomic off op ty lanes) (some id) none a.ctx).setStage id .forwarded)
    | some (dev, off, route), .store d, .moving, some s =>
      .next (if 65536 ≤ dev then s.storePast a dev off route d else s)
    | _, _, _, _ => .next s

/-- What carries an access's item to its end: the effect of its arrival (R37). -/
def State.serveAccess (s : State) (a : Access) : State :=
  match a.place, a.op with
  | .dram dpa, _ => s.serveHome a dpa false
  | .host iova, _ => s.serveHost a iova
  | .remote dev off route _, .load => s.loadCis a dev off route false
  | .remote dev off route _, .store d => s.storeCis a dev off route d
  | .remote dev off route _, .atomic op ty lanes =>
    ((s.flushFirst dev (off / 128) route a.ctx).sendFabric dev route (.atomic off op ty lanes) (some a.id) none a.ctx).setStage a.id .forwarded
  | .remote .., .redLine .. => s

end Sys2Proof.Machine
end

