-- ==== Sys2Proof/Machine/Ordering.lean ====
section
/-! DEFINITION. Ordering instructions (R232 to R236) and the end of their cistern walks (R216). -/

namespace Sys2Proof.Machine

/-- R232: class 0xB executes once for the whole group: PRED p7, PNEG 0, and of IMM only the bits defined. -/
def orderLegal (op : Nat) (w : Word64) (immMax : Nat) : Bool :=
  plainWord 0xB immMax w && wOp w == op && decide (wPred w = 7) && !wPneg w

/-- An ordering instruction issued: illegal, or `f`; a range instruction has two scalar sources. -/
def State.order (s : State) (tile slot op : Nat) (w : Word64) (immMax : Nat) (range : Bool) (f : State → Group → State) : State :=
  s.issue tile slot (if range then scalarKeys w else [keyP (wPred w)]) (fun s g p =>
    if orderLegal op w immMax && (!range || wImm w == 1 || scalarPair w) then f s (g.step p 8) else s.illegal tile slot g p)

/-- The group waits for a cistern walk; a flush's begins once its earlier accesses are over (R232). -/
def State.startWalk (s : State) (tile slot : Nat) (g : Group) (kind : WalkKind)
    (rs : Option (List (Nat × Nat × Nat))) : State :=
  let begun := decide (kind = .acquire) || s.fenced tile g.uid
  let w : Walk := { id := s.nextId, kind := kind, ranges := rs, who := .group tile g.uid
                    untilTick := if begun then some (s.wet.toNat + walkTicks rs) else none, acks := [], ended := false }
  let s : State := { s.fresh with walks := s.walks ++ [w] }
  s.finish tile slot { g with hold := .walk w.id, since := s.hal.ms }

/-- FENCE_REL (R232): the group is not ready until its earlier accesses are over. -/
def execFenceRel (tile slot : Nat) (word : Word64) (s : State) : Host.Outcome State Fault Refusal :=
  .next (s.order tile slot 0x40 word 0 false (fun s g =>
    s.finish tile slot (if s.fenced tile g.uid then g else { g with hold := .fence, since := s.hal.ms })))

/-- The lines of a range instruction (R232). -/
def State.wordRange (s : State) (g : Group) (w : Word64) : List (Nat × Nat × Nat) :=
  let len := (g.sreg (wB w)).toNat
  if len = 0 then [] else s.rangeLines g.ctx (g.sreg (wA w)).toNat len

/-- ACQUIRE (R236): IMM[0] selects the whole cistern. -/
def execAcquire (tile slot : Nat) (word : Word64) (s : State) : Host.Outcome State Fault Refusal :=
  .next (s.order tile slot 0x41 word 1 true (fun s g =>
    s.startWalk tile slot g .acquire (if wImm word = 1 then none else some (s.wordRange g word))))

/-- FLUSH (R233). -/
def execFlush (tile slot : Nat) (word : Word64) (s : State) : Host.Outcome State Fault Refusal :=
  .next (s.order tile slot 0x42 word 0 true (fun s g => s.startWalk tile slot g .flush (some (s.wordRange g word))))

/-- FENCE_ORD (R232). -/
def execFenceOrd (tile slot : Nat) (word : Word64) (s : State) : Host.Outcome State Fault Refusal :=
  .next (s.order tile slot 0x43 word 0 false (fun s g => s.startWalk tile slot g .flush none))

/-- The walks whose write-backs are all acknowledged: whoever waited goes on (R232). -/
def State.endWalks (s : State) : State :=
  let done : Walk → Bool := fun w => w.ended && w.acks == [] && decide (w.who ≠ .device)
  let ended := s.walks.filter done
  let s : State := { s with walks := dropIf s.walks done }
  ended.foldl (fun s w => match w.who with
    | .group t u => s.modGroup t u (fun g => if g.hold = .walk w.id then { g with hold := .none } else g)
    | _ => s) s

/-- The context a walk's write-backs belong to. -/
def State.walkCtx (s : State) (w : Walk) : Nat :=
  match w.who with
  | .group t u => (match s.slotOf t u with
    | some slot => ((s.group t slot).map (fun g => g.ctx)).getD 0
    | none => 0)
  | .queue c _ => c
  | _ => 0

/-- R241: the writes of a range that left earlier, by an eviction or another flush, serve a flush as well. -/
def State.storesOut (s : State) (rs : Option (List (Nat × Nat × Nat))) : List (Nat × Nat × Nat) :=
  (s.fab.out.filter (fun r => match r.op with
    | .store o _ => inRanges rs (Line.new (o / 128) r.dev 0)
    | _ => false)).map (fun r => (r.dev, r.route, r.seq))

/-- CISTERN_WALK_END (R216, R233, R236): every slice has examined the walk's lines. A flush's dirty lines have
left and their acknowledgements are awaited; an acquire's copies are discarded and the tile's read-only
cache is empty (R78). -/
def execCisternWalkEnd (walk : Nat) (s : State) : Host.Outcome State Fault Refusal :=
  match s.walks.find? (fun w => w.id == walk && !w.ended) with
  | none => .next s
  | some w =>
    match w.untilTick, w.kind with
    | none, _ => .next s
    | some t, .flush =>
      let s := s.waitWet t
      let out := s.storesOut w.ranges
      let r := s.writeBackLines w.ranges (s.walkCtx w)
      let s : State := { r.1 with walks := modIf r.1.walks (fun x => x.id == walk) (fun x => { x with acks := out ++ r.2, ended := true }) }
      .next s.endWalks
    | some t, .acquire =>
      let s := (s.waitWet t).acquireLines w.ranges
      let s : State := { s with walks := s.walks.filter (fun x => x.id != walk) }
      (match w.who with
       | .group tile u =>
         .next ((s.emptyRo tile).modGroup tile u (fun g =>
           if g.hold = .walk walk then { g with hold := if s.loadsOut tile u then .loads else .none } else g))
       | _ => .next s)
    | some _, .revoke => .next s

end Sys2Proof.Machine
end

