-- ==== Sys2Proof/Machine/Matrix.lean ====
section
/-! DEFINITION. Matrix instructions (R86 to R90, R104 to R125, R510): parking and divergence, the checks at issue,
the command queue, and what each command does when it begins. -/

namespace Sys2Proof.Machine

/-! ## Sharing with a timed region (R89, R90, R289) -/

/-- A region runs on the tile, or, of the array and the DMA engine, launches there (R300 step 2). -/
def State.claimed (s : State) (tile : Nat) (launching : Bool) : Bool :=
  (s.tile tile).flume.active && (match s.timed.region with
    | some r => decide (r.stage = .running) || launching
    | none => false)

/-- Resources: 0 array and basin, 1 tile DMA engine, 2 row engine. A thread-plane use of `n` ticks must wait:
the tile is a region's and no released span is long enough. -/
def State.owned (s : State) (tile resource n : Nat) : Bool :=
  s.claimed tile (resource != 2) &&
  !(s.tile tile).flume.released.any (fun e => e.1 == resource && decide (s.wet.toNat + n ≤ e.2))

/-- The block and the capture buffer as they will be when every queued command has begun: mode, format, and
the captured rows' format. -/
def viewStep (v : Nat × Nat × Option Nat) (c : MCmd) : Nat × Nat × Option Nat :=
  if c.op = mLoad then (mlMode c.word, if mlCapture c.word then v.2.2.getD 2 else mlFmt c.word, v.2.2)
  else if c.op = mPass ∧ bit (wImm c.word) 6 then (v.1, v.2.1, some (mlFmt c.word))
  else v

def MArray.view (x : MArray) : Nat × Nat × Option Nat :=
  x.cmds.foldl viewStep (x.mode, x.fmt, x.capture.map (fun c => c.1))

/-! ## Checks (R97, R101, R107 to R110, R120, R121, R123, R125) -/

/-- R108, R117: the formats a pass may pair. -/
def pairAllowed (mode a b : Nat) : Bool :=
  match mode with
  | 0 => (([2, 3].elem a && [2, 3].elem b) || ([4, 5].elem a && [4, 5].elem b) || ([0, 1].elem a && [0, 1].elem b) ||
          (a == b && (a == 6 || a == 7)))
  | 1 | 2 | 6 => a == b && [0, 1, 2, 4].elem a
  | 3 | 4 => a == b && [0, 2, 4].elem a
  | 5 => a == 8 && b == 8
  | _ => a == 5 && b == 5

/-- R101, R103: the alignment of an operand. -/
def operandAligned (fmt base : Nat) : Bool :=
  if kvecFmt fmt then base % 4 == 0 else base % tileSize (wideFmt fmt) == 0

/-- The scratch bytes of M streaming rows (R109). -/
def streamSpan (fmt rows : Nat) : Nat :=
  if kvecFmt fmt then rows * kPitch fmt
  else (rows + tileSide (wideFmt fmt) - 1) / tileSide (wideFmt fmt) * tileSize (wideFmt fmt)

def ill : Option (Code × Nat) := some (.illegalInstruction, 0)

/-- An operand at `base` of `n` bytes in a window. -/
def operandFault (fmt base n win : Nat) : Option (Code × Nat) :=
  if !operandAligned fmt base then some (.misalignedAccess, base)
  else if win < base + n then some (.scratchBounds, base) else none

/-- Basin rows of a width. -/
def basinFault (first rows w : Nat) : Option (Code × Nat) :=
  if basinWords < (first + rows) * w then some (.basinRange, first) else none

def orElse (a b : Option (Code × Nat)) : Option (Code × Nat) := match a with
  | some x => some x
  | none => b

def loadFault (v : Nat × Nat × Option Nat) (win : Nat) (c : MCmd) : Option (Code × Nat) :=
  let w := c.word
  if 512 ≤ wImm w then ill
  else if mlCapture w then
    (if wA w ≠ 0 ∨ mlFmt w ≠ 0 ∨ mlTrans w ∨ v.2.2.isNone then ill else none)
  else if 8 < mlFmt w ∨ (mlTrans w ∧ (kvecFmt (mlFmt w) || mlFmt w == 8)) then ill
  else
    let n := if kvecFmt (mlFmt w) then 256 * kPitch (mlFmt w) else tileSize (wideFmt (mlFmt w))
    operandFault (mlFmt w) c.a.toNat n win

def passFault (v : Nat × Nat × Option Nat) (loaded : Bool) (win : Nat) (c : MCmd) : Option (Code × Nat) :=
  let w := c.word
  let f := mlFmt w
  let m := rowCount c.b
  let se := expField c.b
  let g := gridOf f
  if 512 ≤ wImm w ∨ !loaded ∨ 8 < f ∨ !pairAllowed v.1 f v.2.1 ∨ m = 0 ∨ 2 ^ 40 ≤ c.b.toNat then ill
  else if bit (wImm w) 4 ∧ (kvecFmt f || f == 8) then ill
  else if mpTerm w = 3 ∨ (mpTerm w ≠ 0 ∧ v.1 ≠ 7) then ill
  else if se < -64 ∨ 63 < se ∨ (se ≠ 0 ∧ (!(v.1 == 0 || v.1 == 7) || intBasin v.1 v.2.1)) then ill
  else if bit (wImm w) 6 ∧ (m ≠ g.1 ∨ kvecFmt f ∨ f = 8) then ill
  else orElse (operandFault f c.a.toNat (streamSpan f m) win) (basinFault (firstRow c.b) m (basinWidth v.1 v.2.1))

def drainFault (v : Nat × Nat × Option Nat) (win : Nat) (c : MCmd) : Option (Code × Nat) :=
  let w := c.word
  let o := mlFmt w
  let diagonal := bit (wImm w) 4
  let n := if v.1 = 7 then 32 else basinWidth v.1 v.2.1
  if 128 ≤ wImm w ∨ rowCount c.b = 0 ∨ 2 ^ 40 ≤ c.b.toNat then ill
  else match outBytes o with
  | none => ill
  | some e =>
    if !drainTarget (intBasin v.1 v.2.1) o ∨ (diagonal ∧ e = 4) then ill
    else if diagonal ∧ c.a.toNat % tileSize (e == 2) ≠ 0 then some (.misalignedAccess, c.a.toNat)
    else if win < c.a.toNat + drainSpan (rowCount c.b) n e diagonal then some (.scratchBounds, c.a.toNat)
    else basinFault (firstRow c.b) (rowCount c.b) (basinWidth v.1 v.2.1)

def diagFault (diag : Bool) (win : Nat) (c : MCmd) : Option (Code × Nat) :=
  if !diag then some (.privilegedInstruction, 0)
  else if wImm c.word ≠ 0 ∨ rowCount c.c = 0 then ill
  else orElse (operandFault 2 c.a.toNat (streamSpan 2 (rowCount c.c)) win)
    (orElse (operandFault 2 c.b.toNat (streamSpan 2 (rowCount c.c)) win) (basinFault (firstRow c.c) (rowCount c.c) 64))

/-- What a matrix operation raises at issue, if anything; `win` is the size of the scratch window. -/
def matrixFault (v : Nat × Nat × Option Nat) (loaded diag : Bool) (win : Nat) (c : MCmd) : Option (Code × Nat) :=
  if c.op = mLoad then loadFault v win c
  else if c.op = mPass then passFault v loaded win c
  else if c.op = mDrain then drainFault v win c
  else if c.op = mDiag then diagFault diag win c
  else if wImm c.word ≠ 0 then ill
  else if c.op = mZero then
    (if rowCount c.b = 0 then ill else basinFault (firstRow c.b) (rowCount c.b) (basinWidth v.1 v.2.1))
  else if c.op = mBread ∨ c.op = mBwrite then basinFault c.b.toNat 1 64
  else none

/-! ## When a command begins (R105, R111 to R113, R100) -/

/-- R111, R112: the earliest start of the front of a block of format `fmt`. -/
def MArray.frontFrom (x : MArray) (fmt : Nat) : Nat :=
  let afterEntry := x.lastEntry.elim 0 (fun e => e + 1)
  let spacing := x.front.elim 0 (fun f => f.1 + (gridOf f.2).2)
  let other := if gridKind x.fmt = gridKind fmt then 0 else x.lastUpdate.elim 0 (fun u => u + 1)
  max afterEntry (max spacing other)

/-- R105, R124: the earliest first entry. -/
def MArray.entryFrom (x : MArray) : Nat := max (x.lastEntry.elim 0 (fun e => e + 1)) (x.front.elim 0 (fun f => f.1))

/-- The format of the block an MLOAD brings. -/
def MArray.loadFmt (x : MArray) (w : Word64) : Nat := if mlCapture w then (x.capture.elim 2 (fun c => c.1)) else mlFmt w

/-- The first basin row an operation reads or writes, and its width. -/
def MArray.firstOf (x : MArray) (c : MCmd) : Nat × Nat :=
  if c.op = mDiag then (firstRow c.c, 64)
  else if c.op = mBread ∨ c.op = mBwrite then (c.b.toNat, 64)
  else (firstRow c.b, basinWidth x.mode x.fmt)

/-- R105: the first tick in which a command may begin. A drain or basin access begins after a drain or diagonal run in
progress has taken its last row (DESIGN CHOICE, assumption 136). -/
def MArray.beginAt (x : MArray) (c : MCmd) : Nat :=
  let t := c.tick + 2
  if c.op = mLoad then max t (x.frontFrom (x.loadFmt c.word))
  else if c.op = mPass then max t x.entryFrom
  else if c.op = mEnd then t
  else
    let r := x.firstOf c
    max (max t x.sweepsEnd) (x.rowFree (r.1 * r.2) ((r.1 + 1) * r.2))

/-! ## What a command does (R98, R100, R106, R110, R117 to R123) -/

/-- MLOAD at front start `t`: a new current block; a block from the capture buffer needs no port (R112). -/
def MArray.loadBlock (x : MArray) (c : MCmd) (t : Nat) : MArray :=
  let fmt := x.loadFmt c.word
  let from_ := mlCapture c.word
  let num := (x.blocks.getLast?.elim 0 (fun f => f.num)) + 1
  let f : Front := { num := num, start := t, base := c.base + c.a.toNat, trans := mlTrans c.word, mode := mlMode c.word, fmt := fmt
                     read := if from_ then (gridOf fmt).2 else 0, scales := []
                     codes := if from_ then (x.capture.elim [] (fun k => k.2)) else [] }
  { x with
    blocks := x.blocks.filter (fun b => x.passes.any (fun p => p.num == b.num && !(p.entered == p.rows && p.flight.isEmpty))) ++ [f]
    mode := mlMode c.word, fmt := fmt, front := some (t, fmt) }

/-- MPASS with first entry `t`: its rows enter in the wet ticks from `t` on (R105). -/
def MArray.startPass (x : MArray) (c : MCmd) (t : Nat) : MArray :=
  let g := gridOf x.fmt
  let m := rowCount c.b
  let w := c.word
  let p : Pass := { start := t, rows := m, first := firstRow c.b, width := basinWidth x.mode x.fmt, kst := g.1, nst := g.2
                    num := x.blocks.getLast?.elim 0 (fun f => f.num), fmt := mlFmt w, base := c.base + c.a.toNat
                    trans := bit (wImm w) 4, acc := bit (wImm w) 5, capture := bit (wImm w) 6, scaleExp := expField c.b
                    live := c.live, entered := 0, flight := [] }
  let upd := p.update (m - 1)
  { x with
    capture := if bit (wImm w) 6 then some (mlFmt w, []) else x.capture
    lastEntry := some (t + m - 1)
    lastUpdate := some (max upd (x.lastUpdate.getD 0))
    passes := x.passes.filter (fun p => decide (t ≤ p.update p.rows) || !p.flight.isEmpty) ++ [p] }

/-- MBREAD: words 2k and 2k + 1 for each live lane k, ready 3 ticks later (R100). The register after v127 is v0 (DESIGN
CHOICE, assumption 137). -/
def giveRow (c : MCmd) (row : List Word32) (t : Nat) (g : Group) : Group :=
  let d := wDst c.word
  let g := (lanesOf c.live).foldl (fun g k =>
    (g.setVreg d k (row.getD (2 * k) 0)).setVreg ((d + 1) % 128) k (row.getD (2 * k + 1) 0)) g
  (g.readyOn (keyV d) (t + 3)).readyOn (keyV ((d + 1) % 128)) (t + 3)

/-- MBWRITE: the words of each live lane; those of an exited lane stay (DESIGN CHOICE, assumption 137). -/
def takeRow (c : MCmd) (b : Tab Word32) : Tab Word32 :=
  (lanesOf c.live).foldl (fun b k => tabWrite b 0 (c.b.toNat * 64 + 2 * k) [c.data.getD (2 * k) 0, c.data.getD (2 * k + 1) 0]) b

/-- An MDRAIN or MDIAG begun at `t`: its rows follow. -/
def MArray.startSweep (x : MArray) (c : MCmd) (t : Nat) (place : Option Nat) : MArray :=
  { x with sweeps := x.sweeps ++ [{ cmd := c, mode := x.mode, fmt := x.fmt, next := 0, due := t, place := place }] }

/-- What a command begun at wet tick `t` does to the array. -/
def MArray.begin_ (a : MArray) (c : MCmd) (t : Nat) (place : Option Nat) : MArray :=
  if c.op = mLoad then a.loadBlock c t
  else if c.op = mPass then a.startPass c t
  else if c.op = mDrain ∨ c.op = mDiag then a.startSweep c t place
  else if c.op = mZero then
    { a with basin := fillRows a.basin (firstRow c.b) (rowCount c.b) (basinWidth a.mode a.fmt) (initWord a.mode a.fmt) }
  else if c.op = mBread then a
  else if c.op = mBwrite then { a with basin := takeRow c a.basin }
  else a.release c.uid

/-- A command begun at wet tick `t` (R105); `place` is its flume entry's address. -/
def State.beginMatrix (s : State) (tile : Nat) (c : MCmd) (t : Nat) (place : Option Nat) : State :=
  let x := (s.tile tile).settled tile t
  let s := s.modTile tile (fun _ => { x with array := x.array.begin_ c t place })
  if c.op = mBread then s.modGroup tile c.uid (giveRow c (tabRange x.array.basin 0 (c.b.toNat * 64) 64) t) else s

/-- The oldest command leaves the queue and begins, in the first tick allowed. -/
def State.beginOldest (s : State) (tile : Nat) : State :=
  match (s.tile tile).array.cmds with
  | [] => s
  | c :: rest =>
    let s := s.waitWet ((s.tile tile).array.beginAt c)
    let s := s.modTile tile (fun x => { x with array := { x.array with cmds := rest } })
    s.beginMatrix tile c s.wet.toNat none

/-- The ticks a matrix instruction needs of the array (R90). -/
def matrixTicks (v : Nat × Nat × Option Nat) (c : MCmd) : Nat :=
  let fmt := if c.op = mLoad then (if mlCapture c.word then v.2.2.getD 2 else mlFmt c.word) else v.2.1
  let g := gridOf fmt
  if c.op = mLoad then g.2
  else if c.op = mPass then rowCount c.b + g.1 + g.2 + 4
  else if c.op = mDrain then (if basinWidth v.1 v.2.1 = 256 then 4 else 1) * rowCount c.b
  else if c.op = mDiag then rowCount c.c
  else 1

/-- R90: at the tick in which the oldest command would begin, the region has the array and no span that holds the command
to its end. -/
def State.beginOwned (s : State) (tile : Nat) : Bool :=
  match (s.tile tile).array.cmds with
  | [] => false
  | c :: _ =>
    let a := (s.tile tile).array
    (s.waitWet (a.beginAt c)).owned tile 0 (matrixTicks (a.mode, a.fmt, a.capture.map (fun k => k.1)) c)

/-- MATRIX_COMMAND_BEGIN (R105). -/
def execMatrixCommandBegin (tile : Nat) (s : State) : Host.Outcome State Fault Refusal :=
  if !s.running ∨ (s.claimed tile false ∧ s.beginOwned tile) then .next s else .next (s.beginOldest tile)

/-! ## Issue (R86 to R88, R90, R104) -/

/-- The path that reaches a matrix instruction, or the parked path where every live path already waits at
it. -/
def Group.matrixPath (g : Group) : Option (Group × Path) :=
  let g := g.atTurn
  match g.cur with
  | some p => some (g, p)
  | none => match g.paths with
    | [p] => if p.park = .matrix then some (g, p) else none
    | _ => none

/-- R87: another path is parked at a matrix instruction of another address. -/
def Group.divergent (g : Group) (p : Path) : Option Path := g.paths.find? (fun q => q.park == .matrix && q.pc != p.pc)

/-- R87: the precise fault names both addresses and both lane masks. -/
def State.divergence (s : State) (tile slot : Nat) (g : Group) (p q : Path) : State :=
  s.takeFault g.ctx none { faultOf .matrixDivergence 0 with
    tile := tile, slot := slot, where' := p.pc, lanes := p.mask, address2 := q.pc, lanes2 := q.mask
    queue := match s.kernels.find? (fun k => k.id == g.kern) with
      | some k => k.queue
      | none => 0xF }

/-- R86: some live path is not yet at this instruction. -/
def Group.othersOut (g : Group) (p : Path) : Bool := g.paths.any (fun q => q != p && !(q.park == .matrix && q.pc == p.pc))

/-- The sources of a matrix instruction (R106). -/
def matrixKeys (op : Nat) (w : Word64) : List Nat :=
  if op = mLoad then [keyS (wA w)]
  else if op = mPass then [keyS (wA w), keyS (wB w)]
  else if op = mDrain ∨ op = mDiag then [keyS (wA w), keyS (wB w), keyS (wC w)]
  else if op = mZero ∨ op = mBread then [keyS (wB w)]
  else if op = mBwrite then [keyV (wA w), keyV ((wA w + 1) % 128), keyS (wB w)]
  else []

/-- R63: the source fields that name scalars. -/
def matrixScalars (op : Nat) (w : Word64) : Bool :=
  if op = mLoad then scalarField (wA w)
  else if op = mPass then scalarField (wA w) && scalarField (wB w)
  else if op = mDrain ∨ op = mDiag then scalarField (wA w) && scalarField (wB w) && scalarField (wC w)
  else if op = mZero ∨ op = mBread ∨ op = mBwrite then scalarField (wB w)
  else true

/-- R63, R86, R106: a word of class 8 with this operation, HINT 0 and predicate p7. -/
def matrixWord (op : Nat) (w : Word64) : Bool :=
  wClass w == 8 && wOp w == op && wPred w == 7 && !wPneg w && wHint w == 0 && matrixScalars op w

/-- The command a group issues, its sources read. -/
def State.matrixCmd (s : State) (g : Group) (b : Block) (slot op : Nat) (w : Word64) : MCmd :=
  let sd := s.seedOf g
  { op := op, word := w, a := g.sreg (wA w), b := g.sreg (wB w), c := g.sreg (wC w), tick := 0
    live := g.live, slot := slot, uid := g.uid, base := b.base
    data := if op = mBwrite then (List.range 64).map (fun i => g.vreg ((wA w + i % 2) % 128) (i / 2)) else []
    seed := sd.1, step := sd.2 }

/-- R88, R104, R105: the array takes the command: no other group holds it, no MEND waits in its queue, and an entry is free. -/
def MArray.accepts (a : MArray) (uid : Nat) : Bool :=
  (a.holder.isNone || a.holder == some uid) && decide (a.cmds.length < 4) && !a.cmds.any (fun c => c.op == mEnd)

/-- A command accepted: the array is the group's, and the command waits or, a MEND with nothing queued, releases. -/
def MArray.accept (a : MArray) (c : MCmd) (t : Nat) : MArray :=
  let mine := a.holder == some c.uid
  let a : MArray := { a with holder := some c.uid, loaded := (mine && a.loaded) || c.op == mLoad }
  if c.op = mEnd ∧ a.cmds = [] then a.release c.uid else { a with cmds := a.cmds ++ [{ c with tick := t }] }

/-- The instruction issues (R86, R105): its fault, or its command accepted. -/
def State.matrixIssue (s : State) (tile slot : Nat) (g : Group) (p : Path) (b : Block) (c : MCmd) : State :=
  let a := (s.tile tile).array
  match matrixFault a.view (a.holder == some g.uid && a.loaded) a.diag b.size c with
  | some e => s.preciseAt tile slot g p e.1 0 e.2
  | none =>
    let g := if c.op = mBread then (g.readyOn (keyV (wDst c.word)) never).readyOn (keyV ((wDst c.word + 1) % 128)) never else g
    (s.modTile tile (fun x => { x with array := x.array.accept c s.wet.toNat })).finish tile slot (g.step p 8)

/-- A matrix instruction of a whole group (R86): parked until every live path is here, then, once its sources are final, the
array takes it and no region holds the array (R88, R90), checked and queued. -/
def State.matrix (s : State) (tile slot op : Nat) (w : Word64) : State :=
  if !s.running then s else
  match s.group tile slot with
  | none => s
  | some g0 =>
    if g0.stopped || decide (g0.hold ≠ .none) then s else
    match g0.matrixPath with
    | none => s
    | some (g, p) =>
      if !(s.tile tile).iHit (p.pc.toNat / 128) then s.putGroup tile slot { g with hold := .icache (p.pc.toNat / 128), since := s.hal.ms }
      else
      match g.divergent p with
      | some q => s.divergence tile slot g p q
      | none =>
        if g.othersOut p then s.finish tile slot (g.parkAt p .matrix s.hal.ms).endTurn
        else
          let p : Path := { p with mask := g.live, park := .no }
          let g : Group := { g with paths := [p], turn := p.low }
          match s.blockOf tile g with
          | none => s
          | some b =>
            let due := g.readyAll (matrixKeys op w)
            if never ≤ due then s
            else
              let u := s.issueFrom tile slot due
              let c := s.matrixCmd g b slot op w
              if !matrixWord op w then u.illegal tile slot g p
              else if !(u.tile tile).array.accepts g.uid ∨ u.owned tile 0 (2 + matrixTicks (u.tile tile).array.view c) then s
              else u.matrixIssue tile slot g p b c

/-- MLOAD (R106, R107). -/
def execMload (tile slot : Nat) (word : Word64) (s : State) : Host.Outcome State Fault Refusal := .next (s.matrix tile slot mLoad word)

/-- MPASS (R106, R109, R110). -/
def execMpass (tile slot : Nat) (word : Word64) (s : State) : Host.Outcome State Fault Refusal := .next (s.matrix tile slot mPass word)

/-- MDRAIN (R123). -/
def execMdrain (tile slot : Nat) (word : Word64) (s : State) : Host.Outcome State Fault Refusal := .next (s.matrix tile slot mDrain word)

/-- MZERO (R106, R510). -/
def execMzero (tile slot : Nat) (word : Word64) (s : State) : Host.Outcome State Fault Refusal := .next (s.matrix tile slot mZero word)

/-- MDIAG (R120). -/
def execMdiag (tile slot : Nat) (word : Word64) (s : State) : Host.Outcome State Fault Refusal := .next (s.matrix tile slot mDiag word)

/-- MBREAD (R100, R106). -/
def execMbread (tile slot : Nat) (word : Word64) (s : State) : Host.Outcome State Fault Refusal := .next (s.matrix tile slot mBread word)

/-- MBWRITE (R106). -/
def execMbwrite (tile slot : Nat) (word : Word64) (s : State) : Host.Outcome State Fault Refusal := .next (s.matrix tile slot mBwrite word)

/-- MEND (R104, R106). -/
def execMend (tile slot : Nat) (word : Word64) (s : State) : Host.Outcome State Fault Refusal := .next (s.matrix tile slot mEnd word)

end Sys2Proof.Machine
end

