-- ==== Sys2Proof/Machine/RowEngine.lean ====
section
/-! DEFINITION. The row engine (R81 to R83, R153 to R156). -/

namespace Sys2Proof.Machine

/-! ## Element-wise functions (R153 to R155) -/

/-- The exponent of an exact power of two. -/
def FP.pow2? : FP → Option Int
  | .fin _ m e => if m = 2 ^ Nat.log2 m ∧ m ≠ 0 then some ((Nat.log2 m : Int) + e) else none
  | _ => none

/-- 2^n as binary32. -/
def f32Pow2 (n : Int) : Word32 := f32Of (.fin false 1 n)

/-- A finite value as an integer, where it is one. -/
def FP.int? : FP → Option Int
  | .fin neg m e =>
    let t := scaleTo m e 0
    if t.2.1 = 0 then some (signedMant neg t.1) else none
  | _ => none

def f32Positive (w : Word32) : Bool := decide (0 < w.toNat) && decide (w.toNat < 0x7F800000)
def f32Negative (w : Word32) : Bool := decide (0x80000000 < w.toNat) && decide (w.toNat < 0xFF800000)

/-- |w − y| is at most 2 ulp of y (R154), y an enclosure's lower end whose width is `eps`. -/
def nearTwo (w : Word32) (y eps : FP) : Bool :=
  let u : FP := .fin false 2 (max (y.lg.getD 0) (-126) - 23)
  !(u.add eps).lt ((f32Val w).add y.negate).abs

/-- 2^f for a fraction f = n / 2^160, from repeated square roots of 2, in units of 2^-400 (from below, to a relative 2^-380). -/
def exp2Frac (n : Nat) : Nat :=
  ((List.range 160).foldl (fun (acc : Nat × Nat) k =>
    let c := Nat.sqrt (acc.1 * 2 ^ 400)
    (c, if n.testBit (159 - k) then acc.2 * c / 2 ^ 400 else acc.2)) (2 ^ 401, 2 ^ 400)).2

/-- 2^v for a finite v between −150 and 128. -/
def exp2Rough (v : FP) : FP :=
  match v with
  | .fin neg m e =>
    let n := signedMant neg (m * 2 ^ (e + 160).toNat)
    .fin false (exp2Frac (n % (2 ^ 160 : Nat)).toNat) (n / (2 ^ 160 : Nat) - 400)
  | _ => .nan

/-- exp2 of a finite value: exact for integers in −149..127, +∞ from 128, +0.0 to −150, else within 2 ulp (R154, R155);
which value of those is free. -/
def rowExp2 (x : Word32) (v : FP) : Word32 :=
  if !v.lt (.fin false 1 7) then 0x7F800000
  else if !(FP.fin true 150 0).lt v then 0
  else match v.int? with
  | some n => f32Pow2 n
  | none =>
    let y := exp2Rough v
    let w := Config.rowFn 0 x
    if (f32Positive w || w == 0 || w == 0x7F800000) && nearTwo w y (y.scale (-380)) then w else f32Of y

/-- log2 of a positive finite value, from repeated squares of its significand, in units of 2^-100 (from below). -/
def log2Rough (v : FP) : FP :=
  match v with
  | .fin _ m e =>
    let k := Nat.log2 m
    let r := (List.range 100).foldl (fun (acc : Nat × Nat) _ =>
      let q := acc.1 * acc.1 / 2 ^ 512
      if 2 ^ 513 ≤ q then (q / 2, 2 * acc.2 + 1) else (q, 2 * acc.2)) (m * 2 ^ (512 - k), 0)
    let n : Int := (e + k) * (2 ^ 100 : Nat) + r.2
    .fin (decide (n < 0)) n.natAbs (-100)
  | _ => .nan

/-- log2 of a positive finite value: exact for powers of two, else within 2 ulp (R154); which value of those is free. -/
def rowLog2 (x : Word32) (v : FP) : Word32 :=
  match v.pow2? with
  | some n => f32Of (FP.ofInt n)
  | none =>
    let y := log2Rough v
    let w := Config.rowFn 1 x
    if (f32Positive w || f32Negative w) && nearTwo w y (.fin false 1 (-98)) then w else f32Of y

/-- |w − 1/v| is at most one ulp of 1/v (R154): |w·v − 1| ≤ ulp · |v|, in exact arithmetic. -/
def recipNear (w : Word32) (v : FP) : Bool :=
  let y := (FP.fin false 1 0).div v.abs
  let ulp : Int := max (y.lg.getD 0) (-126) - 23
  let d := (((f32Val w).abs.mul v.abs).add (.fin true 1 0)).abs
  !(v.abs.scale ulp).lt d

/-- The reciprocal of a finite non-zero value: exact for powers of two, ±∞ up to 2⁻¹²⁸, else within 1 ulp. -/
def rowRecip (x : Word32) (v : FP) : Word32 :=
  let sign : Word32 := if v.neg then 0x80000000 else 0
  if !(FP.fin false 1 (-128)).lt v.abs then sign ||| 0x7F800000
  else match v.pow2? with
  | some n => sign ||| f32Pow2 (-n)
  | none =>
    let w := Config.rowFn 2 x &&& 0x7FFFFFFF
    if f32Finite w && recipNear w v then sign ||| w else f32Of ((FP.fin false 1 0).div v)

/-- w is within two ulps of 1/√v: (w − 2u)²·v ≤ 1 ≤ (w + 2u)²·v. -/
def rsqrtNear (w : Word32) (v : FP) : Bool :=
  let half : Int := (v.lg.getD 0) / 2
  let u : FP := .fin false 2 (max (-half - 1) (-126) - 23)
  let lo := (f32Val w).add u.negate
  let hi := (f32Val w).add u
  let one : FP := .fin false 1 0
  (lo.neg || !one.lt ((lo.mul lo).mul v)) && !((hi.mul hi).mul v).lt one

/-- 1/√v truncated to about 40 bits. -/
def rsqrtRough (v : FP) : FP :=
  match v with
  | .fin _ m e =>
    let m2 := if e % 2 = 0 then m else 2 * m
    let e2 := if e % 2 = 0 then e else e - 1
    if m2 = 0 then .inf false else .fin false (Nat.sqrt (2 ^ 160 / m2)) (-80 - e2 / 2)
  | _ => .nan

/-- The reciprocal square root of a positive finite value: exact for even powers of two, else within 2 ulp. -/
def rowRsqrt (x : Word32) (v : FP) : Word32 :=
  match v.pow2? with
  | some n => if n % 2 = 0 then f32Pow2 (-(n / 2)) else
      let w := Config.rowFn 3 x
      if f32Positive w && rsqrtNear w v then w else f32Of (rsqrtRough v)
  | none =>
    let w := Config.rowFn 3 x
    if f32Positive w && rsqrtNear w v then w else f32Of (rsqrtRough v)

/-- R155: the special values; a finite non-zero input goes to its function. -/
def rowFnValue (f : RowFn) (x : Word32) : Word32 :=
  let v := f32Val x
  match f, v with
  | _, .nan => f32Nan
  | .exp2, .inf neg => if neg then 0 else 0x7F800000
  | .log2, .inf neg => if neg then f32Nan else 0x7F800000
  | .recip, .inf neg => if neg then 0x80000000 else 0
  | .rsqrt, .inf neg => if neg then f32Nan else 0
  | .exp2, .fin _ m _ => if m = 0 then 0x3F800000 else rowExp2 x v
  | .log2, .fin neg m _ => if m = 0 then 0xFF800000 else if neg then f32Nan else rowLog2 x v
  | .recip, .fin neg m _ => if m = 0 then (if neg then 0xFF800000 else 0x7F800000) else rowRecip x v
  | .rsqrt, .fin neg m _ =>
    if m = 0 then (if neg then 0xFF800000 else 0x7F800000) else if neg then f32Nan else rowRsqrt x v

/-! ## Reductions (R82, R156) -/

def redOp (r : RowRed) (a b : Word32) : Word32 :=
  match r with
  | .sum | .sumSq => f32Add a b
  | .max => f32Max a b
  | .min => f32Min a b

/-- One level: adjacent elements combined, a last one without a partner passed up. -/
def redLevel (f : Word32 → Word32 → Word32) : List Word32 → List Word32
  | a :: b :: r => f a b :: redLevel f r
  | l => l

/-- Six levels. -/
def redTree (f : Word32 → Word32 → Word32) (l : List Word32) : Word32 :=
  ((List.range 6).foldl (fun l _ => redLevel f l) l).headD 0

/-- The chunks of 64, by fuel. -/
def chunks64 : Nat → List Word32 → List (List Word32)
  | 0, _ => []
  | _, [] => []
  | n + 1, l => l.take 64 :: chunks64 n (l.drop 64)

/-- R133: a NaN is the canonical one. -/
def canonNan (w : Word32) : Word32 := if (f32Val w).isNan then f32Nan else w

/-- R82: the chunk results combined in ascending order. -/
def rowReduce (r : RowRed) (l : List Word32) : Word32 :=
  let l := if r = .sumSq then l.map (fun x => f32Mul x x) else l
  match (chunks64 (l.length / 64 + 1) l).map (redTree (redOp r)) with
  | [] => 0
  | c :: rest => canonNan (rest.foldl (redOp r) c)

/-- R81: what an operation gives for a row under a and b. -/
def rowResult (op : RowOp) (a b : Word32) (xs : List Word32) : List Word32 :=
  match op with
  | .elem f => xs.map (fun x => rowFnValue f (f32Fma a x b))
  | .reduce r => [rowReduce r xs]
  | .fused f => [rowReduce .sum (xs.map (fun x => rowFnValue f (f32Fma a x b)))]

/-- R81: ticks from the last chunk's entry to first use. -/
def rowLatency : RowOp → Nat
  | .elem _ => 8
  | .reduce _ => 14
  | .fused _ => 22

def rowOutLen (op : RowOp) (len : Nat) : Nat :=
  match op with
  | .elem _ => len
  | _ => 1

/-! ## Operands: below 2^24 a scratch offset, from 2^24 a basin row (assumption 32) -/

def rowBasin : Nat := 2 ^ 24

/-- R82, R81, R55, R97: what an operation raises at issue. -/
def rowFault (op : RowOp) (len src dst win : Nat) : Option (Code × Nat) :=
  let side : Nat → Nat → Option (Code × Nat) := fun a n =>
    if rowBasin ≤ a then basinFault (a - rowBasin) ((n + 63) / 64) 64
    else if win < a + 4 * n then some (.scratchBounds, a) else none
  if len = 0 ∨ 65536 < len then ill else orElse (side src len) (side dst (rowOutLen op len))

def Tile.rowRead (x : Tile) (base a n : Nat) : List Word32 :=
  if rowBasin ≤ a then tabRange x.array.basin 0 ((a - rowBasin) * 64) n
  else (List.range n).map (fun i => BitVec.ofNat 32 (scratchNum x.scratch (base + a + 4 * i) 4))

def Tile.rowWrite (x : Tile) (base a : Nat) (ws : List Word32) : Tile :=
  if rowBasin ≤ a then { x with array := { x.array with basin := tabWrite x.array.basin 0 ((a - rowBasin) * 64) ws } }
  else { x with scratch := tabWrite x.scratch 0 (base + a) (ws.flatMap (fun w => leBytes 4 w.toNat)) }

/-- The place of an operand among a tile's: a scratch byte address, or, from 2^32, a basin word. -/
def rowPlace (base a n : Nat) : Nat × Nat :=
  if rowBasin ≤ a then (2 ^ 32 + (a - rowBasin) * 64, 2 ^ 32 + (a - rowBasin) * 64 + n) else (base + a, base + a + 4 * n)

/-- The tick from which a basin operand may be read (R100), and any operand that an earlier operation writes (R81). -/
def Tile.rowOperandFree (x : Tile) (base a n : Nat) : Nat :=
  max (if rowBasin ≤ a then x.array.rowFree ((a - rowBasin) * 64) ((a - rowBasin) * 64 + n) else 0)
    (x.outReady (rowPlace base a n).1 (rowPlace base a n).2)

/-- The operation's effect on its tile, the engine held one tick per chunk from wet tick `t`; its result can be used its
latency after the last chunk has entered (R81). -/
def Tile.runRow (x : Tile) (op : RowOp) (len base src dst : Nat) (a b : Word32) (t : Nat) : Tile :=
  let n := (len + 63) / 64
  let out := rowPlace base dst (rowOutLen op len)
  { x.rowWrite base dst (rowResult op a b (x.rowRead base src len)) with
    rowBusy := t + n
    rowOut := x.rowOut.filter (fun e => decide (t < e.2.2)) ++ [(out.1, out.2, t + n - 1 + rowLatency op)] }

/-! ## Sharing with a region (R83) -/

/-- The job wet tick of the next ROW entry in the buffer, from the tick of the last entry executed; a
program not fetched to its end may hold one right after the buffered entries. -/
def nextRowTick (t : Nat) (fetchEnd : Bool) : List (Nat × BitVec 256) → Option Nat
  | [] => if fetchEnd then none else some t
  | e :: r => if bvFld e.2 20 4 = 2 then some (t + bvFld e.2 0 20) else nextRowTick (t + bvFld e.2 0 20) fetchEnd r

/-- R83: a thread-plane operation of `n` chunks may issue now. -/
def State.rowOpen (s : State) (tile n : Nat) : Bool :=
  !s.owned tile 2 n ||
  (let f := (s.tile tile).flume
   let now := s.jobWet.toNat
   decide (f.rowBusy ≤ now) &&
   (match nextRowTick f.lastTick f.fetchEnd f.buf with
    | some t => decide (now + n ≤ t)
    | none => true))

/-- R83, R90: the first wet tick in which a thread-plane operation's operands are final and the engine is free, and whether
the operation may issue then. -/
def State.rowStart (s : State) (tile : Nat) (op : RowOp) (len src dst base : Nat) : Nat :=
  let x := s.tile tile
  max x.rowBusy (max (x.rowOperandFree base src len) (x.rowOperandFree base dst (rowOutLen op len)))

def State.rowMay (s : State) (tile : Nat) (op : RowOp) (len src dst base : Nat) : Bool :=
  let n := (len + 63) / 64
  let basin := decide (rowBasin ≤ src) || decide (rowBasin ≤ dst)
  let u := s.waitWet (s.rowStart tile op len src dst base)
  u.rowOpen tile n && !(basin && u.owned tile 0 n)

/-- ROW_ENGINE_INSTRUCTION (R81 to R83): a and b are the low words of s(SRCA) and s(SRCB). -/
def execRowEngine (tile slot : Nat) (op : RowOp) (len src dst : Nat) (word : Word64) (s : State) :
    Host.Outcome State Fault Refusal :=
  .next (s.issueIf tile slot (scalarKeys word)
    (fun s g _ => match s.blockOf tile g with
      | none => false
      | some b => (rowFault op len src dst b.size).isSome || s.rowMay tile op len src dst b.base)
    (fun s g p =>
    match s.blockOf tile g with
    | none => s
    | some b =>
      if !plainWord 9 0 word ∨ !scalarPair word then s.illegal tile slot g p else
      match rowFault op len src dst b.size with
      | some e => s.preciseAt tile slot g p e.1 0 e.2
      | none =>
        if g.active p word = 0 then s.finish tile slot (g.step p 8)
        else
          let s := s.waitWet (s.rowStart tile op len src dst b.base)
          let a := (g.sreg (wA word)).truncate 32
          let c := (g.sreg (wB word)).truncate 32
          (s.modTile tile (fun _ => (s.nowTile tile).runRow op len b.base src dst a c s.wet.toNat)).finish tile slot (g.step p 8)))

end Sys2Proof.Machine
end

