-- ==== Sys2Proof/Machine/Sync.lean ====
section
/-! DEFINITION. Signals, arrivals and waits (R314 to R328): the thread-plane instructions (R326), what the homes do,
wakes, polling and the wait watchdog (R328). -/

namespace Sys2Proof.Machine

/-- The queue of a group's kernel, as a fault record names it. -/
def State.queueOfKern (s : State) (k : Nat) : Nat :=
  match s.kernels.find? (fun x => x.id == k) with
  | some x => x.queue
  | none => 0xF

/-- The place of a synchronisation instruction in a fault record. -/
def State.syncPlace (s : State) (tile slot : Nat) (g : Group) (p : Path) (vid : Nat) : FaultRec :=
  { faultOf .syncDenied 0 with
    tile := tile, slot := slot, queue := s.queueOfKern g.kern, where' := p.pc, lanes := p.mask, address := BitVec.ofNat 64 vid }

/-- R342: a context with work and no slot is made pending. -/
def State.becomePending (s : State) (c : Nat) : State :=
  if (s.ctx c).st = .idle then
    { s.modCtx c (fun x => { x with st := .pending, since := s.tick.toNat }) with pendingOrder := s.pendingOrder ++ [c] }
  else s

/-- R326: the route of a signal to another device: that of the lowest-numbered valid domain or transfer slot
whose target it is. -/
def State.syncRoute (s : State) (c dev : Nat) : Option Nat :=
  ((s.ctx c).slots.find? (fun e =>
    slotValid e.2 && (slotKind e.2 == 0 || slotKind e.2 == 1) && slotTarget e.2 == dev)).map (fun e => slotRoute e.2)

/-- A signal or arrival under way, before its target is known. -/
def newOp (id : Nat) (kind : SyncKind) (who : Who) (c vid : Nat) (v : Word64) (n : Nat) (f : FaultRec) (kern : Nat) : SyncOp :=
  { id := id, kind := kind, who := who, slot := f.slot, ctx := c, index := 0, handle := none, remote := none, vid := vid, value := v
    count := n, pc := f.where', lanes := f.lanes, kern := kern, sent := false, applied := false }

/-- How a signal goes on from its issue: denied, without a route to its device (R326), or on its way. -/
inductive SigPath
  | denied (reason : Nat)
  | noRoute (dev : Nat)
  | go (o : SyncOp)
  deriving DecidableEq, Repr

/-- R314, R334: an operation denied because its entry is stale is counted at its object's home. -/
def State.countStale (s : State) (c vid reason : Nat) : State :=
  if reason = 3 then s.countDeniedAt (fld (s.syncEntry c vid) 16 16) else s

def State.sigPath (s : State) (o : SyncOp) : SigPath :=
  match s.resolveSync o.ctx o.vid false with
  | .denied r => .denied r
  | .own i => .go { o with index := i }
  | .shared i h => .go { o with index := i, handle := some h }
  | .remote dev h =>
    match s.syncRoute o.ctx dev with
    | none => .noRoute dev
    | some r => .go { o with handle := some h, remote := some (dev, r) }

/-- R232, R326: a class 0xB word of two scalar sources: p7, and of IMM only the bits defined. -/
def syncLegal (op : Nat) (w : Word64) (immMax : Nat) : Bool := orderLegal op w immMax && scalarPair w

/-- SIG_SET, SIG_ADD and ARRIVE (R324, R326): sent once the group's earlier accesses are over. -/
def State.groupSignal (s : State) (tile slot : Nat) (w : Word64) (kind : SyncKind) (legal : Bool) (count : Nat) : State :=
  s.issue tile slot (scalarKeys w) (fun s g p =>
    if !legal then s.illegal tile slot g p
    else
      let vid := bvFld (g.sreg (wA w)) 0 32
      let f := s.syncPlace tile slot g p vid
      let v : Word64 := if kind = .add then BitVec.ofNat 64 (bvFld (g.sreg (wB w)) 0 32) else g.sreg (wB w)
      match s.sigPath (newOp s.nextId kind (.group tile g.uid) g.ctx vid v count f g.kern) with
      | .denied r =>
        ((s.countStale g.ctx vid r).finish tile slot (g.step p 8)).syncReport (.group tile g.uid) g.ctx f (.denied r)
      | .noRoute dev => s.takeFault g.ctx none { f with code := .fabricAccess, device := dev }
      | .go o =>
        let s : State := s.fresh.modSync (fun y => { y with ops := y.ops ++ [o] })
        if s.fenced tile g.uid then (s.finish tile slot (g.step p 8)).sendOp o
        else s.finish tile slot { g.step p 8 with hold := .send o.id, since := s.hal.ms })

/-- SIG_SET (R316). -/
def execSigSet (tile slot : Nat) (word : Word64) (s : State) : Host.Outcome State Fault Refusal :=
  .next (s.groupSignal tile slot word .set (syncLegal 0x01 word 0) 0)

/-- SIG_ADD (R316). -/
def execSigAdd (tile slot : Nat) (word : Word64) (s : State) : Host.Outcome State Fault Refusal :=
  .next (s.groupSignal tile slot word .add (syncLegal 0x02 word 0) 0)

/-- ARRIVE (R318): IMM[15:0] is the count, not zero. -/
def execSyncArrive (tile slot : Nat) (word : Word64) (s : State) : Host.Outcome State Fault Refusal :=
  .next (s.groupSignal tile slot word .arrive (syncLegal 0x05 word 65535 && decide (wImm word ≠ 0)) (wImm word))

/-! ## Engines and queues (R325, R350) -/

/-- A signal of an engine or a queue: sent at once. The number of the operation, none where it was denied or
had no route; the outcome is then already reported. -/
def State.engineSignal (s : State) (kind : SyncKind) (who : Who) (c vid : Nat) (v : Word64) (n : Nat) (f : FaultRec) :
    State × Option Nat :=
  let f := { f with address := BitVec.ofNat 64 vid }
  match s.sigPath (newOp s.nextId kind who c vid v n f 0) with
  | .denied r => ((s.countStale c vid r).syncReport who c f (.denied r), none)
  | .noRoute dev => (s.syncFault who c { f with code := .fabricAccess, device := dev }, none)
  | .go o => ((s.fresh.modSync (fun y => { y with ops := y.ops ++ [o] })).sendOp o, some o.id)

/-- A queue's SIGNAL or ARRIVE descriptor, or one waiting on a wait, is done. -/
def State.queueDone (s : State) (who : Who) (status : Nat) : State :=
  match who with
  | .queue c q => (s.modQueue c q (fun x => match x.work with
      | some (.wait _) | some (.signal _) => { x with work := some (.done status 0 0) }
      | _ => x)).becomePending c
  | _ => s

/-! ## At the home (R316, R318, R330) -/

/-- R315, R330: the check at the home: the handle's, for the object the entry names, or, of an own object, its owner. -/
def State.opDenied (s : State) (o : SyncOp) : Option Nat :=
  match o.handle with
  | some h => if s.shareCheck h s.fab.deviceId o.ctx false = some o.index then none else some 4
  | none => if (s.syncObj o.index).kind ≠ 0 ∧ (s.syncObj o.index).owner = o.ctx then none else some 3

/-- An operation of this device applied at its home, checked first. -/
def State.applyOp (s : State) (o : SyncOp) : State × SyncOut :=
  match s.opDenied o, o.handle with
  | some r, some h => (s.countDeniedHandle h, .denied r)
  | some r, none => (s.countDeniedAt o.index, .denied r)
  | none, _ =>
    match o.kind with
    | .set => s.applySignal o.index false o.value.toNat
    | .add => s.applySignal o.index true o.value.toNat
    | .arrive => s.applyArrival o.index o.value.toNat o.count

/-- The end of a signal or arrival: its outcome is reported; a group's stays until it is acknowledged (R238), a
queue's descriptor is done. -/
def State.endOp (s : State) (o : SyncOp) (out : SyncOut) : State :=
  let s := match o.who with
    | .group .. => s.modSync (fun y => { y with ops := modIf y.ops (fun x => x.id == o.id) (fun x => { x with applied := true }) })
    | _ => s.modSync (fun y => { y with ops := y.ops.filter (fun x => x.id != o.id) })
  let f := match o.who with
    | .group .. => { o.place with queue := s.queueOfKern o.kern }
    | .queue _ q => { o.place with queue := q }
    | .region t => { o.place with tile := t }
    | _ => o.place
  (s.syncReport o.who o.ctx f out).queueDone o.who 0

def State.applyLocal (s : State) (id : Nat) (arrive : Bool) : State :=
  match s.sync.ops.find? (fun o => o.id == id) with
  | some o =>
    if o.sent && !o.applied && o.remote.isNone && (decide (o.kind = .arrive) == arrive) then
      let r := s.applyOp o
      r.1.endOp o r.2
    else s
  | none => s

/-- SIGNAL_APPLY (R316, R320). -/
def execSignalApply (id : Nat) (s : State) : Host.Outcome State Fault Refusal := .next (s.applyLocal id false)

/-- ARRIVAL_APPLY (R318, R319). -/
def execArrivalApply (id : Nat) (s : State) : Host.Outcome State Fault Refusal := .next (s.applyLocal id true)

/-! ## Waits (R321, R322, R59) -/

/-- R314, R315, R326, R330: the object a wait or test names, or the reason it is denied. -/
def State.waitRef (s : State) (c vid : Nat) : Except Nat (Nat × Option Nat) :=
  match s.resolveSync c vid true with
  | .denied r => .error r
  | .own i => .ok (i, none)
  | .shared i h => if s.shareCheck h s.fab.deviceId c true = some i then .ok (i, some h) else .error 4
  | .remote .. => .error 6

/-- A denied handle is counted where its object lies (R334). -/
def State.countWaitDenied (s : State) (c vid reason : Nat) : State :=
  match reason, s.resolveSync c vid true with
  | 4, .shared _ h => s.countDeniedHandle h
  | 3, _ => s.countStale c vid 3
  | _, _ => s

/-- WAIT (R321, R326): the registration is sent; the group waits, and its path's turn ends (R61). A name that is denied faults. -/
def execSyncWait (tile slot : Nat) (word : Word64) (s : State) : Host.Outcome State Fault Refusal :=
  .next (s.issue tile slot (scalarKeys word) (fun s g p =>
    if !syncLegal 0x03 word 1 ∨ !scalarField (wDst word) then s.illegal tile slot g p
    else
      let vid := bvFld (g.sreg (wA word)) 0 32
      match s.waitRef g.ctx vid with
      | .error r =>
        (s.countWaitDenied g.ctx vid r).takeFault g.ctx none { s.syncPlace tile slot g p vid with detail := r }
      | .ok (i, h) =>
        let w : Wait := { id := s.nextId, who := .group tile g.uid, ctx := g.ctx, index := i, handle := h, vid := vid
                          target := g.sreg (wB word), state := .moving, since := s.hal.ms }
        let s : State := s.fresh.modSync (fun y => { y with waits := y.waits ++ [w] })
        s.finish tile slot { (g.step p 8).endTurn with hold := .wait w.id (wDst word) (wImm word == 1), since := s.hal.ms }))

/-- TEST (R326): the value as the home holds it, poison included. -/
def execSyncTest (tile slot : Nat) (word : Word64) (s : State) : Host.Outcome State Fault Refusal :=
  .next (s.issue tile slot [keyS (wA word), keyP (wPred word)] (fun s g p =>
    if !orderLegal 0x04 word 0 ∨ !scalarField (wA word) ∨ !scalarField (wDst word) then s.illegal tile slot g p
    else
      let vid := bvFld (g.sreg (wA word)) 0 32
      match s.waitRef g.ctx vid with
      | .error r =>
        (s.countWaitDenied g.ctx vid r).takeFault g.ctx none { s.syncPlace tile slot g p vid with detail := r }
      | .ok (i, _) =>
        let g' := (g.setSreg (wDst word) (s.syncObj i).value).readyOn (keyS (wDst word)) 0
        s.finish tile slot (g'.step p 8)))

/-- The group that waits under a number, in its slot or its save record. -/
def State.waiter (s : State) (tile uid : Nat) : Option Group :=
  match s.slotOf tile uid with
  | some slot => s.group tile slot
  | none => (s.tile tile).saved.find? (fun g => g.uid == uid)

/-- The wait of a group completed with a status: OWNER_LOST precise at the WAIT under FAULT_ON_LOST, else the
status in its register, ready from wet tick `at_`; a context that is not resident becomes pending, for the group to return
(R59, R322, assumption 149). -/
def State.completeGroupWait (s : State) (tile uid status at_ : Nat) : State :=
  match s.waiter tile uid with
  | none => s
  | some g =>
    match g.hold with
    | .wait _ dst lost =>
      if lost && status == 1 then
        let pc := (g.paths.headD ⟨8, 0, .no⟩).pc - 8
        s.takeFault g.ctx none { faultOf .ownerLost 0 with
          tile := tile, slot := (s.slotOf tile uid).getD 0, queue := s.queueOfKern g.kern, where' := pc, lanes := g.live }
      else (s.modGroup tile uid (fun g =>
        { (g.setSreg dst (BitVec.ofNat 64 status)).readyOn (keyS dst) 0 with hold := .none, readyAt := max g.readyAt at_ })).becomePending
          g.ctx
    | _ => s

/-- A wait completed: its record goes, and the waiter goes on. -/
def State.completeWait (s : State) (w : Wait) (status at_ : Nat) : State :=
  let s := s.modSync (fun y => { y with waits := y.waits.filter (fun x => x.id != w.id) })
  match w.who with
  | .group t u => s.completeGroupWait t u status at_
  | .queue c q =>
    if status = 0 then s.queueDone w.who 0
    else s.takeFault c (some q) { faultOf .ownerLost 0 with queue := q, address := BitVec.ofNat 64 w.vid }
  | _ => s

/-- R59, R340: a waiting group gives its slot up to a waiting block while a save record is free; the record's
bytes in the save area are not laid out, so they become undefined (assumption 33). The slot is free 67 ticks later. -/
def State.deschedule (s : State) (tile uid : Nat) : State :=
  match s.slotOf tile uid with
  | none => s
  | some slot =>
    match s.group tile slot with
    | none => s
    | some g =>
      let used := (s.tiles.flatMap (fun e => e.2.saved.filter (fun x => x.ctx == g.ctx))).length
      if (s.tile tile).waiting = [] ∨ (s.ctx g.ctx).saveRecords ≤ used then s
      else
        let s := s.modTile tile (fun x => { x with
          groups := tabSet x.groups none slot none, freeAt := tabSet x.freeAt 0 slot (s.due 67), saved := x.saved ++ [g] })
        let a := (s.ctx g.ctx).saveArea + 17152 * used
        let s := s.forget (a / 128 * 128) (17152 + a % 128)
        { s with dram := s.dram.lose a 17152 s.losses, losses := s.losses + 1 }

/-- WAIT_REGISTRATION (R321): satisfied at once, owner lost, or pooled or polling; the handle of an import is
checked at the home (R330). -/
def execWaitRegistration (id : Nat) (s : State) : Host.Outcome State Fault Refusal :=
  match s.sync.waits.find? (fun w => w.id == id && decide (w.state = .moving)) with
  | none => .next s
  | some w =>
    let allowed := match w.handle with
      | some h => s.shareCheck h s.fab.deviceId w.ctx true == some w.index
      | none => (s.syncObj w.index).kind != 0 && (s.syncObj w.index).owner == w.ctx
    let reason := if w.handle.isSome then 4 else 3
    if !allowed then
      let s := w.handle.elim (s.countDeniedAt w.index) s.countDeniedHandle
      let s := s.modSync (fun y => { y with waits := y.waits.filter (fun x => x.id != id) })
      let f := { faultOf .syncDenied reason with address := BitVec.ofNat 64 w.vid }
      (match w.who with
       | .queue c q => .next (s.takeFault c (some q) { f with queue := q })
       | .group t u =>
         let g := s.waiter t u
         .next (s.takeFault w.ctx none { f with
           tile := t, slot := (s.slotOf t u).getD 0, queue := g.elim 0xF (fun g => s.queueOfKern g.kern)
           where' := g.elim 0 (fun g => (g.paths.headD ⟨8, 0, .no⟩).pc - 8), lanes := g.elim 0 Group.live })
       | _ => .next s)
    else
      let s := s.registerWait w
      match s.sync.waits.find? (fun x => x.id == id) with
      | none => .next s
      | some x =>
        if x.state = .wake 0 then .next (s.completeWait x 0 0)
        else match x.state, x.who with
          | .wake _, _ => .next s
          | _, .group t u => .next (s.deschedule t u)
          | _, _ => .next s

/-- SYNC_WAKE (R322): the wake reaches the waiter, and a group is ready 4 ticks later. -/
def execSyncWake (id : Nat) (s : State) : Host.Outcome State Fault Refusal :=
  match s.sync.waits.find? (fun w => w.id == id) with
  | some w => match w.state with
    | .wake st => .next (s.completeWait w st (s.due 4))
    | _ => .next s
  | none => .next s

/-- WAITER_POLL (R321). -/
def execWaiterPoll (id : Nat) (s : State) : Host.Outcome State Fault Refusal :=
  match s.sync.waits.find? (fun w => w.id == id && decide (w.state = .polling)) with
  | some w => .next (s.registerWait w)
  | none => .next s

/-! ## The watchdog (R328) -/

/-- The instruction a group waits at, with the millisecond its wait began: parked under R62, or held by an
ordering instruction. -/
def Group.watched (g : Group) : Option (Nat × Word64) :=
  match g.hold with
  | .fence | .loads | .walk _ => some (g.since, (g.paths.headD ⟨8, 0, .no⟩).pc - 8)
  | .none => (g.paths.find? (fun p => p.park != .no)).map (fun p => (g.since, p.pc))
  | _ => none

/-- The waits of a context with the millisecond each began, and how a fault record names each: an object, the target and VALUE,
or the instruction (R328, assumption 148). -/
def State.watchedWaits (s : State) (c : Nat) : List (Nat × FaultRec) :=
  let reg := (s.sync.waits.filter (fun w => w.ctx == c && (match w.state with
      | .wake _ => false
      | _ => true))).map (fun w =>
    let f := { faultOf .waitWatchdog 0 with
      address := BitVec.ofNat 64 w.vid, object := w.index, value := w.target, home := (s.syncObj w.index).value }
    (w.since, match w.who with
      | .queue _ q => { f with queue := q }
      | .group t u => (match s.waiter t u with
        | some g => { f with tile := t, slot := (s.slotOf t u).getD 0, queue := s.queueOfKern g.kern
                             where' := (g.paths.headD ⟨8, 0, .no⟩).pc - 8, lanes := g.live }
        | none => f)
      | _ => f))
  let held := s.tiles.flatMap (fun e => e.2.groups.filterMap (fun x => match x.2 with
    | some g => if g.ctx = c then g.watched.map (fun w => (w.1, { faultOf .waitWatchdog 0 with
        tile := e.1, slot := x.1, queue := s.queueOfKern g.kern, where' := w.2, lanes := g.live })) else none
    | none => none))
  reg ++ held

/-- The oldest wait past a limit. -/
def oldestPast (now limit : Nat) (ws : List (Nat × FaultRec)) : Option FaultRec :=
  ((ws.filter (fun w => decide (limit * 1000 < now - w.1))).foldl (fun a w => match a with
    | some b => if w.1 < b.1 then some w else some b
    | none => some w) none).map (fun w => w.2)

/-- WAIT_WATCHDOG_EXAMINATION (R328): Halnor's millisecond passes, a debug session's time with it (R453); the
oldest expired wait of each context with a running queue stops it. -/
def execWaitWatchdogExamination (s : State) : Host.Outcome State Fault Refusal :=
  if !s.mod.standby then .next s else
  let s := s.modHal (fun h => { h with ms := h.ms + 1 })
  let s := if s.hal.ms % 1000 = 0 then s.modSec (fun x => { x with remaining := x.remaining - 1 }) else s
  .next (s.liveCtxs.foldl (fun s c =>
    let done := decide ((s.ctx c).st = .stopped) && !(s.ctx c).queues.any (fun e => decide (e.2.st = .running))
    match oldestPast s.hal.ms (s.ctx c).waitWdog (s.watchedWaits c) with
    | some f => if done then s else s.takeFault c none f
    | none => s) s)

end Sys2Proof.Machine
end

