-- ==== Sys2Proof/Machine/Compress.lean ====
section
/-! DEFINITION. Link compression (R273 to R277): sizes, and what a lossy transfer decodes to. -/

namespace Sys2Proof.Machine

/-- The chunks of `n` bytes, by fuel. -/
def chunksOf (n : Nat) : Nat → List Byte → List (List Byte)
  | 0, _ => []
  | _, [] => []
  | f + 1, l => l.take n :: chunksOf n f (l.drop n)

/-- R274: the element type a lossless transfer declares, by its code of R108: binary32, ZF16g, or neither. -/
def deltaType (elem : Nat) : Option Bool := if elem = 9 then some true else if elem = 5 then some false else none

/-- R274: the bytes of one chunk: a 4 B head and the shortest of raw, zero-run and, for binary32 (`some true`) or ZF16g
elements, exponent-delta. -/
def losslessChunk (ty : Option Bool) (d : List Byte) : Nat :=
  let words := chunksOf 4 65 d
  let zr := 8 + 4 * (words.filter (fun w => w.any (fun b => b != 0))).length
  let short := min d.length zr
  4 + (match ty with
    | some wide => min short (Config.deltaLength wide d)
    | none => short)

/-- The sizes of a transfer's chunks. -/
def losslessSizes (ty : Option Bool) (d : List Byte) : List Nat := (chunksOf 256 (d.length / 256 + 1) d).map (losslessChunk ty)

def losslessBytes (ty : Option Bool) (d : List Byte) : Nat := (losslessSizes ty d).foldl (fun a n => a + n) 0

/-- R277: the chunk whose encoding would exceed a budget, if any. -/
def overAt (budget : Nat) : List Nat → Nat → Option Nat
  | [], _ => none
  | n :: r, k => if budget < n then some k else overAt (budget - n) r (k + 1)

/-- R275 step 3, 4: the code of one element and what it decodes to. -/
def lossyElem (f : FFmt) (scale draw : Nat) (x : FP) : Nat :=
  let code := zf8g.round (.tieDraw draw) (x.scale (127 - (scale : Int)))
  f.round .rne ((zf8g.value code).scale ((scale : Int) - 127))

/-- R275: one block of 32 elements under the draws of its lanes; a block that holds an infinity or a NaN is
unchanged. -/
def lossyBlock (f : FFmt) (draws : Nat → Nat) (codes : List Nat) : List Nat :=
  let vs := codes.map f.value
  if vs.any (fun v => v.isNan || v.isInf) then codes
  else match maxAbs vs with
  | .fin _ m e =>
    if m = 0 then codes.map (fun _ => 0)
    else
      let s := (max 0 (min 254 ((Nat.log2 m : Int) + e - 14 + 127))).toNat
      (List.range codes.length).map (fun l => lossyElem f s (draws l) (f.value (codes.getD l 0)))
  | _ => codes

/-- R275: the bytes a lossy transfer decodes to; `wide` for binary32, else ZF16g; `first` is the number of the
first block within the transfer. -/
def lossyDecode (wide : Bool) (seed step : Word64) (stream tile first : Nat) (d : List Byte) : List Byte :=
  let n := if wide then 4 else 2
  let f := if wide then f32 else zf16g
  let blocks := chunksOf (32 * n) (d.length / (32 * n) + 1) d
  ((List.range blocks.length).flatMap (fun b =>
    let codes := (chunksOf n 33 (blocks.getD b [])).map leNat
    (lossyBlock f (fun l => rngValue (deriveKey seed step stream tile 3 l) (first + b)) codes).flatMap (fun c => leBytes n c))).take d.length

/-- R276, R277: the link bytes of a lossy transfer: 33 for each block of 32 elements. -/
def lossyBytes (wide : Bool) (n : Nat) : Nat := (n / (if wide then 4 else 2) + 31) / 32 * 33

/-- R273: compression needs a chain route on a port that allows it. -/
def State.compressOk (s : State) (route : Nat) : Bool :=
  (route == 1 && (s.port 16).compress) || (route == 2 && (s.port 17).compress)

end Sys2Proof.Machine
end

