-- ==== Sys2Proof/Machine/Dma.lean ====
section
/-! DEFINITION. The tile DMA engine (R84, R85, R90, R234, R273): starts, tests, waits, completions. -/

namespace Sys2Proof.Machine

/-! ## A transfer's rows and parts -/

/-- R84: the shape is one the engine takes; another raises ILLEGAL_INSTRUCTION (DESIGN CHOICE, assumption 134: R84 gives the
limits and names no fault). -/
def dmaShape (d : DmaSpec) : Bool :=
  decide (0 < d.rows) && decide (d.rows ≤ 65536) && decide (0 < d.rowLen) && decide (d.rows * d.rowLen ≤ 1572864) &&
  decide (d.compress ≤ 2) && (d.compress != 2 || d.elem == 9 || d.elem == 5) &&
  (match d.other with
   | .prefetch _ => d.inbound
   | _ => true)

/-- The scratch window holds every row (R85). -/
def dmaInWindow (d : DmaSpec) (win : Nat) : Bool :=
  match d.other with
  | .prefetch _ => true
  | _ => (List.range d.rows).all (fun i => decide (d.scratch + i * d.scratchPitch + d.rowLen ≤ win))

/-- The parts of a transfer through the address space, one per line of each row: virtual address, length,
scratch offset. -/
def dmaParts (d : DmaSpec) (va : Nat) : List (Nat × Nat × Nat) :=
  (List.range d.rows).flatMap (fun i =>
    let a := va + i * d.otherPitch
    (partsOf a d.rowLen).map (fun p =>
      (p.1 * 128 + p.2.1, p.2.2, d.scratch + i * d.scratchPitch + (p.1 * 128 + p.2.1 - a))))

/-- R84, R27: the engine's other end is device memory, local or fabric: a host page stops a transfer as one with no
translation does (assumption 133). -/
def State.hostPart (s : State) (c va perm : Nat) (u : FabUse) : Bool :=
  match s.placeOf c va perm u with
  | .host _ => true
  | _ => false

/-- The parts before the first that may not be accessed, and why it may not (R85). -/
def State.dmaReach (s : State) (c : Nat) (store : Bool) (ps : List (Nat × Nat × Nat)) :
    List (Nat × Nat × Nat) × Option (Code × Nat) × State :=
  ps.foldl (fun acc p =>
    match acc.2.1 with
    | some _ => acc
    | none =>
      let u : FabUse := if store then .engineStore else .engineLoad
      match acc.2.2.reachFault c p.1 p.2.1 (ofBool store) u with
      | (some e, s) => (acc.1, some (e, p.1), s)
      | (none, s) =>
        if s.hostPart c p.1 (ofBool store) u then (acc.1, some (.translationFault, p.1), s)
        else (acc.1 ++ [p], none, s)) ([], none, s)

/-- R273: some part of a compressed transfer does not lie behind a chain route that allows it. -/
def State.dmaRouteBad (s : State) (c : Nat) (d : DmaSpec) (store : Bool) (ps : List (Nat × Nat × Nat)) : Bool :=
  d.compress != 0 && ps.any (fun p =>
    match s.placeOf c p.1 (ofBool store) (if store then .engineStore else .engineLoad) with
    | .remote _ _ route _ => !s.compressOk route
    | _ => true)

/-- R234: one outbound part: through its home, or past the cistern, whose dirty bytes of the line go first. -/
def State.dmaStore (s : State) (a : Access) : State :=
  match a.place, a.op with
  | .remote dev off route _, .store d =>
    let s := s.flushFirst dev (off / 128) route a.ctx
    let s := s.launch { a with stage := .forwarded }
    s.sendFabric dev route (.store off d) (some (s.nextId - 1)) none a.ctx
  | _, _ => s.launch a

/-- The scratch bytes of a transfer's rows, in order. -/
def State.dmaGather (s : State) (tile base : Nat) (d : DmaSpec) : List Byte :=
  (List.range d.rows).flatMap (fun i => s.scratchBytes tile (base + d.scratch + i * d.scratchPitch) d.rowLen)

/-- The data a remote end receives: decoded where the transfer is lossy (R275). -/
def dmaData (d : DmaSpec) (seed : Word64 × Word64) (tile : Nat) (bytes : List Byte) : List Byte :=
  if d.compress = 2 then lossyDecode (d.elem == 9) seed.1 seed.2 d.stream tile 0 bytes else bytes

/-- Where a part's bytes lie in the gathered rows. -/
def dmaIndex (ps : List (Nat × Nat × Nat)) (p : Nat × Nat × Nat) : Nat :=
  (ps.takeWhile (fun q => q != p)).foldl (fun a q => a + q.2.1) 0

/-! ## Starting -/

/-- What a start raises, if anything: nothing moves (R85, R71, R273). -/
def State.dmaFault (s : State) (d : DmaSpec) (win c : Nat) (b : Option Block) : Option (Code × Nat) :=
  if !dmaShape d then ill
  else if !dmaInWindow d win then some (.scratchBounds, d.scratch)
  else match d.other with
  | .cluster rank off =>
    (match b.bind (fun b => s.rankBlock b rank) with
     | none => some (.clusterRange, off)
     | some y =>
       if d.compress ≠ 0 then some (.fabricAccess, off)
       else if (List.range d.rows).all (fun i => decide (off + i * d.otherPitch + d.rowLen ≤ y.2.size)) then none
       else some (.clusterRange, off))
  | .memory va | .prefetch va =>
    let ok := (s.dmaReach c (!d.inbound) (dmaParts d va)).1
    if s.dmaRouteBad c d (!d.inbound) ok then some (.fabricAccess, va) else none

/-- The lowest free entry of the engine's sixteen. -/
def Tile.dmaFree (x : Tile) : Option Nat := (List.range 16).find? (fun i => (tabGet x.dma none i).isNone)

/-- R84: the ticks in which a transfer's bytes pass the DMA ports, 256 B in each; a prefetch moves none. -/
def dmaTicks (d : DmaSpec) : Nat :=
  match d.other with
  | .prefetch _ => 0
  | _ =>
    let n := portBytes (if d.inbound then .dmaWrite else .dmaRead)
    (d.rows * d.rowLen + n - 1) / n

/-- The engine's direction taken for a transfer, after those that have it; `cut` is the 256 B chunk at which it stops. -/
def State.takeDma (s : State) (tile : Nat) (t : Dma) (cut : Option Nat) : State × Dma :=
  let x := s.tile tile
  let due := max s.wet.toNat (if t.spec.inbound then x.dmaIn else x.dmaOut) + cut.getD (dmaTicks t.spec)
  (s.modTile tile (fun x => if t.spec.inbound then { x with dmaIn := due } else { x with dmaOut := due }), { t with due := due })

/-- A transfer started in an entry: its accesses are on their way. One that exceeds its budget in a 256 B chunk (R277) sends
the parts before it, and stops with LINK_BUDGET in that chunk's tick. -/
def State.startDma (s : State) (tile entry : Nat) (t : Dma) (seed : Word64 × Word64) (cut : Option Nat) : State :=
  let d := t.spec
  let (s, t) := s.takeDma tile t cut
  let s := s.modTile tile (fun x => { x with dma := tabSet x.dma none entry (some { t with issue := s.nextId }) })
  let t := { t with issue := s.nextId }
  let s := s.fresh
  match d.other with
  | .cluster .. => s
  | .memory va | .prefetch va =>
    let ps := dmaParts d va
    let (ok, fault, s) := s.dmaReach t.ctx (!d.inbound) ps
    let (ok, fault) := match cut with
      | some k => (ok.filter (fun p => decide (dmaIndex ps p + p.2.1 ≤ 256 * k)), some (Code.linkBudget, va))
      | none => (ok, fault)
    let s := s.modTile tile (fun x => { x with dma := tabSet x.dma none entry (some { t with fault := fault }) })
    let data := if d.inbound then [] else dmaData d seed tile (s.dmaGather tile t.base d)
    ok.foldl (fun s p =>
      let full := decide (p.2.1 = 128)
      let op : AccOp := if d.inbound then .load else .store (((data.drop (dmaIndex ps p)).take p.2.1).map some)
      let a : Access := { id := 0, issue := t.issue, who := .dma tile entry, ctx := t.ctx, op := op
                          place := s.placeOf t.ctx p.1 (ofBool (!d.inbound)) (if d.inbound then .engineLoad else .engineStore)
                          va := p.1, len := p.2.1, hint := partHint (wHint d.word) full, cached := false, flag := false
                          join := none, stage := .moving }
      if d.inbound then s.launch a else s.dmaStore a) s

/-- TILE_DMA_START (R84, R85): with no free entry, or while a region owns the engine (R90), the group is not
ready. -/
def execTileDmaStart (tile slot : Nat) (d : DmaSpec) (s : State) : Host.Outcome State Fault Refusal :=
  .next (s.issueIf tile slot [keyP (wPred d.word)]
    (fun s g _ => (s.blockOf tile g).isSome && (s.tile tile).dmaFree.isSome && !s.owned tile 1 (dmaTicks d)) (fun s g p =>
    match s.blockOf tile g with
    | none => s
    | some b =>
      match (s.tile tile).dmaFree with
      | none => s
      | some entry =>
        if wClass d.word ≠ 0xA then s.illegal tile slot g p
        else match s.dmaFault d b.size g.ctx (some b) with
        | some e => s.preciseAt tile slot g p e.1 0 e.2
        | none =>
          if g.active p d.word = 0 then s.finish tile slot (g.step p 8)
          else
            let t : Dma := { spec := d, ctx := g.ctx, slot := slot, kern := g.kern, block := g.block, flume := none
                             base := b.base, pc := p.pc, mask := p.mask, issue := 0, due := 0, fault := none }
            (s.startDma tile entry t (s.seedOf g) none).finish tile slot (g.step p 8)))

/-- Test and wait (R84): a test writes 1 to s(DST) when the transfer is complete, else 0; a wait holds the group
until it is (assumption 34). -/
def execTileDmaTestWait (tile slot entry : Nat) (wait : Bool) (word : Word64) (s : State) : Host.Outcome State Fault Refusal :=
  .next (s.issue tile slot [keyP (wPred word)] (fun s g p =>
    let busy := match tabGet (s.tile tile).dma none entry with
      | some t => t.ctx == g.ctx && t.flume.isNone
      | none => false
    if 16 ≤ entry ∨ wClass word ≠ 0xA then s.illegal tile slot g p
    else if wait then s.finish tile slot { g.step p 8 with hold := if busy then .dma entry else .none }
    else
      let g' := if g.active p word = 0 then g else (g.setSreg (wDst word) (BitVec.ofNat 64 (ofBool (!busy)))).readyOn (keyS (wDst word)) 0
      s.finish tile slot (g'.step p 8)))

/-! ## Completion (R85, R93, R193) -/

/-- Bytes written to the rows of a transfer, from the first. -/
def State.dmaScatter (s : State) (tile base : Nat) (d : DmaSpec) (data : List Byte) : State :=
  (List.range d.rows).foldl (fun s i =>
    s.scratchWrite tile (base + d.scratch + i * d.scratchPitch) ((data.drop (i * d.rowLen)).take d.rowLen)) s

/-- A cluster transfer (R84): rows of this tile's window and of the rank's. -/
def State.dmaCluster (s : State) (tile : Nat) (t : Dma) (rank off : Nat) : State :=
  match (s.tile tile).blocks.find? (fun b => b.kern == t.kern && b.index == t.block) with
  | none => s
  | some b =>
    match s.rankBlock b rank with
    | none => s
    | some y =>
      let d := t.spec
      let other : DmaSpec := { d with scratch := off, scratchPitch := d.otherPitch }
      if d.inbound then s.dmaScatter tile t.base d (s.dmaGather y.1 y.2.base other)
      else s.dmaScatter y.1 y.2.base other (s.dmaGather tile t.base d)

/-- An access of a transfer is still under way. -/
def Access.open_ (a : Access) : Bool :=
  match a.stage with
  | .moving | .waiting | .forwarded => true
  | _ => false

def Access.data (a : Access) : List Byte :=
  match a.stage with
  | .served d _ => d
  | _ => []

/-- The bytes that arrived, before the first part that did not: written to scratch part by part, or, of a lossy
transfer, row by row. -/
def State.dmaArrive (s : State) (tile : Nat) (t : Dma) (va : Nat) (good : List Access) (seed : Word64 × Word64) : State :=
  let d := t.spec
  if d.compress = 2 then s.dmaScatter tile t.base d (dmaData d seed tile (good.flatMap Access.data))
  else
    let ps := dmaParts d va
    (good.zip ps).foldl (fun s ap => s.scratchWrite tile (t.base + ap.2.2.2) ap.1.data) s

/-- The fault a transfer ends with: its first part that returned one, else where it stopped. -/
def dmaEnd (t : Dma) (parts : List Access) : Option (Code × Nat) :=
  match parts.find? (fun a => a.fault.isSome) with
  | some a => some (a.fault.getD .memUncorrectable, a.va)
  | none => t.fault

/-- The groups that wait for an entry go on. -/
def Tile.dmaWake (x : Tile) (entry : Nat) : Tile :=
  { x with groups := x.groups.map (fun e => (e.1, e.2.map (fun g => if g.hold = .dma entry then { g with hold := .none } else g))) }

/-- A completion counter decremented (R85). -/
def State.dmaCount (s : State) (tile : Nat) (t : Dma) (k : Nat) : State :=
  s.modTile tile (fun x => { x with blocks := modIf x.blocks (fun b => b.kern == t.kern && b.index == t.block) (fun b =>
    { b with counters := tabSet b.counters 0 k ((tabGet b.counters 0 k + 2 ^ 32 - 1) % 2 ^ 32) }) })

/-- The target device and offset of the part that was rejected (R272). -/
def rejectedAt (parts : List Access) : Option (Nat × Nat) :=
  (parts.find? (fun a => a.fault.isSome)).bind (fun a => match a.stage, a.place with
    | .rejected, .remote dev off _ _ => some (dev, off)
    | _, _ => none)

/-- The fault record of a transfer (R356); one that R93 lists is deferred, a stop at an untranslated line is not. -/
def State.dmaFaultRec (s : State) (tile : Nat) (t : Dma) (e : Code × Nat) : FaultRec :=
  { faultOf e.1 0 with deferred := decide (e.1 ≠ .translationFault ∧ e.1 ≠ .linkBudget), tile := tile, slot := t.slot, queue := s.queueOfKern t.kern, where' := t.pc
                       lanes := t.mask, address := BitVec.ofNat 64 e.2 }

/-- TILE_DMA_COMPLETION (R84, R85, R193): once every part is over and its bytes have passed the ports, the data is in place, the counter is decremented
and the object signalled; a transfer that met a fault stops there. -/
def execTileDmaCompletion (tile entry : Nat) (s : State) : Host.Outcome State Fault Refusal :=
  match tabGet (s.tile tile).dma none entry with
  | none => .next s
  | some t =>
    let parts := s.flights.filter (fun a => decide (a.who = .dma tile entry))
    if !s.running ∨ parts.any Access.open_ then .next s
    else
      let s := s.waitWet t.due
      let d := t.spec
      let seed := match s.kernels.find? (fun k => k.id == t.kern) with
        | some k => (k.seed, k.step)
        | none => ((s.ctx t.ctx).jobSeed, (s.ctx t.ctx).step)
      let good := parts.takeWhile (fun a => a.fault.isNone)
      let s := match d.other with
        | .cluster rank off => s.dmaCluster tile t rank off
        | .memory va => if d.inbound then s.dmaArrive tile t va good seed else s
        | .prefetch _ => s
      let s : State := { s with flights := s.flights.filter (fun a => decide (a.who ≠ .dma tile entry)) }
      let s := s.modTile tile (fun x => ({ x with dma := tabSet x.dma none entry none }).dmaWake entry)
      match dmaEnd t parts with
      | some e =>
        let f := s.dmaFaultRec tile t e
        let f := match rejectedAt parts with
          | some r => { f with device := r.1, address := BitVec.ofNat 64 r.2 }
          | none => f
        .next (if t.flume.isSome then s.abortRegion f else (s.takeFault t.ctx none f).tryReady)
      | none =>
        let s := match t.flume with
          | some k => s.modTile tile (fun x => { x with flume := { x.flume with slots := tabSet x.flume.slots 0 k 2 } })
          | none => s
        let s := match d.counter with
          | some k => s.dmaCount tile t k
          | none => s
        match d.signal with
        | some (vid, v) =>
          .next (s.engineSignal .set (.dma tile entry) t.ctx vid v 0
            { faultOf .syncDenied 0 with tile := tile, slot := t.slot, queue := s.queueOfKern t.kern, where' := t.pc }).1.tryReady
        | none => .next s.tryReady

end Sys2Proof.Machine
end

