-- ==== Sys2Proof/Machine/Blocks.lean ====
section
/-! DEFINITION. Blocks and clusters start on their tiles (R53 to R55, R70, R99), and descheduled groups return (R59). -/

namespace Sys2Proof.Machine

/-- R52: group slots of a tile, and scratch bytes. -/
def groupSlots : Nat := 16
def scratchSize : Nat := 1572864

def Tile.freeSlots (x : Tile) : List Nat := (List.range groupSlots).filter (fun i => (x.group i).isNone)

/-- R59: the wet tick by which the groups that left a tile's slots are saved. -/
def Tile.slotsFrom (x : Tile) (slots : List Nat) : Nat := slots.foldl (fun m i => max m (tabGet x.freeAt 0 i)) 0

/-- R53: the groups of a block. -/
def groupsOf (threads : Nat) : Nat := (threads + 31) / 32

/-- R55: the lowest window of `n` bytes that overlaps no other block's. -/
def Tile.freeWindow (x : Tile) (n : Nat) : Option Nat :=
  ((0 :: x.blocks.map (fun b => b.base + b.size)).filter (fun a =>
    decide (a + n ≤ scratchSize) && x.blocks.all (fun b => decide (a + n ≤ b.base) || decide (b.base + b.size ≤ a)))).foldl
    (fun m a => match m with
      | none => some a
      | some y => some (min y a)) none

/-- R54: the tile is the context's, or holds no blocks of another. -/
def Tile.admits (x : Tile) (c : Nat) : Bool :=
  decide (x.ctx = some c) || (decide (x.blocks = []) && decide (x.saved = []) && x.dma.all (fun e => e.2.isNone))

/-- R59, R341: a descheduled group whose wait is satisfied, of a resident context, returns before any waiting block starts. -/
def State.returning (s : State) (tile : Nat) : Option Group :=
  (s.tile tile).saved.find? (fun g => decide (g.hold = .none) && !g.stopped && (s.ctx g.ctx).resident)

/-- A tile can start a block of a kernel, which is next in its order. -/
def State.canStart (s : State) (tile : Nat) (k : Kernel) (index : Nat) : Bool :=
  let x := s.tile tile
  x.waiting.head? == some (k.id, index) && x.admits k.ctx && (s.returning tile).isNone &&
  decide (groupsOf k.threads ≤ x.freeSlots.length) && (x.freeWindow k.scratch).isSome && !k.stop

/-- R99, R78: a tile that begins blocks of another context: array cleared, read-only cache empty. -/
def Tile.begin_ (x : Tile) (c : Nat) : Tile :=
  if x.ctx = some c then x
  else { x with ctx := some c, array := { MArray.reset with diag := false }, ro := [], roMiss := [] }

/-- R352: a group of a starting block: s0 to s3, lanes past the last thread exited (R53); every other register
reads zero (assumption 35). -/
def newGroup (k : Kernel) (uid index rank tile g : Nat) : Group :=
  let n := min 32 (k.threads - 32 * g)
  let regs : Tab Word64 := [(0, k.args), (1, BitVec.ofNat 64 index), (2, BitVec.ofNat 64 rank), (3, BitVec.ofNat 64 tile)]
  { uid := uid, kern := k.id, block := index, ctx := k.ctx, v := []
    s := regs.filter (fun e => decide (e.2 ≠ 0)), p := []
    paths := [⟨k.entry, BitVec.ofNat 32 (2 ^ n - 1), .no⟩], turn := 0, issued := 0, ready := []
    hold := .none, since := 0, readyAt := 0, stopped := false }

/-- A block placed on its tile. -/
def State.placeBlock (s : State) (tile : Nat) (k : Kernel) (index rank origin : Nat) : State :=
  let x := (s.tile tile).begin_ k.ctx
  let base := (x.freeWindow k.scratch).getD 0
  let n := groupsOf k.threads
  let b : Block := { kern := k.id, index := index, rank := rank, origin := origin, base := base, size := k.scratch
                     groups := n, counters := [] }
  let slots := x.freeSlots
  let groups := (List.range n).foldl (fun t g =>
    tabSet t none (slots.getD g 0) (some (newGroup k (s.nextId + g) index rank tile g))) x.groups
  let s := s.setTile tile { x with blocks := x.blocks ++ [b], waiting := x.waiting.drop 1, groups := groups }
  let s := s.modKernel k.id (fun k => { k with started := k.started + 1 })
  { s with nextId := s.nextId + n }

/-- BLOCK_START (R54, R70, R99): the next block of the tile starts with its whole cluster, once every tile of the
cluster can start its block and the groups that left its slots are saved (R59). The clearing for another context takes
1,024 ticks. -/
def execBlockStart (tile : Nat) (s : State) : Host.Outcome State Fault Refusal :=
  if !s.running then .next s else
  match (s.tile tile).waiting with
  | [] => .next s
  | (kid, index) :: _ =>
    match s.kernels.find? (fun k => k.id == kid) with
    | none => .next s
    | some k =>
      let size := max 1 (k.cw * k.ch)
      let first := index / size * size
      let members := (List.range size).map (fun r => (r, first + r, k.place.getD (first + r) 0))
      if members.all (fun m => s.canStart m.2.2 k m.2.1) then
        let fresh := members.any (fun m => let c := (s.tile m.2.2).ctx; c.isSome && decide (c ≠ some k.ctx))
        let s := s.waitWet (members.foldl (fun n m =>
          max n ((s.tile m.2.2).slotsFrom ((s.tile m.2.2).freeSlots.take (groupsOf k.threads)))) 0)
        let s := if fresh then s.waitWet (s.due 1024) else s
        .next (members.foldl (fun s m => s.placeBlock m.2.2 k m.2.1 m.1 (k.place.getD first 0)) s)
      else .next s

/-- GROUP_RESTORE (R59, R341): a descheduled group of a resident context whose wait is satisfied takes the first free slot, in 67 ticks. -/
def execGroupRestore (tile : Nat) (s : State) : Host.Outcome State Fault Refusal :=
  if !s.running then .next s else
  let x := s.tile tile
  match s.returning tile, x.freeSlots with
  | some g, slot :: _ =>
    let s := s.waitWet (x.slotsFrom [slot])
    .next (s.setTile tile { x with
      saved := x.saved.filter (fun y => y.uid != g.uid)
      groups := tabSet x.groups none slot (some { g with readyAt := max g.readyAt (s.due 67) }) })
  | _, _ => .next s

end Sys2Proof.Machine
end

