-- ==== Sys2Proof/Machine/Queues.lean ====
section
/-! DEFINITION. Queues (R339, R342, R348 to R350, R352 to R354): doorbells, residency, descriptors of every type but
FLUME and INTAKE, copy segments, and completion. -/

namespace Sys2Proof.Machine

/-! ## Descriptors (R350) -/

def dTag (d : BitVec 512) : Nat := bvFld d 16 16
def dCr (d : BitVec 512) : Bool := d.getLsbD 8
def dIrq (d : BitVec 512) : Bool := d.getLsbD 9
def dSig (d : BitVec 512) : Bool := d.getLsbD 10
def dSigAdd (d : BitVec 512) : Bool := d.getLsbD 11
def dRflush (d : BitVec 512) : Bool := d.getLsbD 12
def dFlag (d : BitVec 512) : Bool := d.getLsbD 13
def dHint (d : BitVec 512) : Nat := bvFld d 14 2
def dVid (d : BitVec 512) : Nat := bvFld d 32 32
def dSigValue (d : BitVec 512) : Word64 := BitVec.ofNat 64 (bvFld d 64 64)
def dCrAddr (d : BitVec 512) : Nat := bvFld d 128 64

/-- R508: DETAIL for an offending field whose lowest bit is `b`. -/
def badField (b : Nat) : Nat := 0x1000 + b

/-- Queue kinds, in the order of the type table (assumption 36). -/
def kindCopy : Nat := 0
def kindCompute : Nat := 1
def kindFlume : Nat := 2
def kindIntake : Nat := 3

/-- The first of some zero fields (lowest bit, width) that is not zero. -/
def nonZero (d : BitVec 512) (fs : List (Nat × Nat)) : Option Nat :=
  (fs.find? (fun f => decide (bvFld d f.1 f.2 ≠ 0))).map (fun f => f.1)

/-- R350: what is wrong with the common fields of a descriptor of a type, and with its zero fields. -/
def descBad (d : BitVec 512) (type : Nat) (kindOk : Bool) (compute copy : Bool) (zeros : List (Nat × Nat)) : Option Nat :=
  if bvFld d 0 8 ≠ type ∨ !kindOk then some (badField 0)
  else if dRflush d ∧ !compute then some (badField 12)
  else if dFlag d ∧ !copy then some (badField 13)
  else if dCr d ∧ dCrAddr d % 32 ≠ 0 then some (badField 128)
  else (nonZero d zeros).map badField

/-! ## A queue's progress -/

/-- R341, R342, R349: the queue may start its next descriptor. -/
def State.mayStart (s : State) (c q : Nat) : Bool :=
  let x := s.queue c q
  decide ((s.ctx c).st = .resident) && !(s.ctx c).expired && decide (x.st = .running) && x.work.isNone &&
  x.c != x.p && !(x.overrun == some x.c)

/-- The descriptor at C is in progress. -/
def State.setWork (s : State) (c q : Nat) (d : BitVec 512) (w : Work) : State :=
  s.modQueue c q (fun x => { x with held := some d, work := some w, stage := 0, failed := false })

/-- A fault of a descriptor (R350, R356): it completes with the fault, its queue stops at it. -/
def State.descFault (s : State) (c q : Nat) (d : BitVec 512) (code : Code) (detail address : Nat) : State :=
  let pos := (s.queue c q).c
  (s.setWork c q d (.done code.value detail 0)).takeFault c (some q) { faultOf code detail with
    queue := q, where' := pos.setWidth 64, address := BitVec.ofNat 64 address }

/-- A structure that cannot be read (R343, R350, R193). -/
def State.structFault (s : State) (c q : Nat) (d : BitVec 512) (field : Nat) : StructErr → State
  | .fabric => s.descFault c q d .descInvalid (badField field) 0
  | .page va => s.descFault c q d .translationFault 0 va
  | .poison va => s.descFault c q d .memUncorrectable 0 va

/-- A descriptor started: checked, then `f`. -/
def State.startDesc (s : State) (c q : Nat) (d : BitVec 512) (type : Nat) (kind : Option Nat) (zeros : List (Nat × Nat))
    (f : State → State) : State :=
  if s.mayStart c q then
    let ok := match kind with
      | some k => (s.queue c q).kind == k
      | none => true
    match descBad d type ok (kind == some kindCompute) (kind == some kindCopy) zeros with
    | some b => s.descFault c q d .descInvalid b 0
    | none => f s
  else s

/-- NOP (R350): completes at once. -/
def execDescNop (ctx queue : Nat) (desc : BitVec 512) (s : State) : Host.Outcome State Fault Refusal :=
  .next (s.startDesc ctx queue desc 0x00 none [(192, 320)] (fun s => s.setWork ctx queue desc (.done 0 0 0)))

/-- SET_STEP (R350): in queue order. -/
def execDescSetStep (ctx queue : Nat) (desc : BitVec 512) (s : State) : Host.Outcome State Fault Refusal :=
  .next (s.startDesc ctx queue desc 0x13 none [(256, 256)] (fun s =>
    ((s.modCtx ctx (fun x => { x with step := BitVec.ofNat 64 (bvFld desc 192 64) })).stepBoundary).setWork ctx queue desc (.done 0 0 0)))

/-! ## The completion record (R353) -/

/-- The 32 bytes of a completion record. -/
def recordBytes (status tag c q detail : Nat) (index : Word32) (result : Nat) (tick : Word64) : List Byte :=
  leBytes 32 (status % 2 ^ 16 + tag * 2 ^ 16 + c % 2 ^ 12 * 2 ^ 32 + q % 16 * 2 ^ 44 + detail % 2 ^ 16 * 2 ^ 48 +
    index.toNat * 2 ^ 64 + result % 2 ^ 64 * 2 ^ 128 + tick.toNat * 2 ^ 192)

/-- R349 step 2: the record of the descriptor at C, where it asks for one. -/
def State.writeRecord (s : State) (c q : Nat) (d : BitVec 512) (status detail result : Nat) : State :=
  if !dCr d ∨ dCrAddr d % 32 ≠ 0 then s
  else
    let r := recordBytes status (dTag d) c q detail (s.queue c q).c result s.tick
    match s.writeStruct c (dCrAddr d) r with
    | some s => s
    | none =>
      let fab := match (s.ctx c).translate (dCrAddr d) 1 with
        | some (.fabric ..) => true
        | _ => false
      let code := if fab then Code.descInvalid else Code.translationFault
      s.takeFault c (some q) { faultOf code (if fab then badField 128 else 0) with
        queue := q, where' := (s.queue c q).c.setWidth 64, address := BitVec.ofNat 64 (dCrAddr d) }

/-! ## WAIT, SIGNAL, ARRIVE (R350) -/

def State.placeDesc (s : State) (c q : Nat) : FaultRec :=
  { faultOf .syncDenied 0 with queue := q, where' := (s.queue c q).c.setWidth 64 }

/-- WAIT: stops the queue until the wait completes. -/
def execDescWait (ctx queue : Nat) (desc : BitVec 512) (s : State) : Host.Outcome State Fault Refusal :=
  .next (s.startDesc ctx queue desc 0x10 none [(288, 224)] (fun s =>
    let vid := bvFld desc 256 32
    match s.waitRef ctx vid with
    | .error r => (s.countWaitDenied ctx vid r).descFault ctx queue desc .syncDenied r vid
    | .ok (i, h) =>
      let w : Wait := { id := s.nextId, who := .queue ctx queue, ctx := ctx, index := i, handle := h, vid := vid
                        target := BitVec.ofNat 64 (bvFld desc 192 64), state := .moving, since := s.hal.ms }
      (s.fresh.modSync (fun y => { y with waits := y.waits ++ [w] })).setWork ctx queue desc (.wait w.id)))

/-- A signalling descriptor's operation sent; a denied one that raises no fault is done (R315). -/
def State.descSend (s : State) (c q : Nat) (kind : SyncKind) (vid : Nat) (v : Word64) (n : Nat) : State :=
  let r := s.engineSignal kind (.queue c q) c vid v n (s.placeDesc c q)
  match r.2 with
  | some id => r.1.modQueue c q (fun x => { x with work := some (.signal id), stage := 2 })
  | none => r.1.modQueue c q (fun x => if x.st = .running then { x with work := some (.done 0 0 0), stage := 2 } else x)

/-- The kind of a descriptor's signal (R350). -/
def sigKind (d : BitVec 512) : SyncKind := if dSigAdd d then .add else .set
def sigAmount (d : BitVec 512) : Word64 := if dSigAdd d then BitVec.ofNat 64 (bvFld d 64 32) else dSigValue d

/-- SIGNAL: SIG must be 1; the completion record comes first (R349). -/
def execDescSignal (ctx queue : Nat) (desc : BitVec 512) (s : State) : Host.Outcome State Fault Refusal :=
  .next (s.startDesc ctx queue desc 0x11 none [(192, 320)] (fun s =>
    if !dSig desc then s.descFault ctx queue desc .descInvalid (badField 10) 0
    else
      let s := (s.setWork ctx queue desc (.done 0 0 0)).writeRecord ctx queue desc 0 0 0
      s.descSend ctx queue (sigKind desc) (dVid desc) (sigAmount desc) 0))

/-- ARRIVE: generation, virtual ID and count (R318). -/
def execDescArrive (ctx queue : Nat) (desc : BitVec 512) (s : State) : Host.Outcome State Fault Refusal :=
  .next (s.startDesc ctx queue desc 0x12 none [(304, 208)] (fun s =>
    if bvFld desc 288 16 = 0 then s.descFault ctx queue desc .descInvalid (badField 288) 0
    else
      let s := s.setWork ctx queue desc (.done 0 0 0)
      let s := s.descSend ctx queue .arrive (bvFld desc 256 32) (BitVec.ofNat 64 (bvFld desc 192 64)) (bvFld desc 288 16)
      s.modQueue ctx queue (fun x => { x with stage := 0 })))

/-! ## COPY (R354, R273, R259) -/

structure CopyDesc where
  src : Nat
  dst : Nat
  rowLen : Nat
  rows : Nat
  compress : Nat
  wide : Bool
  srcPitch : Nat
  dstPitch : Nat
  stream : Nat
  deriving DecidableEq, Repr

def copyOf (d : BitVec 512) : CopyDesc :=
  let len := bvFld d 320 32 + 1
  let pitch : Nat → Nat := fun p => if p = 0 then len else p
  { src := bvFld d 192 64, dst := bvFld d 256 64, rowLen := len, rows := bvFld d 352 16 + 1, compress := bvFld d 368 2
    wide := !d.getLsbD 370, srcPitch := pitch (bvFld d 384 32), dstPitch := pitch (bvFld d 416 32), stream := bvFld d 480 32 }

def CopyDesc.total (k : CopyDesc) : Nat := k.rows * k.rowLen

/-- The first and the last byte of a range lie in one memory object, one mapped host range, or one fabric
mapping, with the permission. -/
def State.boundsOk (s : State) (c va n perm : Nat) : Bool :=
  let x := s.ctx c
  match x.mapOf va, x.mapOf (va + n - 1) with
  | some a, some b =>
    a.allows perm && b.allows perm && a.obj == b.obj &&
    (match a.at va, b.at (va + n - 1) with
     | .dram _, .dram _ => true
     | .host i, .host j => j == i + n - 1
     | .fabric t i, .fabric u j => t == u && j == i + n - 1
     | _, _ => false)
  | _, _ => false

/-- R354 step 1: every row, and the transfer from its first byte to its last. -/
def State.copyBounds (s : State) (c : Nat) (k : CopyDesc) : Bool :=
  (List.range k.rows).all (fun i =>
    s.boundsOk c (k.src + i * k.srcPitch) k.rowLen 0 && s.boundsOk c (k.dst + i * k.dstPitch) k.rowLen 1) &&
  decide ((s.ctx c).mapOf k.src |>.isSome)

/-- R252, R273: the fabric checks of one row at one end of a copy: it may go; it lies behind a chain route. -/
def State.copyFabric (s : State) (c va perm : Nat) (u : FabUse) (compress : Bool) : Bool × Bool :=
  match s.reach c va perm u with
  | .noFabric => (false, false)
  | .place (.remote _ _ route _) => (!compress || s.compressOk route, true)
  | _ => (true, false)

/-- R273: every row passes at both ends, and each row of a compressed copy has an end behind a chain route. -/
def State.copyFabricOk (s : State) (c : Nat) (k : CopyDesc) : Bool :=
  (List.range k.rows).all (fun i =>
    let a := s.copyFabric c (k.src + i * k.srcPitch) 0 .engineLoad (k.compress != 0)
    let b := s.copyFabric c (k.dst + i * k.dstPitch) 1 .engineStore (k.compress != 0)
    a.1 && b.1 && (k.compress == 0 || a.2 || b.2))

/-- COPY (R354): validated whole; then it moves in segments. -/
def execDescCopy (ctx queue : Nat) (desc : BitVec 512) (s : State) : Host.Outcome State Fault Refusal :=
  .next (s.startDesc ctx queue desc 0x01 (some kindCopy) [(371, 13), (448, 32)] (fun s =>
    let k := copyOf desc
    if 2 ^ 32 < k.total then s.descFault ctx queue desc .descInvalid (badField 320) 0
    else if k.compress = 3 then s.descFault ctx queue desc .descInvalid (badField 368) 0
    else if !s.copyBounds ctx k then s.descFault ctx queue desc .descBounds 0 0
    else if !s.copyFabricOk ctx k then s.descFault ctx queue desc .fabricAccess 0 k.dst
    else s.setWork ctx queue desc (.copy 0 none (s.ctx ctx).step (s.ctx ctx).jobSeed)))

/-- The bytes of a copy from position `at_`, as runs within one row: (source, destination, length). -/
def copyRuns : Nat → CopyDesc → Nat → Nat → List (Nat × Nat × Nat)
  | 0, _, _, _ => []
  | _, _, _, 0 => []
  | f + 1, k, at_, n =>
    let col := at_ % k.rowLen
    let row := at_ / k.rowLen
    let m := min n (k.rowLen - col)
    (k.src + row * k.srcPitch + col, k.dst + row * k.dstPitch + col, m) :: copyRuns f k (at_ + m) (n - m)

/-- The runs of `n` bytes of a copy from position `at_`. -/
def copySegment (k : CopyDesc) (at_ n : Nat) : List (Nat × Nat × Nat) := copyRuns (n / k.rowLen + 2) k at_ n

/-- The parts of a segment, one per line of each row: address and length, of the source or of the destination. -/
def copyParts (runs : List (Nat × Nat × Nat)) (end_ : Nat × Nat × Nat → Nat) : List (Nat × Nat) :=
  runs.flatMap (fun r => (partsOf (end_ r) r.2.2).map (fun p => (p.1 * 128 + p.2.1, p.2.2)))

/-- The loads of a copy's segment that are out or have returned. -/
def State.copyLoads (s : State) (c q : Nat) : List Access :=
  s.flights.filter (fun a => decide (a.who = .queue c q) && decide (a.op = .load))

/-- R224: a segment's loads are sent to the homes and the cistern, before the first line that does not translate. -/
def State.copyRead (s : State) (c q hint : Nat) (parts : List (Nat × Nat)) : Option (Code × Nat) × State :=
  parts.foldl (fun acc p =>
    match acc.1 with
    | some _ => acc
    | none =>
      match acc.2.reachFault c p.1 p.2 0 .engineLoad with
      | (some e, s) => (some (e, p.1), s)
      | (none, s) =>
        (none, s.launch { id := 0, issue := 0, who := .queue c q, ctx := c, op := .load, place := s.placeOf c p.1 0 .engineLoad
                          va := p.1, len := p.2, hint := partHint hint (p.2 == 128), cached := false, flag := false, join := none
                          stage := .moving })) (none, s)

/-- One part of a copy's destination, within a line; the fault where it cannot be written. A remote part goes past
the cistern (R234) and is acknowledged later. -/
def State.copyWrite (s : State) (c q va hint : Nat) (d : List Byte) : Except Code State :=
  match s.reach c va 1 .engineStore with
  | .noPage => .error .translationFault
  | .noFabric => .error .fabricAccess
  | .place (.dram a) =>
    if s.repair.failed.elem (s.channelOf (a / 128)) then .error .memUncorrectable
    else .ok (s.storeLine (a / 128) (a % 128) (partHint hint (d.length == 128)) (d.map some))
  | .place (.host i) =>
    let (ok, s) := s.hostRange (s.ctx c).pasid i d.length
    if ok then .ok (s.hostWrite (s.ctx c).pasid i d) else .error .translationFault
  | .place (.remote dev off route slot) =>
    let s := s.flushFirst dev (off / 128) route c
    let s := s.launch { id := 0, issue := 0, who := .queue c q, ctx := c, op := .store (d.map some)
                        place := .remote dev off route slot, va := va, len := d.length, hint := hint
                        cached := false, flag := false, join := none, stage := .forwarded }
    .ok (s.sendFabric dev route (.store off (d.map some)) (some (s.nextId - 1)) none c)

/-- Where a segment's writes have come: the bytes of the transfer written, why it stopped, whether the flag store waits
(R259). -/
structure CopyRun where
  moved : Nat
  fault : Option (Code × Nat)
  held  : Bool

/-- The writes of a segment that begins at `start`: the bytes before `moved` are written already; `total` bytes are the
whole transfer, `flag` its last write's form. -/
def State.copyScatter (s : State) (c q hint total : Nat) (flag : Bool) (start moved : Nat) (parts : List (Nat × Nat))
    (data : List Byte) : CopyRun × State :=
  (parts.foldl (fun acc p =>
    let done := acc.1
    let r := acc.2.1
    let s := acc.2.2
    let d := (data.drop (done - start)).take p.2
    let next := done + p.2
    if r.fault.isSome || r.held || decide (d.length ≠ p.2) || decide (next ≤ r.moved) then (next, r, s)
    else if flag && decide (total ≤ next) && s.fab.out.any (fun o => o.left) then (next, { r with held := true }, s)
    else match s.copyWrite c q p.1 hint d with
      | .ok s => (next, { r with moved := next }, s)
      | .error e => (next, { r with fault := some (e, p.1) }, s)) (start, ⟨moved, none, false⟩, s)).2

/-- R275: what a segment's bytes decode to; a segment begins at a block. -/
def copyDecode (k : CopyDesc) (seed step : Word64) (start : Nat) (data : List Byte) : List Byte :=
  if k.compress = 2 then lossyDecode k.wide seed step k.stream 0 (start / (if k.wide then 128 else 64)) data else data

/-- The bytes a segment's loads brought, before the first that brought a fault. -/
def loadedBytes (loads : List Access) : List Byte := (loads.takeWhile (fun a => a.fault.isNone)).flatMap Access.data

/-- Why a segment's loads stopped: the first that brought poison (R193) or a rejection (R251), else the line that did not
translate. -/
def copyStop (loads : List Access) (stop : Option (Code × Nat)) : Option (Code × Nat) :=
  match loads.find? (fun a => a.fault.isSome) with
  | some a => some (a.fault.getD .memUncorrectable, a.va)
  | none => stop

/-- A copy in progress: bytes moved, where its segment's loads stopped, STEP and JOB_SEED. -/
def Queue.copying (q : Queue) : Option (Nat × Option (Code × Nat) × Word64 × Word64) :=
  match q.work with
  | some (.copy moved stop step seed) => some (moved, stop, step, seed)
  | _ => none

/-- R354 step 3: the active copy queues, as 16 · context + queue. -/
def State.copyQueues (s : State) : List Nat :=
  s.ctxs.flatMap (fun e => (e.2.queues.filter (fun x => x.2.copying.isSome)).map (fun x => 16 * e.1 + x.1))

/-- The queue served after the last one, round robin. -/
def nextOf (last : Nat) (qs : List Nat) : Option Nat :=
  let least : List Nat → Option Nat := fun l => match l with
    | [] => none
    | a :: r => some (r.foldl min a)
  match least (qs.filter (fun x => decide (last < x))) with
  | some x => some x
  | none => least qs

/-- The queue whose segment is under way, else the next in turn. -/
def State.copyTurn (s : State) : Option Nat :=
  match s.copyQueues.find? (fun n => decide (s.copyLoads (n / 16) (n % 16) ≠ [])) with
  | some n => some n
  | none => nextOf s.copyNext s.copyQueues

/-- The end of a segment whose parts are written: the next segment, the descriptor's completion, or its fault. -/
def State.copyNote (s : State) (c q : Nat) (k : CopyDesc) (loads : List Access) (stop : Option (Code × Nat)) (step seed : Word64)
    (r : CopyRun) : State :=
  match (match r.fault with
    | some e => some e
    | none => copyStop loads stop) with
  | some e =>
    let f := { faultOf e.1 0 with queue := q, where' := (s.queue c q).c.setWidth 64, address := BitVec.ofNat 64 e.2 }
    let f := match rejectedAt loads with
      | some t => { f with device := t.1, address := BitVec.ofNat 64 t.2 }
      | none => f
    (s.modQueue c q (fun x => { x with work := some (.done e.1.value 0 r.moved) })).takeFault c (some q) f
  | none =>
    s.modQueue c q (fun x => { x with
      work := some (if k.total ≤ r.moved then .done 0 0 r.moved else .copy r.moved none step seed) })

/-- What follows a segment's writing: a wait for the posted writes before the flag, or the segment's end. -/
def copyAfter (c q : Nat) (k : CopyDesc) (loads : List Access) (data : List Byte) (stop : Option (Code × Nat)) (step seed : Word64)
    (x : CopyRun × State) : State :=
  if x.1.held then x.2.modQueue c q (fun y => { y with work := some (.copy x.1.moved stop step seed) })
  else
    let s := if k.compress = 0 then x.2 else
      x.2.emit (.compressed k.compress (if k.compress = 1 then losslessBytes (some k.wide) data else lossyBytes k.wide data.length))
    let s : State := { s with
      flights := s.flights.filter (fun a => !(decide (a.who = .queue c q) && decide (a.op = .load))), copyNext := 16 * c + q }
    s.copyNote c q k loads stop step seed x.1

/-- The end of a segment whose loads have returned: what they brought is decoded and written, and the copy goes on, waits with
its last write (R259), or ends with its fault. -/
def State.copyEnd (s : State) (c q : Nat) (d : BitVec 512) (moved : Nat) (stop : Option (Code × Nat)) (step seed : Word64) : State :=
  let k := copyOf d
  let start := moved / 2 ^ 20 * 2 ^ 20
  let want := min (2 ^ 20) (k.total - start)
  let loads := s.copyLoads c q
  let data := copyDecode k seed step start (loadedBytes loads)
  copyAfter c q k loads data stop step seed
    (s.copyScatter c q (dHint d) k.total (dFlag d) start moved (copyParts (copySegment k start want) (fun r => r.2.1)) data)

/-- COPY_SEGMENT (R354): the engine sends the loads of the next segment of 1 MiB; once they have returned, it writes the
segment. -/
def execCopySegment (s : State) : Host.Outcome State Fault Refusal :=
  match s.copyTurn with
  | none => .next s
  | some n =>
    let c := n / 16
    let q := n % 16
    match (s.queue c q).copying, (s.queue c q).held with
    | some (moved, stop, step, seed), some d =>
      let loads := s.copyLoads c q
      if loads = [] then
        let k := copyOf d
        let want := min (2 ^ 20) (k.total - moved)
        let (stop, s) := s.copyRead c q (dHint d) (copyParts (copySegment k moved want) (fun r => r.1))
        if s.copyLoads c q = [] then .next (s.copyEnd c q d moved stop step seed)
        else .next (s.modQueue c q (fun x => { x with work := some (.copy moved stop step seed) }))
      else if loads.any Access.open_ then .next s
      else .next (s.copyEnd c q d moved stop step seed)
    | _, _ => .next s

/-! ## COMPUTE (R352, R70) -/

def u8At (d : List Byte) (i : Nat) : Nat := leNat (sliceAt d i 1)
def u16At (d : List Byte) (i : Nat) : Nat := leNat (sliceAt d i 2)
def u32At (d : List Byte) (i : Nat) : Nat := leNat (sliceAt d i 4)
def u64At (d : List Byte) (i : Nat) : Nat := leNat (sliceAt d i 8)

/-- R352, R4: the twelve values at an offset are the device's. -/
def State.paramsMatch (s : State) (d : List Byte) (at_ : Nat) : Bool :=
  s.sec.recordOk && (List.range 12).all (fun i => u32At d (at_ + 4 * i) == s.mod.record.params.getD i 0)

/-- R70: a cluster shape. -/
def shapeOk (w h : Nat) : Bool :=
  (decide (w ≤ 4) && decide (h ≤ 4)) || (decide (w ≤ 2) && decide (h ≤ 8)) || (decide (w ≤ 8) && decide (h ≤ 2))

def zerosIn (d : List Byte) (rs : List (Nat × Nat)) : Bool := rs.all (fun r => (sliceAt d r.1 r.2).all (fun b => b == 0))

/-- R352: a field of the record out of range (4), or the shape (3). -/
def launchBad (d : List Byte) : Option Nat :=
  let blocks := u32At d 8
  let threads := u16At d 12
  let scratch := u32At d 16
  let w := u8At d 20
  let h := u8At d 21
  if !zerosIn d [(14, 2), (22, 2), (32, 16), (96, 160)] ∨ u64At d 0 % 8 ≠ 0 ∨ blocks = 0 ∨ 2 ^ 24 < blocks ∨
     threads = 0 ∨ 512 < threads ∨ scratch % 4096 ≠ 0 ∨ scratchSize < scratch ∨ w = 0 ∨ h = 0 then some 4
  else if !shapeOk w h then some 3 else none

/-- R352, R70: a placement out of range (1), or a cluster that does not fill its rectangle (2). -/
def placeBad (w h : Nat) (place : List Nat) : Option Nat :=
  let n := w * h
  if place.any (fun t => decide (numTiles ≤ t)) then some 1
  else if place.length % n ≠ 0 ∨ (List.range place.length).any (fun i =>
      let o := place.getD (i / n * n) 0
      let r := i % n
      decide (place.getD i 0 ≠ o + r / w * 48 + r % w) || decide (48 < o % 48 + w)) then some 2
  else none

/-- A launched grid: the kernel, and its blocks waiting on their tiles in order (R54). -/
def State.launchKernel (s : State) (k : Kernel) : State :=
  let s : State := { s.fresh with kernels := s.kernels ++ [k] }
  ((List.range k.place.length).zip k.place).foldl (fun s e =>
    s.modTile e.2 (fun x => { x with waiting := x.waiting ++ [(k.id, e.1)] })) s

/-- COMPUTE (R352): PARAMS first, then the record, the placement and the clusters. -/
def execDescCompute (ctx queue : Nat) (desc : BitVec 512) (s : State) : Host.Outcome State Fault Refusal :=
  .next (s.startDesc ctx queue desc 0x02 (some kindCompute) [(320, 192)] (fun s =>
    match s.readStruct ctx (bvFld desc 192 64) 256 with
    | (.error e, s) => s.structFault ctx queue desc 192 e
    | (.ok d, s) =>
      if !s.paramsMatch d 48 then s.descFault ctx queue desc .paramMismatch 0 0
      else match launchBad d with
      | some r => s.descFault ctx queue desc .launchRefused r 0
      | none =>
        match s.readStruct ctx (u64At d 24) (2 * u32At d 8) with
        | (.error e, s) => s.structFault ctx queue desc 192 e
        | (.ok pl, s) =>
          let place := (List.range (u32At d 8)).map (fun i => u16At pl (2 * i))
          match placeBad (u8At d 20) (u8At d 21) place with
          | some r => s.descFault ctx queue desc .launchRefused r 0
          | none =>
            let x := s.ctx ctx
            let k : Kernel := { id := s.nextId, ctx := ctx, queue := queue, entry := BitVec.ofNat 64 (u64At d 0)
                                args := BitVec.ofNat 64 (bvFld desc 256 64), blocks := u32At d 8, threads := u16At d 12
                                scratch := u32At d 16, cw := u8At d 20, ch := u8At d 21, place := place, started := 0, ended := 0
                                step := x.step, seed := x.jobSeed, stop := false, fault := none, flush := dRflush desc }
            (s.launchKernel k).setWork ctx queue desc (.compute k.id)))

/-! ## Completion (R349, R353, R238) -/

/-- R238: everything a kernel sent is acknowledged. -/
def State.kernelQuiet (s : State) (k : Kernel) : Bool :=
  decide (k.ended = k.blocks) && !s.issues.any (fun i => i.kern == k.id) && !s.sync.ops.any (fun o => o.kern == k.id && decide (o.ctx = k.ctx))

/-- The blocks and groups of a kernel leave their tiles. -/
def Tile.dropKernel (x : Tile) (k : Nat) : Tile :=
  let gone := (x.groups.filterMap (fun e => e.2)).filter (fun g => g.kern == k)
  { x with
    blocks := x.blocks.filter (fun b => b.kern != k), waiting := x.waiting.filter (fun w => w.1 != k)
    groups := x.groups.filter (fun e => match e.2 with
      | some g => g.kern != k
      | none => false)
    saved := x.saved.filter (fun g => g.kern != k)
    dma := x.dma.filter (fun e => match e.2 with
      | some t => t.kern != k || t.flume.isSome
      | none => false)
    ro := if gone = [] ∧ x.blocks.all (fun b => b.kern != k) then x.ro else []
    roMiss := if gone = [] ∧ x.blocks.all (fun b => b.kern != k) then x.roMiss else []
    array := gone.foldl (fun a g => a.release g.uid) x.array }

def State.dropKernel (s : State) (k : Nat) : State :=
  { s with
    kernels := s.kernels.filter (fun x => x.id != k)
    tiles := s.tiles.map (fun (e : Nat × Tile) => (e.1, e.2.dropKernel k)) }

/-- R342: the queue has work it can start. -/
def Queue.runnable (q : Queue) : Bool := decide (q.st = .running) && q.work.isNone && q.c != q.p

/-- QUEUE_OVERRUN (R348): the descriptors announced before it are complete. -/
def State.checkOverrun (s : State) (c q : Nat) : State :=
  let x := s.queue c q
  if x.overrun = some x.c ∧ x.st = .running then
    (s.modQueue c q (fun x => { x with overrun := none })).takeFault c (some q)
      { faultOf .queueOverrun 0 with queue := q, where' := x.c.setWidth 64 }
  else s

/-- R349 steps 4 and 5: C advances and is written back as 8 bytes, the message is sent, and the queue is free for
its next descriptor. -/
def State.advance (s : State) (c q : Nat) (d : BitVec 512) : State :=
  let s := s.modQueue c q (fun x => { x with c := x.c + 1, work := none, held := none, stage := 0, failed := false })
  let x := s.queue c q
  let s := match s.writeStruct c x.wb (leBytes 8 x.c.toNat) with
    | some s => s
    | none => s.takeFault c (some q) { faultOf .translationFault 0 with
        queue := q, where' := x.c.setWidth 64, address := BitVec.ofNat 64 x.wb }
  let s := if dIrq d then s.sendMsix (s.ctx c).fn x.msix else s
  s.checkOverrun c q

/-- The steps of a completion that are still to come: 0 the record, 1 the signal, 2 the advance. A faulted
descriptor gets its record and stays at C (R356). -/
def State.complete (s : State) (c q : Nat) (d : BitVec 512) (status detail result stage : Nat) : State :=
  if 1 < status then
    let s := s.writeRecord c q d status detail result
    (s.modQueue c q (fun x => { x with work := none, stage := 0, failed := true }))
  else
    let s := if stage = 0 then s.writeRecord c q d status detail result else s
    if (s.queue c q).st ≠ .running then s
    else if stage < 2 ∧ dSig d then s.descSend c q (sigKind d) (dVid d) (sigAmount d) 0
    else s.advance c q d

/-- A compute descriptor's end (R238): quiet, its completion flush started and ended. -/
def State.completeKernel (s : State) (c q : Nat) (d : BitVec 512) (k : Kernel) : State :=
  if !s.kernelQuiet k ∨ s.walks.any (fun w => decide (w.who = .queue c q)) then s
  else if k.flush then
    let s : State := { s.fresh with walks := s.walks ++ [{ id := s.nextId, kind := .flush, ranges := none, who := .queue c q
                                                           untilTick := some (s.wet.toNat + walkTicks none), acks := [], ended := false }] }
    s.modKernel k.id (fun k => { k with flush := false })
  else
    (s.dropKernel k.id).complete c q d 0 0 0 0

/-- DESCRIPTOR_COMPLETION (R349). A descriptor whose work goes on stays as it is. -/
def execDescriptorCompletion (ctx queue : Nat) (s : State) : Host.Outcome State Fault Refusal :=
  let x := s.queue ctx queue
  match x.work, x.held with
  | some (.done st det r), some d =>
    if s.flights.any (fun a => decide (a.who = .queue ctx queue) && a.open_) then .next s
    else
      let s : State := { s with flights := s.flights.filter (fun a => decide (a.who ≠ .queue ctx queue)) }
      let s := (s.kernels.filter (fun k => k.ctx == ctx && k.queue == queue)).foldl (fun s k => s.dropKernel k.id) s
      .next (s.complete ctx queue d st det r x.stage)
  | some (.compute id), some d =>
    (match s.kernels.find? (fun k => k.id == id) with
     | some k => .next (s.completeKernel ctx queue d k)
     | none => .next s)
  | _, _ => .next s

/-! ## Doorbells (R339, R348) -/

/-- R348: what a new producer count does: the count applied, ignored, or an overrun. -/
inductive Bell
  | applied (p : Word32) | ignored | overrun
  deriving DecidableEq, Repr

def bell (p c new : Word32) (log2 : Nat) : Bell :=
  let step := (new - p).toNat
  if step = 0 then .ignored
  else if step + (p - c).toNat ≤ 2 ^ log2 then .applied new
  else .overrun

def State.countDiscard (s : State) (f : Nat) : State :=
  s.modFn f (fun x => { x with discarded := satAdd 32 x.discarded 1 })

/-- R339: the context whose doorbell pages hold position `j` of a function. -/
def State.bellCtx (s : State) (f j : Nat) : Option Nat :=
  if f = 0 then (if j < numCtxs ∧ (s.ctx j).fn = 0 then some j else none) else (s.fn f).ctxs[j]?

/-- DOORBELL_WRITE (R339, R348). -/
def execDoorbellWrite (fn offset size : Nat) (value : Word64) (s : State) : Host.Outcome State Fault Refusal :=
  if size ≠ 8 ∨ offset % 4096 ≠ 0 ∨ !(s.fn fn).enabled ∨ !s.mod.hostUp then .next s
  else
    let page := offset / 4096
    let q := page % 16
    match s.bellCtx fn (page / 16) with
    | none => .next (s.countDiscard fn)
    | some c =>
      let x := s.queue c q
      let dead := (s.ctx c).st = .free ∨ (s.ctx c).st = .destroying ∨ x.st = .absent ∨ x.st = .destroyed
      if dead ∨ 2 ^ 32 ≤ value.toNat then .next (s.countDiscard fn)
      else match bell x.p x.c (value.setWidth 32) x.log2 with
      | .ignored => .next (s.countDiscard fn)
      | .applied p =>
        let s := s.modQueue c q (fun x => { x with p := p })
        .next (if x.st = .running then s.becomePending c else s)
      | .overrun => .next ((s.modQueue c q (fun x => { x with overrun := some x.p })).checkOverrun c q)

/-! ## Residency (R341, R342) -/

def maxResident : Nat := 64
def State.residents (s : State) : Nat := (s.ctxs.filter (fun e => e.2.resident)).length

/-- SLOT_GRANT (R342 rule 1). -/
def execSlotGrant (s : State) : Host.Outcome State Fault Refusal :=
  match s.pendingOrder with
  | [] => .next s
  | c :: rest =>
    if maxResident ≤ s.residents then .next s
    else
      let s : State := { s with pendingOrder := rest }
      .next (s.modCtx c (fun x => { x with
        st := .resident, resident := true, expired := false, since := s.tick.toNat, quantumNow := x.quantum }))

/-- Ticks in 100 µs (R5, R283, R340). -/
def quantumTicks : Nat := 60000

/-- QUANTUM_EXPIRY (R342 rule 3): the context has been resident for its QUANTUM, and another one pending for as long. -/
def execQuantumExpiry (ctx : Nat) (s : State) : Host.Outcome State Fault Refusal :=
  let x := s.ctx ctx
  let long : Nat → Bool := fun t => decide (t + x.quantumNow * quantumTicks ≤ s.tick.toNat)
  if x.st = .resident ∧ long x.since ∧ s.pendingOrder.any (fun p => long (s.ctx p).since) then .next (s.modCtx ctx (fun x => { x with expired := true }))
  else .next s

/-- R342 rule 2: a descriptor counts as in progress, unless its queue stands at a wait, or every group its kernel
still has is descheduled. -/
def State.inProgress (s : State) (c : Nat) (q : Queue) : Bool :=
  match q.work with
  | none => false
  | some (.wait _) => false
  | some (.compute id) =>
    s.tiles.any (fun e => e.2.waiting.any (fun w => w.1 == id) || e.2.groups.any (fun g => match g.2 with
      | some g => g.kern == id
      | none => false)) ||
    !s.tiles.any (fun e => e.2.saved.any (fun g => g.kern == id && decide (g.hold ≠ .none))) ||
    s.issues.any (fun i => i.ctx == c)
  | some _ => true

/-- SLOT_GIVE_UP (R341, R342): nothing is in progress, and no work can start. -/
def execSlotGiveUp (ctx : Nat) (s : State) : Host.Outcome State Fault Refusal :=
  let x := s.ctx ctx
  if !x.resident ∨ x.queues.any (fun e => s.inProgress ctx e.2) then .next s
  else if x.st = .stopped then .next (s.modCtx ctx (fun x => { x with resident := false }))
  else
    let left := x.queues.any (fun e => e.2.runnable)
    if left ∧ !x.expired then .next s
    else if left then
      let s : State := { s with pendingOrder := s.pendingOrder ++ [ctx] }
      .next (s.modCtx ctx (fun x => { x with st := .pending, resident := false, expired := false, since := s.tick.toNat }))
    else .next (s.modCtx ctx (fun x => { x with st := .idle, resident := false, expired := false }))

end Sys2Proof.Machine
end

