-- ==== Sys2Proof/Machine/Admin.lean ====
section
/-! DEFINITION. The admin queues (R345 to R347): doorbell, the checks every command shares, and the commands. A firmware
reload defers them (R402). -/

namespace Sys2Proof.Machine

/-! ## What every command shares (R345) -/

def aCtx (d : BitVec 512) : Nat := bvFld d 32 16
def aA (d : BitVec 512) : Nat := bvFld d 192 64
def aB (d : BitVec 512) : Nat := bvFld d 256 64
def aC (d : BitVec 512) : Nat := bvFld d 320 64
def aD (d : BitVec 512) : Nat := bvFld d 384 64

/-- R508: DETAIL of an offending operand, of an exhausted resource, of a refusal for a state. -/
def badA : Nat := badField 192
def badB : Nat := badField 256
def badC : Nat := badField 320
def badD : Nat := badField 384
def noRoom : Nat := 0x1FFE
def badState : Nat := 0x1FFF

/-- The common fields: the type, the zero bits, a context the function may name (a PF-only command is refused to a VF),
the record's address. -/
def State.adminBad (s : State) (f : Nat) (d : BitVec 512) (type : Nat) (pfOnly : Bool) : Option Nat :=
  if bvFld d 0 8 ≠ type ∨ (pfOnly ∧ f ≠ 0) then some (badField 0)
  else match nonZero d [(10, 6)] with
  | some b => some (badField b)
  | none =>
    if !pfOnly ∧ (numCtxs ≤ aCtx d ∨ (f ≠ 0 ∧ (s.ctx (aCtx d)).fn ≠ f)) then some (badField 32)
    else if bvFld d 48 16 ≠ 0 ∨ bvFld d 64 64 ≠ 0 then some (badField 48)
    else if dCr d ∧ dCrAddr d % 32 ≠ 0 then some (badField 128)
    else (nonZero d [(448, 64)]).map badField

/-- R349, R353: a command completes: its record in the function's host address space, the consumer count, the
message. -/
def State.adminDone (s : State) (f : Nat) (d : BitVec 512) (status detail result : Nat) : State :=
  let s := if !dCr d ∨ dCrAddr d % 32 ≠ 0 then s else
    let r := recordBytes status (dTag d) (aCtx d) 0xF detail (s.fn f).c result s.tick
    let (ok, s) := s.hostRange (fnSpace f) (dCrAddr d) 32
    if ok then s.hostWrite (fnSpace f) (dCrAddr d) r else s
  let s := s.modFn f (fun x => { x with c := x.c + 1 })
  if dIrq d then s.sendMsix f (Config.adminVector f % s.vectors f) else s

/-- THE ADMIN COMMAND at the front of a function's ring: `g` gives the state and RESULT, or DETAIL of a refusal, by
which nothing changes. A function whose queue is off, or has nothing announced, has no command. -/
def State.admin (s : State) (f : Nat) (d : BitVec 512) (type : Nat) (pfOnly : Bool)
    (g : State → Nat → Except Nat (State × Nat)) : State :=
  let x := s.fn f
  if !x.enabled || !x.enable || x.p == x.c then s
  else match s.adminBad f d type pfOnly with
    | some b => s.adminDone f d Code.descInvalid.value b 0
    | none =>
      match g s (aCtx d) with
      | .error e => s.adminDone f d Code.descInvalid.value e 0
      | .ok (s, r) => s.adminDone f d 0 0 r

/-- A context that exists (R341). -/
def State.live (s : State) (c : Nat) : Bool := !((s.ctx c).st == .free || (s.ctx c).st == .destroying)

/-- ADMIN_DOORBELL (R345, R348, R487): ENABLE 0 discards and counts. After an overrun no count is applied until the
queue is enabled anew; what was announced still completes. -/
def doAdminDoorbell (fn size : Nat) (value : Word64) (s : State) : State :=
  let x := s.fn fn
  if size ≠ 8 ∨ !x.enabled ∨ !s.mod.hostUp then s
  else if !x.enable ∨ x.stopped ∨ 2 ^ 32 ≤ value.toNat then s.countDiscard fn
  else match bell x.p x.c (value.setWidth 32) x.log2 with
    | .ignored => s.countDiscard fn
    | .applied p => s.modFn fn (fun x => { x with p := p })
    | .overrun => s.modFn fn (fun x => { x with stopped := true })
def execAdminDoorbell (fn size : Nat) (value : Word64) (s : State) : Host.Outcome State Fault Refusal :=
  .next (doAdminDoorbell fn size value s)

/-! ## Contexts (R345 to R347) -/

/-- R347: the kinds a lifecycle state grants. -/
def State.kindGranted (s : State) (k : Nat) : Bool :=
  match s.lifecycle with
  | 0 | 1 => k == 1 || k == 2
  | 2 | 3 => k == 1 || k == 3 || (k == 0 && !s.sec.inserviceLost)
  | _ => false

/-- 32 bytes of a digest in the function's host address space. -/
def State.readDigest (s : State) (f iova : Nat) : Option (BitVec 256) × State :=
  if 2 ^ 64 < iova + 32 then (none, s)
  else
    let (ok, s) := s.hostRange (fnSpace f) iova 32
    if ok then (some (BitVec.ofNat 256 (leNat (s.hostRead (fnSpace f) iova 32))), s) else (none, s)

/-- An object of a context that a command may name. -/
def State.ownObj (s : State) (c n : Nat) : Option Obj :=
  match s.obj n with
  | some o => if o.owner = c ∧ !o.orphan ∧ !o.grace then some o else none
  | none => none

/-- CTX_CREATE. -/
def doCtxCreate (fn : Nat) (desc : BitVec 512) (s : State) : State :=
  s.admin fn desc 0x20 false (fun s c =>
    if !s.ctxActive ∨ (s.ctx c).st ≠ .free then .error badState
    else if 4 ≤ aB desc ∨ !s.kindGranted (aB desc) then .error badB
    else
      let area := if aC desc = 0 then some (0, 0) else (s.ownObj c (aC desc)).map (fun o => (o.dpa, o.size / 17152))
      match area, s.readDigest fn (aD desc) with
      | none, _ => .error badC
      | some _, (none, _) => .error badD
      | some a, (some cred, s) =>
        .ok (s.setCtx c { Ctx.free with
          st := .idle, kind := aB desc, fn := (s.ctx c).fn, pasid := Config.pasid c % 2 ^ 20
          jobSeed := BitVec.ofNat 64 (aA desc), saveArea := a.1, saveRecords := a.2, credential := cred }, 0))


/-- CTX_SET (R346): A zero, B the code, D zero where it is not used. -/
def State.ctxSet (s : State) (fn : Nat) (desc : BitVec 512) (code : Nat) (useD : Bool)
    (g : State → Nat → Except Nat (Ctx → Ctx)) : State :=
  s.admin fn desc 0x21 false (fun s c =>
    if !s.live c then .error badState
    else if aA desc ≠ 0 then .error badA
    else if aB desc ≠ code then .error badB
    else match g s c with
      | .error e => .error e
      | .ok h => if !useD ∧ aD desc ≠ 0 then .error badD else .ok (s.modCtx c h, 0))

/-- CTX_SET STEP. -/
def doCtxSetStep (fn : Nat) (desc : BitVec 512) (s : State) : State :=
  s.ctxSet fn desc 0x01 false (fun _ _ => .ok (fun x => { x with step := BitVec.ofNat 64 (aC desc) }))

/-- CTX_SET FLAGS. -/
def doCtxSetFlags (fn : Nat) (desc : BitVec 512) (s : State) : State :=
  s.ctxSet fn desc 0x02 false (fun _ _ =>
    if 4 ≤ aC desc then .error badC
    else .ok (fun x => { x with syncDenyFault := (aC desc).testBit 0, regressionStop := (aC desc).testBit 1 }))

/-- CTX_SET WAIT_WDOG. -/
def doCtxSetWaitWdog (fn : Nat) (desc : BitVec 512) (s : State) : State :=
  s.ctxSet fn desc 0x03 false (fun _ _ =>
    if aC desc = 0 ∨ 65535 < aC desc then .error badC else .ok (fun x => { x with waitWdog := aC desc }))

/-- CTX_SET QUANTUM. -/
def doCtxSetQuantum (fn : Nat) (desc : BitVec 512) (s : State) : State :=
  s.ctxSet fn desc 0x04 false (fun _ _ =>
    if aC desc = 0 ∨ 65535 < aC desc then .error badC else .ok (fun x => { x with quantum := aC desc }))

/-- CTX_SET WATCH_RING. -/
def doCtxSetWatchRing (fn : Nat) (desc : BitVec 512) (s : State) : State :=
  s.ctxSet fn desc 0x05 true (fun _ _ =>
    if aC desc % 64 ≠ 0 then .error badC
    else if 2 ^ 20 < aD desc ∨ (aD desc ≠ 0 ∧ !isPow2 (aD desc)) then .error badD
    else .ok (fun x => { x with watchRing := aC desc, watchSize := aD desc, watchProduced := 0 }))

/-- R346: the map occupies the first bytes of an object of the context. -/
def doCtxSetSyncMap (fn : Nat) (desc : BitVec 512) (s : State) : State :=
  s.ctxSet fn desc 0x06 true (fun s c =>
    match s.ownObj c (aC desc) with
    | none => .error badC
    | some o =>
      if aD desc < 16 ∨ 65536 < aD desc ∨ !isPow2 (aD desc) ∨ o.size < 16 * aD desc then .error badD
      else if (s.ctx c).st = .resident ∨ s.sync.waits.any (fun w => w.ctx == c) then .error badState
      else .ok (fun x => { x with syncMap := o.dpa, syncMapSize := aD desc }))

/-- CTX_SET HEAP. -/
def doCtxSetHeap (fn : Nat) (desc : BitVec 512) (s : State) : State :=
  s.ctxSet fn desc 0x07 false (fun s c =>
    let ok := decide (aC desc = 0) || (match s.ownObj c (aC desc) with
      | some o => o.heap
      | none => false)
    if !ok then .error badC
    else if (s.ctx c).heapBlocks ≠ [] then .error badState
    else .ok (fun x => { x with heap := aC desc }))

/-- CTX_SET FAULT: FAULT is cleared; the context keeps its state. -/
def doCtxSetFaultClear (fn : Nat) (desc : BitVec 512) (s : State) : State :=
  s.ctxSet fn desc 0x08 false (fun _ _ =>
    if aC desc ≠ 0 then .error badC else .ok (fun x => { x with fault := none }))

/-- CTX_RESET (R345, R327). -/
def doCtxReset (fn : Nat) (desc : BitVec 512) (s : State) : State :=
  s.admin fn desc 0x22 false (fun s c => if !s.live c then .error badState else .ok (s.resetCtx c, 0))

/-- CTX_DESTROY: the process-death sequence (R355). -/
def doCtxDestroy (fn : Nat) (desc : BitVec 512) (s : State) : State :=
  s.admin fn desc 0x23 false (fun s c => if !s.live c then .error badState else .ok (s.destroyCtx c, 0))

/-! ## Queues (R345, R346, R348) -/

/-- An address that lies in fabric memory (R350). -/
def State.isFabric (s : State) (c va : Nat) : Bool :=
  match (s.ctx c).mapOf (va % 2 ^ 48) with
  | some m => (match m.target with
    | .fabric .. => true
    | _ => false)
  | none => false

/-- QUEUE_CREATE: both counts at 0. -/
def doQueueCreate (fn : Nat) (desc : BitVec 512) (s : State) : State :=
  s.admin fn desc 0x24 false (fun s c =>
    let b := aB desc
    let q := fld b 0 4
    let st := (s.queue c q).st
    if !s.live c then .error badState
    else if aA desc % 64 ≠ 0 ∨ s.isFabric c (aA desc) then .error badA
    else if 2 ^ 22 ≤ b ∨ fld b 6 5 < 4 ∨ 16 < fld b 6 5 ∨ s.vectors fn ≤ fld b 11 11 then .error badB
    else if aC desc % 8 ≠ 0 ∨ s.isFabric c (aC desc) then .error badC
    else if st ≠ .absent ∧ st ≠ .destroyed then .error badState
    else .ok (s.modQueue c q (fun _ => { Queue.absent with
      st := .running, kind := fld b 4 2, log2 := fld b 6 5, ring := aA desc, wb := aC desc, msix := fld b 11 11 }), 0))

/-- QUEUE_DESTROY: refused while a descriptor is in progress. -/
def doQueueDestroy (fn : Nat) (desc : BitVec 512) (s : State) : State :=
  s.admin fn desc 0x25 false (fun s c =>
    let q := fld (aB desc) 0 4
    let x := s.queue c q
    if !s.live c then .error badState
    else if 16 ≤ aB desc then .error badB
    else if x.st = .absent ∨ x.st = .destroyed ∨ x.work.isSome then .error badState
    else .ok (s.modQueue c q (fun x => { x with st := .destroyed }), 0))

/-- R341: once no queue of a stopped context is stopped, it is PENDING or IDLE. -/
def State.resumeCtx (s : State) (c : Nat) : State :=
  let x := s.ctx c
  if x.st = .stopped ∧ !x.queues.any (fun e => decide (e.2.st = .stopped)) then
    let s := s.modCtx c (fun x => { x with st := .idle, resident := false, expired := false })
    if x.queues.any (fun e => e.2.work.isSome || e.2.c != e.2.p) then s.becomePending c else s
  else s

/-- QUEUE_RESTART (R345, R346, R341): SKIP completes the faulting descriptor as skipped; otherwise it starts anew. -/
def doQueueRestart (fn : Nat) (desc : BitVec 512) (s : State) : State :=
  s.admin fn desc 0x26 false (fun s c =>
    let q := fld (aB desc) 0 4
    let x := s.queue c q
    let busy := s.flights.any (fun a => decide (a.who = .queue c q) && a.open_) ||
      (match x.work with
       | none | some (.done ..) => false
       | _ => true)
    if !s.live c then .error badState
    else if 32 ≤ aB desc then .error badB
    else if x.st ≠ .stopped ∨ (s.ctx c).fault.isSome ∨ busy then .error badState
    else
      let s := match x.work, x.held with
        | some (.done st det r), some d => if 1 < st then s.complete c q d st det r x.stage else s
        | _, _ => s
      let skip := (aB desc).testBit 4 && (s.queue c q).failed
      let s := s.modQueue c q (fun x => { x with
        st := .running, failed := false
        work := if skip then some (.done 1 0 0) else x.work
        held := if skip ∨ x.work.isSome then x.held else none })
      .ok (s.resumeCtx c, 0))

/-! ## Objects (R344, R345) -/

/-- The range of device physical addresses of a placement. -/
def State.placement (s : State) (stack : Option Nat) : Nat × Nat :=
  match stack with
  | none => (0, s.interleaved)
  | some k => (s.interleaved + k * s.windowBytes, s.interleaved + (k + 1) * s.windowBytes)

/-- A range inside a placement, clear of objects and of the reserved regions. -/
def State.placeFree (s : State) (stack : Option Nat) (a n : Nat) : Bool :=
  let r := s.placement stack
  decide (r.1 ≤ a) && decide (a + n ≤ r.2) && !s.meetsReserved a n && !s.objs.any (fun o => regionsClash (o.dpa, o.size) (a, n))

/-- Where an object of `n` bytes goes, in units of 64 KiB from the start of its placement: a free place, whichever; none
where no place is free. -/
def State.placeObj (s : State) (stack : Option Nat) (n : Nat) : Option Nat :=
  let lo := (s.placement stack).1
  let up : Nat → Nat := fun a => lo + roundUp (a - lo) 65536
  let any := lo + Config.pick 0 s.freeCtr * 65536
  let ends := lo :: (s.objs.map (fun o => up (o.dpa + o.size)) ++ s.reservedActive.map (fun r => up (r.1 + r.2)))
  if s.placeFree stack any n then some any else ends.find? (fun a => s.placeFree stack a n)

/-- A number no object has, from 1 to 2²⁴ − 1. -/
def State.objNumber (s : State) : Option Nat :=
  let free : Nat → Bool := fun n => !s.objs.any (fun o => o.num == n)
  let any := Config.pick 1 s.freeCtr % (2 ^ 24 - 1) + 1
  if free any then some any else (List.range (s.objs.length + 1)).findSome? (fun i =>
    let n := i + 1
    if free n && decide (n < 2 ^ 24) then some n else none)

/-- OBJ_ALLOC (R344): the object is zeroed; RESULT is its number. -/
def doObjAlloc (fn : Nat) (desc : BitVec 512) (s : State) : State :=
  s.admin fn desc 0x27 false (fun s c =>
    let b := aB desc
    let n := aA desc
    let stack := if b.testBit 2 then some (fld b 4 4) else none
    if n = 0 ∨ n % 65536 ≠ 0 ∨ 512000000000 < n then .error badA
    else if 256 ≤ b ∨ b.testBit 3 ∨ (b.testBit 2 ∧ 12 ≤ fld b 4 4) then .error badB
    else match s.placeObj stack n, s.objNumber with
      | some a, some k =>
        let o : Obj := { num := k, owner := c, dpa := a, size := n, stackLocal := stack, retained := b.testBit 0
                         heap := b.testBit 1, aperture := none, orphan := false, grace := false, since := 0, credential := 0 }
        let s := s.drawn.zeroRange a n
        .ok ({ s with objs := s.objs ++ [o] }, k)
      | _, _ => .error noRoom)

/-- Objects whose freeing waited for their last reference (R345, R355). -/
def State.dropOrphans (s : State) : State :=
  { s with objs := s.objs.filter (fun o => !(o.orphan && !s.objInUse o.num none)) }

/-- OBJ_FREE: freed once no mapping and no peer aperture refers to it. -/
def doObjFree (fn : Nat) (desc : BitVec 512) (s : State) : State :=
  s.admin fn desc 0x28 false (fun s c =>
    match s.ownObj c (aA desc) with
    | none => .error badA
    | some o => .ok ((s.modObj o.num (fun o => { o with orphan := true })).dropOrphans, 0))

/-! ## Mappings (R343 to R345) -/

def pageSize (big : Bool) : Nat := if big then 2 ^ 21 else 2 ^ 16

/-- What a MAP's operands B and C name: host memory, a fabric slot (B[24] with the slot in B[31:25]), or an object the
context may map with the permissions asked for. -/
def State.mapTarget (s : State) (c b off len : Nat) (r w a : Bool) : Except Nat (MapTarget × Nat) :=
  if b = 0 then (if off + len ≤ 2 ^ 64 then .ok (.host off, 0) else .error badC)
  else if b.testBit 24 then
    if 2 ^ 32 ≤ b ∨ fld b 0 24 ≠ 0 then .error badB
    else if 2 ^ 40 < off + len then .error badC
    else .ok (.fabric (fld b 25 7) off, 0)
  else match s.obj b with
    | none => .error badB
    | some o =>
      if o.orphan ∨ o.grace then .error badB
      else
        let perm : Except Nat Unit :=
          if o.owner = c then .ok ()
          else match o.aperture with
            | none => .error badB
            | some (_, pr, pw, pa) => if (r && !pr) || (w && !pw) || (a && !pa) then .error badD else .ok ()
        match perm with
        | .error e => .error e
        | .ok _ =>
          if o.size < off + len ∨ s.meetsReserved (o.dpa + off) len then .error badC
          else .ok (.dram (o.dpa + off), o.num)

/-- MAP (R343, R344). -/
def doMapPages (fn : Nat) (desc : BitVec 512) (s : State) : State :=
  s.admin fn desc 0x29 false (fun s c =>
    let va := aA desc
    let len := fld (aD desc) 0 48
    let big := (aD desc).testBit 48
    let r := (aD desc).testBit 49
    let w := (aD desc).testBit 50
    let a := (aD desc).testBit 51
    let p := pageSize big
    if !s.live c then .error badState
    else if va % p ≠ 0 ∨ 2 ^ 48 < va + len then .error badA
    else if (s.ctx c).maps.any (fun m => regionsClash (m.va, m.len) (va, len)) then .error badA
    else if aC desc % p ≠ 0 then .error badC
    else match s.mapTarget c (aB desc) (aC desc) len r w a with
      | .error e => .error e
      | .ok (t, n) =>
        if len % p ≠ 0 ∨ 2 ^ 52 ≤ aD desc then .error badD
        else if len = 0 then .ok (s, 0)
        else .ok (s.modCtx c (fun x => { x with maps := x.maps ++ [⟨va, len, big, t, n, r, w, a⟩] }), 0))

/-- The part of a mapping from `lo` to `hi`. -/
def Mapping.part (m : Mapping) (lo hi : Nat) : List Mapping :=
  let lo := max lo m.va
  let hi := min hi (m.va + m.len)
  if lo < hi then [{ m with va := lo, len := hi - lo, target := m.at lo }] else []

/-- UNMAP (R345); it waits for the accesses in progress through its range (`adminWaits`). -/
def doUnmapPages (fn : Nat) (desc : BitVec 512) (s : State) : State :=
  s.admin fn desc 0x2A false (fun s c =>
    let va := aA desc
    let len := aD desc
    let hit := (s.ctx c).maps.filter (fun m => regionsClash (m.va, m.len) (va, len))
    if !s.live c then .error badState
    else if 2 ^ 48 < va + len ∨ hit.any (fun m => decide (va % pageSize m.big ≠ 0)) then .error badA
    else if hit.any (fun m => decide (len % pageSize m.big ≠ 0)) then .error badD
    else .ok ((s.modCtx c (fun x => { x with
      maps := x.maps.flatMap (fun m => m.part 0 va ++ m.part (va + len) (2 ^ 48)) })).dropOrphans, 0))

/-- SLOT_SET (R252); it waits for a revocation walk (R244). -/
def doSlotSet (fn : Nat) (desc : BitVec 512) (s : State) : State :=
  s.admin fn desc 0x2B false (fun s c =>
    let e := BitVec.ofNat 128 (aC desc + aD desc * 2 ^ 64)
    if !s.live c then .error badState
    else if 128 ≤ aB desc then .error badB
    else if fld (aC desc) 8 8 ≠ 0 ∨ fld (aC desc) 32 32 ≠ 0 then .error badC
    else if 2 ^ 40 ≤ aD desc then .error badD
    else .ok (s.modCtx c (fun x => { x with slots := tabSet x.slots 0 (aB desc) e }), 0))

/-! ## Sync objects (R313, R314, R329, R331) -/

/-- DETAIL of an operand whose place in the descriptor the spec does not give. -/
def badSub (k : Nat) : Nat := badField (Config.subField k % 512)

def numSync : Nat := 65536
def numShares : Nat := 16384

/-- A sync object that is free, whichever. -/
def State.freeSync (s : State) : Option Nat :=
  let any := Config.pick 2 s.freeCtr % numSync
  if (s.syncObj any).kind = 0 then some any
  else (List.range numSync).find? (fun i => (s.syncObj i).kind == 0)

/-- SYNC_ALLOC (R313). -/
def doSyncAlloc (fn : Nat) (desc : BitVec 512) (barrier : Bool) (value : Word64) (expected : Nat) (s : State) : State :=
  s.admin fn desc 0x2C false (fun s c =>
    if !s.live c ∨ !s.sync.active then .error badState
    else if poisonBase ≤ value.toNat then .error (badSub 0)
    else if barrier ∧ (expected = 0 ∨ 65535 < expected) then .error (badSub 1)
    else match s.freeSync with
      | none => .error noRoom
      | some i => .ok (s.drawn.setSyncObj i { SyncObj.free with
          value := value, kind := if barrier then 2 else 1, owner := c, expected := if barrier then expected else 0 }, 0))

/-- R331: the share entries of an object, and their current handles. -/
def State.exportsOf (s : State) (i : Nat) : List Nat :=
  (s.sync.shares.filter (fun e => e.2.obj == some i)).map (fun e => e.1)
def State.handleOf (s : State) (e : Nat) : Nat := e + (tabGet s.sync.shares Share.free e).tag * 2 ^ 14

/-- R331: a sync map of this device holds an entry with a current handle of the object. -/
def State.imported (s : State) (i : Nat) : Bool :=
  let hs := (s.exportsOf i).map s.handleOf
  hs ≠ [] && s.liveCtxs.any (fun c => (List.range (s.ctx c).syncMapSize).any (fun vid =>
    let e := s.syncEntry c vid
    bit e 0 && (fld e 1 2 == 1 || (fld e 1 2 == 2 && fld e 32 16 == s.fab.deviceId)) && hs.elem (fld e 64 32)))

/-- An object of the context. -/
def State.ownSync (s : State) (c i : Nat) : Bool :=
  decide (i < numSync) && decide ((s.syncObj i).kind ≠ 0) && decide ((s.syncObj i).owner = c)

/-- SYNC_FREE (R313): refused while it has a waiter or an import; its exports end. -/
def doSyncFree (fn : Nat) (desc : BitVec 512) (index : Nat) (s : State) : State :=
  s.admin fn desc 0x2C false (fun s c =>
    if !s.live c then .error badState
    else if !s.ownSync c index then .error (badSub 2)
    else if s.sync.waits.any (fun w => w.index == index && (w.state == .pooled || w.state == .polling)) ∨ s.imported index then
      .error badState
    else
      let s := (s.exportsOf index).foldl State.unshare s
      .ok (s.setSyncObj index SyncObj.free, 0))

/-- SYNC_MAP_SET (R314). -/
def doSyncMapSet (fn : Nat) (desc : BitVec 512) (vid : Nat) (entry : BitVec 128) (s : State) : State :=
  s.admin fn desc 0x2C false (fun s c =>
    if !s.live c then .error badState
    else if (s.ctx c).syncMapSize ≤ vid then .error (badSub 3)
    else .ok (s.storeBytes ((s.ctx c).syncMap + 16 * vid) (leBytes 16 entry.toNat), 0))

/-- A share-table entry that is free, whichever. -/
def State.freeShare (s : State) : Option Nat :=
  let free : Nat → Bool := fun e => (tabGet s.sync.shares Share.free e).obj.isNone
  let any := Config.pick 3 s.freeCtr % numShares
  if free any then some any else (List.range numShares).find? free

/-- EXPORT (R329): RESULT is the handle. -/
def doShareExport (fn : Nat) (desc : BitVec 512) (index : Nat) (grants : List Grant) (s : State) : State :=
  s.admin fn desc 0x2D false (fun s c =>
    if !s.live c ∨ !s.sync.active then .error badState
    else if !s.ownSync c index then .error (badSub 4)
    else if 8 < grants.length ∨ grants.any (fun g => decide (65536 ≤ g.device) || decide (numCtxs ≤ g.ctx)) then .error (badSub 5)
    else match s.freeShare with
      | none => .error noRoom
      | some e =>
        let s := s.drawn.modSync (fun y => { y with
          shares := tabMod y.shares Share.free e (fun x => { x with obj := some index, grants := grants }) })
        .ok (s.setSyncObj index { s.syncObj index with exported := true }, s.handleOf e))

/-- UNEXPORT (R331). -/
def doShareUnexport (fn : Nat) (desc : BitVec 512) (handle : Nat) (s : State) : State :=
  s.admin fn desc 0x2D false (fun s c =>
    let e := fld handle 0 14
    let x := tabGet s.sync.shares Share.free e
    let ok := decide (x.tag = handle / 2 ^ 14) && (match x.obj with
      | some i => s.ownSync c i
      | none => false)
    if !s.live c then .error badState
    else if !ok then .error (badSub 6)
    else .ok (s.unshare e, 0))

/-! ## The aperture, retained objects, functions (R254, R271, R339, R345) -/

/-- The pages of 2 MiB that an object's export occupies. -/
def apertureSpan (o : Obj) : Option (Nat × Nat) := o.aperture.map (fun a => (a.1, roundUp o.size (2 ^ 21)))

/-- APERTURE_ADD. -/
def doApertureAdd (fn : Nat) (desc : BitVec 512) (s : State) : State :=
  s.admin fn desc 0x2E false (fun s c =>
    let off := aA desc
    let d := aD desc
    if !s.live c ∨ !s.fab.partValid then .error badState
    else match s.ownObj c (aB desc) with
      | none => .error badB
      | some o =>
        let n := roundUp o.size (2 ^ 21)
        if off % 2 ^ 21 ≠ 0 ∨ 2 ^ 40 < off + n ∨ s.objs.any (fun p => match apertureSpan p with
            | some r => regionsClash r (off, n)
            | none => false) then .error badA
        else if d.testBit 0 ∨ 16 ≤ d then .error badD
        else if o.aperture.isSome then .error badState
        else .ok (s.modObj o.num (fun o => { o with aperture := some (off, d.testBit 1, d.testBit 2, d.testBit 3) }), 0))

/-- The object named may already wait to be freed. -/
def doApertureRemove (fn : Nat) (desc : BitVec 512) (s : State) : State :=
  s.admin fn desc 0x2E false (fun s c =>
    if !s.live c ∨ !s.fab.partValid then .error badState
    else match s.obj (aB desc) with
      | none => .error badB
      | some o =>
        if o.owner ≠ c then .error badB
        else if aD desc ≠ 1 then .error badD
        else if o.aperture.isNone then .error badState
        else .ok ((s.modObj o.num (fun o => { o with aperture := none })).dropOrphans, 0))

/-- RECLAIM (R271): RESULT is the number of objects. -/
def doReclaim (fn : Nat) (desc : BitVec 512) (s : State) : State :=
  s.admin fn desc 0x2F false (fun s c =>
    if !s.live c then .error badState
    else match s.readDigest fn (aA desc) with
      | (none, _) => .error badA
      | (some cred, s) =>
        let mine : Obj → Bool := fun o => o.grace && decide (o.credential = cred)
        .ok ({ s with objs := modIf s.objs mine (fun o => { o with grace := false, owner := c, aperture := none }) }, (s.objs.filter mine).length))

/-- VFs 1 to `b` are enabled (R339; the enabling itself belongs to PCI Express). -/
def State.enableVfs (s : State) (b : Nat) : State :=
  let s : State := { s with nVf := max s.nVf b }
  (List.range b).foldl (fun s i => s.modFn (i + 1) (fun x => { x with enabled := true })) s

/-- FN_ASSIGN (R339, R345): PF only. -/
def doFnAssign (fn : Nat) (desc : BitVec 512) (s : State) : State :=
  s.admin fn desc 0x30 true (fun s _ =>
    let b := aB desc
    let c := aC desc
    if b = 0 ∨ 63 < b then .error badB
    else if numCtxs ≤ c then .error badC
    else if (s.ctx c).st ≠ .free ∨ (s.ctx c).fn ≠ 0 then .error noRoom
    else if 64 ≤ (s.fn b).ctxs.length then .error badState
    else
      let s := (s.enableVfs b).modFn b (fun x => { x with ctxs := x.ctxs ++ [c] })
      .ok (s.modCtx c (fun x => { x with fn := b }), 0))

/-! ## Commands in ring order (R345, R244) -/

/-- The function whose admin queue a command stands in; none for any other command. -/
def adminFn : Instr → Option Nat
  | .ctxCreate fn _ | .ctxSetStep fn _ | .ctxSetFlags fn _ | .ctxSetWaitWdog fn _ | .ctxSetQuantum fn _
  | .ctxSetWatchRing fn _ | .ctxSetSyncMap fn _ | .ctxSetHeap fn _ | .ctxSetFaultClear fn _ | .ctxReset fn _
  | .ctxDestroy fn _ | .queueCreate fn _ | .queueDestroy fn _ | .queueRestart fn _ | .objAlloc fn _
  | .objFree fn _ | .mapPages fn _ | .unmapPages fn _ | .slotSet fn _ | .apertureAdd fn _ | .apertureRemove fn _
  | .reclaim fn _ | .fnAssign fn _ => some fn
  | .syncFree fn _ _ | .shareUnexport fn _ _ => some fn
  | .syncMapSet fn _ _ _ | .shareExport fn _ _ _ => some fn
  | .syncAlloc fn _ _ _ _ => some fn
  | _ => none

/-- The effect of an admin command that is at the front of its ring. -/
def State.runAdmin (s : State) (i : Instr) : State :=
  match i with
  | .ctxCreate fn desc => doCtxCreate fn desc s
  | .ctxSetStep fn desc => doCtxSetStep fn desc s
  | .ctxSetFlags fn desc => doCtxSetFlags fn desc s
  | .ctxSetWaitWdog fn desc => doCtxSetWaitWdog fn desc s
  | .ctxSetQuantum fn desc => doCtxSetQuantum fn desc s
  | .ctxSetWatchRing fn desc => doCtxSetWatchRing fn desc s
  | .ctxSetSyncMap fn desc => doCtxSetSyncMap fn desc s
  | .ctxSetHeap fn desc => doCtxSetHeap fn desc s
  | .ctxSetFaultClear fn desc => doCtxSetFaultClear fn desc s
  | .ctxReset fn desc => doCtxReset fn desc s
  | .ctxDestroy fn desc => doCtxDestroy fn desc s
  | .queueCreate fn desc => doQueueCreate fn desc s
  | .queueDestroy fn desc => doQueueDestroy fn desc s
  | .queueRestart fn desc => doQueueRestart fn desc s
  | .objAlloc fn desc => doObjAlloc fn desc s
  | .objFree fn desc => doObjFree fn desc s
  | .mapPages fn desc => doMapPages fn desc s
  | .unmapPages fn desc => doUnmapPages fn desc s
  | .slotSet fn desc => doSlotSet fn desc s
  | .syncAlloc fn desc barrier value expected => doSyncAlloc fn desc barrier value expected s
  | .syncFree fn desc index => doSyncFree fn desc index s
  | .syncMapSet fn desc vid entry => doSyncMapSet fn desc vid entry s
  | .shareExport fn desc index grants => doShareExport fn desc index grants s
  | .shareUnexport fn desc handle => doShareUnexport fn desc handle s
  | .apertureAdd fn desc => doApertureAdd fn desc s
  | .apertureRemove fn desc => doApertureRemove fn desc s
  | .reclaim fn desc => doReclaim fn desc s
  | .fnAssign fn desc => doFnAssign fn desc s
  | _ => s

/-- Accesses in progress through the pages of a range. -/
def State.rangeBusy (s : State) (c va len : Nat) : Bool :=
  s.flights.any (fun a => a.ctx == c && a.open_ && decide (a.va < va + len) && decide (va < a.va + a.len))

/-- R244: a revocation walk is under way. -/
def State.revoking (s : State) : Bool := s.walks.any (fun w => decide (w.kind = .revoke) && !w.ended)

/-- What a command waits for: UNMAP for every access in progress through its range (R345), SLOT_SET and a MAP of fabric memory
for a revocation walk (R244). -/
def State.adminWaits (s : State) (i : Instr) : Bool :=
  match i with
  | .unmapPages _ desc => s.rangeBusy (aCtx desc) (aA desc) (aD desc)
  | .slotSet _ _ => s.revoking
  | .mapPages _ desc => s.revoking && (aB desc).testBit 24
  | _ => false

/-- A command completes, or waits: for itself, or behind one of its ring that waits (R345: ring order). -/
def State.adminBlocked (s : State) (i : Instr) : Bool :=
  s.adminHeld.any (fun j => adminFn j == adminFn i) || s.adminWaits i
def State.holdBack (s : State) (i : Instr) : State := { s with adminHeld := s.adminHeld ++ [i] }
def State.adminStep (s : State) (i : Instr) : State := if s.adminBlocked i then s.holdBack i else s.runAdmin i

/-- The commands that waited go on, in their order; not during a reload (R402). -/
def State.retryHeld (s : State) : State :=
  if s.hal.reloading then s else s.adminHeld.foldl State.adminStep { s with adminHeld := [] }

/-- An admin command: deferred by a reload (R402), waiting, or its effect `f`. -/
def State.adminNow (s : State) (i : Instr) (f : State → State) : Host.Outcome State Fault Refusal :=
  s.orDefer i (let s := s.retryHeld
    if s.adminBlocked i then s.holdBack i else f s)

def execCtxCreate (fn : Nat) (desc : BitVec 512) (s : State) : Host.Outcome State Fault Refusal :=
  s.adminNow (.ctxCreate fn desc) (doCtxCreate fn desc)
def execCtxSetStep (fn : Nat) (desc : BitVec 512) (s : State) : Host.Outcome State Fault Refusal :=
  s.adminNow (.ctxSetStep fn desc) (doCtxSetStep fn desc)
def execCtxSetFlags (fn : Nat) (desc : BitVec 512) (s : State) : Host.Outcome State Fault Refusal :=
  s.adminNow (.ctxSetFlags fn desc) (doCtxSetFlags fn desc)
def execCtxSetWaitWdog (fn : Nat) (desc : BitVec 512) (s : State) : Host.Outcome State Fault Refusal :=
  s.adminNow (.ctxSetWaitWdog fn desc) (doCtxSetWaitWdog fn desc)
def execCtxSetQuantum (fn : Nat) (desc : BitVec 512) (s : State) : Host.Outcome State Fault Refusal :=
  s.adminNow (.ctxSetQuantum fn desc) (doCtxSetQuantum fn desc)
def execCtxSetWatchRing (fn : Nat) (desc : BitVec 512) (s : State) : Host.Outcome State Fault Refusal :=
  s.adminNow (.ctxSetWatchRing fn desc) (doCtxSetWatchRing fn desc)
def execCtxSetSyncMap (fn : Nat) (desc : BitVec 512) (s : State) : Host.Outcome State Fault Refusal :=
  s.adminNow (.ctxSetSyncMap fn desc) (doCtxSetSyncMap fn desc)
def execCtxSetHeap (fn : Nat) (desc : BitVec 512) (s : State) : Host.Outcome State Fault Refusal :=
  s.adminNow (.ctxSetHeap fn desc) (doCtxSetHeap fn desc)
def execCtxSetFaultClear (fn : Nat) (desc : BitVec 512) (s : State) : Host.Outcome State Fault Refusal :=
  s.adminNow (.ctxSetFaultClear fn desc) (doCtxSetFaultClear fn desc)
def execCtxReset (fn : Nat) (desc : BitVec 512) (s : State) : Host.Outcome State Fault Refusal :=
  s.adminNow (.ctxReset fn desc) (doCtxReset fn desc)
def execCtxDestroy (fn : Nat) (desc : BitVec 512) (s : State) : Host.Outcome State Fault Refusal :=
  s.adminNow (.ctxDestroy fn desc) (doCtxDestroy fn desc)
def execQueueCreate (fn : Nat) (desc : BitVec 512) (s : State) : Host.Outcome State Fault Refusal :=
  s.adminNow (.queueCreate fn desc) (doQueueCreate fn desc)
def execQueueDestroy (fn : Nat) (desc : BitVec 512) (s : State) : Host.Outcome State Fault Refusal :=
  s.adminNow (.queueDestroy fn desc) (doQueueDestroy fn desc)
def execQueueRestart (fn : Nat) (desc : BitVec 512) (s : State) : Host.Outcome State Fault Refusal :=
  s.adminNow (.queueRestart fn desc) (doQueueRestart fn desc)
def execObjAlloc (fn : Nat) (desc : BitVec 512) (s : State) : Host.Outcome State Fault Refusal :=
  s.adminNow (.objAlloc fn desc) (doObjAlloc fn desc)
def execObjFree (fn : Nat) (desc : BitVec 512) (s : State) : Host.Outcome State Fault Refusal :=
  s.adminNow (.objFree fn desc) (doObjFree fn desc)
def execMapPages (fn : Nat) (desc : BitVec 512) (s : State) : Host.Outcome State Fault Refusal :=
  s.adminNow (.mapPages fn desc) (doMapPages fn desc)
def execUnmapPages (fn : Nat) (desc : BitVec 512) (s : State) : Host.Outcome State Fault Refusal :=
  s.adminNow (.unmapPages fn desc) (doUnmapPages fn desc)
def execSlotSet (fn : Nat) (desc : BitVec 512) (s : State) : Host.Outcome State Fault Refusal :=
  s.adminNow (.slotSet fn desc) (doSlotSet fn desc)
def execSyncAlloc (fn : Nat) (desc : BitVec 512) (barrier : Bool) (value : Word64) (expected : Nat) (s : State) : Host.Outcome State Fault Refusal :=
  s.adminNow (.syncAlloc fn desc barrier value expected) (doSyncAlloc fn desc barrier value expected)
def execSyncFree (fn : Nat) (desc : BitVec 512) (index : Nat) (s : State) : Host.Outcome State Fault Refusal :=
  s.adminNow (.syncFree fn desc index) (doSyncFree fn desc index)
def execSyncMapSet (fn : Nat) (desc : BitVec 512) (vid : Nat) (entry : BitVec 128) (s : State) : Host.Outcome State Fault Refusal :=
  s.adminNow (.syncMapSet fn desc vid entry) (doSyncMapSet fn desc vid entry)
def execShareExport (fn : Nat) (desc : BitVec 512) (index : Nat) (grants : List Grant) (s : State) : Host.Outcome State Fault Refusal :=
  s.adminNow (.shareExport fn desc index grants) (doShareExport fn desc index grants)
def execShareUnexport (fn : Nat) (desc : BitVec 512) (handle : Nat) (s : State) : Host.Outcome State Fault Refusal :=
  s.adminNow (.shareUnexport fn desc handle) (doShareUnexport fn desc handle)
def execApertureAdd (fn : Nat) (desc : BitVec 512) (s : State) : Host.Outcome State Fault Refusal :=
  s.adminNow (.apertureAdd fn desc) (doApertureAdd fn desc)
def execApertureRemove (fn : Nat) (desc : BitVec 512) (s : State) : Host.Outcome State Fault Refusal :=
  s.adminNow (.apertureRemove fn desc) (doApertureRemove fn desc)
def execReclaim (fn : Nat) (desc : BitVec 512) (s : State) : Host.Outcome State Fault Refusal :=
  s.adminNow (.reclaim fn desc) (doReclaim fn desc)
def execFnAssign (fn : Nat) (desc : BitVec 512) (s : State) : Host.Outcome State Fault Refusal :=
  s.adminNow (.fnAssign fn desc) (doFnAssign fn desc)

end Sys2Proof.Machine
end

