-- ==== Sys2Proof/Machine/HostPort.lean ====
section
/-! DEFINITION. The host port (R336 to R339, R349, R355, R485, R487): BAR4, MSI-X unmasking, function resets, ATS. -/

namespace Sys2Proof.Machine

/-- ADMIN_QUEUE_ENABLE (R487): ENABLE set from 0 starts the queue with counts at 0; LOG2 and the base change only
while it is 0, and LOG2 only within 4 to 16. Commands in progress complete when it is cleared. -/
def doAdminQueueEnable (fn : Nat) (enable : Bool) (log2 : Nat) (s : State) : State :=
  if !(s.fn fn).enabled then s else
  s.modFn fn (fun x =>
    let x := if !x.enable && decide (4 ≤ log2) && decide (log2 ≤ 16) then { x with log2 := log2 } else x
    if enable && !x.enable then { x with enable := true, p := 0, c := 0, stopped := false }
    else { x with enable := enable })

/-- R471: the function blocks decode from the moment an image is accepted. -/
def State.fnDecoded (s : State) : Bool := s.sec.running.isSome && s.mod.hostUp

def execAdminQueueEnable (fn : Nat) (enable : Bool) (log2 : Nat) (s : State) : Host.Outcome State Fault Refusal :=
  .next (if s.fnDecoded then doAdminQueueEnable fn enable log2 s else s)

/-- BAR4_WINDOW_WRITE (R485): BASE in units of 2 MiB. -/
def doBar4WindowWrite (base : Nat) (s : State) : State := { s with bar4Base := base % 2 ^ 19 }
def execBar4WindowWrite (base : Nat) (s : State) : Host.Outcome State Fault Refusal :=
  .next (if s.fnDecoded then doBar4WindowWrite base s else s)

/-- R485: an access that meets a reserved region or passes the end of local memory. -/
def State.bar4Bad (s : State) (a n : Nat) : Bool := decide (memBytes < a + n) || s.meetsReserved a n

def State.countBlocked (s : State) : State := { s with bar4Blocked := satAdd 32 s.bar4Blocked 1 }

/-- R338: BAR4 is decoded: at most 64 GiB, the link up, the memory trained. -/
def State.bar4Open (s : State) (offset n : Nat) : Bool :=
  s.mod.hostUp && s.mod.memTrained && decide (offset + n ≤ 2 ^ 36)

/-- BAR4_WRITE (R239, R485): applied at its homes. -/
def execBar4Write (offset : Nat) (data : List Byte) (s : State) : Host.Outcome State Fault Refusal :=
  let a := s.bar4Base * 2 ^ 21 + offset
  if !s.bar4Open offset data.length then .next s
  else if s.bar4Bad a data.length then .next s.countBlocked
  else .next (s.storeBytes a data)

/-- A read through the homes, line by line; a poisoned line reads as free values. -/
def State.bar4Bytes (s : State) (a n : Nat) : List Byte × State :=
  (partsOf a n).foldl (fun acc p =>
    match acc.2.loadLine p.1 p.2.1 p.2.2 0 with
    | (some d, s) => (acc.1 ++ d, s)
    | (none, s) => (acc.1 ++ (List.range p.2.2).map (fun i => Config.poisonByte s.freeCtr (p.1 * 128 + p.2.1 + i)),
        (s.logPoison p.1).drawn)) ([], s)

/-- BAR4_READ (R239, R485). -/
def execBar4Read (offset len : Nat) (s : State) : Host.Outcome State Fault Refusal :=
  let a := s.bar4Base * 2 ^ 21 + offset
  if !s.bar4Open offset len then .next s
  else if s.bar4Bad a len then .next (s.countBlocked.emit (.bar4Data (List.replicate len 0)))
  else
    let r := s.bar4Bytes a len
    .next (r.2.emit (.bar4Data r.1))

/-- MSIX_UNMASK (R349): the vector can send from now on, and a message held back is sent. -/
def doMsixUnmask (fn entry : Nat) (s : State) : State :=
  if !(s.fn fn).enabled || decide (s.vectors fn ≤ entry) then s else
  let held := (tabGet (s.fn fn).vectors Vector.reset entry).pending
  let s := s.modFn fn (fun x => { x with
    msixEnable := true, funcMask := false
    vectors := tabMod x.vectors Vector.reset entry (fun v => { v with masked := false, pending := false }) })
  if held then s.emit (.msix fn entry) else s
def execMsixUnmask (fn entry : Nat) (s : State) : Host.Outcome State Fault Refusal :=
  .next (if s.fnDecoded then doMsixUnmask fn entry s else s)

/-- The contexts of a function that are not FREE (R339). -/
def State.ctxsOf (s : State) (f : Nat) : List Nat := s.liveCtxs.filter (fun c => (s.ctx c).fn == f)

/-- R355: the contexts of a function are destroyed, and PCI Express resets its MSI-X capability. -/
def State.resetFn (s : State) (f : Nat) : State :=
  let s := (s.ctxsOf f).foldl State.destroyCtx s
  s.modFn f (fun x => { x with vectors := [], funcMask := false, msixEnable := false })

/-- R355: the VFs are disabled: their contexts are destroyed and are the PF's again. -/
def State.dropVfs (s : State) : State :=
  let s := (s.liveCtxs.filter (fun c => (s.ctx c).fn != 0)).foldl State.destroyCtx s
  let s : State := { s with
    ctxs := (s.ctxs.map (fun (e : Nat × Ctx) => (e.1, { e.2 with fn := 0 }))).filter (fun e => decide (e.2 ≠ Ctx.free)) }
  { s with nVf := 0, fns := s.fns.filter (fun e => e.1 == 0) }

/-- FUNCTION_LEVEL_RESET (R355): the PF's reset disables the VFs as well. -/
def execFunctionLevelReset (fn : Nat) (s : State) : Host.Outcome State Fault Refusal :=
  if !(s.fn fn).enabled then .next s
  else .next ((if fn = 0 then s.dropVfs else s).resetFn fn)

/-- VF_DISABLE (R355). -/
def execVfDisable (s : State) : Host.Outcome State Fault Refusal := .next s.dropVfs

/-- ATS_INVALIDATION (R336): the range leaves the translation cache, and the host translates it anew. -/
def execAtsInvalidation (pasid iova len : Nat) (s : State) : Host.Outcome State Fault Refusal :=
  let hit : Nat × Nat → Bool := fun e => e.1 == pasid && decide (e.2 * 4096 < iova + len) && decide (iova < (e.2 + 1) * 4096)
  .next { s with ats := dropIf s.ats hit, invalid := addNew s.invalid (pasid, iova, len) }

end Sys2Proof.Machine
end

