-- ==== Sys2Proof/Machine/Remote.lean ====
section
/-! DEFINITION. The target side of the fabric (R251, R255, R256, R258, R260), reductions (R261 to R265), fence signals
(R330), and how answers reach the source (R258, R251, R326). -/

namespace Sys2Proof.Machine

/-! ## The aperture (R254, R345) -/

/-- The device address of `n` bytes at a target offset, where an exported object holds them and grants the permission
(0 read, 1 write, 2 atomic). -/
def State.aperture (s : State) (off n perm : Nat) : Option (Obj × Nat) :=
  (s.objs.find? (fun o => match o.aperture with
    | some (t, r, w, a) => decide (t ≤ off) && decide (off + n ≤ t + o.size) &&
        (match perm with
         | 0 => r
         | 1 => w
         | _ => a)
    | none => false)).map (fun o => (o, o.dpa + (off - (o.aperture.getD (0, false, false, false)).1)))

/-! ## Reductions (R261 to R265) -/

/-- A reduction header as it lies in memory (R261). -/
structure RedHead where
  off  : Nat
  dpa  : Nat
  owner : Nat
  d    : List Byte
  deriving DecidableEq, Repr

def bitOf (d : List Byte) (base i : Nat) : Bool := (d.getD (base + i / 8) 0).getLsbD (i % 8)
def RedHead.expected (h : RedHead) (i : Nat) : Bool := decide (i < 1024) && bitOf h.d 0 i
def RedHead.arrived (h : RedHead) (i : Nat) : Bool := bitOf h.d 128 i
def RedHead.bound (h : RedHead) (i : Nat) : Bool := bitOf h.d 2336 i
def RedHead.binding (h : RedHead) (i : Nat) : Nat := u16At h.d (256 + 2 * i)
def RedHead.lines (h : RedHead) : Nat := u32At h.d 2304
def RedHead.ty (h : RedHead) : Nat := u8At h.d 2308
def RedHead.op (h : RedHead) : Nat := u8At h.d 2309
def RedHead.mode (h : RedHead) : Nat := u8At h.d 2310
def RedHead.done (h : RedHead) : Bool := u8At h.d 2311 != 0

/-- R261: the header can be interpreted. -/
def RedHead.ok (h : RedHead) : Bool :=
  decide (h.dpa % 4096 = 0) && decide (h.ty ≤ 2) && decide (h.op ≤ 2) && decide (h.mode ≤ 1) && decide (h.lines ≠ 0) &&
  zerosIn h.d [(2324, 4), (2464, 1632)]

/-- The header at a target offset; none where the aperture does not map it. -/
def State.redHead (s : State) (off : Nat) : Option RedHead :=
  (s.aperture off 4096 2).map (fun o => ⟨off, o.2, o.1.owner, s.homeBytes o.2 4096⟩)

/-- R262: a contributor's request may act: expected, not closed, unbound or bound to its device, the object not DONE. -/
def RedHead.allows (h : RedHead) (i src : Nat) : Bool :=
  h.ok && !h.done && h.expected i && !h.arrived i && (!h.bound i || h.binding i == src)

/-- The expected contributors in ascending order. -/
def RedHead.contributors (h : RedHead) : List Nat := (List.range 1024).filter h.expected

/-- The byte that holds bit `i` of a field at `base`, with the bit set. -/
def withBit (d : List Byte) (base i : Nat) : Byte := d.getD (base + i / 8) 0 ||| BitVec.ofNat 8 (2 ^ (i % 8))

/-- R262: the index bound to its source. -/
def State.bindRed (s : State) (h : RedHead) (i src : Nat) : State :=
  (s.storeBytes (h.dpa + 256 + 2 * i) (leBytes 2 src)).storeBytes (h.dpa + 2336 + i / 8) [withBit h.d 2336 i]

/-- R263, R264: one element combined, as codes of its type (0 binary32, 1 ZF16g, 2 int32); add, minimum, maximum. A
ZF16g element is held widened to binary32. -/
def redElem (ty op : Nat) (a b : Word32) : Word32 :=
  match ty, op with
  | 2, 0 => a + b
  | 2, 1 => if a.toInt ≤ b.toInt then a else b
  | 2, _ => if a.toInt ≤ b.toInt then b else a
  | _, 0 => f32Add a b
  | _, 1 => f32Min a b
  | _, _ => f32Max a b

def redWidth (ty : Nat) : Nat := if ty = 1 then 2 else 4
def redWiden (ty code : Nat) : Word32 := if ty = 1 then f32Of (zf16g.value code) else BitVec.ofNat 32 code
def redNarrow (ty : Nat) (x : Word32) : Nat := if ty = 1 then zf16g.round .rne (f32Val x) else x.toNat

/-- Lines combined in order, element by element: the first is placed, the others follow; one rounding to ZF16g at the
end. -/
def combineLines (ty op : Nat) : List (List Byte) → List Byte
  | [] => []
  | [l] => l
  | l :: r =>
    let w := redWidth ty
    (List.range (128 / w)).flatMap (fun e =>
      let get : List Byte → Word32 := fun x => redWiden ty (leNat (sliceAt x (e * w) w))
      leBytes w (redNarrow ty (r.foldl (fun a x => redElem ty op a (get x)) (get l))))

/-- Where result line `line`, and a contributor's staged line, lie after the header's start (R261). -/
def RedHead.resultRel (_h : RedHead) (line : Nat) : Nat := 4096 + 128 * line
def RedHead.stagingRel (h : RedHead) (i line : Nat) : Nat :=
  let rank := (h.contributors.filter (fun c => decide (c < i))).length
  4096 + 128 * h.lines * (1 + rank) + 128 * line

/-- Poison returned to a request (R193, R223). -/
def State.fabPoison (s : State) (dpa : Nat) : State := (s.countPoison (dpa / 128)).logPoison (dpa / 128)

/-- DONE set and FENCE signalled with FENCE_VALUE as a signal of the destination context (R261, R263). -/
def State.finishRed (s : State) (h : RedHead) : State :=
  let s := s.storeBytes (h.dpa + 2311) [1]
  if h.owner < numCtxs ∧ s.live h.owner then
    (s.engineSignal .set .device h.owner (u32At h.d 2320) (BitVec.ofNat 64 (u64At h.d 2328)) 0 (faultOf .syncDenied 0)).1
  else s

/-- R262: every expected contributor has closed. -/
def RedHead.complete (h : RedHead) : Bool := h.contributors.all h.arrived

/-- A reduction line (R262 to R264): staged, or combined into the result. -/
def State.redLine (s : State) (src off idx line : Nat) (data : List Byte) : State × FabAns :=
  match s.redHead off with
  | none => (s, .reject .access)
  | some h =>
    if s.poisoned h.dpa 4096 then (s.fabPoison h.dpa, .poison)
    else if !h.allows idx src ∨ h.lines ≤ line then (s, .reject .reduction)
    else
      let data := sliceAt data 0 128
      let at_ := off + (if h.mode = 0 then h.stagingRel idx line else h.resultRel line)
      match s.aperture at_ 128 2 with
      | none => (s, .reject .access)
      | some o =>
        if h.mode ≠ 0 ∧ s.poisoned o.2 128 then (s.fabPoison o.2, .poison)
        else
          let d := if h.mode = 0 then data else combineLines h.ty h.op [s.homeBytes o.2 128, data]
          ((s.bindRed h idx src).storeBytes o.2 d, .ack)

/-- A contribution close (R262): ARRIVED, COUNT_SUM; in arrival mode the last close completes the reduction. -/
def State.redClose (s : State) (src off idx : Nat) (count : Word32) : State × FabAns :=
  match s.redHead off with
  | none => (s, .reject .access)
  | some h =>
    if s.poisoned h.dpa 4096 then (s.fabPoison h.dpa, .poison)
    else if !h.allows idx src then (s, .reject .reduction)
    else
      let s := (s.bindRed h idx src).storeBytes (h.dpa + 128 + idx / 8) [withBit h.d 128 idx]
      let s := s.storeBytes (h.dpa + 2312) (leBytes 8 (u64At h.d 2312 + count.toNat))
      let h' : RedHead := { h with d := s.homeBytes h.dpa 4096 }
      (if h.mode = 1 ∧ h'.complete then s.finishRed h' else s, .ack)

/-- The staged lines and the header hold no poison. -/
def State.redClean (s : State) (h : RedHead) : Bool :=
  !s.poisoned h.dpa 4096 && h.contributors.all (fun i => !s.poisoned (h.dpa + h.stagingRel i 0) (128 * h.lines))

/-- ORDERED_REDUCTION_COMBINE (R263): the result of a complete ordered reduction; over poison the operation is not applied
(R211). -/
def execOrderedReductionCombine (offset : Nat) (s : State) : Host.Outcome State Fault Refusal :=
  match s.redHead offset with
  | none => .next s
  | some h =>
    if h.ok ∧ h.mode = 0 ∧ !h.done ∧ h.complete ∧ h.contributors ≠ [] then
      if s.redClean h then
        let s' := (List.range h.lines).foldl (fun s l =>
          s.storeBytes (h.dpa + h.resultRel l)
            (combineLines h.ty h.op (h.contributors.map (fun i => s.homeBytes (h.dpa + h.stagingRel i l) 128)))) s
        .next (s'.finishRed h)
      else .next (s.fabPoison h.dpa)
    else .next s

/-! ## Requests applied (R255) -/

/-- A fence signal at the target (R330): its share check, then as at home. -/
def State.fabFence (s : State) (src c handle : Nat) (add arrive : Bool) (v : Word64) (n : Nat) : State × FabAns :=
  match s.shareCheck handle src c false with
  | none => (s.countDeniedHandle handle, .denied 4)
  | some i =>
    let r := if arrive then s.applyArrival i v.toNat n else s.applySignal i add v.toNat
    (r.1, match r.2 with
      | .applied => .ack
      | .regression k v => .regression k v
      | .denied k => .denied k
      | .double => .doubleArrival)

/-- An atomic at the target's unit (R211, R74). -/
def State.fabAtomic (s : State) (dpa : Nat) (op : AtomOp) (ty : AtomTy) (args : List (Word64 × Word64)) : State × FabAns :=
  let n := atomBytes ty
  if s.poisoned (dpa / 128 * 128) 128 then (s.fabPoison dpa, .poison)
  else
    let r := applyLanes op ty (BitVec.ofNat 64 (leNat (s.homeBytes dpa n))) args
    (s.storeBytes dpa (leBytes n r.2.toNat), .old r.1)

/-- A store at its home; one to a channel that has failed returns poison (R219). -/
def State.fabStore (s : State) (dpa : Nat) (d : List (Option Byte)) : State × FabAns :=
  if s.repair.failed.elem (s.channelOf (dpa / 128)) then (s.fabPoison dpa, .poison) else (s.storeRange dpa 0 d, .ack)

/-- A request applied in its turn: the state and the answer. -/
def State.applyFab (s : State) (h : FabHead) (op : FabOp) : State × FabAns :=
  match op with
  | .load off len =>
    (match s.aperture off len 0 with
     | none => (s, .reject .access)
     | some o =>
       match s.loadRange o.2 len 0 with
       | (d, false, s) => (s, .data d)
       | (_, true, s) => (s.logPoison (o.2 / 128), .poison))
  | .store off d =>
    (match s.aperture off d.length 1 with
     | none => (s, .reject .access)
     | some o => s.fabStore o.2 d)
  | .multicast g off d =>
    (match s.aperture off d.length 1 with
     | some o => if (tabGet s.fab.groups [] g).elem s.fab.deviceId then s.fabStore o.2 d else (s, .reject .access)
     | none => (s, .reject .access))
  | .atomic off op ty lanes =>
    (match s.aperture off (atomBytes ty) 2 with
     | none => (s, .reject .access)
     | some o => s.fabAtomic o.2 op ty (lanes.map (fun l => (l.2.1, l.2.2))))
  | .redLine off idx line d => s.redLine h.src off idx line d
  | .close off idx n => s.redClose h.src off idx n
  | .fence c handle add arrive v n => s.fabFence h.src c handle add arrive v n

/-- R256, R260: the sequence a request belongs to: its source and route, or its source and group. -/
def seqOf (h : FabHead) (op : FabOp) : Nat :=
  match op with
  | .multicast g _ _ => 2 ^ 20 + h.src * 4096 + g
  | _ => seqKey h.src h.route

/-- One request applied and answered; the next number of its sequence is expected. -/
def State.serveFab (s : State) (h : FabHead) (op : FabOp) : State :=
  let r := s.applyFab h op
  let k := seqOf h op
  (r.1.modFab (fun f => { f with inSeq := tabSet f.inSeq 0 k (tabGet f.inSeq 0 k + 1) })).emit (.answer h.src h.route h.seq r.2)

/-- The sectors of local lines that a request reads where it is applied: (line, mask). -/
def State.fabReads (s : State) (op : FabOp) : List (Nat × Nat) :=
  let head : Nat → List (Nat × Nat) := fun off => match s.redHead off with
    | some h => (partsOf h.dpa 4096).map (fun p => (p.1, 15))
    | none => []
  match op with
  | .load off len => (match s.aperture off len 0 with
    | some o => (partsOf o.2 len).map (fun p => (p.1, sectorsOf p.2.1 p.2.2))
    | none => [])
  | .atomic off _ ty _ => (match s.aperture off (atomBytes ty) 2 with
    | some o => [(o.2 / 128, 15)]
    | none => [])
  | .redLine off _ line _ => head off ++ (match s.redHead off with
    | some h => if h.mode = 0 then [] else [((h.dpa + h.resultRel line) / 128, 15)]
    | none => [])
  | .close off _ _ => head off
  | _ => []

/-- Of those, the sectors still to be fetched: neither held nor known as poison. -/
def State.fabMissing (s : State) (op : FabOp) : List (Nat × Nat) :=
  ((s.fabReads op).map (fun e => (e.1, (List.range 4).foldl (fun m k =>
    if e.2.testBit k && !(s.validAt e.1).testBit k && !s.sectorPoisoned (e.1 * 4 + k) then m + 2 ^ k else m) 0))).filter
      (fun e => decide (e.2 ≠ 0))

/-- R203, R205, R211: a request is applied once its lines are filled and nothing that reached them before it waits. -/
def State.fabReady (s : State) (op : FabOp) : Bool :=
  s.fabMissing op == [] && !(s.fabReads op).any (fun e => s.lineHeld (s.channelOf e.1) e.1 s.nextId)

/-- The fills a request waits for, as far as miss registers are free. -/
def State.fabFill (s : State) (op : FabOp) : State :=
  (s.fabMissing op).foldl (fun s e => (s.fillLine e.1 e.2 0 []).getD s) s

/-- R258: requests that wait and whose turn has come. -/
def State.drainEarly : Nat → Nat → State → State
  | 0, _, s => s
  | f + 1, k, s =>
    match s.fab.early.find? (fun e => seqOf e.head e.op == k && e.head.seq == tabGet s.fab.inSeq 0 k) with
    | none => s
    | some e =>
      if s.fabReady e.op then drainEarly f k ((s.modFab (fun x => { x with early := x.early.erase e })).serveFab e.head e.op)
      else s.fabFill e.op

/-- Every sequence with a request that waits goes on as far as it can. -/
def State.drainAll (s : State) : State :=
  ((s.fab.early.map (fun e => seqOf e.head e.op)).dedup).foldl (fun s k => s.drainEarly s.fab.early.length k) s

/-- SECTOR_FILL_COMPLETION (R203, R191, R192). -/
def execSectorFillCompletion (channel line sector : Nat) (odd many : Bool) (s : State) : Host.Outcome State Fault Refusal :=
  match (s.slice channel).miss.find? (fun m => m.tag == line && m.sectors.getLsbD sector) with
  | none => .next s
  | some m => .next (if s.channelOf line = channel then (s.fillSector m line sector (wrongSymbols odd many)).drainAll else s)

/-- ATOMIC_UNIT_OPERATION (R211, R74). -/
def execAtomicUnitOperation (id : Nat) (s : State) : Host.Outcome State Fault Refusal := .next (s.atomicUnit id).drainAll

/-- R245: a request of a revoked partition is discarded, a fence signal counted. -/
def State.discardFab (s : State) (op : FabOp) : State :=
  match op with
  | .fence _ handle _ _ _ _ => s.countDeniedHandle handle
  | _ => s

/-- A REQUEST ARRIVES (R245, R250, R251, R256, R258): checked, then applied in sequence order, once. -/
def State.arriveFab (s : State) (h : FabHead) (op : FabOp) : State :=
  if !s.mod.memTrained then s
  else if !(s.fab.partValid && s.fab.partition == h.part) && s.fab.revoked.elem h.part then s.discardFab op
  else if !s.fab.valid || !s.fab.partValid || s.fab.partition != h.part then s.emit (.answer h.src h.route h.seq (.reject .access))
  else
    let k := seqOf h op
    let next := tabGet s.fab.inSeq 0 k
    if h.seq < next then s
    else if h.seq = next ∧ !s.fabReady op then
      (if s.fab.early.any (fun e => seqOf e.head e.op == k && e.head.seq == h.seq) then s
       else s.modFab (fun f => { f with early := f.early ++ [⟨h, op⟩] })).fabFill op
    else if h.seq = next then State.drainEarly s.fab.early.length k (s.serveFab h op)
    else if s.fab.early.any (fun e => seqOf e.head e.op == k && e.head.seq == h.seq) then s
    else if 8192 ≤ s.fab.early.length then s.emit (.answer h.src h.route h.seq .refusedEarly)
    else s.modFab (fun f => { f with early := f.early ++ [⟨h, op⟩] })

/-- FABRIC_LOAD. -/
def execFabricLoad (h : FabHead) (offset len : Nat) (s : State) : Host.Outcome State Fault Refusal :=
  .next (s.arriveFab h (.load offset len))

/-- FABRIC_STORE. -/
def execFabricStore (h : FabHead) (offset : Nat) (data : List (Option Byte)) (s : State) : Host.Outcome State Fault Refusal :=
  .next (s.arriveFab h (.store offset data))

/-- FABRIC_ATOMIC. -/
def execFabricAtomic (h : FabHead) (offset : Nat) (op : AtomOp) (ty : AtomTy) (a b : Word64) (s : State) :
    Host.Outcome State Fault Refusal :=
  .next (s.arriveFab h (.atomic offset op ty [(0, a, b)]))

/-- REDUCTION_LINE. -/
def execReductionLine (h : FabHead) (offset index line : Nat) (data : List Byte) (s : State) : Host.Outcome State Fault Refusal :=
  .next (s.arriveFab h (.redLine offset index line data))

/-- CONTRIBUTION_CLOSE. -/
def execContributionClose (h : FabHead) (offset index : Nat) (count : Word32) (s : State) : Host.Outcome State Fault Refusal :=
  .next (s.arriveFab h (.close offset index count))

/-- MULTICAST_STORE (R260). -/
def execMulticastStore (h : FabHead) (group offset : Nat) (data : List (Option Byte)) (s : State) : Host.Outcome State Fault Refusal :=
  .next (s.arriveFab h (.multicast group offset data))

/-- FENCE_SIGNAL (R330). -/
def execFenceSignal (h : FabHead) (ctx handle : Nat) (add arrive : Bool) (value : Word64) (count : Nat) (s : State) :
    Host.Outcome State Fault Refusal :=
  .next (s.arriveFab h (.fence ctx handle add arrive value count))

/-! ## Answers at the source (R258, R251, R326) -/

/-- Requests that only their own answer completes: they return data or an outcome. -/
def FabOp.needsAnswer : FabOp → Bool
  | .load .. | .atomic .. | .fence .. => true
  | _ => false

/-- The old values of an atomic's lanes, as the answer carries them. -/
def oldValues (ty : AtomTy) (n : Nat) (d : List Byte) : List Word64 :=
  (List.range n).map (fun i => BitVec.ofNat 64 (leNat (sliceAt d (i * atomBytes ty) (atomBytes ty))))

/-- The stage an access reaches by its request's answer. -/
def AccOp.answered (op : AccOp) (body : AckBody) : AccStage :=
  match body, op with
  | .poison, _ => .poisoned
  | .data d, .load => .served d []
  | .data d, .atomic _ ty lanes => .served [] (oldValues ty lanes.length d)
  | _, .load | _, .atomic .. => .forwarded
  | _, _ => .acked

/-- The outcome a fence signal's answer carries. -/
def ackOut : AckBody → SyncOut
  | .regression r v => .regression r v
  | .denied r => .denied r
  | .doubleArrival => .double
  | _ => .applied

/-- The request of a cistern fill is answered without data: the loads that wait for it get poison (R193) or its rejection
(R251). -/
def State.endFill (s : State) (dev off len : Nat) (st : AccStage) : State :=
  match s.cisMiss.find? (fun m => m.isFab dev (off / 128) && m.sectors.toNat == sectorsOf (off % 128) len) with
  | none => s
  | some m =>
    let s : State := { s with cisMiss := s.cisMiss.erase m }
    let s := if st = .poisoned then
        s.cisCount (cisSlice dev m.tag) (fun c => { c with poisonReads := satAdd 32 c.poisonReads m.waiters.length }) else s
    (m.waiters.foldl (fun s id => s.setStage id st) s).retryCis

/-- The copy of a request freed, and nothing waits for its acknowledgement any more. -/
def State.dropReq (s : State) (r : OutReq) : State :=
  let s := s.modFab (fun f => { f with out := f.out.filter (fun x => !(x.dev == r.dev && x.route == r.route && x.seq == r.seq)) })
  { s with walks := s.walks.map (fun w => { w with acks := w.acks.filter (fun a => a != (r.dev, r.route, r.seq)) }) }

/-- One request completed by its answer. -/
def State.endReq (s : State) (body : AckBody) (r : OutReq) : State :=
  let s := s.dropReq r
  let s := match r.access with
    | some id => (match s.access id with
      | some a => s.setStage id (a.op.answered body)
      | none => s)
    | none => (match r.op, body with
      | .load o n, .poison => s.endFill r.dev o n .poisoned
      | _, _ => s)
  match r.sync.bind (fun id => s.sync.ops.find? (fun o => o.id == id)) with
  | some o => s.endOp o (ackOut body)
  | none => s

/-- FABRIC_ACKNOWLEDGEMENT (R258): cumulative for the requests that return nothing but an acknowledgement; `body` is
the answer of the request named. -/
def execFabricAcknowledgement (dev route seq : Nat) (body : AckBody) (s : State) : Host.Outcome State Fault Refusal :=
  let mine : OutReq → Bool := fun r => r.left && r.dev == dev && r.route == route
  let done := s.fab.out.filter (fun r => mine r && ((decide (r.seq < seq) && !r.op.needsAnswer)))
  let s := done.foldl (fun s r => s.endReq .plain r) s
  let s := match s.fab.out.find? (fun r => mine r && r.seq == seq) with
    | some r => s.endReq body r
    | none => s
  .next s.endWalks.pumpOut

/-- R251, R272: what a rejection raises. -/
def rejCode : RejKind → Code
  | .access => .fabricAccess
  | .reduction => .reductionIndex

/-- The contexts that a rejected request stops: its own, or, for a line that left the cistern by an eviction, every one
with a slot to the device. -/
def State.rejectStops (s : State) (r : OutReq) : List Nat :=
  if r.ctx < numCtxs then [r.ctx]
  else s.liveCtxs.filter (fun c => (s.ctx c).slots.any (fun e => slotValid e.2 && decide (slotKind e.2 ≤ 1) && slotTarget e.2 == r.dev))

/-- The request that a rejection answers: one to a group is rejected by a member (R260). -/
def State.rejectedReq (s : State) (dev route seq : Nat) : Option OutReq :=
  s.fab.out.find? (fun r => r.left && r.route == route && r.seq == seq &&
    (r.dev == dev || (decide (65536 ≤ r.dev) && (s.targets r.dev).elem dev)))

/-- Who the record of a rejected request names: a group's signal by its instruction (R93), else nobody. -/
def State.rejectRec (s : State) (r : OutReq) (f : FaultRec) : FaultRec :=
  match r.sync.bind (fun id => s.sync.ops.find? (fun o => o.id == id)) with
  | some o => (match o.who with
    | .group .. => { o.place with code := f.code, deferred := true, queue := s.queueOfKern o.kern, address := f.address
                                  device := f.device }
    | _ => f)
  | none => f

/-- FABRIC_REJECTION (R251, R272): an access of a group, a tile DMA transfer or a copy ends with its own return, and so do the
loads that wait for a cistern fill; any other request stops its context, the record naming the device and the offset. -/
def execFabricRejection (dev route seq : Nat) (why : RejKind) (s : State) : Host.Outcome State Fault Refusal :=
  match s.rejectedReq dev route seq with
  | none => .next s
  | some r =>
    let a := r.access.bind s.access
    let f := s.rejectRec r { faultOf (rejCode why) 0 with device := dev, address := BitVec.ofNat 64 r.op.offset }
    let s := s.dropReq r
    let own := match a with
      | some a => (match a.who with
        | .group .. | .dma .. => true
        | _ => false)
      | none => (match r.op with
        | .load .. => true
        | _ => false)
    let s := match a with
      | some a => s.setStage a.id .rejected
      | none => (match r.op with
        | .load o n => s.endFill r.dev o n .rejected
        | _ => s)
    let s := match r.sync.bind (fun id => s.sync.ops.find? (fun o => o.id == id)) with
      | some o => s.endOp o .applied
      | none => s
    let s := if own then s else (s.rejectStops r).foldl (fun s c => s.takeFault c none f) s
    .next s.endWalks.pumpOut

/-- R258: another port of the fabric that is up, where there is one. -/
def State.otherPort (s : State) (p : Nat) : Nat :=
  (((List.range 16).map (fun i => (p + 1 + i) % 16)).find? (fun q => (s.port q).up)).getD p

/-- REQUEST_RESEND (R258): sent again over another port; counted. -/
def execRequestResend (dev route seq : Nat) (s : State) : Host.Outcome State Fault Refusal :=
  match s.fab.out.find? (fun r => r.left && r.dev == dev && r.route == route && r.seq == seq) with
  | none => .next s
  | some r =>
    if !s.routeUp route then .next s
    else
      let p := s.pathOf dev route r.op
      let q := if route = 1 ∨ route = 2 then p.1 else s.otherPort p.1
      let s := s.modPort q (fun x => { x with resends := satAdd 48 x.resends 1 })
      let s := s.modFab (fun f => { f with out := modIf f.out (fun x => x == r) (fun x => { x with port := q, plane := p.2 }) })
      .next (s.emit (.request dev route seq s.fab.partition q p.2 r.op))

end Sys2Proof.Machine
end

