-- ==== Sys2Proof/Machine/Links.lean ====
section
/-! DEFINITION. Links: ports going down and training (R48, R249, R268, R298, R299), the path table (R257), lanes, the
chain ports and their culvert (R278 to R281, R285), and the job boundary (R400, R280). -/

namespace Sys2Proof.Machine

/-! ## The path table (R257, R268) -/

/-- R257 step 3: entry `b` of a new partition. -/
def uniformPath (b : Nat) : Nat × Nat := (b % 16, b / 16 % Config.planes)

/-- IN_PATH of every fabric port, as the table now names it (R486). -/
def State.markPath (s : State) : State :=
  (List.range 16).foldl (fun s p =>
    let named := (List.range 256).any (fun b => (tabGet s.fab.path (0, 0) b).1 == p)
    s.modPort p (fun x => { x with inPath := x.up && s.fab.partValid && named })) s

/-- R268: Halnor names a port that is up, where there is one, in place of one that is not; which one is free. -/
def State.liveEntry (s : State) (e : Nat × Nat) : Nat × Nat :=
  let ups := (List.range 16).filter (fun p => (s.port p).up)
  if (s.port e.1).up || ups.isEmpty then e else (ups.getD (Config.pick 4 s.freeCtr % ups.length) e.1, e.2)

/-- The path table rebuilt entry by entry, then without ports that are down. -/
def State.setPath (s : State) (f : Nat → Nat × Nat) : State :=
  let t : Tab (Nat × Nat) := (List.range 256).foldl (fun t b => tabSet t (0, 0) b (s.liveEntry (f b))) s.fab.path
  (s.drawn.modFab (fun x => { x with path := t })).markPath

def State.pathEntry (s : State) (b : Nat) : Nat × Nat := tabGet s.fab.path (0, 0) b

/-- PATH_TABLE_REWEIGHT (R257 step 4): with PATH_ADAPT 1 Halnor reassigns every entry from the measured delays; an
entry whose new port is down keeps its port. -/
def execPathTableReweight (delays : List Nat) (s : State) : Host.Outcome State Fault Refusal :=
  if s.fab.pathAdapt && s.fab.partValid then
    .next (s.setPath (fun b =>
      let p := Config.pathPort delays b % 16
      if (s.port p).up then (p, Config.pathPlane delays b) else s.pathEntry b))
  else .next s

/-! ## Ports going down (R48, R249, R268) -/

/-- R48: the sluice halves of a port are reset with its link. -/
def State.resetPortSluices (s : State) (p : Nat) : State :=
  { s with sluices := s.sluices.filter (fun e => !(e.1.kind == .port && (e.1.src == islandPort p || e.1.dst == islandPort p))) }

/-- A PORT GOES DOWN (R268): counted, out of the path table, its timed regions abort as for a lost partner; untimed
requests go on over the remaining ports, or wait. -/
def State.portDown (s : State) (p : Nat) : State :=
  if (s.port p).up then
    let s := s.modPort p (fun x => { x with up := false, inPath := false, downEvents := satAdd 32 x.downEvents 1 })
    let s := if p < 16 ∧ s.fab.partValid then s.setPath s.pathEntry else s
    ((s.resetPortSluices p).abortRegionOn p (faultOf .partnerLost 0)).emit .linkDown
  else s

/-- FABRIC_PORT_DOWN (R268). -/
def execFabricPortDown (port : Nat) (s : State) : Host.Outcome State Fault Refusal := .next (s.portDown port)

/-- LINK_SIGNAL_LOSS (R280): a culvert change or the loss of the partner takes the link down. -/
def execLinkSignalLoss (port : Nat) (s : State) : Host.Outcome State Fault Refusal := .next (s.portDown port)

/-- FRAME_RETRY (R249): repeat number `attempt` of a frame found in error; still in error after 16, it takes the port
down. -/
def execFrameRetry (port attempt : Nat) (s : State) : Host.Outcome State Fault Refusal :=
  if !(s.port port).up then .next s
  else if attempt ≤ 16 then .next (s.modPort port (fun x => { x with frameRetries := satAdd 48 x.frameRetries 1 }))
  else .next (s.portDown port)

/-- A region in progress uses the port. -/
def State.regionUses (s : State) (p : Nat) : Bool :=
  match s.timed.region with
  | some r => decide (r.portClass.getD p 0 ≠ 0)
  | none => false

/-- R249, R440: the lane moves to the spare and the port retrains; a second failing lane takes the port down until the module
is repaired. -/
def State.moveLane (s : State) (port : Nat) : State :=
  let s := s.modRepair (fun r => { r with laneWait := r.laneWait.filter (fun p => p != port) })
  if (s.port port).spare then
    (((s.modPort port (fun x => { x with broken := true })).record (9, port, 1, 0, 0)).logEntry .laneMove [port, 1]).portDown port
  else
    let s := s.modPort port (fun x => { x with spare := true, laneMoves := satAdd 32 x.laneMoves 1 })
    ((s.record (9, port, 0, 0, 0)).logEntry .laneMove [port, 0]).portDown port

/-- LANE_MOVE (R249, R400): on a port that a region uses it waits for the region's end unless the lane has failed. -/
def doLaneMove (port : Nat) (failed : Bool) (s : State) : State :=
  if 18 ≤ port then s
  else if s.regionUses port && !failed then s.modRepair (fun r => { r with laneWait := addNew r.laneWait port })
  else s.moveLane port

/-- The lane moves that waited, on ports that no region uses any more (R400); not during a reload (R402). -/
def State.moveLanes (s : State) : State :=
  if s.hal.reloading then s else s.repair.laneWait.foldl (fun s p => if s.regionUses p then s else s.moveLane p) s

def execLaneMove (port : Nat) (failed : Bool) (s : State) : Host.Outcome State Fault Refusal :=
  s.orDefer (.laneMove port failed) (doLaneMove port failed s)

/-! ## Training (R48, R254, R281, R296 to R299) -/

/-- R298: V from the largest round trip, and the class from V and FLOOR. -/
def visOf (rt : Nat) : Nat := (rt + 1) / 2 + 1
def classOf (chain : Bool) (v floor : Nat) : Nat := max (roundUp (v + (if chain then 4 else 0) + 6) 4) (roundUp floor 4)

/-- R298: both ends use the larger class; above 252 none is assigned. -/
def agreedClass (a b : Nat) : Nat := if 252 < max a b then 0 else max a b

/-- R296: the fit check of a class. -/
def fits (cls out in' : Nat) : Bool := decide (out + 2 ≤ cls) && decide (in' + 2 ≤ cls)

/-- The port after a training that succeeded: the class agreed (R298), or held or lost across a retraining while the
partition stands (R299); the reference domain compared (R297), the neighbour recorded (R254). -/
def Port.trained (x : Port) (chain part : Bool) (ref : Nat) (r : TrainResult) : Port :=
  let v := visOf r.rt
  let c := if part && decide (x.cls ≠ 0) then x.cls else agreedClass (classOf chain v x.floor) r.peerClass
  let ok := !part || fits c r.fitOut r.fitIn
  { x with
    up := true, trainFailed := false, peerId := r.peerId, peerRef := r.peerRef, vis := v
    cls := if ok then c else 0
    held := part && ok && decide (x.cls ≠ 0)
    unfit := !ok
    refOk := decide (r.peerRef ≠ 0) && r.peerRef == ref
    fitMaxOut := r.fitOut, fitMaxIn := r.fitIn }

/-- The port can carry a link: a chain port whose culvert is open, no lane beyond its spare failed (R249, R278). -/
def State.mayTrain (s : State) (p : Nat) : Bool :=
  s.mod.pg && !(s.port p).broken && (decide (p < 16) || s.mod.chainActive)

/-- PORT_TRAINING (R48): the link goes down and trains; across three or more closed culverts it fails (R281). -/
def execPortTraining (port : Nat) (r : TrainResult) (s : State) : Host.Outcome State Fault Refusal :=
  if 18 ≤ port then .next s
  else
    let s := s.portDown port
    if !s.mayTrain port || !r.ok || (decide (16 ≤ port) && decide (3 ≤ r.culverts)) then
      .next (s.modPort port (fun x => { x with trainFailed := true }))
    else
      let s := s.modPort port (fun x => x.trained (decide (16 ≤ port)) s.fab.partValid s.timed.refDomain r)
      let s := if port < 16 ∧ s.fab.partValid then
          s.setPath (fun b => if b % 16 = port then uniformPath b else s.pathEntry b) else s
      .next (s.emit .linkUp).pumpOut

/-! ## Chain ports (R278 to R281, R285) -/

def chainPort (downstream : Bool) : Nat := if downstream then 17 else 16

/-- R279: the culvert opens when both chain ports have trained against its loopback, ENABLE is 1 on both, and the compute
reset group is out of reset. -/
def State.openChain (s : State) : State :=
  if (s.port 16).loopback && (s.port 17).loopback && (s.port 16).enable && (s.port 17).enable && !s.mod.computeHeld then
    s.modMod (fun m => { m with chainActive := true })
  else s

/-- R279, R280: the culvert closes and both links go down. -/
def State.closeChain (s : State) : State :=
  if s.mod.chainActive then (s.chainLow.portDown 16).portDown 17 else s

/-- A context uses a chain port (R285): a valid slot on its route, or a region. -/
def State.chainUsed (s : State) (p : Nat) : Bool :=
  s.regionUses p ||
  s.ctxs.any (fun e => e.2.st != .free && e.2.slots.any (fun x =>
    slotValid x.2 && decide (slotKind x.2 ≤ 1) && slotRoute x.2 == p - 15))

/-- CHAIN_LOOPBACK_TRAINING (R279): both chain ports train against the closed culvert once compute is out of reset. -/
def execChainLoopbackTraining (s : State) : Host.Outcome State Fault Refusal :=
  if s.mod.computeHeld || s.mod.chainActive || !s.mod.pg then .next s
  else
    let s := s.modPort 16 (fun x => { x with loopback := true })
    .next (s.modPort 17 (fun x => { x with loopback := true })).openChain

/-- CHAIN_ENABLE_WRITE (R279, R280, R285): 1 opens the culvert once allowed, at a job boundary while contexts live; 0
closes it at the next job boundary, or at once if no context uses the port. -/
def doChainEnableWrite (downstream enable : Bool) (s : State) : State :=
  let s := s.modPort (chainPort downstream) (fun x => { x with enable := enable })
  if enable then (if s.liveCtxs.isEmpty then s.openChain else s)
  else if s.chainUsed (chainPort downstream) then s else s.closeChain
def execChainEnableWrite (downstream enable : Bool) (s : State) : Host.Outcome State Fault Refusal :=
  .next (doChainEnableWrite downstream enable s)

/-- RETRAIN (R285, R48): the chain link goes down to train again. -/
def doRetrain (downstream : Bool) (s : State) : State := s.portDown (chainPort downstream)
def execRetrain (downstream : Bool) (s : State) : Host.Outcome State Fault Refusal :=
  .next (doRetrain downstream s)

/-! ## The job boundary (R400, R280, R440, R391, R395) -/

/-- R380: the partner of a logical tile. -/
def partnerTile (t : Nat) : Nat := (t / 48 + 24) % 48 * 48 + t % 48

/-- R391, R395: a report of host software: a suspicion resolved by matching replays is counted and logged with both tiles of
its unit, a mismatch of a verification is logged. -/
def State.hostReport (s : State) (r : Config.HostReport) : State :=
  if r.matched then
    (s.modHal (fun h => { h with seepAlarms := satAdd 32 h.seepAlarms 1 })).logEntry .alarm [r.step, r.tile, partnerTile r.tile]
  else s.logEntry .mismatch [r.step, r.tier]

/-- JOB_BOUNDARY: waiting channel replacements and tile retirements are carried out and recorded, and the culvert opens
or closes as asked. What host software has reported of replays since the last boundary, which no command carries, is taken
in (DESIGN CHOICE, assumption 138). -/
def doJobBoundary (s : State) : State :=
  let s := (Config.hostReports s.freeCtr).foldl State.hostReport s.drawn
  let s := s.moveLanes
  let due := (s.hal.memErrors.map (fun e => s.channelOf (e.sector / 4))).filter s.channelDue
  let s := (s.repair.waiting ++ due).dedup.foldl State.replaceChannel s
  let s := s.repair.toRetire.foldl State.retireTile s
  let s := if s.repair.unrecorded = [] || !s.sec.recordOk then s else s.writeBank false
  if (s.port 16).enable && (s.port 17).enable then s.openChain else s.closeChain
def execJobBoundary (s : State) : Host.Outcome State Fault Refusal := s.orDefer .jobBoundary (doJobBoundary s)

end Sys2Proof.Machine
end

