-- ==== Sys2Proof/Machine/Manager.lean ====
section
/-! DEFINITION. The fabric manager: identity (R250), partitions and groups (R256, R257, R260), revocation (R244, R245,
R270), timeouts (R269) and the grace period of retained objects (R271). -/

namespace Sys2Proof.Machine

/-! ## Messages (R461, R468) -/

/-- R461: a message is accepted when the installed key's signature verifies and its issue number exceeds the last. -/
def State.fmOk (s : State) (m : FmHead) : Bool :=
  s.alive && s.fab.fmKey.isSome && m.sigOk && decide (s.fab.lastIssue.toNat < m.issue.toNat)

/-- R468: FM_REJECTED. -/
def State.fmRefuse (s : State) : State := s.modFab (fun f => { f with rejected := satAdd 32 f.rejected 1 })

/-- A manager's message: counted as rejected, or accepted with its effect. -/
def State.fmMessage (s : State) (m : FmHead) (ok : Bool) (f : State → State) : State :=
  if s.fmOk m && ok then f (s.modFab (fun x => { x with lastIssue := m.issue })) else s.fmRefuse

/-! ## Identity, partitions, groups (R250, R256, R257, R260) -/

/-- FABRIC_IDENTITY_ASSIGNMENT (R250): DEVICE_ID changes only while no partition is served; a change retrains both chain
ports. -/
def doFabricIdentityAssignment (m : FmHead) (deviceId domainSlot : Nat) (s : State) : State :=
  let same := s.fab.deviceId == deviceId
  let fit := decide (deviceId < 2 ^ 16) && decide (domainSlot < 128)
  s.fmMessage m (fit && (same || !s.fab.partValid)) (fun s =>
    let s := s.modFab (fun f => { f with deviceId := deviceId, domainSlot := domainSlot, valid := true })
    if same then s else (s.portDown 16).portDown 17)
def execFabricIdentityAssignment (m : FmHead) (deviceId domainSlot : Nat) (s : State) : Host.Outcome State Fault Refusal :=
  s.orDefer (.fabricIdentityAssignment m deviceId domainSlot) (doFabricIdentityAssignment m deviceId domainSlot s)

/-- A partition formed: its sequence numbers start at zero (R256), the path table at its uniform weighting (R257), no
group is defined, and the epoch's tree is as the manager names it (R295). -/
def State.formPartition (s : State) (partition : Nat) (members domain : List Nat) (root : Bool) (parentPort : Nat)
    (children : List (Nat × Nat)) : State :=
  let fresh := !(s.fab.partValid && s.fab.partition == partition)
  let s := s.modFab (fun f => { f with members := members, domain := domain })
  let s := s.modTimed (fun t => { t with root := root, parent := if root then 31 else parentPort, children := children })
  if fresh then
    let s := s.dropEpoch.modFab (fun f => { f with
      partition := partition, partValid := true, outSeq := [], inSeq := [], out := [], early := [], groups := [], reports := [] })
    let s := s.modTimed (fun t => { t with probes := 0, largestIn := 0, largestOut := 0, reported := [], dryDiff := 0, passed := [], formedAt := s.hal.ms })
    -- the aperture of another partition is gone with it (R254); a retained object's entry stayed until now (R270)
    let s : State := { s with objs := s.objs.map (fun o => if o.grace then { o with aperture := none } else o) }
    s.setPath uniformPath
  else s

/-- PARTITION_ASSIGNMENT (R250, R26: a domain has at most 128 devices): another partition than the one served is rejected until that one is revoked. -/
def doPartitionAssignment (m : FmHead) (partition : Nat) (members domain : List Nat) (root : Bool) (parentPort : Nat)
    (children : List (Nat × Nat)) (s : State) : State :=
  s.fmMessage m (decide (partition < 2 ^ 16) && decide (domain.length ≤ 128) && (!s.fab.partValid || s.fab.partition == partition)) (fun s =>
    s.formPartition partition members domain root parentPort children)
def execPartitionAssignment (m : FmHead) (partition : Nat) (members domain : List Nat) (root : Bool) (parentPort : Nat)
    (children : List (Nat × Nat)) (s : State) : Host.Outcome State Fault Refusal :=
  s.orDefer (.partitionAssignment m partition members domain root parentPort children)
    (doPartitionAssignment m partition members domain root parentPort children s)

/-- MULTICAST_GROUP_DEFINITION (R260): up to 64 devices of the partition. -/
def doMulticastGroupDefinition (m : FmHead) (group : Nat) (members : List Nat) (s : State) : State :=
  s.fmMessage m (s.fab.partValid && decide (group < 4096) && decide (members.length ≤ 64) &&
      members.all (fun d => s.fab.members.elem d)) (fun s =>
    s.modFab (fun f => { f with groups := tabSet f.groups [] group members }))
def execMulticastGroupDefinition (m : FmHead) (group : Nat) (members : List Nat) (s : State) : Host.Outcome State Fault Refusal :=
  s.orDefer (.multicastGroupDefinition m group members) (doMulticastGroupDefinition m group members s)

/-! ## Revocation (R244, R245, R270, R271) -/

def Queue.inRegion (q : Queue) : Bool :=
  match q.work with
  | some .region => true
  | _ => false

/-- R270: the contexts of the partition: a valid slot, or a flume descriptor launching or in progress. -/
def State.partCtxs (s : State) : List Nat :=
  s.liveCtxs.filter (fun c =>
    (s.ctx c).slots.any (fun e => slotValid e.2) || (s.ctx c).queues.any (fun e => e.2.inRegion))

/-- R271: retained objects of the partition's contexts enter their grace period, reached by no context; a RETAIN_GRACE of
0 frees them as ordinary objects are freed. -/
def State.graceObjs (s : State) (cs : List Nat) : State :=
  let hit : Obj → Bool := fun o => o.retained && !o.orphan && !o.grace && cs.elem o.owner
  let nums := (s.objs.filter hit).map (fun o => o.num)
  let objs := s.objs.map (fun o =>
    let cred := if o.owner < numCtxs then (s.ctx o.owner).credential else o.credential
    if hit o then
      (if s.fab.retainGrace = 0 then { o with orphan := true, owner := numCtxs, aperture := none }
       else { o with grace := true, since := s.hal.ms, credential := cred, owner := numCtxs })
    else if o.grace then o else { o with aperture := none })
  let unmap : Ctx → Ctx := fun x => { x with maps := x.maps.filter (fun m => !nums.elem m.obj) }
  let s : State := { s with objs := objs, ctxs := s.ctxs.map (fun (e : Nat × Ctx) => (e.1, unmap e.2)) }
  s.dropOrphans

def Place.isRemote : Place → Bool
  | .remote .. => true
  | _ => false

/-- R241, R245: what was under way to the partition ends: loads return nothing, waits for acknowledgements are over. -/
def State.dropRemote (s : State) : State :=
  let gone := s.flights.filter (fun a => a.place.isRemote)
  let s : State := { s with
    flights := s.flights.filter (fun a => !a.place.isRemote)
    issues := s.issues.filter (fun i => !gone.any (fun a => a.issue == i.id))
    cisMiss := [], cisInq := []
    walks := s.walks.map (fun w => { w with acks := [] }) }
  let dmas := gone.filterMap (fun a => match a.who with
    | .dma t e => some (t, e)
    | _ => none)
  let s := dmas.foldl (fun s d => s.modTile d.1 (fun x => { x with dma := tabSet x.dma none d.2 none })) s
  let s := s.modSync (fun y => { y with ops := y.ops.filter (fun o => o.remote.isNone) })
  let s := s.modFab (fun f => { f with out := [], early := [], reports := [] })
  s.endWalks

/-- THE PARTITION IS REVOKED (R270), by the manager or by the stop of R269: contexts stop, regions abort, the cistern walk
begins, the partition counts as revoked, the aperture goes. -/
def State.revoke (s : State) (code : Code) : State :=
  let cs := s.partCtxs
  let s := s.abortRegion (faultOf code 0)
  let s := cs.foldl (fun s c => s.takeFault c none (faultOf code 0)) s
  let s := s.dropRemote.graceObjs cs
  let devs := s.fab.members.map (fun d => (d, 0, 2 ^ 33))
  let w : Walk := { id := s.nextId, kind := .revoke, ranges := some devs, who := .device
                    untilTick := some (s.wet.toNat + 16384), acks := [], ended := false }
  let s : State := { s.fresh with walks := s.walks ++ [w] }
  s.dropEpoch.modFab (fun f => { f with partValid := false, revoked := addNew f.revoked f.partition })

/-- PARTITION_REVOCATION (R270): from the manager's credential only; one of a partition this device does not serve only
marks it as revoked. -/
def doPartitionRevocation (m : FmHead) (partition : Nat) (s : State) : State :=
  s.fmMessage m true (fun s =>
    if s.fab.partValid && s.fab.partition == partition then s.revoke .partitionRevoked
    else s.modFab (fun f => { f with revoked := addNew f.revoked partition }))
def execPartitionRevocation (m : FmHead) (partition : Nat) (s : State) : Host.Outcome State Fault Refusal :=
  .next (doPartitionRevocation m partition s)

/-- REVOCATION_WALK_END (R244): every slice has ended its walk; SLOT_SET and fabric MAP commands go on. -/
def execRevocationWalkEnd (s : State) : Host.Outcome State Fault Refusal :=
  match s.walks.find? (fun w => decide (w.kind = .revoke)) with
  | none => .next s.retryHeld
  | some w =>
    let s := match w.untilTick with
      | some t => s.waitWet t
      | none => s
    let s := s.revokeLines ((w.ranges.getD []).map (fun r => r.1))
    let s : State := { s with walks := s.walks.filter (fun x => x.id != w.id) }
    .next s.retryHeld

/-! ## Timeouts (R269, R271) -/

/-- REQUEST_TIMEOUT (R269): a request without an answer for REQ_TIMEOUT is reported to the manager, once, with the path it
last took. -/
def execRequestTimeout (dev route seq : Nat) (s : State) : Host.Outcome State Fault Refusal :=
  match s.fab.out.find? (fun r => r.left && !r.reported && decide (r.sentAt + s.fab.reqTimeout * quantumTicks ≤ s.tick.toNat) && r.dev == dev && r.route == route && r.seq == seq) with
  | none => .next s
  | some r =>
    .next ((s.modFab (fun f => { f with
      out := modIf f.out (fun x => x == r) (fun x => { x with reported := true }), reports := f.reports ++ [(dev, s.hal.ms)] })).emit
        (.timeoutReport dev route seq r.port r.plane))

/-- FABRIC_TIMEOUT (R269): 1 s after a report no revocation has come: the device stops the partition itself. -/
def execFabricTimeout (s : State) : Host.Outcome State Fault Refusal :=
  if s.fab.partValid && s.fab.reports.any (fun r => decide (r.2 + 1000 ≤ s.hal.ms)) then .next (s.revoke .fabricTimeout) else .next s

/-- RETAIN_GRACE_EXPIRY (R271): the objects whose grace period began first and that no one has reclaimed are zeroed and
freed. -/
def execRetainGraceExpiry (s : State) : Host.Outcome State Fault Refusal :=
  match (s.objs.filter (fun o => o.grace)).map (fun o => o.since) with
  | [] => .next s
  | t :: r =>
    let first := r.foldl min t
    if s.hal.ms < first + s.fab.retainGrace * 1000 then .next s else
    let old : Obj → Bool := fun o => o.grace && o.since == first
    let s' := (s.objs.filter old).foldl (fun (s : State) o => s.zeroRange o.dpa o.size) s
    .next { s' with objs := dropIf s'.objs old }

end Sys2Proof.Machine
end

