-- ==== Sys2Proof/Machine/Sluices.lean ====
section
/-! DEFINITION. Sluices at work (R32 to R40, R43, R44, R72), event lines (R41), Halnor's events (R42) and reset groups (R45 to
R48). -/

namespace Sys2Proof.Machine

/-! ## Faults of a crossing (R43, R44) -/

/-- The last item of a sluice is taken back. -/
def State.unsend (s : State) (i : SluiceId) : State :=
  let x := s.sluice i
  s.setSluice i { x with wptr := toGray (ofGray x.wptr - 1), items := x.items.dropLast }

/-- R114: nothing of the flume program's present tick takes effect. -/
def State.undoTick (s : State) (tile : Nat) : State :=
  match (s.tile tile).flume.before with
  | none => s
  | some b =>
    let s := s.modTile tile (fun x => { x with
      scratch := b.scratch, array := b.array, rowBusy := b.rowBusy, rowOut := b.rowOut, dmaIn := b.dmaIn, dmaOut := b.dmaOut
      dma := b.dmas.foldl (fun d e => tabSet d none e none) x.dma })
    let s : State := { s with flights := s.flights.filter (fun a => !b.dmas.any (fun e => decide (a.who = .dma tile e))) }
    let s := b.sends.foldl State.unsend s
    s.modSync (fun y => { y with ops := y.ops.filter (fun o => !b.signals.elem o.id) })

/-- A region aborts at a crossing (R43, R44, R289). -/
def State.crossingFault (s : State) (code : Code) (i : SluiceId) : State :=
  let s := if code = .sluiceLate then s.logEntry .sluiceLate [i.src, i.dst, i.point] else s
  s.abortRegion (faultOf code 0)

/-! ## Sending (R32, R33, R44) -/

/-- SLUICE_SEND (R32, R33, R44): the item and its stamp are written and the write pointer moves; with no free entry an
untimed sender waits for credit, and a timed one raises SLUICE_OVERRUN, precisely. A port that is not trained carries nothing
(R48), and a group that drains takes nothing (R47). -/
def execSluiceSend (i : SluiceId) (timed : Bool) (data : List Byte) (dest : Option (Nat × Nat)) (s : State) :
    Host.Outcome State Fault Refusal :=
  if s.sluiceDelay i = none ∨ 256 < data.length ∨ s.linkDown i then .next s
  else
    let what : Payload := match dest with
      | some t => .scratch t.1 t.2 data
      | none => .bytes data
    if timed ∧ i.kind ≠ .free then
      .next (if s.room i then s.sendTimed i what else (s.undoTick i.src).crossingFault .sluiceOverrun i)
    else .next (if s.quiesced i then s else s.sendUntimed i what)

/-! ## What a released item does (R39, R72, R289) -/

/-- A flume send's bytes at their tile: outside its region window the region aborts (R289); a tile that an abort stopped
writes nothing. -/
def State.sendLands (s : State) (t off : Nat) (d : List Byte) : State :=
  let x := (s.tile t).flume
  match s.timed.region with
  | none => s
  | some r =>
    if x.stopped then s
    else if !r.tiles.elem t ∨ x.size < off + d.length then
      s.abortRegion { faultOf .scratchBounds 0 with tile := t, address := BitVec.ofNat 64 off }
    else s.scratchWrite t (x.base + off) d

/-- R39 step 2: an item crosses to the port island, stamped again: it takes an entry of the port's send half until credit
returns, which is taken to be its class later (assumption 126). -/
def State.leavePort (s : State) (p dev t off : Nat) (d : List Byte) : State :=
  let i := linkOut p
  if s.linkDown i then s
  else if !s.room i then s.crossingFault .sluiceOverrun i
  else
    let x := s.sluice i
    let s := s.setSluice i { x with wptr := nextGray x.wptr, rptr := nextGray x.rptr, seenW := nextGray x.seenW
                                    back := x.back ++ [s.tick.toNat + (s.port p).cls] }
    s.emit (.timedItem p dev t off d (s.jobWet.toNat % 65536))

/-- The tile that serves a cluster request, the addresses with their lanes, and the delay of its answer (R72). -/
def Issue.targets (i : Issue) : Nat × List (Nat × Nat) × Nat :=
  let t := i.rank.getD 0
  (t, (lanesOf i.lanes).map (fun l => (l, i.addrs.getD l 0)), meshDelay t i.tile)

/-- The port of the target's scratch taken for a request's words, and the data it brought sent back (R66, R72). -/
def State.clusterServe (s : State) (id : Nat) (f : State → Issue → State × List (Nat × List Byte)) : State :=
  match s.issues.find? (fun i => i.id == id) with
  | none => s
  | some i =>
    let (t, ls, d) := i.targets
    let words := ls.flatMap (fun l => (List.range ((l.2 % 4 + i.size + 3) / 4)).map (fun k => l.2 / 4 + k))
    let s := s.takePort t (portTicks words)
    let (s, data) := f s i
    { s with issues := modIf s.issues (fun x => x.id == id) (fun x =>
        { x with data := some data, ready := max x.ready (s.wet.toNat + d) }) }

/-- A cluster-scratch load samples its words where its request is released. -/
def clusterRead (s : State) (i : Issue) : State × List (Nat × List Byte) :=
  (s, i.targets.2.1.map (fun l => (l.1, s.scratchBytes i.targets.1 l.2 i.size)))

/-- A cluster-scratch atomic (R73, R74): lane by lane, each lane's old value. -/
def clusterAtomics (op : AtomOp) (ty : AtomTy) (lanes : List (Nat × Nat × Word64 × Word64)) (s : State) (i : Issue) :
    State × List (Nat × List Byte) :=
  lanes.foldl (fun acc l =>
    let n := atomBytes ty
    let old := BitVec.ofNat 64 (leNat (acc.1.scratchBytes i.targets.1 l.2.1 n))
    let new := atomicNew op ty old l.2.2.1 l.2.2.2
    (acc.1.scratchWrite i.targets.1 l.2.1 (leBytes n new.toNat), acc.2 ++ [(l.1, leBytes n old.toNat)])) (s, [])

/-- What a released item does: bytes are their receiver's; a flume send writes scratch at its tile, after a port by way of the
mesh (R39 step 3), or leaves by a port; an access reaches its home or slice; stores, loads and atomics of a cluster reach
their tile (R72). -/
def State.deliver (s : State) (i : SluiceId) (w : Payload) : State :=
  match w with
  | .bytes _ => s
  | .scratch t off d =>
    if i.kind = .port then
      let j : SluiceId := ⟨.mesh, i.dst, t, 0⟩
      if (pathEnds j).isNone then s.sendLands t off d
      else if s.room j then s.sendTimed j (.scratch t off d)
      else s.crossingFault .sluiceOverrun j
    else s.sendLands t off d
  | .forward p dev t off d => s.leavePort p dev t off d
  | .request id => (match s.access id with
    | some a => if a.stage = .moving then s.serveAccess a else s
    | none => s)
  | .cells src uid t ws => (ws.foldl (fun s w => s.scratchWrite t w.1 w.2) s).wakeFence src uid
  | .clusterLoad id => s.clusterServe id clusterRead
  | .clusterAtomic id op ty lanes => s.clusterServe id (clusterAtomics op ty lanes)

/-- An item leaves its sluice and takes effect; senders that waited for its entry go on (R44). -/
def State.releaseItem (s : State) (i : SluiceId) (it : Item) : State := ((s.takeItem i it).deliver i it.what).credit i

/-! ## Visibility and release (R32, R34, R36, R37, R40) -/

/-- The ticks of the compute side pass, or the crossing has no compute half. -/
def State.crossingRuns (s : State) (i : SluiceId) : Bool := s.running || sluiceNoCompute i

/-- The pointer update that the receive half sees next: that of the first timed item, unless it has still to arrive, else of
the first item. -/
def State.nextSeen (s : State) (x : Sluice) : Option Item :=
  match x.items.find? (fun it => !it.visible && it.timed && decide (it.arrive ≤ s.wet.toNat)) with
  | some it => some it
  | none => x.items.find? (fun it => !it.visible)

/-- R32, R36: time passes to the arrival of an item's pointer update and through the synchroniser; the first cycle overlaps
the tick of the arrival. -/
def State.toVisible (s : State) (i : SluiceId) (it : Item) : State :=
  if s.running then
    let s := if s.wet.toNat < it.arrive then s.waitWet it.arrive else s
    State.passTicks (syncTicks i s.tick.toNat - (s.wet.toNat - it.arrive)) s
  else s

/-- The first such item of a list marked visible. -/
def markSeen (it : Item) : List Item → List Item
  | [] => []
  | y :: r => if y = it then { y with visible := true } :: r else y :: markSeen it r

/-- An item seen by the receive half. -/
def State.see (s : State) (i : SluiceId) (it : Item) : State :=
  let x := s.sluice i
  s.setSluice i { x with seenW := nextGray x.seenW
                         items := markSeen it x.items }

/-- ITEM_VISIBLE (R32, R36): one more pointer update passes the synchroniser, 2 or 3 cycles after it arrived; over a
free-release crossing the item is released in the tick in which it is visible (R40). -/
def execItemVisible (i : SluiceId) (s : State) : Host.Outcome State Fault Refusal :=
  match s.nextSeen (s.sluice i) with
  | none => .next s
  | some it =>
    if !s.crossingRuns i then .next s
    else
      let s := (s.toVisible i it).see i it
      .next (if i.kind = .free then s.releaseItem i { it with visible := true } else s)

/-- Items that are due in this tick at a port of a tile are released, in order. -/
def State.releaseDue : Nat → SluiceId → State → State
  | 0, _, s => s
  | f + 1, i, s =>
    match (s.sluice i).nextOut with
    | none => s
    | some it => if s.dueNow i it then releaseDue f i (s.releaseItem i it) else s

/-- R34: in one tick the ports of a tile deliver in the order north, east, south, west. -/
def State.releaseEarlier (s : State) (i : SluiceId) : State :=
  if i.kind = .mesh ∧ i.dst < numTiles then
    (List.range (inPort i)).foldl (fun s p =>
      ((s.sluices.map (fun e => e.1)).filter (fun j => j.kind == .mesh && j.dst == i.dst && inPort j == p)).foldl
        (fun s j => s.releaseDue 16 j) s) s
  else s

/-- SLUICE_RELEASE (R34, R37, R43): the next item: a timed one in the tick stamp + D, late if it is not visible by then; an
untimed one at the later of stamp + D and its visibility; a free-release one when visible (R40). -/
def execSluiceRelease (i : SluiceId) (s : State) : Host.Outcome State Fault Refusal :=
  match (s.sluice i).nextOut with
  | none => .next s
  | some it =>
    if !s.crossingRuns i then .next s
    else if it.timed ∧ it.delay < s.itemAge i it then .next ((s.takeItem i it).crossingFault .sluiceLate i)
    else
      let s := if i.kind = .free then s else s.passWet (it.delay - s.itemAge i it)
      if !it.visible then .next ((s.takeItem i it).crossingFault .sluiceLate i)
      else .next ((s.releaseEarlier i).releaseItem i it)

/-! ## Answers of another tile (R72) -/

/-- A cluster request that is the next item of its sluice is released at stamp + D. -/
def State.bringCluster (s : State) (id : Nat) : State :=
  let mine : Payload → Bool := fun w => match w with
    | .clusterLoad k | .clusterAtomic k .. => k == id
    | _ => false
  match s.sluices.find? (fun e => e.2.items.any (fun it => mine it.what)) with
  | none => s
  | some e =>
    match e.2.items with
    | it :: _ => if mine it.what then (s.passWet (it.delay - s.itemAge e.1 it)).releaseItem e.1 it else s
    | [] => s

/-- CLUSTER_SCRATCH_RESPONSE (R72): at 3 + 2D ticks at the earliest the answer is there, the destination is written and
ready. -/
def execClusterScratchResponse (id : Nat) (s : State) : Host.Outcome State Fault Refusal :=
  let s := s.bringCluster id
  match s.issues.find? (fun i => i.id == id && i.rank.isSome) with
  | none => .next s
  | some i =>
    match i.data with
    | none => .next s
    | some ds =>
      let put : Group → Group := fun g => (ds.foldl (fun g d => g.setLane i.dst d.1 i.size d.2) g).readyDst i.dst i.size 0
      .next (((s.waitWet i.ready).modGroup i.tile i.uid put).endIssue i)

/-! ## Event lines and Halnor's events (R41 to R43) -/

/-- EVENT_LINE_TOGGLE (R41): the level inverts, at least 4 ticks after the last toggle, and becomes one pulse. -/
def execEventLineToggle (line : Nat) (s : State) : Host.Outcome State Fault Refusal :=
  if !s.running then .next s
  else
    let e := tabGet s.lines EventLine.idle line
    let s := State.passTicks (if e.pulses = 0 then 0 else e.last + 4 - s.tick.toNat) s
    .next { s with lines := tabSet s.lines EventLine.idle line ⟨!e.level, !e.level, s.tick.toNat, e.pulses + 1⟩ }

/-- HALNOR_EVENT_APPLY (R42, R43): ticks pass to the one that the first event waiting names, in which every island applies it
(`tickOnce`); one whose tick has passed on arrival raises SLUICE_LATE. -/
def execHalnorEventApply (s : State) : Host.Outcome State Fault Refusal :=
  match s.hal.events with
  | [] => .next s
  | .ratio _ _ t :: rest =>
    let s' := s.modHal (fun h => { h with events := rest })
    if !s.running then .next s
    else if t ≤ s.tick.toNat then .next ((s'.logEntry .sluiceLate [islandHalnor]).abortRegion (faultOf .sluiceLate 0))
    else .next (State.passTicks (t - s.tick.toNat) s)

/-! ## Resetting a group (R45 to R48) -/

/-- R47: tile and cistern groups only at a job boundary (no kernel or region in progress) or with a recovery context. The
spare tiles are 2,304 to 2,399, by die and row. -/
def State.mayReset (s : State) (g : ResetGroup) : Bool :=
  let calm := s.jobBoundary || s.ctxs.any (fun e => e.2.kind == 3 && e.2.st != .free)
  match g with
  | .tile t => calm && decide (t < 2400)
  | .cistern k => calm && decide (k < 4)
  | .stack k => decide (k < 12)
  | .bridge b => decide (b < 4)
  | .port p => decide (p < 18)
  | _ => true

/-- RESET_GROUP_REQUEST (R47 step 1): Halnor stops the group's senders and waits for it to drain. -/
def execResetGroupRequest (g : ResetGroup) (escalate : Bool) (s : State) : Host.Outcome State Fault Refusal :=
  if s.mod.pg && s.mayReset g && !s.hal.resets.any (fun r => r.1 == g) then
    .next (s.modHal (fun h => { h with resets := h.resets ++ [(g, .quiescing s.tick.toNat escalate)] }))
  else .next s

/-- What the reset of a drained group loses: the state of its islands. -/
def State.groupReset (s : State) (g : ResetGroup) : State :=
  match g with
  | .tile t => if t < numTiles then s.setTile t Tile.reset else s
  | .cistern k =>
    { s with cistern := s.cistern.filter (fun e => decide (e.1 / 8192 ≠ k))
             cisMiss := s.cisMiss.filter (fun m => decide (cisSlice m.dev m.tag ≠ k))
             cisDead := s.cisDead.filter (fun e => decide (cisSlice e.1 e.2 ≠ k)) }
  | .stack k => (s.dropStack k).modHeadworks k (fun h => { h with job := none })
  | .bridge _ | .hostPort => s
  | .port p =>
    let s := (s.portDown p).modPort p (fun x => { x with loopback := false })
    if 16 ≤ p then s.closeChain.chainLow else s
  | .compute => s.computeReset
  | .device => s.deviceReset s.sec.running.isSome

/-- RESET_GROUP_DRAINED (R47): once no item is left on the group's boundary or on a path through it, both halves of every
boundary sluice are reset in one tick, pointers at zero, and the senders reopen. Until then nothing happens. -/
def execResetGroupDrained (s : State) : Host.Outcome State Fault Refusal :=
  match s.hal.resets with
  | [] => .next s
  | (g, _) :: rest =>
    if s.sluices.any (fun e => drainsWith g e.1 && decide (e.2.items ≠ [])) then .next s
    else
      let s := s.modHal (fun h => { h with resets := rest })
      .next ((s.clearBoundary g).groupReset g)

/-- RESET_GROUP_DRAIN_TIMEOUT (R47): not drained within 2^16 ticks: the group runs on and the failure is reported; a
compute reset follows only where the requester asked for it. -/
def execResetGroupDrainTimeout (s : State) : Host.Outcome State Fault Refusal :=
  match s.hal.resets with
  | (g, .quiescing since escalate) :: rest =>
    if s.running && decide (s.tick.toNat < since + 65536) then .next s
    else
      let s := s.modHal (fun h => { h with resets := rest })
      let s := (s.logEntry .resetFailed []).emit (.resetFailed g)
      .next (if escalate then s.computeReset else s)
  | _ => .next s

end Sys2Proof.Machine
end

