-- ==== Sys2Proof/Machine/Epoch.lean ====
section
/-! DEFINITION. The epoch (R294 to R296, R412), reference drift (R297), and the messages of a launch (R300). -/

namespace Sys2Proof.Machine

/-! ## Probes and offsets (R295) -/

/-- R412: the agreed ratios of the current period and the next two. -/
def State.ratiosPassed (s : State) : List Nat :=
  s.power.applied :: [1, 2].map (fun i => (tabGet s.power.agreements none (s.periodNow + i)).getD 0)

/-- A probe through a port: the job counts at its send tick, and the ratios agreed. -/
def State.probe (s : State) (p : Nat) : State := s.emit (.probe p s.jobTick s.jobWet s.ratiosPassed)

/-- The ports toward the children, probed in turn (R295 step 5), and every other trained port (R296). -/
def State.probeAll (s : State) : State := ((List.range 18).filter (fun p => (s.port p).up)).foldl State.probe s

/-- R296: the largest latencies of the fit check start afresh. -/
def State.clearFit (s : State) : State :=
  { s with fab := { s.fab with ports := s.fab.ports.map (fun (e : Nat × Port) => (e.1, { e.2 with fitMaxOut := 0, fitMaxIn := 0 })) } }

/-- R296: a port's largest latencies in both directions, checked against its class. -/
def Port.fitWith (x : Port) (out in' : Nat) : Port :=
  let x := { x with fitMaxOut := max x.fitMaxOut out, fitMaxIn := max x.fitMaxIn in' }
  if x.cls = 0 ∨ fits x.cls x.fitMaxOut x.fitMaxIn then x else { x with cls := 0, unfit := true, held := false }

/-- R295 step 6: a device whose own offsets are set and whose children have all reported is complete: it reports to its
parent; at the root the epoch is complete. -/
def State.completeEpoch (s : State) : State :=
  if s.timed.offsetsSet && s.timed.children.all (fun c => s.timed.reported.elem c.2) && !s.timed.valid then
    (s.modTimed (fun t => { t with valid := true })).emit (if s.timed.root then .epochDone else .epochReport)
  else s

/-- R412: probes start only while the device's own requirement for this period and the next two is 0. -/
def State.probesMayStart (s : State) : Bool :=
  s.power.contribution == 0 && s.power.applied == 0 && s.power.agreements.all (fun e => e.2.getD 0 == 0)

/-- The ratios agreed or set for periods of the counts held till now are no longer of use (R294). -/
def State.clearRatios (s : State) : State :=
  (s.modPower (fun p => { p with agreements := [] })).modHal (fun h => { h with events := [] })

/-- R412: the parent's agreed ratios for the current period and the next two. -/
def State.adoptRatios (s : State) (ratios : List Nat) : State :=
  let r : Nat → Nat := fun i => min 60 (ratios.getD i 0)
  let p := s.periodNow
  let s := s.modPower (fun x => { x with
    agreed := true, applied := r 0, lastAgreed := r 0, agreements := tabSet x.agreements none p (some (r 0)) })
  (s.agree (p + 1) (r 1)).agree (p + 2) (r 2)

/-- EPOCH_START (R295 steps 2 and 3): the root's job tick count reads 0 at 2^20 ticks from now, and so does its job
wet-tick count; any other device begins its probes. -/
def execEpochStart (s : State) : Host.Outcome State Fault Refusal :=
  if s.running && s.fab.partValid && !s.timed.started && s.probesMayStart then
    if s.timed.root then
      let s := s.clearRatios.modTimed (fun t => { t with
        started := true, offsetsSet := true, offset := -(s.tick + 1048576), wetOffset := -(s.wet + 1048576) })
      .next (s.modPower (fun p => { p with agreed := true })).clearFit.probeAll.completeEpoch
    else
      let s := s.modTimed (fun t => { t with started := true, offsetsSet := false, probes := 0 })
      .next (s.probe s.timed.parent)
  else .next s

/-- EPOCH_PROBE (R295, R296): a probe with the sender's job counts becomes visible at this device's tick `visible`;
`result` has the latency the sender has measured the other way and the ratios it passes (R412). Until its own offsets are set a device takes in its parent's
probes; from then on every trained port's are the fit check, a child's once it has reported. -/
def execEpochProbe (port : Nat) (jobTick jobWet visible : Word64) (result : ProbeResult) (s : State) : Host.Outcome State Fault Refusal :=
  if !s.running || !s.timed.started || !(s.port port).up then .next s
  else
    let f := (visible + s.timed.offset - jobTick).toInt
    let r := result.latency.toInt
    if !s.timed.offsetsSet then
      if port = s.timed.parent then
        let first := s.timed.probes == 0
        let s := s.modTimed (fun t => { t with
          probes := t.probes + 1
          largestIn := if first then f else max t.largestIn f
          largestOut := if first then r else max t.largestOut r
          dryDiff := jobTick - jobWet
          passed := result.ratios })
        .next (s.probe port)
      else .next s
    else
      let child := s.timed.children.any (fun c => c.1 == port && !s.timed.reported.elem c.2)
      .next (s.probe port |>.modPort port (fun x => if child then x else x.fitWith r.toNat f.toNat))

/-- EPOCH_OFFSETS_SET (R295 steps 4 to 6, R296, R412): after 64 probes the child's largest latency from its parent is
half the round trip, rounded up; its two counts differ as the parent's do; it applies the agreement from now on, with the
ratios that the parent has passed it. -/
def execEpochOffsetsSet (s : State) : Host.Outcome State Fault Refusal :=
  let t := s.timed
  if s.running && t.started && !t.offsetsSet && !t.root && decide (64 ≤ t.probes) then
    let rt := t.largestIn + t.largestOut
    let half := (rt + 1) / 2
    let offset := t.offset + BitVec.ofInt 64 (half - t.largestIn)
    let s := s.clearRatios.modTimed (fun t => { t with
      offsetsSet := true, offset := offset, wetOffset := s.tick + offset - t.dryDiff - s.wet })
    let s := (s.adoptRatios t.passed).clearFit
    let s := s.modPort t.parent (fun x => x.fitWith (rt - half).toNat half.toNat)
    .next s.probeAll.completeEpoch
  else .next s

/-- EPOCH_COMPLETION_REPORT (R295 step 6). -/
def execEpochCompletionReport (child : Nat) (s : State) : Host.Outcome State Fault Refusal :=
  if s.timed.started && s.timed.children.any (fun c => c.2 == child) then
    .next (s.modTimed (fun t => { t with reported := addNew t.reported child })).completeEpoch
  else .next s

/-- EPOCH_TIMEOUT (R295): an epoch not complete within 50 ms of the partition's formation has failed. -/
def execEpochTimeout (s : State) : Host.Outcome State Fault Refusal :=
  if s.fab.partValid && !s.timed.valid && decide (s.timed.formedAt + 50 ≤ s.hal.ms) then .next (s.dropEpoch.emit .epochFailed) else .next s

/-- REFERENCE_DRIFT (R297): a partner's stamps leave the band of 3 ticks about the largest latency of the last fit
check; a port whose fit check has measured nothing yet has no band. -/
def execReferenceDrift (port latency : Nat) (outbound : Bool) (s : State) : Host.Outcome State Fault Refusal :=
  let x := s.port port
  let l := if outbound then x.fitMaxOut else x.fitMaxIn
  if x.up && !x.unfit && decide (x.cls ≠ 0) && decide (l ≠ 0) && (decide (l + 3 < latency) || decide (latency + 3 < l)) then
    let s := (s.modPort port (fun x => { x with refOk := false })).modTimed (fun t => { t with refDrift := true })
    .next (s.abortRegionOn port (faultOf .refDrift 0))
  else .next s

/-! ## The messages of a launch (R300) -/

/-- READY_MESSAGE: the root notes a device's READY, for a region it has yet to launch as well; when all are in it chooses
the entry tick. -/
def execReadyMessage (dev : Nat) (s : State) : Host.Outcome State Fault Refusal :=
  let launched := match s.timed.region with
    | some r => r.logical == 0
    | none => s.timed.root
  if launched then .next (s.modTimed (fun t => { t with readies := addNew t.readies dev })).chooseEntry else .next s

/-- REFUSED_MESSAGE: the root sends an abort down the tree; its own launch ends with PARTNER_LOST. -/
def execRefusedMessage (_dev : Nat) (s : State) : Host.Outcome State Fault Refusal :=
  match s.timed.region with
  | some r => if r.logical = 0 then .next (s.abortRegion (faultOf .partnerLost 0)) else .next s
  | none => if s.timed.root then .next ((s.modTimed (fun t => { t with readies := [] })).emit (.abort none)) else .next s

/-- A launch that fails after READY: the region is gone, the descriptor fails with TIMED_LAUNCH, and its queue stops. -/
def State.refuseReady (s : State) (r : Region) (reason : Nat) : State :=
  let s := r.tiles.foldl (fun s t => s.modTile t (fun x => { x with flume := Flume.idle })) s
  let s := s.modTimed (fun t => { t with region := none, readies := [] })
  let s := s.modQueue r.ctx r.queue (fun q => { q with work := some (.done Code.timedLaunch.value reason 0) })
  let s := s.emit (.refused s.fab.deviceId)
  s.takeFault r.ctx (some r.queue) { faultOf .timedLaunch reason with
    queue := r.queue, where' := (s.queue r.ctx r.queue).c.setWidth 64 }

/-- ENTRY_TICK_MESSAGE: the entry tick received and passed on, or refused with ENTRY_PASSED when it is less than 4,096
ticks ahead. -/
def execEntryTickMessage (tick : Word64) (s : State) : Host.Outcome State Fault Refusal :=
  match s.timed.region with
  | none => .next s
  | some r =>
    if r.stage = .ready ∧ r.logical ≠ 0 then
      let s := if s.timed.children = [] then s else s.emit (.entryTick tick)
      if (tick - s.jobTick).toInt < 4096 then .next (s.refuseReady r 10)
      else .next (s.modRegion (fun r => { r with stage := .entry tick }))
    else .next s

/-- Ticks pass until the job tick `t` has come and the tick is wet. -/
def jobUntil : Nat → Word64 → State → State
  | 0, _, s => s
  | f + 1, t, s => if (s.jobTick - t).toInt ≥ 0 ∧ !s.dryNow then s else jobUntil f t s.tickOnce

/-- REGION_ENTRY (R288, R300 step 6): the first wet tick at or after the entry tick; every named tile starts. -/
def execRegionEntry (s : State) : Host.Outcome State Fault Refusal :=
  match s.timed.region with
  | none => .next s
  | some r =>
    match r.stage with
    | .entry t =>
      if !s.running then .next s
      else
        let s := jobUntil ((t - s.jobTick).toInt.toNat + 65) t s
        let w := s.jobWet.toNat
        let s := s.modRegion (fun r => { r with stage := .running, entryWet := w, idle := s.wet.toNat })
        .next (r.tiles.foldl (fun s t => s.modTile t (fun x => { x with flume := { x.flume with lastTick := w } })) s)
    | _ => .next s

end Sys2Proof.Machine
end

