-- ==== Sys2Proof/Machine/Seepage.lean ====
section
/-! DEFINITION. Seepage checks (R186 to R188, R378 to R381, R385, R407): the bound, the ratio, the counts of each layer, the
numerics-watch records, the suspicions. The data that the partner tiles met is free (assumption 138). -/

namespace Sys2Proof.Machine

open Sys2Proof.Config (SeepElem SeepUnit)

/-! ## The bound and the ratio (R381, R186) -/

/-- R381: w. -/
def seepW (u : SeepUnit) : FP :=
  let w := (FP.fin false 1 (-38)).add (.fin false u.groups (-44))
  if u.cls = 2 then w.add (.fin false 1 (-14)) else w

/-- R381: the bound of an element, exact, rounded once to binary32 (DESIGN CHOICE, assumption 138). -/
def seepBound (u : SeepUnit) (e : SeepElem) : Word32 :=
  let c := (FP.fin false (10 + u.groups) (-24)).add (seepW u)
  let n := ((c.mul (f32Val e.normA)).mul (f32Val e.normB)).scale u.scaleExp
  f32Of ((n.mul (.fin false 257 (-8))).add (.fin false u.groups (-149)))

/-- R381: an int32 result as a pair. -/
def intPair (n : Word32) : Word32 × Word32 :=
  let v := FP.ofInt n.toInt
  let hi := f32Of v
  (hi, f32Of (v.add (f32Val hi).negate))

def f32Inf : Word32 := 0x7F800000

/-- R186, R381: ρ, none for a non-finite disagreement. -/
def seepRatio (u : SeepUnit) (e : SeepElem) : Option Word32 :=
  if u.int then
    let p := intPair e.narrow
    some (if (f32Val p.1).eq (f32Val e.hi) && (f32Val p.2).eq (f32Val e.lo) then 0 else f32Inf)
  else if f32Finite e.narrow && f32Finite e.hi then
    some (f32Div (f32Sub e.narrow e.hi &&& 0x7FFFFFFF) (seepBound u e))
  else if e.narrow = e.hi then some 0
  else none

/-! ## Counts (R187) -/

/-- The counts of a layer: BIN0 to BIN2, OVER, NONFINITE, MAX_RATIO. -/
structure SeepCount where
  bin0 : Nat
  bin1 : Nat
  bin2 : Nat
  above : Nat
  nonfinite : Nat
  maxRatio : Nat
  deriving DecidableEq, Repr

/-- An element counted. Ratios are not negative, so their words order as their values do. -/
def SeepCount.add (c : SeepCount) (r : Option Word32) : SeepCount :=
  match r with
  | none => { c with nonfinite := c.nonfinite + 1 }
  | some w =>
    let c := { c with maxRatio := max c.maxRatio w.toNat }
    if w.toNat ≤ 0x3D800000 then { c with bin0 := c.bin0 + 1 }
    else if w.toNat ≤ 0x3E800000 then { c with bin1 := c.bin1 + 1 }
    else if w.toNat ≤ 0x3F800000 then { c with bin2 := c.bin2 + 1 }
    else { c with above := c.above + 1 }

def seepCount (us : List SeepUnit) : SeepCount :=
  (us.flatMap (fun u => u.elems.map (seepRatio u))).foldl SeepCount.add ⟨0, 0, 0, 0, 0, 0⟩

/-- R187: SAMPLED. -/
def SeepCount.sampled (c : SeepCount) : Nat := c.bin0 + c.bin1 + c.bin2 + c.above + c.nonfinite

/-- R188: the unit raises a suspicion. -/
def SeepUnit.suspect (u : SeepUnit) : Bool :=
  let c := seepCount [u]
  c.above != 0 || c.nonfinite != 0

/-- R378: a unit that is skipped: a ZF4 block scale above 252, or an integer output whose wide magnitude reaches 2^31. -/
def SeepUnit.skipped (u : SeepUnit) : Bool :=
  (u.cls == 1 && !u.int && u.bigScale) ||
  (u.int && u.elems.any (fun e => !(((f32Val e.hi).add (f32Val e.lo)).abs.lt (.fin false 1 31))))

/-- R94, R187: the passes of a unit's output block: 64 of K in each in the 8-bit and 4-bit grids, 32 in the 16-bit grid. -/
def SeepUnit.passes (u : SeepUnit) : Nat := if u.cls < 2 then (u.groups + 1) / 2 else u.groups

/-- The sampled passes of a layer: those of its blocks, each block once. -/
def seepPasses (us : List SeepUnit) : Nat :=
  ((us.map (fun u => (u.tile, u.block, SeepUnit.passes u))).dedup).foldl (fun n b => n + b.2.2) 0

/-! ## Records (R187) -/

/-- The 64 bytes of a numerics-watch record. -/
def watchRecord (step : Word64) (layer passes : Nat) (c : SeepCount) : List Byte :=
  leBytes 4 layer ++ leBytes 4 0 ++ leBytes 8 step.toNat ++ leBytes 4 c.sampled ++
  leBytes 4 c.bin0 ++ leBytes 4 c.bin1 ++ leBytes 4 c.bin2 ++ leBytes 4 c.above ++ leBytes 4 c.nonfinite ++ leBytes 4 c.maxRatio ++
  leBytes 4 passes ++ leBytes 16 0

def State.watchDrop (s : State) (c : Nat) : State :=
  s.modCtx c (fun x => { x with watchDropped := satAdd 32 x.watchDropped 1 })

/-- R187, R340: one record written to the ring, or counted as dropped when the ring is full or does not translate. -/
def State.watchWrite (s : State) (c : Nat) (d : List Byte) : State :=
  let x := s.ctx c
  if x.watchSize = 0 then s
  else match s.readStruct c x.watchRing 4 with
  | (.error _, s) => s.watchDrop c
  | (.ok h, s) =>
    if (x.watchProduced + 2 ^ 32 - leNat h) % 2 ^ 32 = x.watchSize then s.watchDrop c
    else
      let n := (x.watchProduced + 1) % 2 ^ 32
      match (s.writeStruct c (x.watchRing + 64 + 64 * (x.watchProduced % x.watchSize)) d).bind
          (fun s => s.writeStruct c (x.watchRing + 8) (leBytes 4 n)) with
      | some s => s.modCtx c (fun x => { x with watchProduced := n })
      | none => s.watchDrop c

/-! ## The end of a region (R385, R407) -/

/-- The units the region's tiles and their partners checked or skipped (R380). -/
def State.regionUnits (s : State) (r : Region) : List SeepUnit :=
  (Config.seepUnits s.freeCtr).filter (fun u => r.tiles.elem u.tile && r.tiles.elem (partnerTile u.tile))

/-- R385: the suspicion a unit raises: step, layer, both logical tiles, both physical positions, the largest ratio. -/
def State.suspicion (s : State) (step : Word64) (u : SeepUnit) : State :=
  let q := partnerTile u.tile
  (s.logEntry .suspicion [step.toNat, u.layer, u.tile, q, s.physTile u.tile, s.physTile q, (seepCount [u]).maxRatio]).modHal
    (fun h => { h with seepSuspicions := satAdd 32 h.seepSuspicions 1 })

/-- R187: the record of one layer. -/
def State.watchLayer (s : State) (r : Region) (us : List SeepUnit) (layer : Nat) : State :=
  let us := us.filter (fun u => u.layer == layer)
  s.watchWrite r.ctx (watchRecord r.step layer (seepPasses us) (seepCount us))

/-- R187, R385, R407: the records of the step, one for each layer checked, the suspicions, the counters. -/
def State.watchAll (s : State) (r : Region) : State :=
  let all := s.regionUnits r
  let us := all.filter (fun u => !SeepUnit.skipped u)
  let s := s.drawn
  let s := s.modHal (fun h => { h with
    seepUnits := satAdd 48 h.seepUnits us.length, seepSkipped := satAdd 32 h.seepSkipped (all.length - us.length) })
  let s := ((us.map (fun u => u.layer)).dedup).foldl (fun s l => s.watchLayer r us l) s
  (us.filter SeepUnit.suspect).foldl (fun s u => s.suspicion r.step u) s

end Sys2Proof.Machine
end

