-- ==== Sys2Proof/Machine/Launch.lean ====
section
/-! DEFINITION. Timed regions: the launch and its checks (R287 to R289, R300, R509), program fetch (R291), the region's end
(R302, R187, R385), aborts from outside (R303) and the watchdog (R304). -/

namespace Sys2Proof.Machine

/-! ## Program entries (R288) -/

def eDelta (e : BitVec 256) : Nat := bvFld e 0 20
def eKind (e : BitVec 256) : Nat := bvFld e 20 4
def eFlags (e : BitVec 256) : Nat := bvFld e 24 8
def eArg (e : BitVec 256) : Nat := bvFld e 32 32
def eWord (e : BitVec 256) : Word64 := BitVec.ofNat 64 (bvFld e 64 64)
def eOp0 (e : BitVec 256) : Word64 := BitVec.ofNat 64 (bvFld e 128 64)
def eOp1 (e : BitVec 256) : Word64 := BitVec.ofNat 64 (bvFld e 192 64)

def kMatrix : Nat := 1
def kRow : Nat := 2
def kDma : Nat := 3
def kSend : Nat := 4
def kAdmit : Nat := 5
def kLoopBegin : Nat := 9
def kLoopEnd : Nat := 10
def kEnd : Nat := 15

/-- The fields of a SEND's WORD (R289). -/
def sendTile (w : Word64) : Nat := bvFld w 0 16
def sendDev (w : Word64) : Nat := bvFld w 16 32
def sendPort (w : Word64) : Nat := bvFld w 48 5
def sendComp (w : Word64) : Nat := bvFld w 53 2

/-! ## The launch scan (R300 reasons 1 FORMAT, 2 DIAG, 3 TILE; R509) -/

/-- A matrix word that is wrong whatever its operands. -/
def matrixWordBad (w : Word64) : Bool :=
  let f := mlFmt w
  wPred w != 7 || wPneg w || wHint w != 0 ||
  (if wOp w = mLoad then
     decide (512 ≤ wImm w) ||
     (if mlCapture w then wA w != 0 || f != 0 || mlTrans w else decide (8 < f) || (mlTrans w && (kvecFmt f || f == 8)))
   else if wOp w = mPass then
     decide (512 ≤ wImm w) || decide (8 < f) || mpTerm w == 3 || ((bit (wImm w) 4 || bit (wImm w) 6) && (kvecFmt f || f == 8))
   else if wOp w = mDrain then
     decide (128 ≤ wImm w) || (match outBytes f with
       | some e => bit (wImm w) 4 && e == 4
       | none => true)
   else wImm w != 0)

/-- What a region's ports are used for, as a SEND is checked against it. -/
structure PortUse where
  logical : Nat
  cls     : List Nat
  peer    : List Nat
  deriving DecidableEq, Repr

def sendBad (u : PortUse) (e : BitVec 256) : Bool :=
  let w := eWord e
  let p := sendPort w
  let n := eOp1 e
  decide (64 ≤ eFlags e) || bvFld w 55 9 != 0 || sendComp w == 3 || (decide (18 ≤ p) && p != 31) ||
  (sendComp w != 0 && p != 16 && p != 17) ||
  (if p = 31 then sendDev w != u.logical else u.cls.getD p 0 == 0 || sendDev w != u.peer.getD p 0) ||
  (!(bit (eFlags e) 5) && (n.toNat == 0 || decide (256 < n.toNat)))

/-- What the scan finds wrong with an entry, 0 if nothing. -/
def scanEntry (u : PortUse) (e : BitVec 256) : Nat :=
  let w := eWord e
  let k := eKind e
  if k = 14 then 1
  else if (k = kMatrix ∨ k = kRow ∨ k = kDma) ∧ wClass w = 0xC then 2
  else if k = kMatrix then
    (if wClass w ≠ 8 then 1 else if wOp w = mDiag then 2
     else if wOp w = 0 ∨ mZero < wOp w ∨ matrixWordBad w then 1 else 0)
  else if k = kRow then (if !plainWord 9 0 w then 1 else 0)
  else if k = kDma then (if wClass w ≠ 0xA then 1 else 0)
  else if k = kSend then (if sendBad u e then 1 else if numTiles ≤ sendTile w then 3 else 0)
  else if k = kAdmit then (if bvFld w 4 60 ≠ 0 then 1 else 0)
  else if k = kLoopBegin then (if eArg e = 0 then 1 else 0)
  else 0

/-- The first of two reasons in the order of R300's table; 0 is none. -/
def firstReason (a b : Nat) : Nat := if a = 0 then b else if b = 0 then a else min a b

def entryOf (d : List Byte) : BitVec 256 := BitVec.ofNat 256 (leNat d)

/-- A program scanned to its END (R300 step 3), by fuel: what is wrong with it, or the fault of reading it. -/
def scanProgram : Nat → PortUse → Nat → Nat → State → Except StructErr Nat × State
  | 0, _, _, _, s => (.ok 0, s)
  | f + 1, u, c, va, s =>
    match s.readStruct c va 32 with
    | (.error e, s) => (.error e, s)
    | (.ok d, s) =>
      let e := entryOf d
      if eKind e = kEnd then (.ok 0, s)
      else match scanProgram f u c (va + 32) s with
        | (.error x, s) => (.error x, s)
        | (.ok r, s) => (.ok (firstReason (scanEntry u e) r), s)

/-- The longest program the scan follows: one that fills the whole address space. -/
def scanFuel : Nat := 2 ^ 43

/-! ## The region image (R287) -/

/-- A tile-table entry: tile, program, window base and size. -/
structure TileEntry where
  tile : Nat
  prog : Nat
  base : Nat
  size : Nat
  deriving DecidableEq, Repr

def tileEntry (d : List Byte) : TileEntry := ⟨u16At d 0, u64At d 8, u32At d 16, u32At d 20⟩
def tileEntryBad (d : List Byte) : Bool :=
  !zerosIn d [(2, 6), (24, 8)] || u64At d 8 % 32 != 0 || u32At d 20 % 4096 != 0

def imageDevices (d : List Byte) : Nat := u32At d 8
def imageTiles (d : List Byte) : Nat := u16At d 12
def imageBad (d : List Byte) : Bool :=
  u32At d 0 != 1 || !zerosIn d [(50, 2), (56, 8), (136, 120)] || imageDevices d == 0 || decide (65536 < imageDevices d) ||
  decide (imageDevices d ≤ u32At d 4) || imageTiles d == 0 || decide (numTiles < imageTiles d) || u64At d 16 == 0 ||
  decide (2 ^ 48 < u64At d 16) || u64At d 24 % 16 != 0

def imageUse (d : List Byte) : PortUse :=
  ⟨u32At d 4, (List.range 18).map (fun p => u8At d (32 + p)), (List.range 18).map (fun p => u32At d (64 + 4 * p))⟩

/-- R300 TILE: out of range, repeated, a window that leaves scratch, the marker tile missing. -/
def tilesBad (d : List Byte) (ts : List TileEntry) : Bool :=
  ts.any (fun t => decide (numTiles ≤ t.tile) || decide (scratchSize < t.base + t.size)) ||
  !decide (ts.map (fun t => t.tile)).Nodup || !ts.any (fun t => t.tile == u16At d 14)

/-- R300 reasons 4 to 8: BUSY, EPOCH, PEER, CLASS, REFERENCE; 9 ARRAY_HELD. -/
def State.launchRefusal (s : State) (c : Nat) (d : List Byte) (map : List Nat) (ts : List TileEntry) : Nat :=
  let u := imageUse d
  let used := (List.range 18).filter (fun p => u.cls.getD p 0 != 0)
  if s.timed.region.isSome then 4
  else if (1 < imageDevices d ∨ used ≠ []) ∧ !s.timed.valid then 5
  else if used.any (fun p => !(s.port p).up || (s.port p).peerId != map.getD (u.peer.getD p 0) 65536) then 6
  else if used.any (fun p => let x := s.port p; x.cls == 0 || x.cls != u.cls.getD p 0 || x.unfit) then 7
  else if used.any (fun p => !(s.port p).refOk) then 8
  else if ts.any (fun t => let x := s.tile t.tile
      match x.array.holder with
      | some h => x.groups.any (fun g => match g.2 with
        | some g => g.uid == h && g.ctx == c
        | none => false)
      | none => false) then 9
  else 0

/-- R300: a refused launch: the descriptor fails with TIMED_LAUNCH and REFUSED goes to the root. -/
def State.refuseLaunch (s : State) (c q : Nat) (d : BitVec 512) (reason : Nat) : State :=
  (s.emit (.refused s.fab.deviceId)).descFault c q d .timedLaunch reason 0

/-- R300 step 2: the tile's queued commands begin, its passes and drains complete, and the sequencer takes the tile (R89, R99). -/
def State.ownTile (s : State) (c : Nat) (t : TileEntry) : State :=
  let s := (List.range (s.tile t.tile).array.cmds.length).foldl (fun s _ => s.beginOldest t.tile) s
  let s := s.waitWet (s.tile t.tile).array.workEnd
  s.modTile t.tile (fun _ =>
    let x := s.nowTile t.tile
    let x := if x.admits c then x.begin_ c else x
    { x with flume := { Flume.idle with active := true, prog := t.prog, base := t.base, size := t.size } })

/-- The region accepted: launching, until READY (R300). -/
def State.beginRegion (s : State) (c q : Nat) (id : Word64) (d : List Byte) (map : List Nat) (ts : List TileEntry) : State :=
  let u := imageUse d
  let x := s.ctx c
  let r : Region := { id := id, ctx := c, queue := q, logical := u.logical, devices := imageDevices d, marker := u16At d 14
                      length := u64At d 16, phaseSet := u32At d 52, portClass := u.cls, portPeer := u.peer, map := map
                      tiles := ts.map (fun t => t.tile), stage := .launching, entryWet := 0, idle := s.wet.toNat, marks := []
                      step := x.step, seed := x.jobSeed }
  let s := ts.foldl (fun s t => s.ownTile c t) s
  (s.modTimed (fun t => { t with region := some r })).launchPhases r.phaseSet

/-- The programs of the tile table, scanned. -/
def State.scanAll (s : State) (c : Nat) (u : PortUse) (ts : List TileEntry) : Except StructErr Nat × State :=
  ts.foldl (fun acc t =>
    match acc with
    | (.error e, s) => (.error e, s)
    | (.ok r, s) => match scanProgram scanFuel u c t.prog s with
      | (.error e, s) => (.error e, s)
      | (.ok r', s) => (.ok (firstReason r r'), s)) (.ok 0, s)

/-- The launch of a region whose image, parameters and map have been read. -/
def State.launchRegion (s : State) (c q : Nat) (desc : BitVec 512) (d : List Byte) (map : List Nat) : State :=
  match s.readStruct c (u64At d 24) (32 * imageTiles d) with
  | (.error e, s) => s.structFault c q desc 192 e
  | (.ok tab, s) =>
    let rows := (List.range (imageTiles d)).map (fun i => sliceAt tab (32 * i) 32)
    let ts := rows.map tileEntry
    if rows.any tileEntryBad then s.refuseLaunch c q desc 1
    else match s.scanAll c (imageUse d) ts with
    | (.error e, s) => s.structFault c q desc 192 e
    | (.ok scan, s) =>
      let reason := firstReason scan (firstReason (if tilesBad d ts then 3 else 0) (s.launchRefusal c d map ts))
      if reason ≠ 0 then s.refuseLaunch c q desc reason
      else
        ((s.beginRegion c q (BitVec.ofNat 64 (bvFld desc 320 64)) d map ts).setWork c q desc .region).tryReady

/-- FLUME (R300, R4, R350): part parameters, then the image and the checks of R300 in order, then ownership. -/
def doDescFlume (ctx queue : Nat) (desc : BitVec 512) (s : State) : State :=
  s.startDesc ctx queue desc 0x03 (some kindFlume) [(448, 64)] (fun s =>
    match s.readStruct ctx (bvFld desc 384 64) 48 with
    | (.error e, s) => s.structFault ctx queue desc 384 e
    | (.ok par, s) =>
      if !s.paramsMatch par 0 then s.descFault ctx queue desc .paramMismatch 0 0
      else match s.readStruct ctx (bvFld desc 192 64) 256 with
      | (.error e, s) => s.structFault ctx queue desc 192 e
      | (.ok d, s) =>
        if imageBad d then s.refuseLaunch ctx queue desc 1
        else match s.readStruct ctx (bvFld desc 256 64) (2 * imageDevices d) with
        | (.error e, s) => s.structFault ctx queue desc 256 e
        | (.ok m, s) => s.launchRegion ctx queue desc d ((List.range (imageDevices d)).map (fun i => u16At m (2 * i))))
def execDescFlume (ctx queue : Nat) (desc : BitVec 512) (s : State) : Host.Outcome State Fault Refusal :=
  s.orDefer (.descFlume ctx queue desc) (doDescFlume ctx queue desc s)

/-! ## Fetch (R291) -/

/-- The fetch unit after an entry: loops are followed as they will execute. -/
def Flume.fetchNext (x : Flume) (e : BitVec 256) : Flume :=
  let at_ := x.fetchAt
  let x := { x with fetched := x.fetched + 1, buf := x.buf ++ [(at_, e)] }
  if eKind e = kEnd then { x with fetchEnd := true }
  else if eKind e = kLoopBegin then { x with fetchAt := at_ + 1, fetchLoops := (eArg e, at_ + 1) :: x.fetchLoops }
  else if eKind e = kLoopEnd then
    (match x.fetchLoops with
     | (n, back) :: rest =>
       if 1 < n then { x with fetchAt := back, fetchLoops := (n - 1, back) :: rest }
       else { x with fetchAt := at_ + 1, fetchLoops := rest }
     | [] => { x with fetchAt := at_ + 1 })
  else { x with fetchAt := at_ + 1 }

/-- One entry read with a keep hint. -/
def State.fetchEntry (s : State) (c va : Nat) : Except StructErr (List Byte) × State :=
  match (s.ctx c).translate va 0 with
  | some (.dram a) =>
    (match s.loadLine (a / 128) (a % 128) 32 1 with
     | (some d, s) => (.ok d, s)
     | (none, s) => (.error (.poison va), s))
  | _ => s.readStruct c va 32

/-- FLUME_ENTRY_FETCH (R291): the next entry in execution order arrives while the buffer has a free place, after the first
1,024 at most one per tick; READY follows the last one it waits for. -/
def execFlumeEntryFetch (tile : Nat) (s : State) : Host.Outcome State Fault Refusal :=
  match s.timed.region with
  | none => .next s
  | some r =>
    let x := (s.tile tile).flume
    if !s.running || !r.tiles.elem tile || !x.active || x.fetchEnd || decide (1024 ≤ x.buf.length) then .next s
    else
      let s := if x.fetched < 1024 then s else s.waitWet x.fetchFrom
      let va := x.prog + 32 * x.fetchAt
      let place : Code → State → State := fun code s =>
        s.abortRegion { faultOf code 0 with tile := tile, where' := BitVec.ofNat 64 va, address := BitVec.ofNat 64 va }
      match s.fetchEntry r.ctx va with
      | (.error (.poison _), s) => .next (place .memUncorrectable s)
      | (.error _, s) => .next (place .translationFault s)
      | (.ok d, s) => .next (s.modTile tile (fun t => { t with
          flume := { t.flume.fetchNext (entryOf d) with fetchFrom := s.wet.toNat + 1 } })).tryReady

/-! ## The end of a region (R302, R187, R385) -/

/-- Operations of the region whose latency runs past its end (R302): transfers, signals, items in flight. -/
def State.regionPending (s : State) (r : Region) : Bool :=
  r.tiles.any (fun t => (s.tile t).dma.any (fun e => match e.2 with
    | some d => d.flume.isSome
    | none => false)) ||
  s.sync.ops.any (fun o => o.who.isRegion) ||
  s.sluices.any (fun e => e.2.items.any (fun it => match it.what with
    | .bytes _ => false
    | _ => it.timed))

/-- R302: the wet tick from which nothing of a tile's array or row engine is under way. -/
def Tile.workEnd (x : Tile) : Nat := x.rowOut.foldl (fun m e => max m e.2.2) x.array.workEnd

/-- The first drain of the region's program that would read a row before its last update, by wet tick `w` (R123): the tick,
the tile, the entry's address. -/
def State.hazardBy (s : State) (r : Region) (w : Nat) : Option (Nat × Nat × Nat) :=
  r.tiles.foldl (fun m t =>
    match ((s.tile t).settled t (w + 1)).array.hazard, m with
    | none, m => m
    | some h, none => some (h.1, t, h.2)
    | some h, some q => if h.1 < q.1 then some (h.1, t, h.2) else some q) none

/-- The region aborts at an entry whose tick's actions stand. -/
def State.entryAbort (s : State) (tile : Nat) (place : Nat) (code : Code) (detail address : Nat) : State :=
  s.abortRegion { faultOf code detail with
    tile := tile, where' := BitVec.ofNat 64 place, address := BitVec.ofNat 64 address }

/-- The region aborts at a hazard's tick; the rows before it have been drained. -/
def State.drainHazard (s : State) (h : Nat × Nat × Nat) : State :=
  let s := s.waitWet h.1
  let s := s.modTile h.2.1 (fun x =>
    let y := x.settled h.2.1 (h.1 + 1)
    { y with array := { y.array with hazard := none } })
  s.entryAbort h.2.1 h.2.2 .basinHazard 0 0

/-- R302: the region's tiles are the thread plane's again, its records are written, its descriptor is done. -/
def State.endRegion (s : State) (r : Region) : State :=
  let s := r.tiles.foldl (fun s t => s.modTile t (fun x => { x with flume := Flume.idle })) s
  let s := (s.learnPhases r).modTimed (fun t => { t with region := none })
  (s.watchAll r).stepBoundary.modQueue r.ctx r.queue (fun q => match q.work with
    | some .region => { q with work := some (.done 0 0 0) }
    | _ => q)

/-- REGION_END (R302): every tile has reached END and nothing it started is under way: row results, drains and basin updates
take their ticks, then ownership returns and the descriptor is done. At entry + LENGTH a tile without END raises
SCHEDULE_LENGTH (R290). -/
def execRegionEnd (s : State) : Host.Outcome State Fault Refusal :=
  match s.timed.region with
  | none => .next s
  | some r =>
    if r.stage ≠ .running then .next s
    else match r.tiles.find? (fun t => !(s.tile t).flume.ended) with
    | some t =>
      if r.entryWet + r.length ≤ s.jobWet.toNat then
        .next (s.abortRegion { faultOf .scheduleLength 0 with tile := t })
      else .next s
    | none =>
      let fin := r.tiles.foldl (fun m t => max m (s.tile t).workEnd) 0
      match s.hazardBy r fin with
      | some h => .next (s.drainHazard h)
      | none =>
        if s.regionPending r then .next s else .next ((s.waitWet fin).endRegion r)

/-- REGION_ABORT_MESSAGE (R303): PARTNER_LOST; the root passes the abort on. -/
def execRegionAbortMessage (s : State) : Host.Outcome State Fault Refusal :=
  match s.timed.region with
  | some _ => .next (s.abortRegion (faultOf .partnerLost 0))
  | none => if s.timed.root then .next (s.emit (.abort none)) else .next s

/-- TIMED_WATCHDOG (R304): the wet ticks without progress have reached the limit. -/
def execTimedWatchdog (s : State) : Host.Outcome State Fault Refusal :=
  match s.timed.region with
  | none => .next s
  | some r =>
    if (r.stage = .ready ∨ r.stage = .running) ∧ r.idle + 2 ^ s.timed.wdogExp ≤ s.wet.toNat then
      .next (s.abortRegion (faultOf .timedWatchdog 0))
    else .next s

end Sys2Proof.Machine
end

