-- ==== Sys2Proof/Machine/Flume.lean ====
section
/-! DEFINITION. The entries of a flume program (R286 to R293, R302, R509), one command each: the next entry in execution
order is executed at its tick. -/

namespace Sys2Proof.Machine

/-- An entry at its tick: its bits, its address, its job wet tick, the device wet tick that is, and the operands as R288
forms them. -/
structure Entry where
  bits  : BitVec 256
  place : Nat
  t     : Nat
  tw    : Nat
  op0   : Word64
  op1   : Word64
  deriving DecidableEq, Repr

/-! ## Units of a tile (R290): 0 array and basin, 1 DMA engine, 2 row engine, 3 + p port p -/

def unitArray : Nat := 0
def unitDma : Nat := 1
def unitRow : Nat := 2
def unitPort (p : Nat) : Nat := 3 + p

def Flume.clash (x : Flume) (u tw : Nat) : Bool :=
  x.units.elem u || x.released.any (fun e => e.1 == u && decide (tw < e.2))

/-- R288: a relative operand; LOOP_END and SETA take theirs as they stand. -/
def Flume.operand (x : Flume) (e : BitVec 256) (flag : Nat) (v : Word64) : Word64 :=
  if bit (eFlags e) flag ∧ eKind e ≠ kLoopEnd ∧ eKind e ≠ 11 then tabGet x.a 0 (eFlags e % 16) + v else v

def State.modFlume (s : State) (tile : Nat) (f : Flume → Flume) : State :=
  s.modTile tile (fun x => { x with flume := f x.flume })

/-! ## A precise fault (R114, R290, R509) -/

/-- A precise fault: the tick is undone and the region aborts. -/
def State.entryFault (s : State) (tile : Nat) (n : Entry) (code : Code) (detail address : Nat) : State :=
  (s.undoTick tile).entryAbort tile n.place code detail address

def State.conflict (s : State) (tile : Nat) (n : Entry) : State := s.entryFault tile n .scheduleConflict 0 0

/-! ## The next entry (R288, R290, R291, R293) -/

/-- R293: the kinds that a closed gated phase skips. -/
def gatedKind (k : Nat) : Bool := k == kMatrix || k == kRow || k == kDma || k == kSend || k == 12 || k == 13

/-- R289, R108: released spans that have ended; after one of the array the capture buffer is empty. -/
def Tile.endSpans (x : Tile) (tw : Nat) : Tile :=
  let over_ := x.flume.released.any (fun e => e.1 == unitArray && decide (e.2 ≤ tw))
  { x with
    array := if over_ then { x.array with capture := none } else x.array
    flume := { x.flume with released := x.flume.released.filter (fun e => decide (tw < e.2)) } }

/-- The entry leaves the buffer; a new tick begins with nothing used. -/
def Tile.takeEntry (x : Tile) (t : Nat) (issued : Bool) : Tile :=
  let f := x.flume
  let same := f.before.isSome && f.lastTick == t
  let start : TickStart := ⟨x.scratch, x.array, x.rowBusy, x.rowOut, x.dmaIn, x.dmaOut, [], [], []⟩
  { x with flume := { f with
      buf := f.buf.drop 1, lastTick := t
      inTick := (if same then f.inTick else 0) + ofBool issued
      units := if same then f.units else []
      before := if same then f.before else some start } }

/-- The tile's next entry is executed, if it is of kind `kind`: time passes to its tick, and `f` does what the kind does.
An entry that is not in the buffer is late (R291), one past entry + LENGTH or a ninth in a tick is a fault (R290). -/
def State.entry (s : State) (tile kind : Nat) (f : State → Region → Entry → State) : State :=
  match s.timed.region with
  | none => s
  | some r =>
    let x := (s.tile tile).flume
    if !s.running ∨ r.stage ≠ .running ∨ !r.tiles.elem tile ∨ !x.active ∨ x.stopped ∨ x.ended then s
    else match x.buf with
    | [] => if x.fetchEnd then s else s.entryAbort tile (x.prog + 32 * x.fetchAt) .lateAdmission 2 0
    | (pos, e) :: _ =>
      if eKind e ≠ kind then s
      else
        let t := x.lastTick + eDelta e
        let fin := r.entryWet + r.length
        let place := x.prog + 32 * pos
        match s.hazardBy r (s.wet.toNat + (min t fin - s.jobWet.toNat)) with
        | some h => s.drainHazard h
        | none =>
        let s := s.passWet (min t fin - s.jobWet.toNat)
        if fin < t then s.entryAbort tile place .scheduleLength 0 0
        else
          let tw := (BitVec.ofNat 64 t - s.timed.wetOffset).toNat
          let n : Entry := ⟨e, place, t, tw, x.operand e 4 (eOp0 e), x.operand e 5 (eOp1 e)⟩
          let skip := gatedKind kind && x.gates.any id
          let s := s.modTile tile (fun y => (y.endSpans tw).takeEntry t (!skip))
          let s := s.modRegion (fun r => { r with idle := max r.idle tw })
          if skip then s
          else if 8 < (s.tile tile).flume.inTick then s.conflict tile n
          else f s r n

/-- As `entry`, for an entry that uses a unit. -/
def State.unitEntry (s : State) (tile kind : Nat) (u : Entry → Nat) (f : State → Region → Entry → State) : State :=
  s.entry tile kind (fun s r n =>
    if (s.tile tile).flume.clash (u n) n.tw then s.conflict tile n
    else f (s.modFlume tile (fun x => { x with units := u n :: x.units })) r n)

/-! ## Entries of one register or none -/

/-- NOP (R289). -/
def execFlumeNop (tile : Nat) (s : State) : Host.Outcome State Fault Refusal := .next (s.entry tile 0 (fun s _ _ => s))

/-- GATE_BEGIN (R293, R290): the phase is closed if its gate register is not zero. -/
def execGateBegin (tile : Nat) (s : State) : Host.Outcome State Fault Refusal :=
  .next (s.entry tile 6 (fun s _ n =>
    let x := (s.tile tile).flume
    if 4 ≤ x.gates.length then s.conflict tile n
    else s.modFlume tile (fun x => { x with gates := (tabGet x.g 0 (eFlags n.bits % 4) != 0) :: x.gates })))

/-- GATE_END. -/
def execGateEnd (tile : Nat) (s : State) : Host.Outcome State Fault Refusal :=
  .next (s.entry tile 7 (fun s _ n =>
    if (s.tile tile).flume.gates = [] then s.conflict tile n
    else s.modFlume tile (fun x => { x with gates := x.gates.drop 1 })))

/-- PHASE (R301). -/
def execFlumePhase (tile : Nat) (s : State) : Host.Outcome State Fault Refusal :=
  .next (s.entry tile 8 (fun s r n => if tile = r.marker then s.markPhase (eArg n.bits % 65536) else s))

/-- LOOP_BEGIN (R289, R290). -/
def execLoopBegin (tile : Nat) (s : State) : Host.Outcome State Fault Refusal :=
  .next (s.entry tile kLoopBegin (fun s _ n =>
    let x := (s.tile tile).flume
    if 4 ≤ x.loops.length then s.conflict tile n
    else s.modFlume tile (fun x => { x with loops := (eArg n.bits, (n.place - x.prog) / 32 + 1) :: x.loops })))

/-- LOOP_END: the increments, and one iteration less; the buffer holds the next entry executed (R291). -/
def execLoopEnd (tile : Nat) (s : State) : Host.Outcome State Fault Refusal :=
  .next (s.entry tile kLoopEnd (fun s _ n =>
    match (s.tile tile).flume.loops with
    | [] => s.conflict tile n
    | (k, back) :: rest =>
      s.modFlume tile (fun x =>
        let a := tabMod x.a 0 (eFlags n.bits % 16) (fun v => v + n.op0)
        { x with a := tabMod a 0 (eFlags n.bits / 16) (fun v => v + n.op1)
                 loops := if 1 < k then (k - 1, back) :: rest else rest })))

/-- SETA. -/
def execFlumeSeta (tile : Nat) (s : State) : Host.Outcome State Fault Refusal :=
  .next (s.entry tile 11 (fun s _ n =>
    s.modFlume tile (fun x =>
      let r := eFlags n.bits % 16
      { x with a := tabSet x.a 0 r (if bit (eFlags n.bits) 4 then tabGet x.a 0 r + n.op0 else n.op0) })))

/-- END (R290, R302): the program must end at entry + LENGTH. -/
def execFlumeEnd (tile : Nat) (s : State) : Host.Outcome State Fault Refusal :=
  .next (s.entry tile kEnd (fun s r n =>
    if n.t ≠ r.entryWet + r.length then s.entryFault tile n .scheduleLength 0 0
    else s.modFlume tile (fun x => { x with ended := true })))

/-! ## MATRIX (R106, R114, R123, R124, R509) -/

/-- The command a MATRIX entry issues: every row live, in the region's window. -/
def matrixEntry (x : Flume) (r : Region) (n : Entry) : MCmd :=
  let w := eWord n.bits
  { op := wOp w, word := w, a := n.op0, b := n.op1, c := BitVec.ofNat 64 (eArg n.bits), tick := n.tw
    live := BitVec.allOnes 32, slot := 0, uid := 0, base := x.base, data := [], seed := r.seed, step := r.step }

/-- The named tick breaks a rule of the array. -/
def MArray.collides (a : MArray) (c : MCmd) (tw : Nat) : Option Code :=
  if c.op = mLoad ∧ tw < a.frontFrom (a.loadFmt c.word) then some .frontCollision
  else if c.op = mPass ∧ tw < a.entryFrom then some .entryCollision
  else if c.op = mDrain ∧ tw < a.rowFree ((a.firstOf c).1 * (a.firstOf c).2) (((a.firstOf c).1 + 1) * (a.firstOf c).2) then
    some .basinHazard
  else none

def execFlumeMatrix (tile : Nat) (s : State) : Host.Outcome State Fault Refusal :=
  .next (s.unitEntry tile kMatrix (fun _ => unitArray) (fun s r n =>
    let x := s.tile tile
    let c := matrixEntry x.flume r n
    match matrixFault x.array.view x.flume.loaded false x.flume.size c with
    | some e => s.entryFault tile n e.1 0 e.2
    | none =>
      match x.array.collides c n.tw with
      | some code => s.entryFault tile n code 0 0
      | none =>
        let s := s.beginMatrix tile c n.tw (some n.place)
        if c.op = mLoad then s.modFlume tile (fun x => { x with loaded := true }) else s))

/-! ## ROW (R81 to R83, R100, R509) -/

def execFlumeRow (tile : Nat) (op : RowOp) (len src dst : Nat) (s : State) : Host.Outcome State Fault Refusal :=
  .next (s.unitEntry tile kRow (fun _ => unitRow) (fun s _ n =>
    let x := s.tile tile
    match rowFault op len src dst x.flume.size with
    | some e => s.entryFault tile n e.1 0 e.2
    | none =>
      if n.t < x.flume.rowBusy then s.conflict tile n
      else if n.tw < x.rowOperandFree x.flume.base src len then s.entryFault tile n .basinHazard 0 src
      else
        (s.modTile tile (fun _ => (s.nowTile tile).runRow op len x.flume.base src dst (n.op0.truncate 32) (n.op1.truncate 32) n.tw)).modFlume
          tile (fun x => { x with rowBusy := n.t + (len + 63) / 64 })))

/-! ## DMA (R84, R85, R273, R277, R289) -/

/-- R277: the chunk at which a lossless transfer's encoding would exceed its budget. -/
def State.overBudget (s : State) (tile base : Nat) (d : DmaSpec) : Option Nat :=
  if d.compress = 1 ∧ !d.inbound then overAt d.budget (losslessSizes (deltaType d.elem) (s.dmaGather tile base d)) 0 else none

def State.noteStart (s : State) (tile : Nat) (f : TickStart → TickStart) : State :=
  s.modFlume tile (fun x => { x with before := x.before.map f })

def execFlumeDma (tile : Nat) (d : DmaSpec) (s : State) : Host.Outcome State Fault Refusal :=
  .next (s.unitEntry tile kDma (fun _ => unitDma) (fun s r n =>
    let x := s.tile tile
    let slot := eArg n.bits % 16
    if tabGet x.flume.slots 0 slot = 1 then s.conflict tile n
    else match s.dmaFault d x.flume.size r.ctx none with
    | some e => s.entryFault tile n e.1 0 e.2
    | none =>
      match x.dmaFree with
      | none => s.conflict tile n
      | some k =>
        let cut := s.overBudget tile x.flume.base d
        if cut = some 0 then s.entryFault tile n .linkBudget 0 0
        else
          let t : Dma := { spec := d, ctx := r.ctx, slot := 0, kern := 0, block := 0, flume := some slot
                           base := x.flume.base, pc := BitVec.ofNat 64 n.place, mask := 0, issue := 0, due := 0, fault := none }
          let s := s.startDma tile k t (r.seed, r.step) cut
          let s := s.modFlume tile (fun x => { x with slots := tabSet x.slots 0 slot 1 })
          s.noteStart tile (fun b => { b with dmas := k :: b.dmas })))

/-! ## SEND (R289, R39, R44, R273) -/

/-- The bytes that arrive: a lossy send's decode by R275; its element format and its stream ID, which its entry does not state,
are free values. -/
def sendData (comp tile pos : Nat) (r : Region) (d : List Byte) : List Byte :=
  if comp = 2 then lossyDecode (Config.sendWide tile pos) r.seed r.step (Config.sendStream tile pos) tile 0 d else d

/-- R277: a lossless send whose encoding exceeds its budget, which its entry does not state: a free value. -/
def sendOver (comp tile pos : Nat) (d : List Byte) : Bool :=
  comp == 1 && decide (Config.sendBudget tile pos < losslessBytes (some (Config.sendWide tile pos)) d)

/-- A timed item into the mesh sluice that leads to its tile or port; the sluice must have a free entry. -/
def State.sendItem (s : State) (tile : Nat) (n : Entry) (dst : Nat) (w : Payload) : State :=
  let i : SluiceId := ⟨.mesh, tile, dst, 0⟩
  if (pathEnds i).isNone then s
  else if s.room i then (s.sendTimed i w).noteStart tile (fun b => { b with sends := i :: b.sends })
  else s.entryFault tile n .sluiceOverrun 0 0

def execFlumeSend (tile : Nat) (s : State) : Host.Outcome State Fault Refusal :=
  .next (s.unitEntry tile kSend (fun n => unitPort (sendPort (eWord n.bits))) (fun s r n =>
    let x := s.tile tile
    let w := eWord n.bits
    let p := sendPort w
    let c := sendComp w
    let len := n.op1.toNat
    if len = 0 ∨ 256 < len then s.conflict tile n
    else if x.flume.size < n.op0.toNat + len then s.entryFault tile n .scratchBounds 0 n.op0.toNat
    else if c ≠ 0 ∧ !s.compressOk (p - 15) then s.entryFault tile n .fabricAccess 0 0
    else
      let pos := (n.place - x.flume.prog) / 32
      let bytes := s.scratchBytes tile (x.flume.base + n.op0.toNat) len
      let d := sendData c tile pos r bytes
      if sendOver c tile pos bytes then s.entryFault tile n .linkBudget 0 0
      else if p = 31 then s.sendItem tile n (sendTile w) (.scratch (sendTile w) (eArg n.bits) d)
      else s.sendItem tile n (islandPort p) (.forward p (r.map.getD (sendDev w) 0) (sendTile w) (eArg n.bits) d)))

/-! ## ADMIT (R292, R508) -/

/-- What makes an admission fail, as LATE_ADMISSION's detail. -/
def State.admission (s : State) (tile : Nat) (r : Region) (n : Entry) : Option Nat × State :=
  if (eWord n.bits).getLsbD 0 then
    (if tabGet (s.tile tile).flume.slots 0 (eArg n.bits % 16) = 2 then none else some 1, s)
  else match s.waitRef r.ctx (eArg n.bits) with
  | .error e => (some (0x100 + e), s.countWaitDenied r.ctx (eArg n.bits) e)
  | .ok (i, _) =>
    let v := (s.syncObj i).value.toNat
    (if n.op0.toNat ≤ v ∧ v < poisonBase then none else some 1, s)

/-- FLUME_ADMISSION (R292): the condition at the tick, and the word copied to a gate register. -/
def execFlumeAdmission (tile : Nat) (s : State) : Host.Outcome State Fault Refusal :=
  .next (s.entry tile kAdmit (fun s r n =>
    match s.admission tile r n with
    | (some d, s) => s.entryFault tile n .lateAdmission d 0
    | (none, s) =>
      let w := eWord n.bits
      let x := (s.tile tile).flume
      if !w.getLsbD 1 then s
      else if x.size < n.op1.toNat + 8 then s.entryFault tile n .scratchBounds 0 n.op1.toNat
      else
        let v : Word64 := BitVec.ofNat 64 (leNat (s.scratchBytes tile (x.base + n.op1.toNat) 8))
        s.modFlume tile (fun x => { x with g := tabSet x.g 0 (bvFld w 2 2) v })))

/-! ## SIGNAL and RELEASE (R289, R90, R316) -/

/-- SIGNAL: sent at its tick to the object's home. -/
def execFlumeSignal (tile : Nat) (s : State) : Host.Outcome State Fault Refusal :=
  .next (s.entry tile 12 (fun s r n =>
    let f := { faultOf .syncDenied 0 with tile := tile, where' := BitVec.ofNat 64 n.place }
    match s.engineSignal .set (.region tile) r.ctx (eArg n.bits) n.op0 0 f with
    | (s, some i) => s.noteStart tile (fun b => { b with signals := i :: b.signals })
    | (s, none) => s))

/-- The units ARG[2:0] names. -/
def releaseUnits (e : BitVec 256) : List Nat := [unitArray, unitDma, unitRow].filter (fun u => bit (eArg e) u)

/-- RELEASE (R289, R290): the thread plane has the resources for OP0 wet ticks; the array's loaded block ends. -/
def execFlumeRelease (tile : Nat) (s : State) : Host.Outcome State Fault Refusal :=
  .next (s.entry tile 13 (fun s _ n =>
    let us := releaseUnits n.bits
    if us.any (fun u => (s.tile tile).flume.clash u n.tw) then s.conflict tile n
    else s.modFlume tile (fun x => { x with
      units := us ++ x.units
      released := x.released ++ us.map (fun u => (u, n.tw + n.op0.toNat))
      loaded := x.loaded && !us.elem unitArray })))

/-- RELEASE_SPAN_END (R289, R90): the wet ticks of the span that ends first have passed; after one of the array the
capture buffer is empty. -/
def execReleaseSpanEnd (tile : Nat) (s : State) : Host.Outcome State Fault Refusal :=
  match (s.tile tile).flume.released with
  | [] => .next s
  | e :: rest =>
    if !s.running then .next s
    else
      let fin := rest.foldl (fun m x => min m x.2) e.2
      let s := s.passWet (fin - s.wet.toNat)
      .next (s.modTile tile (fun x => x.endSpans fin))

end Sys2Proof.Machine
end

