-- ==== Sys2Proof/Machine/Video.lean ====
section
/-! DEFINITION. What a headworks makes of a job (R362 to R373): transport streams, concealment, fields, crop,
normalisation, resizing, conversion, the shuffle draw. Decoding itself follows outside standards and is free
(Sys2Proof/Config.lean). -/

namespace Sys2Proof.Machine

/-! ## The job record (R360) -/

structure Job where
  input   : Nat
  field   : Nat
  matrix  : Nat
  outFmt  : Nat
  pid     : Nat
  colour  : Nat
  norm    : Bool
  grainOut : Bool
  shuffle : Bool
  stride  : Nat
  src     : Nat
  srcLen  : Nat
  start   : Nat
  count   : Nat
  cropX   : Nat
  cropY   : Nat
  cropW   : Nat
  cropH   : Nat
  outW    : Nat
  outH    : Nat
  dst     : Nat
  status  : Nat
  grain   : Nat
  work    : Nat
  workLen : Nat
  normA   : List Word32
  normB   : List Word32
  pool    : Nat
  poolN   : Nat
  drawPos : Nat
  clip    : Nat
  deriving DecidableEq, Repr

def jobOf (d : List Byte) : Job :=
  let n1 : Nat → Nat := fun i => leNat (sliceAt d i 1)
  let n2 : Nat → Nat := fun i => leNat (sliceAt d i 2)
  let n4 : Nat → Nat := fun i => leNat (sliceAt d i 4)
  let n8 : Nat → Nat := fun i => leNat (sliceAt d i 8)
  let w3 : Nat → List Word32 := fun i => (List.range 3).map (fun q => BitVec.ofNat 32 (n4 (i + 4 * q)))
  { input := n1 4, field := n1 5, matrix := n1 6, outFmt := n1 7, pid := n2 8, colour := n1 10, norm := bit (n1 11) 0
    grainOut := bit (n1 11) 1, shuffle := bit (n1 11) 2, stride := n2 12, src := n8 16, srcLen := n8 24, start := n4 32
    count := n4 36, cropX := n2 40, cropY := n2 42, cropW := n2 44, cropH := n2 46, outW := n2 48, outH := n2 50
    dst := n8 56, status := n8 64, grain := n8 72, work := n8 80, workLen := n8 88, normA := w3 96, normB := w3 108
    pool := n4 120, poolN := n8 128, drawPos := n8 136, clip := n8 144 }

/-- R360: a field out of range, or a zero field that is not zero (DETAIL FORMAT). -/
def jobBad (d : List Byte) : Bool :=
  let j := jobOf d
  leNat (sliceAt d 0 4) != 1 || decide (4 < j.input) || decide (2 < j.field) || decide (3 < j.matrix) ||
  !(([1, 2, 4, 5] : List Nat).elem j.outFmt) || decide (0x1FFF < j.pid) || decide (1 < j.colour) ||
  decide (8 ≤ leNat (sliceAt d 11 1)) || j.stride == 0 || decide (1024 < j.stride) ||
  !zerosIn d [(14, 2), (52, 4), (124, 4), (152, 104)] || j.srcLen == 0 || decide (2 ^ 36 < j.srcLen) ||
  j.count == 0 || decide (65535 < j.count) ||
  (if j.cropW = 0 then j.cropX != 0 || j.cropY != 0 || j.cropH != 0 else j.cropH == 0) ||
  decide (j.outW < 16) || decide (8192 < j.outW) || decide (j.outH < 16) || decide (8192 < j.outH) ||
  j.dst % 256 != 0 || j.status % 32 != 0 || (!j.grainOut && j.grain != 0) || j.work % 65536 != 0 ||
  j.poolN == 0 || decide (2 ^ 40 < j.poolN)

/-- R369: the element size and the plane stride. -/
def Job.elem (j : Job) : Nat := if j.outFmt < 4 then 1 else 2
def Job.planeStride (j : Job) : Nat := roundUp (j.outW * j.outH * j.elem) 256
def Job.tensorLen (j : Job) : Nat := j.count * 3 * j.planeStride
def Job.grainLen (j : Job) : Nat := if j.grainOut then 192 * j.count else 0

/-- Two ranges (address, length) share a byte. -/
def rangesMeet (a b : Nat × Nat) : Bool := decide (a.1 < b.1 + b.2) && decide (b.1 < a.1 + a.2)

/-- R361: the ranges written, each against the later ones and against the input and the record. -/
def Job.overlaps (j : Job) (rec : Nat) : Bool :=
  let out : List (Nat × Nat) := [(j.dst, j.tensorLen), (j.status, 32 * j.count), (j.grain, j.grainLen), (j.work, j.workLen)]
  let fixed : List (Nat × Nat) := [(j.src, j.srcLen), (rec, 256)]
  (List.range 4).any (fun i =>
    (out.drop (i + 1) ++ fixed).any (fun b => rangesMeet (out.getD i (0, 0)) b))

/-! ## The shuffle draw (R372, R373) -/

def shuffleKey (seed : Word64) (pool epoch : Nat) : Word64 :=
  permute (BitVec.ofNat 64 epoch) (permute (BitVec.ofNat 64 (pool * 2 ^ 32 + 4 * 2 ^ 20)) seed)

/-- The least b with n ≤ 2^b. -/
def log2Up (n : Nat) : Nat := ((List.range 64).find? (fun b => decide (n ≤ 2 ^ b))).getD 64

/-- One round of the pair (l, r). -/
def shuffleRound (key : Word64) (mask : Nat) (p : Nat × Nat) (i : Nat) : Nat × Nat :=
  (p.2, p.1 ^^^ ((permute (BitVec.ofNat 64 (i * 2 ^ 32 + p.2)) key).toNat &&& mask))

/-- The walk until a value below n, by fuel: no cycle of the permutation is longer than its domain. -/
def shuffleWalk : Nat → Word64 → Nat → Nat → Nat → Nat
  | 0, _, _, _, x => x
  | f + 1, key, h, n, x =>
    let p := (List.range 4).foldl (shuffleRound key (2 ^ h - 1)) (x / 2 ^ h, x % 2 ^ h)
    let x := p.1 * 2 ^ h + p.2
    if x < n then x else shuffleWalk f key h n x

def shuffleDraw (seed : Word64) (pool n pos : Nat) : Nat :=
  let b := max 2 (log2Up n)
  let h := (b + 1) / 2
  shuffleWalk (2 ^ (2 * h)) (shuffleKey seed pool (pos / n)) h n (pos % n)

/-! ## Transport streams (R362) -/

/-- The payload of the video PID, discontinuities, packets skipped for errors or scrambling, and the last continuity
count. -/
structure TsRun where
  payload : List Byte
  gaps    : Nat
  skipped : Nat
  last    : Option Nat
  deriving DecidableEq, Repr

/-- One packet of 188 bytes (header of ISO/IEC 13818-1). -/
def tsPacket (pid : Nat) (r : TsRun) (p : List Byte) : TsRun :=
  let b : Nat → Nat := fun i => (p.getD i 0).toNat
  let bad := bit (b 1) 7 || b 3 / 64 != 0
  let r := { r with skipped := r.skipped + ofBool bad }
  if bad ∨ b 1 % 32 * 256 + b 2 ≠ pid ∨ !bit (b 3) 4 then r
  else
    let cc := b 3 % 16
    let gap := match r.last with
      | some l => cc != (l + 1) % 16 && cc != l
      | none => false
    let skip := 4 + (if bit (b 3) 5 then 1 + b 4 else 0)
    { r with payload := r.payload ++ p.drop skip, gaps := r.gaps + ofBool gap, last := some cc }

/-- The next place with three sync bytes 188 apart. -/
def tsResync : Nat → List Byte → List Byte
  | 0, _ => []
  | f + 1, d =>
    if d.length ≤ 376 then []
    else if d.getD 0 0 == 0x47 && d.getD 188 0 == 0x47 && d.getD 376 0 == 0x47 then d
    else tsResync f (d.drop 1)

/-- Packet after packet, by fuel. -/
def tsWalk : Nat → Nat → TsRun → List Byte → TsRun
  | 0, _, r, _ => r
  | f + 1, pid, r, d =>
    if d.length < 188 then r
    else if d.getD 0 0 == 0x47 then tsWalk f pid (tsPacket pid r (d.take 188)) (d.drop 188)
    else tsWalk f pid { r with gaps := r.gaps + 1 } (tsResync d.length d)

/-- The elementary stream of a job: its kind and bytes; none (CONTAINER) where a transport stream has no sync byte in its
first 188 bytes or no video stream. -/
def elementary (j : Job) (d : List Byte) : Option (TsRun) :=
  if j.input ≠ 0 then some ⟨d, 0, 0, none⟩
  else
    let from_ := d.dropWhile (fun b => b != 0x47)
    let pid := if j.pid = 0x1FFF then Config.videoPid d else some j.pid
    match pid with
    | none => none
    | some p => if d.length < from_.length + 188 ∧ from_ ≠ [] then some (tsWalk (d.length + 1) p ⟨[], 0, 0, none⟩ from_) else none

/-! ## Pictures (R363, R370) -/

/-- A stream: its kind and bytes. -/
structure Stream where
  kind : Nat
  data : List Byte
  deriving DecidableEq, Repr

def Stream.info (v : Stream) (n k : Nat) : Nat := Config.videoInfo v.kind v.data n k
def Stream.flag (v : Stream) (n k : Nat) : Bool := v.info n k == 1
def Stream.width (v : Stream) (n : Nat) : Nat := v.info n 1
def Stream.height (v : Stream) (n : Nat) : Nat := v.info n 2
def Stream.depth (v : Stream) (n : Nat) : Nat := if v.info n 3 = 10 then 10 else 8
def Stream.wide (v : Stream) (n : Nat) : Bool := v.flag n 4

/-- The standard: 1 to 4 as INPUT numbers them; H.262, the only one at 4, also where the stream says none. -/
def Stream.standard (v : Stream) : Nat :=
  if v.kind ≠ 0 then v.kind else let k := Config.videoStandard v.data; if k = 2 ∨ k = 3 then k else 1

/-- R363: the decoded picture buffer size plus 2. -/
def Stream.buffers (v : Stream) : Nat :=
  if v.standard = 1 then 4 else if v.standard = 4 then 10 else Config.videoBuffer v.kind v.data + 2

/-- R363: twice the bytes of workspace a picture needs. -/
def Stream.workspace2 (v : Stream) (n : Nat) : Nat :=
  let b2 := (if v.wide n then 4 else 3) * (if v.depth n = 10 then 2 else 1)
  2 ^ 25 + v.buffers * roundUp (v.width n) 64 * roundUp (v.height n) 64 * b2

/-- What the header of a picture declares that is not supported: its DETAIL (R375). 4:2:2 is for H.262 and H.265, ten bits are for
all but H.262 (R363). -/
def Stream.headerBad (v : Stream) (workLen n : Nat) : Option Nat :=
  if v.width n < 16 ∨ v.height n < 16 ∨ 8192 < v.width n ∨ 4320 < v.height n then some 18
  else if (v.wide n && (v.standard == 2 || v.standard == 4)) || (v.depth n == 10 && v.standard == 1) then some 19
  else if v.flag n 11 then some 20
  else if 2 * workLen < v.workspace2 n then some 21
  else none

/-- The pictures decoded, and the unsupported header that ends the job, if one does. -/
def Stream.decoded (v : Stream) (workLen : Nat) : Nat × Option Nat :=
  let n := Config.videoPictures v.kind v.data
  let e := Config.videoError v.kind v.data
  let lim := match e with
    | some (_, k) => min n k
    | none => n
  match (List.range lim).find? (fun i => (v.headerBad workLen i).isSome) with
  | some i => (i, v.headerBad workLen i)
  | none => (lim, e.map (fun x => 16 + min x.1 4))

/-- A picture after concealment: where its samples come from (`mid`: every sample is the middle code), and its flags. -/
structure Pic where
  src  : Nat
  mid  : Bool
  concealed  : Bool
  propagated : Bool
  deriving DecidableEq, Repr

/-- R370: one picture more, in decoding order, with the most recently reconstructed reference picture; `made` tells the
pictures that are reconstructed. -/
def Stream.conceal (v : Stream) (made : Nat → Bool) (acc : List Pic × Option Nat) (n : Nat) : List Pic × Option Nat :=
  let bad : Nat → Bool := fun r => match acc.1[r]? with
    | some p => p.concealed || p.propagated
    | none => true
  let refs := Config.videoRefs v.kind v.data n
  let corrupt := v.flag n 9 || refs.any (fun r => decide (n ≤ r))
  let hit := !v.flag n 8 && refs.any (fun r => decide (r < n) && bad r)
  if corrupt || hit then
    (acc.1 ++ [⟨acc.2.getD n, acc.2.isNone, corrupt, hit && !corrupt⟩], acc.2)
  else (acc.1 ++ [⟨n, false, false, false⟩], if v.flag n 10 && made n then some n else acc.2)

def Stream.pictures (v : Stream) (made : Nat → Bool) (n : Nat) : List Pic := ((List.range n).foldl (v.conceal made) ([], none)).1

/-- Pictures in display order. -/
def insertShown (v : Stream) (n : Nat) : List Nat → List Nat
  | [] => [n]
  | a :: r => if v.info n 0 < v.info a 0 then n :: a :: r else a :: insertShown v n r
def Stream.shown (v : Stream) (n : Nat) : List Nat := (List.range n).foldl (fun l i => insertShown v i l) []

/-! ## Candidates (R365, R366) -/

/-- A candidate: its picture in decoding order and the parity of its field (none: a frame). -/
structure Cand where
  pic    : Nat
  parity : Option Nat
  second : Bool
  deriving DecidableEq, Repr

def Stream.candidate (v : Stream) (field : Nat) (shown : List Nat) (k : Nat) : Option Cand :=
  if field = 0 then (shown[k]?).map (fun n => ⟨n, none, false⟩)
  else (shown[k / 2]?).map (fun n =>
    ⟨n, some ((ofBool (v.flag n 7) + k) % 2), k % 2 == 1⟩)

/-- R365: of `total` pictures, those reconstructed: a candidate of theirs is selected, or a later picture references them. -/
def Stream.made (v : Stream) (j : Job) (shown : List Nat) (total n : Nat) : Bool :=
  (List.range j.count).any (fun i => match v.candidate j.field shown (j.start + i * j.stride) with
    | some c => c.pic == n
    | none => false) ||
  (List.range total).any (fun m => decide (n < m) && (Config.videoRefs v.kind v.data m).elem n)

/-- The rows of a field of a plane of `h` rows. -/
def fieldRows (h parity : Nat) : Nat := if parity = 0 then (h + 1) / 2 else h / 2

/-- The rows of a candidate, and the row of the frame's plane that its row `y` shows. -/
def candRows (field h : Nat) (parity : Option Nat) : Nat :=
  match parity with
  | none => h
  | some p => if field = 2 then h else fieldRows h p
def planeRow (field h : Nat) (parity : Option Nat) (y : Nat) : Nat :=
  match parity with
  | none => min y (h - 1)
  | some p => 2 * min (if field = 2 then y / 2 else y) (fieldRows h p - 1) + p

/-- A picture as a plane is read: the picture's own numbers where it shows itself, the reference's where it is concealed. -/
def Stream.sample (v : Stream) (p : Pic) (plane x y : Nat) : Nat :=
  if p.mid then 2 ^ (v.depth p.src - 1) else Config.videoSample v.kind v.data p.src plane x y % 2 ^ v.depth p.src

/-- R366: sample (x, y) of a candidate, chroma replicated. -/
def Stream.candSample (v : Stream) (field : Nat) (p : Pic) (parity : Option Nat) (plane x y : Nat) : Nat :=
  let h := v.height p.src
  if plane = 0 then v.sample p 0 x (planeRow field h parity y)
  else if v.wide p.src then v.sample p plane (x / 2) (planeRow field h parity y)
  else v.sample p plane (x / 2) (planeRow field ((h + 1) / 2) parity (y / 2))

/-- The rectangle of a candidate that is shown; none where it does not lie within (CROP). -/
def Job.cropOf (j : Job) (w h : Nat) : Option (Nat × Nat × Nat × Nat) :=
  if j.cropW = 0 then some (0, 0, w, h)
  else if j.cropX + j.cropW ≤ w ∧ j.cropY + j.cropH ≤ h then some (j.cropX, j.cropY, j.cropW, j.cropH) else none

/-! ## Normalisation and colour (R367) -/

def ratF32 (a b : Nat) : Word32 := f32Of ((FP.fin false a 0).div (.fin false b 0))
def intMul (x : Int) (k : Word32) : Word32 := f32Of ((FP.ofInt x).mul (f32Val k))
def f32Neg (x : Word32) : Word32 := x ^^^ 0x80000000
def f32Clamp (lo hi x : Word32) : Word32 := f32Min hi (f32Max lo x)

/-- K_r and K_b in ten-thousandths. -/
def matrixK : Nat → Nat × Nat
  | 2 => (2126, 722)
  | 3 => (2627, 593)
  | _ => (2990, 1140)

/-- The matrix used: as the job says, else as signalled, else by the picture's lines. -/
def matrixUsed (asked signalled lines : Nat) : Nat :=
  if asked ≠ 0 then asked else if 1 ≤ signalled ∧ signalled ≤ 3 then signalled else if lines ≤ 576 then 1 else 2

/-- y, c_b and c_r of a sample. -/
def normSample (depth : Nat) (full : Bool) (plane : Nat) (code : Nat) : Word32 :=
  let s := 2 ^ (depth - 8)
  if full then
    let k := ratF32 1 (2 ^ depth - 1)
    if plane = 0 then intMul code k else intMul ((code : Int) - (2 ^ (depth - 1) : Nat)) k
  else if plane = 0 then intMul ((code : Int) - (16 * s : Nat)) (ratF32 1 (219 * s))
  else intMul ((code : Int) - (128 * s : Nat)) (ratF32 1 (224 * s))

/-- The value of output plane `q`. -/
def colourValue (m colour q : Nat) (y cb cr : Word32) : Word32 :=
  let k := matrixK m
  let g := 10000 - k.1 - k.2
  let v := if colour = 1 then (if q = 0 then y else if q = 1 then cb else cr)
    else if q = 0 then f32Fma (ratF32 (2 * (10000 - k.1)) 10000) cr y
    else if q = 1 then
      f32Fma (f32Neg (ratF32 (2 * k.2 * (10000 - k.2)) (10000 * g))) cb
        (f32Fma (f32Neg (ratF32 (2 * k.1 * (10000 - k.1)) (10000 * g))) cr y)
    else f32Fma (ratF32 (2 * (10000 - k.2)) 10000) cb y
  if colour = 1 then v else f32Clamp 0 0x3F800000 v

/-! ## Resizing (R368) -/

/-- One halving, by adjacent pairs; a last sample without a partner pairs with itself. -/
def halvePairs : List Word32 → List Word32
  | a :: b :: r => f32Mul (f32Add a b) 0x3F000000 :: halvePairs r
  | [a] => [f32Mul (f32Add a a) 0x3F000000]
  | [] => []

/-- While n > 2m, by fuel. -/
def halveTo : Nat → Nat → List Word32 → List Word32
  | 0, _, l => l
  | f + 1, m, l => if 2 * m < l.length then halveTo f m (halvePairs l) else l

/-- x rounded to the nearest integer, ties to even, of x = a / b. -/
def rneDiv (a : Int) (b : Nat) : Int :=
  let q := a / (b : Int)
  let r := a % (b : Int)
  if 2 * r < b then q else if (b : Int) < 2 * r then q + 1 else if q % 2 = 0 then q else q + 1

/-- 16,384 × W(a / 64): Keys' cubic over the common denominator 12 · 64³. -/
def keysTap (a : Nat) : Int :=
  let x : Int := a
  let w : Int :=
    if a < 64 then 16 * x ^ 3 - 1792 * x ^ 2 + 3145728
    else if a < 128 then -7 * x ^ 3 + 2304 * x ^ 2 - 241664 * x + 7864320
    else if a < 192 then x ^ 3 - 512 * x ^ 2 + 86016 * x - 4718592
    else 0
  rneDiv w 192

/-- The six weights of phase p, the largest adjusted so that they sum to 16,384. -/
def taps (p : Nat) : List Int :=
  let c := (List.range 6).map (fun t => keysTap (64 * (t : Int) - 128 - (p : Int)).natAbs)
  let top := c.foldl max 0
  let i := (c.takeWhile (fun x => x != top)).length
  c.set i (top + (16384 - c.sum))

def tapWeight (c : Int) : Word32 := f32Of ((FP.ofInt c).scale (-14))

/-- Output sample j of m from the samples of an axis. -/
def resample (l : List Word32) (m j : Nat) : Word32 :=
  let n := l.length
  let num : Int := (2 * j + 1) * n - m
  let i0 := num / (2 * m : Int)
  let p0 := ((num % (2 * m : Int)) * 128 + 2 * m) / (4 * m : Int)
  let i := if p0 = 64 then i0 + 1 else i0
  let c := taps (if p0 = 64 then 0 else p0.toNat)
  let at_ : Nat → Word32 := fun t => l.getD (min (n - 1) (i - 2 + t).toNat) 0
  (List.range 5).foldl (fun acc t => f32Fma (tapWeight (c.getD (t + 1) 0)) (at_ (t + 1)) acc)
    (f32Mul (tapWeight (c.getD 0 0)) (at_ 0))

/-- One axis. -/
def resizeAxis (m : Nat) (l : List Word32) : List Word32 :=
  let l := halveTo l.length m l
  (List.range m).map (resample l m)

/-- A plane: horizontally, then vertically. -/
def resizePlane (w h : Nat) (rows : List (List Word32)) : List (List Word32) :=
  let rows := rows.map (resizeAxis w)
  let cols := (List.range w).map (fun x => resizeAxis h (rows.map (fun r => r.getD x 0)))
  (List.range h).map (fun y => cols.map (fun c => c.getD y 0))

/-! ## Output (R369, R371) -/

/-- A resized sample clamped, normed and converted: its code. -/
def outCode (j : Job) (q : Nat) (v : Word32) : Nat :=
  let chroma := j.colour = 1 ∧ q ≠ 0
  let v := if chroma then f32Clamp 0xBF000000 0x3F000000 v else f32Clamp 0 0x3F800000 v
  let v := if j.norm then f32Fma v (j.normA.getD q 0) (j.normB.getD q 0) else v
  let v := if j.outFmt = 1 ∧ !j.norm then f32Mul (if chroma then f32Add v 0x3F000000 else v) 0x437F0000 else v
  fmtNarrow ((fmtOfCode j.outFmt).getD .uint8) .rne (f32Val v)

/-- The bytes of a plane, with the zeros up to the plane stride. -/
def planeBytes (j : Job) (q : Nat) (rows : List (List Word32)) : List Byte :=
  let d := rows.flatMap (fun r => r.flatMap (fun v => leBytes j.elem (outCode j q v)))
  d ++ List.replicate (j.planeStride - d.length) 0

/-- The rows of output plane q of a cropped candidate, before resizing. -/
def Stream.planeRows (v : Stream) (j : Job) (c : Cand) (p : Pic) (r : Nat × Nat × Nat × Nat) (q : Nat) : List (List Word32) :=
  let m := matrixUsed j.matrix (v.info p.src 5) (v.height p.src)
  let norm : Nat → Nat → Nat → Word32 := fun pl x y =>
    normSample (v.depth p.src) (v.flag p.src 6) pl (v.candSample j.field p c.parity pl x y)
  (List.range r.2.2.2).map (fun y => (List.range r.2.2.1).map (fun x =>
    let X := r.1 + x
    let Y := r.2.1 + y
    colourValue m j.colour q (norm 0 X Y) (norm 1 X Y) (norm 2 X Y)))

/-- The tensor bytes of one output picture. -/
def Stream.pictureBytes (v : Stream) (j : Job) (c : Cand) (p : Pic) : List Byte :=
  let r := (j.cropOf (v.width p.src) (candRows j.field (v.height p.src) c.parity)).getD (0, 0, 16, 16)
  (List.range 3).flatMap (fun q => planeBytes j q (resizePlane j.outW j.outH (v.planeRows j c p r q)))

/-- The 32 bytes of a status entry. -/
def Stream.statusBytes (v : Stream) (j : Job) (cand : Nat) (c : Cand) (p : Pic) (missing : Bool) (draw : Nat) : List Byte :=
  let m := matrixUsed j.matrix (v.info p.src 5) (v.height p.src)
  leBytes 32 (cand % 2 ^ 32 + ofBool p.concealed * 2 ^ 32 + ofBool p.propagated * 2 ^ 33 + ofBool missing * 2 ^ 34 +
    ofBool c.second * 2 ^ 35 + ofBool (v.flag c.pic 8) * 2 ^ 36 + m * 2 ^ 37 + ofBool (v.flag p.src 6) * 2 ^ 40 +
    v.width p.src % 2 ^ 16 * 2 ^ 48 + v.height p.src % 2 ^ 16 * 2 ^ 64 + v.depth p.src * 2 ^ 80 + draw * 2 ^ 128)

/-- The 192 bytes of a grain entry: the bit count, and the bits from byte 8, most significant first. -/
def grainBytes (bits : List Bool) : List Byte :=
  let bits := bits.take 1472
  leBytes 8 bits.length ++ (List.range 184).map (fun i =>
    BitVec.ofNat 8 ((List.range 8).foldl (fun a k => 2 * a + ofBool (bits.getD (8 * i + k) false)) 0))

/-- One output picture: its candidate number, candidate, picture, and whether the input had ended. -/
structure Shown where
  number  : Nat
  cand    : Cand
  pic     : Pic
  missing : Bool
  deriving DecidableEq, Repr

/-- What a job comes to: its output pictures, the pictures decoded, the end it meets (DETAIL of INTAKE_UNSUPPORTED). -/
structure Plan where
  stream  : Stream
  pics    : List Pic
  shown   : List Nat
  out     : List Shown
  error   : Option Nat
  gaps    : Nat
  skipped : Nat
  deriving DecidableEq, Repr

/-- R365: output picture i, if its candidate was decoded. -/
def Stream.output (v : Stream) (j : Job) (pics : List Pic) (shown : List Nat) (i : Nat) : Option Shown :=
  let k := j.start + i * j.stride
  (v.candidate j.field shown k).map (fun c => ⟨k, c, pics.getD c.pic ⟨c.pic, true, true, false⟩, false⟩)

/-- R371: the pictures after the input's end repeat the last one, or are the mid-code picture. -/
def Stream.outputs (v : Stream) (j : Job) (pics : List Pic) (shown : List Nat) (ended : Bool) : List Shown :=
  let got := (List.range j.count).filterMap (v.output j pics shown)
  let n := pics.length
  let last : Shown := got.getLast?.getD ⟨0, ⟨n, none, false⟩, ⟨n, true, false, false⟩, true⟩
  if ended then
    got ++ (List.range (j.count - got.length)).map (fun i =>
      { last with number := j.start + (got.length + i) * j.stride, missing := true })
  else got

/-- The whole job over its input bytes; none is CONTAINER. -/
def planOf (j : Job) (d : List Byte) : Plan :=
  match elementary j d with
  | none => ⟨⟨j.input, d⟩, [], [], [], some 16, 0, 0⟩
  | some ts =>
    let v : Stream := ⟨j.input, ts.payload⟩
    let dec := v.decoded j.workLen
    let shown := v.shown dec.1
    let pics := v.pictures (v.made j shown dec.1) dec.1
    ⟨v, pics, shown, v.outputs j pics shown dec.2.isNone, dec.2, ts.gaps, ts.skipped⟩

/-- R366: an output picture's rectangle does not lie within its candidate. -/
def Plan.cropBad (x : Plan) (j : Job) : Bool :=
  x.out.any (fun o => !(o.pic.mid && o.missing) &&
    (j.cropOf (x.stream.width o.pic.src) (candRows j.field (x.stream.height o.pic.src) o.cand.parity)).isNone)

/-- R377: how many pictures are reconstructed. -/
def Plan.reconstructed (x : Plan) (j : Job) : Nat :=
  ((List.range x.pics.length).filter (x.stream.made j x.shown x.pics.length)).length

end Sys2Proof.Machine
end

