-- ==== Sys2Proof/Machine/Intake.lean ====
section
/-! DEFINITION. Intake jobs (R358 to R361, R371, R373, R375 to R377): validation, start, completion. -/

namespace Sys2Proof.Machine

/-- The device addresses of stack k's stack-local window (R197). -/
def State.stackWindow (s : State) (k : Nat) : Nat × Nat :=
  let lo := memBytes - 12 * s.windowBytes + k * s.windowBytes
  (lo, lo + s.windowBytes)

/-- R354, R358: a range lies within one object, and every byte of it in stack k's window. -/
def State.inStack (s : State) (c k perm : Nat) (r : Nat × Nat) : Bool :=
  let w := s.stackWindow k
  r.2 == 0 || (s.boundsOk c r.1 r.2 perm && (List.range (r.2 / 4096 + 2)).all (fun i =>
    let a := max r.1 ((r.1 / 4096 + i) * 4096)
    let b := min (r.1 + r.2) ((r.1 / 4096 + i + 1) * 4096)
    decide (b ≤ a) || (match (s.ctx c).translate a perm with
      | some (.dram p) => decide (w.1 ≤ p) && decide (p + (b - a) ≤ w.2)
      | _ => false)))

/-- The ranges of a job that must lie in the window. -/
def State.jobInStack (s : State) (c k : Nat) (j : Job) : Bool :=
  s.inStack c k 0 (j.src, j.srcLen) && s.inStack c k 0 (j.work, j.workLen) && s.inStack c k 1 (j.work, j.workLen) &&
  s.inStack c k 1 (j.dst, j.tensorLen) && s.inStack c k 1 (j.status, 32 * j.count) && s.inStack c k 1 (j.grain, j.grainLen)

/-- R358, R360, R361, R377: a job that its headworks k finds invalid: counted, its descriptor faulted. -/
def State.badJob (s : State) (k c q : Nat) (d : BitVec 512) (code : Code) (detail : Nat) : State :=
  (s.modHeadworks k (fun h => { h with jobs := satAdd 32 h.jobs 1 })).descFault c q d code detail 0

/-- INTAKE (R358, R360, R361): the record and its ranges validated; the job waits for its headworks. -/
def execDescIntake (ctx queue : Nat) (desc : BitVec 512) (s : State) : Host.Outcome State Fault Refusal :=
  .next (s.startDesc ctx queue desc 0x04 (some kindIntake) [(260, 252)] (fun s =>
    let va := bvFld desc 192 64
    let k := bvFld desc 256 4
    if va % 256 ≠ 0 ∨ s.isFabric ctx va then s.descFault ctx queue desc .descInvalid (badField 192) 0
    else if 12 ≤ k then s.descFault ctx queue desc .descInvalid (badField 256) 0
    else if !s.inStack ctx k 0 (va, 256) then s.badJob k ctx queue desc .descBounds 0
    else match s.readStruct ctx va 256 with
    | (.error e, s) => s.structFault ctx queue desc 192 e
    | (.ok d, s) =>
      let j := jobOf d
      if jobBad d then s.badJob k ctx queue desc .descInvalid 1
      else if j.overlaps va then s.badJob k ctx queue desc .descInvalid 2
      else if !s.jobInStack ctx k j then s.badJob k ctx queue desc .descBounds 0
      else s.setWork ctx queue desc (.intake k d)))

/-! ## Start (R359, R373, R376) -/

/-- A job that waits or runs on headworks k: its record. -/
def Queue.intakeOf (q : Queue) (k : Nat) : Option (List Byte) :=
  match q.work with
  | some (.intake n d) => if n = k then some d else none
  | _ => none

/-- The queues with a job for headworks k, as 16 · context + queue. -/
def State.intakeQueues (s : State) (k : Nat) : List Nat :=
  s.ctxs.flatMap (fun e => (e.2.queues.filter (fun x => (x.2.intakeOf k).isSome)).map (fun x => 16 * e.1 + x.1))

/-- A job that fails: counted (R377), its descriptor faulted with the bytes written, its queue stopped. -/
def State.failJob (s : State) (k c q : Nat) (code : Code) (detail written : Nat) : State :=
  let s := s.modHeadworks k (fun h => { h with
    job := none, jobs := satAdd 32 h.jobs 1
    unsupported := if code = .intakeUnsupported then satAdd 32 h.unsupported 1 else h.unsupported })
  let s := s.modQueue c q (fun x => { x with work := some (.done code.value detail written), failed := false })
  s.takeFault c (some q) { faultOf code detail with queue := q, where' := (s.queue c q).c.setWidth 64 }

/-- The input bytes of a job, and what they come to. -/
def State.jobPlan (s : State) (c : Nat) (j : Job) : Except StructErr Plan × State :=
  match s.readStruct c j.src j.srcLen with
  | (.error e, s) => (.error e, s)
  | (.ok d, s) => (.ok (planOf j d), s)

def jobReadFault : StructErr → Code
  | .poison _ => .memUncorrectable
  | _ => .translationFault

/-- What stops a job before anything is written: the draw (R373), the crop (R366), or the first header (R363). -/
def Plan.stopped (x : Plan) (j : Job) : Option (Code × Nat) :=
  if x.cropBad j then some (.descInvalid, 3)
  else match x.error with
    | some e => if x.out = [] then some (.intakeUnsupported, e) else none
    | none => none

/-- INTAKE_JOB_START (R359, R373, R376): the next queue's job, round robin; a disabled headworks fails it. -/
def execIntakeJobStart (stack : Nat) (s : State) : Host.Outcome State Fault Refusal :=
  let h := s.headworks stack
  if h.job.isSome then .next s
  else match nextOf h.lastServed (s.intakeQueues stack) with
  | none => .next s
  | some n =>
    let c := n / 16
    let q := n % 16
    match (s.queue c q).intakeOf stack with
    | none => .next s
    | some d =>
      let j := jobOf d
      let s := s.modHeadworks stack (fun h => { h with job := some (c, q), lastServed := n })
      if !h.enable then .next (s.failJob stack c q .intakeUnsupported 22 0)
      else if j.shuffle ∧ shuffleDraw (s.ctx c).jobSeed j.pool j.poolN j.drawPos ≠ j.clip then
        .next (s.failJob stack c q .descInvalid 4 0)
      else match s.jobPlan c j with
      | (.error e, s) => .next (s.failJob stack c q (jobReadFault e) 0 0)
      | (.ok x, s) =>
        match x.stopped j with
        | some f => .next (s.failJob stack c q f.1 f.2 0)
        | none => .next s

/-! ## Completion (R371, R377) -/

/-- One output picture written: tensor, status and grain. -/
def State.writePicture (s : State) (c : Nat) (j : Job) (x : Plan) (draw i : Nat) (o : Shown) : Option State :=
  let s := s.writeStruct c (j.dst + 3 * i * j.planeStride) (x.stream.pictureBytes j o.cand o.pic)
  let s := s.bind (fun s => s.writeStruct c (j.status + 32 * i)
    (x.stream.statusBytes j o.number o.cand o.pic o.missing draw))
  if j.grainOut then s.bind (fun s => s.writeStruct c (j.grain + 192 * i)
    (grainBytes (if j.input = 4 then Config.videoGrain x.stream.kind x.stream.data o.cand.pic else [])))
  else s

/-- The pictures written one after another, until one cannot be: how many were. -/
def State.writePictures (s : State) (c : Nat) (j : Job) (x : Plan) (draw : Nat) : Nat × Bool × State :=
  ((List.range x.out.length).zip x.out).foldl (fun acc e =>
    if acc.2.1 then acc
    else match acc.2.2.writePicture c j x draw e.1 e.2 with
      | some s => (acc.1 + 1, false, s)
      | none => (acc.1, true, acc.2.2)) (0, false, s)

/-- R377: what a job's pictures add to the counters; GRAIN_SEEN (R376). -/
def Headworks.countJob (h : Headworks) (j : Job) (x : Plan) : Headworks :=
  { h with
    pictures := satAdd 48 h.pictures (x.reconstructed j)
    concealed := satAdd 32 h.concealed (x.pics.filter (fun p => p.concealed)).length
    propagated := satAdd 32 h.propagated (x.pics.filter (fun p => p.propagated)).length
    missing := satAdd 32 h.missing (x.out.filter (fun o => o.missing)).length
    discont := satAdd 32 h.discont x.gaps
    skipped := satAdd 48 h.skipped x.skipped
    grainSeen := h.grainSeen || (x.stream.kind == 4 &&
      (List.range x.pics.length).any (fun n => decide (Config.videoGrain x.stream.kind x.stream.data n ≠ []))) }

/-- The bytes of `n` output pictures (R371). -/
def Job.written (j : Job) (n : Nat) : Nat := n * (3 * j.planeStride + 32 + (if j.grainOut then 192 else 0))

/-- INTAKE_JOB_COMPLETION (R371): every picture is written; the job ends, with INTAKE_UNSUPPORTED where a later header
declared what is not supported. A job whose queue was stopped or destroyed meanwhile is over. -/
def execIntakeJobCompletion (stack : Nat) (s : State) : Host.Outcome State Fault Refusal :=
  match (s.headworks stack).job with
  | none => .next s
  | some (c, q) =>
    match (s.queue c q).intakeOf stack with
    | none => .next (s.modHeadworks stack (fun h => { h with job := none, jobs := satAdd 32 h.jobs 1 }))
    | some d =>
      let j := jobOf d
      match s.jobPlan c j with
      | (.error e, s) => .next (s.failJob stack c q (jobReadFault e) 0 0)
      | (.ok x, s) =>
        let draw := if j.shuffle then shuffleDraw (s.ctx c).jobSeed j.pool j.poolN j.drawPos else 0
        let w := s.writePictures c j x draw
        let s := w.2.2.modHeadworks stack (fun h => h.countJob j x)
        if w.2.1 then .next (s.failJob stack c q .translationFault 0 (j.written w.1))
        else match x.error with
        | some e => .next (s.failJob stack c q .intakeUnsupported e (j.written w.1))
        | none =>
          let s := s.modHeadworks stack (fun h => { h with job := none, jobs := satAdd 32 h.jobs 1 })
          .next (s.modQueue c q (fun y => { y with work := some (.done 0 0 (j.written w.1)) }))

end Sys2Proof.Machine
end

