-- ==== Sys2Proof/Machine/Flags.lean ====
section
/-! DEFINITION. Fields of registers and their access codes (R13). -/

namespace Sys2Proof.Machine

/-- The access codes of R13. -/
inductive Acc
  | rw | ro | w1c | w1s | wo | res
  deriving DecidableEq, Repr

/-- A field: lowest bit, width, access. -/
structure Fld where
  lo  : Nat
  w   : Nat
  acc : Acc
  deriving DecidableEq, Repr

def Fld.mask (f : Fld) : Nat := (2 ^ f.w - 1) * 2 ^ f.lo
def Fld.get (f : Fld) (v : Nat) : Nat := fld v f.lo f.w

/-- The register with a field set to `x`. -/
def Fld.put (f : Fld) (v x : Nat) : Nat := v - f.get v * 2 ^ f.lo + x % 2 ^ f.w * 2 ^ f.lo

/-- R470: the field lies wholly within the bits written. -/
def Fld.within (f : Fld) (mask : Nat) : Bool := f.mask &&& mask == f.mask

/-- R13: what a field holds after a write of `v`. -/
def Fld.written (f : Fld) (v old : Nat) : Nat :=
  match f.acc with
  | .rw => f.get v
  | .w1c => (List.range f.w).foldl (fun a i => if bit (f.get old) i && !bit (f.get v) i then a + 2 ^ i else a) 0
  | .w1s => f.get old ||| f.get v
  | .ro | .wo | .res => f.get old

/-- What a register holds after a write of `v` in the bits of `mask`: only the fields whose code permits it change. -/
def writeFields (fs : List Fld) (mask v old : Nat) : Nat :=
  fs.foldl (fun a f => if f.within mask then f.put a (f.written v old) else a) old

/-- The bits of WO fields written 1: the actions a write performs. -/
def writeActions (fs : List Fld) (mask v : Nat) : Nat :=
  fs.foldl (fun a f => if f.within mask && f.acc == .wo then a + f.get v * 2 ^ f.lo else a) 0

/-- R13: what a read returns of a register that holds `v`: nothing of WO and RES fields. -/
def readFields (fs : List Fld) (v : Nat) : Nat :=
  fs.foldl (fun a f => match f.acc with
    | .wo | .res => a
    | _ => a + f.get v * 2 ^ f.lo) 0

/-- The bits of the fields that span bit 32 (R470). -/
def spanMask (fs : List Fld) : Nat :=
  fs.foldl (fun a f => if f.lo < 32 ∧ 32 < f.lo + f.w then a + f.mask else a) 0

end Sys2Proof.Machine
end

