-- ==== Sys2Proof/Machine/Registers.lean ====
section
/-! DEFINITION. The set-up register map (R469 to R489): every register of BAR0, what it reads, what a write of its fields
does (R13), accesses of 4 and 8 bytes (R470), and the row REGISTER_WRITE. -/

namespace Sys2Proof.Machine

/-- The registers. Numbers are the stack, slice, port, function or entry, then the counter's slot or the word of a
bitmap. -/
inductive Reg
  | devInfo | devCtl | devStatus | devAlert | serial (i : Nat) | param (i : Nat)
  | secStatus | secCtl | fwCtl | fwStatus | fmRejected
  | ctxTableBase | bar4Window | bar4Blocked
  | memLayout | cacheCtl | stackCounter (k i : Nat) | cisternCounter (k i : Nat)
  | syncTableBase | syncCounter (k i : Nat)
  | fabCtl | fabIdent | portStatus (p : Nat) | chainCtl (p : Nat) | chainStatus (p : Nat) | portCounter (p i : Nat)
  | timedCtl | tickEpoch | tickOffset | tickWetOffset | linkClass (p : Nat)
  | weirCtl | weirStatus | powerCap | thermStatus | powerCounter (i : Nat)
  | seepBudget | seepCounter (i : Nat)
  | gaugeCtl | gaugeStatus | gaugeAt | gaugeBase | gaugeExport
  | hdwkCtl (k : Nat) | hdwkCounter (k i : Nat)
  | fnAdminBase (f : Nat) | fnAdminSize (f : Nat) | fnAdminDoorbell (f : Nat) | fnAdminConsumer (f : Nat)
  | fnDiscarded (f : Nat) | fnBar0Bad (f : Nat) | fnParam (f i : Nat) | fnFaultPending (f i : Nat)
  | fnPba (f i : Nat) | fnMsix (f entry word : Nat)
  deriving DecidableEq, Repr

/-! ## The map (R469, R478, R483 to R487) -/

/-- A 64-bit register at `base`: its half at offset `o`. -/
def half64 (o base : Nat) (r : Reg) : Option (Reg × Nat) :=
  if o = base then some (r, 0) else if o = base + 4 then some (r, 32) else none

/-- `n` registers of `w` bytes from `base`. -/
def rows (o base w n : Nat) (r : Nat → Reg) : Option (Reg × Nat) :=
  if base ≤ o ∧ o < base + w * n then some (r ((o - base) / w), (o - base) % w * 8) else none

/-- Counters of `n` instances, `slots` of 8 bytes each, `stride` apart (R470). -/
def slots (o base stride n slots_ : Nat) (r : Nat → Nat → Reg) : Option (Reg × Nat) :=
  if base ≤ o ∧ o < base + stride * n ∧ (o - base) % stride < 8 * slots_ then
    some (r ((o - base) / stride) ((o - base) % stride / 8), o % 8 * 8)
  else none

/-- R478. -/
def devReg (o : Nat) : Option (Reg × Nat) :=
  rows o 0 4 4 (fun i => [Reg.devInfo, .devCtl, .devStatus, .devAlert].getD i .devInfo) <|>
  rows o 0x10 4 4 .serial <|> rows o 0x100 4 12 .param

/-- R483. -/
def secReg (o : Nat) : Option (Reg × Nat) :=
  half64 o 0 .secStatus <|> rows o 8 4 3 (fun i => [Reg.secCtl, .fwCtl, .fwStatus].getD i .secCtl) <|> half64 o 0x18 .fmRejected

/-- R484, R485. -/
def hostReg (o : Nat) : Option (Reg × Nat) :=
  half64 o 0 .ctxTableBase <|> half64 o 8 .bar4Window <|> half64 o 0x10 .bar4Blocked

def memReg (o : Nat) : Option (Reg × Nat) :=
  rows o 0 4 2 (fun i => if i = 0 then .memLayout else .cacheCtl) <|>
  slots o 0x1000 0x100 12 7 .stackCounter <|> slots o 0x2000 0x100 4 7 .cisternCounter

def syncReg (o : Nat) : Option (Reg × Nat) := half64 o 0 .syncTableBase <|> slots o 0x1000 0x100 12 6 .syncCounter

/-- R486. -/
def fabReg (o : Nat) : Option (Reg × Nat) :=
  rows o 0 4 1 (fun _ => .fabCtl) <|> half64 o 8 .fabIdent <|> rows o 0x100 8 16 .portStatus <|>
  rows o 0x200 4 2 (fun i => .chainCtl (16 + i)) <|> rows o 0x208 4 2 (fun i => .chainStatus (16 + i)) <|>
  slots o 0x1000 0x40 18 5 .portCounter

def timedReg (o : Nat) : Option (Reg × Nat) :=
  rows o 0 4 2 (fun i => if i = 0 then .timedCtl else .tickEpoch) <|> half64 o 8 .tickOffset <|>
  half64 o 0x10 .tickWetOffset <|> rows o 0x100 4 18 .linkClass

def powerReg (o : Nat) : Option (Reg × Nat) :=
  rows o 0 4 2 (fun i => if i = 0 then .weirCtl else .weirStatus) <|> half64 o 8 .powerCap <|>
  rows o 0x10 4 1 (fun _ => .thermStatus) <|> rows o 0x100 8 8 .powerCounter

def seepReg (o : Nat) : Option (Reg × Nat) := rows o 0 4 1 (fun _ => .seepBudget) <|> rows o 0x100 8 4 .seepCounter

def gaugeReg (o : Nat) : Option (Reg × Nat) :=
  rows o 0 4 2 (fun i => if i = 0 then .gaugeCtl else .gaugeStatus) <|> half64 o 8 .gaugeAt <|> half64 o 0x10 .gaugeBase <|>
  half64 o 0x18 .gaugeExport

def hdwkReg (o : Nat) : Option (Reg × Nat) := rows o 0 4 12 .hdwkCtl <|> slots o 0x1000 0x100 12 8 .hdwkCounter

/-- R487: the PF's bitmaps and table are longer than a VF's. -/
def fnReg (f o : Nat) : Option (Reg × Nat) :=
  half64 o 0 (.fnAdminBase f) <|> rows o 8 4 1 (fun _ => .fnAdminSize f) <|> half64 o 0x10 (.fnAdminDoorbell f) <|>
  rows o 0x18 4 1 (fun _ => .fnAdminConsumer f) <|> half64 o 0x20 (.fnDiscarded f) <|> half64 o 0x28 (.fnBar0Bad f) <|>
  rows o 0x100 4 12 (.fnParam f) <|> rows o 0x200 4 (if f = 0 then 128 else 2) (.fnFaultPending f) <|>
  rows o 0x400 4 (if f = 0 then 64 else 1) (.fnPba f) <|>
  rows o 0x8000 4 (4 * (if f = 0 then 2048 else 32)) (fun i => .fnMsix f (i / 4) (i % 4))

/-- The register at an offset of the PF's BAR0, and 32 for the upper half of a 64-bit one. -/
def regAt (a : Nat) : Option (Reg × Nat) :=
  let o := a % 65536
  if a % 4 ≠ 0 then none
  else match a / 65536 with
  | 0 => devReg o
  | 1 => secReg o
  | 2 => hostReg o
  | 3 => memReg o
  | 4 => syncReg o
  | 5 => fabReg o
  | 6 => timedReg o
  | 7 => powerReg o
  | 8 => seepReg o
  | 9 => gaugeReg o
  | 10 => hdwkReg o
  | b => if 0x100 ≤ b ∧ b < 0x140 then fnReg (b - 0x100) o else none

/-! ## Fields (R464 to R467, R221, R222, R283 to R285, R307 to R309, R333, R376, R406, R429 to R432, R478 to R487) -/

def ro (lo w : Nat) : Fld := ⟨lo, w, .ro⟩
def rw (lo w : Nat) : Fld := ⟨lo, w, .rw⟩
def w1c (lo w : Nat) : Fld := ⟨lo, w, .w1c⟩
def wo (lo w : Nat) : Fld := ⟨lo, w, .wo⟩

/-- Widths of the counters (R223, R334, R377, R407, R433, R486). -/
def memWidths : List Nat := [48, 48, 48, 48, 32, 32, 48]
def syncWidths : List Nat := [48, 32, 32, 32, 32, 16]
def hdwkWidths : List Nat := [32, 48, 32, 32, 32, 32, 48, 32]
def seepWidths : List Nat := [48, 32, 32, 32]
def powerWidths : List Nat := [64, 32, 32, 32, 48, 32, 32, 32]
def portWidths : List Nat := [48, 48, 32, 32, 48]

def Reg.fields : Reg → List Fld
  | .devInfo => [ro 0 16, ro 16 8]
  | .devCtl => [wo 0 1]
  | .devStatus => [ro 0 7]
  | .devAlert => [w1c 0 7]
  | .serial _ | .param _ | .fnParam .. => [ro 0 32]
  | .secStatus => [ro 0 3, ro 3 1, ro 4 2, ro 6 3, w1c 9 1, ro 16 16, ro 32 32]
  | .secCtl => [rw 0 1, rw 1 2, wo 3 1]
  | .fwCtl => [wo 0 1, wo 1 1, rw 8 16]
  | .fwStatus => [ro 0 4, ro 4 4, ro 8 8, ro 16 16]
  | .fmRejected | .bar4Blocked | .fnDiscarded _ | .fnBar0Bad _ => [ro 0 32]
  | .ctxTableBase => [rw 0 1, ro 1 1, rw 24 16, ro 40 16]
  | .bar4Window => [rw 21 19]
  | .memLayout => [rw 0 8, ro 8 8, w1c 16 1]
  | .cacheCtl => [rw 0 4, rw 4 1, w1c 5 1, wo 6 1, ro 7 1]
  | .stackCounter _ i | .cisternCounter _ i => [ro 0 (memWidths.getD i 0)]
  | .syncTableBase => [rw 0 1, ro 1 1, rw 22 18, ro 40 18]
  | .syncCounter _ i => [ro 0 (syncWidths.getD i 0)]
  | .fabCtl => [rw 0 8, rw 8 16, rw 24 1]
  | .fabIdent => [ro 0 16, ro 16 7, ro 23 1, ro 24 16, ro 40 1]
  | .portStatus _ => [ro 0 3, w1c 3 1, ro 16 16]
  | .chainCtl _ => [rw 0 1, rw 1 1, wo 2 1]
  | .chainStatus _ => [ro 0 4, w1c 4 1, ro 8 8, ro 16 16]
  | .portCounter _ i => [ro 0 (portWidths.getD i 0)]
  | .timedCtl => [rw 0 5, rw 16 16]
  | .tickEpoch => [ro 0 7, w1c 7 1, ro 8 18]
  | .tickOffset | .tickWetOffset => [ro 0 64]
  | .linkClass _ => [rw 0 8, ro 8 8, ro 16 8, ro 24 3]
  | .weirCtl => [rw 0 1, rw 1 5, rw 6 6, rw 12 1]
  | .weirStatus => [ro 0 20, w1c 20 1, ro 21 1]
  | .powerCap => [rw 0 12, ro 12 12, ro 24 12, w1c 36 1]
  | .thermStatus => [ro 0 24, w1c 24 1, ro 25 1]
  | .powerCounter i => [ro 0 (powerWidths.getD i 0)]
  | .seepBudget => [rw 0 3, rw 8 8, rw 16 8, ro 24 1]
  | .seepCounter i => [ro 0 (seepWidths.getD i 0)]
  | .gaugeCtl => [rw 0 1, rw 1 5, rw 6 1, rw 7 1, wo 8 1, rw 9 1]
  | .gaugeStatus => [ro 0 12, w1c 12 1, ro 16 16]
  | .gaugeAt => [rw 0 64]
  | .gaugeBase => [rw 0 18, ro 18 18]
  | .gaugeExport => [rw 0 3, rw 3 12, rw 15 24, wo 39 1, ro 40 1, w1c 41 1]
  | .hdwkCtl _ => [rw 0 1, ro 1 1, w1c 2 1]
  | .hdwkCounter _ i => [ro 0 (hdwkWidths.getD i 0)]
  | .fnAdminBase _ => [rw 6 58]
  | .fnAdminSize _ => [rw 0 5, rw 31 1]
  | .fnAdminDoorbell _ => [wo 0 64]
  | .fnAdminConsumer _ => [ro 0 32]
  | .fnFaultPending .. => [w1c 0 32]
  | .fnPba .. => [ro 0 32]
  | .fnMsix .. => [rw 0 32]

/-- Width in bits (R470: a counter occupies a slot of 8 bytes). -/
def Reg.width : Reg → Nat
  | .secStatus | .fmRejected | .ctxTableBase | .bar4Window | .bar4Blocked | .stackCounter .. | .cisternCounter ..
  | .syncTableBase | .syncCounter .. | .fabIdent | .portStatus _ | .portCounter .. | .tickOffset | .tickWetOffset
  | .powerCap | .powerCounter _ | .seepCounter _ | .gaugeAt | .gaugeBase | .gaugeExport | .hdwkCounter ..
  | .fnAdminBase _ | .fnAdminDoorbell _ | .fnDiscarded _ | .fnBar0Bad _ => 64
  | _ => 32

/-- R472, R476: a register of the Halnor domain that host software writes, or one with staged fields: its writes are
held during a firmware reload. -/
def Reg.halnorHeld : Reg → Bool
  | .devAlert | .secStatus | .secCtl | .fwCtl | .fwStatus | .fmRejected | .weirCtl | .weirStatus | .powerCap
  | .thermStatus | .powerCounter _ | .seepBudget | .seepCounter _ | .gaugeCtl | .gaugeStatus | .gaugeAt | .gaugeBase
  | .gaugeExport | .memLayout | .syncTableBase | .ctxTableBase => true
  | _ => false

/-! ## Values -/

/-- Fields (lowest bit, value) put together. -/
def packed (l : List (Nat × Nat)) : Nat := l.foldl (fun a f => a + f.2 * 2 ^ f.1) 0
def flagAt (i : Nat) (b : Bool) : Nat × Nat := (i, ofBool b)

def MemCounters.list (m : MemCounters) : List Nat :=
  [m.keepDemoted, m.keepPressure, m.deadDrops, m.ceSectors, m.ueSectors, m.poisonReads, m.waitOverflow]
def SyncCounters.list (m : SyncCounters) : List Nat :=
  [m.signals, m.regressions, m.deniedIn, m.doubleArrivals, m.waiterOverflow, m.waitersHigh]
def Headworks.list (h : Headworks) : List Nat :=
  [h.jobs, h.pictures, h.concealed, h.propagated, h.missing, h.discont, h.skipped, h.unsupported]
def Power.list (p : Power) : List Nat :=
  [p.dryTicks, p.lateContrib, p.agreementLost, p.capUnattEvents, p.throttlePeriods, p.droopEvents, p.phyTrims, p.phasesUnlearned]
def Halnor.seepList (h : Halnor) : List Nat := [h.seepUnits, h.seepSkipped, h.seepSuspicions, h.seepAlarms]
def Port.list (p : Port) : List Nat := [p.frameRetries, p.ceFrames, p.downEvents, p.laneMoves, p.resends]

/-- SEC_STATUS.POWER_STATE (R464). -/
def powerStateCode : PState → Nat
  | .off => 0
  | .aux => 1
  | .ready => 2
  | .run => 3
  | .hold => 4

/-- R15: a field of the part record reads zero while the record is rejected; so it does in BLANK when the record fails its
checks (DEDUCED, assumption 139: R441 calls a record rejected only with PROV burned). -/
def State.ofRecord (s : State) (v : Nat) : Nat := if s.sec.recordOk then v else 0

/-- One 32-bit word of a bitmap given by its members. -/
def wordOf (l : List Nat) (i : Nat) : Nat := ((List.range 32).filter (fun b => l.elem (32 * i + b))).foldl (fun a b => a + 2 ^ b) 0

/-- A word of the MSI-X table (PCI Express): address, data, vector control. -/
def Vector.word (v : Vector) (i : Nat) : Nat :=
  match i with
  | 0 => v.addr.toNat % 2 ^ 32
  | 1 => v.addr.toNat / 2 ^ 32
  | 2 => v.data.toNat
  | _ => ofBool v.masked

/-- What a register holds, its WO and RES bits apart. -/
def State.regValue (s : State) : Reg → Nat
  | .devInfo => packed [(0, s.ofRecord s.mod.record.variant), (16, 1)]
  | .devCtl => 0
  | .devStatus => packed [flagAt 0 s.mod.tickref, flagAt 1 s.mod.locked, flagAt 2 s.mod.memTrained, flagAt 3 s.sec.recordOk,
      flagAt 4 s.hal.layoutConflict, flagAt 5 s.hal.reloading, flagAt 6 s.hal.resetBusy]
  | .devAlert => s.hal.devAlert.toNat
  | .serial i => s.ofRecord (bvFld s.mod.record.serial (32 * i) 32)
  | .param i | .fnParam _ i => s.ofRecord (s.mod.record.params.getD i 0)
  | .secStatus => packed [(0, s.lifecycle), flagAt 3 s.sec.inserviceLost, (4, s.sec.level), (6, powerStateCode s.mod.state),
      flagAt 9 s.sec.levelDenied, (16, s.sec.tokenRefused), (32, s.sec.remaining)]
  | .secCtl => packed [flagAt 0 s.sec.computeEnable, (1, s.sec.levelReq)]
  | .fwCtl => packed [(8, s.sec.fwLength)]
  | .fwStatus => packed [(0, s.sec.fwState), (4, s.sec.fwError), (8, s.sec.fwAttempts), (16, s.sec.fwSvn)]
  | .fmRejected => s.fab.rejected
  | .ctxTableBase => packed [flagAt 0 s.ctxEnable, flagAt 1 s.ctxActive, (24, s.ctxBase), (40, s.ctxBaseActive)]
  | .bar4Window => packed [(21, s.bar4Base)]
  | .bar4Blocked => s.bar4Blocked
  | .memLayout => packed [(0, s.stackLocal), (8, s.localActive), flagAt 16 s.layoutRejected]
  | .cacheCtl => packed [(0, s.keepCap), flagAt 4 s.deadPoison, flagAt 5 s.capClamped, flagAt 7 s.keepSweep.isSome]
  | .stackCounter k i => (tabGet s.memCounters MemCounters.zero k).list.getD i 0
  | .cisternCounter k i => if i = 3 ∨ i = 4 then 0 else (tabGet s.cisCounters MemCounters.zero k).list.getD i 0
  | .syncTableBase => packed [flagAt 0 s.sync.enable, flagAt 1 s.sync.active, (22, s.sync.base), (40, s.sync.baseActive)]
  | .syncCounter k i => (tabGet s.sync.counters SyncCounters.zero k).list.getD i 0
  | .fabCtl => packed [(0, s.fab.reqTimeout), (8, s.fab.retainGrace), flagAt 24 s.fab.pathAdapt]
  | .fabIdent => packed [(0, s.fab.deviceId), (16, s.fab.domainSlot), flagAt 23 s.fab.valid, (24, s.fab.partition),
      flagAt 40 s.fab.partValid]
  | .portStatus p =>
    let x := s.port p
    packed [flagAt 0 x.up, flagAt 1 x.inPath, flagAt 2 x.spare, flagAt 3 x.trainFailed, (16, x.peerId)]
  | .chainCtl p => packed [flagAt 0 (s.port p).enable, flagAt 1 (s.port p).compress]
  | .chainStatus p =>
    let x := s.port p
    packed [flagAt 0 s.mod.chainActive, flagAt 1 x.loopback, flagAt 2 x.up, flagAt 3 x.spare, flagAt 4 x.trainFailed,
      (8, x.cls), (16, x.peerId)]
  | .portCounter p i => (s.port p).list.getD i 0
  | .timedCtl => packed [(0, s.timed.wdogExp), (16, s.timed.refDomain)]
  | .tickEpoch => packed ([flagAt 0 s.timed.valid, flagAt 1 s.timed.root, (2, if s.timed.root then 31 else s.timed.parent),
      flagAt 7 s.timed.refDrift] ++ (List.range 18).map (fun p => flagAt (8 + p) (s.port p).unfit))
  | .tickOffset => if s.timed.valid then s.timed.offset.toNat else 0
  | .tickWetOffset => if s.timed.valid then s.timed.wetOffset.toNat else 0
  | .linkClass p =>
    let x := s.port p
    packed [(0, x.floor), (8, x.cls), (16, x.vis), flagAt 24 x.held, flagAt 25 x.unfit, flagAt 26 x.refOk]
  | .weirCtl => packed [flagAt 0 s.power.enable, (1, s.power.guard), (6, s.power.minRatio), flagAt 12 s.power.predict]
  | .weirStatus => packed [(0, s.power.applied), (6, s.power.own), (12, s.power.thermal), flagAt 18 s.power.agreed,
      flagAt 19 s.power.unatt, flagAt 20 s.power.unattSeen, flagAt 21 s.power.predicted]
  | .powerCap => packed [(0, s.power.hostCap), (12, s.power.mgmtCap), (24, s.power.effective), flagAt 36 s.power.capRejected]
  | .thermStatus => packed ([(0, s.power.junctionMax % 256), (8, s.power.stackMax % 256)] ++
      (List.range 4).map (fun d => (16 + 2 * d, s.power.bands.getD d 0)) ++
      [flagAt 24 s.power.tripped, flagAt 25 (decide (0 < s.power.thermal))])
  | .powerCounter i => s.power.list.getD i 0
  | .seepBudget => packed [(0, s.hal.seepLevel), (8, s.hal.nSteps), (16, s.hal.pondW),
      flagAt 24 (s.hal.seepLevel != 0 && decide (s.hal.pondW < s.hal.nSteps))]
  | .seepCounter i => s.hal.seepList.getD i 0
  | .gaugeCtl => packed [flagAt 0 s.gauge.enable, (1, s.gauge.sources.toNat), flagAt 6 s.gauge.scope, flagAt 7 s.gauge.holdAfter,
      flagAt 9 s.gauge.keepUnread]
  | .gaugeStatus => packed [(0, s.gauge.lastSlot), (3, s.gauge.unread.toNat), flagAt 11 (decide (s.gauge.pending ≠ [])),
      flagAt 12 s.gauge.late, (16, s.gauge.dropped)]
  | .gaugeAt => s.gauge.atTick.toNat
  | .gaugeBase => packed [(0, s.gauge.base), (18, s.gauge.baseActive)]
  | .gaugeExport => packed [(0, s.gauge.expSlot), (3, s.gauge.expCtx), (15, s.gauge.expObj), flagAt 40 s.gauge.expDone,
      flagAt 41 s.gauge.expDenied]
  | .hdwkCtl k => packed [flagAt 0 (s.headworks k).enable, flagAt 1 (s.headworks k).job.isSome, flagAt 2 (s.headworks k).grainSeen]
  | .hdwkCounter k i => (s.headworks k).list.getD i 0
  | .fnAdminBase f => (s.fn f).adminBase.toNat
  | .fnAdminSize f => packed [(0, (s.fn f).log2), flagAt 31 (s.fn f).enable]
  | .fnAdminDoorbell _ => 0
  | .fnAdminConsumer f => (s.fn f).c.toNat
  | .fnDiscarded f => (s.fn f).discarded
  | .fnBar0Bad f => (s.fn f).bar0Bad
  | .fnFaultPending f i => wordOf (s.fn f).pendingFaults i
  | .fnPba f i => wordOf (((s.fn f).vectors.filter (fun e => e.2.pending)).map (fun e => e.1)) i
  | .fnMsix f e w => (tabGet (s.fn f).vectors Vector.reset e).word w

/-- R13: what a read of a register returns. -/
def State.readReg (s : State) (r : Reg) : Nat := readFields r.fields (s.regValue r)

/-! ## Writes -/

/-- R418, R430: HOST_CAP, and CAP_REJECTED cleared before it may be set. -/
def State.writePowerCap (s : State) (new mask : Nat) : State :=
  let s := s.modPower (fun p => { p with capRejected := bit new 36 })
  if (rw 0 12).within mask then doHostCapWrite (fld new 0 12) s else s

/-- R221. -/
def State.writeMemLayout (s : State) (new : Nat) : State :=
  let v := fld new 0 8
  if 128 < v then { s with layoutRejected := true } else { s with stackLocal := v, layoutRejected := bit new 16 }

/-- R222: a KEEP_CAP above 12 stores 12; a KEEP_CLEAR while a sweep runs has no effect. -/
def State.writeCacheCtl (s : State) (new acts : Nat) : State :=
  let v := fld new 0 4
  let s : State := { s with keepCap := min v 12, deadPoison := bit new 4, capClamped := bit new 5 || decide (12 < v) }
  if bit acts 6 && s.keepSweep.isNone then doKeepClear s else s

/-- R283, R257: with PATH_ADAPT cleared, uniform weighting is held. -/
def State.writeFabCtl (s : State) (new : Nat) : State :=
  let was := s.fab.pathAdapt
  let s := s.modFab (fun f => { f with
    reqTimeout := if fld new 0 8 = 0 then f.reqTimeout else fld new 0 8, retainGrace := fld new 8 16, pathAdapt := bit new 24 })
  if was && !s.fab.pathAdapt && s.fab.partValid then s.setPath uniformPath else s

/-- R285. -/
def State.writeChainCtl (s : State) (p new old acts : Nat) : State :=
  let s := s.modPort p (fun x => { x with compress := bit new 1 })
  let s := if bit new 0 != bit old 0 then doChainEnableWrite (p == 17) (bit new 0) s else s
  if bit acts 2 then doRetrain (p == 17) s else s

/-- R465: a LEVEL_REQ that changes is a request; COMPUTE_ENABLE acts as its rows do. -/
def State.writeSecCtl (s : State) (mask new old acts : Nat) : State :=
  let s := if (rw 0 1).within mask then (if bit new 0 then doComputeEnableSet s else doComputeEnableClear s) else s
  let s := if fld new 1 2 ≠ fld old 1 2 then doLevelReq (fld new 1 2) s else s
  if bit acts 3 then doEndDebug s else s

/-- R467: a change of ENABLE, SOURCES or SCOPE arms the scheduled gauge anew. -/
def State.writeGaugeCtl (s : State) (new old acts : Nat) : State :=
  let s := s.modGauge (fun g => { g with
    enable := bit new 0, sources := BitVec.ofNat 5 (fld new 1 5), scope := bit new 6, holdAfter := bit new 7, keepUnread := bit new 9 })
  let s := if fld new 0 7 ≠ fld old 0 7 then s.armAt else s
  if bit acts 8 then doGaugeTrigger s else s

/-- R467, R459. -/
def State.writeGaugeExport (s : State) (fn new acts : Nat) : State :=
  let s := s.modGauge (fun g => { g with
    expSlot := fld new 0 3, expCtx := fld new 3 12, expObj := fld new 15 24, expDenied := bit new 41 })
  if bit acts 39 then doGaugeExportGo fn s else s

/-- R406. -/
def State.writeSeepBudget (s : State) (new : Nat) : State :=
  s.modHal (fun h => { h with
    seepLevel := if 5 < fld new 0 3 then h.seepLevel else fld new 0 3, nSteps := fld new 8 8
    pondW := if fld new 16 8 = 0 then h.pondW else fld new 16 8 })

/-- R429. -/
def State.writeWeirCtl (s : State) (new : Nat) : State :=
  s.modPower (fun p => { p with
    enable := bit new 0, guard := fld new 1 5, minRatio := if 60 < fld new 6 6 then p.minRatio else fld new 6 6
    predict := bit new 12 })

/-- A word of an MSI-X vector; a vector unmasked with a message held back sends it (R349). -/
def State.writeMsix (s : State) (f e w new : Nat) : State :=
  let v := tabGet (s.fn f).vectors Vector.reset e
  let v : Vector := match w with
    | 0 => { v with addr := BitVec.ofNat 64 (v.addr.toNat / 2 ^ 32 * 2 ^ 32 + new) }
    | 1 => { v with addr := BitVec.ofNat 64 (new * 2 ^ 32 + v.addr.toNat % 2 ^ 32) }
    | 2 => { v with data := BitVec.ofNat 32 new }
    | _ => { v with masked := bit new 0 }
  let send := v.pending && !v.masked && (s.fn f).msixEnable && !(s.fn f).funcMask
  let s := s.modFn f (fun x => { x with vectors := tabSet x.vectors Vector.reset e { v with pending := v.pending && !send } })
  if send then s.emit (.msix f e) else s

/-- The effect of a register's new content: `mask` holds the bits written, `acts` the actions asked for. -/
def State.commitReg (s : State) (fn : Nat) (r : Reg) (mask new old acts v : Nat) : State :=
  match r with
  | .devCtl => if bit acts 0 then doDeviceReset s else s
  | .devAlert => s.modHal (fun h => { h with devAlert := BitVec.ofNat 7 new })
  | .secStatus => s.modSec (fun x => { x with levelDenied := bit new 9 })
  | .secCtl => s.writeSecCtl mask new old acts
  | .fwCtl =>
    let s := s.modSec (fun x => { x with fwLength := fld new 8 16 })
    let s := if bit acts 1 then doFwCtlAbort s else s
    if bit acts 0 then doFwCtlGo s.windowImage s else s
  | .ctxTableBase =>
    let b := fld new 24 16
    { s with ctxEnable := bit new 0, ctxBase := if (b + 1) * 2 ^ 24 ≤ memBytes then b else s.ctxBase }
  | .bar4Window => doBar4WindowWrite (fld new 21 19) s
  | .memLayout => s.writeMemLayout new
  | .cacheCtl => s.writeCacheCtl new acts
  | .syncTableBase =>
    let b := fld new 22 18
    s.modSync (fun y => { y with enable := bit new 0, base := if (b + 1) * 2 ^ 22 ≤ memBytes then b else y.base })
  | .fabCtl => s.writeFabCtl new
  | .portStatus p => s.modPort p (fun x => { x with trainFailed := bit new 3 })
  | .chainCtl p => s.writeChainCtl p new old acts
  | .chainStatus p => s.modPort p (fun x => { x with trainFailed := bit new 4 })
  | .timedCtl =>
    let w := fld new 0 5
    s.modTimed (fun t => { t with wdogExp := if 16 ≤ w ∧ w ≤ 30 then w else t.wdogExp, refDomain := fld new 16 16 })
  | .tickEpoch => s.modTimed (fun t => { t with refDrift := bit new 7 })
  | .linkClass p => s.modPort p (fun x => { x with floor := if 252 < fld new 0 8 then x.floor else fld new 0 8 })
  | .weirCtl => s.writeWeirCtl new
  | .weirStatus => s.modPower (fun p => { p with unattSeen := bit new 20 })
  | .powerCap => s.writePowerCap new mask
  | .thermStatus => if bit old 24 && !bit new 24 then doTrippedClear s else s
  | .seepBudget => s.writeSeepBudget new
  | .gaugeCtl => s.writeGaugeCtl new old acts
  | .gaugeStatus => s.modGauge (fun g => { g with late := bit new 12 })
  | .gaugeAt => if (rw 0 64).within mask then (s.modGauge (fun g => { g with atTick := BitVec.ofNat 64 new })).armAt else s
  | .gaugeBase => s.modGauge (fun g => { g with base := fld new 0 18 })
  | .gaugeExport => s.writeGaugeExport fn new acts
  | .hdwkCtl k => s.modHeadworks k (fun h => { h with enable := bit new 0, grainSeen := bit new 2 })
  | .fnAdminBase f => s.modFn f (fun x => if x.enable then x else { x with adminBase := BitVec.ofNat 64 new })
  | .fnAdminSize f => doAdminQueueEnable f (bit new 31) (fld new 0 5) s
  | .fnAdminDoorbell f => if (wo 0 64).within mask then doAdminDoorbell f 8 (BitVec.ofNat 64 v) s else s
  | .fnFaultPending f i =>
    s.modFn f (fun x => { x with pendingFaults := x.pendingFaults.filter (fun b => b / 32 != i || bit new (b % 32)) })
  | .fnMsix f e w => s.writeMsix f e w new
  | .devInfo | .devStatus | .serial _ | .param _ | .fwStatus | .fmRejected | .bar4Blocked | .stackCounter ..
  | .cisternCounter .. | .syncCounter .. | .fabIdent | .portCounter .. | .tickOffset | .tickWetOffset | .powerCounter _
  | .seepCounter _ | .hdwkCounter .. | .fnAdminConsumer _ | .fnDiscarded _ | .fnBar0Bad _ | .fnParam .. | .fnPba .. => s

/-- R13: a write of `v` in the bits of `mask`. -/
def State.writeReg (s : State) (fn : Nat) (r : Reg) (mask v : Nat) : State :=
  s.commitReg fn r mask (writeFields r.fields mask v (s.regValue r)) (s.regValue r) (writeActions r.fields mask v) v

/-! ## Accesses (R470, R471, R475 to R477) -/

def State.dropHalf (s : State) (fn : Nat) : State := s.modHal (fun h => { h with half := h.half.filter (fun x => x.fn != fn) })

def lowMask : Nat := 2 ^ 32 - 1
def highMask : Nat := lowMask * 2 ^ 32

/-- A write of 4 bytes: fields wholly within the half written change; a field across bit 32 changes when its upper half
follows its lower half, which no write to another register has parted. -/
def State.write4 (s : State) (fn a v : Nat) : State :=
  match regAt a with
  | none => s
  | some (r, 0) =>
    let s := s.dropHalf fn
    let s := if spanMask r.fields = 0 then s
      else s.modHal (fun h => { h with half := h.half ++ [⟨fn, a, 4, BitVec.ofNat 64 v⟩] })
    s.writeReg fn r lowMask v
  | some (r, _) =>
    let held := s.hal.half.find? (fun h => h.fn == fn && h.offset == a - 4)
    let s := s.dropHalf fn
    match held with
    | some h => s.writeReg fn r (highMask ||| spanMask r.fields) (v * 2 ^ 32 + h.value.toNat)
    | none => s.writeReg fn r highMask (v * 2 ^ 32)

/-- A write of 4 or 8 aligned bytes; 8 bytes over two 32-bit registers are two writes, the lower address first. -/
def State.busWrite (s : State) (fn a size v : Nat) : State :=
  if size = 4 then s.write4 fn a (v % 2 ^ 32)
  else match regAt a with
  | some (r, 0) =>
    if r.width = 64 then (s.dropHalf fn).writeReg fn r (lowMask + highMask) v
    else (s.write4 fn a (v % 2 ^ 32)).write4 fn (a + 4) (v / 2 ^ 32 % 2 ^ 32)
  | _ => (s.write4 fn a (v % 2 ^ 32)).write4 fn (a + 4) (v / 2 ^ 32 % 2 ^ 32)

/-- R469: the offset in the PF's BAR0 that a function's access names; none beyond its BAR0. -/
def busAddr (fn offset : Nat) : Option Nat :=
  if fn = 0 then (if offset < 2 ^ 26 then some offset else none)
  else if offset < 65536 ∧ fn < 64 then some (0x1000000 + fn * 0x10000 + offset) else none

def fwWindowBase : Nat := 0x3800000
def inWindow (a : Nat) : Bool := decide (fwWindowBase ≤ a) && decide (a < fwWindowBase + 2 ^ 23)

/-- R471: what BAR0 decodes: everything once an image is accepted; before that the DEVICE and SECURITY blocks and the
firmware window. -/
def State.bar0Open (s : State) (a : Nat) : Bool := s.sec.running.isSome || decide (a < 0x20000) || inWindow a

def State.countBad (s : State) (fn : Nat) : State := s.modFn fn (fun x => { x with bar0Bad := satAdd 32 x.bar0Bad 1 })

/-- Some register that an access meets has its writes held during a reload (R476). -/
def accessHeld (a size : Nat) : Bool :=
  let h : Nat → Bool := fun a => match regAt a with
    | some (r, _) => r.halnorHeld
    | none => false
  h a || (size == 8 && h (a + 4))

/-- R469: the PF sees the blocks of the VFs, and does not write them. -/
def foreignBlock (fn a : Nat) : Bool := fn == 0 && decide (0x1010000 ≤ a) && decide (a < 0x1400000)

/-- R469: the words the PF reads as zero: the MSI-X tables and pending bits of the VFs. -/
def hiddenWord (fn a : Nat) : Reg → Bool
  | .fnMsix .. | .fnPba .. => foreignBlock fn a
  | _ => false

/-- Four bytes read at an aligned offset; zero where no register is. -/
def State.word4 (s : State) (fn a : Nat) : Nat :=
  match regAt a with
  | some (r, sh) => if hiddenWord fn a r then 0 else s.readReg r / 2 ^ sh % 2 ^ 32
  | none => 0

/-- R469 to R471: the value a read of BAR0 returns, and the state after it. A bad access reads zero and is counted. -/
def State.bar0Read (s : State) (fn offset size : Nat) : Nat × State :=
  if (size ≠ 4 ∧ size ≠ 8) ∨ offset % size ≠ 0 then (0, s.countBad fn)
  else match busAddr fn offset with
  | none => (0, s)
  | some a =>
    if !s.bar0Open a then (0, s.countBad fn)
    else (s.word4 fn a + (if size = 8 then s.word4 fn (a + 4) * 2 ^ 32 else 0), s)

/-- The write of an aligned access of 4 or 8 bytes. -/
def State.bar0Write (s : State) (fn a size : Nat) (v : Word64) : State :=
  if inWindow a then
    s.modSec (fun x => { x with fwWindow := tabWrite x.fwWindow 0 (a - fwWindowBase) (leBytes size v.toNat) })
  else if foreignBlock fn a then s
  else s.busWrite fn a size v.toNat

/-- REGISTER_WRITE replayed after a reload. -/
def doRegisterWrite (fn offset size : Nat) (value : Word64) (s : State) : State :=
  match busAddr fn offset with
  | some a => s.bar0Write fn a size value
  | none => s

/-- REGISTER_WRITE (R13, R470, R471, R476). -/
def execRegisterWrite (fn offset size : Nat) (value : Word64) (s : State) : Host.Outcome State Fault Refusal :=
  if !(s.fn fn).enabled || !s.mod.hostUp then .next s
  else if (size ≠ 4 ∧ size ≠ 8) ∨ offset % size ≠ 0 then .next (s.countBad fn)
  else match busAddr fn offset with
  | none => .next s
  | some a =>
    if !s.bar0Open a then .next (s.countBad fn)
    else if s.hal.reloading ∧ accessHeld a size ∧ !foreignBlock fn a then .next (s.defer (.registerWrite fn offset size value))
    else .next (doRegisterWrite fn offset size value s)

end Sys2Proof.Machine
end

