-- ==== Sys2Proof/Machine/Management.lean ====
section
/-! DEFINITION. The management bus (R460 to R463, R475): addresses, sensors, events, the health log, the fabric
manager's key, the BMC's register accesses; and the end of a firmware reload (R402, R476). -/

namespace Sys2Proof.Machine

/-- A management request: nothing answers in OFF; a reload defers it (R402). -/
def State.manage (s : State) (i : Instr) (f : State) : Host.Outcome State Fault Refusal :=
  if !s.alive then .next s else s.orDefer i f

/-- SMBUS_ARP (R460). -/
def doSmbusArp (addr : BitVec 7) (s : State) : State := s.modHal (fun h => { h with smbus := addr })
def execSmbusArp (addr : BitVec 7) (s : State) : Host.Outcome State Fault Refusal := s.manage (.smbusArp addr) (doSmbusArp addr s)

/-- MCTP_ENDPOINT_ID_ASSIGNMENT (R460). -/
def doMctpEndpointIdAssignment (eid : BitVec 8) (s : State) : State := s.modHal (fun h => { h with eid := eid })
def execMctpEndpointIdAssignment (eid : BitVec 8) (s : State) : Host.Outcome State Fault Refusal :=
  s.manage (.mctpEndpointIdAssignment eid) (doMctpEndpointIdAssignment eid s)

/-! ## Sensors (R463) -/

def oneOf (l : List Int) (i : Nat) : List Int := (l[i]?).toList

/-- What a sensor reads: what Halnor last measured or knows; what the spec does not tie to its state is free. -/
def State.sensor (s : State) : Sensor → List Int
  | .inputVoltage | .inputCurrent | .inputPower => [s.draw.toNat]
  | .rail g => oneOf ([s.power.readings.powH, s.power.readings.powL, s.power.readings.powM, s.power.readings.powC].map
      (fun w => (w.toNat : Int))) g
  | .junction d => if d < 4 then (hottest (dieReadings s.power.readings d)).toList else []
  | .stackBase k => if k < 24 then oneOf s.power.readings.stack (3 * (k / 2) + k % 2) else []
  | .stackDram k => if k < 12 then oneOf s.power.readings.stack (3 * k + 2) else []
  | .applied => [s.power.applied]
  | .own => [s.power.own]
  | .thermal => [s.power.thermal]
  | .effectiveCap => [s.power.effective]
  | .hostCap => [s.power.hostCap]
  | .mgmtCap => [s.power.mgmtCap]
  | .band d => oneOf (s.power.bands.map (fun b => (b : Int))) d
  | .link p => if p < 18 then [(ofBool (s.port p).up : Int), ((s.port p).cls : Int), (ofBool (s.port p).spare : Int)] else []
  | .lifecycle => [s.lifecycle]
  | .level => [s.sec.level]
  | .power => [powerStateCode s.mod.state]
  | .eolDate => [s.hal.eolDate]
  | .eolMonitor => [s.hal.eolMonitor]
  | .eolDays => [s.hal.eolDays, ofBool (s.hal.eolDays < 180)]
  | .slowdown d => oneOf (s.hal.slowdown.map (fun b => (b : Int))) d
  | .counter o => match regAt o with
    | some (r, 0) => [s.readReg r]
    | _ => []

/-- PLDM_SENSOR_READ. -/
def doPldmSensorRead (sensor : Sensor) (s : State) : State := (s.emit (.sensor (s.sensor sensor))).drawn
def execPldmSensorRead (sensor : Sensor) (s : State) : Host.Outcome State Fault Refusal :=
  s.manage (.pldmSensorRead sensor) (doPldmSensorRead sensor s)

/-! ## Events and the log (R460, R462) -/

/-- PLDM_EVENT_READ: the oldest event is read; ALERT_N is released with the last one. -/
def doPldmEventRead (s : State) : State :=
  let s := s.modHal (fun h => { h with alerts := h.alerts.drop 1 })
  s.modMod (fun m => { m with alertN := decide (s.hal.alerts = []) })
def execPldmEventRead (s : State) : Host.Outcome State Fault Refusal := s.manage .pldmEventRead (doPldmEventRead s)

/-- HEALTH_LOG_READOUT: entries from the oldest kept. -/
def doHealthLogReadout (first count : Nat) (s : State) : State := s.emit (.log ((s.hal.log.reverse.drop first).take count))
def execHealthLogReadout (first count : Nat) (s : State) : Host.Outcome State Fault Refusal :=
  s.manage (.healthLogReadout first count) (doHealthLogReadout first count s)

/-! ## The fabric manager's key (R461) -/

/-- FABRIC_MANAGER_KEY_INSTALL: in AUX or READY, or when no key is installed. -/
def doFabricManagerKeyInstall (key : BitVec 256) (s : State) : State :=
  if s.mod.state = .aux ∨ s.mod.state = .ready ∨ s.fab.fmKey.isNone then
    (s.modFab (fun f => { f with fmKey := some key })).emit .bmcDone
  else s.emit .bmcRefused
def execFabricManagerKeyInstall (key : BitVec 256) (s : State) : Host.Outcome State Fault Refusal :=
  s.manage (.fabricManagerKeyInstall key) (doFabricManagerKeyInstall key s)

/-! ## Registers over the bus (R475) -/

/-- The fields of a register that the BMC writes; none for the others. -/
def bmcMask : Reg → Option Nat
  | .timedCtl => some (rw 16 16).mask
  | .thermStatus => some (w1c 24 1).mask
  | .devAlert => some (w1c 0 7).mask
  | _ => none

/-- BMC_REGISTER_ACCESS: one register of exactly its width. -/
def doBmcRegisterAccess (write : Bool) (offset size : Nat) (value : Word64) (s : State) : State :=
  match regAt offset with
  | some (r, 0) =>
    if 8 * size ≠ r.width then s.emit .bmcRefused
    else if !write then s.emit (.bmcValue (BitVec.ofNat 64 (s.readReg r)))
    else match bmcMask r with
    | some m => (s.writeReg 0 r m value.toNat).emit .bmcDone
    | none => s.emit .bmcRefused
  | _ => s.emit .bmcRefused
def execBmcRegisterAccess (write : Bool) (offset size : Nat) (value : Word64) (s : State) : Host.Outcome State Fault Refusal :=
  s.manage (.bmcRegisterAccess write offset size value) (doBmcRegisterAccess write offset size value s)

end Sys2Proof.Machine
end

