-- ==== Sys2Proof/Machine/Replay.lean ====
section
/-! DEFINITION. The end of a firmware reload (R402, R444, R476), and what happens when no command waits. -/

namespace Sys2Proof.Machine

/-- A command that was deferred takes effect. Only the commands listed are ever deferred. -/
def State.runDeferred (s : State) (i : Instr) : State :=
  match i with
  | .fwCtlGo img => doFwCtlGo img s
  | .fwCtlAbort => doFwCtlAbort s
  | .pldmFirmwareUpdate img => doPldmFirmwareUpdate img s
  | .computeEnableSet => doComputeEnableSet s
  | .computeEnableClear => doComputeEnableClear s
  | .levelReq level => doLevelReq level s
  | .endDebug => doEndDebug s
  | .smbusArp addr => doSmbusArp addr s
  | .mctpEndpointIdAssignment eid => doMctpEndpointIdAssignment eid s
  | .pldmSensorRead sensor => doPldmSensorRead sensor s
  | .pldmEventRead => doPldmEventRead s
  | .mgmtCapEffecter watts => doMgmtCapEffecter watts s
  | .fabricManagerKeyInstall key => doFabricManagerKeyInstall key s
  | .healthLogReadout first count => doHealthLogReadout first count s
  | .bmcRegisterAccess write offset size value => doBmcRegisterAccess write offset size value s
  | .fabricIdentityAssignment m deviceId domainSlot => doFabricIdentityAssignment m deviceId domainSlot s
  | .partitionAssignment m partition members domain root parentPort children => doPartitionAssignment m partition members domain root parentPort children s
  | .multicastGroupDefinition m group members => doMulticastGroupDefinition m group members s
  | .gaugeTrigger => doGaugeTrigger s
  | .gaugeExportGo fn => doGaugeExportGo fn s
  | .hostCapWrite watts => doHostCapWrite watts s
  | .trippedClear => doTrippedClear s
  | .descFlume ctx queue desc => doDescFlume ctx queue desc s
  | .rowRepair channel die bank row => doRowRepair channel die bank row s
  | .tsvShift channel signal => doTsvShift channel signal s
  | .channelReplacement channel => doChannelReplacement channel s
  | .jobBoundary => doJobBoundary s
  | .laneMove port failed => doLaneMove port failed s
  | .registerWrite fn offset size value => doRegisterWrite fn offset size value s
  | i => s.adminStep i

/-- FIRMWARE_RELOAD_COMPLETE (R402, R476): the new image runs, and everything held back is applied in the order in which it
arrived. -/
def execFirmwareReloadComplete (s : State) : Host.Outcome State Fault Refusal :=
  match s.hal.reloading, s.hal.reloadImg with
  | true, some i =>
    let held := s.hal.deferred
    let s := (s.modHal (fun h => { h with reloading := false, reloadImg := none, deferred := [] })).runImage i
    .next (held.foldl State.runDeferred s)
  | _, _ => .next s

/-- What a step does when no command waits: admin commands and lane moves that waited go on, and in RUN one tick passes; in every other
power state the compute islands do not tick (R448). R6 defines no wrap of the tick count. -/
def idleTick (s : State) : Host.Outcome State Fault Refusal :=
  let s := s.retryHeld.moveLanes
  if s.running then
    if s.tick = BitVec.allOnes 64 then .fault .tickWrap else .next s.tickOnce
  else .next s

end Sys2Proof.Machine
end

