-- ==== Sys2Proof/Machine/Dispatch.lean ====
section
/-! DEFINITION. One arm per command: each calls the meaning of its row. -/

namespace Sys2Proof.Machine

def exec (i : Instr) (s : State) : Host.Outcome State Fault Refusal :=
  match i with
  | .powerInputApplied => Sys2Proof.Machine.execPowerInputApplied s
  | .pwrEnHigh => Sys2Proof.Machine.execPwrEnHigh s
  | .pwrEnLow => Sys2Proof.Machine.execPwrEnLow s
  | .perstNAssert short => Sys2Proof.Machine.execPerstNAssert short s
  | .perstNDeassert => Sys2Proof.Machine.execPerstNDeassert s
  | .internalBusBelowMinimum => Sys2Proof.Machine.execInternalBusBelowMinimum s
  | .standbyBelowMinimum => Sys2Proof.Machine.execStandbyBelowMinimum s
  | .hotInsertion pwrEn => Sys2Proof.Machine.execHotInsertion pwrEn s
  | .analogComparatorTrip die => Sys2Proof.Machine.execAnalogComparatorTrip die s
  | .tickrefLost => Sys2Proof.Machine.execTickrefLost s
  | .tickrefReturn => Sys2Proof.Machine.execTickrefReturn s
  | .islandUnlocked island => Sys2Proof.Machine.execIslandUnlocked island s
  | .tapReset => Sys2Proof.Machine.execTapReset s
  | .jtagInstruction op => Sys2Proof.Machine.execJtagInstruction op s
  | .gaugeNFallingEdge widthNs sinceNs => Sys2Proof.Machine.execGaugeNFallingEdge widthNs sinceNs s
  | .droopReport die monitor => Sys2Proof.Machine.execDroopReport die monitor s
  | .droopTrip die monitor => Sys2Proof.Machine.execDroopTrip die monitor s
  | .fwCtlGo img => Sys2Proof.Machine.execFwCtlGo img s
  | .fwCtlAbort => Sys2Proof.Machine.execFwCtlAbort s
  | .pldmFirmwareUpdate img => Sys2Proof.Machine.execPldmFirmwareUpdate img s
  | .imageVerificationDone => Sys2Proof.Machine.execImageVerificationDone s
  | .readyReached => Sys2Proof.Machine.execReadyReached s
  | .computeEnableSet => Sys2Proof.Machine.execComputeEnableSet s
  | .computeEnableClear => Sys2Proof.Machine.execComputeEnableClear s
  | .levelReq level => Sys2Proof.Machine.execLevelReq level s
  | .endDebug => Sys2Proof.Machine.execEndDebug s
  | .debugSessionExpiry => Sys2Proof.Machine.execDebugSessionExpiry s
  | .nonceRequest session => Sys2Proof.Machine.execNonceRequest session s
  | .nonceExpiry => Sys2Proof.Machine.execNonceExpiry s
  | .debugToken session tok => Sys2Proof.Machine.execDebugToken session tok s
  | .retireToken session tok => Sys2Proof.Machine.execRetireToken session tok s
  | .getCertificate slot => Sys2Proof.Machine.execGetCertificate slot s
  | .challenge slot nonce => Sys2Proof.Machine.execChallenge slot nonce s
  | .getMeasurements index sign nonce => Sys2Proof.Machine.execGetMeasurements index sign nonce s
  | .keyExchange => Sys2Proof.Machine.execKeyExchange s
  | .heartbeat session => Sys2Proof.Machine.execHeartbeat session s
  | .firmwareReload img => Sys2Proof.Machine.execFirmwareReload img s
  | .firmwareReloadComplete => Sys2Proof.Machine.execFirmwareReloadComplete s
  | .inServiceBankWrite => Sys2Proof.Machine.execInServiceBankWrite s
  | .smbusArp addr => Sys2Proof.Machine.execSmbusArp addr s
  | .mctpEndpointIdAssignment eid => Sys2Proof.Machine.execMctpEndpointIdAssignment eid s
  | .pldmSensorRead sensor => Sys2Proof.Machine.execPldmSensorRead sensor s
  | .pldmEventRead => Sys2Proof.Machine.execPldmEventRead s
  | .mgmtCapEffecter watts => Sys2Proof.Machine.execMgmtCapEffecter watts s
  | .fabricManagerKeyInstall key => Sys2Proof.Machine.execFabricManagerKeyInstall key s
  | .healthLogReadout first count => Sys2Proof.Machine.execHealthLogReadout first count s
  | .bmcRegisterAccess write offset size value => Sys2Proof.Machine.execBmcRegisterAccess write offset size value s
  | .fabricIdentityAssignment m deviceId domainSlot => Sys2Proof.Machine.execFabricIdentityAssignment m deviceId domainSlot s
  | .partitionAssignment m partition members domain root parentPort children => Sys2Proof.Machine.execPartitionAssignment m partition members domain root parentPort children s
  | .multicastGroupDefinition m group members => Sys2Proof.Machine.execMulticastGroupDefinition m group members s
  | .partitionRevocation m partition => Sys2Proof.Machine.execPartitionRevocation m partition s
  | .revocationWalkEnd => Sys2Proof.Machine.execRevocationWalkEnd s
  | .gaugeTrigger => Sys2Proof.Machine.execGaugeTrigger s
  | .gaugeBroadcastReceipt tick => Sys2Proof.Machine.execGaugeBroadcastReceipt tick s
  | .gaugeLatch => Sys2Proof.Machine.execGaugeLatch s
  | .gaugeExportGo fn => Sys2Proof.Machine.execGaugeExportGo fn s
  | .deviceReset => Sys2Proof.Machine.execDeviceReset s
  | .registerWrite fn offset size value => Sys2Proof.Machine.execRegisterWrite fn offset size value s
  | .hostCapWrite watts => Sys2Proof.Machine.execHostCapWrite watts s
  | .trippedClear => Sys2Proof.Machine.execTrippedClear s
  | .keepClear => Sys2Proof.Machine.execKeepClear s
  | .keepSweepEnd => Sys2Proof.Machine.execKeepSweepEnd s
  | .retrain downstream => Sys2Proof.Machine.execRetrain downstream s
  | .chainEnableWrite downstream enable => Sys2Proof.Machine.execChainEnableWrite downstream enable s
  | .adminQueueEnable fn enable log2 => Sys2Proof.Machine.execAdminQueueEnable fn enable log2 s
  | .bar4WindowWrite base => Sys2Proof.Machine.execBar4WindowWrite base s
  | .msixUnmask fn entry => Sys2Proof.Machine.execMsixUnmask fn entry s
  | .bar4Write offset data => Sys2Proof.Machine.execBar4Write offset data s
  | .bar4Read offset len => Sys2Proof.Machine.execBar4Read offset len s
  | .functionLevelReset fn => Sys2Proof.Machine.execFunctionLevelReset fn s
  | .vfDisable => Sys2Proof.Machine.execVfDisable s
  | .atsInvalidation pasid iova len => Sys2Proof.Machine.execAtsInvalidation pasid iova len s
  | .doorbellWrite fn offset size value => Sys2Proof.Machine.execDoorbellWrite fn offset size value s
  | .adminDoorbell fn size value => Sys2Proof.Machine.execAdminDoorbell fn size value s
  | .ctxCreate fn desc => Sys2Proof.Machine.execCtxCreate fn desc s
  | .ctxSetStep fn desc => Sys2Proof.Machine.execCtxSetStep fn desc s
  | .ctxSetFlags fn desc => Sys2Proof.Machine.execCtxSetFlags fn desc s
  | .ctxSetWaitWdog fn desc => Sys2Proof.Machine.execCtxSetWaitWdog fn desc s
  | .ctxSetQuantum fn desc => Sys2Proof.Machine.execCtxSetQuantum fn desc s
  | .ctxSetWatchRing fn desc => Sys2Proof.Machine.execCtxSetWatchRing fn desc s
  | .ctxSetSyncMap fn desc => Sys2Proof.Machine.execCtxSetSyncMap fn desc s
  | .ctxSetHeap fn desc => Sys2Proof.Machine.execCtxSetHeap fn desc s
  | .ctxSetFaultClear fn desc => Sys2Proof.Machine.execCtxSetFaultClear fn desc s
  | .ctxReset fn desc => Sys2Proof.Machine.execCtxReset fn desc s
  | .ctxDestroy fn desc => Sys2Proof.Machine.execCtxDestroy fn desc s
  | .queueCreate fn desc => Sys2Proof.Machine.execQueueCreate fn desc s
  | .queueDestroy fn desc => Sys2Proof.Machine.execQueueDestroy fn desc s
  | .queueRestart fn desc => Sys2Proof.Machine.execQueueRestart fn desc s
  | .objAlloc fn desc => Sys2Proof.Machine.execObjAlloc fn desc s
  | .objFree fn desc => Sys2Proof.Machine.execObjFree fn desc s
  | .mapPages fn desc => Sys2Proof.Machine.execMapPages fn desc s
  | .unmapPages fn desc => Sys2Proof.Machine.execUnmapPages fn desc s
  | .slotSet fn desc => Sys2Proof.Machine.execSlotSet fn desc s
  | .syncAlloc fn desc barrier value expected => Sys2Proof.Machine.execSyncAlloc fn desc barrier value expected s
  | .syncFree fn desc index => Sys2Proof.Machine.execSyncFree fn desc index s
  | .syncMapSet fn desc vid entry => Sys2Proof.Machine.execSyncMapSet fn desc vid entry s
  | .shareExport fn desc index grants => Sys2Proof.Machine.execShareExport fn desc index grants s
  | .shareUnexport fn desc handle => Sys2Proof.Machine.execShareUnexport fn desc handle s
  | .apertureAdd fn desc => Sys2Proof.Machine.execApertureAdd fn desc s
  | .apertureRemove fn desc => Sys2Proof.Machine.execApertureRemove fn desc s
  | .reclaim fn desc => Sys2Proof.Machine.execReclaim fn desc s
  | .fnAssign fn desc => Sys2Proof.Machine.execFnAssign fn desc s
  | .descNop ctx queue desc => Sys2Proof.Machine.execDescNop ctx queue desc s
  | .descCopy ctx queue desc => Sys2Proof.Machine.execDescCopy ctx queue desc s
  | .copySegment => Sys2Proof.Machine.execCopySegment s
  | .descCompute ctx queue desc => Sys2Proof.Machine.execDescCompute ctx queue desc s
  | .descFlume ctx queue desc => Sys2Proof.Machine.execDescFlume ctx queue desc s
  | .descIntake ctx queue desc => Sys2Proof.Machine.execDescIntake ctx queue desc s
  | .descWait ctx queue desc => Sys2Proof.Machine.execDescWait ctx queue desc s
  | .descSignal ctx queue desc => Sys2Proof.Machine.execDescSignal ctx queue desc s
  | .descArrive ctx queue desc => Sys2Proof.Machine.execDescArrive ctx queue desc s
  | .descSetStep ctx queue desc => Sys2Proof.Machine.execDescSetStep ctx queue desc s
  | .descriptorCompletion ctx queue => Sys2Proof.Machine.execDescriptorCompletion ctx queue s
  | .slotGrant => Sys2Proof.Machine.execSlotGrant s
  | .quantumExpiry ctx => Sys2Proof.Machine.execQuantumExpiry ctx s
  | .slotGiveUp ctx => Sys2Proof.Machine.execSlotGiveUp ctx s
  | .blockStart tile => Sys2Proof.Machine.execBlockStart tile s
  | .scalarControl tile slot op word => Sys2Proof.Machine.execScalarControl tile slot op word s
  | .immediateLoad tile slot word imm => Sys2Proof.Machine.execImmediateLoad tile slot word imm s
  | .reconverge tile slot word => Sys2Proof.Machine.execReconverge tile slot word s
  | .vectorInteger tile slot op word => Sys2Proof.Machine.execVectorInteger tile slot op word s
  | .rdraw tile slot word => Sys2Proof.Machine.execRdraw tile slot word s
  | .vectorBinary32 tile slot op word => Sys2Proof.Machine.execVectorBinary32 tile slot op word s
  | .conversion tile slot src dst sr word => Sys2Proof.Machine.execConversion tile slot src dst sr word s
  | .splitConversion tile slot word => Sys2Proof.Machine.execSplitConversion tile slot word s
  | .blockConversion tile slot dst sr word => Sys2Proof.Machine.execBlockConversion tile slot dst sr word s
  | .scratchLoad tile slot m => Sys2Proof.Machine.execScratchLoad tile slot m s
  | .scratchStore tile slot m => Sys2Proof.Machine.execScratchStore tile slot m s
  | .clusterScratchLoad tile slot rank m => Sys2Proof.Machine.execClusterScratchLoad tile slot rank m s
  | .clusterScratchStore tile slot rank m => Sys2Proof.Machine.execClusterScratchStore tile slot rank m s
  | .clusterScratchResponse id => Sys2Proof.Machine.execClusterScratchResponse id s
  | .memoryLoad tile slot cached m => Sys2Proof.Machine.execMemoryLoad tile slot cached m s
  | .memoryStore tile slot m => Sys2Proof.Machine.execMemoryStore tile slot m s
  | .flagStore tile slot m => Sys2Proof.Machine.execFlagStore tile slot m s
  | .flagStoreSend id => Sys2Proof.Machine.execFlagStoreSend id s
  | .memoryLoadReturn id => Sys2Proof.Machine.execMemoryLoadReturn id s
  | .deferredFaultReturn id => Sys2Proof.Machine.execDeferredFaultReturn id s
  | .atomic tile slot space op ty m => Sys2Proof.Machine.execAtomic tile slot space op ty m s
  | .readOnlyCacheFill tile line sector => Sys2Proof.Machine.execReadOnlyCacheFill tile line sector s
  | .rowEngine tile slot op len src dst word => Sys2Proof.Machine.execRowEngine tile slot op len src dst word s
  | .tileDmaStart tile slot d => Sys2Proof.Machine.execTileDmaStart tile slot d s
  | .tileDmaTestWait tile slot entry wait word => Sys2Proof.Machine.execTileDmaTestWait tile slot entry wait word s
  | .tileDmaCompletion tile entry => Sys2Proof.Machine.execTileDmaCompletion tile entry s
  | .systemInstruction tile slot op word => Sys2Proof.Machine.execSystemInstruction tile slot op word s
  | .heapAlloc tile slot word => Sys2Proof.Machine.execHeapAlloc tile slot word s
  | .heapFree tile slot word => Sys2Proof.Machine.execHeapFree tile slot word s
  | .groupRestore tile => Sys2Proof.Machine.execGroupRestore tile s
  | .mload tile slot word => Sys2Proof.Machine.execMload tile slot word s
  | .mpass tile slot word => Sys2Proof.Machine.execMpass tile slot word s
  | .mdrain tile slot word => Sys2Proof.Machine.execMdrain tile slot word s
  | .mzero tile slot word => Sys2Proof.Machine.execMzero tile slot word s
  | .mdiag tile slot word => Sys2Proof.Machine.execMdiag tile slot word s
  | .mbread tile slot word => Sys2Proof.Machine.execMbread tile slot word s
  | .mbwrite tile slot word => Sys2Proof.Machine.execMbwrite tile slot word s
  | .mend tile slot word => Sys2Proof.Machine.execMend tile slot word s
  | .matrixCommandBegin tile => Sys2Proof.Machine.execMatrixCommandBegin tile s
  | .fenceRel tile slot word => Sys2Proof.Machine.execFenceRel tile slot word s
  | .acquire tile slot word => Sys2Proof.Machine.execAcquire tile slot word s
  | .flush tile slot word => Sys2Proof.Machine.execFlush tile slot word s
  | .fenceOrd tile slot word => Sys2Proof.Machine.execFenceOrd tile slot word s
  | .cisternWalkEnd walk => Sys2Proof.Machine.execCisternWalkEnd walk s
  | .storeAcknowledgement id => Sys2Proof.Machine.execStoreAcknowledgement id s
  | .sigSet tile slot word => Sys2Proof.Machine.execSigSet tile slot word s
  | .sigAdd tile slot word => Sys2Proof.Machine.execSigAdd tile slot word s
  | .syncWait tile slot word => Sys2Proof.Machine.execSyncWait tile slot word s
  | .syncTest tile slot word => Sys2Proof.Machine.execSyncTest tile slot word s
  | .syncArrive tile slot word => Sys2Proof.Machine.execSyncArrive tile slot word s
  | .signalApply id => Sys2Proof.Machine.execSignalApply id s
  | .arrivalApply id => Sys2Proof.Machine.execArrivalApply id s
  | .waitRegistration id => Sys2Proof.Machine.execWaitRegistration id s
  | .syncWake id => Sys2Proof.Machine.execSyncWake id s
  | .waiterPoll id => Sys2Proof.Machine.execWaiterPoll id s
  | .waitWatchdogExamination => Sys2Proof.Machine.execWaitWatchdogExamination s
  | .homeAccess id => Sys2Proof.Machine.execHomeAccess id s
  | .sectorFillCompletion channel line sector odd many => Sys2Proof.Machine.execSectorFillCompletion channel line sector odd many s
  | .writeBackAcknowledgement channel line => Sys2Proof.Machine.execWriteBackAcknowledgement channel line s
  | .patrolScrub channel line sector odd many => Sys2Proof.Machine.execPatrolScrub channel line sector odd many s
  | .atomicUnitOperation id => Sys2Proof.Machine.execAtomicUnitOperation id s
  | .rowRepair channel die bank row => Sys2Proof.Machine.execRowRepair channel die bank row s
  | .rowRepairSwitch channel die bank row => Sys2Proof.Machine.execRowRepairSwitch channel die bank row s
  | .tsvShift channel signal => Sys2Proof.Machine.execTsvShift channel signal s
  | .channelReplacement channel => Sys2Proof.Machine.execChannelReplacement channel s
  | .jobBoundary => Sys2Proof.Machine.execJobBoundary s
  | .cisternLoad id => Sys2Proof.Machine.execCisternLoad id s
  | .cisternStore id => Sys2Proof.Machine.execCisternStore id s
  | .cisternFillCompletion dev line data => Sys2Proof.Machine.execCisternFillCompletion dev line data s
  | .cisternEviction slice set => Sys2Proof.Machine.execCisternEviction slice set s
  | .remoteAtomicForward id => Sys2Proof.Machine.execRemoteAtomicForward id s
  | .fabricLoad h offset len => Sys2Proof.Machine.execFabricLoad h offset len s
  | .fabricStore h offset data => Sys2Proof.Machine.execFabricStore h offset data s
  | .fabricAtomic h offset op ty a b => Sys2Proof.Machine.execFabricAtomic h offset op ty a b s
  | .reductionLine h offset index line data => Sys2Proof.Machine.execReductionLine h offset index line data s
  | .contributionClose h offset index count => Sys2Proof.Machine.execContributionClose h offset index count s
  | .orderedReductionCombine offset => Sys2Proof.Machine.execOrderedReductionCombine offset s
  | .multicastStore h group offset data => Sys2Proof.Machine.execMulticastStore h group offset data s
  | .fenceSignal h ctx handle add arrive value count => Sys2Proof.Machine.execFenceSignal h ctx handle add arrive value count s
  | .fabricAcknowledgement dev route seq body => Sys2Proof.Machine.execFabricAcknowledgement dev route seq body s
  | .fabricRejection dev route seq why => Sys2Proof.Machine.execFabricRejection dev route seq why s
  | .requestResend dev route seq => Sys2Proof.Machine.execRequestResend dev route seq s
  | .pathTableReweight delays => Sys2Proof.Machine.execPathTableReweight delays s
  | .frameRetry port attempt => Sys2Proof.Machine.execFrameRetry port attempt s
  | .laneMove port failed => Sys2Proof.Machine.execLaneMove port failed s
  | .fabricPortDown port => Sys2Proof.Machine.execFabricPortDown port s
  | .portTraining port r => Sys2Proof.Machine.execPortTraining port r s
  | .chainLoopbackTraining => Sys2Proof.Machine.execChainLoopbackTraining s
  | .linkSignalLoss port => Sys2Proof.Machine.execLinkSignalLoss port s
  | .requestTimeout dev route seq => Sys2Proof.Machine.execRequestTimeout dev route seq s
  | .fabricTimeout => Sys2Proof.Machine.execFabricTimeout s
  | .retainGraceExpiry => Sys2Proof.Machine.execRetainGraceExpiry s
  | .sluiceSend sl timed data dest => Sys2Proof.Machine.execSluiceSend sl timed data dest s
  | .itemVisible sl => Sys2Proof.Machine.execItemVisible sl s
  | .sluiceRelease sl => Sys2Proof.Machine.execSluiceRelease sl s
  | .eventLineToggle line => Sys2Proof.Machine.execEventLineToggle line s
  | .halnorEventApply => Sys2Proof.Machine.execHalnorEventApply s
  | .resetGroupRequest g escalate => Sys2Proof.Machine.execResetGroupRequest g escalate s
  | .resetGroupDrained => Sys2Proof.Machine.execResetGroupDrained s
  | .resetGroupDrainTimeout => Sys2Proof.Machine.execResetGroupDrainTimeout s
  | .epochStart => Sys2Proof.Machine.execEpochStart s
  | .epochProbe port jobTick jobWet visible result => Sys2Proof.Machine.execEpochProbe port jobTick jobWet visible result s
  | .epochOffsetsSet => Sys2Proof.Machine.execEpochOffsetsSet s
  | .epochCompletionReport child => Sys2Proof.Machine.execEpochCompletionReport child s
  | .epochTimeout => Sys2Proof.Machine.execEpochTimeout s
  | .referenceDrift port latency outbound => Sys2Proof.Machine.execReferenceDrift port latency outbound s
  | .readyMessage dev => Sys2Proof.Machine.execReadyMessage dev s
  | .refusedMessage dev => Sys2Proof.Machine.execRefusedMessage dev s
  | .entryTickMessage tick => Sys2Proof.Machine.execEntryTickMessage tick s
  | .regionEntry => Sys2Proof.Machine.execRegionEntry s
  | .flumeEntryFetch tile => Sys2Proof.Machine.execFlumeEntryFetch tile s
  | .flumeNop tile => Sys2Proof.Machine.execFlumeNop tile s
  | .flumeMatrix tile => Sys2Proof.Machine.execFlumeMatrix tile s
  | .flumeRow tile op len src dst => Sys2Proof.Machine.execFlumeRow tile op len src dst s
  | .flumeDma tile d => Sys2Proof.Machine.execFlumeDma tile d s
  | .flumeSend tile => Sys2Proof.Machine.execFlumeSend tile s
  | .flumeAdmission tile => Sys2Proof.Machine.execFlumeAdmission tile s
  | .gateBegin tile => Sys2Proof.Machine.execGateBegin tile s
  | .gateEnd tile => Sys2Proof.Machine.execGateEnd tile s
  | .flumePhase tile => Sys2Proof.Machine.execFlumePhase tile s
  | .loopBegin tile => Sys2Proof.Machine.execLoopBegin tile s
  | .loopEnd tile => Sys2Proof.Machine.execLoopEnd tile s
  | .flumeSeta tile => Sys2Proof.Machine.execFlumeSeta tile s
  | .flumeSignal tile => Sys2Proof.Machine.execFlumeSignal tile s
  | .flumeRelease tile => Sys2Proof.Machine.execFlumeRelease tile s
  | .releaseSpanEnd tile => Sys2Proof.Machine.execReleaseSpanEnd tile s
  | .flumeEnd tile => Sys2Proof.Machine.execFlumeEnd tile s
  | .regionEnd => Sys2Proof.Machine.execRegionEnd s
  | .regionAbortMessage => Sys2Proof.Machine.execRegionAbortMessage s
  | .timedWatchdog => Sys2Proof.Machine.execTimedWatchdog s
  | .intakeJobStart stack => Sys2Proof.Machine.execIntakeJobStart stack s
  | .intakeJobCompletion stack => Sys2Proof.Machine.execIntakeJobCompletion stack s
  | .diagnosticsRequest r => Sys2Proof.Machine.execDiagnosticsRequest r s
  | .ageingMeasurement slowdown => Sys2Proof.Machine.execAgeingMeasurement slowdown s
  | .eyeMonitorSample port lane sample => Sys2Proof.Machine.execEyeMonitorSample port lane sample s
  | .phyTrim rail up => Sys2Proof.Machine.execPhyTrim rail up s
  | .controlPeriodBoundary r => Sys2Proof.Machine.execControlPeriodBoundary r s
  | .requirementComputation => Sys2Proof.Machine.execRequirementComputation s
  | .weirContribution child period ratio => Sys2Proof.Machine.execWeirContribution child period ratio s
  | .rootCombineDeadline => Sys2Proof.Machine.execRootCombineDeadline s
  | .agreementReceipt period ratio => Sys2Proof.Machine.execAgreementReceipt period ratio s
  | .agreementMissing => Sys2Proof.Machine.execAgreementMissing s
  | .capPersistenceExpiry => Sys2Proof.Machine.execCapPersistenceExpiry s
  | .capStop => Sys2Proof.Machine.execCapStop s
  | .instructionCacheFill tile line => Sys2Proof.Machine.execInstructionCacheFill tile line s
  | .reservedClassInstruction tile slot word => Sys2Proof.Machine.execReservedClassInstruction tile slot word s
  | .spdmAlgorithmNegotiation offersExtended => Sys2Proof.Machine.execSpdmAlgorithmNegotiation offersExtended s

end Sys2Proof.Machine
end

