-- ==== Sys2Proof/Safety.lean ====
section
/-! DEFINITION. What counts as a safe run: the memories keep their canonical form, and a step that stops does so only
where R6 defines no behaviour. -/

namespace Sys2Proof.Machine

/-- THE MEMORY INVARIANT: device memory (R192, R221) and host memory are in canonical form, so that equal contents are
equal data. -/
def State.canonical (s : State) : Prop := s.dram.wf = true ∧ tabWf 0 s.hostMem = true

/-- The memories are canonical, the queue of commands is `q`, and the part record and the PROV latches are `r`: what a
command leaves as it is (the queue is the step's, and no command writes the record or PROV, R437, R438). -/
def State.kept (q : List Instr) (r : PartRecord × List Bool) (s : State) : Prop :=
  s.canonical ∧ s.pending = q ∧ (s.mod.record, s.mod.prov) = r

/-- The state a command answers with, if it answers one, keeps all of that. -/
def answersKept (q : List Instr) (r : PartRecord × List Bool) (o : Host.Outcome State Fault Refusal) : Prop :=
  ∀ t, o = .next t → t.kept q r

/-- WHEN AN INSTRUCTION ISSUES (R52, R56, R57, R61): in RUN the group `g` of the slot is neither stopped nor waiting, `p` is
its current path, the path's line is in the instruction cache, and every register of `keys` is final by a wet tick; `u` is
the state at the first wet tick at which all are and the tile has issued nothing yet. -/
def State.mayIssue (s : State) (tile slot : Nat) (keys : List Nat) (g : Group) (p : Path) (u : State) : Prop :=
  s.ready tile slot = some (g, p) ∧ (s.tile tile).iHit (p.pc.toNat / 128) = true ∧ g.readyAll keys < never ∧
  u = s.issueFrom tile slot (g.readyAll keys)

/-- WHEN A MATRIX INSTRUCTION OF A GROUP WITH ONE PATH IS CONSIDERED (R86, R88, R104, R105): in RUN the group is
neither stopped nor waiting, its line is in the cache, the word is legal, its sources are final by a wet tick, and the array
takes its command, with no timed region on the tile; `u` is the state at the tick of issue. -/
def State.mayQueue (s : State) (tile slot op : Nat) (w : Word64) (g : Group) (p : Path) (b : Block) (u : State) : Prop :=
  s.mod.state = .run ∧ s.group tile slot = some g ∧ g.stopped = false ∧ g.hold = .none ∧ g.paths = [p] ∧ p.park = .no ∧
  p.mask ≠ 0 ∧ g.turn = p.low ∧ g.issued < 16 ∧ (s.tile tile).iHit (p.pc.toNat / 128) = true ∧
  s.blockOf tile g = some b ∧ matrixWord op w = true ∧ g.readyAll (matrixKeys op w) < never ∧
  u = s.issueFrom tile slot (g.readyAll (matrixKeys op w)) ∧
  (s.tile tile).array.accepts g.uid = true ∧ s.claimed tile true = false

/-- The matrix instructions with their operation codes (R106). -/
def matrixInstrs (tile slot : Nat) (w : Word64) : List (Instr × Nat) :=
  [(.mload tile slot w, mLoad), (.mpass tile slot w, mPass), (.mdrain tile slot w, mDrain), (.mzero tile slot w, mZero),
   (.mdiag tile slot w, mDiag), (.mbread tile slot w, mBread), (.mbwrite tile slot w, mBwrite), (.mend tile slot w, mEnd)]

/-- The requests that arrive from the fabric (R255), as the operation each carries. -/
def fabricRequest : Instr → Option (FabHead × FabOp)
  | .fabricLoad h o n => some (h, .load o n)
  | .fabricStore h o d => some (h, .store o d)
  | .fabricAtomic h o op ty a b => some (h, .atomic o op ty [(0, a, b)])
  | .reductionLine h o i l d => some (h, .redLine o i l d)
  | .contributionClose h o i n => some (h, .close o i n)
  | .multicastStore h g o d => some (h, .multicast g o d)
  | .fenceSignal h c k add arrive v n => some (h, .fence c k add arrive v n)
  | _ => none

/-- A request that the device serves (R250, R251): its own partition, formed and not revoked, memory trained. -/
def State.serves (s : State) (h : FabHead) : Prop :=
  s.mod.memTrained = true ∧ s.fab.valid = true ∧ s.fab.partValid = true ∧ s.fab.partition = h.part

/-- The queue descriptors (R350): the command, its type, the one queue kind that accepts it (none where every kind does),
and its fields that are zero. -/
def descriptors (c q : Nat) (d : BitVec 512) : List (Instr × Nat × Option Nat × List (Nat × Nat)) :=
  [(.descNop c q d, 0x00, none, [(192, 320)]), (.descCopy c q d, 0x01, some 0, [(371, 13), (448, 32)]),
   (.descCompute c q d, 0x02, some 1, [(320, 192)]), (.descFlume c q d, 0x03, some 2, [(448, 64)]),
   (.descIntake c q d, 0x04, some 3, [(260, 252)]), (.descWait c q d, 0x10, none, [(288, 224)]),
   (.descSignal c q d, 0x11, none, [(192, 320)]), (.descArrive c q d, 0x12, none, [(304, 208)]),
   (.descSetStep c q d, 0x13, none, [(256, 256)])]

/-- What is wrong with the fields that descriptors share, and with a type's zero fields (R350, R508). -/
def State.descCheck (s : State) (c q : Nat) (d : BitVec 512) (type : Nat) (kind : Option Nat) (zeros : List (Nat × Nat)) :
    Option Nat :=
  descBad d type ((kind.map (fun k => (s.queue c q).kind == k)).getD true) (kind == some 1) (kind == some 0) zeros

/-- A descriptor of a type that the queue may start, with nothing wrong in those fields. -/
def State.accepts (s : State) (c q : Nat) (d : BitVec 512) (type : Nat) (kind : Option Nat) (zeros : List (Nat × Nat)) : Prop :=
  s.mayStart c q = true ∧ s.descCheck c q d type kind zeros = none

/-- The admin commands (R345): the function, the descriptor, the type, and whether only the PF may give it. -/
def adminRow : Instr → Option (Nat × BitVec 512 × Nat × Bool)
  | .ctxCreate f d => some (f, d, 0x20, false)
  | .ctxSetStep f d | .ctxSetFlags f d | .ctxSetWaitWdog f d | .ctxSetQuantum f d | .ctxSetWatchRing f d
  | .ctxSetSyncMap f d | .ctxSetHeap f d | .ctxSetFaultClear f d => some (f, d, 0x21, false)
  | .ctxReset f d => some (f, d, 0x22, false)
  | .ctxDestroy f d => some (f, d, 0x23, false)
  | .queueCreate f d => some (f, d, 0x24, false)
  | .queueDestroy f d => some (f, d, 0x25, false)
  | .queueRestart f d => some (f, d, 0x26, false)
  | .objAlloc f d => some (f, d, 0x27, false)
  | .objFree f d => some (f, d, 0x28, false)
  | .mapPages f d => some (f, d, 0x29, false)
  | .unmapPages f d => some (f, d, 0x2A, false)
  | .slotSet f d => some (f, d, 0x2B, false)
  | .syncAlloc f d _ _ _ | .syncFree f d _ | .syncMapSet f d _ _ => some (f, d, 0x2C, false)
  | .shareExport f d _ _ | .shareUnexport f d _ => some (f, d, 0x2D, false)
  | .apertureAdd f d | .apertureRemove f d => some (f, d, 0x2E, false)
  | .reclaim f d => some (f, d, 0x2F, false)
  | .fnAssign f d => some (f, d, 0x30, true)
  | _ => none

/-- A function's admin queue has a command announced, no reload is under way, and no command waits before it (R345, R402).
UNMAP, SLOT_SET and MAP may have to wait all the same (R244, R345): `State.adminWaits`. -/
def State.adminTurn (s : State) (f : Nat) : Prop :=
  s.hal.reloading = false ∧ (s.fn f).enabled = true ∧ (s.fn f).enable = true ∧ (s.fn f).p ≠ (s.fn f).c ∧ s.adminHeld = []

/-- Its common fields are right, and its context is neither free nor going. -/
def State.adminGo (s : State) (f : Nat) (d : BitVec 512) (type : Nat) : Prop :=
  s.adminTurn f ∧ s.adminBad f d type false = none ∧ s.live (aCtx d) = true

/-- THE NEXT ENTRY OF A TILE'S PROGRAM is of kind `kind`, and its tick has not passed the region's end (R288, R290): it is
in the buffer at position `pos` with bits `e`, and it is not skipped or the ninth of its tick; `u` is the state at its tick
with the entry taken. -/
def State.entryDue (s : State) (tile kind : Nat) (r : Region) (pos : Nat) (e : BitVec 256) (u : State) : Prop :=
  let x := (s.tile tile).flume
  let t := x.lastTick + eDelta e
  let tw := (BitVec.ofNat 64 t - s.timed.wetOffset).toNat
  s.timed.region = some r ∧ s.running = true ∧ r.stage = .running ∧ tile ∈ r.tiles ∧ x.active = true ∧ x.stopped = false ∧
  x.ended = false ∧ (∃ rest, x.buf = (pos, e) :: rest) ∧ eKind e = kind ∧ (gatedKind kind = true → x.gates.any id = false) ∧
  t ≤ r.entryWet + r.length ∧ s.hazardBy r (s.wet.toNat + (t - s.jobWet.toNat)) = none ∧
  u = (((s.passWet (t - s.jobWet.toNat)).modTile tile (fun y => (y.endSpans tw).takeEntry t true)).modRegion
    (fun r => { r with idle := max r.idle tw })) ∧
  (u.tile tile).flume.inTick ≤ 8

/-- The entry as its kind reads it: its bits, its address, its tick and its operands, relative ones with their register
added (R288). -/
def Flume.entryAt (x : Flume) (off : Word64) (pos : Nat) (e : BitVec 256) : Entry :=
  let t := x.lastTick + eDelta e
  ⟨e, x.prog + 32 * pos, t, (BitVec.ofNat 64 t - off).toNat, x.operand e 4 (eOp0 e), x.operand e 5 (eOp1 e)⟩

/-- The program entries of a tile (R288, R289): the command and the kind it executes. -/
def flumeEntries (tile : Nat) (op : RowOp) (len src dst : Nat) (d : DmaSpec) : List (Instr × Nat) :=
  [(.flumeNop tile, 0), (.flumeMatrix tile, 1), (.flumeRow tile op len src dst, 2), (.flumeDma tile d, 3),
   (.flumeSend tile, 4), (.flumeAdmission tile, 5), (.gateBegin tile, 6), (.gateEnd tile, 7), (.flumePhase tile, 8),
   (.loopBegin tile, 9), (.loopEnd tile, 10), (.flumeSeta tile, 11), (.flumeSignal tile, 12), (.flumeRelease tile, 13),
   (.flumeEnd tile, 15)]

/-- A safe run of `n` steps: no step is refused, and none faults but for the wrap of the tick count. -/
def safeRun : Nat → State → Prop
  | 0, _ => True
  | n + 1, s =>
    match step s with
    | .next t => safeRun n t
    | .fault f => f = .tickWrap
    | .refused _ => False

end Sys2Proof.Machine
end

