-- ==== Sys2Proof/Certificates/Slice0/Obligations.lean ====
section
/-! DEFINITION. The statements for the provers, one `Obligations.<Name>` each. -/

open Sys2Proof Sys2Proof.Machine

/-- A step runs the command at the front of the queue with the queue's rest (95_what_each_step_holds.md). -/
def Obligations.StepRunsFrontCommand : Prop :=
  (∀ (c : Instr) (rest : List Instr) (s : State),
    step { s with pending := c :: rest } = exec c { s with pending := rest }) ∧
  (∀ s : State, s.pending = [] → s.adminHeld = [] → s.repair.laneWait = [] → s.mod.state ≠ .run → step s = .next s) ∧
  (∀ s : State, s.pending = [] → s.adminHeld = [] → s.repair.laneWait = [] → s.mod.state = .run →
    s.tick ≠ BitVec.allOnes 64 →
    ∃ t, step s = .next t ∧ t.tick = s.tick + 1 ∧ (t.wet = s.wet ∨ t.wet = s.wet + 1) ∧
      t = { s with
        tick := t.tick, wet := t.wet, hal := { s.hal with events := t.hal.events }
        power := { s.power with dryTicks := t.power.dryTicks, applied := t.power.applied } })

/-- Every step keeps the memories canonical, takes one command, and leaves the part record and PROV alone
(07_memory_stacks_and_caches.md, 08_memory_model.md, R437, R438). -/
def Obligations.EveryStepKeepsMemoryAndRecord : Prop :=
  ∀ s t : State, s.canonical → step s = .next t →
    t.canonical ∧ t.pending = s.pending.tail ∧ t.mod.record = s.mod.record ∧ t.mod.prov = s.mod.prov

/-- The state after reset has its memories in canonical form (07_memory_stacks_and_caches.md). -/
def Obligations.ResetMemoryIsCanonical : Prop :=
  State.reset.canonical ∧ State.reset.pending = []

/-- The power pins and the rails; hot insertion powers the module up with everything volatile lost (R501, R502,
R492, R422, R472, R493, R503). -/
def Obligations.PowerPinsAndPowerUp : Prop :=
  ((∀ s : State, s.mod.standby = true → s.mod.mated = true → s.mod.blades = true → s.mod.comparator = false →
    exec .pwrEnHigh s = .next { s with mod := { s.mod with pwrEn := true, pg := true, hostUp := s.mod.perstN } }) ∧
  (∀ s : State, s.mod.standby = false → exec .pwrEnHigh s = .next { s with mod := { s.mod with pwrEn := true } }) ∧
  (∀ s : State, s.mod.standby = true → s.mod.mated = true → s.mod.state ≠ .off → s.mod.pwrEn = true →
    s.mod.comparator = false →
    exec .powerInputApplied s =
      .next { s with mod := { s.mod with blades := true, pg := true, hostUp := s.mod.perstN } }) ∧
  (∀ s : State, s.mod.pg = true →
    ∃ t, exec .pwrEnLow s = .next t ∧ t.mod.pwrEn = false ∧ t.mod.pg = false ∧ t.mod.hostUp = false ∧
      t.mod.memTrained = false ∧ t.ctxs = [] ∧ t.tiles = [] ∧ t.hostMem = s.hostMem ∧ t.pending = s.pending) ∧
  (∀ s : State, s.mod.state ≠ .off →
    ∃ t, exec .internalBusBelowMinimum s = .next t ∧ t.mod.blades = false ∧ t.mod.pg = false ∧
      t.mod.state = .aux ∧ t.mod.chainActive = false ∧ t.ctxs = [] ∧ t.tiles = []) ∧
  (∀ (s : State) (d : Nat), s.mod.state ≠ .off →
    ∃ t, exec (.analogComparatorTrip d) s = .next t ∧ t.mod.comparator = true ∧ t.mod.pg = false ∧
      t.mod.state = .aux ∧ t.tiles = []) ∧
  (∀ s : State, s.mod.state ≠ .off →
    ∃ t, exec .standbyBelowMinimum s = .next t ∧ t.mod.state = .off ∧ t.mod.standby = false ∧ t.mod.pg = false)) ∧
  (∀ (s : State) (p : Bool), s.mod.state = .off →
    ∃ t, exec (.hotInsertion p) s = .next t ∧ t.mod.state = .aux ∧ t.mod.mated = true ∧ t.mod.pwrEn = p ∧
      t.mod.record = s.mod.record ∧ t.mod.prov = s.mod.prov ∧ t.mod.ret = s.mod.ret ∧
      t.mod.bankA = s.mod.bankA ∧ t.mod.bankB = s.mod.bankB ∧ t.ctxs = [] ∧ t.tiles = [] ∧ t.sec.sessions = [] ∧
      t.gauge.pending = [] ∧ t.hostMem = s.hostMem ∧ t.pending = s.pending)

/-- PERST_N, DEVICE_RESET and a droop trip reset the device; PERST_N rising brings the host port up (R46, R327,
R472, R473, R501). -/
def Obligations.DeviceResetEndsWork : Prop :=
  (∀ s : State, s.mod.state ≠ .off →
    ∃ t, exec (.perstNAssert false) s = .next t ∧ t.mod.state = .aux ∧ t.mod.perstN = false ∧ t.mod.hostUp = false ∧
      t.ctxs = [] ∧ t.kernels = [] ∧ t.tiles = [] ∧ t.flights = [] ∧ t.tick = 0 ∧ t.wet = 0 ∧ t.sync.objs = [] ∧
      t.fab.valid = false ∧ t.mod.record = s.mod.record ∧ t.hostMem = s.hostMem ∧
      t.stackLocal = s.stackLocal ∧ t.localActive = s.stackLocal ∧ t.ctxBase = s.ctxBase ∧
      t.ctxBaseActive = s.ctxBase ∧ t.pending = s.pending) ∧
  (∀ s : State, s.mod.state ≠ .off → s.hal.resetBusy = false →
    ∃ t, exec .deviceReset s = .next t ∧ t.mod.state = .aux ∧ t.hal.resetBusy = s.sec.running.isSome ∧ t.ctxs = [] ∧
      t.tiles = [] ∧ t.tick = 0 ∧ t.fns = [(0, { Fn.reset with enabled := true })]) ∧
  (∀ s : State, s.mod.state ≠ .off → s.hal.resetBusy = true → exec .deviceReset s = .next s) ∧
  (∀ (s : State) (d m : Nat), s.mod.pg = true → s.mod.state ≠ .off →
    ∃ t, exec (.droopTrip d m) s = .next t ∧ t.mod.state = .aux ∧ t.ctxs = [] ∧
      (∃ k ∈ t.hal.log, k.kind = .droopTrip ∧ k.args = [d, m]) ∧ t.mod.alertN = false) ∧
  (∀ s : State, exec .perstNDeassert s = .next { s with mod := { s.mod with perstN := true, hostUp := s.mod.pg } })

/-- READY, RUN and the tick reference; the test access port; droop reports and in-service bank writes (R444, R449,
R465, R30, R500, R425, R440). -/
def Obligations.RunTestPortAndBanks : Prop :=
  ((∀ s : State, s.mod.state = .aux → s.mod.pg = true → s.sec.running.isSome = true → s.sec.computeEnable = false →
    exec .readyReached s = .next { s with
      mod := { s.mod with state := .ready, memTrained := true, computeHeld := true, hostUp := s.mod.perstN }
      hal := { s.hal with resetBusy := false } }) ∧
  (∀ s : State, s.hal.reloading = false → s.mod.state = .ready → s.mod.memTrained = true → s.lifecycle ≤ 3 →
    s.mod.tickref = true → s.power.tripped = false → s.hal.eolHold = false →
    exec .computeEnableSet s = .next { s with
      sec := { s.sec with computeEnable := true }
      mod := { s.mod with computeHeld := false, locked := true, state := .run }, tick := 0, wet := 0 }) ∧
  (∀ s : State, s.hal.reloading = false → s.mod.state = .run →
    ∃ t, exec .computeEnableClear s = .next t ∧ t.sec.computeEnable = false ∧ t.mod.state = .ready ∧
      t.mod.computeHeld = true ∧ t.mod.locked = false ∧ t.tiles = [] ∧ t.tick = 0 ∧ t.wet = 0 ∧ t.dram = s.dram) ∧
  (∀ s : State, s.mod.state = .run →
    ∃ t, exec .tickrefLost s = .next t ∧ t.mod.tickref = false ∧ t.mod.state = .ready ∧ t.tiles = [] ∧ t.tick = 0 ∧
      t.mod.alertN = false) ∧
  (∀ (s : State) (i : Nat), s.mod.state = .run → s.sec.computeEnable = false →
    ∃ t, exec (.islandUnlocked i) s = .next t ∧ t.mod.state = .ready ∧ t.tiles = [] ∧ t.tick = 0 ∧
      (∃ k ∈ t.hal.log, k.kind = .unlocked ∧ k.args = [i])) ∧
  (∀ s : State, s.mod.state = .ready → s.sec.computeEnable = true → s.mod.memTrained = true → s.lifecycle ≤ 3 →
    s.power.tripped = false → s.hal.eolHold = false →
    exec .tickrefReturn s = .next { s with
      mod := { s.mod with tickref := true, computeHeld := false, locked := true, state := .run }, tick := 0, wet := 0 })) ∧
  ((∀ s : State, exec .tapReset s = .next { s with mod := { s.mod with tapIr := .idcode } }) ∧
  (∀ s : State, s.mod.state ≠ .off → exec (.jtagInstruction .idcode) s =
    .next { s with mod := { s.mod with tapIr := .idcode }, sent := .tdo 0x12304987 :: s.sent }) ∧
  (∀ s : State, s.mod.state ≠ .off → exec (.jtagInstruction .bypass) s =
    .next { s with mod := { s.mod with tapIr := .bypass }, sent := .tdo 0 :: s.sent }) ∧
  (∀ (s : State) (n : Nat), s.mod.state ≠ .off → s.sec.level < 3 → exec (.jtagInstruction (.other n)) s =
    .next { s with mod := { s.mod with tapIr := .bypass }, sent := .tdo 0 :: s.sent }) ∧
  (∀ (s : State) (n : Nat), s.mod.state ≠ .off → 3 ≤ s.sec.level → exec (.jtagInstruction (.other n)) s =
    .next { s with mod := { s.mod with tapIr := .other n }, sent := .tdo (Config.tdo n) :: s.sent })) ∧
  ((∀ (s : State) (d m : Nat), s.mod.pg = true → exec (.droopReport d m) s = .next { s with
      power := { s.power with droopEvents := min (2 ^ 32 - 1) (s.power.droopEvents + 1) }
      hal := { s.hal with log := (⟨.droop, [d, m], s.tick.toNat⟩ :: s.hal.log).take 4096 } }) ∧
  (∀ s : State, s.mod.state ≠ .off → s.sec.recordOk = true → s.repair.unrecorded ≠ [] → s.bankRecent = false →
    ∃ t, exec .inServiceBankWrite s = .next t ∧ t.repair = { s.repair with unrecorded := [] } ∧
      ((s.mod.bankB? = some false ∧ t.mod.bankA = s.mod.bankA ∧ t.mod.bankB = s.nextBank false) ∨
       (s.mod.bankB? ≠ some false ∧ t.mod.bankB = s.mod.bankB ∧ t.mod.bankA = s.nextBank false)) ∧
      (s.nextBank false).seq = s.mod.bank.seq + 1 ∧ t.dram = s.dram ∧ t.ctxs = s.ctxs ∧
      t.hal = { s.hal with bankAt := some s.hal.ms }) ∧
  (∀ s : State, s.bankRecent = true → exec .inServiceBankWrite s = .next s))

/-- Gauges: how requests queue and merge, what a latch writes, and who may export a record (R456, R457, R499, R402,
R458, R450, R467, R42, R43, R459). -/
def Obligations.GaugesAreQueuedLatchedAndExported : Prop :=
  ((∀ s : State, s.hal.reloading = false → s.gauge.enable = true → s.gauge.sources.getLsbD 2 = true →
    s.gauge.scope = false → s.gauge.pending = [] →
    exec .gaugeTrigger s = .next { s with
      gauge := { s.gauge with pending := [⟨s.tick.toNat + 16384, 4, false, false⟩] } }) ∧
  (∀ (s : State) (p : PendingGauge), s.hal.reloading = false → s.gauge.enable = true →
    s.gauge.sources.getLsbD 2 = true → s.timed.valid = false → s.gauge.pending = [p] →
    s.tick.toNat + 16384 ≤ p.tick + 65536 → p.tick ≤ s.tick.toNat + 16384 + 65536 →
    exec .gaugeTrigger s = .next { s with
      gauge := { s.gauge with pending := [{ p with mask := p.mask ||| 4 }] } }) ∧
  (∀ s : State, s.hal.reloading = false → s.gauge.enable = true → s.gauge.sources.getLsbD 2 = true →
    s.gauge.scope = false → s.gauge.pending.length = 4 →
    (∀ p ∈ s.gauge.pending, p.tick + 65536 < s.tick.toNat + 16384 ∨ s.tick.toNat + 16384 + 65536 < p.tick) →
    exec .gaugeTrigger s = .next { s with
      gauge := { s.gauge with dropped := min (2 ^ 16 - 1) (s.gauge.dropped + 1) } }) ∧
  (∀ s : State, s.hal.reloading = false → s.gauge.sources.getLsbD 2 = false → exec .gaugeTrigger s = .next s) ∧
  (∀ s : State, s.hal.reloading = true →
    exec .gaugeTrigger s = .next { s with hal := { s.hal with deferred := s.hal.deferred ++ [.gaugeTrigger] } }) ∧
  (∀ (s : State) (w n : Nat), s.mod.state ≠ .off → 100 ≤ w → 1000 < n → s.gauge.enable = true →
    s.gauge.sources.getLsbD 3 = true → s.gauge.scope = false → s.gauge.pending = [] →
    exec (.gaugeNFallingEdge w n) s = .next { s with
      gauge := { s.gauge with pending := [⟨s.tick.toNat + 16384, 8, false, false⟩] } }) ∧
  (∀ (s : State) (w n : Nat), (w < 20 ∨ n ≤ 1000) → exec (.gaugeNFallingEdge w n) s = .next s) ∧
  (∀ (s : State) (t : Word64), s.timed.valid = false → s.gauge.enable = true → s.gauge.sources.getLsbD 4 = true →
    s.gauge.pending = [] → s.tick.toNat + 4096 ≤ (t - s.timed.offset).toNat →
    exec (.gaugeBroadcastReceipt t) s = .next { s with
      gauge := { s.gauge with pending := [⟨(t - s.timed.offset).toNat, 16, false, false⟩] } }) ∧
  (∀ (s : State) (t : Word64), s.timed.valid = false → s.gauge.enable = true → s.gauge.sources.getLsbD 4 = true →
    s.gauge.pending = [] → (t - s.timed.offset).toNat < s.tick.toNat + 4096 →
    exec (.gaugeBroadcastReceipt t) s = .next { s with
      gauge := { s.gauge with pending := [⟨s.tick.toNat + 4096, 16, true, false⟩] } })) ∧
  ((∀ (s : State) (p : PendingGauge), s.mod.state = .run → s.gauge.pending = [p] → s.tick.toNat ≤ p.tick →
    s.gauge.recording = true → s.gauge.unread = 0 → s.gauge.nextSlot = 0 → s.gauge.holdAfter = false →
    p.hold = false →
    ∃ t r, exec .gaugeLatch s = .next t ∧
      t = { State.passTicks (p.tick - s.tick.toNat) s with gauge := t.gauge } ∧ t.gauge.pending = [] ∧
      tabGet t.gauge.slots none 0 = some r ∧ r.mask = p.mask ∧ r.late = p.late ∧ r.tick = t.tick ∧ r.wet = t.wet ∧
      r.imm = false ∧ r.seq = s.gauge.seqNo ∧ t.gauge.lastSlot = 0 ∧ t.gauge.unread = 1 ∧ t.gauge.nextSlot = 1 ∧
      t.gauge.atTick = (if p.mask % 2 = 1 then 0 else s.gauge.atTick) ∧
      (∀ k, k ≠ 0 → tabGet t.gauge.slots none k = tabGet s.gauge.slots none k)) ∧
  (∀ s : State, s.gauge.pending = [] → exec .gaugeLatch s = .next s) ∧
  (∀ (s : State) (p : PendingGauge), s.mod.state = .run → s.gauge.pending = [p] → p.tick < s.tick.toNat →
    s.timed.region = none →
    exec .gaugeLatch s = .next { s with
      gauge := { s.gauge with pending := [] }
      hal := { s.hal with log := (⟨.sluiceLate, [islandHalnor], s.tick.toNat⟩ :: s.hal.log).take 4096 } }) ∧
  (∀ (s : State) (p : PendingGauge), s.mod.state = .run → s.gauge.pending = [p] → p.tick = s.tick.toNat →
    s.gauge.recording = true → s.gauge.unread = 0xFF → s.gauge.keepUnread = true → s.gauge.holdAfter = false →
    p.hold = false →
    exec .gaugeLatch s = .next { s with gauge := { s.gauge with
      pending := [], atTick := if p.mask % 2 = 1 then 0 else s.gauge.atTick
      dropped := min (2 ^ 16 - 1) (s.gauge.dropped + 1) } }) ∧
  (∀ (s : State) (p : PendingGauge) (l : Nat), s.mod.state = .run → s.gauge.pending = [p] → p.tick = s.tick.toNat →
    p.hold = true → s.sec.levelNext = some l →
    ∃ t, exec .gaugeLatch s = .next t ∧ t.mod.state = .hold ∧ t.sec.level = l ∧ t.sec.levelNext = none ∧
      t.mod.alertN = false ∧ t.timed.valid = false ∧ t.tick = s.tick ∧ t.dram = s.dram)) ∧
  ((∀ (s : State) (fn : Nat) (o : Obj), s.hal.reloading = false → 1 ≤ s.sec.level →
    s.obj s.gauge.expObj = some o → (s.ctx s.gauge.expCtx).st ≠ .free → (s.ctx s.gauge.expCtx).fn = fn →
    o.owner = s.gauge.expCtx →
    ∃ t, exec (.gaugeExportGo fn) s = .next t ∧ t.gauge = { s.gauge with
        expDone := true, unread := s.gauge.unread &&& ~~~(BitVec.ofNat 8 (2 ^ s.gauge.expSlot)) } ∧
      (∀ a, a < o.dpa ∨ o.dpa + o.size ≤ a → t.dram.read a = s.dram.read a) ∧
      t.ctxs = s.ctxs ∧ t.objs = s.objs ∧ t.mod = s.mod ∧ t.sec = s.sec ∧ t.hostMem = s.hostMem ∧ t.tick = s.tick) ∧
  (∀ (s : State) (fn : Nat), s.hal.reloading = false →
    (s.obj s.gauge.expObj = none ∨ s.sec.level = 0 ∨ (s.ctx s.gauge.expCtx).fn ≠ fn) →
    exec (.gaugeExportGo fn) s = .next { s with gauge := { s.gauge with expDenied := true, expDone := false } }) ∧
  (∀ (s : State) (fn : Nat), s.hal.reloading = true → exec (.gaugeExportGo fn) s =
    .next { s with hal := { s.hal with deferred := s.hal.deferred ++ [.gaugeExportGo fn] } }))

/-- Loading, verifying, running and reloading firmware images; what an accepted image satisfies (R442, R443, R444,
R466, R402). -/
def Obligations.FirmwareImagesAreVerifiedThenRun : Prop :=
  ((∀ (s : State) (i : FwImage), s.hal.reloading = false → s.mod.state ≠ .off → s.sec.verifying = none →
    1 ≤ s.sec.fwLength → s.sec.fwLength ≤ 32768 →
    exec (.fwCtlGo i) s = .next { s with sec := { s.sec with
      fwAttempts := min 255 (s.sec.fwAttempts + 1), verifying := some i, fwState := 1 } }) ∧
  (∀ (s : State) (i : FwImage), s.hal.reloading = false → s.mod.state ≠ .off → s.sec.verifying = none →
    (s.sec.fwLength = 0 ∨ 32768 < s.sec.fwLength) →
    exec (.fwCtlGo i) s = .next { s with sec := { s.sec with
      fwAttempts := min 255 (s.sec.fwAttempts + 1), verifying := some { i with lengthOk := false }, fwState := 1 } }) ∧
  (∀ (s : State) (i : FwImage), s.hal.reloading = false → s.mod.state ≠ .off → s.sec.verifying = none →
    exec (.pldmFirmwareUpdate i) s = .next { s with sec := { s.sec with
      fwAttempts := min 255 (s.sec.fwAttempts + 1), verifying := some i, fwState := 1 } }) ∧
  (∀ (s : State) (i j : FwImage), s.hal.reloading = false → s.mod.state ≠ .off → s.sec.verifying = some j →
    exec (.pldmFirmwareUpdate i) s = .next { s with sec := { s.sec with
      fwAttempts := min 255 (s.sec.fwAttempts + 1), fwError := 6 } }) ∧
  (∀ s : State, s.hal.reloading = false →
    exec .fwCtlAbort s = .next { s with sec := { s.sec with fwWindow := [] } }) ∧
  (∀ (s : State) (i : FwImage), s.sec.verifying = some i → s.sec.running = none → s.imageError i s.sec.fwSvn = 0 →
    i.floor ≤ s.svnFloor →
    exec .imageVerificationDone s = .next { s with sec := { s.sec with
      verifying := none, running := some i, fwState := 2, fwError := 0, fwSvn := i.svn } }) ∧
  (∀ (s : State) (i j : FwImage), s.sec.verifying = some i → s.sec.running = some j → s.imageError i s.sec.fwSvn = 0 →
    exec .imageVerificationDone s = .next { s with
      sec := { s.sec with verifying := none, fwState := 2, fwError := 0 }
      hal := { s.hal with reloading := true, reloadImg := some i } }) ∧
  (∀ (s : State) (i : FwImage), s.sec.verifying = some i → s.imageError i s.sec.fwSvn ≠ 0 →
    exec .imageVerificationDone s = .next { s with sec := { s.sec with
      verifying := none, fwError := s.imageError i s.sec.fwSvn
      fwState := if s.sec.running.isSome then 2 else 3 } }) ∧
  (∀ (s : State) (i j : FwImage), s.sec.running = some j → s.hal.reloading = false → s.imageError i s.sec.fwSvn = 0 →
    exec (.firmwareReload i) s = .next { s with
      sec := { s.sec with fwAttempts := min 255 (s.sec.fwAttempts + 1), fwError := 0 }
      hal := { s.hal with reloading := true, reloadImg := some i } }) ∧
  (∀ (s : State) (i j : FwImage), s.sec.running = some j → s.hal.reloading = false → s.imageError i s.sec.fwSvn ≠ 0 →
    exec (.firmwareReload i) s = .next { s with
      sec := { s.sec with fwAttempts := min 255 (s.sec.fwAttempts + 1), fwError := s.imageError i s.sec.fwSvn } })) ∧
  (∀ (s : State) (i : FwImage) (least : Nat),
    (s.imageError i least = 0 ↔
      i.format = 1 ∧ i.lengthOk = true ∧ i.keyOk = true ∧ i.sigOk = true ∧
      (s.lifecycle = 0 ∨ i.variant = s.mod.record.variant) ∧ least ≤ i.svn ∧ s.mod.record.svnFloor ≤ i.svn ∧
      s.mod.bank.floor ≤ i.svn ∧ ∀ u ∈ s.repair.unrecorded, u.1 = 7 → u.2.1 ≤ i.svn) ∧
    s.imageError i least ∈ [0, 1, 2, 3, 4, 5])

/-- Debug levels and sessions, nonces and tokens, certificates and measurements (R449, R450, R453, R452, R454, R455,
R468, R445, R446). -/
def Obligations.DebugTokensAndAttestation : Prop :=
  ((∀ (s : State) (l : Nat), s.hal.reloading = false → s.mod.state ≠ .run → s.sec.levelNext = none → l < 4 →
    l ≤ s.defaultLevel →
    exec (.levelReq l) s = .next { s with sec := { s.sec with levelReq := l, level := l } }) ∧
  (∀ (s : State) (l : Nat), s.hal.reloading = false → l < 4 → s.defaultLevel < l →
    exec (.levelReq l) s = .next { s with sec := { s.sec with levelReq := l, levelDenied := true } }) ∧
  (∀ (s : State) (l : Nat), s.hal.reloading = false → s.mod.state = .run → l < 4 → l ≤ s.defaultLevel →
    l ≠ s.sec.level → s.sec.levelNext = none → s.gauge.pending = [] →
    exec (.levelReq l) s = .next { s with
      sec := { s.sec with levelReq := l, levelNext := some l }
      gauge := { s.gauge with pending := [⟨s.tick.toNat + 16384, 2, false, true⟩] } }) ∧
  (∀ s : State, s.hal.reloading = false → s.mod.state ≠ .run → s.sec.levelNext = none → s.sec.debugSession = true →
    exec .endDebug s = .next { s with sec := { s.sec with
      debugSession := false, maxLevel := 1, remaining := 0, level := 1 } }) ∧
  (∀ s : State, s.mod.state ≠ .run → s.sec.levelNext = none → s.sec.debugSession = true → s.sec.remaining = 0 →
    exec .debugSessionExpiry s = .next { s with sec := { s.sec with
      debugSession := false, maxLevel := 1, remaining := 0, level := 1 } }) ∧
  (∀ s : State, s.sec.remaining ≠ 0 → exec .debugSessionExpiry s = .next s) ∧
  (∀ s : State, s.sec.debugSession = false →
    exec .debugSessionExpiry s = .next s ∧ (s.hal.reloading = false → exec .endDebug s = .next s))) ∧
  ((∀ (s : State) (k : Nat), s.sec.sessions.elem k = true → ∃ n, exec (.nonceRequest k) s = .next { s with
      freeCtr := s.freeCtr + 4, sec := { s.sec with nonce := some n, nonceAt := s.hal.ms }, sent := .nonce n :: s.sent }) ∧
  (∀ (s : State) (k : Nat), s.sec.sessions.elem k = false →
    exec (.nonceRequest k) s = .next { s with sent := .spdmError :: s.sent }) ∧
  (∀ s : State, s.sec.nonceAt + 600000 ≤ s.hal.ms → exec .nonceExpiry s = .next { s with sec := { s.sec with nonce := none } }) ∧
  (∀ s : State, s.hal.ms < s.sec.nonceAt + 600000 → exec .nonceExpiry s = .next s) ∧
  (∀ (s : State) (k : Nat) (tok : Token), s.sec.sessions.elem k = true → s.mod.state ≠ .run →
    s.sec.levelNext = none → s.hal.ms < s.sec.nonceAt + 600000 → (s.lifecycle = 2 ∨ s.lifecycle = 3) → tok.keyOk = true → tok.sigOk = true → tok.kind = 1 →
    tok.serial = s.mod.record.serial → s.sec.nonce = some tok.nonce → (tok.maxLevel = 2 ∨ tok.maxLevel = 3) →
    60 ≤ tok.duration → tok.duration ≤ 86400 →
    ∃ t, exec (.debugToken k tok) s = .next t ∧ t = { s with freeCtr := s.freeCtr + 1, sec := t.sec } ∧
      t.sec.debugSession = true ∧ t.sec.maxLevel = tok.maxLevel ∧ t.sec.level = tok.maxLevel ∧
      t.sec.remaining = tok.duration ∧ t.sec.nonce = none ∧ t.sec.sessions = s.sec.sessions) ∧
  (∀ (s : State) (k : Nat) (tok : Token), s.sec.sessions.elem k = true →
    (tok.keyOk = false ∨ tok.sigOk = false ∨ tok.kind ≠ 1 ∨ tok.serial ≠ s.mod.record.serial ∨
      s.sec.nonce ≠ some tok.nonce ∨ s.sec.nonceAt + 600000 ≤ s.hal.ms ∨ tok.duration < 60 ∨ 86400 < tok.duration) →
    exec (.debugToken k tok) s = .next { s with sec := { s.sec with
      tokenRefused := min 65535 (s.sec.tokenRefused + 1) } }) ∧
  (∀ (s : State) (k : Nat) (tok : Token), s.sec.sessions.elem k = true → s.mod.state = .ready →
    tok.keyOk = true → tok.sigOk = true → tok.kind = 2 → tok.serial = s.mod.record.serial →
    s.sec.nonce = some tok.nonce → s.hal.ms < s.sec.nonceAt + 600000 →
    ∃ t, exec (.retireToken k tok) s = .next t ∧ t.mod.ret = List.replicate 13 true ∧ t.lifecycle = 4 ∧
      t.sec.identity = List.replicate 13 false ∧ t.sec.level = 0 ∧ t.sec.debugSession = false ∧
      t.ctxs = [] ∧ t.objs = [] ∧ t.kernels = [] ∧ t.hostMem = s.hostMem ∧ t.mod.record = s.mod.record) ∧
  (∀ (s : State) (k : Nat) (tok : Token), s.sec.sessions.elem k = true → s.mod.state ≠ .ready →
    exec (.retireToken k tok) s = .next { s with sec := { s.sec with
      tokenRefused := min 65535 (s.sec.tokenRefused + 1) } })) ∧
  ((∀ s : State, s.hasIdentity = true →
    exec (.getCertificate 0) s = .next { s with sent := .certificate (Config.crypto 0 0) :: s.sent }) ∧
  (∀ (s : State) (k : Nat), (s.hasIdentity = false ∨ k ≠ 0) →
    exec (.getCertificate k) s = .next { s with sent := .spdmError :: s.sent } ∧
    ∀ n, exec (.challenge k n) s = .next { s with sent := .spdmError :: s.sent }) ∧
  (∀ (s : State) (n : BitVec 256), s.hasIdentity = true → exec (.challenge 0 n) s =
    .next { s with sent := .signature (Config.crypto 1 n.toNat) :: s.sent }) ∧
  (∀ (s : State) (b : Bool) (n : BitVec 256), s.sec.debugSession = true →
    exec (.getMeasurements 6 b n) s = .next { s with
      sent := .measurement 6 (leBytes 1 s.lifecycle ++ leBytes 1 s.sec.level ++ leBytes 32 s.sec.tokenDigest)
        (b && s.hasIdentity) :: s.sent }) ∧
  (∀ (s : State) (b : Bool) (n : BitVec 256) (k : Nat), 0x20 ≤ k → k ≤ 0x2B →
    s.sec.identity.getD (k - 0x20 + 1) false = false →
    exec (.getMeasurements k b n) s = .next { s with sent := .spdmError :: s.sent }) ∧
  (∀ s : State, exec (.spdmAlgorithmNegotiation true) s =
      .next { s with sec := { s.sec with algorithms := true }, sent := .algorithms :: s.sent } ∧
    exec (.spdmAlgorithmNegotiation false) s =
      .next { s with sec := { s.sec with algorithms := false }, sent := .spdmError :: s.sent }) ∧
  (∀ s : State, s.hasIdentity = true → s.sec.algorithms = true → s.sec.sessions.length < 4 →
    exec .keyExchange s = .next { s with
      nextId := s.nextId + 1, sec := { s.sec with sessions := s.sec.sessions ++ [s.nextId] }
      sent := .session s.nextId :: s.sent }) ∧
  (∀ s : State, (s.hasIdentity = false ∨ s.sec.algorithms = false ∨ 4 ≤ s.sec.sessions.length) →
    exec .keyExchange s = .next { s with sent := .spdmError :: s.sent }) ∧
  (∀ (s : State) (k : Nat), s.sec.sessions.elem k = true →
    exec (.heartbeat k) s = .next { s with sent := .heartbeatAck k :: s.sent }) ∧
  (∀ (s : State) (k : Nat), s.sec.sessions.elem k = false →
    exec (.heartbeat k) s = .next { s with sent := .spdmError :: s.sent }))

/-- The weir: which ticks are dry, and how many in each window of 64 (R408). -/
def Obligations.DryTicksFollowTheWeirRatio : Prop :=
  (∀ s : State, s.pending = [] → s.mod.state = .run → s.tick ≠ BitVec.allOnes 64 → s.power.stopped = false →
    s.timed.started = false → s.hal.events = [] → s.adminHeld = [] → s.repair.laneWait = [] →
    step s = .next (if rev6 ((s.jobTick + 1).toNat % 64) < s.power.applied
      then { s with tick := s.tick + 1, power := { s.power with dryTicks := min (2 ^ 64 - 1) (s.power.dryTicks + 1) } }
      else { s with tick := s.tick + 1, wet := s.wet + 1 })) ∧
  (∀ n i, n < 64 → i < 6 → (rev6 n).testBit i = n.testBit (5 - i)) ∧
  (∀ n, rev6 n < 64) ∧
  (∀ k w, k ≤ 60 → ((List.range 64).filter (fun i => dryTick k (64 * w + i))).length = k) ∧
  (∀ s : State, s.timed.offset = 0 → s.jobTick = s.tick) ∧
  (∀ p : Power, p.thermal ≤ 60 → p.minRatio ≤ 60 → p.contribution ≤ 60) ∧
  (∀ (s : State) (j r : Nat), s.power.agreed = true → s.timed.root = false → s.timed.children = [] →
    s.tick.toNat + 4096 ≤ (BitVec.ofNat 64 (j * 38400) - s.timed.offset).toNat →
    exec (.agreementReceipt j r) s = .next { s with
      power := { s.power with
        agreements := tabSet s.power.agreements none j (some (min 60 r)), lastAgreed := min 60 r }
      hal := { s.hal with
        events := s.hal.events ++ [.ratio j (min 60 r) (BitVec.ofNat 64 (j * 38400) - s.timed.offset).toNat] } })

/-- The agreement on a ratio; power caps, the cap stop, trips and PHY trims (R410, R411, R413, R419, R418, R420,
R421, R424, R430, R432). -/
def Obligations.RatiosCapsTripsAndTrims : Prop :=
  ((∀ s : State, s.hal.reloading = true → s.power.agreed = true → s.timed.root = false →
    exec .requirementComputation s = .next { s with
      sent := .contribution (s.power.period + 1) s.combined :: s.sent }) ∧
  (∀ s : State, s.hal.reloading = false → s.power.enable = false → s.power.agreed = false →
    s.tick.toNat + 4096 ≤ (BitVec.ofNat 64 ((s.power.period + 1) * 38400) - s.timed.offset).toNat →
    ∃ t, exec .requirementComputation s = .next t ∧ t = { s with power := t.power, hal := t.hal } ∧ t.power.own = 0 ∧
      t.hal = { s.hal with events := s.hal.events ++ [.ratio (s.power.period + 1)
        (max (max s.power.thermal s.power.minRatio) s.power.lastAgreed)
        (BitVec.ofNat 64 ((s.power.period + 1) * 38400) - s.timed.offset).toNat] } ∧
      t.power.predicted = false ∧ tabGet t.power.agreements none (s.power.period + 1) =
        some (max (max s.power.thermal s.power.minRatio) s.power.lastAgreed)) ∧
  (∀ (s : State) (c j r : Nat), s.power.agreed = true → s.timed.root = true →
    ∃ t, exec (.weirContribution c j r) s = .next t ∧ t = { s with power := t.power } ∧
      tabGet t.power.contributions 0 c = j * 64 + min 60 r ∧
      ∀ d, d ≠ c → tabGet t.power.contributions 0 d = tabGet s.power.contributions 0 d) ∧
  (∀ s : State, s.power.agreed = true → s.timed.root = true →
    tabGet s.power.agreements none ((s.jobTick.toNat + 16384) / 38400) = none →
    s.tick.toNat + 4096 ≤
      (BitVec.ofNat 64 ((s.jobTick.toNat + 16384) / 38400 * 38400) - s.timed.offset).toNat →
    ∃ t, exec .rootCombineDeadline s = .next t ∧
      tabGet t.power.agreements none ((s.jobTick.toNat + 16384) / 38400) = some s.combined ∧
      t.power.lateContrib = min (2 ^ 32 - 1) (s.power.lateContrib +
        s.missingContributions ((s.jobTick.toNat + 16384) / 38400)) ∧
      t.power.lastAgreed = s.combined ∧ s.power.contribution ≤ s.combined ∧
      (∀ e ∈ s.power.contributions, e.2 % 64 ≤ s.combined) ∧
      t.sent = .agreement ((s.jobTick.toNat + 16384) / 38400) s.combined :: s.sent ∧
      t = { s with power := t.power, hal := t.hal, sent := t.sent }) ∧
  (∀ s : State, s.power.agreed = true → s.timed.region = none →
    s.jobTick.toNat / 38400 < (s.jobTick.toNat + 4096) / 38400 →
    tabGet s.power.agreements none ((s.jobTick.toNat + 4096) / 38400) = none →
    ∃ t, exec .agreementMissing s = .next t ∧ t.power.agreed = false ∧ t.timed.valid = false ∧
      t.timed.offset = 0 ∧ t.power.agreementLost = min (2 ^ 32 - 1) (s.power.agreementLost + 1) ∧
      t.hal = { s.hal with events := s.hal.events ++ [.ratio ((s.jobTick.toNat + 4096) / 38400)
        (max s.power.contribution s.power.lastAgreed)
        (BitVec.ofNat 64 ((s.jobTick.toNat + 4096) / 38400 * 38400) - s.timed.offset).toNat] } ∧
      t.sent = .agreementLost :: s.sent ∧
      t = { s with power := t.power, timed := t.timed, hal := t.hal, sent := t.sent }) ∧
  (∀ s : State, s.power.agreed = false →
    exec .agreementMissing s = .next s ∧ exec .rootCombineDeadline s = .next s)) ∧
  ((∀ (s : State) (w : Nat), s.hal.reloading = false → exec (.hostCapWrite w) s = .next { s with power :=
    if 900 ≤ w ∧ w ≤ 2800 then { s.power with hostCap := w } else { s.power with capRejected := true } }) ∧
  (∀ (s : State) (w : Nat), s.hal.reloading = false → exec (.mgmtCapEffecter w) s = .next
    (if 900 ≤ w ∧ w ≤ 2800 then { s with power := { s.power with mgmtCap := w }, sent := .bmcDone :: s.sent }
     else { s with sent := .bmcRefused :: s.sent })) ∧
  (∀ s : State, 7813 ≤ s.power.beyond → s.power.waitBoundary = false →
    exec .capPersistenceExpiry s = .next { s with
      power := { s.power with waitBoundary := true, stepSeen := false, waitSince := s.hal.ms } }) ∧
  (∀ s : State, s.power.beyond < 7813 → exec .capPersistenceExpiry s = .next s) ∧
  (∀ s : State, s.power.waitBoundary = true → (s.power.stepSeen = true ∨ s.power.waitSince + 1000 ≤ s.hal.ms) →
    s.timed.region = none → s.ctxs = [] →
    ∃ t, exec .capStop s = .next t ∧ t.power = { s.power with waitBoundary := false } ∧ t.mod = s.mod ∧
      t.ctxs = [] ∧ t.tiles = s.tiles ∧ t.gauge.enable = s.gauge.enable) ∧
  (∀ s : State, s.power.waitBoundary = false → exec .capStop s = .next s) ∧
  (∀ s : State, s.power.stepSeen = false → s.hal.ms < s.power.waitSince + 1000 → exec .capStop s = .next s) ∧
  (∀ s : State, s.hal.reloading = false → s.power.cool = true → s.sec.computeEnable = false →
    exec .trippedClear s = .next { s with power := { s.power with tripped := false } }) ∧
  (∀ s : State, s.hal.reloading = false → s.power.cool = false → exec .trippedClear s = .next s) ∧
  (∀ (s : State) (r : Nat), -12 ≤ tabGet s.power.trims 0 r + 1 → tabGet s.power.trims 0 r + 1 ≤ 12 →
    (∀ e ∈ s.power.trimAt, e.1 = r → e.2 + 3600000 ≤ s.hal.ms) →
    ∃ t, exec (.phyTrim r true) s = .next t ∧ t = { s with power := t.power, hal := t.hal } ∧
      tabGet t.power.trims 0 r = tabGet s.power.trims 0 r + 1 ∧
      t.power.phyTrims = min (2 ^ 32 - 1) (s.power.phyTrims + 1) ∧
      t.hal = { s.hal with log := (⟨.trim, [r, 1], s.tick.toNat⟩ :: s.hal.log).take 4096 }) ∧
  (∀ (s : State) (r : Nat), tabGet s.power.trims 0 r = 12 →
    (∀ e ∈ s.power.trimAt, e.1 = r → e.2 + 3600000 ≤ s.hal.ms) → exec (.phyTrim r true) s = .next { s with
    hal := { s.hal with log := (⟨.trimLimit, [r], s.tick.toNat⟩ :: s.hal.log).take 4096 } }) ∧
  (∀ (s : State) (r : Nat) (b : Bool) (e : Nat × Nat), s.power.trimAt.find? (fun x => x.1 == r) = some e →
    s.hal.ms < e.2 + 3600000 → exec (.phyTrim r b) s = .next s) ∧
  (∀ (k : Nat) (e : Int) (b : Bool), k ≤ 60 →
    (0 ≤ e → thermalNext k (some e) b = min 60 (k + 2)) ∧
    (-3 ≤ e → e < 0 → thermalNext k (some e) b = k) ∧
    (e < -3 → thermalNext k (some e) b = if b then k - 1 else k)))

/-- A control period's boundary: the effective cap, the agreed ratio, the temperatures, and no trip on one hot read
(R410, R418, R420, R421, R422, R433). -/
def Obligations.PeriodBoundaryTakesItsReadings : Prop :=
  (∀ (s : State) (r : Readings), s.mod.state = .run → s.power.own < 61 → (∀ i ∈ hotSensors r, i ∉ s.power.hot) →
    (0 < s.power.thermal ∨ readingsExcess r = none ∨ ∃ e, readingsExcess r = some e ∧ e < 0) →
    ∃ t, exec (.controlPeriodBoundary r) s = .next t ∧ t = { s with power := t.power } ∧
      t.power.effective = min s.power.hostCap s.power.mgmtCap ∧ t.power.period = s.jobTick.toNat / 38400 ∧
      t.power.applied = s.power.applied ∧
      tabGet t.power.agreements none (s.jobTick.toNat / 38400) =
        some ((tabGet s.power.agreements none (s.jobTick.toNat / 38400)).getD s.power.applied) ∧
      t.power.measuredK = (tabGet s.power.agreements none s.power.period).getD s.power.applied ∧ t.power.readings = r ∧ t.power.hot = hotSensors r ∧
      t.power.unatt = false ∧ t.power.tripped = s.power.tripped ∧ t.power.hostCap = s.power.hostCap) ∧
  (∀ (s : State) (r : Readings) (i : Nat × Nat), s.mod.state = .run → s.power.own < 61 → i ∈ hotSensors r →
    i ∈ s.power.hot → s.power.tripped = false →
    ∃ t, exec (.controlPeriodBoundary r) s = .next t ∧ t.power.tripped = true ∧ t.mod.alertN = false ∧
      t.mod.state = .ready ∧ t.mod.computeHeld = true ∧ t.tiles = [] ∧ t.tick = 0 ∧ t.dram = s.dram ∧
      t.timed.valid = false ∧ t.power.agreed = false)

/-- Row repairs, TSV shifts, channel replacement and diagnostics; ageing and end of life (R217, R218, R219, R400,
R401, R440, R462, R403, R404, R460). -/
def Obligations.RepairsAndAgeing : Prop :=
  ((∀ (s : State) (ch d b r : Nat), s.hal.reloading = false → s.rowDue ch d b r = true → s.repair.rows = [] →
    tabGet s.repair.rowsDone 0 (rowKey ch d b) < 16 →
    exec (.rowRepair ch d b r) s = .next { s with repair := { s.repair with rows := [(ch, d, b, r)] } }) ∧
  (∀ (s : State) (ch d b r : Nat), s.hal.reloading = false → s.rowDue ch d b r = false →
    exec (.rowRepair ch d b r) s = .next s) ∧
  (∀ (s : State) (ch d b r : Nat), s.hal.reloading = false → s.rowDue ch d b r = true →
    16 ≤ tabGet s.repair.rowsDone 0 (rowKey ch d b) →
    exec (.rowRepair ch d b r) s = .next { s with
      repair := { s.repair with waiting := addNew s.repair.waiting ch } }) ∧
  (∀ (s : State) (ch d b r : Nat), s.repair.rows = [(ch, d, b, r)] →
    ∃ t, exec (.rowRepairSwitch ch d b r) s = .next t ∧
      t = { s with
        repair := t.repair, hal := t.hal, freeCtr := s.freeCtr + 1, poison := t.poison
        memCounters := t.memCounters } ∧
      (∀ c ∈ s.poison, c ∈ t.poison) ∧ (∀ c ∈ t.poison, c ∈ s.poison ∨ s.inRow ch d b r c = true) ∧
      t.repair.rows = [] ∧
      tabGet t.repair.rowsDone 0 (rowKey ch d b) = tabGet s.repair.rowsDone 0 (rowKey ch d b) + 1 ∧
      t.repair.unrecorded = s.repair.unrecorded ++ [(1, ch, d, b, r)] ∧
      t.hal.log.head? = some ⟨.repair, [1, ch, d, b, r], s.tick.toNat⟩) ∧
  (∀ (s : State) (ch g : Nat), s.hal.reloading = false → tabGet s.repair.tsvs 0 ch < 2 →
    ∃ t, exec (.tsvShift ch g) s = .next t ∧ t = { s with repair := t.repair, hal := t.hal } ∧
      tabGet t.repair.tsvs 0 ch = tabGet s.repair.tsvs 0 ch + 1 ∧
      t.repair.unrecorded = s.repair.unrecorded ++ [(2, ch, g, 0, 0)]) ∧
  (∀ (s : State) (ch g : Nat), s.hal.reloading = false → 2 ≤ tabGet s.repair.tsvs 0 ch →
    exec (.tsvShift ch g) s = .next { s with
      repair := { s.repair with waiting := addNew s.repair.waiting ch } }) ∧
  (∀ (s : State) (ch : Nat), s.hal.reloading = false → s.channelDue ch = true → s.kernels = [] →
    s.timed.region = none → tabGet s.repair.channels 0 (ch / 32) < 2 →
    ∃ t, exec (.channelReplacement ch) s = .next t ∧
      t = { s with
        repair := t.repair, hal := t.hal, freeCtr := s.freeCtr + 1, poison := t.poison
        memCounters := t.memCounters } ∧
      t.physicalOf ch = (s.spareChannel (ch / 32)).getD (32 + tabGet s.repair.channels 0 (ch / 32)) ∧
      tabGet t.repair.channels 0 (ch / 32) = tabGet s.repair.channels 0 (ch / 32) + 1 ∧
      t.repair.failed = s.repair.failed) ∧
  (∀ (s : State) (ch : Nat), s.hal.reloading = false → s.channelDue ch = false →
    exec (.channelReplacement ch) s = .next s) ∧
  (∀ (s : State) (ch : Nat), s.hal.reloading = false → s.channelDue ch = true → s.kernels ≠ [] →
    exec (.channelReplacement ch) s = .next { s with
      repair := { s.repair with waiting := addNew s.repair.waiting ch } }) ∧
  (∀ (s : State) (ch : Nat), s.hal.reloading = false → s.channelDue ch = true → s.kernels = [] →
    s.timed.region = none → 2 ≤ tabGet s.repair.channels 0 (ch / 32) →
    ∃ t, exec (.channelReplacement ch) s = .next t ∧ t = { s with repair := t.repair, hal := t.hal } ∧
      ch ∈ t.repair.failed) ∧
  (∀ (s : State) (r : DiagResult), s.ctxs.all (fun e => e.2.kind != 3) = true →
    exec (.diagnosticsRequest r) s = .next s) ∧
  (∀ (s : State) (d row col : Nat), s.ctxs.any (fun e => e.2.kind == 3 && e.2.st != .free) = true →
    ∃ t, exec (.diagnosticsRequest (.tile d row col)) s = .next t ∧
      t = { s with repair := t.repair, hal := t.hal } ∧ (d, row, col) ∈ t.repair.toRetire ∧
      t.repair.unrecorded = s.repair.unrecorded ++ [(6, s.hal.ms, 0, 0, 0)] ∧ t.hal.needRecovery = false)) ∧
  ((∀ (s : State) (l : List Nat), s.mod.state ≠ .off →
    ∃ t, exec (.ageingMeasurement l) s = .next t ∧
      t.hal.slowdown = (List.range 4).map (fun d => l.getD d 0) ∧
      (t.hal.eolMonitor, t.hal.eolDate) ∈ t.endDates ∧ (∀ e ∈ t.endDates, t.hal.eolDate ≤ e.2) ∧
      (t.hal.eolDate - s.hal.ms < 2592000000 ∨ (∃ x ∈ t.hal.slowdown, s.mod.record.margin ≤ x) → t.mod.alertN = false) ∧
      t = { s with hal := t.hal, mod := t.mod, repair := t.repair, sent := t.sent } ∧
      (s.hal.ms / 86400000 < s.mod.bank.ageing.length → t.repair = s.repair)) ∧
  (∀ (s : State) (p l : Nat) (e : EyeSample), s.mod.pg = true →
    ∃ t, exec (.eyeMonitorSample p l e) s = .next t ∧
      t.port p = { s.port p with ceFrames := min (2 ^ 48 - 1) ((s.port p).ceFrames + e.corrected) } ∧
      (∀ q, q ≠ p → t.port q = s.port q) ∧ tabGet t.hal.eyes 0 (p * 16 + l) = e.height ∧
      (t.hal.eolMonitor, t.hal.eolDate) ∈ t.endDates ∧ (∀ e ∈ t.endDates, t.hal.eolDate ≤ e.2) ∧
      (t.hal.eolDate - s.hal.ms < 2592000000 → t.mod.alertN = false) ∧
      t = { s with
        hal := t.hal, mod := t.mod, sent := t.sent, fab := { s.fab with ports := t.fab.ports } }) ∧
  (∀ (s : State) (p l : Nat) (e : EyeSample), s.mod.pg = false → exec (.eyeMonitorSample p l e) s = .next s) ∧
  (∀ (s : State) (d : Nat), s.mod.bank.ageing.length < 90 → s.exponentOf d = s.mod.record.exponent.getD d 0) ∧
  (∀ (s : State) (d : Nat), 90 ≤ s.mod.bank.ageing.length → 100 ≤ s.exponentOf d ∧ s.exponentOf d ≤ 500))

/-- The fabric manager's key, and which of its messages are accepted (R461). -/
def Obligations.ManagerMessagesNeedTheInstalledKey : Prop :=
  (∀ (s : State) (k : BitVec 256), s.hal.reloading = false → s.mod.state ≠ .off →
    (s.mod.state = .aux ∨ s.mod.state = .ready ∨ s.fab.fmKey = none) →
    exec (.fabricManagerKeyInstall k) s = .next { s with
      fab := { s.fab with fmKey := some k }, sent := .bmcDone :: s.sent }) ∧
  (∀ (s : State) (k : BitVec 256), s.hal.reloading = false → (s.mod.state = .run ∨ s.mod.state = .hold) →
    s.fab.fmKey ≠ none → exec (.fabricManagerKeyInstall k) s = .next { s with sent := .bmcRefused :: s.sent }) ∧
  (∀ (s : State) (b : Bool), (s.deviceReset b).fab.fmKey = s.fab.fmKey) ∧
  (∀ (s : State) (p : Bool), s.mod.state = .off →
    ∃ t, exec (.hotInsertion p) s = .next t ∧ t.fab.fmKey = none ∧ t.fab.valid = false) ∧
  (∀ (s : State) (m : FmHead), s.hal.reloading = false → s.mod.state ≠ .off →
    (s.fab.fmKey = none ∨ m.sigOk = false ∨ m.issue.toNat ≤ s.fab.lastIssue.toNat) →
    (∀ d k, exec (.fabricIdentityAssignment m d k) s =
      .next { s with fab := { s.fab with rejected := min (2 ^ 32 - 1) (s.fab.rejected + 1) } }) ∧
    (∀ p ms ds r pp cs, exec (.partitionAssignment m p ms ds r pp cs) s =
      .next { s with fab := { s.fab with rejected := min (2 ^ 32 - 1) (s.fab.rejected + 1) } }) ∧
    (∀ g ms, exec (.multicastGroupDefinition m g ms) s =
      .next { s with fab := { s.fab with rejected := min (2 ^ 32 - 1) (s.fab.rejected + 1) } }) ∧
    (∀ p, exec (.partitionRevocation m p) s =
      .next { s with fab := { s.fab with rejected := min (2 ^ 32 - 1) (s.fab.rejected + 1) } })) ∧
  (∀ (s : State) (m : FmHead) (k : BitVec 256), s.hal.reloading = false → s.mod.state ≠ .off →
    s.fab.fmKey = some k → m.sigOk = true → s.fab.lastIssue.toNat < m.issue.toNat →
    (∀ slot, slot < 128 → s.fab.deviceId < 2 ^ 16 → exec (.fabricIdentityAssignment m s.fab.deviceId slot) s =
      .next { s with fab := { s.fab with lastIssue := m.issue, domainSlot := slot, valid := true } }) ∧
    (∀ p, s.fab.partValid = false → exec (.partitionRevocation m p) s =
      .next { s with fab := { s.fab with lastIssue := m.issue, revoked := addNew s.fab.revoked p } }))

/-- Partitions, groups, revocation, request timeouts and the grace period (R244, R250, R256, R257, R260, R269, R270,
R271). -/
def Obligations.PartitionsAreFormedAndRevoked : Prop :=
  (∀ (s : State) (m : FmHead) (p : Nat) (ms ds : List Nat) (root : Bool) (pp : Nat) (cs : List (Nat × Nat)),
    s.hal.reloading = false → s.fmOk m = true → s.fab.partValid = false → p < 2 ^ 16 → ds.length ≤ 128 →
    ∃ t, exec (.partitionAssignment m p ms ds root pp cs) s = .next t ∧ t.fab.partition = p ∧
      t.fab.partValid = true ∧ t.fab.members = ms ∧ t.fab.domain = ds ∧ t.fab.outSeq = [] ∧ t.fab.inSeq = [] ∧
      t.fab.groups = [] ∧ t.timed.valid = false ∧ t.timed.root = root ∧ t.timed.children = cs ∧
      t.fab.lastIssue = m.issue ∧ t.ctxs = s.ctxs ∧ t.dram = s.dram ∧ t.tiles = s.tiles ∧ t.mod = s.mod) ∧
  (∀ (s : State) (m : FmHead) (p : Nat) (ms ds : List Nat) (root : Bool) (pp : Nat) (cs : List (Nat × Nat)),
    s.hal.reloading = false → s.fab.partValid = true → s.fab.partition ≠ p →
    exec (.partitionAssignment m p ms ds root pp cs) s =
      .next { s with fab := { s.fab with rejected := min (2 ^ 32 - 1) (s.fab.rejected + 1) } }) ∧
  (∀ (s : State) (m : FmHead) (p : Nat) (ms ds : List Nat) (root : Bool) (pp : Nat) (cs : List (Nat × Nat)),
    s.hal.reloading = false → 128 < ds.length →
    exec (.partitionAssignment m p ms ds root pp cs) s =
      .next { s with fab := { s.fab with rejected := min (2 ^ 32 - 1) (s.fab.rejected + 1) } }) ∧
  (∀ (s : State) (m : FmHead) (g : Nat) (ms : List Nat), s.hal.reloading = false → s.fmOk m = true →
    s.fab.partValid = true → g < 4096 → ms.length ≤ 64 → (∀ d ∈ ms, d ∈ s.fab.members) →
    exec (.multicastGroupDefinition m g ms) s = .next { s with
      fab := { s.fab with lastIssue := m.issue, groups := tabSet s.fab.groups [] g ms } }) ∧
  (∀ (s : State) (m : FmHead), s.fmOk m = true → s.fab.partValid = true →
    ∃ t, exec (.partitionRevocation m s.fab.partition) s = .next t ∧ t.fab.partValid = false ∧
      s.fab.partition ∈ t.fab.revoked ∧ t.timed.region = none ∧ t.timed.valid = false ∧ t.fab.out = [] ∧
      (∀ a ∈ t.flights, a.place.isRemote = false) ∧ (∀ o ∈ t.objs, o.grace = true ∨ o.aperture = none) ∧ t.mod = s.mod ∧
      t.tick = s.tick ∧ t.hostMem = s.hostMem) ∧
  (∀ (s : State) (r : Nat × Nat), s.fab.partValid = true → r ∈ s.fab.reports → r.2 + 1000 ≤ s.hal.ms →
    ∃ t, exec .fabricTimeout s = .next t ∧ t.fab.partValid = false ∧ t.fab.reports = [] ∧ t.fab.out = []) ∧
  (∀ s : State, (∀ r ∈ s.fab.reports, s.hal.ms < r.2 + 1000) → exec .fabricTimeout s = .next s) ∧
  (∀ (s : State) (w : Walk) (rs : List (Nat × Nat × Nat)), s.walks = [w] → w.kind = .revoke → w.ranges = some rs →
    w.untilTick = none → s.adminHeld = [] →
    ∃ t, exec .revocationWalkEnd s = .next t ∧ t.walks = [] ∧
      ∀ r ∈ rs, ∀ e ∈ t.cistern, ∀ l ∈ e.2, l.dev ≠ r.1) ∧
  (∀ s : State, s.walks = [] → s.adminHeld = [] → exec .revocationWalkEnd s = .next s) ∧
  (∀ (s : State) (r : OutReq), s.fab.out = [r] → r.left = true → r.reported = false →
    r.sentAt + s.fab.reqTimeout * 60000 ≤ s.tick.toNat →
    exec (.requestTimeout r.dev r.route r.seq) s = .next { s with
      fab := { s.fab with out := [{ r with reported := true }], reports := s.fab.reports ++ [(r.dev, s.hal.ms)] }
      sent := .timeoutReport r.dev r.route r.seq r.port r.plane :: s.sent }) ∧
  (∀ (s : State) (o : Obj), s.objs = [o] → o.grace = true →
    o.since + s.fab.retainGrace * 1000 ≤ s.hal.ms →
    ∃ t, exec .retainGraceExpiry s = .next t ∧ t.objs = [] ∧
      (∀ a, o.dpa ≤ a → a < o.dpa + o.size → t.dram.read a = 0) ∧
      (∀ a, a < o.dpa ∨ o.dpa + o.size ≤ a → t.dram.read a = s.dram.read a) ∧ t.ctxs = s.ctxs) ∧
  (∀ (s : State) (o : Obj), s.objs = [o] → o.grace = true → s.hal.ms < o.since + s.fab.retainGrace * 1000 →
    exec .retainGraceExpiry s = .next s) ∧
  (∀ s : State, s.objs.all (fun o => !o.grace) = true → exec .retainGraceExpiry s = .next s)

/-- The management bus: addresses, sensors, events, the health log and register reads (R402, R460, R462, R463,
R475). -/
def Obligations.ManagementRequestsAnswer : Prop :=
  (∀ s : State, s.mod.state ≠ .off → s.hal.reloading = false →
    (∀ a, exec (.smbusArp a) s = .next { s with hal := { s.hal with smbus := a } }) ∧
    (∀ e, exec (.mctpEndpointIdAssignment e) s = .next { s with hal := { s.hal with eid := e } }) ∧
    (∀ x, exec (.pldmSensorRead x) s = .next { s with
      freeCtr := s.freeCtr + 1, sent := .sensor (s.sensor x) :: s.sent }) ∧
    (∀ a l, s.hal.alerts = a :: l → exec .pldmEventRead s = .next { s with
      hal := { s.hal with alerts := l }, mod := { s.mod with alertN := decide (l = []) } }) ∧
    (∀ f n, exec (.healthLogReadout f n) s = .next { s with
      sent := .log ((s.hal.log.reverse.drop f).take n) :: s.sent }) ∧
    (∀ o r v, regAt o = some (r, 0) → exec (.bmcRegisterAccess false o (r.width / 8) v) s = .next { s with
      sent := .bmcValue (BitVec.ofNat 64 (s.readReg r)) :: s.sent }) ∧
    (∀ o r n v w, regAt o = some (r, 0) → 8 * n ≠ r.width →
      exec (.bmcRegisterAccess w o n v) s = .next { s with sent := .bmcRefused :: s.sent })) ∧
  (∀ (s : State) (x : Sensor), s.mod.state ≠ .off → s.hal.reloading = true →
    exec (.pldmSensorRead x) s = .next { s with
      hal := { s.hal with deferred := s.hal.deferred ++ [.pldmSensorRead x] } }) ∧
  (∀ s : State, s.mod.state = .off →
    exec .pldmEventRead s = .next s ∧ (∀ a, exec (.smbusArp a) s = .next s) ∧
    ∀ e, exec (.mctpEndpointIdAssignment e) s = .next s)

/-- The end of a firmware reload runs the new image and applies what was deferred, in order (R402, R444, R476). -/
def Obligations.ReloadAppliesWhatItDeferred : Prop :=
  (∀ s : State, s.hal.reloading = true →
    (∀ w, exec (.hostCapWrite w) s = .next { s with hal := { s.hal with deferred := s.hal.deferred ++ [.hostCapWrite w] } }) ∧
    (∀ f d, exec (.ctxCreate f d) s = .next { s with hal := { s.hal with deferred := s.hal.deferred ++ [.ctxCreate f d] } }) ∧
    (∀ c d b r, exec (.rowRepair c d b r) s =
      .next { s with hal := { s.hal with deferred := s.hal.deferred ++ [.rowRepair c d b r] } }) ∧
    (∀ f d, exec (.mapPages f d) s = .next { s with hal := { s.hal with deferred := s.hal.deferred ++ [.mapPages f d] } })) ∧
  (∀ (s : State) (i : FwImage) (a b : Nat), s.hal.reloading = true → s.hal.reloadImg = some i → i.floor ≤ s.svnFloor →
    s.hal.deferred = [.hostCapWrite a, .hostCapWrite b] → 900 ≤ a → a ≤ 2800 → 900 ≤ b → b ≤ 2800 →
    exec .firmwareReloadComplete s = .next { s with
      hal := { s.hal with reloading := false, reloadImg := none, deferred := [] }
      sec := { s.sec with running := some i, fwState := 2, fwError := 0, fwSvn := i.svn }
      power := { s.power with hostCap := b } }) ∧
  (∀ (s : State) (i : FwImage), s.hal.reloading = true → s.hal.reloadImg = some i →
    exec .firmwareReloadComplete s = .next (s.hal.deferred.foldl State.runDeferred
      (({ s with hal := { s.hal with reloading := false, reloadImg := none, deferred := [] } }).runImage i))) ∧
  (∀ s : State, s.hal.reloading = false → exec .firmwareReloadComplete s = .next s)

/-- Ports: training, retries, lane moves and going down; the culvert and job boundaries (R48, R249, R257, R268,
R280, R281, R285, R298, R299, R278, R279, R400). -/
def Obligations.PortsAndTheCulvert : Prop :=
  ((∀ (s : State) (p : Nat), (s.port p).up = true → s.timed.region = none → s.fab.partValid = false →
    ∃ t, exec (.fabricPortDown p) s = .next t ∧ exec (.linkSignalLoss p) s = .next t ∧
      t.port p = { s.port p with
        up := false, inPath := false, downEvents := min (2 ^ 32 - 1) ((s.port p).downEvents + 1) } ∧
      (∀ q, q ≠ p → t.port q = s.port q) ∧ t.sent = .linkDown :: s.sent ∧
      t = { s with fab := { s.fab with ports := t.fab.ports }, sluices := t.sluices, sent := t.sent } ∧
      ∀ e ∈ t.sluices, e ∈ s.sluices ∧ (e.1.kind = .port → e.1.src ≠ islandPort p ∧ e.1.dst ≠ islandPort p)) ∧
  (∀ (s : State) (p : Nat), (s.port p).up = false → exec (.fabricPortDown p) s = .next s ∧
    exec (.linkSignalLoss p) s = .next s ∧ ∀ a, exec (.frameRetry p a) s = .next s) ∧
  (∀ (s : State) (d : Bool), (s.port (if d then 17 else 16)).up = true → s.timed.region = none →
    ∃ t, exec (.retrain d) s = .next t ∧ (t.port (if d then 17 else 16)).up = false ∧
      (t.port (if d then 17 else 16)).enable = (s.port (if d then 17 else 16)).enable ∧ t.mod = s.mod) ∧
  (∀ (s : State) (p a : Nat), (s.port p).up = true → a ≤ 16 →
    ∃ t, exec (.frameRetry p a) s = .next t ∧ t = { s with fab := { s.fab with ports := t.fab.ports } } ∧
      t.port p = { s.port p with frameRetries := min (2 ^ 48 - 1) ((s.port p).frameRetries + 1) } ∧
      ∀ q, q ≠ p → t.port q = s.port q) ∧
  (∀ (s : State) (p a : Nat), (s.port p).up = true → 16 < a →
    ∃ t, exec (.frameRetry p a) s = .next t ∧ (t.port p).up = false) ∧
  (∀ (s : State) (p : Nat), s.hal.reloading = false → p < 18 → (s.port p).spare = false →
    ∃ t, exec (.laneMove p true) s = .next t ∧ (t.port p).spare = true ∧ (t.port p).up = false ∧
      (t.port p).laneMoves = min (2 ^ 32 - 1) ((s.port p).laneMoves + 1) ∧
      t.repair.unrecorded = s.repair.unrecorded ++ [(9, p, 0, 0, 0)] ∧
      t.hal.log = (⟨.laneMove, [p, 0], s.tick.toNat⟩ :: s.hal.log).take 4096) ∧
  (∀ (s : State) (p : Nat), s.hal.reloading = false → p < 18 → (s.port p).spare = true →
    ∃ t, exec (.laneMove p true) s = .next t ∧ (t.port p).broken = true ∧ (t.port p).up = false) ∧
  (∀ (s : State) (p : Nat) (r : TrainResult), p < 16 → (s.port p).up = false → s.mod.pg = true →
    (s.port p).broken = false → r.ok = true → s.fab.partValid = false → s.fab.out = [] →
    ∃ t, exec (.portTraining p r) s = .next t ∧ (t.port p).up = true ∧ (t.port p).peerId = r.peerId ∧
      (t.port p).vis = (r.rt + 1) / 2 + 1 ∧
      (t.port p).cls = agreedClass (classOf false ((r.rt + 1) / 2 + 1) (s.port p).floor) r.peerClass ∧
      (t.port p).trainFailed = false ∧ t.sent = .linkUp :: s.sent ∧ t.tiles = s.tiles ∧ t.dram = s.dram) ∧
  (∀ (s : State) (p : Nat) (r : TrainResult), p < 18 → (s.port p).up = false →
    (r.ok = false ∨ (s.port p).broken = true ∨ s.mod.pg = false ∨ (16 ≤ p ∧ 3 ≤ r.culverts)) →
    ∃ t, exec (.portTraining p r) s = .next t ∧ t.port p = { s.port p with trainFailed := true } ∧
      t = { s with fab := { s.fab with ports := t.fab.ports } }) ∧
  (∀ (s : State) (l : List Nat), (s.fab.pathAdapt = false ∨ s.fab.partValid = false) →
    exec (.pathTableReweight l) s = .next s) ∧
  (∀ (s : State) (l : List Nat), s.fab.pathAdapt = true → s.fab.partValid = true →
    ∃ t, exec (.pathTableReweight l) s = .next t ∧ t.fab.out = s.fab.out ∧ t.ctxs = s.ctxs ∧
      t = { s with fab := { s.fab with path := t.fab.path, ports := t.fab.ports }, freeCtr := s.freeCtr + 1 } ∧
      ∀ p, (t.port p).up = (s.port p).up)) ∧
  ((∀ s : State, s.mod.computeHeld = false → s.mod.chainActive = false → s.mod.pg = true →
    (s.port 16).enable = true → (s.port 17).enable = true →
    ∃ t, exec .chainLoopbackTraining s = .next t ∧ t.mod = { s.mod with chainActive := true } ∧
      t.port 16 = { s.port 16 with loopback := true } ∧ t.port 17 = { s.port 17 with loopback := true } ∧
      t = { s with mod := t.mod, fab := { s.fab with ports := t.fab.ports } }) ∧
  (∀ s : State, s.mod.computeHeld = true → exec .chainLoopbackTraining s = .next s) ∧
  (∀ (s : State) (d : Bool), s.ctxs = [] → s.timed.region = none → s.mod.chainActive = true →
    ∃ t, exec (.chainEnableWrite d false) s = .next t ∧ t.mod.chainActive = false ∧ (t.port 16).up = false ∧
      (t.port 17).up = false ∧ (t.port (if d then 17 else 16)).enable = false ∧ t.dram = s.dram) ∧
  (∀ (s : State) (d : Bool), s.liveCtxs.isEmpty = false →
    ∃ t, exec (.chainEnableWrite d true) s = .next t ∧ t.mod = s.mod ∧
      (t.port (if d then 17 else 16)).enable = true ∧ t = { s with fab := { s.fab with ports := t.fab.ports } }) ∧
  (∀ s : State, s.hal.reloading = false → s.repair.waiting = [] → s.repair.toRetire = [] →
    s.repair.unrecorded = [] → (s.port 16).enable = true → (s.port 17).enable = true →
    (s.port 16).loopback = true → (s.port 17).loopback = true → s.mod.computeHeld = false →
    s.repair.laneWait = [] → s.hal.memErrors = [] →
    exec .jobBoundary s = .next { (Config.hostReports s.freeCtr).foldl State.hostReport { s with freeCtr := s.freeCtr + 1 } with
      mod := { s.mod with chainActive := true } }) ∧
  (∀ s : State, s.hal.reloading = false → s.repair.waiting = [] → s.repair.toRetire = [] →
    s.repair.unrecorded = [] → (s.port 16).enable = false → s.mod.chainActive = false →
    s.repair.laneWait = [] → s.hal.memErrors = [] →
    exec .jobBoundary s = .next ((Config.hostReports s.freeCtr).foldl State.hostReport { s with freeCtr := s.freeCtr + 1 })))

/-- Class 0x0: scalar arithmetic, control, immediate loads, exits, and reconvergence (R60, R61, R63, R64, R62). -/
def Obligations.ScalarAndControlInstructions : Prop :=
  ((∀ (s u : State) (tile slot : Nat) (g : Group) (p : Path) (w : Word64) (op : ScalarOp),
    s.mayIssue tile slot (ctlKeys op w) g p u → ctlLegal op w = true → g.active p w ≠ 0 →
    op ≠ .branch → op ≠ .call → op ≠ .ret → op ≠ .exit →
    ∃ h, exec (.scalarControl tile slot op w) s = .next (u.putGroup tile slot h) ∧
      h = { g with s := h.s, paths := h.paths, issued := g.issued + 1, ready := h.ready } ∧
      (∀ n, h.sreg n = if n % 64 = wDst w % 64 then h.sreg (wDst w) else g.sreg n) ∧
      (op = .add → h.sreg (wDst w) = g.sreg (wA w) + g.sreg (wB w)) ∧
      (op = .sub → h.sreg (wDst w) = g.sreg (wA w) - g.sreg (wB w)) ∧
      (op = .mul → h.sreg (wDst w) = g.sreg (wA w) * g.sreg (wB w)) ∧
      (op = .cmpEq → h.sreg (wDst w) = if g.sreg (wA w) = g.sreg (wB w) then 1 else 0) ∧
      (op = .cmpNe → h.sreg (wDst w) = if g.sreg (wA w) = g.sreg (wB w) then 0 else 1) ∧
      (op = .cmpLtS → h.sreg (wDst w) = if (g.sreg (wA w)).toInt < (g.sreg (wB w)).toInt then 1 else 0) ∧
      (op = .cmpLtU → h.sreg (wDst w) = if (g.sreg (wA w)).toNat < (g.sreg (wB w)).toNat then 1 else 0) ∧
      h.paths = g.paths.filter (fun q => q != p) ++ [{ p with pc := p.pc + 8 }]) ∧
  (∀ (s u : State) (tile slot : Nat) (g : Group) (p : Path) (w : Word64),
    s.mayIssue tile slot (ctlKeys .branch w) g p u → ctlLegal .branch w = true → g.active p w = p.mask → p.mask ≠ 0 →
    exec (.scalarControl tile slot .branch w) s = .next (u.putGroup tile slot { g with
      paths := g.paths.filter (fun q => q != p) ++ [{ p with pc := p.pc + BitVec.ofInt 64 (wImmS w) }]
      issued := g.issued + 1 }) ∧
    ∃ h, exec (.scalarControl tile slot .call w) s = .next (u.putGroup tile slot h) ∧ h.v = g.v ∧ h.p = g.p ∧
      (∀ n, h.sreg n = if n % 64 = wDst w % 64 then p.pc + 8 else g.sreg n) ∧
      h.paths = g.paths.filter (fun q => q != p) ++ [{ p with pc := p.pc + BitVec.ofInt 64 (wImmS w) }]) ∧
  (∀ (s u : State) (tile slot : Nat) (g : Group) (p : Path) (w : Word64),
    s.mayIssue tile slot (ctlKeys .ret w) g p u → ctlLegal .ret w = true → g.active p w = p.mask → p.mask ≠ 0 →
    exec (.scalarControl tile slot .ret w) s = .next (u.putGroup tile slot { g with
      paths := g.paths.filter (fun q => q != p) ++ [{ p with pc := g.sreg (wA w) }], issued := g.issued + 1 })) ∧
  (∀ (s u : State) (tile slot : Nat) (g : Group) (p : Path) (w : Word64),
    s.mayIssue tile slot (ctlKeys .branch w) g p u → g.active p w ≠ 0 →
    p.mask &&& ~~~(g.active p w) ≠ 0 →
    (ctlLegal .branch w = true → exec (.scalarControl tile slot .branch w) s = .next (u.putGroup tile slot { g with
      paths := g.paths.filter (fun q => q != p) ++
        [{ p with pc := p.pc + BitVec.ofInt 64 (wImmS w), mask := p.mask &&& g.active p w },
         { p with pc := p.pc + 8, mask := p.mask &&& ~~~(g.active p w) }]
      issued := g.issued + 1 })) ∧
    (ctlLegal .exit w = true → exec (.scalarControl tile slot .exit w) s = .next (u.putGroup tile slot { g with
      paths := g.paths.filter (fun q => q != p) ++
        [{ p with pc := p.pc + 8, mask := p.mask &&& ~~~(g.active p w) }]
      issued := g.issued + 1, turn := { p with mask := p.mask &&& ~~~(g.active p w) }.low }))) ∧
  (∀ (s u : State) (tile slot : Nat) (g : Group) (p : Path) (w : Word64),
    s.mayIssue tile slot (ctlKeys .exit w) g p u → ctlLegal .exit w = true → g.active p w = p.mask → g.paths = [p] →
    ∃ t, exec (.scalarControl tile slot .exit w) s = .next t ∧ t.group tile slot = none ∧ t.dram = s.dram ∧
      t.ctxs = s.ctxs ∧ ∀ k, k ≠ tile → (t.tile k).groups = (u.tile k).groups) ∧
  (∀ (s u : State) (tile slot : Nat) (g : Group) (p : Path) (w imm : Word64),
    s.mayIssue tile slot [keyP (wPred w)] g p u → plainWord 0 0 w = true → wOp w = 0xFF → g.active p w ≠ 0 →
    ∃ h, exec (.immediateLoad tile slot w imm) s = .next (u.putGroup tile slot h) ∧
      h = { g with s := h.s, paths := h.paths, issued := g.issued + 1, ready := h.ready } ∧
      (∀ n, h.sreg n = if n % 64 = wDst w % 64 then imm else g.sreg n) ∧
      h.paths = g.paths.filter (fun q => q != p) ++ [{ p with pc := p.pc + 16 }]) ∧
  (∀ (s u : State) (tile slot : Nat) (g : Group) (p : Path) (w : Word64) (op : ScalarOp),
    s.mayIssue tile slot (ctlKeys op w) g p u → ctlLegal op w = true → g.active p w = 0 → p.mask ≠ 0 → op ≠ .branch →
    op ≠ .call → op ≠ .ret → op ≠ .exit →
    exec (.scalarControl tile slot op w) s = .next (u.putGroup tile slot { g with
      paths := g.paths.filter (fun q => q != p) ++ [{ p with pc := p.pc + 8 }], issued := g.issued + 1 })) ∧
  (∀ (s u : State) (tile slot : Nat) (g : Group) (p : Path) (w : Word64) (op : ScalarOp),
    s.mayIssue tile slot (ctlKeys op w) g p u → ctlLegal op w = false →
    exec (.scalarControl tile slot op w) s = .next (u.illegal tile slot g p))) ∧
  ((∀ (s u : State) (tile slot : Nat) (g : Group) (p : Path) (w : Word64),
    s.mayIssue tile slot [] g p u → plainWord 0 0 w = true → wOp w ≠ 0xFF → p.mask ≠ 0 → (∃ q ∈ g.paths, q ≠ p ∧ q.park = .no) →
    ∃ h, exec (.reconverge tile slot w) s = .next (u.putGroup tile slot h) ∧
      h.paths = g.paths.filter (fun q => q != p) ++ [{ p with park := .reconverge }] ∧
      h = { g with paths := h.paths, since := h.since, issued := 16 }) ∧
  (∀ (s u : State) (tile slot : Nat) (g : Group) (p q : Path) (w : Word64),
    s.mayIssue tile slot [] g p u → plainWord 0 0 w = true → wOp w ≠ 0xFF → p.mask ≠ 0 → g.paths = [q, p] → q ≠ p → q.pc = p.pc →
    q.park = .reconverge →
    ∃ h, exec (.reconverge tile slot w) s = .next (u.putGroup tile slot h) ∧
      h.paths = [{ q with mask := q.mask ||| p.mask, pc := p.pc + 8, park := .no }] ∧ h.v = g.v ∧ h.s = g.s ∧
      h.p = g.p))

/-- Class 0x1: integer lanes, compares, shuffles and RDRAW (R63, R64, R173). -/
def Obligations.VectorIntegerInstructions : Prop :=
  (∀ (s u : State) (tile slot : Nat) (g : Group) (p : Path) (w : Word64) (op : IntOp),
    s.mayIssue tile slot (vecKeys w) g p u → plainWord 1 0 w = true → wOp w ≠ 0x3C → p.mask ≠ 0 →
    op ∈ [IntOp.add, .sub, .mul, .shl, .shrU, .shrS, .and, .or, .xor, .shuffle] →
    ∃ h, exec (.vectorInteger tile slot op w) s = .next (u.putGroup tile slot h) ∧
      h = { g with v := h.v, paths := h.paths, issued := g.issued + 1, ready := h.ready } ∧
      (∀ r l, l < 32 → (r ≠ wDst w ∨ (g.active p w).getLsbD l = false) → h.vreg r l = g.vreg r l) ∧
      (∀ l, l < 32 → (g.active p w).getLsbD l = true →
        (op = .add → h.vreg (wDst w) l = g.vreg (wA w) l + g.vreg (wB w) l) ∧
        (op = .sub → h.vreg (wDst w) l = g.vreg (wA w) l - g.vreg (wB w) l) ∧
        (op = .mul → h.vreg (wDst w) l = g.vreg (wA w) l * g.vreg (wB w) l) ∧
        (op = .and → h.vreg (wDst w) l = g.vreg (wA w) l &&& g.vreg (wB w) l) ∧
        (op = .or → h.vreg (wDst w) l = g.vreg (wA w) l ||| g.vreg (wB w) l) ∧
        (op = .xor → h.vreg (wDst w) l = g.vreg (wA w) l ^^^ g.vreg (wB w) l) ∧
        (op = .shuffle → h.vreg (wDst w) l = g.vreg (wA w) ((g.vreg (wB w) l).toNat % 32)) ∧
        ((g.vreg (wB w) l).toNat < 32 →
          (op = .shl → h.vreg (wDst w) l = g.vreg (wA w) l <<< (g.vreg (wB w) l).toNat) ∧
          (op = .shrU → h.vreg (wDst w) l = g.vreg (wA w) l >>> (g.vreg (wB w) l).toNat) ∧
          (op = .shrS → h.vreg (wDst w) l = (g.vreg (wA w) l).sshiftRight (g.vreg (wB w) l).toNat)) ∧
        (32 ≤ (g.vreg (wB w) l).toNat →
          (op = .shl → h.vreg (wDst w) l = Config.overShift 0 (g.vreg (wA w) l) (g.vreg (wB w) l)))) ∧
      h.paths = g.paths.filter (fun q => q != p) ++ [{ p with pc := p.pc + 8 }]) ∧
  (∀ (s u : State) (tile slot : Nat) (g : Group) (p : Path) (w : Word64) (op : IntOp),
    s.mayIssue tile slot (vecKeys w) g p u → plainWord 1 0 w = true → wOp w ≠ 0x3C → p.mask ≠ 0 →
    op ∈ [IntOp.cmpEq, .cmpNe, .cmpLtS, .cmpLtU] →
    ∃ h, exec (.vectorInteger tile slot op w) s = .next (u.putGroup tile slot h) ∧ h.v = g.v ∧ h.s = g.s ∧
      (∀ n l, l < 32 → (n % 8 ≠ wDst w % 8 ∨ (g.active p w).getLsbD l = false ∨ n % 8 = 7) →
        h.preg n l = g.preg n l) ∧
      (∀ l, l < 32 → (g.active p w).getLsbD l = true → wDst w % 8 ≠ 7 →
        (op = .cmpEq → h.preg (wDst w) l = (g.vreg (wA w) l == g.vreg (wB w) l)) ∧
        (op = .cmpNe → h.preg (wDst w) l = (g.vreg (wA w) l != g.vreg (wB w) l)) ∧
        (op = .cmpLtS → h.preg (wDst w) l = decide ((g.vreg (wA w) l).toInt < (g.vreg (wB w) l).toInt)) ∧
        (op = .cmpLtU → h.preg (wDst w) l = decide ((g.vreg (wA w) l).toNat < (g.vreg (wB w) l).toNat)))) ∧
  (∀ (s u : State) (tile slot : Nat) (g : Group) (p : Path) (w : Word64),
    s.mayIssue tile slot (scalarKeys w) g p u → plainWord 1 (2 ^ 17 - 1) w = true → wOp w = 0x3C →
    scalarPair w = true → p.mask ≠ 0 → 1 ≤ wImm w →
    ∃ h, exec (.rdraw tile slot w) s = .next (u.putGroup tile slot h) ∧ h.s = g.s ∧ h.p = g.p ∧
      (∀ r l, l < 32 → (r ≠ wDst w ∨ (g.active p w).getLsbD l = false) → h.vreg r l = g.vreg r l) ∧
      (∀ l, l < 32 → (g.active p w).getLsbD l = true → h.vreg (wDst w) l =
        BitVec.ofNat 32 (rngValue (g.sreg (wA w)) (((g.sreg (wB w)).toNat + l * wImm w) % 2 ^ 64))) ∧
      tabGet h.ready 0 (keyV (wDst w)) = u.wet.toNat + 6) ∧
  (∀ (s u : State) (tile slot : Nat) (g : Group) (p : Path) (w : Word64),
    s.mayIssue tile slot (scalarKeys w) g p u → wImm w = 0 →
    exec (.rdraw tile slot w) s = .next (u.illegal tile slot g p))

/-- Class 0x2: binary32 arithmetic, minimum and maximum, and compares (R64, R132, R133, R134). -/
def Obligations.Binary32Instructions : Prop :=
  (∀ (s u : State) (tile slot : Nat) (g : Group) (p : Path) (w : Word64) (op : F32Op),
    s.mayIssue tile slot (if op = .fma then fmaKeys w else vecKeys w) g p u → plainWord 2 0 w = true → p.mask ≠ 0 →
    op ∈ [F32Op.fma, .add, .mul, .min, .max] →
    ∃ h, exec (.vectorBinary32 tile slot op w) s = .next (u.putGroup tile slot h) ∧
      h = { g with v := h.v, paths := h.paths, issued := g.issued + 1, ready := h.ready } ∧
      (∀ r l, l < 32 → (r ≠ wDst w ∨ (g.active p w).getLsbD l = false) → h.vreg r l = g.vreg r l) ∧
      (∀ l, l < 32 → (g.active p w).getLsbD l = true →
        (op = .fma → h.vreg (wDst w) l = f32Fma (g.vreg (wA w) l) (g.vreg (wB w) l) (g.vreg (wC w) l)) ∧
        (op = .add → h.vreg (wDst w) l = f32Add (g.vreg (wA w) l) (g.vreg (wB w) l)) ∧
        (op = .mul → h.vreg (wDst w) l = f32Mul (g.vreg (wA w) l) (g.vreg (wB w) l)) ∧
        (op = .min → h.vreg (wDst w) l = f32Min (g.vreg (wA w) l) (g.vreg (wB w) l)) ∧
        (op = .max → h.vreg (wDst w) l = f32Max (g.vreg (wA w) l) (g.vreg (wB w) l))) ∧
      h.paths = g.paths.filter (fun q => q != p) ++ [{ p with pc := p.pc + 8 }]) ∧
  (∀ (s u : State) (tile slot : Nat) (g : Group) (p : Path) (w : Word64) (op : F32Op),
    s.mayIssue tile slot (vecKeys w) g p u → plainWord 2 0 w = true → p.mask ≠ 0 →
    op ∈ [F32Op.cmpEq, .cmpNe, .cmpLt, .cmpLe, .cmpGt, .cmpGe] →
    ∃ h, exec (.vectorBinary32 tile slot op w) s = .next (u.putGroup tile slot h) ∧ h.v = g.v ∧ h.s = g.s ∧
      (∀ l, l < 32 → (g.active p w).getLsbD l = true → wDst w % 8 ≠ 7 →
        (f32Val (g.vreg (wA w) l)).isNan = true → h.preg (wDst w) l = decide (op = .cmpNe))) ∧
  (∀ a b : Word32, (f32Val a).isNan = true ∨ (f32Val b).isNan = true →
    f32Min a b = 0x7FC00000 ∧ f32Max a b = 0x7FC00000 ∧ f32Eq a b = false ∧ f32Ne a b = true ∧ f32Lt a b = false ∧
    f32Le a b = false) ∧
  f32Min 0x80000000 0 = 0x80000000 ∧ f32Min 0 0x80000000 = 0x80000000 ∧ f32Max 0x80000000 0 = 0 ∧
  f32Max 0 0x80000000 = 0

/-- Class 0x3: conversions, the split of a binary32 into two ZF16g, and block conversions (R135, R136, R137, R144,
R64). -/
def Obligations.ConversionInstructions : Prop :=
  (∀ (s u : State) (tile slot : Nat) (g : Group) (p : Path) (w : Word64) (a b : Fmt),
    s.mayIssue tile slot (convKeys (fmtScaled a) false w) g p u → convLegal false w = true → p.mask ≠ 0 → convertible a b = true →
    ∃ h, exec (.conversion tile slot a b false w) s = .next (u.putGroup tile slot h) ∧
      h = { g with v := h.v, paths := h.paths, issued := g.issued + 1, ready := h.ready } ∧
      (∀ r l, l < 32 → (r ≠ wDst w ∨ (g.active p w).getLsbD l = false) → h.vreg r l = g.vreg r l) ∧
      (∀ l, l < 32 → (g.active p w).getLsbD l = true → h.vreg (wDst w) l =
        convertLane a b .rne (g.vreg (wA w) l) ((g.vreg (wB w) l).toNat % 256)) ∧
      h.paths = g.paths.filter (fun q => q != p) ++ [{ p with pc := p.pc + 8 }]) ∧
  (∀ (s u : State) (tile slot : Nat) (g : Group) (p : Path) (w : Word64) (a b : Fmt) (sr : Bool),
    s.mayIssue tile slot (convKeys (fmtScaled a) sr w) g p u → convertible a b = false →
    exec (.conversion tile slot a b sr w) s = .next (u.illegal tile slot g p)) ∧
  (∀ (s u : State) (tile slot : Nat) (g : Group) (p : Path) (w : Word64) (a b : Fmt),
    s.mayIssue tile slot (convKeys (fmtScaled a) true w) g p u → convLegal true w = true → p.mask ≠ 0 → convertible a b = true →
    ∃ h, exec (.conversion tile slot a b true w) s = .next (u.putGroup tile slot h) ∧ h.s = g.s ∧ h.p = g.p ∧
      (∀ l, l < 32 → (g.active p w).getLsbD l = true → h.vreg (wDst w) l =
        convertLane a b (.sr (u.laneDraw g tile l (g.sreg (wC w)))) (g.vreg (wA w) l)
          ((g.vreg (wB w) l).toNat % 256))) ∧
  (∀ (s u : State) (tile slot : Nat) (g : Group) (p : Path) (w : Word64),
    s.mayIssue tile slot (oneKey w) g p u → plainWord 3 0 w = true → p.mask ≠ 0 →
    ∃ h, exec (.splitConversion tile slot w) s = .next (u.putGroup tile slot h) ∧ h.s = g.s ∧ h.p = g.p ∧
      (∀ l, l < 32 → (g.active p w).getLsbD l = true →
        h.vreg (wDst w) l = narrowReg 16 (splitHi (g.vreg (wA w) l)) ∧
        h.vreg ((wDst w + 1) % 128) l = narrowReg 16 (splitLo (g.vreg (wA w) l))) ∧
      (∀ r l, l < 32 → r ≠ wDst w → r ≠ (wDst w + 1) % 128 → h.vreg r l = g.vreg r l)) ∧
  (∀ (s u : State) (tile slot : Nat) (g : Group) (p : Path) (w : Word64) (k : BlockFmt) (sr : Bool),
    s.mayIssue tile slot (convKeys false sr w) g p u → convLegal sr w = true → p.mask ≠ 0 →
    ∃ h, exec (.blockConversion tile slot k sr w) s = .next (u.putGroup tile slot h) ∧ h.s = g.s ∧ h.p = g.p ∧
      (∀ l, l < 32 → (g.active p w).getLsbD l = true → h.vreg ((wDst w + 1) % 128) l =
        BitVec.ofNat 32 (blockScale k (maxAbs ((List.range 32).map (fun i =>
          if (g.active p w).getLsbD i then f32Val (g.vreg (wA w) i) else FP.fin false 0 0))))) ∧
      (∀ r l, l < 32 → r ≠ wDst w → r ≠ (wDst w + 1) % 128 → h.vreg r l = g.vreg r l))

/-- Illegal and privileged instructions: a precise fault stops the context and changes no register (R64, R65, R92,
R356, R357). -/
def Obligations.PreciseFaultsStopTheContext : Prop :=
  (∀ (s u : State) (tile slot : Nat) (g : Group) (p : Path) (w : Word64),
    s.mayIssue tile slot [] g p u → (u.ctx g.ctx).st = .resident → (u.ctx g.ctx).fault = none →
    ∃ t f, exec (.reservedClassInstruction tile slot w) s = .next t ∧ (t.ctx g.ctx).fault = some f ∧
      f.code = .illegalInstruction ∧ f.tile = tile ∧ f.slot = slot ∧ f.where' = p.pc ∧ f.lanes = p.mask ∧
      f.deferred = false ∧ (t.ctx g.ctx).st = .stopped ∧ t.dram = s.dram ∧ t.slices = s.slices ∧
      (∀ k, (t.tile k).scratch = (u.tile k).scratch ∧ (t.tile k).array = (u.tile k).array) ∧
      (∀ k n h, u.group k n = some h → (u.tile k).ctx = some g.ctx → t.group k n = some { h with stopped := true })) ∧
  (∀ (s u : State) (tile slot : Nat) (g : Group) (p : Path) (w : Word64) (op : SysOp),
    s.mayIssue tile slot [] g p u → (u.ctx g.ctx).kind = 0 → (u.ctx g.ctx).st = .resident →
    (u.ctx g.ctx).fault = none →
    ∃ t f, exec (.systemInstruction tile slot op w) s = .next t ∧ (t.ctx g.ctx).fault = some f ∧
      f.code = .privilegedInstruction ∧ (t.ctx g.ctx).st = .stopped ∧ (t.tile tile).array = (u.tile tile).array) ∧
  (∀ (s u : State) (tile slot : Nat) (g : Group) (p : Path) (w : Word64) (op : SysOp),
    s.mayIssue tile slot [] g p u → (u.ctx g.ctx).kind ≠ 0 → plainWord 0xC 0 w = true → p.mask ≠ 0 →
    ∃ t, exec (.systemInstruction tile slot op w) s = .next t ∧ (t.tile tile).array.diag = decide (op = .enableDiagonal) ∧
      t.group tile slot = some { g with
        paths := g.paths.filter (fun q => q != p) ++ [{ p with pc := p.pc + 8 }], issued := g.issued + 1 } ∧
      t = { u with tiles := t.tiles }) ∧
  (∀ (s u : State) (tile slot : Nat) (g : Group) (p : Path) (w : Word64) (op : IntOp),
    s.mayIssue tile slot (vecKeys w) g p u → plainWord 1 0 w = false →
    exec (.vectorInteger tile slot op w) s = .next (u.illegal tile slot g p)) ∧
  (∀ (s : State) (tile slot : Nat) (w : Word64), s.mod.state ≠ .run →
    exec (.reservedClassInstruction tile slot w) s = .next s)

/-- An instruction whose line is not in the cache waits for the fill (R52, R56). -/
def Obligations.InstructionCacheMissesWait : Prop :=
  (∀ (s : State) (tile slot : Nat) (g : Group) (p : Path) (w : Word64), s.ready tile slot = some (g, p) →
    (s.tile tile).iHit (p.pc.toNat / 128) = false →
    exec (.reconverge tile slot w) s =
      .next (s.putGroup tile slot { g with hold := .icache (p.pc.toNat / 128), since := s.hal.ms })) ∧
  (∀ (s : State) (tile line : Nat), s.mod.state = .run →
    ∃ t, exec (.instructionCacheFill tile line) s = .next t ∧ (t.tile tile).iHit line = true ∧
      (∀ n g, s.group tile n = some g → t.group tile n =
        some (if g.hold = .icache line then { g with hold := .none } else g)) ∧
      (∀ k, k ≠ tile → t.tile k = s.tile k) ∧ t = { s with tiles := t.tiles }) ∧
  (∀ (s : State) (tile line : Nat), s.mod.state ≠ .run → exec (.instructionCacheFill tile line) s = .next s)

/-- Scratch loads and stores act on the block's own window, and fault when misaligned or outside it (R55, R64, R66,
R67, R68, R69, R81). -/
def Obligations.ScratchInstructionsUseTheBlocksWindow : Prop :=
  (∀ (s u v : State) (tile slot : Nat) (g : Group) (p : Path) (m : LaneMem) (b : Block) (lanes : List Nat),
    s.mayIssue tile slot (oneKey m.word) g p u → laneLegal 4 m = true → p.mask ≠ 0 → u.blockOf tile g = some b →
    lanes = lanesOf (g.active p m.word) → scratchFault m lanes b.size .scratchBounds = none →
    v = (u.waitWet ((u.tile tile).lanesReady b.base m lanes)).takePort tile (portTicks (wordsAddressed b.base m lanes)) →
    exec (.scratchLoad tile slot m) s = .next (v.putGroup tile slot
      { (v.loadWindow tile b.base g m lanes).readyDst (wDst m.word) m.size
          (v.wet.toNat + (2 + portTicks (wordsAddressed b.base m lanes))) with
        paths := g.paths.filter (fun q => q != p) ++ [{ p with pc := p.pc + 8 }], issued := g.issued + 1 }) ∧
    v.dram = s.dram ∧ v.slices = s.slices ∧ v.ctxs = s.ctxs ∧ (∀ k, (v.tile k).scratch = (s.tile k).scratch) ∧
    ((u.tile tile).portBusy ≤ u.wet.toNat → (u.tile tile).lanesReady b.base m lanes ≤ u.wet.toNat → u.dryNow = false →
      v.wet = u.wet)) ∧
  (∀ (s u v : State) (tile slot : Nat) (g : Group) (p : Path) (m : LaneMem) (b : Block) (lanes : List Nat),
    s.mayIssue tile slot (storeKeys m.word m.size) g p u → laneLegal 4 m = true → p.mask ≠ 0 → u.blockOf tile g = some b →
    lanes = lanesOf (g.active p m.word) → scratchFault m lanes b.size .scratchBounds = none →
    v = u.takePort tile (portTicks (wordsAddressed b.base m lanes)) →
    exec (.scratchStore tile slot m) s = .next ((v.storeWindow tile b.base g m lanes).putGroup tile slot { g with
        paths := g.paths.filter (fun q => q != p) ++ [{ p with pc := p.pc + 8 }], issued := g.issued + 1 }) ∧
    v.dram = s.dram ∧ v.slices = s.slices ∧ v.ctxs = s.ctxs ∧ ∀ k, (v.tile k).scratch = (s.tile k).scratch) ∧
  (∀ (v : State) (k base : Nat) (g : Group) (m : LaneMem) (mask : Word32), LaneSize m.size = true →
    (∀ l i, l < 32 → mask.getLsbD l = true → i < m.size / 4 →
      (v.loadWindow k base g m (lanesOf mask)).vreg ((wDst m.word + i) % 128) l =
        BitVec.ofNat 32 (leNat (v.scratchBytes k (base + laneAddr m l + 4 * i) 4))) ∧
    (∀ l, l < 32 → mask.getLsbD l = true → m.size < 4 → (v.loadWindow k base g m (lanesOf mask)).vreg (wDst m.word) l =
      narrowReg (8 * m.size) (leNat (v.scratchBytes k (base + laneAddr m l) m.size))) ∧
    (∀ r l, l < 32 → mask.getLsbD l = false ∨ (∀ i, i < wordsOf m.size → r ≠ (wDst m.word + i) % 128) →
      (v.loadWindow k base g m (lanesOf mask)).vreg r l = g.vreg r l)) ∧
  (∀ (v : State) (k base : Nat) (g : Group) (m : LaneMem) (mask : Word32), LaneSize m.size = true →
    (v.tile k).array.idle = true →
    (∀ a l, l < 32 → mask.getLsbD l = true → base + laneAddr m l ≤ a → a < base + laneAddr m l + m.size →
      (∀ l', l < l' → l' < 32 → mask.getLsbD l' = true → a < base + laneAddr m l' ∨ base + laneAddr m l' + m.size ≤ a) →
      tabGet ((v.storeWindow k base g m (lanesOf mask)).tile k).scratch 0 a =
        (g.laneBytes (wB m.word) l m.size).getD (a - (base + laneAddr m l)) 0) ∧
    (∀ a, (∀ l, l < 32 → mask.getLsbD l = true → a < base + laneAddr m l ∨ base + laneAddr m l + m.size ≤ a) →
      tabGet ((v.storeWindow k base g m (lanesOf mask)).tile k).scratch 0 a = tabGet (v.tile k).scratch 0 a) ∧
    (v.storeWindow k base g m (lanesOf mask)).dram = v.dram ∧ (v.storeWindow k base g m (lanesOf mask)).ctxs = v.ctxs ∧
    ∀ j, j ≠ k → (v.storeWindow k base g m (lanesOf mask)).tile j = v.tile j) ∧
  (∀ (s u : State) (tile slot : Nat) (g : Group) (p : Path) (m : LaneMem) (b : Block) (e : Code × Nat),
    u.blockOf tile g = some b → scratchFault m (lanesOf (g.active p m.word)) b.size .scratchBounds = some e →
    laneLegal 4 m = true →
    (s.mayIssue tile slot (oneKey m.word) g p u →
      exec (.scratchLoad tile slot m) s = .next (u.preciseAt tile slot g p e.1 0 e.2)) ∧
    (s.mayIssue tile slot (storeKeys m.word m.size) g p u →
      exec (.scratchStore tile slot m) s = .next (u.preciseAt tile slot g p e.1 0 e.2))) ∧
  (∀ (s u : State) (tile slot : Nat) (g : Group) (p : Path) (m : LaneMem) (b : Block), u.blockOf tile g = some b →
    laneLegal 4 m = false →
    (s.mayIssue tile slot (oneKey m.word) g p u → exec (.scratchLoad tile slot m) s = .next (u.illegal tile slot g p)) ∧
    (s.mayIssue tile slot (storeKeys m.word m.size) g p u →
      exec (.scratchStore tile slot m) s = .next (u.illegal tile slot g p))) ∧
  (∀ (m : LaneMem) (lanes : List Nat) (l size : Nat) (c : Code), l ∈ lanes → laneAddr m l % m.size ≠ 0 →
    ∃ a, scratchFault m lanes size c = some (.misalignedAccess, a)) ∧
  (∀ (m : LaneMem) (lanes : List Nat) (l size : Nat) (c : Code), (∀ k ∈ lanes, laneAddr m k % m.size = 0) → l ∈ lanes →
    size < laneAddr m l + m.size → ∃ a, scratchFault m lanes size c = some (c, a)) ∧
  (∀ (m : LaneMem) (lanes : List Nat) (size : Nat) (c : Code),
    (∀ k ∈ lanes, laneAddr m k % m.size = 0 ∧ laneAddr m k + m.size ≤ size) → scratchFault m lanes size c = none)

/-- Cluster scratch: requests and stores as mesh items, answers after 3 + 2D, CLUSTER_RANGE else (R66, R69, R71,
R72). -/
def Obligations.ClusterScratchReachesTheOtherRanks : Prop :=
  (∀ (s u : State) (tile slot rank k : Nat) (g : Group) (p : Path) (m : LaneMem) (b y : Block) (lanes : List Nat),
    laneLegal 5 m = true → p.mask ≠ 0 → u.blockOf tile g = some b → u.rankBlock b rank = some (k, y) →
    lanes = lanesOf (g.active p m.word) → scratchFault m lanes y.size .clusterRange = none →
    (s.mayIssue tile slot (storeKeys m.word m.size) g p u →
      (k = tile → exec (.clusterScratchStore tile slot rank m) s = .next
        (((u.takePort tile (portTicks (wordsAddressed b.base m lanes))).storeWindow k y.base g m lanes).putGroup tile slot { g with
          paths := g.paths.filter (fun q => q != p) ++ [{ p with pc := p.pc + 8 }], issued := g.issued + 1 })) ∧
      (k ≠ tile → ∃ t : State, exec (.clusterScratchStore tile slot rank m) s = .next t ∧
        t = ((itemsOf (256 / m.size) 32 lanes).foldl (fun s ls => s.sendUntimed (meshSluice tile k)
          (.cells tile g.uid k (ls.map (fun l => (y.base + laneAddr m l, g.laneBytes (wB m.word) l m.size))))) u).putGroup tile slot
            { g with paths := g.paths.filter (fun q => q != p) ++ [{ p with pc := p.pc + 8 }], issued := g.issued + 1 } ∧
        t.dram = s.dram ∧ ∀ j, (t.tile j).scratch = (s.tile j).scratch)) ∧
    (s.mayIssue tile slot (oneKey m.word) g p u →
      (∀ v, k = tile →
        v = (u.waitWet ((u.tile tile).lanesReady b.base m lanes)).takePort tile (portTicks (wordsAddressed b.base m lanes)) →
        exec (.clusterScratchLoad tile slot rank m) s = .next (v.putGroup tile slot
          { (v.loadWindow tile b.base g m lanes).readyDst (wDst m.word) m.size
              (v.wet.toNat + (2 + portTicks (wordsAddressed b.base m lanes))) with
            paths := g.paths.filter (fun q => q != p) ++ [{ p with pc := p.pc + 8 }], issued := g.issued + 1 })) ∧
      (k ≠ tile → ∃ (t : State) (h : Group) (i : Issue), exec (.clusterScratchLoad tile slot rank m) s = .next t ∧
        t.group tile slot = some h ∧
        h = { g with paths := g.paths.filter (fun q => q != p) ++ [{ p with pc := p.pc + 8 }], issued := g.issued + 1
                     ready := h.ready } ∧
        (∀ j, j < wordsOf m.size → tabGet h.ready 0 (keyV ((wDst m.word + j) % 128)) = never) ∧
        t.issues = s.issues ++ [i] ∧ i.rank = some k ∧ i.lanes = g.active p m.word ∧ i.dst = wDst m.word ∧
        i.size = m.size ∧ i.uid = g.uid ∧ i.tile = tile ∧ i.ready = u.wet.toNat + (3 + 2 * meshDelay tile k) ∧
        (∀ l, l < 32 → i.addrs.getD l 0 = y.base + laneAddr m l) ∧ i.data = none ∧
        t.sluices = (({ u.fresh with issues := s.issues ++ [i] } : State).sendUntimed (meshSluice tile k) (.clusterLoad i.id)).sluices ∧
        t.dram = s.dram ∧ ∀ j, (t.tile j).scratch = (s.tile j).scratch))) ∧
  (∀ (s u : State) (tile slot rank : Nat) (g : Group) (p : Path) (m : LaneMem) (b : Block),
    laneLegal 5 m = true → u.blockOf tile g = some b → u.rankBlock b rank = none →
    (s.mayIssue tile slot (oneKey m.word) g p u →
      exec (.clusterScratchLoad tile slot rank m) s = .next (u.preciseAt tile slot g p .clusterRange 0 0)) ∧
    (s.mayIssue tile slot (storeKeys m.word m.size) g p u →
      exec (.clusterScratchStore tile slot rank m) s = .next (u.preciseAt tile slot g p .clusterRange 0 0))) ∧
  (∀ (s u : State) (tile slot rank k : Nat) (g : Group) (p : Path) (m : LaneMem) (b y : Block) (e : Code × Nat),
    laneLegal 5 m = true → u.blockOf tile g = some b → u.rankBlock b rank = some (k, y) →
    scratchFault m (lanesOf (g.active p m.word)) y.size .clusterRange = some e →
    (s.mayIssue tile slot (oneKey m.word) g p u →
      exec (.clusterScratchLoad tile slot rank m) s = .next (u.preciseAt tile slot g p e.1 0 e.2)) ∧
    (s.mayIssue tile slot (storeKeys m.word m.size) g p u →
      exec (.clusterScratchStore tile slot rank m) s = .next (u.preciseAt tile slot g p e.1 0 e.2))) ∧
  (∀ (s : State) (i : SluiceId) (x : Sluice) (it : Item), s.sluices = [(i, x)] → x.items = [it] → x.waiting = [] →
    it.visible = true → it.timed = false → i.kind = .mesh → s.running = true → it.delay ≤ s.itemAge i it → s.dryNow = false →
    (∀ tile uid k a d, it.what = .cells tile uid k [(a, d)] → (s.tile k).array.idle = true →
      ∃ t : State, exec (.sluiceRelease i) s = .next t ∧
        (∀ j, j < d.length → tabGet (t.tile k).scratch 0 (a + j) = d.getD j 0) ∧
        (∀ j, j < a ∨ a + d.length ≤ j → tabGet (t.tile k).scratch 0 j = tabGet (s.tile k).scratch 0 j) ∧
        (∀ j, j ≠ k → (t.tile j).scratch = (s.tile j).scratch) ∧ t.dram = s.dram ∧ (t.sluice i).items = []) ∧
    (∀ id n, it.what = .clusterLoad id → s.issues = [n] → n.id = id →
      (s.tile (n.rank.getD 0)).array.idle = true →
      ∃ t : State, exec (.sluiceRelease i) s = .next t ∧
        t.issues = [{ n with
          data := some ((lanesOf n.lanes).map (fun l => (l, s.scratchBytes (n.rank.getD 0) (n.addrs.getD l 0) n.size)))
          ready := (t.issues.headD n).ready }] ∧
        (∀ j, (t.tile j).scratch = (s.tile j).scratch) ∧ t.dram = s.dram)) ∧
  (∀ (s : State) (id : Nat) (i : Issue) (ds : List (Nat × List Byte)),
    s.issues.find? (fun x => x.id == id && x.rank.isSome) = some i → i.data = some ds → LaneSize i.size = true →
    (∀ e ∈ ds, e.1 < 32) → (ds.map (fun e => e.1)).Nodup →
    (∀ e ∈ s.sluices, ∀ it ∈ e.2.items, it.what ≠ .clusterLoad id ∧ ∀ op ty l, it.what ≠ .clusterAtomic id op ty l) →
    (∀ o ∈ s.sync.ops, o.sent = true ∨ o.who ≠ .group i.tile i.uid) →
    ∃ t, exec (.clusterScratchResponse id) s = .next t ∧ t.issues = s.issues.filter (fun x => x.id != id) ∧
      t.dram = s.dram ∧ (∀ k, k ≠ i.tile → t.tile k = s.tile k) ∧ (∀ k, (t.tile k).scratch = (s.tile k).scratch) ∧
      ∀ slot g, s.group i.tile slot = some g → g.uid = i.uid → ∃ h, t.group i.tile slot = some h ∧
        (∀ l d j, (l, d) ∈ ds → j < i.size / 4 → h.vreg ((i.dst + j) % 128) l = BitVec.ofNat 32 (leNat (sliceAt d (4 * j) 4))) ∧
        (∀ r l, l < 32 → (∀ e ∈ ds, e.1 ≠ l) → h.vreg r l = g.vreg r l) ∧ h.s = g.s ∧ h.p = g.p ∧
        h.paths = g.paths ∧ ∀ j, j < wordsOf i.size → tabGet h.ready 0 (keyV ((i.dst + j) % 128)) = 0) ∧
  (∀ (s : State) (id : Nat), s.issues.find? (fun x => x.id == id && x.rank.isSome) = none →
    (∀ e ∈ s.sluices, ∀ it ∈ e.2.items, it.what ≠ .clusterLoad id ∧ ∀ op ty l, it.what ≠ .clusterAtomic id op ty l) →
    exec (.clusterScratchResponse id) s = .next s)

/-- Loads, stores, flag stores and atomics on memory: one part a line or address, and nothing else yet (R69, R74,
R224, R226, R259, R343). -/
def Obligations.MemoryInstructionsSendTheirParts : Prop :=
  (∀ (s u u' : State) (tile slot : Nat) (g : Group) (p : Path) (m : LaneMem) (lanes : List Nat) (spans : List (Nat × Nat)),
    laneLegal 6 m = true → p.mask ≠ 0 → lanes = lanesOf (g.active p m.word) → lanes ≠ [] → misaligned m lanes = false →
    spans = (linesTouched m lanes).map (fun n => (n * 128 + (lineSpan m lanes n).1, (lineSpan m lanes n).2.1)) →
    (s.mayIssue tile slot (oneKey m.word) g p u → u.firstFault g.ctx 0 .threadLoad spans = (none, u') →
      ∃ t h i, exec (.memoryLoad tile slot false m) s = .next t ∧ t.group tile slot = some h ∧
        h = { g with paths := g.paths.filter (fun q => q != p) ++ [{ p with pc := p.pc + 8 }], issued := g.issued + 1
                     ready := h.ready } ∧
        (∀ j, j < wordsOf m.size → tabGet h.ready 0 (keyV ((wDst m.word + j) % 128)) = never) ∧
        t.issues = s.issues ++ [i] ∧ i.id = s.nextId ∧ i.lanes = g.active p m.word ∧ i.pc = p.pc ∧ i.addrs = m.addrs ∧
        i.dst = wDst m.word ∧ i.size = m.size ∧ t.flights.length = s.flights.length + (linesTouched m lanes).length ∧
        (∀ a ∈ t.flights.drop s.flights.length, a.issue = i.id ∧ a.op = .load ∧ a.stage = .moving) ∧
        t.flights.take s.flights.length = s.flights ∧ t.dram = s.dram ∧ t.slices = s.slices ∧ t.hostMem = s.hostMem ∧
        ∀ k, (t.tile k).scratch = (s.tile k).scratch) ∧
    (s.mayIssue tile slot (storeKeys m.word m.size) g p u → u.firstFault g.ctx 1 .threadStore spans = (none, u') →
      (∃ t i, exec (.memoryStore tile slot m) s = .next t ∧ t.group tile slot = some { g with
          paths := g.paths.filter (fun q => q != p) ++ [{ p with pc := p.pc + 8 }], issued := g.issued + 1 } ∧
        t.issues = s.issues ++ [i] ∧ i.id = s.nextId ∧ t.flights.take s.flights.length = s.flights ∧
        (t.flights.drop s.flights.length).map (fun a => a.op) = (linesTouched m lanes).map (fun n =>
          .store (storeData g m lanes n (lineSpan m lanes n).1 (lineSpan m lanes n).2.1)) ∧
        (∀ a ∈ t.flights.drop s.flights.length, a.issue = i.id ∧ a.flag = false ∧ a.stage = .moving) ∧
        t.dram = s.dram ∧ t.slices = s.slices ∧ t.hostMem = s.hostMem ∧ ∀ k, (t.tile k).scratch = (s.tile k).scratch) ∧
      (∃ t i, exec (.flagStore tile slot m) s = .next t ∧ t.group tile slot = some { g with
          paths := g.paths.filter (fun q => q != p) ++ [{ p with pc := p.pc + 8 }], issued := g.issued + 1 } ∧
        t.issues = s.issues ++ [i] ∧ i.id = s.nextId ∧ t.flights.take s.flights.length = s.flights ∧
        t.flights.length = s.flights.length + (linesTouched m lanes).length ∧
        (∀ a ∈ t.flights.drop s.flights.length, a.issue = i.id ∧ a.flag = true ∧ a.stage = .waiting) ∧
        t.dram = s.dram ∧ t.slices = s.slices)) ∧
    (∀ e, s.mayIssue tile slot (oneKey m.word) g p u → u.firstFault g.ctx 0 .threadLoad spans = (some e, u') →
      exec (.memoryLoad tile slot false m) s = .next (u'.preciseAt tile slot g p e.1 0 e.2) ∧
      (((u.tile tile).roTakes ((u.tile tile).roMissing m lanes) 0 (roLines (linesTouched m lanes))).isSome = true →
        exec (.memoryLoad tile slot true m) s = .next (u'.preciseAt tile slot g p e.1 0 e.2))) ∧
    (∀ e, s.mayIssue tile slot (storeKeys m.word m.size) g p u → u.firstFault g.ctx 1 .threadStore spans = (some e, u') →
      exec (.memoryStore tile slot m) s = .next (u'.preciseAt tile slot g p e.1 0 e.2) ∧
      exec (.flagStore tile slot m) s = .next (u'.preciseAt tile slot g p e.1 0 e.2))) ∧
  (∀ (s u u' : State) (tile slot : Nat) (g : Group) (p : Path) (m : LaneMem) (lanes : List Nat) (op : AtomOp) (ty : AtomTy),
    m.size = atomBytes ty → s.mayIssue tile slot (atomKeys m.word m.size) g p u → laneLegal 7 m = true → atomLegal op ty = true →
    p.mask ≠ 0 →
    lanes = lanesOf (g.active p m.word) → lanes ≠ [] → misaligned m lanes = false →
    u.firstFault g.ctx 2 .threadAtomic
      ((linesTouched m lanes).map (fun n => (n * 128 + (lineSpan m lanes n).1, (lineSpan m lanes n).2.1))) = (none, u') →
    ∃ t h i, exec (.atomic tile slot .memory op ty m) s = .next t ∧ t.group tile slot = some h ∧ h.v = g.v ∧ h.s = g.s ∧
      (∀ j, j < wordsOf m.size → tabGet h.ready 0 (keyV ((wDst m.word + j) % 128)) = never) ∧
      t.issues = s.issues ++ [i] ∧ i.id = s.nextId ∧ t.flights.take s.flights.length = s.flights ∧
      (t.flights.drop s.flights.length).map (fun a => a.va) = atomAddrs m lanes ∧
      (t.flights.drop s.flights.length).map (fun a => a.op) = (atomAddrs m lanes).map (fun a =>
        .atomic op ty ((lanesAt m lanes a).map (fun l => (a % 128, (g.atomArgs m.word ty l).1, (g.atomArgs m.word ty l).2)))) ∧
      t.dram = s.dram ∧ t.slices = s.slices) ∧
  (∀ (s u : State) (tile slot : Nat) (g : Group) (p : Path) (m : LaneMem), laneLegal 6 m = true →
    misaligned m (lanesOf (g.active p m.word)) = true → ∃ a,
    (s.mayIssue tile slot (oneKey m.word) g p u →
      exec (.memoryLoad tile slot false m) s = .next (u.preciseAt tile slot g p .misalignedAccess 0 a)) ∧
    (s.mayIssue tile slot (storeKeys m.word m.size) g p u →
      exec (.memoryStore tile slot m) s = .next (u.preciseAt tile slot g p .misalignedAccess 0 a) ∧
      exec (.flagStore tile slot m) s = .next (u.preciseAt tile slot g p .misalignedAccess 0 a))) ∧
  (∀ (s u : State) (tile slot : Nat) (g : Group) (p : Path) (m : LaneMem), laneLegal 6 m = false →
    (s.mayIssue tile slot (oneKey m.word) g p u → exec (.memoryLoad tile slot false m) s = .next (u.illegal tile slot g p)) ∧
    (s.mayIssue tile slot (storeKeys m.word m.size) g p u →
      exec (.memoryStore tile slot m) s = .next (u.illegal tile slot g p) ∧
      exec (.flagStore tile slot m) s = .next (u.illegal tile slot g p)))

/-- Atomics on scratch and cluster scratch apply the lanes of an address in ascending order (R66, R71, R72, R73,
R74). -/
def Obligations.AtomicsApplyLanesInOrder : Prop :=
  (∀ (s u : State) (tile slot k : Nat) (g : Group) (p : Path) (m : LaneMem) (b y : Block) (op : AtomOp) (ty : AtomTy)
      (sp : AtomSpace) (lanes : List Nat),
    m.size = atomBytes ty → s.mayIssue tile slot (atomKeys m.word m.size) g p u → laneLegal 7 m = true → p.mask ≠ 0 →
    atomLegal op ty = true → u.blockOf tile g = some b → lanes = lanesOf (g.active p m.word) →
    (sp = .scratch ∧ k = tile ∧ y = b ∧ scratchFault m lanes y.size .scratchBounds = none ∨
      ∃ r, sp = .cluster r ∧ u.rankBlock b r = some (k, y) ∧ scratchFault m lanes y.size .clusterRange = none) →
    (∀ (n : Nat) (q : State × Group), k = tile → n = portTicks (wordsAddressed y.base m lanes) →
      q = (u.takePort tile n).scratchAtomics k y.base g m op ty lanes →
      exec (.atomic tile slot sp op ty m) s = .next (q.1.putGroup tile slot
        { q.2.readyDst (wDst m.word) (atomBytes ty) (q.1.wet.toNat + (2 + n)) with
          paths := g.paths.filter (fun q => q != p) ++ [{ p with pc := p.pc + 8 }], issued := g.issued + 1 }) ∧
      q.1.dram = s.dram ∧ q.1.slices = s.slices ∧ ∀ j, j ≠ k → (q.1.tile j).scratch = (s.tile j).scratch) ∧
    (k ≠ tile → ∃ (t : State) (h : Group) (i : Issue), exec (.atomic tile slot sp op ty m) s = .next t ∧
      t.group tile slot = some h ∧ h.v = g.v ∧ h.s = g.s ∧ t.issues = s.issues ++ [i] ∧ i.rank = some k ∧
      (∀ j, j < wordsOf m.size → tabGet h.ready 0 (keyV ((wDst m.word + j) % 128)) = never) ∧
      t.sluices = (({ u.fresh with issues := s.issues ++ [i] } : State).sendUntimed (meshSluice tile k) (.clusterAtomic i.id op ty
        (lanes.map (fun l => (l, y.base + laneAddr m l, (g.atomArgs m.word ty l).1, (g.atomArgs m.word ty l).2))))).sluices ∧
      t.dram = s.dram ∧ ∀ j, (t.tile j).scratch = (s.tile j).scratch)) ∧
  (∀ (v : State) (k base : Nat) (g : Group) (m : LaneMem) (op : AtomOp) (ty : AtomTy) (mask : Word32) (q : State × Group),
    (v.tile k).array.idle = true → m.size = atomBytes ty → misaligned m (lanesOf mask) = false →
    q = v.scratchAtomics k base g m op ty (lanesOf mask) →
    (∀ l, l < 32 → mask.getLsbD l = true →
      q.1.scratchBytes k (base + laneAddr m l) (atomBytes ty) = leBytes (atomBytes ty) (applyLanes op ty
        (BitVec.ofNat 64 (leNat (v.scratchBytes k (base + laneAddr m l) (atomBytes ty))))
        ((lanesAt m (lanesOf mask) (laneAddr m l)).map (fun j => g.atomArgs m.word ty j))).2.toNat) ∧
    (∀ l, l < 32 → mask.getLsbD l = true → (∀ j, j < l → mask.getLsbD j = true → laneAddr m j ≠ laneAddr m l) →
      q.2.vreg (wDst m.word) l = BitVec.ofNat 32 (leNat (v.scratchBytes k (base + laneAddr m l) 4)) ∧
      (ty = .bits64 → q.2.vreg ((wDst m.word + 1) % 128) l =
        BitVec.ofNat 32 (leNat (v.scratchBytes k (base + laneAddr m l + 4) 4)))) ∧
    (∀ r l, l < 32 → mask.getLsbD l = false → q.2.vreg r l = g.vreg r l) ∧ q.2.s = g.s ∧ q.2.p = g.p ∧
    (∀ a, (∀ l, l < 32 → mask.getLsbD l = true → a < base + laneAddr m l ∨ base + laneAddr m l + atomBytes ty ≤ a) →
      tabGet (q.1.tile k).scratch 0 a = tabGet (v.tile k).scratch 0 a)) ∧
  (∀ (s : State) (i : Issue) (op : AtomOp) (ty : AtomTy) (l a : Nat) (x y : Word64),
    (s.tile (i.rank.getD 0)).array.idle = true →
    (clusterAtomics op ty [(l, a, x, y)] s i).2 = [(l, leBytes (atomBytes ty)
      (BitVec.ofNat 64 (leNat (s.scratchBytes (i.rank.getD 0) a (atomBytes ty)))).toNat)] ∧
    (clusterAtomics op ty [(l, a, x, y)] s i).1.scratchBytes (i.rank.getD 0) a (atomBytes ty) = leBytes (atomBytes ty)
      (atomicNew op ty (BitVec.ofNat 64 (leNat (s.scratchBytes (i.rank.getD 0) a (atomBytes ty)))) x y).toNat) ∧
  (∀ (s u : State) (tile slot : Nat) (g : Group) (p : Path) (m : LaneMem) (b : Block) (op : AtomOp) (ty : AtomTy)
      (sp : AtomSpace),
    s.mayIssue tile slot (atomKeys m.word (atomBytes ty)) g p u → u.blockOf tile g = some b → atomLegal op ty = false →
    exec (.atomic tile slot sp op ty m) s = .next (u.illegal tile slot g p)) ∧
  (∀ (a b : Word32) (x y : Word64), a.toNat = x.toNat → b.toNat = y.toNat →
    (atomicNew .add .int32 x y 0).toNat = (a + b).toNat ∧ (atomicNew .add .uint32 x y 0).toNat = (a + b).toNat ∧
    (atomicNew .add .binary32 x y 0).toNat = (f32Add a b).toNat ∧ (atomicNew .swap .bits32 x y 0).toNat = b.toNat ∧
    (atomicNew .min .int32 x y 0).toNat = (if a.toInt ≤ b.toInt then a else b).toNat ∧
    (atomicNew .max .uint32 x y 0).toNat = max a.toNat b.toNat) ∧
  (∀ x y z : Word64, atomicNew .cas .bits64 x y z = if x = y then z else x) ∧
  (∀ ty, atomLegal .cas ty = decide (ty = .bits64))

/-- Load returns, store acknowledgements, sector fills, flag sends and deferred faults (R80, R93, R231, R259, R326). -/
def Obligations.ReturnsEndWhatWasIssued : Prop :=
  (∀ (s : State) (id : Nat) (i : Issue), s.issues.find? (fun x => x.id == id && x.rank.isNone) = some i →
    LaneSize i.size = true → (∀ o ∈ s.sync.ops, o.sent = true ∨ o.who ≠ .group i.tile i.uid) →
    (∀ a ∈ s.flights, a.issue = id → Access.done a = true) →
    ∃ t, exec (.memoryLoadReturn id) s = .next t ∧ t.issues = s.issues.filter (fun x => x.id != id) ∧
      t.flights = s.flights.filter (fun a => a.issue != id) ∧ t.dram = s.dram ∧ t.ctxs = s.ctxs ∧
      (∀ k, (t.tile k).scratch = (s.tile k).scratch) ∧
      ∀ slot g, s.group i.tile slot = some g → g.uid = i.uid → ∃ h, t.group i.tile slot = some h ∧
        (∀ l j, l < 32 → i.lanes.getLsbD l = true → j < i.size / 4 → h.vreg ((i.dst + j) % 128) l = BitVec.ofNat 32
          (leNat (sliceAt (laneResult (s.flights.filter (fun a => a.issue == id)) i l) (4 * j) 4))) ∧
        (∀ r l, l < 32 → i.lanes.getLsbD l = false → h.vreg r l = g.vreg r l) ∧ h.s = g.s ∧ h.p = g.p ∧
        h.paths = g.paths ∧ ∀ j, j < wordsOf i.size → tabGet h.ready 0 (keyV ((i.dst + j) % 128)) = 0) ∧
  (∀ (s : State) (id : Nat) (a : Access), a ∈ s.flights → a.issue = id → Access.done a = false →
    exec (.memoryLoadReturn id) s = .next s) ∧
  (∀ (parts : List Access) (i : Issue) (l k : Nat) (a : Access) (d : List Byte) (o : List Word64), parts = [a] →
    a.op = .load → a.stage = .served d o → k < i.size → a.va ≤ i.addrs.getD l 0 + k → i.addrs.getD l 0 + k < a.va + a.len →
    (laneResult parts i l)[k]? = some (d.getD (i.addrs.getD l 0 + k - a.va) 0)) ∧
  (∀ (s : State) (tile line sector : Nat) (a : Access) (d : List Byte) (o : List Word64), s.flights = [a] → sector < 4 →
    sectorRequest tile (line * 128 + 32 * sector) a = true → a.stage = .served d o → d.length = 32 →
    (s.tile tile).roLine line = none → (s.tile tile).roRequest line sector = some a.id →
    ∃ t, exec (.readOnlyCacheFill tile line sector) s = .next t ∧ (t.tile tile).roData line sector = some d ∧
      t.flights = [{ a with flag := true }] ∧ t.dram = s.dram ∧ t.issues = s.issues ∧
      ∀ k, k ≠ tile → t.tile k = s.tile k) ∧
  (∀ (s : State) (id : Nat) (a : Access) (i : Issue), s.access id = some a → a.stage = .acked →
    s.issues.find? (fun x => x.id == a.issue) = some i → (∀ b ∈ s.flights, b.issue = i.id → b.id = id) →
    (∀ o ∈ s.sync.ops, o.sent = true ∨ o.who ≠ .group i.tile i.uid) →
    ∃ t, exec (.storeAcknowledgement id) s = .next t ∧ t.issues = s.issues.filter (fun x => x.id != i.id) ∧
      t.dram = s.dram ∧ ∀ b ∈ t.flights, b.id ≠ id ∧ b ∈ s.flights) ∧
  (∀ (s : State) (id : Nat) (a : Access), s.access id = some a → a.stage ≠ .acked →
    exec (.storeAcknowledgement id) s = .next s) ∧
  (∀ (s : State) (id : Nat), s.access id = none → exec (.storeAcknowledgement id) s =
    .next (s.modSync (fun y => { y with ops := y.ops.filter (fun o => !(o.id == id && o.applied)) }))) ∧
  (∀ (s : State) (id x : Nat) (a : Access) (w : Walk), s.access id = some a → s.walks.find? (fun w => w.id == id) = some w →
    a.flag = true → a.stage = .waiting → w.acks = [] → a.place = .dram x →
    ∃ t, exec (.flagStoreSend id) s = .next t ∧ t = { s with walks := s.walks.filter (fun y => y.id != id)
                                                             flights := t.flights, sluices := t.sluices } ∧
      t.flights.map (fun b => b.id) = s.flights.map (fun b => b.id) ∧
      ∀ b ∈ t.flights, b.id = id → b.stage = .moving) ∧
  (∀ (s : State) (id : Nat) (i : Issue) (a : Access) (c : Code), s.issues.find? (fun x => x.id == id) = some i →
    (s.flights.filter (fun a => a.issue == id)).find? (fun a => a.fault.isSome) = some a → a.fault = some c →
    (s.ctx i.ctx).st = .resident → (s.ctx i.ctx).fault = none →
    (∀ o ∈ s.sync.ops, o.sent = true ∨ o.who ≠ .group i.tile i.uid) →
    ∃ t f, exec (.deferredFaultReturn id) s = .next t ∧ (t.ctx i.ctx).fault = some f ∧ f.code = c ∧ f.deferred = true ∧
      f.tile = i.tile ∧ f.slot = i.slot ∧ f.where' = i.pc ∧ f.lanes = i.mask ∧ (t.ctx i.ctx).st = .stopped ∧
      t.dram = s.dram ∧ t.issues = s.issues.filter (fun x => x.id != i.id) ∧
      ∀ k n g, s.group k n = some g → ∃ h, t.group k n = some h ∧ h.v = g.v ∧ h.s = g.s ∧ h.p = g.p ∧ h.paths = g.paths)

/-- ALLOC and FREE of the device-side allocator (R92, R351). -/
def Obligations.HeapBlocksAreGivenAndTakenBack : Prop :=
  (∀ (s u : State) (tile slot : Nat) (g : Group) (p : Path) (w : Word64),
    s.mayIssue tile slot [keyS (wA w), keyP (wPred w)] g p u → heapLegal 0x30 w = true → g.active p w ≠ 0 →
    (g.sreg (wA w)).toNat = 0 ∨ 2 ^ 30 < (g.sreg (wA w)).toNat →
    ∃ t h, exec (.heapAlloc tile slot w) s = .next t ∧ t.group tile slot = some h ∧ h.sreg (wDst w) = 0 ∧
      (∀ n, n % 64 ≠ wDst w % 64 → h.sreg n = g.sreg n) ∧ h.v = g.v ∧ h.p = g.p ∧ h.readyAt = u.wet.toNat + 40 ∧
      (t.ctx g.ctx).allocFailed = satAdd 32 (s.ctx g.ctx).allocFailed 1 ∧
      (t.ctx g.ctx).heapBlocks = (s.ctx g.ctx).heapBlocks ∧ t.dram = s.dram) ∧
  (∀ (s u : State) (tile slot : Nat) (g : Group) (p : Path) (w : Word64),
    s.mayIssue tile slot [keyS (wA w), keyP (wPred w)] g p u → heapLegal 0x30 w = true → g.active p w ≠ 0 →
    ∃ t h, exec (.heapAlloc tile slot w) s = .next t ∧ t.group tile slot = some h ∧ h.readyAt = u.wet.toNat + 40 ∧
      t.dram = s.dram ∧
      (h.sreg (wDst w) = 0 ∧ (t.ctx g.ctx).heapBlocks = (s.ctx g.ctx).heapBlocks ∧
          (t.ctx g.ctx).allocFailed = satAdd 32 (s.ctx g.ctx).allocFailed 1 ∨
        ∃ a n k, h.sreg (wDst w) = BitVec.ofNat 64 a ∧ n = 2 ^ k ∧ (g.sreg (wA w)).toNat ≤ n ∧ 64 ≤ n ∧ a % n = 0 ∧
          (t.ctx g.ctx).heapBlocks = (s.ctx g.ctx).heapBlocks ++ [(a, n)] ∧
          (t.ctx g.ctx).allocFailed = (s.ctx g.ctx).allocFailed ∧
          ∀ b ∈ (s.ctx g.ctx).heapBlocks, a + n ≤ b.1 ∨ b.1 + b.2 ≤ a)) ∧
  (∀ (s u : State) (tile slot : Nat) (g : Group) (p : Path) (w : Word64),
    s.mayIssue tile slot [keyS (wA w), keyP (wPred w)] g p u → heapLegal 0x31 w = true → g.active p w ≠ 0 →
    (∃ b ∈ (s.ctx g.ctx).heapBlocks, b.1 = (g.sreg (wA w)).toNat) →
    ∃ t, exec (.heapFree tile slot w) s = .next t ∧
      (t.ctx g.ctx).heapBlocks = (s.ctx g.ctx).heapBlocks.filter (fun b => b.1 != (g.sreg (wA w)).toNat) ∧
      t.dram = s.dram ∧ t.group tile slot = some { g with
        paths := g.paths.filter (fun q => q != p) ++ [{ p with pc := p.pc + 8 }], issued := g.issued + 1
        readyAt := u.wet.toNat + 40 }) ∧
  (∀ (s u : State) (tile slot : Nat) (g : Group) (p : Path) (w : Word64),
    s.mayIssue tile slot [keyS (wA w), keyP (wPred w)] g p u → heapLegal 0x31 w = true → g.active p w ≠ 0 →
    (∀ b ∈ (s.ctx g.ctx).heapBlocks, b.1 ≠ (g.sreg (wA w)).toNat) →
    exec (.heapFree tile slot w) s = .next (u.preciseAt tile slot g p .heapFreeInvalid 0 (g.sreg (wA w)).toNat)) ∧
  (∀ (s u : State) (tile slot : Nat) (g : Group) (p : Path) (w : Word64),
    s.mayIssue tile slot [keyS (wA w), keyP (wPred w)] g p u →
    (heapLegal 0x30 w = true → g.active p w = 0 → p.mask ≠ 0 → exec (.heapAlloc tile slot w) s = .next (u.putGroup tile slot
      { g with paths := g.paths.filter (fun q => q != p) ++ [{ p with pc := p.pc + 8 }], issued := g.issued + 1 })) ∧
    (heapLegal 0x30 w = false → exec (.heapAlloc tile slot w) s = .next (u.illegal tile slot g p)) ∧
    (heapLegal 0x31 w = false → exec (.heapFree tile slot w) s = .next (u.illegal tile slot g p)))

/-- A block starts when its tile can take it; a descheduled group returns to the first free slot (R53, R54, R55,
R59, R70, R99, R352). -/
def Obligations.BlocksStartOnTheirTiles : Prop :=
  (∀ (s : State) (tile index base : Nat) (k : Kernel) (rest : List (Nat × Nat)), s.mod.state = .run →
    (s.tile tile).waiting = (k.id, index) :: rest → s.kernels.find? (fun x => x.id == k.id) = some k → k.cw = 1 →
    k.ch = 1 → k.place.getD index 0 = tile → s.canStart tile k index = true → (s.tile tile).ctx = some k.ctx →
    (s.tile tile).freeWindow k.scratch = some base →
    ∃ t, exec (.blockStart tile) s = .next t ∧ (t.tile tile).blocks = (s.tile tile).blocks ++
        [{ kern := k.id, index := index, rank := 0, origin := tile, base := base, size := k.scratch
           groups := groupsOf k.threads, counters := [] }] ∧
      (t.tile tile).waiting = rest ∧ (∀ n g, s.group tile n = some g → t.group tile n = some g) ∧
      (∀ j, j < groupsOf k.threads → ∃ n, n < 16 ∧ s.group tile n = none ∧
        t.group tile n = some (newGroup k (s.nextId + j) index 0 tile j)) ∧
      (∀ n, t.group tile n = s.group tile n ∨ s.group tile n = none) ∧ t.nextId = s.nextId + groupsOf k.threads ∧
      (t.tile tile).scratch = (s.tile tile).scratch ∧ (t.tile tile).array = (s.tile tile).array ∧ t.dram = s.dram ∧
      t.ctxs = s.ctxs ∧ ∀ j, j ≠ tile → t.tile j = s.tile j) ∧
  (∀ (s : State) (tile index c : Nat) (k : Kernel) (rest : List (Nat × Nat)), s.mod.state = .run →
    (s.tile tile).waiting = (k.id, index) :: rest → s.kernels.find? (fun x => x.id == k.id) = some k → k.cw = 1 →
    k.ch = 1 → k.place.getD index 0 = tile → s.canStart tile k index = true → (s.tile tile).ctx = some c → c ≠ k.ctx →
    ∃ t, exec (.blockStart tile) s = .next t ∧ (t.tile tile).ctx = some k.ctx ∧ (t.tile tile).ro = [] ∧
      (t.tile tile).array = { MArray.reset with diag := false } ∧ (t.tile tile).scratch = (s.tile tile).scratch) ∧
  (∀ (s : State) (tile index r : Nat) (k : Kernel) (rest : List (Nat × Nat)),
    (s.tile tile).waiting = (k.id, index) :: rest → s.kernels.find? (fun x => x.id == k.id) = some k →
    r < max 1 (k.cw * k.ch) → s.canStart (k.place.getD (index / max 1 (k.cw * k.ch) * max 1 (k.cw * k.ch) + r) 0) k
      (index / max 1 (k.cw * k.ch) * max 1 (k.cw * k.ch) + r) = false →
    exec (.blockStart tile) s = .next s) ∧
  (∀ (k : Kernel) (u i r tile j n : Nat), (newGroup k u i r tile j).sreg 0 = k.args ∧
    (newGroup k u i r tile j).sreg 1 = BitVec.ofNat 64 i ∧ (newGroup k u i r tile j).sreg 2 = BitVec.ofNat 64 r ∧
    (newGroup k u i r tile j).sreg 3 = BitVec.ofNat 64 tile ∧
    (4 ≤ n → n < 64 → (newGroup k u i r tile j).sreg n = 0) ∧
    (∀ l, l < 32 → ∀ q ∈ (newGroup k u i r tile j).paths, q.pc = k.entry ∧
      q.mask.getLsbD l = decide (32 * j + l < k.threads))) ∧
  (∀ (x : Tile) (n a : Nat), x.freeWindow n = some a → a + n ≤ 1572864 ∧
    ∀ b ∈ x.blocks, a + n ≤ b.base ∨ b.base + b.size ≤ a) ∧
  (∀ (s v : State) (tile slot : Nat) (g : Group) (r : List Nat), s.mod.state = .run → s.returning tile = some g →
    (s.tile tile).freeSlots = slot :: r → v = s.waitWet (tabGet (s.tile tile).freeAt 0 slot) →
    ∃ t, exec (.groupRestore tile) s = .next t ∧
      t.group tile slot = some { g with readyAt := max g.readyAt (v.wet.toNat + 67) } ∧
      (t.tile tile).saved = (s.tile tile).saved.filter (fun y => y.uid != g.uid) ∧
      (∀ n, n ≠ slot → t.group tile n = s.group tile n) ∧ (∀ j, j ≠ tile → t.tile j = s.tile j) ∧
      t = { v with tiles := t.tiles }) ∧
  (∀ (s : State) (tile : Nat), s.mod.state ≠ .run →
    exec (.blockStart tile) s = .next s ∧ exec (.groupRestore tile) s = .next s)

/-- FENCE_REL, ACQUIRE, FLUSH and FENCE_ORD, and the end of their cistern walks (R78, R216, R232, R233, R236). -/
def Obligations.OrderingInstructionsWait : Prop :=
  (∀ (s u : State) (tile slot : Nat) (g : Group) (p : Path) (w : Word64), p.mask ≠ 0 →
    (s.mayIssue tile slot [keyP (wPred w)] g p u → orderLegal 0x40 w 0 = true → ∃ t, exec (.fenceRel tile slot w) s = .next t ∧ t.dram = s.dram ∧ t.walks = s.walks ∧
      t.group tile slot = some { g with
        paths := g.paths.filter (fun q => q != p) ++ [{ p with pc := p.pc + 8 }], issued := g.issued + 1
        hold := if s.fenced tile g.uid then g.hold else .fence
        since := if s.fenced tile g.uid then g.since else s.hal.ms }) ∧
    (s.mayIssue tile slot (scalarKeys w) g p u → orderLegal 0x42 w 0 = true → scalarPair w = true →
      ∃ t x, exec (.flush tile slot w) s = .next t ∧ t.walks = s.walks ++ [x] ∧ x.id = s.nextId ∧ x.kind = .flush ∧
      x.ranges = some (u.wordRange g w) ∧ x.who = .group tile g.uid ∧ x.ended = false ∧
      x.untilTick = (if s.fenced tile g.uid then some (u.wet.toNat + walkTicks (some (u.wordRange g w))) else none) ∧
      t.dram = s.dram ∧ t.cistern = s.cistern ∧ t.group tile slot = some { g with
        paths := g.paths.filter (fun q => q != p) ++ [{ p with pc := p.pc + 8 }], issued := g.issued + 1
        hold := .walk s.nextId, since := s.hal.ms }) ∧
    (s.mayIssue tile slot [keyP (wPred w)] g p u → orderLegal 0x43 w 0 = true → ∃ t x, exec (.fenceOrd tile slot w) s = .next t ∧ t.walks = s.walks ++ [x] ∧ x.id = s.nextId ∧ x.kind = .flush ∧
      x.ranges = none ∧ x.who = .group tile g.uid ∧
      x.untilTick = (if s.fenced tile g.uid then some (u.wet.toNat + 16384) else none) ∧ t.cistern = s.cistern ∧
      t.group tile slot = some { g with
        paths := g.paths.filter (fun q => q != p) ++ [{ p with pc := p.pc + 8 }], issued := g.issued + 1
        hold := .walk s.nextId, since := s.hal.ms })) ∧
  (∀ (s u : State) (tile slot : Nat) (g : Group) (p : Path) (w : Word64),
    s.mayIssue tile slot (scalarKeys w) g p u → orderLegal 0x41 w 1 = true → wImm w = 1 ∨ scalarPair w = true → p.mask ≠ 0 →
    ∃ t x, exec (.acquire tile slot w) s = .next t ∧ t.walks = s.walks ++ [x] ∧ x.id = s.nextId ∧ x.kind = .acquire ∧
      x.ranges = (if wImm w = 1 then none else some (u.wordRange g w)) ∧
      x.untilTick = some (u.wet.toNat + walkTicks x.ranges) ∧ t.cistern = s.cistern ∧
      t.group tile slot = some { g with
        paths := g.paths.filter (fun q => q != p) ++ [{ p with pc := p.pc + 8 }], issued := g.issued + 1
        hold := .walk s.nextId, since := s.hal.ms }) ∧
  (∀ (s u : State) (tile slot : Nat) (g : Group) (p : Path) (w : Word64),
    wPred w ≠ 7 ∨ wPneg w = true ∨ 1 < wImm w →
    (s.mayIssue tile slot [keyP (wPred w)] g p u →
      exec (.fenceRel tile slot w) s = .next (u.illegal tile slot g p) ∧
      exec (.fenceOrd tile slot w) s = .next (u.illegal tile slot g p)) ∧
    (s.mayIssue tile slot (scalarKeys w) g p u →
      exec (.flush tile slot w) s = .next (u.illegal tile slot g p) ∧
      exec (.acquire tile slot w) s = .next (u.illegal tile slot g p))) ∧
  (∀ (s : State) (walk n tile uid : Nat) (w : Walk), s.walks.find? (fun x => x.id == walk && !x.ended) = some w →
    w.kind = .acquire → w.untilTick = some n → w.who = .group tile uid →
    ∃ t, exec (.cisternWalkEnd walk) s = .next t ∧ t.walks = s.walks.filter (fun x => x.id != walk) ∧ t.dram = s.dram ∧
      (∀ l ∈ t.cisLines, inRanges w.ranges l = true → l.valid = BitVec.ofNat 4 (fullSectors l.dirty.toNat)) ∧
      (∀ l ∈ s.cisLines, inRanges w.ranges l = false → l.dirty ≠ 0 → l ∈ t.cisLines) ∧
      (t.tile tile).ro = [] ∧ (t.tile tile).scratch = (s.tile tile).scratch ∧
      ∀ slot g, s.group tile slot = some g → t.group tile slot = some (if g.uid = uid ∧ g.hold = .walk walk then
        { g with hold := if s.loadsOut tile uid then .loads else .none } else g)) ∧
  (∀ (s : State) (walk n tile uid : Nat) (w : Walk) (l : Line),
    s.walks.find? (fun x => x.id == walk && !x.ended) = some w → w.kind = .flush → w.untilTick = some n →
    w.who = .group tile uid → s.cistern = [(cisKey l.dev l.tag, [l])] → inRanges w.ranges l = true → l.dirty ≠ 0 →
    s.revokedDevs.elem l.dev = false →
    ∃ t, exec (.cisternWalkEnd walk) s = .next t ∧ t.cistern = [(cisKey l.dev l.tag, [l.cleaned])] ∧
      (∃ x ∈ t.walks, x.id = walk ∧ x.ended = true ∧ (l.dev, l.route, s.nextSeq l.dev l.route) ∈ x.acks) ∧
      t.dram = s.dram ∧ t.fab.out.length = s.fab.out.length + 1) ∧
  (∀ (s : State) (walk n tile uid : Nat) (w : Walk), s.walks = [w] → w.id = walk → w.ended = false → w.kind = .flush →
    w.untilTick = some n → w.who = .group tile uid → (∀ l ∈ s.cisLines, l.dirty = 0) → s.fab.out = [] →
    ∃ t, exec (.cisternWalkEnd walk) s = .next t ∧ t.walks = [] ∧ t.cistern = s.cistern ∧ t.dram = s.dram ∧
      ∀ slot g, s.group tile slot = some g → t.group tile slot = some (if g.uid = uid ∧ g.hold = .walk walk then
        { g with hold := .none } else g)) ∧
  (∀ (s : State) (walk : Nat), s.walks.find? (fun x => x.id == walk && !x.ended) = none →
    exec (.cisternWalkEnd walk) s = .next s)

/-- SIG_SET, SIG_ADD and ARRIVE, and what they do at the object's home (R314, R315, R316, R318, R319, R320, R321,
R324, R326). -/
def Obligations.SignalsAndArrivalsApplyAtTheHome : Prop :=
  (∀ (s u : State) (tile slot i : Nat) (g : Group) (p : Path) (w : Word64),
    s.mayIssue tile slot (scalarKeys w) g p u → p.mask ≠ 0 → (∀ x ∈ s.sync.ops, x.id ≠ s.nextId) →
    u.resolveSync g.ctx (bvFld (g.sreg (wA w)) 0 32) false = .own i →
    (syncLegal 0x01 w 0 = true → ∃ t o, exec (.sigSet tile slot w) s = .next t ∧ t.sync.ops = s.sync.ops ++ [o] ∧
      o.id = s.nextId ∧ o.kind = .set ∧ o.index = i ∧ o.who = .group tile g.uid ∧ o.ctx = g.ctx ∧
      o.value = g.sreg (wB w) ∧ o.sent = s.fenced tile g.uid ∧ o.applied = false ∧ o.remote = none ∧
      t.sync.objs = s.sync.objs ∧ t.dram = s.dram ∧ t.group tile slot = some { g with
        paths := g.paths.filter (fun q => q != p) ++ [{ p with pc := p.pc + 8 }], issued := g.issued + 1
        hold := if s.fenced tile g.uid then g.hold else .send s.nextId
        since := if s.fenced tile g.uid then g.since else s.hal.ms }) ∧
    (syncLegal 0x02 w 0 = true → ∃ t o, exec (.sigAdd tile slot w) s = .next t ∧ t.sync.ops = s.sync.ops ++ [o] ∧
      o.kind = .add ∧ o.index = i ∧ o.value = BitVec.ofNat 64 (bvFld (g.sreg (wB w)) 0 32) ∧
      o.sent = s.fenced tile g.uid ∧ t.sync.objs = s.sync.objs ∧ t.dram = s.dram) ∧
    (syncLegal 0x05 w 65535 = true → wImm w ≠ 0 → ∃ t o, exec (.syncArrive tile slot w) s = .next t ∧
      t.sync.ops = s.sync.ops ++ [o] ∧ o.kind = .arrive ∧ o.index = i ∧ o.value = g.sreg (wB w) ∧ o.count = wImm w ∧
      o.sent = s.fenced tile g.uid ∧ t.sync.objs = s.sync.objs ∧ t.dram = s.dram)) ∧
  (∀ (s u : State) (tile slot r : Nat) (g : Group) (p : Path) (w : Word64),
    s.mayIssue tile slot (scalarKeys w) g p u → p.mask ≠ 0 → syncLegal 0x01 w 0 = true →
    u.resolveSync g.ctx (bvFld (g.sreg (wA w)) 0 32) false = .denied r → (s.ctx g.ctx).syncDenyFault = false →
    ∃ t f, exec (.sigSet tile slot w) s = .next t ∧ (t.ctx g.ctx).lastRecorded = some f ∧ f.code = .syncDenied ∧
      f.detail = r ∧ (t.ctx g.ctx).denied = satAdd 32 (s.ctx g.ctx).denied 1 ∧ (t.ctx g.ctx).st = (s.ctx g.ctx).st ∧
      (r ≠ 3 → t.sync = s.sync) ∧ t.sync.objs = s.sync.objs ∧ t.sync.ops = s.sync.ops ∧ t.sync.waits = s.sync.waits ∧
      t.group tile slot = some { g with
        paths := g.paths.filter (fun q => q != p) ++ [{ p with pc := p.pc + 8 }], issued := g.issued + 1 }) ∧
  (∀ (s u : State) (tile slot : Nat) (g : Group) (p : Path) (w : Word64),
    s.mayIssue tile slot (scalarKeys w) g p u → wPred w ≠ 7 ∨ wImm w = 65536 →
    exec (.sigSet tile slot w) s = .next (u.illegal tile slot g p) ∧
    exec (.sigAdd tile slot w) s = .next (u.illegal tile slot g p) ∧
    exec (.syncArrive tile slot w) s = .next (u.illegal tile slot g p)) ∧
  (∀ (s u : State) (tile slot : Nat) (g : Group) (p : Path) (w : Word64),
    s.mayIssue tile slot (scalarKeys w) g p u → wImm w = 0 →
    exec (.syncArrive tile slot w) s = .next (u.illegal tile slot g p)) ∧
  (∀ (s : State) (id tile uid : Nat) (o : SyncOp), s.sync.ops.find? (fun x => x.id == id) = some o → o.sent = true →
    o.applied = false → o.remote = none → o.handle = none → o.who = .group tile uid → (s.syncObj o.index).kind = 1 →
    (s.syncObj o.index).owner = o.ctx →
    (s.syncObj o.index).value.toNat < 2 ^ 63 →
    ((s.syncObj o.index).poisoned = false → o.kind = .set → (s.syncObj o.index).value.toNat < o.value.toNat →
      o.value.toNat < 2 ^ 63 → ∃ t, exec (.signalApply id) s = .next t ∧ (t.syncObj o.index).value = o.value ∧
        (∀ j, j ≠ o.index → t.syncObj j = s.syncObj j) ∧ t.ctxs = s.ctxs ∧ t.tiles = s.tiles ∧ t.dram = s.dram ∧
        (∀ x ∈ t.sync.ops, x.id = id → x.applied = true) ∧
        (∀ x ∈ s.sync.waits, x.index = o.index → x.state = .pooled → x.target.toNat ≤ o.value.toNat →
          { x with state := .wake 0 } ∈ t.sync.waits) ∧
        (∀ x ∈ s.sync.waits, x.index ≠ o.index ∨ x.state ≠ .pooled ∨ o.value.toNat < x.target.toNat →
          x ∈ t.sync.waits)) ∧
    ((s.syncObj o.index).poisoned = false → o.kind = .add → o.value.toNat % 2 ^ 32 ≠ 0 →
      (s.syncObj o.index).value.toNat + o.value.toNat % 2 ^ 32 < 2 ^ 63 → ∃ t, exec (.signalApply id) s = .next t ∧
        (t.syncObj o.index).value.toNat = (s.syncObj o.index).value.toNat + o.value.toNat % 2 ^ 32 ∧
        (∀ j, j ≠ o.index → t.syncObj j = s.syncObj j) ∧ t.ctxs = s.ctxs ∧ t.tiles = s.tiles) ∧
    ((s.syncObj o.index).poisoned = true ∨ o.kind = .set ∧ o.value.toNat ≤ (s.syncObj o.index).value.toNat → o.kind ≠ .arrive →
      (s.ctx o.ctx).regressionStop = false → ∃ t f, exec (.signalApply id) s = .next t ∧
        t.sync.objs = s.sync.objs ∧ t.sync.waits = s.sync.waits ∧ (t.ctx o.ctx).lastRecorded = some f ∧
        f.code = .fenceRegression ∧ f.detail = (if (s.syncObj o.index).poisoned then 3 else 1) ∧
        f.object = o.index ∧ f.value = o.value ∧ f.home = (s.syncObj o.index).value ∧
        (t.ctx o.ctx).regressions = satAdd 32 (s.ctx o.ctx).regressions 1 ∧ t.tiles = s.tiles ∧ t.dram = s.dram)) ∧
  (∀ (s : State) (id tile uid : Nat) (o : SyncOp) (x : SyncObj), s.sync.ops.find? (fun x => x.id == id) = some o →
    o.sent = true → o.applied = false → o.remote = none → o.handle = none → o.who = .group tile uid → o.kind = .arrive →
    x = s.syncObj o.index → x.kind = 2 → x.owner = o.ctx → x.poisoned = false →
    (o.value = x.value → x.countOpen + o.count < x.expected → ∃ t, exec (.arrivalApply id) s = .next t ∧
      (t.syncObj o.index).countOpen = x.countOpen + o.count ∧ (t.syncObj o.index).value = x.value ∧
      (t.syncObj o.index).countHeld = x.countHeld ∧ t.ctxs = s.ctxs) ∧
    (o.value = x.value → x.countOpen + o.count = x.expected → x.countHeld < x.expected →
      ∃ t, exec (.arrivalApply id) s = .next t ∧ (t.syncObj o.index).value = x.value + 1 ∧
        (t.syncObj o.index).countOpen = x.countHeld ∧ (t.syncObj o.index).countHeld = 0 ∧ t.ctxs = s.ctxs) ∧
    (o.value.toNat = x.value.toNat + 1 → x.countHeld + o.count ≤ x.expected → ∃ t, exec (.arrivalApply id) s = .next t ∧
      (t.syncObj o.index).countHeld = x.countHeld + o.count ∧ (t.syncObj o.index).value = x.value ∧
      (t.syncObj o.index).countOpen = x.countOpen ∧ t.ctxs = s.ctxs) ∧
    (o.value.toNat < x.value.toNat ∨ x.value.toNat + 1 < o.value.toNat ∨
        o.value = x.value ∧ x.expected < x.countOpen + o.count →
      (s.ctx o.ctx).st = .resident → (s.ctx o.ctx).fault = none → ∃ t f, exec (.arrivalApply id) s = .next t ∧
        t.sync.objs = s.sync.objs ∧ (t.ctx o.ctx).fault = some f ∧ f.code = .doubleArrival ∧ f.deferred = true ∧
        (t.ctx o.ctx).st = .stopped)) ∧
  (∀ (s : State) (id : Nat), s.sync.ops.find? (fun x => x.id == id) = none →
    exec (.signalApply id) s = .next s ∧ exec (.arrivalApply id) s = .next s)

/-- WAIT and TEST, registration at the home, polling, wakes and the wait watchdog (R59, R314, R315, R321, R322,
R326, R328). -/
def Obligations.WaitsRegisterWakeAndExpire : Prop :=
  (∀ (s u : State) (tile slot : Nat) (g : Group) (p : Path) (w : Word64),
    p.mask ≠ 0 → scalarField (wDst w) = true →
    (∀ i h, s.mayIssue tile slot (scalarKeys w) g p u → syncLegal 0x03 w 1 = true → u.waitRef g.ctx (bvFld (g.sreg (wA w)) 0 32) = .ok (i, h) →
      ∃ t x, exec (.syncWait tile slot w) s = .next t ∧ t.sync.waits = s.sync.waits ++ [x] ∧ x.id = s.nextId ∧
        x.who = .group tile g.uid ∧ x.index = i ∧ x.handle = h ∧ x.target = g.sreg (wB w) ∧ x.state = .moving ∧
        x.since = s.hal.ms ∧ t.sync.objs = s.sync.objs ∧ t.dram = s.dram ∧ t.group tile slot = some { g with
          paths := g.paths.filter (fun q => q != p) ++ [{ p with pc := p.pc + 8 }], issued := 16
          hold := .wait s.nextId (wDst w) (wImm w == 1), since := s.hal.ms }) ∧
    (∀ i h, s.mayIssue tile slot [keyS (wA w), keyP (wPred w)] g p u → orderLegal 0x04 w 0 = true → scalarField (wA w) = true →
      u.waitRef g.ctx (bvFld (g.sreg (wA w)) 0 32) = .ok (i, h) →
      ∃ t y, exec (.syncTest tile slot w) s = .next t ∧ t.group tile slot = some y ∧
        (∀ n, y.sreg n = if n % 64 = wDst w % 64 then (s.syncObj i).value else g.sreg n) ∧ y.v = g.v ∧ y.p = g.p ∧
        y.paths = g.paths.filter (fun q => q != p) ++ [{ p with pc := p.pc + 8 }] ∧ t.sync = s.sync ∧ t.dram = s.dram) ∧
    (∀ r, u.waitRef g.ctx (bvFld (g.sreg (wA w)) 0 32) = .error r →
      (s.ctx g.ctx).st = .resident → (s.ctx g.ctx).fault = none →
      (s.mayIssue tile slot (scalarKeys w) g p u → syncLegal 0x03 w 1 = true →
        ∃ t f, exec (.syncWait tile slot w) s = .next t ∧ (t.ctx g.ctx).fault = some f ∧ f.code = .syncDenied ∧
          f.detail = r ∧ f.where' = p.pc ∧ (t.ctx g.ctx).st = .stopped ∧ t.sync.waits = s.sync.waits) ∧
      (s.mayIssue tile slot [keyS (wA w), keyP (wPred w)] g p u → orderLegal 0x04 w 0 = true → scalarField (wA w) = true →
        ∃ t f, exec (.syncTest tile slot w) s = .next t ∧ (t.ctx g.ctx).fault = some f ∧ f.code = .syncDenied ∧
          f.detail = r ∧ (t.ctx g.ctx).st = .stopped))) ∧
  (∀ (s : State) (id tile uid slot dst : Nat) (lost : Bool) (w : Wait) (g : Group),
    s.sync.waits.find? (fun x => x.id == id && decide (x.state = .moving)) = some w → w.handle = none →
    (∀ x ∈ s.sync.waits, x.id = id → x = w) → w.who = .group tile uid → s.slotOf tile uid = some slot → s.group tile slot = some g → g.uid = uid →
    g.hold = .wait id dst lost → (s.syncObj w.index).value.toNat < 2 ^ 63 →
    (s.syncObj w.index).kind ≠ 0 → (s.syncObj w.index).owner = w.ctx →
    (w.target.toNat ≤ (s.syncObj w.index).value.toNat → ∃ t h, exec (.waitRegistration id) s = .next t ∧
      t.group tile slot = some h ∧ h.sreg dst = 0 ∧ (∀ n, n % 64 ≠ dst % 64 → h.sreg n = g.sreg n) ∧ h.v = g.v ∧
      h.p = g.p ∧ h.paths = g.paths ∧ h.hold = .none ∧ t.sync.waits = s.sync.waits.filter (fun x => x.id != id) ∧
      t.sync.objs = s.sync.objs ∧ t.dram = s.dram) ∧
    ((s.syncObj w.index).value.toNat < w.target.toNat → s.poolUse (s.syncHome w.index) < 4096 →
      (s.tile tile).waiting = [] → ∃ t, exec (.waitRegistration id) s = .next t ∧ t.tiles = s.tiles ∧
        (∀ x ∈ t.sync.waits, x.id = id → x.state = .pooled) ∧
        (t.syncObj w.index).waiters = (s.syncObj w.index).waiters + 1 ∧
        (t.syncObj w.index).value = (s.syncObj w.index).value ∧ t.dram = s.dram) ∧
    ((s.syncObj w.index).value.toNat < w.target.toNat → s.poolUse (s.syncHome w.index) < 4096 →
      (s.tile tile).waiting ≠ [] →
      (s.tiles.flatMap (fun e => e.2.saved.filter (fun x => x.ctx == g.ctx))).length < (s.ctx g.ctx).saveRecords →
      ∃ t, exec (.waitRegistration id) s = .next t ∧ t.group tile slot = none ∧
        (t.tile tile).saved = (s.tile tile).saved ++ [g] ∧ tabGet (t.tile tile).freeAt 0 slot = s.wet.toNat + 67 ∧ ∀ k, k ≠ tile → t.tile k = s.tile k) ∧
    ((s.syncObj w.index).value.toNat < w.target.toNat → 4096 ≤ s.poolUse (s.syncHome w.index) →
      (s.tile tile).waiting = [] → ∃ t, exec (.waitRegistration id) s = .next t ∧ t.tiles = s.tiles ∧
        (∀ x ∈ t.sync.waits, x.id = id → x.state = .polling) ∧ t.sync.objs = s.sync.objs)) ∧
  (∀ (s : State) (id tile uid slot dst st : Nat) (lost : Bool) (w : Wait) (g : Group),
    s.sync.waits.find? (fun x => x.id == id) = some w → w.state = .wake st → w.who = .group tile uid →
    s.slotOf tile uid = some slot → s.group tile slot = some g → g.uid = uid → g.hold = .wait w.id dst lost →
    (lost = false ∨ st ≠ 1 → ∃ t h, exec (.syncWake id) s = .next t ∧ t.group tile slot = some h ∧
      h.sreg dst = BitVec.ofNat 64 st ∧ (∀ n, n % 64 ≠ dst % 64 → h.sreg n = g.sreg n) ∧ h.v = g.v ∧ h.p = g.p ∧
      h.paths = g.paths ∧ h.hold = .none ∧ h.readyAt = max g.readyAt (s.wet.toNat + 4) ∧
      t.sync.waits = s.sync.waits.filter (fun x => x.id != w.id) ∧ t.dram = s.dram ∧
      ((s.ctx g.ctx).st ≠ .idle → t.ctxs = s.ctxs) ∧
      ((s.ctx g.ctx).st = .idle → (t.ctx g.ctx).st = .pending ∧ t.pendingOrder = s.pendingOrder ++ [g.ctx])) ∧
    (lost = true → st = 1 → (s.ctx g.ctx).st = .resident → (s.ctx g.ctx).fault = none →
      ∃ t f, exec (.syncWake id) s = .next t ∧ (t.ctx g.ctx).fault = some f ∧ f.code = .ownerLost ∧
        (t.ctx g.ctx).st = .stopped ∧ ∃ h, t.group tile slot = some h ∧ h.s = g.s)) ∧
  (∀ (s : State) (id : Nat) (w : Wait), s.sync.waits.find? (fun x => x.id == id && decide (x.state = .polling)) = some w →
    (s.syncObj w.index).value.toNat < 2 ^ 63 →
    (w.target.toNat ≤ (s.syncObj w.index).value.toNat → ∃ t, exec (.waiterPoll id) s = .next t ∧
      (∀ x ∈ t.sync.waits, x.id = id → x.state = .wake 0) ∧ t.sync.objs = s.sync.objs ∧ t.tiles = s.tiles) ∧
    ((s.syncObj w.index).value.toNat < w.target.toNat → 4096 ≤ s.poolUse (s.syncHome w.index) →
      exec (.waiterPoll id) s = .next s)) ∧
  (∀ (s : State) (c : Nat) (x : Ctx) (w : Wait), s.mod.standby = true → s.ctxs = [(c, x)] → x.st = .resident →
    x.fault = none → w ∈ s.sync.waits → w.ctx = c → w.state = .pooled → x.waitWdog * 1000 < s.hal.ms + 1 - w.since →
    ∃ t f, exec .waitWatchdogExamination s = .next t ∧ t.hal.ms = s.hal.ms + 1 ∧ (t.ctx c).fault = some f ∧
      f.code = .waitWatchdog ∧ (t.ctx c).st = .stopped ∧ t.dram = s.dram) ∧
  (∀ s : State, s.mod.standby = true →
    (∀ c ∈ s.liveCtxs, oldestPast (s.hal.ms + 1) (s.ctx c).waitWdog (s.watchedWaits c) = none) →
    ∃ t, exec .waitWatchdogExamination s = .next t ∧ t.hal.ms = s.hal.ms + 1 ∧ t.ctxs = s.ctxs ∧ t.sync = s.sync ∧
      t.tiles = s.tiles ∧
      t.sec.remaining = if (s.hal.ms + 1) % 1000 = 0 then s.sec.remaining - 1 else s.sec.remaining) ∧
  (∀ s : State, s.mod.standby = false → exec .waitWatchdogExamination s = .next s)

/-- Matrix instructions of a whole group enter the array's command queue, park, diverge or fault (R63, R86, R87,
R88, R104, R105, R106, R107). -/
def Obligations.MatrixInstructionsQueueForTheArray : Prop :=
  (∀ (s u : State) (tile slot op : Nat) (w : Word64) (g : Group) (p : Path) (b : Block) (i : Instr) (a : MArray),
    (i, op) ∈ matrixInstrs tile slot w → s.mayQueue tile slot op w g p b u → a = (s.tile tile).array →
    matrixFault a.view ((a.holder == some g.uid) && a.loaded) a.diag b.size (s.matrixCmd g b slot op w) = none →
    op ≠ mEnd ∨ a.cmds ≠ [] →
    ∃ t : State, exec i s = .next t ∧ t.group tile slot = some { g with
        paths := [{ p with pc := p.pc + 8 }], issued := g.issued + 1
        ready := if op = mBread then ((g.readyOn (keyV (wDst w)) never).readyOn (keyV ((wDst w + 1) % 128)) never).ready
                 else g.ready } ∧
      (t.tile tile).array = { a with holder := some g.uid, loaded := ((a.holder == some g.uid) && a.loaded) || op == mLoad
                                     cmds := a.cmds ++ [{ s.matrixCmd g b slot op w with tick := u.wet.toNat }] } ∧
      (∀ k, k ≠ slot → t.group tile k = s.group tile k) ∧ (∀ k, k ≠ tile → t.tile k = s.tile k) ∧
      (t.tile tile).scratch = (s.tile tile).scratch ∧ t.dram = s.dram ∧ t.ctxs = s.ctxs ∧ t.wet = u.wet) ∧
  (∀ (s u : State) (tile slot : Nat) (w : Word64) (g : Group) (p : Path) (b : Block) (a : MArray),
    s.mayQueue tile slot mEnd w g p b u → a = (s.tile tile).array → wImm w = 0 → a.cmds = [] →
    ∃ t : State, exec (.mend tile slot w) s = .next t ∧
      (t.tile tile).array = { a with holder := none, loaded := false } ∧
      t.group tile slot = some { g with paths := [{ p with pc := p.pc + 8 }], issued := g.issued + 1 } ∧
      (t.tile tile).scratch = (s.tile tile).scratch ∧ t.dram = s.dram) ∧
  (∀ (s u : State) (tile slot op : Nat) (w : Word64) (g : Group) (p : Path) (b : Block) (i : Instr) (a : MArray)
      (e : Code × Nat), (i, op) ∈ matrixInstrs tile slot w → s.mayQueue tile slot op w g p b u → a = (s.tile tile).array →
    matrixFault a.view ((a.holder == some g.uid) && a.loaded) a.diag b.size (s.matrixCmd g b slot op w) = some e →
    exec i s = .next (u.preciseAt tile slot g p e.1 0 e.2)) ∧
  (∀ (s : State) (tile slot op : Nat) (w : Word64) (g : Group) (p : Path) (b : Block) (i : Instr),
    (i, op) ∈ matrixInstrs tile slot w → s.mod.state = .run → s.group tile slot = some g → g.stopped = false →
    g.hold = .none → g.paths = [p] → p.park = .no → p.mask ≠ 0 → g.turn = p.low → g.issued < 16 →
    (s.tile tile).iHit (p.pc.toNat / 128) = true → s.blockOf tile g = some b → g.readyAll (matrixKeys op w) < never →
    wClass w ≠ 8 ∨ wOp w ≠ op ∨ wPred w ≠ 7 ∨ wHint w ≠ 0 →
    exec i s = .next ((s.issueFrom tile slot (g.readyAll (matrixKeys op w))).illegal tile slot g p)) ∧
  (∀ (s : State) (tile slot op : Nat) (w : Word64) (g : Group) (p q : Path) (i : Instr),
    (i, op) ∈ matrixInstrs tile slot w → s.mod.state = .run → s.group tile slot = some g → g.stopped = false →
    g.hold = .none → g.paths = [p, q] → p.park = .no → p.mask ≠ 0 → g.turn = p.low → g.issued < 16 → q ≠ p →
    (s.tile tile).iHit (p.pc.toNat / 128) = true →
    (q.park = .no → exec i s = .next (s.putGroup tile slot { g with
      paths := [q, { p with park := .matrix }], since := s.hal.ms, issued := 16 })) ∧
    (q.park = .matrix → q.pc ≠ p.pc → (s.ctx g.ctx).st = .resident → (s.ctx g.ctx).fault = none →
      ∃ (t : State) (f : FaultRec), exec i s = .next t ∧ (t.ctx g.ctx).fault = some f ∧ f.code = .matrixDivergence ∧
        f.where' = p.pc ∧ f.lanes = p.mask ∧ f.address2 = q.pc ∧ f.lanes2 = q.mask ∧ (t.ctx g.ctx).st = .stopped ∧
        (t.tile tile).array.basin = (s.tile tile).array.basin)) ∧
  (∀ (s : State) (tile slot op : Nat) (w : Word64) (i : Instr), (i, op) ∈ matrixInstrs tile slot w →
    s.mod.state ≠ .run → exec i s = .next s)

/-- The oldest command of the array's queue begins and has its effect on block, passes, basin, scratch or registers
(R100, R104, R105, R106, R107, R110, R112, R120, R123, R510). -/
def Obligations.MatrixCommandsActWhenTheyBegin : Prop :=
  (∀ (s : State) (tile : Nat) (c : MCmd) (rest : List MCmd), s.mod.state = .run → s.claimed tile false = false →
    (s.tile tile).array.cmds = c :: rest →
    ∃ t : State, exec (.matrixCommandBegin tile) s = .next t ∧ (t.tile tile).array.cmds = rest ∧
      t.wet = (s.waitWet ((s.tile tile).array.beginAt c)).wet ∧ t.dram = s.dram ∧ t.ctxs = s.ctxs ∧
      ∀ k, k ≠ tile → t.tile k = s.tile k) ∧
  (∀ (s : State) (tile n : Nat) (c : MCmd) (rest : List MCmd) (a : MArray), s.mod.state = .run →
    s.claimed tile false = false → a = (s.tile tile).array → a.cmds = c :: rest → a.idle = true →
    n = (s.waitWet (a.beginAt c)).wet.toNat →
    (c.op = mLoad → mlCapture c.word = false → ∃ t : State, exec (.matrixCommandBegin tile) s = .next t ∧
      (t.tile tile).array = { a with
        cmds := rest, mode := mlMode c.word, fmt := mlFmt c.word, front := some (n, mlFmt c.word)
        blocks := [{ num := (a.blocks.getLast?.elim 0 (fun f => f.num)) + 1, start := n, base := c.base + c.a.toNat
                     trans := mlTrans c.word, read := 0, mode := mlMode c.word, fmt := mlFmt c.word
                     codes := [], scales := [] }] } ∧ (t.tile tile).scratch = (s.tile tile).scratch) ∧
    (c.op = mPass → ∃ (t : State) (x : MArray), exec (.matrixCommandBegin tile) s = .next t ∧ (t.tile tile).array = x ∧
      x.cmds = rest ∧ x.basin = a.basin ∧ x.blocks = a.blocks ∧ x.lastEntry = some (n + rowCount c.b - 1) ∧
      x.passes.getLast? = some { start := n, rows := rowCount c.b, first := firstRow c.b, width := basinWidth a.mode a.fmt
                                 kst := (gridOf a.fmt).1, nst := (gridOf a.fmt).2
                                 num := a.blocks.getLast?.elim 0 (fun f => f.num), fmt := mlFmt c.word
                                 base := c.base + c.a.toNat, trans := bit (wImm c.word) 4, acc := bit (wImm c.word) 5
                                 capture := bit (wImm c.word) 6, scaleExp := expField c.b, live := c.live, entered := 0
                                 flight := [] } ∧ (t.tile tile).scratch = (s.tile tile).scratch) ∧
    (c.op = mDrain ∨ c.op = mDiag → ∃ t : State, exec (.matrixCommandBegin tile) s = .next t ∧
      (t.tile tile).array = { a with
        cmds := rest, sweeps := [{ cmd := c, mode := a.mode, fmt := a.fmt, next := 0, due := n, place := none }] } ∧
      (t.tile tile).scratch = (s.tile tile).scratch) ∧
    (c.op = mZero → ∃ (t : State) (x : MArray), exec (.matrixCommandBegin tile) s = .next t ∧ (t.tile tile).array = x ∧
        x = { a with cmds := rest, basin := x.basin } ∧ (∀ k, tabGet x.basin 0 k =
          if firstRow c.b * basinWidth a.mode a.fmt ≤ k ∧ k < (firstRow c.b + rowCount c.b) * basinWidth a.mode a.fmt then
            initWord a.mode a.fmt else tabGet a.basin 0 k)) ∧
    (c.op = mBwrite → ∃ (t : State) (x : MArray), exec (.matrixCommandBegin tile) s = .next t ∧ (t.tile tile).array = x ∧
        x = { a with cmds := rest, basin := x.basin } ∧
        (∀ k, k < 32 → c.live.getLsbD k = true → tabGet x.basin 0 (c.b.toNat * 64 + 2 * k) = c.data.getD (2 * k) 0 ∧
          tabGet x.basin 0 (c.b.toNat * 64 + 2 * k + 1) = c.data.getD (2 * k + 1) 0) ∧
        (∀ k, k < c.b.toNat * 64 ∨ c.b.toNat * 64 + 64 ≤ k → tabGet x.basin 0 k = tabGet a.basin 0 k)) ∧
    (c.op = mBread → ∃ t : State, exec (.matrixCommandBegin tile) s = .next t ∧
        (t.tile tile).array = { a with cmds := rest } ∧
        ∀ slot g, s.group tile slot = some g → g.uid = c.uid → ∃ h, t.group tile slot = some h ∧ h.s = g.s ∧ h.p = g.p ∧
          h.paths = g.paths ∧ tabGet h.ready 0 (keyV (wDst c.word)) = n + 3 ∧
          tabGet h.ready 0 (keyV ((wDst c.word + 1) % 128)) = n + 3 ∧
          (∀ k, k < 32 → c.live.getLsbD k = true → h.vreg (wDst c.word) k = tabGet a.basin 0 (c.b.toNat * 64 + 2 * k) ∧
            h.vreg ((wDst c.word + 1) % 128) k = tabGet a.basin 0 (c.b.toNat * 64 + 2 * k + 1)) ∧
          (∀ r k, k < 32 → r ≠ wDst c.word → r ≠ (wDst c.word + 1) % 128 → h.vreg r k = g.vreg r k)) ∧
    (c.op = mEnd → a.holder = some c.uid → ∃ t : State, exec (.matrixCommandBegin tile) s = .next t ∧
        (t.tile tile).array = { a with cmds := rest, holder := none, loaded := false } ∧
        (t.tile tile).scratch = (s.tile tile).scratch)) ∧
  (∀ (s : State) (tile : Nat), (s.tile tile).array.cmds = [] ∨ s.mod.state ≠ .run →
    exec (.matrixCommandBegin tile) s = .next s)

/-- Columns are read, rows enter, results reach the basin and rows are drained each in its own tick (R95, R96, R98,
R100, R101, R112, R117, R120, R123). -/
def Obligations.TheArrayWorksTickByTick : Prop :=
  (∀ (f : Front) (sc : Tab Byte) (t i j : Nat), f.read = 0 → f.codes = [] → i < (gridOf f.fmt).1 → j < (gridOf f.fmt).2 →
    tabGet (f.readTo sc t).codes 0 (256 * i + j) =
      if t + 1 < f.start + j then 0
      else if kvecFmt f.fmt then kvecCode sc (f.base + j * kPitch f.fmt) i
      else if f.trans then tileCode sc f.fmt f.base j i else tileCode sc f.fmt f.base i j) ∧
  (∀ (b : Front) (p : Pass) (r : RowIn) (j : Nat) (old : Word32), b.mode = 0 → b.fmt = 0 → p.fmt = 0 → p.kst = 64 →
    r.live = true → passCell b p r j [old] = [(if p.acc then old else 0) + BitVec.ofInt 32
      (((List.range 64).map (fun i => signed 8 (r.codes.getD i 0) * signed 8 (tabGet b.codes 0 (256 * i + j)))).sum)]) ∧
  (∀ (a : MArray) (b : Front) (p : Pass) (r : RowIn) (t k : Nat), a.passes = [p] → p.flight = [r] → a.blockOf p.num = b →
    b.mode ≠ 7 → tabGet (a.updates t).basin 0 k =
      if (p.first + r.row) * p.width + r.done ≤ k ∧ k < (p.first + r.row) * p.width + p.nst ∧
        k + p.start + r.row + p.kst + 5 ≤ t + (p.first + r.row) * p.width then
        (passCell b p r (k - (p.first + r.row) * p.width) [tabGet a.basin 0 k]).headD 0
      else tabGet a.basin 0 k) ∧
  (∀ (s : Sweep) (tile base : Nat) (a : MArray) (sc : Tab Byte), s.cmd.op = mDrain → s.mode = 0 → s.fmt = 0 →
    mlFmt s.cmd.word = 10 → bit (wImm s.cmd.word) 4 = false → bit (wImm s.cmd.word) 5 = false →
    bit (wImm s.cmd.word) 6 = false → expField s.cmd.b = 0 → base = s.cmd.base + s.cmd.a.toNat + s.next * 256 →
    (s.row tile a sc).1 = a ∧
    (∀ j, j < 64 → tabRange (s.row tile a sc).2 0 (base + 4 * j) 4 =
      leBytes 4 (tabGet a.basin 0 ((firstRow s.cmd.b + s.next) * 64 + j)).toNat) ∧
    (∀ n, n < base ∨ base + 256 ≤ n → tabGet (s.row tile a sc).2 0 n = tabGet sc 0 n)) ∧
  (∀ (s : Sweep) (tile : Nat) (a : MArray) (sc : Tab Byte), s.cmd.op = mDiag → s.cmd.live = BitVec.allOnes 32 →
    (s.row tile a sc).2 = sc ∧ (s.row tile a sc).1 = { a with basin := (s.row tile a sc).1.basin } ∧
    (∀ j, j < 64 → tabGet (s.row tile a sc).1.basin 0 ((firstRow s.cmd.c + s.next) * 64 + j) =
      f32Of ((f32Val (tabGet a.basin 0 ((firstRow s.cmd.c + s.next) * 64 + j))).add
        ((codeValue (Config.diagFormat % 4) 0 (streamCode sc 2 (s.cmd.base + s.cmd.a.toNat) s.next j false)).mul
          (codeValue (Config.diagFormat % 4) 0 (streamCode sc 2 (s.cmd.base + s.cmd.b.toNat) s.next j false))))) ∧
    ∀ n, n < (firstRow s.cmd.c + s.next) * 64 ∨ (firstRow s.cmd.c + s.next) * 64 + 64 ≤ n →
      tabGet (s.row tile a sc).1.basin 0 n = tabGet a.basin 0 n) ∧
  (∀ (s : Sweep) (a : MArray) (t : Nat), s.blocked a t = true ↔ ∃ p ∈ a.passes, p.start < t ∧ ∃ m, m < p.rows ∧
    t ≤ p.update m ∧ (p.first + m) * p.width < s.lo s.next + s.width ∧ s.lo s.next < (p.first + m + 1) * p.width) ∧
  (∀ (s : Sweep) (tile t : Nat) (a : MArray) (sc : Tab Byte), s.due ≤ t → s.blocked a t = true →
    Sweep.tick tile t (a, sc) s = match s.place with
      | none => ({ a with sweeps := a.sweeps ++ [{ s with due := t + 1 }] }, sc)
      | some e => ({ a with hazard := some (a.hazard.getD (t, e)) }, sc))

/-- The row engine reads a row, applies a function or a fixed reduction tree, and writes the result (R63, R81, R82,
R83, R155, R156). -/
def Obligations.RowEngineWorksOnRows : Prop :=
  (∀ (s u v : State) (tile slot len src dst : Nat) (g : Group) (p : Path) (w : Word64) (b : Block) (op : RowOp)
      (xs : List Word32), s.mayIssue tile slot (scalarKeys w) g p u → plainWord 9 0 w = true → scalarPair w = true →
    p.mask ≠ 0 → u.blockOf tile g = some b → rowFault op len src dst b.size = none → src < 2 ^ 24 → dst < 2 ^ 24 →
    s.claimed tile false = false → (s.tile tile).array.idle = true →
    v = u.waitWet (u.rowStart tile op len src dst b.base) →
    xs = (List.range len).map (fun i => BitVec.ofNat 32 (leNat (s.scratchBytes tile (b.base + src + 4 * i) 4))) →
    (g.active p w ≠ 0 → ∃ t : State, exec (.rowEngine tile slot op len src dst w) s = .next t ∧
      t.scratchBytes tile (b.base + dst) (4 * rowOutLen op len) =
        (rowResult op ((g.sreg (wA w)).truncate 32) ((g.sreg (wB w)).truncate 32) xs).flatMap (fun x => leBytes 4 x.toNat) ∧
      (∀ n, n < b.base + dst ∨ b.base + dst + 4 * rowOutLen op len ≤ n →
        tabGet (t.tile tile).scratch 0 n = tabGet (s.tile tile).scratch 0 n) ∧ t.wet = v.wet ∧
      (t.tile tile).rowBusy = v.wet.toNat + (len + 63) / 64 ∧
      v.wet.toNat + (len + 63) / 64 - 1 + rowLatency op ≤ (t.tile tile).outReady (b.base + dst) (b.base + dst + 1) ∧
      (t.tile tile).array = (s.tile tile).array ∧ t.dram = s.dram ∧ (∀ k, k ≠ tile → t.tile k = s.tile k) ∧
      t.group tile slot = some { g with
        paths := g.paths.filter (fun q => q != p) ++ [{ p with pc := p.pc + 8 }], issued := g.issued + 1 }) ∧
    (g.active p w = 0 → exec (.rowEngine tile slot op len src dst w) s = .next (u.putGroup tile slot { g with
      paths := g.paths.filter (fun q => q != p) ++ [{ p with pc := p.pc + 8 }], issued := g.issued + 1 }))) ∧
  (∀ (s u : State) (tile slot len src dst : Nat) (g : Group) (p : Path) (w : Word64) (b : Block) (op : RowOp)
      (e : Code × Nat), s.mayIssue tile slot (scalarKeys w) g p u → u.blockOf tile g = some b →
    rowFault op len src dst b.size = some e →
    exec (.rowEngine tile slot op len src dst w) s = .next (if plainWord 9 0 w && scalarPair w then
      u.preciseAt tile slot g p e.1 0 e.2 else u.illegal tile slot g p)) ∧
  (∀ (s u : State) (tile slot len src dst : Nat) (g : Group) (p : Path) (w : Word64) (b : Block) (op : RowOp),
    s.mayIssue tile slot (scalarKeys w) g p u → u.blockOf tile g = some b → s.claimed tile false = false →
    src < 2 ^ 24 → dst < 2 ^ 24 → wClass w ≠ 9 ∨ wHint w ≠ 0 ∨ wImm w ≠ 0 ∨ wA w < 64 ∨ wB w < 64 →
    exec (.rowEngine tile slot op len src dst w) s = .next (u.illegal tile slot g p)) ∧
  (∀ (op : RowOp) (len src dst win : Nat), len = 0 ∨ 65536 < len →
    rowFault op len src dst win = some (.illegalInstruction, 0)) ∧
  (∀ (op : RowOp) (len src dst win : Nat), 0 < len → len ≤ 65536 → src < 2 ^ 24 → win < src + 4 * len →
    rowFault op len src dst win = some (.scratchBounds, src)) ∧
  (rowFnValue .exp2 0x80000000 = 0x3F800000 ∧ rowFnValue .exp2 0xFF800000 = 0 ∧ rowFnValue .exp2 0x7F800000 = 0x7F800000 ∧
    rowFnValue .log2 0 = 0xFF800000 ∧ rowFnValue .log2 0xFF800000 = 0x7FC00000 ∧ rowFnValue .log2 0x7F800000 = 0x7F800000 ∧
    rowFnValue .recip 0 = 0x7F800000 ∧ rowFnValue .recip 0x80000000 = 0xFF800000 ∧ rowFnValue .recip 0xFF800000 = 0x80000000 ∧
    rowFnValue .recip 0x7F800000 = 0 ∧ rowFnValue .rsqrt 0 = 0x7F800000 ∧ rowFnValue .rsqrt 0x80000000 = 0xFF800000 ∧
    rowFnValue .rsqrt 0x7F800000 = 0 ∧ rowFnValue .rsqrt 0xBF800000 = 0x7FC00000) ∧
  (∀ f x, (f32Val x).isNan = true → rowFnValue f x = 0x7FC00000) ∧
  (∀ a b c d : Word32, rowReduce .sum [a, b, c, d] = canonNan (f32Add (f32Add a b) (f32Add c d)) ∧
    rowReduce .sum [a, b, c] = canonNan (f32Add (f32Add a b) c) ∧
    rowReduce .sumSq [a, b] = canonNan (f32Add (f32Mul a a) (f32Mul b b)) ∧ rowReduce .max [a, b] = canonNan (f32Max a b)) ∧
  (∀ (r : RowRed) (xs : List Word32) (a b : Word32), rowResult (.reduce r) a b xs = [rowReduce r xs]) ∧
  (∀ (f : RowFn) (xs : List Word32) (a b : Word32), rowResult (.elem f) a b xs = xs.map (fun x => rowFnValue f (f32Fma a x b)))

/-- Tile DMA transfers: start, test and wait, and completion (R63, R71, R84, R85, R90, R193). -/
def Obligations.TileDmaTransfersMoveTheirRows : Prop :=
  (∀ (s u : State) (tile slot entry : Nat) (g : Group) (p : Path) (d : DmaSpec) (b : Block),
    s.mayIssue tile slot [keyP (wPred d.word)] g p u → wClass d.word = 0xA → p.mask ≠ 0 → u.blockOf tile g = some b →
    (s.tile tile).dmaFree = some entry → s.claimed tile true = false →
    (u.dmaFault d b.size g.ctx (some b) = none → g.active p d.word ≠ 0 →
      ∃ (t : State) (x : Dma), exec (.tileDmaStart tile slot d) s = .next t ∧
        tabGet (t.tile tile).dma none entry = some x ∧ x.spec = d ∧
        x.ctx = g.ctx ∧ x.kern = g.kern ∧ x.block = g.block ∧ x.base = b.base ∧ x.pc = p.pc ∧ x.mask = p.mask ∧
        x.flume = none ∧ x.due = max u.wet.toNat (if d.inbound then (s.tile tile).dmaIn else (s.tile tile).dmaOut) +
          dmaTicks d ∧
        (∀ e, e ≠ entry → tabGet (t.tile tile).dma none e = tabGet (s.tile tile).dma none e) ∧
        (∀ k, (t.tile k).scratch = (s.tile k).scratch) ∧ t.dram = s.dram ∧ t.group tile slot = some { g with
          paths := g.paths.filter (fun q => q != p) ++ [{ p with pc := p.pc + 8 }], issued := g.issued + 1 }) ∧
    (∀ e, u.dmaFault d b.size g.ctx (some b) = some e →
      exec (.tileDmaStart tile slot d) s = .next (u.preciseAt tile slot g p e.1 0 e.2))) ∧
  (∀ (s u : State) (tile slot : Nat) (g : Group) (p : Path) (d : DmaSpec),
    s.mayIssue tile slot [keyP (wPred d.word)] g p u → (s.tile tile).dmaFree = none →
    exec (.tileDmaStart tile slot d) s = .next s) ∧
  (∀ (s u : State) (tile slot : Nat) (g : Group) (p : Path) (d : DmaSpec) (b : Block),
    s.mayIssue tile slot [keyP (wPred d.word)] g p u → wClass d.word ≠ 0xA → u.blockOf tile g = some b →
    (s.tile tile).dmaFree.isSome = true → s.claimed tile true = false →
    exec (.tileDmaStart tile slot d) s = .next (u.illegal tile slot g p)) ∧
  (∀ (s : State) (d : DmaSpec) (win c : Nat) (b : Option Block),
    (d.rows = 0 ∨ 65536 < d.rows ∨ 1572864 < d.rows * d.rowLen → s.dmaFault d win c b = some (.illegalInstruction, 0)) ∧
    (dmaShape d = true → dmaInWindow d win = false → s.dmaFault d win c b = some (.scratchBounds, d.scratch))) ∧
  (∀ (d : DmaSpec) (va : Nat), (d.other = .memory va → dmaTicks d = (d.rows * d.rowLen + 255) / 256) ∧
    (d.other = .prefetch va → dmaTicks d = 0)) ∧
  (∀ (s u : State) (tile slot entry : Nat) (g : Group) (p : Path) (w : Word64),
    s.mayIssue tile slot [keyP (wPred w)] g p u → wClass w = 0xA → p.mask ≠ 0 → entry < 16 →
    (exec (.tileDmaTestWait tile slot entry true w) s = .next (u.putGroup tile slot { g with
      paths := g.paths.filter (fun q => q != p) ++ [{ p with pc := p.pc + 8 }], issued := g.issued + 1
      hold := if (match tabGet (s.tile tile).dma none entry with
        | some t => t.ctx == g.ctx && t.flume.isNone
        | none => false) then .dma entry else .none })) ∧
    (g.active p w ≠ 0 → ∃ h : Group, exec (.tileDmaTestWait tile slot entry false w) s = .next (u.putGroup tile slot h) ∧
      h.v = g.v ∧ h.p = g.p ∧ h.paths = g.paths.filter (fun q => q != p) ++ [{ p with pc := p.pc + 8 }] ∧
      (∀ n, n % 64 ≠ wDst w % 64 → h.sreg n = g.sreg n) ∧
      (tabGet (s.tile tile).dma none entry = none → h.sreg (wDst w) = 1) ∧
      (∀ t, tabGet (s.tile tile).dma none entry = some t → t.ctx = g.ctx → t.flume = none → h.sreg (wDst w) = 0))) ∧
  (∀ (s u : State) (tile slot entry : Nat) (g : Group) (p : Path) (w : Word64) (wait : Bool),
    s.mayIssue tile slot [keyP (wPred w)] g p u → 16 ≤ entry ∨ wClass w ≠ 0xA →
    exec (.tileDmaTestWait tile slot entry wait w) s = .next (u.illegal tile slot g p)) ∧
  (∀ (s : State) (tile entry va k : Nat) (x : Dma) (a : Access) (data : List Byte) (o : List Word64),
    tabGet (s.tile tile).dma none entry = some x → s.mod.state = .run → s.timed.region = none →
    (s.tile tile).array.idle = true →
    s.flights.filter (fun a => decide (a.who = .dma tile entry)) = [a] → x.flume = none → x.spec.signal = none →
    x.spec.other = .memory va → x.spec.inbound = true → x.spec.compress ≠ 2 → x.spec.counter = some k → x.fault = none →
    dmaParts x.spec va = [(va, x.spec.rowLen, x.spec.scratch)] →
    (a.stage = .served data o → data.length = x.spec.rowLen →
      ∃ t : State, exec (.tileDmaCompletion tile entry) s = .next t ∧
      t.scratchBytes tile (x.base + x.spec.scratch) x.spec.rowLen = data ∧
      (∀ n, n < x.base + x.spec.scratch ∨ x.base + x.spec.scratch + x.spec.rowLen ≤ n →
        tabGet (t.tile tile).scratch 0 n = tabGet (s.tile tile).scratch 0 n) ∧
      tabGet (t.tile tile).dma none entry = none ∧ t.wet = (s.waitWet x.due).wet ∧
      (∀ b ∈ (s.tile tile).blocks, b.kern = x.kern → b.index = x.block → { b with
        counters := tabSet b.counters 0 k ((tabGet b.counters 0 k + 2 ^ 32 - 1) % 2 ^ 32) } ∈ (t.tile tile).blocks) ∧
      (∀ slot g, s.group tile slot = some g →
        t.group tile slot = some (if g.hold = .dma entry then { g with hold := .none } else g)) ∧
      t.flights = s.flights.filter (fun a => decide (a.who ≠ .dma tile entry)) ∧ t.dram = s.dram ∧ t.ctxs = s.ctxs) ∧
    (a.stage = .poisoned → (s.ctx x.ctx).st = .resident → (s.ctx x.ctx).fault = none →
      ∃ (t : State) (f : FaultRec), exec (.tileDmaCompletion tile entry) s = .next t ∧ (t.ctx x.ctx).fault = some f ∧
        f.code = .memUncorrectable ∧ f.deferred = true ∧ f.tile = tile ∧ f.slot = x.slot ∧ f.lanes = x.mask ∧
        (t.ctx x.ctx).st = .stopped ∧
        tabGet (t.tile tile).dma none entry = none ∧ ∀ n, tabGet (t.tile tile).scratch 0 n = tabGet (s.tile tile).scratch 0 n)) ∧
  (∀ (s : State) (tile entry : Nat), tabGet (s.tile tile).dma none entry = none ∨ s.mod.state ≠ .run ∨
    (∃ a ∈ s.flights, a.who = .dma tile entry ∧ (a.stage = .moving ∨ a.stage = .waiting ∨ a.stage = .forwarded)) →
    exec (.tileDmaCompletion tile entry) s = .next s)

/-- Stores, loads and atomics at the home: what is stored is what is read back (R193, R202, R203, R204, R211, R336). -/
def Obligations.LocalAccessesAreServedAtTheHome : Prop :=
  (∀ (s v : State) (id dpa : Nat) (a : Access) (d : List (Option Byte)), s.access id = some a → a.stage = .moving →
    s.arrive id = some v → s.lineHeld (s.channelOf (dpa / 128)) (dpa / 128) id = false →
    a.place = .dram dpa → a.op = .store d → s.repair.failed.elem (s.channelOf (dpa / 128)) = false →
    dpa % 128 + d.length ≤ 128 → (s.slice (s.channelOf (dpa / 128))).dead.elem (dpa / 128) = false →
    (∀ l, s.cached (dpa / 128) = some l → l.data.length = 128) →
    ∃ t : State, exec (.homeAccess id) s = .next t ∧
      (∀ i v, i < d.length → d.getD i none = some v → t.homeByte (dpa + i) = v) ∧ t.ctxs = s.ctxs ∧
      t.tiles = s.tiles ∧ t.wet = v.wet ∧ (∀ b ∈ t.flights, b.id = id → b.stage = .acked) ∧ (∀ b ∈ s.flights, b.id ≠ id → b ∈ t.flights) ∧
      ((s.cached (dpa / 128)).isSome = true ∨
        ((s.slice (s.channelOf (dpa / 128))).set (s.setOf (dpa / 128))).length < 16 →
        t.dram = s.dram ∧ (∀ i, i < d.length → d.getD i none = none → t.homeByte (dpa + i) = s.homeByte (dpa + i)) ∧
        ∀ x, x < dpa ∨ dpa + d.length ≤ x → t.homeByte x = s.homeByte x)) ∧
  (∀ (s v : State) (id dpa : Nat) (a : Access), s.access id = some a → a.stage = .moving → a.place = .dram dpa →
    s.arrive id = some v → s.lineHeld (s.channelOf (dpa / 128)) (dpa / 128) id = false →
    a.op = .load → s.repair.failed.elem (s.channelOf (dpa / 128)) = false →
    (sectorsOf (dpa % 128) a.len &&& (15 - s.validAt (dpa / 128)) = 0 → a.hint ≠ 3 →
      ∃ t : State, exec (.homeAccess id) s = .next t ∧ t.dram = s.dram ∧ t.ctxs = s.ctxs ∧
        (∀ b ∈ t.flights, b.id = id → b.stage = .served (s.homeBytes dpa a.len) []) ∧
        ∀ x, t.homeByte x = s.homeByte x) ∧
    (sectorsOf (dpa % 128) a.len &&& (15 - s.validAt (dpa / 128)) ≠ 0 →
      (s.slice (s.channelOf (dpa / 128))).miss.length < 64 →
      (∀ m ∈ (s.slice (s.channelOf (dpa / 128))).miss, m.waiters.length < 16) →
      ∃ t : State, exec (.homeAccess id) s = .next t ∧ (∀ b ∈ t.flights, b.id = id → b.stage = .waiting) ∧ t.tiles = s.tiles ∧
        ((s.slice (s.channelOf (dpa / 128))).wb.length < 32 → t.dram = s.dram) ∧
        ∃ m ∈ (t.slice (t.channelOf (dpa / 128))).miss, m.tag = dpa / 128 ∧ a.id ∈ m.waiters)) ∧
  (∀ (s v : State) (id dpa : Nat) (a : Access), s.access id = some a → a.stage = .moving → a.place = .dram dpa →
    s.arrive id = some v → s.repair.failed.elem (s.channelOf (dpa / 128)) = false →
    s.lineHeld (s.channelOf (dpa / 128)) (dpa / 128) id = true →
    ∃ t : State, exec (.homeAccess id) s = .next t ∧ t.dram = s.dram ∧ (∀ x, t.homeByte x = s.homeByte x) ∧
      (t.slice (s.channelOf (dpa / 128))).inq = (s.slice (s.channelOf (dpa / 128))).inq ++ [id] ∧
      ∀ b ∈ t.flights, b.id = id → b.stage = .waiting) ∧
  (∀ (s v : State) (id dpa : Nat) (a : Access), s.access id = some a → a.stage = .moving → a.place = .dram dpa →
    s.arrive id = some v → s.repair.failed.elem (s.channelOf (dpa / 128)) = true →
    ∃ t : State, exec (.homeAccess id) s = .next t ∧ t.dram = s.dram ∧ t.slices = s.slices ∧
      ∀ b ∈ t.flights, b.id = id → b.stage = .poisoned) ∧
  (∀ (s v : State) (id iova : Nat) (a : Access), s.access id = some a → a.stage = .moving → a.place = .host iova →
    s.arrive id = some v →
    (a.op = .load → ∃ t : State, exec (.homeAccess id) s = .next t ∧ t = { v with flights := t.flights } ∧
      ∀ b ∈ t.flights, b.id = id → b.stage =
        .served (tabRange s.hostMem 0 ((s.ctx a.ctx).pasid * 2 ^ 64 + iova) a.len) []) ∧
    (∀ d, a.op = .store d → ∃ t : State, exec (.homeAccess id) s = .next t ∧
      t = { v with flights := t.flights, hostMem := t.hostMem } ∧ (∀ b ∈ t.flights, b.id = id → b.stage = .acked) ∧
      ∀ x, tabGet t.hostMem 0 x = if (s.ctx a.ctx).pasid * 2 ^ 64 + iova ≤ x ∧
          x < (s.ctx a.ctx).pasid * 2 ^ 64 + iova + d.length then
        (d.getD (x - ((s.ctx a.ctx).pasid * 2 ^ 64 + iova)) none).getD (tabGet s.hostMem 0 x)
      else tabGet s.hostMem 0 x)) ∧
  (∀ (s : State) (id : Nat), s.access id = none ∨ (∃ a, s.access id = some a ∧ a.stage ≠ .moving) ∨ s.arrive id = none →
    exec (.homeAccess id) s = .next s) ∧
  (∀ (s : State) (id dpa : Nat) (a : Access) (op : AtomOp) (ty : AtomTy) (lanes : List (Nat × Word64 × Word64)),
    s.access id = some a → a.stage = .forwarded → a.place = .dram dpa → a.op = .atomic op ty lanes →
    (s.slice (s.channelOf (dpa / 128))).inq = [] → s.fab.early = [] →
    dpa % atomBytes ty = 0 → (s.slice (s.channelOf (dpa / 128))).dead.elem (dpa / 128) = false →
    (∀ l, s.cached (dpa / 128) = some l → l.data.length = 128) →
    ((s.cached (dpa / 128)).isSome = true ∨
      ((s.slice (s.channelOf (dpa / 128))).set (s.setOf (dpa / 128))).length < 16) →
    (s.poisoned (dpa / 128 * 128) 128 = false → ∃ t : State, exec (.atomicUnitOperation id) s = .next t ∧
      t.homeBytes dpa (atomBytes ty) = leBytes (atomBytes ty) (applyLanes op ty
        (BitVec.ofNat 64 (leNat (s.homeBytes dpa (atomBytes ty)))) (lanes.map (fun l => l.2))).2.toNat ∧
      (∀ x, x < dpa ∨ dpa + atomBytes ty ≤ x → t.homeByte x = s.homeByte x) ∧ t.dram = s.dram ∧
      ∀ b ∈ t.flights, b.id = id → b.stage = .served [] (applyLanes op ty
        (BitVec.ofNat 64 (leNat (s.homeBytes dpa (atomBytes ty)))) (lanes.map (fun l => l.2))).1) ∧
    (s.poisoned (dpa / 128 * 128) 128 = true → ∃ t : State, exec (.atomicUnitOperation id) s = .next t ∧ (∀ k, t.slice k = s.slice k) ∧
      t.dram = s.dram ∧ ∀ b ∈ t.flights, b.id = id → b.stage = .poisoned))

/-- Sector fills, write-back acknowledgements, patrol scrub and the keep sweep (R191, R192, R193, R203, R204, R208,
R222). -/
def Obligations.FillsWriteBacksScrubsAndKeep : Prop :=
  (∀ (s : State) (ch line sector : Nat) (odd many : Bool) (l : Line) (m : Miss), s.channelOf line = ch → sector < 4 →
    many = false → s.fab.early = [] →
    (s.slice ch).miss.find? (fun m => m.tag == line && m.sectors.getLsbD sector) = some m → m.waiters = [] →
    (s.slice ch).inq = [] → s.cached line = some l → l.data.length = 128 → l.valid.getLsbD sector = false →
    (s.slice ch).dead.elem line = false →
    s.poison.elem (line * 4 + sector) = false → ∃ (t : State) (l' : Line), exec (.sectorFillCompletion ch line sector odd many) s = .next t ∧
      t.cached line = some l' ∧ l'.valid.getLsbD sector = true ∧ l'.dirty = l.dirty ∧
      (∀ x, t.homeByte x = s.homeByte x) ∧ t.dram = s.dram ∧ t.poison = s.poison ∧ t.flights = s.flights) ∧
  (∀ (s : State) (ch line sector id : Nat) (odd many : Bool) (a : Access) (m : Miss), s.channelOf line = ch → sector < 4 →
    many = false → s.fab.early = [] →
    (s.slice ch).miss = [m] → m.tag = line → m.sectors = BitVec.ofNat 4 (2 ^ sector) → m.waiters = [id] →
    (s.slice ch).inq = [] → s.access id = some a → a.stage = .waiting → a.op = .load → a.hint = 0 →
    a.place = .dram (line * 128 + 32 * sector) → 0 < a.len → a.len ≤ 32 →
    s.poison.elem (line * 4 + sector) = false →
    ∃ t : State, exec (.sectorFillCompletion ch line sector odd many) s = .next t ∧ (t.slice ch).miss = [] ∧ t.dram = s.dram ∧
      ∀ b ∈ t.flights, b.id = id → ∃ d, b.stage = .served d [] ∧ d.length = a.len) ∧
  (∀ (s : State) (ch line sector id : Nat) (odd many : Bool) (a : Access) (m : Miss), s.channelOf line = ch → sector < 4 →
    many = true → s.fab.early = [] →
    (s.slice ch).miss = [m] → m.tag = line → m.sectors = BitVec.ofNat 4 (2 ^ sector) → m.waiters = [id] →
    (s.slice ch).inq = [] → s.access id = some a → a.stage = .waiting → a.op = .load →
    a.place = .dram (line * 128 + 32 * sector) → 0 < a.len → a.len ≤ 32 →
    ∃ t : State, exec (.sectorFillCompletion ch line sector odd many) s = .next t ∧ (line * 4 + sector) ∈ t.poison ∧
      t.dram = s.dram ∧ ∀ b ∈ t.flights, b.id = id → b.stage = .poisoned) ∧
  (∀ (s : State) (ch line sector : Nat) (odd many : Bool),
    (s.slice ch).miss.find? (fun m => m.tag == line && m.sectors.getLsbD sector) = none →
    exec (.sectorFillCompletion ch line sector odd many) s = .next s) ∧
  (∀ (s : State) (ch line : Nat) (l : Line), (s.slice ch).wb.find? (fun l => l.tag == line) = some l →
    ∃ t : State, exec (.writeBackAcknowledgement ch line) s = .next t ∧ (t.slice ch).wb = (s.slice ch).wb.erase l ∧
      (∀ i, i < 128 → t.dram.read (line * 128 + i) =
        if l.dirty.getLsbD i then l.data.getD i 0 else s.dram.read (line * 128 + i)) ∧
      (∀ x, x < line * 128 ∨ line * 128 + 128 ≤ x → t.dram.read x = s.dram.read x) ∧
      (∀ p, p ∈ t.poison ↔ p ∈ s.poison ∧ ¬(p / 4 = line ∧ (fullSectors l.dirty.toNat).testBit (p % 4) = true)) ∧
      (t.slice ch).sets = (s.slice ch).sets ∧ t.flights = s.flights ∧ ∀ k, k ≠ ch → t.slice k = s.slice k) ∧
  (∀ (s : State) (ch line : Nat), (s.slice ch).wb.find? (fun l => l.tag == line) = none →
    exec (.writeBackAcknowledgement ch line) s = .next s) ∧
  (∀ (s : State) (line sector : Nat) (odd many : Bool), s.mod.memTrained = true → sector < 4 →
    (many = true → ∃ t : State, exec (.patrolScrub (s.channelOf line) line sector odd many) s = .next t ∧
      (line * 4 + sector) ∈ t.poison ∧ t.dram = s.dram ∧ t.slices = s.slices) ∧
    (many = false → ∃ t : State, exec (.patrolScrub (s.channelOf line) line sector odd many) s = .next t ∧ t.poison = s.poison ∧
      t = (if odd = true then { s with memCounters := t.memCounters, hal := t.hal } else s) ∧
      (odd = true → (tabGet s.memCounters MemCounters.zero (s.stackOf line)).ceSectors < 2 ^ 48 - 1 →
        (tabGet t.memCounters MemCounters.zero (s.stackOf line)).ceSectors = (tabGet s.memCounters MemCounters.zero (s.stackOf line)).ceSectors + 1))) ∧
  (∀ (s : State) (ch line sector : Nat) (odd many : Bool), s.mod.memTrained = false →
    exec (.patrolScrub ch line sector odd many) s = .next s) ∧
  (∀ s : State, exec .keepClear s = .next (if s.mod.memTrained ∧ s.keepSweep = none then
    { s with keepSweep := some ⟨s.tick.toNat, s.wet.toNat, []⟩ } else s)) ∧
  (∀ (s : State) (w : KeepSweep), s.keepSweep = some w → ∃ t : State, exec .keepSweepEnd s = .next t ∧ t.keepSweep = none ∧
    (∀ e ∈ t.slices, ∀ f ∈ e.2.sets, e.1 * 512 + f.1 ∉ w.done → ∀ l ∈ f.2, l.keep = false) ∧
    (∀ e ∈ t.cistern, 2 ^ 20 + e.1 ∉ w.done → ∀ l ∈ e.2, l.keep = false) ∧
    (∀ e ∈ s.cistern, 2 ^ 20 + e.1 ∈ w.done → e ∈ t.cistern) ∧ t.dram = s.dram ∧ t.cisLines.map (fun l => (l.tag, l.dev, l.data, l.valid, l.dirty)) =
      s.cisLines.map (fun l => (l.tag, l.dev, l.data, l.valid, l.dirty))) ∧
  (∀ s : State, s.keepSweep = none → exec .keepSweepEnd s = .next s)

/-- Remote loads, stores and atomics in the cistern: hits, misses, fills, evictions (R212, R213, R214, R228, R231,
R236). -/
def Obligations.TheCisternHoldsRemoteLines : Prop :=
  (∀ (s v : State) (id dev off route sl : Nat) (a : Access), s.access id = some a → a.stage = .moving →
    s.arrive id = some v → s.cisInq = [] → a.place = .remote dev off route sl → a.op = .load → off % 128 + a.len ≤ 128 → a.hint ≠ 3 →
    (∀ l, s.cisLine dev (off / 128) = some l →
      sectorsOf (off % 128) a.len &&& l.valid.toNat = sectorsOf (off % 128) a.len →
      ∃ t : State, exec (.cisternLoad id) s = .next t ∧ t.fab.out = s.fab.out ∧ t.dram = s.dram ∧
        ∀ b ∈ t.flights, b.id = id → b.stage = .served (sliceAt l.data (off % 128) a.len) []) ∧
    (s.cisLine dev (off / 128) = none → s.cisMiss = [] → 0 < a.len → a.id = id →
      (tabGet s.cistern [] (cisKey dev (off / 128))).length < 16 →
      ∃ (t : State) (r : OutReq), exec (.cisternLoad id) s = .next t ∧ t.fab.out = s.fab.out ++ [r] ∧ r.dev = dev ∧ r.route = route ∧
        (∃ o n, r.op = .load o n ∧ o / 128 = off / 128 ∧ o ≤ off ∧ off + a.len ≤ o + n) ∧ r.seq = s.nextSeq dev route ∧
        (∃ m, t.cisMissOf dev (off / 128) = some m ∧ m.waiters = [id] ∧
          m.sectors = BitVec.ofNat 4 (sectorsOf (off % 128) a.len)) ∧ t.dram = s.dram ∧
        ∀ b ∈ t.flights, b.id = id → b.stage = .waiting)) ∧
  (∀ (s v : State) (id dev off route sl : Nat) (a : Access) (d : List (Option Byte)), s.access id = some a →
    a.stage = .moving → s.arrive id = some v → s.cisInq = [] → a.place = .remote dev off route sl → a.op = .store d →
    (65536 ≤ dev → ∃ (t : State) (r : OutReq), exec (.cisternStore id) s = .next t ∧ r ∈ t.fab.out ∧ r.access = some id ∧
      r.op = .multicast (dev - 65536) off d ∧ t.dram = s.dram ∧ ∀ b ∈ t.flights, b.id = id → b.stage = .forwarded) ∧
    (dev < 65536 → off % 128 + d.length ≤ 128 →
    (∀ l, s.cisLine dev (off / 128) = some l → l.data.length = 128) →
    ((s.cisLine dev (off / 128)).isSome = true ∨ (tabGet s.cistern [] (cisKey dev (off / 128))).length < 16) →
    ∃ (t : State) (l : Line), exec (.cisternStore id) s = .next t ∧ t.cisLine dev (off / 128) = some l ∧ t.fab = s.fab ∧ t.dram = s.dram ∧
      (∀ i, i < d.length → ∀ v, d.getD i none = some v →
        l.data.getD (off % 128 + i) 0 = v ∧ l.dirty.getLsbD (off % 128 + i) = true) ∧
      (∀ l0, s.cisLine dev (off / 128) = some l0 →
        (∀ j, j < 128 → l0.dirty.getLsbD j = true → l.dirty.getLsbD j = true) ∧
        (∀ j, j < off % 128 ∨ off % 128 + d.length ≤ j →
          l.data.getD j 0 = l0.data.getD j 0 ∧ l.dirty.getLsbD j = l0.dirty.getLsbD j) ∧
        l.route = (if l0.dirty = 0 then route else l0.route)) ∧
      (s.cisLine dev (off / 128) = none → l.route = route) ∧ (∀ b ∈ t.flights, b.id = id → b.stage = .acked))) ∧
  (∀ (s : State) (dev line : Nat) (m : Miss) (l : Line) (data : List (Option (List Byte))),
    s.cisMiss.find? (fun m => m.isFab dev line && m.sectors.toNat == gotSectors data) = some m →
    s.cisLine dev line = some l → m.waiters = [] → m.discard = false → m.newer = [] → s.cisInq = [] →
    s.cisDead.elem (dev, line) = false →
    l.data.length = 128 → ∃ (t : State) (l' : Line), exec (.cisternFillCompletion dev line data) s = .next t ∧
      t.cisLine dev line = some l' ∧ l'.dirty = l.dirty ∧
      (∀ i, i < 128 → l.dirty.getLsbD i = true → l'.data.getD i 0 = l.data.getD i 0) ∧
      (∀ k b, k < 4 → data.getD k none = some b → l'.valid.getLsbD k = true ∧
        ∀ i, i < 32 → l.dirty.getLsbD (32 * k + i) = false → l'.data.getD (32 * k + i) 0 = b.getD i 0) ∧
      t.flights = s.flights ∧ t.dram = s.dram ∧ t.fab = s.fab) ∧
  (∀ (s : State) (dev line : Nat) (data : List (Option (List Byte))),
    s.cisMiss.find? (fun m => m.isFab dev line && m.sectors.toNat == gotSectors data) = none →
    exec (.cisternFillCompletion dev line data) s = .next s) ∧
  (∀ (s : State) (sl set : Nat) (v : Line), sl < 4 → set < 8192 →
    s.cisInq = [] → s.keepSweep = none →
    victim (fun l => (s.cisMissOf l.dev l.tag).isSome || s.revokedDevs.elem l.dev)
      (demoteKeep s.keepCap (tabGet s.cistern [] (sl * 8192 + set))) = some v →
    ∃ t : State, exec (.cisternEviction sl set) s = .next t ∧
      (∀ l ∈ tabGet t.cistern [] (sl * 8192 + set), l.tag ≠ v.tag ∨ l.dev ≠ v.dev) ∧
      (∀ k, k ≠ sl * 8192 + set → tabGet t.cistern [] k = tabGet s.cistern [] k) ∧ t.dram = s.dram ∧
      (v.dirty = 0 → t.fab = s.fab) ∧ (v.dirty ≠ 0 → v.dev < 65536 → ∃ r, t.fab.out = s.fab.out ++ [r] ∧ r.dev = v.dev ∧
        r.route = v.route ∧ r.op = .store (v.tag * 128) v.dirtyBytes)) ∧
  (∀ (s v : State) (id dev off route sl : Nat) (a : Access) (op : AtomOp) (ty : AtomTy)
      (lanes : List (Nat × Word64 × Word64)), s.access id = some a → a.stage = .moving → s.arrive id = some v →
    a.place = .remote dev off route sl → a.op = .atomic op ty lanes → dev < 65536 →
    ∃ (t : State) (r : OutReq), exec (.remoteAtomicForward id) s = .next t ∧ r.dev = dev ∧ r.route = route ∧ r.op = .atomic off op ty lanes ∧
      r.access = some id ∧ (∀ b ∈ t.flights, b.id = id → b.stage = .forwarded) ∧ t.cisLine dev (off / 128) = none ∧
      ((∀ l, s.cisLine dev (off / 128) = some l → l.dirty = 0) → t.fab.out = s.fab.out ++ [r] ∧
        r.seq = s.nextSeq dev route) ∧
      (∀ l, s.cisLine dev (off / 128) = some l → l.dirty ≠ 0 → ∃ q, t.fab.out = s.fab.out ++ [q, r] ∧ q.route = route ∧
        q.dev = dev ∧ q.op = .store (l.tag * 128) l.dirtyBytes ∧ q.seq = s.nextSeq dev route ∧
        r.seq = s.nextSeq dev route + 1) ∧ t.dram = s.dram) ∧
  (∀ (s : State) (id : Nat), s.access id = none ∨ s.arrive id = none → exec (.cisternLoad id) s = .next s ∧
    exec (.cisternStore id) s = .next s ∧ exec (.remoteAtomicForward id) s = .next s)

/-- What a target does with fabric requests: checks, order, exactly once, and the answers (R211, R245, R250, R251,
R255, R256, R258, R260, R330). -/
def Obligations.FabricRequestsAreAppliedInTurn : Prop :=
  (∀ (s : State) (i : Instr) (h : FabHead) (op : FabOp), fabricRequest i = some (h, op) → s.serves h →
    (h.seq = tabGet s.fab.inSeq 0 (seqOf h op) → s.fab.early = [] → s.fabReady op = true →
      exec i s = .next (((s.applyFab h op).1.modFab (fun f => { f with
        inSeq := tabSet f.inSeq 0 (seqOf h op) (tabGet f.inSeq 0 (seqOf h op) + 1) })).emit
          (.answer h.src h.route h.seq (s.applyFab h op).2))) ∧
    (h.seq = tabGet s.fab.inSeq 0 (seqOf h op) → s.fab.early = [] → s.fabReady op = false →
      ∃ t : State, exec i s = .next t ∧ t.fab.early = [⟨h, op⟩] ∧ t.fab.inSeq = s.fab.inSeq ∧ t.sent = s.sent ∧
        t.flights = s.flights ∧ t.ctxs = s.ctxs) ∧
    (h.seq < tabGet s.fab.inSeq 0 (seqOf h op) → exec i s = .next s) ∧
    (tabGet s.fab.inSeq 0 (seqOf h op) < h.seq →
      (∀ e ∈ s.fab.early, seqOf e.head e.op ≠ seqOf h op ∨ e.head.seq ≠ h.seq) →
      exec i s = .next (if 8192 ≤ s.fab.early.length then s.emit (.answer h.src h.route h.seq .refusedEarly)
        else { s with fab := { s.fab with early := s.fab.early ++ [⟨h, op⟩] } }))) ∧
  (∀ (s : State) (h h' : FabHead) (o o' : Nat) (d d' : List (Option Byte)), s.serves h →
    h.seq = tabGet s.fab.inSeq 0 (seqKey h.src h.route) → s.fab.early = [⟨h', .store o' d'⟩] → h'.src = h.src →
    h'.route = h.route → h'.seq = h.seq + 1 → ∃ t : State, exec (.fabricStore h o d) s = .next t ∧ t.fab.early = [] ∧
      tabGet t.fab.inSeq 0 (seqKey h.src h.route) = h.seq + 2) ∧
  (∀ (s : State) (i : Instr) (h : FabHead) (op : FabOp), fabricRequest i = some (h, op) →
    (s.mod.memTrained = true → s.fab.revoked.elem h.part = false →
      s.fab.valid = false ∨ s.fab.partValid = false ∨ s.fab.partition ≠ h.part →
      exec i s = .next (s.emit (.answer h.src h.route h.seq (.reject .access)))) ∧
    (s.mod.memTrained = true → s.fab.revoked.elem h.part = true → s.fab.partValid = false ∨ s.fab.partition ≠ h.part →
      (∀ c k a b v n, op ≠ .fence c k a b v n) → exec i s = .next s) ∧
    (s.mod.memTrained = false → exec i s = .next s)) ∧
  (∀ (s : State) (h : FabHead) (off n : Nat),
    (s.aperture off n 0 = none → s.applyFab h (.load off n) = (s, .reject .access)) ∧
    (∀ o, s.aperture off n 0 = some o → 0 < n → o.2 % 128 + n ≤ 128 →
      (s.poisoned o.2 n = false → (s.applyFab h (.load off n)).2 = .data (s.homeBytes o.2 n)) ∧
      (s.poisoned o.2 n = true → (s.applyFab h (.load off n)).2 = .poison))) ∧
  (∀ (s : State) (h : FabHead) (off g : Nat) (d : List (Option Byte)),
    (s.aperture off d.length 1 = none → s.applyFab h (.store off d) = (s, .reject .access) ∧
      s.applyFab h (.multicast g off d) = (s, .reject .access)) ∧
    ((tabGet s.fab.groups [] g).elem s.fab.deviceId = false → s.applyFab h (.multicast g off d) = (s, .reject .access)) ∧
    (∀ o, s.aperture off d.length 1 = some o → s.repair.failed.elem (s.channelOf (o.2 / 128)) = true →
      s.applyFab h (.store off d) = (s.fabPoison o.2, .poison)) ∧
    (∀ o, s.aperture off d.length 1 = some o → s.repair.failed.elem (s.channelOf (o.2 / 128)) = false →
      s.applyFab h (.store off d) = (s.storeRange o.2 0 d, .ack) ∧
      ((tabGet s.fab.groups [] g).elem s.fab.deviceId = true →
        s.applyFab h (.multicast g off d) = (s.storeRange o.2 0 d, .ack)))) ∧
  (∀ (s : State) (dpa : Nat) (d : List (Option Byte)), 0 < d.length → dpa % 128 + d.length ≤ 128 →
    (∀ l, s.cached (dpa / 128) = some l → l.data.length = 128) →
    ∀ i v, i < d.length → d.getD i none = some v → (s.storeRange dpa 0 d).homeByte (dpa + i) = v) ∧
  (∀ (s : State) (h : FabHead) (off : Nat) (op : AtomOp) (ty : AtomTy) (a b : Word64),
    (s.aperture off (atomBytes ty) 2 = none → s.applyFab h (.atomic off op ty [(0, a, b)]) = (s, .reject .access)) ∧
    (∀ o, s.aperture off (atomBytes ty) 2 = some o → s.poisoned (o.2 / 128 * 128) 128 = true →
      s.applyFab h (.atomic off op ty [(0, a, b)]) = (s.fabPoison o.2, .poison)) ∧
    (∀ o, s.aperture off (atomBytes ty) 2 = some o → s.poisoned (o.2 / 128 * 128) 128 = false →
      s.applyFab h (.atomic off op ty [(0, a, b)]) = (s.storeBytes o.2 (leBytes (atomBytes ty) (atomicNew op ty
          (BitVec.ofNat 64 (leNat (s.homeBytes o.2 (atomBytes ty)))) a b).toNat),
        .old [BitVec.ofNat 64 (leNat (s.homeBytes o.2 (atomBytes ty)))]))) ∧
  (∀ (s : State) (h : FabHead) (c k n : Nat) (add arrive : Bool) (v : Word64), s.shareCheck k h.src c false = none →
    (s.applyFab h (.fence c k add arrive v n)).2 = .denied 4 ∧
    (s.applyFab h (.fence c k add arrive v n)).1.sync.objs = s.sync.objs)

/-- Reduction lines and closes: which are rejected, and how contributions combine (R261, R262, R263, R264, R265). -/
def Obligations.ReductionsBindCloseAndCombine : Prop :=
  (∀ (s : State) (src off i line : Nat) (d : List Byte) (n : Word32), s.redHead off = none →
    s.redLine src off i line d = (s, .reject .access) ∧ s.redClose src off i n = (s, .reject .access)) ∧
  (∀ (s : State) (src off i line : Nat) (d : List Byte) (n : Word32) (h : RedHead), s.redHead off = some h → s.poisoned h.dpa 4096 = false →
    (h.expected i = false ∨ h.arrived i = true ∨ h.done = true ∨ (h.bound i = true ∧ h.binding i ≠ src) →
      s.redLine src off i line d = (s, .reject .reduction) ∧ s.redClose src off i n = (s, .reject .reduction)) ∧
    (h.lines ≤ line → s.redLine src off i line d = (s, .reject .reduction)) ∧
    (h.allows i src = true → line < h.lines → h.mode = 0 → ∀ o, s.aperture (off + h.stagingRel i line) 128 2 = some o →
      s.redLine src off i line d = ((s.bindRed h i src).storeBytes o.2 (sliceAt d 0 128), .ack)) ∧
    (h.allows i src = true → line < h.lines → h.mode = 1 → ∀ o, s.aperture (off + h.resultRel line) 128 2 = some o →
      s.redLine src off i line d = if s.poisoned o.2 128 then (s.fabPoison o.2, .poison) else
        ((s.bindRed h i src).storeBytes o.2 (combineLines h.ty h.op [s.homeBytes o.2 128, sliceAt d 0 128]), .ack)) ∧
    (h.allows i src = true → (s.redClose src off i n).2 = .ack)) ∧
  (∀ (s : State) (src off i line : Nat) (d : List Byte) (n : Word32) (h : RedHead), s.redHead off = some h →
    s.poisoned h.dpa 4096 = true → s.redLine src off i line d = (s.fabPoison h.dpa, .poison) ∧
      s.redClose src off i n = (s.fabPoison h.dpa, .poison)) ∧
  (∀ (ty op : Nat) (l : List Byte), combineLines ty op [l] = l) ∧
  (∀ (a b : List Byte) (e : Nat), e < 32 → sliceAt (combineLines 2 0 [a, b]) (4 * e) 4 =
    leBytes 4 (BitVec.ofNat 32 (leNat (sliceAt a (4 * e) 4)) + BitVec.ofNat 32 (leNat (sliceAt b (4 * e) 4))).toNat) ∧
  (∀ (a b c : List Byte) (e : Nat), e < 32 → sliceAt (combineLines 0 0 [a, b, c]) (4 * e) 4 =
    leBytes 4 (f32Add (f32Add (BitVec.ofNat 32 (leNat (sliceAt a (4 * e) 4))) (BitVec.ofNat 32 (leNat (sliceAt b (4 * e) 4))))
      (BitVec.ofNat 32 (leNat (sliceAt c (4 * e) 4)))).toNat) ∧
  f32Add (f32Add (f32Add 0x4B800000 0x3F800000) 0x3F800000) 0xCB800000 = 0 ∧
  f32Add (f32Add (f32Add 0x3F800000 0x3F800000) 0x4B800000) 0xCB800000 = 0x40000000 ∧
  (∀ (s : State) (off : Nat), (s.redHead off = none ∨ ∃ h, s.redHead off = some h ∧
    (h.done = true ∨ h.mode ≠ 0 ∨ ∃ i, h.expected i = true ∧ h.arrived i = false)) →
    exec (.orderedReductionCombine off) s = .next s) ∧
  (∀ (s : State) (off : Nat) (h : RedHead), s.redHead off = some h → h.ok = true → h.mode = 0 → h.done = false →
    h.complete = true → h.contributors ≠ [] → numCtxs ≤ h.owner →
    (s.redClean h = false → exec (.orderedReductionCombine off) s = .next (s.fabPoison h.dpa)) ∧
    (s.redClean h = true → ∃ t : State, exec (.orderedReductionCombine off) s = .next t ∧ t.ctxs = s.ctxs ∧ t.tiles = s.tiles ∧ t.sync = s.sync ∧
      ((∀ x l, s.cached x = some l → l.data.length = 128) → t.homeByte (h.dpa + 2311) = 1)))

/-- Acknowledgements are cumulative, rejections raise FABRIC_ACCESS, unanswered requests are sent again (R251, R256,
R258, R272). -/
def Obligations.AnswersEndTheirRequests : Prop :=
  (∀ (s : State) (r : OutReq) (body : AckBody), s.fab.out = [r] → r.left = true → s.walks = [] → r.sync = none → s.cisInq = [] →
    ∃ t : State, exec (.fabricAcknowledgement r.dev r.route r.seq body) s = .next t ∧ t.fab.out = [] ∧ t.dram = s.dram ∧
      t.ctxs = s.ctxs ∧ t.tiles = s.tiles ∧
      (∀ id a d, r.access = some id → s.access id = some a → a.op = .load → body = .data d →
        ∀ b ∈ t.flights, b.id = id → b.stage = .served d []) ∧
      (∀ id a d, r.access = some id → s.access id = some a → a.op = .store d → body = .plain →
        ∀ b ∈ t.flights, b.id = id → b.stage = .acked)) ∧
  (∀ (s : State) (a b : OutReq), s.fab.out = [a, b] → a.left = true → b.left = true → a.dev = b.dev → a.route = b.route →
    a.seq < b.seq → a.sync = none → b.sync = none → a.access = none → b.access = none → s.walks = [] →
    (a.op.needsAnswer = false →
      ∃ t : State, exec (.fabricAcknowledgement b.dev b.route b.seq .plain) s = .next t ∧ t.fab.out = []) ∧
    (a.op.needsAnswer = true →
      ∃ t : State, exec (.fabricAcknowledgement b.dev b.route b.seq .plain) s = .next t ∧ t.fab.out = [a]) ∧
    (∃ t : State, exec (.fabricAcknowledgement a.dev a.route a.seq .plain) s = .next t ∧ t.fab.out = [b])) ∧
  (∀ (s : State) (r : OutReq) (why : RejKind) (id tile uid : Nat) (a : Access), s.fab.out = [r] → r.left = true →
    s.walks = [] → r.sync = none → r.access = some id → s.access id = some a → a.id = id → a.who = .group tile uid →
    ∃ t : State, exec (.fabricRejection r.dev r.route r.seq why) s = .next t ∧ t.fab.out = [] ∧ t.ctxs = s.ctxs ∧
      ∀ b ∈ t.flights, b.id = id → b.stage = .rejected) ∧
  (∀ (s : State) (r : OutReq), s.fab.out = [r] → r.left = true → s.walks = [] → r.sync = none → r.access = none →
    (∀ o n, r.op ≠ .load o n) → r.ctx < 4096 → (s.ctx r.ctx).st = .resident → (s.ctx r.ctx).fault = none →
    ∃ (t : State) (f : FaultRec), exec (.fabricRejection r.dev r.route r.seq .access) s = .next t ∧ t.fab.out = [] ∧
      (t.ctx r.ctx).fault = some f ∧ f.code = .fabricAccess ∧ f.device = r.dev ∧
      f.address = BitVec.ofNat 64 r.op.offset ∧ (t.ctx r.ctx).st = .stopped) ∧
  (∀ (s : State) (r : OutReq) (m : Miss) (o n : Nat) (why : RejKind), s.fab.out = [r] → r.left = true → s.walks = [] →
    r.sync = none → r.access = none → r.op = .load o n → s.cisMiss = [m] → m.isFab r.dev (o / 128) = true →
    m.sectors.toNat = sectorsOf (o % 128) n → s.cisInq = [] →
    ∃ t : State, exec (.fabricRejection r.dev r.route r.seq why) s = .next t ∧ t.fab.out = [] ∧ t.cisMiss = [] ∧
      t.ctxs = s.ctxs ∧ ∀ b ∈ t.flights, b.id ∈ m.waiters → b.stage = .rejected) ∧
  (∀ (s : State) (d rt q : Nat) (why : RejKind),
    (∀ r ∈ s.fab.out, r.left = false ∨ r.route ≠ rt ∨ r.seq ≠ q ∨ (r.dev ≠ d ∧ r.dev < 65536)) →
    exec (.fabricRejection d rt q why) s = .next s ∧ exec (.requestResend d rt q) s = .next s) ∧
  (∀ (s : State) (r : OutReq), s.fab.out = [r] → r.left = true → s.routeUp r.route = true →
    ∃ (t : State) (p n : Nat), exec (.requestResend r.dev r.route r.seq) s = .next t ∧
      t.fab.out = [{ r with port := p, plane := n }] ∧ t.flights = s.flights ∧
      (t.port p).resends = satAdd 48 (s.port p).resends 1 ∧ t.dram = s.dram ∧ t.ctxs = s.ctxs ∧
      t.sent.length = s.sent.length + 1) ∧
  (∀ (s : State) (d rt q : Nat), s.routeUp rt = false → exec (.requestResend d rt q) s = .next s)

/-- Queue descriptors start one at a time, checked first, and each does what its type says (R315, R316, R318, R321,
R342, R348, R349, R350, R352, R354, R356). -/
def Obligations.DescriptorsStartCheckedInQueueOrder : Prop :=
  (∀ (s : State) (c q : Nat) (d : BitVec 512) (e : Instr × Nat × Option Nat × List (Nat × Nat)), e ∈ descriptors c q d →
    s.hal.reloading = false →
    (s.mayStart c q = false → exec e.1 s = .next s) ∧
    (∀ b, s.mayStart c q = true → s.descCheck c q d e.2.1 e.2.2.1 e.2.2.2 = some b →
      exec e.1 s = .next (s.descFault c q d .descInvalid b 0))) ∧
  (∀ (s : State) (c q : Nat) (d : BitVec 512) (type : Nat) (kind : Option Nat) (zs : List (Nat × Nat)),
    (bvFld d 0 8 ≠ type → s.descCheck c q d type kind zs = some 0x1000) ∧
    (∀ k, kind = some k → (s.queue c q).kind ≠ k → s.descCheck c q d type kind zs = some 0x1000) ∧
    (s.descCheck c q d type kind zs = none → ∀ z ∈ zs, bvFld d z.1 z.2 = 0) ∧
    (s.descCheck c q d type kind zs = none → dCr d = true → dCrAddr d % 32 = 0)) ∧
  (∀ (s : State) (c q : Nat) (d : BitVec 512) (code : Code) (detail addr : Nat), (s.ctx c).st = .resident →
    (s.ctx c).fault = none → (s.queue c q).st = .running →
    ∃ f, ((s.descFault c q d code detail addr).ctx c).fault = some f ∧ f.code = code ∧ f.detail = detail ∧ f.queue = q ∧
      f.where' = (s.queue c q).c.setWidth 64 ∧ f.address = BitVec.ofNat 64 addr ∧
      ((s.descFault c q d code detail addr).ctx c).st = .stopped ∧
      ((s.descFault c q d code detail addr).queue c q).st = .stopped ∧
      ((s.descFault c q d code detail addr).queue c q).c = (s.queue c q).c ∧
      ((s.descFault c q d code detail addr).queue c q).work = some (.done code.value detail 0) ∧
      (∀ q', q' ≠ q → (s.descFault c q d code detail addr).queue c q' = s.queue c q') ∧
      (s.descFault c q d code detail addr).dram = s.dram ∧ (s.descFault c q d code detail addr).tiles = s.tiles) ∧
  (∀ (s : State) (c q : Nat) (d : BitVec 512),
    (s.accepts c q d 0x00 none [(192, 320)] → exec (.descNop c q d) s = .next (s.setWork c q d (.done 0 0 0))) ∧
    (s.accepts c q d 0x13 none [(256, 256)] → exec (.descSetStep c q d) s =
      .next (((s.modCtx c (fun x => { x with step := BitVec.ofNat 64 (bvFld d 192 64) })).stepBoundary).setWork c q d
        (.done 0 0 0)))) ∧
  (∀ (s : State) (c q : Nat) (d : BitVec 512), s.accepts c q d 0x10 none [(288, 224)] →
    (∀ r, s.waitRef c (bvFld d 256 32) = .error r → exec (.descWait c q d) s =
      .next ((s.countWaitDenied c (bvFld d 256 32) r).descFault c q d .syncDenied r (bvFld d 256 32))) ∧
    (∀ i h, s.waitRef c (bvFld d 256 32) = .ok (i, h) → ∃ (t : State) (w : Wait), exec (.descWait c q d) s = .next t ∧
      t.sync.waits = s.sync.waits ++ [w] ∧ w.who = .queue c q ∧ w.index = i ∧ w.handle = h ∧
      w.target = BitVec.ofNat 64 (bvFld d 192 64) ∧ w.state = .moving ∧ (t.queue c q).work = some (.wait w.id) ∧
      t.tiles = s.tiles ∧ t.dram = s.dram)) ∧
  (∀ (s : State) (c q : Nat) (d : BitVec 512),
    (s.accepts c q d 0x11 none [(192, 320)] →
      (dSig d = false → exec (.descSignal c q d) s = .next (s.descFault c q d .descInvalid 0x100A 0)) ∧
      (dSig d = true → exec (.descSignal c q d) s =
        .next (((s.setWork c q d (.done 0 0 0)).writeRecord c q d 0 0 0).descSend c q
          (if dSigAdd d then .add else .set) (dVid d)
          (if dSigAdd d then BitVec.ofNat 64 (bvFld d 64 32) else BitVec.ofNat 64 (bvFld d 64 64)) 0))) ∧
    (s.accepts c q d 0x12 none [(304, 208)] →
      (bvFld d 288 16 = 0 → exec (.descArrive c q d) s = .next (s.descFault c q d .descInvalid 0x1120 0)) ∧
      (bvFld d 288 16 ≠ 0 → exec (.descArrive c q d) s =
        .next (((s.setWork c q d (.done 0 0 0)).descSend c q .arrive (bvFld d 256 32)
          (BitVec.ofNat 64 (bvFld d 192 64)) (bvFld d 288 16)).modQueue c q (fun x => { x with stage := 0 }))))) ∧
  (∀ (s : State) (c q vid n : Nat) (k : SyncKind) (v : Word64),
    (∀ o, s.sigPath (newOp s.nextId k (.queue c q) c vid v n (s.placeDesc c q) 0) = .go o →
      ((s.descSend c q k vid v n).queue c q).work = some (.signal o.id)) ∧
    (∀ r, s.sigPath (newOp s.nextId k (.queue c q) c vid v n (s.placeDesc c q) 0) = .denied r →
      (s.ctx c).syncDenyFault = false → (s.queue c q).st = .running →
      ((s.descSend c q k vid v n).queue c q).work = some (.done 0 0 0) ∧
      ((s.descSend c q k vid v n).ctx c).denied = satAdd 32 (s.ctx c).denied 1 ∧
      ∃ f, ((s.descSend c q k vid v n).ctx c).lastRecorded = some f ∧ f.code = .syncDenied ∧ f.detail = r)) ∧
  (∀ (s : State) (c q : Nat) (d : BitVec 512), s.accepts c q d 0x01 (some 0) [(371, 13), (448, 32)] →
    (2 ^ 32 < (copyOf d).total → exec (.descCopy c q d) s = .next (s.descFault c q d .descInvalid 0x1140 0)) ∧
    ((copyOf d).total ≤ 2 ^ 32 → bvFld d 368 2 = 3 →
      exec (.descCopy c q d) s = .next (s.descFault c q d .descInvalid 0x1170 0)) ∧
    ((copyOf d).total ≤ 2 ^ 32 → bvFld d 368 2 ≠ 3 →
      (s.copyBounds c (copyOf d) = false → exec (.descCopy c q d) s = .next (s.descFault c q d .descBounds 0 0)) ∧
      (s.copyBounds c (copyOf d) = true → s.copyFabricOk c (copyOf d) = false →
        exec (.descCopy c q d) s = .next (s.descFault c q d .fabricAccess 0 (copyOf d).dst)) ∧
      (s.copyBounds c (copyOf d) = true → s.copyFabricOk c (copyOf d) = true → exec (.descCopy c q d) s =
        .next (s.setWork c q d (.copy 0 none (s.ctx c).step (s.ctx c).jobSeed))))) ∧
  (∀ (s s1 s2 : State) (c q : Nat) (d : BitVec 512) (r pl : List Byte), s.accepts c q d 0x02 (some 1) [(320, 192)] →
    s.readStruct c (bvFld d 192 64) 256 = (.ok r, s1) →
    (s1.paramsMatch r 48 = false → exec (.descCompute c q d) s = .next (s1.descFault c q d .paramMismatch 0 0)) ∧
    (∀ b, s1.paramsMatch r 48 = true → launchBad r = some b →
      exec (.descCompute c q d) s = .next (s1.descFault c q d .launchRefused b 0)) ∧
    (s1.paramsMatch r 48 = true → launchBad r = none → s1.readStruct c (u64At r 24) (2 * u32At r 8) = (.ok pl, s2) →
      (∀ b, placeBad (u8At r 20) (u8At r 21) ((List.range (u32At r 8)).map (fun i => u16At pl (2 * i))) = some b →
        exec (.descCompute c q d) s = .next (s2.descFault c q d .launchRefused b 0)) ∧
      (placeBad (u8At r 20) (u8At r 21) ((List.range (u32At r 8)).map (fun i => u16At pl (2 * i))) = none →
        ∃ (t : State) (k : Kernel), exec (.descCompute c q d) s = .next t ∧ t.kernels = s2.kernels ++ [k] ∧ k.ctx = c ∧ k.queue = q ∧
          k.entry = BitVec.ofNat 64 (u64At r 0) ∧ k.args = BitVec.ofNat 64 (bvFld d 256 64) ∧ k.blocks = u32At r 8 ∧
          k.threads = u16At r 12 ∧ k.scratch = u32At r 16 ∧ k.cw = u8At r 20 ∧ k.ch = u8At r 21 ∧ k.flush = dRflush d ∧
          k.step = (s2.ctx c).step ∧ k.seed = (s2.ctx c).jobSeed ∧ (t.queue c q).work = some (.compute k.id) ∧
          t.dram = s2.dram ∧ ∀ i, i < u32At r 8 → (k.id, i) ∈ (t.tile (u16At pl (2 * i))).waiting)))

/-- Copy segments, completion, doorbells and residency (R273, R339, R341, R342, R348, R349, R353, R354, R356, R238). -/
def Obligations.QueuesCompleteInOrderAndShareTheSlots : Prop :=
  (∀ (s : State), s.copyQueues = [] → exec .copySegment s = .next s) ∧
  (∀ (l x : Nat) (qs : List Nat), nextOf l qs = some x → x ∈ qs ∧
    ((∃ y ∈ qs, l < y) → l < x ∧ ∀ y ∈ qs, l < y → x ≤ y) ∧ ((∀ y ∈ qs, y ≤ l) → ∀ y ∈ qs, x ≤ y)) ∧
  (∀ (k : CopyDesc) (a n : Nat), 0 < k.rowLen →
    (((copySegment k a n).map (fun r => r.2.2)).foldl (fun x y => x + y) 0) = n) ∧
  (∀ (s : State) (c q moved : Nat) (stop : Option (Code × Nat)) (step seed : Word64) (d : BitVec 512)
      (parts : List (Nat × Nat)), q < 16 → s.copyTurn = some (16 * c + q) →
    (s.queue c q).work = some (.copy moved stop step seed) → (s.queue c q).held = some d → s.copyLoads c q = [] →
    parts = copyParts (copySegment (copyOf d) moved (min (2 ^ 20) ((copyOf d).total - moved))) (fun r => r.1) → parts ≠ [] →
    (∀ p ∈ parts, ∃ a, s.reach c p.1 0 .engineLoad = .place (.dram a)) →
    ∃ t : State, exec .copySegment s = .next t ∧ (t.copyLoads c q).map (fun a => (a.va, a.len)) = parts ∧
      (∀ a ∈ t.copyLoads c q, a.stage = .moving ∧ a.ctx = c) ∧
      t.queue c q = { s.queue c q with work := some (.copy moved none step seed) } ∧
      t.dram = s.dram ∧ t.slices = s.slices ∧ t.tiles = s.tiles ∧ t.hostMem = s.hostMem) ∧
  (∀ (s : State) (c q moved : Nat) (stop : Option (Code × Nat)) (step seed : Word64) (d : BitVec 512), q < 16 →
    s.copyTurn = some (16 * c + q) → (s.queue c q).work = some (.copy moved stop step seed) → (s.queue c q).held = some d →
    (∃ a ∈ s.copyLoads c q, a.stage = .moving ∨ a.stage = .waiting ∨ a.stage = .forwarded) →
    exec .copySegment s = .next s) ∧
  (∀ (s u : State) (c q moved m start want : Nat) (step seed : Word64) (d : BitVec 512) (h : Bool), q < 16 →
    s.copyTurn = some (16 * c + q) → (s.queue c q).work = some (.copy moved none step seed) → (s.queue c q).held = some d →
    (copyOf d).compress = 0 → s.copyLoads c q ≠ [] → (∀ a ∈ s.copyLoads c q, ∃ b o, a.stage = .served b o) →
    start = moved / 2 ^ 20 * 2 ^ 20 → want = min (2 ^ 20) ((copyOf d).total - start) →
    s.copyScatter c q (dHint d) (copyOf d).total (dFlag d) start moved
      (copyParts (copySegment (copyOf d) start want) (fun r => r.2.1))
      ((s.copyLoads c q).flatMap Access.data) = (⟨m, none, h⟩, u) →
    exec .copySegment s = .next (if h then u.modQueue c q (fun x => { x with work := some (.copy m none step seed) })
      else ({ u with
        flights := u.flights.filter (fun a => !(decide (a.who = .queue c q) && decide (a.op = .load)))
        copyNext := 16 * c + q } : State).modQueue c q (fun x => { x with
          work := some (if (copyOf d).total ≤ m then .done 0 0 m else .copy m none step seed) }))) ∧
  (∀ (s : State) (c q va hint a : Nat) (d : List Byte), s.reach c va 1 .engineStore = .place (.dram a) → 0 < d.length →
    s.repair.failed.elem (s.channelOf (a / 128)) = false →
    a % 128 + d.length ≤ 128 → (∀ l, s.cached (a / 128) = some l → l.data.length = 128) →
    ∃ t : State, s.copyWrite c q va hint d = .ok t ∧ t.flights = s.flights ∧
      ∀ i, i < d.length → t.homeByte (a + i) = d.getD i 0) ∧
  (∀ (s : State) (c q : Nat), (∀ st det r, (s.queue c q).work ≠ some (.done st det r)) →
    (∀ k, (s.queue c q).work ≠ some (.compute k)) → exec (.descriptorCompletion c q) s = .next s) ∧
  (∀ (s : State) (c q st det r : Nat) (d : BitVec 512), (s.queue c q).work = some (.done st det r) →
    (s.queue c q).held = some d → s.flights = [] → s.kernels = [] →
    exec (.descriptorCompletion c q) s = .next (s.complete c q d st det r (s.queue c q).stage)) ∧
  (∀ (s : State) (c q st det r : Nat) (d : BitVec 512), 1 < st → dCr d = false →
    ((s.complete c q d st det r 0).queue c q).c = (s.queue c q).c ∧
    ((s.complete c q d st det r 0).queue c q).work = none ∧ ((s.complete c q d st det r 0).queue c q).failed = true) ∧
  (∀ (s : State) (c q det r a : Nat) (d : BitVec 512), dCr d = false → dSig d = false → dIrq d = false →
    (s.queue c q).st = .running → (s.queue c q).overrun = none → (s.queue c q).wb % 8 = 0 → (s.queue c q).wb < 2 ^ 48 →
    (s.ctx c).translate (s.queue c q).wb 1 = some (.dram a) → a % 128 = (s.queue c q).wb % 128 →
    (∀ l, s.cached (a / 128) = some l → l.data.length = 128) →
    ((s.complete c q d 0 det r 0).queue c q).c = (s.queue c q).c + 1 ∧
    ((s.complete c q d 0 det r 0).queue c q).work = none ∧ ((s.complete c q d 0 det r 0).queue c q).held = none ∧
    ∀ i, i < 8 → (s.complete c q d 0 det r 0).homeByte (a + i) = (leBytes 8 ((s.queue c q).c + 1).toNat).getD i 0) ∧
  (∀ (s : State) (c q det r : Nat) (d : BitVec 512), dCr d = false → dSig d = true → (s.queue c q).st = .running →
    s.complete c q d 0 det r 0 = s.descSend c q (sigKind d) (dVid d) (sigAmount d) 0) ∧
  (∀ (st tag c q det res : Nat) (i : Word32) (tick : Word64), st < 2 ^ 16 → tag < 2 ^ 16 → c < 2 ^ 12 → q < 16 →
    det < 2 ^ 16 → res < 2 ^ 64 → let r := recordBytes st tag c q det i res tick
    r.length = 32 ∧ leNat (sliceAt r 0 2) = st ∧ leNat (sliceAt r 2 2) = tag ∧ leNat (sliceAt r 4 2) = c + q * 2 ^ 12 ∧
    leNat (sliceAt r 6 2) = det ∧ leNat (sliceAt r 8 4) = i.toNat ∧ leNat (sliceAt r 16 8) = res ∧
    leNat (sliceAt r 24 8) = tick.toNat) ∧
  (∀ (s : State) (c q id : Nat) (d : BitVec 512) (k : Kernel), (s.queue c q).work = some (.compute id) →
    (s.queue c q).held = some d → s.kernels = [k] → k.id = id →
    (k.ended ≠ k.blocks → exec (.descriptorCompletion c q) s = .next s) ∧
    (k.ended = k.blocks → s.issues = [] → s.sync.ops = [] → s.walks = [] →
      (k.flush = true → ∃ (t : State) (w : Walk), exec (.descriptorCompletion c q) s = .next t ∧ t.walks = [w] ∧ w.who = .queue c q ∧
        w.kind = .flush ∧ (t.queue c q).work = some (.compute id)) ∧
      (k.flush = false → exec (.descriptorCompletion c q) s = .next ((s.dropKernel id).complete c q d 0 0 0 0) ∧
        (s.dropKernel id).kernels = []))) ∧
  (∀ (s : State) (f off size j c : Nat) (v : Word64), (s.fn f).enabled = true → s.mod.hostUp = true → off % 4096 = 0 →
    j = off / 4096 % 16 → s.bellCtx f (off / 4096 / 16) = some c →
    (size ≠ 8 → exec (.doorbellWrite f off size v) s = .next s) ∧
    ((s.ctx c).st = .free ∨ (s.ctx c).st = .destroying ∨ (s.queue c j).st = .destroyed ∨ 2 ^ 32 ≤ v.toNat →
      exec (.doorbellWrite f off 8 v) s = .next (s.countDiscard f)) ∧
    ((s.ctx c).st ≠ .free → (s.ctx c).st ≠ .destroying → (s.queue c j).st = .running → v.toNat < 2 ^ 32 →
      (v.setWidth 32 = (s.queue c j).p → exec (.doorbellWrite f off 8 v) s = .next (s.countDiscard f)) ∧
      (v.setWidth 32 ≠ (s.queue c j).p → (v.setWidth 32 - (s.queue c j).p).toNat + ((s.queue c j).p - (s.queue c j).c).toNat ≤
          2 ^ (s.queue c j).log2 → ∃ t : State, exec (.doorbellWrite f off 8 v) s = .next t ∧ (t.queue c j).p = v.setWidth 32 ∧
          ((s.ctx c).st = .idle → (t.ctx c).st = .pending ∧ t.pendingOrder = s.pendingOrder ++ [c])) ∧
      (2 ^ (s.queue c j).log2 < (v.setWidth 32 - (s.queue c j).p).toNat + ((s.queue c j).p - (s.queue c j).c).toNat →
        v.setWidth 32 ≠ (s.queue c j).p → (s.queue c j).c ≠ (s.queue c j).p →
        exec (.doorbellWrite f off 8 v) s = .next (s.modQueue c j (fun x => { x with overrun := some x.p }))))) ∧
  (∀ (s : State) (f off : Nat) (v : Word64), (s.fn f).enabled = true → s.mod.hostUp = true → off % 4096 = 0 →
    s.bellCtx f (off / 4096 / 16) = none → exec (.doorbellWrite f off 8 v) s = .next (s.countDiscard f)) ∧
  (∀ (s : State) (c : Nat) (rest : List Nat),
    (s.pendingOrder = [] ∨ 64 ≤ (s.ctxs.filter (fun e => e.2.resident)).length → exec .slotGrant s = .next s) ∧
    (s.pendingOrder = c :: rest → (s.ctxs.filter (fun e => e.2.resident)).length < 64 →
      ∃ t : State, exec .slotGrant s = .next t ∧ (t.ctx c).st = .resident ∧ (t.ctx c).resident = true ∧
        (t.ctx c).expired = false ∧ t.pendingOrder = rest ∧ ∀ c', c' ≠ c → t.ctx c' = s.ctx c')) ∧
  (∀ (s : State) (c : Nat),
    ((s.ctx c).st = .resident → (s.ctx c).since + (s.ctx c).quantumNow * 60000 ≤ s.tick.toNat →
      (∃ p ∈ s.pendingOrder, (s.ctx p).since + (s.ctx c).quantumNow * 60000 ≤ s.tick.toNat) → exec (.quantumExpiry c) s =
      .next (s.modCtx c (fun x => { x with expired := true }))) ∧
    (s.pendingOrder = [] ∨ s.tick.toNat < (s.ctx c).since + (s.ctx c).quantumNow * 60000 → exec (.quantumExpiry c) s = .next s) ∧
    ((s.ctx c).expired = true → ∀ q, s.mayStart c q = false)) ∧
  (∀ (s : State) (c : Nat), (s.ctx c).resident = true →
    ((∃ e ∈ (s.ctx c).queues, s.inProgress c e.2 = true) → exec (.slotGiveUp c) s = .next s) ∧
    ((∀ e ∈ (s.ctx c).queues, s.inProgress c e.2 = false) → (s.ctx c).st ≠ .stopped →
      ((∃ e ∈ (s.ctx c).queues, e.2.runnable = true) → (s.ctx c).expired = false → exec (.slotGiveUp c) s = .next s) ∧
      ((∃ e ∈ (s.ctx c).queues, e.2.runnable = true) → (s.ctx c).expired = true → ∃ t : State, exec (.slotGiveUp c) s = .next t ∧
        (t.ctx c).st = .pending ∧ (t.ctx c).resident = false ∧ t.pendingOrder = s.pendingOrder ++ [c]) ∧
      ((∀ e ∈ (s.ctx c).queues, e.2.runnable = false) → ∃ t : State, exec (.slotGiveUp c) s = .next t ∧
        (t.ctx c).st = .idle ∧ (t.ctx c).resident = false ∧ t.pendingOrder = s.pendingOrder)))

/-- Every admin command waits for its turn, is checked, and completes with its record (R345, R348, R353, R402, R487,
R508, R339). -/
def Obligations.AdminCommandsAreCheckedAndRecorded : Prop :=
  (∀ (s : State) (i : Instr) (f : Nat) (d : BitVec 512) (ty : Nat) (pf : Bool), adminRow i = some (f, d, ty, pf) →
    (s.hal.reloading = true → exec i s = .next (s.defer i)) ∧
    (s.hal.reloading = false → s.adminHeld = [] → s.adminWaits i = true → exec i s = .next (s.holdBack i)) ∧
    (∀ j, s.hal.reloading = false → s.adminHeld = [j] → adminFn j = adminFn i → s.adminWaits j = true →
      ∃ t : State, exec i s = .next t ∧ t = { s with adminHeld := [j, i] }) ∧
    (s.hal.reloading = false → s.adminHeld = [] → s.adminWaits i = false → (s.fn f).enabled = false ∨ (s.fn f).enable = false ∨ (s.fn f).p = (s.fn f).c →
      exec i s = .next s) ∧
    (s.adminTurn f → s.adminWaits i = false → ∀ b, s.adminBad f d ty pf = some b →
      exec i s = .next (s.adminDone f d Code.descInvalid.value b 0))) ∧
  (∀ (s : State) (f : Nat) (d : BitVec 512) (ty : Nat),
    (∀ pf, bvFld d 0 8 ≠ ty → s.adminBad f d ty pf = some 0x1000) ∧
    (f ≠ 0 → s.adminBad f d ty true = some 0x1000) ∧
    (∀ pf, bvFld d 0 8 = ty → (pf = true → f = 0) → bvFld d 10 6 ≠ 0 → s.adminBad f d ty pf = some 0x100A) ∧
    (bvFld d 0 8 = ty → bvFld d 10 6 = 0 → numCtxs ≤ aCtx d ∨ (f ≠ 0 ∧ (s.ctx (aCtx d)).fn ≠ f) →
      s.adminBad f d ty false = some 0x1020) ∧
    (s.adminBad f d ty false = none → aCtx d < numCtxs ∧ (f = 0 ∨ (s.ctx (aCtx d)).fn = f) ∧ bvFld d 448 64 = 0)) ∧
  (∀ (s : State) (f st det r : Nat) (d : BitVec 512),
    ((s.adminDone f d st det r).fn f).c = (s.fn f).c + 1 ∧ (s.adminDone f d st det r).ctxs = s.ctxs ∧
    (s.adminDone f d st det r).objs = s.objs ∧ (s.adminDone f d st det r).dram = s.dram ∧
    (s.adminDone f d st det r).sync = s.sync ∧ (s.adminDone f d st det r).tiles = s.tiles ∧
    (dCr d = true → dCrAddr d % 32 = 0 → (fnSpace f, dCrAddr d / 4096) ∈ s.ats →
      (s.adminDone f d st det r).hostRead (fnSpace f) (dCrAddr d) 32 =
        recordBytes st (dTag d) (aCtx d) 0xF det (s.fn f).c r s.tick)) ∧
  (∀ (s : State) (f : Nat) (v : Word64), (s.fn f).enabled = true → s.mod.hostUp = true →
    (∀ n, n ≠ 8 → exec (.adminDoorbell f n v) s = .next s) ∧
    ((s.fn f).enable = false ∨ (s.fn f).stopped = true ∨ 2 ^ 32 ≤ v.toNat ∨ v.toNat = (s.fn f).p.toNat →
      exec (.adminDoorbell f 8 v) s = .next (s.countDiscard f)) ∧
    ((s.fn f).enable = true → (s.fn f).stopped = false → v.toNat < 2 ^ 32 → v.toNat ≠ (s.fn f).p.toNat →
      ((v.setWidth 32 - (s.fn f).p).toNat + ((s.fn f).p - (s.fn f).c).toNat ≤ 2 ^ (s.fn f).log2 →
        exec (.adminDoorbell f 8 v) s = .next (s.modFn f (fun x => { x with p := v.setWidth 32 }))) ∧
      (2 ^ (s.fn f).log2 < (v.setWidth 32 - (s.fn f).p).toNat + ((s.fn f).p - (s.fn f).c).toNat →
        exec (.adminDoorbell f 8 v) s = .next (s.modFn f (fun x => { x with stopped := true }))))) ∧
  (∀ (s : State) (f : Nat), ((s.countDiscard f).fn f).discarded = satAdd 32 (s.fn f).discarded 1)

/-- Contexts are created in the kinds their lifecycle state grants, set field by field, reset and destroyed (R327,
R340, R341, R345, R346, R347, R355). -/
def Obligations.ContextCommandsCreateSetAndEnd : Prop :=
  (∀ (s s1 : State) (f : Nat) (d : BitVec 512) (cred : BitVec 256), s.adminTurn f → s.adminBad f d 0x20 false = none →
    ((s.ctx (aCtx d)).st ≠ .free ∨ s.ctxActive = false →
      exec (.ctxCreate f d) s = .next (s.adminDone f d Code.descInvalid.value 0x1FFF 0)) ∧
    ((s.ctx (aCtx d)).st = .free → s.ctxActive = true →
      (4 ≤ aB d ∨ s.kindGranted (aB d) = false →
        exec (.ctxCreate f d) s = .next (s.adminDone f d Code.descInvalid.value 0x1100 0)) ∧
      (aB d < 4 → s.kindGranted (aB d) = true → aC d = 0 → s.readDigest f (aD d) = (some cred, s1) →
        exec (.ctxCreate f d) s = .next ((s1.setCtx (aCtx d) { Ctx.free with
          st := .idle, kind := aB d, fn := (s1.ctx (aCtx d)).fn, pasid := Config.pasid (aCtx d) % 2 ^ 20
          jobSeed := BitVec.ofNat 64 (aA d), credential := cred }).adminDone f d 0 0 0)))) ∧
  (∀ (s : State) (k : Nat), (s.lifecycle ≤ 1 → (s.kindGranted k = true ↔ k = 1 ∨ k = 2)) ∧
    (s.lifecycle = 2 ∨ s.lifecycle = 3 →
      (s.kindGranted k = true ↔ k = 1 ∨ k = 3 ∨ (k = 0 ∧ s.sec.inserviceLost = false))) ∧
    (3 < s.lifecycle → s.kindGranted k = false)) ∧
  (∀ (s : State) (f : Nat) (d : BitVec 512) (e : Instr × Nat), e ∈ [(.ctxSetStep f d, 1), (.ctxSetFlags f d, 2),
      (.ctxSetWaitWdog f d, 3), (.ctxSetQuantum f d, 4), (.ctxSetWatchRing f d, 5), (.ctxSetSyncMap f d, 6),
      (.ctxSetHeap f d, 7), (.ctxSetFaultClear f d, 8)] →
    (s.adminTurn f → s.adminBad f d 0x21 false = none → s.live (aCtx d) = false →
      exec e.1 s = .next (s.adminDone f d Code.descInvalid.value 0x1FFF 0)) ∧
    (s.adminGo f d 0x21 → aA d ≠ 0 → exec e.1 s = .next (s.adminDone f d Code.descInvalid.value 0x10C0 0)) ∧
    (s.adminGo f d 0x21 → aA d = 0 → aB d ≠ e.2 → exec e.1 s = .next (s.adminDone f d Code.descInvalid.value 0x1100 0))) ∧
  (∀ (s : State) (f : Nat) (d : BitVec 512), s.adminGo f d 0x21 → aA d = 0 →
    (aB d = 1 → aD d = 0 → exec (.ctxSetStep f d) s =
      .next ((s.modCtx (aCtx d) (fun x => { x with step := BitVec.ofNat 64 (aC d) })).adminDone f d 0 0 0)) ∧
    (aB d = 1 → aD d ≠ 0 → exec (.ctxSetStep f d) s = .next (s.adminDone f d Code.descInvalid.value 0x1180 0)) ∧
    (aB d = 2 → aC d < 4 → aD d = 0 → exec (.ctxSetFlags f d) s =
      .next ((s.modCtx (aCtx d) (fun x => { x with
        syncDenyFault := (aC d).testBit 0, regressionStop := (aC d).testBit 1 })).adminDone f d 0 0 0)) ∧
    (aB d = 2 → 4 ≤ aC d → exec (.ctxSetFlags f d) s = .next (s.adminDone f d Code.descInvalid.value 0x1140 0)) ∧
    (aB d = 3 → 1 ≤ aC d → aC d ≤ 65535 → aD d = 0 → exec (.ctxSetWaitWdog f d) s =
      .next ((s.modCtx (aCtx d) (fun x => { x with waitWdog := aC d })).adminDone f d 0 0 0)) ∧
    (aB d = 3 → aC d = 0 ∨ 65535 < aC d →
      exec (.ctxSetWaitWdog f d) s = .next (s.adminDone f d Code.descInvalid.value 0x1140 0)) ∧
    (aB d = 4 → 1 ≤ aC d → aC d ≤ 65535 → aD d = 0 → exec (.ctxSetQuantum f d) s =
      .next ((s.modCtx (aCtx d) (fun x => { x with quantum := aC d })).adminDone f d 0 0 0)) ∧
    (aB d = 4 → aC d = 0 ∨ 65535 < aC d →
      exec (.ctxSetQuantum f d) s = .next (s.adminDone f d Code.descInvalid.value 0x1140 0)) ∧
    (aB d = 5 → aC d % 64 = 0 → (∃ n, n ≤ 20 ∧ aD d = 2 ^ n) ∨ aD d = 0 → exec (.ctxSetWatchRing f d) s =
      .next ((s.modCtx (aCtx d) (fun x => { x with
        watchRing := aC d, watchSize := aD d, watchProduced := 0 })).adminDone f d 0 0 0)) ∧
    (aB d = 5 → aC d % 64 ≠ 0 →
      exec (.ctxSetWatchRing f d) s = .next (s.adminDone f d Code.descInvalid.value 0x1140 0)) ∧
    (aB d = 8 → aC d = 0 → aD d = 0 → exec (.ctxSetFaultClear f d) s =
      .next ((s.modCtx (aCtx d) (fun x => { x with fault := none })).adminDone f d 0 0 0))) ∧
  (∀ (s : State) (f : Nat) (d : BitVec 512), s.adminGo f d 0x21 → aA d = 0 →
    (aB d = 6 → s.ownObj (aCtx d) (aC d) = none →
      exec (.ctxSetSyncMap f d) s = .next (s.adminDone f d Code.descInvalid.value 0x1140 0)) ∧
    (∀ o n, aB d = 6 → s.ownObj (aCtx d) (aC d) = some o → 4 ≤ n → n ≤ 16 → aD d = 2 ^ n → 16 * aD d ≤ o.size →
      (s.sync.waits = [] → (s.ctx (aCtx d)).st ≠ .resident → exec (.ctxSetSyncMap f d) s =
        .next ((s.modCtx (aCtx d) (fun x => { x with syncMap := o.dpa, syncMapSize := aD d })).adminDone f d 0 0 0)) ∧
      ((s.ctx (aCtx d)).st = .resident ∨ (∃ w ∈ s.sync.waits, w.ctx = aCtx d) →
        exec (.ctxSetSyncMap f d) s = .next (s.adminDone f d Code.descInvalid.value 0x1FFF 0))) ∧
    (aB d = 7 → aC d = 0 ∨ (∃ o, s.ownObj (aCtx d) (aC d) = some o ∧ o.heap = true) →
      ((s.ctx (aCtx d)).heapBlocks = [] → aD d = 0 → exec (.ctxSetHeap f d) s =
        .next ((s.modCtx (aCtx d) (fun x => { x with heap := aC d })).adminDone f d 0 0 0)) ∧
      ((s.ctx (aCtx d)).heapBlocks ≠ [] →
        exec (.ctxSetHeap f d) s = .next (s.adminDone f d Code.descInvalid.value 0x1FFF 0)))) ∧
  (∀ (s : State) (f : Nat) (d : BitVec 512),
    (s.adminGo f d 0x22 → exec (.ctxReset f d) s = .next ((s.resetCtx (aCtx d)).adminDone f d 0 0 0)) ∧
    (s.adminGo f d 0x23 → exec (.ctxDestroy f d) s = .next ((s.destroyCtx (aCtx d)).adminDone f d 0 0 0))) ∧
  (∀ (s : State) (c : Nat),
    ((s.resetCtx c).ctx c).st = .idle ∧ ((s.resetCtx c).ctx c).fault = none ∧
    ((s.resetCtx c).ctx c).maps = (s.ctx c).maps ∧ (s.resetCtx c).objs = s.objs ∧
    (∀ q, (s.queue c q).st = .running ∨ (s.queue c q).st = .stopped → ((s.resetCtx c).queue c q).c = (s.queue c q).p ∧
      ((s.resetCtx c).queue c q).work = none ∧ ((s.resetCtx c).queue c q).st = .running) ∧
    (∀ i, (s.syncObj i).kind ≠ 0 → (s.syncObj i).owner = c → ((s.resetCtx c).syncObj i).value = poisonValue 2 c)) ∧
  (∀ (s : State) (c : Nat), c < numCtxs → (s.ctx c).st ≠ .free →
    (s.destroyCtx c).ctx c = { Ctx.free with fn := (s.ctx c).fn } ∧
    (∀ i, (s.syncObj i).kind ≠ 0 → (s.syncObj i).owner = c → ((s.destroyCtx c).syncObj i).value = poisonValue 1 c) ∧
    (∀ o ∈ (s.destroyCtx c).objs, o.owner ≠ c ∨ o.grace = true) ∧
    (∀ k ∈ (s.destroyCtx c).kernels, k.ctx ≠ c))

/-- Queues are created, destroyed and restarted; objects, page-table entries and slots are installed and removed
(R244, R252, R341, R343, R344, R345, R346, R348, R357). -/
def Obligations.AdminCommandsActOnQueuesObjectsAndPages : Prop :=
  (∀ (s : State) (f : Nat) (d : BitVec 512), s.adminGo f d 0x24 →
    (aA d % 64 ≠ 0 → exec (.queueCreate f d) s = .next (s.adminDone f d Code.descInvalid.value 0x10C0 0)) ∧
    (aA d % 64 = 0 → s.isFabric (aCtx d) (aA d) = false →
      (2 ^ 22 ≤ aB d ∨ fld (aB d) 6 5 < 4 ∨ 16 < fld (aB d) 6 5 ∨ s.vectors f ≤ fld (aB d) 11 11 →
        exec (.queueCreate f d) s = .next (s.adminDone f d Code.descInvalid.value 0x1100 0)) ∧
      (aB d < 2 ^ 22 → 4 ≤ fld (aB d) 6 5 → fld (aB d) 6 5 ≤ 16 → fld (aB d) 11 11 < s.vectors f →
        (aC d % 8 ≠ 0 → exec (.queueCreate f d) s = .next (s.adminDone f d Code.descInvalid.value 0x1140 0)) ∧
        (aC d % 8 = 0 → s.isFabric (aCtx d) (aC d) = false →
          ((s.queue (aCtx d) (fld (aB d) 0 4)).st = .running ∨ (s.queue (aCtx d) (fld (aB d) 0 4)).st = .stopped →
            exec (.queueCreate f d) s = .next (s.adminDone f d Code.descInvalid.value 0x1FFF 0)) ∧
          ((s.queue (aCtx d) (fld (aB d) 0 4)).st = .absent ∨ (s.queue (aCtx d) (fld (aB d) 0 4)).st = .destroyed →
            exec (.queueCreate f d) s = .next ((s.modQueue (aCtx d) (fld (aB d) 0 4) (fun _ => { Queue.absent with
              st := .running, kind := fld (aB d) 4 2, log2 := fld (aB d) 6 5, ring := aA d, wb := aC d
              msix := fld (aB d) 11 11 })).adminDone f d 0 0 0)))))) ∧
  (∀ (s : State) (f : Nat) (d : BitVec 512), s.adminGo f d 0x25 →
    (16 ≤ aB d → exec (.queueDestroy f d) s = .next (s.adminDone f d Code.descInvalid.value 0x1100 0)) ∧
    (aB d < 16 → (s.queue (aCtx d) (aB d)).work ≠ none →
      exec (.queueDestroy f d) s = .next (s.adminDone f d Code.descInvalid.value 0x1FFF 0)) ∧
    (aB d < 16 → (s.queue (aCtx d) (aB d)).work = none → (s.queue (aCtx d) (aB d)).st = .running ∨
      (s.queue (aCtx d) (aB d)).st = .stopped → exec (.queueDestroy f d) s =
        .next ((s.modQueue (aCtx d) (aB d) (fun x => { x with st := .destroyed })).adminDone f d 0 0 0))) ∧
  (∀ (s : State) (f q : Nat) (skip : Bool) (d : BitVec 512), s.adminGo f d 0x26 → q < 16 → aB d = q + (if skip then 16 else 0) →
    ((s.queue (aCtx d) q).st ≠ .stopped ∨ (s.ctx (aCtx d)).fault ≠ none →
      exec (.queueRestart f d) s = .next (s.adminDone f d Code.descInvalid.value 0x1FFF 0)) ∧
    ((s.queue (aCtx d) q).st = .stopped → (s.ctx (aCtx d)).fault = none → (s.queue (aCtx d) q).work = none →
      (s.queue (aCtx d) q).failed = true → (s.ctx (aCtx d)).st = .stopped → (∀ a ∈ s.flights, a.who ≠ .queue (aCtx d) q) →
      (s.ctx (aCtx d)).queues = [(q, s.queue (aCtx d) q)] →
      ∃ t : State, exec (.queueRestart f d) s = .next (t.adminDone f d 0 0 0) ∧ (t.queue (aCtx d) q).st = .running ∧
        (t.queue (aCtx d) q).c = (s.queue (aCtx d) q).c ∧ (t.queue (aCtx d) q).failed = false ∧
        (t.queue (aCtx d) q).work = (if skip then some (.done 1 0 0) else none) ∧
        ((t.ctx (aCtx d)).st = .pending ∨ (t.ctx (aCtx d)).st = .idle))) ∧
  (∀ (s : State) (f : Nat) (d : BitVec 512), s.adminTurn f → s.adminBad f d 0x27 false = none →
    (aA d = 0 ∨ aA d % 65536 ≠ 0 ∨ 512000000000 < aA d →
      exec (.objAlloc f d) s = .next (s.adminDone f d Code.descInvalid.value 0x10C0 0)) ∧
    (aA d ≠ 0 → aA d % 65536 = 0 → aA d ≤ 512000000000 → aB d < 4 →
      (s.placeObj none (aA d) = none →
        exec (.objAlloc f d) s = .next (s.adminDone f d Code.descInvalid.value 0x1FFE 0)) ∧
      (∀ a k, s.placeObj none (aA d) = some a → s.objNumber = some k →
        ∃ (t : State) (o : Obj), exec (.objAlloc f d) s = .next (t.adminDone f d 0 0 k) ∧ t.objs = s.objs ++ [o] ∧ o.num = k ∧
          o.owner = aCtx d ∧ o.dpa = a ∧ o.size = aA d ∧ o.retained = (aB d).testBit 0 ∧ o.heap = (aB d).testBit 1 ∧
          o.aperture = none ∧ t.ctxs = s.ctxs ∧ ∀ i, i < aA d → t.homeByte (a + i) = 0))) ∧
  (∀ (s : State) (n a k : Nat),
    (s.placeObj none n = some a → a + n ≤ s.interleaved ∧ s.meetsReserved a n = false ∧
      ∀ o ∈ s.objs, o.dpa + o.size ≤ a ∨ a + n ≤ o.dpa) ∧
    (s.objNumber = some k → 1 ≤ k ∧ k < 2 ^ 24 ∧ ∀ o ∈ s.objs, o.num ≠ k)) ∧
  (∀ (s : State) (f : Nat) (d : BitVec 512), s.adminTurn f → s.adminBad f d 0x28 false = none →
    (s.ownObj (aCtx d) (aA d) = none →
      exec (.objFree f d) s = .next (s.adminDone f d Code.descInvalid.value 0x10C0 0)) ∧
    (∀ o, s.ownObj (aCtx d) (aA d) = some o → o.aperture = none → (∀ e ∈ s.ctxs, e.2.maps = []) →
      ∃ t : State, exec (.objFree f d) s = .next (t.adminDone f d 0 0 0) ∧ (∀ p ∈ t.objs, p.num ≠ aA d) ∧ t.dram = s.dram) ∧
    (∀ o, s.ownObj (aCtx d) (aA d) = some o → o.aperture ≠ none →
      ∃ (t : State) (p : Obj), exec (.objFree f d) s = .next (t.adminDone f d 0 0 0) ∧ t.obj (aA d) = some p ∧ p.orphan = true)) ∧
  (∀ (s : State) (f p : Nat) (d : BitVec 512) (t : MapTarget) (n : Nat), s.adminGo f d 0x29 →
    s.revoking = false ∨ (aB d).testBit 24 = false →
    p = (if (aD d).testBit 48 then 2 ^ 21 else 2 ^ 16) →
    (aA d % p ≠ 0 ∨ 2 ^ 48 < aA d + fld (aD d) 0 48 →
      exec (.mapPages f d) s = .next (s.adminDone f d Code.descInvalid.value 0x10C0 0)) ∧
    (aA d % p = 0 → aA d + fld (aD d) 0 48 ≤ 2 ^ 48 →
      ((∃ m ∈ (s.ctx (aCtx d)).maps, m.va < aA d + fld (aD d) 0 48 ∧ aA d < m.va + m.len) →
        exec (.mapPages f d) s = .next (s.adminDone f d Code.descInvalid.value 0x10C0 0)) ∧
      ((∀ m ∈ (s.ctx (aCtx d)).maps, m.va + m.len ≤ aA d ∨ aA d + fld (aD d) 0 48 ≤ m.va) →
        (aC d % p ≠ 0 → exec (.mapPages f d) s = .next (s.adminDone f d Code.descInvalid.value 0x1140 0)) ∧
        (aC d % p = 0 → s.mapTarget (aCtx d) (aB d) (aC d) (fld (aD d) 0 48) ((aD d).testBit 49) ((aD d).testBit 50)
          ((aD d).testBit 51) = .ok (t, n) → fld (aD d) 0 48 % p = 0 → fld (aD d) 0 48 ≠ 0 → aD d < 2 ^ 52 →
          ∃ u : State, exec (.mapPages f d) s = .next (u.adminDone f d 0 0 0) ∧ u.objs = s.objs ∧
            (∀ a, aA d ≤ a → a < aA d + fld (aD d) 0 48 →
              (u.ctx (aCtx d)).translate a 0 = (if (aD d).testBit 49 then
                some ((⟨aA d, fld (aD d) 0 48, false, t, n, true, true, true⟩ : Mapping).at a) else none) ∧
              (u.ctx (aCtx d)).translate a 1 = (if (aD d).testBit 50 then
                some ((⟨aA d, fld (aD d) 0 48, false, t, n, true, true, true⟩ : Mapping).at a) else none)) ∧
            (∀ a k, a < 2 ^ 48 → a < aA d ∨ aA d + fld (aD d) 0 48 ≤ a →
              (u.ctx (aCtx d)).translate a k = (s.ctx (aCtx d)).translate a k))))) ∧
  (∀ (s : State) (c off len : Nat) (o : Obj) (r w a : Bool),
    (off + len ≤ 2 ^ 64 → s.mapTarget c 0 off len r w a = .ok (.host off, 0)) ∧
    (0 < o.num → o.num < 2 ^ 24 → s.obj o.num = some o → o.orphan = false → o.grace = false → o.owner = c →
      off + len ≤ o.size → s.meetsReserved (o.dpa + off) len = false →
      s.mapTarget c o.num off len r w a = .ok (.dram (o.dpa + off), o.num)) ∧
    (0 < o.num → o.num < 2 ^ 24 → s.obj o.num = some o → o.owner ≠ c → o.aperture = none →
      s.mapTarget c o.num off len r w a = .error 0x1100)) ∧
  (∀ (s : State) (f : Nat) (d : BitVec 512), s.adminGo f d 0x2A →
    s.rangeBusy (aCtx d) (aA d) (aD d) = false →
    (2 ^ 48 < aA d + aD d → exec (.unmapPages f d) s = .next (s.adminDone f d Code.descInvalid.value 0x10C0 0)) ∧
    (aA d + aD d ≤ 2 ^ 48 → aA d % 2 ^ 21 = 0 → aD d % 2 ^ 21 = 0 →
      ∃ u : State, exec (.unmapPages f d) s = .next (u.adminDone f d 0 0 0) ∧
        (∀ a k, aA d ≤ a → a < aA d + aD d → (u.ctx (aCtx d)).translate a k = none) ∧
        (∀ a k, a < 2 ^ 48 → a < aA d ∨ aA d + aD d ≤ a →
          (u.ctx (aCtx d)).translate a k = (s.ctx (aCtx d)).translate a k))) ∧
  (∀ (s : State) (f : Nat) (d : BitVec 512), s.hal.reloading = false → s.adminHeld = [] →
    (s.rangeBusy (aCtx d) (aA d) (aD d) = true → exec (.unmapPages f d) s = .next (s.holdBack (.unmapPages f d))) ∧
    (s.revoking = true → exec (.slotSet f d) s = .next (s.holdBack (.slotSet f d)) ∧
      ((aB d).testBit 24 = true → exec (.mapPages f d) s = .next (s.holdBack (.mapPages f d))))) ∧
  (∀ (s : State) (i : Instr), s.hal.reloading = false → s.adminHeld = [i] → s.adminWaits i = false →
    s.retryHeld = ({ s with adminHeld := [] } : State).runAdmin i) ∧
  (∀ (s : State) (f : Nat) (d : BitVec 512), s.adminGo f d 0x2B → s.revoking = false →
    (128 ≤ aB d → exec (.slotSet f d) s = .next (s.adminDone f d Code.descInvalid.value 0x1100 0)) ∧
    (aB d < 128 → fld (aC d) 8 8 = 0 → fld (aC d) 32 32 = 0 → aD d < 2 ^ 40 → exec (.slotSet f d) s =
      .next ((s.modCtx (aCtx d) (fun x => { x with
        slots := tabSet x.slots 0 (aB d) (BitVec.ofNat 128 (aC d + aD d * 2 ^ 64)) })).adminDone f d 0 0 0)))

/-- Sync objects, shares, the aperture, retained objects and function assignment (R254, R271, R313, R314, R329,
R331, R339, R344, R345). -/
def Obligations.AdminCommandsActOnSyncSharesAndFunctions : Prop :=
  (∀ (s : State) (f n : Nat) (b : Bool) (v : Word64) (d : BitVec 512), s.adminGo f d 0x2C →
    (s.sync.active = false → exec (.syncAlloc f d b v n) s = .next (s.adminDone f d Code.descInvalid.value 0x1FFF 0)) ∧
    (s.sync.active = true → poisonBase ≤ v.toNat ∨ (b = true ∧ (n = 0 ∨ 65535 < n)) →
      ∃ e, exec (.syncAlloc f d b v n) s = .next (s.adminDone f d Code.descInvalid.value e 0)) ∧
    (s.sync.active = true → v.toNat < poisonBase → (b = true → 1 ≤ n ∧ n ≤ 65535) →
      (s.freeSync = none → exec (.syncAlloc f d b v n) s = .next (s.adminDone f d Code.descInvalid.value 0x1FFE 0)) ∧
      (∀ i, s.freeSync = some i → ∃ t : State, exec (.syncAlloc f d b v n) s = .next (t.adminDone f d 0 0 0) ∧
        (t.syncObj i).value = v ∧ (t.syncObj i).kind = (if b then 2 else 1) ∧ (t.syncObj i).owner = aCtx d ∧
        (t.syncObj i).expected = (if b then n else 0) ∧ (t.syncObj i).waiters = 0 ∧
        ∀ j, j ≠ i → t.syncObj j = s.syncObj j))) ∧
  (∀ (s : State) (i : Nat), s.freeSync = some i → i < 65536 ∧ (s.syncObj i).kind = 0) ∧
  (∀ (s : State) (f i : Nat) (d : BitVec 512), s.adminGo f d 0x2C →
    (s.ownSync (aCtx d) i = false → ∃ e, exec (.syncFree f d i) s = .next (s.adminDone f d Code.descInvalid.value e 0)) ∧
    (s.ownSync (aCtx d) i = true → (∃ w ∈ s.sync.waits, w.index = i ∧ w.state = .pooled) ∨ s.imported i = true →
      exec (.syncFree f d i) s = .next (s.adminDone f d Code.descInvalid.value 0x1FFF 0)) ∧
    (s.ownSync (aCtx d) i = true → s.sync.waits = [] → s.imported i = false →
      ∃ t : State, exec (.syncFree f d i) s = .next (t.adminDone f d 0 0 0) ∧ t.syncObj i = SyncObj.free ∧
        ∀ j, j ≠ i → (t.syncObj j).value = (s.syncObj j).value ∧ (t.syncObj j).kind = (s.syncObj j).kind)) ∧
  (∀ (s : State) (f vid : Nat) (e : BitVec 128) (d : BitVec 512), s.adminGo f d 0x2C →
    ((s.ctx (aCtx d)).syncMapSize ≤ vid →
      ∃ b, exec (.syncMapSet f d vid e) s = .next (s.adminDone f d Code.descInvalid.value b 0)) ∧
    (vid < (s.ctx (aCtx d)).syncMapSize → ∃ t : State, exec (.syncMapSet f d vid e) s = .next (t.adminDone f d 0 0 0) ∧
      t.ctxs = s.ctxs ∧ (((s.ctx (aCtx d)).syncMap % 16 = 0) →
        (∀ l, s.cached (((s.ctx (aCtx d)).syncMap + 16 * vid) / 128) = some l → l.data.length = 128) →
        ∀ i, i < 16 → t.homeByte ((s.ctx (aCtx d)).syncMap + 16 * vid + i) = (leBytes 16 e.toNat).getD i 0))) ∧
  (∀ (s : State) (f i : Nat) (gs : List Grant) (d : BitVec 512), s.adminGo f d 0x2D → s.sync.active = true →
    (s.ownSync (aCtx d) i = false ∨ 8 < gs.length →
      ∃ e, exec (.shareExport f d i gs) s = .next (s.adminDone f d Code.descInvalid.value e 0)) ∧
    (∀ e, s.ownSync (aCtx d) i = true → gs.length ≤ 8 → (∀ g ∈ gs, g.device < 65536 ∧ g.ctx < numCtxs) →
      s.freeShare = some e → ∃ t : State, exec (.shareExport f d i gs) s = .next (t.adminDone f d 0 0 (t.handleOf e)) ∧
        (tabGet t.sync.shares Share.free e).obj = some i ∧ (tabGet t.sync.shares Share.free e).grants = gs ∧
        (t.syncObj i).exported = true ∧ (t.syncObj i).value = (s.syncObj i).value)) ∧
  (∀ (s : State) (f i e : Nat) (d : BitVec 512), s.adminGo f d 0x2D → e < 2 ^ 14 →
    (tabGet s.sync.shares Share.free e).obj = some i → s.ownSync (aCtx d) i = true →
    (∃ t : State, exec (.shareUnexport f d (s.handleOf e)) s = .next (t.adminDone f d 0 0 0) ∧
      (tabGet t.sync.shares Share.free e).obj = none ∧
      (tabGet t.sync.shares Share.free e).tag = ((tabGet s.sync.shares Share.free e).tag + 1) % 2 ^ 18) ∧
    (∀ h, h % 2 ^ 14 = e → h ≠ s.handleOf e →
      ∃ b, exec (.shareUnexport f d h) s = .next (s.adminDone f d Code.descInvalid.value b 0))) ∧
  (∀ (s : State) (f : Nat) (d : BitVec 512), s.adminGo f d 0x2E →
    (s.fab.partValid = false → exec (.apertureAdd f d) s = .next (s.adminDone f d Code.descInvalid.value 0x1FFF 0) ∧
      exec (.apertureRemove f d) s = .next (s.adminDone f d Code.descInvalid.value 0x1FFF 0)) ∧
    (s.fab.partValid = true → s.ownObj (aCtx d) (aB d) = none →
      exec (.apertureAdd f d) s = .next (s.adminDone f d Code.descInvalid.value 0x1100 0)) ∧
    (∀ o, s.fab.partValid = true → s.ownObj (aCtx d) (aB d) = some o →
      (aA d % 2 ^ 21 ≠ 0 ∨ 2 ^ 40 < aA d + o.size →
        exec (.apertureAdd f d) s = .next (s.adminDone f d Code.descInvalid.value 0x10C0 0)) ∧
      (aA d % 2 ^ 21 = 0 → aA d + roundUp o.size (2 ^ 21) ≤ 2 ^ 40 → (∀ p ∈ s.objs, p.aperture = none) →
        aD d % 2 = 0 → aD d < 16 → exec (.apertureAdd f d) s = .next ((s.modObj o.num (fun o => { o with
          aperture := some (aA d, (aD d).testBit 1, (aD d).testBit 2, (aD d).testBit 3) })).adminDone f d 0 0 0)) ∧
      (o.aperture ≠ none → aD d = 1 → ∃ t : State, exec (.apertureRemove f d) s = .next (t.adminDone f d 0 0 0) ∧
        (∀ p, t.obj (aB d) = some p → p.aperture = none)))) ∧
  (∀ (s s1 : State) (f : Nat) (cred : BitVec 256) (d : BitVec 512), s.adminGo f d 0x2F →
    s.readDigest f (aA d) = (some cred, s1) → ∃ t : State,
      exec (.reclaim f d) s = .next (t.adminDone f d 0 0
        (s1.objs.filter (fun o => o.grace && decide (o.credential = cred))).length) ∧ t.objs.length = s1.objs.length ∧
      (∀ (i : Nat) (o : Obj), s1.objs[i]? = some o → (o.grace = true ∧ o.credential = cred →
        t.objs[i]? = some { o with grace := false, owner := aCtx d, aperture := none }) ∧
        (o.grace = false ∨ o.credential ≠ cred → t.objs[i]? = some o))) ∧
  (∀ (s : State) (d : BitVec 512), s.adminTurn 0 → s.adminBad 0 d 0x30 true = none →
    (aB d = 0 ∨ 63 < aB d → exec (.fnAssign 0 d) s = .next (s.adminDone 0 d Code.descInvalid.value 0x1100 0)) ∧
    (1 ≤ aB d → aB d ≤ 63 → numCtxs ≤ aC d →
      exec (.fnAssign 0 d) s = .next (s.adminDone 0 d Code.descInvalid.value 0x1140 0)) ∧
    (1 ≤ aB d → aB d ≤ 63 → aC d < numCtxs → (s.ctx (aC d)).st = .free → (s.ctx (aC d)).fn = 0 →
      (s.fn (aB d)).ctxs.length < 64 → ∃ t : State, exec (.fnAssign 0 d) s = .next (t.adminDone 0 d 0 0 0) ∧
        (t.ctx (aC d)).fn = aB d ∧ (t.ctx (aC d)).st = .free ∧ (t.fn (aB d)).ctxs = (s.fn (aB d)).ctxs ++ [aC d] ∧
        (t.fn (aB d)).enabled = true) ∧
    (1 ≤ aB d → aB d ≤ 63 → aC d < numCtxs → (s.ctx (aC d)).st = .free → (s.ctx (aC d)).fn = 0 →
      64 ≤ (s.fn (aB d)).ctxs.length → exec (.fnAssign 0 d) s = .next (s.adminDone 0 d Code.descInvalid.value 0x1FFF 0)))

/-- BAR4, the admin queue's enable, MSI-X unmasking, function resets and invalidations (R225, R239, R336, R338,
R339, R349, R355, R471, R485, R487). -/
def Obligations.TheHostPortServesWindowsMessagesAndResets : Prop :=
  (∀ (s : State) (f n : Nat), s.sec.running = none ∨ s.mod.hostUp = false →
    (∀ b, exec (.adminQueueEnable f b n) s = .next s) ∧ exec (.bar4WindowWrite n) s = .next s ∧
    exec (.msixUnmask f n) s = .next s) ∧
  (∀ (s : State) (f n : Nat), s.fnDecoded = true → (s.fn f).enabled = true →
    (∃ t : State, exec (.adminQueueEnable f true n) s = .next t ∧ (t.fn f).enable = true ∧ t.ctxs = s.ctxs ∧
      ((s.fn f).enable = false → (t.fn f).p = 0 ∧ (t.fn f).c = 0 ∧ (t.fn f).stopped = false ∧
        (t.fn f).log2 = if 4 ≤ n ∧ n ≤ 16 then n else (s.fn f).log2) ∧
      ((s.fn f).enable = true → (t.fn f).p = (s.fn f).p ∧ (t.fn f).c = (s.fn f).c ∧ (t.fn f).log2 = (s.fn f).log2)) ∧
    (∃ t : State, exec (.adminQueueEnable f false n) s = .next t ∧ (t.fn f).enable = false ∧ (t.fn f).p = (s.fn f).p ∧
      (t.fn f).c = (s.fn f).c)) ∧
  (∀ (s : State) (b : Nat), s.fnDecoded = true → exec (.bar4WindowWrite b) s = .next { s with bar4Base := b % 2 ^ 19 }) ∧
  (∀ (s : State) (off n : Nat) (d : List Byte), s.mod.hostUp = false ∨ s.mod.memTrained = false →
    exec (.bar4Write off d) s = .next s ∧ exec (.bar4Read off n) s = .next s) ∧
  (∀ (s : State) (off n : Nat) (d : List Byte), s.mod.hostUp = true → s.mod.memTrained = true → n = d.length →
    off + n ≤ 2 ^ 36 →
    (s.bar4Bad (s.bar4Base * 2 ^ 21 + off) n = true →
      exec (.bar4Write off d) s = .next { s with bar4Blocked := satAdd 32 s.bar4Blocked 1 } ∧
      exec (.bar4Read off n) s =
        .next (({ s with bar4Blocked := satAdd 32 s.bar4Blocked 1 } : State).emit (.bar4Data (List.replicate n 0)))) ∧
    (s.bar4Bad (s.bar4Base * 2 ^ 21 + off) n = false → 0 < n → off % 128 + n ≤ 128 →
      ((∀ l, s.cached ((s.bar4Base * 2 ^ 21 + off) / 128) = some l → l.data.length = 128) →
        ∃ t : State, exec (.bar4Write off d) s = .next t ∧ t.ctxs = s.ctxs ∧ t.bar4Blocked = s.bar4Blocked ∧
          ∀ i, i < n → t.homeByte (s.bar4Base * 2 ^ 21 + off + i) = d.getD i 0) ∧
      (s.poisoned (s.bar4Base * 2 ^ 21 + off) n = false → ∃ t : State, t.ctxs = s.ctxs ∧ t.bar4Blocked = s.bar4Blocked ∧
        exec (.bar4Read off n) s = .next (t.emit (.bar4Data (s.homeBytes (s.bar4Base * 2 ^ 21 + off) n)))))) ∧
  (∀ (s : State) (a n : Nat), s.bar4Bad a n = true ↔ memBytes < a + n ∨ s.meetsReserved a n = true) ∧
  (∀ (s : State) (f e : Nat), s.fnDecoded = true → (s.fn f).enabled = true → e < s.vectors f →
    ∃ t : State, (tabGet (t.fn f).vectors Vector.reset e).masked = false ∧
      (tabGet (t.fn f).vectors Vector.reset e).pending = false ∧ (t.fn f).msixEnable = true ∧ (t.fn f).funcMask = false ∧
      t.ctxs = s.ctxs ∧ t.sent = s.sent ∧
      exec (.msixUnmask f e) s =
        .next (if (tabGet (s.fn f).vectors Vector.reset e).pending then t.emit (.msix f e) else t)) ∧
  (∀ (s : State) (f : Nat), (s.fn f).enabled = true → f ≠ 0 →
    ∃ t : State, exec (.functionLevelReset f) s = .next t ∧ (t.fn f).vectors = [] ∧ (t.fn f).msixEnable = false ∧
      (t.fn f).funcMask = false ∧ t.nVf = s.nVf ∧ ∀ c, (s.ctx c).fn = f → (t.ctx c).st = .free) ∧
  (∀ (s : State), tabWf Ctx.free s.ctxs = true → (s.fn 0).enabled = true →
    ∃ t : State, exec (.functionLevelReset 0) s = .next t ∧ t.nVf = 0 ∧ (t.fn 0).vectors = [] ∧ (t.fn 0).msixEnable = false ∧
      ∀ c, (t.ctx c).st = .free) ∧
  (∀ (s : State) (f : Nat), (s.fn f).enabled = false → exec (.functionLevelReset f) s = .next s) ∧
  (∀ (s : State), tabWf Ctx.free s.ctxs = true → ∃ t : State, exec .vfDisable s = .next t ∧ t.nVf = 0 ∧
    (∀ c, (t.ctx c).fn = 0 ∧ ((s.ctx c).fn ≠ 0 → (t.ctx c).st = .free)) ∧ (∀ f, f ≠ 0 → t.fn f = Fn.reset)) ∧
  (∀ (s : State) (p i n : Nat), ∃ t : State, exec (.atsInvalidation p i n) s = .next t ∧ (p, i, n) ∈ t.invalid ∧
    (∀ e, e ∈ t.ats ↔ e ∈ s.ats ∧ ¬ (e.1 = p ∧ e.2 * 4096 < i + n ∧ i < (e.2 + 1) * 4096)) ∧ t.ctxs = s.ctxs ∧
    t.hostMem = s.hostMem)

/-- REGISTER_WRITE: access codes, sizes, decoding before an image, and the fields of each block (R13, R221, R222,
R307, R376, R406, R429, R469, R470, R471, R476, R488). -/
def Obligations.RegisterWritesChangeOnlyWhatTheirFieldsPermit : Prop :=
  (∀ (s : State) (f off n : Nat) (v : Word64), (s.fn f).enabled = true → s.mod.hostUp = true →
    ((n ≠ 4 ∧ n ≠ 8) ∨ off % n ≠ 0 → exec (.registerWrite f off n v) s = .next (s.countBad f)) ∧
    (∀ a, n = 4 ∨ n = 8 → off % n = 0 → busAddr f off = some a → s.sec.running = none → 0x20000 ≤ a → inWindow a = false →
      exec (.registerWrite f off n v) s = .next (s.countBad f)) ∧
    (∀ a, n = 4 ∨ n = 8 → off % n = 0 → busAddr f off = some a → s.sec.running ≠ none → s.hal.reloading = true →
      accessHeld a n = true → foreignBlock f a = false →
      exec (.registerWrite f off n v) s = .next (s.defer (.registerWrite f off n v)))) ∧
  (∀ (s : State) (f off n : Nat) (v : Word64), (s.fn f).enabled = false ∨ s.mod.hostUp = false →
    exec (.registerWrite f off n v) s = .next s) ∧
  (∀ (r : Reg) (mask v old : Nat) (f : Fld), f ∈ r.fields →
    f.get (writeFields r.fields mask v old) = if f.within mask then f.written v old else f.get old) ∧
  (∀ (s : State) (a : Nat) (r : Reg) (v : Word64), (s.fn 0).enabled = true → s.mod.hostUp = true → s.sec.running ≠ none →
    s.hal.reloading = false → a < 2 ^ 26 → foreignBlock 0 a = false → regAt a = some (r, 0) → (∀ f ∈ r.fields, f.acc = .ro) →
    (r.width = 64 → a % 8 = 0 → exec (.registerWrite 0 a 8 v) s = .next (s.dropHalf 0)) ∧
    (r.width = 32 → ∃ t : State, exec (.registerWrite 0 a 4 v) s = .next t ∧ t = s.modHal (fun h => { h with half := t.hal.half }))) ∧
  (∀ (s : State) (a : Nat) (v : Word64), (s.fn 0).enabled = true → s.mod.hostUp = true → 0x3800000 ≤ a → a + 8 ≤ 0x4000000 →
    a % 8 = 0 → s.hal.reloading = false → exec (.registerWrite 0 a 8 v) s =
      .next (s.modSec (fun x => { x with fwWindow := tabWrite x.fwWindow 0 (a - 0x3800000) (leBytes 8 v.toNat) }))) ∧
  (∀ (s : State) (v : Word64), (s.fn 0).enabled = true → s.mod.hostUp = true → s.sec.running ≠ none →
    s.hal.reloading = false →
    (exec (.registerWrite 0 0xC 4 v) s = .next ((s.dropHalf 0).modHal (fun h => { h with
      devAlert := h.devAlert &&& ~~~(v.setWidth 7) }))) ∧
    (s.stackLocal < 256 → s.localActive < 256 → v.toNat % 256 ≤ 128 → v.getLsbD 16 = false → exec (.registerWrite 0 0x30000 4 v) s =
      .next { s.dropHalf 0 with stackLocal := v.toNat % 256 }) ∧
    (128 < v.toNat % 256 → exec (.registerWrite 0 0x30000 4 v) s = .next { s.dropHalf 0 with layoutRejected := true }) ∧
    (v.getLsbD 6 = false → ∃ t : State, exec (.registerWrite 0 0x30004 4 v) s = .next t ∧ t.keepCap = min (v.toNat % 16) 12 ∧
      t.deadPoison = v.getLsbD 4 ∧ (12 < v.toNat % 16 → t.capClamped = true) ∧ t.slices = s.slices ∧ t.dram = s.dram) ∧
    (∃ t : State, exec (.registerWrite 0 0x60000 4 v) s = .next t ∧ t.timed.refDomain = bvFld v 16 16 ∧
      t.timed.wdogExp = (if 16 ≤ v.toNat % 32 ∧ v.toNat % 32 ≤ 30 then v.toNat % 32 else s.timed.wdogExp) ∧
      t.power = s.power ∧ t.dram = s.dram) ∧
    (∃ t : State, exec (.registerWrite 0 0x70000 4 v) s = .next t ∧ t.power.enable = v.getLsbD 0 ∧
      t.power.guard = bvFld v 1 5 ∧ t.power.minRatio = (if 60 < bvFld v 6 6 then s.power.minRatio else bvFld v 6 6) ∧
      t.power.predict = v.getLsbD 12 ∧ t.timed = s.timed ∧ t.dram = s.dram) ∧
    (v.getLsbD 36 = false → (900 ≤ v.toNat % 4096 ∧ v.toNat % 4096 ≤ 2800 →
        ∃ t : State, exec (.registerWrite 0 0x70008 8 v) s = .next t ∧ t.power.hostCap = v.toNat % 4096 ∧
          t.power.mgmtCap = s.power.mgmtCap ∧ t.dram = s.dram) ∧
      (v.toNat % 4096 < 900 ∨ 2800 < v.toNat % 4096 →
        ∃ t : State, exec (.registerWrite 0 0x70008 8 v) s = .next t ∧ t.power.hostCap = s.power.hostCap ∧
          t.power.capRejected = true)) ∧
    (∃ t : State, exec (.registerWrite 0 0x80000 4 v) s = .next t ∧ t.hal.nSteps = bvFld v 8 8 ∧
      t.hal.seepLevel = (if 5 < bvFld v 0 3 then s.hal.seepLevel else bvFld v 0 3) ∧
      t.hal.pondW = (if bvFld v 16 8 = 0 then s.hal.pondW else bvFld v 16 8) ∧ t.power = s.power ∧ t.dram = s.dram) ∧
    (∀ k, k < 12 → ∃ t : State, exec (.registerWrite 0 (0xA0000 + 4 * k) 4 v) s = .next t ∧
      (t.headworks k).enable = v.getLsbD 0 ∧ (t.headworks k).grainSeen = ((s.headworks k).grainSeen && !v.getLsbD 2) ∧
      (t.headworks k).job = (s.headworks k).job ∧ t.dram = s.dram) ∧
    (v.getLsbD 24 = s.fab.pathAdapt → ∃ t : State, exec (.registerWrite 0 0x50000 4 v) s = .next t ∧
      t.fab.reqTimeout = (if bvFld v 0 8 = 0 then s.fab.reqTimeout else bvFld v 0 8) ∧
      t.fab.retainGrace = bvFld v 8 16 ∧ t.fab.ports = s.fab.ports ∧ t.dram = s.dram) ∧
    (∀ i, i < 128 → ∃ t : State, exec (.registerWrite 0 (0x1000200 + 4 * i) 4 v) s = .next t ∧
      ∀ b, b ∈ (t.fn 0).pendingFaults ↔ b ∈ (s.fn 0).pendingFaults ∧ (b / 32 = i → v.getLsbD (b % 32) = false)) ∧
    exec (.registerWrite 0 0x1000010 8 v) s = exec (.adminDoorbell 0 8 v) (s.dropHalf 0))

/-- Sluices, event lines, Halnor's events and the resets of groups (R32, R33, R34, R35, R36, R37, R38, R40, R41,
R42, R44, R47). -/
def Obligations.SluicesReleaseItemsAtTheirTick : Prop :=
  (∀ (s : State) (i : SluiceId) (timed : Bool) (b : List Byte) (dest : Option (Nat × Nat)) (w : Payload),
    w = (match dest with
      | some x => .scratch x.1 x.2 b
      | none => .bytes b) →
    (s.sluiceDelay i = none ∨ 256 < b.length ∨ s.linkDown i = true → exec (.sluiceSend i timed b dest) s = .next s) ∧
    (∀ d, s.sluiceDelay i = some d → b.length ≤ 256 → s.linkDown i = false →
      (s.room i = true → (s.sluice i).waiting = [] ∨ (timed = true ∧ i.kind ≠ .free) → ∃ (t : State) (it : Item),
        exec (.sluiceSend i timed b dest) s = .next t ∧ (t.sluice i).items.getLast? = some it ∧
        (t.sluice i).items.length = (s.sluice i).items.length + 1 ∧
        (t.sluice i).wptr = nextGray (s.sluice i).wptr ∧ (t.sluice i).rptr = (s.sluice i).rptr ∧
        it.stamp = BitVec.ofNat 16 (s.stampCount i) ∧ it.delay = d ∧ it.visible = false ∧
        it.timed = (timed && decide (i.kind ≠ .free)) ∧ it.what = w ∧
        (∀ j, j ≠ i → (t.sluice j).wptr = (s.sluice j).wptr ∧ (t.sluice j).items.length = (s.sluice j).items.length) ∧
        t.tiles = s.tiles) ∧
      (s.room i = false →
        (timed = false ∨ i.kind = .free →
          (s.quiesced i = true → exec (.sluiceSend i timed b dest) s = .next s) ∧
          (s.quiesced i = false → ∃ t : State, exec (.sluiceSend i timed b dest) s = .next t ∧
            (t.sluice i).waiting = (s.sluice i).waiting ++ [w] ∧ (t.sluice i).items = (s.sluice i).items ∧
            (t.sluice i).wptr = (s.sluice i).wptr ∧ t.tiles = s.tiles)) ∧
        (timed = true → i.kind ≠ .free →
          exec (.sluiceSend i timed b dest) s = .next ((s.undoTick i.src).crossingFault .sluiceOverrun i))))) ∧
  (∀ (s : State) (k : Nat) (v : TickStart), (s.tile k).flume.before = some v →
    ((s.undoTick k).tile k).scratch = v.scratch ∧ ((s.undoTick k).tile k).array = v.array) ∧
  (∀ (s : State) (i : SluiceId), (s.room i = true → s.quiesced i = false ∧ s.linkDown i = false ∧
      (s.sluice i).items.length < sluiceDepth i.kind) ∧
    (i.kind = .port → (∀ p, sluicePort i = some p → (s.port p).up = false) → s.linkDown i = true)) ∧
  (∀ (s : State) (c : Code) (i : SluiceId) (r : Region), s.timed.region = some r → (s.ctx r.ctx).st = .resident →
    (s.ctx r.ctx).fault = none → ∃ f, ((s.crossingFault c i).ctx r.ctx).fault = some f ∧ f.code = c ∧
      (s.crossingFault c i).timed.region = none ∧ ((s.crossingFault c i).ctx r.ctx).st = .stopped ∧
      (s.crossingFault c i).dram = s.dram ∧ (c = .sluiceLate →
        ∃ e, (s.crossingFault c i).hal.log.head? = some e ∧ e.kind = .sluiceLate)) ∧
  (∀ (x : BitVec 16), ofGray (toGray x) = x ∧ nextGray (toGray x) = toGray (x + 1)) ∧
  (∀ (s : State), s.sluiceDelay ⟨.mesh, 0, 1, 0⟩ = some 4 ∧ s.sluiceDelay ⟨.mesh, 0, 2303, 0⟩ = some 105 ∧
    s.sluiceDelay ⟨.mesh, 23, 24, 0⟩ = some 8) ∧
  (∀ (a b : Nat × Nat × Nat), a.1 / 24 = b.1 / 24 → a.2.1 / 24 = b.2.1 / 24 →
    pathDelay a b = 3 + (apart a.1 b.1 + apart a.2.1 b.2.1 + a.2.2 + b.2.2)) ∧
  (∀ (s : State) (i : SluiceId), (s.crossingRuns i = false → exec (.itemVisible i) s = .next s ∧
      exec (.sluiceRelease i) s = .next s) ∧
    ((∀ it ∈ (s.sluice i).items, it.visible = true) → exec (.itemVisible i) s = .next s) ∧
    ((∀ it ∈ (s.sluice i).items, it.visible = false ∧ it.timed = false) → exec (.sluiceRelease i) s = .next s)) ∧
  (∀ (s : State) (x : Sluice) (it : Item), s.nextSeen x = some it → it ∈ x.items ∧ it.visible = false) ∧
  (∀ (s : State) (i : SluiceId) (it : Item), s.nextSeen (s.sluice i) = some it → s.crossingRuns i = true →
    (i.kind ≠ .free → ∃ (t : State) (a b : List Item), exec (.itemVisible i) s = .next t ∧
      (s.sluice i).items = a ++ it :: b ∧ (t.sluice i).items = a ++ { it with visible := true } :: b ∧
      (t.sluice i).seenW = nextGray (s.sluice i).seenW ∧ t.timed = s.timed ∧ t.tiles = s.tiles ∧
      (s.running = true → s.wet.toNat = it.arrive → t.tick = s.tick + BitVec.ofNat 64 (syncTicks i s.tick.toNat))) ∧
    (i.kind = .free → ∀ b, it.what = .bytes b → (s.sluice i).waiting = [] → ∃ t : State, exec (.itemVisible i) s = .next t ∧
      (t.sluice i).items.length + 1 = (s.sluice i).items.length ∧ (t.sluice i).rptr = nextGray (s.sluice i).rptr ∧
      t.tiles = s.tiles)) ∧
  (∀ (i : SluiceId) (k : Nat), syncTicks i k = 1 ∨ syncTicks i k = 2) ∧
  (∀ (s u : State) (i : SluiceId) (it : Item), (s.sluice i).nextOut = some it → s.crossingRuns i = true →
    u = (if i.kind = .free then s else s.passWet (it.delay - s.itemAge i it)) →
    (it.timed = true → it.delay < s.itemAge i it →
      exec (.sluiceRelease i) s = .next ((s.takeItem i it).crossingFault .sluiceLate i)) ∧
    (it.timed = false ∨ s.itemAge i it ≤ it.delay →
      (it.visible = true → exec (.sluiceRelease i) s = .next ((u.releaseEarlier i).releaseItem i it)) ∧
      (it.visible = false → exec (.sluiceRelease i) s = .next ((u.takeItem i it).crossingFault .sluiceLate i)))) ∧
  (∀ (s : State) (i : SluiceId) (it : Item), ((s.takeItem i it).sluice i).items = (s.sluice i).items.erase it ∧
    ((s.takeItem i it).sluice i).rptr = nextGray (s.sluice i).rptr ∧ (s.takeItem i it).tiles = s.tiles ∧
    (∀ b, (s.sluice i).waiting = [] → it.what = .bytes b → s.releaseItem i it = s.takeItem i it)) ∧
  (∀ (s : State) (i : SluiceId) (t off : Nat) (d : List Byte) (r : Region), i.kind ≠ .port → s.timed.region = some r →
    (t ∈ r.tiles → (s.tile t).flume.stopped = false → off + d.length ≤ (s.tile t).flume.size →
      tabRange ((s.deliver i (.scratch t off d)).tile t).scratch 0 ((s.tile t).flume.base + off) d.length = d ∧
      (s.deliver i (.scratch t off d)).timed = s.timed ∧ ∀ t', t' ≠ t → (s.deliver i (.scratch t off d)).tile t' = s.tile t') ∧
    (t ∉ r.tiles ∨ (s.tile t).flume.size < off + d.length → (s.tile t).flume.stopped = false →
      (s.deliver i (.scratch t off d)).timed.region = none)) ∧
  (∀ (s : State) (l : Nat), (s.running = false → exec (.eventLineToggle l) s = .next s) ∧
    (s.running = true → (tabGet s.lines EventLine.idle l).last + 4 < 2 ^ 64 → ∃ t : State, exec (.eventLineToggle l) s = .next t ∧
      (tabGet t.lines EventLine.idle l).level = !(tabGet s.lines EventLine.idle l).level ∧
      (tabGet t.lines EventLine.idle l).pulses = (tabGet s.lines EventLine.idle l).pulses + 1 ∧
      (tabGet t.lines EventLine.idle l).last = t.tick.toNat ∧
      ((tabGet s.lines EventLine.idle l).pulses ≠ 0 → (tabGet s.lines EventLine.idle l).last + 4 ≤ t.tick.toNat))) ∧
  (∀ (s : State), s.hal.events = [] ∨ s.running = false → exec .halnorEventApply s = .next s) ∧
  (∀ (s : State) (p k t : Nat) (rest : List HalnorEvent), s.hal.events = .ratio p k t :: rest → s.running = true →
    (s.tick.toNat < t → t < 2 ^ 64 → (∀ p' k' t', .ratio p' k' t' ∈ rest → t' ≠ t) → ∃ u : State,
      exec .halnorEventApply s = .next u ∧ u.tick.toNat = t ∧ u.power.applied = k ∧ .ratio p k t ∉ u.hal.events) ∧
    (t ≤ s.tick.toNat → ∃ u : State, exec .halnorEventApply s = .next u ∧ u.timed.region = none ∧ u.hal.events = rest ∧
      u.power = s.power ∧ ∃ e, u.hal.log.head? = some e ∧ e.kind = .sluiceLate)) ∧
  (∀ (s : State) (g : ResetGroup) (esc : Bool),
    (s.mod.pg = false ∨ s.mayReset g = false ∨ (∃ x, (g, x) ∈ s.hal.resets) → exec (.resetGroupRequest g esc) s = .next s) ∧
    (s.mod.pg = true → s.mayReset g = true → (∀ x, (g, x) ∉ s.hal.resets) → ∃ t : State,
      exec (.resetGroupRequest g esc) s = .next t ∧ t.hal.resets = s.hal.resets ++ [(g, .quiescing s.tick.toNat esc)] ∧
      t.tiles = s.tiles ∧ t.sluices = s.sluices ∧ ∀ i, drainsWith g i = true → t.quiesced i = true)) ∧
  (∀ (s : State) (t : Nat), s.kernels ≠ [] → (∀ e ∈ s.ctxs, e.2.kind ≠ 3) → s.mayReset (.tile t) = false) ∧
  (∀ (s : State), s.hal.resets = [] → exec .resetGroupDrained s = .next s ∧ exec .resetGroupDrainTimeout s = .next s) ∧
  (∀ (s u : State) (g : ResetGroup) (x : GroupState) (rest : List (ResetGroup × GroupState)), s.hal.resets = (g, x) :: rest →
    u = { s with hal := { s.hal with resets := rest } } →
    ((∃ e ∈ s.sluices, drainsWith g e.1 = true ∧ e.2.items ≠ []) → exec .resetGroupDrained s = .next s) ∧
    ((∀ e ∈ s.sluices, drainsWith g e.1 = true → e.2.items = []) →
      exec .resetGroupDrained s = .next ((u.clearBoundary g).groupReset g)) ∧
    (∀ since esc, x = .quiescing since esc →
      (s.running = true → s.tick.toNat < since + 65536 → exec .resetGroupDrainTimeout s = .next s) ∧
      (since + 65536 ≤ s.tick.toNat → esc = true →
        exec .resetGroupDrainTimeout s = .next ((u.logEntry .resetFailed []).emit (.resetFailed g)).computeReset) ∧
      (since + 65536 ≤ s.tick.toNat → esc = false → ∃ t : State, exec .resetGroupDrainTimeout s = .next t ∧
        t.hal.resets = rest ∧ .resetFailed g ∈ t.sent ∧ t.tiles = s.tiles ∧ t.dram = s.dram))) ∧
  (∀ (s : State) (g : ResetGroup) (i : SluiceId), onBoundary g i = true → (s.clearBoundary g).sluice i = Sluice.empty ∧
    (s.clearBoundary g).tiles = s.tiles) ∧
  (∀ (s : State) (t : Nat), t < 2304 → (s.groupReset (.tile t)).tile t = Tile.reset ∧
    ∀ t', t' ≠ t → (s.groupReset (.tile t)).tile t' = s.tile t')

/-- The epoch of a partition, its probes and offsets, reference drift, and a launch's messages (R288, R294, R295,
R296, R297, R300, R308, R412). -/
def Obligations.TheEpochAlignsTheJobCounts : Prop :=
  (∀ (s : State), s.running = false ∨ s.fab.partValid = false ∨ s.timed.started = true ∨ s.probesMayStart = false →
    exec .epochStart s = .next s) ∧
  (∀ (s : State), s.power.contribution ≠ 0 ∨ s.power.applied ≠ 0 ∨ (∃ e ∈ s.power.agreements, ∃ k, e.2 = some k ∧ k ≠ 0) →
    s.probesMayStart = false) ∧
  (∀ (s : State), s.running = true → s.fab.partValid = true → s.timed.started = false → s.probesMayStart = true →
    (s.timed.root = true → ∃ t : State, exec .epochStart s = .next t ∧ t.jobTick + 1048576 = 0 ∧ t.jobWet + 1048576 = 0 ∧
      t.tick = s.tick ∧ t.timed.started = true ∧ t.timed.offsetsSet = true ∧ t.power.agreed = true ∧
      t.power.agreements = [] ∧ t.hal.events = [] ∧
      (∀ p, p < 18 → (s.port p).up = true → .probe p t.jobTick t.jobWet [t.power.applied, 0, 0] ∈ t.sent) ∧
      (s.timed.children = [] → t.timed.valid = true) ∧ t.tiles = s.tiles ∧ t.dram = s.dram) ∧
    (s.timed.root = false → ∃ t : State, exec .epochStart s = .next t ∧ t.timed.started = true ∧ t.timed.offsetsSet = false ∧
      t.timed.probes = 0 ∧ t.sent = .probe s.timed.parent s.jobTick s.jobWet s.ratiosPassed :: s.sent ∧ t.power = s.power)) ∧
  (∀ (s : State) (p : Nat) (jt jw v : Word64) (e : ProbeResult),
    (s.running = false ∨ s.timed.started = false ∨ (s.port p).up = false →
      exec (.epochProbe p jt jw v e) s = .next s) ∧
    (s.running = true → s.timed.started = true → (s.port p).up = true → s.timed.offsetsSet = false →
      (p ≠ s.timed.parent → exec (.epochProbe p jt jw v e) s = .next s) ∧
      (p = s.timed.parent → ∃ t : State, exec (.epochProbe p jt jw v e) s = .next t ∧ t.timed.probes = s.timed.probes + 1 ∧
        t.timed.largestIn = (if s.timed.probes = 0 then (v + s.timed.offset - jt).toInt
          else max s.timed.largestIn (v + s.timed.offset - jt).toInt) ∧
        t.timed.largestOut = (if s.timed.probes = 0 then e.latency.toInt else max s.timed.largestOut e.latency.toInt) ∧
        t.timed.dryDiff = jt - jw ∧ t.timed.passed = e.ratios ∧ t.timed.offset = s.timed.offset ∧ t.sent.length = s.sent.length + 1)) ∧
    (s.running = true → s.timed.started = true → (s.port p).up = true → s.timed.offsetsSet = true →
      (∀ c, (p, c) ∈ s.timed.children → c ∉ s.timed.reported → ∃ t : State, exec (.epochProbe p jt jw v e) s = .next t ∧
        (∀ q, t.port q = s.port q) ∧ t.timed = s.timed ∧ t.sent.length = s.sent.length + 1) ∧
      (s.timed.children = [] → ∃ t : State, exec (.epochProbe p jt jw v e) s = .next t ∧
        (t.port p).fitMaxOut = max (s.port p).fitMaxOut e.latency.toInt.toNat ∧
        (t.port p).fitMaxIn = max (s.port p).fitMaxIn (v + s.timed.offset - jt).toInt.toNat ∧
        ((s.port p).cls ≠ 0 → (s.port p).cls < (t.port p).fitMaxOut + 2 → (t.port p).cls = 0 ∧ (t.port p).unfit = true) ∧
        t.timed = s.timed))) ∧
  (∀ (s : State),
    (s.running = false ∨ s.timed.root = true ∨ s.timed.started = false ∨ s.timed.offsetsSet = true ∨ s.timed.probes < 64 →
      exec .epochOffsetsSet s = .next s) ∧
    (s.running = true → s.timed.started = true → s.timed.offsetsSet = false → s.timed.root = false → 64 ≤ s.timed.probes →
      ∃ t : State, exec .epochOffsetsSet s = .next t ∧ t.timed.offsetsSet = true ∧ t.tick = s.tick ∧
        t.timed.offset = s.timed.offset +
          BitVec.ofInt 64 ((s.timed.largestIn + s.timed.largestOut + 1) / 2 - s.timed.largestIn) ∧
        t.jobTick - t.jobWet = s.timed.dryDiff ∧ t.power.agreed = true ∧ t.power.applied = min 60 (s.timed.passed.getD 0 0) ∧
        (∀ i, i ∈ [1, 2] → tabGet t.power.agreements none (t.periodNow + i) = some (min 60 (s.timed.passed.getD i 0))) ∧
        (s.timed.children = [] → s.timed.valid = false → t.timed.valid = true ∧ .epochReport ∈ t.sent) ∧
        t.tiles = s.tiles ∧ t.dram = s.dram)) ∧
  (∀ (s : State) (c : Nat),
    (s.timed.started = false ∨ (∀ p, (p, c) ∉ s.timed.children) → exec (.epochCompletionReport c) s = .next s) ∧
    (s.timed.started = true → (∃ p, (p, c) ∈ s.timed.children) → ∃ t : State,
      exec (.epochCompletionReport c) s = .next t ∧ c ∈ t.timed.reported ∧
      ((∀ x ∈ s.timed.children, x.2 = c ∨ x.2 ∈ s.timed.reported) → s.timed.offsetsSet = true → t.timed.valid = true) ∧
      ((∃ x ∈ s.timed.children, x.2 ≠ c ∧ x.2 ∉ s.timed.reported) → t.timed.valid = s.timed.valid) ∧
      t.timed.offset = s.timed.offset ∧ t.tiles = s.tiles)) ∧
  (∀ (s : State),
    (s.fab.partValid = false ∨ s.timed.valid = true ∨ s.hal.ms < s.timed.formedAt + 50 → exec .epochTimeout s = .next s) ∧
    (s.fab.partValid = true → s.timed.valid = false → s.timed.formedAt + 50 ≤ s.hal.ms → ∃ t : State,
      exec .epochTimeout s = .next t ∧ t.timed.started = false ∧ t.timed.offset = 0 ∧ t.power.agreed = false ∧
      t.sent = .epochFailed :: s.sent ∧ t.tiles = s.tiles)) ∧
  (∀ (s : State) (p l : Nat),
    (l ≤ (s.port p).fitMaxIn + 3 → (s.port p).fitMaxIn ≤ l + 3 → exec (.referenceDrift p l false) s = .next s) ∧
    ((s.port p).fitMaxOut = 0 ∨ (s.port p).up = false ∨ (s.port p).unfit = true → exec (.referenceDrift p l true) s = .next s) ∧
    ((s.port p).up = true → (s.port p).unfit = false → (s.port p).cls ≠ 0 → (s.port p).fitMaxOut ≠ 0 →
      (s.port p).fitMaxOut + 3 < l → ∃ t : State, exec (.referenceDrift p l true) s = .next t ∧ (t.port p).refOk = false ∧
        t.timed.refDrift = true ∧
        (∀ r, s.timed.region = some r → r.portClass.getD p 0 ≠ 0 → t.timed.region = none) ∧
        (s.timed.region = none → t.ctxs = s.ctxs))) ∧
  (∀ (s : State) (d : Nat) (r : Region), s.timed.region = some r → r.stage = .ready → r.logical = 0 →
    ((∃ x ∈ r.map, x ≠ d ∧ x ∉ s.timed.readies) → ∃ t : State, exec (.readyMessage d) s = .next t ∧ t.timed.region = some r ∧
      d ∈ t.timed.readies ∧ t.sent = s.sent) ∧
    ((∀ x ∈ r.map, x = d ∨ x ∈ s.timed.readies) → ∃ t : State, exec (.readyMessage d) s = .next t ∧
      t.timed.region = some { r with stage := .entry (s.jobTick + 131072) } ∧ t.timed.readies = [] ∧
      (r.devices ≠ 1 → t.sent = .entryTick (s.jobTick + 131072) :: s.sent) ∧ t.tiles = s.tiles) ∧
    (∃ t : State, exec (.refusedMessage d) s = .next t ∧ t.timed.region = none ∧ .abort none ∈ t.sent)) ∧
  (∀ (s : State) (d : Nat), s.timed.region = none →
    (s.timed.root = false → exec (.readyMessage d) s = .next s ∧ exec (.refusedMessage d) s = .next s) ∧
    (s.timed.root = true → (∃ t : State, exec (.readyMessage d) s = .next t ∧ d ∈ t.timed.readies ∧ t.sent = s.sent) ∧
      (∃ t : State, exec (.refusedMessage d) s = .next t ∧ t.timed.readies = [] ∧ t.sent = .abort none :: s.sent))) ∧
  (∀ (s : State) (d : Nat) (r : Region), s.timed.region = some r → r.logical ≠ 0 →
    exec (.readyMessage d) s = .next s ∧ exec (.refusedMessage d) s = .next s) ∧
  (∀ (s : State) (k : Word64) (r : Region), s.timed.region = some r →
    (r.stage ≠ .ready ∨ r.logical = 0 → exec (.entryTickMessage k) s = .next s) ∧
    (r.stage = .ready → r.logical ≠ 0 →
      (4096 ≤ (k - s.jobTick).toInt → ∃ t : State, exec (.entryTickMessage k) s = .next t ∧
        t.timed.region = some { r with stage := .entry k } ∧
        (s.timed.children ≠ [] → .entryTick k ∈ t.sent) ∧ t.tiles = s.tiles) ∧
      ((k - s.jobTick).toInt < 4096 → (s.ctx r.ctx).st = .resident → (s.ctx r.ctx).fault = none →
        ∃ (t : State) (f : FaultRec), exec (.entryTickMessage k) s = .next t ∧ t.timed.region = none ∧
          (t.ctx r.ctx).fault = some f ∧ f.code = .timedLaunch ∧ f.detail = 10 ∧ f.queue = r.queue ∧
          .refused s.fab.deviceId ∈ t.sent))) ∧
  (∀ (s : State) (k : Word64) (r : Region), s.timed.region = some r → r.stage = .entry k → s.running = true →
    (s.jobTick = k → s.dryNow = false →
      ∃ t : State, exec .regionEntry s = .next t ∧ t.tick = s.tick ∧
        t.timed.region = some { r with stage := .running, entryWet := s.jobWet.toNat, idle := s.wet.toNat } ∧
        (∀ x ∈ r.tiles, (t.tile x).flume.lastTick = s.jobWet.toNat) ∧ (∀ x, x ∉ r.tiles → t.tile x = s.tile x)) ∧
    (∃ t : State, exec .regionEntry s = .next t ∧ t.dram = s.dram ∧ t.ctxs = s.ctxs ∧
      ∃ r', t.timed.region = some r' ∧ r'.stage = .running)) ∧
  (∀ (s : State), s.timed.region = none ∨ s.running = false ∨ (∃ r, s.timed.region = some r ∧ ∀ k, r.stage ≠ .entry k) →
    exec .regionEntry s = .next s)

/-- Timed regions: the launch and its refusals, program fetch, the end, aborts and the watchdog (R4, R287, R288,
R290, R291, R300, R302, R303, R304, R350, R509). -/
def Obligations.RegionsLaunchFetchAndEnd : Prop :=
  (∀ (s s1 s2 s3 s4 s5 : State) (c q scan : Nat) (x : BitVec 512) (par d m tab : List Byte) (ts : List TileEntry)
      (map : List Nat), s.hal.reloading = false → s.accepts c q x 0x03 (some 2) [(448, 64)] →
    s.readStruct c (bvFld x 384 64) 48 = (.ok par, s1) →
    (s1.paramsMatch par 0 = false → exec (.descFlume c q x) s = .next (s1.descFault c q x .paramMismatch 0 0)) ∧
    (s1.paramsMatch par 0 = true → s1.readStruct c (bvFld x 192 64) 256 = (.ok d, s2) →
      (imageBad d = true → exec (.descFlume c q x) s =
        .next ((s2.emit (.refused s2.fab.deviceId)).descFault c q x .timedLaunch 1 0)) ∧
      (imageBad d = false → s2.readStruct c (bvFld x 256 64) (2 * imageDevices d) = (.ok m, s3) →
        map = (List.range (imageDevices d)).map (fun i => u16At m (2 * i)) →
        s3.readStruct c (u64At d 24) (32 * imageTiles d) = (.ok tab, s4) →
        ts = (List.range (imageTiles d)).map (fun i => tileEntry (sliceAt tab (32 * i) 32)) →
        (∀ i, i < imageTiles d → tileEntryBad (sliceAt tab (32 * i) 32) = false) →
        s4.scanAll c (imageUse d) ts = (.ok scan, s5) →
        (∀ reason, reason = firstReason scan (firstReason (if tilesBad d ts then 3 else 0) (s5.launchRefusal c d map ts)) →
          (reason ≠ 0 → exec (.descFlume c q x) s =
            .next ((s5.emit (.refused s5.fab.deviceId)).descFault c q x .timedLaunch reason 0)) ∧
          (reason = 0 → ∃ (t : State) (r : Region), exec (.descFlume c q x) s = .next t ∧ t.timed.region = some r ∧
            r.id = BitVec.ofNat 64 (bvFld x 320 64) ∧ r.ctx = c ∧ r.queue = q ∧ r.length = u64At d 16 ∧
            r.marker = u16At d 14 ∧ r.tiles = ts.map (fun y => y.tile) ∧ r.map = map ∧ r.logical = u32At d 4 ∧
            r.step = (s5.ctx c).step ∧ (t.queue c q).work = some .region ∧
            (∀ y ∈ ts, (t.tile y.tile).flume.active = true ∧ (t.tile y.tile).flume.prog = y.prog ∧
              (t.tile y.tile).flume.base = y.base ∧ (t.tile y.tile).flume.size = y.size)))))) ∧
  (∀ (s : State) (c : Nat) (d : List Byte) (map : List Nat) (ts : List TileEntry),
    (s.timed.region ≠ none → s.launchRefusal c d map ts = 4) ∧
    (s.timed.region = none → 1 < imageDevices d → s.timed.valid = false → s.launchRefusal c d map ts = 5)) ∧
  (∀ (a b : Nat), firstReason 0 b = b ∧ firstReason a 0 = a ∧ (a ≠ 0 → b ≠ 0 → firstReason a b = min a b)) ∧
  (∀ (u : PortUse) (e : BitVec 256), (eKind e = 14 → scanEntry u e = 1) ∧
    (eKind e = 1 → wClass (eWord e) = 8 → wOp (eWord e) = mDiag → scanEntry u e = 2) ∧
    (eKind e = 4 → sendBad u e = false → 2304 ≤ sendTile (eWord e) → scanEntry u e = 3) ∧
    (eKind e = 9 → eArg e = 0 → scanEntry u e = 1)) ∧
  (∀ (s : State) (tile : Nat), s.timed.region = none ∨ s.running = false ∨ (s.tile tile).flume.active = false ∨
    (s.tile tile).flume.fetchEnd = true ∨ 1024 ≤ (s.tile tile).flume.buf.length → exec (.flumeEntryFetch tile) s = .next s) ∧
  (∀ (s u s1 : State) (tile va : Nat) (r : Region) (x : Flume), s.timed.region = some r → s.running = true → tile ∈ r.tiles →
    x = (s.tile tile).flume → x.active = true → x.fetchEnd = false → x.buf.length < 1024 → va = x.prog + 32 * x.fetchAt →
    u = (if x.fetched < 1024 then s else s.waitWet x.fetchFrom) →
    (∀ d, u.fetchEntry r.ctx va = (.ok d, s1) → ∃ t : State, exec (.flumeEntryFetch tile) s = .next t ∧
      (t.tile tile).flume = { (s1.tile tile).flume.fetchNext (entryOf d) with fetchFrom := s1.wet.toNat + 1 } ∧
      t.ctxs = s1.ctxs ∧ t.dram = s1.dram) ∧
    (∀ a, u.fetchEntry r.ctx va = (.error (.page a), s1) → exec (.flumeEntryFetch tile) s =
      .next (s1.abortRegion { faultOf .translationFault 0 with
        tile := tile, where' := BitVec.ofNat 64 va, address := BitVec.ofNat 64 va })) ∧
    (∀ a, u.fetchEntry r.ctx va = (.error (.poison a), s1) → exec (.flumeEntryFetch tile) s =
      .next (s1.abortRegion { faultOf .memUncorrectable 0 with
        tile := tile, where' := BitVec.ofNat 64 va, address := BitVec.ofNat 64 va }))) ∧
  (∀ (x : Flume) (e : BitVec 256), (x.fetchNext e).buf = x.buf ++ [(x.fetchAt, e)] ∧
    (eKind e = 15 → (x.fetchNext e).fetchEnd = true) ∧
    (eKind e = 9 → (x.fetchNext e).fetchAt = x.fetchAt + 1 ∧
      (x.fetchNext e).fetchLoops = (eArg e, x.fetchAt + 1) :: x.fetchLoops) ∧
    (∀ n b l, eKind e = 10 → x.fetchLoops = (n, b) :: l →
      (1 < n → (x.fetchNext e).fetchAt = b ∧ (x.fetchNext e).fetchLoops = (n - 1, b) :: l) ∧
      (n ≤ 1 → (x.fetchNext e).fetchAt = x.fetchAt + 1 ∧ (x.fetchNext e).fetchLoops = l)) ∧
    (eKind e ≠ 15 → eKind e ≠ 9 → eKind e ≠ 10 → (x.fetchNext e).fetchAt = x.fetchAt + 1)) ∧
  (∀ (s : State) (r : Region), s.timed.region = some r →
    (r.stage ≠ .running → exec .regionEnd s = .next s) ∧
    (r.stage = .running → (∃ x ∈ r.tiles, (s.tile x).flume.ended = false) →
      (s.jobWet.toNat < r.entryWet + r.length → exec .regionEnd s = .next s) ∧
      (r.entryWet + r.length ≤ s.jobWet.toNat → (s.ctx r.ctx).st = .resident → (s.ctx r.ctx).fault = none →
        ∃ (t : State) (f : FaultRec), exec .regionEnd s = .next t ∧ t.timed.region = none ∧ (t.ctx r.ctx).fault = some f ∧
          f.code = .scheduleLength)) ∧
    (r.stage = .running → (∀ x ∈ r.tiles, (s.tile x).flume.ended = true) →
      ∀ fin, fin = r.tiles.foldl (fun m x => max m (s.tile x).workEnd) 0 →
      (∀ h, s.hazardBy r fin = some h → exec .regionEnd s = .next (s.drainHazard h)) ∧
      (s.hazardBy r fin = none →
        (s.regionPending r = true → exec .regionEnd s = .next s) ∧
        (s.regionPending r = false → (s.queue r.ctx r.queue).work = some .region → ∃ t : State,
          exec .regionEnd s = .next t ∧ t.timed.region = none ∧ (∀ x ∈ r.tiles, (t.tile x).flume = Flume.idle) ∧
          (t.queue r.ctx r.queue).work = some (.done 0 0 0) ∧ (∀ x, x ∉ r.tiles → t.tile x = s.tile x) ∧
          (s.power.waitBoundary = true → t.power.stepSeen = true)))) ∧
    (∀ h, (s.ctx r.ctx).st = .resident → (s.ctx r.ctx).fault = none → ∃ f, ((s.drainHazard h).ctx r.ctx).fault = some f ∧
      f.code = .basinHazard ∧ f.tile = h.2.1 ∧ f.where' = BitVec.ofNat 64 h.2.2 ∧ (s.drainHazard h).timed.region = none) ∧
    ((s.ctx r.ctx).st = .resident → (s.ctx r.ctx).fault = none → ∃ (t : State) (f : FaultRec),
      exec .regionAbortMessage s = .next t ∧ t.timed.region = none ∧ (t.ctx r.ctx).fault = some f ∧ f.code = .partnerLost ∧
      (∀ x ∈ r.tiles, (t.tile x).flume.active = false ∧ (t.tile x).flume.stopped = true) ∧ .abort none ∈ t.sent) ∧
    (r.stage = .ready ∨ r.stage = .running → r.idle + 2 ^ s.timed.wdogExp ≤ s.wet.toNat → (s.ctx r.ctx).st = .resident →
      (s.ctx r.ctx).fault = none → ∃ (t : State) (f : FaultRec), exec .timedWatchdog s = .next t ∧ t.timed.region = none ∧
        (t.ctx r.ctx).fault = some f ∧ f.code = .timedWatchdog) ∧
    (s.wet.toNat < r.idle + 2 ^ s.timed.wdogExp → exec .timedWatchdog s = .next s)) ∧
  (∀ (s : State), s.timed.region = none → exec .regionEnd s = .next s ∧ exec .timedWatchdog s = .next s ∧
    (s.timed.root = false → exec .regionAbortMessage s = .next s) ∧
    (s.timed.root = true → exec .regionAbortMessage s = .next (s.emit (.abort none))))

/-- The entries of a flume program at their ticks: order, gates, loops, registers, admissions, signals, spans, END
(R90, R114, R288, R289, R290, R291, R292, R293, R301, R316). -/
def Obligations.ProgramEntriesExecuteAtTheirTicks : Prop :=
  (∀ (s : State) (tile : Nat) (op : RowOp) (len src dst : Nat) (d : DmaSpec) (i : Instr) (k : Nat),
    (i, k) ∈ flumeEntries tile op len src dst d →
    (s.timed.region = none ∨ s.running = false ∨ (∃ pos e l, (s.tile tile).flume.buf = (pos, e) :: l ∧ eKind e ≠ k) →
      exec i s = .next s) ∧
    (∀ r x, s.timed.region = some r → s.running = true → r.stage = .running → tile ∈ r.tiles → x = (s.tile tile).flume →
      x.active = true → x.stopped = false → x.ended = false →
      (x.buf = [] → x.fetchEnd = false →
        exec i s = .next (s.entryAbort tile (x.prog + 32 * x.fetchAt) .lateAdmission 2 0)) ∧
      (∀ pos e l, x.buf = (pos, e) :: l → eKind e = k →
        (∀ h, s.hazardBy r (s.wet.toNat + (min (x.lastTick + eDelta e) (r.entryWet + r.length) - s.jobWet.toNat)) = some h →
          exec i s = .next (s.drainHazard h)) ∧
        (r.entryWet + r.length < x.lastTick + eDelta e →
          s.hazardBy r (s.wet.toNat + (r.entryWet + r.length - s.jobWet.toNat)) = none → exec i s =
          .next ((s.passWet (r.entryWet + r.length - s.jobWet.toNat)).entryAbort tile (x.prog + 32 * pos) .scheduleLength 0 0)) ∧
        (x.lastTick + eDelta e ≤ r.entryWet + r.length →
          s.hazardBy r (s.wet.toNat + (x.lastTick + eDelta e - s.jobWet.toNat)) = none →
          gatedKind k = true → x.gates.any id = true →
          ∃ t : State, exec i s = .next t ∧ (t.tile tile).flume.buf = l ∧ (t.tile tile).flume.lastTick = x.lastTick + eDelta e ∧
            (t.tile tile).scratch = (s.tile tile).scratch ∧ t.sluices = s.sluices ∧ t.sync = s.sync)))) ∧
  (∀ k, gatedKind k = true ↔ k ∈ [1, 2, 3, 4, 12, 13]) ∧
  (∀ (s : State) (tile : Nat) (n : Entry) (code : Code) (detail a : Nat) (r : Region), s.timed.region = some r →
    (s.ctx r.ctx).st = .resident → (s.ctx r.ctx).fault = none →
    ∃ f, ((s.entryFault tile n code detail a).ctx r.ctx).fault = some f ∧ f.code = code ∧ f.detail = detail ∧ f.tile = tile ∧
      f.where' = BitVec.ofNat 64 n.place ∧ (s.entryFault tile n code detail a).timed.region = none ∧
      (∀ b, (s.tile tile).flume.before = some b → ((s.entryFault tile n code detail a).tile tile).scratch = b.scratch ∧
        ((s.entryFault tile n code detail a).tile tile).array = b.array)) ∧
  (∀ (s u : State) (tile pos : Nat) (r : Region) (e : BitVec 256) (x : Flume) (n : Entry),
    x = (u.tile tile).flume → n = (s.tile tile).flume.entryAt s.timed.wetOffset pos e →
    (s.entryDue tile 0 r pos e u → exec (.flumeNop tile) s = .next u) ∧
    (s.entryDue tile 6 r pos e u →
      (4 ≤ x.gates.length → exec (.gateBegin tile) s = .next (u.conflict tile n)) ∧
      (x.gates.length < 4 → exec (.gateBegin tile) s = .next (u.modFlume tile (fun x => { x with
        gates := (tabGet x.g 0 (eFlags e % 4) != 0) :: x.gates })))) ∧
    (s.entryDue tile 7 r pos e u →
      (x.gates = [] → exec (.gateEnd tile) s = .next (u.conflict tile n)) ∧
      (x.gates ≠ [] → exec (.gateEnd tile) s = .next (u.modFlume tile (fun x => { x with gates := x.gates.drop 1 })))) ∧
    (s.entryDue tile 8 r pos e u →
      exec (.flumePhase tile) s = .next (if tile = r.marker then u.markPhase (eArg e % 65536) else u)) ∧
    (s.entryDue tile 9 r pos e u →
      (4 ≤ x.loops.length → exec (.loopBegin tile) s = .next (u.conflict tile n)) ∧
      (x.loops.length < 4 → exec (.loopBegin tile) s = .next (u.modFlume tile (fun x => { x with
        loops := (eArg e, pos + 1) :: x.loops })))) ∧
    (s.entryDue tile 10 r pos e u →
      (x.loops = [] → exec (.loopEnd tile) s = .next (u.conflict tile n)) ∧
      (∀ k b l, x.loops = (k, b) :: l → ∃ t : State, exec (.loopEnd tile) s = .next t ∧
        (t.tile tile).flume.loops = (if 1 < k then (k - 1, b) :: l else l) ∧
        (eFlags e % 16 ≠ eFlags e / 16 →
          tabGet (t.tile tile).flume.a 0 (eFlags e % 16) = tabGet x.a 0 (eFlags e % 16) + eOp0 e ∧
          tabGet (t.tile tile).flume.a 0 (eFlags e / 16) = tabGet x.a 0 (eFlags e / 16) + eOp1 e) ∧
        (t.tile tile).scratch = (u.tile tile).scratch)) ∧
    (s.entryDue tile 11 r pos e u → ∃ t : State, exec (.flumeSeta tile) s = .next t ∧
      tabGet (t.tile tile).flume.a 0 (eFlags e % 16) =
        (if bit (eFlags e) 4 then tabGet x.a 0 (eFlags e % 16) + eOp0 e else eOp0 e) ∧
      (∀ k, k ≠ eFlags e % 16 → tabGet (t.tile tile).flume.a 0 k = tabGet x.a 0 k)) ∧
    (s.entryDue tile 15 r pos e u →
      (n.t = r.entryWet + r.length →
        exec (.flumeEnd tile) s = .next (u.modFlume tile (fun x => { x with ended := true }))) ∧
      (n.t ≠ r.entryWet + r.length → exec (.flumeEnd tile) s = .next (u.entryFault tile n .scheduleLength 0 0)))) ∧
  (∀ (s u : State) (tile pos : Nat) (r : Region) (e : BitVec 256) (n : Entry),
    n = (s.tile tile).flume.entryAt s.timed.wetOffset pos e → s.entryDue tile 5 r pos e u →
    ((eWord e).getLsbD 0 = true → tabGet (u.tile tile).flume.slots 0 (eArg e % 16) ≠ 2 →
      exec (.flumeAdmission tile) s = .next (u.entryFault tile n .lateAdmission 1 0)) ∧
    (∀ x, (eWord e).getLsbD 0 = false → u.waitRef r.ctx (eArg e) = .error x → exec (.flumeAdmission tile) s =
      .next ((u.countWaitDenied r.ctx (eArg e) x).entryFault tile n .lateAdmission (0x100 + x) 0)) ∧
    (∀ i h, (eWord e).getLsbD 0 = false → u.waitRef r.ctx (eArg e) = .ok (i, h) →
      (u.syncObj i).value.toNat < n.op0.toNat ∨ poisonBase ≤ (u.syncObj i).value.toNat →
      exec (.flumeAdmission tile) s = .next (u.entryFault tile n .lateAdmission 1 0)) ∧
    (((eWord e).getLsbD 0 = true ∧ tabGet (u.tile tile).flume.slots 0 (eArg e % 16) = 2) ∨
      ((eWord e).getLsbD 0 = false ∧ ∃ i h, u.waitRef r.ctx (eArg e) = .ok (i, h) ∧
        n.op0.toNat ≤ (u.syncObj i).value.toNat ∧ (u.syncObj i).value.toNat < poisonBase) →
      ((eWord e).getLsbD 1 = false → exec (.flumeAdmission tile) s = .next u) ∧
      ((eWord e).getLsbD 1 = true → n.op1.toNat + 8 ≤ (u.tile tile).flume.size → exec (.flumeAdmission tile) s =
        .next (u.modFlume tile (fun x => { x with
          g := tabSet x.g 0 (bvFld (eWord e) 2 2) (BitVec.ofNat 64 (leNat (u.scratchBytes tile ((u.tile tile).flume.base + n.op1.toNat) 8))) }))))) ∧
  (∀ (s u v : State) (tile pos : Nat) (r : Region) (e : BitVec 256) (n : Entry) (id : Option Nat),
    n = (s.tile tile).flume.entryAt s.timed.wetOffset pos e → s.entryDue tile 12 r pos e u →
    u.engineSignal .set (.region tile) r.ctx (eArg e) n.op0 0
      { faultOf .syncDenied 0 with tile := tile, where' := BitVec.ofNat 64 n.place } = (v, id) →
    ∃ t : State, exec (.flumeSignal tile) s = .next t ∧ t.sync = v.sync ∧ t.ctxs = v.ctxs ∧ t.dram = v.dram ∧
      (id = none → t = v)) ∧
  (∀ (s u : State) (tile pos : Nat) (r : Region) (e : BitVec 256) (n : Entry),
    n = (s.tile tile).flume.entryAt s.timed.wetOffset pos e → s.entryDue tile 13 r pos e u →
    ((∃ k ∈ releaseUnits e, (u.tile tile).flume.clash k n.tw = true) →
      exec (.flumeRelease tile) s = .next (u.conflict tile n)) ∧
    ((∀ k ∈ releaseUnits e, (u.tile tile).flume.clash k n.tw = false) → ∃ t : State,
      exec (.flumeRelease tile) s = .next t ∧
      (∀ k, k ∈ [0, 1, 2] → bit (eArg e) k = true → (k, n.tw + n.op0.toNat) ∈ (t.tile tile).flume.released) ∧
      (bit (eArg e) 0 = true → (t.tile tile).flume.loaded = false) ∧
      (t.tile tile).scratch = (u.tile tile).scratch ∧ (t.tile tile).array = (u.tile tile).array)) ∧
  (∀ (s : State) (tile : Nat),
    ((s.tile tile).flume.released = [] ∨ s.running = false → exec (.releaseSpanEnd tile) s = .next s) ∧
    (∀ k fin, s.running = true → (s.tile tile).flume.released = [(k, fin)] → ∃ t : State,
      exec (.releaseSpanEnd tile) s = .next t ∧ (t.tile tile).flume.released = [] ∧
      (k = 0 → (t.tile tile).array.capture = none) ∧ (t.tile tile).array.basin = (s.tile tile).array.basin ∧
      (t.tile tile).scratch = (s.tile tile).scratch))

/-- MATRIX, ROW, DMA and SEND entries: faults, conflicts, hazards, and what each does in its tick (R35, R44, R83,
R84, R85, R112, R123, R124, R277, R289, R290, R509). -/
def Obligations.UnitEntriesUseEachUnitOnceATick : Prop :=
  (∀ (s u : State) (tile pos len src dst k unit : Nat) (op : RowOp) (d : DmaSpec) (r : Region) (e : BitVec 256) (n : Entry)
      (i : Instr), (i, k, unit) ∈ [(.flumeMatrix tile, 1, 0), (.flumeRow tile op len src dst, 2, 2), (.flumeDma tile d, 3, 1),
        (.flumeSend tile, 4, 3 + sendPort (eWord e))] → n = (s.tile tile).flume.entryAt s.timed.wetOffset pos e →
    s.entryDue tile k r pos e u → (u.tile tile).flume.clash unit n.tw = true → exec i s = .next (u.conflict tile n)) ∧
  (∀ (s u v : State) (tile pos : Nat) (r : Region) (e : BitVec 256) (n : Entry) (c : MCmd),
    n = (s.tile tile).flume.entryAt s.timed.wetOffset pos e → s.entryDue tile 1 r pos e u →
    v = u.modFlume tile (fun x => { x with units := 0 :: x.units }) → c = matrixEntry (u.tile tile).flume r n →
    ((u.tile tile).flume.clash 0 n.tw = true → exec (.flumeMatrix tile) s = .next (u.conflict tile n)) ∧
    ((u.tile tile).flume.clash 0 n.tw = false →
      (∀ f, matrixFault (u.tile tile).array.view (u.tile tile).flume.loaded false (u.tile tile).flume.size c = some f →
        exec (.flumeMatrix tile) s = .next (v.entryFault tile n f.1 0 f.2)) ∧
      (matrixFault (u.tile tile).array.view (u.tile tile).flume.loaded false (u.tile tile).flume.size c = none →
        (∀ k, (u.tile tile).array.collides c n.tw = some k →
          exec (.flumeMatrix tile) s = .next (v.entryFault tile n k 0 0)) ∧
        ((u.tile tile).array.collides c n.tw = none → exec (.flumeMatrix tile) s = .next (if c.op = mLoad then
            (v.beginMatrix tile c n.tw (some n.place)).modFlume tile (fun x => { x with loaded := true })
            else v.beginMatrix tile c n.tw (some n.place)))))) ∧
  (∀ (a : MArray) (c : MCmd) (tw : Nat),
    (c.op = mLoad → tw < a.frontFrom (a.loadFmt c.word) → a.collides c tw = some .frontCollision) ∧
    (c.op = mPass → tw < a.entryFrom → a.collides c tw = some .entryCollision) ∧
    (c.op = mDrain → tw < a.rowFree ((a.firstOf c).1 * (a.firstOf c).2) (((a.firstOf c).1 + 1) * (a.firstOf c).2) →
      a.collides c tw = some .basinHazard) ∧ (c.op = mZero → a.collides c tw = none)) ∧
  (∀ (s u v : State) (tile pos len src dst : Nat) (op : RowOp) (r : Region) (e : BitVec 256) (n : Entry),
    n = (s.tile tile).flume.entryAt s.timed.wetOffset pos e → s.entryDue tile 2 r pos e u →
    v = u.modFlume tile (fun x => { x with units := 2 :: x.units }) → (u.tile tile).flume.clash 2 n.tw = false →
    (∀ f, rowFault op len src dst (u.tile tile).flume.size = some f →
      exec (.flumeRow tile op len src dst) s = .next (v.entryFault tile n f.1 0 f.2)) ∧
    (rowFault op len src dst (u.tile tile).flume.size = none →
      (n.t < (u.tile tile).flume.rowBusy → exec (.flumeRow tile op len src dst) s = .next (v.conflict tile n)) ∧
      ((u.tile tile).flume.rowBusy ≤ n.t → n.tw < (u.tile tile).rowOperandFree (u.tile tile).flume.base src len →
        exec (.flumeRow tile op len src dst) s = .next (v.entryFault tile n .basinHazard 0 src)) ∧
      ((u.tile tile).flume.rowBusy ≤ n.t → (u.tile tile).rowOperandFree (u.tile tile).flume.base src len ≤ n.tw →
        exec (.flumeRow tile op len src dst) s = .next ((v.modTile tile (fun _ => (v.nowTile tile).runRow op len
          (u.tile tile).flume.base src dst (n.op0.truncate 32) (n.op1.truncate 32) n.tw)).modFlume tile
            (fun x => { x with rowBusy := n.t + (len + 63) / 64 }))))) ∧
  (∀ (s u v : State) (tile pos : Nat) (d : DmaSpec) (r : Region) (e : BitVec 256) (n : Entry),
    n = (s.tile tile).flume.entryAt s.timed.wetOffset pos e → s.entryDue tile 3 r pos e u →
    v = u.modFlume tile (fun x => { x with units := 1 :: x.units }) → (u.tile tile).flume.clash 1 n.tw = false →
    (tabGet (u.tile tile).flume.slots 0 (eArg e % 16) = 1 → exec (.flumeDma tile d) s = .next (v.conflict tile n)) ∧
    (tabGet (u.tile tile).flume.slots 0 (eArg e % 16) ≠ 1 →
      (∀ f, v.dmaFault d (u.tile tile).flume.size r.ctx none = some f →
        exec (.flumeDma tile d) s = .next (v.entryFault tile n f.1 0 f.2)) ∧
      (v.dmaFault d (u.tile tile).flume.size r.ctx none = none →
        ((u.tile tile).dmaFree = none → exec (.flumeDma tile d) s = .next (v.conflict tile n)) ∧
        (∀ k, (u.tile tile).dmaFree = some k → v.overBudget tile (u.tile tile).flume.base d = some 0 →
          exec (.flumeDma tile d) s = .next (v.entryFault tile n .linkBudget 0 0)) ∧
        (∀ k cut, (u.tile tile).dmaFree = some k → cut = v.overBudget tile (u.tile tile).flume.base d → cut ≠ some 0 →
          ∃ (t : State) (y : Dma), exec (.flumeDma tile d) s = .next t ∧ tabGet (t.tile tile).dma none k = some y ∧
            y.spec = d ∧ y.ctx = r.ctx ∧ y.flume = some (eArg e % 16) ∧
            (∀ m va, cut = some m → d.other = .memory va → y.fault = some (.linkBudget, va)) ∧
            tabGet (t.tile tile).flume.slots 0 (eArg e % 16) = 1 ∧ (t.tile tile).scratch = (u.tile tile).scratch)))) ∧
  (∀ (tile pos : Nat) (r : Region) (d : List Byte), sendData 0 tile pos r d = d ∧ sendData 1 tile pos r d = d ∧
    sendOver 0 tile pos d = false ∧ sendOver 2 tile pos d = false) ∧
  (∀ (s u v : State) (tile pos p dst : Nat) (r : Region) (e : BitVec 256) (n : Entry) (i : SluiceId) (b : List Byte),
    n = (s.tile tile).flume.entryAt s.timed.wetOffset pos e → s.entryDue tile 4 r pos e u → p = sendPort (eWord e) →
    v = u.modFlume tile (fun x => { x with units := (3 + p) :: x.units }) → (u.tile tile).flume.clash (3 + p) n.tw = false →
    tile < 2304 → dst = (if p = 31 then sendTile (eWord e) else 2440 + p) →
    (p = 31 ∧ sendTile (eWord e) < 2304) ∨ p < 18 → i = ⟨.mesh, tile, dst, 0⟩ →
    b = u.scratchBytes tile ((u.tile tile).flume.base + n.op0.toNat) n.op1.toNat →
    (n.op1.toNat = 0 ∨ 256 < n.op1.toNat → exec (.flumeSend tile) s = .next (v.conflict tile n)) ∧
    (0 < n.op1.toNat → n.op1.toNat ≤ 256 →
      ((u.tile tile).flume.size < n.op0.toNat + n.op1.toNat →
        exec (.flumeSend tile) s = .next (v.entryFault tile n .scratchBounds 0 n.op0.toNat)) ∧
      (n.op0.toNat + n.op1.toNat ≤ (u.tile tile).flume.size →
        (sendComp (eWord e) ≠ 0 → v.compressOk (p - 15) = false →
          exec (.flumeSend tile) s = .next (v.entryFault tile n .fabricAccess 0 0)) ∧
        (sendComp (eWord e) = 0 ∨ v.compressOk (p - 15) = true →
          (sendOver (sendComp (eWord e)) tile pos b = true →
            exec (.flumeSend tile) s = .next (v.entryFault tile n .linkBudget 0 0)) ∧
          (sendOver (sendComp (eWord e)) tile pos b = false →
            (v.room i = false → exec (.flumeSend tile) s = .next (v.entryFault tile n .sluiceOverrun 0 0)) ∧
            (v.room i = true → ∃ (t : State) (it : Item), exec (.flumeSend tile) s = .next t ∧
              (t.sluice i).items.getLast? = some it ∧ (t.sluice i).items.length = (u.sluice i).items.length + 1 ∧
              it.stamp = BitVec.ofNat 16 u.wet.toNat ∧ it.timed = true ∧ it.visible = false ∧ u.sluiceDelay i = some it.delay ∧
              it.what = (if p = 31 then .scratch (sendTile (eWord e)) (eArg e) (sendData (sendComp (eWord e)) tile pos r b)
                else .forward p (r.map.getD (sendDev (eWord e)) 0) (sendTile (eWord e)) (eArg e)
                  (sendData (sendComp (eWord e)) tile pos r b)) ∧
              (t.tile tile).scratch = (u.tile tile).scratch))))))

/-- Intake jobs: validation in order, one at a time per headworks, and completion with the bytes written (R354,
R358, R359, R360, R361, R366, R371, R373, R375, R376, R377). -/
def Obligations.IntakeJobsAreCheckedRunAndReported : Prop :=
  (∀ (s s1 : State) (c q k va : Nat) (x : BitVec 512) (d : List Byte), s.accepts c q x 0x04 (some 3) [(260, 252)] →
    va = bvFld x 192 64 → k = bvFld x 256 4 →
    (va % 256 ≠ 0 ∨ s.isFabric c va = true →
      exec (.descIntake c q x) s = .next (s.descFault c q x .descInvalid 0x10C0 0)) ∧
    (va % 256 = 0 → s.isFabric c va = false →
      (12 ≤ k → exec (.descIntake c q x) s = .next (s.descFault c q x .descInvalid 0x1100 0)) ∧
      (k < 12 → s.inStack c k 0 (va, 256) = false → exec (.descIntake c q x) s = .next (s.badJob k c q x .descBounds 0)) ∧
      (k < 12 → s.inStack c k 0 (va, 256) = true → s.readStruct c va 256 = (.ok d, s1) →
        (jobBad d = true → exec (.descIntake c q x) s = .next (s1.badJob k c q x .descInvalid 1)) ∧
        (jobBad d = false → (jobOf d).overlaps va = true →
          exec (.descIntake c q x) s = .next (s1.badJob k c q x .descInvalid 2)) ∧
        (jobBad d = false → (jobOf d).overlaps va = false → s1.jobInStack c k (jobOf d) = false →
          exec (.descIntake c q x) s = .next (s1.badJob k c q x .descBounds 0)) ∧
        (jobBad d = false → (jobOf d).overlaps va = false → s1.jobInStack c k (jobOf d) = true →
          exec (.descIntake c q x) s = .next (s1.setWork c q x (.intake k d)))))) ∧
  (∀ (s : State) (k c q detail : Nat) (x : BitVec 512) (code : Code),
    ((s.badJob k c q x code detail).headworks k).jobs = satAdd 32 (s.headworks k).jobs 1 ∧
    (s.badJob k c q x code detail).dram = s.dram) ∧
  (∀ (d : List Byte), jobBad d = false → leNat (sliceAt d 0 4) = 1 ∧ 1 ≤ (jobOf d).count ∧ (jobOf d).count ≤ 65535 ∧
    16 ≤ (jobOf d).outW ∧ (jobOf d).outW ≤ 8192 ∧ 1 ≤ (jobOf d).poolN ∧ (jobOf d).poolN ≤ 2 ^ 40 ∧
    (jobOf d).dst % 256 = 0 ∧ 1 ≤ (jobOf d).stride ∧ (jobOf d).stride ≤ 1024 ∧
    ((jobOf d).cropW = 0 → (jobOf d).cropX = 0 ∧ (jobOf d).cropY = 0 ∧ (jobOf d).cropH = 0)) ∧
  (∀ (j : Job) (rec : Nat), j.overlaps rec = false → ∀ a, j.dst ≤ a → a < j.dst + j.tensorLen →
    ¬ (j.status ≤ a ∧ a < j.status + 32 * j.count) ∧ ¬ (j.src ≤ a ∧ a < j.src + j.srcLen) ∧ ¬ (rec ≤ a ∧ a < rec + 256)) ∧
  (∀ (s : State) (k : Nat), (s.headworks k).job ≠ none ∨ s.intakeQueues k = [] → exec (.intakeJobStart k) s = .next s) ∧
  (∀ (s u s1 : State) (k c q : Nat) (d : List Byte) (x : Plan), q < 16 → (s.headworks k).job = none →
    nextOf (s.headworks k).lastServed (s.intakeQueues k) = some (16 * c + q) → (s.queue c q).intakeOf k = some d →
    u = s.modHeadworks k (fun h => { h with job := some (c, q), lastServed := 16 * c + q }) →
    ((s.headworks k).enable = false →
      exec (.intakeJobStart k) s = .next (u.failJob k c q .intakeUnsupported 22 0)) ∧
    ((s.headworks k).enable = true → (jobOf d).shuffle = true →
      shuffleDraw (s.ctx c).jobSeed (jobOf d).pool (jobOf d).poolN (jobOf d).drawPos ≠ (jobOf d).clip →
      exec (.intakeJobStart k) s = .next (u.failJob k c q .descInvalid 4 0)) ∧
    ((s.headworks k).enable = true → (jobOf d).shuffle = false ∨
        shuffleDraw (s.ctx c).jobSeed (jobOf d).pool (jobOf d).poolN (jobOf d).drawPos = (jobOf d).clip →
      u.jobPlan c (jobOf d) = (.ok x, s1) →
      (x.cropBad (jobOf d) = true → exec (.intakeJobStart k) s = .next (s1.failJob k c q .descInvalid 3 0)) ∧
      (∀ e, x.cropBad (jobOf d) = false → x.error = some e → x.out = [] →
        exec (.intakeJobStart k) s = .next (s1.failJob k c q .intakeUnsupported e 0)) ∧
      (x.cropBad (jobOf d) = false → x.error = none ∨ x.out ≠ [] → exec (.intakeJobStart k) s = .next s1 ∧
        (s1.headworks k).job = some (c, q) ∧ s1.ctxs = s.ctxs ∧ s1.tiles = s.tiles)) ∧
    (∀ a, (s.headworks k).enable = true → (jobOf d).shuffle = false → u.jobPlan c (jobOf d) = (.error (.poison a), s1) →
      exec (.intakeJobStart k) s = .next (s1.failJob k c q .memUncorrectable 0 0))) ∧
  (∀ (s : State) (k c q n detail : Nat) (code : Code), (s.ctx c).st = .resident → (s.ctx c).fault = none →
    (s.queue c q).st = .running → ∃ f, ((s.failJob k c q code detail n).ctx c).fault = some f ∧ f.code = code ∧
      f.detail = detail ∧ f.queue = q ∧ ((s.failJob k c q code detail n).queue c q).work = some (.done code.value detail n) ∧
      ((s.failJob k c q code detail n).queue c q).st = .stopped ∧ ((s.failJob k c q code detail n).headworks k).job = none ∧
      ((s.failJob k c q code detail n).headworks k).jobs = satAdd 32 (s.headworks k).jobs 1 ∧
      (s.failJob k c q code detail n).dram = s.dram) ∧
  (∀ (s : State) (k : Nat), (s.headworks k).job = none → exec (.intakeJobCompletion k) s = .next s) ∧
  (∀ (s : State) (k c q : Nat), (s.headworks k).job = some (c, q) → (s.queue c q).intakeOf k = none →
    exec (.intakeJobCompletion k) s =
      .next (s.modHeadworks k (fun h => { h with job := none, jobs := satAdd 32 h.jobs 1 }))) ∧
  (∀ (s s1 s2 : State) (k c q n draw : Nat) (d : List Byte) (x : Plan) (bad : Bool), (s.headworks k).job = some (c, q) →
    (s.queue c q).intakeOf k = some d → s.jobPlan c (jobOf d) = (.ok x, s1) →
    draw = (if (jobOf d).shuffle then shuffleDraw (s1.ctx c).jobSeed (jobOf d).pool (jobOf d).poolN (jobOf d).drawPos else 0) →
    s1.writePictures c (jobOf d) x draw = (n, bad, s2) →
    (bad = true → exec (.intakeJobCompletion k) s = .next ((s2.modHeadworks k (fun h => h.countJob (jobOf d) x)).failJob k c q
      .translationFault 0 ((jobOf d).written n))) ∧
    (∀ e, bad = false → x.error = some e → exec (.intakeJobCompletion k) s =
      .next ((s2.modHeadworks k (fun h => h.countJob (jobOf d) x)).failJob k c q .intakeUnsupported e ((jobOf d).written n))) ∧
    (bad = false → x.error = none → ∃ t : State, exec (.intakeJobCompletion k) s = .next t ∧ (t.headworks k).job = none ∧
      (t.headworks k).pictures = satAdd 48 (s2.headworks k).pictures (x.reconstructed (jobOf d)) ∧
      (t.headworks k).jobs = satAdd 32 (s2.headworks k).jobs 1 ∧
      (t.queue c q).work = some (.done 0 0 ((jobOf d).written n)) ∧ t.dram = s2.dram ∧ t.tiles = s2.tiles)) ∧
  (∀ (j : Job) (n : Nat), j.written n = n * (3 * j.planeStride + 32 + (if j.grainOut then 192 else 0)) ∧
    j.planeStride % 256 = 0 ∧ j.outW * j.outH * j.elem ≤ j.planeStride) ∧
  (∀ (v : Stream) (j : Job) (c : Cand) (p : Pic) (m : Bool) (cand draw : Nat), cand < 2 ^ 32 → j.matrix < 8 →
    (v.statusBytes j cand c p m draw).length = 32 ∧ leNat (sliceAt (v.statusBytes j cand c p m draw) 0 4) = cand ∧
    ((v.statusBytes j cand c p m draw).getD 4 0).getLsbD 0 = p.concealed ∧
    ((v.statusBytes j cand c p m draw).getD 4 0).getLsbD 1 = p.propagated ∧
    ((v.statusBytes j cand c p m draw).getD 4 0).getLsbD 2 = m ∧
    (draw < 2 ^ 64 → leNat (sliceAt (v.statusBytes j cand c p m draw) 16 8) = draw)) ∧
  (∀ (v : Stream) (j : Job) (pics : List Pic) (shown : List Nat), (v.outputs j pics shown true).length = j.count)

/-- In every epoch of a pool the shuffle draws every clip exactly once (R372). -/
def Obligations.EachEpochDrawsEveryClipOnce : Prop :=
  (∀ (seed : Word64) (pool n e c : Nat), 1 ≤ n → n ≤ 2 ^ 40 → c < n →
    ∃ i, i < n ∧ shuffleDraw seed pool n (e * n + i) = c ∧
      ∀ j, j < n → shuffleDraw seed pool n (e * n + j) = c → j = i) ∧
  (∀ (seed : Word64) (pool n pos : Nat), 1 ≤ n → n ≤ 2 ^ 40 → shuffleDraw seed pool n pos < n)
end

