-- ==== Sys2Proof/Laws/State.lean ====
section
/-! SUPPORT. What each named update of the state leaves in every field: one theorem per update, a
conjunction over the fields, so that no later proof unfolds a record update. -/

namespace Sys2Proof.Machine

variable (s : State)

@[simp] theorem State.emit_fields (o : Out) :
    (s.emit o).pending = s.pending ∧ (s.emit o).tick = s.tick ∧ (s.emit o).wet = s.wet ∧
    (s.emit o).sent = o :: s.sent ∧ (s.emit o).freeCtr = s.freeCtr ∧ (s.emit o).nextId = s.nextId ∧
    (s.emit o).mod = s.mod ∧ (s.emit o).sec = s.sec ∧ (s.emit o).dram = s.dram ∧ (s.emit o).losses = s.losses ∧
    (s.emit o).poison = s.poison ∧ (s.emit o).hostMem = s.hostMem ∧ (s.emit o).slices = s.slices ∧
    (s.emit o).memCounters = s.memCounters ∧ (s.emit o).cistern = s.cistern ∧ (s.emit o).cisMiss = s.cisMiss ∧
    (s.emit o).cisInq = s.cisInq ∧ (s.emit o).cisDead = s.cisDead ∧ (s.emit o).cisCounters = s.cisCounters ∧
    (s.emit o).adminHeld = s.adminHeld ∧ (s.emit o).flights = s.flights ∧ (s.emit o).issues = s.issues ∧
    (s.emit o).walks = s.walks ∧ (s.emit o).stackLocal = s.stackLocal ∧ (s.emit o).localActive = s.localActive ∧
    (s.emit o).layoutRejected = s.layoutRejected ∧ (s.emit o).keepCap = s.keepCap ∧
    (s.emit o).deadPoison = s.deadPoison ∧ (s.emit o).capClamped = s.capClamped ∧ (s.emit o).keepSweep = s.keepSweep ∧
    (s.emit o).ctxs = s.ctxs ∧ (s.emit o).objs = s.objs ∧ (s.emit o).kernels = s.kernels ∧
    (s.emit o).pendingOrder = s.pendingOrder ∧ (s.emit o).ctxEnable = s.ctxEnable ∧
    (s.emit o).ctxActive = s.ctxActive ∧ (s.emit o).ctxBase = s.ctxBase ∧ (s.emit o).ctxBaseActive = s.ctxBaseActive ∧
    (s.emit o).bar4Base = s.bar4Base ∧ (s.emit o).bar4Blocked = s.bar4Blocked ∧ (s.emit o).fns = s.fns ∧
    (s.emit o).nVf = s.nVf ∧ (s.emit o).ats = s.ats ∧ (s.emit o).invalid = s.invalid ∧
    (s.emit o).copyNext = s.copyNext ∧ (s.emit o).tiles = s.tiles ∧ (s.emit o).sluices = s.sluices ∧
    (s.emit o).lines = s.lines ∧ (s.emit o).sync = s.sync ∧ (s.emit o).fab = s.fab ∧ (s.emit o).timed = s.timed ∧
    (s.emit o).power = s.power ∧ (s.emit o).gauge = s.gauge ∧ (s.emit o).hal = s.hal ∧ (s.emit o).repair = s.repair ∧
    (s.emit o).hdwk = s.hdwk :=
  ⟨rfl, rfl, rfl, rfl, rfl, rfl, rfl, rfl, rfl, rfl, rfl, rfl, rfl, rfl, rfl, rfl, rfl, rfl, rfl, rfl, rfl, rfl, rfl, rfl, rfl, rfl, rfl, rfl, rfl, rfl, rfl, rfl, rfl, rfl, rfl, rfl, rfl, rfl, rfl, rfl, rfl, rfl, rfl, rfl, rfl, rfl, rfl, rfl, rfl, rfl, rfl, rfl, rfl, rfl, rfl, rfl⟩

@[simp] theorem State.drawn_fields :
    (s.drawn).pending = s.pending ∧ (s.drawn).tick = s.tick ∧ (s.drawn).wet = s.wet ∧ (s.drawn).sent = s.sent ∧
    (s.drawn).freeCtr = s.freeCtr + 1 ∧ (s.drawn).nextId = s.nextId ∧ (s.drawn).mod = s.mod ∧ (s.drawn).sec = s.sec ∧
    (s.drawn).dram = s.dram ∧ (s.drawn).losses = s.losses ∧ (s.drawn).poison = s.poison ∧
    (s.drawn).hostMem = s.hostMem ∧ (s.drawn).slices = s.slices ∧ (s.drawn).memCounters = s.memCounters ∧
    (s.drawn).cistern = s.cistern ∧ (s.drawn).cisMiss = s.cisMiss ∧ (s.drawn).cisInq = s.cisInq ∧
    (s.drawn).cisDead = s.cisDead ∧ (s.drawn).cisCounters = s.cisCounters ∧ (s.drawn).adminHeld = s.adminHeld ∧
    (s.drawn).flights = s.flights ∧ (s.drawn).issues = s.issues ∧ (s.drawn).walks = s.walks ∧
    (s.drawn).stackLocal = s.stackLocal ∧ (s.drawn).localActive = s.localActive ∧
    (s.drawn).layoutRejected = s.layoutRejected ∧ (s.drawn).keepCap = s.keepCap ∧
    (s.drawn).deadPoison = s.deadPoison ∧ (s.drawn).capClamped = s.capClamped ∧ (s.drawn).keepSweep = s.keepSweep ∧
    (s.drawn).ctxs = s.ctxs ∧ (s.drawn).objs = s.objs ∧ (s.drawn).kernels = s.kernels ∧
    (s.drawn).pendingOrder = s.pendingOrder ∧ (s.drawn).ctxEnable = s.ctxEnable ∧ (s.drawn).ctxActive = s.ctxActive ∧
    (s.drawn).ctxBase = s.ctxBase ∧ (s.drawn).ctxBaseActive = s.ctxBaseActive ∧ (s.drawn).bar4Base = s.bar4Base ∧
    (s.drawn).bar4Blocked = s.bar4Blocked ∧ (s.drawn).fns = s.fns ∧ (s.drawn).nVf = s.nVf ∧ (s.drawn).ats = s.ats ∧
    (s.drawn).invalid = s.invalid ∧ (s.drawn).copyNext = s.copyNext ∧ (s.drawn).tiles = s.tiles ∧
    (s.drawn).sluices = s.sluices ∧ (s.drawn).lines = s.lines ∧ (s.drawn).sync = s.sync ∧ (s.drawn).fab = s.fab ∧
    (s.drawn).timed = s.timed ∧ (s.drawn).power = s.power ∧ (s.drawn).gauge = s.gauge ∧ (s.drawn).hal = s.hal ∧
    (s.drawn).repair = s.repair ∧ (s.drawn).hdwk = s.hdwk :=
  ⟨rfl, rfl, rfl, rfl, rfl, rfl, rfl, rfl, rfl, rfl, rfl, rfl, rfl, rfl, rfl, rfl, rfl, rfl, rfl, rfl, rfl, rfl, rfl, rfl, rfl, rfl, rfl, rfl, rfl, rfl, rfl, rfl, rfl, rfl, rfl, rfl, rfl, rfl, rfl, rfl, rfl, rfl, rfl, rfl, rfl, rfl, rfl, rfl, rfl, rfl, rfl, rfl, rfl, rfl, rfl, rfl⟩

@[simp] theorem State.fresh_fields :
    (s.fresh).pending = s.pending ∧ (s.fresh).tick = s.tick ∧ (s.fresh).wet = s.wet ∧ (s.fresh).sent = s.sent ∧
    (s.fresh).freeCtr = s.freeCtr ∧ (s.fresh).nextId = s.nextId + 1 ∧ (s.fresh).mod = s.mod ∧ (s.fresh).sec = s.sec ∧
    (s.fresh).dram = s.dram ∧ (s.fresh).losses = s.losses ∧ (s.fresh).poison = s.poison ∧
    (s.fresh).hostMem = s.hostMem ∧ (s.fresh).slices = s.slices ∧ (s.fresh).memCounters = s.memCounters ∧
    (s.fresh).cistern = s.cistern ∧ (s.fresh).cisMiss = s.cisMiss ∧ (s.fresh).cisInq = s.cisInq ∧
    (s.fresh).cisDead = s.cisDead ∧ (s.fresh).cisCounters = s.cisCounters ∧ (s.fresh).adminHeld = s.adminHeld ∧
    (s.fresh).flights = s.flights ∧ (s.fresh).issues = s.issues ∧ (s.fresh).walks = s.walks ∧
    (s.fresh).stackLocal = s.stackLocal ∧ (s.fresh).localActive = s.localActive ∧
    (s.fresh).layoutRejected = s.layoutRejected ∧ (s.fresh).keepCap = s.keepCap ∧
    (s.fresh).deadPoison = s.deadPoison ∧ (s.fresh).capClamped = s.capClamped ∧ (s.fresh).keepSweep = s.keepSweep ∧
    (s.fresh).ctxs = s.ctxs ∧ (s.fresh).objs = s.objs ∧ (s.fresh).kernels = s.kernels ∧
    (s.fresh).pendingOrder = s.pendingOrder ∧ (s.fresh).ctxEnable = s.ctxEnable ∧ (s.fresh).ctxActive = s.ctxActive ∧
    (s.fresh).ctxBase = s.ctxBase ∧ (s.fresh).ctxBaseActive = s.ctxBaseActive ∧ (s.fresh).bar4Base = s.bar4Base ∧
    (s.fresh).bar4Blocked = s.bar4Blocked ∧ (s.fresh).fns = s.fns ∧ (s.fresh).nVf = s.nVf ∧ (s.fresh).ats = s.ats ∧
    (s.fresh).invalid = s.invalid ∧ (s.fresh).copyNext = s.copyNext ∧ (s.fresh).tiles = s.tiles ∧
    (s.fresh).sluices = s.sluices ∧ (s.fresh).lines = s.lines ∧ (s.fresh).sync = s.sync ∧ (s.fresh).fab = s.fab ∧
    (s.fresh).timed = s.timed ∧ (s.fresh).power = s.power ∧ (s.fresh).gauge = s.gauge ∧ (s.fresh).hal = s.hal ∧
    (s.fresh).repair = s.repair ∧ (s.fresh).hdwk = s.hdwk :=
  ⟨rfl, rfl, rfl, rfl, rfl, rfl, rfl, rfl, rfl, rfl, rfl, rfl, rfl, rfl, rfl, rfl, rfl, rfl, rfl, rfl, rfl, rfl, rfl, rfl, rfl, rfl, rfl, rfl, rfl, rfl, rfl, rfl, rfl, rfl, rfl, rfl, rfl, rfl, rfl, rfl, rfl, rfl, rfl, rfl, rfl, rfl, rfl, rfl, rfl, rfl, rfl, rfl, rfl, rfl, rfl, rfl⟩

@[simp] theorem State.setTile_fields (n : Nat) (x : Tile) :
    (s.setTile n x).pending = s.pending ∧ (s.setTile n x).tick = s.tick ∧ (s.setTile n x).wet = s.wet ∧
    (s.setTile n x).sent = s.sent ∧ (s.setTile n x).freeCtr = s.freeCtr ∧ (s.setTile n x).nextId = s.nextId ∧
    (s.setTile n x).mod = s.mod ∧ (s.setTile n x).sec = s.sec ∧ (s.setTile n x).dram = s.dram ∧
    (s.setTile n x).losses = s.losses ∧ (s.setTile n x).poison = s.poison ∧ (s.setTile n x).hostMem = s.hostMem ∧
    (s.setTile n x).slices = s.slices ∧ (s.setTile n x).memCounters = s.memCounters ∧
    (s.setTile n x).cistern = s.cistern ∧ (s.setTile n x).cisMiss = s.cisMiss ∧ (s.setTile n x).cisInq = s.cisInq ∧
    (s.setTile n x).cisDead = s.cisDead ∧ (s.setTile n x).cisCounters = s.cisCounters ∧
    (s.setTile n x).adminHeld = s.adminHeld ∧ (s.setTile n x).flights = s.flights ∧
    (s.setTile n x).issues = s.issues ∧ (s.setTile n x).walks = s.walks ∧ (s.setTile n x).stackLocal = s.stackLocal ∧
    (s.setTile n x).localActive = s.localActive ∧ (s.setTile n x).layoutRejected = s.layoutRejected ∧
    (s.setTile n x).keepCap = s.keepCap ∧ (s.setTile n x).deadPoison = s.deadPoison ∧
    (s.setTile n x).capClamped = s.capClamped ∧ (s.setTile n x).keepSweep = s.keepSweep ∧
    (s.setTile n x).ctxs = s.ctxs ∧ (s.setTile n x).objs = s.objs ∧ (s.setTile n x).kernels = s.kernels ∧
    (s.setTile n x).pendingOrder = s.pendingOrder ∧ (s.setTile n x).ctxEnable = s.ctxEnable ∧
    (s.setTile n x).ctxActive = s.ctxActive ∧ (s.setTile n x).ctxBase = s.ctxBase ∧
    (s.setTile n x).ctxBaseActive = s.ctxBaseActive ∧ (s.setTile n x).bar4Base = s.bar4Base ∧
    (s.setTile n x).bar4Blocked = s.bar4Blocked ∧ (s.setTile n x).fns = s.fns ∧ (s.setTile n x).nVf = s.nVf ∧
    (s.setTile n x).ats = s.ats ∧ (s.setTile n x).invalid = s.invalid ∧ (s.setTile n x).copyNext = s.copyNext ∧
    (s.setTile n x).tiles = tabSet s.tiles Tile.reset n x ∧ (s.setTile n x).sluices = s.sluices ∧
    (s.setTile n x).lines = s.lines ∧ (s.setTile n x).sync = s.sync ∧ (s.setTile n x).fab = s.fab ∧
    (s.setTile n x).timed = s.timed ∧ (s.setTile n x).power = s.power ∧ (s.setTile n x).gauge = s.gauge ∧
    (s.setTile n x).hal = s.hal ∧ (s.setTile n x).repair = s.repair ∧ (s.setTile n x).hdwk = s.hdwk :=
  ⟨rfl, rfl, rfl, rfl, rfl, rfl, rfl, rfl, rfl, rfl, rfl, rfl, rfl, rfl, rfl, rfl, rfl, rfl, rfl, rfl, rfl, rfl, rfl, rfl, rfl, rfl, rfl, rfl, rfl, rfl, rfl, rfl, rfl, rfl, rfl, rfl, rfl, rfl, rfl, rfl, rfl, rfl, rfl, rfl, rfl, rfl, rfl, rfl, rfl, rfl, rfl, rfl, rfl, rfl, rfl, rfl⟩

@[simp] theorem State.modTile_fields (n : Nat) (f : Tile → Tile) :
    (s.modTile n f).pending = s.pending ∧ (s.modTile n f).tick = s.tick ∧ (s.modTile n f).wet = s.wet ∧
    (s.modTile n f).sent = s.sent ∧ (s.modTile n f).freeCtr = s.freeCtr ∧ (s.modTile n f).nextId = s.nextId ∧
    (s.modTile n f).mod = s.mod ∧ (s.modTile n f).sec = s.sec ∧ (s.modTile n f).dram = s.dram ∧
    (s.modTile n f).losses = s.losses ∧ (s.modTile n f).poison = s.poison ∧ (s.modTile n f).hostMem = s.hostMem ∧
    (s.modTile n f).slices = s.slices ∧ (s.modTile n f).memCounters = s.memCounters ∧
    (s.modTile n f).cistern = s.cistern ∧ (s.modTile n f).cisMiss = s.cisMiss ∧ (s.modTile n f).cisInq = s.cisInq ∧
    (s.modTile n f).cisDead = s.cisDead ∧ (s.modTile n f).cisCounters = s.cisCounters ∧
    (s.modTile n f).adminHeld = s.adminHeld ∧ (s.modTile n f).flights = s.flights ∧
    (s.modTile n f).issues = s.issues ∧ (s.modTile n f).walks = s.walks ∧ (s.modTile n f).stackLocal = s.stackLocal ∧
    (s.modTile n f).localActive = s.localActive ∧ (s.modTile n f).layoutRejected = s.layoutRejected ∧
    (s.modTile n f).keepCap = s.keepCap ∧ (s.modTile n f).deadPoison = s.deadPoison ∧
    (s.modTile n f).capClamped = s.capClamped ∧ (s.modTile n f).keepSweep = s.keepSweep ∧
    (s.modTile n f).ctxs = s.ctxs ∧ (s.modTile n f).objs = s.objs ∧ (s.modTile n f).kernels = s.kernels ∧
    (s.modTile n f).pendingOrder = s.pendingOrder ∧ (s.modTile n f).ctxEnable = s.ctxEnable ∧
    (s.modTile n f).ctxActive = s.ctxActive ∧ (s.modTile n f).ctxBase = s.ctxBase ∧
    (s.modTile n f).ctxBaseActive = s.ctxBaseActive ∧ (s.modTile n f).bar4Base = s.bar4Base ∧
    (s.modTile n f).bar4Blocked = s.bar4Blocked ∧ (s.modTile n f).fns = s.fns ∧ (s.modTile n f).nVf = s.nVf ∧
    (s.modTile n f).ats = s.ats ∧ (s.modTile n f).invalid = s.invalid ∧ (s.modTile n f).copyNext = s.copyNext ∧
    (s.modTile n f).tiles = tabSet s.tiles Tile.reset n (f (s.tile n)) ∧ (s.modTile n f).sluices = s.sluices ∧
    (s.modTile n f).lines = s.lines ∧ (s.modTile n f).sync = s.sync ∧ (s.modTile n f).fab = s.fab ∧
    (s.modTile n f).timed = s.timed ∧ (s.modTile n f).power = s.power ∧ (s.modTile n f).gauge = s.gauge ∧
    (s.modTile n f).hal = s.hal ∧ (s.modTile n f).repair = s.repair ∧ (s.modTile n f).hdwk = s.hdwk :=
  ⟨rfl, rfl, rfl, rfl, rfl, rfl, rfl, rfl, rfl, rfl, rfl, rfl, rfl, rfl, rfl, rfl, rfl, rfl, rfl, rfl, rfl, rfl, rfl, rfl, rfl, rfl, rfl, rfl, rfl, rfl, rfl, rfl, rfl, rfl, rfl, rfl, rfl, rfl, rfl, rfl, rfl, rfl, rfl, rfl, rfl, rfl, rfl, rfl, rfl, rfl, rfl, rfl, rfl, rfl, rfl, rfl⟩

@[simp] theorem State.setCtx_fields (n : Nat) (x : Ctx) :
    (s.setCtx n x).pending = s.pending ∧ (s.setCtx n x).tick = s.tick ∧ (s.setCtx n x).wet = s.wet ∧
    (s.setCtx n x).sent = s.sent ∧ (s.setCtx n x).freeCtr = s.freeCtr ∧ (s.setCtx n x).nextId = s.nextId ∧
    (s.setCtx n x).mod = s.mod ∧ (s.setCtx n x).sec = s.sec ∧ (s.setCtx n x).dram = s.dram ∧
    (s.setCtx n x).losses = s.losses ∧ (s.setCtx n x).poison = s.poison ∧ (s.setCtx n x).hostMem = s.hostMem ∧
    (s.setCtx n x).slices = s.slices ∧ (s.setCtx n x).memCounters = s.memCounters ∧
    (s.setCtx n x).cistern = s.cistern ∧ (s.setCtx n x).cisMiss = s.cisMiss ∧ (s.setCtx n x).cisInq = s.cisInq ∧
    (s.setCtx n x).cisDead = s.cisDead ∧ (s.setCtx n x).cisCounters = s.cisCounters ∧
    (s.setCtx n x).adminHeld = s.adminHeld ∧ (s.setCtx n x).flights = s.flights ∧ (s.setCtx n x).issues = s.issues ∧
    (s.setCtx n x).walks = s.walks ∧ (s.setCtx n x).stackLocal = s.stackLocal ∧
    (s.setCtx n x).localActive = s.localActive ∧ (s.setCtx n x).layoutRejected = s.layoutRejected ∧
    (s.setCtx n x).keepCap = s.keepCap ∧ (s.setCtx n x).deadPoison = s.deadPoison ∧
    (s.setCtx n x).capClamped = s.capClamped ∧ (s.setCtx n x).keepSweep = s.keepSweep ∧
    (s.setCtx n x).ctxs = tabSet s.ctxs Ctx.free n x ∧ (s.setCtx n x).objs = s.objs ∧
    (s.setCtx n x).kernels = s.kernels ∧ (s.setCtx n x).pendingOrder = s.pendingOrder ∧
    (s.setCtx n x).ctxEnable = s.ctxEnable ∧ (s.setCtx n x).ctxActive = s.ctxActive ∧
    (s.setCtx n x).ctxBase = s.ctxBase ∧ (s.setCtx n x).ctxBaseActive = s.ctxBaseActive ∧
    (s.setCtx n x).bar4Base = s.bar4Base ∧ (s.setCtx n x).bar4Blocked = s.bar4Blocked ∧ (s.setCtx n x).fns = s.fns ∧
    (s.setCtx n x).nVf = s.nVf ∧ (s.setCtx n x).ats = s.ats ∧ (s.setCtx n x).invalid = s.invalid ∧
    (s.setCtx n x).copyNext = s.copyNext ∧ (s.setCtx n x).tiles = s.tiles ∧ (s.setCtx n x).sluices = s.sluices ∧
    (s.setCtx n x).lines = s.lines ∧ (s.setCtx n x).sync = s.sync ∧ (s.setCtx n x).fab = s.fab ∧
    (s.setCtx n x).timed = s.timed ∧ (s.setCtx n x).power = s.power ∧ (s.setCtx n x).gauge = s.gauge ∧
    (s.setCtx n x).hal = s.hal ∧ (s.setCtx n x).repair = s.repair ∧ (s.setCtx n x).hdwk = s.hdwk :=
  ⟨rfl, rfl, rfl, rfl, rfl, rfl, rfl, rfl, rfl, rfl, rfl, rfl, rfl, rfl, rfl, rfl, rfl, rfl, rfl, rfl, rfl, rfl, rfl, rfl, rfl, rfl, rfl, rfl, rfl, rfl, rfl, rfl, rfl, rfl, rfl, rfl, rfl, rfl, rfl, rfl, rfl, rfl, rfl, rfl, rfl, rfl, rfl, rfl, rfl, rfl, rfl, rfl, rfl, rfl, rfl, rfl⟩

@[simp] theorem State.modCtx_fields (n : Nat) (f : Ctx → Ctx) :
    (s.modCtx n f).pending = s.pending ∧ (s.modCtx n f).tick = s.tick ∧ (s.modCtx n f).wet = s.wet ∧
    (s.modCtx n f).sent = s.sent ∧ (s.modCtx n f).freeCtr = s.freeCtr ∧ (s.modCtx n f).nextId = s.nextId ∧
    (s.modCtx n f).mod = s.mod ∧ (s.modCtx n f).sec = s.sec ∧ (s.modCtx n f).dram = s.dram ∧
    (s.modCtx n f).losses = s.losses ∧ (s.modCtx n f).poison = s.poison ∧ (s.modCtx n f).hostMem = s.hostMem ∧
    (s.modCtx n f).slices = s.slices ∧ (s.modCtx n f).memCounters = s.memCounters ∧
    (s.modCtx n f).cistern = s.cistern ∧ (s.modCtx n f).cisMiss = s.cisMiss ∧ (s.modCtx n f).cisInq = s.cisInq ∧
    (s.modCtx n f).cisDead = s.cisDead ∧ (s.modCtx n f).cisCounters = s.cisCounters ∧
    (s.modCtx n f).adminHeld = s.adminHeld ∧ (s.modCtx n f).flights = s.flights ∧ (s.modCtx n f).issues = s.issues ∧
    (s.modCtx n f).walks = s.walks ∧ (s.modCtx n f).stackLocal = s.stackLocal ∧
    (s.modCtx n f).localActive = s.localActive ∧ (s.modCtx n f).layoutRejected = s.layoutRejected ∧
    (s.modCtx n f).keepCap = s.keepCap ∧ (s.modCtx n f).deadPoison = s.deadPoison ∧
    (s.modCtx n f).capClamped = s.capClamped ∧ (s.modCtx n f).keepSweep = s.keepSweep ∧
    (s.modCtx n f).ctxs = tabSet s.ctxs Ctx.free n (f (s.ctx n)) ∧ (s.modCtx n f).objs = s.objs ∧
    (s.modCtx n f).kernels = s.kernels ∧ (s.modCtx n f).pendingOrder = s.pendingOrder ∧
    (s.modCtx n f).ctxEnable = s.ctxEnable ∧ (s.modCtx n f).ctxActive = s.ctxActive ∧
    (s.modCtx n f).ctxBase = s.ctxBase ∧ (s.modCtx n f).ctxBaseActive = s.ctxBaseActive ∧
    (s.modCtx n f).bar4Base = s.bar4Base ∧ (s.modCtx n f).bar4Blocked = s.bar4Blocked ∧ (s.modCtx n f).fns = s.fns ∧
    (s.modCtx n f).nVf = s.nVf ∧ (s.modCtx n f).ats = s.ats ∧ (s.modCtx n f).invalid = s.invalid ∧
    (s.modCtx n f).copyNext = s.copyNext ∧ (s.modCtx n f).tiles = s.tiles ∧ (s.modCtx n f).sluices = s.sluices ∧
    (s.modCtx n f).lines = s.lines ∧ (s.modCtx n f).sync = s.sync ∧ (s.modCtx n f).fab = s.fab ∧
    (s.modCtx n f).timed = s.timed ∧ (s.modCtx n f).power = s.power ∧ (s.modCtx n f).gauge = s.gauge ∧
    (s.modCtx n f).hal = s.hal ∧ (s.modCtx n f).repair = s.repair ∧ (s.modCtx n f).hdwk = s.hdwk :=
  ⟨rfl, rfl, rfl, rfl, rfl, rfl, rfl, rfl, rfl, rfl, rfl, rfl, rfl, rfl, rfl, rfl, rfl, rfl, rfl, rfl, rfl, rfl, rfl, rfl, rfl, rfl, rfl, rfl, rfl, rfl, rfl, rfl, rfl, rfl, rfl, rfl, rfl, rfl, rfl, rfl, rfl, rfl, rfl, rfl, rfl, rfl, rfl, rfl, rfl, rfl, rfl, rfl, rfl, rfl, rfl, rfl⟩

@[simp] theorem State.modQueue_fields (n q : Nat) (f : Queue → Queue) :
    (s.modQueue n q f).pending = s.pending ∧ (s.modQueue n q f).tick = s.tick ∧ (s.modQueue n q f).wet = s.wet ∧
    (s.modQueue n q f).sent = s.sent ∧ (s.modQueue n q f).freeCtr = s.freeCtr ∧ (s.modQueue n q f).nextId = s.nextId ∧
    (s.modQueue n q f).mod = s.mod ∧ (s.modQueue n q f).sec = s.sec ∧ (s.modQueue n q f).dram = s.dram ∧
    (s.modQueue n q f).losses = s.losses ∧ (s.modQueue n q f).poison = s.poison ∧
    (s.modQueue n q f).hostMem = s.hostMem ∧ (s.modQueue n q f).slices = s.slices ∧
    (s.modQueue n q f).memCounters = s.memCounters ∧ (s.modQueue n q f).cistern = s.cistern ∧
    (s.modQueue n q f).cisMiss = s.cisMiss ∧ (s.modQueue n q f).cisInq = s.cisInq ∧
    (s.modQueue n q f).cisDead = s.cisDead ∧ (s.modQueue n q f).cisCounters = s.cisCounters ∧
    (s.modQueue n q f).adminHeld = s.adminHeld ∧ (s.modQueue n q f).flights = s.flights ∧
    (s.modQueue n q f).issues = s.issues ∧ (s.modQueue n q f).walks = s.walks ∧
    (s.modQueue n q f).stackLocal = s.stackLocal ∧ (s.modQueue n q f).localActive = s.localActive ∧
    (s.modQueue n q f).layoutRejected = s.layoutRejected ∧ (s.modQueue n q f).keepCap = s.keepCap ∧
    (s.modQueue n q f).deadPoison = s.deadPoison ∧ (s.modQueue n q f).capClamped = s.capClamped ∧
    (s.modQueue n q f).keepSweep = s.keepSweep ∧
    (s.modQueue n q f).ctxs = tabSet s.ctxs Ctx.free n ((s.ctx n).modQueue q f) ∧ (s.modQueue n q f).objs = s.objs ∧
    (s.modQueue n q f).kernels = s.kernels ∧ (s.modQueue n q f).pendingOrder = s.pendingOrder ∧
    (s.modQueue n q f).ctxEnable = s.ctxEnable ∧ (s.modQueue n q f).ctxActive = s.ctxActive ∧
    (s.modQueue n q f).ctxBase = s.ctxBase ∧ (s.modQueue n q f).ctxBaseActive = s.ctxBaseActive ∧
    (s.modQueue n q f).bar4Base = s.bar4Base ∧ (s.modQueue n q f).bar4Blocked = s.bar4Blocked ∧
    (s.modQueue n q f).fns = s.fns ∧ (s.modQueue n q f).nVf = s.nVf ∧ (s.modQueue n q f).ats = s.ats ∧
    (s.modQueue n q f).invalid = s.invalid ∧ (s.modQueue n q f).copyNext = s.copyNext ∧
    (s.modQueue n q f).tiles = s.tiles ∧ (s.modQueue n q f).sluices = s.sluices ∧ (s.modQueue n q f).lines = s.lines ∧
    (s.modQueue n q f).sync = s.sync ∧ (s.modQueue n q f).fab = s.fab ∧ (s.modQueue n q f).timed = s.timed ∧
    (s.modQueue n q f).power = s.power ∧ (s.modQueue n q f).gauge = s.gauge ∧ (s.modQueue n q f).hal = s.hal ∧
    (s.modQueue n q f).repair = s.repair ∧ (s.modQueue n q f).hdwk = s.hdwk :=
  ⟨rfl, rfl, rfl, rfl, rfl, rfl, rfl, rfl, rfl, rfl, rfl, rfl, rfl, rfl, rfl, rfl, rfl, rfl, rfl, rfl, rfl, rfl, rfl, rfl, rfl, rfl, rfl, rfl, rfl, rfl, rfl, rfl, rfl, rfl, rfl, rfl, rfl, rfl, rfl, rfl, rfl, rfl, rfl, rfl, rfl, rfl, rfl, rfl, rfl, rfl, rfl, rfl, rfl, rfl, rfl, rfl⟩

@[simp] theorem State.modFn_fields (n : Nat) (f : Fn → Fn) :
    (s.modFn n f).pending = s.pending ∧ (s.modFn n f).tick = s.tick ∧ (s.modFn n f).wet = s.wet ∧
    (s.modFn n f).sent = s.sent ∧ (s.modFn n f).freeCtr = s.freeCtr ∧ (s.modFn n f).nextId = s.nextId ∧
    (s.modFn n f).mod = s.mod ∧ (s.modFn n f).sec = s.sec ∧ (s.modFn n f).dram = s.dram ∧
    (s.modFn n f).losses = s.losses ∧ (s.modFn n f).poison = s.poison ∧ (s.modFn n f).hostMem = s.hostMem ∧
    (s.modFn n f).slices = s.slices ∧ (s.modFn n f).memCounters = s.memCounters ∧ (s.modFn n f).cistern = s.cistern ∧
    (s.modFn n f).cisMiss = s.cisMiss ∧ (s.modFn n f).cisInq = s.cisInq ∧ (s.modFn n f).cisDead = s.cisDead ∧
    (s.modFn n f).cisCounters = s.cisCounters ∧ (s.modFn n f).adminHeld = s.adminHeld ∧
    (s.modFn n f).flights = s.flights ∧ (s.modFn n f).issues = s.issues ∧ (s.modFn n f).walks = s.walks ∧
    (s.modFn n f).stackLocal = s.stackLocal ∧ (s.modFn n f).localActive = s.localActive ∧
    (s.modFn n f).layoutRejected = s.layoutRejected ∧ (s.modFn n f).keepCap = s.keepCap ∧
    (s.modFn n f).deadPoison = s.deadPoison ∧ (s.modFn n f).capClamped = s.capClamped ∧
    (s.modFn n f).keepSweep = s.keepSweep ∧ (s.modFn n f).ctxs = s.ctxs ∧ (s.modFn n f).objs = s.objs ∧
    (s.modFn n f).kernels = s.kernels ∧ (s.modFn n f).pendingOrder = s.pendingOrder ∧
    (s.modFn n f).ctxEnable = s.ctxEnable ∧ (s.modFn n f).ctxActive = s.ctxActive ∧
    (s.modFn n f).ctxBase = s.ctxBase ∧ (s.modFn n f).ctxBaseActive = s.ctxBaseActive ∧
    (s.modFn n f).bar4Base = s.bar4Base ∧ (s.modFn n f).bar4Blocked = s.bar4Blocked ∧
    (s.modFn n f).fns = tabMod s.fns Fn.reset n f ∧ (s.modFn n f).nVf = s.nVf ∧ (s.modFn n f).ats = s.ats ∧
    (s.modFn n f).invalid = s.invalid ∧ (s.modFn n f).copyNext = s.copyNext ∧ (s.modFn n f).tiles = s.tiles ∧
    (s.modFn n f).sluices = s.sluices ∧ (s.modFn n f).lines = s.lines ∧ (s.modFn n f).sync = s.sync ∧
    (s.modFn n f).fab = s.fab ∧ (s.modFn n f).timed = s.timed ∧ (s.modFn n f).power = s.power ∧
    (s.modFn n f).gauge = s.gauge ∧ (s.modFn n f).hal = s.hal ∧ (s.modFn n f).repair = s.repair ∧
    (s.modFn n f).hdwk = s.hdwk :=
  ⟨rfl, rfl, rfl, rfl, rfl, rfl, rfl, rfl, rfl, rfl, rfl, rfl, rfl, rfl, rfl, rfl, rfl, rfl, rfl, rfl, rfl, rfl, rfl, rfl, rfl, rfl, rfl, rfl, rfl, rfl, rfl, rfl, rfl, rfl, rfl, rfl, rfl, rfl, rfl, rfl, rfl, rfl, rfl, rfl, rfl, rfl, rfl, rfl, rfl, rfl, rfl, rfl, rfl, rfl, rfl, rfl⟩

@[simp] theorem State.modPort_fields (n : Nat) (f : Port → Port) :
    (s.modPort n f).pending = s.pending ∧ (s.modPort n f).tick = s.tick ∧ (s.modPort n f).wet = s.wet ∧
    (s.modPort n f).sent = s.sent ∧ (s.modPort n f).freeCtr = s.freeCtr ∧ (s.modPort n f).nextId = s.nextId ∧
    (s.modPort n f).mod = s.mod ∧ (s.modPort n f).sec = s.sec ∧ (s.modPort n f).dram = s.dram ∧
    (s.modPort n f).losses = s.losses ∧ (s.modPort n f).poison = s.poison ∧ (s.modPort n f).hostMem = s.hostMem ∧
    (s.modPort n f).slices = s.slices ∧ (s.modPort n f).memCounters = s.memCounters ∧
    (s.modPort n f).cistern = s.cistern ∧ (s.modPort n f).cisMiss = s.cisMiss ∧ (s.modPort n f).cisInq = s.cisInq ∧
    (s.modPort n f).cisDead = s.cisDead ∧ (s.modPort n f).cisCounters = s.cisCounters ∧
    (s.modPort n f).adminHeld = s.adminHeld ∧ (s.modPort n f).flights = s.flights ∧
    (s.modPort n f).issues = s.issues ∧ (s.modPort n f).walks = s.walks ∧ (s.modPort n f).stackLocal = s.stackLocal ∧
    (s.modPort n f).localActive = s.localActive ∧ (s.modPort n f).layoutRejected = s.layoutRejected ∧
    (s.modPort n f).keepCap = s.keepCap ∧ (s.modPort n f).deadPoison = s.deadPoison ∧
    (s.modPort n f).capClamped = s.capClamped ∧ (s.modPort n f).keepSweep = s.keepSweep ∧
    (s.modPort n f).ctxs = s.ctxs ∧ (s.modPort n f).objs = s.objs ∧ (s.modPort n f).kernels = s.kernels ∧
    (s.modPort n f).pendingOrder = s.pendingOrder ∧ (s.modPort n f).ctxEnable = s.ctxEnable ∧
    (s.modPort n f).ctxActive = s.ctxActive ∧ (s.modPort n f).ctxBase = s.ctxBase ∧
    (s.modPort n f).ctxBaseActive = s.ctxBaseActive ∧ (s.modPort n f).bar4Base = s.bar4Base ∧
    (s.modPort n f).bar4Blocked = s.bar4Blocked ∧ (s.modPort n f).fns = s.fns ∧ (s.modPort n f).nVf = s.nVf ∧
    (s.modPort n f).ats = s.ats ∧ (s.modPort n f).invalid = s.invalid ∧ (s.modPort n f).copyNext = s.copyNext ∧
    (s.modPort n f).tiles = s.tiles ∧ (s.modPort n f).sluices = s.sluices ∧ (s.modPort n f).lines = s.lines ∧
    (s.modPort n f).sync = s.sync ∧ (s.modPort n f).fab = { s.fab with ports := tabMod s.fab.ports Port.reset n f } ∧
    (s.modPort n f).timed = s.timed ∧ (s.modPort n f).power = s.power ∧ (s.modPort n f).gauge = s.gauge ∧
    (s.modPort n f).hal = s.hal ∧ (s.modPort n f).repair = s.repair ∧ (s.modPort n f).hdwk = s.hdwk :=
  ⟨rfl, rfl, rfl, rfl, rfl, rfl, rfl, rfl, rfl, rfl, rfl, rfl, rfl, rfl, rfl, rfl, rfl, rfl, rfl, rfl, rfl, rfl, rfl, rfl, rfl, rfl, rfl, rfl, rfl, rfl, rfl, rfl, rfl, rfl, rfl, rfl, rfl, rfl, rfl, rfl, rfl, rfl, rfl, rfl, rfl, rfl, rfl, rfl, rfl, rfl, rfl, rfl, rfl, rfl, rfl, rfl⟩

@[simp] theorem State.modHeadworks_fields (n : Nat) (f : Headworks → Headworks) :
    (s.modHeadworks n f).pending = s.pending ∧ (s.modHeadworks n f).tick = s.tick ∧ (s.modHeadworks n f).wet = s.wet ∧
    (s.modHeadworks n f).sent = s.sent ∧ (s.modHeadworks n f).freeCtr = s.freeCtr ∧
    (s.modHeadworks n f).nextId = s.nextId ∧ (s.modHeadworks n f).mod = s.mod ∧ (s.modHeadworks n f).sec = s.sec ∧
    (s.modHeadworks n f).dram = s.dram ∧ (s.modHeadworks n f).losses = s.losses ∧
    (s.modHeadworks n f).poison = s.poison ∧ (s.modHeadworks n f).hostMem = s.hostMem ∧
    (s.modHeadworks n f).slices = s.slices ∧ (s.modHeadworks n f).memCounters = s.memCounters ∧
    (s.modHeadworks n f).cistern = s.cistern ∧ (s.modHeadworks n f).cisMiss = s.cisMiss ∧
    (s.modHeadworks n f).cisInq = s.cisInq ∧ (s.modHeadworks n f).cisDead = s.cisDead ∧
    (s.modHeadworks n f).cisCounters = s.cisCounters ∧ (s.modHeadworks n f).adminHeld = s.adminHeld ∧
    (s.modHeadworks n f).flights = s.flights ∧ (s.modHeadworks n f).issues = s.issues ∧
    (s.modHeadworks n f).walks = s.walks ∧ (s.modHeadworks n f).stackLocal = s.stackLocal ∧
    (s.modHeadworks n f).localActive = s.localActive ∧ (s.modHeadworks n f).layoutRejected = s.layoutRejected ∧
    (s.modHeadworks n f).keepCap = s.keepCap ∧ (s.modHeadworks n f).deadPoison = s.deadPoison ∧
    (s.modHeadworks n f).capClamped = s.capClamped ∧ (s.modHeadworks n f).keepSweep = s.keepSweep ∧
    (s.modHeadworks n f).ctxs = s.ctxs ∧ (s.modHeadworks n f).objs = s.objs ∧
    (s.modHeadworks n f).kernels = s.kernels ∧ (s.modHeadworks n f).pendingOrder = s.pendingOrder ∧
    (s.modHeadworks n f).ctxEnable = s.ctxEnable ∧ (s.modHeadworks n f).ctxActive = s.ctxActive ∧
    (s.modHeadworks n f).ctxBase = s.ctxBase ∧ (s.modHeadworks n f).ctxBaseActive = s.ctxBaseActive ∧
    (s.modHeadworks n f).bar4Base = s.bar4Base ∧ (s.modHeadworks n f).bar4Blocked = s.bar4Blocked ∧
    (s.modHeadworks n f).fns = s.fns ∧ (s.modHeadworks n f).nVf = s.nVf ∧ (s.modHeadworks n f).ats = s.ats ∧
    (s.modHeadworks n f).invalid = s.invalid ∧ (s.modHeadworks n f).copyNext = s.copyNext ∧
    (s.modHeadworks n f).tiles = s.tiles ∧ (s.modHeadworks n f).sluices = s.sluices ∧
    (s.modHeadworks n f).lines = s.lines ∧ (s.modHeadworks n f).sync = s.sync ∧ (s.modHeadworks n f).fab = s.fab ∧
    (s.modHeadworks n f).timed = s.timed ∧ (s.modHeadworks n f).power = s.power ∧
    (s.modHeadworks n f).gauge = s.gauge ∧ (s.modHeadworks n f).hal = s.hal ∧ (s.modHeadworks n f).repair = s.repair ∧
    (s.modHeadworks n f).hdwk = tabMod s.hdwk Headworks.reset n f :=
  ⟨rfl, rfl, rfl, rfl, rfl, rfl, rfl, rfl, rfl, rfl, rfl, rfl, rfl, rfl, rfl, rfl, rfl, rfl, rfl, rfl, rfl, rfl, rfl, rfl, rfl, rfl, rfl, rfl, rfl, rfl, rfl, rfl, rfl, rfl, rfl, rfl, rfl, rfl, rfl, rfl, rfl, rfl, rfl, rfl, rfl, rfl, rfl, rfl, rfl, rfl, rfl, rfl, rfl, rfl, rfl, rfl⟩

@[simp] theorem State.setSlice_fields (n : Nat) (x : Slice) :
    (s.setSlice n x).pending = s.pending ∧ (s.setSlice n x).tick = s.tick ∧ (s.setSlice n x).wet = s.wet ∧
    (s.setSlice n x).sent = s.sent ∧ (s.setSlice n x).freeCtr = s.freeCtr ∧ (s.setSlice n x).nextId = s.nextId ∧
    (s.setSlice n x).mod = s.mod ∧ (s.setSlice n x).sec = s.sec ∧ (s.setSlice n x).dram = s.dram ∧
    (s.setSlice n x).losses = s.losses ∧ (s.setSlice n x).poison = s.poison ∧ (s.setSlice n x).hostMem = s.hostMem ∧
    (s.setSlice n x).slices = tabSet s.slices Slice.empty n x ∧ (s.setSlice n x).memCounters = s.memCounters ∧
    (s.setSlice n x).cistern = s.cistern ∧ (s.setSlice n x).cisMiss = s.cisMiss ∧ (s.setSlice n x).cisInq = s.cisInq ∧
    (s.setSlice n x).cisDead = s.cisDead ∧ (s.setSlice n x).cisCounters = s.cisCounters ∧
    (s.setSlice n x).adminHeld = s.adminHeld ∧ (s.setSlice n x).flights = s.flights ∧
    (s.setSlice n x).issues = s.issues ∧ (s.setSlice n x).walks = s.walks ∧
    (s.setSlice n x).stackLocal = s.stackLocal ∧ (s.setSlice n x).localActive = s.localActive ∧
    (s.setSlice n x).layoutRejected = s.layoutRejected ∧ (s.setSlice n x).keepCap = s.keepCap ∧
    (s.setSlice n x).deadPoison = s.deadPoison ∧ (s.setSlice n x).capClamped = s.capClamped ∧
    (s.setSlice n x).keepSweep = s.keepSweep ∧ (s.setSlice n x).ctxs = s.ctxs ∧ (s.setSlice n x).objs = s.objs ∧
    (s.setSlice n x).kernels = s.kernels ∧ (s.setSlice n x).pendingOrder = s.pendingOrder ∧
    (s.setSlice n x).ctxEnable = s.ctxEnable ∧ (s.setSlice n x).ctxActive = s.ctxActive ∧
    (s.setSlice n x).ctxBase = s.ctxBase ∧ (s.setSlice n x).ctxBaseActive = s.ctxBaseActive ∧
    (s.setSlice n x).bar4Base = s.bar4Base ∧ (s.setSlice n x).bar4Blocked = s.bar4Blocked ∧
    (s.setSlice n x).fns = s.fns ∧ (s.setSlice n x).nVf = s.nVf ∧ (s.setSlice n x).ats = s.ats ∧
    (s.setSlice n x).invalid = s.invalid ∧ (s.setSlice n x).copyNext = s.copyNext ∧ (s.setSlice n x).tiles = s.tiles ∧
    (s.setSlice n x).sluices = s.sluices ∧ (s.setSlice n x).lines = s.lines ∧ (s.setSlice n x).sync = s.sync ∧
    (s.setSlice n x).fab = s.fab ∧ (s.setSlice n x).timed = s.timed ∧ (s.setSlice n x).power = s.power ∧
    (s.setSlice n x).gauge = s.gauge ∧ (s.setSlice n x).hal = s.hal ∧ (s.setSlice n x).repair = s.repair ∧
    (s.setSlice n x).hdwk = s.hdwk :=
  ⟨rfl, rfl, rfl, rfl, rfl, rfl, rfl, rfl, rfl, rfl, rfl, rfl, rfl, rfl, rfl, rfl, rfl, rfl, rfl, rfl, rfl, rfl, rfl, rfl, rfl, rfl, rfl, rfl, rfl, rfl, rfl, rfl, rfl, rfl, rfl, rfl, rfl, rfl, rfl, rfl, rfl, rfl, rfl, rfl, rfl, rfl, rfl, rfl, rfl, rfl, rfl, rfl, rfl, rfl, rfl, rfl⟩

@[simp] theorem State.memCount_fields (n : Nat) (f : MemCounters → MemCounters) :
    (s.memCount n f).pending = s.pending ∧ (s.memCount n f).tick = s.tick ∧ (s.memCount n f).wet = s.wet ∧
    (s.memCount n f).sent = s.sent ∧ (s.memCount n f).freeCtr = s.freeCtr ∧ (s.memCount n f).nextId = s.nextId ∧
    (s.memCount n f).mod = s.mod ∧ (s.memCount n f).sec = s.sec ∧ (s.memCount n f).dram = s.dram ∧
    (s.memCount n f).losses = s.losses ∧ (s.memCount n f).poison = s.poison ∧ (s.memCount n f).hostMem = s.hostMem ∧
    (s.memCount n f).slices = s.slices ∧ (s.memCount n f).memCounters = tabMod s.memCounters MemCounters.zero n f ∧
    (s.memCount n f).cistern = s.cistern ∧ (s.memCount n f).cisMiss = s.cisMiss ∧ (s.memCount n f).cisInq = s.cisInq ∧
    (s.memCount n f).cisDead = s.cisDead ∧ (s.memCount n f).cisCounters = s.cisCounters ∧
    (s.memCount n f).adminHeld = s.adminHeld ∧ (s.memCount n f).flights = s.flights ∧
    (s.memCount n f).issues = s.issues ∧ (s.memCount n f).walks = s.walks ∧
    (s.memCount n f).stackLocal = s.stackLocal ∧ (s.memCount n f).localActive = s.localActive ∧
    (s.memCount n f).layoutRejected = s.layoutRejected ∧ (s.memCount n f).keepCap = s.keepCap ∧
    (s.memCount n f).deadPoison = s.deadPoison ∧ (s.memCount n f).capClamped = s.capClamped ∧
    (s.memCount n f).keepSweep = s.keepSweep ∧ (s.memCount n f).ctxs = s.ctxs ∧ (s.memCount n f).objs = s.objs ∧
    (s.memCount n f).kernels = s.kernels ∧ (s.memCount n f).pendingOrder = s.pendingOrder ∧
    (s.memCount n f).ctxEnable = s.ctxEnable ∧ (s.memCount n f).ctxActive = s.ctxActive ∧
    (s.memCount n f).ctxBase = s.ctxBase ∧ (s.memCount n f).ctxBaseActive = s.ctxBaseActive ∧
    (s.memCount n f).bar4Base = s.bar4Base ∧ (s.memCount n f).bar4Blocked = s.bar4Blocked ∧
    (s.memCount n f).fns = s.fns ∧ (s.memCount n f).nVf = s.nVf ∧ (s.memCount n f).ats = s.ats ∧
    (s.memCount n f).invalid = s.invalid ∧ (s.memCount n f).copyNext = s.copyNext ∧ (s.memCount n f).tiles = s.tiles ∧
    (s.memCount n f).sluices = s.sluices ∧ (s.memCount n f).lines = s.lines ∧ (s.memCount n f).sync = s.sync ∧
    (s.memCount n f).fab = s.fab ∧ (s.memCount n f).timed = s.timed ∧ (s.memCount n f).power = s.power ∧
    (s.memCount n f).gauge = s.gauge ∧ (s.memCount n f).hal = s.hal ∧ (s.memCount n f).repair = s.repair ∧
    (s.memCount n f).hdwk = s.hdwk :=
  ⟨rfl, rfl, rfl, rfl, rfl, rfl, rfl, rfl, rfl, rfl, rfl, rfl, rfl, rfl, rfl, rfl, rfl, rfl, rfl, rfl, rfl, rfl, rfl, rfl, rfl, rfl, rfl, rfl, rfl, rfl, rfl, rfl, rfl, rfl, rfl, rfl, rfl, rfl, rfl, rfl, rfl, rfl, rfl, rfl, rfl, rfl, rfl, rfl, rfl, rfl, rfl, rfl, rfl, rfl, rfl, rfl⟩

@[simp] theorem State.cisCount_fields (n : Nat) (f : MemCounters → MemCounters) :
    (s.cisCount n f).pending = s.pending ∧ (s.cisCount n f).tick = s.tick ∧ (s.cisCount n f).wet = s.wet ∧
    (s.cisCount n f).sent = s.sent ∧ (s.cisCount n f).freeCtr = s.freeCtr ∧ (s.cisCount n f).nextId = s.nextId ∧
    (s.cisCount n f).mod = s.mod ∧ (s.cisCount n f).sec = s.sec ∧ (s.cisCount n f).dram = s.dram ∧
    (s.cisCount n f).losses = s.losses ∧ (s.cisCount n f).poison = s.poison ∧ (s.cisCount n f).hostMem = s.hostMem ∧
    (s.cisCount n f).slices = s.slices ∧ (s.cisCount n f).memCounters = s.memCounters ∧
    (s.cisCount n f).cistern = s.cistern ∧ (s.cisCount n f).cisMiss = s.cisMiss ∧ (s.cisCount n f).cisInq = s.cisInq ∧
    (s.cisCount n f).cisDead = s.cisDead ∧ (s.cisCount n f).cisCounters = tabMod s.cisCounters MemCounters.zero n f ∧
    (s.cisCount n f).adminHeld = s.adminHeld ∧ (s.cisCount n f).flights = s.flights ∧
    (s.cisCount n f).issues = s.issues ∧ (s.cisCount n f).walks = s.walks ∧
    (s.cisCount n f).stackLocal = s.stackLocal ∧ (s.cisCount n f).localActive = s.localActive ∧
    (s.cisCount n f).layoutRejected = s.layoutRejected ∧ (s.cisCount n f).keepCap = s.keepCap ∧
    (s.cisCount n f).deadPoison = s.deadPoison ∧ (s.cisCount n f).capClamped = s.capClamped ∧
    (s.cisCount n f).keepSweep = s.keepSweep ∧ (s.cisCount n f).ctxs = s.ctxs ∧ (s.cisCount n f).objs = s.objs ∧
    (s.cisCount n f).kernels = s.kernels ∧ (s.cisCount n f).pendingOrder = s.pendingOrder ∧
    (s.cisCount n f).ctxEnable = s.ctxEnable ∧ (s.cisCount n f).ctxActive = s.ctxActive ∧
    (s.cisCount n f).ctxBase = s.ctxBase ∧ (s.cisCount n f).ctxBaseActive = s.ctxBaseActive ∧
    (s.cisCount n f).bar4Base = s.bar4Base ∧ (s.cisCount n f).bar4Blocked = s.bar4Blocked ∧
    (s.cisCount n f).fns = s.fns ∧ (s.cisCount n f).nVf = s.nVf ∧ (s.cisCount n f).ats = s.ats ∧
    (s.cisCount n f).invalid = s.invalid ∧ (s.cisCount n f).copyNext = s.copyNext ∧ (s.cisCount n f).tiles = s.tiles ∧
    (s.cisCount n f).sluices = s.sluices ∧ (s.cisCount n f).lines = s.lines ∧ (s.cisCount n f).sync = s.sync ∧
    (s.cisCount n f).fab = s.fab ∧ (s.cisCount n f).timed = s.timed ∧ (s.cisCount n f).power = s.power ∧
    (s.cisCount n f).gauge = s.gauge ∧ (s.cisCount n f).hal = s.hal ∧ (s.cisCount n f).repair = s.repair ∧
    (s.cisCount n f).hdwk = s.hdwk :=
  ⟨rfl, rfl, rfl, rfl, rfl, rfl, rfl, rfl, rfl, rfl, rfl, rfl, rfl, rfl, rfl, rfl, rfl, rfl, rfl, rfl, rfl, rfl, rfl, rfl, rfl, rfl, rfl, rfl, rfl, rfl, rfl, rfl, rfl, rfl, rfl, rfl, rfl, rfl, rfl, rfl, rfl, rfl, rfl, rfl, rfl, rfl, rfl, rfl, rfl, rfl, rfl, rfl, rfl, rfl, rfl, rfl⟩

@[simp] theorem State.syncCount_fields (n : Nat) (f : SyncCounters → SyncCounters) :
    (s.syncCount n f).pending = s.pending ∧ (s.syncCount n f).tick = s.tick ∧ (s.syncCount n f).wet = s.wet ∧
    (s.syncCount n f).sent = s.sent ∧ (s.syncCount n f).freeCtr = s.freeCtr ∧ (s.syncCount n f).nextId = s.nextId ∧
    (s.syncCount n f).mod = s.mod ∧ (s.syncCount n f).sec = s.sec ∧ (s.syncCount n f).dram = s.dram ∧
    (s.syncCount n f).losses = s.losses ∧ (s.syncCount n f).poison = s.poison ∧
    (s.syncCount n f).hostMem = s.hostMem ∧ (s.syncCount n f).slices = s.slices ∧
    (s.syncCount n f).memCounters = s.memCounters ∧ (s.syncCount n f).cistern = s.cistern ∧
    (s.syncCount n f).cisMiss = s.cisMiss ∧ (s.syncCount n f).cisInq = s.cisInq ∧
    (s.syncCount n f).cisDead = s.cisDead ∧ (s.syncCount n f).cisCounters = s.cisCounters ∧
    (s.syncCount n f).adminHeld = s.adminHeld ∧ (s.syncCount n f).flights = s.flights ∧
    (s.syncCount n f).issues = s.issues ∧ (s.syncCount n f).walks = s.walks ∧
    (s.syncCount n f).stackLocal = s.stackLocal ∧ (s.syncCount n f).localActive = s.localActive ∧
    (s.syncCount n f).layoutRejected = s.layoutRejected ∧ (s.syncCount n f).keepCap = s.keepCap ∧
    (s.syncCount n f).deadPoison = s.deadPoison ∧ (s.syncCount n f).capClamped = s.capClamped ∧
    (s.syncCount n f).keepSweep = s.keepSweep ∧ (s.syncCount n f).ctxs = s.ctxs ∧ (s.syncCount n f).objs = s.objs ∧
    (s.syncCount n f).kernels = s.kernels ∧ (s.syncCount n f).pendingOrder = s.pendingOrder ∧
    (s.syncCount n f).ctxEnable = s.ctxEnable ∧ (s.syncCount n f).ctxActive = s.ctxActive ∧
    (s.syncCount n f).ctxBase = s.ctxBase ∧ (s.syncCount n f).ctxBaseActive = s.ctxBaseActive ∧
    (s.syncCount n f).bar4Base = s.bar4Base ∧ (s.syncCount n f).bar4Blocked = s.bar4Blocked ∧
    (s.syncCount n f).fns = s.fns ∧ (s.syncCount n f).nVf = s.nVf ∧ (s.syncCount n f).ats = s.ats ∧
    (s.syncCount n f).invalid = s.invalid ∧ (s.syncCount n f).copyNext = s.copyNext ∧
    (s.syncCount n f).tiles = s.tiles ∧ (s.syncCount n f).sluices = s.sluices ∧ (s.syncCount n f).lines = s.lines ∧
    (s.syncCount n f).sync = { s.sync with counters := tabMod s.sync.counters SyncCounters.zero n f } ∧
    (s.syncCount n f).fab = s.fab ∧ (s.syncCount n f).timed = s.timed ∧ (s.syncCount n f).power = s.power ∧
    (s.syncCount n f).gauge = s.gauge ∧ (s.syncCount n f).hal = s.hal ∧ (s.syncCount n f).repair = s.repair ∧
    (s.syncCount n f).hdwk = s.hdwk :=
  ⟨rfl, rfl, rfl, rfl, rfl, rfl, rfl, rfl, rfl, rfl, rfl, rfl, rfl, rfl, rfl, rfl, rfl, rfl, rfl, rfl, rfl, rfl, rfl, rfl, rfl, rfl, rfl, rfl, rfl, rfl, rfl, rfl, rfl, rfl, rfl, rfl, rfl, rfl, rfl, rfl, rfl, rfl, rfl, rfl, rfl, rfl, rfl, rfl, rfl, rfl, rfl, rfl, rfl, rfl, rfl, rfl⟩

@[simp] theorem State.modObj_fields (n : Nat) (f : Obj → Obj) :
    (s.modObj n f).pending = s.pending ∧ (s.modObj n f).tick = s.tick ∧ (s.modObj n f).wet = s.wet ∧
    (s.modObj n f).sent = s.sent ∧ (s.modObj n f).freeCtr = s.freeCtr ∧ (s.modObj n f).nextId = s.nextId ∧
    (s.modObj n f).mod = s.mod ∧ (s.modObj n f).sec = s.sec ∧ (s.modObj n f).dram = s.dram ∧
    (s.modObj n f).losses = s.losses ∧ (s.modObj n f).poison = s.poison ∧ (s.modObj n f).hostMem = s.hostMem ∧
    (s.modObj n f).slices = s.slices ∧ (s.modObj n f).memCounters = s.memCounters ∧
    (s.modObj n f).cistern = s.cistern ∧ (s.modObj n f).cisMiss = s.cisMiss ∧ (s.modObj n f).cisInq = s.cisInq ∧
    (s.modObj n f).cisDead = s.cisDead ∧ (s.modObj n f).cisCounters = s.cisCounters ∧
    (s.modObj n f).adminHeld = s.adminHeld ∧ (s.modObj n f).flights = s.flights ∧ (s.modObj n f).issues = s.issues ∧
    (s.modObj n f).walks = s.walks ∧ (s.modObj n f).stackLocal = s.stackLocal ∧
    (s.modObj n f).localActive = s.localActive ∧ (s.modObj n f).layoutRejected = s.layoutRejected ∧
    (s.modObj n f).keepCap = s.keepCap ∧ (s.modObj n f).deadPoison = s.deadPoison ∧
    (s.modObj n f).capClamped = s.capClamped ∧ (s.modObj n f).keepSweep = s.keepSweep ∧ (s.modObj n f).ctxs = s.ctxs ∧
    (s.modObj n f).objs = modIf s.objs (fun o => o.num == n) f ∧ (s.modObj n f).kernels = s.kernels ∧
    (s.modObj n f).pendingOrder = s.pendingOrder ∧ (s.modObj n f).ctxEnable = s.ctxEnable ∧
    (s.modObj n f).ctxActive = s.ctxActive ∧ (s.modObj n f).ctxBase = s.ctxBase ∧
    (s.modObj n f).ctxBaseActive = s.ctxBaseActive ∧ (s.modObj n f).bar4Base = s.bar4Base ∧
    (s.modObj n f).bar4Blocked = s.bar4Blocked ∧ (s.modObj n f).fns = s.fns ∧ (s.modObj n f).nVf = s.nVf ∧
    (s.modObj n f).ats = s.ats ∧ (s.modObj n f).invalid = s.invalid ∧ (s.modObj n f).copyNext = s.copyNext ∧
    (s.modObj n f).tiles = s.tiles ∧ (s.modObj n f).sluices = s.sluices ∧ (s.modObj n f).lines = s.lines ∧
    (s.modObj n f).sync = s.sync ∧ (s.modObj n f).fab = s.fab ∧ (s.modObj n f).timed = s.timed ∧
    (s.modObj n f).power = s.power ∧ (s.modObj n f).gauge = s.gauge ∧ (s.modObj n f).hal = s.hal ∧
    (s.modObj n f).repair = s.repair ∧ (s.modObj n f).hdwk = s.hdwk :=
  ⟨rfl, rfl, rfl, rfl, rfl, rfl, rfl, rfl, rfl, rfl, rfl, rfl, rfl, rfl, rfl, rfl, rfl, rfl, rfl, rfl, rfl, rfl, rfl, rfl, rfl, rfl, rfl, rfl, rfl, rfl, rfl, rfl, rfl, rfl, rfl, rfl, rfl, rfl, rfl, rfl, rfl, rfl, rfl, rfl, rfl, rfl, rfl, rfl, rfl, rfl, rfl, rfl, rfl, rfl, rfl, rfl⟩

@[simp] theorem State.setSyncObj_fields (n : Nat) (x : SyncObj) :
    (s.setSyncObj n x).pending = s.pending ∧ (s.setSyncObj n x).tick = s.tick ∧ (s.setSyncObj n x).wet = s.wet ∧
    (s.setSyncObj n x).sent = s.sent ∧ (s.setSyncObj n x).freeCtr = s.freeCtr ∧ (s.setSyncObj n x).nextId = s.nextId ∧
    (s.setSyncObj n x).mod = s.mod ∧ (s.setSyncObj n x).sec = s.sec ∧ (s.setSyncObj n x).dram = s.dram ∧
    (s.setSyncObj n x).losses = s.losses ∧ (s.setSyncObj n x).poison = s.poison ∧
    (s.setSyncObj n x).hostMem = s.hostMem ∧ (s.setSyncObj n x).slices = s.slices ∧
    (s.setSyncObj n x).memCounters = s.memCounters ∧ (s.setSyncObj n x).cistern = s.cistern ∧
    (s.setSyncObj n x).cisMiss = s.cisMiss ∧ (s.setSyncObj n x).cisInq = s.cisInq ∧
    (s.setSyncObj n x).cisDead = s.cisDead ∧ (s.setSyncObj n x).cisCounters = s.cisCounters ∧
    (s.setSyncObj n x).adminHeld = s.adminHeld ∧ (s.setSyncObj n x).flights = s.flights ∧
    (s.setSyncObj n x).issues = s.issues ∧ (s.setSyncObj n x).walks = s.walks ∧
    (s.setSyncObj n x).stackLocal = s.stackLocal ∧ (s.setSyncObj n x).localActive = s.localActive ∧
    (s.setSyncObj n x).layoutRejected = s.layoutRejected ∧ (s.setSyncObj n x).keepCap = s.keepCap ∧
    (s.setSyncObj n x).deadPoison = s.deadPoison ∧ (s.setSyncObj n x).capClamped = s.capClamped ∧
    (s.setSyncObj n x).keepSweep = s.keepSweep ∧ (s.setSyncObj n x).ctxs = s.ctxs ∧ (s.setSyncObj n x).objs = s.objs ∧
    (s.setSyncObj n x).kernels = s.kernels ∧ (s.setSyncObj n x).pendingOrder = s.pendingOrder ∧
    (s.setSyncObj n x).ctxEnable = s.ctxEnable ∧ (s.setSyncObj n x).ctxActive = s.ctxActive ∧
    (s.setSyncObj n x).ctxBase = s.ctxBase ∧ (s.setSyncObj n x).ctxBaseActive = s.ctxBaseActive ∧
    (s.setSyncObj n x).bar4Base = s.bar4Base ∧ (s.setSyncObj n x).bar4Blocked = s.bar4Blocked ∧
    (s.setSyncObj n x).fns = s.fns ∧ (s.setSyncObj n x).nVf = s.nVf ∧ (s.setSyncObj n x).ats = s.ats ∧
    (s.setSyncObj n x).invalid = s.invalid ∧ (s.setSyncObj n x).copyNext = s.copyNext ∧
    (s.setSyncObj n x).tiles = s.tiles ∧ (s.setSyncObj n x).sluices = s.sluices ∧ (s.setSyncObj n x).lines = s.lines ∧
    (s.setSyncObj n x).sync = { s.sync with objs := tabSet s.sync.objs SyncObj.free n x } ∧
    (s.setSyncObj n x).fab = s.fab ∧ (s.setSyncObj n x).timed = s.timed ∧ (s.setSyncObj n x).power = s.power ∧
    (s.setSyncObj n x).gauge = s.gauge ∧ (s.setSyncObj n x).hal = s.hal ∧ (s.setSyncObj n x).repair = s.repair ∧
    (s.setSyncObj n x).hdwk = s.hdwk :=
  ⟨rfl, rfl, rfl, rfl, rfl, rfl, rfl, rfl, rfl, rfl, rfl, rfl, rfl, rfl, rfl, rfl, rfl, rfl, rfl, rfl, rfl, rfl, rfl, rfl, rfl, rfl, rfl, rfl, rfl, rfl, rfl, rfl, rfl, rfl, rfl, rfl, rfl, rfl, rfl, rfl, rfl, rfl, rfl, rfl, rfl, rfl, rfl, rfl, rfl, rfl, rfl, rfl, rfl, rfl, rfl, rfl⟩

@[simp] theorem State.modHal_fields (f : Halnor → Halnor) :
    (s.modHal f).pending = s.pending ∧ (s.modHal f).tick = s.tick ∧ (s.modHal f).wet = s.wet ∧
    (s.modHal f).sent = s.sent ∧ (s.modHal f).freeCtr = s.freeCtr ∧ (s.modHal f).nextId = s.nextId ∧
    (s.modHal f).mod = s.mod ∧ (s.modHal f).sec = s.sec ∧ (s.modHal f).dram = s.dram ∧
    (s.modHal f).losses = s.losses ∧ (s.modHal f).poison = s.poison ∧ (s.modHal f).hostMem = s.hostMem ∧
    (s.modHal f).slices = s.slices ∧ (s.modHal f).memCounters = s.memCounters ∧ (s.modHal f).cistern = s.cistern ∧
    (s.modHal f).cisMiss = s.cisMiss ∧ (s.modHal f).cisInq = s.cisInq ∧ (s.modHal f).cisDead = s.cisDead ∧
    (s.modHal f).cisCounters = s.cisCounters ∧ (s.modHal f).adminHeld = s.adminHeld ∧
    (s.modHal f).flights = s.flights ∧ (s.modHal f).issues = s.issues ∧ (s.modHal f).walks = s.walks ∧
    (s.modHal f).stackLocal = s.stackLocal ∧ (s.modHal f).localActive = s.localActive ∧
    (s.modHal f).layoutRejected = s.layoutRejected ∧ (s.modHal f).keepCap = s.keepCap ∧
    (s.modHal f).deadPoison = s.deadPoison ∧ (s.modHal f).capClamped = s.capClamped ∧
    (s.modHal f).keepSweep = s.keepSweep ∧ (s.modHal f).ctxs = s.ctxs ∧ (s.modHal f).objs = s.objs ∧
    (s.modHal f).kernels = s.kernels ∧ (s.modHal f).pendingOrder = s.pendingOrder ∧
    (s.modHal f).ctxEnable = s.ctxEnable ∧ (s.modHal f).ctxActive = s.ctxActive ∧ (s.modHal f).ctxBase = s.ctxBase ∧
    (s.modHal f).ctxBaseActive = s.ctxBaseActive ∧ (s.modHal f).bar4Base = s.bar4Base ∧
    (s.modHal f).bar4Blocked = s.bar4Blocked ∧ (s.modHal f).fns = s.fns ∧ (s.modHal f).nVf = s.nVf ∧
    (s.modHal f).ats = s.ats ∧ (s.modHal f).invalid = s.invalid ∧ (s.modHal f).copyNext = s.copyNext ∧
    (s.modHal f).tiles = s.tiles ∧ (s.modHal f).sluices = s.sluices ∧ (s.modHal f).lines = s.lines ∧
    (s.modHal f).sync = s.sync ∧ (s.modHal f).fab = s.fab ∧ (s.modHal f).timed = s.timed ∧
    (s.modHal f).power = s.power ∧ (s.modHal f).gauge = s.gauge ∧ (s.modHal f).hal = f s.hal ∧
    (s.modHal f).repair = s.repair ∧ (s.modHal f).hdwk = s.hdwk :=
  ⟨rfl, rfl, rfl, rfl, rfl, rfl, rfl, rfl, rfl, rfl, rfl, rfl, rfl, rfl, rfl, rfl, rfl, rfl, rfl, rfl, rfl, rfl, rfl, rfl, rfl, rfl, rfl, rfl, rfl, rfl, rfl, rfl, rfl, rfl, rfl, rfl, rfl, rfl, rfl, rfl, rfl, rfl, rfl, rfl, rfl, rfl, rfl, rfl, rfl, rfl, rfl, rfl, rfl, rfl, rfl, rfl⟩

@[simp] theorem State.modPower_fields (f : Power → Power) :
    (s.modPower f).pending = s.pending ∧ (s.modPower f).tick = s.tick ∧ (s.modPower f).wet = s.wet ∧
    (s.modPower f).sent = s.sent ∧ (s.modPower f).freeCtr = s.freeCtr ∧ (s.modPower f).nextId = s.nextId ∧
    (s.modPower f).mod = s.mod ∧ (s.modPower f).sec = s.sec ∧ (s.modPower f).dram = s.dram ∧
    (s.modPower f).losses = s.losses ∧ (s.modPower f).poison = s.poison ∧ (s.modPower f).hostMem = s.hostMem ∧
    (s.modPower f).slices = s.slices ∧ (s.modPower f).memCounters = s.memCounters ∧
    (s.modPower f).cistern = s.cistern ∧ (s.modPower f).cisMiss = s.cisMiss ∧ (s.modPower f).cisInq = s.cisInq ∧
    (s.modPower f).cisDead = s.cisDead ∧ (s.modPower f).cisCounters = s.cisCounters ∧
    (s.modPower f).adminHeld = s.adminHeld ∧ (s.modPower f).flights = s.flights ∧ (s.modPower f).issues = s.issues ∧
    (s.modPower f).walks = s.walks ∧ (s.modPower f).stackLocal = s.stackLocal ∧
    (s.modPower f).localActive = s.localActive ∧ (s.modPower f).layoutRejected = s.layoutRejected ∧
    (s.modPower f).keepCap = s.keepCap ∧ (s.modPower f).deadPoison = s.deadPoison ∧
    (s.modPower f).capClamped = s.capClamped ∧ (s.modPower f).keepSweep = s.keepSweep ∧ (s.modPower f).ctxs = s.ctxs ∧
    (s.modPower f).objs = s.objs ∧ (s.modPower f).kernels = s.kernels ∧ (s.modPower f).pendingOrder = s.pendingOrder ∧
    (s.modPower f).ctxEnable = s.ctxEnable ∧ (s.modPower f).ctxActive = s.ctxActive ∧
    (s.modPower f).ctxBase = s.ctxBase ∧ (s.modPower f).ctxBaseActive = s.ctxBaseActive ∧
    (s.modPower f).bar4Base = s.bar4Base ∧ (s.modPower f).bar4Blocked = s.bar4Blocked ∧ (s.modPower f).fns = s.fns ∧
    (s.modPower f).nVf = s.nVf ∧ (s.modPower f).ats = s.ats ∧ (s.modPower f).invalid = s.invalid ∧
    (s.modPower f).copyNext = s.copyNext ∧ (s.modPower f).tiles = s.tiles ∧ (s.modPower f).sluices = s.sluices ∧
    (s.modPower f).lines = s.lines ∧ (s.modPower f).sync = s.sync ∧ (s.modPower f).fab = s.fab ∧
    (s.modPower f).timed = s.timed ∧ (s.modPower f).power = f s.power ∧ (s.modPower f).gauge = s.gauge ∧
    (s.modPower f).hal = s.hal ∧ (s.modPower f).repair = s.repair ∧ (s.modPower f).hdwk = s.hdwk :=
  ⟨rfl, rfl, rfl, rfl, rfl, rfl, rfl, rfl, rfl, rfl, rfl, rfl, rfl, rfl, rfl, rfl, rfl, rfl, rfl, rfl, rfl, rfl, rfl, rfl, rfl, rfl, rfl, rfl, rfl, rfl, rfl, rfl, rfl, rfl, rfl, rfl, rfl, rfl, rfl, rfl, rfl, rfl, rfl, rfl, rfl, rfl, rfl, rfl, rfl, rfl, rfl, rfl, rfl, rfl, rfl, rfl⟩

@[simp] theorem State.modSec_fields (f : Sec → Sec) :
    (s.modSec f).pending = s.pending ∧ (s.modSec f).tick = s.tick ∧ (s.modSec f).wet = s.wet ∧
    (s.modSec f).sent = s.sent ∧ (s.modSec f).freeCtr = s.freeCtr ∧ (s.modSec f).nextId = s.nextId ∧
    (s.modSec f).mod = s.mod ∧ (s.modSec f).sec = f s.sec ∧ (s.modSec f).dram = s.dram ∧
    (s.modSec f).losses = s.losses ∧ (s.modSec f).poison = s.poison ∧ (s.modSec f).hostMem = s.hostMem ∧
    (s.modSec f).slices = s.slices ∧ (s.modSec f).memCounters = s.memCounters ∧ (s.modSec f).cistern = s.cistern ∧
    (s.modSec f).cisMiss = s.cisMiss ∧ (s.modSec f).cisInq = s.cisInq ∧ (s.modSec f).cisDead = s.cisDead ∧
    (s.modSec f).cisCounters = s.cisCounters ∧ (s.modSec f).adminHeld = s.adminHeld ∧
    (s.modSec f).flights = s.flights ∧ (s.modSec f).issues = s.issues ∧ (s.modSec f).walks = s.walks ∧
    (s.modSec f).stackLocal = s.stackLocal ∧ (s.modSec f).localActive = s.localActive ∧
    (s.modSec f).layoutRejected = s.layoutRejected ∧ (s.modSec f).keepCap = s.keepCap ∧
    (s.modSec f).deadPoison = s.deadPoison ∧ (s.modSec f).capClamped = s.capClamped ∧
    (s.modSec f).keepSweep = s.keepSweep ∧ (s.modSec f).ctxs = s.ctxs ∧ (s.modSec f).objs = s.objs ∧
    (s.modSec f).kernels = s.kernels ∧ (s.modSec f).pendingOrder = s.pendingOrder ∧
    (s.modSec f).ctxEnable = s.ctxEnable ∧ (s.modSec f).ctxActive = s.ctxActive ∧ (s.modSec f).ctxBase = s.ctxBase ∧
    (s.modSec f).ctxBaseActive = s.ctxBaseActive ∧ (s.modSec f).bar4Base = s.bar4Base ∧
    (s.modSec f).bar4Blocked = s.bar4Blocked ∧ (s.modSec f).fns = s.fns ∧ (s.modSec f).nVf = s.nVf ∧
    (s.modSec f).ats = s.ats ∧ (s.modSec f).invalid = s.invalid ∧ (s.modSec f).copyNext = s.copyNext ∧
    (s.modSec f).tiles = s.tiles ∧ (s.modSec f).sluices = s.sluices ∧ (s.modSec f).lines = s.lines ∧
    (s.modSec f).sync = s.sync ∧ (s.modSec f).fab = s.fab ∧ (s.modSec f).timed = s.timed ∧
    (s.modSec f).power = s.power ∧ (s.modSec f).gauge = s.gauge ∧ (s.modSec f).hal = s.hal ∧
    (s.modSec f).repair = s.repair ∧ (s.modSec f).hdwk = s.hdwk :=
  ⟨rfl, rfl, rfl, rfl, rfl, rfl, rfl, rfl, rfl, rfl, rfl, rfl, rfl, rfl, rfl, rfl, rfl, rfl, rfl, rfl, rfl, rfl, rfl, rfl, rfl, rfl, rfl, rfl, rfl, rfl, rfl, rfl, rfl, rfl, rfl, rfl, rfl, rfl, rfl, rfl, rfl, rfl, rfl, rfl, rfl, rfl, rfl, rfl, rfl, rfl, rfl, rfl, rfl, rfl, rfl, rfl⟩

@[simp] theorem State.modMod_fields (f : Module → Module) :
    (s.modMod f).pending = s.pending ∧ (s.modMod f).tick = s.tick ∧ (s.modMod f).wet = s.wet ∧
    (s.modMod f).sent = s.sent ∧ (s.modMod f).freeCtr = s.freeCtr ∧ (s.modMod f).nextId = s.nextId ∧
    (s.modMod f).mod = f s.mod ∧ (s.modMod f).sec = s.sec ∧ (s.modMod f).dram = s.dram ∧
    (s.modMod f).losses = s.losses ∧ (s.modMod f).poison = s.poison ∧ (s.modMod f).hostMem = s.hostMem ∧
    (s.modMod f).slices = s.slices ∧ (s.modMod f).memCounters = s.memCounters ∧ (s.modMod f).cistern = s.cistern ∧
    (s.modMod f).cisMiss = s.cisMiss ∧ (s.modMod f).cisInq = s.cisInq ∧ (s.modMod f).cisDead = s.cisDead ∧
    (s.modMod f).cisCounters = s.cisCounters ∧ (s.modMod f).adminHeld = s.adminHeld ∧
    (s.modMod f).flights = s.flights ∧ (s.modMod f).issues = s.issues ∧ (s.modMod f).walks = s.walks ∧
    (s.modMod f).stackLocal = s.stackLocal ∧ (s.modMod f).localActive = s.localActive ∧
    (s.modMod f).layoutRejected = s.layoutRejected ∧ (s.modMod f).keepCap = s.keepCap ∧
    (s.modMod f).deadPoison = s.deadPoison ∧ (s.modMod f).capClamped = s.capClamped ∧
    (s.modMod f).keepSweep = s.keepSweep ∧ (s.modMod f).ctxs = s.ctxs ∧ (s.modMod f).objs = s.objs ∧
    (s.modMod f).kernels = s.kernels ∧ (s.modMod f).pendingOrder = s.pendingOrder ∧
    (s.modMod f).ctxEnable = s.ctxEnable ∧ (s.modMod f).ctxActive = s.ctxActive ∧ (s.modMod f).ctxBase = s.ctxBase ∧
    (s.modMod f).ctxBaseActive = s.ctxBaseActive ∧ (s.modMod f).bar4Base = s.bar4Base ∧
    (s.modMod f).bar4Blocked = s.bar4Blocked ∧ (s.modMod f).fns = s.fns ∧ (s.modMod f).nVf = s.nVf ∧
    (s.modMod f).ats = s.ats ∧ (s.modMod f).invalid = s.invalid ∧ (s.modMod f).copyNext = s.copyNext ∧
    (s.modMod f).tiles = s.tiles ∧ (s.modMod f).sluices = s.sluices ∧ (s.modMod f).lines = s.lines ∧
    (s.modMod f).sync = s.sync ∧ (s.modMod f).fab = s.fab ∧ (s.modMod f).timed = s.timed ∧
    (s.modMod f).power = s.power ∧ (s.modMod f).gauge = s.gauge ∧ (s.modMod f).hal = s.hal ∧
    (s.modMod f).repair = s.repair ∧ (s.modMod f).hdwk = s.hdwk :=
  ⟨rfl, rfl, rfl, rfl, rfl, rfl, rfl, rfl, rfl, rfl, rfl, rfl, rfl, rfl, rfl, rfl, rfl, rfl, rfl, rfl, rfl, rfl, rfl, rfl, rfl, rfl, rfl, rfl, rfl, rfl, rfl, rfl, rfl, rfl, rfl, rfl, rfl, rfl, rfl, rfl, rfl, rfl, rfl, rfl, rfl, rfl, rfl, rfl, rfl, rfl, rfl, rfl, rfl, rfl, rfl, rfl⟩

@[simp] theorem State.modFab_fields (f : Fabric → Fabric) :
    (s.modFab f).pending = s.pending ∧ (s.modFab f).tick = s.tick ∧ (s.modFab f).wet = s.wet ∧
    (s.modFab f).sent = s.sent ∧ (s.modFab f).freeCtr = s.freeCtr ∧ (s.modFab f).nextId = s.nextId ∧
    (s.modFab f).mod = s.mod ∧ (s.modFab f).sec = s.sec ∧ (s.modFab f).dram = s.dram ∧
    (s.modFab f).losses = s.losses ∧ (s.modFab f).poison = s.poison ∧ (s.modFab f).hostMem = s.hostMem ∧
    (s.modFab f).slices = s.slices ∧ (s.modFab f).memCounters = s.memCounters ∧ (s.modFab f).cistern = s.cistern ∧
    (s.modFab f).cisMiss = s.cisMiss ∧ (s.modFab f).cisInq = s.cisInq ∧ (s.modFab f).cisDead = s.cisDead ∧
    (s.modFab f).cisCounters = s.cisCounters ∧ (s.modFab f).adminHeld = s.adminHeld ∧
    (s.modFab f).flights = s.flights ∧ (s.modFab f).issues = s.issues ∧ (s.modFab f).walks = s.walks ∧
    (s.modFab f).stackLocal = s.stackLocal ∧ (s.modFab f).localActive = s.localActive ∧
    (s.modFab f).layoutRejected = s.layoutRejected ∧ (s.modFab f).keepCap = s.keepCap ∧
    (s.modFab f).deadPoison = s.deadPoison ∧ (s.modFab f).capClamped = s.capClamped ∧
    (s.modFab f).keepSweep = s.keepSweep ∧ (s.modFab f).ctxs = s.ctxs ∧ (s.modFab f).objs = s.objs ∧
    (s.modFab f).kernels = s.kernels ∧ (s.modFab f).pendingOrder = s.pendingOrder ∧
    (s.modFab f).ctxEnable = s.ctxEnable ∧ (s.modFab f).ctxActive = s.ctxActive ∧ (s.modFab f).ctxBase = s.ctxBase ∧
    (s.modFab f).ctxBaseActive = s.ctxBaseActive ∧ (s.modFab f).bar4Base = s.bar4Base ∧
    (s.modFab f).bar4Blocked = s.bar4Blocked ∧ (s.modFab f).fns = s.fns ∧ (s.modFab f).nVf = s.nVf ∧
    (s.modFab f).ats = s.ats ∧ (s.modFab f).invalid = s.invalid ∧ (s.modFab f).copyNext = s.copyNext ∧
    (s.modFab f).tiles = s.tiles ∧ (s.modFab f).sluices = s.sluices ∧ (s.modFab f).lines = s.lines ∧
    (s.modFab f).sync = s.sync ∧ (s.modFab f).fab = f s.fab ∧ (s.modFab f).timed = s.timed ∧
    (s.modFab f).power = s.power ∧ (s.modFab f).gauge = s.gauge ∧ (s.modFab f).hal = s.hal ∧
    (s.modFab f).repair = s.repair ∧ (s.modFab f).hdwk = s.hdwk :=
  ⟨rfl, rfl, rfl, rfl, rfl, rfl, rfl, rfl, rfl, rfl, rfl, rfl, rfl, rfl, rfl, rfl, rfl, rfl, rfl, rfl, rfl, rfl, rfl, rfl, rfl, rfl, rfl, rfl, rfl, rfl, rfl, rfl, rfl, rfl, rfl, rfl, rfl, rfl, rfl, rfl, rfl, rfl, rfl, rfl, rfl, rfl, rfl, rfl, rfl, rfl, rfl, rfl, rfl, rfl, rfl, rfl⟩

@[simp] theorem State.modTimed_fields (f : Timed → Timed) :
    (s.modTimed f).pending = s.pending ∧ (s.modTimed f).tick = s.tick ∧ (s.modTimed f).wet = s.wet ∧
    (s.modTimed f).sent = s.sent ∧ (s.modTimed f).freeCtr = s.freeCtr ∧ (s.modTimed f).nextId = s.nextId ∧
    (s.modTimed f).mod = s.mod ∧ (s.modTimed f).sec = s.sec ∧ (s.modTimed f).dram = s.dram ∧
    (s.modTimed f).losses = s.losses ∧ (s.modTimed f).poison = s.poison ∧ (s.modTimed f).hostMem = s.hostMem ∧
    (s.modTimed f).slices = s.slices ∧ (s.modTimed f).memCounters = s.memCounters ∧
    (s.modTimed f).cistern = s.cistern ∧ (s.modTimed f).cisMiss = s.cisMiss ∧ (s.modTimed f).cisInq = s.cisInq ∧
    (s.modTimed f).cisDead = s.cisDead ∧ (s.modTimed f).cisCounters = s.cisCounters ∧
    (s.modTimed f).adminHeld = s.adminHeld ∧ (s.modTimed f).flights = s.flights ∧ (s.modTimed f).issues = s.issues ∧
    (s.modTimed f).walks = s.walks ∧ (s.modTimed f).stackLocal = s.stackLocal ∧
    (s.modTimed f).localActive = s.localActive ∧ (s.modTimed f).layoutRejected = s.layoutRejected ∧
    (s.modTimed f).keepCap = s.keepCap ∧ (s.modTimed f).deadPoison = s.deadPoison ∧
    (s.modTimed f).capClamped = s.capClamped ∧ (s.modTimed f).keepSweep = s.keepSweep ∧ (s.modTimed f).ctxs = s.ctxs ∧
    (s.modTimed f).objs = s.objs ∧ (s.modTimed f).kernels = s.kernels ∧ (s.modTimed f).pendingOrder = s.pendingOrder ∧
    (s.modTimed f).ctxEnable = s.ctxEnable ∧ (s.modTimed f).ctxActive = s.ctxActive ∧
    (s.modTimed f).ctxBase = s.ctxBase ∧ (s.modTimed f).ctxBaseActive = s.ctxBaseActive ∧
    (s.modTimed f).bar4Base = s.bar4Base ∧ (s.modTimed f).bar4Blocked = s.bar4Blocked ∧ (s.modTimed f).fns = s.fns ∧
    (s.modTimed f).nVf = s.nVf ∧ (s.modTimed f).ats = s.ats ∧ (s.modTimed f).invalid = s.invalid ∧
    (s.modTimed f).copyNext = s.copyNext ∧ (s.modTimed f).tiles = s.tiles ∧ (s.modTimed f).sluices = s.sluices ∧
    (s.modTimed f).lines = s.lines ∧ (s.modTimed f).sync = s.sync ∧ (s.modTimed f).fab = s.fab ∧
    (s.modTimed f).timed = f s.timed ∧ (s.modTimed f).power = s.power ∧ (s.modTimed f).gauge = s.gauge ∧
    (s.modTimed f).hal = s.hal ∧ (s.modTimed f).repair = s.repair ∧ (s.modTimed f).hdwk = s.hdwk :=
  ⟨rfl, rfl, rfl, rfl, rfl, rfl, rfl, rfl, rfl, rfl, rfl, rfl, rfl, rfl, rfl, rfl, rfl, rfl, rfl, rfl, rfl, rfl, rfl, rfl, rfl, rfl, rfl, rfl, rfl, rfl, rfl, rfl, rfl, rfl, rfl, rfl, rfl, rfl, rfl, rfl, rfl, rfl, rfl, rfl, rfl, rfl, rfl, rfl, rfl, rfl, rfl, rfl, rfl, rfl, rfl, rfl⟩

@[simp] theorem State.modGauge_fields (f : Gauge → Gauge) :
    (s.modGauge f).pending = s.pending ∧ (s.modGauge f).tick = s.tick ∧ (s.modGauge f).wet = s.wet ∧
    (s.modGauge f).sent = s.sent ∧ (s.modGauge f).freeCtr = s.freeCtr ∧ (s.modGauge f).nextId = s.nextId ∧
    (s.modGauge f).mod = s.mod ∧ (s.modGauge f).sec = s.sec ∧ (s.modGauge f).dram = s.dram ∧
    (s.modGauge f).losses = s.losses ∧ (s.modGauge f).poison = s.poison ∧ (s.modGauge f).hostMem = s.hostMem ∧
    (s.modGauge f).slices = s.slices ∧ (s.modGauge f).memCounters = s.memCounters ∧
    (s.modGauge f).cistern = s.cistern ∧ (s.modGauge f).cisMiss = s.cisMiss ∧ (s.modGauge f).cisInq = s.cisInq ∧
    (s.modGauge f).cisDead = s.cisDead ∧ (s.modGauge f).cisCounters = s.cisCounters ∧
    (s.modGauge f).adminHeld = s.adminHeld ∧ (s.modGauge f).flights = s.flights ∧ (s.modGauge f).issues = s.issues ∧
    (s.modGauge f).walks = s.walks ∧ (s.modGauge f).stackLocal = s.stackLocal ∧
    (s.modGauge f).localActive = s.localActive ∧ (s.modGauge f).layoutRejected = s.layoutRejected ∧
    (s.modGauge f).keepCap = s.keepCap ∧ (s.modGauge f).deadPoison = s.deadPoison ∧
    (s.modGauge f).capClamped = s.capClamped ∧ (s.modGauge f).keepSweep = s.keepSweep ∧ (s.modGauge f).ctxs = s.ctxs ∧
    (s.modGauge f).objs = s.objs ∧ (s.modGauge f).kernels = s.kernels ∧ (s.modGauge f).pendingOrder = s.pendingOrder ∧
    (s.modGauge f).ctxEnable = s.ctxEnable ∧ (s.modGauge f).ctxActive = s.ctxActive ∧
    (s.modGauge f).ctxBase = s.ctxBase ∧ (s.modGauge f).ctxBaseActive = s.ctxBaseActive ∧
    (s.modGauge f).bar4Base = s.bar4Base ∧ (s.modGauge f).bar4Blocked = s.bar4Blocked ∧ (s.modGauge f).fns = s.fns ∧
    (s.modGauge f).nVf = s.nVf ∧ (s.modGauge f).ats = s.ats ∧ (s.modGauge f).invalid = s.invalid ∧
    (s.modGauge f).copyNext = s.copyNext ∧ (s.modGauge f).tiles = s.tiles ∧ (s.modGauge f).sluices = s.sluices ∧
    (s.modGauge f).lines = s.lines ∧ (s.modGauge f).sync = s.sync ∧ (s.modGauge f).fab = s.fab ∧
    (s.modGauge f).timed = s.timed ∧ (s.modGauge f).power = s.power ∧ (s.modGauge f).gauge = f s.gauge ∧
    (s.modGauge f).hal = s.hal ∧ (s.modGauge f).repair = s.repair ∧ (s.modGauge f).hdwk = s.hdwk :=
  ⟨rfl, rfl, rfl, rfl, rfl, rfl, rfl, rfl, rfl, rfl, rfl, rfl, rfl, rfl, rfl, rfl, rfl, rfl, rfl, rfl, rfl, rfl, rfl, rfl, rfl, rfl, rfl, rfl, rfl, rfl, rfl, rfl, rfl, rfl, rfl, rfl, rfl, rfl, rfl, rfl, rfl, rfl, rfl, rfl, rfl, rfl, rfl, rfl, rfl, rfl, rfl, rfl, rfl, rfl, rfl, rfl⟩

@[simp] theorem State.modSync_fields (f : Sync → Sync) :
    (s.modSync f).pending = s.pending ∧ (s.modSync f).tick = s.tick ∧ (s.modSync f).wet = s.wet ∧
    (s.modSync f).sent = s.sent ∧ (s.modSync f).freeCtr = s.freeCtr ∧ (s.modSync f).nextId = s.nextId ∧
    (s.modSync f).mod = s.mod ∧ (s.modSync f).sec = s.sec ∧ (s.modSync f).dram = s.dram ∧
    (s.modSync f).losses = s.losses ∧ (s.modSync f).poison = s.poison ∧ (s.modSync f).hostMem = s.hostMem ∧
    (s.modSync f).slices = s.slices ∧ (s.modSync f).memCounters = s.memCounters ∧ (s.modSync f).cistern = s.cistern ∧
    (s.modSync f).cisMiss = s.cisMiss ∧ (s.modSync f).cisInq = s.cisInq ∧ (s.modSync f).cisDead = s.cisDead ∧
    (s.modSync f).cisCounters = s.cisCounters ∧ (s.modSync f).adminHeld = s.adminHeld ∧
    (s.modSync f).flights = s.flights ∧ (s.modSync f).issues = s.issues ∧ (s.modSync f).walks = s.walks ∧
    (s.modSync f).stackLocal = s.stackLocal ∧ (s.modSync f).localActive = s.localActive ∧
    (s.modSync f).layoutRejected = s.layoutRejected ∧ (s.modSync f).keepCap = s.keepCap ∧
    (s.modSync f).deadPoison = s.deadPoison ∧ (s.modSync f).capClamped = s.capClamped ∧
    (s.modSync f).keepSweep = s.keepSweep ∧ (s.modSync f).ctxs = s.ctxs ∧ (s.modSync f).objs = s.objs ∧
    (s.modSync f).kernels = s.kernels ∧ (s.modSync f).pendingOrder = s.pendingOrder ∧
    (s.modSync f).ctxEnable = s.ctxEnable ∧ (s.modSync f).ctxActive = s.ctxActive ∧
    (s.modSync f).ctxBase = s.ctxBase ∧ (s.modSync f).ctxBaseActive = s.ctxBaseActive ∧
    (s.modSync f).bar4Base = s.bar4Base ∧ (s.modSync f).bar4Blocked = s.bar4Blocked ∧ (s.modSync f).fns = s.fns ∧
    (s.modSync f).nVf = s.nVf ∧ (s.modSync f).ats = s.ats ∧ (s.modSync f).invalid = s.invalid ∧
    (s.modSync f).copyNext = s.copyNext ∧ (s.modSync f).tiles = s.tiles ∧ (s.modSync f).sluices = s.sluices ∧
    (s.modSync f).lines = s.lines ∧ (s.modSync f).sync = f s.sync ∧ (s.modSync f).fab = s.fab ∧
    (s.modSync f).timed = s.timed ∧ (s.modSync f).power = s.power ∧ (s.modSync f).gauge = s.gauge ∧
    (s.modSync f).hal = s.hal ∧ (s.modSync f).repair = s.repair ∧ (s.modSync f).hdwk = s.hdwk :=
  ⟨rfl, rfl, rfl, rfl, rfl, rfl, rfl, rfl, rfl, rfl, rfl, rfl, rfl, rfl, rfl, rfl, rfl, rfl, rfl, rfl, rfl, rfl, rfl, rfl, rfl, rfl, rfl, rfl, rfl, rfl, rfl, rfl, rfl, rfl, rfl, rfl, rfl, rfl, rfl, rfl, rfl, rfl, rfl, rfl, rfl, rfl, rfl, rfl, rfl, rfl, rfl, rfl, rfl, rfl, rfl, rfl⟩

@[simp] theorem State.modRegion_fields (f : Region → Region) :
    (s.modRegion f).pending = s.pending ∧ (s.modRegion f).tick = s.tick ∧ (s.modRegion f).wet = s.wet ∧
    (s.modRegion f).sent = s.sent ∧ (s.modRegion f).freeCtr = s.freeCtr ∧ (s.modRegion f).nextId = s.nextId ∧
    (s.modRegion f).mod = s.mod ∧ (s.modRegion f).sec = s.sec ∧ (s.modRegion f).dram = s.dram ∧
    (s.modRegion f).losses = s.losses ∧ (s.modRegion f).poison = s.poison ∧ (s.modRegion f).hostMem = s.hostMem ∧
    (s.modRegion f).slices = s.slices ∧ (s.modRegion f).memCounters = s.memCounters ∧
    (s.modRegion f).cistern = s.cistern ∧ (s.modRegion f).cisMiss = s.cisMiss ∧ (s.modRegion f).cisInq = s.cisInq ∧
    (s.modRegion f).cisDead = s.cisDead ∧ (s.modRegion f).cisCounters = s.cisCounters ∧
    (s.modRegion f).adminHeld = s.adminHeld ∧ (s.modRegion f).flights = s.flights ∧
    (s.modRegion f).issues = s.issues ∧ (s.modRegion f).walks = s.walks ∧ (s.modRegion f).stackLocal = s.stackLocal ∧
    (s.modRegion f).localActive = s.localActive ∧ (s.modRegion f).layoutRejected = s.layoutRejected ∧
    (s.modRegion f).keepCap = s.keepCap ∧ (s.modRegion f).deadPoison = s.deadPoison ∧
    (s.modRegion f).capClamped = s.capClamped ∧ (s.modRegion f).keepSweep = s.keepSweep ∧
    (s.modRegion f).ctxs = s.ctxs ∧ (s.modRegion f).objs = s.objs ∧ (s.modRegion f).kernels = s.kernels ∧
    (s.modRegion f).pendingOrder = s.pendingOrder ∧ (s.modRegion f).ctxEnable = s.ctxEnable ∧
    (s.modRegion f).ctxActive = s.ctxActive ∧ (s.modRegion f).ctxBase = s.ctxBase ∧
    (s.modRegion f).ctxBaseActive = s.ctxBaseActive ∧ (s.modRegion f).bar4Base = s.bar4Base ∧
    (s.modRegion f).bar4Blocked = s.bar4Blocked ∧ (s.modRegion f).fns = s.fns ∧ (s.modRegion f).nVf = s.nVf ∧
    (s.modRegion f).ats = s.ats ∧ (s.modRegion f).invalid = s.invalid ∧ (s.modRegion f).copyNext = s.copyNext ∧
    (s.modRegion f).tiles = s.tiles ∧ (s.modRegion f).sluices = s.sluices ∧ (s.modRegion f).lines = s.lines ∧
    (s.modRegion f).sync = s.sync ∧ (s.modRegion f).fab = s.fab ∧
    (s.modRegion f).timed = { s.timed with region := s.timed.region.map f } ∧ (s.modRegion f).power = s.power ∧
    (s.modRegion f).gauge = s.gauge ∧ (s.modRegion f).hal = s.hal ∧ (s.modRegion f).repair = s.repair ∧
    (s.modRegion f).hdwk = s.hdwk :=
  ⟨rfl, rfl, rfl, rfl, rfl, rfl, rfl, rfl, rfl, rfl, rfl, rfl, rfl, rfl, rfl, rfl, rfl, rfl, rfl, rfl, rfl, rfl, rfl, rfl, rfl, rfl, rfl, rfl, rfl, rfl, rfl, rfl, rfl, rfl, rfl, rfl, rfl, rfl, rfl, rfl, rfl, rfl, rfl, rfl, rfl, rfl, rfl, rfl, rfl, rfl, rfl, rfl, rfl, rfl, rfl, rfl⟩

@[simp] theorem State.defer_fields (c : Instr) :
    (s.defer c).pending = s.pending ∧ (s.defer c).tick = s.tick ∧ (s.defer c).wet = s.wet ∧
    (s.defer c).sent = s.sent ∧ (s.defer c).freeCtr = s.freeCtr ∧ (s.defer c).nextId = s.nextId ∧
    (s.defer c).mod = s.mod ∧ (s.defer c).sec = s.sec ∧ (s.defer c).dram = s.dram ∧ (s.defer c).losses = s.losses ∧
    (s.defer c).poison = s.poison ∧ (s.defer c).hostMem = s.hostMem ∧ (s.defer c).slices = s.slices ∧
    (s.defer c).memCounters = s.memCounters ∧ (s.defer c).cistern = s.cistern ∧ (s.defer c).cisMiss = s.cisMiss ∧
    (s.defer c).cisInq = s.cisInq ∧ (s.defer c).cisDead = s.cisDead ∧ (s.defer c).cisCounters = s.cisCounters ∧
    (s.defer c).adminHeld = s.adminHeld ∧ (s.defer c).flights = s.flights ∧ (s.defer c).issues = s.issues ∧
    (s.defer c).walks = s.walks ∧ (s.defer c).stackLocal = s.stackLocal ∧ (s.defer c).localActive = s.localActive ∧
    (s.defer c).layoutRejected = s.layoutRejected ∧ (s.defer c).keepCap = s.keepCap ∧
    (s.defer c).deadPoison = s.deadPoison ∧ (s.defer c).capClamped = s.capClamped ∧
    (s.defer c).keepSweep = s.keepSweep ∧ (s.defer c).ctxs = s.ctxs ∧ (s.defer c).objs = s.objs ∧
    (s.defer c).kernels = s.kernels ∧ (s.defer c).pendingOrder = s.pendingOrder ∧
    (s.defer c).ctxEnable = s.ctxEnable ∧ (s.defer c).ctxActive = s.ctxActive ∧ (s.defer c).ctxBase = s.ctxBase ∧
    (s.defer c).ctxBaseActive = s.ctxBaseActive ∧ (s.defer c).bar4Base = s.bar4Base ∧
    (s.defer c).bar4Blocked = s.bar4Blocked ∧ (s.defer c).fns = s.fns ∧ (s.defer c).nVf = s.nVf ∧
    (s.defer c).ats = s.ats ∧ (s.defer c).invalid = s.invalid ∧ (s.defer c).copyNext = s.copyNext ∧
    (s.defer c).tiles = s.tiles ∧ (s.defer c).sluices = s.sluices ∧ (s.defer c).lines = s.lines ∧
    (s.defer c).sync = s.sync ∧ (s.defer c).fab = s.fab ∧ (s.defer c).timed = s.timed ∧ (s.defer c).power = s.power ∧
    (s.defer c).gauge = s.gauge ∧ (s.defer c).hal = { s.hal with deferred := s.hal.deferred ++ [c] } ∧
    (s.defer c).repair = s.repair ∧ (s.defer c).hdwk = s.hdwk :=
  ⟨rfl, rfl, rfl, rfl, rfl, rfl, rfl, rfl, rfl, rfl, rfl, rfl, rfl, rfl, rfl, rfl, rfl, rfl, rfl, rfl, rfl, rfl, rfl, rfl, rfl, rfl, rfl, rfl, rfl, rfl, rfl, rfl, rfl, rfl, rfl, rfl, rfl, rfl, rfl, rfl, rfl, rfl, rfl, rfl, rfl, rfl, rfl, rfl, rfl, rfl, rfl, rfl, rfl, rfl, rfl, rfl⟩

@[simp] theorem State.logEntry_fields (k : LogKind) (l : List Nat) :
    (s.logEntry k l).pending = s.pending ∧ (s.logEntry k l).tick = s.tick ∧ (s.logEntry k l).wet = s.wet ∧
    (s.logEntry k l).sent = s.sent ∧ (s.logEntry k l).freeCtr = s.freeCtr ∧ (s.logEntry k l).nextId = s.nextId ∧
    (s.logEntry k l).mod = s.mod ∧ (s.logEntry k l).sec = s.sec ∧ (s.logEntry k l).dram = s.dram ∧
    (s.logEntry k l).losses = s.losses ∧ (s.logEntry k l).poison = s.poison ∧ (s.logEntry k l).hostMem = s.hostMem ∧
    (s.logEntry k l).slices = s.slices ∧ (s.logEntry k l).memCounters = s.memCounters ∧
    (s.logEntry k l).cistern = s.cistern ∧ (s.logEntry k l).cisMiss = s.cisMiss ∧ (s.logEntry k l).cisInq = s.cisInq ∧
    (s.logEntry k l).cisDead = s.cisDead ∧ (s.logEntry k l).cisCounters = s.cisCounters ∧
    (s.logEntry k l).adminHeld = s.adminHeld ∧ (s.logEntry k l).flights = s.flights ∧
    (s.logEntry k l).issues = s.issues ∧ (s.logEntry k l).walks = s.walks ∧
    (s.logEntry k l).stackLocal = s.stackLocal ∧ (s.logEntry k l).localActive = s.localActive ∧
    (s.logEntry k l).layoutRejected = s.layoutRejected ∧ (s.logEntry k l).keepCap = s.keepCap ∧
    (s.logEntry k l).deadPoison = s.deadPoison ∧ (s.logEntry k l).capClamped = s.capClamped ∧
    (s.logEntry k l).keepSweep = s.keepSweep ∧ (s.logEntry k l).ctxs = s.ctxs ∧ (s.logEntry k l).objs = s.objs ∧
    (s.logEntry k l).kernels = s.kernels ∧ (s.logEntry k l).pendingOrder = s.pendingOrder ∧
    (s.logEntry k l).ctxEnable = s.ctxEnable ∧ (s.logEntry k l).ctxActive = s.ctxActive ∧
    (s.logEntry k l).ctxBase = s.ctxBase ∧ (s.logEntry k l).ctxBaseActive = s.ctxBaseActive ∧
    (s.logEntry k l).bar4Base = s.bar4Base ∧ (s.logEntry k l).bar4Blocked = s.bar4Blocked ∧
    (s.logEntry k l).fns = s.fns ∧ (s.logEntry k l).nVf = s.nVf ∧ (s.logEntry k l).ats = s.ats ∧
    (s.logEntry k l).invalid = s.invalid ∧ (s.logEntry k l).copyNext = s.copyNext ∧ (s.logEntry k l).tiles = s.tiles ∧
    (s.logEntry k l).sluices = s.sluices ∧ (s.logEntry k l).lines = s.lines ∧ (s.logEntry k l).sync = s.sync ∧
    (s.logEntry k l).fab = s.fab ∧ (s.logEntry k l).timed = s.timed ∧ (s.logEntry k l).power = s.power ∧
    (s.logEntry k l).gauge = s.gauge ∧
    (s.logEntry k l).hal = { s.hal with log := (⟨k, l, s.tick.toNat⟩ :: s.hal.log).take 4096 } ∧
    (s.logEntry k l).repair = s.repair ∧ (s.logEntry k l).hdwk = s.hdwk :=
  ⟨rfl, rfl, rfl, rfl, rfl, rfl, rfl, rfl, rfl, rfl, rfl, rfl, rfl, rfl, rfl, rfl, rfl, rfl, rfl, rfl, rfl, rfl, rfl, rfl, rfl, rfl, rfl, rfl, rfl, rfl, rfl, rfl, rfl, rfl, rfl, rfl, rfl, rfl, rfl, rfl, rfl, rfl, rfl, rfl, rfl, rfl, rfl, rfl, rfl, rfl, rfl, rfl, rfl, rfl, rfl, rfl⟩

end Sys2Proof.Machine
end

