-- ==== Sys2Proof/Laws/Frames.lean ====
section
/-! SUPPORT. What the shared operations leave unchanged: one theorem per operation, a conjunction over the fields it
does not touch. -/

namespace Sys2Proof.Machine

theorem foldl_field {α β γ : Type} {f : α → β → α} (p : α → γ) (h : ∀ s a, p (f s a) = p s) (l : List β) :
    ∀ s, p (l.foldl f s) = p s := by
  induction l with
  | nil => intro s; rfl
  | cons a r ih => intro s; exact (ih (f s a)).trans (h s a)

variable (s : State)

/-- Tiles changed one after another. -/
@[simp] theorem foldl_modTile_frame {β : Type} (l : List β) (g : β → Nat) (f : β → Tile → Tile) :
    (l.foldl (fun s t => s.modTile (g t) (f t)) s).pending = s.pending ∧
    (l.foldl (fun s t => s.modTile (g t) (f t)) s).tick = s.tick ∧
    (l.foldl (fun s t => s.modTile (g t) (f t)) s).wet = s.wet ∧
    (l.foldl (fun s t => s.modTile (g t) (f t)) s).sent = s.sent ∧
    (l.foldl (fun s t => s.modTile (g t) (f t)) s).freeCtr = s.freeCtr ∧
    (l.foldl (fun s t => s.modTile (g t) (f t)) s).nextId = s.nextId ∧
    (l.foldl (fun s t => s.modTile (g t) (f t)) s).mod = s.mod ∧
    (l.foldl (fun s t => s.modTile (g t) (f t)) s).sec = s.sec ∧
    (l.foldl (fun s t => s.modTile (g t) (f t)) s).dram = s.dram ∧
    (l.foldl (fun s t => s.modTile (g t) (f t)) s).losses = s.losses ∧
    (l.foldl (fun s t => s.modTile (g t) (f t)) s).poison = s.poison ∧
    (l.foldl (fun s t => s.modTile (g t) (f t)) s).hostMem = s.hostMem ∧
    (l.foldl (fun s t => s.modTile (g t) (f t)) s).slices = s.slices ∧
    (l.foldl (fun s t => s.modTile (g t) (f t)) s).memCounters = s.memCounters ∧
    (l.foldl (fun s t => s.modTile (g t) (f t)) s).cistern = s.cistern ∧
    (l.foldl (fun s t => s.modTile (g t) (f t)) s).cisMiss = s.cisMiss ∧
    (l.foldl (fun s t => s.modTile (g t) (f t)) s).cisInq = s.cisInq ∧
    (l.foldl (fun s t => s.modTile (g t) (f t)) s).cisDead = s.cisDead ∧
    (l.foldl (fun s t => s.modTile (g t) (f t)) s).cisCounters = s.cisCounters ∧
    (l.foldl (fun s t => s.modTile (g t) (f t)) s).adminHeld = s.adminHeld ∧
    (l.foldl (fun s t => s.modTile (g t) (f t)) s).flights = s.flights ∧
    (l.foldl (fun s t => s.modTile (g t) (f t)) s).issues = s.issues ∧
    (l.foldl (fun s t => s.modTile (g t) (f t)) s).walks = s.walks ∧
    (l.foldl (fun s t => s.modTile (g t) (f t)) s).stackLocal = s.stackLocal ∧
    (l.foldl (fun s t => s.modTile (g t) (f t)) s).localActive = s.localActive ∧
    (l.foldl (fun s t => s.modTile (g t) (f t)) s).layoutRejected = s.layoutRejected ∧
    (l.foldl (fun s t => s.modTile (g t) (f t)) s).keepCap = s.keepCap ∧
    (l.foldl (fun s t => s.modTile (g t) (f t)) s).deadPoison = s.deadPoison ∧
    (l.foldl (fun s t => s.modTile (g t) (f t)) s).capClamped = s.capClamped ∧
    (l.foldl (fun s t => s.modTile (g t) (f t)) s).keepSweep = s.keepSweep ∧
    (l.foldl (fun s t => s.modTile (g t) (f t)) s).ctxs = s.ctxs ∧
    (l.foldl (fun s t => s.modTile (g t) (f t)) s).objs = s.objs ∧
    (l.foldl (fun s t => s.modTile (g t) (f t)) s).kernels = s.kernels ∧
    (l.foldl (fun s t => s.modTile (g t) (f t)) s).pendingOrder = s.pendingOrder ∧
    (l.foldl (fun s t => s.modTile (g t) (f t)) s).ctxEnable = s.ctxEnable ∧
    (l.foldl (fun s t => s.modTile (g t) (f t)) s).ctxActive = s.ctxActive ∧
    (l.foldl (fun s t => s.modTile (g t) (f t)) s).ctxBase = s.ctxBase ∧
    (l.foldl (fun s t => s.modTile (g t) (f t)) s).ctxBaseActive = s.ctxBaseActive ∧
    (l.foldl (fun s t => s.modTile (g t) (f t)) s).bar4Base = s.bar4Base ∧
    (l.foldl (fun s t => s.modTile (g t) (f t)) s).bar4Blocked = s.bar4Blocked ∧
    (l.foldl (fun s t => s.modTile (g t) (f t)) s).fns = s.fns ∧
    (l.foldl (fun s t => s.modTile (g t) (f t)) s).nVf = s.nVf ∧
    (l.foldl (fun s t => s.modTile (g t) (f t)) s).ats = s.ats ∧
    (l.foldl (fun s t => s.modTile (g t) (f t)) s).invalid = s.invalid ∧
    (l.foldl (fun s t => s.modTile (g t) (f t)) s).copyNext = s.copyNext ∧
    (l.foldl (fun s t => s.modTile (g t) (f t)) s).sluices = s.sluices ∧
    (l.foldl (fun s t => s.modTile (g t) (f t)) s).lines = s.lines ∧
    (l.foldl (fun s t => s.modTile (g t) (f t)) s).sync = s.sync ∧
    (l.foldl (fun s t => s.modTile (g t) (f t)) s).fab = s.fab ∧
    (l.foldl (fun s t => s.modTile (g t) (f t)) s).timed = s.timed ∧
    (l.foldl (fun s t => s.modTile (g t) (f t)) s).power = s.power ∧
    (l.foldl (fun s t => s.modTile (g t) (f t)) s).gauge = s.gauge ∧
    (l.foldl (fun s t => s.modTile (g t) (f t)) s).hal = s.hal ∧
    (l.foldl (fun s t => s.modTile (g t) (f t)) s).repair = s.repair ∧
    (l.foldl (fun s t => s.modTile (g t) (f t)) s).hdwk = s.hdwk :=
  ⟨foldl_field State.pending (fun s a => by simp) _ _,
    foldl_field State.tick (fun s a => by simp) _ _,
    foldl_field State.wet (fun s a => by simp) _ _,
    foldl_field State.sent (fun s a => by simp) _ _,
    foldl_field State.freeCtr (fun s a => by simp) _ _,
    foldl_field State.nextId (fun s a => by simp) _ _,
    foldl_field State.mod (fun s a => by simp) _ _,
    foldl_field State.sec (fun s a => by simp) _ _,
    foldl_field State.dram (fun s a => by simp) _ _,
    foldl_field State.losses (fun s a => by simp) _ _,
    foldl_field State.poison (fun s a => by simp) _ _,
    foldl_field State.hostMem (fun s a => by simp) _ _,
    foldl_field State.slices (fun s a => by simp) _ _,
    foldl_field State.memCounters (fun s a => by simp) _ _,
    foldl_field State.cistern (fun s a => by simp) _ _,
    foldl_field State.cisMiss (fun s a => by simp) _ _,
    foldl_field State.cisInq (fun s a => by simp) _ _,
    foldl_field State.cisDead (fun s a => by simp) _ _,
    foldl_field State.cisCounters (fun s a => by simp) _ _,
    foldl_field State.adminHeld (fun s a => by simp) _ _,
    foldl_field State.flights (fun s a => by simp) _ _,
    foldl_field State.issues (fun s a => by simp) _ _,
    foldl_field State.walks (fun s a => by simp) _ _,
    foldl_field State.stackLocal (fun s a => by simp) _ _,
    foldl_field State.localActive (fun s a => by simp) _ _,
    foldl_field State.layoutRejected (fun s a => by simp) _ _,
    foldl_field State.keepCap (fun s a => by simp) _ _,
    foldl_field State.deadPoison (fun s a => by simp) _ _,
    foldl_field State.capClamped (fun s a => by simp) _ _,
    foldl_field State.keepSweep (fun s a => by simp) _ _,
    foldl_field State.ctxs (fun s a => by simp) _ _,
    foldl_field State.objs (fun s a => by simp) _ _,
    foldl_field State.kernels (fun s a => by simp) _ _,
    foldl_field State.pendingOrder (fun s a => by simp) _ _,
    foldl_field State.ctxEnable (fun s a => by simp) _ _,
    foldl_field State.ctxActive (fun s a => by simp) _ _,
    foldl_field State.ctxBase (fun s a => by simp) _ _,
    foldl_field State.ctxBaseActive (fun s a => by simp) _ _,
    foldl_field State.bar4Base (fun s a => by simp) _ _,
    foldl_field State.bar4Blocked (fun s a => by simp) _ _,
    foldl_field State.fns (fun s a => by simp) _ _,
    foldl_field State.nVf (fun s a => by simp) _ _,
    foldl_field State.ats (fun s a => by simp) _ _,
    foldl_field State.invalid (fun s a => by simp) _ _,
    foldl_field State.copyNext (fun s a => by simp) _ _,
    foldl_field State.sluices (fun s a => by simp) _ _,
    foldl_field State.lines (fun s a => by simp) _ _,
    foldl_field State.sync (fun s a => by simp) _ _,
    foldl_field State.fab (fun s a => by simp) _ _,
    foldl_field State.timed (fun s a => by simp) _ _,
    foldl_field State.power (fun s a => by simp) _ _,
    foldl_field State.gauge (fun s a => by simp) _ _,
    foldl_field State.hal (fun s a => by simp) _ _,
    foldl_field State.repair (fun s a => by simp) _ _,
    foldl_field State.hdwk (fun s a => by simp) _ _⟩

theorem tickUntil_field {γ : Type} (p : State → γ) (h : ∀ s : State, p s.tickOnce = p s) (w n : Nat) :
    ∀ s, p (tickUntil n w s) = p s := by
  induction n with
  | zero => intro s; rfl
  | succ n ih =>
    intro s
    unfold tickUntil
    split
    · rfl
    · exact (ih _).trans (h s)

@[simp] theorem State.tickOnce_frame :
    s.tickOnce.pending = s.pending ∧ s.tickOnce.sent = s.sent ∧ s.tickOnce.freeCtr = s.freeCtr ∧
    s.tickOnce.nextId = s.nextId ∧ s.tickOnce.mod = s.mod ∧ s.tickOnce.sec = s.sec ∧ s.tickOnce.dram = s.dram ∧
    s.tickOnce.losses = s.losses ∧ s.tickOnce.poison = s.poison ∧ s.tickOnce.hostMem = s.hostMem ∧
    s.tickOnce.slices = s.slices ∧ s.tickOnce.memCounters = s.memCounters ∧ s.tickOnce.cistern = s.cistern ∧
    s.tickOnce.cisMiss = s.cisMiss ∧ s.tickOnce.cisInq = s.cisInq ∧ s.tickOnce.cisDead = s.cisDead ∧
    s.tickOnce.cisCounters = s.cisCounters ∧ s.tickOnce.adminHeld = s.adminHeld ∧ s.tickOnce.flights = s.flights ∧
    s.tickOnce.issues = s.issues ∧ s.tickOnce.walks = s.walks ∧ s.tickOnce.stackLocal = s.stackLocal ∧
    s.tickOnce.localActive = s.localActive ∧ s.tickOnce.layoutRejected = s.layoutRejected ∧
    s.tickOnce.keepCap = s.keepCap ∧ s.tickOnce.deadPoison = s.deadPoison ∧ s.tickOnce.capClamped = s.capClamped ∧
    s.tickOnce.keepSweep = s.keepSweep ∧ s.tickOnce.ctxs = s.ctxs ∧ s.tickOnce.objs = s.objs ∧
    s.tickOnce.kernels = s.kernels ∧ s.tickOnce.pendingOrder = s.pendingOrder ∧ s.tickOnce.ctxEnable = s.ctxEnable ∧
    s.tickOnce.ctxActive = s.ctxActive ∧ s.tickOnce.ctxBase = s.ctxBase ∧ s.tickOnce.ctxBaseActive = s.ctxBaseActive ∧
    s.tickOnce.bar4Base = s.bar4Base ∧ s.tickOnce.bar4Blocked = s.bar4Blocked ∧ s.tickOnce.fns = s.fns ∧
    s.tickOnce.nVf = s.nVf ∧ s.tickOnce.ats = s.ats ∧ s.tickOnce.invalid = s.invalid ∧
    s.tickOnce.copyNext = s.copyNext ∧ s.tickOnce.tiles = s.tiles ∧ s.tickOnce.sluices = s.sluices ∧
    s.tickOnce.lines = s.lines ∧ s.tickOnce.sync = s.sync ∧ s.tickOnce.fab = s.fab ∧ s.tickOnce.timed = s.timed ∧
    s.tickOnce.gauge = s.gauge ∧ s.tickOnce.repair = s.repair ∧ s.tickOnce.hdwk = s.hdwk := by
  unfold State.tickOnce
  try dsimp only
  repeat' split
  all_goals simp

@[simp] theorem State.waitWet_frame (w : ℕ) :
    (s.waitWet w).pending = s.pending ∧ (s.waitWet w).sent = s.sent ∧ (s.waitWet w).freeCtr = s.freeCtr ∧
    (s.waitWet w).nextId = s.nextId ∧ (s.waitWet w).mod = s.mod ∧ (s.waitWet w).sec = s.sec ∧
    (s.waitWet w).dram = s.dram ∧ (s.waitWet w).losses = s.losses ∧ (s.waitWet w).poison = s.poison ∧
    (s.waitWet w).hostMem = s.hostMem ∧ (s.waitWet w).slices = s.slices ∧ (s.waitWet w).memCounters = s.memCounters ∧
    (s.waitWet w).cistern = s.cistern ∧ (s.waitWet w).cisMiss = s.cisMiss ∧ (s.waitWet w).cisInq = s.cisInq ∧
    (s.waitWet w).cisDead = s.cisDead ∧ (s.waitWet w).cisCounters = s.cisCounters ∧
    (s.waitWet w).adminHeld = s.adminHeld ∧ (s.waitWet w).flights = s.flights ∧ (s.waitWet w).issues = s.issues ∧
    (s.waitWet w).walks = s.walks ∧ (s.waitWet w).stackLocal = s.stackLocal ∧
    (s.waitWet w).localActive = s.localActive ∧ (s.waitWet w).layoutRejected = s.layoutRejected ∧
    (s.waitWet w).keepCap = s.keepCap ∧ (s.waitWet w).deadPoison = s.deadPoison ∧
    (s.waitWet w).capClamped = s.capClamped ∧ (s.waitWet w).keepSweep = s.keepSweep ∧ (s.waitWet w).ctxs = s.ctxs ∧
    (s.waitWet w).objs = s.objs ∧ (s.waitWet w).kernels = s.kernels ∧ (s.waitWet w).pendingOrder = s.pendingOrder ∧
    (s.waitWet w).ctxEnable = s.ctxEnable ∧ (s.waitWet w).ctxActive = s.ctxActive ∧
    (s.waitWet w).ctxBase = s.ctxBase ∧ (s.waitWet w).ctxBaseActive = s.ctxBaseActive ∧
    (s.waitWet w).bar4Base = s.bar4Base ∧ (s.waitWet w).bar4Blocked = s.bar4Blocked ∧ (s.waitWet w).fns = s.fns ∧
    (s.waitWet w).nVf = s.nVf ∧ (s.waitWet w).ats = s.ats ∧ (s.waitWet w).invalid = s.invalid ∧
    (s.waitWet w).copyNext = s.copyNext ∧ (s.waitWet w).tiles = s.tiles ∧ (s.waitWet w).sluices = s.sluices ∧
    (s.waitWet w).lines = s.lines ∧ (s.waitWet w).sync = s.sync ∧ (s.waitWet w).fab = s.fab ∧
    (s.waitWet w).timed = s.timed ∧ (s.waitWet w).gauge = s.gauge ∧ (s.waitWet w).repair = s.repair ∧
    (s.waitWet w).hdwk = s.hdwk := by
  unfold State.waitWet
  exact ⟨tickUntil_field State.pending (fun s => by simp) _ _ s,
    tickUntil_field State.sent (fun s => by simp) _ _ s,
    tickUntil_field State.freeCtr (fun s => by simp) _ _ s,
    tickUntil_field State.nextId (fun s => by simp) _ _ s,
    tickUntil_field State.mod (fun s => by simp) _ _ s,
    tickUntil_field State.sec (fun s => by simp) _ _ s,
    tickUntil_field State.dram (fun s => by simp) _ _ s,
    tickUntil_field State.losses (fun s => by simp) _ _ s,
    tickUntil_field State.poison (fun s => by simp) _ _ s,
    tickUntil_field State.hostMem (fun s => by simp) _ _ s,
    tickUntil_field State.slices (fun s => by simp) _ _ s,
    tickUntil_field State.memCounters (fun s => by simp) _ _ s,
    tickUntil_field State.cistern (fun s => by simp) _ _ s,
    tickUntil_field State.cisMiss (fun s => by simp) _ _ s,
    tickUntil_field State.cisInq (fun s => by simp) _ _ s,
    tickUntil_field State.cisDead (fun s => by simp) _ _ s,
    tickUntil_field State.cisCounters (fun s => by simp) _ _ s,
    tickUntil_field State.adminHeld (fun s => by simp) _ _ s,
    tickUntil_field State.flights (fun s => by simp) _ _ s,
    tickUntil_field State.issues (fun s => by simp) _ _ s,
    tickUntil_field State.walks (fun s => by simp) _ _ s,
    tickUntil_field State.stackLocal (fun s => by simp) _ _ s,
    tickUntil_field State.localActive (fun s => by simp) _ _ s,
    tickUntil_field State.layoutRejected (fun s => by simp) _ _ s,
    tickUntil_field State.keepCap (fun s => by simp) _ _ s,
    tickUntil_field State.deadPoison (fun s => by simp) _ _ s,
    tickUntil_field State.capClamped (fun s => by simp) _ _ s,
    tickUntil_field State.keepSweep (fun s => by simp) _ _ s,
    tickUntil_field State.ctxs (fun s => by simp) _ _ s,
    tickUntil_field State.objs (fun s => by simp) _ _ s,
    tickUntil_field State.kernels (fun s => by simp) _ _ s,
    tickUntil_field State.pendingOrder (fun s => by simp) _ _ s,
    tickUntil_field State.ctxEnable (fun s => by simp) _ _ s,
    tickUntil_field State.ctxActive (fun s => by simp) _ _ s,
    tickUntil_field State.ctxBase (fun s => by simp) _ _ s,
    tickUntil_field State.ctxBaseActive (fun s => by simp) _ _ s,
    tickUntil_field State.bar4Base (fun s => by simp) _ _ s,
    tickUntil_field State.bar4Blocked (fun s => by simp) _ _ s,
    tickUntil_field State.fns (fun s => by simp) _ _ s,
    tickUntil_field State.nVf (fun s => by simp) _ _ s,
    tickUntil_field State.ats (fun s => by simp) _ _ s,
    tickUntil_field State.invalid (fun s => by simp) _ _ s,
    tickUntil_field State.copyNext (fun s => by simp) _ _ s,
    tickUntil_field State.tiles (fun s => by simp) _ _ s,
    tickUntil_field State.sluices (fun s => by simp) _ _ s,
    tickUntil_field State.lines (fun s => by simp) _ _ s,
    tickUntil_field State.sync (fun s => by simp) _ _ s,
    tickUntil_field State.fab (fun s => by simp) _ _ s,
    tickUntil_field State.timed (fun s => by simp) _ _ s,
    tickUntil_field State.gauge (fun s => by simp) _ _ s,
    tickUntil_field State.repair (fun s => by simp) _ _ s,
    tickUntil_field State.hdwk (fun s => by simp) _ _ s⟩

@[simp] theorem State.sendMsix_frame (f : ℕ) (e : ℕ) :
    (s.sendMsix f e).pending = s.pending ∧ (s.sendMsix f e).tick = s.tick ∧ (s.sendMsix f e).wet = s.wet ∧
    (s.sendMsix f e).freeCtr = s.freeCtr ∧ (s.sendMsix f e).nextId = s.nextId ∧ (s.sendMsix f e).mod = s.mod ∧
    (s.sendMsix f e).sec = s.sec ∧ (s.sendMsix f e).dram = s.dram ∧ (s.sendMsix f e).losses = s.losses ∧
    (s.sendMsix f e).poison = s.poison ∧ (s.sendMsix f e).hostMem = s.hostMem ∧ (s.sendMsix f e).slices = s.slices ∧
    (s.sendMsix f e).memCounters = s.memCounters ∧ (s.sendMsix f e).cistern = s.cistern ∧
    (s.sendMsix f e).cisMiss = s.cisMiss ∧ (s.sendMsix f e).cisInq = s.cisInq ∧ (s.sendMsix f e).cisDead = s.cisDead ∧
    (s.sendMsix f e).cisCounters = s.cisCounters ∧ (s.sendMsix f e).adminHeld = s.adminHeld ∧
    (s.sendMsix f e).flights = s.flights ∧ (s.sendMsix f e).issues = s.issues ∧ (s.sendMsix f e).walks = s.walks ∧
    (s.sendMsix f e).stackLocal = s.stackLocal ∧ (s.sendMsix f e).localActive = s.localActive ∧
    (s.sendMsix f e).layoutRejected = s.layoutRejected ∧ (s.sendMsix f e).keepCap = s.keepCap ∧
    (s.sendMsix f e).deadPoison = s.deadPoison ∧ (s.sendMsix f e).capClamped = s.capClamped ∧
    (s.sendMsix f e).keepSweep = s.keepSweep ∧ (s.sendMsix f e).ctxs = s.ctxs ∧ (s.sendMsix f e).objs = s.objs ∧
    (s.sendMsix f e).kernels = s.kernels ∧ (s.sendMsix f e).pendingOrder = s.pendingOrder ∧
    (s.sendMsix f e).ctxEnable = s.ctxEnable ∧ (s.sendMsix f e).ctxActive = s.ctxActive ∧
    (s.sendMsix f e).ctxBase = s.ctxBase ∧ (s.sendMsix f e).ctxBaseActive = s.ctxBaseActive ∧
    (s.sendMsix f e).bar4Base = s.bar4Base ∧ (s.sendMsix f e).bar4Blocked = s.bar4Blocked ∧
    (s.sendMsix f e).nVf = s.nVf ∧ (s.sendMsix f e).ats = s.ats ∧ (s.sendMsix f e).invalid = s.invalid ∧
    (s.sendMsix f e).copyNext = s.copyNext ∧ (s.sendMsix f e).tiles = s.tiles ∧ (s.sendMsix f e).sluices = s.sluices ∧
    (s.sendMsix f e).lines = s.lines ∧ (s.sendMsix f e).sync = s.sync ∧ (s.sendMsix f e).fab = s.fab ∧
    (s.sendMsix f e).timed = s.timed ∧ (s.sendMsix f e).power = s.power ∧ (s.sendMsix f e).gauge = s.gauge ∧
    (s.sendMsix f e).hal = s.hal ∧ (s.sendMsix f e).repair = s.repair ∧ (s.sendMsix f e).hdwk = s.hdwk := by
  unfold State.sendMsix
  try dsimp only
  repeat' split
  all_goals simp

@[simp] theorem State.recordFault_frame (c : ℕ) (f : FaultRec) :
    (s.recordFault c f).pending = s.pending ∧ (s.recordFault c f).tick = s.tick ∧ (s.recordFault c f).wet = s.wet ∧
    (s.recordFault c f).freeCtr = s.freeCtr ∧ (s.recordFault c f).nextId = s.nextId ∧
    (s.recordFault c f).mod = s.mod ∧ (s.recordFault c f).sec = s.sec ∧ (s.recordFault c f).dram = s.dram ∧
    (s.recordFault c f).losses = s.losses ∧ (s.recordFault c f).poison = s.poison ∧
    (s.recordFault c f).hostMem = s.hostMem ∧ (s.recordFault c f).slices = s.slices ∧
    (s.recordFault c f).memCounters = s.memCounters ∧ (s.recordFault c f).cistern = s.cistern ∧
    (s.recordFault c f).cisMiss = s.cisMiss ∧ (s.recordFault c f).cisInq = s.cisInq ∧
    (s.recordFault c f).cisDead = s.cisDead ∧ (s.recordFault c f).cisCounters = s.cisCounters ∧
    (s.recordFault c f).adminHeld = s.adminHeld ∧ (s.recordFault c f).flights = s.flights ∧
    (s.recordFault c f).issues = s.issues ∧ (s.recordFault c f).walks = s.walks ∧
    (s.recordFault c f).stackLocal = s.stackLocal ∧ (s.recordFault c f).localActive = s.localActive ∧
    (s.recordFault c f).layoutRejected = s.layoutRejected ∧ (s.recordFault c f).keepCap = s.keepCap ∧
    (s.recordFault c f).deadPoison = s.deadPoison ∧ (s.recordFault c f).capClamped = s.capClamped ∧
    (s.recordFault c f).keepSweep = s.keepSweep ∧ (s.recordFault c f).objs = s.objs ∧
    (s.recordFault c f).kernels = s.kernels ∧ (s.recordFault c f).pendingOrder = s.pendingOrder ∧
    (s.recordFault c f).ctxEnable = s.ctxEnable ∧ (s.recordFault c f).ctxActive = s.ctxActive ∧
    (s.recordFault c f).ctxBase = s.ctxBase ∧ (s.recordFault c f).ctxBaseActive = s.ctxBaseActive ∧
    (s.recordFault c f).bar4Base = s.bar4Base ∧ (s.recordFault c f).bar4Blocked = s.bar4Blocked ∧
    (s.recordFault c f).nVf = s.nVf ∧ (s.recordFault c f).ats = s.ats ∧ (s.recordFault c f).invalid = s.invalid ∧
    (s.recordFault c f).copyNext = s.copyNext ∧ (s.recordFault c f).tiles = s.tiles ∧
    (s.recordFault c f).sluices = s.sluices ∧ (s.recordFault c f).lines = s.lines ∧
    (s.recordFault c f).sync = s.sync ∧ (s.recordFault c f).fab = s.fab ∧ (s.recordFault c f).timed = s.timed ∧
    (s.recordFault c f).power = s.power ∧ (s.recordFault c f).gauge = s.gauge ∧ (s.recordFault c f).hal = s.hal ∧
    (s.recordFault c f).repair = s.repair ∧ (s.recordFault c f).hdwk = s.hdwk := by
  unfold State.recordFault
  try dsimp only
  repeat' split
  all_goals simp

@[simp] theorem State.stopBlocks_frame (c : ℕ) :
    (s.stopBlocks c).pending = s.pending ∧ (s.stopBlocks c).tick = s.tick ∧ (s.stopBlocks c).wet = s.wet ∧
    (s.stopBlocks c).sent = s.sent ∧ (s.stopBlocks c).freeCtr = s.freeCtr ∧ (s.stopBlocks c).nextId = s.nextId ∧
    (s.stopBlocks c).mod = s.mod ∧ (s.stopBlocks c).sec = s.sec ∧ (s.stopBlocks c).dram = s.dram ∧
    (s.stopBlocks c).losses = s.losses ∧ (s.stopBlocks c).poison = s.poison ∧ (s.stopBlocks c).hostMem = s.hostMem ∧
    (s.stopBlocks c).slices = s.slices ∧ (s.stopBlocks c).memCounters = s.memCounters ∧
    (s.stopBlocks c).cistern = s.cistern ∧ (s.stopBlocks c).cisMiss = s.cisMiss ∧ (s.stopBlocks c).cisInq = s.cisInq ∧
    (s.stopBlocks c).cisDead = s.cisDead ∧ (s.stopBlocks c).cisCounters = s.cisCounters ∧
    (s.stopBlocks c).adminHeld = s.adminHeld ∧ (s.stopBlocks c).flights = s.flights ∧
    (s.stopBlocks c).issues = s.issues ∧ (s.stopBlocks c).walks = s.walks ∧
    (s.stopBlocks c).stackLocal = s.stackLocal ∧ (s.stopBlocks c).localActive = s.localActive ∧
    (s.stopBlocks c).layoutRejected = s.layoutRejected ∧ (s.stopBlocks c).keepCap = s.keepCap ∧
    (s.stopBlocks c).deadPoison = s.deadPoison ∧ (s.stopBlocks c).capClamped = s.capClamped ∧
    (s.stopBlocks c).keepSweep = s.keepSweep ∧ (s.stopBlocks c).ctxs = s.ctxs ∧ (s.stopBlocks c).objs = s.objs ∧
    (s.stopBlocks c).pendingOrder = s.pendingOrder ∧ (s.stopBlocks c).ctxEnable = s.ctxEnable ∧
    (s.stopBlocks c).ctxActive = s.ctxActive ∧ (s.stopBlocks c).ctxBase = s.ctxBase ∧
    (s.stopBlocks c).ctxBaseActive = s.ctxBaseActive ∧ (s.stopBlocks c).bar4Base = s.bar4Base ∧
    (s.stopBlocks c).bar4Blocked = s.bar4Blocked ∧ (s.stopBlocks c).fns = s.fns ∧ (s.stopBlocks c).nVf = s.nVf ∧
    (s.stopBlocks c).ats = s.ats ∧ (s.stopBlocks c).invalid = s.invalid ∧ (s.stopBlocks c).copyNext = s.copyNext ∧
    (s.stopBlocks c).sluices = s.sluices ∧ (s.stopBlocks c).lines = s.lines ∧ (s.stopBlocks c).sync = s.sync ∧
    (s.stopBlocks c).fab = s.fab ∧ (s.stopBlocks c).timed = s.timed ∧ (s.stopBlocks c).power = s.power ∧
    (s.stopBlocks c).gauge = s.gauge ∧ (s.stopBlocks c).hal = s.hal ∧ (s.stopBlocks c).repair = s.repair ∧
    (s.stopBlocks c).hdwk = s.hdwk := by
  unfold State.stopBlocks
  try dsimp only
  all_goals simp

@[simp] theorem State.gaugeAdd_frame (src : ℕ) (tick : ℕ) (late : Bool) (hold : Bool) :
    (s.gaugeAdd src tick late hold).pending = s.pending ∧ (s.gaugeAdd src tick late hold).tick = s.tick ∧
    (s.gaugeAdd src tick late hold).wet = s.wet ∧ (s.gaugeAdd src tick late hold).sent = s.sent ∧
    (s.gaugeAdd src tick late hold).freeCtr = s.freeCtr ∧ (s.gaugeAdd src tick late hold).nextId = s.nextId ∧
    (s.gaugeAdd src tick late hold).mod = s.mod ∧ (s.gaugeAdd src tick late hold).sec = s.sec ∧
    (s.gaugeAdd src tick late hold).dram = s.dram ∧ (s.gaugeAdd src tick late hold).losses = s.losses ∧
    (s.gaugeAdd src tick late hold).poison = s.poison ∧ (s.gaugeAdd src tick late hold).hostMem = s.hostMem ∧
    (s.gaugeAdd src tick late hold).slices = s.slices ∧ (s.gaugeAdd src tick late hold).memCounters = s.memCounters ∧
    (s.gaugeAdd src tick late hold).cistern = s.cistern ∧ (s.gaugeAdd src tick late hold).cisMiss = s.cisMiss ∧
    (s.gaugeAdd src tick late hold).cisInq = s.cisInq ∧ (s.gaugeAdd src tick late hold).cisDead = s.cisDead ∧
    (s.gaugeAdd src tick late hold).cisCounters = s.cisCounters ∧
    (s.gaugeAdd src tick late hold).adminHeld = s.adminHeld ∧ (s.gaugeAdd src tick late hold).flights = s.flights ∧
    (s.gaugeAdd src tick late hold).issues = s.issues ∧ (s.gaugeAdd src tick late hold).walks = s.walks ∧
    (s.gaugeAdd src tick late hold).stackLocal = s.stackLocal ∧
    (s.gaugeAdd src tick late hold).localActive = s.localActive ∧
    (s.gaugeAdd src tick late hold).layoutRejected = s.layoutRejected ∧
    (s.gaugeAdd src tick late hold).keepCap = s.keepCap ∧ (s.gaugeAdd src tick late hold).deadPoison = s.deadPoison ∧
    (s.gaugeAdd src tick late hold).capClamped = s.capClamped ∧
    (s.gaugeAdd src tick late hold).keepSweep = s.keepSweep ∧ (s.gaugeAdd src tick late hold).ctxs = s.ctxs ∧
    (s.gaugeAdd src tick late hold).objs = s.objs ∧ (s.gaugeAdd src tick late hold).kernels = s.kernels ∧
    (s.gaugeAdd src tick late hold).pendingOrder = s.pendingOrder ∧
    (s.gaugeAdd src tick late hold).ctxEnable = s.ctxEnable ∧
    (s.gaugeAdd src tick late hold).ctxActive = s.ctxActive ∧ (s.gaugeAdd src tick late hold).ctxBase = s.ctxBase ∧
    (s.gaugeAdd src tick late hold).ctxBaseActive = s.ctxBaseActive ∧
    (s.gaugeAdd src tick late hold).bar4Base = s.bar4Base ∧
    (s.gaugeAdd src tick late hold).bar4Blocked = s.bar4Blocked ∧ (s.gaugeAdd src tick late hold).fns = s.fns ∧
    (s.gaugeAdd src tick late hold).nVf = s.nVf ∧ (s.gaugeAdd src tick late hold).ats = s.ats ∧
    (s.gaugeAdd src tick late hold).invalid = s.invalid ∧ (s.gaugeAdd src tick late hold).copyNext = s.copyNext ∧
    (s.gaugeAdd src tick late hold).tiles = s.tiles ∧ (s.gaugeAdd src tick late hold).sluices = s.sluices ∧
    (s.gaugeAdd src tick late hold).lines = s.lines ∧ (s.gaugeAdd src tick late hold).sync = s.sync ∧
    (s.gaugeAdd src tick late hold).fab = s.fab ∧ (s.gaugeAdd src tick late hold).timed = s.timed ∧
    (s.gaugeAdd src tick late hold).power = s.power ∧ (s.gaugeAdd src tick late hold).hal = s.hal ∧
    (s.gaugeAdd src tick late hold).repair = s.repair ∧ (s.gaugeAdd src tick late hold).hdwk = s.hdwk := by
  unfold State.gaugeAdd
  try dsimp only
  all_goals simp

@[simp] theorem State.gaugeRequest_frame (src : ℕ) (required : Bool) (hold : Bool) :
    (s.gaugeRequest src required hold).pending = s.pending ∧ (s.gaugeRequest src required hold).tick = s.tick ∧
    (s.gaugeRequest src required hold).wet = s.wet ∧ (s.gaugeRequest src required hold).freeCtr = s.freeCtr ∧
    (s.gaugeRequest src required hold).nextId = s.nextId ∧ (s.gaugeRequest src required hold).mod = s.mod ∧
    (s.gaugeRequest src required hold).sec = s.sec ∧ (s.gaugeRequest src required hold).dram = s.dram ∧
    (s.gaugeRequest src required hold).losses = s.losses ∧ (s.gaugeRequest src required hold).poison = s.poison ∧
    (s.gaugeRequest src required hold).hostMem = s.hostMem ∧ (s.gaugeRequest src required hold).slices = s.slices ∧
    (s.gaugeRequest src required hold).memCounters = s.memCounters ∧
    (s.gaugeRequest src required hold).cistern = s.cistern ∧ (s.gaugeRequest src required hold).cisMiss = s.cisMiss ∧
    (s.gaugeRequest src required hold).cisInq = s.cisInq ∧ (s.gaugeRequest src required hold).cisDead = s.cisDead ∧
    (s.gaugeRequest src required hold).cisCounters = s.cisCounters ∧
    (s.gaugeRequest src required hold).adminHeld = s.adminHeld ∧
    (s.gaugeRequest src required hold).flights = s.flights ∧ (s.gaugeRequest src required hold).issues = s.issues ∧
    (s.gaugeRequest src required hold).walks = s.walks ∧
    (s.gaugeRequest src required hold).stackLocal = s.stackLocal ∧
    (s.gaugeRequest src required hold).localActive = s.localActive ∧
    (s.gaugeRequest src required hold).layoutRejected = s.layoutRejected ∧
    (s.gaugeRequest src required hold).keepCap = s.keepCap ∧
    (s.gaugeRequest src required hold).deadPoison = s.deadPoison ∧
    (s.gaugeRequest src required hold).capClamped = s.capClamped ∧
    (s.gaugeRequest src required hold).keepSweep = s.keepSweep ∧ (s.gaugeRequest src required hold).ctxs = s.ctxs ∧
    (s.gaugeRequest src required hold).objs = s.objs ∧ (s.gaugeRequest src required hold).kernels = s.kernels ∧
    (s.gaugeRequest src required hold).pendingOrder = s.pendingOrder ∧
    (s.gaugeRequest src required hold).ctxEnable = s.ctxEnable ∧
    (s.gaugeRequest src required hold).ctxActive = s.ctxActive ∧
    (s.gaugeRequest src required hold).ctxBase = s.ctxBase ∧
    (s.gaugeRequest src required hold).ctxBaseActive = s.ctxBaseActive ∧
    (s.gaugeRequest src required hold).bar4Base = s.bar4Base ∧
    (s.gaugeRequest src required hold).bar4Blocked = s.bar4Blocked ∧ (s.gaugeRequest src required hold).fns = s.fns ∧
    (s.gaugeRequest src required hold).nVf = s.nVf ∧ (s.gaugeRequest src required hold).ats = s.ats ∧
    (s.gaugeRequest src required hold).invalid = s.invalid ∧
    (s.gaugeRequest src required hold).copyNext = s.copyNext ∧ (s.gaugeRequest src required hold).tiles = s.tiles ∧
    (s.gaugeRequest src required hold).sluices = s.sluices ∧ (s.gaugeRequest src required hold).lines = s.lines ∧
    (s.gaugeRequest src required hold).sync = s.sync ∧ (s.gaugeRequest src required hold).fab = s.fab ∧
    (s.gaugeRequest src required hold).timed = s.timed ∧ (s.gaugeRequest src required hold).power = s.power ∧
    (s.gaugeRequest src required hold).hal = s.hal ∧ (s.gaugeRequest src required hold).repair = s.repair ∧
    (s.gaugeRequest src required hold).hdwk = s.hdwk := by
  unfold State.gaugeRequest
  try dsimp only
  repeat' split
  all_goals simp

@[simp] theorem State.takeFault_frame (c : ℕ) (only : Option ℕ) (f : FaultRec) :
    (s.takeFault c only f).pending = s.pending ∧ (s.takeFault c only f).tick = s.tick ∧
    (s.takeFault c only f).wet = s.wet ∧ (s.takeFault c only f).freeCtr = s.freeCtr ∧
    (s.takeFault c only f).nextId = s.nextId ∧ (s.takeFault c only f).mod = s.mod ∧
    (s.takeFault c only f).sec = s.sec ∧ (s.takeFault c only f).dram = s.dram ∧
    (s.takeFault c only f).losses = s.losses ∧ (s.takeFault c only f).poison = s.poison ∧
    (s.takeFault c only f).hostMem = s.hostMem ∧ (s.takeFault c only f).slices = s.slices ∧
    (s.takeFault c only f).memCounters = s.memCounters ∧ (s.takeFault c only f).cistern = s.cistern ∧
    (s.takeFault c only f).cisMiss = s.cisMiss ∧ (s.takeFault c only f).cisInq = s.cisInq ∧
    (s.takeFault c only f).cisDead = s.cisDead ∧ (s.takeFault c only f).cisCounters = s.cisCounters ∧
    (s.takeFault c only f).adminHeld = s.adminHeld ∧ (s.takeFault c only f).flights = s.flights ∧
    (s.takeFault c only f).issues = s.issues ∧ (s.takeFault c only f).walks = s.walks ∧
    (s.takeFault c only f).stackLocal = s.stackLocal ∧ (s.takeFault c only f).localActive = s.localActive ∧
    (s.takeFault c only f).layoutRejected = s.layoutRejected ∧ (s.takeFault c only f).keepCap = s.keepCap ∧
    (s.takeFault c only f).deadPoison = s.deadPoison ∧ (s.takeFault c only f).capClamped = s.capClamped ∧
    (s.takeFault c only f).keepSweep = s.keepSweep ∧ (s.takeFault c only f).objs = s.objs ∧
    (s.takeFault c only f).ctxEnable = s.ctxEnable ∧ (s.takeFault c only f).ctxActive = s.ctxActive ∧
    (s.takeFault c only f).ctxBase = s.ctxBase ∧ (s.takeFault c only f).ctxBaseActive = s.ctxBaseActive ∧
    (s.takeFault c only f).bar4Base = s.bar4Base ∧ (s.takeFault c only f).bar4Blocked = s.bar4Blocked ∧
    (s.takeFault c only f).nVf = s.nVf ∧ (s.takeFault c only f).ats = s.ats ∧
    (s.takeFault c only f).invalid = s.invalid ∧ (s.takeFault c only f).copyNext = s.copyNext ∧
    (s.takeFault c only f).sluices = s.sluices ∧ (s.takeFault c only f).lines = s.lines ∧
    (s.takeFault c only f).sync = s.sync ∧ (s.takeFault c only f).fab = s.fab ∧
    (s.takeFault c only f).timed = s.timed ∧ (s.takeFault c only f).power = s.power ∧
    (s.takeFault c only f).hal = s.hal ∧ (s.takeFault c only f).repair = s.repair ∧
    (s.takeFault c only f).hdwk = s.hdwk := by
  unfold State.takeFault
  try dsimp only
  repeat' split
  all_goals simp

@[simp] theorem State.recordOnly_frame (c : ℕ) (f : FaultRec) :
    (s.recordOnly c f).pending = s.pending ∧ (s.recordOnly c f).tick = s.tick ∧ (s.recordOnly c f).wet = s.wet ∧
    (s.recordOnly c f).sent = s.sent ∧ (s.recordOnly c f).freeCtr = s.freeCtr ∧ (s.recordOnly c f).nextId = s.nextId ∧
    (s.recordOnly c f).mod = s.mod ∧ (s.recordOnly c f).sec = s.sec ∧ (s.recordOnly c f).dram = s.dram ∧
    (s.recordOnly c f).losses = s.losses ∧ (s.recordOnly c f).poison = s.poison ∧
    (s.recordOnly c f).hostMem = s.hostMem ∧ (s.recordOnly c f).slices = s.slices ∧
    (s.recordOnly c f).memCounters = s.memCounters ∧ (s.recordOnly c f).cistern = s.cistern ∧
    (s.recordOnly c f).cisMiss = s.cisMiss ∧ (s.recordOnly c f).cisInq = s.cisInq ∧
    (s.recordOnly c f).cisDead = s.cisDead ∧ (s.recordOnly c f).cisCounters = s.cisCounters ∧
    (s.recordOnly c f).adminHeld = s.adminHeld ∧ (s.recordOnly c f).flights = s.flights ∧
    (s.recordOnly c f).issues = s.issues ∧ (s.recordOnly c f).walks = s.walks ∧
    (s.recordOnly c f).stackLocal = s.stackLocal ∧ (s.recordOnly c f).localActive = s.localActive ∧
    (s.recordOnly c f).layoutRejected = s.layoutRejected ∧ (s.recordOnly c f).keepCap = s.keepCap ∧
    (s.recordOnly c f).deadPoison = s.deadPoison ∧ (s.recordOnly c f).capClamped = s.capClamped ∧
    (s.recordOnly c f).keepSweep = s.keepSweep ∧ (s.recordOnly c f).objs = s.objs ∧
    (s.recordOnly c f).kernels = s.kernels ∧ (s.recordOnly c f).pendingOrder = s.pendingOrder ∧
    (s.recordOnly c f).ctxEnable = s.ctxEnable ∧ (s.recordOnly c f).ctxActive = s.ctxActive ∧
    (s.recordOnly c f).ctxBase = s.ctxBase ∧ (s.recordOnly c f).ctxBaseActive = s.ctxBaseActive ∧
    (s.recordOnly c f).bar4Base = s.bar4Base ∧ (s.recordOnly c f).bar4Blocked = s.bar4Blocked ∧
    (s.recordOnly c f).fns = s.fns ∧ (s.recordOnly c f).nVf = s.nVf ∧ (s.recordOnly c f).ats = s.ats ∧
    (s.recordOnly c f).invalid = s.invalid ∧ (s.recordOnly c f).copyNext = s.copyNext ∧
    (s.recordOnly c f).tiles = s.tiles ∧ (s.recordOnly c f).sluices = s.sluices ∧ (s.recordOnly c f).lines = s.lines ∧
    (s.recordOnly c f).sync = s.sync ∧ (s.recordOnly c f).fab = s.fab ∧ (s.recordOnly c f).timed = s.timed ∧
    (s.recordOnly c f).power = s.power ∧ (s.recordOnly c f).gauge = s.gauge ∧ (s.recordOnly c f).hal = s.hal ∧
    (s.recordOnly c f).repair = s.repair ∧ (s.recordOnly c f).hdwk = s.hdwk := by
  unfold State.recordOnly
  try dsimp only
  all_goals simp

@[simp] theorem State.abortRegion_frame (f : FaultRec) :
    (s.abortRegion f).pending = s.pending ∧ (s.abortRegion f).tick = s.tick ∧ (s.abortRegion f).wet = s.wet ∧
    (s.abortRegion f).freeCtr = s.freeCtr ∧ (s.abortRegion f).nextId = s.nextId ∧ (s.abortRegion f).mod = s.mod ∧
    (s.abortRegion f).sec = s.sec ∧ (s.abortRegion f).dram = s.dram ∧ (s.abortRegion f).losses = s.losses ∧
    (s.abortRegion f).poison = s.poison ∧ (s.abortRegion f).hostMem = s.hostMem ∧
    (s.abortRegion f).slices = s.slices ∧ (s.abortRegion f).memCounters = s.memCounters ∧
    (s.abortRegion f).cistern = s.cistern ∧ (s.abortRegion f).cisMiss = s.cisMiss ∧
    (s.abortRegion f).cisInq = s.cisInq ∧ (s.abortRegion f).cisDead = s.cisDead ∧
    (s.abortRegion f).cisCounters = s.cisCounters ∧ (s.abortRegion f).adminHeld = s.adminHeld ∧
    (s.abortRegion f).flights = s.flights ∧ (s.abortRegion f).issues = s.issues ∧ (s.abortRegion f).walks = s.walks ∧
    (s.abortRegion f).stackLocal = s.stackLocal ∧ (s.abortRegion f).localActive = s.localActive ∧
    (s.abortRegion f).layoutRejected = s.layoutRejected ∧ (s.abortRegion f).keepCap = s.keepCap ∧
    (s.abortRegion f).deadPoison = s.deadPoison ∧ (s.abortRegion f).capClamped = s.capClamped ∧
    (s.abortRegion f).keepSweep = s.keepSweep ∧ (s.abortRegion f).objs = s.objs ∧
    (s.abortRegion f).ctxEnable = s.ctxEnable ∧ (s.abortRegion f).ctxActive = s.ctxActive ∧
    (s.abortRegion f).ctxBase = s.ctxBase ∧ (s.abortRegion f).ctxBaseActive = s.ctxBaseActive ∧
    (s.abortRegion f).bar4Base = s.bar4Base ∧ (s.abortRegion f).bar4Blocked = s.bar4Blocked ∧
    (s.abortRegion f).nVf = s.nVf ∧ (s.abortRegion f).ats = s.ats ∧ (s.abortRegion f).invalid = s.invalid ∧
    (s.abortRegion f).copyNext = s.copyNext ∧ (s.abortRegion f).sluices = s.sluices ∧
    (s.abortRegion f).lines = s.lines ∧ (s.abortRegion f).sync = s.sync ∧ (s.abortRegion f).fab = s.fab ∧
    (s.abortRegion f).power = s.power ∧ (s.abortRegion f).hal = s.hal ∧ (s.abortRegion f).repair = s.repair ∧
    (s.abortRegion f).hdwk = s.hdwk := by
  unfold State.abortRegion
  split
  · simp
  · next r _ =>
    have h := foldl_modTile_frame s r.tiles id
      (fun _ x => { x with flume := { x.flume with active := false, stopped := true } })
    simp only [id] at h
    simp [h]

@[simp] theorem State.abortRegionOn_frame (p : ℕ) (f : FaultRec) :
    (s.abortRegionOn p f).pending = s.pending ∧ (s.abortRegionOn p f).tick = s.tick ∧
    (s.abortRegionOn p f).wet = s.wet ∧ (s.abortRegionOn p f).freeCtr = s.freeCtr ∧
    (s.abortRegionOn p f).nextId = s.nextId ∧ (s.abortRegionOn p f).mod = s.mod ∧ (s.abortRegionOn p f).sec = s.sec ∧
    (s.abortRegionOn p f).dram = s.dram ∧ (s.abortRegionOn p f).losses = s.losses ∧
    (s.abortRegionOn p f).poison = s.poison ∧ (s.abortRegionOn p f).hostMem = s.hostMem ∧
    (s.abortRegionOn p f).slices = s.slices ∧ (s.abortRegionOn p f).memCounters = s.memCounters ∧
    (s.abortRegionOn p f).cistern = s.cistern ∧ (s.abortRegionOn p f).cisMiss = s.cisMiss ∧
    (s.abortRegionOn p f).cisInq = s.cisInq ∧ (s.abortRegionOn p f).cisDead = s.cisDead ∧
    (s.abortRegionOn p f).cisCounters = s.cisCounters ∧ (s.abortRegionOn p f).adminHeld = s.adminHeld ∧
    (s.abortRegionOn p f).flights = s.flights ∧ (s.abortRegionOn p f).issues = s.issues ∧
    (s.abortRegionOn p f).walks = s.walks ∧ (s.abortRegionOn p f).stackLocal = s.stackLocal ∧
    (s.abortRegionOn p f).localActive = s.localActive ∧ (s.abortRegionOn p f).layoutRejected = s.layoutRejected ∧
    (s.abortRegionOn p f).keepCap = s.keepCap ∧ (s.abortRegionOn p f).deadPoison = s.deadPoison ∧
    (s.abortRegionOn p f).capClamped = s.capClamped ∧ (s.abortRegionOn p f).keepSweep = s.keepSweep ∧
    (s.abortRegionOn p f).objs = s.objs ∧ (s.abortRegionOn p f).ctxEnable = s.ctxEnable ∧
    (s.abortRegionOn p f).ctxActive = s.ctxActive ∧ (s.abortRegionOn p f).ctxBase = s.ctxBase ∧
    (s.abortRegionOn p f).ctxBaseActive = s.ctxBaseActive ∧ (s.abortRegionOn p f).bar4Base = s.bar4Base ∧
    (s.abortRegionOn p f).bar4Blocked = s.bar4Blocked ∧ (s.abortRegionOn p f).nVf = s.nVf ∧
    (s.abortRegionOn p f).ats = s.ats ∧ (s.abortRegionOn p f).invalid = s.invalid ∧
    (s.abortRegionOn p f).copyNext = s.copyNext ∧ (s.abortRegionOn p f).sluices = s.sluices ∧
    (s.abortRegionOn p f).lines = s.lines ∧ (s.abortRegionOn p f).sync = s.sync ∧ (s.abortRegionOn p f).fab = s.fab ∧
    (s.abortRegionOn p f).power = s.power ∧ (s.abortRegionOn p f).hal = s.hal ∧
    (s.abortRegionOn p f).repair = s.repair ∧ (s.abortRegionOn p f).hdwk = s.hdwk := by
  unfold State.abortRegionOn
  try dsimp only
  repeat' split
  all_goals simp

@[simp] theorem State.raiseAlert_frame (a : Alert) :
    (s.raiseAlert a).pending = s.pending ∧ (s.raiseAlert a).tick = s.tick ∧ (s.raiseAlert a).wet = s.wet ∧
    (s.raiseAlert a).freeCtr = s.freeCtr ∧ (s.raiseAlert a).nextId = s.nextId ∧ (s.raiseAlert a).sec = s.sec ∧
    (s.raiseAlert a).dram = s.dram ∧ (s.raiseAlert a).losses = s.losses ∧ (s.raiseAlert a).poison = s.poison ∧
    (s.raiseAlert a).hostMem = s.hostMem ∧ (s.raiseAlert a).slices = s.slices ∧
    (s.raiseAlert a).memCounters = s.memCounters ∧ (s.raiseAlert a).cistern = s.cistern ∧
    (s.raiseAlert a).cisMiss = s.cisMiss ∧ (s.raiseAlert a).cisInq = s.cisInq ∧ (s.raiseAlert a).cisDead = s.cisDead ∧
    (s.raiseAlert a).cisCounters = s.cisCounters ∧ (s.raiseAlert a).adminHeld = s.adminHeld ∧
    (s.raiseAlert a).flights = s.flights ∧ (s.raiseAlert a).issues = s.issues ∧ (s.raiseAlert a).walks = s.walks ∧
    (s.raiseAlert a).stackLocal = s.stackLocal ∧ (s.raiseAlert a).localActive = s.localActive ∧
    (s.raiseAlert a).layoutRejected = s.layoutRejected ∧ (s.raiseAlert a).keepCap = s.keepCap ∧
    (s.raiseAlert a).deadPoison = s.deadPoison ∧ (s.raiseAlert a).capClamped = s.capClamped ∧
    (s.raiseAlert a).keepSweep = s.keepSweep ∧ (s.raiseAlert a).ctxs = s.ctxs ∧ (s.raiseAlert a).objs = s.objs ∧
    (s.raiseAlert a).kernels = s.kernels ∧ (s.raiseAlert a).pendingOrder = s.pendingOrder ∧
    (s.raiseAlert a).ctxEnable = s.ctxEnable ∧ (s.raiseAlert a).ctxActive = s.ctxActive ∧
    (s.raiseAlert a).ctxBase = s.ctxBase ∧ (s.raiseAlert a).ctxBaseActive = s.ctxBaseActive ∧
    (s.raiseAlert a).bar4Base = s.bar4Base ∧ (s.raiseAlert a).bar4Blocked = s.bar4Blocked ∧
    (s.raiseAlert a).fns = s.fns ∧ (s.raiseAlert a).nVf = s.nVf ∧ (s.raiseAlert a).ats = s.ats ∧
    (s.raiseAlert a).invalid = s.invalid ∧ (s.raiseAlert a).copyNext = s.copyNext ∧ (s.raiseAlert a).tiles = s.tiles ∧
    (s.raiseAlert a).sluices = s.sluices ∧ (s.raiseAlert a).lines = s.lines ∧ (s.raiseAlert a).sync = s.sync ∧
    (s.raiseAlert a).fab = s.fab ∧ (s.raiseAlert a).timed = s.timed ∧ (s.raiseAlert a).power = s.power ∧
    (s.raiseAlert a).gauge = s.gauge ∧ (s.raiseAlert a).repair = s.repair ∧ (s.raiseAlert a).hdwk = s.hdwk := by
  unfold State.raiseAlert
  try dsimp only
  all_goals simp

@[simp] theorem State.chooseEntry_frame :
    s.chooseEntry.pending = s.pending ∧ s.chooseEntry.tick = s.tick ∧ s.chooseEntry.wet = s.wet ∧
    s.chooseEntry.freeCtr = s.freeCtr ∧ s.chooseEntry.nextId = s.nextId ∧ s.chooseEntry.mod = s.mod ∧
    s.chooseEntry.sec = s.sec ∧ s.chooseEntry.dram = s.dram ∧ s.chooseEntry.losses = s.losses ∧
    s.chooseEntry.poison = s.poison ∧ s.chooseEntry.hostMem = s.hostMem ∧ s.chooseEntry.slices = s.slices ∧
    s.chooseEntry.memCounters = s.memCounters ∧ s.chooseEntry.cistern = s.cistern ∧
    s.chooseEntry.cisMiss = s.cisMiss ∧ s.chooseEntry.cisInq = s.cisInq ∧ s.chooseEntry.cisDead = s.cisDead ∧
    s.chooseEntry.cisCounters = s.cisCounters ∧ s.chooseEntry.adminHeld = s.adminHeld ∧
    s.chooseEntry.flights = s.flights ∧ s.chooseEntry.issues = s.issues ∧ s.chooseEntry.walks = s.walks ∧
    s.chooseEntry.stackLocal = s.stackLocal ∧ s.chooseEntry.localActive = s.localActive ∧
    s.chooseEntry.layoutRejected = s.layoutRejected ∧ s.chooseEntry.keepCap = s.keepCap ∧
    s.chooseEntry.deadPoison = s.deadPoison ∧ s.chooseEntry.capClamped = s.capClamped ∧
    s.chooseEntry.keepSweep = s.keepSweep ∧ s.chooseEntry.ctxs = s.ctxs ∧ s.chooseEntry.objs = s.objs ∧
    s.chooseEntry.kernels = s.kernels ∧ s.chooseEntry.pendingOrder = s.pendingOrder ∧
    s.chooseEntry.ctxEnable = s.ctxEnable ∧ s.chooseEntry.ctxActive = s.ctxActive ∧
    s.chooseEntry.ctxBase = s.ctxBase ∧ s.chooseEntry.ctxBaseActive = s.ctxBaseActive ∧
    s.chooseEntry.bar4Base = s.bar4Base ∧ s.chooseEntry.bar4Blocked = s.bar4Blocked ∧ s.chooseEntry.fns = s.fns ∧
    s.chooseEntry.nVf = s.nVf ∧ s.chooseEntry.ats = s.ats ∧ s.chooseEntry.invalid = s.invalid ∧
    s.chooseEntry.copyNext = s.copyNext ∧ s.chooseEntry.tiles = s.tiles ∧ s.chooseEntry.sluices = s.sluices ∧
    s.chooseEntry.lines = s.lines ∧ s.chooseEntry.sync = s.sync ∧ s.chooseEntry.fab = s.fab ∧
    s.chooseEntry.power = s.power ∧ s.chooseEntry.gauge = s.gauge ∧ s.chooseEntry.hal = s.hal ∧
    s.chooseEntry.repair = s.repair ∧ s.chooseEntry.hdwk = s.hdwk := by
  unfold State.chooseEntry
  try dsimp only
  repeat' split
  all_goals simp

@[simp] theorem State.tryReady_frame :
    s.tryReady.pending = s.pending ∧ s.tryReady.tick = s.tick ∧ s.tryReady.wet = s.wet ∧
    s.tryReady.freeCtr = s.freeCtr ∧ s.tryReady.nextId = s.nextId ∧ s.tryReady.mod = s.mod ∧ s.tryReady.sec = s.sec ∧
    s.tryReady.dram = s.dram ∧ s.tryReady.losses = s.losses ∧ s.tryReady.poison = s.poison ∧
    s.tryReady.hostMem = s.hostMem ∧ s.tryReady.slices = s.slices ∧ s.tryReady.memCounters = s.memCounters ∧
    s.tryReady.cistern = s.cistern ∧ s.tryReady.cisMiss = s.cisMiss ∧ s.tryReady.cisInq = s.cisInq ∧
    s.tryReady.cisDead = s.cisDead ∧ s.tryReady.cisCounters = s.cisCounters ∧ s.tryReady.adminHeld = s.adminHeld ∧
    s.tryReady.flights = s.flights ∧ s.tryReady.issues = s.issues ∧ s.tryReady.walks = s.walks ∧
    s.tryReady.stackLocal = s.stackLocal ∧ s.tryReady.localActive = s.localActive ∧
    s.tryReady.layoutRejected = s.layoutRejected ∧ s.tryReady.keepCap = s.keepCap ∧
    s.tryReady.deadPoison = s.deadPoison ∧ s.tryReady.capClamped = s.capClamped ∧ s.tryReady.keepSweep = s.keepSweep ∧
    s.tryReady.ctxs = s.ctxs ∧ s.tryReady.objs = s.objs ∧ s.tryReady.kernels = s.kernels ∧
    s.tryReady.pendingOrder = s.pendingOrder ∧ s.tryReady.ctxEnable = s.ctxEnable ∧
    s.tryReady.ctxActive = s.ctxActive ∧ s.tryReady.ctxBase = s.ctxBase ∧ s.tryReady.ctxBaseActive = s.ctxBaseActive ∧
    s.tryReady.bar4Base = s.bar4Base ∧ s.tryReady.bar4Blocked = s.bar4Blocked ∧ s.tryReady.fns = s.fns ∧
    s.tryReady.nVf = s.nVf ∧ s.tryReady.ats = s.ats ∧ s.tryReady.invalid = s.invalid ∧
    s.tryReady.copyNext = s.copyNext ∧ s.tryReady.tiles = s.tiles ∧ s.tryReady.sluices = s.sluices ∧
    s.tryReady.lines = s.lines ∧ s.tryReady.sync = s.sync ∧ s.tryReady.fab = s.fab ∧ s.tryReady.power = s.power ∧
    s.tryReady.gauge = s.gauge ∧ s.tryReady.hal = s.hal ∧ s.tryReady.repair = s.repair ∧
    s.tryReady.hdwk = s.hdwk := by
  unfold State.tryReady
  try dsimp only
  repeat' split
  all_goals simp

@[simp] theorem State.stopAll_frame (f : FaultRec) :
    (s.stopAll f).pending = s.pending ∧ (s.stopAll f).tick = s.tick ∧ (s.stopAll f).wet = s.wet ∧
    (s.stopAll f).freeCtr = s.freeCtr ∧ (s.stopAll f).nextId = s.nextId ∧ (s.stopAll f).mod = s.mod ∧
    (s.stopAll f).sec = s.sec ∧ (s.stopAll f).dram = s.dram ∧ (s.stopAll f).losses = s.losses ∧
    (s.stopAll f).poison = s.poison ∧ (s.stopAll f).hostMem = s.hostMem ∧ (s.stopAll f).slices = s.slices ∧
    (s.stopAll f).memCounters = s.memCounters ∧ (s.stopAll f).cistern = s.cistern ∧
    (s.stopAll f).cisMiss = s.cisMiss ∧ (s.stopAll f).cisInq = s.cisInq ∧ (s.stopAll f).cisDead = s.cisDead ∧
    (s.stopAll f).cisCounters = s.cisCounters ∧ (s.stopAll f).adminHeld = s.adminHeld ∧
    (s.stopAll f).flights = s.flights ∧ (s.stopAll f).issues = s.issues ∧ (s.stopAll f).walks = s.walks ∧
    (s.stopAll f).stackLocal = s.stackLocal ∧ (s.stopAll f).localActive = s.localActive ∧
    (s.stopAll f).layoutRejected = s.layoutRejected ∧ (s.stopAll f).keepCap = s.keepCap ∧
    (s.stopAll f).deadPoison = s.deadPoison ∧ (s.stopAll f).capClamped = s.capClamped ∧
    (s.stopAll f).keepSweep = s.keepSweep ∧ (s.stopAll f).objs = s.objs ∧ (s.stopAll f).ctxEnable = s.ctxEnable ∧
    (s.stopAll f).ctxActive = s.ctxActive ∧ (s.stopAll f).ctxBase = s.ctxBase ∧
    (s.stopAll f).ctxBaseActive = s.ctxBaseActive ∧ (s.stopAll f).bar4Base = s.bar4Base ∧
    (s.stopAll f).bar4Blocked = s.bar4Blocked ∧ (s.stopAll f).nVf = s.nVf ∧ (s.stopAll f).ats = s.ats ∧
    (s.stopAll f).invalid = s.invalid ∧ (s.stopAll f).copyNext = s.copyNext ∧ (s.stopAll f).sluices = s.sluices ∧
    (s.stopAll f).lines = s.lines ∧ (s.stopAll f).sync = s.sync ∧ (s.stopAll f).fab = s.fab ∧
    (s.stopAll f).timed = s.timed ∧ (s.stopAll f).power = s.power ∧ (s.stopAll f).hal = s.hal ∧
    (s.stopAll f).repair = s.repair ∧ (s.stopAll f).hdwk = s.hdwk := by
  unfold State.stopAll
  exact ⟨foldl_field State.pending (fun s a => by simp) _ _,
    foldl_field State.tick (fun s a => by simp) _ _,
    foldl_field State.wet (fun s a => by simp) _ _,
    foldl_field State.freeCtr (fun s a => by simp) _ _,
    foldl_field State.nextId (fun s a => by simp) _ _,
    foldl_field State.mod (fun s a => by simp) _ _,
    foldl_field State.sec (fun s a => by simp) _ _,
    foldl_field State.dram (fun s a => by simp) _ _,
    foldl_field State.losses (fun s a => by simp) _ _,
    foldl_field State.poison (fun s a => by simp) _ _,
    foldl_field State.hostMem (fun s a => by simp) _ _,
    foldl_field State.slices (fun s a => by simp) _ _,
    foldl_field State.memCounters (fun s a => by simp) _ _,
    foldl_field State.cistern (fun s a => by simp) _ _,
    foldl_field State.cisMiss (fun s a => by simp) _ _,
    foldl_field State.cisInq (fun s a => by simp) _ _,
    foldl_field State.cisDead (fun s a => by simp) _ _,
    foldl_field State.cisCounters (fun s a => by simp) _ _,
    foldl_field State.adminHeld (fun s a => by simp) _ _,
    foldl_field State.flights (fun s a => by simp) _ _,
    foldl_field State.issues (fun s a => by simp) _ _,
    foldl_field State.walks (fun s a => by simp) _ _,
    foldl_field State.stackLocal (fun s a => by simp) _ _,
    foldl_field State.localActive (fun s a => by simp) _ _,
    foldl_field State.layoutRejected (fun s a => by simp) _ _,
    foldl_field State.keepCap (fun s a => by simp) _ _,
    foldl_field State.deadPoison (fun s a => by simp) _ _,
    foldl_field State.capClamped (fun s a => by simp) _ _,
    foldl_field State.keepSweep (fun s a => by simp) _ _,
    foldl_field State.objs (fun s a => by simp) _ _,
    foldl_field State.ctxEnable (fun s a => by simp) _ _,
    foldl_field State.ctxActive (fun s a => by simp) _ _,
    foldl_field State.ctxBase (fun s a => by simp) _ _,
    foldl_field State.ctxBaseActive (fun s a => by simp) _ _,
    foldl_field State.bar4Base (fun s a => by simp) _ _,
    foldl_field State.bar4Blocked (fun s a => by simp) _ _,
    foldl_field State.nVf (fun s a => by simp) _ _,
    foldl_field State.ats (fun s a => by simp) _ _,
    foldl_field State.invalid (fun s a => by simp) _ _,
    foldl_field State.copyNext (fun s a => by simp) _ _,
    foldl_field State.sluices (fun s a => by simp) _ _,
    foldl_field State.lines (fun s a => by simp) _ _,
    foldl_field State.sync (fun s a => by simp) _ _,
    foldl_field State.fab (fun s a => by simp) _ _,
    foldl_field State.timed (fun s a => by simp) _ _,
    foldl_field State.power (fun s a => by simp) _ _,
    foldl_field State.hal (fun s a => by simp) _ _,
    foldl_field State.repair (fun s a => by simp) _ _,
    foldl_field State.hdwk (fun s a => by simp) _ _⟩

@[simp] theorem State.loseMemory_frame :
    s.loseMemory.pending = s.pending ∧ s.loseMemory.tick = s.tick ∧ s.loseMemory.wet = s.wet ∧
    s.loseMemory.sent = s.sent ∧ s.loseMemory.freeCtr = s.freeCtr ∧ s.loseMemory.nextId = s.nextId ∧
    s.loseMemory.mod = s.mod ∧ s.loseMemory.sec = s.sec ∧ s.loseMemory.hostMem = s.hostMem ∧
    s.loseMemory.memCounters = s.memCounters ∧ s.loseMemory.cistern = s.cistern ∧ s.loseMemory.cisMiss = s.cisMiss ∧
    s.loseMemory.cisInq = s.cisInq ∧ s.loseMemory.cisDead = s.cisDead ∧ s.loseMemory.cisCounters = s.cisCounters ∧
    s.loseMemory.adminHeld = s.adminHeld ∧ s.loseMemory.flights = s.flights ∧ s.loseMemory.issues = s.issues ∧
    s.loseMemory.walks = s.walks ∧ s.loseMemory.stackLocal = s.stackLocal ∧ s.loseMemory.localActive = s.localActive ∧
    s.loseMemory.layoutRejected = s.layoutRejected ∧ s.loseMemory.keepCap = s.keepCap ∧
    s.loseMemory.deadPoison = s.deadPoison ∧ s.loseMemory.capClamped = s.capClamped ∧
    s.loseMemory.keepSweep = s.keepSweep ∧ s.loseMemory.ctxs = s.ctxs ∧ s.loseMemory.objs = s.objs ∧
    s.loseMemory.kernels = s.kernels ∧ s.loseMemory.pendingOrder = s.pendingOrder ∧
    s.loseMemory.ctxEnable = s.ctxEnable ∧ s.loseMemory.ctxActive = s.ctxActive ∧ s.loseMemory.ctxBase = s.ctxBase ∧
    s.loseMemory.ctxBaseActive = s.ctxBaseActive ∧ s.loseMemory.bar4Base = s.bar4Base ∧
    s.loseMemory.bar4Blocked = s.bar4Blocked ∧ s.loseMemory.fns = s.fns ∧ s.loseMemory.nVf = s.nVf ∧
    s.loseMemory.ats = s.ats ∧ s.loseMemory.invalid = s.invalid ∧ s.loseMemory.copyNext = s.copyNext ∧
    s.loseMemory.tiles = s.tiles ∧ s.loseMemory.sluices = s.sluices ∧ s.loseMemory.lines = s.lines ∧
    s.loseMemory.sync = s.sync ∧ s.loseMemory.fab = s.fab ∧ s.loseMemory.timed = s.timed ∧
    s.loseMemory.power = s.power ∧ s.loseMemory.gauge = { s.gauge with slots := [] } ∧ s.loseMemory.hal = s.hal ∧
    s.loseMemory.repair = s.repair ∧ s.loseMemory.hdwk = s.hdwk := by
  unfold State.loseMemory
  try dsimp only
  all_goals simp

@[simp] theorem State.dropCaches_frame :
    s.dropCaches.pending = s.pending ∧ s.dropCaches.tick = s.tick ∧ s.dropCaches.wet = s.wet ∧
    s.dropCaches.sent = s.sent ∧ s.dropCaches.freeCtr = s.freeCtr ∧ s.dropCaches.nextId = s.nextId ∧
    s.dropCaches.mod = s.mod ∧ s.dropCaches.sec = s.sec ∧ s.dropCaches.poison = s.poison ∧
    s.dropCaches.hostMem = s.hostMem ∧ s.dropCaches.memCounters = s.memCounters ∧
    s.dropCaches.cisCounters = s.cisCounters ∧ s.dropCaches.adminHeld = s.adminHeld ∧
    s.dropCaches.flights = s.flights ∧ s.dropCaches.issues = s.issues ∧ s.dropCaches.walks = s.walks ∧
    s.dropCaches.stackLocal = s.stackLocal ∧ s.dropCaches.localActive = s.localActive ∧
    s.dropCaches.layoutRejected = s.layoutRejected ∧ s.dropCaches.keepCap = s.keepCap ∧
    s.dropCaches.deadPoison = s.deadPoison ∧ s.dropCaches.capClamped = s.capClamped ∧
    s.dropCaches.keepSweep = s.keepSweep ∧ s.dropCaches.ctxs = s.ctxs ∧ s.dropCaches.objs = s.objs ∧
    s.dropCaches.kernels = s.kernels ∧ s.dropCaches.pendingOrder = s.pendingOrder ∧
    s.dropCaches.ctxEnable = s.ctxEnable ∧ s.dropCaches.ctxActive = s.ctxActive ∧ s.dropCaches.ctxBase = s.ctxBase ∧
    s.dropCaches.ctxBaseActive = s.ctxBaseActive ∧ s.dropCaches.bar4Base = s.bar4Base ∧
    s.dropCaches.bar4Blocked = s.bar4Blocked ∧ s.dropCaches.fns = s.fns ∧ s.dropCaches.nVf = s.nVf ∧
    s.dropCaches.ats = s.ats ∧ s.dropCaches.invalid = s.invalid ∧ s.dropCaches.copyNext = s.copyNext ∧
    s.dropCaches.tiles = s.tiles ∧ s.dropCaches.sluices = s.sluices ∧ s.dropCaches.lines = s.lines ∧
    s.dropCaches.sync = s.sync ∧ s.dropCaches.fab = s.fab ∧ s.dropCaches.timed = s.timed ∧
    s.dropCaches.power = s.power ∧ s.dropCaches.gauge = s.gauge ∧ s.dropCaches.hal = s.hal ∧
    s.dropCaches.repair = s.repair ∧ s.dropCaches.hdwk = s.hdwk := by
  unfold State.dropCaches
  try dsimp only
  all_goals simp

@[simp] theorem State.wakeWaiters_frame (i : ℕ) :
    (s.wakeWaiters i).pending = s.pending ∧ (s.wakeWaiters i).tick = s.tick ∧ (s.wakeWaiters i).wet = s.wet ∧
    (s.wakeWaiters i).sent = s.sent ∧ (s.wakeWaiters i).freeCtr = s.freeCtr ∧ (s.wakeWaiters i).nextId = s.nextId ∧
    (s.wakeWaiters i).mod = s.mod ∧ (s.wakeWaiters i).sec = s.sec ∧ (s.wakeWaiters i).dram = s.dram ∧
    (s.wakeWaiters i).losses = s.losses ∧ (s.wakeWaiters i).poison = s.poison ∧
    (s.wakeWaiters i).hostMem = s.hostMem ∧ (s.wakeWaiters i).slices = s.slices ∧
    (s.wakeWaiters i).memCounters = s.memCounters ∧ (s.wakeWaiters i).cistern = s.cistern ∧
    (s.wakeWaiters i).cisMiss = s.cisMiss ∧ (s.wakeWaiters i).cisInq = s.cisInq ∧
    (s.wakeWaiters i).cisDead = s.cisDead ∧ (s.wakeWaiters i).cisCounters = s.cisCounters ∧
    (s.wakeWaiters i).adminHeld = s.adminHeld ∧ (s.wakeWaiters i).flights = s.flights ∧
    (s.wakeWaiters i).issues = s.issues ∧ (s.wakeWaiters i).walks = s.walks ∧
    (s.wakeWaiters i).stackLocal = s.stackLocal ∧ (s.wakeWaiters i).localActive = s.localActive ∧
    (s.wakeWaiters i).layoutRejected = s.layoutRejected ∧ (s.wakeWaiters i).keepCap = s.keepCap ∧
    (s.wakeWaiters i).deadPoison = s.deadPoison ∧ (s.wakeWaiters i).capClamped = s.capClamped ∧
    (s.wakeWaiters i).keepSweep = s.keepSweep ∧ (s.wakeWaiters i).ctxs = s.ctxs ∧ (s.wakeWaiters i).objs = s.objs ∧
    (s.wakeWaiters i).kernels = s.kernels ∧ (s.wakeWaiters i).pendingOrder = s.pendingOrder ∧
    (s.wakeWaiters i).ctxEnable = s.ctxEnable ∧ (s.wakeWaiters i).ctxActive = s.ctxActive ∧
    (s.wakeWaiters i).ctxBase = s.ctxBase ∧ (s.wakeWaiters i).ctxBaseActive = s.ctxBaseActive ∧
    (s.wakeWaiters i).bar4Base = s.bar4Base ∧ (s.wakeWaiters i).bar4Blocked = s.bar4Blocked ∧
    (s.wakeWaiters i).fns = s.fns ∧ (s.wakeWaiters i).nVf = s.nVf ∧ (s.wakeWaiters i).ats = s.ats ∧
    (s.wakeWaiters i).invalid = s.invalid ∧ (s.wakeWaiters i).copyNext = s.copyNext ∧
    (s.wakeWaiters i).tiles = s.tiles ∧ (s.wakeWaiters i).sluices = s.sluices ∧ (s.wakeWaiters i).lines = s.lines ∧
    (s.wakeWaiters i).fab = s.fab ∧ (s.wakeWaiters i).timed = s.timed ∧ (s.wakeWaiters i).power = s.power ∧
    (s.wakeWaiters i).gauge = s.gauge ∧ (s.wakeWaiters i).hal = s.hal ∧ (s.wakeWaiters i).repair = s.repair ∧
    (s.wakeWaiters i).hdwk = s.hdwk := by
  unfold State.wakeWaiters
  try dsimp only
  all_goals simp

@[simp] theorem State.dropWaits_frame (c : ℕ) :
    (s.dropWaits c).pending = s.pending ∧ (s.dropWaits c).tick = s.tick ∧ (s.dropWaits c).wet = s.wet ∧
    (s.dropWaits c).sent = s.sent ∧ (s.dropWaits c).freeCtr = s.freeCtr ∧ (s.dropWaits c).nextId = s.nextId ∧
    (s.dropWaits c).mod = s.mod ∧ (s.dropWaits c).sec = s.sec ∧ (s.dropWaits c).dram = s.dram ∧
    (s.dropWaits c).losses = s.losses ∧ (s.dropWaits c).poison = s.poison ∧ (s.dropWaits c).hostMem = s.hostMem ∧
    (s.dropWaits c).slices = s.slices ∧ (s.dropWaits c).memCounters = s.memCounters ∧
    (s.dropWaits c).cistern = s.cistern ∧ (s.dropWaits c).cisMiss = s.cisMiss ∧ (s.dropWaits c).cisInq = s.cisInq ∧
    (s.dropWaits c).cisDead = s.cisDead ∧ (s.dropWaits c).cisCounters = s.cisCounters ∧
    (s.dropWaits c).adminHeld = s.adminHeld ∧ (s.dropWaits c).flights = s.flights ∧
    (s.dropWaits c).issues = s.issues ∧ (s.dropWaits c).walks = s.walks ∧ (s.dropWaits c).stackLocal = s.stackLocal ∧
    (s.dropWaits c).localActive = s.localActive ∧ (s.dropWaits c).layoutRejected = s.layoutRejected ∧
    (s.dropWaits c).keepCap = s.keepCap ∧ (s.dropWaits c).deadPoison = s.deadPoison ∧
    (s.dropWaits c).capClamped = s.capClamped ∧ (s.dropWaits c).keepSweep = s.keepSweep ∧
    (s.dropWaits c).ctxs = s.ctxs ∧ (s.dropWaits c).objs = s.objs ∧ (s.dropWaits c).kernels = s.kernels ∧
    (s.dropWaits c).pendingOrder = s.pendingOrder ∧ (s.dropWaits c).ctxEnable = s.ctxEnable ∧
    (s.dropWaits c).ctxActive = s.ctxActive ∧ (s.dropWaits c).ctxBase = s.ctxBase ∧
    (s.dropWaits c).ctxBaseActive = s.ctxBaseActive ∧ (s.dropWaits c).bar4Base = s.bar4Base ∧
    (s.dropWaits c).bar4Blocked = s.bar4Blocked ∧ (s.dropWaits c).fns = s.fns ∧ (s.dropWaits c).nVf = s.nVf ∧
    (s.dropWaits c).ats = s.ats ∧ (s.dropWaits c).invalid = s.invalid ∧ (s.dropWaits c).copyNext = s.copyNext ∧
    (s.dropWaits c).tiles = s.tiles ∧ (s.dropWaits c).sluices = s.sluices ∧ (s.dropWaits c).lines = s.lines ∧
    (s.dropWaits c).fab = s.fab ∧ (s.dropWaits c).timed = s.timed ∧ (s.dropWaits c).power = s.power ∧
    (s.dropWaits c).gauge = s.gauge ∧ (s.dropWaits c).hal = s.hal ∧ (s.dropWaits c).repair = s.repair ∧
    (s.dropWaits c).hdwk = s.hdwk := by
  unfold State.dropWaits
  exact ⟨(foldl_field State.pending (fun s a => by simp) _ _).trans (by simp),
    (foldl_field State.tick (fun s a => by simp) _ _).trans (by simp),
    (foldl_field State.wet (fun s a => by simp) _ _).trans (by simp),
    (foldl_field State.sent (fun s a => by simp) _ _).trans (by simp),
    (foldl_field State.freeCtr (fun s a => by simp) _ _).trans (by simp),
    (foldl_field State.nextId (fun s a => by simp) _ _).trans (by simp),
    (foldl_field State.mod (fun s a => by simp) _ _).trans (by simp),
    (foldl_field State.sec (fun s a => by simp) _ _).trans (by simp),
    (foldl_field State.dram (fun s a => by simp) _ _).trans (by simp),
    (foldl_field State.losses (fun s a => by simp) _ _).trans (by simp),
    (foldl_field State.poison (fun s a => by simp) _ _).trans (by simp),
    (foldl_field State.hostMem (fun s a => by simp) _ _).trans (by simp),
    (foldl_field State.slices (fun s a => by simp) _ _).trans (by simp),
    (foldl_field State.memCounters (fun s a => by simp) _ _).trans (by simp),
    (foldl_field State.cistern (fun s a => by simp) _ _).trans (by simp),
    (foldl_field State.cisMiss (fun s a => by simp) _ _).trans (by simp),
    (foldl_field State.cisInq (fun s a => by simp) _ _).trans (by simp),
    (foldl_field State.cisDead (fun s a => by simp) _ _).trans (by simp),
    (foldl_field State.cisCounters (fun s a => by simp) _ _).trans (by simp),
    (foldl_field State.adminHeld (fun s a => by simp) _ _).trans (by simp),
    (foldl_field State.flights (fun s a => by simp) _ _).trans (by simp),
    (foldl_field State.issues (fun s a => by simp) _ _).trans (by simp),
    (foldl_field State.walks (fun s a => by simp) _ _).trans (by simp),
    (foldl_field State.stackLocal (fun s a => by simp) _ _).trans (by simp),
    (foldl_field State.localActive (fun s a => by simp) _ _).trans (by simp),
    (foldl_field State.layoutRejected (fun s a => by simp) _ _).trans (by simp),
    (foldl_field State.keepCap (fun s a => by simp) _ _).trans (by simp),
    (foldl_field State.deadPoison (fun s a => by simp) _ _).trans (by simp),
    (foldl_field State.capClamped (fun s a => by simp) _ _).trans (by simp),
    (foldl_field State.keepSweep (fun s a => by simp) _ _).trans (by simp),
    (foldl_field State.ctxs (fun s a => by simp) _ _).trans (by simp),
    (foldl_field State.objs (fun s a => by simp) _ _).trans (by simp),
    (foldl_field State.kernels (fun s a => by simp) _ _).trans (by simp),
    (foldl_field State.pendingOrder (fun s a => by simp) _ _).trans (by simp),
    (foldl_field State.ctxEnable (fun s a => by simp) _ _).trans (by simp),
    (foldl_field State.ctxActive (fun s a => by simp) _ _).trans (by simp),
    (foldl_field State.ctxBase (fun s a => by simp) _ _).trans (by simp),
    (foldl_field State.ctxBaseActive (fun s a => by simp) _ _).trans (by simp),
    (foldl_field State.bar4Base (fun s a => by simp) _ _).trans (by simp),
    (foldl_field State.bar4Blocked (fun s a => by simp) _ _).trans (by simp),
    (foldl_field State.fns (fun s a => by simp) _ _).trans (by simp),
    (foldl_field State.nVf (fun s a => by simp) _ _).trans (by simp),
    (foldl_field State.ats (fun s a => by simp) _ _).trans (by simp),
    (foldl_field State.invalid (fun s a => by simp) _ _).trans (by simp),
    (foldl_field State.copyNext (fun s a => by simp) _ _).trans (by simp),
    (foldl_field State.tiles (fun s a => by simp) _ _).trans (by simp),
    (foldl_field State.sluices (fun s a => by simp) _ _).trans (by simp),
    (foldl_field State.lines (fun s a => by simp) _ _).trans (by simp),
    (foldl_field State.fab (fun s a => by simp) _ _).trans (by simp),
    (foldl_field State.timed (fun s a => by simp) _ _).trans (by simp),
    (foldl_field State.power (fun s a => by simp) _ _).trans (by simp),
    (foldl_field State.gauge (fun s a => by simp) _ _).trans (by simp),
    (foldl_field State.hal (fun s a => by simp) _ _).trans (by simp),
    (foldl_field State.repair (fun s a => by simp) _ _).trans (by simp),
    (foldl_field State.hdwk (fun s a => by simp) _ _).trans (by simp)⟩

@[simp] theorem State.poisonOwned_frame (c : ℕ) (reason : ℕ) :
    (s.poisonOwned c reason).pending = s.pending ∧ (s.poisonOwned c reason).tick = s.tick ∧
    (s.poisonOwned c reason).wet = s.wet ∧ (s.poisonOwned c reason).sent = s.sent ∧
    (s.poisonOwned c reason).freeCtr = s.freeCtr ∧ (s.poisonOwned c reason).nextId = s.nextId ∧
    (s.poisonOwned c reason).mod = s.mod ∧ (s.poisonOwned c reason).sec = s.sec ∧
    (s.poisonOwned c reason).dram = s.dram ∧ (s.poisonOwned c reason).losses = s.losses ∧
    (s.poisonOwned c reason).poison = s.poison ∧ (s.poisonOwned c reason).hostMem = s.hostMem ∧
    (s.poisonOwned c reason).slices = s.slices ∧ (s.poisonOwned c reason).memCounters = s.memCounters ∧
    (s.poisonOwned c reason).cistern = s.cistern ∧ (s.poisonOwned c reason).cisMiss = s.cisMiss ∧
    (s.poisonOwned c reason).cisInq = s.cisInq ∧ (s.poisonOwned c reason).cisDead = s.cisDead ∧
    (s.poisonOwned c reason).cisCounters = s.cisCounters ∧ (s.poisonOwned c reason).adminHeld = s.adminHeld ∧
    (s.poisonOwned c reason).flights = s.flights ∧ (s.poisonOwned c reason).issues = s.issues ∧
    (s.poisonOwned c reason).walks = s.walks ∧ (s.poisonOwned c reason).stackLocal = s.stackLocal ∧
    (s.poisonOwned c reason).localActive = s.localActive ∧
    (s.poisonOwned c reason).layoutRejected = s.layoutRejected ∧ (s.poisonOwned c reason).keepCap = s.keepCap ∧
    (s.poisonOwned c reason).deadPoison = s.deadPoison ∧ (s.poisonOwned c reason).capClamped = s.capClamped ∧
    (s.poisonOwned c reason).keepSweep = s.keepSweep ∧ (s.poisonOwned c reason).ctxs = s.ctxs ∧
    (s.poisonOwned c reason).objs = s.objs ∧ (s.poisonOwned c reason).kernels = s.kernels ∧
    (s.poisonOwned c reason).pendingOrder = s.pendingOrder ∧ (s.poisonOwned c reason).ctxEnable = s.ctxEnable ∧
    (s.poisonOwned c reason).ctxActive = s.ctxActive ∧ (s.poisonOwned c reason).ctxBase = s.ctxBase ∧
    (s.poisonOwned c reason).ctxBaseActive = s.ctxBaseActive ∧ (s.poisonOwned c reason).bar4Base = s.bar4Base ∧
    (s.poisonOwned c reason).bar4Blocked = s.bar4Blocked ∧ (s.poisonOwned c reason).fns = s.fns ∧
    (s.poisonOwned c reason).nVf = s.nVf ∧ (s.poisonOwned c reason).ats = s.ats ∧
    (s.poisonOwned c reason).invalid = s.invalid ∧ (s.poisonOwned c reason).copyNext = s.copyNext ∧
    (s.poisonOwned c reason).tiles = s.tiles ∧ (s.poisonOwned c reason).sluices = s.sluices ∧
    (s.poisonOwned c reason).lines = s.lines ∧ (s.poisonOwned c reason).fab = s.fab ∧
    (s.poisonOwned c reason).timed = s.timed ∧ (s.poisonOwned c reason).power = s.power ∧
    (s.poisonOwned c reason).gauge = s.gauge ∧ (s.poisonOwned c reason).hal = s.hal ∧
    (s.poisonOwned c reason).repair = s.repair ∧ (s.poisonOwned c reason).hdwk = s.hdwk := by
  unfold State.poisonOwned
  exact ⟨foldl_field State.pending (fun s a => by simp) _ _,
    foldl_field State.tick (fun s a => by simp) _ _,
    foldl_field State.wet (fun s a => by simp) _ _,
    foldl_field State.sent (fun s a => by simp) _ _,
    foldl_field State.freeCtr (fun s a => by simp) _ _,
    foldl_field State.nextId (fun s a => by simp) _ _,
    foldl_field State.mod (fun s a => by simp) _ _,
    foldl_field State.sec (fun s a => by simp) _ _,
    foldl_field State.dram (fun s a => by simp) _ _,
    foldl_field State.losses (fun s a => by simp) _ _,
    foldl_field State.poison (fun s a => by simp) _ _,
    foldl_field State.hostMem (fun s a => by simp) _ _,
    foldl_field State.slices (fun s a => by simp) _ _,
    foldl_field State.memCounters (fun s a => by simp) _ _,
    foldl_field State.cistern (fun s a => by simp) _ _,
    foldl_field State.cisMiss (fun s a => by simp) _ _,
    foldl_field State.cisInq (fun s a => by simp) _ _,
    foldl_field State.cisDead (fun s a => by simp) _ _,
    foldl_field State.cisCounters (fun s a => by simp) _ _,
    foldl_field State.adminHeld (fun s a => by simp) _ _,
    foldl_field State.flights (fun s a => by simp) _ _,
    foldl_field State.issues (fun s a => by simp) _ _,
    foldl_field State.walks (fun s a => by simp) _ _,
    foldl_field State.stackLocal (fun s a => by simp) _ _,
    foldl_field State.localActive (fun s a => by simp) _ _,
    foldl_field State.layoutRejected (fun s a => by simp) _ _,
    foldl_field State.keepCap (fun s a => by simp) _ _,
    foldl_field State.deadPoison (fun s a => by simp) _ _,
    foldl_field State.capClamped (fun s a => by simp) _ _,
    foldl_field State.keepSweep (fun s a => by simp) _ _,
    foldl_field State.ctxs (fun s a => by simp) _ _,
    foldl_field State.objs (fun s a => by simp) _ _,
    foldl_field State.kernels (fun s a => by simp) _ _,
    foldl_field State.pendingOrder (fun s a => by simp) _ _,
    foldl_field State.ctxEnable (fun s a => by simp) _ _,
    foldl_field State.ctxActive (fun s a => by simp) _ _,
    foldl_field State.ctxBase (fun s a => by simp) _ _,
    foldl_field State.ctxBaseActive (fun s a => by simp) _ _,
    foldl_field State.bar4Base (fun s a => by simp) _ _,
    foldl_field State.bar4Blocked (fun s a => by simp) _ _,
    foldl_field State.fns (fun s a => by simp) _ _,
    foldl_field State.nVf (fun s a => by simp) _ _,
    foldl_field State.ats (fun s a => by simp) _ _,
    foldl_field State.invalid (fun s a => by simp) _ _,
    foldl_field State.copyNext (fun s a => by simp) _ _,
    foldl_field State.tiles (fun s a => by simp) _ _,
    foldl_field State.sluices (fun s a => by simp) _ _,
    foldl_field State.lines (fun s a => by simp) _ _,
    foldl_field State.fab (fun s a => by simp) _ _,
    foldl_field State.timed (fun s a => by simp) _ _,
    foldl_field State.power (fun s a => by simp) _ _,
    foldl_field State.gauge (fun s a => by simp) _ _,
    foldl_field State.hal (fun s a => by simp) _ _,
    foldl_field State.repair (fun s a => by simp) _ _,
    foldl_field State.hdwk (fun s a => by simp) _ _⟩

@[simp] theorem State.dropEpoch_frame :
    s.dropEpoch.pending = s.pending ∧ s.dropEpoch.tick = s.tick ∧ s.dropEpoch.wet = s.wet ∧
    s.dropEpoch.sent = s.sent ∧ s.dropEpoch.freeCtr = s.freeCtr ∧ s.dropEpoch.nextId = s.nextId ∧
    s.dropEpoch.mod = s.mod ∧ s.dropEpoch.sec = s.sec ∧ s.dropEpoch.dram = s.dram ∧ s.dropEpoch.losses = s.losses ∧
    s.dropEpoch.poison = s.poison ∧ s.dropEpoch.hostMem = s.hostMem ∧ s.dropEpoch.slices = s.slices ∧
    s.dropEpoch.memCounters = s.memCounters ∧ s.dropEpoch.cistern = s.cistern ∧ s.dropEpoch.cisMiss = s.cisMiss ∧
    s.dropEpoch.cisInq = s.cisInq ∧ s.dropEpoch.cisDead = s.cisDead ∧ s.dropEpoch.cisCounters = s.cisCounters ∧
    s.dropEpoch.adminHeld = s.adminHeld ∧ s.dropEpoch.flights = s.flights ∧ s.dropEpoch.issues = s.issues ∧
    s.dropEpoch.walks = s.walks ∧ s.dropEpoch.stackLocal = s.stackLocal ∧ s.dropEpoch.localActive = s.localActive ∧
    s.dropEpoch.layoutRejected = s.layoutRejected ∧ s.dropEpoch.keepCap = s.keepCap ∧
    s.dropEpoch.deadPoison = s.deadPoison ∧ s.dropEpoch.capClamped = s.capClamped ∧
    s.dropEpoch.keepSweep = s.keepSweep ∧ s.dropEpoch.ctxs = s.ctxs ∧ s.dropEpoch.objs = s.objs ∧
    s.dropEpoch.kernels = s.kernels ∧ s.dropEpoch.pendingOrder = s.pendingOrder ∧
    s.dropEpoch.ctxEnable = s.ctxEnable ∧ s.dropEpoch.ctxActive = s.ctxActive ∧ s.dropEpoch.ctxBase = s.ctxBase ∧
    s.dropEpoch.ctxBaseActive = s.ctxBaseActive ∧ s.dropEpoch.bar4Base = s.bar4Base ∧
    s.dropEpoch.bar4Blocked = s.bar4Blocked ∧ s.dropEpoch.fns = s.fns ∧ s.dropEpoch.nVf = s.nVf ∧
    s.dropEpoch.ats = s.ats ∧ s.dropEpoch.invalid = s.invalid ∧ s.dropEpoch.copyNext = s.copyNext ∧
    s.dropEpoch.tiles = s.tiles ∧ s.dropEpoch.sluices = s.sluices ∧ s.dropEpoch.lines = s.lines ∧
    s.dropEpoch.sync = s.sync ∧ s.dropEpoch.fab = s.fab ∧ s.dropEpoch.gauge = s.gauge ∧ s.dropEpoch.hal = s.hal ∧
    s.dropEpoch.repair = s.repair ∧ s.dropEpoch.hdwk = s.hdwk := by
  unfold State.dropEpoch
  try dsimp only
  all_goals simp

@[simp] theorem State.tryRun_frame :
    s.tryRun.pending = s.pending ∧ s.tryRun.sent = s.sent ∧ s.tryRun.freeCtr = s.freeCtr ∧
    s.tryRun.nextId = s.nextId ∧ s.tryRun.sec = s.sec ∧ s.tryRun.dram = s.dram ∧ s.tryRun.losses = s.losses ∧
    s.tryRun.poison = s.poison ∧ s.tryRun.hostMem = s.hostMem ∧ s.tryRun.slices = s.slices ∧
    s.tryRun.memCounters = s.memCounters ∧ s.tryRun.cistern = s.cistern ∧ s.tryRun.cisMiss = s.cisMiss ∧
    s.tryRun.cisInq = s.cisInq ∧ s.tryRun.cisDead = s.cisDead ∧ s.tryRun.cisCounters = s.cisCounters ∧
    s.tryRun.adminHeld = s.adminHeld ∧ s.tryRun.flights = s.flights ∧ s.tryRun.issues = s.issues ∧
    s.tryRun.walks = s.walks ∧ s.tryRun.stackLocal = s.stackLocal ∧ s.tryRun.localActive = s.localActive ∧
    s.tryRun.layoutRejected = s.layoutRejected ∧ s.tryRun.keepCap = s.keepCap ∧ s.tryRun.deadPoison = s.deadPoison ∧
    s.tryRun.capClamped = s.capClamped ∧ s.tryRun.keepSweep = s.keepSweep ∧ s.tryRun.ctxs = s.ctxs ∧
    s.tryRun.objs = s.objs ∧ s.tryRun.kernels = s.kernels ∧ s.tryRun.pendingOrder = s.pendingOrder ∧
    s.tryRun.ctxEnable = s.ctxEnable ∧ s.tryRun.ctxActive = s.ctxActive ∧ s.tryRun.ctxBase = s.ctxBase ∧
    s.tryRun.ctxBaseActive = s.ctxBaseActive ∧ s.tryRun.bar4Base = s.bar4Base ∧ s.tryRun.bar4Blocked = s.bar4Blocked ∧
    s.tryRun.fns = s.fns ∧ s.tryRun.nVf = s.nVf ∧ s.tryRun.ats = s.ats ∧ s.tryRun.invalid = s.invalid ∧
    s.tryRun.copyNext = s.copyNext ∧ s.tryRun.tiles = s.tiles ∧ s.tryRun.sluices = s.sluices ∧
    s.tryRun.lines = s.lines ∧ s.tryRun.sync = s.sync ∧ s.tryRun.fab = s.fab ∧ s.tryRun.timed = s.timed ∧
    s.tryRun.power = s.power ∧ s.tryRun.gauge = s.gauge ∧ s.tryRun.hal = s.hal ∧ s.tryRun.repair = s.repair ∧
    s.tryRun.hdwk = s.hdwk := by
  unfold State.tryRun
  try dsimp only
  repeat' split
  all_goals simp

@[simp] theorem State.abortRegionOf_frame (c : ℕ) :
    (s.abortRegionOf c).pending = s.pending ∧ (s.abortRegionOf c).tick = s.tick ∧ (s.abortRegionOf c).wet = s.wet ∧
    (s.abortRegionOf c).freeCtr = s.freeCtr ∧ (s.abortRegionOf c).nextId = s.nextId ∧
    (s.abortRegionOf c).mod = s.mod ∧ (s.abortRegionOf c).sec = s.sec ∧ (s.abortRegionOf c).dram = s.dram ∧
    (s.abortRegionOf c).losses = s.losses ∧ (s.abortRegionOf c).poison = s.poison ∧
    (s.abortRegionOf c).hostMem = s.hostMem ∧ (s.abortRegionOf c).slices = s.slices ∧
    (s.abortRegionOf c).memCounters = s.memCounters ∧ (s.abortRegionOf c).cistern = s.cistern ∧
    (s.abortRegionOf c).cisMiss = s.cisMiss ∧ (s.abortRegionOf c).cisInq = s.cisInq ∧
    (s.abortRegionOf c).cisDead = s.cisDead ∧ (s.abortRegionOf c).cisCounters = s.cisCounters ∧
    (s.abortRegionOf c).adminHeld = s.adminHeld ∧ (s.abortRegionOf c).flights = s.flights ∧
    (s.abortRegionOf c).issues = s.issues ∧ (s.abortRegionOf c).walks = s.walks ∧
    (s.abortRegionOf c).stackLocal = s.stackLocal ∧ (s.abortRegionOf c).localActive = s.localActive ∧
    (s.abortRegionOf c).layoutRejected = s.layoutRejected ∧ (s.abortRegionOf c).keepCap = s.keepCap ∧
    (s.abortRegionOf c).deadPoison = s.deadPoison ∧ (s.abortRegionOf c).capClamped = s.capClamped ∧
    (s.abortRegionOf c).keepSweep = s.keepSweep ∧ (s.abortRegionOf c).objs = s.objs ∧
    (s.abortRegionOf c).ctxEnable = s.ctxEnable ∧ (s.abortRegionOf c).ctxActive = s.ctxActive ∧
    (s.abortRegionOf c).ctxBase = s.ctxBase ∧ (s.abortRegionOf c).ctxBaseActive = s.ctxBaseActive ∧
    (s.abortRegionOf c).bar4Base = s.bar4Base ∧ (s.abortRegionOf c).bar4Blocked = s.bar4Blocked ∧
    (s.abortRegionOf c).nVf = s.nVf ∧ (s.abortRegionOf c).ats = s.ats ∧ (s.abortRegionOf c).invalid = s.invalid ∧
    (s.abortRegionOf c).copyNext = s.copyNext ∧ (s.abortRegionOf c).sluices = s.sluices ∧
    (s.abortRegionOf c).lines = s.lines ∧ (s.abortRegionOf c).sync = s.sync ∧ (s.abortRegionOf c).fab = s.fab ∧
    (s.abortRegionOf c).power = s.power ∧ (s.abortRegionOf c).hal = s.hal ∧ (s.abortRegionOf c).repair = s.repair ∧
    (s.abortRegionOf c).hdwk = s.hdwk := by
  unfold State.abortRegionOf
  try dsimp only
  repeat' split
  all_goals simp

@[simp] theorem State.setLevel_frame (level : ℕ) :
    (s.setLevel level).pending = s.pending ∧ (s.setLevel level).tick = s.tick ∧ (s.setLevel level).wet = s.wet ∧
    (s.setLevel level).sent = s.sent ∧ (s.setLevel level).freeCtr = s.freeCtr ∧ (s.setLevel level).nextId = s.nextId ∧
    (s.setLevel level).mod = s.mod ∧ (s.setLevel level).dram = s.dram ∧ (s.setLevel level).losses = s.losses ∧
    (s.setLevel level).poison = s.poison ∧ (s.setLevel level).hostMem = s.hostMem ∧
    (s.setLevel level).slices = s.slices ∧ (s.setLevel level).memCounters = s.memCounters ∧
    (s.setLevel level).cistern = s.cistern ∧ (s.setLevel level).cisMiss = s.cisMiss ∧
    (s.setLevel level).cisInq = s.cisInq ∧ (s.setLevel level).cisDead = s.cisDead ∧
    (s.setLevel level).cisCounters = s.cisCounters ∧ (s.setLevel level).adminHeld = s.adminHeld ∧
    (s.setLevel level).flights = s.flights ∧ (s.setLevel level).issues = s.issues ∧
    (s.setLevel level).walks = s.walks ∧ (s.setLevel level).stackLocal = s.stackLocal ∧
    (s.setLevel level).localActive = s.localActive ∧ (s.setLevel level).layoutRejected = s.layoutRejected ∧
    (s.setLevel level).keepCap = s.keepCap ∧ (s.setLevel level).deadPoison = s.deadPoison ∧
    (s.setLevel level).capClamped = s.capClamped ∧ (s.setLevel level).keepSweep = s.keepSweep ∧
    (s.setLevel level).ctxs = s.ctxs ∧ (s.setLevel level).objs = s.objs ∧ (s.setLevel level).kernels = s.kernels ∧
    (s.setLevel level).pendingOrder = s.pendingOrder ∧ (s.setLevel level).ctxEnable = s.ctxEnable ∧
    (s.setLevel level).ctxActive = s.ctxActive ∧ (s.setLevel level).ctxBase = s.ctxBase ∧
    (s.setLevel level).ctxBaseActive = s.ctxBaseActive ∧ (s.setLevel level).bar4Base = s.bar4Base ∧
    (s.setLevel level).bar4Blocked = s.bar4Blocked ∧ (s.setLevel level).fns = s.fns ∧ (s.setLevel level).nVf = s.nVf ∧
    (s.setLevel level).ats = s.ats ∧ (s.setLevel level).invalid = s.invalid ∧
    (s.setLevel level).copyNext = s.copyNext ∧ (s.setLevel level).tiles = s.tiles ∧
    (s.setLevel level).sluices = s.sluices ∧ (s.setLevel level).lines = s.lines ∧ (s.setLevel level).sync = s.sync ∧
    (s.setLevel level).fab = s.fab ∧ (s.setLevel level).timed = s.timed ∧ (s.setLevel level).power = s.power ∧
    (s.setLevel level).gauge = s.gauge ∧ (s.setLevel level).hal = s.hal ∧ (s.setLevel level).repair = s.repair ∧
    (s.setLevel level).hdwk = s.hdwk := by
  unfold State.setLevel
  try dsimp only
  all_goals simp

@[simp] theorem State.railsOn_frame :
    s.railsOn.pending = s.pending ∧ s.railsOn.tick = s.tick ∧ s.railsOn.wet = s.wet ∧ s.railsOn.sent = s.sent ∧
    s.railsOn.freeCtr = s.freeCtr ∧ s.railsOn.nextId = s.nextId ∧ s.railsOn.sec = s.sec ∧ s.railsOn.dram = s.dram ∧
    s.railsOn.losses = s.losses ∧ s.railsOn.poison = s.poison ∧ s.railsOn.hostMem = s.hostMem ∧
    s.railsOn.slices = s.slices ∧ s.railsOn.memCounters = s.memCounters ∧ s.railsOn.cistern = s.cistern ∧
    s.railsOn.cisMiss = s.cisMiss ∧ s.railsOn.cisInq = s.cisInq ∧ s.railsOn.cisDead = s.cisDead ∧
    s.railsOn.cisCounters = s.cisCounters ∧ s.railsOn.adminHeld = s.adminHeld ∧ s.railsOn.flights = s.flights ∧
    s.railsOn.issues = s.issues ∧ s.railsOn.walks = s.walks ∧ s.railsOn.stackLocal = s.stackLocal ∧
    s.railsOn.localActive = s.localActive ∧ s.railsOn.layoutRejected = s.layoutRejected ∧
    s.railsOn.keepCap = s.keepCap ∧ s.railsOn.deadPoison = s.deadPoison ∧ s.railsOn.capClamped = s.capClamped ∧
    s.railsOn.keepSweep = s.keepSweep ∧ s.railsOn.ctxs = s.ctxs ∧ s.railsOn.objs = s.objs ∧
    s.railsOn.kernels = s.kernels ∧ s.railsOn.pendingOrder = s.pendingOrder ∧ s.railsOn.ctxEnable = s.ctxEnable ∧
    s.railsOn.ctxActive = s.ctxActive ∧ s.railsOn.ctxBase = s.ctxBase ∧ s.railsOn.ctxBaseActive = s.ctxBaseActive ∧
    s.railsOn.bar4Base = s.bar4Base ∧ s.railsOn.bar4Blocked = s.bar4Blocked ∧ s.railsOn.fns = s.fns ∧
    s.railsOn.nVf = s.nVf ∧ s.railsOn.ats = s.ats ∧ s.railsOn.invalid = s.invalid ∧ s.railsOn.copyNext = s.copyNext ∧
    s.railsOn.tiles = s.tiles ∧ s.railsOn.sluices = s.sluices ∧ s.railsOn.lines = s.lines ∧ s.railsOn.sync = s.sync ∧
    s.railsOn.fab = s.fab ∧ s.railsOn.timed = s.timed ∧ s.railsOn.power = s.power ∧ s.railsOn.gauge = s.gauge ∧
    s.railsOn.hal = s.hal ∧ s.railsOn.repair = s.repair ∧ s.railsOn.hdwk = s.hdwk := by
  unfold State.railsOn
  try dsimp only
  repeat' split
  all_goals simp

@[simp] theorem State.stopCut_frame :
    s.stopCut.pending = s.pending ∧ s.stopCut.tick = s.tick ∧ s.stopCut.wet = s.wet ∧ s.stopCut.freeCtr = s.freeCtr ∧
    s.stopCut.nextId = s.nextId ∧ s.stopCut.mod = s.mod ∧ s.stopCut.sec = s.sec ∧ s.stopCut.dram = s.dram ∧
    s.stopCut.losses = s.losses ∧ s.stopCut.poison = s.poison ∧ s.stopCut.hostMem = s.hostMem ∧
    s.stopCut.slices = s.slices ∧ s.stopCut.memCounters = s.memCounters ∧ s.stopCut.cistern = s.cistern ∧
    s.stopCut.cisMiss = s.cisMiss ∧ s.stopCut.cisInq = s.cisInq ∧ s.stopCut.cisDead = s.cisDead ∧
    s.stopCut.cisCounters = s.cisCounters ∧ s.stopCut.adminHeld = s.adminHeld ∧ s.stopCut.flights = s.flights ∧
    s.stopCut.issues = s.issues ∧ s.stopCut.walks = s.walks ∧ s.stopCut.stackLocal = s.stackLocal ∧
    s.stopCut.localActive = s.localActive ∧ s.stopCut.layoutRejected = s.layoutRejected ∧
    s.stopCut.keepCap = s.keepCap ∧ s.stopCut.deadPoison = s.deadPoison ∧ s.stopCut.capClamped = s.capClamped ∧
    s.stopCut.keepSweep = s.keepSweep ∧ s.stopCut.objs = s.objs ∧ s.stopCut.ctxEnable = s.ctxEnable ∧
    s.stopCut.ctxActive = s.ctxActive ∧ s.stopCut.ctxBase = s.ctxBase ∧ s.stopCut.ctxBaseActive = s.ctxBaseActive ∧
    s.stopCut.bar4Base = s.bar4Base ∧ s.stopCut.bar4Blocked = s.bar4Blocked ∧ s.stopCut.nVf = s.nVf ∧
    s.stopCut.ats = s.ats ∧ s.stopCut.invalid = s.invalid ∧ s.stopCut.copyNext = s.copyNext ∧
    s.stopCut.sluices = s.sluices ∧ s.stopCut.lines = s.lines ∧ s.stopCut.sync = s.sync ∧ s.stopCut.fab = s.fab ∧
    s.stopCut.timed = s.timed ∧ s.stopCut.power = s.power ∧ s.stopCut.hal = s.hal ∧ s.stopCut.repair = s.repair ∧
    s.stopCut.hdwk = s.hdwk := by
  unfold State.stopCut
  exact ⟨foldl_field State.pending (fun s a => by simp) _ _,
    foldl_field State.tick (fun s a => by simp) _ _,
    foldl_field State.wet (fun s a => by simp) _ _,
    foldl_field State.freeCtr (fun s a => by simp) _ _,
    foldl_field State.nextId (fun s a => by simp) _ _,
    foldl_field State.mod (fun s a => by simp) _ _,
    foldl_field State.sec (fun s a => by simp) _ _,
    foldl_field State.dram (fun s a => by simp) _ _,
    foldl_field State.losses (fun s a => by simp) _ _,
    foldl_field State.poison (fun s a => by simp) _ _,
    foldl_field State.hostMem (fun s a => by simp) _ _,
    foldl_field State.slices (fun s a => by simp) _ _,
    foldl_field State.memCounters (fun s a => by simp) _ _,
    foldl_field State.cistern (fun s a => by simp) _ _,
    foldl_field State.cisMiss (fun s a => by simp) _ _,
    foldl_field State.cisInq (fun s a => by simp) _ _,
    foldl_field State.cisDead (fun s a => by simp) _ _,
    foldl_field State.cisCounters (fun s a => by simp) _ _,
    foldl_field State.adminHeld (fun s a => by simp) _ _,
    foldl_field State.flights (fun s a => by simp) _ _,
    foldl_field State.issues (fun s a => by simp) _ _,
    foldl_field State.walks (fun s a => by simp) _ _,
    foldl_field State.stackLocal (fun s a => by simp) _ _,
    foldl_field State.localActive (fun s a => by simp) _ _,
    foldl_field State.layoutRejected (fun s a => by simp) _ _,
    foldl_field State.keepCap (fun s a => by simp) _ _,
    foldl_field State.deadPoison (fun s a => by simp) _ _,
    foldl_field State.capClamped (fun s a => by simp) _ _,
    foldl_field State.keepSweep (fun s a => by simp) _ _,
    foldl_field State.objs (fun s a => by simp) _ _,
    foldl_field State.ctxEnable (fun s a => by simp) _ _,
    foldl_field State.ctxActive (fun s a => by simp) _ _,
    foldl_field State.ctxBase (fun s a => by simp) _ _,
    foldl_field State.ctxBaseActive (fun s a => by simp) _ _,
    foldl_field State.bar4Base (fun s a => by simp) _ _,
    foldl_field State.bar4Blocked (fun s a => by simp) _ _,
    foldl_field State.nVf (fun s a => by simp) _ _,
    foldl_field State.ats (fun s a => by simp) _ _,
    foldl_field State.invalid (fun s a => by simp) _ _,
    foldl_field State.copyNext (fun s a => by simp) _ _,
    foldl_field State.sluices (fun s a => by simp) _ _,
    foldl_field State.lines (fun s a => by simp) _ _,
    foldl_field State.sync (fun s a => by simp) _ _,
    foldl_field State.fab (fun s a => by simp) _ _,
    foldl_field State.timed (fun s a => by simp) _ _,
    foldl_field State.power (fun s a => by simp) _ _,
    foldl_field State.hal (fun s a => by simp) _ _,
    foldl_field State.repair (fun s a => by simp) _ _,
    foldl_field State.hdwk (fun s a => by simp) _ _⟩

@[simp] theorem State.chainLow_frame :
    s.chainLow.pending = s.pending ∧ s.chainLow.tick = s.tick ∧ s.chainLow.wet = s.wet ∧ s.chainLow.sent = s.sent ∧
    s.chainLow.freeCtr = s.freeCtr ∧ s.chainLow.nextId = s.nextId ∧ s.chainLow.sec = s.sec ∧
    s.chainLow.dram = s.dram ∧ s.chainLow.losses = s.losses ∧ s.chainLow.poison = s.poison ∧
    s.chainLow.hostMem = s.hostMem ∧ s.chainLow.slices = s.slices ∧ s.chainLow.memCounters = s.memCounters ∧
    s.chainLow.cistern = s.cistern ∧ s.chainLow.cisMiss = s.cisMiss ∧ s.chainLow.cisInq = s.cisInq ∧
    s.chainLow.cisDead = s.cisDead ∧ s.chainLow.cisCounters = s.cisCounters ∧ s.chainLow.adminHeld = s.adminHeld ∧
    s.chainLow.flights = s.flights ∧ s.chainLow.issues = s.issues ∧ s.chainLow.walks = s.walks ∧
    s.chainLow.stackLocal = s.stackLocal ∧ s.chainLow.localActive = s.localActive ∧
    s.chainLow.layoutRejected = s.layoutRejected ∧ s.chainLow.keepCap = s.keepCap ∧
    s.chainLow.deadPoison = s.deadPoison ∧ s.chainLow.capClamped = s.capClamped ∧ s.chainLow.keepSweep = s.keepSweep ∧
    s.chainLow.ctxs = s.ctxs ∧ s.chainLow.objs = s.objs ∧ s.chainLow.kernels = s.kernels ∧
    s.chainLow.pendingOrder = s.pendingOrder ∧ s.chainLow.ctxEnable = s.ctxEnable ∧
    s.chainLow.ctxActive = s.ctxActive ∧ s.chainLow.ctxBase = s.ctxBase ∧ s.chainLow.ctxBaseActive = s.ctxBaseActive ∧
    s.chainLow.bar4Base = s.bar4Base ∧ s.chainLow.bar4Blocked = s.bar4Blocked ∧ s.chainLow.fns = s.fns ∧
    s.chainLow.nVf = s.nVf ∧ s.chainLow.ats = s.ats ∧ s.chainLow.invalid = s.invalid ∧
    s.chainLow.copyNext = s.copyNext ∧ s.chainLow.tiles = s.tiles ∧ s.chainLow.sluices = s.sluices ∧
    s.chainLow.lines = s.lines ∧ s.chainLow.sync = s.sync ∧ s.chainLow.fab = s.fab ∧ s.chainLow.timed = s.timed ∧
    s.chainLow.power = s.power ∧ s.chainLow.gauge = s.gauge ∧ s.chainLow.hal = s.hal ∧ s.chainLow.repair = s.repair ∧
    s.chainLow.hdwk = s.hdwk := by
  unfold State.chainLow
  try dsimp only
  all_goals simp

@[simp] theorem State.clearKeep_frame :
    s.clearKeep.pending = s.pending ∧ s.clearKeep.tick = s.tick ∧ s.clearKeep.wet = s.wet ∧
    s.clearKeep.sent = s.sent ∧ s.clearKeep.freeCtr = s.freeCtr ∧ s.clearKeep.nextId = s.nextId ∧
    s.clearKeep.mod = s.mod ∧ s.clearKeep.sec = s.sec ∧ s.clearKeep.dram = s.dram ∧ s.clearKeep.losses = s.losses ∧
    s.clearKeep.poison = s.poison ∧ s.clearKeep.hostMem = s.hostMem ∧ s.clearKeep.memCounters = s.memCounters ∧
    s.clearKeep.cisMiss = s.cisMiss ∧ s.clearKeep.cisInq = s.cisInq ∧ s.clearKeep.cisDead = s.cisDead ∧
    s.clearKeep.cisCounters = s.cisCounters ∧ s.clearKeep.adminHeld = s.adminHeld ∧ s.clearKeep.flights = s.flights ∧
    s.clearKeep.issues = s.issues ∧ s.clearKeep.walks = s.walks ∧ s.clearKeep.stackLocal = s.stackLocal ∧
    s.clearKeep.localActive = s.localActive ∧ s.clearKeep.layoutRejected = s.layoutRejected ∧
    s.clearKeep.keepCap = s.keepCap ∧ s.clearKeep.deadPoison = s.deadPoison ∧ s.clearKeep.capClamped = s.capClamped ∧
    s.clearKeep.ctxs = s.ctxs ∧ s.clearKeep.objs = s.objs ∧ s.clearKeep.kernels = s.kernels ∧
    s.clearKeep.pendingOrder = s.pendingOrder ∧ s.clearKeep.ctxEnable = s.ctxEnable ∧
    s.clearKeep.ctxActive = s.ctxActive ∧ s.clearKeep.ctxBase = s.ctxBase ∧
    s.clearKeep.ctxBaseActive = s.ctxBaseActive ∧ s.clearKeep.bar4Base = s.bar4Base ∧
    s.clearKeep.bar4Blocked = s.bar4Blocked ∧ s.clearKeep.fns = s.fns ∧ s.clearKeep.nVf = s.nVf ∧
    s.clearKeep.ats = s.ats ∧ s.clearKeep.invalid = s.invalid ∧ s.clearKeep.copyNext = s.copyNext ∧
    s.clearKeep.tiles = s.tiles ∧ s.clearKeep.sluices = s.sluices ∧ s.clearKeep.lines = s.lines ∧
    s.clearKeep.sync = s.sync ∧ s.clearKeep.fab = s.fab ∧ s.clearKeep.timed = s.timed ∧ s.clearKeep.power = s.power ∧
    s.clearKeep.gauge = s.gauge ∧ s.clearKeep.hal = s.hal ∧ s.clearKeep.repair = s.repair ∧
    s.clearKeep.hdwk = s.hdwk := by
  unfold State.clearKeep
  try dsimp only
  all_goals simp

@[simp] theorem State.computeReset_frame :
    s.computeReset.pending = s.pending ∧ s.computeReset.freeCtr = s.freeCtr ∧ s.computeReset.nextId = s.nextId ∧
    s.computeReset.sec = s.sec ∧ s.computeReset.dram = s.dram ∧ s.computeReset.losses = s.losses ∧
    s.computeReset.poison = s.poison ∧ s.computeReset.hostMem = s.hostMem ∧
    s.computeReset.memCounters = s.memCounters ∧ s.computeReset.cisMiss = s.cisMiss ∧
    s.computeReset.cisInq = s.cisInq ∧ s.computeReset.cisDead = s.cisDead ∧
    s.computeReset.cisCounters = s.cisCounters ∧ s.computeReset.adminHeld = s.adminHeld ∧
    s.computeReset.stackLocal = s.stackLocal ∧ s.computeReset.localActive = s.localActive ∧
    s.computeReset.layoutRejected = s.layoutRejected ∧ s.computeReset.keepCap = s.keepCap ∧
    s.computeReset.deadPoison = s.deadPoison ∧ s.computeReset.capClamped = s.capClamped ∧
    s.computeReset.objs = s.objs ∧ s.computeReset.ctxEnable = s.ctxEnable ∧ s.computeReset.ctxActive = s.ctxActive ∧
    s.computeReset.ctxBase = s.ctxBase ∧ s.computeReset.ctxBaseActive = s.ctxBaseActive ∧
    s.computeReset.bar4Base = s.bar4Base ∧ s.computeReset.bar4Blocked = s.bar4Blocked ∧ s.computeReset.nVf = s.nVf ∧
    s.computeReset.ats = s.ats ∧ s.computeReset.invalid = s.invalid ∧ s.computeReset.copyNext = s.copyNext ∧
    s.computeReset.repair = s.repair ∧ s.computeReset.hdwk = s.hdwk := by
  unfold State.computeReset
  try dsimp only
  all_goals simp

@[simp] theorem State.dropWork_frame :
    s.dropWork.pending = s.pending ∧ s.dropWork.freeCtr = s.freeCtr ∧ s.dropWork.nextId = s.nextId ∧
    s.dropWork.sec = s.sec ∧ s.dropWork.dram = s.dram ∧ s.dropWork.losses = s.losses ∧ s.dropWork.poison = s.poison ∧
    s.dropWork.hostMem = s.hostMem ∧ s.dropWork.memCounters = s.memCounters ∧ s.dropWork.cisMiss = s.cisMiss ∧
    s.dropWork.cisInq = s.cisInq ∧ s.dropWork.cisDead = s.cisDead ∧ s.dropWork.cisCounters = s.cisCounters ∧
    s.dropWork.stackLocal = s.stackLocal ∧ s.dropWork.localActive = s.localActive ∧
    s.dropWork.layoutRejected = s.layoutRejected ∧ s.dropWork.keepCap = s.keepCap ∧
    s.dropWork.deadPoison = s.deadPoison ∧ s.dropWork.capClamped = s.capClamped ∧ s.dropWork.ctxEnable = s.ctxEnable ∧
    s.dropWork.ctxActive = s.ctxActive ∧ s.dropWork.ctxBase = s.ctxBase ∧ s.dropWork.ctxBaseActive = s.ctxBaseActive ∧
    s.dropWork.copyNext = s.copyNext ∧ s.dropWork.repair = s.repair := by
  unfold State.dropWork
  try dsimp only
  all_goals simp

@[simp] theorem State.endSession_frame :
    s.endSession.pending = s.pending ∧ s.endSession.tick = s.tick ∧ s.endSession.wet = s.wet ∧
    s.endSession.sent = s.sent ∧ s.endSession.freeCtr = s.freeCtr ∧ s.endSession.nextId = s.nextId ∧
    s.endSession.mod = s.mod ∧ s.endSession.dram = s.dram ∧ s.endSession.losses = s.losses ∧
    s.endSession.poison = s.poison ∧ s.endSession.hostMem = s.hostMem ∧ s.endSession.slices = s.slices ∧
    s.endSession.memCounters = s.memCounters ∧ s.endSession.cistern = s.cistern ∧ s.endSession.cisMiss = s.cisMiss ∧
    s.endSession.cisInq = s.cisInq ∧ s.endSession.cisDead = s.cisDead ∧ s.endSession.cisCounters = s.cisCounters ∧
    s.endSession.adminHeld = s.adminHeld ∧ s.endSession.flights = s.flights ∧ s.endSession.issues = s.issues ∧
    s.endSession.walks = s.walks ∧ s.endSession.stackLocal = s.stackLocal ∧ s.endSession.localActive = s.localActive ∧
    s.endSession.layoutRejected = s.layoutRejected ∧ s.endSession.keepCap = s.keepCap ∧
    s.endSession.deadPoison = s.deadPoison ∧ s.endSession.capClamped = s.capClamped ∧
    s.endSession.keepSweep = s.keepSweep ∧ s.endSession.ctxs = s.ctxs ∧ s.endSession.objs = s.objs ∧
    s.endSession.kernels = s.kernels ∧ s.endSession.pendingOrder = s.pendingOrder ∧
    s.endSession.ctxEnable = s.ctxEnable ∧ s.endSession.ctxActive = s.ctxActive ∧ s.endSession.ctxBase = s.ctxBase ∧
    s.endSession.ctxBaseActive = s.ctxBaseActive ∧ s.endSession.bar4Base = s.bar4Base ∧
    s.endSession.bar4Blocked = s.bar4Blocked ∧ s.endSession.fns = s.fns ∧ s.endSession.nVf = s.nVf ∧
    s.endSession.ats = s.ats ∧ s.endSession.invalid = s.invalid ∧ s.endSession.copyNext = s.copyNext ∧
    s.endSession.tiles = s.tiles ∧ s.endSession.sluices = s.sluices ∧ s.endSession.lines = s.lines ∧
    s.endSession.sync = s.sync ∧ s.endSession.fab = s.fab ∧ s.endSession.timed = s.timed ∧
    s.endSession.power = s.power ∧ s.endSession.gauge = s.gauge ∧ s.endSession.hal = s.hal ∧
    s.endSession.repair = s.repair ∧ s.endSession.hdwk = s.hdwk := by
  unfold State.endSession
  try dsimp only
  repeat' split
  all_goals simp

@[simp] theorem State.applyLayout_frame :
    s.applyLayout.pending = s.pending ∧ s.applyLayout.tick = s.tick ∧ s.applyLayout.wet = s.wet ∧
    s.applyLayout.sent = s.sent ∧ s.applyLayout.freeCtr = s.freeCtr ∧ s.applyLayout.nextId = s.nextId ∧
    s.applyLayout.mod = s.mod ∧ s.applyLayout.sec = s.sec ∧ s.applyLayout.hostMem = s.hostMem ∧
    s.applyLayout.memCounters = s.memCounters ∧ s.applyLayout.cistern = s.cistern ∧
    s.applyLayout.cisMiss = s.cisMiss ∧ s.applyLayout.cisInq = s.cisInq ∧ s.applyLayout.cisDead = s.cisDead ∧
    s.applyLayout.cisCounters = s.cisCounters ∧ s.applyLayout.adminHeld = s.adminHeld ∧
    s.applyLayout.flights = s.flights ∧ s.applyLayout.issues = s.issues ∧ s.applyLayout.walks = s.walks ∧
    s.applyLayout.stackLocal = s.stackLocal ∧ s.applyLayout.layoutRejected = s.layoutRejected ∧
    s.applyLayout.keepCap = s.keepCap ∧ s.applyLayout.deadPoison = s.deadPoison ∧
    s.applyLayout.capClamped = s.capClamped ∧ s.applyLayout.keepSweep = s.keepSweep ∧ s.applyLayout.ctxs = s.ctxs ∧
    s.applyLayout.kernels = s.kernels ∧ s.applyLayout.pendingOrder = s.pendingOrder ∧
    s.applyLayout.ctxEnable = s.ctxEnable ∧ s.applyLayout.ctxActive = s.ctxActive ∧
    s.applyLayout.ctxBase = s.ctxBase ∧ s.applyLayout.ctxBaseActive = s.ctxBaseActive ∧
    s.applyLayout.bar4Base = s.bar4Base ∧ s.applyLayout.bar4Blocked = s.bar4Blocked ∧ s.applyLayout.fns = s.fns ∧
    s.applyLayout.nVf = s.nVf ∧ s.applyLayout.ats = s.ats ∧ s.applyLayout.invalid = s.invalid ∧
    s.applyLayout.copyNext = s.copyNext ∧ s.applyLayout.tiles = s.tiles ∧ s.applyLayout.sluices = s.sluices ∧
    s.applyLayout.lines = s.lines ∧ s.applyLayout.sync = s.sync ∧ s.applyLayout.fab = s.fab ∧
    s.applyLayout.timed = s.timed ∧ s.applyLayout.power = s.power ∧ s.applyLayout.gauge = { s.gauge with
      slots := if s.stackLocal = s.localActive then s.gauge.slots else [] } ∧
    s.applyLayout.hal = s.hal ∧ s.applyLayout.repair = s.repair ∧ s.applyLayout.hdwk = s.hdwk := by
  unfold State.applyLayout
  try dsimp only
  repeat' split
  all_goals simp

@[simp] theorem State.applyStaged_frame :
    s.applyStaged.pending = s.pending ∧ s.applyStaged.tick = s.tick ∧ s.applyStaged.wet = s.wet ∧
    s.applyStaged.sent = s.sent ∧ s.applyStaged.freeCtr = s.freeCtr ∧ s.applyStaged.nextId = s.nextId ∧
    s.applyStaged.mod = s.mod ∧ s.applyStaged.sec = s.sec ∧ s.applyStaged.hostMem = s.hostMem ∧
    s.applyStaged.memCounters = s.memCounters ∧ s.applyStaged.cistern = s.cistern ∧
    s.applyStaged.cisMiss = s.cisMiss ∧ s.applyStaged.cisInq = s.cisInq ∧ s.applyStaged.cisDead = s.cisDead ∧
    s.applyStaged.cisCounters = s.cisCounters ∧ s.applyStaged.adminHeld = s.adminHeld ∧
    s.applyStaged.flights = s.flights ∧ s.applyStaged.issues = s.issues ∧ s.applyStaged.walks = s.walks ∧
    s.applyStaged.stackLocal = s.stackLocal ∧ s.applyStaged.layoutRejected = s.layoutRejected ∧
    s.applyStaged.keepCap = s.keepCap ∧ s.applyStaged.deadPoison = s.deadPoison ∧
    s.applyStaged.capClamped = s.capClamped ∧ s.applyStaged.keepSweep = s.keepSweep ∧ s.applyStaged.ctxs = s.ctxs ∧
    s.applyStaged.kernels = s.kernels ∧ s.applyStaged.pendingOrder = s.pendingOrder ∧
    s.applyStaged.ctxEnable = s.ctxEnable ∧ s.applyStaged.ctxBase = s.ctxBase ∧ s.applyStaged.bar4Base = s.bar4Base ∧
    s.applyStaged.bar4Blocked = s.bar4Blocked ∧ s.applyStaged.fns = s.fns ∧ s.applyStaged.nVf = s.nVf ∧
    s.applyStaged.ats = s.ats ∧ s.applyStaged.invalid = s.invalid ∧ s.applyStaged.copyNext = s.copyNext ∧
    s.applyStaged.tiles = s.tiles ∧ s.applyStaged.sluices = s.sluices ∧ s.applyStaged.lines = s.lines ∧
    s.applyStaged.fab = s.fab ∧ s.applyStaged.timed = s.timed ∧ s.applyStaged.power = s.power ∧
    s.applyStaged.repair = s.repair ∧ s.applyStaged.hdwk = s.hdwk := by
  unfold State.applyStaged
  try dsimp only
  all_goals simp

@[simp] theorem State.deviceDefaults_frame :
    s.deviceDefaults.pending = s.pending ∧ s.deviceDefaults.tick = s.tick ∧ s.deviceDefaults.wet = s.wet ∧
    s.deviceDefaults.sent = s.sent ∧ s.deviceDefaults.freeCtr = s.freeCtr ∧ s.deviceDefaults.nextId = s.nextId ∧
    s.deviceDefaults.mod = s.mod ∧ s.deviceDefaults.sec = s.sec ∧ s.deviceDefaults.dram = s.dram ∧
    s.deviceDefaults.losses = s.losses ∧ s.deviceDefaults.poison = s.poison ∧ s.deviceDefaults.hostMem = s.hostMem ∧
    s.deviceDefaults.slices = s.slices ∧ s.deviceDefaults.cistern = s.cistern ∧ s.deviceDefaults.cisMiss = s.cisMiss ∧
    s.deviceDefaults.cisInq = s.cisInq ∧ s.deviceDefaults.cisDead = s.cisDead ∧
    s.deviceDefaults.adminHeld = s.adminHeld ∧ s.deviceDefaults.flights = s.flights ∧
    s.deviceDefaults.issues = s.issues ∧ s.deviceDefaults.walks = s.walks ∧
    s.deviceDefaults.stackLocal = s.stackLocal ∧ s.deviceDefaults.localActive = s.localActive ∧
    s.deviceDefaults.ctxs = s.ctxs ∧ s.deviceDefaults.objs = s.objs ∧ s.deviceDefaults.kernels = s.kernels ∧
    s.deviceDefaults.pendingOrder = s.pendingOrder ∧ s.deviceDefaults.ctxEnable = s.ctxEnable ∧
    s.deviceDefaults.ctxActive = s.ctxActive ∧ s.deviceDefaults.ctxBase = s.ctxBase ∧
    s.deviceDefaults.ctxBaseActive = s.ctxBaseActive ∧ s.deviceDefaults.bar4Base = s.bar4Base ∧
    s.deviceDefaults.bar4Blocked = s.bar4Blocked ∧ s.deviceDefaults.fns = s.fns ∧ s.deviceDefaults.nVf = s.nVf ∧
    s.deviceDefaults.ats = s.ats ∧ s.deviceDefaults.invalid = s.invalid ∧ s.deviceDefaults.tiles = s.tiles ∧
    s.deviceDefaults.sluices = s.sluices ∧ s.deviceDefaults.lines = s.lines ∧ s.deviceDefaults.sync = s.sync ∧
    s.deviceDefaults.gauge = s.gauge ∧ s.deviceDefaults.repair = s.repair ∧ s.deviceDefaults.hdwk = s.hdwk := by
  unfold State.deviceDefaults
  try dsimp only
  all_goals simp

@[simp] theorem State.deviceReset_frame (busy : Bool) :
    (s.deviceReset busy).pending = s.pending ∧ (s.deviceReset busy).freeCtr = s.freeCtr ∧
    (s.deviceReset busy).nextId = s.nextId ∧ (s.deviceReset busy).hostMem = s.hostMem ∧
    (s.deviceReset busy).stackLocal = s.stackLocal ∧ (s.deviceReset busy).ctxEnable = s.ctxEnable ∧
    (s.deviceReset busy).ctxBase = s.ctxBase ∧ (s.deviceReset busy).repair = s.repair := by
  unfold State.deviceReset
  try dsimp only
  all_goals simp

@[simp] theorem State.holdCompute_frame :
    s.holdCompute.pending = s.pending ∧ s.holdCompute.freeCtr = s.freeCtr ∧ s.holdCompute.nextId = s.nextId ∧
    s.holdCompute.dram = s.dram ∧ s.holdCompute.losses = s.losses ∧ s.holdCompute.poison = s.poison ∧
    s.holdCompute.hostMem = s.hostMem ∧ s.holdCompute.memCounters = s.memCounters ∧
    s.holdCompute.cisMiss = s.cisMiss ∧ s.holdCompute.cisInq = s.cisInq ∧ s.holdCompute.cisDead = s.cisDead ∧
    s.holdCompute.cisCounters = s.cisCounters ∧ s.holdCompute.adminHeld = s.adminHeld ∧
    s.holdCompute.stackLocal = s.stackLocal ∧ s.holdCompute.localActive = s.localActive ∧
    s.holdCompute.layoutRejected = s.layoutRejected ∧ s.holdCompute.keepCap = s.keepCap ∧
    s.holdCompute.deadPoison = s.deadPoison ∧ s.holdCompute.capClamped = s.capClamped ∧ s.holdCompute.objs = s.objs ∧
    s.holdCompute.ctxEnable = s.ctxEnable ∧ s.holdCompute.ctxActive = s.ctxActive ∧
    s.holdCompute.ctxBase = s.ctxBase ∧ s.holdCompute.ctxBaseActive = s.ctxBaseActive ∧
    s.holdCompute.bar4Base = s.bar4Base ∧ s.holdCompute.bar4Blocked = s.bar4Blocked ∧ s.holdCompute.nVf = s.nVf ∧
    s.holdCompute.ats = s.ats ∧ s.holdCompute.invalid = s.invalid ∧ s.holdCompute.copyNext = s.copyNext ∧
    s.holdCompute.repair = s.repair ∧ s.holdCompute.hdwk = s.hdwk := by
  unfold State.holdCompute
  try dsimp only
  all_goals simp

@[simp] theorem State.changeLevel_frame (level : ℕ) :
    (s.changeLevel level).pending = s.pending ∧ (s.changeLevel level).tick = s.tick ∧
    (s.changeLevel level).wet = s.wet ∧ (s.changeLevel level).sent = s.sent ∧
    (s.changeLevel level).freeCtr = s.freeCtr ∧ (s.changeLevel level).nextId = s.nextId ∧
    (s.changeLevel level).mod = s.mod ∧ (s.changeLevel level).dram = s.dram ∧
    (s.changeLevel level).losses = s.losses ∧ (s.changeLevel level).poison = s.poison ∧
    (s.changeLevel level).hostMem = s.hostMem ∧ (s.changeLevel level).slices = s.slices ∧
    (s.changeLevel level).memCounters = s.memCounters ∧ (s.changeLevel level).cistern = s.cistern ∧
    (s.changeLevel level).cisMiss = s.cisMiss ∧ (s.changeLevel level).cisInq = s.cisInq ∧
    (s.changeLevel level).cisDead = s.cisDead ∧ (s.changeLevel level).cisCounters = s.cisCounters ∧
    (s.changeLevel level).adminHeld = s.adminHeld ∧ (s.changeLevel level).flights = s.flights ∧
    (s.changeLevel level).issues = s.issues ∧ (s.changeLevel level).walks = s.walks ∧
    (s.changeLevel level).stackLocal = s.stackLocal ∧ (s.changeLevel level).localActive = s.localActive ∧
    (s.changeLevel level).layoutRejected = s.layoutRejected ∧ (s.changeLevel level).keepCap = s.keepCap ∧
    (s.changeLevel level).deadPoison = s.deadPoison ∧ (s.changeLevel level).capClamped = s.capClamped ∧
    (s.changeLevel level).keepSweep = s.keepSweep ∧ (s.changeLevel level).ctxs = s.ctxs ∧
    (s.changeLevel level).objs = s.objs ∧ (s.changeLevel level).kernels = s.kernels ∧
    (s.changeLevel level).pendingOrder = s.pendingOrder ∧ (s.changeLevel level).ctxEnable = s.ctxEnable ∧
    (s.changeLevel level).ctxActive = s.ctxActive ∧ (s.changeLevel level).ctxBase = s.ctxBase ∧
    (s.changeLevel level).ctxBaseActive = s.ctxBaseActive ∧ (s.changeLevel level).bar4Base = s.bar4Base ∧
    (s.changeLevel level).bar4Blocked = s.bar4Blocked ∧ (s.changeLevel level).fns = s.fns ∧
    (s.changeLevel level).nVf = s.nVf ∧ (s.changeLevel level).ats = s.ats ∧
    (s.changeLevel level).invalid = s.invalid ∧ (s.changeLevel level).copyNext = s.copyNext ∧
    (s.changeLevel level).tiles = s.tiles ∧ (s.changeLevel level).sluices = s.sluices ∧
    (s.changeLevel level).lines = s.lines ∧ (s.changeLevel level).sync = s.sync ∧ (s.changeLevel level).fab = s.fab ∧
    (s.changeLevel level).timed = s.timed ∧ (s.changeLevel level).power = s.power ∧
    (s.changeLevel level).hal = s.hal ∧ (s.changeLevel level).repair = s.repair ∧
    (s.changeLevel level).hdwk = s.hdwk := by
  unfold State.changeLevel
  try dsimp only
  repeat' split
  all_goals simp

@[simp] theorem State.railsOff_frame :
    s.railsOff.pending = s.pending ∧ s.railsOff.freeCtr = s.freeCtr ∧ s.railsOff.nextId = s.nextId ∧
    s.railsOff.hostMem = s.hostMem ∧ s.railsOff.stackLocal = s.stackLocal ∧ s.railsOff.ctxEnable = s.ctxEnable ∧
    s.railsOff.ctxBase = s.ctxBase ∧ s.railsOff.repair = s.repair := by
  unfold State.railsOff
  try dsimp only
  all_goals simp

@[simp] theorem State.enterHold_frame :
    s.enterHold.pending = s.pending ∧ s.enterHold.tick = s.tick ∧ s.enterHold.wet = s.wet ∧
    s.enterHold.freeCtr = s.freeCtr ∧ s.enterHold.nextId = s.nextId ∧ s.enterHold.sec = s.sec ∧
    s.enterHold.dram = s.dram ∧ s.enterHold.losses = s.losses ∧ s.enterHold.poison = s.poison ∧
    s.enterHold.hostMem = s.hostMem ∧ s.enterHold.slices = s.slices ∧ s.enterHold.memCounters = s.memCounters ∧
    s.enterHold.cistern = s.cistern ∧ s.enterHold.cisMiss = s.cisMiss ∧ s.enterHold.cisInq = s.cisInq ∧
    s.enterHold.cisDead = s.cisDead ∧ s.enterHold.cisCounters = s.cisCounters ∧ s.enterHold.adminHeld = s.adminHeld ∧
    s.enterHold.flights = s.flights ∧ s.enterHold.issues = s.issues ∧ s.enterHold.walks = s.walks ∧
    s.enterHold.stackLocal = s.stackLocal ∧ s.enterHold.localActive = s.localActive ∧
    s.enterHold.layoutRejected = s.layoutRejected ∧ s.enterHold.keepCap = s.keepCap ∧
    s.enterHold.deadPoison = s.deadPoison ∧ s.enterHold.capClamped = s.capClamped ∧
    s.enterHold.keepSweep = s.keepSweep ∧ s.enterHold.objs = s.objs ∧ s.enterHold.ctxEnable = s.ctxEnable ∧
    s.enterHold.ctxActive = s.ctxActive ∧ s.enterHold.ctxBase = s.ctxBase ∧
    s.enterHold.ctxBaseActive = s.ctxBaseActive ∧ s.enterHold.bar4Base = s.bar4Base ∧
    s.enterHold.bar4Blocked = s.bar4Blocked ∧ s.enterHold.nVf = s.nVf ∧ s.enterHold.ats = s.ats ∧
    s.enterHold.invalid = s.invalid ∧ s.enterHold.copyNext = s.copyNext ∧ s.enterHold.sluices = s.sluices ∧
    s.enterHold.lines = s.lines ∧ s.enterHold.sync = s.sync ∧ s.enterHold.fab = s.fab ∧ s.enterHold.hal = s.hal ∧
    s.enterHold.repair = s.repair ∧ s.enterHold.hdwk = s.hdwk := by
  unfold State.enterHold
  try dsimp only
  all_goals simp

@[simp] theorem State.writeGauge_frame (mask : ℕ) (at_ : Word64) (late : Bool) (imm : Bool) :
    (s.writeGauge mask at_ late imm).pending = s.pending ∧ (s.writeGauge mask at_ late imm).tick = s.tick ∧
    (s.writeGauge mask at_ late imm).wet = s.wet ∧ (s.writeGauge mask at_ late imm).sent = s.sent ∧
    (s.writeGauge mask at_ late imm).freeCtr = s.freeCtr ∧ (s.writeGauge mask at_ late imm).nextId = s.nextId ∧
    (s.writeGauge mask at_ late imm).mod = s.mod ∧ (s.writeGauge mask at_ late imm).sec = s.sec ∧
    (s.writeGauge mask at_ late imm).dram = s.dram ∧ (s.writeGauge mask at_ late imm).losses = s.losses ∧
    (s.writeGauge mask at_ late imm).poison = s.poison ∧ (s.writeGauge mask at_ late imm).hostMem = s.hostMem ∧
    (s.writeGauge mask at_ late imm).slices = s.slices ∧
    (s.writeGauge mask at_ late imm).memCounters = s.memCounters ∧
    (s.writeGauge mask at_ late imm).cistern = s.cistern ∧ (s.writeGauge mask at_ late imm).cisMiss = s.cisMiss ∧
    (s.writeGauge mask at_ late imm).cisInq = s.cisInq ∧ (s.writeGauge mask at_ late imm).cisDead = s.cisDead ∧
    (s.writeGauge mask at_ late imm).cisCounters = s.cisCounters ∧
    (s.writeGauge mask at_ late imm).adminHeld = s.adminHeld ∧ (s.writeGauge mask at_ late imm).flights = s.flights ∧
    (s.writeGauge mask at_ late imm).issues = s.issues ∧ (s.writeGauge mask at_ late imm).walks = s.walks ∧
    (s.writeGauge mask at_ late imm).stackLocal = s.stackLocal ∧
    (s.writeGauge mask at_ late imm).localActive = s.localActive ∧
    (s.writeGauge mask at_ late imm).layoutRejected = s.layoutRejected ∧
    (s.writeGauge mask at_ late imm).keepCap = s.keepCap ∧
    (s.writeGauge mask at_ late imm).deadPoison = s.deadPoison ∧
    (s.writeGauge mask at_ late imm).capClamped = s.capClamped ∧
    (s.writeGauge mask at_ late imm).keepSweep = s.keepSweep ∧ (s.writeGauge mask at_ late imm).ctxs = s.ctxs ∧
    (s.writeGauge mask at_ late imm).objs = s.objs ∧ (s.writeGauge mask at_ late imm).kernels = s.kernels ∧
    (s.writeGauge mask at_ late imm).pendingOrder = s.pendingOrder ∧
    (s.writeGauge mask at_ late imm).ctxEnable = s.ctxEnable ∧
    (s.writeGauge mask at_ late imm).ctxActive = s.ctxActive ∧ (s.writeGauge mask at_ late imm).ctxBase = s.ctxBase ∧
    (s.writeGauge mask at_ late imm).ctxBaseActive = s.ctxBaseActive ∧
    (s.writeGauge mask at_ late imm).bar4Base = s.bar4Base ∧
    (s.writeGauge mask at_ late imm).bar4Blocked = s.bar4Blocked ∧ (s.writeGauge mask at_ late imm).fns = s.fns ∧
    (s.writeGauge mask at_ late imm).nVf = s.nVf ∧ (s.writeGauge mask at_ late imm).ats = s.ats ∧
    (s.writeGauge mask at_ late imm).invalid = s.invalid ∧ (s.writeGauge mask at_ late imm).copyNext = s.copyNext ∧
    (s.writeGauge mask at_ late imm).tiles = s.tiles ∧ (s.writeGauge mask at_ late imm).sluices = s.sluices ∧
    (s.writeGauge mask at_ late imm).lines = s.lines ∧ (s.writeGauge mask at_ late imm).sync = s.sync ∧
    (s.writeGauge mask at_ late imm).fab = s.fab ∧ (s.writeGauge mask at_ late imm).timed = s.timed ∧
    (s.writeGauge mask at_ late imm).power = s.power ∧ (s.writeGauge mask at_ late imm).hal = s.hal ∧
    (s.writeGauge mask at_ late imm).repair = s.repair ∧ (s.writeGauge mask at_ late imm).hdwk = s.hdwk := by
  unfold State.writeGauge
  try dsimp only
  repeat' split
  all_goals simp

@[simp] theorem State.gaugeNow_frame :
    s.gaugeNow.pending = s.pending ∧ s.gaugeNow.tick = s.tick ∧ s.gaugeNow.wet = s.wet ∧ s.gaugeNow.sent = s.sent ∧
    s.gaugeNow.freeCtr = s.freeCtr ∧ s.gaugeNow.nextId = s.nextId ∧ s.gaugeNow.mod = s.mod ∧ s.gaugeNow.sec = s.sec ∧
    s.gaugeNow.dram = s.dram ∧ s.gaugeNow.losses = s.losses ∧ s.gaugeNow.poison = s.poison ∧
    s.gaugeNow.hostMem = s.hostMem ∧ s.gaugeNow.slices = s.slices ∧ s.gaugeNow.memCounters = s.memCounters ∧
    s.gaugeNow.cistern = s.cistern ∧ s.gaugeNow.cisMiss = s.cisMiss ∧ s.gaugeNow.cisInq = s.cisInq ∧
    s.gaugeNow.cisDead = s.cisDead ∧ s.gaugeNow.cisCounters = s.cisCounters ∧ s.gaugeNow.adminHeld = s.adminHeld ∧
    s.gaugeNow.flights = s.flights ∧ s.gaugeNow.issues = s.issues ∧ s.gaugeNow.walks = s.walks ∧
    s.gaugeNow.stackLocal = s.stackLocal ∧ s.gaugeNow.localActive = s.localActive ∧
    s.gaugeNow.layoutRejected = s.layoutRejected ∧ s.gaugeNow.keepCap = s.keepCap ∧
    s.gaugeNow.deadPoison = s.deadPoison ∧ s.gaugeNow.capClamped = s.capClamped ∧ s.gaugeNow.keepSweep = s.keepSweep ∧
    s.gaugeNow.ctxs = s.ctxs ∧ s.gaugeNow.objs = s.objs ∧ s.gaugeNow.kernels = s.kernels ∧
    s.gaugeNow.pendingOrder = s.pendingOrder ∧ s.gaugeNow.ctxEnable = s.ctxEnable ∧
    s.gaugeNow.ctxActive = s.ctxActive ∧ s.gaugeNow.ctxBase = s.ctxBase ∧ s.gaugeNow.ctxBaseActive = s.ctxBaseActive ∧
    s.gaugeNow.bar4Base = s.bar4Base ∧ s.gaugeNow.bar4Blocked = s.bar4Blocked ∧ s.gaugeNow.fns = s.fns ∧
    s.gaugeNow.nVf = s.nVf ∧ s.gaugeNow.ats = s.ats ∧ s.gaugeNow.invalid = s.invalid ∧
    s.gaugeNow.copyNext = s.copyNext ∧ s.gaugeNow.tiles = s.tiles ∧ s.gaugeNow.sluices = s.sluices ∧
    s.gaugeNow.lines = s.lines ∧ s.gaugeNow.sync = s.sync ∧ s.gaugeNow.fab = s.fab ∧ s.gaugeNow.timed = s.timed ∧
    s.gaugeNow.power = s.power ∧ s.gaugeNow.hal = s.hal ∧ s.gaugeNow.repair = s.repair ∧
    s.gaugeNow.hdwk = s.hdwk := by
  unfold State.gaugeNow
  try dsimp only
  all_goals simp

@[simp] theorem State.bootRom_frame :
    s.bootRom.pending = s.pending ∧ s.bootRom.tick = s.tick ∧ s.bootRom.wet = s.wet ∧ s.bootRom.freeCtr = s.freeCtr ∧
    s.bootRom.nextId = s.nextId ∧ s.bootRom.dram = s.dram ∧ s.bootRom.losses = s.losses ∧
    s.bootRom.poison = s.poison ∧ s.bootRom.hostMem = s.hostMem ∧ s.bootRom.slices = s.slices ∧
    s.bootRom.memCounters = s.memCounters ∧ s.bootRom.cistern = s.cistern ∧ s.bootRom.cisMiss = s.cisMiss ∧
    s.bootRom.cisInq = s.cisInq ∧ s.bootRom.cisDead = s.cisDead ∧ s.bootRom.cisCounters = s.cisCounters ∧
    s.bootRom.adminHeld = s.adminHeld ∧ s.bootRom.flights = s.flights ∧ s.bootRom.issues = s.issues ∧
    s.bootRom.walks = s.walks ∧ s.bootRom.stackLocal = s.stackLocal ∧ s.bootRom.localActive = s.localActive ∧
    s.bootRom.layoutRejected = s.layoutRejected ∧ s.bootRom.keepCap = s.keepCap ∧
    s.bootRom.deadPoison = s.deadPoison ∧ s.bootRom.capClamped = s.capClamped ∧ s.bootRom.keepSweep = s.keepSweep ∧
    s.bootRom.ctxs = s.ctxs ∧ s.bootRom.objs = s.objs ∧ s.bootRom.kernels = s.kernels ∧
    s.bootRom.pendingOrder = s.pendingOrder ∧ s.bootRom.ctxEnable = s.ctxEnable ∧ s.bootRom.ctxActive = s.ctxActive ∧
    s.bootRom.ctxBase = s.ctxBase ∧ s.bootRom.ctxBaseActive = s.ctxBaseActive ∧ s.bootRom.bar4Base = s.bar4Base ∧
    s.bootRom.bar4Blocked = s.bar4Blocked ∧ s.bootRom.fns = s.fns ∧ s.bootRom.nVf = s.nVf ∧ s.bootRom.ats = s.ats ∧
    s.bootRom.invalid = s.invalid ∧ s.bootRom.copyNext = s.copyNext ∧ s.bootRom.tiles = s.tiles ∧
    s.bootRom.sluices = s.sluices ∧ s.bootRom.lines = s.lines ∧ s.bootRom.sync = s.sync ∧ s.bootRom.timed = s.timed ∧
    s.bootRom.power = s.power ∧ s.bootRom.gauge = s.gauge ∧ s.bootRom.hdwk = s.hdwk := by
  unfold State.bootRom
  try dsimp only
  repeat' split
  all_goals simp

@[simp] theorem State.writeBank_frame (marker : Bool) :
    (s.writeBank marker).pending = s.pending ∧ (s.writeBank marker).tick = s.tick ∧ (s.writeBank marker).wet = s.wet ∧
    (s.writeBank marker).sent = s.sent ∧ (s.writeBank marker).freeCtr = s.freeCtr ∧
    (s.writeBank marker).nextId = s.nextId ∧ (s.writeBank marker).sec = s.sec ∧ (s.writeBank marker).dram = s.dram ∧
    (s.writeBank marker).losses = s.losses ∧ (s.writeBank marker).poison = s.poison ∧
    (s.writeBank marker).hostMem = s.hostMem ∧ (s.writeBank marker).slices = s.slices ∧
    (s.writeBank marker).memCounters = s.memCounters ∧ (s.writeBank marker).cistern = s.cistern ∧
    (s.writeBank marker).cisMiss = s.cisMiss ∧ (s.writeBank marker).cisInq = s.cisInq ∧
    (s.writeBank marker).cisDead = s.cisDead ∧ (s.writeBank marker).cisCounters = s.cisCounters ∧
    (s.writeBank marker).adminHeld = s.adminHeld ∧ (s.writeBank marker).flights = s.flights ∧
    (s.writeBank marker).issues = s.issues ∧ (s.writeBank marker).walks = s.walks ∧
    (s.writeBank marker).stackLocal = s.stackLocal ∧ (s.writeBank marker).localActive = s.localActive ∧
    (s.writeBank marker).layoutRejected = s.layoutRejected ∧ (s.writeBank marker).keepCap = s.keepCap ∧
    (s.writeBank marker).deadPoison = s.deadPoison ∧ (s.writeBank marker).capClamped = s.capClamped ∧
    (s.writeBank marker).keepSweep = s.keepSweep ∧ (s.writeBank marker).ctxs = s.ctxs ∧
    (s.writeBank marker).objs = s.objs ∧ (s.writeBank marker).kernels = s.kernels ∧
    (s.writeBank marker).pendingOrder = s.pendingOrder ∧ (s.writeBank marker).ctxEnable = s.ctxEnable ∧
    (s.writeBank marker).ctxActive = s.ctxActive ∧ (s.writeBank marker).ctxBase = s.ctxBase ∧
    (s.writeBank marker).ctxBaseActive = s.ctxBaseActive ∧ (s.writeBank marker).bar4Base = s.bar4Base ∧
    (s.writeBank marker).bar4Blocked = s.bar4Blocked ∧ (s.writeBank marker).fns = s.fns ∧
    (s.writeBank marker).nVf = s.nVf ∧ (s.writeBank marker).ats = s.ats ∧ (s.writeBank marker).invalid = s.invalid ∧
    (s.writeBank marker).copyNext = s.copyNext ∧ (s.writeBank marker).tiles = s.tiles ∧
    (s.writeBank marker).sluices = s.sluices ∧ (s.writeBank marker).lines = s.lines ∧
    (s.writeBank marker).sync = s.sync ∧ (s.writeBank marker).fab = s.fab ∧ (s.writeBank marker).timed = s.timed ∧
    (s.writeBank marker).power = s.power ∧ (s.writeBank marker).gauge = s.gauge ∧
    (s.writeBank marker).hdwk = s.hdwk := by
  unfold State.writeBank
  try dsimp only
  all_goals simp

end Sys2Proof.Machine
end

