-- ==== Sys2Proof/Laws/Memory.lean ====
section
/-! SUPPORT. The canonical form of tables and of memory: every operation on them keeps it. -/

namespace Sys2Proof.Machine

variable {α : Type}

/-! ## Tables -/

theorem tabWfFrom_mono [DecidableEq α] {d : α} {t : Tab α} {a b : Nat} (h : a ≤ b) (w : tabWfFrom d b t = true) :
    tabWfFrom d a t = true := by
  cases t with
  | nil => rfl
  | cons e r =>
    simp only [tabWfFrom, Bool.and_eq_true, decide_eq_true_eq] at w ⊢
    exact ⟨⟨by omega, w.1.2⟩, w.2⟩

theorem tabErase_wf [DecidableEq α] {d : α} {t : Tab α} (k : Nat) :
    ∀ {lo : Nat}, tabWfFrom d lo t = true → tabWfFrom d lo (tabErase t k) = true := by
  induction t with
  | nil => intro lo _; rfl
  | cons e r ih =>
    intro lo w
    simp only [tabWfFrom, Bool.and_eq_true, decide_eq_true_eq] at w
    unfold tabErase
    split
    · exact tabWfFrom_mono (by omega) (ih w.2)
    · simp only [tabWfFrom, Bool.and_eq_true, decide_eq_true_eq]
      exact ⟨w.1, ih w.2⟩

theorem tabPut_wf [DecidableEq α] {d : α} {t : Tab α} {k : Nat} {v : α} (hv : v ≠ d) :
    ∀ {lo : Nat}, lo ≤ k → tabWfFrom d lo t = true → tabWfFrom d lo (tabPut t k v) = true := by
  induction t with
  | nil => intro lo hk _; simp [tabPut, tabWfFrom, hk, hv]
  | cons e r ih =>
    intro lo hk w
    simp only [tabWfFrom, Bool.and_eq_true, decide_eq_true_eq] at w
    unfold tabPut
    split
    · next hlt => simp [tabWfFrom, hk, hv, w.2, w.1.2, Nat.succ_le_of_lt hlt]
    · split
      · next heq => subst heq; simp [tabWfFrom, hk, hv, w.2]
      · next hlt hne =>
        simp only [tabWfFrom, Bool.and_eq_true, decide_eq_true_eq]
        exact ⟨w.1, ih (by omega) w.2⟩

/-- A write keeps the canonical form. -/
theorem tabSet_wf [DecidableEq α] {d : α} {t : Tab α} {lo k : Nat} {v : α} (hk : lo ≤ k) (w : tabWfFrom d lo t = true) :
    tabWfFrom d lo (tabSet t d k v) = true := by
  unfold tabSet
  split
  · exact tabErase_wf k w
  · next hv => exact tabPut_wf hv hk w

theorem tabWrite_wf [DecidableEq α] {d : α} (vs : List α) :
    ∀ {t : Tab α} (k : Nat), tabWf d t = true → tabWf d (tabWrite t d k vs) = true := by
  induction vs with
  | nil => intro t k w; exact w
  | cons v r ih => intro t k w; exact ih (k + 1) (tabSet_wf (Nat.zero_le k) w)

theorem tabWriteMasked_wf [DecidableEq α] {d : α} (vs : List (Option α)) :
    ∀ {t : Tab α} (k : Nat), tabWf d t = true → tabWf d (tabWriteMasked t d k vs) = true := by
  induction vs with
  | nil => intro t k w; exact w
  | cons v r ih =>
    intro t k w
    cases v with
    | none => exact ih (k + 1) w
    | some v => exact ih (k + 1) (tabSet_wf (Nat.zero_le k) w)

/-- Reading after writing: the value written, and every other entry unchanged. -/
theorem tabGet_tabPut (t : Tab α) (d v : α) (k j : Nat) :
    tabGet (tabPut t k v) d j = if j = k then v else tabGet t d j := by
  induction t with
  | nil => simp [tabPut, tabGet, eq_comm]
  | cons e r ih =>
    unfold tabPut
    split
    · simp [tabGet, eq_comm]
    · split
      · next h1 h2 =>
        by_cases hj : e.1 = j
        · simp [tabGet, ← h2, hj]
        · have hj' : ¬ j = e.1 := fun h => hj h.symm
          simp [tabGet, ← h2, hj, hj']
      · next h1 h2 =>
        simp only [tabGet, ih]
        by_cases hj : e.1 = j
        · subst hj; simp [h2]
        · simp [hj]

theorem tabGet_below [DecidableEq α] {d : α} {t : Tab α} {j : Nat} :
    ∀ {lo : Nat}, tabWfFrom d lo t = true → j < lo → tabGet t d j = d := by
  induction t with
  | nil => intro lo _ _; rfl
  | cons e r ih =>
    intro lo w hj
    simp only [tabWfFrom, Bool.and_eq_true, decide_eq_true_eq] at w
    have hne : ¬ e.1 = j := by omega
    simp only [tabGet, hne, if_false]
    exact ih w.2 (by omega)

theorem tabGet_tabErase (t : Tab α) (d : α) (k j : Nat) :
    tabGet (tabErase t k) d j = if j = k then d else tabGet t d j := by
  induction t with
  | nil => simp [tabErase, tabGet]
  | cons e r ih =>
    unfold tabErase
    split
    · next h => subst h; rw [ih]; by_cases hj : j = e.1 <;> simp [tabGet, hj, eq_comm]
    · next h =>
      simp only [tabGet, ih]
      by_cases hj : e.1 = j
      · subst hj; simp [h]
      · simp [hj]

@[simp] theorem tabGet_tabSet [DecidableEq α] (t : Tab α) (d v : α) (k j : Nat) :
    tabGet (tabSet t d k v) d j = if j = k then v else tabGet t d j := by
  unfold tabSet
  split
  · next h => rw [tabGet_tabErase, h]
  · exact tabGet_tabPut t d v k j

@[simp] theorem tabGet_tabMod [DecidableEq α] (t : Tab α) (d : α) (f : α → α) (k j : Nat) :
    tabGet (tabMod t d k f) d j = if j = k then f (tabGet t d k) else tabGet t d j := by
  simp [tabMod]

/-! ## Device memory -/

theorem memWfFrom_mono {m : Mem} {t : Tab Byte} {a b : Nat} (h : a ≤ b) (w : memWfFrom m b t = true) :
    memWfFrom m a t = true := by
  cases t with
  | nil => rfl
  | cons e r =>
    simp only [memWfFrom, Bool.and_eq_true, decide_eq_true_eq] at w ⊢
    exact ⟨⟨by omega, w.1.2⟩, w.2⟩

theorem memWfFrom_put {m : Mem} {t : Tab Byte} {k : Nat} {v : Byte} (hv : m.isStale k = true ∨ v ≠ 0) :
    ∀ {lo : Nat}, lo ≤ k → memWfFrom m lo t = true → memWfFrom m lo (tabPut t k v) = true := by
  induction t with
  | nil => intro lo hk _; simpa [tabPut, memWfFrom, hk] using hv
  | cons e r ih =>
    intro lo hk w
    simp only [memWfFrom, Bool.and_eq_true, decide_eq_true_eq] at w
    unfold tabPut
    split
    · next hlt =>
      simp only [memWfFrom, Bool.and_eq_true, decide_eq_true_eq]
      exact ⟨⟨hk, by simpa using hv⟩, ⟨by omega, w.1.2⟩, w.2⟩
    · split
      · next heq =>
        subst heq
        simp only [memWfFrom, Bool.and_eq_true, decide_eq_true_eq]
        exact ⟨⟨hk, by simpa using hv⟩, w.2⟩
      · simp only [memWfFrom, Bool.and_eq_true, decide_eq_true_eq]
        exact ⟨w.1, ih (by omega) w.2⟩

theorem memWfFrom_erase {m : Mem} {t : Tab Byte} (k : Nat) :
    ∀ {lo : Nat}, memWfFrom m lo t = true → memWfFrom m lo (tabErase t k) = true := by
  induction t with
  | nil => intro lo _; rfl
  | cons e r ih =>
    intro lo w
    simp only [memWfFrom, Bool.and_eq_true, decide_eq_true_eq] at w
    unfold tabErase
    split
    · exact memWfFrom_mono (by omega) (ih w.2)
    · simp only [memWfFrom, Bool.and_eq_true, decide_eq_true_eq]
      exact ⟨w.1, ih w.2⟩

/-- The form depends on the stale ranges only through the listed addresses. -/
theorem memWfFrom_filter {m m' : Mem} {p : Nat × Byte → Bool} {t : Tab Byte}
    (h : ∀ e : Nat × Byte, p e = true → m.isStale e.1 = true → m'.isStale e.1 = true) :
    ∀ {lo : Nat}, memWfFrom m lo t = true → memWfFrom m' lo (t.filter p) = true := by
  induction t with
  | nil => intro lo _; rfl
  | cons e r ih =>
    intro lo w
    simp only [memWfFrom, Bool.and_eq_true, Bool.or_eq_true, decide_eq_true_eq] at w
    by_cases hp : p e = true
    · rw [List.filter_cons_of_pos hp]
      simp only [memWfFrom, Bool.and_eq_true, Bool.or_eq_true, decide_eq_true_eq]
      exact ⟨⟨w.1.1, w.1.2.imp (h e hp) id⟩, ih w.2⟩
    · rw [List.filter_cons_of_neg hp]
      exact memWfFrom_mono (by omega) (ih w.2)

theorem memWfFrom_stale {m m' : Mem} (h : m.stale = m'.stale) (t : Tab Byte) :
    ∀ lo, memWfFrom m lo t = memWfFrom m' lo t := by
  induction t with
  | nil => intro lo; rfl
  | cons e r ih => intro lo; simp [memWfFrom, Mem.isStale, h, ih]

theorem Mem.wf_cells {m : Mem} {t : Tab Byte} (w : memWfFrom m 0 t = true) : Mem.wf ⟨t, m.stale⟩ = true := by
  have e : memWfFrom ⟨t, m.stale⟩ 0 t = memWfFrom m 0 t :=
    memWfFrom_stale (m := ⟨t, m.stale⟩) (m' := m) (Eq.refl m.stale) t 0
  unfold Mem.wf
  rw [← w]
  exact e

/-- A write of one byte keeps the canonical form. -/
theorem Mem.write_wf {m : Mem} (a : Nat) (v : Byte) (w : m.wf = true) : (m.write a v).wf = true := by
  unfold Mem.write
  split
  · next h => exact Mem.wf_cells (memWfFrom_put (Or.inl h) (Nat.zero_le a) w)
  · refine Mem.wf_cells ?_
    unfold tabSet
    split
    · exact memWfFrom_erase a w
    · next hv => exact memWfFrom_put (Or.inr hv) (Nat.zero_le a) w

theorem Mem.writeList_wf (d : List (Option Byte)) :
    ∀ {m : Mem} (a : Nat), m.wf = true → (m.writeList a d).wf = true := by
  induction d with
  | nil => intro m a w; exact w
  | cons v r ih =>
    intro m a w
    cases v with
    | none => exact ih (a + 1) w
    | some v => exact ih (a + 1) (m.write_wf a v w)

theorem Mem.isStale_zero {m : Mem} {a n x : Nat} (hx : x < a ∨ a + n ≤ x) (h : m.isStale x = true) :
    (m.zero a n).isStale x = true := by
  simp only [Mem.isStale, List.any_eq_true, Bool.and_eq_true, decide_eq_true_eq] at h ⊢
  obtain ⟨r, hr, h1, h2⟩ := h
  simp only [Mem.zero, List.mem_filter, List.mem_flatMap, decide_eq_true_eq]
  rcases hx with hx | hx
  · refine ⟨(r.1, min r.2.1 a, r.2.2), ⟨⟨r, hr, by simp⟩, ?_⟩, h1, ?_⟩ <;> simp <;> omega
  · refine ⟨(max r.1 (a + n), r.2.1, r.2.2), ⟨⟨r, hr, by simp⟩, ?_⟩, ?_, h2⟩ <;> simp <;> omega

/-- Zeroing a range keeps the canonical form. -/
theorem Mem.zero_wf {m : Mem} (a n : Nat) (w : m.wf = true) : (m.zero a n).wf = true := by
  unfold Mem.wf at *
  exact memWfFrom_filter (fun e he hs => Mem.isStale_zero (by simpa using he) hs) w

/-- Losing a range keeps the canonical form. -/
theorem Mem.lose_wf {m : Mem} (a n g : Nat) (w : m.wf = true) : (m.lose a n g).wf = true := by
  unfold Mem.wf at *
  refine memWfFrom_filter (fun e he hs => ?_) w
  have h0 := Mem.isStale_zero (m := m) (by simpa using he) hs
  simp only [Mem.isStale, Mem.lose, List.any_append, Bool.or_eq_true] at h0 ⊢
  exact Or.inl h0

theorem Mem.loseAll_wf (ls : List Line) (g : Nat) : ∀ {m : Mem}, m.wf = true →
    (ls.foldl (fun m l => m.lose (l.tag * 128) 128 g) m).wf = true := by
  induction ls with
  | nil => intro m w; exact w
  | cons l r ih => intro m w; exact ih (m.lose_wf _ _ _ w)

/-- A byte just written reads as written, and every other byte as before. -/
theorem cellOf_tabPut (t : Tab Byte) (k j : Nat) (v : Byte) :
    cellOf (tabPut t k v) j = if j = k then some v else cellOf t j := by
  induction t with
  | nil => by_cases h : k = j <;> simp [tabPut, cellOf, h, eq_comm (a := j)]
  | cons e r ih =>
    unfold tabPut
    split
    · by_cases h : k = j <;> simp [cellOf, h, eq_comm (a := j)]
    · split
      · next h1 h2 =>
        by_cases h : j = k
        · simp [cellOf, h]
        · have : ¬ e.1 = j := by omega
          have h' : ¬ k = j := by omega
          simp [cellOf, h, this, h']
      · next h1 h2 =>
        by_cases h : e.1 = j
        · have : ¬ j = k := by omega
          simp [cellOf, h, this]
        · simpa [cellOf, h] using ih

theorem cellOf_tabErase (t : Tab Byte) (k j : Nat) :
    cellOf (tabErase t k) j = if j = k then none else cellOf t j := by
  induction t with
  | nil => simp [tabErase, cellOf]
  | cons e r ih =>
    unfold tabErase
    split
    · next h =>
      rw [ih]
      by_cases hj : j = k
      · simp [hj]
      · have : ¬ e.1 = j := by omega
        simp [cellOf, hj, this]
    · next h =>
      by_cases hj : e.1 = j
      · have : ¬ j = k := by omega
        simp [cellOf, hj, this]
      · simpa [cellOf, hj] using ih

theorem Mem.empty_live {m : Mem} {a : Nat} (h : m.isStale a = false) : m.empty a = 0 := by
  unfold Mem.empty
  split
  · next r hr =>
    have h1 := List.find?_some hr
    have h2 := List.mem_of_find?_eq_some hr
    simp only [Mem.isStale, List.any_eq_false] at h
    exact absurd h1 (h r h2)
  · rfl

theorem Mem.read_write (m : Mem) (a b : Nat) (v : Byte) :
    (m.write a v).read b = if b = a then v else m.read b := by
  unfold Mem.write
  split
  · simp only [Mem.read, cellOf_tabPut]
    by_cases h : b = a <;> simp [h, Mem.empty]
  · next hs =>
    have hs' : m.isStale a = false := by simpa using hs
    unfold tabSet
    split
    · next hv =>
      simp only [Mem.read, cellOf_tabErase]
      by_cases h : b = a
      · subst h
        have he : Mem.empty (Mem.mk (tabErase m.cells b) m.stale) b = 0 := Mem.empty_live hs'
        simp [hv, he]
      · simp [h, Mem.empty]
    · simp only [Mem.read, cellOf_tabPut]
      by_cases h : b = a <;> simp [h, Mem.empty]

theorem cellOf_tabCut (t : Tab Byte) (a n j : Nat) :
    cellOf (tabCut t a n) j = if a ≤ j ∧ j < a + n then none else cellOf t j := by
  induction t with
  | nil => simp [tabCut, cellOf]
  | cons e r ih =>
    unfold cellOf tabCut at *
    by_cases hj : e.1 = j
    · by_cases hc : a ≤ j ∧ j < a + n
      · have : ¬ (e.1 < a ∨ a + n ≤ e.1) := by omega
        simp [this, hc] at ih ⊢
        intro x y hx; exact ih x y hx
      · have : (e.1 < a ∨ a + n ≤ e.1) := by omega
        simp [hj, hc]
        exact ⟨by omega, e.1, rfl⟩
    · by_cases hk : e.1 < a ∨ a + n ≤ e.1
      · simp only [List.filter_cons, hk, Bool.or_eq_true, decide_eq_true_eq, if_true, List.find?_cons]
        have h1 : (e.1 == j) = false := by simpa using hj
        simp only [h1]; simpa using ih
      · have h1 : (e.1 == j) = false := by simpa using hj
        simp only [List.filter_cons, hk, Bool.or_eq_true, decide_eq_true_eq, if_false, List.find?_cons, h1]
        simpa using ih

theorem find_cut (l : List (Nat × Nat × Nat)) (a n x : Nat) (h : x < a ∨ a + n ≤ x) :
    (((l.flatMap (fun r => [(r.1, min r.2.1 a, r.2.2), (max r.1 (a + n), r.2.1, r.2.2)])).filter
      (fun r => decide (r.1 < r.2.1))).find? (fun r => decide (r.1 ≤ x) && decide (x < r.2.1))).map (fun r => r.2.2) =
    (l.find? (fun r => decide (r.1 ≤ x) && decide (x < r.2.1))).map (fun r => r.2.2) := by
  induction l with
  | nil => rfl
  | cons r q ih =>
    obtain ⟨p, e, g⟩ := r
    simp only [List.flatMap_cons, List.filter_append, List.find?_append, List.find?_cons]
    by_cases hx : p ≤ x ∧ x < e
    · simp only [hx, decide_true, Bool.and_true, Option.map_some]
      rcases h with h | h
      · have h1 : p < min e a := by omega
        have h2 : x < min e a := by omega
        simp [List.filter_cons, h1, hx, h2]
      · by_cases h1 : p < min e a
        · have h2 : ¬ x < min e a := by omega
          have h3 : max p (a + n) < e := by omega
          have h4 : max p (a + n) ≤ x := by omega
          have h5 : ¬ x < a := by omega
          simp [h1, h2, h3, h4, hx, h5, h]
        · have h3 : max p (a + n) < e := by omega
          have h4 : max p (a + n) ≤ x := by omega
          simp [h1, h3, h4, hx]
    · have hn : (decide (p ≤ x) && decide (x < e)) = false := by simp; omega
      rw [hn]
      rw [← ih]
      have : (([(p, min e a, g), (max p (a + n), e, g)].filter (fun r => decide (r.1 < r.2.1))).find?
          (fun r => decide (r.1 ≤ x) && decide (x < r.2.1))) = none := by
        rw [List.find?_eq_none]; intro z hz
        simp at hz ⊢
        rcases hz with ⟨rfl | rfl, hz⟩ <;> simp at hz ⊢ <;> omega
      rw [this]; rfl

theorem Mem.empty_eq (m : Mem) (x : Nat) : m.empty x =
    match (m.stale.find? (fun r => decide (r.1 ≤ x) && decide (x < r.2.1))).map (fun r => r.2.2) with
    | some g => Config.memByte g x
    | none => 0 := by
  unfold Mem.empty
  cases m.stale.find? (fun r => decide (r.1 ≤ x) && decide (x < r.2.1)) <;> rfl

/-- Zeroing a range leaves every byte outside it as it was. -/
theorem Mem.read_zero (m : Mem) (a n x : Nat) (h : x < a ∨ a + n ≤ x) : (m.zero a n).read x = m.read x := by
  have h1 : ¬ (a ≤ x ∧ x < a + n) := by omega
  unfold Mem.read
  rw [Mem.empty_eq, Mem.empty_eq]
  simp only [Mem.zero, cellOf_tabCut, h1, if_false, find_cut _ _ _ _ h]

/-- Every byte of a zeroed range reads 0. -/
theorem Mem.read_zero_in (m : Mem) (a n x : Nat) (h : a ≤ x ∧ x < a + n) : (m.zero a n).read x = 0 := by
  have : (m.zero a n).isStale x = false := by
    simp only [Mem.isStale, Mem.zero, List.any_eq_false]
    intro r hr
    simp only [List.mem_filter, List.mem_flatMap] at hr
    obtain ⟨⟨q, -, hq⟩, -⟩ := hr
    simp at hq ⊢
    rcases hq with rfl | rfl <;> simp <;> omega
  unfold Mem.read
  rw [Mem.empty_live this]
  simp only [Mem.zero, cellOf_tabCut, h, and_self, if_true, Option.getD_none]

/-- A range that is lost leaves every byte outside it as it was. -/
theorem Mem.read_lose (m : Mem) (a n g x : Nat) (h : x < a ∨ a + n ≤ x) : (m.lose a n g).read x = m.read x := by
  rw [← Mem.read_zero m a n x h]
  unfold Mem.read
  rw [Mem.empty_eq, Mem.empty_eq]
  have : (decide (a ≤ x) && decide (x < a + n)) = false := by simp; omega
  simp only [Mem.lose, List.find?_append, List.find?_cons, this, List.find?_nil, Option.or_none]

/-- A masked write: the bytes given, and every other byte as it was. -/
theorem Mem.read_writeList (d : List (Option Byte)) : ∀ (m : Mem) (a x : Nat),
    (m.writeList a d).read x = if a ≤ x then ((d[x - a]?).getD none).getD (m.read x) else m.read x := by
  induction d with
  | nil => intro m a x; simp [Mem.writeList]
  | cons v r ih =>
    intro m a x
    by_cases hx : a + 1 ≤ x
    · obtain ⟨k, rfl⟩ : ∃ k, x = a + 1 + k := ⟨x - (a + 1), by omega⟩
      have h1 : a + 1 + k - a = k + 1 := by omega
      have h2 : a ≤ a + 1 + k := by omega
      have h3 : a + 1 + k ≠ a := by omega
      cases v <;> simp [Mem.writeList, ih, h1, h2, Mem.read_write, h3]
    · by_cases he : a = x
      · subst he
        cases v <;> simp [Mem.writeList, ih, Mem.read_write]
      · have h1 : ¬ a ≤ x := by omega
        have h3 : x ≠ a := by omega
        cases v <;> simp [Mem.writeList, ih, hx, h1, Mem.read_write, h3]

end Sys2Proof.Machine
end

