-- ==== Sys2Proof/Laws/KeepsShared.lean ====
section
/-! SUPPORT. What every command keeps (State.kept): the operations the meanings share. One lemma per definition that answers with a state. -/

namespace Sys2Proof.Machine

variable {pq : List Instr} {pr : PartRecord × List Bool}

/-! ## Shapes -/

theorem kept_ite {c : Prop} [Decidable c] {a b : State} (ha : a.kept pq pr) (hb : b.kept pq pr) :
    (if c then a else b).kept pq pr := by
  split <;> assumption

theorem kept_mk {x : State}
    {tick : Word64} {wet : Word64} {sent : List Out} {freeCtr : Nat} {nextId : Nat} {sec : Sec} {losses : Nat}
    {poison : List Nat} {slices : Tab Slice} {memCounters : Tab MemCounters} {cistern : Tab (List Line)}
    {cisMiss : List Miss} {cisInq : List Nat} {cisDead : List (Nat × Nat)} {cisCounters : Tab MemCounters}
    {adminHeld : List Instr} {flights : List Access} {issues : List Issue} {walks : List Walk}
    {stackLocal : Nat} {localActive : Nat} {layoutRejected : Bool} {keepCap : Nat} {deadPoison : Bool}
    {capClamped : Bool} {keepSweep : Option KeepSweep} {ctxs : Tab Ctx} {objs : List Obj}
    {kernels : List Kernel} {pendingOrder : List Nat} {ctxEnable : Bool} {ctxActive : Bool} {ctxBase : Nat}
    {ctxBaseActive : Nat} {bar4Base : Nat} {bar4Blocked : Nat} {fns : Tab Fn} {nVf : Nat}
    {ats : List (Nat × Nat)} {invalid : List (Nat × Nat × Nat)} {copyNext : Nat} {tiles : Tab Tile}
    {sluices : List (SluiceId × Sluice)} {lines : Tab EventLine} {sync : Sync} {fab : Fabric} {timed : Timed}
    {power : Power} {gauge : Gauge} {hal : Halnor} {repair : Repair} {hdwk : Tab Headworks}
    (h : x.kept pq pr) :
    State.kept pq pr ⟨x.pending, tick, wet, sent, freeCtr, nextId, x.mod, sec, x.dram, losses, poison, x.hostMem, slices,
      memCounters, cistern, cisMiss, cisInq, cisDead, cisCounters, adminHeld, flights, issues, walks,
      stackLocal, localActive, layoutRejected, keepCap, deadPoison, capClamped, keepSweep, ctxs, objs,
      kernels, pendingOrder, ctxEnable, ctxActive, ctxBase, ctxBaseActive, bar4Base, bar4Blocked, fns, nVf,
      ats, invalid, copyNext, tiles, sluices, lines, sync, fab, timed, power, gauge, hal, repair, hdwk⟩ := h

theorem kept_foldl {β : Type} {f : State → β → State} (hf : ∀ s a, s.kept pq pr → (f s a).kept pq pr)
    (l : List β) : ∀ {s : State}, s.kept pq pr → (l.foldl f s).kept pq pr := by
  induction l with
  | nil => intro s h; exact h
  | cons a r ih => intro s h; exact ih (hf s a h)

theorem kept_getD {o : Option State} {s : State} (ho : ∀ t, o = some t → t.kept pq pr) (h : s.kept pq pr) :
    (o.getD s).kept pq pr := by
  cases o with
  | none => exact h
  | some t => exact ho t rfl

theorem keeps_next {t : State} (h : t.kept pq pr) : answersKept pq pr (.next t) := by
  intro u hu
  cases hu
  exact h

theorem keeps_ite {c : Prop} [Decidable c] {a b : Host.Outcome State Fault Refusal} (ha : answersKept pq pr a)
    (hb : answersKept pq pr b) : answersKept pq pr (if c then a else b) := by
  split <;> assumption

theorem kept_snd {β : Type} {p : β × State} {a : β} {t : State} (e : p = (a, t)) (h : p.2.kept pq pr) :
    t.kept pq pr := by
  subst e
  exact h

theorem kept_fst {β : Type} {p : State × β} {a : β} {t : State} (e : p = (t, a)) (h : p.1.kept pq pr) :
    t.kept pq pr := by
  subst e
  exact h

theorem kept_snd2 {β γ : Type} {p : β × γ × State} {a : β} {b : γ} {t : State} (e : p = (a, b, t))
    (h : p.2.2.kept pq pr) : t.kept pq pr := by
  subst e
  exact h

theorem foldl_keeps {β γ : Type} {P : γ → Prop} {f : γ → β → γ} (hf : ∀ a x, P a → P (f a x)) (l : List β) :
    ∀ {a : γ}, P a → P (l.foldl f a) := by
  induction l with
  | nil => intro a h; exact h
  | cons x r ih => intro a h; exact ih (hf a x h)

theorem ok_of_ite {ε α : Type} {c : Prop} [Decidable c] {e : ε} {r : Except ε α} {x : α}
    (h : (if c then .error e else r) = .ok x) : r = .ok x := by
  split at h
  · cases h
  · exact h

theorem kept_bind {o : Option State} {f : State → Option State} (ho : ∀ t, o = some t → t.kept pq pr)
    (hf : ∀ s, s.kept pq pr → ∀ t, f s = some t → t.kept pq pr) : ∀ t, o.bind f = some t → t.kept pq pr := by
  intro t ht
  cases o with
  | none => cases ht
  | some x => exact hf x (ho x rfl) t ht

theorem State.tickOnce_kept {s : State} (hs : s.kept pq pr) :
    (State.tickOnce s).kept pq pr := by
  unfold State.tickOnce
  repeat' first
    | with_reducible assumption
    | with_reducible apply kept_ite
    | with_reducible apply kept_mk

theorem State.passTicks_kept (n : Nat) : ∀ {s : State}, s.kept pq pr → (State.passTicks n s).kept pq pr := by
  induction n with
  | zero => intro s hs; exact hs
  | succ n ih => intro s hs; exact ih (State.tickOnce_kept hs)

theorem tickUntil_kept {w : Nat} (f : Nat) : ∀ {s : State}, s.kept pq pr → (tickUntil f w s).kept pq pr := by
  induction f with
  | zero => intro s hs; exact hs
  | succ n ih =>
    intro s hs
    unfold tickUntil
    split
    · exact hs
    · exact ih (State.tickOnce_kept hs)

theorem State.waitWet_kept {s : State} {w : Nat} (hs : s.kept pq pr) : (s.waitWet w).kept pq pr :=
  tickUntil_kept _ hs

theorem State.passWet_kept {s : State} {n : Nat} (hs : s.kept pq pr) :
    (State.passWet s n).kept pq pr := by
  unfold State.passWet
  repeat' first
    | with_reducible assumption
    | with_reducible apply State.waitWet_kept

theorem State.setCtx_kept {s : State} {c : Nat} {x : Ctx} (hs : s.kept pq pr) :
    (State.setCtx s c x).kept pq pr := by
  unfold State.setCtx
  repeat' first
    | with_reducible assumption
    | with_reducible apply kept_mk

theorem State.modCtx_kept {s : State} {c : Nat} {f : Ctx → Ctx} (hs : s.kept pq pr) :
    (State.modCtx s c f).kept pq pr := by
  unfold State.modCtx
  repeat' first
    | with_reducible assumption
    | with_reducible apply State.setCtx_kept

theorem State.modFn_kept {s : State} {f : Nat} {g : Fn → Fn} (hs : s.kept pq pr) :
    (State.modFn s f g).kept pq pr := by
  unfold State.modFn
  repeat' first
    | with_reducible assumption
    | with_reducible apply kept_mk

theorem State.emit_kept {s : State} {o : Out} (hs : s.kept pq pr) :
    (State.emit s o).kept pq pr := by
  unfold State.emit
  repeat' first
    | with_reducible assumption
    | with_reducible apply kept_mk

theorem State.sendMsix_kept {s : State} {f : Nat} {e : Nat} (hs : s.kept pq pr) :
    (State.sendMsix s f e).kept pq pr := by
  unfold State.sendMsix
  repeat' first
    | with_reducible assumption
    | with_reducible apply kept_ite
    | with_reducible apply State.modFn_kept
    | with_reducible apply State.emit_kept

theorem State.recordFault_kept {s : State} {c : Nat} {f : FaultRec} (hs : s.kept pq pr) :
    (State.recordFault s c f).kept pq pr := by
  unfold State.recordFault
  repeat' first
    | with_reducible assumption
    | with_reducible apply State.modCtx_kept
    | with_reducible apply State.modFn_kept
    | with_reducible apply State.sendMsix_kept
    | split

theorem State.modQueue_kept {s : State} {c : Nat} {q : Nat} {f : Queue → Queue} (hs : s.kept pq pr) :
    (State.modQueue s c q f).kept pq pr := by
  unfold State.modQueue
  repeat' first
    | with_reducible assumption
    | with_reducible apply State.modCtx_kept

theorem State.stopBlocks_kept {s : State} {c : Nat} (hs : s.kept pq pr) :
    (State.stopBlocks s c).kept pq pr := by
  unfold State.stopBlocks
  repeat' first
    | with_reducible assumption
    | with_reducible apply kept_mk

theorem State.modGauge_kept {s : State} {f : Gauge → Gauge} (hs : s.kept pq pr) :
    (State.modGauge s f).kept pq pr := by
  unfold State.modGauge
  repeat' first
    | with_reducible assumption
    | with_reducible apply kept_mk

theorem State.gaugeAdd_kept {s : State} {src : Nat} {tick : Nat} {late : Bool} {hold : Bool} (hs : s.kept pq pr) :
    (State.gaugeAdd s src tick late hold).kept pq pr := by
  unfold State.gaugeAdd
  repeat' first
    | with_reducible assumption
    | with_reducible apply State.modGauge_kept

theorem State.gaugeRequest_kept {s : State} {src : Nat} {required : Bool} {hold : Bool} (hs : s.kept pq pr) :
    (State.gaugeRequest s src required hold).kept pq pr := by
  unfold State.gaugeRequest
  repeat' first
    | with_reducible assumption
    | with_reducible apply kept_ite
    | with_reducible apply State.emit_kept
    | with_reducible apply State.gaugeAdd_kept

theorem State.takeFault_kept {s : State} {c : Nat} {only : Option Nat} {f : FaultRec} (hs : s.kept pq pr) :
    (State.takeFault s c only f).kept pq pr := by
  unfold State.takeFault
  repeat' first
    | with_reducible assumption
    | with_reducible apply kept_ite
    | with_reducible apply State.recordFault_kept
    | with_reducible apply State.modCtx_kept
    | with_reducible apply State.modQueue_kept
    | with_reducible apply State.stopBlocks_kept
    | with_reducible apply State.gaugeRequest_kept
    | split
    | with_reducible apply kept_mk

theorem State.syncCount_kept {s : State} {k : Nat} {f : SyncCounters → SyncCounters} (hs : s.kept pq pr) :
    (State.syncCount s k f).kept pq pr := by
  unfold State.syncCount
  repeat' first
    | with_reducible assumption
    | with_reducible apply kept_mk

theorem State.modSync_kept {s : State} {f : Sync → Sync} (hs : s.kept pq pr) :
    (State.modSync s f).kept pq pr := by
  unfold State.modSync
  repeat' first
    | with_reducible assumption
    | with_reducible apply kept_mk

theorem State.setSyncObj_kept {s : State} {i : Nat} {x : SyncObj} (hs : s.kept pq pr) :
    (State.setSyncObj s i x).kept pq pr := by
  unfold State.setSyncObj
  repeat' first
    | with_reducible assumption
    | with_reducible apply kept_mk

theorem State.recordOnly_kept {s : State} {c : Nat} {f : FaultRec} (hs : s.kept pq pr) :
    (State.recordOnly s c f).kept pq pr := by
  unfold State.recordOnly
  repeat' first
    | with_reducible assumption
    | with_reducible apply State.modCtx_kept

theorem State.setTile_kept {s : State} {t : Nat} {x : Tile} (hs : s.kept pq pr) :
    (State.setTile s t x).kept pq pr := by
  unfold State.setTile
  repeat' first
    | with_reducible assumption
    | with_reducible apply kept_mk

theorem State.modTile_kept {s : State} {t : Nat} {f : Tile → Tile} (hs : s.kept pq pr) :
    (State.modTile s t f).kept pq pr := by
  unfold State.modTile
  repeat' first
    | with_reducible assumption
    | with_reducible apply State.setTile_kept

theorem State.modTimed_kept {s : State} {f : Timed → Timed} (hs : s.kept pq pr) :
    (State.modTimed s f).kept pq pr := by
  unfold State.modTimed
  repeat' first
    | with_reducible assumption
    | with_reducible apply kept_mk

theorem State.abortRegion_kept {s : State} {f : FaultRec} (hs : s.kept pq pr) :
    (State.abortRegion s f).kept pq pr := by
  unfold State.abortRegion
  repeat' first
    | with_reducible assumption
    | with_reducible apply State.modTile_kept
    | with_reducible apply State.modTimed_kept
    | with_reducible apply State.emit_kept
    | with_reducible apply State.modQueue_kept
    | with_reducible apply State.takeFault_kept
    | with_reducible apply kept_foldl
    | split
    | dsimp only
    | intro _

theorem State.modHal_kept {s : State} {f : Halnor → Halnor} (hs : s.kept pq pr) :
    (State.modHal s f).kept pq pr := by
  unfold State.modHal
  repeat' first
    | with_reducible assumption
    | with_reducible apply kept_mk

theorem State.defer_kept {s : State} {c : Instr} (hs : s.kept pq pr) :
    (State.defer s c).kept pq pr := by
  unfold State.defer
  repeat' first
    | with_reducible assumption
    | with_reducible apply State.modHal_kept

theorem State.drawn_kept {s : State} (hs : s.kept pq pr) :
    (State.drawn s).kept pq pr := by
  unfold State.drawn
  repeat' first
    | with_reducible assumption
    | with_reducible apply kept_mk

theorem State.logEntry_kept {s : State} {k : LogKind} {args : List Nat} (hs : s.kept pq pr) :
    (State.logEntry s k args).kept pq pr := by
  unfold State.logEntry
  repeat' first
    | with_reducible assumption
    | with_reducible apply State.modHal_kept

theorem State.memCount_kept {s : State} {k : Nat} {f : MemCounters → MemCounters} (hs : s.kept pq pr) :
    (State.memCount s k f).kept pq pr := by
  unfold State.memCount
  repeat' first
    | with_reducible assumption
    | with_reducible apply kept_mk

theorem State.fresh_kept {s : State} (hs : s.kept pq pr) :
    (State.fresh s).kept pq pr := by
  unfold State.fresh
  repeat' first
    | with_reducible assumption
    | with_reducible apply kept_mk

theorem State.cisCount_kept {s : State} {k : Nat} {f : MemCounters → MemCounters} (hs : s.kept pq pr) :
    (State.cisCount s k f).kept pq pr := by
  unfold State.cisCount
  repeat' first
    | with_reducible assumption
    | with_reducible apply kept_mk

theorem State.modPower_kept {s : State} {f : Power → Power} (hs : s.kept pq pr) :
    (State.modPower s f).kept pq pr := by
  unfold State.modPower
  repeat' first
    | with_reducible assumption
    | with_reducible apply kept_mk

theorem State.modFab_kept {s : State} {f : Fabric → Fabric} (hs : s.kept pq pr) :
    (State.modFab s f).kept pq pr := by
  unfold State.modFab
  repeat' first
    | with_reducible assumption
    | with_reducible apply kept_mk

theorem State.modRegion_kept {s : State} {f : Region → Region} (hs : s.kept pq pr) :
    (State.modRegion s f).kept pq pr := by
  unfold State.modRegion
  repeat' first
    | with_reducible assumption
    | with_reducible apply State.modTimed_kept

theorem State.setSlice_kept {s : State} {ch : Nat} {x : Slice} (hs : s.kept pq pr) :
    (State.setSlice s ch x).kept pq pr := by
  unfold State.setSlice
  repeat' first
    | with_reducible assumption
    | with_reducible apply kept_mk

theorem State.orDefer_kept {s : State} {c : Instr} {f : State} (hs : s.kept pq pr) (hf : f.kept pq pr) :
    answersKept pq pr (State.orDefer s c f) := by
  unfold State.orDefer
  repeat' first
    | with_reducible assumption
    | with_reducible apply keeps_next
    | with_reducible apply keeps_ite
    | with_reducible apply State.defer_kept

theorem State.modMod_kept {s : State} {f : Module → Module} (hs : s.kept pq pr)
    (hf : (f s.mod).record = s.mod.record ∧ (f s.mod).prov = s.mod.prov) : (s.modMod f).kept pq pr := by
  refine ⟨hs.1, hs.2.1, ?_⟩
  rw [← hs.2.2]
  exact Prod.ext hf.1 hf.2

theorem State.modObj_kept {s : State} {n : Nat} {f : Obj → Obj} (hs : s.kept pq pr) :
    (State.modObj s n f).kept pq pr := by
  unfold State.modObj
  repeat' first
    | with_reducible assumption
    | with_reducible apply kept_mk

theorem State.modSec_kept {s : State} {f : Sec → Sec} (hs : s.kept pq pr) :
    (State.modSec s f).kept pq pr := by
  unfold State.modSec
  repeat' first
    | with_reducible assumption
    | with_reducible apply kept_mk

theorem State.modPort_kept {s : State} {p : Nat} {f : Port → Port} (hs : s.kept pq pr) :
    (State.modPort s p f).kept pq pr := by
  unfold State.modPort
  repeat' first
    | with_reducible assumption
    | with_reducible apply kept_mk

theorem State.abortRegionOn_kept {s : State} {p : Nat} {f : FaultRec} (hs : s.kept pq pr) :
    (State.abortRegionOn s p f).kept pq pr := by
  unfold State.abortRegionOn
  repeat' first
    | with_reducible assumption
    | with_reducible apply kept_ite
    | with_reducible apply State.abortRegion_kept
    | split

theorem State.raiseAlert_kept {s : State} {a : Alert} (hs : s.kept pq pr) :
    (State.raiseAlert s a).kept pq pr := by
  unfold State.raiseAlert
  repeat' first
    | with_reducible assumption
    | exact ⟨rfl, rfl⟩
    | with_reducible apply State.modMod_kept
    | with_reducible apply State.modHal_kept
    | with_reducible apply State.emit_kept

theorem State.modHeadworks_kept {s : State} {k : Nat} {f : Headworks → Headworks} (hs : s.kept pq pr) :
    (State.modHeadworks s k f).kept pq pr := by
  unfold State.modHeadworks
  repeat' first
    | with_reducible assumption
    | with_reducible apply kept_mk

theorem State.chooseEntry_kept {s : State} (hs : s.kept pq pr) :
    (State.chooseEntry s).kept pq pr := by
  unfold State.chooseEntry
  repeat' first
    | with_reducible assumption
    | with_reducible apply kept_ite
    | with_reducible apply State.modTimed_kept
    | with_reducible apply State.modRegion_kept
    | with_reducible apply State.emit_kept
    | split

theorem State.tryReady_kept {s : State} (hs : s.kept pq pr) :
    (State.tryReady s).kept pq pr := by
  unfold State.tryReady
  repeat' first
    | with_reducible assumption
    | with_reducible apply kept_ite
    | with_reducible apply State.modRegion_kept
    | with_reducible apply State.chooseEntry_kept
    | with_reducible apply State.modTimed_kept
    | with_reducible apply State.emit_kept
    | split

theorem State.stopAll_kept {s : State} {f : FaultRec} (hs : s.kept pq pr) :
    (State.stopAll s f).kept pq pr := by
  unfold State.stopAll
  repeat' first
    | with_reducible assumption
    | with_reducible apply State.takeFault_kept
    | with_reducible apply kept_foldl
    | intro _

theorem State.noteError_kept {s : State} {sector : Nat} {lost : Bool} (hs : s.kept pq pr) :
    (State.noteError s sector lost).kept pq pr := by
  unfold State.noteError
  repeat' first
    | with_reducible assumption
    | with_reducible apply kept_mk

theorem State.logPoison_kept {s : State} {line : Nat} (hs : s.kept pq pr) :
    (State.logPoison s line).kept pq pr := by
  unfold State.logPoison
  repeat' first
    | with_reducible assumption
    | with_reducible apply State.logEntry_kept

theorem State.poisonSector_kept {s : State} {line : Nat} {sector : Nat} (hs : s.kept pq pr) :
    (State.poisonSector s line sector).kept pq pr := by
  unfold State.poisonSector
  repeat' first
    | with_reducible assumption
    | with_reducible apply State.noteError_kept
    | with_reducible apply State.logPoison_kept
    | with_reducible apply State.memCount_kept
    | with_reducible apply kept_mk

theorem State.poisonCopied_kept {s : State} {secs : List Nat} (hs : s.kept pq pr) :
    (State.poisonCopied s secs).kept pq pr := by
  unfold State.poisonCopied
  repeat' first
    | with_reducible assumption
    | with_reducible apply State.poisonSector_kept
    | with_reducible apply kept_foldl
    | split
    | with_reducible apply kept_mk
    | intro _

theorem State.countPoison_kept {s : State} {line : Nat} (hs : s.kept pq pr) :
    (State.countPoison s line).kept pq pr := by
  unfold State.countPoison
  repeat' first
    | with_reducible assumption
    | with_reducible apply State.memCount_kept

theorem State.undead_kept {s : State} {line : Nat} (hs : s.kept pq pr) :
    (State.undead s line).kept pq pr := by
  unfold State.undead
  repeat' first
    | with_reducible assumption
    | with_reducible apply kept_ite
    | with_reducible apply State.setSlice_kept

theorem State.recordDead_kept {s : State} {line : Nat} (hs : s.kept pq pr) :
    (State.recordDead s line).kept pq pr := by
  unfold State.recordDead
  repeat' first
    | with_reducible assumption
    | with_reducible apply State.setSlice_kept
    | with_reducible apply State.undead_kept
    | with_reducible apply kept_foldl

theorem State.dropLine_kept {s : State} {line : Nat} (hs : s.kept pq pr) : (s.dropLine line).kept pq pr := by
  have h : ∀ d, State.kept pq pr { s with dram := s.dram.writeList (line * 128) d, freeCtr := s.freeCtr + 1 } :=
    fun d => ⟨⟨Mem.writeList_wf d _ hs.1.1, hs.1.2⟩, hs.2⟩
  unfold State.dropLine
  split
  · exact hs
  · dsimp only
    split
    · exact State.logEntry_kept (State.recordDead_kept (State.memCount_kept (State.setSlice_kept (h _))))
    · exact State.memCount_kept (State.setSlice_kept (h _))

theorem State.sweepHome_kept {s : State} {ch : Nat} {i : Nat} (hs : s.kept pq pr) :
    (State.sweepHome s ch i).kept pq pr := by
  unfold State.sweepHome
  repeat' first
    | with_reducible assumption
    | with_reducible apply kept_ite
    | with_reducible apply State.setSlice_kept
    | split
    | with_reducible apply kept_mk

theorem State.countDemoted_kept {s : State} {ch : Nat} {ov : Bool} (hs : s.kept pq pr) :
    (State.countDemoted s ch ov).kept pq pr := by
  unfold State.countDemoted
  repeat' first
    | with_reducible assumption
    | with_reducible apply kept_ite
    | with_reducible apply State.memCount_kept

theorem State.countPressure_kept {s : State} {ch : Nat} {set : List Line} {l : Line} (hs : s.kept pq pr) :
    (State.countPressure s ch set l).kept pq pr := by
  unfold State.countPressure
  repeat' first
    | with_reducible assumption
    | with_reducible apply kept_ite
    | with_reducible apply State.memCount_kept

theorem State.writeBack_kept {s : State} {l : Line} (hs : s.kept pq pr) : (s.writeBack l).kept pq pr :=
  ⟨⟨Mem.writeList_wf _ _ hs.1.1, hs.1.2⟩, hs.2⟩

theorem State.evictTo_kept {s : State} {ch : Nat} {l : Line} (hs : s.kept pq pr) :
    (State.evictTo s ch l).kept pq pr := by
  unfold State.evictTo
  repeat' first
    | with_reducible assumption
    | with_reducible apply kept_ite
    | with_reducible apply State.setSlice_kept
    | with_reducible apply State.writeBack_kept
    | split

theorem State.touchLine_kept {s : State} {line hint : Nat} {f : Line → Line} (hs : s.kept pq pr) :
    ∀ t, s.touchLine line hint f = some t → t.kept pq pr := by
  intro t ht
  unfold State.touchLine at ht
  have hs := State.sweepHome_kept (ch := s.channelOf line) (i := s.setOf line) hs
  try dsimp only at ht
  split at ht
  · cases ht
    exact State.countDemoted_kept (State.setSlice_kept hs)
  · split at ht
    · cases ht
    · cases ht
      exact State.countDemoted_kept (State.setSlice_kept hs)
    · cases ht
      exact State.countDemoted_kept (State.evictTo_kept
        (State.setSlice_kept (State.countPressure_kept hs)))

theorem State.storeLine_kept {s : State} {line : Nat} {off : Nat} {hint : Nat} {d : List (Option Byte)} (hs : s.kept pq pr) :
    (State.storeLine s line off hint d).kept pq pr := by
  unfold State.storeLine
  repeat' first
    | with_reducible assumption
    | with_reducible apply State.undead_kept
    | with_reducible refine State.touchLine_kept ?_ _ (by assumption)
    | with_reducible apply State.evictTo_kept
    | split
    | with_reducible apply kept_mk

theorem State.loadEffect_kept {s : State} {line : Nat} {off : Nat} {n : Nat} {hint : Nat} (hs : s.kept pq pr) :
    (State.loadEffect s line off n hint).kept pq pr := by
  unfold State.loadEffect
  repeat' first
    | with_reducible assumption
    | with_reducible apply kept_ite
    | with_reducible apply State.dropLine_kept
    | with_reducible refine State.touchLine_kept ?_
    | with_reducible apply kept_getD

theorem State.loadLine_kept {s : State} {line : Nat} {off : Nat} {n : Nat} {hint : Nat} (hs : s.kept pq pr) :
    (State.loadLine s line off n hint).2.kept pq pr := by
  unfold State.loadLine
  repeat' first
    | with_reducible assumption
    | with_reducible apply State.countPoison_kept
    | with_reducible apply State.loadEffect_kept
    | split

theorem State.loadRange_kept {s : State} {a n hint : Nat} (hs : s.kept pq pr) :
    (s.loadRange a n hint).2.2.kept pq pr := by
  unfold State.loadRange
  refine foldl_keeps (P := fun acc : List Byte × Bool × State => acc.2.2.kept pq pr) ?_ _ hs
  intro acc p h
  split
  · exact h
  · split
    · next heq => exact kept_snd heq (State.loadLine_kept h)
    · next heq => exact kept_snd heq (State.loadLine_kept h)

theorem State.storeRange_kept {s : State} {a : Nat} {hint : Nat} {d : List (Option Byte)} (hs : s.kept pq pr) :
    (State.storeRange s a hint d).kept pq pr := by
  unfold State.storeRange
  repeat' first
    | with_reducible assumption
    | with_reducible apply State.storeLine_kept
    | with_reducible apply kept_foldl
    | intro _

theorem State.storeBytes_kept {s : State} {a : Nat} {d : List Byte} (hs : s.kept pq pr) :
    (State.storeBytes s a d).kept pq pr := by
  unfold State.storeBytes
  repeat' first
    | with_reducible assumption
    | with_reducible apply State.storeRange_kept

theorem State.forget_kept {s : State} {a : Nat} {n : Nat} (hs : s.kept pq pr) :
    (State.forget s a n).kept pq pr := by
  unfold State.forget
  repeat' first
    | with_reducible assumption
    | with_reducible apply kept_mk

theorem State.zeroRange_kept {s : State} {a n : Nat} (hs : s.kept pq pr) : (s.zeroRange a n).kept pq pr :=
  ⟨⟨Mem.zero_wf _ _ hs.1.1, hs.1.2⟩, hs.2⟩

theorem State.dropStack_kept {s : State} {k : Nat} (hs : s.kept pq pr) : (s.dropStack k).kept pq pr :=
  ⟨⟨Mem.loseAll_wf _ _ hs.1.1, hs.1.2⟩, hs.2⟩

theorem State.loseMemory_kept {s : State} (hs : s.kept pq pr) : s.loseMemory.kept pq pr :=
  ⟨⟨rfl, hs.1.2⟩, hs.2⟩

theorem State.dropCaches_kept {s : State} (hs : s.kept pq pr) : s.dropCaches.kept pq pr :=
  ⟨⟨Mem.loseAll_wf _ _ hs.1.1, hs.1.2⟩, hs.2⟩

theorem State.rmwLine_kept {s : State} {line : Nat} (f : List Byte → List (Option Byte)) (hs : s.kept pq pr) :
    (State.rmwLine s line f).2.kept pq pr := by
  unfold State.rmwLine
  repeat' first
    | with_reducible assumption
    | with_reducible apply State.countPoison_kept
    | with_reducible apply State.loadEffect_kept
    | with_reducible apply State.storeLine_kept
    | split

theorem State.hostPage_kept {s : State} {space page : Nat} (hs : s.kept pq pr) :
    (s.hostPage space page).2.kept pq pr := by
  have h : ∀ c : Bool, (if c then s.drawn else s).kept pq pr := by
    intro c
    split
    · exact State.drawn_kept hs
    · exact hs
  unfold State.hostPage
  split
  · exact hs
  · dsimp only
    split
    · exact kept_mk (h _)
    · exact h _

theorem State.hostRange_kept {s : State} {space iova n : Nat} (hs : s.kept pq pr) :
    (s.hostRange space iova n).2.kept pq pr := by
  unfold State.hostRange
  refine foldl_keeps (P := fun acc : Bool × State => acc.2.kept pq pr) ?_ _ hs
  intro a x h
  split
  · exact State.hostPage_kept h
  · exact h

theorem State.hostWrite_kept {s : State} {space iova : Nat} {d : List Byte} (hs : s.kept pq pr) :
    (s.hostWrite space iova d).kept pq pr :=
  ⟨⟨hs.1.1, tabWrite_wf _ _ hs.1.2⟩, hs.2⟩

theorem State.writePart_kept {s : State} {c : Nat} {va : Nat} {d : List Byte} (hs : s.kept pq pr) :
    ∀ t, (State.writePart s c va d) = some t → t.kept pq pr := by
  unfold State.writePart
  intro t ht
  repeat' split at ht
  all_goals cases ht
  all_goals repeat' first
    | with_reducible assumption
    | with_reducible apply State.storeLine_kept
    | with_reducible apply State.hostWrite_kept
    | with_reducible refine kept_snd (by assumption) (State.hostRange_kept ?_)

theorem State.writeStruct_kept {s : State} {c va : Nat} {d : List Byte} (hs : s.kept pq pr) :
    ∀ t, s.writeStruct c va d = some t → t.kept pq pr := by
  unfold State.writeStruct
  refine foldl_keeps (P := fun acc : Option State => ∀ t, acc = some t → t.kept pq pr) ?_ _ ?_
  · intro acc p h t ht
    cases acc with
    | none => cases ht
    | some x => exact State.writePart_kept (h x rfl) t ht
  · intro t ht
    cases ht
    exact hs

theorem State.readPart_kept {s : State} {c : Nat} {va : Nat} {n : Nat} (hs : s.kept pq pr) :
    (State.readPart s c va n).2.kept pq pr := by
  unfold State.readPart
  repeat' first
    | with_reducible assumption
    | with_reducible refine kept_snd (by assumption) (State.loadLine_kept ?_)
    | with_reducible refine kept_snd (by assumption) (State.hostRange_kept ?_)
    | split

theorem State.readStruct_kept {s : State} {c va n : Nat} (hs : s.kept pq pr) :
    (s.readStruct c va n).2.kept pq pr := by
  unfold State.readStruct
  refine foldl_keeps (P := fun acc : Except StructErr (List Byte) × State => acc.2.kept pq pr) ?_ _ hs
  intro acc p h
  split
  · exact h
  · split
    · next heq => exact kept_snd heq (State.readPart_kept h)
    · next heq => exact kept_snd heq (State.readPart_kept h)

theorem State.countDeniedHandle_kept {s : State} {handle : Nat} (hs : s.kept pq pr) :
    (State.countDeniedHandle s handle).kept pq pr := by
  unfold State.countDeniedHandle
  repeat' first
    | with_reducible assumption
    | with_reducible apply State.syncCount_kept

theorem State.countDeniedAt_kept {s : State} {i : Nat} (hs : s.kept pq pr) :
    (State.countDeniedAt s i).kept pq pr := by
  unfold State.countDeniedAt
  repeat' first
    | with_reducible assumption
    | with_reducible apply State.syncCount_kept

theorem State.countSignals_kept {s : State} {i : Nat} (hs : s.kept pq pr) :
    (State.countSignals s i).kept pq pr := by
  unfold State.countSignals
  repeat' first
    | with_reducible assumption
    | with_reducible apply State.syncCount_kept

theorem State.wakeWaiters_kept {s : State} {i : Nat} (hs : s.kept pq pr) :
    (State.wakeWaiters s i).kept pq pr := by
  unfold State.wakeWaiters
  repeat' first
    | with_reducible assumption
    | with_reducible apply State.modSync_kept
    | with_reducible apply State.setSyncObj_kept

theorem State.countRegression_kept {s : State} {i : Nat} (hs : s.kept pq pr) :
    (State.countRegression s i).kept pq pr := by
  unfold State.countRegression
  repeat' first
    | with_reducible assumption
    | with_reducible apply State.syncCount_kept

theorem State.applySignal_kept {s : State} {i : Nat} {add : Bool} {v : Nat} (hs : s.kept pq pr) :
    (s.applySignal i add v).1.kept pq pr := by
  unfold State.applySignal
  dsimp only
  split
  · split
    · exact State.countSignals_kept (State.wakeWaiters_kept (State.setSyncObj_kept hs))
    · exact State.countRegression_kept hs
  · split
    · split
      · exact State.countRegression_kept hs
      · exact State.countDeniedAt_kept hs
    · exact State.countDeniedAt_kept hs

theorem State.applyArrival_kept {s : State} {i gen n : Nat} (hs : s.kept pq pr) :
    (s.applyArrival i gen n).1.kept pq pr := by
  unfold State.applyArrival
  dsimp only
  split
  · split
    · exact State.countRegression_kept hs
    · split
      · exact State.countSignals_kept (State.wakeWaiters_kept (State.setSyncObj_kept hs))
      · split
        · exact State.countSignals_kept (State.setSyncObj_kept hs)
        · exact State.syncCount_kept hs
  · split
    · split
      · exact State.countRegression_kept hs
      · exact State.countDeniedAt_kept hs
    · exact State.countDeniedAt_kept hs

theorem State.syncFault_kept {s : State} {who : Who} {c : Nat} {f : FaultRec} (hs : s.kept pq pr) :
    (State.syncFault s who c f).kept pq pr := by
  unfold State.syncFault
  repeat' first
    | with_reducible assumption
    | with_reducible apply State.abortRegion_kept
    | with_reducible apply State.takeFault_kept
    | split

theorem State.syncReport_kept {s : State} {who : Who} {c : Nat} {f : FaultRec} {out : SyncOut} (hs : s.kept pq pr) :
    (State.syncReport s who c f out).kept pq pr := by
  unfold State.syncReport
  repeat' first
    | with_reducible assumption
    | with_reducible apply kept_ite
    | with_reducible apply State.modCtx_kept
    | with_reducible apply State.recordOnly_kept
    | with_reducible apply State.syncFault_kept
    | with_reducible apply kept_foldl
    | with_reducible apply kept_getD
    | split

theorem State.dropWaits_kept {s : State} {c : Nat} (hs : s.kept pq pr) :
    (State.dropWaits s c).kept pq pr := by
  unfold State.dropWaits
  repeat' first
    | with_reducible assumption
    | with_reducible apply State.modSync_kept
    | with_reducible apply State.setSyncObj_kept
    | with_reducible apply kept_foldl
    | dsimp only
    | intro _

theorem State.poisonOwned_kept {s : State} {c : Nat} {reason : Nat} (hs : s.kept pq pr) :
    (State.poisonOwned s c reason).kept pq pr := by
  unfold State.poisonOwned
  repeat' first
    | with_reducible assumption
    | with_reducible apply State.wakeWaiters_kept
    | with_reducible apply State.setSyncObj_kept
    | with_reducible apply kept_foldl
    | dsimp only
    | intro _

theorem State.unshare_kept {s : State} {e : Nat} (hs : s.kept pq pr) :
    (State.unshare s e).kept pq pr := by
  unfold State.unshare
  repeat' first
    | with_reducible assumption
    | with_reducible apply State.modSync_kept
    | with_reducible apply State.setSyncObj_kept
    | split
    | with_reducible apply kept_mk

theorem State.registerWait_kept {s : State} {w : Wait} (hs : s.kept pq pr) :
    (State.registerWait s w).kept pq pr := by
  unfold State.registerWait
  repeat' first
    | with_reducible assumption
    | with_reducible apply kept_ite
    | with_reducible apply State.modSync_kept
    | with_reducible apply State.setSyncObj_kept
    | with_reducible apply State.syncCount_kept

theorem State.sendFabric_kept {s : State} {dev : Nat} {route : Nat} {op : FabOp} {access : Option Nat} {sync : Option Nat} {c : Nat} (hs : s.kept pq pr) :
    (State.sendFabric s dev route op access sync c).kept pq pr := by
  unfold State.sendFabric
  repeat' first
    | with_reducible assumption
    | with_reducible apply kept_ite
    | with_reducible apply State.modFab_kept
    | with_reducible apply State.emit_kept

theorem State.sendOp_kept {s : State} {o : SyncOp} (hs : s.kept pq pr) :
    (State.sendOp s o).kept pq pr := by
  unfold State.sendOp
  repeat' first
    | with_reducible assumption
    | with_reducible apply State.modSync_kept
    | with_reducible apply State.sendFabric_kept
    | split

theorem State.setCis_kept {s : State} {k : Nat} {set : List Line} (hs : s.kept pq pr) :
    (State.setCis s k set).kept pq pr := by
  unfold State.setCis
  repeat' first
    | with_reducible assumption
    | with_reducible apply kept_mk

theorem State.sweepCis_kept {s : State} {k : Nat} (hs : s.kept pq pr) :
    (State.sweepCis s k).kept pq pr := by
  unfold State.sweepCis
  repeat' first
    | with_reducible assumption
    | with_reducible apply kept_ite
    | with_reducible apply State.setCis_kept
    | split
    | with_reducible apply kept_mk

theorem State.countCisDemoted_kept {s : State} {k : Nat} {b : Bool} (hs : s.kept pq pr) :
    (State.countCisDemoted s k b).kept pq pr := by
  unfold State.countCisDemoted
  repeat' first
    | with_reducible assumption
    | with_reducible apply kept_ite
    | with_reducible apply State.cisCount_kept

theorem State.overFills_kept {s : State} {dev : Nat} {n : Nat} {d : List (Option Byte)} (hs : s.kept pq pr) :
    (State.overFills s dev n d).kept pq pr := by
  unfold State.overFills
  repeat' first
    | with_reducible assumption
    | with_reducible apply kept_mk

theorem State.sendDirty_kept {s : State} {l : Line} {route : Nat} {c : Nat} (hs : s.kept pq pr) :
    (State.sendDirty s l route c).kept pq pr := by
  unfold State.sendDirty
  repeat' first
    | with_reducible assumption
    | with_reducible apply kept_ite
    | with_reducible apply State.overFills_kept
    | with_reducible apply State.sendFabric_kept

theorem State.touchCis_kept {s : State} {dev n hint : Nat} {f : Line → Line} (hs : s.kept pq pr) :
    ∀ t, s.touchCis dev n hint f = some t → t.kept pq pr := by
  intro t ht
  unfold State.touchCis at ht
  have hs := State.sweepCis_kept (k := cisKey dev n) hs
  try dsimp only at ht
  split at ht
  · cases ht
    exact State.countCisDemoted_kept (State.setCis_kept hs)
  · split at ht
    · cases ht
    · cases ht
      exact State.countCisDemoted_kept (State.setCis_kept hs)
    · cases ht
      exact State.sendDirty_kept (State.countCisDemoted_kept (State.setCis_kept (kept_ite (State.cisCount_kept hs) hs)))

theorem State.cisUndead_kept {s : State} {dev : Nat} {n : Nat} (hs : s.kept pq pr) :
    (State.cisUndead s dev n).kept pq pr := by
  unfold State.cisUndead
  repeat' first
    | with_reducible assumption
    | with_reducible apply kept_ite
    | with_reducible apply State.setCis_kept
    | with_reducible apply kept_mk

theorem State.cisStore_kept {s : State} {dev n route off hint : Nat} {d : List (Option Byte)} (hs : s.kept pq pr) :
    ∀ t, s.cisStore dev n route off hint d = some t → t.kept pq pr :=
  State.touchCis_kept (State.cisUndead_kept hs)

theorem State.writeBackLines_kept {s : State} {rs : Option (List (Nat × Nat × Nat))} {c : Nat}
    (hs : s.kept pq pr) : (s.writeBackLines rs c).1.kept pq pr := by
  unfold State.writeBackLines
  refine foldl_keeps (P := fun acc : State × List (Nat × Nat × Nat) => acc.1.kept pq pr) ?_ _ hs
  intro acc l h
  exact State.setCis_kept (State.sendDirty_kept h)

theorem State.writeBackCtx_kept {s : State} {c : Nat} (hs : s.kept pq pr) :
    (State.writeBackCtx s c).kept pq pr := by
  unfold State.writeBackCtx
  repeat' first
    | with_reducible assumption
    | with_reducible apply State.writeBackLines_kept

theorem State.cisInvalidate_kept {s : State} {dev : Nat} {n : Nat} (hs : s.kept pq pr) :
    (State.cisInvalidate s dev n).kept pq pr := by
  unfold State.cisInvalidate
  repeat' first
    | with_reducible assumption
    | with_reducible apply State.setCis_kept

theorem State.recordCisDead_kept {s : State} {dev : Nat} {n : Nat} (hs : s.kept pq pr) :
    (State.recordCisDead s dev n).kept pq pr := by
  unfold State.recordCisDead
  repeat' first
    | with_reducible assumption
    | with_reducible apply State.cisUndead_kept
    | with_reducible apply kept_foldl
    | with_reducible apply kept_mk
    | intro _

theorem State.cisDrop_kept {s : State} {dev : Nat} {n : Nat} (hs : s.kept pq pr) :
    (State.cisDrop s dev n).kept pq pr := by
  unfold State.cisDrop
  repeat' first
    | with_reducible assumption
    | with_reducible apply kept_ite
    | with_reducible apply State.cisCount_kept
    | with_reducible apply State.cisInvalidate_kept
    | with_reducible apply State.logEntry_kept
    | with_reducible apply State.recordCisDead_kept
    | split

theorem State.stopFills_kept {s : State} {dev : Nat} {n : Nat} (hs : s.kept pq pr) :
    (State.stopFills s dev n).kept pq pr := by
  unfold State.stopFills
  repeat' first
    | with_reducible assumption
    | with_reducible apply kept_mk

theorem State.flushLine_kept {s : State} {dev : Nat} {n : Nat} {route : Nat} {c : Nat} (hs : s.kept pq pr) :
    (State.flushLine s dev n route c).kept pq pr := by
  unfold State.flushLine
  repeat' first
    | with_reducible assumption
    | with_reducible apply State.stopFills_kept
    | with_reducible apply State.cisUndead_kept
    | with_reducible apply State.cisInvalidate_kept
    | with_reducible apply State.sendDirty_kept
    | split
    | with_reducible apply kept_mk

theorem State.flushFirst_kept {s : State} {dev : Nat} {n : Nat} {route : Nat} {c : Nat} (hs : s.kept pq pr) :
    (State.flushFirst s dev n route c).kept pq pr := by
  unfold State.flushFirst
  repeat' first
    | with_reducible assumption
    | with_reducible apply State.flushLine_kept
    | with_reducible apply kept_foldl
    | intro _

theorem State.sendOps_kept {s : State} {tile : Nat} {uid : Nat} (hs : s.kept pq pr) :
    (State.sendOps s tile uid).kept pq pr := by
  unfold State.sendOps
  repeat' first
    | with_reducible assumption
    | with_reducible apply State.sendOp_kept
    | with_reducible apply kept_foldl

theorem State.revokeLines_kept {s : State} {devs : List Nat} (hs : s.kept pq pr) :
    (State.revokeLines s devs).kept pq pr := by
  unfold State.revokeLines
  repeat' first
    | with_reducible assumption
    | with_reducible apply State.logEntry_kept
    | with_reducible apply kept_foldl
    | with_reducible apply kept_mk
    | intro _

theorem State.acquireLines_kept {s : State} {rs : Option (List (Nat × Nat × Nat))} (hs : s.kept pq pr) :
    (State.acquireLines s rs).kept pq pr := by
  unfold State.acquireLines
  repeat' first
    | with_reducible assumption
    | with_reducible apply kept_mk

theorem State.pumpOut_kept {s : State} (hs : s.kept pq pr) : s.pumpOut.kept pq pr := by
  unfold State.pumpOut
  refine kept_foldl ?_ _ hs
  intro s r hs
  exact kept_ite (State.emit_kept (State.modFab_kept hs)) hs

theorem State.dropEpoch_kept {s : State} (hs : s.kept pq pr) :
    (State.dropEpoch s).kept pq pr := by
  unfold State.dropEpoch
  repeat' first
    | with_reducible assumption
    | with_reducible apply State.modTimed_kept
    | with_reducible apply State.modPower_kept

theorem State.tryRun_kept {s : State} (hs : s.kept pq pr) :
    (State.tryRun s).kept pq pr := by
  unfold State.tryRun
  repeat' first
    | with_reducible assumption
    | exact ⟨rfl, rfl⟩
    | with_reducible apply kept_ite
    | with_reducible apply State.modMod_kept
    | with_reducible apply kept_mk

theorem State.abortRegionOf_kept {s : State} {c : Nat} (hs : s.kept pq pr) :
    (State.abortRegionOf s c).kept pq pr := by
  unfold State.abortRegionOf
  repeat' first
    | with_reducible assumption
    | with_reducible apply kept_ite
    | with_reducible apply State.abortRegion_kept
    | split

theorem State.landStore_kept {s : State} {a : Access} (hs : s.kept pq pr) :
    (State.landStore s a).kept pq pr := by
  unfold State.landStore
  repeat' first
    | with_reducible assumption
    | with_reducible apply State.storeLine_kept
    | with_reducible refine State.cisStore_kept ?_
    | with_reducible apply kept_getD
    | split

theorem State.drainCtx_kept {s : State} {c : Nat} (hs : s.kept pq pr) :
    (State.drainCtx s c).kept pq pr := by
  unfold State.drainCtx
  repeat' first
    | with_reducible assumption
    | with_reducible apply State.landStore_kept
    | with_reducible apply kept_foldl
    | with_reducible apply kept_mk

theorem State.clearTiles_kept {s : State} {c : Nat} (hs : s.kept pq pr) :
    (State.clearTiles s c).kept pq pr := by
  unfold State.clearTiles
  repeat' first
    | with_reducible assumption
    | with_reducible apply kept_mk

theorem State.endWork_kept {s : State} {c : Nat} (hs : s.kept pq pr) :
    (State.endWork s c).kept pq pr := by
  unfold State.endWork
  repeat' first
    | with_reducible assumption
    | with_reducible apply State.abortRegionOf_kept
    | with_reducible apply State.drainCtx_kept
    | with_reducible apply State.clearTiles_kept
    | with_reducible apply kept_mk

theorem State.resetCtx_kept {s : State} {c : Nat} (hs : s.kept pq pr) :
    (State.resetCtx s c).kept pq pr := by
  unfold State.resetCtx
  repeat' first
    | with_reducible assumption
    | with_reducible apply State.endWork_kept
    | with_reducible apply State.dropWaits_kept
    | with_reducible apply State.poisonOwned_kept
    | with_reducible apply State.modCtx_kept

theorem State.releaseObjs_kept {s : State} {c : Nat} (hs : s.kept pq pr) :
    (State.releaseObjs s c).kept pq pr := by
  unfold State.releaseObjs
  repeat' first
    | with_reducible assumption
    | with_reducible apply kept_mk

theorem State.destroyCtx_kept {s : State} {c : Nat} (hs : s.kept pq pr) :
    (State.destroyCtx s c).kept pq pr := by
  unfold State.destroyCtx
  repeat' first
    | with_reducible assumption
    | with_reducible apply kept_ite
    | with_reducible apply State.endWork_kept
    | with_reducible apply State.dropWaits_kept
    | with_reducible apply State.poisonOwned_kept
    | with_reducible apply State.writeBackCtx_kept
    | with_reducible apply State.releaseObjs_kept
    | with_reducible apply State.setCtx_kept
    | with_reducible apply kept_mk

theorem State.setLevel_kept {s : State} {level : Nat} (hs : s.kept pq pr) :
    (State.setLevel s level).kept pq pr := by
  unfold State.setLevel
  repeat' first
    | with_reducible assumption
    | with_reducible apply State.modSec_kept

theorem State.railsOn_kept {s : State} (hs : s.kept pq pr) :
    (State.railsOn s).kept pq pr := by
  unfold State.railsOn
  repeat' first
    | with_reducible assumption
    | exact ⟨rfl, rfl⟩
    | with_reducible apply kept_ite
    | with_reducible apply State.modMod_kept

theorem State.stopCut_kept {s : State} (hs : s.kept pq pr) :
    (State.stopCut s).kept pq pr := by
  unfold State.stopCut
  repeat' first
    | with_reducible assumption
    | with_reducible apply State.takeFault_kept
    | with_reducible apply kept_foldl
    | intro _

theorem State.chainLow_kept {s : State} (hs : s.kept pq pr) :
    (State.chainLow s).kept pq pr := by
  unfold State.chainLow
  repeat' first
    | with_reducible assumption
    | exact ⟨rfl, rfl⟩
    | with_reducible apply State.modMod_kept

theorem State.clearKeep_kept {s : State} (hs : s.kept pq pr) :
    (State.clearKeep s).kept pq pr := by
  unfold State.clearKeep
  repeat' first
    | with_reducible assumption
    | with_reducible apply kept_mk

theorem State.computeReset_kept {s : State} (hs : s.kept pq pr) :
    (State.computeReset s).kept pq pr := by
  unfold State.computeReset
  repeat' first
    | with_reducible assumption
    | with_reducible apply State.abortRegion_kept
    | with_reducible apply State.stopCut_kept
    | with_reducible apply State.dropEpoch_kept
    | with_reducible apply State.chainLow_kept
    | with_reducible apply State.clearKeep_kept
    | with_reducible apply State.modPower_kept
    | with_reducible apply State.modHal_kept
    | with_reducible apply State.modGauge_kept
    | with_reducible apply State.modSync_kept
    | with_reducible apply State.modFab_kept
    | with_reducible apply kept_mk

theorem State.dropWork_kept {s : State} (hs : s.kept pq pr) :
    (State.dropWork s).kept pq pr := by
  unfold State.dropWork
  repeat' first
    | with_reducible assumption
    | with_reducible apply State.computeReset_kept
    | with_reducible apply kept_mk

theorem State.endSession_kept {s : State} (hs : s.kept pq pr) :
    (State.endSession s).kept pq pr := by
  unfold State.endSession
  repeat' first
    | with_reducible assumption
    | with_reducible apply kept_ite
    | with_reducible apply State.modSec_kept

theorem State.applyLayout_kept {s : State} (hs : s.kept pq pr) :
    (State.applyLayout s).kept pq pr := by
  unfold State.applyLayout
  repeat' first
    | with_reducible assumption
    | with_reducible apply kept_ite
    | with_reducible apply State.loseMemory_kept
    | with_reducible apply kept_mk

theorem State.applyStaged_kept {s : State} (hs : s.kept pq pr) :
    (State.applyStaged s).kept pq pr := by
  unfold State.applyStaged
  repeat' first
    | with_reducible assumption
    | with_reducible apply kept_ite
    | with_reducible apply State.applyLayout_kept
    | with_reducible apply kept_foldl
    | with_reducible apply kept_getD
    | split
    | with_reducible apply kept_mk

theorem State.deviceDefaults_kept {s : State} (hs : s.kept pq pr) :
    (State.deviceDefaults s).kept pq pr := by
  unfold State.deviceDefaults
  repeat' first
    | with_reducible assumption
    | with_reducible apply kept_mk

theorem State.deviceReset_kept {s : State} {busy : Bool} (hs : s.kept pq pr) :
    (State.deviceReset s busy).kept pq pr := by
  unfold State.deviceReset
  repeat' first
    | with_reducible assumption
    | exact ⟨rfl, rfl⟩
    | with_reducible apply State.dropCaches_kept
    | with_reducible apply State.dropWork_kept
    | with_reducible apply State.endSession_kept
    | with_reducible apply State.applyStaged_kept
    | with_reducible apply State.deviceDefaults_kept
    | with_reducible apply State.modHal_kept
    | with_reducible apply State.modMod_kept

theorem State.holdCompute_kept {s : State} (hs : s.kept pq pr) :
    (State.holdCompute s).kept pq pr := by
  unfold State.holdCompute
  repeat' first
    | with_reducible assumption
    | exact ⟨rfl, rfl⟩
    | with_reducible apply State.computeReset_kept
    | with_reducible apply State.modSec_kept
    | with_reducible apply State.modMod_kept

theorem State.changeLevel_kept {s : State} {level : Nat} (hs : s.kept pq pr) :
    (State.changeLevel s level).kept pq pr := by
  unfold State.changeLevel
  repeat' first
    | with_reducible assumption
    | with_reducible apply kept_ite
    | with_reducible apply State.gaugeAdd_kept
    | with_reducible apply State.modSec_kept
    | with_reducible apply State.setLevel_kept

theorem State.railsOff_kept {s : State} (hs : s.kept pq pr) :
    (State.railsOff s).kept pq pr := by
  unfold State.railsOff
  repeat' first
    | with_reducible assumption
    | exact ⟨rfl, rfl⟩
    | with_reducible apply State.deviceReset_kept
    | with_reducible apply State.loseMemory_kept
    | with_reducible apply State.modMod_kept
    | with_reducible apply kept_mk

theorem State.enterHold_kept {s : State} (hs : s.kept pq pr) :
    (State.enterHold s).kept pq pr := by
  unfold State.enterHold
  repeat' first
    | with_reducible assumption
    | exact ⟨rfl, rfl⟩
    | with_reducible apply State.abortRegion_kept
    | with_reducible apply State.dropEpoch_kept
    | with_reducible apply State.modMod_kept

theorem State.armAt_kept {s : State} (hs : s.kept pq pr) :
    (State.armAt s).kept pq pr := by
  unfold State.armAt
  repeat' first
    | with_reducible assumption
    | with_reducible apply kept_ite
    | with_reducible apply State.modGauge_kept
    | with_reducible apply State.emit_kept
    | with_reducible apply State.gaugeAdd_kept

theorem doGaugeTrigger_kept {s : State} (hs : s.kept pq pr) :
    (doGaugeTrigger s).kept pq pr := by
  unfold doGaugeTrigger
  repeat' first
    | with_reducible assumption
    | with_reducible apply State.gaugeRequest_kept

theorem State.exportSection_kept {s : State} {o : Obj} {off n : Nat} (hs : s.kept pq pr) :
    (s.exportSection o off n).kept pq pr := by
  unfold State.exportSection
  dsimp only
  split
  · exact hs
  · exact ⟨⟨Mem.lose_wf _ _ _ hs.1.1, hs.1.2⟩, hs.2⟩

theorem State.exportTo_kept {s : State} {r : Option GaugeRec} {o : Obj} {c : Nat} (hs : s.kept pq pr) :
    (State.exportTo s r o c).kept pq pr := by
  unfold State.exportTo
  repeat' first
    | with_reducible assumption
    | with_reducible apply kept_ite
    | with_reducible apply State.zeroRange_kept
    | with_reducible apply State.exportSection_kept
    | with_reducible apply State.forget_kept
    | with_reducible apply kept_foldl
    | split
    | intro _

theorem doGaugeExportGo_kept {fn : Nat} {s : State} (hs : s.kept pq pr) :
    (doGaugeExportGo fn s).kept pq pr := by
  unfold doGaugeExportGo
  repeat' first
    | with_reducible assumption
    | with_reducible apply kept_ite
    | with_reducible apply State.exportTo_kept
    | with_reducible apply State.modGauge_kept
    | split
    | with_reducible apply kept_mk

theorem execGaugeTrigger_kept {s : State} (hs : s.kept pq pr) :
    answersKept pq pr (execGaugeTrigger s) := by
  unfold execGaugeTrigger
  repeat' first
    | with_reducible assumption
    | with_reducible apply State.orDefer_kept
    | with_reducible apply doGaugeTrigger_kept

theorem State.writeGauge_kept {s : State} {mask : Nat} {at_ : Word64} {late : Bool} {imm : Bool} (hs : s.kept pq pr) :
    (State.writeGauge s mask at_ late imm).kept pq pr := by
  unfold State.writeGauge
  repeat' first
    | with_reducible assumption
    | with_reducible apply kept_ite
    | with_reducible apply State.modGauge_kept

theorem State.afterLatch_kept {s : State} {hold : Bool} (hs : s.kept pq pr) :
    (State.afterLatch s hold).kept pq pr := by
  unfold State.afterLatch
  repeat' first
    | with_reducible assumption
    | with_reducible apply kept_ite
    | with_reducible apply State.modSec_kept
    | with_reducible apply State.setLevel_kept
    | with_reducible apply State.enterHold_kept
    | with_reducible apply State.stopAll_kept
    | with_reducible apply State.raiseAlert_kept
    | split

theorem State.gaugeNow_kept {s : State} (hs : s.kept pq pr) :
    (State.gaugeNow s).kept pq pr := by
  unfold State.gaugeNow
  repeat' first
    | with_reducible assumption
    | with_reducible apply State.writeGauge_kept

theorem State.latch_kept {s : State} {p : PendingGauge} (hs : s.kept pq pr) :
    (State.latch s p).kept pq pr := by
  unfold State.latch
  repeat' first
    | with_reducible assumption
    | with_reducible apply State.modGauge_kept
    | with_reducible apply State.afterLatch_kept
    | with_reducible apply State.writeGauge_kept

theorem execGaugeBroadcastReceipt_kept {tick : Word64} {s : State} (hs : s.kept pq pr) :
    answersKept pq pr (execGaugeBroadcastReceipt tick s) := by
  unfold execGaugeBroadcastReceipt
  repeat' first
    | with_reducible assumption
    | with_reducible apply keeps_next
    | with_reducible apply keeps_ite
    | with_reducible apply kept_ite
    | with_reducible apply State.emit_kept
    | with_reducible apply State.gaugeAdd_kept

theorem execGaugeNFallingEdge_kept {widthNs : Nat} {sinceNs : Nat} {s : State} (hs : s.kept pq pr) :
    answersKept pq pr (execGaugeNFallingEdge widthNs sinceNs s) := by
  unfold execGaugeNFallingEdge
  repeat' first
    | with_reducible assumption
    | with_reducible apply keeps_next
    | with_reducible apply keeps_ite
    | with_reducible apply State.gaugeRequest_kept
    | with_reducible apply State.drawn_kept

theorem execGaugeLatch_kept {s : State} (hs : s.kept pq pr) : answersKept pq pr (execGaugeLatch s) := by
  unfold execGaugeLatch
  split
  · exact keeps_next hs
  · dsimp only
    refine keeps_ite ?_ ?_
    · exact keeps_next (State.abortRegion_kept (State.logEntry_kept (State.modGauge_kept hs)))
    · exact keeps_next (State.latch_kept (kept_ite (State.passTicks_kept _ hs) hs))

theorem execGaugeExportGo_kept {fn : Nat} {s : State} (hs : s.kept pq pr) :
    answersKept pq pr (execGaugeExportGo fn s) := by
  unfold execGaugeExportGo
  repeat' first
    | with_reducible assumption
    | with_reducible apply State.orDefer_kept
    | with_reducible apply doGaugeExportGo_kept

theorem State.setSluice_kept {s : State} {i : SluiceId} {x : Sluice} (hs : s.kept pq pr) :
    (State.setSluice s i x).kept pq pr := by
  unfold State.setSluice
  repeat' first
    | with_reducible assumption
    | split
    | with_reducible apply kept_mk

theorem State.put_kept {s : State} {i : SluiceId} {timed : Bool} {what : Payload} (hs : s.kept pq pr) :
    (State.put s i timed what).kept pq pr := by
  unfold State.put
  repeat' first
    | with_reducible assumption
    | with_reducible apply State.setSluice_kept

theorem State.credit_kept {s : State} {i : SluiceId} (hs : s.kept pq pr) :
    (State.credit s i).kept pq pr := by
  unfold State.credit
  repeat' first
    | with_reducible assumption
    | with_reducible apply State.put_kept
    | with_reducible apply State.setSluice_kept
    | with_reducible apply kept_foldl
    | split
    | with_reducible apply kept_mk
    | dsimp only
    | intro _

theorem State.sendUntimed_kept {s : State} {i : SluiceId} {what : Payload} (hs : s.kept pq pr) :
    (State.sendUntimed s i what).kept pq pr := by
  unfold State.sendUntimed
  repeat' first
    | with_reducible assumption
    | with_reducible apply kept_ite
    | with_reducible apply State.credit_kept
    | with_reducible apply State.put_kept
    | with_reducible apply State.setSluice_kept

theorem State.yieldSlots_kept {s : State} {i : SluiceId} (hs : s.kept pq pr) :
    (State.yieldSlots s i).kept pq pr := by
  unfold State.yieldSlots
  repeat' first
    | with_reducible assumption
    | with_reducible apply kept_mk

theorem State.sendTimed_kept {s : State} {i : SluiceId} {what : Payload} (hs : s.kept pq pr) :
    (State.sendTimed s i what).kept pq pr := by
  unfold State.sendTimed
  repeat' first
    | with_reducible assumption
    | with_reducible apply State.put_kept
    | with_reducible apply State.yieldSlots_kept

theorem State.takeItem_kept {s : State} {i : SluiceId} {it : Item} (hs : s.kept pq pr) :
    (State.takeItem s i it).kept pq pr := by
  unfold State.takeItem
  repeat' first
    | with_reducible assumption
    | with_reducible apply State.setSluice_kept

theorem State.arrive_kept {s : State} {id : Nat} (hs : s.kept pq pr) :
    ∀ t, s.arrive id = some t → t.kept pq pr := by
  intro t ht
  unfold State.arrive at ht
  split at ht
  · cases ht
    exact hs
  · next i hi =>
    dsimp only at ht
    have hk := fun f : List Item =>
      kept_foldl (f := fun s it => State.takeItem s i it) (fun _ _ h => State.takeItem_kept h) f (State.credit_kept (i := i) hs)
    split at ht
    · split at ht
      · cases ht
        exact State.takeItem_kept (State.passWet_kept (hk _))
      · cases ht
    · cases ht

theorem State.clearBoundary_kept {s : State} {g : ResetGroup} (hs : s.kept pq pr) :
    (State.clearBoundary s g).kept pq pr := by
  unfold State.clearBoundary
  repeat' first
    | with_reducible assumption
    | with_reducible apply kept_mk

theorem State.resetTile_kept {s : State} {t : Nat} (hs : s.kept pq pr) :
    (State.resetTile s t).kept pq pr := by
  unfold State.resetTile
  repeat' first
    | with_reducible assumption
    | with_reducible apply State.setTile_kept
    | with_reducible apply State.clearBoundary_kept

end Sys2Proof.Machine
end

