-- ==== Sys2Proof/Laws/KeepsBoard.lean ====
section
/-! SUPPORT. What every command keeps (State.kept): power, security, repair. One lemma per definition that answers with a state. -/

namespace Sys2Proof.Machine

theorem State.record_kept {s : State} {u : Nat × Nat × Nat × Nat × Nat} (hs : s.kept pq pr) :
    (State.record s u).kept pq pr := by
  unfold State.record
  repeat' first
    | with_reducible assumption
    | with_reducible apply kept_mk

theorem State.reachReady_kept {s : State} (hs : s.kept pq pr) :
    (State.reachReady s).kept pq pr := by
  unfold State.reachReady
  repeat' first
    | with_reducible assumption
    | exact ⟨rfl, rfl⟩
    | with_reducible apply kept_ite
    | with_reducible apply State.modMod_kept
    | with_reducible apply State.modHal_kept
    | with_reducible apply State.tryRun_kept

theorem doComputeEnableSet_kept {s : State} (hs : s.kept pq pr) :
    (doComputeEnableSet s).kept pq pr := by
  unfold doComputeEnableSet
  repeat' first
    | with_reducible assumption
    | with_reducible apply State.tryRun_kept
    | with_reducible apply State.modSec_kept

theorem execComputeEnableSet_kept {s : State} (hs : s.kept pq pr) :
    answersKept pq pr (execComputeEnableSet s) := by
  unfold execComputeEnableSet
  repeat' first
    | with_reducible assumption
    | with_reducible apply State.orDefer_kept
    | with_reducible apply doComputeEnableSet_kept

theorem State.bootRom_kept {s : State} (hs : s.kept pq pr) :
    (State.bootRom s).kept pq pr := by
  unfold State.bootRom
  repeat' first
    | with_reducible assumption
    | with_reducible apply kept_ite
    | with_reducible apply State.modSec_kept
    | with_reducible apply State.modHal_kept
    | with_reducible apply State.modFab_kept
    | with_reducible apply State.raiseAlert_kept
    | with_reducible apply kept_foldl
    | with_reducible apply kept_getD
    | split
    | with_reducible apply kept_mk

theorem State.powerUp_kept {s : State} (hs : s.kept pq pr) : s.powerUp.kept pq pr := by
  unfold State.powerUp
  exact State.railsOn_kept (State.bootRom_kept (State.loseMemory_kept ⟨⟨rfl, hs.1.2⟩, hs.2⟩))

theorem execHotInsertion_kept {pwrEn : Bool} {s : State} (hs : s.kept pq pr) :
    answersKept pq pr (execHotInsertion pwrEn s) := by
  unfold execHotInsertion
  repeat' first
    | with_reducible assumption
    | exact ⟨rfl, rfl⟩
    | with_reducible apply keeps_next
    | with_reducible apply keeps_ite
    | with_reducible apply State.powerUp_kept
    | with_reducible apply State.modMod_kept

theorem execJtagInstruction_kept {op : JtagOp} {s : State} (hs : s.kept pq pr) :
    answersKept pq pr (execJtagInstruction op s) := by
  unfold execJtagInstruction
  repeat' first
    | with_reducible assumption
    | exact ⟨rfl, rfl⟩
    | with_reducible apply keeps_next
    | with_reducible apply keeps_ite
    | with_reducible apply State.emit_kept
    | with_reducible apply State.modMod_kept
    | split

theorem doDeviceReset_kept {s : State} (hs : s.kept pq pr) :
    (doDeviceReset s).kept pq pr := by
  unfold doDeviceReset
  repeat' first
    | with_reducible assumption
    | with_reducible apply kept_ite
    | with_reducible apply State.deviceReset_kept

theorem doComputeEnableClear_kept {s : State} (hs : s.kept pq pr) :
    (doComputeEnableClear s).kept pq pr := by
  unfold doComputeEnableClear
  repeat' first
    | with_reducible assumption
    | with_reducible apply kept_ite
    | with_reducible apply State.modSec_kept
    | with_reducible apply State.holdCompute_kept

theorem State.writeBank_kept {s : State} {marker : Bool} (hs : s.kept pq pr) :
    (State.writeBank s marker).kept pq pr := by
  unfold State.writeBank
  repeat' first
    | with_reducible assumption
    | exact ⟨rfl, rfl⟩
    | with_reducible apply State.modMod_kept
    | with_reducible apply State.modHal_kept
    | split
    | with_reducible apply kept_mk

theorem execPowerInputApplied_kept {s : State} (hs : s.kept pq pr) :
    answersKept pq pr (execPowerInputApplied s) := by
  unfold execPowerInputApplied
  repeat' first
    | with_reducible assumption
    | exact ⟨rfl, rfl⟩
    | with_reducible apply keeps_next
    | with_reducible apply keeps_ite
    | with_reducible apply State.modMod_kept
    | with_reducible apply State.powerUp_kept
    | with_reducible apply State.railsOn_kept

theorem execPwrEnLow_kept {s : State} (hs : s.kept pq pr) :
    answersKept pq pr (execPwrEnLow s) := by
  unfold execPwrEnLow
  repeat' first
    | with_reducible assumption
    | exact ⟨rfl, rfl⟩
    | with_reducible apply keeps_next
    | with_reducible apply kept_ite
    | with_reducible apply State.modMod_kept
    | with_reducible apply State.railsOff_kept

theorem State.unlock_kept {s : State} {args : List Nat} (hs : s.kept pq pr) :
    (State.unlock s args).kept pq pr := by
  unfold State.unlock
  repeat' first
    | with_reducible assumption
    | with_reducible apply State.gaugeNow_kept
    | with_reducible apply State.raiseAlert_kept
    | with_reducible apply State.logEntry_kept
    | with_reducible apply State.holdCompute_kept
    | with_reducible apply State.stopAll_kept

theorem execTickrefLost_kept {s : State} (hs : s.kept pq pr) :
    answersKept pq pr (execTickrefLost s) := by
  unfold execTickrefLost
  repeat' first
    | with_reducible assumption
    | exact ⟨rfl, rfl⟩
    | with_reducible apply keeps_next
    | with_reducible apply kept_ite
    | with_reducible apply State.modMod_kept
    | with_reducible apply State.unlock_kept

theorem execPerstNAssert_kept {short : Bool} {s : State} (hs : s.kept pq pr) :
    answersKept pq pr (execPerstNAssert short s) := by
  unfold execPerstNAssert
  repeat' first
    | with_reducible assumption
    | exact ⟨rfl, rfl⟩
    | with_reducible apply keeps_next
    | with_reducible apply keeps_ite
    | with_reducible apply State.modMod_kept
    | with_reducible apply State.deviceReset_kept
    | with_reducible apply State.drawn_kept

theorem execInternalBusBelowMinimum_kept {s : State} (hs : s.kept pq pr) :
    answersKept pq pr (execInternalBusBelowMinimum s) := by
  unfold execInternalBusBelowMinimum
  repeat' first
    | with_reducible assumption
    | exact ⟨rfl, rfl⟩
    | with_reducible apply keeps_next
    | with_reducible apply keeps_ite
    | with_reducible apply State.modMod_kept
    | with_reducible apply State.railsOff_kept

theorem execInServiceBankWrite_kept {s : State} (hs : s.kept pq pr) :
    answersKept pq pr (execInServiceBankWrite s) := by
  unfold execInServiceBankWrite
  repeat' first
    | with_reducible assumption
    | with_reducible apply keeps_next
    | with_reducible apply keeps_ite
    | with_reducible apply State.writeBank_kept
    | with_reducible apply State.modSec_kept

theorem execTickrefReturn_kept {s : State} (hs : s.kept pq pr) :
    answersKept pq pr (execTickrefReturn s) := by
  unfold execTickrefReturn
  repeat' first
    | with_reducible assumption
    | exact ⟨rfl, rfl⟩
    | with_reducible apply keeps_next
    | with_reducible apply State.tryRun_kept
    | with_reducible apply State.modMod_kept

theorem execDroopTrip_kept {die : Nat} {monitor : Nat} {s : State} (hs : s.kept pq pr) :
    answersKept pq pr (execDroopTrip die monitor s) := by
  unfold execDroopTrip
  repeat' first
    | with_reducible assumption
    | with_reducible apply keeps_next
    | with_reducible apply keeps_ite
    | with_reducible apply kept_ite
    | with_reducible apply State.raiseAlert_kept
    | with_reducible apply State.logEntry_kept
    | with_reducible apply State.record_kept
    | with_reducible apply State.deviceReset_kept

theorem execPwrEnHigh_kept {s : State} (hs : s.kept pq pr) :
    answersKept pq pr (execPwrEnHigh s) := by
  unfold execPwrEnHigh
  repeat' first
    | with_reducible assumption
    | exact ⟨rfl, rfl⟩
    | with_reducible apply keeps_next
    | with_reducible apply State.railsOn_kept
    | with_reducible apply State.modMod_kept

theorem execPerstNDeassert_kept {s : State} (hs : s.kept pq pr) :
    answersKept pq pr (execPerstNDeassert s) := by
  unfold execPerstNDeassert
  repeat' first
    | with_reducible assumption
    | exact ⟨rfl, rfl⟩
    | with_reducible apply keeps_next
    | with_reducible apply State.modMod_kept

theorem execStandbyBelowMinimum_kept {s : State} (hs : s.kept pq pr) :
    answersKept pq pr (execStandbyBelowMinimum s) := by
  unfold execStandbyBelowMinimum
  repeat' first
    | with_reducible assumption
    | exact ⟨rfl, rfl⟩
    | with_reducible apply keeps_next
    | with_reducible apply kept_ite
    | with_reducible apply State.railsOff_kept
    | with_reducible apply State.modMod_kept

theorem execAnalogComparatorTrip_kept {_die : Nat} {s : State} (hs : s.kept pq pr) :
    answersKept pq pr (execAnalogComparatorTrip _die s) := by
  unfold execAnalogComparatorTrip
  repeat' first
    | with_reducible assumption
    | exact ⟨rfl, rfl⟩
    | with_reducible apply keeps_next
    | with_reducible apply keeps_ite
    | with_reducible apply State.modMod_kept
    | with_reducible apply State.railsOff_kept

theorem execIslandUnlocked_kept {island : Nat} {s : State} (hs : s.kept pq pr) :
    answersKept pq pr (execIslandUnlocked island s) := by
  unfold execIslandUnlocked
  repeat' first
    | with_reducible assumption
    | with_reducible apply keeps_next
    | with_reducible apply keeps_ite
    | with_reducible apply State.tryRun_kept
    | with_reducible apply State.unlock_kept

theorem execTapReset_kept {s : State} (hs : s.kept pq pr) :
    answersKept pq pr (execTapReset s) := by
  unfold execTapReset
  repeat' first
    | with_reducible assumption
    | exact ⟨rfl, rfl⟩
    | with_reducible apply keeps_next
    | with_reducible apply State.modMod_kept

theorem execDroopReport_kept {die : Nat} {monitor : Nat} {s : State} (hs : s.kept pq pr) :
    answersKept pq pr (execDroopReport die monitor s) := by
  unfold execDroopReport
  repeat' first
    | with_reducible assumption
    | with_reducible apply keeps_next
    | with_reducible apply keeps_ite
    | with_reducible apply State.logEntry_kept
    | with_reducible apply State.modPower_kept

theorem execReadyReached_kept {s : State} (hs : s.kept pq pr) :
    answersKept pq pr (execReadyReached s) := by
  unfold execReadyReached
  repeat' first
    | with_reducible assumption
    | with_reducible apply keeps_next
    | with_reducible apply State.reachReady_kept

theorem execComputeEnableClear_kept {s : State} (hs : s.kept pq pr) :
    answersKept pq pr (execComputeEnableClear s) := by
  unfold execComputeEnableClear
  repeat' first
    | with_reducible assumption
    | with_reducible apply State.orDefer_kept
    | with_reducible apply doComputeEnableClear_kept

theorem execDeviceReset_kept {s : State} (hs : s.kept pq pr) :
    answersKept pq pr (execDeviceReset s) := by
  unfold execDeviceReset
  repeat' first
    | with_reducible assumption
    | with_reducible apply keeps_next
    | with_reducible apply doDeviceReset_kept

theorem State.raiseFloor_kept {s : State} {i : FwImage} (hs : s.kept pq pr) :
    (State.raiseFloor s i).kept pq pr := by
  unfold State.raiseFloor
  repeat' first
    | with_reducible assumption
    | with_reducible apply kept_ite
    | with_reducible apply State.record_kept

theorem State.runImage_kept {s : State} {i : FwImage} (hs : s.kept pq pr) :
    (State.runImage s i).kept pq pr := by
  unfold State.runImage
  repeat' first
    | with_reducible assumption
    | with_reducible apply State.raiseFloor_kept
    | with_reducible apply State.modSec_kept

theorem execImageVerificationDone_kept {s : State} (hs : s.kept pq pr) :
    answersKept pq pr (execImageVerificationDone s) := by
  unfold execImageVerificationDone
  repeat' first
    | with_reducible assumption
    | with_reducible apply keeps_next
    | with_reducible apply keeps_ite
    | with_reducible apply State.modSec_kept
    | with_reducible apply State.modHal_kept
    | with_reducible apply State.runImage_kept
    | split

theorem State.drawn4_kept {s : State} (hs : s.kept pq pr) :
    (State.drawn4 s).kept pq pr := by
  unfold State.drawn4
  repeat' first
    | with_reducible assumption
    | with_reducible apply kept_mk

theorem doFwCtlAbort_kept {s : State} (hs : s.kept pq pr) :
    (doFwCtlAbort s).kept pq pr := by
  unfold doFwCtlAbort
  repeat' first
    | with_reducible assumption
    | with_reducible apply State.modSec_kept

theorem execFwCtlAbort_kept {s : State} (hs : s.kept pq pr) :
    answersKept pq pr (execFwCtlAbort s) := by
  unfold execFwCtlAbort
  repeat' first
    | with_reducible assumption
    | with_reducible apply State.orDefer_kept
    | with_reducible apply doFwCtlAbort_kept

theorem execHeartbeat_kept {session : Nat} {s : State} (hs : s.kept pq pr) :
    answersKept pq pr (execHeartbeat session s) := by
  unfold execHeartbeat
  repeat' first
    | with_reducible assumption
    | with_reducible apply keeps_next
    | with_reducible apply State.emit_kept

theorem State.toLevel_kept {s : State} {level : Nat} (hs : s.kept pq pr) :
    (State.toLevel s level).kept pq pr := by
  unfold State.toLevel
  repeat' first
    | with_reducible assumption
    | with_reducible apply kept_ite
    | with_reducible apply State.changeLevel_kept

theorem doLevelReq_kept {level : Nat} {s : State} (hs : s.kept pq pr) :
    (doLevelReq level s).kept pq pr := by
  unfold doLevelReq
  repeat' first
    | with_reducible assumption
    | with_reducible apply kept_ite
    | with_reducible apply State.modSec_kept
    | with_reducible apply State.toLevel_kept

theorem doEndDebug_kept {s : State} (hs : s.kept pq pr) :
    (doEndDebug s).kept pq pr := by
  unfold doEndDebug
  repeat' first
    | with_reducible assumption
    | with_reducible apply kept_ite
    | with_reducible apply State.toLevel_kept
    | with_reducible apply State.modSec_kept

theorem State.loadImage_kept {s : State} {i : FwImage} (hs : s.kept pq pr) :
    (State.loadImage s i).kept pq pr := by
  unfold State.loadImage
  repeat' first
    | with_reducible assumption
    | with_reducible apply kept_ite
    | with_reducible apply State.modSec_kept
    | split
    | with_reducible apply kept_mk

theorem doFwCtlGo_kept {img : FwImage} {s : State} (hs : s.kept pq pr) :
    (doFwCtlGo img s).kept pq pr := by
  unfold doFwCtlGo
  repeat' first
    | with_reducible assumption
    | with_reducible apply State.loadImage_kept

theorem execFirmwareReload_kept {img : FwImage} {s : State} (hs : s.kept pq pr) :
    answersKept pq pr (execFirmwareReload img s) := by
  unfold execFirmwareReload
  repeat' first
    | with_reducible assumption
    | with_reducible apply keeps_next
    | with_reducible apply keeps_ite
    | with_reducible apply State.modSec_kept
    | with_reducible apply State.modHal_kept

theorem doPldmFirmwareUpdate_kept {img : FwImage} {s : State} (hs : s.kept pq pr) :
    (doPldmFirmwareUpdate img s).kept pq pr := by
  unfold doPldmFirmwareUpdate
  repeat' first
    | with_reducible assumption
    | with_reducible apply State.loadImage_kept

theorem execPldmFirmwareUpdate_kept {img : FwImage} {s : State} (hs : s.kept pq pr) :
    answersKept pq pr (execPldmFirmwareUpdate img s) := by
  unfold execPldmFirmwareUpdate
  repeat' first
    | with_reducible assumption
    | with_reducible apply State.orDefer_kept
    | with_reducible apply doPldmFirmwareUpdate_kept

theorem execNonceRequest_kept {session : Nat} {s : State} (hs : s.kept pq pr) :
    answersKept pq pr (execNonceRequest session s) := by
  unfold execNonceRequest
  repeat' first
    | with_reducible assumption
    | with_reducible apply keeps_next
    | with_reducible apply keeps_ite
    | with_reducible apply State.emit_kept
    | with_reducible apply State.modSec_kept
    | with_reducible apply State.drawn4_kept

theorem execGetCertificate_kept {slot : Nat} {s : State} (hs : s.kept pq pr) :
    answersKept pq pr (execGetCertificate slot s) := by
  unfold execGetCertificate
  repeat' first
    | with_reducible assumption
    | with_reducible apply keeps_next
    | with_reducible apply keeps_ite
    | with_reducible apply State.emit_kept

theorem State.zeroAll_kept {s : State} (hs : s.kept pq pr) :
    (State.zeroAll s).kept pq pr := by
  unfold State.zeroAll
  repeat' first
    | with_reducible assumption
    | with_reducible apply kept_ite
    | with_reducible apply State.zeroRange_kept
    | with_reducible apply kept_foldl
    | with_reducible apply kept_getD
    | split
    | with_reducible apply kept_mk

theorem execFwCtlGo_kept {img : FwImage} {s : State} (hs : s.kept pq pr) :
    answersKept pq pr (execFwCtlGo img s) := by
  unfold execFwCtlGo
  repeat' first
    | with_reducible assumption
    | with_reducible apply State.orDefer_kept
    | with_reducible apply doFwCtlGo_kept

theorem execLevelReq_kept {level : Nat} {s : State} (hs : s.kept pq pr) :
    answersKept pq pr (execLevelReq level s) := by
  unfold execLevelReq
  repeat' first
    | with_reducible assumption
    | with_reducible apply State.orDefer_kept
    | with_reducible apply doLevelReq_kept

theorem execEndDebug_kept {s : State} (hs : s.kept pq pr) :
    answersKept pq pr (execEndDebug s) := by
  unfold execEndDebug
  repeat' first
    | with_reducible assumption
    | with_reducible apply State.orDefer_kept
    | with_reducible apply doEndDebug_kept

theorem execDebugSessionExpiry_kept {s : State} (hs : s.kept pq pr) :
    answersKept pq pr (execDebugSessionExpiry s) := by
  unfold execDebugSessionExpiry
  repeat' first
    | with_reducible assumption
    | with_reducible apply keeps_next
    | with_reducible apply kept_ite
    | with_reducible apply doEndDebug_kept

theorem execNonceExpiry_kept {s : State} (hs : s.kept pq pr) :
    answersKept pq pr (execNonceExpiry s) := by
  unfold execNonceExpiry
  repeat' first
    | with_reducible assumption
    | with_reducible apply keeps_next
    | with_reducible apply kept_ite
    | with_reducible apply State.modSec_kept

theorem State.refuseToken_kept {s : State} (hs : s.kept pq pr) :
    (State.refuseToken s).kept pq pr := by
  unfold State.refuseToken
  repeat' first
    | with_reducible assumption
    | with_reducible apply State.modSec_kept

theorem execDebugToken_kept {session : Nat} {tok : Token} {s : State} (hs : s.kept pq pr) :
    answersKept pq pr (execDebugToken session tok s) := by
  unfold execDebugToken
  repeat' first
    | with_reducible assumption
    | with_reducible apply keeps_next
    | with_reducible apply keeps_ite
    | with_reducible apply State.emit_kept
    | with_reducible apply State.modSec_kept
    | with_reducible apply State.drawn_kept
    | with_reducible apply State.toLevel_kept
    | with_reducible apply State.refuseToken_kept

theorem execRetireToken_kept {session : Nat} {tok : Token} {s : State} (hs : s.kept pq pr) :
    answersKept pq pr (execRetireToken session tok s) := by
  unfold execRetireToken
  repeat' first
    | with_reducible assumption
    | exact ⟨rfl, rfl⟩
    | with_reducible apply keeps_next
    | with_reducible apply keeps_ite
    | with_reducible apply State.emit_kept
    | with_reducible apply State.zeroAll_kept
    | with_reducible apply State.modSec_kept
    | with_reducible apply State.writeBank_kept
    | with_reducible apply State.modMod_kept
    | with_reducible apply State.refuseToken_kept

theorem execChallenge_kept {slot : Nat} {nonce : BitVec 256} {s : State} (hs : s.kept pq pr) :
    answersKept pq pr (execChallenge slot nonce s) := by
  unfold execChallenge
  repeat' first
    | with_reducible assumption
    | with_reducible apply keeps_next
    | with_reducible apply keeps_ite
    | with_reducible apply State.emit_kept

theorem execGetMeasurements_kept {index : Nat} {sign : Bool} {nonce : BitVec 256} {s : State} (hs : s.kept pq pr) :
    answersKept pq pr (execGetMeasurements index sign nonce s) := by
  unfold execGetMeasurements
  repeat' first
    | with_reducible assumption
    | with_reducible apply keeps_next
    | with_reducible apply State.emit_kept
    | split

theorem execKeyExchange_kept {s : State} (hs : s.kept pq pr) :
    answersKept pq pr (execKeyExchange s) := by
  unfold execKeyExchange
  repeat' first
    | with_reducible assumption
    | with_reducible apply keeps_next
    | with_reducible apply keeps_ite
    | with_reducible apply State.emit_kept
    | with_reducible apply State.modSec_kept
    | with_reducible apply State.fresh_kept

theorem execSpdmAlgorithmNegotiation_kept {offersExtended : Bool} {s : State} (hs : s.kept pq pr) :
    answersKept pq pr (execSpdmAlgorithmNegotiation offersExtended s) := by
  unfold execSpdmAlgorithmNegotiation
  repeat' first
    | with_reducible assumption
    | with_reducible apply keeps_next
    | with_reducible apply State.modSec_kept
    | with_reducible apply State.emit_kept

theorem State.learnPhases_kept {s : State} {r : Region} (hs : s.kept pq pr) :
    (State.learnPhases s r).kept pq pr := by
  unfold State.learnPhases
  repeat' first
    | with_reducible assumption
    | with_reducible apply kept_ite
    | with_reducible apply State.modPower_kept
    | with_reducible apply kept_mk

theorem doTrippedClear_kept {s : State} (hs : s.kept pq pr) :
    (doTrippedClear s).kept pq pr := by
  unfold doTrippedClear
  repeat' first
    | with_reducible assumption
    | with_reducible apply kept_ite
    | with_reducible apply State.tryRun_kept
    | with_reducible apply State.modPower_kept

theorem execTrippedClear_kept {s : State} (hs : s.kept pq pr) :
    answersKept pq pr (execTrippedClear s) := by
  unfold execTrippedClear
  repeat' first
    | with_reducible assumption
    | with_reducible apply State.orDefer_kept
    | with_reducible apply doTrippedClear_kept

theorem State.stepBoundary_kept {s : State} (hs : s.kept pq pr) :
    (State.stepBoundary s).kept pq pr := by
  unfold State.stepBoundary
  repeat' first
    | with_reducible assumption
    | with_reducible apply kept_ite
    | with_reducible apply State.modPower_kept

theorem State.agree_kept {s : State} {period : Nat} {ratio : Nat} (hs : s.kept pq pr) :
    (State.agree s period ratio).kept pq pr := by
  unfold State.agree
  repeat' first
    | with_reducible assumption
    | with_reducible apply State.modPower_kept
    | with_reducible apply State.modHal_kept

theorem execAgreementReceipt_kept {period : Nat} {ratio : Nat} {s : State} (hs : s.kept pq pr) :
    answersKept pq pr (execAgreementReceipt period ratio s) := by
  unfold execAgreementReceipt
  repeat' first
    | with_reducible assumption
    | with_reducible apply keeps_next
    | with_reducible apply keeps_ite
    | with_reducible apply kept_ite
    | with_reducible apply State.agree_kept
    | with_reducible apply State.emit_kept

theorem State.leaveAgreement_kept {s : State} (hs : s.kept pq pr) :
    (State.leaveAgreement s).kept pq pr := by
  unfold State.leaveAgreement
  repeat' first
    | with_reducible assumption
    | with_reducible apply State.dropEpoch_kept
    | with_reducible apply State.abortRegion_kept

theorem State.setOwnRatio_kept {s : State} {period : Nat} (hs : s.kept pq pr) :
    (State.setOwnRatio s period).kept pq pr := by
  unfold State.setOwnRatio
  repeat' first
    | with_reducible assumption
    | with_reducible apply State.modPower_kept
    | with_reducible apply State.modHal_kept

theorem execAgreementMissing_kept {s : State} (hs : s.kept pq pr) :
    answersKept pq pr (execAgreementMissing s) := by
  unfold execAgreementMissing
  repeat' first
    | with_reducible assumption
    | with_reducible apply keeps_next
    | with_reducible apply keeps_ite
    | with_reducible apply State.leaveAgreement_kept
    | with_reducible apply State.setOwnRatio_kept
    | with_reducible apply State.modPower_kept
    | with_reducible apply State.emit_kept

theorem doHostCapWrite_kept {watts : Nat} {s : State} (hs : s.kept pq pr) :
    (doHostCapWrite watts s).kept pq pr := by
  unfold doHostCapWrite
  repeat' first
    | with_reducible assumption
    | with_reducible apply kept_ite
    | with_reducible apply State.modPower_kept

theorem doPhyTrim_kept {rail : Nat} {up : Bool} {s : State} (hs : s.kept pq pr) :
    (doPhyTrim rail up s).kept pq pr := by
  unfold doPhyTrim
  repeat' first
    | with_reducible assumption
    | with_reducible apply kept_ite
    | with_reducible apply State.logEntry_kept
    | with_reducible apply State.modPower_kept

theorem execPhyTrim_kept {rail : Nat} {up : Bool} {s : State} (hs : s.kept pq pr) :
    answersKept pq pr (execPhyTrim rail up s) := by
  unfold execPhyTrim
  repeat' first
    | with_reducible assumption
    | with_reducible apply keeps_next
    | with_reducible apply doPhyTrim_kept

theorem State.launchPhases_kept {s : State} {n : Nat} (hs : s.kept pq pr) :
    (State.launchPhases s n).kept pq pr := by
  unfold State.launchPhases
  repeat' first
    | with_reducible assumption
    | with_reducible apply State.modPower_kept

theorem doMgmtCapEffecter_kept {watts : Nat} {s : State} (hs : s.kept pq pr) :
    (doMgmtCapEffecter watts s).kept pq pr := by
  unfold doMgmtCapEffecter
  repeat' first
    | with_reducible assumption
    | with_reducible apply kept_ite
    | with_reducible apply State.emit_kept
    | with_reducible apply State.modPower_kept

theorem execRequirementComputation_kept {s : State} (hs : s.kept pq pr) :
    answersKept pq pr (execRequirementComputation s) := by
  unfold execRequirementComputation
  repeat' first
    | with_reducible assumption
    | with_reducible apply keeps_next
    | with_reducible apply keeps_ite
    | with_reducible apply kept_ite
    | with_reducible apply State.modPower_kept
    | with_reducible apply State.emit_kept
    | with_reducible apply State.setOwnRatio_kept

theorem execCapStop_kept {s : State} (hs : s.kept pq pr) :
    answersKept pq pr (execCapStop s) := by
  unfold execCapStop
  repeat' first
    | with_reducible assumption
    | with_reducible apply keeps_next
    | with_reducible apply keeps_ite
    | with_reducible apply State.modPower_kept
    | with_reducible apply State.gaugeRequest_kept
    | with_reducible apply State.abortRegion_kept
    | with_reducible apply State.stopAll_kept

theorem execMgmtCapEffecter_kept {watts : Nat} {s : State} (hs : s.kept pq pr) :
    answersKept pq pr (execMgmtCapEffecter watts s) := by
  unfold execMgmtCapEffecter
  repeat' first
    | with_reducible assumption
    | with_reducible apply State.orDefer_kept
    | with_reducible apply doMgmtCapEffecter_kept

theorem execHostCapWrite_kept {watts : Nat} {s : State} (hs : s.kept pq pr) :
    answersKept pq pr (execHostCapWrite watts s) := by
  unfold execHostCapWrite
  repeat' first
    | with_reducible assumption
    | with_reducible apply State.orDefer_kept
    | with_reducible apply doHostCapWrite_kept

theorem State.markPhase_kept {s : State} {id : Nat} (hs : s.kept pq pr) :
    (State.markPhase s id).kept pq pr := by
  unfold State.markPhase
  repeat' first
    | with_reducible assumption
    | with_reducible apply kept_ite
    | with_reducible apply State.modTimed_kept
    | with_reducible apply State.modPower_kept
    | split

theorem State.capCheck_kept {s : State} (hs : s.kept pq pr) :
    (State.capCheck s).kept pq pr := by
  unfold State.capCheck
  repeat' first
    | with_reducible assumption
    | with_reducible apply kept_ite
    | with_reducible apply State.modPower_kept
    | with_reducible apply State.logEntry_kept
    | with_reducible apply State.raiseAlert_kept

theorem State.trip_kept {s : State} {i : Nat × Nat} (hs : s.kept pq pr) :
    (State.trip s i).kept pq pr := by
  unfold State.trip
  repeat' first
    | with_reducible assumption
    | with_reducible apply kept_ite
    | with_reducible apply State.modPower_kept
    | with_reducible apply State.leaveAgreement_kept
    | with_reducible apply State.gaugeNow_kept
    | with_reducible apply State.stopAll_kept
    | with_reducible apply State.holdCompute_kept
    | with_reducible apply State.logEntry_kept
    | with_reducible apply State.raiseAlert_kept

theorem execControlPeriodBoundary_kept {r : Readings} {s : State} (hs : s.kept pq pr) :
    answersKept pq pr (execControlPeriodBoundary r s) := by
  unfold execControlPeriodBoundary
  repeat' first
    | with_reducible assumption
    | with_reducible apply keeps_next
    | with_reducible apply keeps_ite
    | with_reducible apply kept_ite
    | with_reducible apply State.modPower_kept
    | with_reducible apply State.capCheck_kept
    | with_reducible apply State.raiseAlert_kept
    | with_reducible apply State.trip_kept
    | with_reducible apply kept_foldl
    | with_reducible apply kept_getD
    | split
    | with_reducible apply kept_mk
    | contradiction
    | dsimp only

theorem execWeirContribution_kept {child : Nat} {period : Nat} {ratio : Nat} {s : State} (hs : s.kept pq pr) :
    answersKept pq pr (execWeirContribution child period ratio s) := by
  unfold execWeirContribution
  repeat' first
    | with_reducible assumption
    | with_reducible apply keeps_next
    | with_reducible apply keeps_ite
    | with_reducible apply State.modPower_kept
    | with_reducible apply State.emit_kept

theorem execRootCombineDeadline_kept {s : State} (hs : s.kept pq pr) :
    answersKept pq pr (execRootCombineDeadline s) := by
  unfold execRootCombineDeadline
  repeat' first
    | with_reducible assumption
    | with_reducible apply keeps_next
    | with_reducible apply keeps_ite
    | with_reducible apply State.modPower_kept
    | with_reducible apply State.agree_kept
    | with_reducible apply State.emit_kept

theorem execCapPersistenceExpiry_kept {s : State} (hs : s.kept pq pr) :
    answersKept pq pr (execCapPersistenceExpiry s) := by
  unfold execCapPersistenceExpiry
  repeat' first
    | with_reducible assumption
    | with_reducible apply keeps_next
    | with_reducible apply keeps_ite
    | with_reducible apply State.modPower_kept

theorem State.modRepair_kept {s : State} {f : Repair → Repair} (hs : s.kept pq pr) :
    (State.modRepair s f).kept pq pr := by
  unfold State.modRepair
  repeat' first
    | with_reducible assumption
    | with_reducible apply kept_mk

theorem State.repaired_kept {s : State} {u : Nat × Nat × Nat × Nat × Nat} (hs : s.kept pq pr) :
    (State.repaired s u).kept pq pr := by
  unfold State.repaired
  repeat' first
    | with_reducible assumption
    | with_reducible apply State.logEntry_kept
    | with_reducible apply State.record_kept
    | with_reducible apply State.modRepair_kept

theorem execRowRepairSwitch_kept {channel : Nat} {die : Nat} {bank : Nat} {row : Nat} {s : State} (hs : s.kept pq pr) :
    answersKept pq pr (execRowRepairSwitch channel die bank row s) := by
  unfold execRowRepairSwitch
  repeat' first
    | with_reducible assumption
    | with_reducible apply keeps_next
    | with_reducible apply keeps_ite
    | with_reducible apply State.drawn_kept
    | with_reducible apply State.poisonCopied_kept
    | with_reducible apply State.modHal_kept
    | with_reducible apply State.repaired_kept
    | with_reducible apply State.modRepair_kept

theorem State.replaceChannel_kept {s : State} {ch : Nat} (hs : s.kept pq pr) :
    (State.replaceChannel s ch).kept pq pr := by
  unfold State.replaceChannel
  repeat' first
    | with_reducible assumption
    | with_reducible apply kept_ite
    | with_reducible apply State.modRepair_kept
    | with_reducible apply State.modHal_kept
    | with_reducible apply State.repaired_kept
    | with_reducible apply State.drawn_kept
    | with_reducible apply State.poisonCopied_kept
    | with_reducible apply State.logEntry_kept
    | with_reducible apply State.record_kept

theorem State.awaitChannel_kept {s : State} {ch : Nat} (hs : s.kept pq pr) :
    (State.awaitChannel s ch).kept pq pr := by
  unfold State.awaitChannel
  repeat' first
    | with_reducible assumption
    | with_reducible apply State.modRepair_kept

theorem doChannelReplacement_kept {ch : Nat} {s : State} (hs : s.kept pq pr) :
    (doChannelReplacement ch s).kept pq pr := by
  unfold doChannelReplacement
  repeat' first
    | with_reducible assumption
    | with_reducible apply kept_ite
    | with_reducible apply State.replaceChannel_kept
    | with_reducible apply State.awaitChannel_kept

theorem State.retireTile_kept {s : State} {t : Nat × Nat × Nat} (hs : s.kept pq pr) :
    (State.retireTile s t).kept pq pr := by
  unfold State.retireTile
  repeat' first
    | with_reducible assumption
    | with_reducible apply kept_ite
    | with_reducible apply State.modRepair_kept
    | with_reducible apply State.logEntry_kept
    | with_reducible apply State.repaired_kept
    | with_reducible apply State.resetTile_kept
    | with_reducible apply kept_foldl

theorem doRowRepair_kept {ch : Nat} {die : Nat} {bank : Nat} {row : Nat} {s : State} (hs : s.kept pq pr) :
    (doRowRepair ch die bank row s).kept pq pr := by
  unfold doRowRepair
  repeat' first
    | with_reducible assumption
    | with_reducible apply kept_ite
    | with_reducible apply State.modRepair_kept
    | with_reducible apply State.awaitChannel_kept

theorem doTsvShift_kept {ch : Nat} {signal : Nat} {s : State} (hs : s.kept pq pr) :
    (doTsvShift ch signal s).kept pq pr := by
  unfold doTsvShift
  repeat' first
    | with_reducible assumption
    | with_reducible apply kept_ite
    | with_reducible apply State.repaired_kept
    | with_reducible apply State.awaitChannel_kept

theorem State.predictLife_kept {s : State} (hs : s.kept pq pr) :
    (State.predictLife s).kept pq pr := by
  unfold State.predictLife
  repeat' first
    | with_reducible assumption
    | with_reducible apply kept_ite
    | with_reducible apply State.modHal_kept
    | with_reducible apply State.raiseAlert_kept

theorem execAgeingMeasurement_kept {slowdown : List Nat} {s : State} (hs : s.kept pq pr) :
    answersKept pq pr (execAgeingMeasurement slowdown s) := by
  unfold execAgeingMeasurement
  repeat' first
    | with_reducible assumption
    | with_reducible apply keeps_next
    | with_reducible apply keeps_ite
    | with_reducible apply kept_ite
    | with_reducible apply State.modHal_kept
    | with_reducible apply State.record_kept
    | with_reducible apply State.predictLife_kept

theorem execDiagnosticsRequest_kept {r : DiagResult} {s : State} (hs : s.kept pq pr) :
    answersKept pq pr (execDiagnosticsRequest r s) := by
  unfold execDiagnosticsRequest
  repeat' first
    | with_reducible assumption
    | with_reducible apply keeps_next
    | with_reducible apply keeps_ite
    | with_reducible apply kept_ite
    | with_reducible apply State.logEntry_kept
    | with_reducible apply State.record_kept
    | with_reducible apply State.modHal_kept
    | with_reducible apply State.modRepair_kept
    | split

theorem execRowRepair_kept {channel : Nat} {die : Nat} {bank : Nat} {row : Nat} {s : State} (hs : s.kept pq pr) :
    answersKept pq pr (execRowRepair channel die bank row s) := by
  unfold execRowRepair
  repeat' first
    | with_reducible assumption
    | with_reducible apply State.orDefer_kept
    | with_reducible apply doRowRepair_kept

theorem execTsvShift_kept {channel : Nat} {signal : Nat} {s : State} (hs : s.kept pq pr) :
    answersKept pq pr (execTsvShift channel signal s) := by
  unfold execTsvShift
  repeat' first
    | with_reducible assumption
    | with_reducible apply State.orDefer_kept
    | with_reducible apply doTsvShift_kept

theorem execChannelReplacement_kept {channel : Nat} {s : State} (hs : s.kept pq pr) :
    answersKept pq pr (execChannelReplacement channel s) := by
  unfold execChannelReplacement
  repeat' first
    | with_reducible assumption
    | with_reducible apply State.orDefer_kept
    | with_reducible apply doChannelReplacement_kept

theorem execEyeMonitorSample_kept {port : Nat} {lane : Nat} {sample : EyeSample} {s : State} (hs : s.kept pq pr) :
    answersKept pq pr (execEyeMonitorSample port lane sample s) := by
  unfold execEyeMonitorSample
  repeat' first
    | with_reducible assumption
    | with_reducible apply keeps_next
    | with_reducible apply keeps_ite
    | with_reducible apply kept_ite
    | with_reducible apply State.modHal_kept
    | with_reducible apply State.modPort_kept
    | with_reducible apply State.predictLife_kept
    | with_reducible apply State.logEntry_kept

end Sys2Proof.Machine
end

