-- ==== Sys2Proof/Laws/KeepsTile.lean ====
section
/-! SUPPORT. What every command keeps (State.kept): the tiles, the homes and synchronisation. One lemma per definition that answers with a state. -/

namespace Sys2Proof.Machine

theorem State.putGroup_kept {s : State} {tile : Nat} {slot : Nat} {g : Group} (hs : s.kept pq pr) :
    (State.putGroup s tile slot g).kept pq pr := by
  unfold State.putGroup
  repeat' first
    | with_reducible assumption
    | with_reducible apply State.modTile_kept

theorem State.issueFrom_kept {s : State} {tile : Nat} {slot : Nat} {due : Nat} (hs : s.kept pq pr) :
    (State.issueFrom s tile slot due).kept pq pr := by
  unfold State.issueFrom
  repeat' first
    | with_reducible assumption
    | with_reducible apply State.waitWet_kept
    | with_reducible apply State.modTile_kept

theorem State.issueIf_kept {s : State} {tile : Nat} {slot : Nat} {keys : List Nat} {ok : State → Group → Path → Bool} {f : State → Group → Path → State} (hs : s.kept pq pr) (hf : ∀ x0 x1 x2, x0.kept pq pr → (f x0 x1 x2).kept pq pr) :
    (State.issueIf s tile slot keys ok f).kept pq pr := by
  unfold State.issueIf
  repeat' first
    | with_reducible assumption
    | with_reducible apply kept_ite
    | with_reducible apply hf
    | with_reducible apply State.putGroup_kept
    | with_reducible apply State.issueFrom_kept
    | split

theorem State.preciseAt_kept {s : State} {tile : Nat} {slot : Nat} {g : Group} {p : Path} {code : Code} {detail : Nat} {address : Nat} (hs : s.kept pq pr) :
    (State.preciseAt s tile slot g p code detail address).kept pq pr := by
  unfold State.preciseAt
  repeat' first
    | with_reducible assumption
    | with_reducible apply State.takeFault_kept

theorem State.illegal_kept {s : State} {tile : Nat} {slot : Nat} {g : Group} {p : Path} (hs : s.kept pq pr) :
    (State.illegal s tile slot g p).kept pq pr := by
  unfold State.illegal
  repeat' first
    | with_reducible assumption
    | with_reducible apply State.preciseAt_kept

theorem State.noGroup_kept {s : State} {tile : Nat} {slot : Nat} (hs : s.kept pq pr) :
    (State.noGroup s tile slot).kept pq pr := by
  unfold State.noGroup
  repeat' first
    | with_reducible assumption
    | with_reducible apply State.modTile_kept

theorem State.modKernel_kept {s : State} {k : Nat} {f : Kernel → Kernel} (hs : s.kept pq pr) :
    (State.modKernel s k f).kept pq pr := by
  unfold State.modKernel
  repeat' first
    | with_reducible assumption
    | with_reducible apply kept_mk

theorem State.emptyRo_kept {s : State} {tile : Nat} (hs : s.kept pq pr) :
    (State.emptyRo s tile).kept pq pr := by
  unfold State.emptyRo
  repeat' first
    | with_reducible assumption
    | with_reducible apply State.modTile_kept

theorem State.endBlock_kept {s : State} {tile : Nat} {b : Block} (hs : s.kept pq pr) :
    (State.endBlock s tile b).kept pq pr := by
  unfold State.endBlock
  repeat' first
    | with_reducible assumption
    | with_reducible apply kept_ite
    | with_reducible apply State.modTile_kept
    | with_reducible apply State.modKernel_kept
    | with_reducible apply State.emptyRo_kept
    | with_reducible apply kept_foldl
    | split
    | with_reducible apply kept_mk

theorem State.endGroup_kept {s : State} {tile : Nat} {slot : Nat} {g : Group} (hs : s.kept pq pr) :
    (State.endGroup s tile slot g).kept pq pr := by
  unfold State.endGroup
  repeat' first
    | with_reducible assumption
    | with_reducible apply kept_ite
    | with_reducible apply State.modTile_kept
    | with_reducible apply State.noGroup_kept
    | with_reducible apply State.endBlock_kept
    | split
    | with_reducible apply kept_mk

theorem State.finish_kept {s : State} {tile : Nat} {slot : Nat} {g : Group} (hs : s.kept pq pr) :
    (State.finish s tile slot g).kept pq pr := by
  unfold State.finish
  repeat' first
    | with_reducible assumption
    | with_reducible apply kept_ite
    | with_reducible apply State.endGroup_kept
    | with_reducible apply State.putGroup_kept

theorem State.modGroup_kept {s : State} {tile : Nat} {uid : Nat} {f : Group → Group} (hs : s.kept pq pr) :
    (State.modGroup s tile uid f).kept pq pr := by
  unfold State.modGroup
  repeat' first
    | with_reducible assumption
    | with_reducible apply State.modTile_kept

theorem State.issue_kept {s : State} {tile : Nat} {slot : Nat} {keys : List Nat} {f : State → Group → Path → State} (hs : s.kept pq pr) (hf : ∀ x0 x1 x2, x0.kept pq pr → (f x0 x1 x2).kept pq pr) :
    (State.issue s tile slot keys f).kept pq pr := by
  unfold State.issue
  repeat' first
    | with_reducible assumption
    | with_reducible apply State.issueIf_kept

theorem execInstructionCacheFill_kept {tile : Nat} {line : Nat} {s : State} (hs : s.kept pq pr) :
    answersKept pq pr (execInstructionCacheFill tile line s) := by
  unfold execInstructionCacheFill
  repeat' first
    | with_reducible assumption
    | with_reducible apply keeps_next
    | with_reducible apply keeps_ite
    | with_reducible apply State.modTile_kept

theorem execSystemInstruction_kept {tile : Nat} {slot : Nat} {op : SysOp} {word : Word64} {s : State} (hs : s.kept pq pr) :
    answersKept pq pr (execSystemInstruction tile slot op word s) := by
  unfold execSystemInstruction
  repeat' first
    | with_reducible assumption
    | with_reducible apply keeps_next
    | with_reducible apply State.issue_kept
    | with_reducible apply State.preciseAt_kept
    | with_reducible apply State.illegal_kept
    | with_reducible apply State.finish_kept
    | with_reducible apply State.modTile_kept
    | split
    | dsimp only
    | intro _

theorem execImmediateLoad_kept {tile : Nat} {slot : Nat} {word : Word64} {imm : Word64} {s : State} (hs : s.kept pq pr) :
    answersKept pq pr (execImmediateLoad tile slot word imm s) := by
  unfold execImmediateLoad
  repeat' first
    | with_reducible assumption
    | with_reducible apply keeps_next
    | with_reducible apply State.issue_kept
    | with_reducible apply State.illegal_kept
    | with_reducible apply State.finish_kept
    | split
    | dsimp only
    | intro _

theorem execReconverge_kept {tile : Nat} {slot : Nat} {word : Word64} {s : State} (hs : s.kept pq pr) :
    answersKept pq pr (execReconverge tile slot word s) := by
  unfold execReconverge
  repeat' first
    | with_reducible assumption
    | with_reducible apply keeps_next
    | with_reducible apply State.issue_kept
    | with_reducible apply State.illegal_kept
    | with_reducible apply State.finish_kept
    | split
    | intro _

theorem execScalarControl_kept {tile : Nat} {slot : Nat} {op : ScalarOp} {word : Word64} {s : State} (hs : s.kept pq pr) :
    answersKept pq pr (execScalarControl tile slot op word s) := by
  unfold execScalarControl
  repeat' first
    | with_reducible assumption
    | with_reducible apply keeps_next
    | with_reducible apply State.issue_kept
    | with_reducible apply State.illegal_kept
    | with_reducible apply State.finish_kept
    | split
    | dsimp only
    | intro _

theorem execSplitConversion_kept {tile : Nat} {slot : Nat} {word : Word64} {s : State} (hs : s.kept pq pr) :
    answersKept pq pr (execSplitConversion tile slot word s) := by
  unfold execSplitConversion
  repeat' first
    | with_reducible assumption
    | with_reducible apply keeps_next
    | with_reducible apply State.issue_kept
    | with_reducible apply State.illegal_kept
    | with_reducible apply State.finish_kept
    | split
    | dsimp only
    | intro _

theorem State.predDone_kept {s : State} {tile : Nat} {slot : Nat} {g : Group} {p : Path} {m : Word32} {dst : Nat} {f : Nat → Bool} (hs : s.kept pq pr) :
    (State.predDone s tile slot g p m dst f).kept pq pr := by
  unfold State.predDone
  repeat' first
    | with_reducible assumption
    | with_reducible apply State.finish_kept

theorem State.vecDone_kept {s : State} {tile : Nat} {slot : Nat} {g : Group} {p : Path} {m : Word32} {dst : Nat} {f : Nat → Word32} (hs : s.kept pq pr) :
    (State.vecDone s tile slot g p m dst f).kept pq pr := by
  unfold State.vecDone
  repeat' first
    | with_reducible assumption
    | with_reducible apply State.finish_kept

theorem execVectorInteger_kept {tile : Nat} {slot : Nat} {op : IntOp} {word : Word64} {s : State} (hs : s.kept pq pr) :
    answersKept pq pr (execVectorInteger tile slot op word s) := by
  unfold execVectorInteger
  repeat' first
    | with_reducible assumption
    | with_reducible apply keeps_next
    | with_reducible apply State.issue_kept
    | with_reducible apply State.illegal_kept
    | with_reducible apply State.predDone_kept
    | with_reducible apply State.vecDone_kept
    | split
    | dsimp only
    | intro _

theorem execRdraw_kept {tile : Nat} {slot : Nat} {word : Word64} {s : State} (hs : s.kept pq pr) :
    answersKept pq pr (execRdraw tile slot word s) := by
  unfold execRdraw
  repeat' first
    | with_reducible assumption
    | with_reducible apply keeps_next
    | with_reducible apply State.issue_kept
    | with_reducible apply State.illegal_kept
    | with_reducible apply State.finish_kept
    | split
    | dsimp only
    | intro _

theorem execVectorBinary32_kept {tile : Nat} {slot : Nat} {op : F32Op} {word : Word64} {s : State} (hs : s.kept pq pr) :
    answersKept pq pr (execVectorBinary32 tile slot op word s) := by
  unfold execVectorBinary32
  repeat' first
    | with_reducible assumption
    | with_reducible apply keeps_next
    | with_reducible apply State.issue_kept
    | with_reducible apply State.illegal_kept
    | with_reducible apply State.vecDone_kept
    | with_reducible apply State.predDone_kept
    | split
    | dsimp only
    | intro _

theorem execConversion_kept {tile : Nat} {slot : Nat} {src : Fmt} {dst : Fmt} {sr : Bool} {word : Word64} {s : State} (hs : s.kept pq pr) :
    answersKept pq pr (execConversion tile slot src dst sr word s) := by
  unfold execConversion
  repeat' first
    | with_reducible assumption
    | with_reducible apply keeps_next
    | with_reducible apply State.issue_kept
    | with_reducible apply State.illegal_kept
    | with_reducible apply State.vecDone_kept
    | split
    | dsimp only
    | intro _

theorem execBlockConversion_kept {tile : Nat} {slot : Nat} {dst : BlockFmt} {sr : Bool} {word : Word64} {s : State} (hs : s.kept pq pr) :
    answersKept pq pr (execBlockConversion tile slot dst sr word s) := by
  unfold execBlockConversion
  repeat' first
    | with_reducible assumption
    | with_reducible apply keeps_next
    | with_reducible apply State.issue_kept
    | with_reducible apply State.illegal_kept
    | with_reducible apply State.finish_kept
    | split
    | dsimp only
    | intro _

theorem execReservedClassInstruction_kept {tile : Nat} {slot : Nat} {_word : Word64} {s : State} (hs : s.kept pq pr) :
    answersKept pq pr (execReservedClassInstruction tile slot _word s) := by
  unfold execReservedClassInstruction
  repeat' first
    | with_reducible assumption
    | with_reducible apply keeps_next
    | with_reducible apply State.issue_kept
    | with_reducible apply State.illegal_kept
    | intro _

theorem State.reachFault_kept {s : State} {c : Nat} {va : Nat} {n : Nat} {perm : Nat} {u : FabUse} (hs : s.kept pq pr) :
    (State.reachFault s c va n perm u).2.kept pq pr := by
  unfold State.reachFault
  repeat' first
    | with_reducible assumption
    | with_reducible apply State.hostRange_kept
    | split

theorem State.firstFault_kept {s : State} {c perm : Nat} {u : FabUse} {spans : List (Nat × Nat)} (hs : s.kept pq pr) :
    (s.firstFault c perm u spans).2.kept pq pr := by
  unfold State.firstFault
  refine foldl_keeps (P := fun acc : Option (Code × Nat) × State => acc.2.kept pq pr) ?_ _ hs
  intro acc v h
  split
  · exact h
  · split
    · next heq => exact kept_snd heq (State.reachFault_kept h)
    · next heq => exact kept_snd heq (State.reachFault_kept h)

theorem State.memIssue_kept {s : State} {tile : Nat} {slot : Nat} {keys : List Nat} {m : LaneMem} {perm : Nat} {u : FabUse} {legal : Bool} {dst : Nat} {ok : State → Group → Path → Bool} {f : State → Group → Path → Issue → List Nat → State} (hs : s.kept pq pr) (hf : ∀ x0 x1 x2 x3 x4, x0.kept pq pr → (f x0 x1 x2 x3 x4).kept pq pr) :
    (State.memIssue s tile slot keys m perm u legal dst ok f).kept pq pr := by
  unfold State.memIssue
  repeat' first
    | with_reducible assumption
    | with_reducible apply hf
    | with_reducible apply State.issueIf_kept
    | with_reducible apply State.illegal_kept
    | with_reducible apply State.preciseAt_kept
    | with_reducible apply State.fresh_kept
    | with_reducible refine kept_snd (by assumption) (State.firstFault_kept ?_)
    | split
    | dsimp only
    | intro _

theorem State.sendAccess_kept {s : State} {a : Access} (hs : s.kept pq pr) :
    (State.sendAccess s a).kept pq pr := by
  unfold State.sendAccess
  repeat' first
    | with_reducible assumption
    | with_reducible apply State.sendUntimed_kept
    | split

theorem State.launch_kept {s : State} {a : Access} (hs : s.kept pq pr) :
    (State.launch s a).kept pq pr := by
  unfold State.launch
  repeat' first
    | with_reducible assumption
    | with_reducible apply kept_ite
    | with_reducible apply State.fresh_kept
    | with_reducible apply State.sendAccess_kept
    | with_reducible apply kept_mk

theorem State.sendStores_kept {s : State} {g : Group} {i : Issue} {m : LaneMem} {lanes : List Nat} {flag : Bool} (hs : s.kept pq pr) :
    (State.sendStores s g i m lanes flag).kept pq pr := by
  unfold State.sendStores
  repeat' first
    | with_reducible assumption
    | with_reducible apply State.launch_kept
    | with_reducible apply kept_foldl
    | split
    | with_reducible apply kept_mk
    | dsimp only
    | intro _

theorem execMemoryStore_kept {tile : Nat} {slot : Nat} {m : LaneMem} {s : State} (hs : s.kept pq pr) :
    answersKept pq pr (execMemoryStore tile slot m s) := by
  unfold execMemoryStore
  repeat' first
    | with_reducible assumption
    | with_reducible apply keeps_next
    | with_reducible apply State.memIssue_kept
    | with_reducible apply State.finish_kept
    | with_reducible apply State.sendStores_kept
    | split
    | with_reducible apply kept_mk
    | dsimp only
    | intro _

theorem State.setStage_kept {s : State} {id : Nat} {st : AccStage} (hs : s.kept pq pr) :
    (State.setStage s id st).kept pq pr := by
  unfold State.setStage
  repeat' first
    | with_reducible assumption
    | with_reducible apply kept_mk

theorem State.scratchWrite_kept {s : State} {tile : Nat} {a : Nat} {d : List Byte} (hs : s.kept pq pr) :
    (State.scratchWrite s tile a d).kept pq pr := by
  unfold State.scratchWrite
  repeat' first
    | with_reducible assumption
    | with_reducible apply State.modTile_kept

theorem State.sendCluster_kept {s : State} {tile : Nat} {slot : Nat} {t : Nat} {base : Nat} {g : Group} {p : Path} {m : LaneMem} {what : Nat → Payload} (hs : s.kept pq pr) :
    (State.sendCluster s tile slot t base g p m what).kept pq pr := by
  unfold State.sendCluster
  repeat' first
    | with_reducible assumption
    | with_reducible apply State.fresh_kept
    | with_reducible apply State.finish_kept
    | with_reducible apply State.sendUntimed_kept
    | with_reducible apply kept_mk

theorem State.takePort_kept {s : State} {tile : Nat} {n : Nat} (hs : s.kept pq pr) :
    (State.takePort s tile n).kept pq pr := by
  unfold State.takePort
  repeat' first
    | with_reducible assumption
    | with_reducible apply State.waitWet_kept
    | with_reducible apply State.modTile_kept

theorem execFlagStoreSend_kept {id : Nat} {s : State} (hs : s.kept pq pr) :
    answersKept pq pr (execFlagStoreSend id s) := by
  unfold execFlagStoreSend
  repeat' first
    | with_reducible assumption
    | with_reducible apply keeps_next
    | with_reducible apply keeps_ite
    | with_reducible apply State.setStage_kept
    | with_reducible apply State.sendFabric_kept
    | with_reducible apply State.flushFirst_kept
    | with_reducible apply State.sendAccess_kept
    | split
    | with_reducible apply kept_mk

theorem State.roSector_kept {s : State} {i : Issue} {line : Nat} {sector : Nat} {hint : Nat} (hs : s.kept pq pr) :
    (State.roSector s i line sector hint).kept pq pr := by
  unfold State.roSector
  repeat' first
    | with_reducible assumption
    | with_reducible apply State.launch_kept
    | with_reducible apply State.modTile_kept
    | split

theorem execMemoryLoad_kept {tile : Nat} {slot : Nat} {cached : Bool} {m : LaneMem} {s : State} (hs : s.kept pq pr) :
    answersKept pq pr (execMemoryLoad tile slot cached m s) := by
  unfold execMemoryLoad
  repeat' first
    | with_reducible assumption
    | with_reducible apply keeps_next
    | with_reducible apply State.memIssue_kept
    | with_reducible apply State.setTile_kept
    | with_reducible apply State.roSector_kept
    | with_reducible apply State.launch_kept
    | with_reducible apply State.finish_kept
    | with_reducible apply kept_foldl
    | split
    | with_reducible apply kept_mk
    | contradiction
    | dsimp only
    | intro _

theorem execFlagStore_kept {tile : Nat} {slot : Nat} {m : LaneMem} {s : State} (hs : s.kept pq pr) :
    answersKept pq pr (execFlagStore tile slot m s) := by
  unfold execFlagStore
  repeat' first
    | with_reducible assumption
    | with_reducible apply keeps_next
    | with_reducible apply State.memIssue_kept
    | with_reducible apply State.finish_kept
    | with_reducible apply State.sendStores_kept
    | split
    | with_reducible apply kept_mk
    | dsimp only
    | intro _

theorem State.heapAlloc_kept {s : State} {tile c size : Nat} (hs : s.kept pq pr) :
    (s.heapAlloc tile c size).2.kept pq pr := by
  unfold State.heapAlloc
  dsimp only
  split
  · exact State.modCtx_kept hs
  · split
    · split
      · split
        · exact State.modCtx_kept hs
        · exact State.modCtx_kept hs
      · exact State.modCtx_kept hs
    · exact State.modCtx_kept hs

theorem State.scratchIssue_kept {s : State} {tile : Nat} {slot : Nat} {cls : Nat} {keys : List Nat} {m : LaneMem} {f : State → Group → Path → Block → List Nat → State} (hs : s.kept pq pr) (hf : ∀ x0 x1 x2 x3 x4, x0.kept pq pr → (f x0 x1 x2 x3 x4).kept pq pr) :
    (State.scratchIssue s tile slot cls keys m f).kept pq pr := by
  unfold State.scratchIssue
  repeat' first
    | with_reducible assumption
    | with_reducible apply hf
    | with_reducible apply State.issue_kept
    | with_reducible apply State.illegal_kept
    | split
    | with_reducible apply kept_mk
    | intro _

theorem State.scratchAtomics_kept {s : State} {t base : Nat} {g : Group} {m : LaneMem} {op : AtomOp} {ty : AtomTy}
    {lanes : List Nat} (hs : s.kept pq pr) : (s.scratchAtomics t base g m op ty lanes).1.kept pq pr := by
  unfold State.scratchAtomics
  refine foldl_keeps (P := fun acc : State × Group => acc.1.kept pq pr) ?_ _ hs
  intro acc a h
  exact State.scratchWrite_kept h

theorem State.scratchAtomic_kept {s : State} {tile : Nat} {slot : Nat} {rank : Option Nat} {op : AtomOp} {ty : AtomTy} {m : LaneMem} (hs : s.kept pq pr) :
    (State.scratchAtomic s tile slot rank op ty m).kept pq pr := by
  unfold State.scratchAtomic
  repeat' first
    | with_reducible assumption
    | with_reducible apply State.scratchIssue_kept
    | with_reducible apply State.illegal_kept
    | with_reducible apply State.preciseAt_kept
    | with_reducible apply State.scratchAtomics_kept
    | with_reducible apply State.takePort_kept
    | with_reducible apply State.finish_kept
    | with_reducible apply State.sendCluster_kept
    | split
    | dsimp only
    | intro _

theorem execAtomic_kept {tile : Nat} {slot : Nat} {space : AtomSpace} {op : AtomOp} {ty : AtomTy} {m : LaneMem} {s : State} (hs : s.kept pq pr) :
    answersKept pq pr (execAtomic tile slot space op ty m s) := by
  unfold execAtomic
  repeat' first
    | with_reducible assumption
    | with_reducible apply keeps_next
    | with_reducible apply State.scratchAtomic_kept
    | with_reducible apply State.memIssue_kept
    | with_reducible apply State.launch_kept
    | with_reducible apply State.finish_kept
    | with_reducible apply kept_foldl
    | split
    | with_reducible apply kept_mk
    | dsimp only
    | intro _

theorem execClusterScratchLoad_kept {tile : Nat} {slot : Nat} {rank : Nat} {m : LaneMem} {s : State} (hs : s.kept pq pr) :
    answersKept pq pr (execClusterScratchLoad tile slot rank m s) := by
  unfold execClusterScratchLoad
  repeat' first
    | with_reducible assumption
    | with_reducible apply keeps_next
    | with_reducible apply State.scratchIssue_kept
    | with_reducible apply State.preciseAt_kept
    | with_reducible apply State.takePort_kept
    | with_reducible apply State.waitWet_kept
    | with_reducible apply State.finish_kept
    | with_reducible apply State.sendCluster_kept
    | split
    | dsimp only
    | intro _

theorem State.storeWindow_kept {s : State} {dest : Nat} {base : Nat} {g : Group} {m : LaneMem} {lanes : List Nat} (hs : s.kept pq pr) :
    (State.storeWindow s dest base g m lanes).kept pq pr := by
  unfold State.storeWindow
  repeat' first
    | with_reducible assumption
    | with_reducible apply State.scratchWrite_kept
    | with_reducible apply kept_foldl
    | intro _

theorem State.wakeFence_kept {s : State} {tile : Nat} {uid : Nat} (hs : s.kept pq pr) :
    (State.wakeFence s tile uid).kept pq pr := by
  unfold State.wakeFence
  repeat' first
    | with_reducible assumption
    | with_reducible apply kept_ite
    | with_reducible apply State.modGroup_kept
    | with_reducible apply State.sendOps_kept
    | split
    | with_reducible apply kept_mk

theorem State.endIssue_kept {s : State} {i : Issue} (hs : s.kept pq pr) :
    (State.endIssue s i).kept pq pr := by
  unfold State.endIssue
  repeat' first
    | with_reducible assumption
    | with_reducible apply State.wakeFence_kept
    | with_reducible apply kept_mk

theorem execStoreAcknowledgement_kept {id : Nat} {s : State} (hs : s.kept pq pr) :
    answersKept pq pr (execStoreAcknowledgement id s) := by
  unfold execStoreAcknowledgement
  repeat' first
    | with_reducible assumption
    | with_reducible apply keeps_next
    | with_reducible apply keeps_ite
    | with_reducible apply State.endIssue_kept
    | with_reducible apply State.modSync_kept
    | split
    | with_reducible apply kept_mk
    | dsimp only

theorem execClusterScratchStore_kept {tile : Nat} {slot : Nat} {rank : Nat} {m : LaneMem} {s : State} (hs : s.kept pq pr) :
    answersKept pq pr (execClusterScratchStore tile slot rank m s) := by
  unfold execClusterScratchStore
  repeat' first
    | with_reducible assumption
    | with_reducible apply keeps_next
    | with_reducible apply State.scratchIssue_kept
    | with_reducible apply State.preciseAt_kept
    | with_reducible apply State.finish_kept
    | with_reducible apply State.storeWindow_kept
    | with_reducible apply State.takePort_kept
    | with_reducible apply State.sendUntimed_kept
    | with_reducible apply kept_foldl
    | split
    | dsimp only
    | intro _

theorem execScratchLoad_kept {tile : Nat} {slot : Nat} {m : LaneMem} {s : State} (hs : s.kept pq pr) :
    answersKept pq pr (execScratchLoad tile slot m s) := by
  unfold execScratchLoad
  repeat' first
    | with_reducible assumption
    | with_reducible apply keeps_next
    | with_reducible apply State.scratchIssue_kept
    | with_reducible apply State.preciseAt_kept
    | with_reducible apply State.takePort_kept
    | with_reducible apply State.waitWet_kept
    | with_reducible apply State.finish_kept
    | split
    | dsimp only
    | intro _

theorem execScratchStore_kept {tile : Nat} {slot : Nat} {m : LaneMem} {s : State} (hs : s.kept pq pr) :
    answersKept pq pr (execScratchStore tile slot m s) := by
  unfold execScratchStore
  repeat' first
    | with_reducible assumption
    | with_reducible apply keeps_next
    | with_reducible apply State.scratchIssue_kept
    | with_reducible apply State.preciseAt_kept
    | with_reducible apply State.takePort_kept
    | with_reducible apply State.finish_kept
    | with_reducible apply State.storeWindow_kept
    | split
    | dsimp only
    | intro _

theorem execMemoryLoadReturn_kept {id : Nat} {s : State} (hs : s.kept pq pr) :
    answersKept pq pr (execMemoryLoadReturn id s) := by
  unfold execMemoryLoadReturn
  repeat' first
    | with_reducible assumption
    | with_reducible apply keeps_next
    | with_reducible apply keeps_ite
    | with_reducible apply State.endIssue_kept
    | with_reducible apply State.modGroup_kept
    | split

theorem execDeferredFaultReturn_kept {id : Nat} {s : State} (hs : s.kept pq pr) :
    answersKept pq pr (execDeferredFaultReturn id s) := by
  unfold execDeferredFaultReturn
  repeat' first
    | with_reducible assumption
    | with_reducible apply keeps_next
    | with_reducible apply State.endIssue_kept
    | with_reducible apply State.takeFault_kept
    | split

theorem execReadOnlyCacheFill_kept {tile : Nat} {line : Nat} {sector : Nat} {s : State} (hs : s.kept pq pr) :
    answersKept pq pr (execReadOnlyCacheFill tile line sector s) := by
  unfold execReadOnlyCacheFill
  repeat' first
    | with_reducible assumption
    | with_reducible apply keeps_next
    | with_reducible apply State.modTile_kept
    | split
    | with_reducible apply kept_mk

theorem execHeapAlloc_kept {tile : Nat} {slot : Nat} {word : Word64} {s : State} (hs : s.kept pq pr) :
    answersKept pq pr (execHeapAlloc tile slot word s) := by
  unfold execHeapAlloc
  repeat' first
    | with_reducible assumption
    | with_reducible apply keeps_next
    | with_reducible apply State.issue_kept
    | with_reducible apply State.illegal_kept
    | with_reducible apply State.finish_kept
    | with_reducible apply State.heapAlloc_kept
    | split
    | dsimp only
    | intro _

theorem execHeapFree_kept {tile : Nat} {slot : Nat} {word : Word64} {s : State} (hs : s.kept pq pr) :
    answersKept pq pr (execHeapFree tile slot word s) := by
  unfold execHeapFree
  repeat' first
    | with_reducible assumption
    | with_reducible apply keeps_next
    | with_reducible apply State.issue_kept
    | with_reducible apply State.illegal_kept
    | with_reducible apply State.finish_kept
    | with_reducible apply State.modCtx_kept
    | with_reducible apply State.preciseAt_kept
    | split
    | dsimp only
    | intro _

theorem doKeepClear_kept {s : State} (hs : s.kept pq pr) :
    (doKeepClear s).kept pq pr := by
  unfold doKeepClear
  repeat' first
    | with_reducible assumption
    | with_reducible apply kept_ite
    | with_reducible apply kept_mk

theorem State.waitCis_kept {s : State} {id : Nat} {sl : Nat} {full : Bool} (hs : s.kept pq pr) :
    (State.waitCis s id sl full).kept pq pr := by
  unfold State.waitCis
  repeat' first
    | with_reducible assumption
    | with_reducible apply kept_ite
    | with_reducible apply State.setStage_kept
    | with_reducible apply State.cisCount_kept
    | with_reducible apply kept_mk

theorem State.countCorrected_kept {s : State} {line : Nat} {sector : Nat} {symbols : BitVec 2} (hs : s.kept pq pr) :
    (State.countCorrected s line sector symbols).kept pq pr := by
  unfold State.countCorrected
  repeat' first
    | with_reducible assumption
    | with_reducible apply kept_ite
    | with_reducible apply State.noteError_kept
    | with_reducible apply State.memCount_kept

theorem State.codeCheck_kept {s : State} {line : Nat} {sector : Nat} {symbols : BitVec 2} (hs : s.kept pq pr) :
    (State.codeCheck s line sector symbols).kept pq pr := by
  unfold State.codeCheck
  repeat' first
    | with_reducible assumption
    | with_reducible apply kept_ite
    | with_reducible apply State.countCorrected_kept
    | with_reducible apply State.poisonSector_kept

theorem State.servePoison_kept {s : State} {a : Access} {line : Nat} (hs : s.kept pq pr) :
    (State.servePoison s a line).kept pq pr := by
  unfold State.servePoison
  repeat' first
    | with_reducible assumption
    | with_reducible apply State.setStage_kept
    | with_reducible apply State.logPoison_kept
    | with_reducible apply State.countPoison_kept

theorem State.poisonWaiters_kept {s : State} {ids : List Nat} {line sector : Nat} (hs : s.kept pq pr) :
    (s.poisonWaiters ids line sector).kept pq pr := by
  unfold State.poisonWaiters
  refine kept_foldl ?_ _ hs
  intro s id hs
  split
  · split
    · exact kept_ite (State.servePoison_kept hs) hs
    · exact hs
  · exact hs

theorem State.serveLoad_kept {s : State} {a : Access} {dpa : Nat} (hs : s.kept pq pr) :
    (State.serveLoad s a dpa).kept pq pr := by
  unfold State.serveLoad
  repeat' first
    | with_reducible assumption
    | with_reducible apply kept_ite
    | with_reducible apply State.setStage_kept
    | with_reducible apply State.dropLine_kept
    | with_reducible refine State.touchLine_kept ?_
    | with_reducible apply kept_getD
    | split

theorem State.serveWaiter_kept {s : State} {id : Nat} {outstanding : Nat} (hs : s.kept pq pr) :
    (State.serveWaiter s id outstanding).kept pq pr := by
  unfold State.serveWaiter
  repeat' first
    | with_reducible assumption
    | with_reducible apply kept_ite
    | with_reducible apply State.serveLoad_kept
    | with_reducible apply State.setStage_kept
    | split

theorem State.waitAt_kept {s : State} {ch : Nat} {id : Nat} {full : Bool} (hs : s.kept pq pr) :
    (State.waitAt s ch id full).kept pq pr := by
  unfold State.waitAt
  repeat' first
    | with_reducible assumption
    | with_reducible apply kept_ite
    | with_reducible apply State.setStage_kept
    | with_reducible apply State.setSlice_kept
    | with_reducible apply State.memCount_kept

theorem State.allocFor_kept {s : State} {line : Nat} {hint : Nat} (hs : s.kept pq pr) :
    (State.allocFor s line hint).kept pq pr := by
  unfold State.allocFor
  repeat' first
    | with_reducible assumption
    | with_reducible apply kept_ite
    | with_reducible refine State.touchLine_kept ?_
    | with_reducible apply kept_getD

theorem State.fillLine_kept {s : State} {line missing hint : Nat} {waiters : List Nat} (hs : s.kept pq pr) :
    ∀ t, s.fillLine line missing hint waiters = some t → t.kept pq pr := by
  intro t ht
  unfold State.fillLine at ht
  dsimp only at ht
  split at ht
  · split at ht
    · cases ht
      exact State.setSlice_kept (State.allocFor_kept hs)
    · cases ht
  · split at ht
    · cases ht
      exact State.setSlice_kept (State.allocFor_kept hs)
    · cases ht

theorem State.missAt_kept {s : State} {a : Access} {line : Nat} {missing : Nat} {again : Bool} (hs : s.kept pq pr) :
    (State.missAt s a line missing again).kept pq pr := by
  unfold State.missAt
  repeat' first
    | with_reducible assumption
    | with_reducible refine State.fillLine_kept ?_ _ (by assumption)
    | with_reducible apply State.setStage_kept
    | with_reducible apply State.waitAt_kept
    | split

theorem State.serveHome_kept {s : State} {a : Access} {dpa : Nat} {again : Bool} (hs : s.kept pq pr) :
    (State.serveHome s a dpa again).kept pq pr := by
  unfold State.serveHome
  repeat' first
    | with_reducible assumption
    | with_reducible apply kept_ite
    | with_reducible apply State.servePoison_kept
    | with_reducible apply State.waitAt_kept
    | with_reducible apply State.setStage_kept
    | with_reducible apply State.storeLine_kept
    | with_reducible apply State.serveLoad_kept
    | with_reducible apply State.missAt_kept
    | split

theorem State.retryInput_kept {s : State} {ch : Nat} (hs : s.kept pq pr) :
    (State.retryInput s ch).kept pq pr := by
  unfold State.retryInput
  repeat' first
    | with_reducible assumption
    | with_reducible apply State.setSlice_kept
    | with_reducible apply State.serveHome_kept
    | with_reducible apply kept_foldl
    | split
    | with_reducible apply kept_mk
    | intro _

theorem State.fillSector_kept {s : State} {m : Miss} {line : Nat} {sector : Nat} {symbols : BitVec 2} (hs : s.kept pq pr) :
    (State.fillSector s m line sector symbols).kept pq pr := by
  unfold State.fillSector
  repeat' first
    | with_reducible assumption
    | with_reducible apply kept_ite
    | with_reducible apply State.codeCheck_kept
    | with_reducible apply State.setSlice_kept
    | with_reducible apply State.poisonWaiters_kept
    | with_reducible apply State.serveWaiter_kept
    | with_reducible apply State.retryInput_kept
    | with_reducible apply kept_foldl
    | intro _

theorem State.serveHost_kept {s : State} {a : Access} {iova : Nat} (hs : s.kept pq pr) :
    (s.serveHost a iova).kept pq pr := by
  unfold State.serveHost
  dsimp only
  split
  · exact State.setStage_kept hs
  · exact State.setStage_kept ⟨⟨hs.1.1, tabWriteMasked_wf _ _ hs.1.2⟩, hs.2⟩
  · exact hs

theorem State.cisHint_kept {s : State} {a : Access} {dev : Nat} {n : Nat} (hs : s.kept pq pr) :
    (State.cisHint s a dev n).kept pq pr := by
  unfold State.cisHint
  repeat' first
    | with_reducible assumption
    | with_reducible apply kept_ite
    | with_reducible apply State.cisDrop_kept
    | with_reducible refine State.touchCis_kept ?_
    | with_reducible apply kept_getD
    | split

theorem State.serveCis_kept {s : State} {a : Access} {dev : Nat} {off : Nat} {l : Line} (hs : s.kept pq pr) :
    (State.serveCis s a dev off l).kept pq pr := by
  unfold State.serveCis
  repeat' first
    | with_reducible assumption
    | with_reducible apply State.cisHint_kept
    | with_reducible apply State.setStage_kept

theorem State.fetchCis_kept {s : State} {dev : Nat} {n : Nat} {route : Nat} {mask : Nat} {c : Nat} (hs : s.kept pq pr) :
    (State.fetchCis s dev n route mask c).kept pq pr := by
  unfold State.fetchCis
  repeat' first
    | with_reducible assumption
    | with_reducible apply State.sendFabric_kept

theorem State.missCis_kept {s : State} {a : Access} {dev off route mask : Nat} {again : Bool} (hs : s.kept pq pr) :
    (s.missCis a dev off route mask again).kept pq pr := by
  unfold State.missCis
  dsimp only
  refine kept_ite (State.waitCis_kept hs) ?_
  split
  · exact State.waitCis_kept hs
  · next u hu =>
    have hk : u.kept pq pr := by
      split at hu
      · cases hu
        exact hs
      · exact State.touchCis_kept hs _ hu
    have hk := State.setStage_kept (id := a.id) (st := AccStage.waiting) hk
    split
    · exact kept_mk hk
    · exact State.fetchCis_kept (kept_mk hk)

theorem State.loadCis_kept {s : State} {a : Access} {dev : Nat} {off : Nat} {route : Nat} {again : Bool} (hs : s.kept pq pr) :
    (State.loadCis s a dev off route again).kept pq pr := by
  unfold State.loadCis
  repeat' first
    | with_reducible assumption
    | with_reducible apply kept_ite
    | with_reducible apply State.waitCis_kept
    | with_reducible apply State.serveCis_kept
    | with_reducible apply State.missCis_kept
    | split
    | with_reducible apply kept_mk

theorem State.storePast_kept {s : State} {a : Access} {dev : Nat} {off : Nat} {route : Nat} {d : List (Option Byte)} (hs : s.kept pq pr) :
    (State.storePast s a dev off route d).kept pq pr := by
  unfold State.storePast
  repeat' first
    | with_reducible assumption
    | with_reducible apply State.setStage_kept
    | with_reducible apply State.sendFabric_kept
    | with_reducible apply State.flushFirst_kept

theorem State.storeCis_kept {s : State} {a : Access} {dev : Nat} {off : Nat} {route : Nat} {d : List (Option Byte)} (hs : s.kept pq pr) :
    (State.storeCis s a dev off route d).kept pq pr := by
  unfold State.storeCis
  repeat' first
    | with_reducible assumption
    | with_reducible apply kept_ite
    | with_reducible apply State.storePast_kept
    | with_reducible apply State.waitCis_kept
    | with_reducible refine State.cisStore_kept ?_ _ (by assumption)
    | with_reducible apply State.setStage_kept
    | split

theorem State.serveAccess_kept {s : State} {a : Access} (hs : s.kept pq pr) :
    (State.serveAccess s a).kept pq pr := by
  unfold State.serveAccess
  repeat' first
    | with_reducible assumption
    | with_reducible apply State.serveHome_kept
    | with_reducible apply State.serveHost_kept
    | with_reducible apply State.loadCis_kept
    | with_reducible apply State.storeCis_kept
    | with_reducible apply State.setStage_kept
    | with_reducible apply State.sendFabric_kept
    | with_reducible apply State.flushFirst_kept
    | split

theorem execHomeAccess_kept {id : Nat} {s : State} (hs : s.kept pq pr) :
    answersKept pq pr (execHomeAccess id s) := by
  unfold execHomeAccess
  repeat' first
    | with_reducible assumption
    | with_reducible apply keeps_next
    | with_reducible apply keeps_ite
    | with_reducible refine State.arrive_kept ?_ _ (by assumption)
    | with_reducible apply State.serveHome_kept
    | with_reducible apply State.serveHost_kept
    | split

theorem KeepSweep_rest_kept {w : KeepSweep} {s : State} (hs : s.kept pq pr) :
    (KeepSweep.rest w s).kept pq pr := by
  unfold KeepSweep.rest
  repeat' first
    | with_reducible assumption
    | with_reducible apply kept_mk

theorem State.retryCis_kept {s : State} (hs : s.kept pq pr) :
    (State.retryCis s).kept pq pr := by
  unfold State.retryCis
  repeat' first
    | with_reducible assumption
    | with_reducible apply State.loadCis_kept
    | with_reducible apply State.storeCis_kept
    | with_reducible apply kept_foldl
    | split
    | with_reducible apply kept_mk
    | intro _

theorem execKeepSweepEnd_kept {s : State} (hs : s.kept pq pr) :
    answersKept pq pr (execKeepSweepEnd s) := by
  unfold execKeepSweepEnd
  repeat' first
    | with_reducible assumption
    | with_reducible apply keeps_next
    | with_reducible apply KeepSweep_rest_kept
    | split
    | with_reducible apply kept_mk

theorem execRemoteAtomicForward_kept {id : Nat} {s : State} (hs : s.kept pq pr) :
    answersKept pq pr (execRemoteAtomicForward id s) := by
  unfold execRemoteAtomicForward
  repeat' first
    | with_reducible assumption
    | with_reducible apply keeps_next
    | with_reducible apply kept_ite
    | with_reducible refine State.arrive_kept ?_ _ (by assumption)
    | with_reducible apply State.setStage_kept
    | with_reducible apply State.sendFabric_kept
    | with_reducible apply State.flushFirst_kept
    | with_reducible apply State.storePast_kept
    | split

theorem execCisternFillCompletion_kept {dev line : Nat} {data : List (Option (List Byte))} {s : State}
    (hs : s.kept pq pr) : answersKept pq pr (execCisternFillCompletion dev line data s) := by
  unfold execCisternFillCompletion
  split
  · exact keeps_next hs
  · dsimp only
    refine keeps_next (State.retryCis_kept (kept_foldl ?_ _ (kept_ite (kept_mk hs) (State.setCis_kept (kept_mk hs)))))
    intro s id h
    split
    · split
      · exact kept_ite (State.serveCis_kept h) h
      · exact h
    · exact h

theorem execCisternEviction_kept {slice : Nat} {set : Nat} {s : State} (hs : s.kept pq pr) :
    answersKept pq pr (execCisternEviction slice set s) := by
  unfold execCisternEviction
  repeat' first
    | with_reducible assumption
    | with_reducible apply keeps_next
    | with_reducible apply kept_ite
    | with_reducible apply State.sweepCis_kept
    | with_reducible apply State.cisCount_kept
    | with_reducible apply State.retryCis_kept
    | with_reducible apply State.sendDirty_kept
    | with_reducible apply State.setCis_kept
    | split
    | dsimp only

theorem execWriteBackAcknowledgement_kept {channel : Nat} {line : Nat} {s : State} (hs : s.kept pq pr) :
    answersKept pq pr (execWriteBackAcknowledgement channel line s) := by
  unfold execWriteBackAcknowledgement
  repeat' first
    | with_reducible assumption
    | with_reducible apply keeps_next
    | with_reducible apply State.setSlice_kept
    | with_reducible apply State.writeBack_kept
    | split
    | dsimp only

theorem execCisternStore_kept {id : Nat} {s : State} (hs : s.kept pq pr) :
    answersKept pq pr (execCisternStore id s) := by
  unfold execCisternStore
  repeat' first
    | with_reducible assumption
    | with_reducible apply keeps_next
    | with_reducible refine State.arrive_kept ?_ _ (by assumption)
    | with_reducible apply State.storeCis_kept
    | split

theorem execKeepClear_kept {s : State} (hs : s.kept pq pr) :
    answersKept pq pr (execKeepClear s) := by
  unfold execKeepClear
  repeat' first
    | with_reducible assumption
    | with_reducible apply keeps_next
    | with_reducible apply doKeepClear_kept

theorem execPatrolScrub_kept {channel : Nat} {line : Nat} {sector : Nat} {odd : Bool} {many : Bool} {s : State} (hs : s.kept pq pr) :
    answersKept pq pr (execPatrolScrub channel line sector odd many s) := by
  unfold execPatrolScrub
  repeat' first
    | with_reducible assumption
    | with_reducible apply keeps_next
    | with_reducible apply keeps_ite
    | with_reducible apply kept_ite
    | with_reducible apply State.codeCheck_kept

theorem State.atomicUnit_kept {s : State} {id : Nat} (hs : s.kept pq pr) :
    (State.atomicUnit s id).kept pq pr := by
  unfold State.atomicUnit
  repeat' first
    | with_reducible assumption
    | with_reducible apply kept_ite
    | with_reducible apply State.retryInput_kept
    | with_reducible apply State.servePoison_kept
    | with_reducible apply State.storeLine_kept
    | with_reducible apply State.setStage_kept
    | split

theorem execCisternLoad_kept {id : Nat} {s : State} (hs : s.kept pq pr) :
    answersKept pq pr (execCisternLoad id s) := by
  unfold execCisternLoad
  repeat' first
    | with_reducible assumption
    | with_reducible apply keeps_next
    | with_reducible refine State.arrive_kept ?_ _ (by assumption)
    | with_reducible apply State.loadCis_kept
    | split

theorem State.endWalks_kept {s : State} (hs : s.kept pq pr) :
    (State.endWalks s).kept pq pr := by
  unfold State.endWalks
  repeat' first
    | with_reducible assumption
    | with_reducible apply State.modGroup_kept
    | with_reducible apply kept_foldl
    | split
    | with_reducible apply kept_mk
    | intro _

theorem State.startWalk_kept {s : State} {tile : Nat} {slot : Nat} {g : Group} {kind : WalkKind} {rs : Option (List (Nat × Nat × Nat))} (hs : s.kept pq pr) :
    (State.startWalk s tile slot g kind rs).kept pq pr := by
  unfold State.startWalk
  repeat' first
    | with_reducible assumption
    | with_reducible apply State.fresh_kept
    | with_reducible apply State.finish_kept
    | split
    | with_reducible apply kept_mk

theorem State.order_kept {s : State} {tile : Nat} {slot : Nat} {op : Nat} {w : Word64} {immMax : Nat} {range : Bool} {f : State → Group → State} (hs : s.kept pq pr) (hf : ∀ x0 x1, x0.kept pq pr → (f x0 x1).kept pq pr) :
    (State.order s tile slot op w immMax range f).kept pq pr := by
  unfold State.order
  repeat' first
    | with_reducible assumption
    | with_reducible apply hf
    | with_reducible apply State.issue_kept
    | with_reducible apply State.illegal_kept
    | split
    | intro _

theorem execAcquire_kept {tile : Nat} {slot : Nat} {word : Word64} {s : State} (hs : s.kept pq pr) :
    answersKept pq pr (execAcquire tile slot word s) := by
  unfold execAcquire
  repeat' first
    | with_reducible assumption
    | with_reducible apply keeps_next
    | with_reducible apply State.order_kept
    | with_reducible apply State.startWalk_kept
    | split
    | intro _

theorem execCisternWalkEnd_kept {walk : Nat} {s : State} (hs : s.kept pq pr) :
    answersKept pq pr (execCisternWalkEnd walk s) := by
  unfold execCisternWalkEnd
  repeat' first
    | with_reducible assumption
    | with_reducible apply keeps_next
    | with_reducible apply State.waitWet_kept
    | with_reducible apply State.writeBackLines_kept
    | with_reducible apply State.endWalks_kept
    | with_reducible apply State.acquireLines_kept
    | with_reducible apply State.modGroup_kept
    | with_reducible apply State.emptyRo_kept
    | split
    | with_reducible apply kept_mk

theorem execFenceRel_kept {tile : Nat} {slot : Nat} {word : Word64} {s : State} (hs : s.kept pq pr) :
    answersKept pq pr (execFenceRel tile slot word s) := by
  unfold execFenceRel
  repeat' first
    | with_reducible assumption
    | with_reducible apply keeps_next
    | with_reducible apply State.order_kept
    | with_reducible apply State.finish_kept
    | intro _

theorem execFlush_kept {tile : Nat} {slot : Nat} {word : Word64} {s : State} (hs : s.kept pq pr) :
    answersKept pq pr (execFlush tile slot word s) := by
  unfold execFlush
  repeat' first
    | with_reducible assumption
    | with_reducible apply keeps_next
    | with_reducible apply State.order_kept
    | with_reducible apply State.startWalk_kept
    | intro _

theorem execFenceOrd_kept {tile : Nat} {slot : Nat} {word : Word64} {s : State} (hs : s.kept pq pr) :
    answersKept pq pr (execFenceOrd tile slot word s) := by
  unfold execFenceOrd
  repeat' first
    | with_reducible assumption
    | with_reducible apply keeps_next
    | with_reducible apply State.order_kept
    | with_reducible apply State.startWalk_kept
    | intro _

theorem State.divergence_kept {s : State} {tile : Nat} {slot : Nat} {g : Group} {p : Path} {q : Path} (hs : s.kept pq pr) :
    (State.divergence s tile slot g p q).kept pq pr := by
  unfold State.divergence
  repeat' first
    | with_reducible assumption
    | with_reducible apply State.takeFault_kept

theorem State.matrixIssue_kept {s : State} {tile : Nat} {slot : Nat} {g : Group} {p : Path} {b : Block} {c : MCmd} (hs : s.kept pq pr) :
    (State.matrixIssue s tile slot g p b c).kept pq pr := by
  unfold State.matrixIssue
  repeat' first
    | with_reducible assumption
    | with_reducible apply State.preciseAt_kept
    | with_reducible apply State.finish_kept
    | with_reducible apply State.modTile_kept
    | split
    | with_reducible apply kept_mk

theorem State.matrix_kept {s : State} {tile : Nat} {slot : Nat} {op : Nat} {w : Word64} (hs : s.kept pq pr) :
    (State.matrix s tile slot op w).kept pq pr := by
  unfold State.matrix
  repeat' first
    | with_reducible assumption
    | with_reducible apply kept_ite
    | with_reducible apply State.putGroup_kept
    | with_reducible apply State.divergence_kept
    | with_reducible apply State.finish_kept
    | with_reducible apply State.issueFrom_kept
    | with_reducible apply State.illegal_kept
    | with_reducible apply State.matrixIssue_kept
    | split
    | with_reducible apply kept_mk

theorem State.beginMatrix_kept {s : State} {tile : Nat} {c : MCmd} {t : Nat} {place : Option Nat} (hs : s.kept pq pr) :
    (State.beginMatrix s tile c t place).kept pq pr := by
  unfold State.beginMatrix
  repeat' first
    | with_reducible assumption
    | with_reducible apply kept_ite
    | with_reducible apply State.modTile_kept
    | with_reducible apply State.modGroup_kept

theorem execMend_kept {tile : Nat} {slot : Nat} {word : Word64} {s : State} (hs : s.kept pq pr) :
    answersKept pq pr (execMend tile slot word s) := by
  unfold execMend
  repeat' first
    | with_reducible assumption
    | with_reducible apply keeps_next
    | with_reducible apply State.matrix_kept

theorem State.beginOldest_kept {s : State} {tile : Nat} (hs : s.kept pq pr) :
    (State.beginOldest s tile).kept pq pr := by
  unfold State.beginOldest
  repeat' first
    | with_reducible assumption
    | with_reducible apply State.waitWet_kept
    | with_reducible apply State.modTile_kept
    | with_reducible apply State.beginMatrix_kept
    | split

theorem execMatrixCommandBegin_kept {tile : Nat} {s : State} (hs : s.kept pq pr) :
    answersKept pq pr (execMatrixCommandBegin tile s) := by
  unfold execMatrixCommandBegin
  repeat' first
    | with_reducible assumption
    | with_reducible apply keeps_next
    | with_reducible apply keeps_ite
    | with_reducible apply State.beginOldest_kept

theorem execMzero_kept {tile : Nat} {slot : Nat} {word : Word64} {s : State} (hs : s.kept pq pr) :
    answersKept pq pr (execMzero tile slot word s) := by
  unfold execMzero
  repeat' first
    | with_reducible assumption
    | with_reducible apply keeps_next
    | with_reducible apply State.matrix_kept

theorem execMdiag_kept {tile : Nat} {slot : Nat} {word : Word64} {s : State} (hs : s.kept pq pr) :
    answersKept pq pr (execMdiag tile slot word s) := by
  unfold execMdiag
  repeat' first
    | with_reducible assumption
    | with_reducible apply keeps_next
    | with_reducible apply State.matrix_kept

theorem execMdrain_kept {tile : Nat} {slot : Nat} {word : Word64} {s : State} (hs : s.kept pq pr) :
    answersKept pq pr (execMdrain tile slot word s) := by
  unfold execMdrain
  repeat' first
    | with_reducible assumption
    | with_reducible apply keeps_next
    | with_reducible apply State.matrix_kept

theorem execMload_kept {tile : Nat} {slot : Nat} {word : Word64} {s : State} (hs : s.kept pq pr) :
    answersKept pq pr (execMload tile slot word s) := by
  unfold execMload
  repeat' first
    | with_reducible assumption
    | with_reducible apply keeps_next
    | with_reducible apply State.matrix_kept

theorem execMpass_kept {tile : Nat} {slot : Nat} {word : Word64} {s : State} (hs : s.kept pq pr) :
    answersKept pq pr (execMpass tile slot word s) := by
  unfold execMpass
  repeat' first
    | with_reducible assumption
    | with_reducible apply keeps_next
    | with_reducible apply State.matrix_kept

theorem execMbread_kept {tile : Nat} {slot : Nat} {word : Word64} {s : State} (hs : s.kept pq pr) :
    answersKept pq pr (execMbread tile slot word s) := by
  unfold execMbread
  repeat' first
    | with_reducible assumption
    | with_reducible apply keeps_next
    | with_reducible apply State.matrix_kept

theorem execMbwrite_kept {tile : Nat} {slot : Nat} {word : Word64} {s : State} (hs : s.kept pq pr) :
    answersKept pq pr (execMbwrite tile slot word s) := by
  unfold execMbwrite
  repeat' first
    | with_reducible assumption
    | with_reducible apply keeps_next
    | with_reducible apply State.matrix_kept

theorem execRowEngine_kept {tile : Nat} {slot : Nat} {op : RowOp} {len : Nat} {src : Nat} {dst : Nat} {word : Word64} {s : State} (hs : s.kept pq pr) :
    answersKept pq pr (execRowEngine tile slot op len src dst word s) := by
  unfold execRowEngine
  repeat' first
    | with_reducible assumption
    | with_reducible apply keeps_next
    | with_reducible apply State.issueIf_kept
    | with_reducible apply State.illegal_kept
    | with_reducible apply State.preciseAt_kept
    | with_reducible apply State.finish_kept
    | with_reducible apply State.waitWet_kept
    | with_reducible apply State.modTile_kept
    | split
    | with_reducible apply kept_mk
    | dsimp only
    | intro _

theorem State.applyOp_kept {s : State} {o : SyncOp} (hs : s.kept pq pr) :
    (State.applyOp s o).1.kept pq pr := by
  unfold State.applyOp
  repeat' first
    | with_reducible assumption
    | with_reducible apply State.countDeniedHandle_kept
    | with_reducible apply State.countDeniedAt_kept
    | with_reducible apply State.applySignal_kept
    | with_reducible apply State.applyArrival_kept
    | split

theorem State.becomePending_kept {s : State} {c : Nat} (hs : s.kept pq pr) :
    (State.becomePending s c).kept pq pr := by
  unfold State.becomePending
  repeat' first
    | with_reducible assumption
    | with_reducible apply kept_ite
    | with_reducible apply State.modCtx_kept
    | with_reducible apply kept_mk

theorem State.queueDone_kept {s : State} {who : Who} {status : Nat} (hs : s.kept pq pr) :
    (State.queueDone s who status).kept pq pr := by
  unfold State.queueDone
  repeat' first
    | with_reducible assumption
    | with_reducible apply State.becomePending_kept
    | with_reducible apply State.modQueue_kept
    | split

theorem State.endOp_kept {s : State} {o : SyncOp} {out : SyncOut} (hs : s.kept pq pr) :
    (State.endOp s o out).kept pq pr := by
  unfold State.endOp
  repeat' first
    | with_reducible assumption
    | with_reducible apply State.modSync_kept
    | with_reducible apply State.queueDone_kept
    | with_reducible apply State.syncReport_kept
    | split

theorem State.applyLocal_kept {s : State} {id : Nat} {arrive : Bool} (hs : s.kept pq pr) :
    (State.applyLocal s id arrive).kept pq pr := by
  unfold State.applyLocal
  repeat' first
    | with_reducible assumption
    | with_reducible apply kept_ite
    | with_reducible apply State.applyOp_kept
    | with_reducible apply State.endOp_kept
    | split

theorem execSignalApply_kept {id : Nat} {s : State} (hs : s.kept pq pr) :
    answersKept pq pr (execSignalApply id s) := by
  unfold execSignalApply
  repeat' first
    | with_reducible assumption
    | with_reducible apply keeps_next
    | with_reducible apply State.applyLocal_kept

theorem State.countStale_kept {s : State} {c : Nat} {vid : Nat} {reason : Nat} (hs : s.kept pq pr) :
    (State.countStale s c vid reason).kept pq pr := by
  unfold State.countStale
  repeat' first
    | with_reducible assumption
    | with_reducible apply kept_ite
    | with_reducible apply State.countDeniedAt_kept

theorem State.engineSignal_kept {s : State} {kind : SyncKind} {who : Who} {c vid : Nat} {v : Word64} {n : Nat}
    {f : FaultRec} (hs : s.kept pq pr) : (s.engineSignal kind who c vid v n f).1.kept pq pr := by
  unfold State.engineSignal
  dsimp only
  split
  · exact State.syncReport_kept (State.countStale_kept hs)
  · exact State.syncFault_kept hs
  · exact State.sendOp_kept (State.modSync_kept (State.fresh_kept hs))

theorem State.groupSignal_kept {s : State} {tile : Nat} {slot : Nat} {w : Word64} {kind : SyncKind} {legal : Bool} {count : Nat} (hs : s.kept pq pr) :
    (State.groupSignal s tile slot w kind legal count).kept pq pr := by
  unfold State.groupSignal
  repeat' first
    | with_reducible assumption
    | with_reducible apply State.issue_kept
    | with_reducible apply State.illegal_kept
    | with_reducible apply State.syncReport_kept
    | with_reducible apply State.finish_kept
    | with_reducible apply State.countStale_kept
    | with_reducible apply State.takeFault_kept
    | with_reducible apply State.modSync_kept
    | with_reducible apply State.fresh_kept
    | with_reducible apply State.sendOp_kept
    | split
    | dsimp only
    | intro _

theorem execSyncArrive_kept {tile : Nat} {slot : Nat} {word : Word64} {s : State} (hs : s.kept pq pr) :
    answersKept pq pr (execSyncArrive tile slot word s) := by
  unfold execSyncArrive
  repeat' first
    | with_reducible assumption
    | with_reducible apply keeps_next
    | with_reducible apply State.groupSignal_kept

theorem State.completeGroupWait_kept {s : State} {tile : Nat} {uid : Nat} {status : Nat} {at_ : Nat} (hs : s.kept pq pr) :
    (State.completeGroupWait s tile uid status at_).kept pq pr := by
  unfold State.completeGroupWait
  repeat' first
    | with_reducible assumption
    | with_reducible apply kept_ite
    | with_reducible apply State.takeFault_kept
    | with_reducible apply State.becomePending_kept
    | with_reducible apply State.modGroup_kept
    | with_reducible apply kept_foldl
    | with_reducible apply kept_getD
    | split

theorem State.completeWait_kept {s : State} {w : Wait} {status : Nat} {at_ : Nat} (hs : s.kept pq pr) :
    (State.completeWait s w status at_).kept pq pr := by
  unfold State.completeWait
  repeat' first
    | with_reducible assumption
    | with_reducible apply kept_ite
    | with_reducible apply State.modSync_kept
    | with_reducible apply State.completeGroupWait_kept
    | with_reducible apply State.queueDone_kept
    | with_reducible apply State.takeFault_kept
    | split

theorem State.countWaitDenied_kept {s : State} {c : Nat} {vid : Nat} {reason : Nat} (hs : s.kept pq pr) :
    (State.countWaitDenied s c vid reason).kept pq pr := by
  unfold State.countWaitDenied
  repeat' first
    | with_reducible assumption
    | with_reducible apply State.countDeniedHandle_kept
    | with_reducible apply State.countStale_kept
    | split

theorem execSigSet_kept {tile : Nat} {slot : Nat} {word : Word64} {s : State} (hs : s.kept pq pr) :
    answersKept pq pr (execSigSet tile slot word s) := by
  unfold execSigSet
  repeat' first
    | with_reducible assumption
    | with_reducible apply keeps_next
    | with_reducible apply State.groupSignal_kept

theorem execArrivalApply_kept {id : Nat} {s : State} (hs : s.kept pq pr) :
    answersKept pq pr (execArrivalApply id s) := by
  unfold execArrivalApply
  repeat' first
    | with_reducible assumption
    | with_reducible apply keeps_next
    | with_reducible apply State.applyLocal_kept

theorem execSyncWake_kept {id : Nat} {s : State} (hs : s.kept pq pr) :
    answersKept pq pr (execSyncWake id s) := by
  unfold execSyncWake
  repeat' first
    | with_reducible assumption
    | with_reducible apply keeps_next
    | with_reducible apply State.completeWait_kept
    | split

theorem execSigAdd_kept {tile : Nat} {slot : Nat} {word : Word64} {s : State} (hs : s.kept pq pr) :
    answersKept pq pr (execSigAdd tile slot word s) := by
  unfold execSigAdd
  repeat' first
    | with_reducible assumption
    | with_reducible apply keeps_next
    | with_reducible apply State.groupSignal_kept

theorem execSyncWait_kept {tile : Nat} {slot : Nat} {word : Word64} {s : State} (hs : s.kept pq pr) :
    answersKept pq pr (execSyncWait tile slot word s) := by
  unfold execSyncWait
  repeat' first
    | with_reducible assumption
    | with_reducible apply keeps_next
    | with_reducible apply State.issue_kept
    | with_reducible apply State.illegal_kept
    | with_reducible apply State.takeFault_kept
    | with_reducible apply State.countWaitDenied_kept
    | with_reducible apply State.modSync_kept
    | with_reducible apply State.fresh_kept
    | with_reducible apply State.finish_kept
    | split
    | dsimp only
    | intro _

theorem execSyncTest_kept {tile : Nat} {slot : Nat} {word : Word64} {s : State} (hs : s.kept pq pr) :
    answersKept pq pr (execSyncTest tile slot word s) := by
  unfold execSyncTest
  repeat' first
    | with_reducible assumption
    | with_reducible apply keeps_next
    | with_reducible apply State.issue_kept
    | with_reducible apply State.illegal_kept
    | with_reducible apply State.takeFault_kept
    | with_reducible apply State.countWaitDenied_kept
    | with_reducible apply State.finish_kept
    | split
    | dsimp only
    | intro _

theorem State.deschedule_kept {s : State} {tile uid : Nat} (hs : s.kept pq pr) :
    (s.deschedule tile uid).kept pq pr := by
  unfold State.deschedule
  split
  · exact hs
  · split
    · exact hs
    · dsimp only
      split
      · exact hs
      · exact ⟨⟨Mem.lose_wf _ _ _ (State.forget_kept (State.modTile_kept hs)).1.1, hs.1.2⟩, hs.2⟩

theorem execWaitRegistration_kept {id : Nat} {s : State} (hs : s.kept pq pr) :
    answersKept pq pr (execWaitRegistration id s) := by
  unfold execWaitRegistration
  split
  · exact keeps_next hs
  · next w hw =>
    dsimp only
    refine keeps_ite ?_ ?_
    · have hk : (w.handle.elim (s.countDeniedAt w.index) s.countDeniedHandle).kept pq pr := by
        cases w.handle with
        | none => exact State.countDeniedAt_kept hs
        | some x => exact State.countDeniedHandle_kept hs
      split
      · exact keeps_next (State.takeFault_kept (State.modSync_kept hk))
      · exact keeps_next (State.takeFault_kept (State.modSync_kept hk))
      · exact keeps_next (State.modSync_kept hk)
    · have hk := State.registerWait_kept (w := w) hs
      split
      · exact keeps_next hk
      · split
        · exact keeps_next (State.completeWait_kept hk)
        · split
          · exact keeps_next hk
          · exact keeps_next (State.deschedule_kept hk)
          · exact keeps_next hk

theorem execWaiterPoll_kept {id : Nat} {s : State} (hs : s.kept pq pr) :
    answersKept pq pr (execWaiterPoll id s) := by
  unfold execWaiterPoll
  repeat' first
    | with_reducible assumption
    | with_reducible apply keeps_next
    | with_reducible apply State.registerWait_kept
    | split

theorem execWaitWatchdogExamination_kept {s : State} (hs : s.kept pq pr) :
    answersKept pq pr (execWaitWatchdogExamination s) := by
  unfold execWaitWatchdogExamination
  repeat' first
    | with_reducible assumption
    | with_reducible apply keeps_next
    | with_reducible apply keeps_ite
    | with_reducible apply kept_ite
    | with_reducible apply State.modHal_kept
    | with_reducible apply State.modSec_kept
    | with_reducible apply State.takeFault_kept
    | with_reducible apply kept_foldl
    | split
    | with_reducible apply kept_mk
    | dsimp only
    | intro _

theorem State.dmaStore_kept {s : State} {a : Access} (hs : s.kept pq pr) :
    (State.dmaStore s a).kept pq pr := by
  unfold State.dmaStore
  repeat' first
    | with_reducible assumption
    | with_reducible apply State.flushFirst_kept
    | with_reducible apply State.launch_kept
    | with_reducible apply State.sendFabric_kept
    | split

theorem State.takeDma_kept {s : State} {tile : Nat} {t : Dma} {cut : Option Nat} (hs : s.kept pq pr) :
    (State.takeDma s tile t cut).1.kept pq pr := by
  unfold State.takeDma
  repeat' first
    | with_reducible assumption
    | with_reducible apply State.modTile_kept

theorem State.dmaReach_kept {s : State} {c : Nat} {store : Bool} {ps : List (Nat × Nat × Nat)}
    (hs : s.kept pq pr) : (s.dmaReach c store ps).2.2.kept pq pr := by
  unfold State.dmaReach
  refine foldl_keeps (P := fun acc : List (Nat × Nat × Nat) × Option (Code × Nat) × State => acc.2.2.kept pq pr) ?_ _ hs
  intro acc p h
  split
  · exact h
  · dsimp only
    generalize (if store = true then FabUse.engineStore else FabUse.engineLoad) = u
    split
    · next heq => exact kept_snd heq (State.reachFault_kept h)
    · next heq =>
      have hk := kept_snd heq (State.reachFault_kept h)
      split
      · exact hk
      · exact hk

theorem State.startDma_kept {s : State} {tile entry : Nat} {t : Dma} {seed : Word64 × Word64} {cut : Option Nat}
    (hs : s.kept pq pr) : (s.startDma tile entry t seed cut).kept pq pr := by
  have h1 := fun f => State.fresh_kept (State.modTile_kept (t := tile) (f := f)
    (State.takeDma_kept (tile := tile) (t := t) (cut := cut) hs))
  unfold State.startDma
  dsimp only
  split
  · exact h1 _
  all_goals
    refine kept_foldl (fun s p h => ?_) _ (State.modTile_kept (State.dmaReach_kept (h1 _)))
    exact kept_ite (State.launch_kept h) (State.dmaStore_kept h)

theorem execTileDmaTestWait_kept {tile slot entry : Nat} {wait : Bool} {word : Word64} {s : State}
    (hs : s.kept pq pr) : answersKept pq pr (execTileDmaTestWait tile slot entry wait word s) := by
  refine keeps_next (State.issue_kept hs ?_)
  intro s g p h
  exact kept_ite (State.illegal_kept h)
    (kept_ite (State.finish_kept h) (State.finish_kept h))

theorem execTileDmaStart_kept {tile slot : Nat} {d : DmaSpec} {s : State} (hs : s.kept pq pr) :
    answersKept pq pr (execTileDmaStart tile slot d s) := by
  refine keeps_next (State.issueIf_kept hs ?_)
  intro s g p h
  split
  · exact h
  · split
    · exact h
    · refine kept_ite (State.illegal_kept h) ?_
      split
      · exact State.preciseAt_kept h
      · exact kept_ite (State.finish_kept h) (State.finish_kept (State.startDma_kept h))

theorem State.dmaScatter_kept {s : State} {tile : Nat} {base : Nat} {d : DmaSpec} {data : List Byte} (hs : s.kept pq pr) :
    (State.dmaScatter s tile base d data).kept pq pr := by
  unfold State.dmaScatter
  repeat' first
    | with_reducible assumption
    | with_reducible apply State.scratchWrite_kept
    | with_reducible apply kept_foldl
    | intro _

theorem State.dmaCluster_kept {s : State} {tile : Nat} {t : Dma} {rank : Nat} {off : Nat} (hs : s.kept pq pr) :
    (State.dmaCluster s tile t rank off).kept pq pr := by
  unfold State.dmaCluster
  repeat' first
    | with_reducible assumption
    | with_reducible apply kept_ite
    | with_reducible apply State.dmaScatter_kept
    | split

theorem State.dmaArrive_kept {s : State} {tile : Nat} {t : Dma} {va : Nat} {good : List Access} {seed : Word64 × Word64} (hs : s.kept pq pr) :
    (State.dmaArrive s tile t va good seed).kept pq pr := by
  unfold State.dmaArrive
  repeat' first
    | with_reducible assumption
    | with_reducible apply kept_ite
    | with_reducible apply State.dmaScatter_kept
    | with_reducible apply State.scratchWrite_kept
    | with_reducible apply kept_foldl
    | intro _

theorem State.dmaCount_kept {s : State} {tile : Nat} {t : Dma} {k : Nat} (hs : s.kept pq pr) :
    (State.dmaCount s tile t k).kept pq pr := by
  unfold State.dmaCount
  repeat' first
    | with_reducible assumption
    | with_reducible apply State.modTile_kept

theorem execTileDmaCompletion_kept {tile : Nat} {entry : Nat} {s : State} (hs : s.kept pq pr) :
    answersKept pq pr (execTileDmaCompletion tile entry s) := by
  unfold execTileDmaCompletion
  repeat' first
    | with_reducible assumption
    | with_reducible apply keeps_next
    | with_reducible apply keeps_ite
    | with_reducible apply kept_ite
    | with_reducible apply State.waitWet_kept
    | with_reducible apply State.dmaCluster_kept
    | with_reducible apply State.dmaArrive_kept
    | with_reducible apply State.modTile_kept
    | with_reducible apply State.abortRegion_kept
    | with_reducible apply State.tryReady_kept
    | with_reducible apply State.takeFault_kept
    | with_reducible apply State.dmaCount_kept
    | with_reducible apply State.engineSignal_kept
    | split
    | with_reducible apply kept_mk
    | dsimp only

theorem State.placeBlock_kept {s : State} {tile : Nat} {k : Kernel} {index : Nat} {rank : Nat} {origin : Nat} (hs : s.kept pq pr) :
    (State.placeBlock s tile k index rank origin).kept pq pr := by
  unfold State.placeBlock
  repeat' first
    | with_reducible assumption
    | with_reducible apply State.setTile_kept
    | with_reducible apply State.modKernel_kept
    | with_reducible apply kept_mk

theorem execBlockStart_kept {tile : Nat} {s : State} (hs : s.kept pq pr) :
    answersKept pq pr (execBlockStart tile s) := by
  unfold execBlockStart
  repeat' first
    | with_reducible assumption
    | with_reducible apply keeps_next
    | with_reducible apply keeps_ite
    | with_reducible apply kept_ite
    | with_reducible apply State.waitWet_kept
    | with_reducible apply State.placeBlock_kept
    | with_reducible apply kept_foldl
    | split
    | intro _

theorem execGroupRestore_kept {tile : Nat} {s : State} (hs : s.kept pq pr) :
    answersKept pq pr (execGroupRestore tile s) := by
  unfold execGroupRestore
  repeat' first
    | with_reducible assumption
    | with_reducible apply keeps_next
    | with_reducible apply keeps_ite
    | with_reducible apply kept_ite
    | with_reducible apply State.waitWet_kept
    | with_reducible apply State.setTile_kept
    | with_reducible apply kept_foldl
    | with_reducible apply kept_getD
    | split
    | with_reducible apply kept_mk
    | contradiction
    | dsimp only

end Sys2Proof.Machine
end

