-- ==== Sys2Proof/Laws/KeepsQueues.lean ====
section
/-! SUPPORT. What every command keeps (State.kept): queues and the host port. One lemma per definition that answers with a state. -/

namespace Sys2Proof.Machine

theorem State.checkOverrun_kept {s : State} {c : Nat} {q : Nat} (hs : s.kept pq pr) :
    (State.checkOverrun s c q).kept pq pr := by
  unfold State.checkOverrun
  repeat' first
    | with_reducible assumption
    | with_reducible apply kept_ite
    | with_reducible apply State.takeFault_kept
    | with_reducible apply State.modQueue_kept

theorem State.writeRecord_kept {s : State} {c : Nat} {q : Nat} {d : BitVec 512} {status : Nat} {detail : Nat} {result : Nat} (hs : s.kept pq pr) :
    (State.writeRecord s c q d status detail result).kept pq pr := by
  unfold State.writeRecord
  repeat' first
    | with_reducible assumption
    | with_reducible apply kept_ite
    | with_reducible refine State.writeStruct_kept ?_ _ (by assumption)
    | with_reducible apply State.takeFault_kept
    | split
    | with_reducible apply kept_mk

theorem State.descSend_kept {s : State} {c : Nat} {q : Nat} {kind : SyncKind} {vid : Nat} {v : Word64} {n : Nat} (hs : s.kept pq pr) :
    (State.descSend s c q kind vid v n).kept pq pr := by
  unfold State.descSend
  repeat' first
    | with_reducible assumption
    | with_reducible apply State.engineSignal_kept
    | with_reducible apply State.modQueue_kept
    | split
    | with_reducible apply kept_mk

theorem State.advance_kept {s : State} {c : Nat} {q : Nat} {d : BitVec 512} (hs : s.kept pq pr) :
    (State.advance s c q d).kept pq pr := by
  unfold State.advance
  repeat' first
    | with_reducible assumption
    | with_reducible apply kept_ite
    | with_reducible apply State.modQueue_kept
    | with_reducible refine State.writeStruct_kept ?_ _ (by assumption)
    | with_reducible apply State.takeFault_kept
    | with_reducible apply State.sendMsix_kept
    | with_reducible apply State.checkOverrun_kept
    | split

theorem State.complete_kept {s : State} {c : Nat} {q : Nat} {d : BitVec 512} {status : Nat} {detail : Nat} {result : Nat} {stage : Nat} (hs : s.kept pq pr) :
    (State.complete s c q d status detail result stage).kept pq pr := by
  unfold State.complete
  repeat' first
    | with_reducible assumption
    | with_reducible apply kept_ite
    | with_reducible apply State.writeRecord_kept
    | with_reducible apply State.modQueue_kept
    | with_reducible apply State.descSend_kept
    | with_reducible apply State.advance_kept

theorem State.setWork_kept {s : State} {c : Nat} {q : Nat} {d : BitVec 512} {w : Work} (hs : s.kept pq pr) :
    (State.setWork s c q d w).kept pq pr := by
  unfold State.setWork
  repeat' first
    | with_reducible assumption
    | with_reducible apply State.modQueue_kept

theorem State.descFault_kept {s : State} {c : Nat} {q : Nat} {d : BitVec 512} {code : Code} {detail : Nat} {address : Nat} (hs : s.kept pq pr) :
    (State.descFault s c q d code detail address).kept pq pr := by
  unfold State.descFault
  repeat' first
    | with_reducible assumption
    | with_reducible apply State.takeFault_kept
    | with_reducible apply State.setWork_kept

theorem State.countDiscard_kept {s : State} {f : Nat} (hs : s.kept pq pr) :
    (State.countDiscard s f).kept pq pr := by
  unfold State.countDiscard
  repeat' first
    | with_reducible assumption
    | with_reducible apply State.modFn_kept

theorem State.dropKernel_kept {s : State} {k : Nat} (hs : s.kept pq pr) :
    (State.dropKernel s k).kept pq pr := by
  unfold State.dropKernel
  repeat' first
    | with_reducible assumption
    | with_reducible apply kept_mk

theorem State.startDesc_kept {s : State} {c : Nat} {q : Nat} {d : BitVec 512} {type : Nat} {kind : Option Nat} {zeros : List (Nat × Nat)} {f : State → State} (hs : s.kept pq pr) (hf : ∀ x0, x0.kept pq pr → (f x0).kept pq pr) :
    (State.startDesc s c q d type kind zeros f).kept pq pr := by
  unfold State.startDesc
  repeat' first
    | with_reducible assumption
    | with_reducible apply kept_ite
    | with_reducible apply hf
    | with_reducible apply State.descFault_kept
    | split
    | with_reducible apply kept_mk

theorem State.copyWrite_kept {s : State} {c : Nat} {q : Nat} {va : Nat} {hint : Nat} {d : List Byte} (hs : s.kept pq pr) :
    ∀ t, (State.copyWrite s c q va hint d) = .ok t → t.kept pq pr := by
  unfold State.copyWrite
  intro t ht
  repeat' split at ht
  all_goals cases ht
  all_goals repeat' first
    | with_reducible assumption
    | with_reducible apply State.storeLine_kept
    | with_reducible apply State.hostWrite_kept
    | with_reducible apply State.flushFirst_kept
    | with_reducible apply State.launch_kept
    | with_reducible apply State.sendFabric_kept
    | with_reducible refine kept_snd (by assumption) (State.hostRange_kept ?_)

theorem State.copyScatter_kept {s : State} {c q hint total : Nat} {flag : Bool} {start moved : Nat}
    {parts : List (Nat × Nat)} {data : List Byte} (hs : s.kept pq pr) :
    (s.copyScatter c q hint total flag start moved parts data).2.kept pq pr := by
  unfold State.copyScatter
  refine foldl_keeps (P := fun acc : Nat × CopyRun × State => acc.2.2.kept pq pr) ?_ _ hs
  intro acc p h
  dsimp only
  split
  · exact h
  · split
    · exact h
    · split
      · next heq => exact State.copyWrite_kept h _ heq
      · exact h

theorem State.structFault_kept {s : State} {c : Nat} {q : Nat} {d : BitVec 512} {field : Nat} {a : StructErr} (hs : s.kept pq pr) :
    (State.structFault s c q d field a).kept pq pr := by
  unfold State.structFault
  repeat' first
    | with_reducible assumption
    | with_reducible apply State.descFault_kept
    | split

theorem execSlotGrant_kept {s : State} (hs : s.kept pq pr) :
    answersKept pq pr (execSlotGrant s) := by
  unfold execSlotGrant
  repeat' first
    | with_reducible assumption
    | with_reducible apply keeps_next
    | with_reducible apply keeps_ite
    | with_reducible apply State.modCtx_kept
    | split
    | with_reducible apply kept_mk

theorem execDescSignal_kept {ctx : Nat} {queue : Nat} {desc : BitVec 512} {s : State} (hs : s.kept pq pr) :
    answersKept pq pr (execDescSignal ctx queue desc s) := by
  unfold execDescSignal
  repeat' first
    | with_reducible assumption
    | with_reducible apply keeps_next
    | with_reducible apply State.startDesc_kept
    | with_reducible apply State.descFault_kept
    | with_reducible apply State.writeRecord_kept
    | with_reducible apply State.setWork_kept
    | with_reducible apply State.descSend_kept
    | split
    | dsimp only
    | intro _

theorem execDescSetStep_kept {ctx : Nat} {queue : Nat} {desc : BitVec 512} {s : State} (hs : s.kept pq pr) :
    answersKept pq pr (execDescSetStep ctx queue desc s) := by
  unfold execDescSetStep
  repeat' first
    | with_reducible assumption
    | with_reducible apply keeps_next
    | with_reducible apply State.startDesc_kept
    | with_reducible apply State.setWork_kept
    | with_reducible apply State.stepBoundary_kept
    | with_reducible apply State.modCtx_kept
    | intro _

theorem execQuantumExpiry_kept {ctx : Nat} {s : State} (hs : s.kept pq pr) :
    answersKept pq pr (execQuantumExpiry ctx s) := by
  unfold execQuantumExpiry
  repeat' first
    | with_reducible assumption
    | with_reducible apply keeps_next
    | with_reducible apply keeps_ite
    | with_reducible apply State.modCtx_kept

theorem State.completeKernel_kept {s : State} {c : Nat} {q : Nat} {d : BitVec 512} {k : Kernel} (hs : s.kept pq pr) :
    (State.completeKernel s c q d k).kept pq pr := by
  unfold State.completeKernel
  repeat' first
    | with_reducible assumption
    | with_reducible apply kept_ite
    | with_reducible apply State.fresh_kept
    | with_reducible apply State.modKernel_kept
    | with_reducible apply State.complete_kept
    | with_reducible apply State.dropKernel_kept
    | with_reducible apply kept_mk

theorem execDescriptorCompletion_kept {ctx : Nat} {queue : Nat} {s : State} (hs : s.kept pq pr) :
    answersKept pq pr (execDescriptorCompletion ctx queue s) := by
  unfold execDescriptorCompletion
  repeat' first
    | with_reducible assumption
    | with_reducible apply keeps_next
    | with_reducible apply State.dropKernel_kept
    | with_reducible apply State.complete_kept
    | with_reducible apply State.completeKernel_kept
    | with_reducible apply kept_foldl
    | split
    | with_reducible apply kept_mk
    | dsimp only
    | intro _

theorem State.copyNote_kept {s : State} {c : Nat} {q : Nat} {k : CopyDesc} {loads : List Access} {stop : Option (Code × Nat)} {step : Word64} {seed : Word64} {r : CopyRun} (hs : s.kept pq pr) :
    (State.copyNote s c q k loads stop step seed r).kept pq pr := by
  unfold State.copyNote
  repeat' first
    | with_reducible assumption
    | with_reducible apply State.takeFault_kept
    | with_reducible apply State.modQueue_kept
    | split

theorem copyAfter_kept {c q : Nat} {k : CopyDesc} {loads : List Access} {data : List Byte} {stop : Option (Code × Nat)}
    {step seed : Word64} {x : CopyRun × State} (hx : x.2.kept pq pr) :
    (copyAfter c q k loads data stop step seed x).kept pq pr :=
  kept_ite (State.modQueue_kept hx) (State.copyNote_kept (kept_mk (kept_ite hx (State.emit_kept hx))))

theorem execDoorbellWrite_kept {fn : Nat} {offset : Nat} {size : Nat} {value : Word64} {s : State} (hs : s.kept pq pr) :
    answersKept pq pr (execDoorbellWrite fn offset size value s) := by
  unfold execDoorbellWrite
  repeat' first
    | with_reducible assumption
    | with_reducible apply keeps_next
    | with_reducible apply keeps_ite
    | with_reducible apply kept_ite
    | with_reducible apply State.countDiscard_kept
    | with_reducible apply State.modQueue_kept
    | with_reducible apply State.becomePending_kept
    | with_reducible apply State.checkOverrun_kept
    | split
    | dsimp only

theorem execDescNop_kept {ctx : Nat} {queue : Nat} {desc : BitVec 512} {s : State} (hs : s.kept pq pr) :
    answersKept pq pr (execDescNop ctx queue desc s) := by
  unfold execDescNop
  repeat' first
    | with_reducible assumption
    | with_reducible apply keeps_next
    | with_reducible apply State.startDesc_kept
    | with_reducible apply State.setWork_kept
    | intro _

theorem execDescCopy_kept {ctx : Nat} {queue : Nat} {desc : BitVec 512} {s : State} (hs : s.kept pq pr) :
    answersKept pq pr (execDescCopy ctx queue desc s) := by
  unfold execDescCopy
  repeat' first
    | with_reducible assumption
    | with_reducible apply keeps_next
    | with_reducible apply State.startDesc_kept
    | with_reducible apply State.descFault_kept
    | with_reducible apply State.setWork_kept
    | split
    | dsimp only
    | intro _

theorem State.copyRead_kept {s : State} {c q hint : Nat} {parts : List (Nat × Nat)} (hs : s.kept pq pr) :
    (s.copyRead c q hint parts).2.kept pq pr := by
  unfold State.copyRead
  refine foldl_keeps (P := fun acc : Option (Code × Nat) × State => acc.2.kept pq pr) ?_ _ hs
  intro acc p h
  split
  · exact h
  · split
    · next heq => exact kept_snd heq (State.reachFault_kept h)
    · next heq => exact State.launch_kept (kept_snd heq (State.reachFault_kept h))

theorem State.copyEnd_kept {s : State} {c q : Nat} {d : BitVec 512} {moved : Nat} {stop : Option (Code × Nat)}
    {step seed : Word64} (hs : s.kept pq pr) : (s.copyEnd c q d moved stop step seed).kept pq pr := by
  unfold State.copyEnd
  exact copyAfter_kept (State.copyScatter_kept hs)

theorem execCopySegment_kept {s : State} (hs : s.kept pq pr) : answersKept pq pr (execCopySegment s) := by
  unfold execCopySegment
  split
  · exact keeps_next hs
  · dsimp only
    split
    · refine keeps_ite (keeps_ite ?_ ?_) (keeps_ite (keeps_next hs) ?_)
      · exact keeps_next (State.copyEnd_kept (State.copyRead_kept hs))
      · exact keeps_next (State.modQueue_kept (State.copyRead_kept hs))
      · exact keeps_next (State.copyEnd_kept hs)
    · exact keeps_next hs

theorem State.launchKernel_kept {s : State} {k : Kernel} (hs : s.kept pq pr) :
    (State.launchKernel s k).kept pq pr := by
  unfold State.launchKernel
  repeat' first
    | with_reducible assumption
    | with_reducible apply State.fresh_kept
    | with_reducible apply State.modTile_kept
    | with_reducible apply kept_foldl
    | with_reducible apply kept_mk
    | intro _

theorem execDescCompute_kept {ctx : Nat} {queue : Nat} {desc : BitVec 512} {s : State} (hs : s.kept pq pr) :
    answersKept pq pr (execDescCompute ctx queue desc s) := by
  unfold execDescCompute
  repeat' first
    | with_reducible assumption
    | with_reducible apply keeps_next
    | with_reducible apply State.startDesc_kept
    | with_reducible apply State.structFault_kept
    | with_reducible apply State.descFault_kept
    | with_reducible apply State.setWork_kept
    | with_reducible apply State.launchKernel_kept
    | with_reducible refine kept_snd (by assumption) (State.readStruct_kept ?_)
    | split
    | dsimp only
    | intro _

theorem execDescWait_kept {ctx : Nat} {queue : Nat} {desc : BitVec 512} {s : State} (hs : s.kept pq pr) :
    answersKept pq pr (execDescWait ctx queue desc s) := by
  unfold execDescWait
  repeat' first
    | with_reducible assumption
    | with_reducible apply keeps_next
    | with_reducible apply State.startDesc_kept
    | with_reducible apply State.descFault_kept
    | with_reducible apply State.countWaitDenied_kept
    | with_reducible apply State.setWork_kept
    | with_reducible apply State.modSync_kept
    | with_reducible apply State.fresh_kept
    | split
    | dsimp only
    | intro _

theorem execDescArrive_kept {ctx : Nat} {queue : Nat} {desc : BitVec 512} {s : State} (hs : s.kept pq pr) :
    answersKept pq pr (execDescArrive ctx queue desc s) := by
  unfold execDescArrive
  repeat' first
    | with_reducible assumption
    | with_reducible apply keeps_next
    | with_reducible apply State.startDesc_kept
    | with_reducible apply State.descFault_kept
    | with_reducible apply State.setWork_kept
    | with_reducible apply State.descSend_kept
    | with_reducible apply State.modQueue_kept
    | split
    | dsimp only
    | intro _

theorem execSlotGiveUp_kept {ctx : Nat} {s : State} (hs : s.kept pq pr) :
    answersKept pq pr (execSlotGiveUp ctx s) := by
  unfold execSlotGiveUp
  repeat' first
    | with_reducible assumption
    | with_reducible apply keeps_next
    | with_reducible apply keeps_ite
    | with_reducible apply State.modCtx_kept
    | with_reducible apply kept_mk

theorem State.adminDone_kept {s : State} {f : Nat} {d : BitVec 512} {status detail result : Nat} (hs : s.kept pq pr) :
    (s.adminDone f d status detail result).kept pq pr := by
  unfold State.adminDone
  have h1 : ∀ r : List Byte, State.kept pq pr
      (match s.hostRange (fnSpace f) (dCrAddr d) 32 with
        | (ok, s) => if ok = true then s.hostWrite (fnSpace f) (dCrAddr d) r else s) := by
    intro r
    split
    · next heq =>
      have h := kept_snd heq (State.hostRange_kept hs)
      exact kept_ite (State.hostWrite_kept h) h
  have h2 := kept_ite (c := ((!dCr d) = true ∨ dCrAddr d % 32 ≠ 0)) hs
    (h1 (recordBytes status (dTag d) (aCtx d) 0xF detail (s.fn f).c result s.tick))
  exact kept_ite (State.sendMsix_kept (State.modFn_kept h2)) (State.modFn_kept h2)

theorem State.admin_kept {s : State} {f : Nat} {d : BitVec 512} {type : Nat} {pfOnly : Bool}
    {g : State → Nat → Except Nat (State × Nat)} (hs : s.kept pq pr)
    (hg : ∀ x c, x.kept pq pr → ∀ t a, g x c = .ok (t, a) → t.kept pq pr) : (s.admin f d type pfOnly g).kept pq pr := by
  unfold State.admin
  dsimp only
  split
  · exact hs
  · split
    · exact State.adminDone_kept hs
    · split
      · exact State.adminDone_kept hs
      · next heq => exact State.adminDone_kept (hg _ _ hs _ _ heq)

theorem State.readDigest_kept {s : State} {f : Nat} {iova : Nat} (hs : s.kept pq pr) :
    (State.readDigest s f iova).2.kept pq pr := by
  unfold State.readDigest
  repeat' first
    | with_reducible assumption
    | with_reducible refine kept_snd (by assumption) (State.hostRange_kept ?_)
    | split

theorem doReclaim_kept {fn : Nat} {desc : BitVec 512} {s : State} (hs : s.kept pq pr) :
    (doReclaim fn desc s).kept pq pr := by
  refine State.admin_kept hs ?_
  intro s c hs t a ht
  try dsimp only at ht
  split at ht
  · cases ht
  · split at ht
    · cases ht
    · next heq =>
      cases ht
      exact kept_mk (kept_snd heq (State.readDigest_kept hs))

theorem State.holdBack_kept {s : State} {i : Instr} (hs : s.kept pq pr) :
    (State.holdBack s i).kept pq pr := by
  unfold State.holdBack
  repeat' first
    | with_reducible assumption
    | with_reducible apply kept_mk

theorem doCtxCreate_kept {fn : Nat} {desc : BitVec 512} {s : State} (hs : s.kept pq pr) :
    (doCtxCreate fn desc s).kept pq pr := by
  refine State.admin_kept hs ?_
  intro s c hs t a ht
  try dsimp only at ht
  split at ht
  · cases ht
  · split at ht
    · cases ht
    · split at ht
      · cases ht
      · cases ht
      · next heq =>
        cases ht
        exact State.setCtx_kept (kept_snd heq (State.readDigest_kept hs))

theorem State.ctxSet_kept {s : State} {fn : Nat} {desc : BitVec 512} {code : Nat} {useD : Bool}
    {g : State → Nat → Except Nat (Ctx → Ctx)} (hs : s.kept pq pr) : (s.ctxSet fn desc code useD g).kept pq pr := by
  refine State.admin_kept hs ?_
  intro s c hs t a ht
  try dsimp only at ht
  (repeat' split at ht) <;> cases ht
  exact State.modCtx_kept hs

theorem doCtxSetStep_kept {fn : Nat} {desc : BitVec 512} {s : State} (hs : s.kept pq pr) :
    (doCtxSetStep fn desc s).kept pq pr := by
  unfold doCtxSetStep
  repeat' first
    | with_reducible assumption
    | with_reducible apply State.ctxSet_kept

theorem doCtxSetFlags_kept {fn : Nat} {desc : BitVec 512} {s : State} (hs : s.kept pq pr) :
    (doCtxSetFlags fn desc s).kept pq pr := by
  unfold doCtxSetFlags
  repeat' first
    | with_reducible assumption
    | with_reducible apply State.ctxSet_kept

theorem doCtxSetWaitWdog_kept {fn : Nat} {desc : BitVec 512} {s : State} (hs : s.kept pq pr) :
    (doCtxSetWaitWdog fn desc s).kept pq pr := by
  unfold doCtxSetWaitWdog
  repeat' first
    | with_reducible assumption
    | with_reducible apply State.ctxSet_kept

theorem doCtxSetQuantum_kept {fn : Nat} {desc : BitVec 512} {s : State} (hs : s.kept pq pr) :
    (doCtxSetQuantum fn desc s).kept pq pr := by
  unfold doCtxSetQuantum
  repeat' first
    | with_reducible assumption
    | with_reducible apply State.ctxSet_kept

theorem doCtxSetWatchRing_kept {fn : Nat} {desc : BitVec 512} {s : State} (hs : s.kept pq pr) :
    (doCtxSetWatchRing fn desc s).kept pq pr := by
  unfold doCtxSetWatchRing
  repeat' first
    | with_reducible assumption
    | with_reducible apply State.ctxSet_kept

theorem doCtxSetSyncMap_kept {fn : Nat} {desc : BitVec 512} {s : State} (hs : s.kept pq pr) :
    (doCtxSetSyncMap fn desc s).kept pq pr :=
  State.ctxSet_kept hs

theorem doCtxSetHeap_kept {fn : Nat} {desc : BitVec 512} {s : State} (hs : s.kept pq pr) :
    (doCtxSetHeap fn desc s).kept pq pr := by
  unfold doCtxSetHeap
  repeat' first
    | with_reducible assumption
    | with_reducible apply State.ctxSet_kept

theorem doCtxSetFaultClear_kept {fn : Nat} {desc : BitVec 512} {s : State} (hs : s.kept pq pr) :
    (doCtxSetFaultClear fn desc s).kept pq pr := by
  unfold doCtxSetFaultClear
  repeat' first
    | with_reducible assumption
    | with_reducible apply State.ctxSet_kept

theorem doCtxReset_kept {fn : Nat} {desc : BitVec 512} {s : State} (hs : s.kept pq pr) :
    (doCtxReset fn desc s).kept pq pr := by
  refine State.admin_kept hs ?_
  intro s c hs t a ht
  cases ok_of_ite ht
  exact State.resetCtx_kept hs

theorem doCtxDestroy_kept {fn : Nat} {desc : BitVec 512} {s : State} (hs : s.kept pq pr) :
    (doCtxDestroy fn desc s).kept pq pr := by
  refine State.admin_kept hs ?_
  intro s c hs t a ht
  try dsimp only at ht
  split at ht <;> cases ht
  exact State.destroyCtx_kept hs

theorem doQueueCreate_kept {fn : Nat} {desc : BitVec 512} {s : State} (hs : s.kept pq pr) :
    (doQueueCreate fn desc s).kept pq pr := by
  refine State.admin_kept hs ?_
  intro s c hs t a ht
  cases ok_of_ite (ok_of_ite (ok_of_ite (ok_of_ite (ok_of_ite ht))))
  exact State.modQueue_kept hs

theorem doQueueDestroy_kept {fn : Nat} {desc : BitVec 512} {s : State} (hs : s.kept pq pr) :
    (doQueueDestroy fn desc s).kept pq pr := by
  refine State.admin_kept hs ?_
  intro s c hs t a ht
  cases ok_of_ite (ok_of_ite (ok_of_ite ht))
  exact State.modQueue_kept hs

theorem State.resumeCtx_kept {s : State} {c : Nat} (hs : s.kept pq pr) :
    (State.resumeCtx s c).kept pq pr := by
  unfold State.resumeCtx
  repeat' first
    | with_reducible assumption
    | with_reducible apply kept_ite
    | with_reducible apply State.modCtx_kept
    | with_reducible apply State.becomePending_kept

theorem doQueueRestart_kept {fn : Nat} {desc : BitVec 512} {s : State} (hs : s.kept pq pr) :
    (doQueueRestart fn desc s).kept pq pr := by
  refine State.admin_kept hs ?_
  intro s c hs t a ht
  have h := ok_of_ite (ok_of_ite (ok_of_ite ht))
  cases h
  refine State.resumeCtx_kept (State.modQueue_kept ?_)
  split
  · exact kept_ite (State.complete_kept hs) hs
  · exact hs

theorem doObjAlloc_kept {fn : Nat} {desc : BitVec 512} {s : State} (hs : s.kept pq pr) :
    (doObjAlloc fn desc s).kept pq pr := by
  refine State.admin_kept hs ?_
  intro s c hs t a ht
  have h := ok_of_ite (ok_of_ite ht)
  split at h
  · cases h
    exact kept_mk (State.zeroRange_kept (State.drawn_kept hs))
  · cases h

theorem State.dropOrphans_kept {s : State} (hs : s.kept pq pr) :
    (State.dropOrphans s).kept pq pr := by
  unfold State.dropOrphans
  repeat' first
    | with_reducible assumption
    | with_reducible apply kept_mk

theorem doObjFree_kept {fn : Nat} {desc : BitVec 512} {s : State} (hs : s.kept pq pr) :
    (doObjFree fn desc s).kept pq pr := by
  refine State.admin_kept hs ?_
  intro s c hs t a ht
  try dsimp only at ht
  split at ht <;> cases ht
  exact State.dropOrphans_kept (State.modObj_kept hs)

theorem doMapPages_kept {fn : Nat} {desc : BitVec 512} {s : State} (hs : s.kept pq pr) :
    (doMapPages fn desc s).kept pq pr := by
  refine State.admin_kept hs ?_
  intro s c hs t a ht
  have h := ok_of_ite (ok_of_ite (ok_of_ite (ok_of_ite ht)))
  split at h
  · cases h
  · have h2 := ok_of_ite h
    split at h2
    · cases h2
      exact hs
    · cases h2
      exact State.modCtx_kept hs

theorem doUnmapPages_kept {fn : Nat} {desc : BitVec 512} {s : State} (hs : s.kept pq pr) :
    (doUnmapPages fn desc s).kept pq pr := by
  refine State.admin_kept hs ?_
  intro s c hs t a ht
  cases ok_of_ite (ok_of_ite (ok_of_ite ht))
  exact State.dropOrphans_kept (State.modCtx_kept hs)

theorem doSlotSet_kept {fn : Nat} {desc : BitVec 512} {s : State} (hs : s.kept pq pr) :
    (doSlotSet fn desc s).kept pq pr := by
  refine State.admin_kept hs ?_
  intro s c hs t a ht
  cases ok_of_ite (ok_of_ite (ok_of_ite (ok_of_ite ht)))
  exact State.modCtx_kept hs

theorem doSyncAlloc_kept {fn : Nat} {desc : BitVec 512} {barrier : Bool} {value : Word64} {expected : Nat}
    {s : State} (hs : s.kept pq pr) : (doSyncAlloc fn desc barrier value expected s).kept pq pr := by
  refine State.admin_kept hs ?_
  intro s c hs t a ht
  have h := ok_of_ite (ok_of_ite (ok_of_ite ht))
  split at h
  · cases h
  · cases h
    exact State.setSyncObj_kept (State.drawn_kept hs)

theorem doSyncFree_kept {fn : Nat} {desc : BitVec 512} {index : Nat} {s : State} (hs : s.kept pq pr) :
    (doSyncFree fn desc index s).kept pq pr := by
  refine State.admin_kept hs ?_
  intro s c hs t a ht
  cases ok_of_ite (ok_of_ite (ok_of_ite ht))
  exact State.setSyncObj_kept (kept_foldl (fun s e h => State.unshare_kept h) _ hs)

theorem doSyncMapSet_kept {fn : Nat} {desc : BitVec 512} {vid : Nat} {entry : BitVec 128} {s : State}
    (hs : s.kept pq pr) : (doSyncMapSet fn desc vid entry s).kept pq pr := by
  refine State.admin_kept hs ?_
  intro s c hs t a ht
  cases ok_of_ite (ok_of_ite ht)
  exact State.storeBytes_kept hs

theorem doShareExport_kept {fn : Nat} {desc : BitVec 512} {index : Nat} {grants : List Grant} {s : State}
    (hs : s.kept pq pr) : (doShareExport fn desc index grants s).kept pq pr := by
  refine State.admin_kept hs ?_
  intro s c hs t a ht
  have h := ok_of_ite (ok_of_ite (ok_of_ite ht))
  split at h
  · cases h
  · cases h
    exact State.setSyncObj_kept (State.modSync_kept (State.drawn_kept hs))

theorem doShareUnexport_kept {fn : Nat} {desc : BitVec 512} {handle : Nat} {s : State} (hs : s.kept pq pr) :
    (doShareUnexport fn desc handle s).kept pq pr := by
  refine State.admin_kept hs ?_
  intro s c hs t a ht
  have h := ok_of_ite (ok_of_ite ht)
  cases h
  exact State.unshare_kept hs

theorem doApertureAdd_kept {fn : Nat} {desc : BitVec 512} {s : State} (hs : s.kept pq pr) :
    (doApertureAdd fn desc s).kept pq pr := by
  refine State.admin_kept hs ?_
  intro s c hs t a ht
  have h := ok_of_ite ht
  split at h
  · cases h
  · cases ok_of_ite (ok_of_ite (ok_of_ite h))
    exact State.modObj_kept hs

theorem doApertureRemove_kept {fn : Nat} {desc : BitVec 512} {s : State} (hs : s.kept pq pr) :
    (doApertureRemove fn desc s).kept pq pr := by
  refine State.admin_kept hs ?_
  intro s c hs t a ht
  try dsimp only at ht
  (repeat' split at ht) <;> cases ht
  exact State.dropOrphans_kept (State.modObj_kept hs)

theorem State.enableVfs_kept {s : State} {b : Nat} (hs : s.kept pq pr) :
    (State.enableVfs s b).kept pq pr := by
  unfold State.enableVfs
  repeat' first
    | with_reducible assumption
    | with_reducible apply State.modFn_kept
    | with_reducible apply kept_foldl
    | with_reducible apply kept_mk
    | intro _

theorem doFnAssign_kept {fn : Nat} {desc : BitVec 512} {s : State} (hs : s.kept pq pr) :
    (doFnAssign fn desc s).kept pq pr := by
  refine State.admin_kept hs ?_
  intro s c hs t a ht
  try dsimp only at ht
  (repeat' split at ht) <;> cases ht
  exact State.modCtx_kept (State.modFn_kept (State.enableVfs_kept hs))

theorem State.runAdmin_kept {s : State} {i : Instr} (hs : s.kept pq pr) :
    (State.runAdmin s i).kept pq pr := by
  unfold State.runAdmin
  repeat' first
    | with_reducible assumption
    | with_reducible apply doCtxCreate_kept
    | with_reducible apply doCtxSetStep_kept
    | with_reducible apply doCtxSetFlags_kept
    | with_reducible apply doCtxSetWaitWdog_kept
    | with_reducible apply doCtxSetQuantum_kept
    | with_reducible apply doCtxSetWatchRing_kept
    | with_reducible apply doCtxSetSyncMap_kept
    | with_reducible apply doCtxSetHeap_kept
    | with_reducible apply doCtxSetFaultClear_kept
    | with_reducible apply doCtxReset_kept
    | with_reducible apply doCtxDestroy_kept
    | with_reducible apply doQueueCreate_kept
    | with_reducible apply doQueueDestroy_kept
    | with_reducible apply doQueueRestart_kept
    | with_reducible apply doObjAlloc_kept
    | with_reducible apply doObjFree_kept
    | with_reducible apply doMapPages_kept
    | with_reducible apply doUnmapPages_kept
    | with_reducible apply doSlotSet_kept
    | with_reducible apply doSyncAlloc_kept
    | with_reducible apply doSyncFree_kept
    | with_reducible apply doSyncMapSet_kept
    | with_reducible apply doShareExport_kept
    | with_reducible apply doShareUnexport_kept
    | with_reducible apply doApertureAdd_kept
    | with_reducible apply doApertureRemove_kept
    | with_reducible apply doReclaim_kept
    | with_reducible apply doFnAssign_kept
    | split

theorem State.adminStep_kept {s : State} {i : Instr} (hs : s.kept pq pr) :
    (State.adminStep s i).kept pq pr := by
  unfold State.adminStep
  repeat' first
    | with_reducible assumption
    | with_reducible apply kept_ite
    | with_reducible apply State.holdBack_kept
    | with_reducible apply State.runAdmin_kept

theorem State.retryHeld_kept {s : State} (hs : s.kept pq pr) :
    (State.retryHeld s).kept pq pr := by
  unfold State.retryHeld
  repeat' first
    | with_reducible assumption
    | with_reducible apply kept_ite
    | with_reducible apply State.adminStep_kept
    | with_reducible apply kept_foldl
    | with_reducible apply kept_mk

theorem State.adminNow_kept {s : State} {i : Instr} {f : State → State} (hs : s.kept pq pr) (hf : ∀ x0, x0.kept pq pr → (f x0).kept pq pr) :
    answersKept pq pr (State.adminNow s i f) := by
  unfold State.adminNow
  repeat' first
    | with_reducible assumption
    | with_reducible apply kept_ite
    | with_reducible apply hf
    | with_reducible apply State.orDefer_kept
    | with_reducible apply State.retryHeld_kept
    | with_reducible apply State.holdBack_kept

theorem execCtxCreate_kept {fn : Nat} {desc : BitVec 512} {s : State} (hs : s.kept pq pr) :
    answersKept pq pr (execCtxCreate fn desc s) := by
  unfold execCtxCreate
  repeat' first
    | with_reducible assumption
    | with_reducible apply State.adminNow_kept
    | with_reducible apply doCtxCreate_kept

theorem execReclaim_kept {fn : Nat} {desc : BitVec 512} {s : State} (hs : s.kept pq pr) :
    answersKept pq pr (execReclaim fn desc s) := by
  unfold execReclaim
  repeat' first
    | with_reducible assumption
    | with_reducible apply State.adminNow_kept
    | with_reducible apply doReclaim_kept

theorem execCtxDestroy_kept {fn : Nat} {desc : BitVec 512} {s : State} (hs : s.kept pq pr) :
    answersKept pq pr (execCtxDestroy fn desc s) := by
  unfold execCtxDestroy
  repeat' first
    | with_reducible assumption
    | with_reducible apply State.adminNow_kept
    | with_reducible apply doCtxDestroy_kept

theorem execCtxSetSyncMap_kept {fn : Nat} {desc : BitVec 512} {s : State} (hs : s.kept pq pr) :
    answersKept pq pr (execCtxSetSyncMap fn desc s) := by
  unfold execCtxSetSyncMap
  repeat' first
    | with_reducible assumption
    | with_reducible apply State.adminNow_kept
    | with_reducible apply doCtxSetSyncMap_kept

theorem execCtxSetQuantum_kept {fn : Nat} {desc : BitVec 512} {s : State} (hs : s.kept pq pr) :
    answersKept pq pr (execCtxSetQuantum fn desc s) := by
  unfold execCtxSetQuantum
  repeat' first
    | with_reducible assumption
    | with_reducible apply State.adminNow_kept
    | with_reducible apply doCtxSetQuantum_kept

theorem doAdminDoorbell_kept {fn : Nat} {size : Nat} {value : Word64} {s : State} (hs : s.kept pq pr) :
    (doAdminDoorbell fn size value s).kept pq pr := by
  unfold doAdminDoorbell
  repeat' first
    | with_reducible assumption
    | with_reducible apply kept_ite
    | with_reducible apply State.countDiscard_kept
    | with_reducible apply State.modFn_kept
    | split

theorem execObjFree_kept {fn : Nat} {desc : BitVec 512} {s : State} (hs : s.kept pq pr) :
    answersKept pq pr (execObjFree fn desc s) := by
  unfold execObjFree
  repeat' first
    | with_reducible assumption
    | with_reducible apply State.adminNow_kept
    | with_reducible apply doObjFree_kept

theorem execShareUnexport_kept {fn : Nat} {desc : BitVec 512} {handle : Nat} {s : State} (hs : s.kept pq pr) :
    answersKept pq pr (execShareUnexport fn desc handle s) := by
  unfold execShareUnexport
  repeat' first
    | with_reducible assumption
    | with_reducible apply State.adminNow_kept
    | with_reducible apply doShareUnexport_kept

theorem execCtxSetHeap_kept {fn : Nat} {desc : BitVec 512} {s : State} (hs : s.kept pq pr) :
    answersKept pq pr (execCtxSetHeap fn desc s) := by
  unfold execCtxSetHeap
  repeat' first
    | with_reducible assumption
    | with_reducible apply State.adminNow_kept
    | with_reducible apply doCtxSetHeap_kept

theorem execCtxSetFlags_kept {fn : Nat} {desc : BitVec 512} {s : State} (hs : s.kept pq pr) :
    answersKept pq pr (execCtxSetFlags fn desc s) := by
  unfold execCtxSetFlags
  repeat' first
    | with_reducible assumption
    | with_reducible apply State.adminNow_kept
    | with_reducible apply doCtxSetFlags_kept

theorem execShareExport_kept {fn : Nat} {desc : BitVec 512} {index : Nat} {grants : List Grant} {s : State} (hs : s.kept pq pr) :
    answersKept pq pr (execShareExport fn desc index grants s) := by
  unfold execShareExport
  repeat' first
    | with_reducible assumption
    | with_reducible apply State.adminNow_kept
    | with_reducible apply doShareExport_kept

theorem execSlotSet_kept {fn : Nat} {desc : BitVec 512} {s : State} (hs : s.kept pq pr) :
    answersKept pq pr (execSlotSet fn desc s) := by
  unfold execSlotSet
  repeat' first
    | with_reducible assumption
    | with_reducible apply State.adminNow_kept
    | with_reducible apply doSlotSet_kept

theorem execObjAlloc_kept {fn : Nat} {desc : BitVec 512} {s : State} (hs : s.kept pq pr) :
    answersKept pq pr (execObjAlloc fn desc s) := by
  unfold execObjAlloc
  repeat' first
    | with_reducible assumption
    | with_reducible apply State.adminNow_kept
    | with_reducible apply doObjAlloc_kept

theorem execApertureAdd_kept {fn : Nat} {desc : BitVec 512} {s : State} (hs : s.kept pq pr) :
    answersKept pq pr (execApertureAdd fn desc s) := by
  unfold execApertureAdd
  repeat' first
    | with_reducible assumption
    | with_reducible apply State.adminNow_kept
    | with_reducible apply doApertureAdd_kept

theorem execFnAssign_kept {fn : Nat} {desc : BitVec 512} {s : State} (hs : s.kept pq pr) :
    answersKept pq pr (execFnAssign fn desc s) := by
  unfold execFnAssign
  repeat' first
    | with_reducible assumption
    | with_reducible apply State.adminNow_kept
    | with_reducible apply doFnAssign_kept

theorem execQueueCreate_kept {fn : Nat} {desc : BitVec 512} {s : State} (hs : s.kept pq pr) :
    answersKept pq pr (execQueueCreate fn desc s) := by
  unfold execQueueCreate
  repeat' first
    | with_reducible assumption
    | with_reducible apply State.adminNow_kept
    | with_reducible apply doQueueCreate_kept

theorem execAdminDoorbell_kept {fn : Nat} {size : Nat} {value : Word64} {s : State} (hs : s.kept pq pr) :
    answersKept pq pr (execAdminDoorbell fn size value s) := by
  unfold execAdminDoorbell
  repeat' first
    | with_reducible assumption
    | with_reducible apply keeps_next
    | with_reducible apply doAdminDoorbell_kept

theorem execCtxSetStep_kept {fn : Nat} {desc : BitVec 512} {s : State} (hs : s.kept pq pr) :
    answersKept pq pr (execCtxSetStep fn desc s) := by
  unfold execCtxSetStep
  repeat' first
    | with_reducible assumption
    | with_reducible apply State.adminNow_kept
    | with_reducible apply doCtxSetStep_kept

theorem execCtxSetWaitWdog_kept {fn : Nat} {desc : BitVec 512} {s : State} (hs : s.kept pq pr) :
    answersKept pq pr (execCtxSetWaitWdog fn desc s) := by
  unfold execCtxSetWaitWdog
  repeat' first
    | with_reducible assumption
    | with_reducible apply State.adminNow_kept
    | with_reducible apply doCtxSetWaitWdog_kept

theorem execCtxSetWatchRing_kept {fn : Nat} {desc : BitVec 512} {s : State} (hs : s.kept pq pr) :
    answersKept pq pr (execCtxSetWatchRing fn desc s) := by
  unfold execCtxSetWatchRing
  repeat' first
    | with_reducible assumption
    | with_reducible apply State.adminNow_kept
    | with_reducible apply doCtxSetWatchRing_kept

theorem execCtxSetFaultClear_kept {fn : Nat} {desc : BitVec 512} {s : State} (hs : s.kept pq pr) :
    answersKept pq pr (execCtxSetFaultClear fn desc s) := by
  unfold execCtxSetFaultClear
  repeat' first
    | with_reducible assumption
    | with_reducible apply State.adminNow_kept
    | with_reducible apply doCtxSetFaultClear_kept

theorem execCtxReset_kept {fn : Nat} {desc : BitVec 512} {s : State} (hs : s.kept pq pr) :
    answersKept pq pr (execCtxReset fn desc s) := by
  unfold execCtxReset
  repeat' first
    | with_reducible assumption
    | with_reducible apply State.adminNow_kept
    | with_reducible apply doCtxReset_kept

theorem execQueueDestroy_kept {fn : Nat} {desc : BitVec 512} {s : State} (hs : s.kept pq pr) :
    answersKept pq pr (execQueueDestroy fn desc s) := by
  unfold execQueueDestroy
  repeat' first
    | with_reducible assumption
    | with_reducible apply State.adminNow_kept
    | with_reducible apply doQueueDestroy_kept

theorem execQueueRestart_kept {fn : Nat} {desc : BitVec 512} {s : State} (hs : s.kept pq pr) :
    answersKept pq pr (execQueueRestart fn desc s) := by
  unfold execQueueRestart
  repeat' first
    | with_reducible assumption
    | with_reducible apply State.adminNow_kept
    | with_reducible apply doQueueRestart_kept

theorem execMapPages_kept {fn : Nat} {desc : BitVec 512} {s : State} (hs : s.kept pq pr) :
    answersKept pq pr (execMapPages fn desc s) := by
  unfold execMapPages
  repeat' first
    | with_reducible assumption
    | with_reducible apply State.adminNow_kept
    | with_reducible apply doMapPages_kept

theorem execUnmapPages_kept {fn : Nat} {desc : BitVec 512} {s : State} (hs : s.kept pq pr) :
    answersKept pq pr (execUnmapPages fn desc s) := by
  unfold execUnmapPages
  repeat' first
    | with_reducible assumption
    | with_reducible apply State.adminNow_kept
    | with_reducible apply doUnmapPages_kept

theorem execSyncAlloc_kept {fn : Nat} {desc : BitVec 512} {barrier : Bool} {value : Word64} {expected : Nat} {s : State} (hs : s.kept pq pr) :
    answersKept pq pr (execSyncAlloc fn desc barrier value expected s) := by
  unfold execSyncAlloc
  repeat' first
    | with_reducible assumption
    | with_reducible apply State.adminNow_kept
    | with_reducible apply doSyncAlloc_kept

theorem execSyncFree_kept {fn : Nat} {desc : BitVec 512} {index : Nat} {s : State} (hs : s.kept pq pr) :
    answersKept pq pr (execSyncFree fn desc index s) := by
  unfold execSyncFree
  repeat' first
    | with_reducible assumption
    | with_reducible apply State.adminNow_kept
    | with_reducible apply doSyncFree_kept

theorem execSyncMapSet_kept {fn : Nat} {desc : BitVec 512} {vid : Nat} {entry : BitVec 128} {s : State} (hs : s.kept pq pr) :
    answersKept pq pr (execSyncMapSet fn desc vid entry s) := by
  unfold execSyncMapSet
  repeat' first
    | with_reducible assumption
    | with_reducible apply State.adminNow_kept
    | with_reducible apply doSyncMapSet_kept

theorem execApertureRemove_kept {fn : Nat} {desc : BitVec 512} {s : State} (hs : s.kept pq pr) :
    answersKept pq pr (execApertureRemove fn desc s) := by
  unfold execApertureRemove
  repeat' first
    | with_reducible assumption
    | with_reducible apply State.adminNow_kept
    | with_reducible apply doApertureRemove_kept

theorem State.resetFn_kept {s : State} {f : Nat} (hs : s.kept pq pr) :
    (State.resetFn s f).kept pq pr := by
  unfold State.resetFn
  repeat' first
    | with_reducible assumption
    | with_reducible apply State.destroyCtx_kept
    | with_reducible apply State.modFn_kept
    | with_reducible apply kept_foldl

theorem State.dropVfs_kept {s : State} (hs : s.kept pq pr) :
    (State.dropVfs s).kept pq pr := by
  unfold State.dropVfs
  repeat' first
    | with_reducible assumption
    | with_reducible apply State.destroyCtx_kept
    | with_reducible apply kept_foldl
    | with_reducible apply kept_mk

theorem execFunctionLevelReset_kept {fn : Nat} {s : State} (hs : s.kept pq pr) :
    answersKept pq pr (execFunctionLevelReset fn s) := by
  unfold execFunctionLevelReset
  repeat' first
    | with_reducible assumption
    | with_reducible apply keeps_next
    | with_reducible apply keeps_ite
    | with_reducible apply kept_ite
    | with_reducible apply State.resetFn_kept
    | with_reducible apply State.dropVfs_kept

theorem doBar4WindowWrite_kept {base : Nat} {s : State} (hs : s.kept pq pr) :
    (doBar4WindowWrite base s).kept pq pr := by
  unfold doBar4WindowWrite
  repeat' first
    | with_reducible assumption
    | with_reducible apply kept_mk

theorem doAdminQueueEnable_kept {fn : Nat} {enable : Bool} {log2 : Nat} {s : State} (hs : s.kept pq pr) :
    (doAdminQueueEnable fn enable log2 s).kept pq pr := by
  unfold doAdminQueueEnable
  repeat' first
    | with_reducible assumption
    | with_reducible apply kept_ite
    | with_reducible apply State.modFn_kept

theorem State.bar4Bytes_kept {s : State} {a n : Nat} (hs : s.kept pq pr) : (s.bar4Bytes a n).2.kept pq pr := by
  unfold State.bar4Bytes
  refine foldl_keeps (P := fun acc : List Byte × State => acc.2.kept pq pr) ?_ _ hs
  intro acc p h
  split
  · next heq => exact kept_snd heq (State.loadLine_kept h)
  · next heq => exact State.drawn_kept (State.logPoison_kept (kept_snd heq (State.loadLine_kept h)))

theorem execBar4WindowWrite_kept {base : Nat} {s : State} (hs : s.kept pq pr) :
    answersKept pq pr (execBar4WindowWrite base s) := by
  unfold execBar4WindowWrite
  repeat' first
    | with_reducible assumption
    | with_reducible apply keeps_next
    | with_reducible apply kept_ite
    | with_reducible apply doBar4WindowWrite_kept

theorem State.countBlocked_kept {s : State} (hs : s.kept pq pr) :
    (State.countBlocked s).kept pq pr := by
  unfold State.countBlocked
  repeat' first
    | with_reducible assumption
    | with_reducible apply kept_mk

theorem execBar4Write_kept {offset : Nat} {data : List Byte} {s : State} (hs : s.kept pq pr) :
    answersKept pq pr (execBar4Write offset data s) := by
  unfold execBar4Write
  repeat' first
    | with_reducible assumption
    | with_reducible apply keeps_next
    | with_reducible apply keeps_ite
    | with_reducible apply State.countBlocked_kept
    | with_reducible apply State.storeBytes_kept

theorem execAdminQueueEnable_kept {fn : Nat} {enable : Bool} {log2 : Nat} {s : State} (hs : s.kept pq pr) :
    answersKept pq pr (execAdminQueueEnable fn enable log2 s) := by
  unfold execAdminQueueEnable
  repeat' first
    | with_reducible assumption
    | with_reducible apply keeps_next
    | with_reducible apply kept_ite
    | with_reducible apply doAdminQueueEnable_kept

theorem doMsixUnmask_kept {fn : Nat} {entry : Nat} {s : State} (hs : s.kept pq pr) :
    (doMsixUnmask fn entry s).kept pq pr := by
  unfold doMsixUnmask
  repeat' first
    | with_reducible assumption
    | with_reducible apply kept_ite
    | with_reducible apply State.modFn_kept
    | with_reducible apply State.emit_kept

theorem execMsixUnmask_kept {fn : Nat} {entry : Nat} {s : State} (hs : s.kept pq pr) :
    answersKept pq pr (execMsixUnmask fn entry s) := by
  unfold execMsixUnmask
  repeat' first
    | with_reducible assumption
    | with_reducible apply keeps_next
    | with_reducible apply kept_ite
    | with_reducible apply doMsixUnmask_kept

theorem execBar4Read_kept {offset : Nat} {len : Nat} {s : State} (hs : s.kept pq pr) :
    answersKept pq pr (execBar4Read offset len s) := by
  unfold execBar4Read
  repeat' first
    | with_reducible assumption
    | with_reducible apply keeps_next
    | with_reducible apply keeps_ite
    | with_reducible apply State.emit_kept
    | with_reducible apply State.countBlocked_kept
    | with_reducible apply State.bar4Bytes_kept

theorem execVfDisable_kept {s : State} (hs : s.kept pq pr) :
    answersKept pq pr (execVfDisable s) := by
  unfold execVfDisable
  repeat' first
    | with_reducible assumption
    | with_reducible apply keeps_next
    | with_reducible apply State.dropVfs_kept

theorem execAtsInvalidation_kept {pasid : Nat} {iova : Nat} {len : Nat} {s : State} (hs : s.kept pq pr) :
    answersKept pq pr (execAtsInvalidation pasid iova len s) := by
  unfold execAtsInvalidation
  repeat' first
    | with_reducible assumption
    | with_reducible apply keeps_next
    | with_reducible apply kept_mk

end Sys2Proof.Machine
end

