-- ==== Sys2Proof/Laws/KeepsFabric.lean ====
section
/-! SUPPORT. What every command keeps (State.kept): the fabric, sluices, the epoch and launch. One lemma per definition that answers with a state. -/

namespace Sys2Proof.Machine

theorem State.discardFab_kept {s : State} {op : FabOp} (hs : s.kept pq pr) :
    (State.discardFab s op).kept pq pr := by
  unfold State.discardFab
  repeat' first
    | with_reducible assumption
    | with_reducible apply State.countDeniedHandle_kept
    | split

theorem State.fabFill_kept {s : State} {op : FabOp} (hs : s.kept pq pr) : (s.fabFill op).kept pq pr :=
  kept_foldl (fun _ _ h => kept_getD (State.fillLine_kept h) h) _ hs

theorem State.fabPoison_kept {s : State} {dpa : Nat} (hs : s.kept pq pr) :
    (State.fabPoison s dpa).kept pq pr := by
  unfold State.fabPoison
  repeat' first
    | with_reducible assumption
    | with_reducible apply State.logPoison_kept
    | with_reducible apply State.countPoison_kept

theorem State.fabStore_kept {s : State} {dpa : Nat} {d : List (Option Byte)} (hs : s.kept pq pr) :
    (State.fabStore s dpa d).1.kept pq pr := by
  unfold State.fabStore
  repeat' first
    | with_reducible assumption
    | with_reducible apply State.fabPoison_kept
    | with_reducible apply State.storeRange_kept
    | split

theorem State.fabAtomic_kept {s : State} {dpa : Nat} {op : AtomOp} {ty : AtomTy} {args : List (Word64 × Word64)} (hs : s.kept pq pr) :
    (State.fabAtomic s dpa op ty args).1.kept pq pr := by
  unfold State.fabAtomic
  repeat' first
    | with_reducible assumption
    | with_reducible apply State.fabPoison_kept
    | with_reducible apply State.storeBytes_kept
    | split

theorem State.bindRed_kept {s : State} {h : RedHead} {i : Nat} {src : Nat} (hs : s.kept pq pr) :
    (State.bindRed s h i src).kept pq pr := by
  unfold State.bindRed
  repeat' first
    | with_reducible assumption
    | with_reducible apply State.storeBytes_kept

theorem State.redLine_kept {s : State} {src off idx line : Nat} {data : List Byte} (hs : s.kept pq pr) :
    (s.redLine src off idx line data).1.kept pq pr := by
  unfold State.redLine
  split
  · exact hs
  · split
    · exact State.fabPoison_kept hs
    · split
      · exact hs
      · dsimp only
        split
        · exact hs
        · split
          · exact State.fabPoison_kept hs
          · exact State.storeBytes_kept (State.bindRed_kept hs)

theorem State.finishRed_kept {s : State} {h : RedHead} (hs : s.kept pq pr) :
    (State.finishRed s h).kept pq pr := by
  unfold State.finishRed
  repeat' first
    | with_reducible assumption
    | with_reducible apply kept_ite
    | with_reducible apply State.storeBytes_kept
    | with_reducible apply State.engineSignal_kept

theorem State.redClose_kept {s : State} {src : Nat} {off : Nat} {idx : Nat} {count : Word32} (hs : s.kept pq pr) :
    (State.redClose s src off idx count).1.kept pq pr := by
  unfold State.redClose
  repeat' first
    | with_reducible assumption
    | with_reducible apply kept_ite
    | with_reducible apply State.fabPoison_kept
    | with_reducible apply State.storeBytes_kept
    | with_reducible apply State.bindRed_kept
    | with_reducible apply State.finishRed_kept
    | split

theorem State.fabFence_kept {s : State} {src : Nat} {c : Nat} {handle : Nat} {add : Bool} {arrive : Bool} {v : Word64} {n : Nat} (hs : s.kept pq pr) :
    (State.fabFence s src c handle add arrive v n).1.kept pq pr := by
  unfold State.fabFence
  repeat' first
    | with_reducible assumption
    | with_reducible apply kept_ite
    | with_reducible apply State.countDeniedHandle_kept
    | with_reducible apply State.applyArrival_kept
    | with_reducible apply State.applySignal_kept
    | with_reducible refine kept_fst (by assumption) (State.applyArrival_kept ?_)
    | with_reducible refine kept_fst (by assumption) (State.applySignal_kept ?_)
    | with_reducible apply kept_foldl
    | with_reducible apply kept_getD
    | split

theorem State.applyFab_kept {s : State} {h : FabHead} {op : FabOp} (hs : s.kept pq pr) :
    (s.applyFab h op).1.kept pq pr := by
  unfold State.applyFab
  split
  · split
    · exact hs
    · split
      · next heq => exact kept_snd2 heq (State.loadRange_kept hs)
      · next heq => exact State.logPoison_kept (kept_snd2 heq (State.loadRange_kept hs))
  · split
    · exact hs
    · exact State.fabStore_kept hs
  · split
    · split
      · exact State.fabStore_kept hs
      · exact hs
    · exact hs
  · split
    · exact hs
    · exact State.fabAtomic_kept hs
  · exact State.redLine_kept hs
  · exact State.redClose_kept hs
  · exact State.fabFence_kept hs

theorem State.serveFab_kept {s : State} {h : FabHead} {op : FabOp} (hs : s.kept pq pr) :
    (State.serveFab s h op).kept pq pr := by
  unfold State.serveFab
  repeat' first
    | with_reducible assumption
    | with_reducible apply State.applyFab_kept
    | with_reducible apply State.emit_kept
    | with_reducible apply State.modFab_kept

theorem State.drainEarly_kept {k : Nat} (f : Nat) :
    ∀ {s : State}, s.kept pq pr → (State.drainEarly f k s).kept pq pr := by
  induction f with
  | zero => intro s hs; exact hs
  | succ n ih =>
    intro s hs
    unfold State.drainEarly
    split
    · exact hs
    · exact kept_ite (ih (State.serveFab_kept (State.modFab_kept hs))) (State.fabFill_kept hs)

theorem State.arriveFab_kept {s : State} {h : FabHead} {op : FabOp} (hs : s.kept pq pr) :
    (s.arriveFab h op).kept pq pr := by
  refine kept_ite hs (kept_ite (State.discardFab_kept hs) (kept_ite (State.emit_kept hs) ?_))
  refine kept_ite hs (kept_ite (State.fabFill_kept (kept_ite hs (State.modFab_kept hs))) ?_)
  refine kept_ite (State.drainEarly_kept _ (State.serveFab_kept hs)) ?_
  exact kept_ite hs (kept_ite (State.emit_kept hs) (State.modFab_kept hs))

theorem State.drainAll_kept {s : State} (hs : s.kept pq pr) :
    (State.drainAll s).kept pq pr := by
  unfold State.drainAll
  repeat' first
    | with_reducible assumption
    | with_reducible refine State.drainEarly_kept ?_
    | with_reducible apply kept_foldl
    | intro _

theorem State.endFill_kept {s : State} {dev : Nat} {off : Nat} {len : Nat} {st : AccStage} (hs : s.kept pq pr) :
    (State.endFill s dev off len st).kept pq pr := by
  unfold State.endFill
  repeat' first
    | with_reducible assumption
    | with_reducible apply kept_ite
    | with_reducible apply State.cisCount_kept
    | with_reducible apply State.retryCis_kept
    | with_reducible apply State.setStage_kept
    | with_reducible apply kept_foldl
    | split
    | with_reducible apply kept_mk
    | intro _

theorem State.dropReq_kept {s : State} {r : OutReq} (hs : s.kept pq pr) :
    (State.dropReq s r).kept pq pr := by
  unfold State.dropReq
  repeat' first
    | with_reducible assumption
    | with_reducible apply State.modFab_kept
    | with_reducible apply kept_mk

theorem State.endReq_kept {s : State} {body : AckBody} {r : OutReq} (hs : s.kept pq pr) :
    (State.endReq s body r).kept pq pr := by
  unfold State.endReq
  repeat' first
    | with_reducible assumption
    | with_reducible apply kept_ite
    | with_reducible apply State.dropReq_kept
    | with_reducible apply State.setStage_kept
    | with_reducible apply State.endFill_kept
    | with_reducible apply State.endOp_kept
    | with_reducible apply kept_foldl
    | with_reducible apply kept_getD
    | split
    | with_reducible apply kept_mk

theorem execFabricAcknowledgement_kept {dev : Nat} {route : Nat} {seq : Nat} {body : AckBody} {s : State} (hs : s.kept pq pr) :
    answersKept pq pr (execFabricAcknowledgement dev route seq body s) := by
  unfold execFabricAcknowledgement
  repeat' first
    | with_reducible assumption
    | with_reducible apply keeps_next
    | with_reducible apply State.endReq_kept
    | with_reducible apply State.pumpOut_kept
    | with_reducible apply State.endWalks_kept
    | with_reducible apply kept_foldl
    | split
    | intro _

theorem execMulticastStore_kept {h : FabHead} {group : Nat} {offset : Nat} {data : List (Option Byte)} {s : State} (hs : s.kept pq pr) :
    answersKept pq pr (execMulticastStore h group offset data s) := by
  unfold execMulticastStore
  repeat' first
    | with_reducible assumption
    | with_reducible apply keeps_next
    | with_reducible apply State.arriveFab_kept

theorem execFenceSignal_kept {h : FabHead} {ctx : Nat} {handle : Nat} {add : Bool} {arrive : Bool} {value : Word64} {count : Nat} {s : State} (hs : s.kept pq pr) :
    answersKept pq pr (execFenceSignal h ctx handle add arrive value count s) := by
  unfold execFenceSignal
  repeat' first
    | with_reducible assumption
    | with_reducible apply keeps_next
    | with_reducible apply State.arriveFab_kept

theorem execFabricStore_kept {h : FabHead} {offset : Nat} {data : List (Option Byte)} {s : State} (hs : s.kept pq pr) :
    answersKept pq pr (execFabricStore h offset data s) := by
  unfold execFabricStore
  repeat' first
    | with_reducible assumption
    | with_reducible apply keeps_next
    | with_reducible apply State.arriveFab_kept

theorem execSectorFillCompletion_kept {channel : Nat} {line : Nat} {sector : Nat} {odd : Bool} {many : Bool} {s : State} (hs : s.kept pq pr) :
    answersKept pq pr (execSectorFillCompletion channel line sector odd many s) := by
  unfold execSectorFillCompletion
  repeat' first
    | with_reducible assumption
    | with_reducible apply keeps_next
    | with_reducible apply keeps_ite
    | with_reducible apply kept_ite
    | with_reducible apply State.drainAll_kept
    | with_reducible apply State.fillSector_kept
    | with_reducible apply kept_foldl
    | with_reducible apply kept_getD
    | split

theorem execAtomicUnitOperation_kept {id : Nat} {s : State} (hs : s.kept pq pr) :
    answersKept pq pr (execAtomicUnitOperation id s) := by
  unfold execAtomicUnitOperation
  repeat' first
    | with_reducible assumption
    | with_reducible apply keeps_next
    | with_reducible apply State.drainAll_kept
    | with_reducible apply State.atomicUnit_kept

theorem execFabricLoad_kept {h : FabHead} {offset : Nat} {len : Nat} {s : State} (hs : s.kept pq pr) :
    answersKept pq pr (execFabricLoad h offset len s) := by
  unfold execFabricLoad
  repeat' first
    | with_reducible assumption
    | with_reducible apply keeps_next
    | with_reducible apply State.arriveFab_kept

theorem execFabricAtomic_kept {h : FabHead} {offset : Nat} {op : AtomOp} {ty : AtomTy} {a : Word64} {b : Word64} {s : State} (hs : s.kept pq pr) :
    answersKept pq pr (execFabricAtomic h offset op ty a b s) := by
  unfold execFabricAtomic
  repeat' first
    | with_reducible assumption
    | with_reducible apply keeps_next
    | with_reducible apply State.arriveFab_kept

theorem execReductionLine_kept {h : FabHead} {offset : Nat} {index : Nat} {line : Nat} {data : List Byte} {s : State} (hs : s.kept pq pr) :
    answersKept pq pr (execReductionLine h offset index line data s) := by
  unfold execReductionLine
  repeat' first
    | with_reducible assumption
    | with_reducible apply keeps_next
    | with_reducible apply State.arriveFab_kept

theorem execContributionClose_kept {h : FabHead} {offset : Nat} {index : Nat} {count : Word32} {s : State} (hs : s.kept pq pr) :
    answersKept pq pr (execContributionClose h offset index count s) := by
  unfold execContributionClose
  repeat' first
    | with_reducible assumption
    | with_reducible apply keeps_next
    | with_reducible apply State.arriveFab_kept

theorem execOrderedReductionCombine_kept {offset : Nat} {s : State} (hs : s.kept pq pr) :
    answersKept pq pr (execOrderedReductionCombine offset s) := by
  unfold execOrderedReductionCombine
  repeat' first
    | with_reducible assumption
    | with_reducible apply keeps_next
    | with_reducible apply keeps_ite
    | with_reducible apply State.storeBytes_kept
    | with_reducible apply State.finishRed_kept
    | with_reducible apply State.fabPoison_kept
    | with_reducible apply kept_foldl
    | split
    | intro _

theorem execFabricRejection_kept {dev : Nat} {route : Nat} {seq : Nat} {why : RejKind} {s : State} (hs : s.kept pq pr) :
    answersKept pq pr (execFabricRejection dev route seq why s) := by
  unfold execFabricRejection
  repeat' first
    | with_reducible assumption
    | with_reducible apply keeps_next
    | with_reducible apply kept_ite
    | with_reducible apply State.dropReq_kept
    | with_reducible apply State.setStage_kept
    | with_reducible apply State.endFill_kept
    | with_reducible apply State.endOp_kept
    | with_reducible apply State.takeFault_kept
    | with_reducible apply State.pumpOut_kept
    | with_reducible apply State.endWalks_kept
    | with_reducible apply kept_foldl
    | split
    | dsimp only
    | intro _

theorem execRequestResend_kept {dev : Nat} {route : Nat} {seq : Nat} {s : State} (hs : s.kept pq pr) :
    answersKept pq pr (execRequestResend dev route seq s) := by
  unfold execRequestResend
  repeat' first
    | with_reducible assumption
    | with_reducible apply keeps_next
    | with_reducible apply keeps_ite
    | with_reducible apply State.modPort_kept
    | with_reducible apply State.modFab_kept
    | with_reducible apply State.emit_kept
    | split

theorem State.markPath_kept {s : State} (hs : s.kept pq pr) :
    (State.markPath s).kept pq pr := by
  unfold State.markPath
  repeat' first
    | with_reducible assumption
    | with_reducible apply State.modPort_kept
    | with_reducible apply kept_foldl
    | dsimp only
    | intro _

theorem State.setPath_kept {s : State} {f : Nat → Nat × Nat} (hs : s.kept pq pr) :
    (State.setPath s f).kept pq pr := by
  unfold State.setPath
  repeat' first
    | with_reducible assumption
    | with_reducible apply State.markPath_kept
    | with_reducible apply State.modFab_kept
    | with_reducible apply State.drawn_kept

theorem State.resetPortSluices_kept {s : State} {p : Nat} (hs : s.kept pq pr) :
    (State.resetPortSluices s p).kept pq pr := by
  unfold State.resetPortSluices
  repeat' first
    | with_reducible assumption
    | with_reducible apply kept_mk

theorem State.portDown_kept {s : State} {p : Nat} (hs : s.kept pq pr) :
    (State.portDown s p).kept pq pr := by
  unfold State.portDown
  repeat' first
    | with_reducible assumption
    | with_reducible apply kept_ite
    | with_reducible apply State.modPort_kept
    | with_reducible apply State.setPath_kept
    | with_reducible apply State.emit_kept
    | with_reducible apply State.abortRegionOn_kept
    | with_reducible apply State.resetPortSluices_kept

theorem State.moveLane_kept {s : State} {port : Nat} (hs : s.kept pq pr) :
    (State.moveLane s port).kept pq pr := by
  unfold State.moveLane
  repeat' first
    | with_reducible assumption
    | with_reducible apply kept_ite
    | with_reducible apply State.modRepair_kept
    | with_reducible apply State.portDown_kept
    | with_reducible apply State.logEntry_kept
    | with_reducible apply State.record_kept
    | with_reducible apply State.modPort_kept

theorem State.moveLanes_kept {s : State} (hs : s.kept pq pr) :
    (State.moveLanes s).kept pq pr := by
  unfold State.moveLanes
  repeat' first
    | with_reducible assumption
    | with_reducible apply kept_ite
    | with_reducible apply State.moveLane_kept
    | with_reducible apply kept_foldl
    | split
    | with_reducible apply kept_mk
    | intro _

theorem execFabricPortDown_kept {port : Nat} {s : State} (hs : s.kept pq pr) :
    answersKept pq pr (execFabricPortDown port s) := by
  unfold execFabricPortDown
  repeat' first
    | with_reducible assumption
    | with_reducible apply keeps_next
    | with_reducible apply State.portDown_kept

theorem execPathTableReweight_kept {delays : List Nat} {s : State} (hs : s.kept pq pr) :
    answersKept pq pr (execPathTableReweight delays s) := by
  unfold execPathTableReweight
  repeat' first
    | with_reducible assumption
    | with_reducible apply keeps_next
    | with_reducible apply keeps_ite
    | with_reducible apply State.setPath_kept

theorem State.hostReport_kept {s : State} {r : Config.HostReport} (hs : s.kept pq pr) :
    (State.hostReport s r).kept pq pr := by
  unfold State.hostReport
  repeat' first
    | with_reducible assumption
    | with_reducible apply kept_ite
    | with_reducible apply State.logEntry_kept
    | with_reducible apply State.modHal_kept

theorem State.openChain_kept {s : State} (hs : s.kept pq pr) :
    (State.openChain s).kept pq pr := by
  unfold State.openChain
  repeat' first
    | with_reducible assumption
    | exact ⟨rfl, rfl⟩
    | with_reducible apply kept_ite
    | with_reducible apply State.modMod_kept

theorem State.closeChain_kept {s : State} (hs : s.kept pq pr) :
    (State.closeChain s).kept pq pr := by
  unfold State.closeChain
  repeat' first
    | with_reducible assumption
    | with_reducible apply kept_ite
    | with_reducible apply State.portDown_kept
    | with_reducible apply State.chainLow_kept

theorem doChainEnableWrite_kept {downstream : Bool} {enable : Bool} {s : State} (hs : s.kept pq pr) :
    (doChainEnableWrite downstream enable s).kept pq pr := by
  unfold doChainEnableWrite
  repeat' first
    | with_reducible assumption
    | with_reducible apply kept_ite
    | with_reducible apply State.modPort_kept
    | with_reducible apply State.openChain_kept
    | with_reducible apply State.closeChain_kept

theorem doRetrain_kept {downstream : Bool} {s : State} (hs : s.kept pq pr) :
    (doRetrain downstream s).kept pq pr := by
  unfold doRetrain
  repeat' first
    | with_reducible assumption
    | with_reducible apply State.portDown_kept

theorem doJobBoundary_kept {s : State} (hs : s.kept pq pr) :
    (doJobBoundary s).kept pq pr := by
  unfold doJobBoundary
  repeat' first
    | with_reducible assumption
    | with_reducible apply kept_ite
    | with_reducible apply State.hostReport_kept
    | with_reducible apply State.drawn_kept
    | with_reducible apply State.moveLanes_kept
    | with_reducible apply State.replaceChannel_kept
    | with_reducible apply State.retireTile_kept
    | with_reducible apply State.writeBank_kept
    | with_reducible apply State.openChain_kept
    | with_reducible apply State.closeChain_kept
    | with_reducible apply kept_foldl

theorem doLaneMove_kept {port : Nat} {failed : Bool} {s : State} (hs : s.kept pq pr) :
    (doLaneMove port failed s).kept pq pr := by
  unfold doLaneMove
  repeat' first
    | with_reducible assumption
    | with_reducible apply kept_ite
    | with_reducible apply State.modRepair_kept
    | with_reducible apply State.moveLane_kept

theorem execFrameRetry_kept {port : Nat} {attempt : Nat} {s : State} (hs : s.kept pq pr) :
    answersKept pq pr (execFrameRetry port attempt s) := by
  unfold execFrameRetry
  repeat' first
    | with_reducible assumption
    | with_reducible apply keeps_next
    | with_reducible apply keeps_ite
    | with_reducible apply State.modPort_kept
    | with_reducible apply State.portDown_kept

theorem execLinkSignalLoss_kept {port : Nat} {s : State} (hs : s.kept pq pr) :
    answersKept pq pr (execLinkSignalLoss port s) := by
  unfold execLinkSignalLoss
  repeat' first
    | with_reducible assumption
    | with_reducible apply keeps_next
    | with_reducible apply State.portDown_kept

theorem execChainEnableWrite_kept {downstream : Bool} {enable : Bool} {s : State} (hs : s.kept pq pr) :
    answersKept pq pr (execChainEnableWrite downstream enable s) := by
  unfold execChainEnableWrite
  repeat' first
    | with_reducible assumption
    | with_reducible apply keeps_next
    | with_reducible apply doChainEnableWrite_kept

theorem execChainLoopbackTraining_kept {s : State} (hs : s.kept pq pr) :
    answersKept pq pr (execChainLoopbackTraining s) := by
  unfold execChainLoopbackTraining
  repeat' first
    | with_reducible assumption
    | with_reducible apply keeps_next
    | with_reducible apply keeps_ite
    | with_reducible apply State.modPort_kept
    | with_reducible apply State.openChain_kept

theorem execRetrain_kept {downstream : Bool} {s : State} (hs : s.kept pq pr) :
    answersKept pq pr (execRetrain downstream s) := by
  unfold execRetrain
  repeat' first
    | with_reducible assumption
    | with_reducible apply keeps_next
    | with_reducible apply doRetrain_kept

theorem execJobBoundary_kept {s : State} (hs : s.kept pq pr) :
    answersKept pq pr (execJobBoundary s) := by
  unfold execJobBoundary
  repeat' first
    | with_reducible assumption
    | with_reducible apply State.orDefer_kept
    | with_reducible apply doJobBoundary_kept

theorem execLaneMove_kept {port : Nat} {failed : Bool} {s : State} (hs : s.kept pq pr) :
    answersKept pq pr (execLaneMove port failed s) := by
  unfold execLaneMove
  repeat' first
    | with_reducible assumption
    | with_reducible apply State.orDefer_kept
    | with_reducible apply doLaneMove_kept

theorem execPortTraining_kept {port : Nat} {r : TrainResult} {s : State} (hs : s.kept pq pr) :
    answersKept pq pr (execPortTraining port r s) := by
  unfold execPortTraining
  repeat' first
    | with_reducible assumption
    | with_reducible apply keeps_next
    | with_reducible apply keeps_ite
    | with_reducible apply kept_ite
    | with_reducible apply State.portDown_kept
    | with_reducible apply State.modPort_kept
    | with_reducible apply State.setPath_kept
    | with_reducible apply State.pumpOut_kept
    | with_reducible apply State.emit_kept

theorem State.fmRefuse_kept {s : State} (hs : s.kept pq pr) :
    (State.fmRefuse s).kept pq pr := by
  unfold State.fmRefuse
  repeat' first
    | with_reducible assumption
    | with_reducible apply State.modFab_kept

theorem State.fmMessage_kept {s : State} {m : FmHead} {ok : Bool} {f : State → State} (hs : s.kept pq pr) (hf : ∀ x0, x0.kept pq pr → (f x0).kept pq pr) :
    (State.fmMessage s m ok f).kept pq pr := by
  unfold State.fmMessage
  repeat' first
    | with_reducible assumption
    | with_reducible apply kept_ite
    | with_reducible apply hf
    | with_reducible apply State.modFab_kept
    | with_reducible apply State.fmRefuse_kept

theorem State.graceObjs_kept {s : State} {cs : List Nat} (hs : s.kept pq pr) :
    (State.graceObjs s cs).kept pq pr := by
  unfold State.graceObjs
  repeat' first
    | with_reducible assumption
    | with_reducible apply State.dropOrphans_kept
    | split
    | with_reducible apply kept_mk

theorem State.dropRemote_kept {s : State} (hs : s.kept pq pr) :
    (State.dropRemote s).kept pq pr := by
  unfold State.dropRemote
  repeat' first
    | with_reducible assumption
    | with_reducible apply State.modTile_kept
    | with_reducible apply State.modSync_kept
    | with_reducible apply State.modFab_kept
    | with_reducible apply State.endWalks_kept
    | with_reducible apply kept_foldl
    | with_reducible apply kept_mk
    | intro _

theorem State.revoke_kept {s : State} {code : Code} (hs : s.kept pq pr) :
    (State.revoke s code).kept pq pr := by
  unfold State.revoke
  repeat' first
    | with_reducible assumption
    | with_reducible apply State.abortRegion_kept
    | with_reducible apply State.takeFault_kept
    | with_reducible apply State.graceObjs_kept
    | with_reducible apply State.dropRemote_kept
    | with_reducible apply State.fresh_kept
    | with_reducible apply State.modFab_kept
    | with_reducible apply State.dropEpoch_kept
    | with_reducible apply kept_foldl
    | with_reducible apply kept_mk
    | intro _

theorem doPartitionRevocation_kept {m : FmHead} {partition : Nat} {s : State} (hs : s.kept pq pr) :
    (doPartitionRevocation m partition s).kept pq pr := by
  unfold doPartitionRevocation
  repeat' first
    | with_reducible assumption
    | with_reducible apply State.fmMessage_kept
    | with_reducible apply State.revoke_kept
    | with_reducible apply State.modFab_kept
    | split
    | intro _

theorem execPartitionRevocation_kept {m : FmHead} {partition : Nat} {s : State} (hs : s.kept pq pr) :
    answersKept pq pr (execPartitionRevocation m partition s) := by
  unfold execPartitionRevocation
  repeat' first
    | with_reducible assumption
    | with_reducible apply keeps_next
    | with_reducible apply doPartitionRevocation_kept

theorem execRevocationWalkEnd_kept {s : State} (hs : s.kept pq pr) :
    answersKept pq pr (execRevocationWalkEnd s) := by
  unfold execRevocationWalkEnd
  repeat' first
    | with_reducible assumption
    | with_reducible apply keeps_next
    | with_reducible apply State.retryHeld_kept
    | with_reducible apply State.waitWet_kept
    | with_reducible apply State.revokeLines_kept
    | split
    | with_reducible apply kept_mk

theorem doMulticastGroupDefinition_kept {m : FmHead} {group : Nat} {members : List Nat} {s : State} (hs : s.kept pq pr) :
    (doMulticastGroupDefinition m group members s).kept pq pr := by
  unfold doMulticastGroupDefinition
  repeat' first
    | with_reducible assumption
    | with_reducible apply State.fmMessage_kept
    | with_reducible apply State.modFab_kept
    | intro _

theorem execMulticastGroupDefinition_kept {m : FmHead} {group : Nat} {members : List Nat} {s : State} (hs : s.kept pq pr) :
    answersKept pq pr (execMulticastGroupDefinition m group members s) := by
  unfold execMulticastGroupDefinition
  repeat' first
    | with_reducible assumption
    | with_reducible apply State.orDefer_kept
    | with_reducible apply doMulticastGroupDefinition_kept

theorem doFabricIdentityAssignment_kept {m : FmHead} {deviceId : Nat} {domainSlot : Nat} {s : State} (hs : s.kept pq pr) :
    (doFabricIdentityAssignment m deviceId domainSlot s).kept pq pr := by
  unfold doFabricIdentityAssignment
  repeat' first
    | with_reducible assumption
    | with_reducible apply State.fmMessage_kept
    | with_reducible apply State.modFab_kept
    | with_reducible apply State.portDown_kept
    | split
    | dsimp only
    | intro _

theorem State.formPartition_kept {s : State} {partition : Nat} {members : List Nat} {domain : List Nat} {root : Bool} {parentPort : Nat} {children : List (Nat × Nat)} (hs : s.kept pq pr) :
    (State.formPartition s partition members domain root parentPort children).kept pq pr := by
  unfold State.formPartition
  repeat' first
    | with_reducible assumption
    | with_reducible apply kept_ite
    | with_reducible apply State.modFab_kept
    | with_reducible apply State.modTimed_kept
    | with_reducible apply State.dropEpoch_kept
    | with_reducible apply State.setPath_kept
    | with_reducible apply kept_foldl
    | with_reducible apply kept_getD
    | split
    | with_reducible apply kept_mk

theorem doPartitionAssignment_kept {m : FmHead} {partition : Nat} {members : List Nat} {domain : List Nat} {root : Bool} {parentPort : Nat} {children : List (Nat × Nat)} {s : State} (hs : s.kept pq pr) :
    (doPartitionAssignment m partition members domain root parentPort children s).kept pq pr := by
  unfold doPartitionAssignment
  repeat' first
    | with_reducible assumption
    | with_reducible apply State.fmMessage_kept
    | with_reducible apply State.formPartition_kept
    | intro _

theorem execRequestTimeout_kept {dev : Nat} {route : Nat} {seq : Nat} {s : State} (hs : s.kept pq pr) :
    answersKept pq pr (execRequestTimeout dev route seq s) := by
  unfold execRequestTimeout
  repeat' first
    | with_reducible assumption
    | with_reducible apply keeps_next
    | with_reducible apply State.emit_kept
    | with_reducible apply State.modFab_kept
    | split

theorem execFabricTimeout_kept {s : State} (hs : s.kept pq pr) :
    answersKept pq pr (execFabricTimeout s) := by
  unfold execFabricTimeout
  repeat' first
    | with_reducible assumption
    | with_reducible apply keeps_next
    | with_reducible apply keeps_ite
    | with_reducible apply State.revoke_kept

theorem execPartitionAssignment_kept {m : FmHead} {partition : Nat} {members : List Nat} {domain : List Nat} {root : Bool} {parentPort : Nat} {children : List (Nat × Nat)} {s : State} (hs : s.kept pq pr) :
    answersKept pq pr (execPartitionAssignment m partition members domain root parentPort children s) := by
  unfold execPartitionAssignment
  repeat' first
    | with_reducible assumption
    | with_reducible apply State.orDefer_kept
    | with_reducible apply doPartitionAssignment_kept

theorem execRetainGraceExpiry_kept {s : State} (hs : s.kept pq pr) :
    answersKept pq pr (execRetainGraceExpiry s) := by
  unfold execRetainGraceExpiry
  repeat' first
    | with_reducible assumption
    | with_reducible apply keeps_next
    | with_reducible apply keeps_ite
    | with_reducible apply State.zeroRange_kept
    | with_reducible apply kept_foldl
    | split
    | with_reducible apply kept_mk
    | intro _

theorem execFabricIdentityAssignment_kept {m : FmHead} {deviceId : Nat} {domainSlot : Nat} {s : State} (hs : s.kept pq pr) :
    answersKept pq pr (execFabricIdentityAssignment m deviceId domainSlot s) := by
  unfold execFabricIdentityAssignment
  repeat' first
    | with_reducible assumption
    | with_reducible apply State.orDefer_kept
    | with_reducible apply doFabricIdentityAssignment_kept

theorem execResetGroupRequest_kept {g : ResetGroup} {escalate : Bool} {s : State} (hs : s.kept pq pr) :
    answersKept pq pr (execResetGroupRequest g escalate s) := by
  unfold execResetGroupRequest
  repeat' first
    | with_reducible assumption
    | with_reducible apply keeps_next
    | with_reducible apply keeps_ite
    | with_reducible apply State.modHal_kept

theorem State.unsend_kept {s : State} {i : SluiceId} (hs : s.kept pq pr) :
    (State.unsend s i).kept pq pr := by
  unfold State.unsend
  repeat' first
    | with_reducible assumption
    | with_reducible apply State.setSluice_kept

theorem State.undoTick_kept {s : State} {tile : Nat} (hs : s.kept pq pr) :
    (State.undoTick s tile).kept pq pr := by
  unfold State.undoTick
  repeat' first
    | with_reducible assumption
    | with_reducible apply State.modTile_kept
    | with_reducible apply State.unsend_kept
    | with_reducible apply State.modSync_kept
    | with_reducible apply kept_foldl
    | split
    | with_reducible apply kept_mk

theorem State.toVisible_kept {s : State} {i : SluiceId} {it : Item} (hs : s.kept pq pr) :
    (s.toVisible i it).kept pq pr :=
  kept_ite (State.passTicks_kept _ (kept_ite (State.waitWet_kept hs) hs)) hs

theorem State.see_kept {s : State} {i : SluiceId} {it : Item} (hs : s.kept pq pr) :
    (State.see s i it).kept pq pr := by
  unfold State.see
  repeat' first
    | with_reducible assumption
    | with_reducible apply State.setSluice_kept

theorem State.crossingFault_kept {s : State} {code : Code} {i : SluiceId} (hs : s.kept pq pr) :
    (State.crossingFault s code i).kept pq pr := by
  unfold State.crossingFault
  repeat' first
    | with_reducible assumption
    | with_reducible apply kept_ite
    | with_reducible apply State.logEntry_kept
    | with_reducible apply State.abortRegion_kept

theorem State.leavePort_kept {s : State} {p : Nat} {dev : Nat} {t : Nat} {off : Nat} {d : List Byte} (hs : s.kept pq pr) :
    (State.leavePort s p dev t off d).kept pq pr := by
  unfold State.leavePort
  repeat' first
    | with_reducible assumption
    | with_reducible apply kept_ite
    | with_reducible apply State.crossingFault_kept
    | with_reducible apply State.setSluice_kept
    | with_reducible apply State.emit_kept

theorem execResetGroupDrainTimeout_kept {s : State} (hs : s.kept pq pr) :
    answersKept pq pr (execResetGroupDrainTimeout s) := by
  unfold execResetGroupDrainTimeout
  repeat' first
    | with_reducible assumption
    | with_reducible apply keeps_next
    | with_reducible apply keeps_ite
    | with_reducible apply kept_ite
    | with_reducible apply State.modHal_kept
    | with_reducible apply State.emit_kept
    | with_reducible apply State.logEntry_kept
    | with_reducible apply State.computeReset_kept
    | split

theorem execEventLineToggle_kept {line : Nat} {s : State} (hs : s.kept pq pr) :
    answersKept pq pr (execEventLineToggle line s) :=
  keeps_ite (keeps_next hs) (keeps_next (kept_mk (State.passTicks_kept _ hs)))

theorem State.groupReset_kept {s : State} {g : ResetGroup} (hs : s.kept pq pr) :
    (State.groupReset s g).kept pq pr := by
  unfold State.groupReset
  repeat' first
    | with_reducible assumption
    | with_reducible apply kept_ite
    | with_reducible apply State.setTile_kept
    | with_reducible apply State.modHeadworks_kept
    | with_reducible apply State.dropStack_kept
    | with_reducible apply State.modPort_kept
    | with_reducible apply State.portDown_kept
    | with_reducible apply State.chainLow_kept
    | with_reducible apply State.closeChain_kept
    | with_reducible apply State.computeReset_kept
    | with_reducible apply State.deviceReset_kept
    | split
    | with_reducible apply kept_mk

theorem State.clusterServe_kept {s : State} {id : Nat} (f : State → Issue → State × List (Nat × List Byte)) (hs : s.kept pq pr) (hf : ∀ x0 x1, x0.kept pq pr → (f x0 x1).1.kept pq pr) :
    (State.clusterServe s id f).kept pq pr := by
  unfold State.clusterServe
  repeat' first
    | with_reducible assumption
    | with_reducible apply hf
    | with_reducible apply State.takePort_kept
    | split
    | with_reducible apply kept_mk

theorem execResetGroupDrained_kept {s : State} (hs : s.kept pq pr) :
    answersKept pq pr (execResetGroupDrained s) := by
  unfold execResetGroupDrained
  repeat' first
    | with_reducible assumption
    | with_reducible apply keeps_next
    | with_reducible apply keeps_ite
    | with_reducible apply State.modHal_kept
    | with_reducible apply State.groupReset_kept
    | with_reducible apply State.clearBoundary_kept
    | split

theorem State.sendLands_kept {s : State} {t : Nat} {off : Nat} {d : List Byte} (hs : s.kept pq pr) :
    (State.sendLands s t off d).kept pq pr := by
  unfold State.sendLands
  repeat' first
    | with_reducible assumption
    | with_reducible apply kept_ite
    | with_reducible apply State.abortRegion_kept
    | with_reducible apply State.scratchWrite_kept
    | split

theorem execHalnorEventApply_kept {s : State} (hs : s.kept pq pr) : answersKept pq pr (execHalnorEventApply s) := by
  unfold execHalnorEventApply
  split
  · exact keeps_next hs
  · dsimp only
    refine keeps_ite (keeps_next hs) (keeps_ite ?_ ?_)
    · exact keeps_next (State.abortRegion_kept (State.logEntry_kept (State.modHal_kept hs)))
    · exact keeps_next (State.passTicks_kept _ hs)

theorem clusterRead_kept {s : State} {i : Issue} (hs : s.kept pq pr) :
    (clusterRead s i).1.kept pq pr := by
  unfold clusterRead
  repeat' with_reducible assumption

theorem clusterAtomics_kept {op : AtomOp} {ty : AtomTy} {lanes : List (Nat × Nat × Word64 × Word64)} {s : State}
    {i : Issue} (hs : s.kept pq pr) : (clusterAtomics op ty lanes s i).1.kept pq pr := by
  unfold clusterAtomics
  refine foldl_keeps (P := fun acc : State × List (Nat × List Byte) => acc.1.kept pq pr) ?_ _ hs
  intro acc l h
  exact State.scratchWrite_kept h

theorem State.deliver_kept {s : State} {i : SluiceId} {w : Payload} (hs : s.kept pq pr) :
    (State.deliver s i w).kept pq pr := by
  unfold State.deliver
  repeat' first
    | with_reducible assumption
    | with_reducible apply kept_ite
    | with_reducible apply State.sendLands_kept
    | with_reducible apply State.sendTimed_kept
    | with_reducible apply State.crossingFault_kept
    | with_reducible apply State.leavePort_kept
    | with_reducible apply State.serveAccess_kept
    | with_reducible apply State.wakeFence_kept
    | with_reducible apply State.scratchWrite_kept
    | with_reducible apply State.clusterServe_kept
    | with_reducible apply clusterRead_kept
    | with_reducible apply clusterAtomics_kept
    | with_reducible apply kept_foldl
    | split
    | intro _

theorem State.releaseItem_kept {s : State} {i : SluiceId} {it : Item} (hs : s.kept pq pr) :
    (State.releaseItem s i it).kept pq pr := by
  unfold State.releaseItem
  repeat' first
    | with_reducible assumption
    | with_reducible apply State.credit_kept
    | with_reducible apply State.deliver_kept
    | with_reducible apply State.takeItem_kept

theorem State.bringCluster_kept {s : State} {id : Nat} (hs : s.kept pq pr) :
    (State.bringCluster s id).kept pq pr := by
  unfold State.bringCluster
  repeat' first
    | with_reducible assumption
    | with_reducible apply kept_ite
    | with_reducible apply State.releaseItem_kept
    | with_reducible apply State.passWet_kept
    | split
    | with_reducible apply kept_mk

theorem execClusterScratchResponse_kept {id : Nat} {s : State} (hs : s.kept pq pr) :
    answersKept pq pr (execClusterScratchResponse id s) := by
  unfold execClusterScratchResponse
  repeat' first
    | with_reducible assumption
    | with_reducible apply keeps_next
    | with_reducible apply State.bringCluster_kept
    | with_reducible apply State.endIssue_kept
    | with_reducible apply State.modGroup_kept
    | with_reducible apply State.waitWet_kept
    | split
    | dsimp only

theorem execSluiceSend_kept {i : SluiceId} {timed : Bool} {data : List Byte} {dest : Option (Nat × Nat)} {s : State} (hs : s.kept pq pr) :
    answersKept pq pr (execSluiceSend i timed data dest s) := by
  unfold execSluiceSend
  repeat' first
    | with_reducible assumption
    | with_reducible apply keeps_next
    | with_reducible apply keeps_ite
    | with_reducible apply kept_ite
    | with_reducible apply State.sendTimed_kept
    | with_reducible apply State.crossingFault_kept
    | with_reducible apply State.undoTick_kept
    | with_reducible apply State.sendUntimed_kept

theorem execItemVisible_kept {i : SluiceId} {s : State} (hs : s.kept pq pr) :
    answersKept pq pr (execItemVisible i s) := by
  unfold execItemVisible
  repeat' first
    | with_reducible assumption
    | with_reducible apply keeps_next
    | with_reducible apply keeps_ite
    | with_reducible apply kept_ite
    | with_reducible apply State.see_kept
    | with_reducible apply State.toVisible_kept
    | with_reducible apply State.releaseItem_kept
    | split

theorem State.releaseDue_kept {i : SluiceId} (f : Nat) : ∀ {s : State}, s.kept pq pr → (State.releaseDue f i s).kept pq pr := by
  induction f with
  | zero => intro s hs; exact hs
  | succ n ih =>
    intro s hs
    unfold State.releaseDue
    split
    · exact hs
    · exact kept_ite (ih (State.releaseItem_kept hs)) hs

theorem State.releaseEarlier_kept {s : State} {i : SluiceId} (hs : s.kept pq pr) : (s.releaseEarlier i).kept pq pr := by
  unfold State.releaseEarlier
  split
  · exact kept_foldl (fun _ _ h => kept_foldl (fun _ _ h => State.releaseDue_kept _ h) _ h) _ hs
  · exact hs

theorem execSluiceRelease_kept {i : SluiceId} {s : State} (hs : s.kept pq pr) :
    answersKept pq pr (execSluiceRelease i s) := by
  unfold execSluiceRelease
  repeat' first
    | with_reducible assumption
    | with_reducible apply keeps_next
    | with_reducible apply keeps_ite
    | with_reducible apply kept_ite
    | with_reducible apply State.crossingFault_kept
    | with_reducible apply State.takeItem_kept
    | with_reducible apply State.passWet_kept
    | with_reducible apply State.releaseItem_kept
    | with_reducible apply State.releaseEarlier_kept
    | split

theorem State.completeEpoch_kept {s : State} (hs : s.kept pq pr) :
    (State.completeEpoch s).kept pq pr := by
  unfold State.completeEpoch
  repeat' first
    | with_reducible assumption
    | with_reducible apply kept_ite
    | with_reducible apply State.emit_kept
    | with_reducible apply State.modTimed_kept

theorem State.probe_kept {s : State} {p : Nat} (hs : s.kept pq pr) :
    (State.probe s p).kept pq pr := by
  unfold State.probe
  repeat' first
    | with_reducible assumption
    | with_reducible apply State.emit_kept

theorem State.clearRatios_kept {s : State} (hs : s.kept pq pr) :
    (State.clearRatios s).kept pq pr := by
  unfold State.clearRatios
  repeat' first
    | with_reducible assumption
    | with_reducible apply State.modHal_kept
    | with_reducible apply State.modPower_kept

theorem State.clearFit_kept {s : State} (hs : s.kept pq pr) :
    (State.clearFit s).kept pq pr := by
  unfold State.clearFit
  repeat' first
    | with_reducible assumption
    | with_reducible apply kept_mk

theorem State.adoptRatios_kept {s : State} {ratios : List Nat} (hs : s.kept pq pr) :
    (State.adoptRatios s ratios).kept pq pr := by
  unfold State.adoptRatios
  repeat' first
    | with_reducible assumption
    | with_reducible apply State.modPower_kept
    | with_reducible apply State.agree_kept

theorem State.probeAll_kept {s : State} (hs : s.kept pq pr) :
    (State.probeAll s).kept pq pr := by
  unfold State.probeAll
  repeat' first
    | with_reducible assumption
    | with_reducible apply State.probe_kept
    | with_reducible apply kept_foldl

theorem execEpochOffsetsSet_kept {s : State} (hs : s.kept pq pr) :
    answersKept pq pr (execEpochOffsetsSet s) := by
  unfold execEpochOffsetsSet
  repeat' first
    | with_reducible assumption
    | with_reducible apply keeps_next
    | with_reducible apply keeps_ite
    | with_reducible apply kept_ite
    | with_reducible apply State.modTimed_kept
    | with_reducible apply State.clearRatios_kept
    | with_reducible apply State.clearFit_kept
    | with_reducible apply State.adoptRatios_kept
    | with_reducible apply State.modPort_kept
    | with_reducible apply State.completeEpoch_kept
    | with_reducible apply State.probeAll_kept

theorem execEpochProbe_kept {port : Nat} {jobTick : Word64} {jobWet : Word64} {visible : Word64} {result : ProbeResult} {s : State} (hs : s.kept pq pr) :
    answersKept pq pr (execEpochProbe port jobTick jobWet visible result s) := by
  unfold execEpochProbe
  repeat' first
    | with_reducible assumption
    | with_reducible apply keeps_next
    | with_reducible apply keeps_ite
    | with_reducible apply kept_ite
    | with_reducible apply State.modTimed_kept
    | with_reducible apply State.probe_kept
    | with_reducible apply State.modPort_kept

theorem execReadyMessage_kept {dev : Nat} {s : State} (hs : s.kept pq pr) :
    answersKept pq pr (execReadyMessage dev s) := by
  unfold execReadyMessage
  repeat' first
    | with_reducible assumption
    | with_reducible apply keeps_next
    | with_reducible apply keeps_ite
    | with_reducible apply State.chooseEntry_kept
    | with_reducible apply State.modTimed_kept

theorem State.refuseReady_kept {s : State} {r : Region} {reason : Nat} (hs : s.kept pq pr) :
    (State.refuseReady s r reason).kept pq pr := by
  unfold State.refuseReady
  repeat' first
    | with_reducible assumption
    | with_reducible apply State.modTile_kept
    | with_reducible apply State.modTimed_kept
    | with_reducible apply State.modQueue_kept
    | with_reducible apply State.emit_kept
    | with_reducible apply State.takeFault_kept
    | with_reducible apply kept_foldl
    | intro _

theorem execEntryTickMessage_kept {tick : Word64} {s : State} (hs : s.kept pq pr) :
    answersKept pq pr (execEntryTickMessage tick s) := by
  unfold execEntryTickMessage
  repeat' first
    | with_reducible assumption
    | with_reducible apply keeps_next
    | with_reducible apply keeps_ite
    | with_reducible apply kept_ite
    | with_reducible apply State.emit_kept
    | with_reducible apply State.refuseReady_kept
    | with_reducible apply State.modRegion_kept
    | split

theorem execEpochStart_kept {s : State} (hs : s.kept pq pr) :
    answersKept pq pr (execEpochStart s) := by
  unfold execEpochStart
  repeat' first
    | with_reducible assumption
    | with_reducible apply keeps_next
    | with_reducible apply keeps_ite
    | with_reducible apply State.modTimed_kept
    | with_reducible apply State.clearRatios_kept
    | with_reducible apply State.completeEpoch_kept
    | with_reducible apply State.probeAll_kept
    | with_reducible apply State.clearFit_kept
    | with_reducible apply State.modPower_kept
    | with_reducible apply State.probe_kept

theorem execEpochCompletionReport_kept {child : Nat} {s : State} (hs : s.kept pq pr) :
    answersKept pq pr (execEpochCompletionReport child s) := by
  unfold execEpochCompletionReport
  repeat' first
    | with_reducible assumption
    | with_reducible apply keeps_next
    | with_reducible apply keeps_ite
    | with_reducible apply State.completeEpoch_kept
    | with_reducible apply State.modTimed_kept

theorem execEpochTimeout_kept {s : State} (hs : s.kept pq pr) :
    answersKept pq pr (execEpochTimeout s) := by
  unfold execEpochTimeout
  repeat' first
    | with_reducible assumption
    | with_reducible apply keeps_next
    | with_reducible apply keeps_ite
    | with_reducible apply State.emit_kept
    | with_reducible apply State.dropEpoch_kept

theorem execReferenceDrift_kept {port : Nat} {latency : Nat} {outbound : Bool} {s : State} (hs : s.kept pq pr) :
    answersKept pq pr (execReferenceDrift port latency outbound s) := by
  unfold execReferenceDrift
  repeat' first
    | with_reducible assumption
    | with_reducible apply keeps_next
    | with_reducible apply keeps_ite
    | with_reducible apply State.modTimed_kept
    | with_reducible apply State.modPort_kept
    | with_reducible apply State.abortRegionOn_kept

theorem execRefusedMessage_kept {_dev : Nat} {s : State} (hs : s.kept pq pr) :
    answersKept pq pr (execRefusedMessage _dev s) := by
  unfold execRefusedMessage
  repeat' first
    | with_reducible assumption
    | with_reducible apply keeps_next
    | with_reducible apply keeps_ite
    | with_reducible apply State.abortRegion_kept
    | with_reducible apply State.emit_kept
    | with_reducible apply State.modTimed_kept
    | split

theorem jobUntil_kept {t : Word64} (f : Nat) : ∀ {s : State}, s.kept pq pr → (jobUntil f t s).kept pq pr := by
  induction f with
  | zero => intro s hs; exact hs
  | succ n ih =>
    intro s hs
    unfold jobUntil
    exact kept_ite hs (ih (State.tickOnce_kept hs))

theorem execRegionEntry_kept {s : State} (hs : s.kept pq pr) : answersKept pq pr (execRegionEntry s) := by
  unfold execRegionEntry
  split
  · exact keeps_next hs
  · split
    · refine keeps_ite (keeps_next hs) (keeps_next ?_)
      refine kept_foldl ?_ _ (State.modRegion_kept (jobUntil_kept _ hs))
      intro s t h
      exact State.modTile_kept h
    · exact keeps_next hs

theorem State.watchDrop_kept {s : State} {c : Nat} (hs : s.kept pq pr) :
    (State.watchDrop s c).kept pq pr := by
  unfold State.watchDrop
  repeat' first
    | with_reducible assumption
    | with_reducible apply State.modCtx_kept

theorem State.watchWrite_kept {s : State} {c : Nat} {d : List Byte} (hs : s.kept pq pr) :
    (s.watchWrite c d).kept pq pr := by
  unfold State.watchWrite
  dsimp only
  split
  · exact hs
  · split
    · next heq => exact State.watchDrop_kept (kept_snd heq (State.readStruct_kept hs))
    · next heq =>
      have h := kept_snd heq (State.readStruct_kept hs)
      split
      · exact State.watchDrop_kept h
      · split
        · next hb =>
          exact State.modCtx_kept (kept_bind (State.writeStruct_kept h)
            (fun s hs => State.writeStruct_kept hs) _ hb)
        · exact State.watchDrop_kept h

theorem State.watchLayer_kept {s : State} {r : Region} {us : List Config.SeepUnit} {layer : Nat} (hs : s.kept pq pr) :
    (State.watchLayer s r us layer).kept pq pr := by
  unfold State.watchLayer
  repeat' first
    | with_reducible assumption
    | with_reducible apply State.watchWrite_kept

theorem State.suspicion_kept {s : State} {step : Word64} {u : Config.SeepUnit} (hs : s.kept pq pr) :
    (State.suspicion s step u).kept pq pr := by
  unfold State.suspicion
  repeat' first
    | with_reducible assumption
    | with_reducible apply State.modHal_kept
    | with_reducible apply State.logEntry_kept

theorem State.watchAll_kept {s : State} {r : Region} (hs : s.kept pq pr) :
    (State.watchAll s r).kept pq pr := by
  unfold State.watchAll
  repeat' first
    | with_reducible assumption
    | with_reducible apply State.drawn_kept
    | with_reducible apply State.modHal_kept
    | with_reducible apply State.watchLayer_kept
    | with_reducible apply State.suspicion_kept
    | with_reducible apply kept_foldl
    | intro _

theorem State.entryAbort_kept {s : State} {tile : Nat} {place : Nat} {code : Code} {detail : Nat} {address : Nat} (hs : s.kept pq pr) :
    (State.entryAbort s tile place code detail address).kept pq pr := by
  unfold State.entryAbort
  repeat' first
    | with_reducible assumption
    | with_reducible apply State.abortRegion_kept

theorem State.drainHazard_kept {s : State} {h : Nat × Nat × Nat} (hs : s.kept pq pr) :
    (State.drainHazard s h).kept pq pr := by
  unfold State.drainHazard
  repeat' first
    | with_reducible assumption
    | with_reducible apply State.waitWet_kept
    | with_reducible apply State.modTile_kept
    | with_reducible apply State.entryAbort_kept

theorem State.endRegion_kept {s : State} {r : Region} (hs : s.kept pq pr) :
    (State.endRegion s r).kept pq pr := by
  unfold State.endRegion
  repeat' first
    | with_reducible assumption
    | with_reducible apply State.modTile_kept
    | with_reducible apply State.modTimed_kept
    | with_reducible apply State.learnPhases_kept
    | with_reducible apply State.modQueue_kept
    | with_reducible apply State.stepBoundary_kept
    | with_reducible apply State.watchAll_kept
    | with_reducible apply kept_foldl
    | intro _

theorem execRegionEnd_kept {s : State} (hs : s.kept pq pr) :
    answersKept pq pr (execRegionEnd s) := by
  unfold execRegionEnd
  repeat' first
    | with_reducible assumption
    | with_reducible apply keeps_next
    | with_reducible apply keeps_ite
    | with_reducible apply State.abortRegion_kept
    | with_reducible apply State.drainHazard_kept
    | with_reducible apply State.endRegion_kept
    | with_reducible apply State.waitWet_kept
    | split
    | dsimp only

theorem execTimedWatchdog_kept {s : State} (hs : s.kept pq pr) :
    answersKept pq pr (execTimedWatchdog s) := by
  unfold execTimedWatchdog
  repeat' first
    | with_reducible assumption
    | with_reducible apply keeps_next
    | with_reducible apply keeps_ite
    | with_reducible apply State.abortRegion_kept
    | split

theorem State.refuseLaunch_kept {s : State} {c : Nat} {q : Nat} {d : BitVec 512} {reason : Nat} (hs : s.kept pq pr) :
    (State.refuseLaunch s c q d reason).kept pq pr := by
  unfold State.refuseLaunch
  repeat' first
    | with_reducible assumption
    | with_reducible apply State.descFault_kept
    | with_reducible apply State.emit_kept

theorem scanProgram_kept {u : PortUse} {c : Nat} (f : Nat) :
    ∀ {va : Nat} {s : State}, s.kept pq pr → (scanProgram f u c va s).2.kept pq pr := by
  induction f with
  | zero => intro va s hs; exact hs
  | succ n ih =>
    intro va s hs
    unfold scanProgram
    split
    · next heq => exact kept_snd heq (State.readStruct_kept hs)
    · next heq =>
      have h := kept_snd heq (State.readStruct_kept hs)
      dsimp only
      split
      · exact h
      · split
        · next heq => exact kept_snd heq (ih h)
        · next heq => exact kept_snd heq (ih h)

theorem State.scanAll_kept {s : State} {c : Nat} {u : PortUse} {ts : List TileEntry} (hs : s.kept pq pr) :
    (s.scanAll c u ts).2.kept pq pr := by
  unfold State.scanAll
  refine foldl_keeps (P := fun acc : Except StructErr Nat × State => acc.2.kept pq pr) ?_ _ hs
  intro acc t h
  split
  · exact h
  · split
    · next heq => exact kept_snd heq (scanProgram_kept _ h)
    · next heq => exact kept_snd heq (scanProgram_kept _ h)

theorem State.ownTile_kept {s : State} {c : Nat} {t : TileEntry} (hs : s.kept pq pr) :
    (State.ownTile s c t).kept pq pr := by
  unfold State.ownTile
  repeat' first
    | with_reducible assumption
    | with_reducible apply State.beginOldest_kept
    | with_reducible apply State.waitWet_kept
    | with_reducible apply State.modTile_kept
    | with_reducible apply kept_foldl
    | intro _

theorem State.beginRegion_kept {s : State} {c : Nat} {q : Nat} {id : Word64} {d : List Byte} {map : List Nat} {ts : List TileEntry} (hs : s.kept pq pr) :
    (State.beginRegion s c q id d map ts).kept pq pr := by
  unfold State.beginRegion
  repeat' first
    | with_reducible assumption
    | with_reducible apply State.ownTile_kept
    | with_reducible apply State.launchPhases_kept
    | with_reducible apply State.modTimed_kept
    | with_reducible apply kept_foldl
    | intro _

theorem State.launchRegion_kept {s : State} {c : Nat} {q : Nat} {desc : BitVec 512} {d : List Byte} {map : List Nat} (hs : s.kept pq pr) :
    (State.launchRegion s c q desc d map).kept pq pr := by
  unfold State.launchRegion
  repeat' first
    | with_reducible assumption
    | with_reducible apply kept_ite
    | with_reducible apply State.structFault_kept
    | with_reducible apply State.refuseLaunch_kept
    | with_reducible apply State.tryReady_kept
    | with_reducible apply State.setWork_kept
    | with_reducible apply State.beginRegion_kept
    | with_reducible refine kept_snd (by assumption) (State.readStruct_kept ?_)
    | with_reducible refine kept_snd (by assumption) (State.scanAll_kept ?_)
    | split

theorem doDescFlume_kept {ctx : Nat} {queue : Nat} {desc : BitVec 512} {s : State} (hs : s.kept pq pr) :
    (doDescFlume ctx queue desc s).kept pq pr := by
  unfold doDescFlume
  repeat' first
    | with_reducible assumption
    | with_reducible apply State.startDesc_kept
    | with_reducible apply State.structFault_kept
    | with_reducible apply State.descFault_kept
    | with_reducible apply State.refuseLaunch_kept
    | with_reducible apply State.launchRegion_kept
    | with_reducible refine kept_snd (by assumption) (State.readStruct_kept ?_)
    | split
    | intro _

theorem execRegionAbortMessage_kept {s : State} (hs : s.kept pq pr) :
    answersKept pq pr (execRegionAbortMessage s) := by
  unfold execRegionAbortMessage
  repeat' first
    | with_reducible assumption
    | with_reducible apply keeps_next
    | with_reducible apply keeps_ite
    | with_reducible apply State.abortRegion_kept
    | with_reducible apply State.emit_kept
    | split

theorem execDescFlume_kept {ctx : Nat} {queue : Nat} {desc : BitVec 512} {s : State} (hs : s.kept pq pr) :
    answersKept pq pr (execDescFlume ctx queue desc s) := by
  unfold execDescFlume
  repeat' first
    | with_reducible assumption
    | with_reducible apply State.orDefer_kept
    | with_reducible apply doDescFlume_kept

theorem State.fetchEntry_kept {s : State} {c : Nat} {va : Nat} (hs : s.kept pq pr) :
    (State.fetchEntry s c va).2.kept pq pr := by
  unfold State.fetchEntry
  repeat' first
    | with_reducible assumption
    | with_reducible apply State.readStruct_kept
    | with_reducible refine kept_snd (by assumption) (State.loadLine_kept ?_)
    | split

theorem execFlumeEntryFetch_kept {tile : Nat} {s : State} (hs : s.kept pq pr) :
    answersKept pq pr (execFlumeEntryFetch tile s) := by
  unfold execFlumeEntryFetch
  repeat' first
    | with_reducible assumption
    | with_reducible apply keeps_next
    | with_reducible apply keeps_ite
    | with_reducible apply State.waitWet_kept
    | with_reducible apply State.abortRegion_kept
    | with_reducible apply State.tryReady_kept
    | with_reducible apply State.modTile_kept
    | with_reducible refine kept_snd (by assumption) (State.fetchEntry_kept ?_)
    | split
    | dsimp only

end Sys2Proof.Machine
end

