-- ==== Sys2Proof/Laws/KeepsRest.lean ====
section
/-! SUPPORT. What every command keeps (State.kept): flume programs, intake, registers, management. One lemma per definition that answers with a state. -/

namespace Sys2Proof.Machine

theorem State.entryFault_kept {s : State} {tile : Nat} {n : Entry} {code : Code} {detail : Nat} {address : Nat} (hs : s.kept pq pr) :
    (State.entryFault s tile n code detail address).kept pq pr := by
  unfold State.entryFault
  repeat' first
    | with_reducible assumption
    | with_reducible apply State.entryAbort_kept
    | with_reducible apply State.undoTick_kept

theorem State.conflict_kept {s : State} {tile : Nat} {n : Entry} (hs : s.kept pq pr) :
    (State.conflict s tile n).kept pq pr := by
  unfold State.conflict
  repeat' first
    | with_reducible assumption
    | with_reducible apply State.entryFault_kept

theorem State.entry_kept {s : State} {tile : Nat} {kind : Nat} {f : State → Region → Entry → State} (hs : s.kept pq pr) (hf : ∀ x0 x1 x2, x0.kept pq pr → (f x0 x1 x2).kept pq pr) :
    (State.entry s tile kind f).kept pq pr := by
  unfold State.entry
  repeat' first
    | with_reducible assumption
    | with_reducible apply kept_ite
    | with_reducible apply hf
    | with_reducible apply State.entryAbort_kept
    | with_reducible apply State.drainHazard_kept
    | with_reducible apply State.passWet_kept
    | with_reducible apply State.modTile_kept
    | with_reducible apply State.modRegion_kept
    | with_reducible apply State.conflict_kept
    | split
    | with_reducible apply kept_mk

theorem State.modFlume_kept {s : State} {tile : Nat} {f : Flume → Flume} (hs : s.kept pq pr) :
    (State.modFlume s tile f).kept pq pr := by
  unfold State.modFlume
  repeat' first
    | with_reducible assumption
    | with_reducible apply State.modTile_kept

theorem execGateBegin_kept {tile : Nat} {s : State} (hs : s.kept pq pr) :
    answersKept pq pr (execGateBegin tile s) := by
  unfold execGateBegin
  repeat' first
    | with_reducible assumption
    | with_reducible apply keeps_next
    | with_reducible apply State.entry_kept
    | with_reducible apply State.conflict_kept
    | with_reducible apply State.modFlume_kept
    | split
    | dsimp only
    | intro _

theorem State.unitEntry_kept {s : State} {tile : Nat} {kind : Nat} {u : Entry → Nat} {f : State → Region → Entry → State} (hs : s.kept pq pr) (hf : ∀ x0 x1 x2, x0.kept pq pr → (f x0 x1 x2).kept pq pr) :
    (State.unitEntry s tile kind u f).kept pq pr := by
  unfold State.unitEntry
  repeat' first
    | with_reducible assumption
    | with_reducible apply hf
    | with_reducible apply State.entry_kept
    | with_reducible apply State.conflict_kept
    | with_reducible apply State.modFlume_kept
    | split
    | intro _

theorem State.noteStart_kept {s : State} {tile : Nat} {f : TickStart → TickStart} (hs : s.kept pq pr) :
    (State.noteStart s tile f).kept pq pr := by
  unfold State.noteStart
  repeat' first
    | with_reducible assumption
    | with_reducible apply State.modFlume_kept

theorem State.sendItem_kept {s : State} {tile : Nat} {n : Entry} {dst : Nat} {w : Payload} (hs : s.kept pq pr) :
    (State.sendItem s tile n dst w).kept pq pr := by
  unfold State.sendItem
  repeat' first
    | with_reducible assumption
    | with_reducible apply kept_ite
    | with_reducible apply State.noteStart_kept
    | with_reducible apply State.sendTimed_kept
    | with_reducible apply State.entryFault_kept

theorem execFlumeSend_kept {tile : Nat} {s : State} (hs : s.kept pq pr) :
    answersKept pq pr (execFlumeSend tile s) := by
  unfold execFlumeSend
  repeat' first
    | with_reducible assumption
    | with_reducible apply keeps_next
    | with_reducible apply State.unitEntry_kept
    | with_reducible apply State.conflict_kept
    | with_reducible apply State.entryFault_kept
    | with_reducible apply State.sendItem_kept
    | split
    | dsimp only
    | intro _

theorem execFlumeMatrix_kept {tile : Nat} {s : State} (hs : s.kept pq pr) :
    answersKept pq pr (execFlumeMatrix tile s) := by
  unfold execFlumeMatrix
  repeat' first
    | with_reducible assumption
    | with_reducible apply keeps_next
    | with_reducible apply State.unitEntry_kept
    | with_reducible apply State.entryFault_kept
    | with_reducible apply State.beginMatrix_kept
    | with_reducible apply State.modFlume_kept
    | split
    | dsimp only
    | intro _

theorem execFlumeDma_kept {tile : Nat} {d : DmaSpec} {s : State} (hs : s.kept pq pr) :
    answersKept pq pr (execFlumeDma tile d s) := by
  refine keeps_next (State.unitEntry_kept hs ?_)
  intro s r n h
  dsimp only
  refine kept_ite (State.conflict_kept h) ?_
  split
  · exact State.entryFault_kept h
  · split
    · exact State.conflict_kept h
    · refine kept_ite (State.entryFault_kept h) ?_
      exact State.noteStart_kept (State.modFlume_kept (State.startDma_kept h))

theorem execFlumeNop_kept {tile : Nat} {s : State} (hs : s.kept pq pr) :
    answersKept pq pr (execFlumeNop tile s) := by
  unfold execFlumeNop
  repeat' first
    | with_reducible assumption
    | with_reducible apply keeps_next
    | with_reducible apply State.entry_kept
    | with_reducible apply kept_mk
    | intro _

theorem State.admission_kept {s : State} {tile : Nat} {r : Region} {n : Entry} (hs : s.kept pq pr) :
    (State.admission s tile r n).2.kept pq pr := by
  unfold State.admission
  repeat' first
    | with_reducible assumption
    | with_reducible apply State.countWaitDenied_kept
    | split

theorem execFlumeEnd_kept {tile : Nat} {s : State} (hs : s.kept pq pr) :
    answersKept pq pr (execFlumeEnd tile s) := by
  unfold execFlumeEnd
  repeat' first
    | with_reducible assumption
    | with_reducible apply keeps_next
    | with_reducible apply State.entry_kept
    | with_reducible apply State.entryFault_kept
    | with_reducible apply State.modFlume_kept
    | split
    | intro _

theorem execFlumeRow_kept {tile : Nat} {op : RowOp} {len : Nat} {src : Nat} {dst : Nat} {s : State} (hs : s.kept pq pr) :
    answersKept pq pr (execFlumeRow tile op len src dst s) := by
  unfold execFlumeRow
  repeat' first
    | with_reducible assumption
    | with_reducible apply keeps_next
    | with_reducible apply State.unitEntry_kept
    | with_reducible apply State.entryFault_kept
    | with_reducible apply State.conflict_kept
    | with_reducible apply State.modFlume_kept
    | with_reducible apply State.modTile_kept
    | split
    | dsimp only
    | intro _

theorem execFlumeAdmission_kept {tile : Nat} {s : State} (hs : s.kept pq pr) :
    answersKept pq pr (execFlumeAdmission tile s) := by
  unfold execFlumeAdmission
  repeat' first
    | with_reducible assumption
    | with_reducible apply keeps_next
    | with_reducible apply State.entry_kept
    | with_reducible apply State.entryFault_kept
    | with_reducible apply State.modFlume_kept
    | with_reducible refine kept_snd (by assumption) (State.admission_kept ?_)
    | split
    | dsimp only
    | intro _

theorem execGateEnd_kept {tile : Nat} {s : State} (hs : s.kept pq pr) :
    answersKept pq pr (execGateEnd tile s) := by
  unfold execGateEnd
  repeat' first
    | with_reducible assumption
    | with_reducible apply keeps_next
    | with_reducible apply State.entry_kept
    | with_reducible apply State.conflict_kept
    | with_reducible apply State.modFlume_kept
    | split
    | intro _

theorem execFlumePhase_kept {tile : Nat} {s : State} (hs : s.kept pq pr) :
    answersKept pq pr (execFlumePhase tile s) := by
  unfold execFlumePhase
  repeat' first
    | with_reducible assumption
    | with_reducible apply keeps_next
    | with_reducible apply State.entry_kept
    | with_reducible apply State.markPhase_kept
    | split
    | with_reducible apply kept_mk
    | intro _

theorem execLoopBegin_kept {tile : Nat} {s : State} (hs : s.kept pq pr) :
    answersKept pq pr (execLoopBegin tile s) := by
  unfold execLoopBegin
  repeat' first
    | with_reducible assumption
    | with_reducible apply keeps_next
    | with_reducible apply State.entry_kept
    | with_reducible apply State.conflict_kept
    | with_reducible apply State.modFlume_kept
    | split
    | dsimp only
    | intro _

theorem execLoopEnd_kept {tile : Nat} {s : State} (hs : s.kept pq pr) :
    answersKept pq pr (execLoopEnd tile s) := by
  unfold execLoopEnd
  repeat' first
    | with_reducible assumption
    | with_reducible apply keeps_next
    | with_reducible apply State.entry_kept
    | with_reducible apply State.conflict_kept
    | with_reducible apply State.modFlume_kept
    | split
    | dsimp only
    | intro _

theorem execFlumeSeta_kept {tile : Nat} {s : State} (hs : s.kept pq pr) :
    answersKept pq pr (execFlumeSeta tile s) := by
  unfold execFlumeSeta
  repeat' first
    | with_reducible assumption
    | with_reducible apply keeps_next
    | with_reducible apply State.entry_kept
    | with_reducible apply State.modFlume_kept
    | dsimp only
    | intro _

theorem execFlumeSignal_kept {tile : Nat} {s : State} (hs : s.kept pq pr) :
    answersKept pq pr (execFlumeSignal tile s) := by
  unfold execFlumeSignal
  repeat' first
    | with_reducible assumption
    | with_reducible apply keeps_next
    | with_reducible apply State.entry_kept
    | with_reducible apply State.noteStart_kept
    | with_reducible refine kept_fst (by assumption) (State.engineSignal_kept ?_)
    | split
    | dsimp only
    | intro _

theorem execFlumeRelease_kept {tile : Nat} {s : State} (hs : s.kept pq pr) :
    answersKept pq pr (execFlumeRelease tile s) := by
  unfold execFlumeRelease
  repeat' first
    | with_reducible assumption
    | with_reducible apply keeps_next
    | with_reducible apply State.entry_kept
    | with_reducible apply State.conflict_kept
    | with_reducible apply State.modFlume_kept
    | split
    | dsimp only
    | intro _

theorem execReleaseSpanEnd_kept {tile : Nat} {s : State} (hs : s.kept pq pr) :
    answersKept pq pr (execReleaseSpanEnd tile s) := by
  unfold execReleaseSpanEnd
  repeat' first
    | with_reducible assumption
    | with_reducible apply keeps_next
    | with_reducible apply keeps_ite
    | with_reducible apply State.passWet_kept
    | with_reducible apply State.modTile_kept
    | split

theorem State.writePicture_kept {s : State} {c : Nat} {j : Job} {x : Plan} {draw i : Nat} {o : Shown}
    (hs : s.kept pq pr) : ∀ t, s.writePicture c j x draw i o = some t → t.kept pq pr := by
  unfold State.writePicture
  dsimp only
  have h := fun a b p q => kept_bind (State.writeStruct_kept (c := c) (va := a) (d := p) hs)
    (fun s hs => State.writeStruct_kept (c := c) (va := b) (d := q) hs)
  split
  · exact kept_bind (h _ _ _ _) (fun s hs => State.writeStruct_kept hs)
  · exact h _ _ _ _

theorem State.writePictures_kept {s : State} {c : Nat} {j : Job} {x : Plan} {draw : Nat} (hs : s.kept pq pr) :
    (s.writePictures c j x draw).2.2.kept pq pr := by
  unfold State.writePictures
  refine foldl_keeps (P := fun acc : Nat × Bool × State => acc.2.2.kept pq pr) ?_ _ hs
  intro acc e h
  split
  · exact h
  · split
    · next heq => exact State.writePicture_kept h _ heq
    · exact h

theorem State.jobPlan_kept {s : State} {c : Nat} {j : Job} (hs : s.kept pq pr) :
    (State.jobPlan s c j).2.kept pq pr := by
  unfold State.jobPlan
  repeat' first
    | with_reducible assumption
    | with_reducible refine kept_snd (by assumption) (State.readStruct_kept ?_)
    | split

theorem State.failJob_kept {s : State} {k : Nat} {c : Nat} {q : Nat} {code : Code} {detail : Nat} {written : Nat} (hs : s.kept pq pr) :
    (State.failJob s k c q code detail written).kept pq pr := by
  unfold State.failJob
  repeat' first
    | with_reducible assumption
    | with_reducible apply State.modHeadworks_kept
    | with_reducible apply State.modQueue_kept
    | with_reducible apply State.takeFault_kept

theorem execIntakeJobCompletion_kept {stack : Nat} {s : State} (hs : s.kept pq pr) :
    answersKept pq pr (execIntakeJobCompletion stack s) := by
  unfold execIntakeJobCompletion
  repeat' first
    | with_reducible assumption
    | with_reducible apply keeps_next
    | with_reducible apply keeps_ite
    | with_reducible apply State.modHeadworks_kept
    | with_reducible apply State.failJob_kept
    | with_reducible apply State.writePictures_kept
    | with_reducible apply State.modQueue_kept
    | with_reducible refine kept_snd (by assumption) (State.jobPlan_kept ?_)
    | split
    | dsimp only

theorem State.badJob_kept {s : State} {k : Nat} {c : Nat} {q : Nat} {d : BitVec 512} {code : Code} {detail : Nat} (hs : s.kept pq pr) :
    (State.badJob s k c q d code detail).kept pq pr := by
  unfold State.badJob
  repeat' first
    | with_reducible assumption
    | with_reducible apply State.descFault_kept
    | with_reducible apply State.modHeadworks_kept

theorem execDescIntake_kept {ctx : Nat} {queue : Nat} {desc : BitVec 512} {s : State} (hs : s.kept pq pr) :
    answersKept pq pr (execDescIntake ctx queue desc s) := by
  unfold execDescIntake
  repeat' first
    | with_reducible assumption
    | with_reducible apply keeps_next
    | with_reducible apply State.startDesc_kept
    | with_reducible apply State.descFault_kept
    | with_reducible apply State.badJob_kept
    | with_reducible apply State.structFault_kept
    | with_reducible apply State.setWork_kept
    | with_reducible refine kept_snd (by assumption) (State.readStruct_kept ?_)
    | split
    | dsimp only
    | intro _

theorem execIntakeJobStart_kept {stack : Nat} {s : State} (hs : s.kept pq pr) :
    answersKept pq pr (execIntakeJobStart stack s) := by
  unfold execIntakeJobStart
  repeat' first
    | with_reducible assumption
    | with_reducible apply keeps_next
    | with_reducible apply keeps_ite
    | with_reducible apply State.modHeadworks_kept
    | with_reducible apply State.failJob_kept
    | with_reducible refine kept_snd (by assumption) (State.jobPlan_kept ?_)
    | split
    | dsimp only

theorem State.writeCacheCtl_kept {s : State} {new : Nat} {acts : Nat} (hs : s.kept pq pr) :
    (State.writeCacheCtl s new acts).kept pq pr := by
  unfold State.writeCacheCtl
  repeat' first
    | with_reducible assumption
    | with_reducible apply kept_ite
    | with_reducible apply doKeepClear_kept
    | with_reducible apply kept_mk

theorem State.countBad_kept {s : State} {fn : Nat} (hs : s.kept pq pr) :
    (State.countBad s fn).kept pq pr := by
  unfold State.countBad
  repeat' first
    | with_reducible assumption
    | with_reducible apply State.modFn_kept

theorem State.bar0Read_kept {s : State} {fn : Nat} {offset : Nat} {size : Nat} (hs : s.kept pq pr) :
    (State.bar0Read s fn offset size).2.kept pq pr := by
  unfold State.bar0Read
  repeat' first
    | with_reducible assumption
    | with_reducible apply State.countBad_kept
    | split

theorem State.writeSeepBudget_kept {s : State} {new : Nat} (hs : s.kept pq pr) :
    (State.writeSeepBudget s new).kept pq pr := by
  unfold State.writeSeepBudget
  repeat' first
    | with_reducible assumption
    | with_reducible apply State.modHal_kept

theorem State.dropHalf_kept {s : State} {fn : Nat} (hs : s.kept pq pr) :
    (State.dropHalf s fn).kept pq pr := by
  unfold State.dropHalf
  repeat' first
    | with_reducible assumption
    | with_reducible apply State.modHal_kept

theorem State.writeSecCtl_kept {s : State} {mask : Nat} {new : Nat} {old : Nat} {acts : Nat} (hs : s.kept pq pr) :
    (State.writeSecCtl s mask new old acts).kept pq pr := by
  unfold State.writeSecCtl
  repeat' first
    | with_reducible assumption
    | with_reducible apply kept_ite
    | with_reducible apply doComputeEnableSet_kept
    | with_reducible apply doComputeEnableClear_kept
    | with_reducible apply doLevelReq_kept
    | with_reducible apply doEndDebug_kept

theorem State.writeMemLayout_kept {s : State} {new : Nat} (hs : s.kept pq pr) :
    (State.writeMemLayout s new).kept pq pr := by
  unfold State.writeMemLayout
  repeat' first
    | with_reducible assumption
    | with_reducible apply kept_ite
    | with_reducible apply kept_mk

theorem State.writeFabCtl_kept {s : State} {new : Nat} (hs : s.kept pq pr) :
    (State.writeFabCtl s new).kept pq pr := by
  unfold State.writeFabCtl
  repeat' first
    | with_reducible assumption
    | with_reducible apply kept_ite
    | with_reducible apply State.modFab_kept
    | with_reducible apply State.setPath_kept

theorem State.writeChainCtl_kept {s : State} {p : Nat} {new : Nat} {old : Nat} {acts : Nat} (hs : s.kept pq pr) :
    (State.writeChainCtl s p new old acts).kept pq pr := by
  unfold State.writeChainCtl
  repeat' first
    | with_reducible assumption
    | with_reducible apply kept_ite
    | with_reducible apply State.modPort_kept
    | with_reducible apply doChainEnableWrite_kept
    | with_reducible apply doRetrain_kept

theorem State.writeWeirCtl_kept {s : State} {new : Nat} (hs : s.kept pq pr) :
    (State.writeWeirCtl s new).kept pq pr := by
  unfold State.writeWeirCtl
  repeat' first
    | with_reducible assumption
    | with_reducible apply State.modPower_kept

theorem State.writePowerCap_kept {s : State} {new : Nat} {mask : Nat} (hs : s.kept pq pr) :
    (State.writePowerCap s new mask).kept pq pr := by
  unfold State.writePowerCap
  repeat' first
    | with_reducible assumption
    | with_reducible apply kept_ite
    | with_reducible apply State.modPower_kept
    | with_reducible apply doHostCapWrite_kept

theorem State.writeGaugeCtl_kept {s : State} {new : Nat} {old : Nat} {acts : Nat} (hs : s.kept pq pr) :
    (State.writeGaugeCtl s new old acts).kept pq pr := by
  unfold State.writeGaugeCtl
  repeat' first
    | with_reducible assumption
    | with_reducible apply kept_ite
    | with_reducible apply State.modGauge_kept
    | with_reducible apply State.armAt_kept
    | with_reducible apply doGaugeTrigger_kept

theorem State.writeGaugeExport_kept {s : State} {fn : Nat} {new : Nat} {acts : Nat} (hs : s.kept pq pr) :
    (State.writeGaugeExport s fn new acts).kept pq pr := by
  unfold State.writeGaugeExport
  repeat' first
    | with_reducible assumption
    | with_reducible apply kept_ite
    | with_reducible apply State.modGauge_kept
    | with_reducible apply doGaugeExportGo_kept

theorem State.writeMsix_kept {s : State} {f : Nat} {e : Nat} {w : Nat} {new : Nat} (hs : s.kept pq pr) :
    (State.writeMsix s f e w new).kept pq pr := by
  unfold State.writeMsix
  repeat' first
    | with_reducible assumption
    | with_reducible apply kept_ite
    | with_reducible apply State.modFn_kept
    | with_reducible apply State.emit_kept

theorem State.commitReg_kept {s : State} {fn : Nat} {r : Reg} {mask : Nat} {new : Nat} {old : Nat} {acts : Nat} {v : Nat} (hs : s.kept pq pr) :
    (State.commitReg s fn r mask new old acts v).kept pq pr := by
  unfold State.commitReg
  repeat' first
    | with_reducible assumption
    | with_reducible apply kept_ite
    | with_reducible apply doDeviceReset_kept
    | with_reducible apply State.modHal_kept
    | with_reducible apply State.modSec_kept
    | with_reducible apply State.writeSecCtl_kept
    | with_reducible apply doFwCtlAbort_kept
    | with_reducible apply doFwCtlGo_kept
    | with_reducible apply doBar4WindowWrite_kept
    | with_reducible apply State.writeMemLayout_kept
    | with_reducible apply State.writeCacheCtl_kept
    | with_reducible apply State.modSync_kept
    | with_reducible apply State.writeFabCtl_kept
    | with_reducible apply State.modPort_kept
    | with_reducible apply State.writeChainCtl_kept
    | with_reducible apply State.modTimed_kept
    | with_reducible apply State.writeWeirCtl_kept
    | with_reducible apply State.modPower_kept
    | with_reducible apply State.writePowerCap_kept
    | with_reducible apply doTrippedClear_kept
    | with_reducible apply State.writeSeepBudget_kept
    | with_reducible apply State.writeGaugeCtl_kept
    | with_reducible apply State.modGauge_kept
    | with_reducible apply State.armAt_kept
    | with_reducible apply State.writeGaugeExport_kept
    | with_reducible apply State.modHeadworks_kept
    | with_reducible apply State.modFn_kept
    | with_reducible apply doAdminQueueEnable_kept
    | with_reducible apply doAdminDoorbell_kept
    | with_reducible apply State.writeMsix_kept
    | with_reducible apply kept_foldl
    | with_reducible apply kept_getD
    | split
    | with_reducible apply kept_mk

theorem State.writeReg_kept {s : State} {fn : Nat} {r : Reg} {mask : Nat} {v : Nat} (hs : s.kept pq pr) :
    (State.writeReg s fn r mask v).kept pq pr := by
  unfold State.writeReg
  repeat' first
    | with_reducible assumption
    | with_reducible apply State.commitReg_kept

theorem State.write4_kept {s : State} {fn : Nat} {a : Nat} {v : Nat} (hs : s.kept pq pr) :
    (State.write4 s fn a v).kept pq pr := by
  unfold State.write4
  repeat' first
    | with_reducible assumption
    | with_reducible apply kept_ite
    | with_reducible apply State.dropHalf_kept
    | with_reducible apply State.modHal_kept
    | with_reducible apply State.writeReg_kept
    | split
    | with_reducible apply kept_mk

theorem State.busWrite_kept {s : State} {fn : Nat} {a : Nat} {size : Nat} {v : Nat} (hs : s.kept pq pr) :
    (State.busWrite s fn a size v).kept pq pr := by
  unfold State.busWrite
  repeat' first
    | with_reducible assumption
    | with_reducible apply kept_ite
    | with_reducible apply State.write4_kept
    | with_reducible apply State.writeReg_kept
    | with_reducible apply State.dropHalf_kept
    | split

theorem State.bar0Write_kept {s : State} {fn : Nat} {a : Nat} {size : Nat} {v : Word64} (hs : s.kept pq pr) :
    (State.bar0Write s fn a size v).kept pq pr := by
  unfold State.bar0Write
  repeat' first
    | with_reducible assumption
    | with_reducible apply kept_ite
    | with_reducible apply State.modSec_kept
    | with_reducible apply State.busWrite_kept

theorem doRegisterWrite_kept {fn : Nat} {offset : Nat} {size : Nat} {value : Word64} {s : State} (hs : s.kept pq pr) :
    (doRegisterWrite fn offset size value s).kept pq pr := by
  unfold doRegisterWrite
  repeat' first
    | with_reducible assumption
    | with_reducible apply State.bar0Write_kept
    | split

theorem execRegisterWrite_kept {fn : Nat} {offset : Nat} {size : Nat} {value : Word64} {s : State} (hs : s.kept pq pr) :
    answersKept pq pr (execRegisterWrite fn offset size value s) := by
  unfold execRegisterWrite
  repeat' first
    | with_reducible assumption
    | with_reducible apply keeps_next
    | with_reducible apply keeps_ite
    | with_reducible apply State.countBad_kept
    | with_reducible apply State.defer_kept
    | with_reducible apply doRegisterWrite_kept
    | split

theorem State.manage_kept {s : State} {i : Instr} {f : State} (hs : s.kept pq pr) (hf : f.kept pq pr) :
    answersKept pq pr (State.manage s i f) := by
  unfold State.manage
  repeat' first
    | with_reducible assumption
    | with_reducible apply keeps_next
    | with_reducible apply keeps_ite
    | with_reducible apply State.orDefer_kept

theorem doPldmEventRead_kept {s : State} (hs : s.kept pq pr) :
    (doPldmEventRead s).kept pq pr := by
  unfold doPldmEventRead
  repeat' first
    | with_reducible assumption
    | exact ⟨rfl, rfl⟩
    | with_reducible apply State.modHal_kept
    | with_reducible apply State.modMod_kept

theorem execPldmEventRead_kept {s : State} (hs : s.kept pq pr) :
    answersKept pq pr (execPldmEventRead s) := by
  unfold execPldmEventRead
  repeat' first
    | with_reducible assumption
    | with_reducible apply State.manage_kept
    | with_reducible apply doPldmEventRead_kept

theorem doFabricManagerKeyInstall_kept {key : BitVec 256} {s : State} (hs : s.kept pq pr) :
    (doFabricManagerKeyInstall key s).kept pq pr := by
  unfold doFabricManagerKeyInstall
  repeat' first
    | with_reducible assumption
    | with_reducible apply kept_ite
    | with_reducible apply State.emit_kept
    | with_reducible apply State.modFab_kept

theorem execFabricManagerKeyInstall_kept {key : BitVec 256} {s : State} (hs : s.kept pq pr) :
    answersKept pq pr (execFabricManagerKeyInstall key s) := by
  unfold execFabricManagerKeyInstall
  repeat' first
    | with_reducible assumption
    | with_reducible apply State.manage_kept
    | with_reducible apply doFabricManagerKeyInstall_kept

theorem doHealthLogReadout_kept {first : Nat} {count : Nat} {s : State} (hs : s.kept pq pr) :
    (doHealthLogReadout first count s).kept pq pr := by
  unfold doHealthLogReadout
  repeat' first
    | with_reducible assumption
    | with_reducible apply State.emit_kept

theorem execHealthLogReadout_kept {first : Nat} {count : Nat} {s : State} (hs : s.kept pq pr) :
    answersKept pq pr (execHealthLogReadout first count s) := by
  unfold execHealthLogReadout
  repeat' first
    | with_reducible assumption
    | with_reducible apply State.manage_kept
    | with_reducible apply doHealthLogReadout_kept

theorem doSmbusArp_kept {addr : BitVec 7} {s : State} (hs : s.kept pq pr) :
    (doSmbusArp addr s).kept pq pr := by
  unfold doSmbusArp
  repeat' first
    | with_reducible assumption
    | with_reducible apply State.modHal_kept

theorem doMctpEndpointIdAssignment_kept {eid : BitVec 8} {s : State} (hs : s.kept pq pr) :
    (doMctpEndpointIdAssignment eid s).kept pq pr := by
  unfold doMctpEndpointIdAssignment
  repeat' first
    | with_reducible assumption
    | with_reducible apply State.modHal_kept

theorem doPldmSensorRead_kept {sensor : Sensor} {s : State} (hs : s.kept pq pr) :
    (doPldmSensorRead sensor s).kept pq pr := by
  unfold doPldmSensorRead
  repeat' first
    | with_reducible assumption
    | with_reducible apply State.drawn_kept
    | with_reducible apply State.emit_kept

theorem doBmcRegisterAccess_kept {write : Bool} {offset : Nat} {size : Nat} {value : Word64} {s : State} (hs : s.kept pq pr) :
    (doBmcRegisterAccess write offset size value s).kept pq pr := by
  unfold doBmcRegisterAccess
  repeat' first
    | with_reducible assumption
    | with_reducible apply kept_ite
    | with_reducible apply State.emit_kept
    | with_reducible apply State.writeReg_kept
    | split

theorem execPldmSensorRead_kept {sensor : Sensor} {s : State} (hs : s.kept pq pr) :
    answersKept pq pr (execPldmSensorRead sensor s) := by
  unfold execPldmSensorRead
  repeat' first
    | with_reducible assumption
    | with_reducible apply State.manage_kept
    | with_reducible apply doPldmSensorRead_kept

theorem execSmbusArp_kept {addr : BitVec 7} {s : State} (hs : s.kept pq pr) :
    answersKept pq pr (execSmbusArp addr s) := by
  unfold execSmbusArp
  repeat' first
    | with_reducible assumption
    | with_reducible apply State.manage_kept
    | with_reducible apply doSmbusArp_kept

theorem execMctpEndpointIdAssignment_kept {eid : BitVec 8} {s : State} (hs : s.kept pq pr) :
    answersKept pq pr (execMctpEndpointIdAssignment eid s) := by
  unfold execMctpEndpointIdAssignment
  repeat' first
    | with_reducible assumption
    | with_reducible apply State.manage_kept
    | with_reducible apply doMctpEndpointIdAssignment_kept

theorem execBmcRegisterAccess_kept {write : Bool} {offset : Nat} {size : Nat} {value : Word64} {s : State} (hs : s.kept pq pr) :
    answersKept pq pr (execBmcRegisterAccess write offset size value s) := by
  unfold execBmcRegisterAccess
  repeat' first
    | with_reducible assumption
    | with_reducible apply State.manage_kept
    | with_reducible apply doBmcRegisterAccess_kept

theorem idleTick_kept {s : State} (hs : s.kept pq pr) : answersKept pq pr (idleTick s) := by
  have hs := State.moveLanes_kept (State.retryHeld_kept hs)
  unfold idleTick
  refine keeps_ite (keeps_ite ?_ (keeps_next (State.tickOnce_kept hs))) (keeps_next hs)
  intro t ht
  cases ht

theorem State.runDeferred_kept {s : State} {i : Instr} (hs : s.kept pq pr) : (s.runDeferred i).kept pq pr :=
  match i with
  | .powerInputApplied => State.adminStep_kept hs
  | .pwrEnHigh => State.adminStep_kept hs
  | .pwrEnLow => State.adminStep_kept hs
  | .perstNAssert .. => State.adminStep_kept hs
  | .perstNDeassert => State.adminStep_kept hs
  | .internalBusBelowMinimum => State.adminStep_kept hs
  | .standbyBelowMinimum => State.adminStep_kept hs
  | .hotInsertion .. => State.adminStep_kept hs
  | .analogComparatorTrip .. => State.adminStep_kept hs
  | .tickrefLost => State.adminStep_kept hs
  | .tickrefReturn => State.adminStep_kept hs
  | .islandUnlocked .. => State.adminStep_kept hs
  | .tapReset => State.adminStep_kept hs
  | .jtagInstruction .. => State.adminStep_kept hs
  | .gaugeNFallingEdge .. => State.adminStep_kept hs
  | .droopReport .. => State.adminStep_kept hs
  | .droopTrip .. => State.adminStep_kept hs
  | .fwCtlGo .. => doFwCtlGo_kept hs
  | .fwCtlAbort => doFwCtlAbort_kept hs
  | .pldmFirmwareUpdate .. => doPldmFirmwareUpdate_kept hs
  | .imageVerificationDone => State.adminStep_kept hs
  | .readyReached => State.adminStep_kept hs
  | .computeEnableSet => doComputeEnableSet_kept hs
  | .computeEnableClear => doComputeEnableClear_kept hs
  | .levelReq .. => doLevelReq_kept hs
  | .endDebug => doEndDebug_kept hs
  | .debugSessionExpiry => State.adminStep_kept hs
  | .nonceRequest .. => State.adminStep_kept hs
  | .nonceExpiry => State.adminStep_kept hs
  | .debugToken .. => State.adminStep_kept hs
  | .retireToken .. => State.adminStep_kept hs
  | .getCertificate .. => State.adminStep_kept hs
  | .challenge .. => State.adminStep_kept hs
  | .getMeasurements .. => State.adminStep_kept hs
  | .keyExchange => State.adminStep_kept hs
  | .heartbeat .. => State.adminStep_kept hs
  | .firmwareReload .. => State.adminStep_kept hs
  | .firmwareReloadComplete => State.adminStep_kept hs
  | .inServiceBankWrite => State.adminStep_kept hs
  | .smbusArp .. => doSmbusArp_kept hs
  | .mctpEndpointIdAssignment .. => doMctpEndpointIdAssignment_kept hs
  | .pldmSensorRead .. => doPldmSensorRead_kept hs
  | .pldmEventRead => doPldmEventRead_kept hs
  | .mgmtCapEffecter .. => doMgmtCapEffecter_kept hs
  | .fabricManagerKeyInstall .. => doFabricManagerKeyInstall_kept hs
  | .healthLogReadout .. => doHealthLogReadout_kept hs
  | .bmcRegisterAccess .. => doBmcRegisterAccess_kept hs
  | .fabricIdentityAssignment .. => doFabricIdentityAssignment_kept hs
  | .partitionAssignment .. => doPartitionAssignment_kept hs
  | .multicastGroupDefinition .. => doMulticastGroupDefinition_kept hs
  | .partitionRevocation .. => State.adminStep_kept hs
  | .revocationWalkEnd => State.adminStep_kept hs
  | .gaugeTrigger => doGaugeTrigger_kept hs
  | .gaugeBroadcastReceipt .. => State.adminStep_kept hs
  | .gaugeLatch => State.adminStep_kept hs
  | .gaugeExportGo .. => doGaugeExportGo_kept hs
  | .deviceReset => State.adminStep_kept hs
  | .registerWrite .. => doRegisterWrite_kept hs
  | .hostCapWrite .. => doHostCapWrite_kept hs
  | .trippedClear => doTrippedClear_kept hs
  | .keepClear => State.adminStep_kept hs
  | .keepSweepEnd => State.adminStep_kept hs
  | .retrain .. => State.adminStep_kept hs
  | .chainEnableWrite .. => State.adminStep_kept hs
  | .adminQueueEnable .. => State.adminStep_kept hs
  | .bar4WindowWrite .. => State.adminStep_kept hs
  | .msixUnmask .. => State.adminStep_kept hs
  | .bar4Write .. => State.adminStep_kept hs
  | .bar4Read .. => State.adminStep_kept hs
  | .functionLevelReset .. => State.adminStep_kept hs
  | .vfDisable => State.adminStep_kept hs
  | .atsInvalidation .. => State.adminStep_kept hs
  | .doorbellWrite .. => State.adminStep_kept hs
  | .adminDoorbell .. => State.adminStep_kept hs
  | .ctxCreate .. => State.adminStep_kept hs
  | .ctxSetStep .. => State.adminStep_kept hs
  | .ctxSetFlags .. => State.adminStep_kept hs
  | .ctxSetWaitWdog .. => State.adminStep_kept hs
  | .ctxSetQuantum .. => State.adminStep_kept hs
  | .ctxSetWatchRing .. => State.adminStep_kept hs
  | .ctxSetSyncMap .. => State.adminStep_kept hs
  | .ctxSetHeap .. => State.adminStep_kept hs
  | .ctxSetFaultClear .. => State.adminStep_kept hs
  | .ctxReset .. => State.adminStep_kept hs
  | .ctxDestroy .. => State.adminStep_kept hs
  | .queueCreate .. => State.adminStep_kept hs
  | .queueDestroy .. => State.adminStep_kept hs
  | .queueRestart .. => State.adminStep_kept hs
  | .objAlloc .. => State.adminStep_kept hs
  | .objFree .. => State.adminStep_kept hs
  | .mapPages .. => State.adminStep_kept hs
  | .unmapPages .. => State.adminStep_kept hs
  | .slotSet .. => State.adminStep_kept hs
  | .syncAlloc .. => State.adminStep_kept hs
  | .syncFree .. => State.adminStep_kept hs
  | .syncMapSet .. => State.adminStep_kept hs
  | .shareExport .. => State.adminStep_kept hs
  | .shareUnexport .. => State.adminStep_kept hs
  | .apertureAdd .. => State.adminStep_kept hs
  | .apertureRemove .. => State.adminStep_kept hs
  | .reclaim .. => State.adminStep_kept hs
  | .fnAssign .. => State.adminStep_kept hs
  | .descNop .. => State.adminStep_kept hs
  | .descCopy .. => State.adminStep_kept hs
  | .copySegment => State.adminStep_kept hs
  | .descCompute .. => State.adminStep_kept hs
  | .descFlume .. => doDescFlume_kept hs
  | .descIntake .. => State.adminStep_kept hs
  | .descWait .. => State.adminStep_kept hs
  | .descSignal .. => State.adminStep_kept hs
  | .descArrive .. => State.adminStep_kept hs
  | .descSetStep .. => State.adminStep_kept hs
  | .descriptorCompletion .. => State.adminStep_kept hs
  | .slotGrant => State.adminStep_kept hs
  | .quantumExpiry .. => State.adminStep_kept hs
  | .slotGiveUp .. => State.adminStep_kept hs
  | .blockStart .. => State.adminStep_kept hs
  | .scalarControl .. => State.adminStep_kept hs
  | .immediateLoad .. => State.adminStep_kept hs
  | .reconverge .. => State.adminStep_kept hs
  | .vectorInteger .. => State.adminStep_kept hs
  | .rdraw .. => State.adminStep_kept hs
  | .vectorBinary32 .. => State.adminStep_kept hs
  | .conversion .. => State.adminStep_kept hs
  | .splitConversion .. => State.adminStep_kept hs
  | .blockConversion .. => State.adminStep_kept hs
  | .scratchLoad .. => State.adminStep_kept hs
  | .scratchStore .. => State.adminStep_kept hs
  | .clusterScratchLoad .. => State.adminStep_kept hs
  | .clusterScratchStore .. => State.adminStep_kept hs
  | .clusterScratchResponse .. => State.adminStep_kept hs
  | .memoryLoad .. => State.adminStep_kept hs
  | .memoryStore .. => State.adminStep_kept hs
  | .flagStore .. => State.adminStep_kept hs
  | .flagStoreSend .. => State.adminStep_kept hs
  | .memoryLoadReturn .. => State.adminStep_kept hs
  | .deferredFaultReturn .. => State.adminStep_kept hs
  | .atomic .. => State.adminStep_kept hs
  | .readOnlyCacheFill .. => State.adminStep_kept hs
  | .rowEngine .. => State.adminStep_kept hs
  | .tileDmaStart .. => State.adminStep_kept hs
  | .tileDmaTestWait .. => State.adminStep_kept hs
  | .tileDmaCompletion .. => State.adminStep_kept hs
  | .systemInstruction .. => State.adminStep_kept hs
  | .heapAlloc .. => State.adminStep_kept hs
  | .heapFree .. => State.adminStep_kept hs
  | .groupRestore .. => State.adminStep_kept hs
  | .mload .. => State.adminStep_kept hs
  | .mpass .. => State.adminStep_kept hs
  | .mdrain .. => State.adminStep_kept hs
  | .mzero .. => State.adminStep_kept hs
  | .mdiag .. => State.adminStep_kept hs
  | .mbread .. => State.adminStep_kept hs
  | .mbwrite .. => State.adminStep_kept hs
  | .mend .. => State.adminStep_kept hs
  | .matrixCommandBegin .. => State.adminStep_kept hs
  | .fenceRel .. => State.adminStep_kept hs
  | .acquire .. => State.adminStep_kept hs
  | .flush .. => State.adminStep_kept hs
  | .fenceOrd .. => State.adminStep_kept hs
  | .cisternWalkEnd .. => State.adminStep_kept hs
  | .storeAcknowledgement .. => State.adminStep_kept hs
  | .sigSet .. => State.adminStep_kept hs
  | .sigAdd .. => State.adminStep_kept hs
  | .syncWait .. => State.adminStep_kept hs
  | .syncTest .. => State.adminStep_kept hs
  | .syncArrive .. => State.adminStep_kept hs
  | .signalApply .. => State.adminStep_kept hs
  | .arrivalApply .. => State.adminStep_kept hs
  | .waitRegistration .. => State.adminStep_kept hs
  | .syncWake .. => State.adminStep_kept hs
  | .waiterPoll .. => State.adminStep_kept hs
  | .waitWatchdogExamination => State.adminStep_kept hs
  | .homeAccess .. => State.adminStep_kept hs
  | .sectorFillCompletion .. => State.adminStep_kept hs
  | .writeBackAcknowledgement .. => State.adminStep_kept hs
  | .patrolScrub .. => State.adminStep_kept hs
  | .atomicUnitOperation .. => State.adminStep_kept hs
  | .rowRepair .. => doRowRepair_kept hs
  | .rowRepairSwitch .. => State.adminStep_kept hs
  | .tsvShift .. => doTsvShift_kept hs
  | .channelReplacement .. => doChannelReplacement_kept hs
  | .jobBoundary => doJobBoundary_kept hs
  | .cisternLoad .. => State.adminStep_kept hs
  | .cisternStore .. => State.adminStep_kept hs
  | .cisternFillCompletion .. => State.adminStep_kept hs
  | .cisternEviction .. => State.adminStep_kept hs
  | .remoteAtomicForward .. => State.adminStep_kept hs
  | .fabricLoad .. => State.adminStep_kept hs
  | .fabricStore .. => State.adminStep_kept hs
  | .fabricAtomic .. => State.adminStep_kept hs
  | .reductionLine .. => State.adminStep_kept hs
  | .contributionClose .. => State.adminStep_kept hs
  | .orderedReductionCombine .. => State.adminStep_kept hs
  | .multicastStore .. => State.adminStep_kept hs
  | .fenceSignal .. => State.adminStep_kept hs
  | .fabricAcknowledgement .. => State.adminStep_kept hs
  | .fabricRejection .. => State.adminStep_kept hs
  | .requestResend .. => State.adminStep_kept hs
  | .pathTableReweight .. => State.adminStep_kept hs
  | .frameRetry .. => State.adminStep_kept hs
  | .laneMove .. => doLaneMove_kept hs
  | .fabricPortDown .. => State.adminStep_kept hs
  | .portTraining .. => State.adminStep_kept hs
  | .chainLoopbackTraining => State.adminStep_kept hs
  | .linkSignalLoss .. => State.adminStep_kept hs
  | .requestTimeout .. => State.adminStep_kept hs
  | .fabricTimeout => State.adminStep_kept hs
  | .retainGraceExpiry => State.adminStep_kept hs
  | .sluiceSend .. => State.adminStep_kept hs
  | .itemVisible .. => State.adminStep_kept hs
  | .sluiceRelease .. => State.adminStep_kept hs
  | .eventLineToggle .. => State.adminStep_kept hs
  | .halnorEventApply => State.adminStep_kept hs
  | .resetGroupRequest .. => State.adminStep_kept hs
  | .resetGroupDrained => State.adminStep_kept hs
  | .resetGroupDrainTimeout => State.adminStep_kept hs
  | .epochStart => State.adminStep_kept hs
  | .epochProbe .. => State.adminStep_kept hs
  | .epochOffsetsSet .. => State.adminStep_kept hs
  | .epochCompletionReport .. => State.adminStep_kept hs
  | .epochTimeout => State.adminStep_kept hs
  | .referenceDrift .. => State.adminStep_kept hs
  | .readyMessage .. => State.adminStep_kept hs
  | .refusedMessage .. => State.adminStep_kept hs
  | .entryTickMessage .. => State.adminStep_kept hs
  | .regionEntry => State.adminStep_kept hs
  | .flumeEntryFetch .. => State.adminStep_kept hs
  | .flumeNop .. => State.adminStep_kept hs
  | .flumeMatrix .. => State.adminStep_kept hs
  | .flumeRow .. => State.adminStep_kept hs
  | .flumeDma .. => State.adminStep_kept hs
  | .flumeSend .. => State.adminStep_kept hs
  | .flumeAdmission .. => State.adminStep_kept hs
  | .gateBegin .. => State.adminStep_kept hs
  | .gateEnd .. => State.adminStep_kept hs
  | .flumePhase .. => State.adminStep_kept hs
  | .loopBegin .. => State.adminStep_kept hs
  | .loopEnd .. => State.adminStep_kept hs
  | .flumeSeta .. => State.adminStep_kept hs
  | .flumeSignal .. => State.adminStep_kept hs
  | .flumeRelease .. => State.adminStep_kept hs
  | .releaseSpanEnd .. => State.adminStep_kept hs
  | .flumeEnd .. => State.adminStep_kept hs
  | .regionEnd => State.adminStep_kept hs
  | .regionAbortMessage => State.adminStep_kept hs
  | .timedWatchdog => State.adminStep_kept hs
  | .intakeJobStart .. => State.adminStep_kept hs
  | .intakeJobCompletion .. => State.adminStep_kept hs
  | .diagnosticsRequest .. => State.adminStep_kept hs
  | .ageingMeasurement .. => State.adminStep_kept hs
  | .eyeMonitorSample .. => State.adminStep_kept hs
  | .phyTrim .. => State.adminStep_kept hs
  | .controlPeriodBoundary .. => State.adminStep_kept hs
  | .requirementComputation => State.adminStep_kept hs
  | .weirContribution .. => State.adminStep_kept hs
  | .rootCombineDeadline => State.adminStep_kept hs
  | .agreementReceipt .. => State.adminStep_kept hs
  | .agreementMissing => State.adminStep_kept hs
  | .capPersistenceExpiry => State.adminStep_kept hs
  | .capStop => State.adminStep_kept hs
  | .instructionCacheFill .. => State.adminStep_kept hs
  | .reservedClassInstruction .. => State.adminStep_kept hs
  | .spdmAlgorithmNegotiation .. => State.adminStep_kept hs

theorem execFirmwareReloadComplete_kept {s : State} (hs : s.kept pq pr) :
    answersKept pq pr (execFirmwareReloadComplete s) := by
  unfold execFirmwareReloadComplete
  repeat' first
    | with_reducible assumption
    | with_reducible apply keeps_next
    | with_reducible apply State.runImage_kept
    | with_reducible apply State.modHal_kept
    | with_reducible apply State.runDeferred_kept
    | with_reducible apply kept_foldl
    | split

end Sys2Proof.Machine
end

