-- ==== Sys2Proof/Laws/Resets.lean ====
section
/-! SUPPORT. What the compute reset, the device reset and the loss of the main rails leave (R46, R472 to R474, R502). -/

namespace Sys2Proof.Machine

variable (s : State)

/-- R43: the entry stands first in the health log. -/
@[simp] theorem State.logEntry_hal (k : LogKind) (l : List Nat) :
    (s.logEntry k l).hal = { s.hal with log := (⟨k, l, s.tick.toNat⟩ :: s.hal.log).take 4096 } := rfl

/-- R460: an alert pulls ALERT_N low, is listed and sets its bit of DEV_ALERT. -/
@[simp] theorem State.raiseAlert_facts (a : Alert) :
    (s.raiseAlert a).mod = { s.mod with alertN := false } ∧
    (s.raiseAlert a).hal = { s.hal with
      alerts := s.hal.alerts ++ [a], devAlert := s.hal.devAlert ||| BitVec.ofNat 7 (2 ^ a.bit) } ∧
    (s.raiseAlert a).sent = .pldmEvent a :: .alert a :: s.sent := ⟨rfl, rfl, rfl⟩

/-- R46: after the compute reset nothing of the tiles is left, the counts are 0 and CHAIN_ACTIVE is low; the module is
otherwise as it was. -/
@[simp] theorem State.computeReset_facts :
    s.computeReset.tiles = [] ∧ s.computeReset.kernels = [] ∧ s.computeReset.issues = [] ∧
    (∀ w ∈ s.computeReset.walks, w.who = .device) ∧ s.computeReset.lines = [] ∧ s.computeReset.tick = 0 ∧ s.computeReset.wet = 0 ∧
    s.computeReset.mod = { s.mod with chainActive := false } ∧ s.computeReset.hal = { s.hal with events := [] } ∧
    s.computeReset.timed.valid = false ∧ s.computeReset.power.agreed = false ∧
    s.computeReset.power.applied = 0 ∧ s.computeReset.gauge.pending = [] ∧ s.computeReset.sync.objs = s.sync.objs ∧
    s.computeReset.sync.enable = s.sync.enable ∧ s.computeReset.sync.base = s.sync.base := by
  simp only [State.computeReset, State.dropEpoch, State.chainLow]
  simp
  rintro w x _ h rfl
  exact h

/-- R449, R465: with the compute group held, RUN and HOLD end in READY. -/
@[simp] theorem State.holdCompute_facts :
    s.holdCompute.tiles = [] ∧ s.holdCompute.kernels = [] ∧ s.holdCompute.tick = 0 ∧ s.holdCompute.wet = 0 ∧
    s.holdCompute.mod = { s.mod with
      chainActive := false, computeHeld := true, locked := false
      state := if s.mod.state = .run ∨ s.mod.state = .hold then .ready else s.mod.state } ∧
    s.holdCompute.hal = { s.hal with events := [] } ∧
    s.holdCompute.sec = { s.sec with level := s.sec.levelNext.getD s.sec.level, levelNext := none } := by
  simp [State.holdCompute]

@[simp] theorem State.endSession_mod : s.endSession.mod = s.mod ∧ s.endSession.sec.running = s.sec.running := by
  unfold State.endSession
  split <;> simp

@[simp] theorem State.applyLayout_facts :
    s.applyLayout.localActive = s.stackLocal ∧ s.applyLayout.stackLocal = s.stackLocal ∧
    s.applyLayout.ctxBase = s.ctxBase ∧ s.applyLayout.ctxEnable = s.ctxEnable ∧ s.applyLayout.sync = s.sync := by
  unfold State.applyLayout
  split
  · next h => simp [h]
  · simp

@[simp] theorem State.applyLayout_caches (h : s.slices = []) (h' : s.cistern = []) :
    s.applyLayout.slices = [] ∧ s.applyLayout.cistern = [] := by
  unfold State.applyLayout
  split <;> simp [State.loseMemory, h, h']

/-- R472, R473: after a device reset no work is left, the device is in AUX and the staged fields are in effect. -/
@[simp] theorem State.deviceReset_facts (b : Bool) :
    (s.deviceReset b).ctxs = [] ∧ (s.deviceReset b).kernels = [] ∧ (s.deviceReset b).tiles = [] ∧
    (s.deviceReset b).flights = [] ∧ (s.deviceReset b).issues = [] ∧ (s.deviceReset b).walks = [] ∧
    (s.deviceReset b).tick = 0 ∧ (s.deviceReset b).wet = 0 ∧ (s.deviceReset b).sync.objs = [] ∧
    (s.deviceReset b).fab.valid = false ∧ (s.deviceReset b).slices = [] ∧ (s.deviceReset b).cistern = [] ∧
    (s.deviceReset b).hostMem = s.hostMem ∧ (s.deviceReset b).pending = s.pending ∧
    (s.deviceReset b).fns = [(0, { Fn.reset with enabled := true })] ∧
    (s.deviceReset b).stackLocal = s.stackLocal ∧ (s.deviceReset b).localActive = s.stackLocal ∧
    (s.deviceReset b).ctxBase = s.ctxBase ∧ (s.deviceReset b).ctxBaseActive = s.ctxBase ∧
    (s.deviceReset b).hal.resetBusy = b ∧ (s.deviceReset b).hal.log = s.hal.log ∧
    (s.deviceReset b).sec.running = s.sec.running ∧
    (s.deviceReset b).mod = { s.mod with
      chainActive := false, state := if s.mod.state = .off then .off else .aux
      memTrained := false, computeHeld := true, locked := false, hostUp := s.mod.perstN && s.mod.pg } := by
  simp [State.deviceReset, State.applyStaged, State.deviceDefaults, State.dropCaches, State.dropWork, Sync.reset,
    Fabric.reset]

/-- R492, R502: with the main rails off memory is lost as well. -/
@[simp] theorem State.railsOff_facts :
    s.railsOff.ctxs = [] ∧ s.railsOff.tiles = [] ∧ s.railsOff.objs = [] ∧ s.railsOff.tick = 0 ∧
    s.railsOff.hostMem = s.hostMem ∧ s.railsOff.pending = s.pending ∧ s.railsOff.dram.cells = [] ∧
    s.railsOff.mod = { s.mod with
      chainActive := false, state := if s.mod.state = .off then .off else .aux
      memTrained := false, computeHeld := true, locked := false, hostUp := false, pg := false } := by
  simp [State.railsOff, State.loseMemory]

end Sys2Proof.Machine
end

