-- ==== Sys2Proof/Laws/Waits.lean ====
section
/-! SUPPORT. Steps when nothing waits: admin commands with none held back, lane moves with none waiting, the idle step, and
one wet tick after another. -/

namespace Sys2Proof.Machine

variable (s : State)

/-- With no command held back nothing is retried. -/
theorem State.retryHeld_nil (h : s.adminHeld = []) : s.retryHeld = s := by
  cases s
  simp only at h
  subst h
  simp [State.retryHeld]

/-- With no lane move waiting none is made. -/
theorem State.moveLanes_nil (h : s.repair.laneWait = []) : s.moveLanes = s := by
  simp [State.moveLanes, h]

/-- R345: an admin command with nothing before it and nothing to wait for has its effect. -/
theorem State.adminNow_open (i : Instr) (f : State → State) (h : s.hal.reloading = false) (h1 : s.adminHeld = [])
    (h2 : s.adminWaits i = false) : s.adminNow i f = .next (f s) := by
  simp [State.adminNow, State.orDefer, h, State.retryHeld_nil s h1, State.adminBlocked, h1, h2]

/-- R402: a reload defers it. -/
theorem State.adminNow_deferred (i : Instr) (f : State → State) (h : s.hal.reloading = true) :
    s.adminNow i f = .next (s.defer i) := by
  simp [State.adminNow, State.orDefer, h]

/-- The idle step with nothing waiting (assumption 1). -/
theorem idleTick_quiet (h : s.adminHeld = []) (h1 : s.repair.laneWait = []) :
    idleTick s = if s.running then (if s.tick = BitVec.allOnes 64 then .fault .tickWrap else .next s.tickOnce) else .next s := by
  simp only [idleTick, State.retryHeld_nil s h, State.moveLanes_nil s h1]

/-- R30, R31, R42: what one tick changes. -/
theorem State.tickOnce_eq : s.tickOnce = { s with
    tick := s.tick + 1
    hal := s.hal.passed (s.tick + 1).toNat
    wet := if s.tickOnce.wet = s.wet then s.wet else s.wet + 1
    power := { s.power with applied := s.tickOnce.power.applied, dryTicks := s.tickOnce.power.dryTicks } } := by
  unfold State.tickOnce
  dsimp only
  split <;> simp

end Sys2Proof.Machine
end

