-- ==== Sys2Proof/Tests/States.lean ====
section
/-! SUPPORT. Small states that the tests and the witnesses start from. -/

namespace Sys2Proof.Tests

open Sys2Proof Sys2Proof.Machine

/-- AUX with the rails up and an image running. -/
def railed : State :=
  { State.reset with
    mod := { State.reset.mod with pwrEn := true, pg := true, perstN := true, hostUp := true }
    sec := { State.reset.sec with running := some ⟨1, 0x2304, 1, true, true, true, 0, 0⟩, fwState := 2 } }

/-- READY. -/
def ready : State :=
  { railed with mod := { railed.mod with state := .ready, memTrained := true } }

/-- RUN. -/
def running : State :=
  { ready with
    mod := { ready.mod with state := .run, computeHeld := false, locked := true }
    sec := { ready.sec with computeEnable := true } }

/-- A group of 32 threads at address 0, one path, v(1) all ones. -/
def group0 : Group :=
  { uid := 7, kern := 3, block := 0, ctx := 5, v := (List.range 32).map (fun l => (32 + l, 1)), s := [(1, 10), (2, 3)]
    p := [], paths := [⟨0, BitVec.allOnes 32, .no⟩], turn := 0, issued := 0, ready := [], hold := .none, since := 0
    readyAt := 0, stopped := false }

/-- A tile whose slot 0 holds the group, with its block and the instruction line it needs. -/
def tile0 : Tile :=
  { Tile.reset with
    ctx := some 5, blocks := [⟨3, 0, 0, 0, 0, 4096, 1, []⟩], groups := [(0, some group0)], icache := [(0, [0])] }

/-- A resident context. -/
def ctx5 : Ctx := { Ctx.free with st := .resident, resident := true }

/-- RUN with one group on tile 0. -/
def threaded : State :=
  { running with
    ctxs := [(5, ctx5)], tiles := [(0, tile0)]
    kernels := [⟨3, 5, 1, 0, 0, 1, 32, 4096, 1, 1, [0], 1, 0, 0, 0, false, none, false⟩] }

end Sys2Proof.Tests
end

