-- ==== Sys2Proof/WellFormed.lean ====
section
/-! DEFINITION. Which terms of `Instr` are commands of the block: the range of every operand that the
spec bounds. A step runs any term (assumption 124). What the device itself checks and answers (a descriptor's fields,
a rank, a row's length, an access's size) is not checked here. -/

namespace Sys2Proof

/-- R338: functions 0 (the PF) to 63. -/
def fnOk (f : Nat) : Bool := decide (f < 64)
/-- R20: logical tiles. -/
def tileOk (t : Nat) : Bool := decide (t < 2304)
/-- R53: group slots of a tile. -/
def slotOk (n : Nat) : Bool := decide (n < 16)
/-- R340: contexts, and their queues. -/
def ctxOk (c : Nat) : Bool := decide (c < 4096)
def queueOk (q : Nat) : Bool := decide (q < 16)
/-- R28: 2,416 compute islands and 44 others. -/
def islandOk (i : Nat) : Bool := decide (i < 2460)
/-- R18, R425: compute dies and their droop monitors. -/
def dieOk (d : Nat) : Bool := decide (d < 4)
def monitorOk (m : Nat) : Bool := decide (m < 32)
/-- R190: stacks and channels. -/
def stackOk (k : Nat) : Bool := decide (k < 12)
def channelOk (c : Nat) : Bool := decide (c < 384)
/-- R201: the sectors of a line. -/
def sectorOk (s : Nat) : Bool := decide (s < 4)
/-- R252: device IDs, groups, routes. -/
def deviceOk (d : Nat) : Bool := decide (d < 65536)
def groupOk (g : Nat) : Bool := decide (g < 4096)
def routeOk (r : Nat) : Bool := decide (r < 3)
/-- R284: domain slots. -/
def domainSlotOk (d : Nat) : Bool := decide (d < 128)
/-- R247: sixteen fabric ports and two chain ports. -/
def portOk (p : Nat) : Bool := decide (p < 18)
/-- R249: repeats of a frame. -/
def attemptOk (n : Nat) : Bool := decide (n ≤ 17)
/-- R408: ratios of 64ths. -/
def ratioOk (k : Nat) : Bool := decide (k ≤ 60)
/-- R449: debug levels. -/
def levelOk (l : Nat) : Bool := decide (l < 4)
/-- R252: target offsets of 40 bits, and the bytes of one part (R225). -/
def offsetOk (o : Nat) : Bool := decide (o < 2 ^ 40)
def lengthOk (n : Nat) : Bool := decide (0 < n) && decide (n ≤ 128)
def partOk (d : List (Option Byte)) : Bool := lengthOk d.length
def lineOk (d : List Byte) : Bool := d.length == 128
/-- R212: sectors of a filled line, each of 32 bytes where it came. -/
def sectorsOk (d : List (Option (List Byte))) : Bool :=
  d.length == 4 && d.all (fun x => match x with
    | some b => b.length == 32
    | none => true)
def sliceOk (k : Nat) : Bool := decide (k < 4)
def cisSetOk (n : Nat) : Bool := decide (n < 8192)
/-- R487: MSI-X entries. -/
def vectorOk (e : Nat) : Bool := decide (e < 2048)
def pasidOk (p : Nat) : Bool := decide (p < 2 ^ 20)
/-- R445, R446: certificate slots and measurement blocks. -/
def certSlotOk (n : Nat) : Bool := decide (n < 8)
def measurementOk (i : Nat) : Bool := decide (i < 256)
/-- R84: DMA entries. -/
def entryOk (e : Nat) : Bool := decide (e < 16)
/-- R312: sync objects. -/
def syncIndexOk (i : Nat) : Bool := decide (i < 65536)
/-- R260: the members of a group. -/
def membersOk (l : List Nat) : Bool := decide (l.length ≤ 64) && l.all deviceOk
/-- R26: a domain holds at most 128 devices. -/
def domainOk (l : List Nat) : Bool := decide (l.length ≤ 128) && l.all deviceOk
/-- R412: the ratios a parent passes down, of the control period and the next two. -/
def ratiosOk (l : List Nat) : Bool := l.length == 3 && l.all ratioOk
/-- R295: children as (port, device). -/
def childrenOk (l : List (Nat × Nat)) : Bool := l.all (fun c => portOk c.1 && deviceOk c.2)
/-- R32: an item carries at most 256 bytes. -/
def itemOk (d : List Byte) : Bool := decide (d.length ≤ 256)
/-- R69: an address for every lane. -/
def laneMemOk (m : LaneMem) : Bool := m.addrs.length == 32
/-- R84, R273: a transfer's compression code, of two bits, and its rows. -/
def dmaOk (d : DmaSpec) : Bool :=
  decide (d.compress < 4) && decide (d.rows ≤ 65536)
/-- R251: what a fabric request's head names. -/
def headOk (h : FabHead) : Bool := deviceOk h.src && routeOk h.route
/-- R32: both ends of a sluice. -/
def sluiceOk (i : SluiceId) : Bool := islandOk i.src && islandOk i.dst
/-- R46: reset groups. -/
def groupIdOk (g : ResetGroup) : Bool :=
  match g with
  | .tile t => tileOk t
  | .cistern k | .bridge k => sliceOk k
  | .stack k => stackOk k
  | .port p => portOk p
  | .hostPort | .compute | .device => true
/-- R420: sixteen sensors per compute die, three per stack. -/
def readingsOk (r : Readings) : Bool := r.junction.length == 64 && r.stack.length == 36
/-- R50: the physical place of a tile. -/
def diagOk (d : DiagResult) : Bool :=
  match d with
  | .tile die _ _ | .forwarding die _ _ => dieOk die
  | .nothing => true
/-- R48, R281: training's outcome. -/
def trainOk (r : TrainResult) : Bool := deviceOk r.peerId && decide (r.culverts ≤ 2)
/-- R463: sensors by number. -/
def sensorOk (x : Sensor) : Bool :=
  match x with
  | .junction d | .band d | .slowdown d => dieOk d
  | .stackBase k => decide (k < 24)
  | .stackDram k => stackOk k
  | .link p => portOk p
  | .rail g => dieOk g
  | _ => true
/-- R403: one slowdown per die. -/
def slowdownOk (l : List Nat) : Bool := l.length == 4
/-- R257: one delay per fabric port. -/
def delaysOk (l : List Nat) : Bool := decide (l.length ≤ 16)

/-- A WELL-FORMED COMMAND. -/
def Instr.wf : Instr → Bool
  | .powerInputApplied => true
  | .pwrEnHigh => true
  | .pwrEnLow => true
  | .perstNAssert _ => true
  | .perstNDeassert => true
  | .internalBusBelowMinimum => true
  | .standbyBelowMinimum => true
  | .hotInsertion _ => true
  | .analogComparatorTrip die => dieOk die
  | .tickrefLost => true
  | .tickrefReturn => true
  | .islandUnlocked island => islandOk island
  | .tapReset => true
  | .jtagInstruction _ => true
  | .gaugeNFallingEdge _ _ => true
  | .droopReport die monitor => dieOk die && monitorOk monitor
  | .droopTrip die monitor => dieOk die && monitorOk monitor
  | .fwCtlGo _ => true
  | .fwCtlAbort => true
  | .pldmFirmwareUpdate _ => true
  | .imageVerificationDone => true
  | .readyReached => true
  | .computeEnableSet => true
  | .computeEnableClear => true
  | .levelReq level => levelOk level
  | .endDebug => true
  | .debugSessionExpiry => true
  | .nonceRequest _ => true
  | .nonceExpiry => true
  | .debugToken _ _ => true
  | .retireToken _ _ => true
  | .getCertificate slot => certSlotOk slot
  | .challenge slot _ => certSlotOk slot
  | .getMeasurements index _ _ => measurementOk index
  | .keyExchange => true
  | .heartbeat _ => true
  | .firmwareReload _ => true
  | .firmwareReloadComplete => true
  | .inServiceBankWrite => true
  | .smbusArp _ => true
  | .mctpEndpointIdAssignment _ => true
  | .pldmSensorRead sensor => sensorOk sensor
  | .pldmEventRead => true
  | .mgmtCapEffecter _ => true
  | .fabricManagerKeyInstall _ => true
  | .healthLogReadout _ _ => true
  | .bmcRegisterAccess _ _ _ _ => true
  | .fabricIdentityAssignment _ deviceId domainSlot => deviceOk deviceId && domainSlotOk domainSlot
  | .partitionAssignment _ _ members domain _ _ children => members.all deviceOk && domainOk domain && childrenOk children
  | .multicastGroupDefinition _ group members => groupOk group && membersOk members
  | .partitionRevocation _ _ => true
  | .revocationWalkEnd => true
  | .gaugeTrigger => true
  | .gaugeBroadcastReceipt _ => true
  | .gaugeLatch => true
  | .gaugeExportGo fn => fnOk fn
  | .deviceReset => true
  | .registerWrite fn _ _ _ => fnOk fn
  | .hostCapWrite _ => true
  | .trippedClear => true
  | .keepClear => true
  | .keepSweepEnd => true
  | .retrain _ => true
  | .chainEnableWrite _ _ => true
  | .adminQueueEnable fn _ _ => fnOk fn
  | .bar4WindowWrite _ => true
  | .msixUnmask fn entry => fnOk fn && vectorOk entry
  | .bar4Write _ _ => true
  | .bar4Read _ _ => true
  | .functionLevelReset fn => fnOk fn
  | .vfDisable => true
  | .atsInvalidation pasid _ _ => pasidOk pasid
  | .doorbellWrite fn _ _ _ => fnOk fn
  | .adminDoorbell fn _ _ => fnOk fn
  | .ctxCreate fn _ => fnOk fn
  | .ctxSetStep fn _ => fnOk fn
  | .ctxSetFlags fn _ => fnOk fn
  | .ctxSetWaitWdog fn _ => fnOk fn
  | .ctxSetQuantum fn _ => fnOk fn
  | .ctxSetWatchRing fn _ => fnOk fn
  | .ctxSetSyncMap fn _ => fnOk fn
  | .ctxSetHeap fn _ => fnOk fn
  | .ctxSetFaultClear fn _ => fnOk fn
  | .ctxReset fn _ => fnOk fn
  | .ctxDestroy fn _ => fnOk fn
  | .queueCreate fn _ => fnOk fn
  | .queueDestroy fn _ => fnOk fn
  | .queueRestart fn _ => fnOk fn
  | .objAlloc fn _ => fnOk fn
  | .objFree fn _ => fnOk fn
  | .mapPages fn _ => fnOk fn
  | .unmapPages fn _ => fnOk fn
  | .slotSet fn _ => fnOk fn
  | .syncAlloc fn _ _ _ _ => fnOk fn
  | .syncFree fn _ index => fnOk fn && syncIndexOk index
  | .syncMapSet fn _ vid _ => fnOk fn && decide (vid < 65536)
  | .shareExport fn _ index _ => fnOk fn && syncIndexOk index
  | .shareUnexport fn _ _ => fnOk fn
  | .apertureAdd fn _ => fnOk fn
  | .apertureRemove fn _ => fnOk fn
  | .reclaim fn _ => fnOk fn
  | .fnAssign fn _ => fnOk fn
  | .descNop ctx queue _ => ctxOk ctx && queueOk queue
  | .descCopy ctx queue _ => ctxOk ctx && queueOk queue
  | .copySegment => true
  | .descCompute ctx queue _ => ctxOk ctx && queueOk queue
  | .descFlume ctx queue _ => ctxOk ctx && queueOk queue
  | .descIntake ctx queue _ => ctxOk ctx && queueOk queue
  | .descWait ctx queue _ => ctxOk ctx && queueOk queue
  | .descSignal ctx queue _ => ctxOk ctx && queueOk queue
  | .descArrive ctx queue _ => ctxOk ctx && queueOk queue
  | .descSetStep ctx queue _ => ctxOk ctx && queueOk queue
  | .descriptorCompletion ctx queue => ctxOk ctx && queueOk queue
  | .slotGrant => true
  | .quantumExpiry ctx => ctxOk ctx
  | .slotGiveUp ctx => ctxOk ctx
  | .blockStart tile => tileOk tile
  | .scalarControl tile slot _ _ => tileOk tile && slotOk slot
  | .immediateLoad tile slot _ _ => tileOk tile && slotOk slot
  | .reconverge tile slot _ => tileOk tile && slotOk slot
  | .vectorInteger tile slot _ _ => tileOk tile && slotOk slot
  | .rdraw tile slot _ => tileOk tile && slotOk slot
  | .vectorBinary32 tile slot _ _ => tileOk tile && slotOk slot
  | .conversion tile slot _ _ _ _ => tileOk tile && slotOk slot
  | .splitConversion tile slot _ => tileOk tile && slotOk slot
  | .blockConversion tile slot _ _ _ => tileOk tile && slotOk slot
  | .scratchLoad tile slot m => tileOk tile && slotOk slot && laneMemOk m
  | .scratchStore tile slot m => tileOk tile && slotOk slot && laneMemOk m
  | .clusterScratchLoad tile slot _ m => tileOk tile && slotOk slot && laneMemOk m
  | .clusterScratchStore tile slot _ m => tileOk tile && slotOk slot && laneMemOk m
  | .clusterScratchResponse _ => true
  | .memoryLoad tile slot _ m => tileOk tile && slotOk slot && laneMemOk m
  | .memoryStore tile slot m => tileOk tile && slotOk slot && laneMemOk m
  | .flagStore tile slot m => tileOk tile && slotOk slot && laneMemOk m
  | .flagStoreSend _ => true
  | .memoryLoadReturn _ => true
  | .deferredFaultReturn _ => true
  | .atomic tile slot _ _ _ m => tileOk tile && slotOk slot && laneMemOk m
  | .readOnlyCacheFill tile _ sector => tileOk tile && sectorOk sector
  | .rowEngine tile slot _ _ _ _ _ => tileOk tile && slotOk slot
  | .tileDmaStart tile slot d => tileOk tile && slotOk slot && dmaOk d
  | .tileDmaTestWait tile slot entry _ _ => tileOk tile && slotOk slot && entryOk entry
  | .tileDmaCompletion tile entry => tileOk tile && entryOk entry
  | .systemInstruction tile slot _ _ => tileOk tile && slotOk slot
  | .heapAlloc tile slot _ => tileOk tile && slotOk slot
  | .heapFree tile slot _ => tileOk tile && slotOk slot
  | .groupRestore tile => tileOk tile
  | .mload tile slot _ => tileOk tile && slotOk slot
  | .mpass tile slot _ => tileOk tile && slotOk slot
  | .mdrain tile slot _ => tileOk tile && slotOk slot
  | .mzero tile slot _ => tileOk tile && slotOk slot
  | .mdiag tile slot _ => tileOk tile && slotOk slot
  | .mbread tile slot _ => tileOk tile && slotOk slot
  | .mbwrite tile slot _ => tileOk tile && slotOk slot
  | .mend tile slot _ => tileOk tile && slotOk slot
  | .matrixCommandBegin tile => tileOk tile
  | .fenceRel tile slot _ => tileOk tile && slotOk slot
  | .acquire tile slot _ => tileOk tile && slotOk slot
  | .flush tile slot _ => tileOk tile && slotOk slot
  | .fenceOrd tile slot _ => tileOk tile && slotOk slot
  | .cisternWalkEnd _ => true
  | .storeAcknowledgement _ => true
  | .sigSet tile slot _ => tileOk tile && slotOk slot
  | .sigAdd tile slot _ => tileOk tile && slotOk slot
  | .syncWait tile slot _ => tileOk tile && slotOk slot
  | .syncTest tile slot _ => tileOk tile && slotOk slot
  | .syncArrive tile slot _ => tileOk tile && slotOk slot
  | .signalApply _ => true
  | .arrivalApply _ => true
  | .waitRegistration _ => true
  | .syncWake _ => true
  | .waiterPoll _ => true
  | .waitWatchdogExamination => true
  | .homeAccess _ => true
  | .sectorFillCompletion channel _ sector _ _ => channelOk channel && sectorOk sector
  | .writeBackAcknowledgement channel _ => channelOk channel
  | .patrolScrub channel _ sector _ _ => channelOk channel && sectorOk sector
  | .atomicUnitOperation _ => true
  | .rowRepair channel _ _ _ => channelOk channel
  | .rowRepairSwitch channel _ _ _ => channelOk channel
  | .tsvShift channel _ => channelOk channel
  | .channelReplacement channel => channelOk channel
  | .jobBoundary => true
  | .cisternLoad _ => true
  | .cisternStore _ => true
  | .cisternFillCompletion dev _ data => deviceOk dev && sectorsOk data
  | .cisternEviction slice set => sliceOk slice && cisSetOk set
  | .remoteAtomicForward _ => true
  | .fabricLoad h offset len => headOk h && offsetOk offset && lengthOk len
  | .fabricStore h offset data => headOk h && offsetOk offset && partOk data
  | .fabricAtomic h offset _ _ _ _ => headOk h && offsetOk offset
  | .reductionLine h offset _ _ data => headOk h && offsetOk offset && lineOk data
  | .contributionClose h offset _ _ => headOk h && offsetOk offset
  | .orderedReductionCombine offset => offsetOk offset
  | .multicastStore h group offset data => headOk h && groupOk group && offsetOk offset && partOk data
  | .fenceSignal h ctx _ _ _ _ _ => headOk h && ctxOk ctx
  | .fabricAcknowledgement dev route _ _ => deviceOk dev && routeOk route
  | .fabricRejection dev route _ _ => deviceOk dev && routeOk route
  | .requestResend dev route _ => deviceOk dev && routeOk route
  | .pathTableReweight delays => delaysOk delays
  | .frameRetry port attempt => portOk port && attemptOk attempt
  | .laneMove port _ => portOk port
  | .fabricPortDown port => portOk port
  | .portTraining port r => portOk port && trainOk r
  | .chainLoopbackTraining => true
  | .linkSignalLoss port => portOk port
  | .requestTimeout dev route _ => deviceOk dev && routeOk route
  | .fabricTimeout => true
  | .retainGraceExpiry => true
  | .sluiceSend i _ data dest => sluiceOk i && itemOk data && dest.all (fun x => tileOk x.1)
  | .itemVisible i => sluiceOk i
  | .sluiceRelease i => sluiceOk i
  | .eventLineToggle _ => true
  | .halnorEventApply => true
  | .resetGroupRequest g _ => groupIdOk g
  | .resetGroupDrained => true
  | .resetGroupDrainTimeout => true
  | .epochStart => true
  | .epochProbe port _ _ _ result => portOk port && ratiosOk result.ratios
  | .epochOffsetsSet => true
  | .epochCompletionReport child => deviceOk child
  | .epochTimeout => true
  | .referenceDrift port _ _ => portOk port
  | .readyMessage dev => deviceOk dev
  | .refusedMessage dev => deviceOk dev
  | .entryTickMessage _ => true
  | .regionEntry => true
  | .flumeEntryFetch tile => tileOk tile
  | .flumeNop tile => tileOk tile
  | .flumeMatrix tile => tileOk tile
  | .flumeRow tile _ _ _ _ => tileOk tile
  | .flumeDma tile d => tileOk tile && dmaOk d
  | .flumeSend tile => tileOk tile
  | .flumeAdmission tile => tileOk tile
  | .gateBegin tile => tileOk tile
  | .gateEnd tile => tileOk tile
  | .flumePhase tile => tileOk tile
  | .loopBegin tile => tileOk tile
  | .loopEnd tile => tileOk tile
  | .flumeSeta tile => tileOk tile
  | .flumeSignal tile => tileOk tile
  | .flumeRelease tile => tileOk tile
  | .releaseSpanEnd tile => tileOk tile
  | .flumeEnd tile => tileOk tile
  | .regionEnd => true
  | .regionAbortMessage => true
  | .timedWatchdog => true
  | .intakeJobStart stack => stackOk stack
  | .intakeJobCompletion stack => stackOk stack
  | .diagnosticsRequest r => diagOk r
  | .ageingMeasurement slowdown => slowdownOk slowdown
  | .eyeMonitorSample port _ _ => portOk port
  | .phyTrim _ _ => true
  | .controlPeriodBoundary r => readingsOk r
  | .requirementComputation => true
  | .weirContribution child _ ratio => deviceOk child && ratioOk ratio
  | .rootCombineDeadline => true
  | .agreementReceipt _ ratio => ratioOk ratio
  | .agreementMissing => true
  | .capPersistenceExpiry => true
  | .capStop => true
  | .instructionCacheFill tile _ => tileOk tile
  | .reservedClassInstruction tile slot _ => tileOk tile && slotOk slot
  | .spdmAlgorithmNegotiation _ => true

end Sys2Proof
end

