-- ==== Sys2Proof/Tests/Slice0.lean ====
section
/-! SUPPORT. For every obligation with hypotheses a witness that meets them, clause by clause; ill-formed terms that `Instr.wf` refuses; the spec's worked examples; a few steps. -/

namespace Sys2Proof.Tests

open Sys2Proof Sys2Proof.Machine

-- One theorem after another: the kernel checks below would else hold a stack each at one time.
set_option Elab.async false

/-- An accepted image, a fabric-manager head, tokens, an object and a request that await their use. -/
def img : FwImage := ⟨1, 0x2304, 1, true, true, true, 0, 0⟩
def head1 : FmHead := ⟨true, 1⟩
def token (kind : Nat) : Token := ⟨kind, 0, 7, 2, 60, true, true⟩
def obj9 : Obj := ⟨9, 5, 0, 65536, none, false, false, none, false, false, 0, 0⟩
def out1 : OutReq := ⟨1, 0, 0, .load 0 4, none, none, 5, true, false, 0, 0, 0⟩

/-- OFF. -/
def off : State := State.reset.modMod (fun y => { y with state := .off })

/-- An instruction word with predicate p7 and every other field 0; the first path of `group0`. -/
def w7 : Word64 := 0xE00000

/-- An instruction word: class, operation, DST, SRCA, SRCB, SRCC and IMM, with predicate p7. -/
def wordOf (cls op dst a b c imm : Nat) : Word64 :=
  BitVec.ofNat 64 (cls * 2 ^ 60 + op * 2 ^ 52 + dst * 2 ^ 45 + a * 2 ^ 38 + b * 2 ^ 31 + c * 2 ^ 24 + 7 * 2 ^ 21 + imm)
def path0 : Path := ⟨0, BitVec.allOnes 32, .no⟩

/-- `threaded` with another group in the slot, or another context. -/
def threadedBy (g : Group) : State := threaded.modTile 0 (fun x => { x with groups := [(0, some g)] })
def inContext (c : Ctx) : State := { threaded with ctxs := [(5, c)] }

/-- Two paths of one group. -/
def pathLow : Path := ⟨0, 1, .no⟩
def pathHigh : Path := ⟨8, 0xFFFFFFFE, .no⟩
def forked : Group := { group0 with paths := [pathLow, pathHigh] }
def parked : Group := { group0 with paths := [⟨0, 1, .reconverge⟩, ⟨0, 0xFFFFFFFE, .no⟩], turn := 1 }

/-- Lanes at consecutive words, and all at one address. -/
def lanes4 : LaneMem := ⟨w7, 4, (List.range 32).map (fun l => 4 * l)⟩
def lanesAtAddr (a : Nat) : LaneMem := ⟨w7, 4, List.replicate 32 a⟩

def block0 : Block := ⟨3, 0, 0, 0, 0, 4096, 1, []⟩
def issue1 : Issue := ⟨1, 0, 0, 7, 5, 3, 0, 1, 1, [0], 4, 2, none, 0, none, none⟩

/-- An access of the group's issue 1. -/
def access2 (op : AccOp) (place : Place) (stage : AccStage) : Access :=
  ⟨2, 1, .group 0 7, 5, op, place, 0, 4, 0, false, false, none, stage⟩

/-- The first 64 KiB of the context's address space, in device memory. -/
def mapping0 : Mapping := ⟨0, 65536, false, .dram 0, 9, true, true, true⟩
def mapped : State := inContext { ctx5 with maps := [mapping0] }

def kernel3 : Kernel := ⟨3, 5, 1, 0, 0, 1, 32, 4096, 1, 1, [0], 0, 0, 0, 0, false, none, false⟩

/-- A tile of context `c` at which the first block of `kernel3` waits. -/
def waitingTile (c : Option Nat) : State :=
  { running with kernels := [kernel3], tiles := [(0, { Tile.reset with ctx := c, waiting := [(3, 0)] })] }

def signal1 (k : SyncKind) : SyncOp := ⟨1, k, .group 0 7, 0, 5, 0, none, none, 0, 1, 0, 0, 0, 3, true, false⟩
def wait1 (st : WaitState) : Wait := ⟨1, .group 0 7, 5, 0, none, 0, 1, st, 0⟩

/-- The synchronisation state with object 0 of a kind, owned by context 5. -/
def synced (kind : Nat) (s : State) : State :=
  s.modSync (fun y => { y with active := true, objs := [(0, { SyncObj.free with kind := kind, owner := 5 })] })

def command1 : MCmd := ⟨15, w7, 0, 0, 0, 0, 1, 0, 7, 0, [], 0, 0⟩
def dma0 : DmaSpec := ⟨w7, true, 0, .memory 0, 64, 1, 0, 0, some 0, none, 0, 0, 0, 0⟩
def transfer0 : Dma := ⟨dma0, 5, 0, 3, 0, none, 0, 0, 0xFFFFFFFF, 9, 0, none⟩

/-- What holds of every element holds of none. -/
theorem none_only {α : Type} {o : Option α} {P : α → Prop} (h : o = none) : ∀ l, o = some l → P l := by
  intro l e; rw [h] at e; cases e

/-- The parts of an answer that carries a value, and the answer from them. -/
def okVal {ε : Type} (x : Except ε (List Byte) × State) : List Byte :=
  match x.1 with
  | .ok d => d
  | .error _ => []
def okBool {ε : Type} (x : Except ε (List Byte) × State) : Bool :=
  match x.1 with
  | .ok _ => true
  | .error _ => false
theorem ok_eq {ε : Type} (x : Except ε (List Byte) × State) (h : okBool x = true) : x = (.ok (okVal x), x.2) := by
  rcases x with ⟨_ | _, _⟩
  · cases h
  · rfl
theorem got_eq (x : Option (BitVec 256) × State) (h : x.1.isSome = true) : x = (some (x.1.getD 0), x.2) := by
  rcases x with ⟨_ | _, _⟩
  · cases h
  · rfl
theorem triple_none {α β γ : Type} (x : α × Option β × γ) (h : x.2.1.isNone = true) : x = (x.1, none, x.2.2) := by
  rcases x with ⟨_, _ | _, _⟩
  · rfl
  · cases h

/-- Line 0 of device memory in its cache slice. -/
def chan0 : Nat := running.channelOf 0
def line0 : Line := ⟨0, 0, List.replicate 128 0, 0, 0, false, 0⟩
def sliced (x : Slice) : State := { running with slices := [(chan0, x)] }
def missed : Slice := ⟨[], [⟨0, 0, 1, [2], false, []⟩], [], [], []⟩

/-- A device in partition 1 with its memory trained, and a request's head. -/
def serving : State := running.modFab (fun y => { y with valid := true, partValid := true, partition := 1 })
def fab1 (seq : Nat) : FabHead := ⟨2, 1, 0, seq⟩

/-- An object exported to the aperture at offset 0, and the header of a reduction in it whose one contributor has closed. -/
def exported (owner : Nat) : State :=
  { serving with objs := [{ obj9 with owner := owner, aperture := some (0, true, true, true) }]
                 dram := ⟨[(0, 1), (128, 1), (2304, 1)], []⟩ }

/-- Context 5 with queue 0 of a kind, one descriptor announced, and the state with it. -/
def queue0 (kind : Nat) : Queue := { Queue.absent with st := .running, kind := kind, p := 1 }
def queued (kind : Nat) (work : Option Work) : State :=
  inContext { ctx5 with maps := [mapping0], queues := [(0, { queue0 kind with work := work, held := work.map (fun _ => 0) })] }

/-- One admin command announced by the PF, with context 0 in existence. -/
def announced : State :=
  ({ running with ctxs := [(0, ctx5)] } : State).modFn 0 (fun y => { y with enable := true, p := 1 })

/-- A region of context 5 at a stage, and a state in which tile 0 has one entry of a kind to execute. -/
def region5 (st : RegionStage) : Region := ⟨1, 5, 0, 0, 2, 0, 100, 0, [], [], [], [0], st, 0, 0, [], 0, 0⟩
def inRegion (st : RegionStage) : State := threaded.modTimed (fun y => { y with region := some (region5 st) })
def entry0 (kind : Nat) : BitVec 256 := BitVec.ofNat 256 (kind * 2 ^ 20)
def flumed (kind : Nat) (rel : List (Nat × Nat)) : State :=
  (inRegion .running).modTile 0 (fun x =>
    { x with flume := { Flume.idle with active := true, size := 4096, buf := [(0, entry0 kind)], released := rel } })

/-- The state at the entry's tick (as `State.entryDue` says it). -/
def dueNow (s : State) (tile : Nat) (e : BitVec 256) : Nat :=
  (BitVec.ofNat 64 ((s.tile tile).flume.lastTick + eDelta e) - s.timed.wetOffset).toNat
def dueState (s : State) (tile : Nat) (e : BitVec 256) : State :=
  ((s.passWet ((s.tile tile).flume.lastTick + eDelta e - s.jobWet.toNat)).modTile tile
    (fun y => (y.endSpans (BitVec.ofNat 64 ((s.tile tile).flume.lastTick + eDelta e) - s.timed.wetOffset).toNat).takeEntry
      ((s.tile tile).flume.lastTick + eDelta e) true)).modRegion
    (fun r => { r with idle := max r.idle (dueNow s tile e) })

/-- A sluice and an item in it. -/
def mesh0 : SluiceId := ⟨.mesh, 0, 1, 0⟩
def item0 : Item := ⟨0, false, 3, 0, false, .bytes [1]⟩

/-- An intake job record that passes its checks (R360). -/
def jobBytes : List Byte :=
  [1, 0, 0, 0, 1, 0, 0, 1, 0, 0, 0, 0, 1, 0, 0, 0] ++ List.replicate 8 0 ++ [1] ++ List.replicate 11 0 ++ [1, 0, 0, 0] ++
  List.replicate 8 0 ++ [16, 0, 16, 0] ++ List.replicate 76 0 ++ [1] ++ List.replicate 127 0
def job1 : Job := { jobOf jobBytes with dst := 0x1000000, src := 0x2000000 }

theorem none_ne_done {w : Option Work} (h : w = none) : ∀ st det r, w ≠ some (.done st det r) := by
  intro _ _ _ e; rw [h] at e; cases e
theorem none_ne_compute {w : Option Work} (h : w = none) : ∀ k, w ≠ some (.compute k) := by
  intro _ e; rw [h] at e; cases e

/-- A copy of 4 bytes in progress whose one load has returned, and what its scattering leaves. -/
def copyD : BitVec 512 := BitVec.ofNat 512 (3 * 2 ^ 320)
def copyS (loads : List Access) : State :=
  { queued 0 none with
    flights := loads
    ctxs := [(5, { ctx5 with
      maps := [mapping0], queues := [(0, { queue0 0 with work := some (.copy 0 none 0 0), held := some copyD })] })] }
def copyLoad (st : AccStage) : Access := { access2 .load (.dram 0) st with who := .queue 5 0 }
def copyC (s : State) : CopyRun × State :=
  s.copyScatter 5 0 (dHint copyD) (copyOf copyD).total (dFlag copyD) 0 0
    (copyParts (copySegment (copyOf copyD) 0 4) (fun r => r.2.1))
    ((s.copyLoads 5 0).flatMap Access.data)
theorem moved_eq (x : CopyRun × State) (h : x.1.fault.isNone = true) : x = (⟨x.1.moved, none, x.1.held⟩, x.2) := by
  rcases x with ⟨⟨_, _ | _, _⟩, _⟩
  · rfl
  · cases h

/-- A device with an uncorrectable sector noted in the row of sector 0, with and without a spare row left. -/
def dueRow : State := State.reset.modHal (fun y => { y with memErrors := [⟨0, 0, true⟩] })
theorem due_row (s : State) (h : s.hal.memErrors = [⟨0, 0, true⟩]) :
    s.rowDue (s.channelOf 0) (Config.dramPlace (s.locate 0).2).1 (Config.dramPlace (s.locate 0).2).2.1
      (Config.dramPlace (s.locate 0).2).2.2 = true := by
  simp [State.rowDue, State.inRow, h]
def dueFull : State :=
  { dueRow with repair := { Repair.none with
      rowsDone := [(rowKey (dueRow.channelOf 0) (Config.dramPlace (dueRow.locate 0).2).1 (Config.dramPlace (dueRow.locate 0).2).2.1, 16)] } }

/-- Lanes of a class at consecutive words, and all at one address. -/
def lanesIn (cls : Nat) : LaneMem := ⟨wordOf cls 0 0 0 0 0 0, 4, (List.range 32).map (fun l => 4 * l)⟩
def lanesAt (cls a : Nat) : LaneMem := ⟨wordOf cls 0 0 0 0 0 0, 4, List.replicate 32 a⟩

theorem witness_StepRunsFrontCommand :
    (∃ (s : State), (s.pending = []) ∧ (s.adminHeld = []) ∧ (s.repair.laneWait = []) ∧ (s.mod.state ≠ .run)) ∧
    (∃ (s : State), (s.pending = []) ∧ (s.adminHeld = []) ∧ (s.repair.laneWait = []) ∧ (s.mod.state = .run) ∧ (s.tick
      ≠ BitVec.allOnes 64)) :=
  ⟨⟨State.reset, by decide +kernel⟩,
   ⟨running, by decide +kernel⟩⟩

theorem witness_EveryStepKeepsMemoryAndRecord :
    ∃ (s : State) (t : State), (s.canonical) ∧ (step s = .next t) :=
  ⟨State.reset, State.reset, ⟨by unfold State.canonical; decide +kernel, rfl⟩⟩

theorem witness_PowerPinsAndPowerUp :
    (∃ (s : State), (s.mod.standby = true) ∧ (s.mod.mated = true) ∧ (s.mod.blades = true) ∧ (s.mod.comparator =
      false)) ∧
    (∃ (s : State), (s.mod.standby = false)) ∧
    (∃ (s : State), (s.mod.standby = true) ∧ (s.mod.mated = true) ∧ (s.mod.state ≠ .off) ∧ (s.mod.pwrEn = true) ∧
      (s.mod.comparator = false)) ∧
    (∃ (s : State), (s.mod.pg = true)) ∧
    (∃ (s : State), (s.mod.state ≠ .off)) ∧
    (∃ (s : State), (s.mod.state ≠ .off)) ∧
    (∃ (s : State), (s.mod.state ≠ .off)) ∧
    (∃ (s : State), (s.mod.state = .off)) :=
  ⟨⟨State.reset, by decide +kernel⟩,
   ⟨(State.reset).modMod (fun y => { y with standby := false }), by decide +kernel⟩,
   ⟨railed, by decide +kernel⟩,
   ⟨railed, by decide +kernel⟩,
   ⟨State.reset, by decide +kernel⟩,
   ⟨State.reset, by decide +kernel⟩,
   ⟨State.reset, by decide +kernel⟩,
   ⟨off, by decide +kernel⟩⟩

theorem witness_DeviceResetEndsWork :
    (∃ (s : State), (s.mod.state ≠ .off)) ∧
    (∃ (s : State), (s.mod.state ≠ .off) ∧ (s.hal.resetBusy = false)) ∧
    (∃ (s : State), (s.mod.state ≠ .off) ∧ (s.hal.resetBusy = true)) ∧
    (∃ (s : State), (s.mod.pg = true) ∧ (s.mod.state ≠ .off)) :=
  ⟨⟨running, by decide +kernel⟩,
   ⟨running, by decide +kernel⟩,
   ⟨(running).modHal (fun y => { y with resetBusy := true }), by decide +kernel⟩,
   ⟨running, by decide +kernel⟩⟩

theorem witness_RunTestPortAndBanks :
    (∃ (s : State), (s.mod.state = .aux) ∧ (s.mod.pg = true) ∧ (s.sec.running.isSome = true) ∧ (s.sec.computeEnable =
      false)) ∧
    (∃ (s : State), (s.hal.reloading = false) ∧ (s.mod.state = .ready) ∧ (s.mod.memTrained = true) ∧ (s.lifecycle ≤ 3)
      ∧ (s.mod.tickref = true) ∧ (s.power.tripped = false) ∧ (s.hal.eolHold = false)) ∧
    (∃ (s : State), (s.hal.reloading = false) ∧ (s.mod.state = .run)) ∧
    (∃ (s : State), (s.mod.state = .run)) ∧
    (∃ (s : State), (s.mod.state = .run) ∧ (s.sec.computeEnable = false)) ∧
    (∃ (s : State), (s.mod.state = .ready) ∧ (s.sec.computeEnable = true) ∧ (s.mod.memTrained = true) ∧ (s.lifecycle ≤
      3) ∧ (s.power.tripped = false) ∧ (s.hal.eolHold = false)) ∧
    (∃ (s : State), (s.mod.state ≠ .off)) ∧
    (∃ (s : State), (s.mod.state ≠ .off)) ∧
    (∃ (s : State), (s.mod.state ≠ .off) ∧ (s.sec.level < 3)) ∧
    (∃ (s : State), (s.mod.state ≠ .off) ∧ (3 ≤ s.sec.level)) ∧
    (∃ (s : State), (s.mod.pg = true)) ∧
    (∃ (s : State), (s.mod.state ≠ .off) ∧ (s.sec.recordOk = true) ∧ (s.repair.unrecorded ≠ []) ∧ (s.bankRecent =
      false)) ∧
    (∃ (s : State), (s.bankRecent = true)) :=
  ⟨⟨railed, by decide +kernel⟩,
   ⟨ready, by decide +kernel⟩,
   ⟨running, by decide +kernel⟩,
   ⟨running, by decide +kernel⟩,
   ⟨(running).modSec (fun y => { y with computeEnable := false }), by decide +kernel⟩,
   ⟨(ready).modSec (fun y => { y with computeEnable := true }), by decide +kernel⟩,
   ⟨State.reset, by decide +kernel⟩,
   ⟨State.reset, by decide +kernel⟩,
   ⟨State.reset, by decide +kernel⟩,
   ⟨(State.reset).modSec (fun y => { y with level := 3 }), by decide +kernel⟩,
   ⟨railed, by decide +kernel⟩,
   ⟨({ State.reset with repair := { Repair.none with unrecorded := [(1, 0, 0, 0, 0)] } } : State), by decide +kernel⟩,
   ⟨(State.reset).modHal (fun y => { y with bankAt := some 0 }), by decide +kernel⟩⟩

theorem witness_GaugesAreQueuedLatchedAndExported :
    (∃ (s : State), (s.hal.reloading = false) ∧ (s.gauge.enable = true) ∧ (s.gauge.sources.getLsbD 2 = true) ∧
      (s.gauge.scope = false) ∧ (s.gauge.pending = [])) ∧
    (∃ (s : State) (p : PendingGauge), (s.hal.reloading = false) ∧ (s.gauge.enable = true) ∧ (s.gauge.sources.getLsbD
      2 = true) ∧ (s.timed.valid = false) ∧ (s.gauge.pending = [p]) ∧ (s.tick.toNat + 16384 ≤ p.tick + 65536) ∧
      (p.tick ≤ s.tick.toNat + 16384 + 65536)) ∧
    (∃ (s : State), (s.hal.reloading = false) ∧ (s.gauge.enable = true) ∧ (s.gauge.sources.getLsbD 2 = true) ∧
      (s.gauge.scope = false) ∧ (s.gauge.pending.length = 4) ∧ ((∀ p ∈ s.gauge.pending, p.tick + 65536 < s.tick.toNat
      + 16384 ∨ s.tick.toNat + 16384 + 65536 < p.tick))) ∧
    (∃ (s : State), (s.hal.reloading = false) ∧ (s.gauge.sources.getLsbD 2 = false)) ∧
    (∃ (s : State), (s.hal.reloading = true)) ∧
    (∃ (s : State) (w : Nat) (n : Nat), (s.mod.state ≠ .off) ∧ (100 ≤ w) ∧ (1000 < n) ∧ (s.gauge.enable = true) ∧
      (s.gauge.sources.getLsbD 3 = true) ∧ (s.gauge.scope = false) ∧ (s.gauge.pending = [])) ∧
    (∃ (w : Nat) (n : Nat), ((w < 20 ∨ n ≤ 1000))) ∧
    (∃ (s : State) (t : Word64), (s.timed.valid = false) ∧ (s.gauge.enable = true) ∧ (s.gauge.sources.getLsbD 4 =
      true) ∧ (s.gauge.pending = []) ∧ (s.tick.toNat + 4096 ≤ (t - s.timed.offset).toNat)) ∧
    (∃ (s : State) (t : Word64), (s.timed.valid = false) ∧ (s.gauge.enable = true) ∧ (s.gauge.sources.getLsbD 4 =
      true) ∧ (s.gauge.pending = []) ∧ ((t - s.timed.offset).toNat < s.tick.toNat + 4096)) ∧
    (∃ (s : State) (p : PendingGauge), (s.mod.state = .run) ∧ (s.gauge.pending = [p]) ∧ (s.tick.toNat ≤ p.tick) ∧
      (s.gauge.recording = true) ∧ (s.gauge.unread = 0) ∧ (s.gauge.nextSlot = 0) ∧ (s.gauge.holdAfter = false) ∧
      (p.hold = false)) ∧
    (∃ (s : State), (s.gauge.pending = [])) ∧
    (∃ (s : State) (p : PendingGauge), (s.mod.state = .run) ∧ (s.gauge.pending = [p]) ∧ (p.tick < s.tick.toNat) ∧
      (s.timed.region = none)) ∧
    (∃ (s : State) (p : PendingGauge), (s.mod.state = .run) ∧ (s.gauge.pending = [p]) ∧ (p.tick = s.tick.toNat) ∧
      (s.gauge.recording = true) ∧ (s.gauge.unread = 0xFF) ∧ (s.gauge.keepUnread = true) ∧ (s.gauge.holdAfter = false)
      ∧ (p.hold = false)) ∧
    (∃ (s : State) (p : PendingGauge) (l : Nat), (s.mod.state = .run) ∧ (s.gauge.pending = [p]) ∧ (p.tick =
      s.tick.toNat) ∧ (p.hold = true) ∧ (s.sec.levelNext = some l)) ∧
    (∃ (s : State) (fn : Nat) (o : Obj), (s.hal.reloading = false) ∧ (1 ≤ s.sec.level) ∧ (s.obj s.gauge.expObj = some
      o) ∧ ((s.ctx s.gauge.expCtx).st ≠ .free) ∧ ((s.ctx s.gauge.expCtx).fn = fn) ∧ (o.owner = s.gauge.expCtx)) ∧
    (∃ (s : State) (fn : Nat), (s.hal.reloading = false) ∧ ((s.obj s.gauge.expObj = none ∨ s.sec.level = 0 ∨ (s.ctx
      s.gauge.expCtx).fn ≠ fn))) ∧
    (∃ (s : State), (s.hal.reloading = true)) :=
  ⟨⟨(running).modGauge (fun y => { y with sources := 4, scope := false }), by decide +kernel⟩,
   ⟨(running).modGauge (fun y => { y with sources := 4, pending := [⟨16384, 1, false, false⟩] }), ⟨16384, 1, false,
     false⟩, by decide +kernel⟩,
   ⟨(running).modGauge (fun y =>
     { y with sources := 4, scope := false, pending := [⟨100000, 1, false, false⟩, ⟨100000, 1, false, false⟩, ⟨100000, 1, false, false⟩, ⟨100000, 1, false, false⟩] }),
     by decide +kernel⟩,
   ⟨running, by decide +kernel⟩,
   ⟨(running).modHal (fun y => { y with reloading := true }), by decide +kernel⟩,
   ⟨(running).modGauge (fun y => { y with sources := 8, scope := false }), 100, 1001, by decide +kernel⟩,
   ⟨19, 0, by decide +kernel⟩,
   ⟨(running).modGauge (fun y => { y with sources := 16 }), 4096, by decide +kernel⟩,
   ⟨(running).modGauge (fun y => { y with sources := 16 }), 0, by decide +kernel⟩,
   ⟨(running).modGauge (fun y => { y with pending := [⟨0, 2, false, false⟩] }), ⟨0, 2, false, false⟩,
     by decide +kernel⟩,
   ⟨State.reset, by decide +kernel⟩,
   ⟨(({ running with tick := 9 } : State)).modGauge (fun y => { y with pending := [⟨8, 2, false, false⟩] }), ⟨8, 2,
     false, false⟩, by decide +kernel⟩,
   ⟨(running).modGauge (fun y => { y with pending := [⟨0, 2, false, false⟩], unread := 0xFF, keepUnread := true }),
     ⟨0, 2, false, false⟩, by decide +kernel⟩,
   ⟨((running).modSec (fun y => { y with levelNext := some 1 })).modGauge (fun y =>
     { y with pending := [⟨0, 2, false, true⟩] }), ⟨0, 2, false, true⟩, 1, by decide +kernel⟩,
   ⟨(({ running with objs := [obj9], ctxs := [(5, ctx5)] } : State)).modGauge (fun y =>
     { y with expObj := 9, expCtx := 5 }), 0, obj9, by decide +kernel⟩,
   ⟨running, 0, by decide +kernel⟩,
   ⟨(running).modHal (fun y => { y with reloading := true }), by decide +kernel⟩⟩

theorem witness_FirmwareImagesAreVerifiedThenRun :
    (∃ (s : State), (s.hal.reloading = false) ∧ (s.mod.state ≠ .off) ∧ (s.sec.verifying = none) ∧ (1 ≤ s.sec.fwLength)
      ∧ (s.sec.fwLength ≤ 32768)) ∧
    (∃ (s : State), (s.hal.reloading = false) ∧ (s.mod.state ≠ .off) ∧ (s.sec.verifying = none) ∧ ((s.sec.fwLength = 0
      ∨ 32768 < s.sec.fwLength))) ∧
    (∃ (s : State), (s.hal.reloading = false) ∧ (s.mod.state ≠ .off) ∧ (s.sec.verifying = none)) ∧
    (∃ (s : State) (j : FwImage), (s.hal.reloading = false) ∧ (s.mod.state ≠ .off) ∧ (s.sec.verifying = some j)) ∧
    (∃ (s : State), (s.hal.reloading = false)) ∧
    (∃ (s : State) (i : FwImage), (s.sec.verifying = some i) ∧ (s.sec.running = none) ∧ (s.imageError i s.sec.fwSvn =
      0) ∧ (i.floor ≤ s.svnFloor)) ∧
    (∃ (s : State) (i : FwImage) (j : FwImage), (s.sec.verifying = some i) ∧ (s.sec.running = some j) ∧ (s.imageError
      i s.sec.fwSvn = 0)) ∧
    (∃ (s : State) (i : FwImage), (s.sec.verifying = some i) ∧ (s.imageError i s.sec.fwSvn ≠ 0)) ∧
    (∃ (s : State) (i : FwImage) (j : FwImage), (s.sec.running = some j) ∧ (s.hal.reloading = false) ∧ (s.imageError i
      s.sec.fwSvn = 0)) ∧
    (∃ (s : State) (i : FwImage) (j : FwImage), (s.sec.running = some j) ∧ (s.hal.reloading = false) ∧ (s.imageError i
      s.sec.fwSvn ≠ 0)) :=
  ⟨⟨(State.reset).modSec (fun y => { y with fwLength := 1 }), by decide +kernel⟩,
   ⟨State.reset, by decide +kernel⟩,
   ⟨State.reset, by decide +kernel⟩,
   ⟨(State.reset).modSec (fun y => { y with verifying := some img }), img, by decide +kernel⟩,
   ⟨State.reset, by decide +kernel⟩,
   ⟨(State.reset).modSec (fun y => { y with verifying := some img }), img, by decide +kernel⟩,
   ⟨(ready).modSec (fun y => { y with verifying := some img }), img, img, by decide +kernel⟩,
   ⟨(State.reset).modSec (fun y => { y with verifying := some { img with format := 2 } }), { img with format := 2 },
     by decide +kernel⟩,
   ⟨ready, img, img, by decide +kernel⟩,
   ⟨ready, { img with format := 2 }, img, by decide +kernel⟩⟩

theorem witness_DebugTokensAndAttestation :
    (∃ (s : State) (l : Nat), (s.hal.reloading = false) ∧ (s.mod.state ≠ .run) ∧ (s.sec.levelNext = none) ∧ (l < 4) ∧
      (l ≤ s.defaultLevel)) ∧
    (∃ (s : State) (l : Nat), (s.hal.reloading = false) ∧ (l < 4) ∧ (s.defaultLevel < l)) ∧
    (∃ (s : State) (l : Nat), (s.hal.reloading = false) ∧ (s.mod.state = .run) ∧ (l < 4) ∧ (l ≤ s.defaultLevel) ∧ (l ≠
      s.sec.level) ∧ (s.sec.levelNext = none) ∧ (s.gauge.pending = [])) ∧
    (∃ (s : State), (s.hal.reloading = false) ∧ (s.mod.state ≠ .run) ∧ (s.sec.levelNext = none) ∧ (s.sec.debugSession
      = true)) ∧
    (∃ (s : State), (s.mod.state ≠ .run) ∧ (s.sec.levelNext = none) ∧ (s.sec.debugSession = true) ∧ (s.sec.remaining =
      0)) ∧
    (∃ (s : State), (s.sec.remaining ≠ 0)) ∧
    (∃ (s : State), (s.sec.debugSession = false)) ∧
    (∃ (s : State) (k : Nat), (s.sec.sessions.elem k = true)) ∧
    (∃ (s : State) (k : Nat), (s.sec.sessions.elem k = false)) ∧
    (∃ (s : State), (s.sec.nonceAt + 600000 ≤ s.hal.ms)) ∧
    (∃ (s : State), (s.hal.ms < s.sec.nonceAt + 600000)) ∧
    (∃ (s : State) (k : Nat) (tok : Token), (s.sec.sessions.elem k = true) ∧ (s.mod.state ≠ .run) ∧ (s.sec.levelNext =
      none) ∧ (s.hal.ms < s.sec.nonceAt + 600000) ∧ ((s.lifecycle = 2 ∨ s.lifecycle = 3)) ∧ (tok.keyOk = true) ∧
      (tok.sigOk = true) ∧ (tok.kind = 1) ∧ (tok.serial = s.mod.record.serial) ∧ (s.sec.nonce = some tok.nonce) ∧
      ((tok.maxLevel = 2 ∨ tok.maxLevel = 3)) ∧ (60 ≤ tok.duration) ∧ (tok.duration ≤ 86400)) ∧
    (∃ (s : State) (k : Nat) (tok : Token), (s.sec.sessions.elem k = true) ∧ ((tok.keyOk = false ∨ tok.sigOk = false ∨
      tok.kind ≠ 1 ∨ tok.serial ≠ s.mod.record.serial ∨ s.sec.nonce ≠ some tok.nonce ∨ s.sec.nonceAt + 600000 ≤
      s.hal.ms ∨ tok.duration < 60 ∨ 86400 < tok.duration))) ∧
    (∃ (s : State) (k : Nat) (tok : Token), (s.sec.sessions.elem k = true) ∧ (s.mod.state = .ready) ∧ (tok.keyOk =
      true) ∧ (tok.sigOk = true) ∧ (tok.kind = 2) ∧ (tok.serial = s.mod.record.serial) ∧ (s.sec.nonce = some
      tok.nonce) ∧ (s.hal.ms < s.sec.nonceAt + 600000)) ∧
    (∃ (s : State) (k : Nat), (s.sec.sessions.elem k = true) ∧ (s.mod.state ≠ .ready)) ∧
    (∃ (s : State), (s.hasIdentity = true)) ∧
    (∃ (s : State) (k : Nat), ((s.hasIdentity = false ∨ k ≠ 0))) ∧
    (∃ (s : State), (s.hasIdentity = true)) ∧
    (∃ (s : State), (s.sec.debugSession = true)) ∧
    (∃ (s : State) (k : Nat), (0x20 ≤ k) ∧ (k ≤ 0x2B) ∧ (s.sec.identity.getD (k - 0x20 + 1) false = false)) ∧
    (∃ (s : State), (s.hasIdentity = true) ∧ (s.sec.algorithms = true) ∧ (s.sec.sessions.length < 4)) ∧
    (∃ (s : State), ((s.hasIdentity = false ∨ s.sec.algorithms = false ∨ 4 ≤ s.sec.sessions.length))) ∧
    (∃ (s : State) (k : Nat), (s.sec.sessions.elem k = true)) ∧
    (∃ (s : State) (k : Nat), (s.sec.sessions.elem k = false)) :=
  ⟨⟨State.reset, 1, by decide +kernel⟩,
   ⟨State.reset, 2, by decide +kernel⟩,
   ⟨running, 0, by decide +kernel⟩,
   ⟨(State.reset).modSec (fun y => { y with debugSession := true }), by decide +kernel⟩,
   ⟨(State.reset).modSec (fun y => { y with debugSession := true }), by decide +kernel⟩,
   ⟨(State.reset).modSec (fun y => { y with remaining := 1 }), by decide +kernel⟩,
   ⟨State.reset, by decide +kernel⟩,
   ⟨(State.reset).modSec (fun y => { y with sessions := [3], nonce := some 7 }), 3, by decide +kernel⟩,
   ⟨State.reset, 0, by decide +kernel⟩,
   ⟨(State.reset).modHal (fun y => { y with ms := 600000 }), by decide +kernel⟩,
   ⟨(State.reset).modHal (fun y => { y with ms := 599999 }), by decide +kernel⟩,
   ⟨(State.reset).modSec (fun y => { y with sessions := [3], nonce := some 7 }), 3, token 1, by decide +kernel⟩,
   ⟨(State.reset).modSec (fun y => { y with sessions := [3], nonce := some 7 }), 3, { token 1 with keyOk := false },
     by decide +kernel⟩,
   ⟨(ready).modSec (fun y => { y with sessions := [3], nonce := some 7 }), 3, token 2, by decide +kernel⟩,
   ⟨(State.reset).modSec (fun y => { y with sessions := [3], nonce := some 7 }), 3, by decide +kernel⟩,
   ⟨State.reset, by decide +kernel⟩,
   ⟨State.reset, 1, by decide +kernel⟩,
   ⟨State.reset, by decide +kernel⟩,
   ⟨(State.reset).modSec (fun y => { y with debugSession := true }), by decide +kernel⟩,
   ⟨(State.reset).modSec (fun y => { y with identity := [] }), 0x20, by decide +kernel⟩,
   ⟨(State.reset).modSec (fun y => { y with algorithms := true }), by decide +kernel⟩,
   ⟨State.reset, by decide +kernel⟩,
   ⟨(State.reset).modSec (fun y => { y with sessions := [3], nonce := some 7 }), 3, by decide +kernel⟩,
   ⟨State.reset, 0, by decide +kernel⟩⟩

theorem witness_DryTicksFollowTheWeirRatio :
    (∃ (s : State), (s.pending = []) ∧ (s.mod.state = .run) ∧ (s.tick ≠ BitVec.allOnes 64) ∧ (s.power.stopped = false)
      ∧ (s.timed.started = false) ∧ (s.hal.events = []) ∧ (s.adminHeld = []) ∧ (s.repair.laneWait = [])) ∧
    (∃ (n : _) (i : _), (n < 64) ∧ (i < 6)) ∧
    (∃ (k : _), (k ≤ 60)) ∧
    (∃ (s : State), (s.timed.offset = 0)) ∧
    (∃ (p : Power), (p.thermal ≤ 60) ∧ (p.minRatio ≤ 60)) ∧
    (∃ (s : State) (j : Nat), (s.power.agreed = true) ∧ (s.timed.root = false) ∧ (s.timed.children = []) ∧
      (s.tick.toNat + 4096 ≤ (BitVec.ofNat 64 (j * 38400) - s.timed.offset).toNat)) :=
  ⟨⟨running, by decide +kernel⟩,
   ⟨63, 5, by decide +kernel⟩,
   ⟨60, by decide +kernel⟩,
   ⟨State.reset, by decide +kernel⟩,
   ⟨Power.reset, by decide +kernel⟩,
   ⟨(State.reset).modPower (fun y => { y with agreed := true }), 1, by decide +kernel⟩⟩

theorem witness_RatiosCapsTripsAndTrims :
    (∃ (s : State), (s.hal.reloading = true) ∧ (s.power.agreed = true) ∧ (s.timed.root = false)) ∧
    (∃ (s : State), (s.hal.reloading = false) ∧ (s.power.enable = false) ∧ (s.power.agreed = false) ∧ (s.tick.toNat +
      4096 ≤ (BitVec.ofNat 64 ((s.power.period + 1) * 38400) - s.timed.offset).toNat)) ∧
    (∃ (s : State), (s.power.agreed = true) ∧ (s.timed.root = true)) ∧
    (∃ (s : State), (s.power.agreed = true) ∧ (s.timed.root = true) ∧ (tabGet s.power.agreements none
      ((s.jobTick.toNat + 16384) / 38400) = none) ∧ (s.tick.toNat + 4096 ≤ (BitVec.ofNat 64 ((s.jobTick.toNat + 16384)
      / 38400 * 38400) - s.timed.offset).toNat)) ∧
    (∃ (s : State), (s.power.agreed = true) ∧ (s.timed.region = none) ∧ (s.jobTick.toNat / 38400 < (s.jobTick.toNat +
      4096) / 38400) ∧ (tabGet s.power.agreements none ((s.jobTick.toNat + 4096) / 38400) = none)) ∧
    (∃ (s : State), (s.power.agreed = false)) ∧
    (∃ (s : State), (s.hal.reloading = false)) ∧
    (∃ (s : State), (s.hal.reloading = false)) ∧
    (∃ (s : State), (7813 ≤ s.power.beyond) ∧ (s.power.waitBoundary = false)) ∧
    (∃ (s : State), (s.power.beyond < 7813)) ∧
    (∃ (s : State), (s.power.waitBoundary = true) ∧ ((s.power.stepSeen = true ∨ s.power.waitSince + 1000 ≤ s.hal.ms))
      ∧ (s.timed.region = none) ∧ (s.ctxs = [])) ∧
    (∃ (s : State), (s.power.waitBoundary = false)) ∧
    (∃ (s : State), (s.power.stepSeen = false) ∧ (s.hal.ms < s.power.waitSince + 1000)) ∧
    (∃ (s : State), (s.hal.reloading = false) ∧ (s.power.cool = true) ∧ (s.sec.computeEnable = false)) ∧
    (∃ (s : State), (s.hal.reloading = false) ∧ (s.power.cool = false)) ∧
    (∃ (s : State) (r : Nat), (-12 ≤ tabGet s.power.trims 0 r + 1) ∧ (tabGet s.power.trims 0 r + 1 ≤ 12) ∧ ((∀ e ∈
      s.power.trimAt, e.1 = r → e.2 + 3600000 ≤ s.hal.ms))) ∧
    (∃ (s : State) (r : Nat), (tabGet s.power.trims 0 r = 12) ∧ ((∀ e ∈ s.power.trimAt, e.1 = r → e.2 + 3600000 ≤
      s.hal.ms))) ∧
    (∃ (s : State) (r : Nat) (e : Nat × Nat), (s.power.trimAt.find? (fun x => x.1 == r) = some e) ∧ (s.hal.ms < e.2 +
      3600000)) ∧
    (∃ (k : Nat), (k ≤ 60)) :=
  ⟨⟨((running).modPower (fun y => { y with agreed := true })).modHal (fun y => { y with reloading := true }),
     by decide +kernel⟩,
   ⟨(State.reset).modPower (fun y => { y with enable := false }), by decide +kernel⟩,
   ⟨((running).modTimed (fun y => { y with root := true })).modPower (fun y => { y with agreed := true }),
     by decide +kernel⟩,
   ⟨((({ running with tick := 24000 } : State)).modTimed (fun y => { y with root := true })).modPower (fun y =>
     { y with agreed := true }), by decide +kernel⟩,
   ⟨(({ running with tick := 38399 } : State)).modPower (fun y => { y with agreed := true }), by decide +kernel⟩,
   ⟨State.reset, by decide +kernel⟩,
   ⟨State.reset, by decide +kernel⟩,
   ⟨State.reset, by decide +kernel⟩,
   ⟨(running).modPower (fun y => { y with beyond := 7813 }), by decide +kernel⟩,
   ⟨State.reset, by decide +kernel⟩,
   ⟨(running).modPower (fun y => { y with waitBoundary := true, stepSeen := true }), by decide +kernel⟩,
   ⟨State.reset, by decide +kernel⟩,
   ⟨(State.reset).modHal (fun y => { y with ms := 999 }), by decide +kernel⟩,
   ⟨State.reset, by decide +kernel⟩,
   ⟨(State.reset).modPower (fun y => { y with cool := false }), by decide +kernel⟩,
   ⟨State.reset, 0, by decide +kernel⟩,
   ⟨(State.reset).modPower (fun y => { y with trims := [(0, 12)] }), 0, by decide +kernel⟩,
   ⟨(State.reset).modPower (fun y => { y with trimAt := [(0, 0)] }), 0, (0, 0), by decide +kernel⟩,
   ⟨60, by decide +kernel⟩⟩

theorem witness_PeriodBoundaryTakesItsReadings :
    (∃ (s : State) (r : Readings), (s.mod.state = .run) ∧ (s.power.own < 61) ∧ ((∀ i ∈ hotSensors r, i ∉ s.power.hot))
      ∧ ((0 < s.power.thermal ∨ readingsExcess r = none ∨ ∃ e, readingsExcess r = some e ∧ e < 0))) ∧
    (∃ (s : State) (r : Readings) (i : Nat × Nat), (s.mod.state = .run) ∧ (s.power.own < 61) ∧ (i ∈ hotSensors r) ∧ (i
      ∈ s.power.hot) ∧ (s.power.tripped = false)) :=
  ⟨⟨running, Readings.none, ⟨by decide, by decide, by decide, Or.inr (Or.inl (by decide))⟩⟩,
   ⟨(running).modPower (fun y => { y with hot := [(0, 0)] }), ⟨0, 0, 0, 0, [115], []⟩, (0, 0), by decide +kernel⟩⟩

theorem witness_RepairsAndAgeing :
    (∃ (s : State) (ch : Nat) (d : Nat) (b : Nat) (r : Nat), (s.hal.reloading = false) ∧ (s.rowDue ch d b r = true) ∧
      (s.repair.rows = []) ∧ (tabGet s.repair.rowsDone 0 (rowKey ch d b) < 16)) ∧
    (∃ (s : State) (ch : Nat) (d : Nat) (b : Nat) (r : Nat), (s.hal.reloading = false) ∧ (s.rowDue ch d b r = false)) ∧
    (∃ (s : State) (ch : Nat) (d : Nat) (b : Nat) (r : Nat), (s.hal.reloading = false) ∧ (s.rowDue ch d b r = true) ∧
      (16 ≤ tabGet s.repair.rowsDone 0 (rowKey ch d b))) ∧
    (∃ (s : State) (ch : Nat) (d : Nat) (b : Nat) (r : Nat), (s.repair.rows = [(ch, d, b, r)])) ∧
    (∃ (s : State) (ch : Nat), (s.hal.reloading = false) ∧ (tabGet s.repair.tsvs 0 ch < 2)) ∧
    (∃ (s : State) (ch : Nat), (s.hal.reloading = false) ∧ (2 ≤ tabGet s.repair.tsvs 0 ch)) ∧
    (∃ (s : State) (ch : Nat), (s.hal.reloading = false) ∧ (s.channelDue ch = true) ∧ (s.kernels = []) ∧
      (s.timed.region = none) ∧ (tabGet s.repair.channels 0 (ch / 32) < 2)) ∧
    (∃ (s : State) (ch : Nat), (s.hal.reloading = false) ∧ (s.channelDue ch = false)) ∧
    (∃ (s : State) (ch : Nat), (s.hal.reloading = false) ∧ (s.channelDue ch = true) ∧ (s.kernels ≠ [])) ∧
    (∃ (s : State) (ch : Nat), (s.hal.reloading = false) ∧ (s.channelDue ch = true) ∧ (s.kernels = []) ∧
      (s.timed.region = none) ∧ (2 ≤ tabGet s.repair.channels 0 (ch / 32))) ∧
    (∃ (s : State), (s.ctxs.all (fun e => e.2.kind != 3) = true)) ∧
    (∃ (s : State), (s.ctxs.any (fun e => e.2.kind == 3 && e.2.st != .free) = true)) ∧
    (∃ (s : State), (s.mod.state ≠ .off)) ∧
    (∃ (s : State), (s.mod.pg = true)) ∧
    (∃ (s : State), (s.mod.pg = false)) ∧
    (∃ (s : State), (s.mod.bank.ageing.length < 90)) ∧
    (∃ (s : State), (90 ≤ s.mod.bank.ageing.length)) :=
  ⟨⟨dueRow, (dueRow).channelOf 0, (Config.dramPlace ((dueRow).locate 0).2).1, (Config.dramPlace ((dueRow).locate
     0).2).2.1, (Config.dramPlace ((dueRow).locate 0).2).2.2, ⟨by decide +kernel, due_row _ rfl, rfl, by decide⟩⟩,
   ⟨State.reset, 0, 0, 0, 0, ⟨by decide +kernel, rfl⟩⟩,
   ⟨dueFull, (dueFull).channelOf 0, (Config.dramPlace ((dueFull).locate 0).2).1, (Config.dramPlace ((dueFull).locate
     0).2).2.1, (Config.dramPlace ((dueFull).locate 0).2).2.2, ⟨by decide +kernel, due_row _ rfl,
     (by simp [tabGet] : ∀ k : Nat, 16 ≤ tabGet [(k, 16)] 0 k) _⟩⟩,
   ⟨({ State.reset with repair := { Repair.none with rows := [(0, 0, 0, 0)] } } : State), 0, 0, 0, 0,
     by decide +kernel⟩,
   ⟨State.reset, 0, by decide +kernel⟩,
   ⟨({ State.reset with repair := { Repair.none with tsvs := [(0, 2)] } } : State), 0, by decide +kernel⟩,
   ⟨({ State.reset with repair := { Repair.none with waiting := [383] } } : State), 383, by decide +kernel⟩,
   ⟨State.reset, 383, by decide +kernel⟩,
   ⟨({ ({ State.reset with repair := { Repair.none with waiting := [383] } } : State) with kernels := [kernel3] } :
     State), 383, by decide +kernel⟩,
   ⟨({ State.reset with repair := { Repair.none with waiting := [383], channels := [(11, 2)] } } : State), 383,
     by decide +kernel⟩,
   ⟨State.reset, by decide +kernel⟩,
   ⟨({ State.reset with ctxs := [(5, { ctx5 with kind := 3 })] } : State), by decide +kernel⟩,
   ⟨State.reset, by decide +kernel⟩,
   ⟨railed, by decide +kernel⟩,
   ⟨State.reset, by decide +kernel⟩,
   ⟨State.reset, by decide +kernel⟩,
   ⟨(State.reset).modMod (fun y => { y with bankA := { Bank.empty with ageing := List.replicate 90 [] } }),
     by decide +kernel⟩⟩

theorem witness_ManagerMessagesNeedTheInstalledKey :
    (∃ (s : State), (s.hal.reloading = false) ∧ (s.mod.state ≠ .off) ∧ ((s.mod.state = .aux ∨ s.mod.state = .ready ∨
      s.fab.fmKey = none))) ∧
    (∃ (s : State), (s.hal.reloading = false) ∧ ((s.mod.state = .run ∨ s.mod.state = .hold)) ∧ (s.fab.fmKey ≠ none)) ∧
    (∃ (s : State), (s.mod.state = .off)) ∧
    (∃ (s : State) (m : FmHead), (s.hal.reloading = false) ∧ (s.mod.state ≠ .off) ∧ ((s.fab.fmKey = none ∨ m.sigOk =
      false ∨ m.issue.toNat ≤ s.fab.lastIssue.toNat))) ∧
    (∃ (s : State) (m : FmHead) (k : BitVec 256), (s.hal.reloading = false) ∧ (s.mod.state ≠ .off) ∧ (s.fab.fmKey =
      some k) ∧ (m.sigOk = true) ∧ (s.fab.lastIssue.toNat < m.issue.toNat)) :=
  ⟨⟨State.reset, by decide +kernel⟩,
   ⟨(running).modFab (fun y => { y with fmKey := some 1 }), by decide +kernel⟩,
   ⟨off, by decide +kernel⟩,
   ⟨State.reset, head1, by decide +kernel⟩,
   ⟨(State.reset).modFab (fun y => { y with fmKey := some 1 }), head1, 1, by decide +kernel⟩⟩

theorem witness_PartitionsAreFormedAndRevoked :
    (∃ (s : State) (m : FmHead) (p : Nat) (ds : List Nat), (s.hal.reloading = false) ∧ (s.fmOk m = true) ∧
      (s.fab.partValid = false) ∧ (p < 2 ^ 16) ∧ (ds.length ≤ 128)) ∧
    (∃ (s : State) (p : Nat), (s.hal.reloading = false) ∧ (s.fab.partValid = true) ∧ (s.fab.partition ≠ p)) ∧
    (∃ (s : State) (ds : List Nat), (s.hal.reloading = false) ∧ (128 < ds.length)) ∧
    (∃ (s : State) (m : FmHead) (g : Nat) (ms : List Nat), (s.hal.reloading = false) ∧ (s.fmOk m = true) ∧
      (s.fab.partValid = true) ∧ (g < 4096) ∧ (ms.length ≤ 64) ∧ ((∀ d ∈ ms, d ∈ s.fab.members))) ∧
    (∃ (s : State) (m : FmHead), (s.fmOk m = true) ∧ (s.fab.partValid = true)) ∧
    (∃ (s : State) (r : Nat × Nat), (s.fab.partValid = true) ∧ (r ∈ s.fab.reports) ∧ (r.2 + 1000 ≤ s.hal.ms)) ∧
    (∃ (s : State), ((∀ r ∈ s.fab.reports, s.hal.ms < r.2 + 1000))) ∧
    (∃ (s : State) (w : Walk) (rs : List (Nat × Nat × Nat)), (s.walks = [w]) ∧ (w.kind = .revoke) ∧ (w.ranges = some
      rs) ∧ (w.untilTick = none) ∧ (s.adminHeld = [])) ∧
    (∃ (s : State), (s.walks = []) ∧ (s.adminHeld = [])) ∧
    (∃ (s : State) (r : OutReq), (s.fab.out = [r]) ∧ (r.left = true) ∧ (r.reported = false) ∧ (r.sentAt +
      s.fab.reqTimeout * 60000 ≤ s.tick.toNat)) ∧
    (∃ (s : State) (o : Obj), (s.objs = [o]) ∧ (o.grace = true) ∧ (o.since + s.fab.retainGrace * 1000 ≤ s.hal.ms)) ∧
    (∃ (s : State) (o : Obj), (s.objs = [o]) ∧ (o.grace = true) ∧ (s.hal.ms < o.since + s.fab.retainGrace * 1000)) ∧
    (∃ (s : State), (s.objs.all (fun o => !o.grace) = true)) :=
  ⟨⟨(State.reset).modFab (fun y => { y with fmKey := some 1 }), head1, 65535, List.range 128, by decide +kernel⟩,
   ⟨(State.reset).modFab (fun y => { y with partValid := true, partition := 1 }), 0, by decide +kernel⟩,
   ⟨State.reset, List.range 129, by decide +kernel⟩,
   ⟨(State.reset).modFab (fun y => { y with fmKey := some 1, partValid := true, members := [4] }), head1, 4095, [4],
     by decide +kernel⟩,
   ⟨(State.reset).modFab (fun y => { y with fmKey := some 1, partValid := true }), head1, by decide +kernel⟩,
   ⟨((State.reset).modFab (fun y => { y with partValid := true, reports := [(1, 0)] })).modHal (fun y =>
     { y with ms := 1000 }), (1, 0), by decide +kernel⟩,
   ⟨((State.reset).modFab (fun y => { y with reports := [(1, 0)] })).modHal (fun y => { y with ms := 999 }),
     by decide +kernel⟩,
   ⟨({ State.reset with walks := [⟨0, .revoke, some [], .device, none, [], false⟩] } : State), ⟨0, .revoke, some [],
     .device, none, [], false⟩, [], by decide +kernel⟩,
   ⟨State.reset, by decide +kernel⟩,
   ⟨({ (State.reset).modFab (fun y => { y with out := [out1] }) with tick := 1000000000000 } : State), out1,
     by decide +kernel⟩,
   ⟨({ (State.reset).modHal (fun y => { y with ms := 4000000000 }) with objs := [{ obj9 with grace := true }] } :
     State), { obj9 with grace := true }, by decide +kernel⟩,
   ⟨(({ State.reset with objs := [{ obj9 with grace := true }] } : State)).modFab (fun y =>
     { y with retainGrace := 1 }), { obj9 with grace := true }, by decide +kernel⟩,
   ⟨State.reset, by decide +kernel⟩⟩

theorem witness_ManagementRequestsAnswer :
    (∃ (s : State), (s.mod.state ≠ .off) ∧ (s.hal.reloading = false)) ∧
    (∃ (s : State), (s.mod.state ≠ .off) ∧ (s.hal.reloading = true)) ∧
    (∃ (s : State), (s.mod.state = .off)) :=
  ⟨⟨State.reset, by decide +kernel⟩,
   ⟨(State.reset).modHal (fun y => { y with reloading := true }), by decide +kernel⟩,
   ⟨off, by decide +kernel⟩⟩

theorem witness_ReloadAppliesWhatItDeferred :
    (∃ (s : State), (s.hal.reloading = true)) ∧
    (∃ (s : State) (i : FwImage) (a : Nat) (b : Nat), (s.hal.reloading = true) ∧ (s.hal.reloadImg = some i) ∧ (i.floor
      ≤ s.svnFloor) ∧ (s.hal.deferred = [.hostCapWrite a, .hostCapWrite b]) ∧ (900 ≤ a) ∧ (a ≤ 2800) ∧ (900 ≤ b) ∧ (b
      ≤ 2800)) ∧
    (∃ (s : State) (i : FwImage), (s.hal.reloading = true) ∧ (s.hal.reloadImg = some i)) ∧
    (∃ (s : State), (s.hal.reloading = false)) :=
  ⟨⟨(State.reset).modHal (fun y => { y with reloading := true, reloadImg := some img }), by decide +kernel⟩,
   ⟨(State.reset).modHal (fun y =>
     { y with reloading := true, reloadImg := some img, deferred := [.hostCapWrite 900, .hostCapWrite 2800] }), img,
     900, 2800, by decide +kernel⟩,
   ⟨(State.reset).modHal (fun y => { y with reloading := true, reloadImg := some img }), img, by decide +kernel⟩,
   ⟨State.reset, by decide +kernel⟩⟩

theorem witness_PortsAndTheCulvert :
    (∃ (s : State) (p : Nat), ((s.port p).up = true) ∧ (s.timed.region = none) ∧ (s.fab.partValid = false)) ∧
    (∃ (s : State) (p : Nat), ((s.port p).up = false)) ∧
    (∃ (s : State) (d : Bool), ((s.port (if d then 17 else 16)).up = true) ∧ (s.timed.region = none)) ∧
    (∃ (s : State) (p : Nat) (a : Nat), ((s.port p).up = true) ∧ (a ≤ 16)) ∧
    (∃ (s : State) (p : Nat) (a : Nat), ((s.port p).up = true) ∧ (16 < a)) ∧
    (∃ (s : State) (p : Nat), (s.hal.reloading = false) ∧ (p < 18) ∧ ((s.port p).spare = false)) ∧
    (∃ (s : State) (p : Nat), (s.hal.reloading = false) ∧ (p < 18) ∧ ((s.port p).spare = true)) ∧
    (∃ (s : State) (p : Nat) (r : TrainResult), (p < 16) ∧ ((s.port p).up = false) ∧ (s.mod.pg = true) ∧ ((s.port
      p).broken = false) ∧ (r.ok = true) ∧ (s.fab.partValid = false) ∧ (s.fab.out = [])) ∧
    (∃ (s : State) (p : Nat) (r : TrainResult), (p < 18) ∧ ((s.port p).up = false) ∧ ((r.ok = false ∨ (s.port
      p).broken = true ∨ s.mod.pg = false ∨ (16 ≤ p ∧ 3 ≤ r.culverts)))) ∧
    (∃ (s : State), ((s.fab.pathAdapt = false ∨ s.fab.partValid = false))) ∧
    (∃ (s : State), (s.fab.pathAdapt = true) ∧ (s.fab.partValid = true)) ∧
    (∃ (s : State), (s.mod.computeHeld = false) ∧ (s.mod.chainActive = false) ∧ (s.mod.pg = true) ∧ ((s.port
      16).enable = true) ∧ ((s.port 17).enable = true)) ∧
    (∃ (s : State), (s.mod.computeHeld = true)) ∧
    (∃ (s : State), (s.ctxs = []) ∧ (s.timed.region = none) ∧ (s.mod.chainActive = true)) ∧
    (∃ (s : State), (s.liveCtxs.isEmpty = false)) ∧
    (∃ (s : State), (s.hal.reloading = false) ∧ (s.repair.waiting = []) ∧ (s.repair.toRetire = []) ∧
      (s.repair.unrecorded = []) ∧ ((s.port 16).enable = true) ∧ ((s.port 17).enable = true) ∧ ((s.port 16).loopback =
      true) ∧ ((s.port 17).loopback = true) ∧ (s.mod.computeHeld = false) ∧ (s.repair.laneWait = []) ∧
      (s.hal.memErrors = [])) ∧
    (∃ (s : State), (s.hal.reloading = false) ∧ (s.repair.waiting = []) ∧ (s.repair.toRetire = []) ∧
      (s.repair.unrecorded = []) ∧ ((s.port 16).enable = false) ∧ (s.mod.chainActive = false) ∧ (s.repair.laneWait =
      []) ∧ (s.hal.memErrors = [])) :=
  ⟨⟨(State.reset).modPort 0 (fun y => { y with up := true }), 0, by decide +kernel⟩,
   ⟨State.reset, 0, by decide +kernel⟩,
   ⟨(State.reset).modPort 16 (fun y => { y with up := true }), false, by decide +kernel⟩,
   ⟨(State.reset).modPort 0 (fun y => { y with up := true }), 0, 16, by decide +kernel⟩,
   ⟨(State.reset).modPort 0 (fun y => { y with up := true }), 0, 17, by decide +kernel⟩,
   ⟨State.reset, 17, by decide +kernel⟩,
   ⟨(State.reset).modPort 17 (fun y => { y with spare := true }), 17, by decide +kernel⟩,
   ⟨railed, 15, ⟨true, 0, 0, 0, 1, 0, 0, 0⟩, by decide +kernel⟩,
   ⟨railed, 17, ⟨false, 0, 0, 0, 1, 0, 0, 0⟩, by decide +kernel⟩,
   ⟨State.reset, by decide +kernel⟩,
   ⟨(State.reset).modFab (fun y => { y with partValid := true }), by decide +kernel⟩,
   ⟨((running).modPort 16 (fun y => { y with enable := true })).modPort 17 (fun y => { y with enable := true }),
     by decide +kernel⟩,
   ⟨State.reset, by decide +kernel⟩,
   ⟨(State.reset).modMod (fun y => { y with chainActive := true }), by decide +kernel⟩,
   ⟨threaded, by decide +kernel⟩,
   ⟨((running).modPort 16 (fun y => { y with enable := true, loopback := true })).modPort 17 (fun y =>
     { y with enable := true, loopback := true }), by decide +kernel⟩,
   ⟨State.reset, by decide +kernel⟩⟩

theorem witness_ScalarAndControlInstructions :
    (∃ (s : State) (u : State) (tile : Nat) (slot : Nat) (g : Group) (p : Path) (w : Word64) (op : ScalarOp),
      (s.mayIssue tile slot (ctlKeys op w) g p u) ∧ (ctlLegal op w = true) ∧ (g.active p w ≠ 0) ∧ (op ≠ .branch) ∧ (op
      ≠ .call) ∧ (op ≠ .ret) ∧ (op ≠ .exit)) ∧
    (∃ (s : State) (u : State) (tile : Nat) (slot : Nat) (g : Group) (p : Path) (w : Word64), (s.mayIssue tile slot
      (ctlKeys .branch w) g p u) ∧ (ctlLegal .branch w = true) ∧ (g.active p w = p.mask) ∧ (p.mask ≠ 0)) ∧
    (∃ (s : State) (u : State) (tile : Nat) (slot : Nat) (g : Group) (p : Path) (w : Word64), (s.mayIssue tile slot
      (ctlKeys .ret w) g p u) ∧ (ctlLegal .ret w = true) ∧ (g.active p w = p.mask) ∧ (p.mask ≠ 0)) ∧
    (∃ (s : State) (u : State) (tile : Nat) (slot : Nat) (g : Group) (p : Path) (w : Word64), (s.mayIssue tile slot
      (ctlKeys .branch w) g p u) ∧ (g.active p w ≠ 0) ∧ (p.mask &&& ~~~(g.active p w) ≠ 0)) ∧
    (∃ (s : State) (u : State) (tile : Nat) (slot : Nat) (g : Group) (p : Path) (w : Word64), (s.mayIssue tile slot
      (ctlKeys .exit w) g p u) ∧ (ctlLegal .exit w = true) ∧ (g.active p w = p.mask) ∧ (g.paths = [p])) ∧
    (∃ (s : State) (u : State) (tile : Nat) (slot : Nat) (g : Group) (p : Path) (w : Word64), (s.mayIssue tile slot
      [keyP (wPred w)] g p u) ∧ (plainWord 0 0 w = true) ∧ (wOp w = 0xFF) ∧ (g.active p w ≠ 0)) ∧
    (∃ (s : State) (u : State) (tile : Nat) (slot : Nat) (g : Group) (p : Path) (w : Word64) (op : ScalarOp),
      (s.mayIssue tile slot (ctlKeys op w) g p u) ∧ (ctlLegal op w = true) ∧ (g.active p w = 0) ∧ (p.mask ≠ 0) ∧ (op ≠
      .branch) ∧ (op ≠ .call) ∧ (op ≠ .ret) ∧ (op ≠ .exit)) ∧
    (∃ (s : State) (u : State) (tile : Nat) (slot : Nat) (g : Group) (p : Path) (w : Word64) (op : ScalarOp),
      (s.mayIssue tile slot (ctlKeys op w) g p u) ∧ (ctlLegal op w = false)) ∧
    (∃ (s : State) (u : State) (tile : Nat) (slot : Nat) (g : Group) (p : Path) (w : Word64), (s.mayIssue tile slot []
      g p u) ∧ (plainWord 0 0 w = true) ∧ (wOp w ≠ 0xFF) ∧ (p.mask ≠ 0) ∧ ((∃ q ∈ g.paths, q ≠ p ∧ q.park = .no))) ∧
    (∃ (s : State) (u : State) (tile : Nat) (slot : Nat) (g : Group) (p : Path) (q : Path) (w : Word64), (s.mayIssue
      tile slot [] g p u) ∧ (plainWord 0 0 w = true) ∧ (wOp w ≠ 0xFF) ∧ (p.mask ≠ 0) ∧ (g.paths = [q, p]) ∧ (q ≠ p) ∧
      (q.pc = p.pc) ∧ (q.park = .reconverge)) :=
  ⟨⟨threaded, (threaded).issueFrom 0 0 ((group0).readyAll ([])), 0, 0, group0, path0, wordOf 0 0 0 64 64 0 0, .add,
     by unfold State.mayIssue; decide +kernel⟩,
   ⟨threaded, (threaded).issueFrom 0 0 ((group0).readyAll ([])), 0, 0, group0, path0, w7,
     by unfold State.mayIssue; decide +kernel⟩,
   ⟨threaded, (threaded).issueFrom 0 0 ((group0).readyAll ([])), 0, 0, group0, path0, wordOf 0 0 0 64 0 0 0,
     by unfold State.mayIssue; decide +kernel⟩,
   ⟨threadedBy { group0 with p := [(0, 1)] }, (threadedBy { group0 with p := [(0, 1)] }).issueFrom 0 0
     (({ group0 with p := [(0, 1)] }).readyAll ([])), 0, 0, { group0 with p := [(0, 1)] }, path0, 0,
     by unfold State.mayIssue; decide +kernel⟩,
   ⟨threaded, (threaded).issueFrom 0 0 ((group0).readyAll ([])), 0, 0, group0, path0, w7,
     by unfold State.mayIssue; decide +kernel⟩,
   ⟨threaded, (threaded).issueFrom 0 0 ((group0).readyAll ([])), 0, 0, group0, path0, wordOf 0 255 0 0 0 0 0,
     by unfold State.mayIssue; decide +kernel⟩,
   ⟨threaded, (threaded).issueFrom 0 0 ((group0).readyAll ([])), 0, 0, group0, path0, BitVec.ofNat 64 (64 * 2 ^ 38 +
     64 * 2 ^ 31), .add, by unfold State.mayIssue; decide +kernel⟩,
   ⟨threaded, (threaded).issueFrom 0 0 ((group0).readyAll ([])), 0, 0, group0, path0, w7, .add,
     by unfold State.mayIssue; decide +kernel⟩,
   ⟨threadedBy forked, (threadedBy forked).issueFrom 0 0 ((forked).readyAll ([])), 0, 0, forked, pathLow, w7,
     by unfold State.mayIssue; decide +kernel⟩,
   ⟨threadedBy parked, (threadedBy parked).issueFrom 0 0 (parked.readyAll []), 0, 0, parked, ⟨0, 0xFFFFFFFE, .no⟩, ⟨0,
     1, .reconverge⟩, w7, by unfold State.mayIssue; decide +kernel⟩⟩

theorem witness_VectorIntegerInstructions :
    (∃ (s : State) (u : State) (tile : Nat) (slot : Nat) (g : Group) (p : Path) (w : Word64) (op : IntOp), (s.mayIssue
      tile slot (vecKeys w) g p u) ∧ (plainWord 1 0 w = true) ∧ (wOp w ≠ 0x3C) ∧ (p.mask ≠ 0) ∧ (op ∈ [IntOp.add,
      .sub, .mul, .shl, .shrU, .shrS, .and, .or, .xor, .shuffle])) ∧
    (∃ (s : State) (u : State) (tile : Nat) (slot : Nat) (g : Group) (p : Path) (w : Word64) (op : IntOp), (s.mayIssue
      tile slot (vecKeys w) g p u) ∧ (plainWord 1 0 w = true) ∧ (wOp w ≠ 0x3C) ∧ (p.mask ≠ 0) ∧ (op ∈ [IntOp.cmpEq,
      .cmpNe, .cmpLtS, .cmpLtU])) ∧
    (∃ (s : State) (u : State) (tile : Nat) (slot : Nat) (g : Group) (p : Path) (w : Word64), (s.mayIssue tile slot
      (scalarKeys w) g p u) ∧ (plainWord 1 (2 ^ 17 - 1) w = true) ∧ (wOp w = 0x3C) ∧ (scalarPair w = true) ∧ (p.mask ≠
      0) ∧ (1 ≤ wImm w)) ∧
    (∃ (s : State) (u : State) (tile : Nat) (slot : Nat) (g : Group) (p : Path) (w : Word64), (s.mayIssue tile slot
      (scalarKeys w) g p u) ∧ (wImm w = 0)) :=
  ⟨⟨threaded, (threaded).issueFrom 0 0 ((group0).readyAll ([])), 0, 0, group0, path0, wordOf 1 0 0 0 0 0 0, .add,
     by unfold State.mayIssue; decide +kernel⟩,
   ⟨threaded, (threaded).issueFrom 0 0 ((group0).readyAll ([])), 0, 0, group0, path0, wordOf 1 0 0 0 0 0 0, .cmpEq,
     by unfold State.mayIssue; decide +kernel⟩,
   ⟨threaded, (threaded).issueFrom 0 0 ((group0).readyAll ([])), 0, 0, group0, path0, wordOf 1 60 0 64 64 0 1,
     by unfold State.mayIssue; decide +kernel⟩,
   ⟨threaded, (threaded).issueFrom 0 0 ((group0).readyAll ([])), 0, 0, group0, path0, wordOf 1 60 0 64 64 0 0,
     by unfold State.mayIssue; decide +kernel⟩⟩

theorem witness_Binary32Instructions :
    (∃ (s : State) (u : State) (tile : Nat) (slot : Nat) (g : Group) (p : Path) (w : Word64) (op : F32Op), (s.mayIssue
      tile slot (if op = .fma then fmaKeys w else vecKeys w) g p u) ∧ (plainWord 2 0 w = true) ∧ (p.mask ≠ 0) ∧ (op ∈
      [F32Op.fma, .add, .mul, .min, .max])) ∧
    (∃ (s : State) (u : State) (tile : Nat) (slot : Nat) (g : Group) (p : Path) (w : Word64) (op : F32Op), (s.mayIssue
      tile slot (vecKeys w) g p u) ∧ (plainWord 2 0 w = true) ∧ (p.mask ≠ 0) ∧ (op ∈ [F32Op.cmpEq, .cmpNe, .cmpLt,
      .cmpLe, .cmpGt, .cmpGe])) ∧
    (∃ (a : Word32) (b : Word32), ((f32Val a).isNan = true ∨ (f32Val b).isNan = true)) :=
  ⟨⟨threaded, (threaded).issueFrom 0 0 ((group0).readyAll ([])), 0, 0, group0, path0, wordOf 2 0 0 0 0 0 0, .fma,
     by unfold State.mayIssue; decide +kernel⟩,
   ⟨threaded, (threaded).issueFrom 0 0 ((group0).readyAll ([])), 0, 0, group0, path0, wordOf 2 0 0 0 0 0 0, .cmpLt,
     by unfold State.mayIssue; decide +kernel⟩,
   ⟨0x7FC00000, 0, by decide +kernel⟩⟩

theorem witness_ConversionInstructions :
    (∃ (s : State) (u : State) (tile : Nat) (slot : Nat) (g : Group) (p : Path) (w : Word64) (a : Fmt) (b : Fmt),
      (s.mayIssue tile slot (convKeys (fmtScaled a) false w) g p u) ∧ (convLegal false w = true) ∧ (p.mask ≠ 0) ∧
      (convertible a b = true)) ∧
    (∃ (s : State) (u : State) (tile : Nat) (slot : Nat) (g : Group) (p : Path) (w : Word64) (a : Fmt) (b : Fmt) (sr :
      Bool), (s.mayIssue tile slot (convKeys (fmtScaled a) sr w) g p u) ∧ (convertible a b = false)) ∧
    (∃ (s : State) (u : State) (tile : Nat) (slot : Nat) (g : Group) (p : Path) (w : Word64) (a : Fmt) (b : Fmt),
      (s.mayIssue tile slot (convKeys (fmtScaled a) true w) g p u) ∧ (convLegal true w = true) ∧ (p.mask ≠ 0) ∧
      (convertible a b = true)) ∧
    (∃ (s : State) (u : State) (tile : Nat) (slot : Nat) (g : Group) (p : Path) (w : Word64), (s.mayIssue tile slot
      (oneKey w) g p u) ∧ (plainWord 3 0 w = true) ∧ (p.mask ≠ 0)) ∧
    (∃ (s : State) (u : State) (tile : Nat) (slot : Nat) (g : Group) (p : Path) (w : Word64) (sr : Bool), (s.mayIssue
      tile slot (convKeys false sr w) g p u) ∧ (convLegal sr w = true) ∧ (p.mask ≠ 0)) :=
  ⟨⟨threaded, (threaded).issueFrom 0 0 ((group0).readyAll ([])), 0, 0, group0, path0, wordOf 3 0 0 0 0 0 0, .binary32,
     .binary16, by unfold State.mayIssue; decide +kernel⟩,
   ⟨threaded, (threaded).issueFrom 0 0 ((group0).readyAll ([])), 0, 0, group0, path0, wordOf 3 0 0 0 0 0 0, .binary32,
     .binary32, false, by unfold State.mayIssue; decide +kernel⟩,
   ⟨threaded, (threaded).issueFrom 0 0 ((group0).readyAll ([])), 0, 0, group0, path0, wordOf 3 0 0 0 0 64 0,
     .binary32, .zf8a, by unfold State.mayIssue; decide +kernel⟩,
   ⟨threaded, (threaded).issueFrom 0 0 ((group0).readyAll ([])), 0, 0, group0, path0, wordOf 3 0 0 0 0 0 0,
     by unfold State.mayIssue; decide +kernel⟩,
   ⟨threaded, (threaded).issueFrom 0 0 ((group0).readyAll ([])), 0, 0, group0, path0, wordOf 3 0 0 0 0 64 0, true,
     by unfold State.mayIssue; decide +kernel⟩⟩

theorem witness_PreciseFaultsStopTheContext :
    (∃ (s : State) (u : State) (tile : Nat) (slot : Nat) (g : Group) (p : Path), (s.mayIssue tile slot [] g p u) ∧
      ((u.ctx g.ctx).st = .resident) ∧ ((u.ctx g.ctx).fault = none)) ∧
    (∃ (s : State) (u : State) (tile : Nat) (slot : Nat) (g : Group) (p : Path), (s.mayIssue tile slot [] g p u) ∧
      ((u.ctx g.ctx).kind = 0) ∧ ((u.ctx g.ctx).st = .resident) ∧ ((u.ctx g.ctx).fault = none)) ∧
    (∃ (s : State) (u : State) (tile : Nat) (slot : Nat) (g : Group) (p : Path) (w : Word64), (s.mayIssue tile slot []
      g p u) ∧ ((u.ctx g.ctx).kind ≠ 0) ∧ (plainWord 0xC 0 w = true) ∧ (p.mask ≠ 0)) ∧
    (∃ (s : State) (u : State) (tile : Nat) (slot : Nat) (g : Group) (p : Path) (w : Word64), (s.mayIssue tile slot
      (vecKeys w) g p u) ∧ (plainWord 1 0 w = false)) ∧
    (∃ (s : State), (s.mod.state ≠ .run)) :=
  ⟨⟨threaded, (threaded).issueFrom 0 0 ((group0).readyAll ([])), 0, 0, group0, path0,
     by unfold State.mayIssue; decide +kernel⟩,
   ⟨threaded, (threaded).issueFrom 0 0 ((group0).readyAll ([])), 0, 0, group0, path0,
     by unfold State.mayIssue; decide +kernel⟩,
   ⟨inContext { ctx5 with kind := 1 }, (inContext { ctx5 with kind := 1 }).issueFrom 0 0 ((group0).readyAll ([])), 0,
     0, group0, path0, wordOf 12 0 0 0 0 0 0, by unfold State.mayIssue; decide +kernel⟩,
   ⟨threaded, (threaded).issueFrom 0 0 ((group0).readyAll ([])), 0, 0, group0, path0, wordOf 1 0 0 0 0 0 1,
     by unfold State.mayIssue; decide +kernel⟩,
   ⟨State.reset, by decide +kernel⟩⟩

theorem witness_InstructionCacheMissesWait :
    (∃ (s : State) (tile : Nat) (slot : Nat) (g : Group) (p : Path), (s.ready tile slot = some (g, p)) ∧ ((s.tile
      tile).iHit (p.pc.toNat / 128) = false)) ∧
    (∃ (s : State), (s.mod.state = .run)) ∧
    (∃ (s : State), (s.mod.state ≠ .run)) :=
  ⟨⟨(threaded).modTile 0 (fun y => { y with icache := [] }), 0, 0, group0, path0, by decide +kernel⟩,
   ⟨running, by decide +kernel⟩,
   ⟨State.reset, by decide +kernel⟩⟩

theorem witness_ScratchInstructionsUseTheBlocksWindow :
    (∃ (s : State) (u : State) (v : State) (tile : Nat) (slot : Nat) (g : Group) (p : Path) (m : LaneMem) (b : Block)
      (lanes : List Nat), (s.mayIssue tile slot (oneKey m.word) g p u) ∧ (laneLegal 4 m = true) ∧ (p.mask ≠ 0) ∧
      (u.blockOf tile g = some b) ∧ (lanes = lanesOf (g.active p m.word)) ∧ (scratchFault m lanes b.size
      .scratchBounds = none) ∧ (v = (u.waitWet ((u.tile tile).lanesReady b.base m lanes)).takePort tile (portTicks
      (wordsAddressed b.base m lanes)))) ∧
    (∃ (s : State) (u : State) (v : State) (tile : Nat) (slot : Nat) (g : Group) (p : Path) (m : LaneMem) (b : Block)
      (lanes : List Nat), (s.mayIssue tile slot (storeKeys m.word m.size) g p u) ∧ (laneLegal 4 m = true) ∧ (p.mask ≠
      0) ∧ (u.blockOf tile g = some b) ∧ (lanes = lanesOf (g.active p m.word)) ∧ (scratchFault m lanes b.size
      .scratchBounds = none) ∧ (v = u.takePort tile (portTicks (wordsAddressed b.base m lanes)))) ∧
    (∃ (m : LaneMem), (LaneSize m.size = true)) ∧
    (∃ (v : State) (k : Nat) (m : LaneMem), (LaneSize m.size = true) ∧ ((v.tile k).array.idle = true)) ∧
    (∃ (s : State) (u : State) (tile : Nat) (slot : Nat) (g : Group) (p : Path) (m : LaneMem) (b : Block) (e : Code ×
      Nat), (u.blockOf tile g = some b) ∧ (scratchFault m (lanesOf (g.active p m.word)) b.size .scratchBounds = some
      e) ∧ (laneLegal 4 m = true) ∧ (s.mayIssue tile slot (oneKey m.word) g p u)) ∧
    (∃ (s : State) (u : State) (tile : Nat) (slot : Nat) (g : Group) (p : Path) (m : LaneMem) (b : Block), (u.blockOf
      tile g = some b) ∧ (laneLegal 4 m = false) ∧ (s.mayIssue tile slot (oneKey m.word) g p u)) ∧
    (∃ (m : LaneMem) (lanes : List Nat) (l : Nat), (l ∈ lanes) ∧ (laneAddr m l % m.size ≠ 0)) ∧
    (∃ (m : LaneMem) (lanes : List Nat) (l : Nat) (size : Nat), ((∀ k ∈ lanes, laneAddr m k % m.size = 0)) ∧ (l ∈
      lanes) ∧ (size < laneAddr m l + m.size)) ∧
    (∃ (m : LaneMem) (lanes : List Nat) (size : Nat), ((∀ k ∈ lanes, laneAddr m k % m.size = 0 ∧ laneAddr m k + m.size
      ≤ size))) :=
  ⟨⟨threaded, (threaded).issueFrom 0 0 ((group0).readyAll []), (((threaded).issueFrom 0 0 ((group0).readyAll
     [])).waitWet ((((threaded).issueFrom 0 0 ((group0).readyAll [])).tile 0).lanesReady block0.base (lanesIn 4)
     (lanesOf (group0.active path0 (lanesIn 4).word)))).takePort 0 (portTicks (wordsAddressed block0.base (lanesIn 4)
     (lanesOf (group0.active path0 (lanesIn 4).word)))), 0, 0, group0, path0, lanesIn 4, block0, lanesOf
     (group0.active path0 (lanesIn 4).word), ⟨by unfold State.mayIssue; decide +kernel, by decide +kernel,
     by decide +kernel, by decide +kernel, rfl, by decide +kernel, rfl⟩⟩,
   ⟨threaded, (threaded).issueFrom 0 0 ((group0).readyAll []), ((threaded).issueFrom 0 0 ((group0).readyAll
     [])).takePort 0 (portTicks (wordsAddressed block0.base (lanesIn 4) (lanesOf (group0.active path0 (lanesIn
     4).word)))), 0, 0, group0, path0, lanesIn 4, block0, lanesOf (group0.active path0 (lanesIn 4).word),
     ⟨by unfold State.mayIssue; decide +kernel, by decide +kernel, by decide +kernel, by decide +kernel, rfl,
     by decide +kernel, rfl⟩⟩,
   ⟨lanesIn 4, by decide +kernel⟩,
   ⟨running, 0, lanesIn 4, by decide +kernel⟩,
   ⟨threaded, (threaded).issueFrom 0 0 ((group0).readyAll []), 0, 0, group0, path0, lanesAt 4 4096, block0,
     (.scratchBounds, 4096), ⟨by decide +kernel, by decide +kernel, by decide +kernel,
     by unfold State.mayIssue; decide +kernel⟩⟩,
   ⟨threaded, (threaded).issueFrom 0 0 ((group0).readyAll []), 0, 0, group0, path0, lanesIn 5, block0,
     ⟨by decide +kernel, by decide +kernel, by unfold State.mayIssue; decide +kernel⟩⟩,
   ⟨⟨w7, 4, [1]⟩, [0], 0, by decide +kernel⟩,
   ⟨⟨w7, 4, [4]⟩, [0], 0, 4, by decide +kernel⟩,
   ⟨⟨w7, 4, [0]⟩, [0], 4, by decide +kernel⟩⟩

theorem witness_ClusterScratchReachesTheOtherRanks :
    (∃ (s : State) (u : State) (tile : Nat) (slot : Nat) (rank : Nat) (k : Nat) (g : Group) (p : Path) (m : LaneMem)
      (b : Block) (y : Block) (lanes : List Nat), (laneLegal 5 m = true) ∧ (p.mask ≠ 0) ∧ (u.blockOf tile g = some b)
      ∧ (u.rankBlock b rank = some (k, y)) ∧ (lanes = lanesOf (g.active p m.word)) ∧ (scratchFault m lanes y.size
      .clusterRange = none) ∧ (s.mayIssue tile slot (storeKeys m.word m.size) g p u)) ∧
    (∃ (s : State) (u : State) (tile : Nat) (slot : Nat) (rank : Nat) (g : Group) (p : Path) (m : LaneMem) (b :
      Block), (laneLegal 5 m = true) ∧ (u.blockOf tile g = some b) ∧ (u.rankBlock b rank = none) ∧ (s.mayIssue tile
      slot (storeKeys m.word m.size) g p u)) ∧
    (∃ (s : State) (u : State) (tile : Nat) (slot : Nat) (rank : Nat) (k : Nat) (g : Group) (p : Path) (m : LaneMem)
      (b : Block) (y : Block) (e : Code × Nat), (laneLegal 5 m = true) ∧ (u.blockOf tile g = some b) ∧ (u.rankBlock b
      rank = some (k, y)) ∧ (scratchFault m (lanesOf (g.active p m.word)) y.size .clusterRange = some e) ∧ (s.mayIssue
      tile slot (storeKeys m.word m.size) g p u)) ∧
    (∃ (s : State) (i : SluiceId) (x : Sluice) (it : Item), (s.sluices = [(i, x)]) ∧ (x.items = [it]) ∧ (x.waiting =
      []) ∧ (it.visible = true) ∧ (it.timed = false) ∧ (i.kind = .mesh) ∧ (s.running = true) ∧ (it.delay ≤ s.itemAge i
      it) ∧ (s.dryNow = false)) ∧
    (∃ (s : State) (id : Nat) (i : Issue) (ds : List (Nat × List Byte)), (s.issues.find? (fun x => x.id == id &&
      x.rank.isSome) = some i) ∧ (i.data = some ds) ∧ (LaneSize i.size = true) ∧ ((∀ e ∈ ds, e.1 < 32)) ∧ ((ds.map
      (fun e => e.1)).Nodup) ∧ ((∀ e ∈ s.sluices, ∀ it ∈ e.2.items, it.what ≠ .clusterLoad id ∧ ∀ op ty l, it.what ≠
      .clusterAtomic id op ty l)) ∧ ((∀ o ∈ s.sync.ops, o.sent = true ∨ o.who ≠ .group i.tile i.uid))) ∧
    (∃ (s : State) (id : Nat), (s.issues.find? (fun x => x.id == id && x.rank.isSome) = none) ∧ ((∀ e ∈ s.sluices, ∀
      it ∈ e.2.items, it.what ≠ .clusterLoad id ∧ ∀ op ty l, it.what ≠ .clusterAtomic id op ty l))) :=
  ⟨⟨threaded, (threaded).issueFrom 0 0 ((group0).readyAll []), 0, 0, 0, 0, group0, path0, lanesIn 5, block0, block0,
     lanesOf (group0.active path0 (lanesIn 5).word), ⟨by decide +kernel, by decide +kernel, by decide +kernel,
     by decide +kernel, rfl, by decide +kernel, by unfold State.mayIssue; decide +kernel⟩⟩,
   ⟨threaded, (threaded).issueFrom 0 0 ((group0).readyAll []), 0, 0, 1, group0, path0, lanesIn 5, block0,
     ⟨by decide +kernel, by decide +kernel, by decide +kernel, by unfold State.mayIssue; decide +kernel⟩⟩,
   ⟨threaded, (threaded).issueFrom 0 0 ((group0).readyAll []), 0, 0, 0, 0, group0, path0, lanesAt 5 4096, block0,
     block0, (.clusterRange, 4096), ⟨by decide +kernel, by decide +kernel, by decide +kernel, by decide +kernel,
     by unfold State.mayIssue; decide +kernel⟩⟩,
   ⟨({ running with sluices := [(mesh0, { Sluice.empty with items := [{ item0 with visible := true, delay := 0 }] })] }
     : State), mesh0, { Sluice.empty with items := [{ item0 with visible := true, delay := 0 }] },
     { item0 with visible := true, delay := 0 }, by decide +kernel⟩,
   ⟨({ threaded with issues := [{ issue1 with rank := some 0, data := some [(0, [1, 2, 3, 4])] }] } : State), 1,
     { issue1 with rank := some 0, data := some [(0, [1, 2, 3, 4])] }, [(0, [1, 2, 3, 4])], ⟨by decide +kernel,
     by decide +kernel, by decide +kernel, by decide +kernel, by decide +kernel, fun e he => absurd he
     List.not_mem_nil, by decide +kernel⟩⟩,
   ⟨State.reset, 1, ⟨by decide +kernel, fun e he => absurd he List.not_mem_nil⟩⟩⟩

theorem witness_MemoryInstructionsSendTheirParts :
    (∃ (s : State) (u : State) (tile : Nat) (slot : Nat) (g : Group) (p : Path) (m : LaneMem) (lanes : List Nat)
      (spans : List (Nat × Nat)), (laneLegal 6 m = true) ∧ (p.mask ≠ 0) ∧ (lanes = lanesOf (g.active p m.word)) ∧
      (lanes ≠ []) ∧ (misaligned m lanes = false) ∧ (spans = (linesTouched m lanes).map (fun n => (n * 128 + (lineSpan
      m lanes n).1, (lineSpan m lanes n).2.1))) ∧ (s.mayIssue tile slot (oneKey m.word) g p u)) ∧
    (∃ (s : State) (u : State) (u' : State) (tile : Nat) (slot : Nat) (g : Group) (p : Path) (m : LaneMem) (lanes :
      List Nat) (op : AtomOp) (ty : AtomTy), (m.size = atomBytes ty) ∧ (s.mayIssue tile slot (atomKeys m.word m.size)
      g p u) ∧ (laneLegal 7 m = true) ∧ (atomLegal op ty = true) ∧ (p.mask ≠ 0) ∧ (lanes = lanesOf (g.active p
      m.word)) ∧ (lanes ≠ []) ∧ (misaligned m lanes = false) ∧ (u.firstFault g.ctx 2 .threadAtomic ((linesTouched m
      lanes).map (fun n => (n * 128 + (lineSpan m lanes n).1, (lineSpan m lanes n).2.1))) = (none, u'))) ∧
    (∃ (s : State) (u : State) (tile : Nat) (slot : Nat) (g : Group) (p : Path) (m : LaneMem), (laneLegal 6 m = true)
      ∧ (misaligned m (lanesOf (g.active p m.word)) = true) ∧ (s.mayIssue tile slot (oneKey m.word) g p u)) ∧
    (∃ (s : State) (u : State) (tile : Nat) (slot : Nat) (g : Group) (p : Path) (m : LaneMem), (laneLegal 6 m = false)
      ∧ (s.mayIssue tile slot (oneKey m.word) g p u)) :=
  ⟨⟨mapped, (mapped).issueFrom 0 0 ((group0).readyAll []), 0, 0, group0, path0, lanesIn 6, lanesOf (group0.active
     path0 (lanesIn 6).word), (linesTouched (lanesIn 6) (lanesOf (group0.active path0 (lanesIn 6).word))).map (fun n
     => (n * 128 + (lineSpan (lanesIn 6) (lanesOf (group0.active path0 (lanesIn 6).word)) n).1, (lineSpan (lanesIn 6)
     (lanesOf (group0.active path0 (lanesIn 6).word)) n).2.1)), ⟨by decide +kernel, by decide +kernel, rfl,
     by decide +kernel, by decide +kernel, rfl, by unfold State.mayIssue; decide +kernel⟩⟩,
   ⟨mapped, (mapped).issueFrom 0 0 ((group0).readyAll []), ((mapped).issueFrom 0 0 ((group0).readyAll [])).firstFault
     5 2 .threadAtomic ((linesTouched (lanesIn 7) (lanesOf (group0.active path0 (lanesIn 7).word))).map (fun n => (n *
     128 + (lineSpan (lanesIn 7) (lanesOf (group0.active path0 (lanesIn 7).word)) n).1, (lineSpan (lanesIn 7) (lanesOf
     (group0.active path0 (lanesIn 7).word)) n).2.1))) |>.2, 0, 0, group0, path0, lanesIn 7, lanesOf (group0.active
     path0 (lanesIn 7).word), .add, .int32, ⟨by decide +kernel, by unfold State.mayIssue; decide +kernel,
     by decide +kernel, by decide +kernel, by decide +kernel, rfl, by decide +kernel, by decide +kernel,
     by decide +kernel⟩⟩,
   ⟨mapped, (mapped).issueFrom 0 0 ((group0).readyAll []), 0, 0, group0, path0, lanesAt 6 1, ⟨by decide +kernel,
     by decide +kernel, by unfold State.mayIssue; decide +kernel⟩⟩,
   ⟨mapped, (mapped).issueFrom 0 0 ((group0).readyAll []), 0, 0, group0, path0, lanesIn 4, ⟨by decide +kernel,
     by unfold State.mayIssue; decide +kernel⟩⟩⟩

theorem witness_AtomicsApplyLanesInOrder :
    (∃ (s : State) (u : State) (tile : Nat) (slot : Nat) (k : Nat) (g : Group) (p : Path) (m : LaneMem) (b : Block) (y
      : Block) (op : AtomOp) (ty : AtomTy) (sp : AtomSpace) (lanes : List Nat), (m.size = atomBytes ty) ∧ (s.mayIssue
      tile slot (atomKeys m.word m.size) g p u) ∧ (laneLegal 7 m = true) ∧ (p.mask ≠ 0) ∧ (atomLegal op ty = true) ∧
      (u.blockOf tile g = some b) ∧ (lanes = lanesOf (g.active p m.word)) ∧ ((sp = .scratch ∧ k = tile ∧ y = b ∧
      scratchFault m lanes y.size .scratchBounds = none ∨ ∃ r, sp = .cluster r ∧ u.rankBlock b r = some (k, y) ∧
      scratchFault m lanes y.size .clusterRange = none))) ∧
    (∃ (v : State) (k : Nat) (base : Nat) (g : Group) (m : LaneMem) (op : AtomOp) (ty : AtomTy) (mask : Word32) (q :
      State × Group), ((v.tile k).array.idle = true) ∧ (m.size = atomBytes ty) ∧ (misaligned m (lanesOf mask) = false)
      ∧ (q = v.scratchAtomics k base g m op ty (lanesOf mask))) ∧
    (∃ (s : State) (i : Issue), ((s.tile (i.rank.getD 0)).array.idle = true)) ∧
    (∃ (s : State) (u : State) (tile : Nat) (slot : Nat) (g : Group) (p : Path) (m : LaneMem) (b : Block) (op :
      AtomOp) (ty : AtomTy), (s.mayIssue tile slot (atomKeys m.word (atomBytes ty)) g p u) ∧ (u.blockOf tile g = some
      b) ∧ (atomLegal op ty = false)) ∧
    (∃ (a : Word32) (b : Word32) (x : Word64) (y : Word64), (a.toNat = x.toNat) ∧ (b.toNat = y.toNat)) :=
  ⟨⟨threaded, (threaded).issueFrom 0 0 ((group0).readyAll []), 0, 0, 0, group0, path0, lanesIn 7, block0, block0,
     .add, .int32, .scratch, lanesOf (group0.active path0 (lanesIn 7).word), ⟨by decide,
     by unfold State.mayIssue; decide +kernel, by decide +kernel, by decide, by decide, by decide +kernel, rfl, Or.inl
     (by decide +kernel)⟩⟩,
   ⟨running, 0, 0, group0, lanesIn 7, .add, .int32, 0xFFFFFFFF, (running).scratchAtomics 0 0 group0 (lanesIn 7) .add
     .int32 (lanesOf 0xFFFFFFFF), ⟨by decide +kernel, by decide +kernel, by decide +kernel, rfl⟩⟩,
   ⟨running, issue1, by decide +kernel⟩,
   ⟨threaded, (threaded).issueFrom 0 0 ((group0).readyAll []), 0, 0, group0, path0, lanesIn 7, block0, .and,
     .binary32, by unfold State.mayIssue; decide +kernel⟩,
   ⟨0, 0, 0, 0, by decide +kernel⟩⟩

theorem witness_ReturnsEndWhatWasIssued :
    (∃ (s : State) (id : Nat) (i : Issue), (s.issues.find? (fun x => x.id == id && x.rank.isNone) = some i) ∧
      (LaneSize i.size = true) ∧ ((∀ o ∈ s.sync.ops, o.sent = true ∨ o.who ≠ .group i.tile i.uid)) ∧ ((∀ a ∈
      s.flights, a.issue = id → Access.done a = true))) ∧
    (∃ (s : State) (id : Nat) (a : Access), (a ∈ s.flights) ∧ (a.issue = id) ∧ (Access.done a = false)) ∧
    (∃ (parts : List Access) (i : Issue) (l : Nat) (k : Nat) (a : Access) (d : List Byte) (o : List Word64), (parts =
      [a]) ∧ (a.op = .load) ∧ (a.stage = .served d o) ∧ (k < i.size) ∧ (a.va ≤ i.addrs.getD l 0 + k) ∧ (i.addrs.getD l
      0 + k < a.va + a.len)) ∧
    (∃ (s : State) (tile : Nat) (line : Nat) (sector : Nat) (a : Access) (d : List Byte) (o : List Word64), (s.flights
      = [a]) ∧ (sector < 4) ∧ (sectorRequest tile (line * 128 + 32 * sector) a = true) ∧ (a.stage = .served d o) ∧
      (d.length = 32) ∧ ((s.tile tile).roLine line = none) ∧ ((s.tile tile).roRequest line sector = some a.id)) ∧
    (∃ (s : State) (id : Nat) (a : Access) (i : Issue), (s.access id = some a) ∧ (a.stage = .acked) ∧ (s.issues.find?
      (fun x => x.id == a.issue) = some i) ∧ ((∀ b ∈ s.flights, b.issue = i.id → b.id = id)) ∧ ((∀ o ∈ s.sync.ops,
      o.sent = true ∨ o.who ≠ .group i.tile i.uid))) ∧
    (∃ (s : State) (id : Nat) (a : Access), (s.access id = some a) ∧ (a.stage ≠ .acked)) ∧
    (∃ (s : State) (id : Nat), (s.access id = none)) ∧
    (∃ (s : State) (id : Nat) (x : Nat) (a : Access) (w : Walk), (s.access id = some a) ∧ (s.walks.find? (fun w =>
      w.id == id) = some w) ∧ (a.flag = true) ∧ (a.stage = .waiting) ∧ (w.acks = []) ∧ (a.place = .dram x)) ∧
    (∃ (s : State) (id : Nat) (i : Issue) (a : Access) (c : Code), (s.issues.find? (fun x => x.id == id) = some i) ∧
      ((s.flights.filter (fun a => a.issue == id)).find? (fun a => a.fault.isSome) = some a) ∧ (a.fault = some c) ∧
      ((s.ctx i.ctx).st = .resident) ∧ ((s.ctx i.ctx).fault = none) ∧ ((∀ o ∈ s.sync.ops, o.sent = true ∨ o.who ≠
      .group i.tile i.uid))) :=
  ⟨⟨({ threaded with issues := [issue1], flights := [access2 (.load) (.dram 0) (.served [1, 0, 0, 0] [])] } : State),
     1, issue1, by decide +kernel⟩,
   ⟨({ threaded with issues := [issue1], flights := [access2 (.load) (.dram 0) (.moving)] } : State), 1, access2
     (.load) (.dram 0) (.moving), by decide +kernel⟩,
   ⟨[access2 (.load) (.dram 0) (.served [1, 0, 0, 0] [])], issue1, 0, 3, access2 (.load) (.dram 0) (.served [1, 0, 0,
     0] []), [1, 0, 0, 0], [], ⟨rfl, by decide +kernel, by decide +kernel, by decide +kernel, by decide +kernel,
     by decide +kernel⟩⟩,
   ⟨(({ threaded with flights := [{ access2 .load (.dram 0) (.served (List.replicate 32 0) []) with len := 32, cached := true }] }
     : State)).modTile 0 (fun y => { y with roMiss := [⟨0, 1, [(0, 2)], []⟩] }), 0, 0, 0,
     { access2 .load (.dram 0) (.served (List.replicate 32 0) []) with len := 32, cached := true }, List.replicate 32
     0, [], by decide +kernel⟩,
   ⟨({ threaded with issues := [issue1], flights := [access2 (.store [some 1]) (.dram 0) (.acked)] } : State), 2,
     access2 (.store [some 1]) (.dram 0) (.acked), issue1, by decide +kernel⟩,
   ⟨({ threaded with issues := [issue1], flights := [access2 (.load) (.dram 0) (.moving)] } : State), 2, access2
     (.load) (.dram 0) (.moving), by decide +kernel⟩,
   ⟨State.reset, 2, by decide +kernel⟩,
   ⟨({ threaded with flights := [{ access2 (.store [some 1]) (.dram 0) .waiting with flag := true }], walks := [⟨2, .flush, none, .group 0 7, some 0, [], false⟩] }
     : State), 2, 0, { access2 (.store [some 1]) (.dram 0) .waiting with flag := true }, ⟨2, .flush, none, .group 0 7,
     some 0, [], false⟩, by decide +kernel⟩,
   ⟨({ threaded with issues := [issue1], flights := [access2 (.load) (.dram 0) (.poisoned)] } : State), 1, issue1,
     access2 (.load) (.dram 0) (.poisoned), .memUncorrectable, by decide +kernel⟩⟩

theorem witness_HeapBlocksAreGivenAndTakenBack :
    (∃ (s : State) (u : State) (tile : Nat) (slot : Nat) (g : Group) (p : Path) (w : Word64), (s.mayIssue tile slot
      [keyS (wA w), keyP (wPred w)] g p u) ∧ (heapLegal 0x30 w = true) ∧ (g.active p w ≠ 0) ∧ ((g.sreg (wA w)).toNat =
      0 ∨ 2 ^ 30 < (g.sreg (wA w)).toNat)) ∧
    (∃ (s : State) (u : State) (tile : Nat) (slot : Nat) (g : Group) (p : Path) (w : Word64), (s.mayIssue tile slot
      [keyS (wA w), keyP (wPred w)] g p u) ∧ (heapLegal 0x30 w = true) ∧ (g.active p w ≠ 0)) ∧
    (∃ (s : State) (u : State) (tile : Nat) (slot : Nat) (g : Group) (p : Path) (w : Word64), (s.mayIssue tile slot
      [keyS (wA w), keyP (wPred w)] g p u) ∧ (heapLegal 0x31 w = true) ∧ (g.active p w ≠ 0) ∧ ((∃ b ∈ (s.ctx
      g.ctx).heapBlocks, b.1 = (g.sreg (wA w)).toNat))) ∧
    (∃ (s : State) (u : State) (tile : Nat) (slot : Nat) (g : Group) (p : Path) (w : Word64), (s.mayIssue tile slot
      [keyS (wA w), keyP (wPred w)] g p u) ∧ (heapLegal 0x31 w = true) ∧ (g.active p w ≠ 0) ∧ ((∀ b ∈ (s.ctx
      g.ctx).heapBlocks, b.1 ≠ (g.sreg (wA w)).toNat))) ∧
    (∃ (s : State) (u : State) (tile : Nat) (slot : Nat) (g : Group) (p : Path) (w : Word64), (s.mayIssue tile slot
      [keyS (wA w), keyP (wPred w)] g p u)) :=
  ⟨⟨threaded, (threaded).issueFrom 0 0 ((group0).readyAll ([])), 0, 0, group0, path0, wordOf 6 48 0 64 0 0 0,
     by unfold State.mayIssue; decide +kernel⟩,
   ⟨threaded, (threaded).issueFrom 0 0 ((group0).readyAll ([])), 0, 0, group0, path0, wordOf 6 48 0 65 0 0 0,
     by unfold State.mayIssue; decide +kernel⟩,
   ⟨inContext { ctx5 with heapBlocks := [(10, 64)] }, (inContext { ctx5 with heapBlocks := [(10, 64)] }).issueFrom 0 0
     ((group0).readyAll ([])), 0, 0, group0, path0, wordOf 6 49 0 65 0 0 0, by unfold State.mayIssue; decide +kernel⟩,
   ⟨threaded, (threaded).issueFrom 0 0 ((group0).readyAll ([])), 0, 0, group0, path0, wordOf 6 49 0 65 0 0 0,
     by unfold State.mayIssue; decide +kernel⟩,
   ⟨threaded, (threaded).issueFrom 0 0 ((group0).readyAll ([])), 0, 0, group0, path0, w7,
     by unfold State.mayIssue; decide +kernel⟩⟩

theorem witness_BlocksStartOnTheirTiles :
    (∃ (s : State) (tile : Nat) (index : Nat) (base : Nat) (k : Kernel) (rest : List (Nat × Nat)), (s.mod.state =
      .run) ∧ ((s.tile tile).waiting = (k.id, index) :: rest) ∧ (s.kernels.find? (fun x => x.id == k.id) = some k) ∧
      (k.cw = 1) ∧ (k.ch = 1) ∧ (k.place.getD index 0 = tile) ∧ (s.canStart tile k index = true) ∧ ((s.tile tile).ctx
      = some k.ctx) ∧ ((s.tile tile).freeWindow k.scratch = some base)) ∧
    (∃ (s : State) (tile : Nat) (index : Nat) (c : Nat) (k : Kernel) (rest : List (Nat × Nat)), (s.mod.state = .run) ∧
      ((s.tile tile).waiting = (k.id, index) :: rest) ∧ (s.kernels.find? (fun x => x.id == k.id) = some k) ∧ (k.cw =
      1) ∧ (k.ch = 1) ∧ (k.place.getD index 0 = tile) ∧ (s.canStart tile k index = true) ∧ ((s.tile tile).ctx = some
      c) ∧ (c ≠ k.ctx)) ∧
    (∃ (s : State) (tile : Nat) (index : Nat) (r : Nat) (k : Kernel) (rest : List (Nat × Nat)), ((s.tile tile).waiting
      = (k.id, index) :: rest) ∧ (s.kernels.find? (fun x => x.id == k.id) = some k) ∧ (r < max 1 (k.cw * k.ch)) ∧
      (s.canStart (k.place.getD (index / max 1 (k.cw * k.ch) * max 1 (k.cw * k.ch) + r) 0) k (index / max 1 (k.cw *
      k.ch) * max 1 (k.cw * k.ch) + r) = false)) ∧
    (∃ (x : Tile) (n : Nat) (a : Nat), (x.freeWindow n = some a)) ∧
    (∃ (s : State) (v : State) (tile : Nat) (slot : Nat) (g : Group) (r : List Nat), (s.mod.state = .run) ∧
      (s.returning tile = some g) ∧ ((s.tile tile).freeSlots = slot :: r) ∧ (v = s.waitWet (tabGet (s.tile
      tile).freeAt 0 slot))) ∧
    (∃ (s : State), (s.mod.state ≠ .run)) :=
  ⟨⟨waitingTile (some 5), 0, 0, 0, kernel3, [], by decide +kernel⟩,
   ⟨waitingTile (some 4), 0, 0, 4, kernel3, [], by decide +kernel⟩,
   ⟨(waitingTile (some 5)).modTile 0 (fun y => { y with blocks := [⟨1, 0, 0, 0, 0, 1572864, 1, []⟩] }), 0, 0, 0,
     kernel3, [], by decide +kernel⟩,
   ⟨Tile.reset, 1572864, 0, by decide +kernel⟩,
   ⟨(threaded).modTile 0 (fun y => { y with groups := [], saved := [group0] }), ((threaded).modTile 0 (fun y =>
     { y with groups := [], saved := [group0] })).waitWet (tabGet (((threaded).modTile 0 (fun y =>
     { y with groups := [], saved := [group0] })).tile 0).freeAt 0 0), 0, 0, group0, [1, 2, 3, 4, 5, 6, 7, 8, 9, 10,
     11, 12, 13, 14, 15], ⟨by decide +kernel, by decide +kernel, by decide +kernel, rfl⟩⟩,
   ⟨State.reset, by decide +kernel⟩⟩

theorem witness_OrderingInstructionsWait :
    (∃ (s : State) (u : State) (tile : Nat) (slot : Nat) (g : Group) (p : Path) (w : Word64), (p.mask ≠ 0) ∧
      (s.mayIssue tile slot [keyP (wPred w)] g p u) ∧ (orderLegal 0x40 w 0 = true)) ∧
    (∃ (s : State) (u : State) (tile : Nat) (slot : Nat) (g : Group) (p : Path) (w : Word64), (s.mayIssue tile slot
      (scalarKeys w) g p u) ∧ (orderLegal 0x41 w 1 = true) ∧ (wImm w = 1 ∨ scalarPair w = true) ∧ (p.mask ≠ 0)) ∧
    (∃ (s : State) (u : State) (tile : Nat) (slot : Nat) (g : Group) (p : Path) (w : Word64), (wPred w ≠ 7 ∨ wPneg w =
      true ∨ 1 < wImm w) ∧ (s.mayIssue tile slot ([keyP (wPred w)]) g p u)) ∧
    (∃ (s : State) (walk : Nat) (n : Nat) (tile : Nat) (uid : Nat) (w : Walk), (s.walks.find? (fun x => x.id == walk
      && !x.ended) = some w) ∧ (w.kind = .acquire) ∧ (w.untilTick = some n) ∧ (w.who = .group tile uid)) ∧
    (∃ (s : State) (walk : Nat) (n : Nat) (tile : Nat) (uid : Nat) (w : Walk) (l : Line), (s.walks.find? (fun x =>
      x.id == walk && !x.ended) = some w) ∧ (w.kind = .flush) ∧ (w.untilTick = some n) ∧ (w.who = .group tile uid) ∧
      (s.cistern = [(cisKey l.dev l.tag, [l])]) ∧ (inRanges w.ranges l = true) ∧ (l.dirty ≠ 0) ∧ (s.revokedDevs.elem
      l.dev = false)) ∧
    (∃ (s : State) (walk : Nat) (n : Nat) (tile : Nat) (uid : Nat) (w : Walk), (s.walks = [w]) ∧ (w.id = walk) ∧
      (w.ended = false) ∧ (w.kind = .flush) ∧ (w.untilTick = some n) ∧ (w.who = .group tile uid) ∧ ((∀ l ∈ s.cisLines,
      l.dirty = 0)) ∧ (s.fab.out = [])) ∧
    (∃ (s : State) (walk : Nat), (s.walks.find? (fun x => x.id == walk && !x.ended) = none)) :=
  ⟨⟨threaded, (threaded).issueFrom 0 0 ((group0).readyAll ([])), 0, 0, group0, path0, wordOf 11 64 0 0 0 0 0,
     ⟨by decide +kernel, by unfold State.mayIssue; decide +kernel, by decide +kernel⟩⟩,
   ⟨threaded, (threaded).issueFrom 0 0 ((group0).readyAll ([])), 0, 0, group0, path0, wordOf 11 65 0 0 0 0 1,
     by unfold State.mayIssue; decide +kernel⟩,
   ⟨threaded, (threaded).issueFrom 0 0 ((group0).readyAll ([])), 0, 0, group0, path0, 0, ⟨by decide +kernel,
     by unfold State.mayIssue; decide +kernel⟩⟩,
   ⟨({ threaded with walks := [⟨1, .acquire, none, .group 0 7, some 0, [], false⟩] } : State), 1, 0, 0, 7, ⟨1,
     .acquire, none, .group 0 7, some 0, [], false⟩, by decide +kernel⟩,
   ⟨({ threaded with walks := [⟨1, .flush, none, .group 0 7, some 0, [], false⟩], cistern := [(cisKey 1 3, [⟨3, 1, List.replicate 128 0, 0xF, 1, false, 0⟩])] }
     : State), 1, 0, 0, 7, ⟨1, .flush, none, .group 0 7, some 0, [], false⟩, ⟨3, 1, List.replicate 128 0, 0xF, 1,
     false, 0⟩, by decide +kernel⟩,
   ⟨({ threaded with walks := [⟨1, .flush, none, .group 0 7, some 0, [], false⟩] } : State), 1, 0, 0, 7, ⟨1, .flush,
     none, .group 0 7, some 0, [], false⟩, by decide +kernel⟩,
   ⟨State.reset, 1, by decide +kernel⟩⟩

theorem witness_SignalsAndArrivalsApplyAtTheHome :
    (∃ (s : State) (u : State) (tile : Nat) (slot : Nat) (i : Nat) (g : Group) (p : Path) (w : Word64), (s.mayIssue
      tile slot (scalarKeys w) g p u) ∧ (p.mask ≠ 0) ∧ ((∀ x ∈ s.sync.ops, x.id ≠ s.nextId)) ∧ (u.resolveSync g.ctx
      (bvFld (g.sreg (wA w)) 0 32) false = .own i)) ∧
    (∃ (s : State) (u : State) (tile : Nat) (slot : Nat) (r : Nat) (g : Group) (p : Path) (w : Word64), (s.mayIssue
      tile slot (scalarKeys w) g p u) ∧ (p.mask ≠ 0) ∧ (syncLegal 0x01 w 0 = true) ∧ (u.resolveSync g.ctx (bvFld
      (g.sreg (wA w)) 0 32) false = .denied r) ∧ ((s.ctx g.ctx).syncDenyFault = false)) ∧
    (∃ (s : State) (u : State) (tile : Nat) (slot : Nat) (g : Group) (p : Path) (w : Word64), (s.mayIssue tile slot
      (scalarKeys w) g p u) ∧ (wPred w ≠ 7 ∨ wImm w = 65536)) ∧
    (∃ (s : State) (u : State) (tile : Nat) (slot : Nat) (g : Group) (p : Path) (w : Word64), (s.mayIssue tile slot
      (scalarKeys w) g p u) ∧ (wImm w = 0)) ∧
    (∃ (s : State) (id : Nat) (tile : Nat) (uid : Nat) (o : SyncOp), (s.sync.ops.find? (fun x => x.id == id) = some o)
      ∧ (o.sent = true) ∧ (o.applied = false) ∧ (o.remote = none) ∧ (o.handle = none) ∧ (o.who = .group tile uid) ∧
      ((s.syncObj o.index).kind = 1) ∧ ((s.syncObj o.index).owner = o.ctx) ∧ ((s.syncObj o.index).value.toNat < 2 ^
      63)) ∧
    (∃ (s : State) (id : Nat) (tile : Nat) (uid : Nat) (o : SyncOp) (x : SyncObj), (s.sync.ops.find? (fun x => x.id ==
      id) = some o) ∧ (o.sent = true) ∧ (o.applied = false) ∧ (o.remote = none) ∧ (o.handle = none) ∧ (o.who = .group
      tile uid) ∧ (o.kind = .arrive) ∧ (x = s.syncObj o.index) ∧ (x.kind = 2) ∧ (x.owner = o.ctx) ∧ (x.poisoned =
      false)) ∧
    (∃ (s : State) (id : Nat), (s.sync.ops.find? (fun x => x.id == id) = none)) :=
  ⟨⟨({ synced 1 (inContext { ctx5 with syncMapSize := 16 }) with dram := ⟨[(0, 9)], []⟩ } : State),
     (({ synced 1 (inContext { ctx5 with syncMapSize := 16 }) with dram := ⟨[(0, 9)], []⟩ } : State)).issueFrom 0 0
     ((group0).readyAll ([])), 0, 0, 0, group0, path0, wordOf 11 1 0 64 64 0 0,
     by unfold State.mayIssue; decide +kernel⟩,
   ⟨threaded, (threaded).issueFrom 0 0 ((group0).readyAll ([])), 0, 0, 7, group0, path0, wordOf 11 1 0 64 64 0 0,
     by unfold State.mayIssue; decide +kernel⟩,
   ⟨threaded, (threaded).issueFrom 0 0 ((group0).readyAll ([])), 0, 0, group0, path0, 0,
     by unfold State.mayIssue; decide +kernel⟩,
   ⟨threaded, (threaded).issueFrom 0 0 ((group0).readyAll ([])), 0, 0, group0, path0, w7,
     by unfold State.mayIssue; decide +kernel⟩,
   ⟨(synced 1 threaded).modSync (fun y => { y with ops := [signal1 .set] }), 1, 0, 7, signal1 .set, by decide +kernel⟩,
   ⟨(synced 2 threaded).modSync (fun y => { y with ops := [signal1 .arrive] }), 1, 0, 7, signal1 .arrive,
     { SyncObj.free with kind := 2, owner := 5 }, ⟨by decide +kernel, by decide +kernel, by decide +kernel,
     by decide +kernel, by decide +kernel, by decide +kernel, by decide +kernel, rfl, by decide +kernel,
     by decide +kernel, by decide +kernel⟩⟩,
   ⟨State.reset, 1, by decide +kernel⟩⟩

theorem witness_WaitsRegisterWakeAndExpire :
    (∃ (s : State) (u : State) (tile : Nat) (slot : Nat) (g : Group) (p : Path) (w : Word64), (p.mask ≠ 0) ∧
      (scalarField (wDst w) = true) ∧ (s.mayIssue tile slot (scalarKeys w) g p u)) ∧
    (∃ (s : State) (id : Nat) (tile : Nat) (uid : Nat) (slot : Nat) (dst : Nat) (lost : Bool) (w : Wait) (g : Group),
      (s.sync.waits.find? (fun x => x.id == id && decide (x.state = .moving)) = some w) ∧ (w.handle = none) ∧ ((∀ x ∈
      s.sync.waits, x.id = id → x = w)) ∧ (w.who = .group tile uid) ∧ (s.slotOf tile uid = some slot) ∧ (s.group tile
      slot = some g) ∧ (g.uid = uid) ∧ (g.hold = .wait id dst lost) ∧ ((s.syncObj w.index).value.toNat < 2 ^ 63) ∧
      ((s.syncObj w.index).kind ≠ 0) ∧ ((s.syncObj w.index).owner = w.ctx)) ∧
    (∃ (s : State) (id : Nat) (tile : Nat) (uid : Nat) (slot : Nat) (dst : Nat) (st : Nat) (lost : Bool) (w : Wait) (g
      : Group), (s.sync.waits.find? (fun x => x.id == id) = some w) ∧ (w.state = .wake st) ∧ (w.who = .group tile uid)
      ∧ (s.slotOf tile uid = some slot) ∧ (s.group tile slot = some g) ∧ (g.uid = uid) ∧ (g.hold = .wait w.id dst
      lost)) ∧
    (∃ (s : State) (id : Nat) (w : Wait), (s.sync.waits.find? (fun x => x.id == id && decide (x.state = .polling)) =
      some w) ∧ ((s.syncObj w.index).value.toNat < 2 ^ 63)) ∧
    (∃ (s : State) (c : Nat) (x : Ctx) (w : Wait), (s.mod.standby = true) ∧ (s.ctxs = [(c, x)]) ∧ (x.st = .resident) ∧
      (x.fault = none) ∧ (w ∈ s.sync.waits) ∧ (w.ctx = c) ∧ (w.state = .pooled) ∧ (x.waitWdog * 1000 < s.hal.ms + 1 -
      w.since)) ∧
    (∃ (s : State), (s.mod.standby = true) ∧ ((∀ c ∈ s.liveCtxs, oldestPast (s.hal.ms + 1) (s.ctx c).waitWdog
      (s.watchedWaits c) = none))) ∧
    (∃ (s : State), (s.mod.standby = false)) :=
  ⟨⟨threaded, (threaded).issueFrom 0 0 ((group0).readyAll ([])), 0, 0, group0, path0, wordOf 11 3 64 64 64 0 1,
     ⟨by decide +kernel, by decide +kernel, by unfold State.mayIssue; decide +kernel⟩⟩,
   ⟨(synced 1 (threadedBy { group0 with hold := .wait 1 2 false })).modSync (fun y =>
     { y with waits := [wait1 (.moving)] }), 1, 0, 7, 0, 2, false, wait1 .moving,
     { group0 with hold := .wait 1 2 false }, by decide +kernel⟩,
   ⟨(synced 1 (threadedBy { group0 with hold := .wait 1 2 false })).modSync (fun y =>
     { y with waits := [wait1 (.wake 0)] }), 1, 0, 7, 0, 2, 0, false, wait1 (.wake 0),
     { group0 with hold := .wait 1 2 false }, by decide +kernel⟩,
   ⟨(synced 1 (threadedBy { group0 with hold := .wait 1 2 false })).modSync (fun y =>
     { y with waits := [wait1 (.polling)] }), 1, wait1 .polling, by decide +kernel⟩,
   ⟨((synced 1 (threadedBy { group0 with hold := .wait 1 2 false })).modSync (fun y =>
     { y with waits := [wait1 (.pooled)] })).modHal (fun y => { y with ms := 20000 }), 5, ctx5, wait1 .pooled,
     by decide +kernel⟩,
   ⟨State.reset, by decide +kernel⟩,
   ⟨(State.reset).modMod (fun y => { y with standby := false }), by decide +kernel⟩⟩

theorem witness_MatrixInstructionsQueueForTheArray :
    (∃ (s : State) (u : State) (tile : Nat) (slot : Nat) (op : Nat) (w : Word64) (g : Group) (p : Path) (b : Block) (i
      : Instr) (a : MArray), ((i, op) ∈ matrixInstrs tile slot w) ∧ (s.mayQueue tile slot op w g p b u) ∧ (a = (s.tile
      tile).array) ∧ (matrixFault a.view ((a.holder == some g.uid) && a.loaded) a.diag b.size (s.matrixCmd g b slot op
      w) = none) ∧ (op ≠ mEnd ∨ a.cmds ≠ [])) ∧
    (∃ (s : State) (u : State) (tile : Nat) (slot : Nat) (w : Word64) (g : Group) (p : Path) (b : Block) (a : MArray),
      (s.mayQueue tile slot mEnd w g p b u) ∧ (a = (s.tile tile).array) ∧ (wImm w = 0) ∧ (a.cmds = [])) ∧
    (∃ (s : State) (u : State) (tile : Nat) (slot : Nat) (op : Nat) (w : Word64) (g : Group) (p : Path) (b : Block) (i
      : Instr) (a : MArray) (e : Code × Nat), ((i, op) ∈ matrixInstrs tile slot w) ∧ (s.mayQueue tile slot op w g p b
      u) ∧ (a = (s.tile tile).array) ∧ (matrixFault a.view ((a.holder == some g.uid) && a.loaded) a.diag b.size
      (s.matrixCmd g b slot op w) = some e)) ∧
    (∃ (s : State) (tile : Nat) (slot : Nat) (op : Nat) (w : Word64) (g : Group) (p : Path) (b : Block) (i : Instr),
      ((i, op) ∈ matrixInstrs tile slot w) ∧ (s.mod.state = .run) ∧ (s.group tile slot = some g) ∧ (g.stopped = false)
      ∧ (g.hold = .none) ∧ (g.paths = [p]) ∧ (p.park = .no) ∧ (p.mask ≠ 0) ∧ (g.turn = p.low) ∧ (g.issued < 16) ∧
      ((s.tile tile).iHit (p.pc.toNat / 128) = true) ∧ (s.blockOf tile g = some b) ∧ (g.readyAll (matrixKeys op w) <
      never) ∧ (wClass w ≠ 8 ∨ wOp w ≠ op ∨ wPred w ≠ 7 ∨ wHint w ≠ 0)) ∧
    (∃ (s : State) (tile : Nat) (slot : Nat) (op : Nat) (w : Word64) (g : Group) (p : Path) (q : Path) (i : Instr),
      ((i, op) ∈ matrixInstrs tile slot w) ∧ (s.mod.state = .run) ∧ (s.group tile slot = some g) ∧ (g.stopped = false)
      ∧ (g.hold = .none) ∧ (g.paths = [p, q]) ∧ (p.park = .no) ∧ (p.mask ≠ 0) ∧ (g.turn = p.low) ∧ (g.issued < 16) ∧
      (q ≠ p) ∧ ((s.tile tile).iHit (p.pc.toNat / 128) = true)) ∧
    (∃ (s : State) (tile : Nat) (slot : Nat) (op : Nat) (w : Word64) (i : Instr), ((i, op) ∈ matrixInstrs tile slot w)
      ∧ (s.mod.state ≠ .run)) :=
  ⟨⟨threaded, (threaded).issueFrom 0 0 ((group0).readyAll []), 0, 0, mBread, wordOf 8 6 0 64 64 64 0, group0, path0,
     block0, .mbread 0 0 (wordOf 8 6 0 64 64 64 0), (threaded.tile 0).array, ⟨by simp [matrixInstrs],
     by unfold State.mayQueue; decide +kernel, rfl, by decide +kernel, Or.inl (by decide)⟩⟩,
   ⟨threaded, (threaded).issueFrom 0 0 ((group0).readyAll []), 0, 0, wordOf 8 15 0 64 64 64 0, group0, path0, block0,
     (threaded.tile 0).array, ⟨by unfold State.mayQueue; decide +kernel, rfl, by decide, by decide +kernel⟩⟩,
   ⟨threaded, (threaded).issueFrom 0 0 ((group0).readyAll []), 0, 0, mZero, wordOf 8 4 0 64 65 64 1, group0, path0,
     block0, .mzero 0 0 (wordOf 8 4 0 64 65 64 1), (threaded.tile 0).array, (.illegalInstruction, 0),
     ⟨by simp [matrixInstrs], by unfold State.mayQueue; decide +kernel, rfl, by decide +kernel⟩⟩,
   ⟨threaded, 0, 0, mLoad, w7, group0, path0, block0, .mload 0 0 w7, ⟨by simp [matrixInstrs], by decide +kernel⟩⟩,
   ⟨threadedBy forked, 0, 0, mLoad, w7, forked, pathLow, pathHigh, .mload 0 0 w7, ⟨by simp [matrixInstrs],
     by decide +kernel⟩⟩,
   ⟨State.reset, 0, 0, mLoad, w7, .mload 0 0 w7, ⟨by simp [matrixInstrs], by decide⟩⟩⟩

theorem witness_MatrixCommandsActWhenTheyBegin :
    (∃ (s : State) (tile : Nat) (c : MCmd) (rest : List MCmd), (s.mod.state = .run) ∧ (s.claimed tile false = false) ∧
      ((s.tile tile).array.cmds = c :: rest)) ∧
    (∃ (s : State) (tile : Nat) (n : Nat) (c : MCmd) (rest : List MCmd) (a : MArray), (s.mod.state = .run) ∧
      (s.claimed tile false = false) ∧ (a = (s.tile tile).array) ∧ (a.cmds = c :: rest) ∧ (a.idle = true) ∧ (n =
      (s.waitWet (a.beginAt c)).wet.toNat)) ∧
    (∃ (s : State) (tile : Nat), ((s.tile tile).array.cmds = [] ∨ s.mod.state ≠ .run)) :=
  ⟨⟨(threaded).modTile 0 (fun y => { y with array := { MArray.reset with cmds := [command1] } }), 0, command1, [],
     by decide +kernel⟩,
   ⟨(threaded).modTile 0 (fun y => { y with array := { MArray.reset with cmds := [command1] } }), 0,
     (((threaded).modTile 0 (fun y => { y with array := { MArray.reset with cmds := [command1] } })).waitWet
     (MArray.beginAt ({ MArray.reset with cmds := [command1] }) command1)).wet.toNat, command1, [],
     { MArray.reset with cmds := [command1] }, ⟨by decide +kernel, by decide +kernel, rfl, by decide +kernel,
     by decide +kernel, rfl⟩⟩,
   ⟨State.reset, 0, by decide +kernel⟩⟩

theorem witness_TheArrayWorksTickByTick :
    (∃ (f : Front) (i : Nat) (j : Nat), (f.read = 0) ∧ (f.codes = []) ∧ (i < (gridOf f.fmt).1) ∧ (j < (gridOf
      f.fmt).2)) ∧
    (∃ (b : Front) (p : Pass) (r : RowIn), (b.mode = 0) ∧ (b.fmt = 0) ∧ (p.fmt = 0) ∧ (p.kst = 64) ∧ (r.live = true)) ∧
    (∃ (a : MArray) (b : Front) (p : Pass) (r : RowIn), (a.passes = [p]) ∧ (p.flight = [r]) ∧ (a.blockOf p.num = b) ∧
      (b.mode ≠ 7)) ∧
    (∃ (s : Sweep) (base : Nat), (s.cmd.op = mDrain) ∧ (s.mode = 0) ∧ (s.fmt = 0) ∧ (mlFmt s.cmd.word = 10) ∧ (bit
      (wImm s.cmd.word) 4 = false) ∧ (bit (wImm s.cmd.word) 5 = false) ∧ (bit (wImm s.cmd.word) 6 = false) ∧ (expField
      s.cmd.b = 0) ∧ (base = s.cmd.base + s.cmd.a.toNat + s.next * 256)) ∧
    (∃ (s : Sweep), (s.cmd.op = mDiag) ∧ (s.cmd.live = BitVec.allOnes 32)) ∧
    (∃ (s : Sweep) (t : Nat) (a : MArray), (s.due ≤ t) ∧ (s.blocked a t = true)) :=
  ⟨⟨⟨0, 1, 0, false, 0, 0, 0, [], []⟩, 63, 63, by decide +kernel⟩,
   ⟨⟨0, 1, 0, false, 0, 0, 0, [], []⟩, ⟨0, 64, 0, 64, 64, 64, 0, 0, 0, false, true, false, 0, 0xFFFFFFFF, 0, []⟩, ⟨0,
     true, [], [], 0⟩, by decide +kernel⟩,
   ⟨{ MArray.reset with passes := [⟨0, 64, 0, 64, 64, 64, 0, 0, 0, false, true, false, 0, 0xFFFFFFFF, 0, [⟨0, true, [], [], 0⟩]⟩], blocks := [⟨0, 1, 0, false, 0, 0, 0, [], []⟩] },
     ⟨0, 1, 0, false, 0, 0, 0, [], []⟩, ⟨0, 64, 0, 64, 64, 64, 0, 0, 0, false, true, false, 0, 0xFFFFFFFF, 0, [⟨0,
     true, [], [], 0⟩]⟩, ⟨0, true, [], [], 0⟩, by decide +kernel⟩,
   ⟨⟨{ command1 with op := 3, word := BitVec.ofNat 64 (8 * 2 ^ 60 + 3 * 2 ^ 52 + 7 * 2 ^ 21 + 10), live := 0xFFFFFFFF },
     0, 0, 0, 0, none⟩, 0, ⟨by decide +kernel, by decide +kernel, by decide +kernel, by decide +kernel,
     by decide +kernel, by decide +kernel, by decide +kernel, by decide +kernel, rfl⟩⟩,
   ⟨⟨{ command1 with op := 5, word := BitVec.ofNat 64 (8 * 2 ^ 60 + 3 * 2 ^ 52 + 7 * 2 ^ 21 + 10), live := 0xFFFFFFFF },
     0, 0, 0, 0, none⟩, by decide +kernel⟩,
   ⟨⟨command1, 0, 0, 0, 1, none⟩, 1,
     { MArray.reset with passes := [⟨0, 64, 0, 64, 64, 64, 0, 0, 0, false, true, false, 0, 0xFFFFFFFF, 0, []⟩] },
     by decide +kernel⟩⟩

theorem witness_RowEngineWorksOnRows :
    (∃ (s : State) (u : State) (v : State) (tile : Nat) (slot : Nat) (len : Nat) (src : Nat) (dst : Nat) (g : Group)
      (p : Path) (w : Word64) (b : Block) (op : RowOp) (xs : List Word32), (s.mayIssue tile slot (scalarKeys w) g p u)
      ∧ (plainWord 9 0 w = true) ∧ (scalarPair w = true) ∧ (p.mask ≠ 0) ∧ (u.blockOf tile g = some b) ∧ (rowFault op
      len src dst b.size = none) ∧ (src < 2 ^ 24) ∧ (dst < 2 ^ 24) ∧ (s.claimed tile false = false) ∧ ((s.tile
      tile).array.idle = true) ∧ (v = u.waitWet (u.rowStart tile op len src dst b.base)) ∧ (xs = (List.range len).map
      (fun i => BitVec.ofNat 32 (leNat (s.scratchBytes tile (b.base + src + 4 * i) 4))))) ∧
    (∃ (s : State) (u : State) (tile : Nat) (slot : Nat) (len : Nat) (src : Nat) (dst : Nat) (g : Group) (p : Path) (w
      : Word64) (b : Block) (op : RowOp) (e : Code × Nat), (s.mayIssue tile slot (scalarKeys w) g p u) ∧ (u.blockOf
      tile g = some b) ∧ (rowFault op len src dst b.size = some e)) ∧
    (∃ (s : State) (u : State) (tile : Nat) (slot : Nat) (src : Nat) (dst : Nat) (g : Group) (p : Path) (w : Word64)
      (b : Block), (s.mayIssue tile slot (scalarKeys w) g p u) ∧ (u.blockOf tile g = some b) ∧ (s.claimed tile false =
      false) ∧ (src < 2 ^ 24) ∧ (dst < 2 ^ 24) ∧ (wClass w ≠ 9 ∨ wHint w ≠ 0 ∨ wImm w ≠ 0 ∨ wA w < 64 ∨ wB w < 64)) ∧
    (∃ (len : Nat), (len = 0 ∨ 65536 < len)) ∧
    (∃ (len : Nat) (src : Nat) (win : Nat), (0 < len) ∧ (len ≤ 65536) ∧ (src < 2 ^ 24) ∧ (win < src + 4 * len)) ∧
    (∃ (x : _), ((f32Val x).isNan = true)) :=
  ⟨⟨threaded, (threaded).issueFrom 0 0 ((group0).readyAll []), ((threaded).issueFrom 0 0 ((group0).readyAll
     [])).waitWet (((threaded).issueFrom 0 0 ((group0).readyAll [])).rowStart 0 (.reduce .sum) 1 0 64 block0.base), 0,
     0, 1, 0, 64, group0, path0, wordOf 9 0 0 64 64 0 0, block0, .reduce .sum, (List.range 1).map (fun i =>
     BitVec.ofNat 32 (leNat ((threaded).scratchBytes 0 (block0.base + 0 + 4 * i) 4))),
     ⟨by unfold State.mayIssue; decide +kernel, by decide +kernel, by decide +kernel, by decide +kernel,
     by decide +kernel, by decide +kernel, by decide +kernel, by decide +kernel, by decide +kernel, by decide +kernel,
     rfl, rfl⟩⟩,
   ⟨threaded, (threaded).issueFrom 0 0 ((group0).readyAll []), 0, 0, 0, 0, 64, group0, path0, wordOf 9 0 0 64 64 0 0,
     block0, .reduce .sum, (.illegalInstruction, 0), by unfold State.mayIssue; decide +kernel⟩,
   ⟨threaded, (threaded).issueFrom 0 0 ((group0).readyAll []), 0, 0, 0, 64, group0, path0, w7, block0,
     by unfold State.mayIssue; decide +kernel⟩,
   ⟨65537, by decide +kernel⟩,
   ⟨1, 0, 3, by decide +kernel⟩,
   ⟨0x7FC00000, by decide +kernel⟩⟩

theorem witness_TileDmaTransfersMoveTheirRows :
    (∃ (s : State) (u : State) (tile : Nat) (slot : Nat) (entry : Nat) (g : Group) (p : Path) (d : DmaSpec) (b :
      Block), (s.mayIssue tile slot [keyP (wPred d.word)] g p u) ∧ (wClass d.word = 0xA) ∧ (p.mask ≠ 0) ∧ (u.blockOf
      tile g = some b) ∧ ((s.tile tile).dmaFree = some entry) ∧ (s.claimed tile true = false)) ∧
    (∃ (s : State) (u : State) (tile : Nat) (slot : Nat) (g : Group) (p : Path) (d : DmaSpec), (s.mayIssue tile slot
      [keyP (wPred d.word)] g p u) ∧ ((s.tile tile).dmaFree = none)) ∧
    (∃ (s : State) (u : State) (tile : Nat) (slot : Nat) (g : Group) (p : Path) (d : DmaSpec) (b : Block), (s.mayIssue
      tile slot [keyP (wPred d.word)] g p u) ∧ (wClass d.word ≠ 0xA) ∧ (u.blockOf tile g = some b) ∧ ((s.tile
      tile).dmaFree.isSome = true) ∧ (s.claimed tile true = false)) ∧
    (∃ (s : State) (u : State) (tile : Nat) (slot : Nat) (entry : Nat) (g : Group) (p : Path) (w : Word64),
      (s.mayIssue tile slot [keyP (wPred w)] g p u) ∧ (wClass w = 0xA) ∧ (p.mask ≠ 0) ∧ (entry < 16)) ∧
    (∃ (s : State) (u : State) (tile : Nat) (slot : Nat) (entry : Nat) (g : Group) (p : Path) (w : Word64),
      (s.mayIssue tile slot [keyP (wPred w)] g p u) ∧ (16 ≤ entry ∨ wClass w ≠ 0xA)) ∧
    (∃ (s : State) (tile : Nat) (entry : Nat) (va : Nat) (k : Nat) (x : Dma) (a : Access), (tabGet (s.tile tile).dma
      none entry = some x) ∧ (s.mod.state = .run) ∧ (s.timed.region = none) ∧ ((s.tile tile).array.idle = true) ∧
      (s.flights.filter (fun a => decide (a.who = .dma tile entry)) = [a]) ∧ (x.flume = none) ∧ (x.spec.signal = none)
      ∧ (x.spec.other = .memory va) ∧ (x.spec.inbound = true) ∧ (x.spec.compress ≠ 2) ∧ (x.spec.counter = some k) ∧
      (x.fault = none) ∧ (dmaParts x.spec va = [(va, x.spec.rowLen, x.spec.scratch)])) ∧
    (∃ (s : State) (tile : Nat) (entry : Nat), (tabGet (s.tile tile).dma none entry = none ∨ s.mod.state ≠ .run ∨ (∃ a
      ∈ s.flights, a.who = .dma tile entry ∧ (a.stage = .moving ∨ a.stage = .waiting ∨ a.stage = .forwarded)))) :=
  ⟨⟨threaded, (threaded).issueFrom 0 0 ((group0).readyAll []), 0, 0, 0, group0, path0,
     { dma0 with word := wordOf 10 0 0 0 0 0 0 }, block0, by unfold State.mayIssue; decide +kernel⟩,
   ⟨(threaded).modTile 0 (fun y => { y with dma := (List.range 16).map (fun i => (i, some transfer0)) }),
     ((threaded).modTile 0 (fun y => { y with dma := (List.range 16).map (fun i => (i, some transfer0)) })).issueFrom
     0 0 ((group0).readyAll ([])), 0, 0, group0, path0, { dma0 with word := wordOf 10 0 0 0 0 0 0 },
     by unfold State.mayIssue; decide +kernel⟩,
   ⟨threaded, (threaded).issueFrom 0 0 ((group0).readyAll []), 0, 0, group0, path0, dma0, block0,
     by unfold State.mayIssue; decide +kernel⟩,
   ⟨threaded, (threaded).issueFrom 0 0 ((group0).readyAll []), 0, 0, 15, group0, path0, wordOf 10 0 0 0 0 0 0,
     by unfold State.mayIssue; decide +kernel⟩,
   ⟨threaded, (threaded).issueFrom 0 0 ((group0).readyAll []), 0, 0, 16, group0, path0, wordOf 10 0 0 0 0 0 0,
     by unfold State.mayIssue; decide +kernel⟩,
   ⟨(({ threaded with flights := [{ access2 .load (.dram 0) (.served (List.replicate 64 1) []) with who := .dma 0 0, len := 64 }] }
     : State)).modTile 0 (fun y => { y with dma := [(0, some transfer0)] }), 0, 0, 0, 0, transfer0,
     { access2 .load (.dram 0) (.served (List.replicate 64 1) []) with who := .dma 0 0, len := 64 },
     by decide +kernel⟩,
   ⟨State.reset, 0, 0, Or.inl (by decide +kernel)⟩⟩

theorem witness_LocalAccessesAreServedAtTheHome :
    (∃ (s : State) (v : State) (id : Nat) (dpa : Nat) (a : Access) (d : List (Option Byte)), (s.access id = some a) ∧
      (a.stage = .moving) ∧ (s.arrive id = some v) ∧ (s.lineHeld (s.channelOf (dpa / 128)) (dpa / 128) id = false) ∧
      (a.place = .dram dpa) ∧ (a.op = .store d) ∧ (s.repair.failed.elem (s.channelOf (dpa / 128)) = false) ∧ (dpa %
      128 + d.length ≤ 128) ∧ ((s.slice (s.channelOf (dpa / 128))).dead.elem (dpa / 128) = false) ∧ ((∀ l, s.cached
      (dpa / 128) = some l → l.data.length = 128))) ∧
    (∃ (s : State) (v : State) (id : Nat) (dpa : Nat) (a : Access), (s.access id = some a) ∧ (a.stage = .moving) ∧
      (a.place = .dram dpa) ∧ (s.arrive id = some v) ∧ (s.lineHeld (s.channelOf (dpa / 128)) (dpa / 128) id = false) ∧
      (a.op = .load) ∧ (s.repair.failed.elem (s.channelOf (dpa / 128)) = false)) ∧
    (∃ (s : State) (v : State) (id : Nat) (dpa : Nat) (a : Access), (s.access id = some a) ∧ (a.stage = .moving) ∧
      (a.place = .dram dpa) ∧ (s.arrive id = some v) ∧ (s.repair.failed.elem (s.channelOf (dpa / 128)) = false) ∧
      (s.lineHeld (s.channelOf (dpa / 128)) (dpa / 128) id = true)) ∧
    (∃ (s : State) (v : State) (id : Nat) (dpa : Nat) (a : Access), (s.access id = some a) ∧ (a.stage = .moving) ∧
      (a.place = .dram dpa) ∧ (s.arrive id = some v) ∧ (s.repair.failed.elem (s.channelOf (dpa / 128)) = true)) ∧
    (∃ (s : State) (v : State) (id : Nat) (iova : Nat) (a : Access), (s.access id = some a) ∧ (a.stage = .moving) ∧
      (a.place = .host iova) ∧ (s.arrive id = some v)) ∧
    (∃ (s : State) (id : Nat), (s.access id = none ∨ (∃ a, s.access id = some a ∧ a.stage ≠ .moving) ∨ s.arrive id =
      none)) ∧
    (∃ (s : State) (id : Nat) (dpa : Nat) (a : Access) (op : AtomOp) (ty : AtomTy) (lanes : List (Nat × Word64 ×
      Word64)), (s.access id = some a) ∧ (a.stage = .forwarded) ∧ (a.place = .dram dpa) ∧ (a.op = .atomic op ty lanes)
      ∧ ((s.slice (s.channelOf (dpa / 128))).inq = []) ∧ (s.fab.early = []) ∧ (dpa % atomBytes ty = 0) ∧ ((s.slice
      (s.channelOf (dpa / 128))).dead.elem (dpa / 128) = false) ∧ ((∀ l, s.cached (dpa / 128) = some l → l.data.length
      = 128)) ∧ (((s.cached (dpa / 128)).isSome = true ∨ ((s.slice (s.channelOf (dpa / 128))).set (s.setOf (dpa /
      128))).length < 16))) :=
  ⟨⟨({ threaded with flights := [access2 (.store [some 1]) (.dram 0) (.moving)] } : State),
     ({ threaded with flights := [access2 (.store [some 1]) (.dram 0) (.moving)] } : State), 2, 0, access2 (.store
     [some 1]) (.dram 0) (.moving), [some 1], ⟨by decide +kernel, by decide +kernel, rfl, by decide +kernel,
     by decide +kernel, by decide +kernel, by decide +kernel, by decide +kernel, by decide +kernel, none_only
     (by decide +kernel)⟩⟩,
   ⟨({ threaded with flights := [access2 (.load) (.dram 0) (.moving)] } : State),
     ({ threaded with flights := [access2 (.load) (.dram 0) (.moving)] } : State), 2, 0, access2 (.load) (.dram 0)
     (.moving), ⟨by decide +kernel, by decide +kernel, by decide +kernel, rfl, by decide +kernel, by decide +kernel,
     by decide +kernel⟩⟩,
   ⟨({ threaded with flights := [access2 (.load) (.dram 0) (.moving), { access2 (.atomic .add .int32 []) (.dram 0) (.forwarded) with id := 3 }] }
     : State),
     ({ threaded with flights := [access2 (.load) (.dram 0) (.moving), { access2 (.atomic .add .int32 []) (.dram 0) (.forwarded) with id := 3 }] }
     : State), 2, 0, access2 (.load) (.dram 0) (.moving), ⟨by decide +kernel, by decide +kernel, by decide +kernel,
     rfl, by decide +kernel, by decide +kernel⟩⟩,
   ⟨({ ({ threaded with flights := [access2 (.load) (.dram 0) (.moving)] } : State) with repair := { Repair.none with failed := [chan0] } }
     : State),
     ({ ({ threaded with flights := [access2 (.load) (.dram 0) (.moving)] } : State) with repair := { Repair.none with failed := [chan0] } }
     : State), 2, 0, access2 (.load) (.dram 0) (.moving), ⟨by decide +kernel, by decide +kernel, by decide +kernel,
     rfl, by decide +kernel⟩⟩,
   ⟨({ threaded with flights := [access2 (.load) (.host 0) (.moving)] } : State),
     ({ threaded with flights := [access2 (.load) (.host 0) (.moving)] } : State), 2, 0, access2 (.load) (.host 0)
     (.moving), ⟨by decide +kernel, by decide +kernel, by decide +kernel, rfl⟩⟩,
   ⟨State.reset, 2, Or.inl (by decide +kernel)⟩,
   ⟨({ threaded with flights := [access2 (.atomic .add .int32 []) (.dram 0) (.forwarded)] } : State), 2, 0, access2
     (.atomic .add .int32 []) (.dram 0) (.forwarded), .add, .int32, [], ⟨by decide +kernel, by decide +kernel,
     by decide +kernel, by decide +kernel, by decide +kernel, by decide +kernel, by decide +kernel, by decide +kernel,
     none_only (by decide +kernel), by decide +kernel⟩⟩⟩

theorem witness_FillsWriteBacksScrubsAndKeep :
    (∃ (s : State) (ch : Nat) (line : Nat) (sector : Nat) (many : Bool) (l : Line) (m : Miss), (s.channelOf line = ch)
      ∧ (sector < 4) ∧ (many = false) ∧ (s.fab.early = []) ∧ ((s.slice ch).miss.find? (fun m => m.tag == line &&
      m.sectors.getLsbD sector) = some m) ∧ (m.waiters = []) ∧ ((s.slice ch).inq = []) ∧ (s.cached line = some l) ∧
      (l.data.length = 128) ∧ (l.valid.getLsbD sector = false) ∧ ((s.slice ch).dead.elem line = false) ∧
      (s.poison.elem (line * 4 + sector) = false)) ∧
    (∃ (s : State) (ch : Nat) (line : Nat) (sector : Nat) (id : Nat) (many : Bool) (a : Access) (m : Miss),
      (s.channelOf line = ch) ∧ (sector < 4) ∧ (many = false) ∧ (s.fab.early = []) ∧ ((s.slice ch).miss = [m]) ∧
      (m.tag = line) ∧ (m.sectors = BitVec.ofNat 4 (2 ^ sector)) ∧ (m.waiters = [id]) ∧ ((s.slice ch).inq = []) ∧
      (s.access id = some a) ∧ (a.stage = .waiting) ∧ (a.op = .load) ∧ (a.hint = 0) ∧ (a.place = .dram (line * 128 +
      32 * sector)) ∧ (0 < a.len) ∧ (a.len ≤ 32) ∧ (s.poison.elem (line * 4 + sector) = false)) ∧
    (∃ (s : State) (ch : Nat) (line : Nat) (sector : Nat) (id : Nat) (many : Bool) (a : Access) (m : Miss),
      (s.channelOf line = ch) ∧ (sector < 4) ∧ (many = true) ∧ (s.fab.early = []) ∧ ((s.slice ch).miss = [m]) ∧ (m.tag
      = line) ∧ (m.sectors = BitVec.ofNat 4 (2 ^ sector)) ∧ (m.waiters = [id]) ∧ ((s.slice ch).inq = []) ∧ (s.access
      id = some a) ∧ (a.stage = .waiting) ∧ (a.op = .load) ∧ (a.place = .dram (line * 128 + 32 * sector)) ∧ (0 <
      a.len) ∧ (a.len ≤ 32)) ∧
    (∃ (s : State) (ch : Nat) (line : Nat) (sector : Nat), ((s.slice ch).miss.find? (fun m => m.tag == line &&
      m.sectors.getLsbD sector) = none)) ∧
    (∃ (s : State) (ch : Nat) (line : Nat) (l : Line), ((s.slice ch).wb.find? (fun l => l.tag == line) = some l)) ∧
    (∃ (s : State) (ch : Nat) (line : Nat), ((s.slice ch).wb.find? (fun l => l.tag == line) = none)) ∧
    (∃ (s : State) (sector : Nat), (s.mod.memTrained = true) ∧ (sector < 4)) ∧
    (∃ (s : State), (s.mod.memTrained = false)) ∧
    (∃ (s : State) (w : KeepSweep), (s.keepSweep = some w)) ∧
    (∃ (s : State), (s.keepSweep = none)) :=
  ⟨⟨sliced ⟨[(running.setOf 0, [line0])], [⟨0, 0, 1, [], false, []⟩], [], [], []⟩, chan0, 0, 0, false, line0, ⟨0, 0,
     1, [], false, []⟩, ⟨by decide +kernel, by decide +kernel, rfl, by decide +kernel, by decide +kernel,
     by decide +kernel, by decide +kernel, by decide +kernel, by decide +kernel, by decide +kernel, by decide +kernel,
     by decide +kernel⟩⟩,
   ⟨({ sliced missed with flights := [access2 (.load) (.dram 0) (.waiting)] } : State), chan0, 0, 0, 2, false, access2
     (.load) (.dram 0) (.waiting), ⟨0, 0, 1, [2], false, []⟩, ⟨by decide +kernel, by decide +kernel, rfl,
     by decide +kernel, by decide +kernel, by decide +kernel, by decide +kernel, by decide +kernel, by decide +kernel,
     by decide +kernel, by decide +kernel, by decide +kernel, by decide +kernel, by decide +kernel, by decide +kernel,
     by decide +kernel, by decide +kernel⟩⟩,
   ⟨({ sliced missed with flights := [access2 (.load) (.dram 0) (.waiting)] } : State), chan0, 0, 0, 2, true, access2
     (.load) (.dram 0) (.waiting), ⟨0, 0, 1, [2], false, []⟩, ⟨by decide +kernel, by decide +kernel, rfl,
     by decide +kernel, by decide +kernel, by decide +kernel, by decide +kernel, by decide +kernel, by decide +kernel,
     by decide +kernel, by decide +kernel, by decide +kernel, by decide +kernel, by decide +kernel,
     by decide +kernel⟩⟩,
   ⟨running, 0, 0, 0, by decide +kernel⟩,
   ⟨sliced ⟨[], [], [], [line0], []⟩, chan0, 0, line0, by decide +kernel⟩,
   ⟨running, 0, 0, by decide +kernel⟩,
   ⟨running, 3, by decide +kernel⟩,
   ⟨State.reset, by decide +kernel⟩,
   ⟨({ running with keepSweep := some ⟨0, 0, []⟩ } : State), ⟨0, 0, []⟩, by decide +kernel⟩,
   ⟨State.reset, by decide +kernel⟩⟩

theorem witness_TheCisternHoldsRemoteLines :
    (∃ (s : State) (v : State) (id : Nat) (dev : Nat) (off : Nat) (route : Nat) (sl : Nat) (a : Access), (s.access id
      = some a) ∧ (a.stage = .moving) ∧ (s.arrive id = some v) ∧ (s.cisInq = []) ∧ (a.place = .remote dev off route
      sl) ∧ (a.op = .load) ∧ (off % 128 + a.len ≤ 128) ∧ (a.hint ≠ 3)) ∧
    (∃ (s : State) (v : State) (id : Nat) (dev : Nat) (off : Nat) (route : Nat) (sl : Nat) (a : Access) (d : List
      (Option Byte)), (s.access id = some a) ∧ (a.stage = .moving) ∧ (s.arrive id = some v) ∧ (s.cisInq = []) ∧
      (a.place = .remote dev off route sl) ∧ (a.op = .store d)) ∧
    (∃ (s : State) (dev : Nat) (line : Nat) (m : Miss) (l : Line) (data : List (Option (List Byte))), (s.cisMiss.find?
      (fun m => m.isFab dev line && m.sectors.toNat == gotSectors data) = some m) ∧ (s.cisLine dev line = some l) ∧
      (m.waiters = []) ∧ (m.discard = false) ∧ (m.newer = []) ∧ (s.cisInq = []) ∧ (s.cisDead.elem (dev, line) = false)
      ∧ (l.data.length = 128)) ∧
    (∃ (s : State) (dev : Nat) (line : Nat) (data : List (Option (List Byte))), (s.cisMiss.find? (fun m => m.isFab dev
      line && m.sectors.toNat == gotSectors data) = none)) ∧
    (∃ (s : State) (sl : Nat) (set : Nat) (v : Line), (sl < 4) ∧ (set < 8192) ∧ (s.cisInq = []) ∧ (s.keepSweep = none)
      ∧ (victim (fun l => (s.cisMissOf l.dev l.tag).isSome || s.revokedDevs.elem l.dev) (demoteKeep s.keepCap (tabGet
      s.cistern [] (sl * 8192 + set))) = some v)) ∧
    (∃ (s : State) (v : State) (id : Nat) (dev : Nat) (off : Nat) (route : Nat) (sl : Nat) (a : Access) (op : AtomOp)
      (ty : AtomTy) (lanes : List (Nat × Word64 × Word64)), (s.access id = some a) ∧ (a.stage = .moving) ∧ (s.arrive
      id = some v) ∧ (a.place = .remote dev off route sl) ∧ (a.op = .atomic op ty lanes) ∧ (dev < 65536)) ∧
    (∃ (s : State) (id : Nat), (s.access id = none ∨ s.arrive id = none)) :=
  ⟨⟨({ threaded with flights := [access2 (.load) (.remote 1 0 0 0) (.moving)] } : State),
     ({ threaded with flights := [access2 (.load) (.remote 1 0 0 0) (.moving)] } : State), 2, 1, 0, 0, 0, access2
     (.load) (.remote 1 0 0 0) (.moving), ⟨by decide +kernel, by decide +kernel, rfl, by decide +kernel,
     by decide +kernel, by decide +kernel, by decide +kernel, by decide +kernel⟩⟩,
   ⟨({ threaded with flights := [access2 (.store [some 1]) (.remote 1 0 0 0) (.moving)] } : State),
     ({ threaded with flights := [access2 (.store [some 1]) (.remote 1 0 0 0) (.moving)] } : State), 2, 1, 0, 0, 0,
     access2 (.store [some 1]) (.remote 1 0 0 0) (.moving), [some 1], ⟨by decide +kernel, by decide +kernel, rfl,
     by decide +kernel, by decide +kernel, by decide +kernel⟩⟩,
   ⟨({ running with cisMiss := [⟨0, 1, 1, [], false, []⟩], cistern := [(cisKey 1 0, [⟨0, 1, List.replicate 128 0, 0, 0, false, 0⟩])] }
     : State), 1, 0, ⟨0, 1, 1, [], false, []⟩, ⟨0, 1, List.replicate 128 0, 0, 0, false, 0⟩, [some (List.replicate 32
     0)], by decide +kernel⟩,
   ⟨running, 1, 0, [], by decide +kernel⟩,
   ⟨({ running with cistern := [(3 * 8192 + 8191, [line0])] } : State), 3, 8191, line0, by decide +kernel⟩,
   ⟨({ threaded with flights := [access2 (.atomic .add .int32 []) (.remote 1 0 0 0) (.moving)] } : State),
     ({ threaded with flights := [access2 (.atomic .add .int32 []) (.remote 1 0 0 0) (.moving)] } : State), 2, 1, 0,
     0, 0, access2 (.atomic .add .int32 []) (.remote 1 0 0 0) (.moving), .add, .int32, [], ⟨by decide +kernel,
     by decide +kernel, rfl, by decide +kernel, by decide +kernel, by decide +kernel⟩⟩,
   ⟨State.reset, 2, Or.inl (by decide +kernel)⟩⟩

theorem witness_FabricRequestsAreAppliedInTurn :
    (∃ (s : State) (i : Instr) (h : FabHead) (op : FabOp), (fabricRequest i = some (h, op)) ∧ (s.serves h)) ∧
    (∃ (s : State) (h : FabHead) (h' : FabHead) (o' : Nat) (d' : List (Option Byte)), (s.serves h) ∧ (h.seq = tabGet
      s.fab.inSeq 0 (seqKey h.src h.route)) ∧ (s.fab.early = [⟨h', .store o' d'⟩]) ∧ (h'.src = h.src) ∧ (h'.route =
      h.route) ∧ (h'.seq = h.seq + 1)) ∧
    (∃ (i : Instr) (h : FabHead) (op : FabOp), (fabricRequest i = some (h, op))) ∧
    (∃ (s : State) (dpa : Nat) (d : List (Option Byte)) (i : _) (v : _), (0 < d.length) ∧ (dpa % 128 + d.length ≤ 128)
      ∧ ((∀ l, s.cached (dpa / 128) = some l → l.data.length = 128)) ∧ (i < d.length) ∧ (d.getD i none = some v)) ∧
    (∃ (s : State) (h : FabHead) (c : Nat) (k : Nat), (s.shareCheck k h.src c false = none)) :=
  ⟨⟨serving, .fabricLoad (fab1 0) 0 4, fab1 0, .load 0 4, by unfold State.serves; decide +kernel⟩,
   ⟨(serving).modFab (fun y => { y with early := [⟨fab1 1, .store 0 []⟩] }), fab1 0, fab1 1, 0, [],
     by unfold State.serves; decide +kernel⟩,
   ⟨.fabricLoad (fab1 0) 0 4, fab1 0, .load 0 4, by decide +kernel⟩,
   ⟨running, 0, [some 5], 0, 5, ⟨by decide +kernel, by decide +kernel, none_only (by decide +kernel),
     by decide +kernel, by decide +kernel⟩⟩,
   ⟨serving, fab1 0, 5, 0, by decide +kernel⟩⟩

theorem witness_ReductionsBindCloseAndCombine :
    (∃ (s : State) (off : Nat), (s.redHead off = none)) ∧
    (∃ (s : State) (off : Nat) (h : RedHead), (s.redHead off = some h) ∧ (s.poisoned h.dpa 4096 = false)) ∧
    (∃ (s : State) (off : Nat) (h : RedHead), (s.redHead off = some h) ∧ (s.poisoned h.dpa 4096 = true)) ∧
    (∃ (e : Nat), (e < 32)) ∧
    (∃ (e : Nat), (e < 32)) ∧
    (∃ (s : State) (off : Nat), ((s.redHead off = none ∨ ∃ h, s.redHead off = some h ∧ (h.done = true ∨ h.mode ≠ 0 ∨ ∃
      i, h.expected i = true ∧ h.arrived i = false)))) ∧
    (∃ (s : State) (off : Nat) (h : RedHead), (s.redHead off = some h) ∧ (h.ok = true) ∧ (h.mode = 0) ∧ (h.done =
      false) ∧ (h.complete = true) ∧ (h.contributors ≠ []) ∧ (numCtxs ≤ h.owner)) :=
  ⟨⟨State.reset, 0, by decide +kernel⟩,
   ⟨exported 5, 0, ⟨0, 0, 5, (exported 5).homeBytes 0 4096⟩, ⟨rfl, by decide +kernel⟩⟩,
   ⟨({ exported 5 with poison := [3] } : State), 0, ⟨0, 0, 5, (({ exported 5 with poison := [3] } : State)).homeBytes
     0 4096⟩, ⟨rfl, by decide +kernel⟩⟩,
   ⟨31, by decide +kernel⟩,
   ⟨31, by decide +kernel⟩,
   ⟨State.reset, 0, Or.inl (by decide +kernel)⟩,
   ⟨exported 4096, 0, ⟨0, 0, 4096, (exported 4096).homeBytes 0 4096⟩, ⟨rfl, by decide +kernel, by decide +kernel,
     by decide +kernel, by decide +kernel, by decide +kernel, by decide +kernel⟩⟩⟩

theorem witness_AnswersEndTheirRequests :
    (∃ (s : State) (r : OutReq), (s.fab.out = [r]) ∧ (r.left = true) ∧ (s.walks = []) ∧ (r.sync = none) ∧ (s.cisInq =
      [])) ∧
    (∃ (s : State) (a : OutReq) (b : OutReq), (s.fab.out = [a, b]) ∧ (a.left = true) ∧ (b.left = true) ∧ (a.dev =
      b.dev) ∧ (a.route = b.route) ∧ (a.seq < b.seq) ∧ (a.sync = none) ∧ (b.sync = none) ∧ (a.access = none) ∧
      (b.access = none) ∧ (s.walks = [])) ∧
    (∃ (s : State) (r : OutReq) (id : Nat) (tile : Nat) (uid : Nat) (a : Access), (s.fab.out = [r]) ∧ (r.left = true)
      ∧ (s.walks = []) ∧ (r.sync = none) ∧ (r.access = some id) ∧ (s.access id = some a) ∧ (a.id = id) ∧ (a.who =
      .group tile uid)) ∧
    (∃ (s : State) (r : OutReq), (s.fab.out = [r]) ∧ (r.left = true) ∧ (s.walks = []) ∧ (r.sync = none) ∧ (r.access =
      none) ∧ ((∀ o n, r.op ≠ .load o n)) ∧ (r.ctx < 4096) ∧ ((s.ctx r.ctx).st = .resident) ∧ ((s.ctx r.ctx).fault =
      none)) ∧
    (∃ (s : State) (r : OutReq) (m : Miss) (o : Nat) (n : Nat), (s.fab.out = [r]) ∧ (r.left = true) ∧ (s.walks = []) ∧
      (r.sync = none) ∧ (r.access = none) ∧ (r.op = .load o n) ∧ (s.cisMiss = [m]) ∧ (m.isFab r.dev (o / 128) = true)
      ∧ (m.sectors.toNat = sectorsOf (o % 128) n) ∧ (s.cisInq = [])) ∧
    (∃ (s : State) (d : Nat) (rt : Nat) (q : Nat), ((∀ r ∈ s.fab.out, r.left = false ∨ r.route ≠ rt ∨ r.seq ≠ q ∨
      (r.dev ≠ d ∧ r.dev < 65536)))) ∧
    (∃ (s : State) (r : OutReq), (s.fab.out = [r]) ∧ (r.left = true) ∧ (s.routeUp r.route = true)) ∧
    (∃ (s : State) (rt : Nat), (s.routeUp rt = false)) :=
  ⟨⟨(threaded).modFab (fun y => { y with out := [out1] }), out1, by decide +kernel⟩,
   ⟨(threaded).modFab (fun y => { y with out := [out1, { out1 with seq := 1 }] }), out1, { out1 with seq := 1 },
     by decide +kernel⟩,
   ⟨(({ threaded with flights := [access2 (.load) (.dram 0) (.moving)] } : State)).modFab (fun y =>
     { y with out := [{ out1 with access := some 2 }] }), { out1 with access := some 2 }, 2, 0, 7, access2 (.load)
     (.dram 0) (.moving), by decide +kernel⟩,
   ⟨(threaded).modFab (fun y => { y with out := [{ out1 with op := .store 0 [] }] }), { out1 with op := .store 0 [] },
     ⟨by decide +kernel, by decide +kernel, by decide +kernel, by decide +kernel, by decide +kernel, (fun _ _ e =>
     nomatch e), by decide +kernel, by decide +kernel, by decide +kernel⟩⟩,
   ⟨(({ threaded with cisMiss := [⟨0, 1, 1, [], false, []⟩] } : State)).modFab (fun y => { y with out := [out1] }),
     out1, ⟨0, 1, 1, [], false, []⟩, 0, 4, by decide +kernel⟩,
   ⟨State.reset, 0, 0, 0, by decide +kernel⟩,
   ⟨((threaded).modFab (fun y => { y with out := [out1] })).modPort 0 (fun y => { y with up := true }), out1,
     by decide +kernel⟩,
   ⟨State.reset, 0, by decide +kernel⟩⟩

theorem witness_DescriptorsStartCheckedInQueueOrder :
    (∃ (s : State) (c : Nat) (q : Nat) (d : BitVec 512) (e : Instr × Nat × Option Nat × List (Nat × Nat)), (e ∈
      descriptors c q d) ∧ (s.hal.reloading = false)) ∧
    (∃ (s : State) (c : Nat) (q : Nat), ((s.ctx c).st = .resident) ∧ ((s.ctx c).fault = none) ∧ ((s.queue c q).st =
      .running)) ∧
    (∃ (s : State) (c : Nat) (q : Nat) (d : BitVec 512), (s.accepts c q d 0x10 none [(288, 224)])) ∧
    (∃ (s : State) (c : Nat) (q : Nat) (d : BitVec 512), (s.accepts c q d 0x01 (some 0) [(371, 13), (448, 32)])) ∧
    (∃ (s : State) (s1 : State) (c : Nat) (q : Nat) (d : BitVec 512) (r : List Byte), (s.accepts c q d 0x02 (some 1)
      [(320, 192)]) ∧ (s.readStruct c (bvFld d 192 64) 256 = (.ok r, s1))) :=
  ⟨⟨queued 0 none, 5, 0, 0, (.descNop 5 0 0, 0x00, none, [(192, 320)]), ⟨by simp [descriptors], by decide +kernel⟩⟩,
   ⟨queued 0 none, 5, 0, by decide +kernel⟩,
   ⟨queued 0 none, 5, 0, 0x10, by unfold State.accepts; decide +kernel⟩,
   ⟨queued 0 none, 5, 0, 1, by unfold State.accepts; decide +kernel⟩,
   ⟨queued 1 none, (queued 1 none).readStruct 5 (bvFld (2 : BitVec 512) 192 64) 256 |>.2, 5, 0, 2, okVal ((queued 1
     none).readStruct 5 (bvFld (2 : BitVec 512) 192 64) 256), ⟨by unfold State.accepts; decide +kernel, ok_eq _
     (by decide +kernel)⟩⟩⟩

theorem witness_QueuesCompleteInOrderAndShareTheSlots :
    (∃ (s : State), (s.copyQueues = [])) ∧
    (∃ (l : Nat) (x : Nat) (qs : List Nat), (nextOf l qs = some x)) ∧
    (∃ (k : CopyDesc), (0 < k.rowLen)) ∧
    (∃ (s : State) (c : Nat) (q : Nat) (moved : Nat) (stop : Option (Code × Nat)) (step : Word64) (seed : Word64) (d :
      BitVec 512) (parts : List (Nat × Nat)), (q < 16) ∧ (s.copyTurn = some (16 * c + q)) ∧ ((s.queue c q).work = some
      (.copy moved stop step seed)) ∧ ((s.queue c q).held = some d) ∧ (s.copyLoads c q = []) ∧ (parts = copyParts
      (copySegment (copyOf d) moved (min (2 ^ 20) ((copyOf d).total - moved))) (fun r => r.1)) ∧ (parts ≠ []) ∧ ((∀ p
      ∈ parts, ∃ a, s.reach c p.1 0 .engineLoad = .place (.dram a)))) ∧
    (∃ (s : State) (c : Nat) (q : Nat) (moved : Nat) (stop : Option (Code × Nat)) (step : Word64) (seed : Word64) (d :
      BitVec 512), (q < 16) ∧ (s.copyTurn = some (16 * c + q)) ∧ ((s.queue c q).work = some (.copy moved stop step
      seed)) ∧ ((s.queue c q).held = some d) ∧ ((∃ a ∈ s.copyLoads c q, a.stage = .moving ∨ a.stage = .waiting ∨
      a.stage = .forwarded))) ∧
    (∃ (s : State) (u : State) (c : Nat) (q : Nat) (moved : Nat) (m : Nat) (start : Nat) (want : Nat) (step : Word64)
      (seed : Word64) (d : BitVec 512) (h : Bool), (q < 16) ∧ (s.copyTurn = some (16 * c + q)) ∧ ((s.queue c q).work =
      some (.copy moved none step seed)) ∧ ((s.queue c q).held = some d) ∧ ((copyOf d).compress = 0) ∧ (s.copyLoads c
      q ≠ []) ∧ ((∀ a ∈ s.copyLoads c q, ∃ b o, a.stage = .served b o)) ∧ (start = moved / 2 ^ 20 * 2 ^ 20) ∧ (want =
      min (2 ^ 20) ((copyOf d).total - start)) ∧ (s.copyScatter c q (dHint d) (copyOf d).total (dFlag d) start moved
      (copyParts (copySegment (copyOf d) start want) (fun r => r.2.1)) ((s.copyLoads c q).flatMap Access.data) = (⟨m,
      none, h⟩, u))) ∧
    (∃ (s : State) (c : Nat) (va : Nat) (a : Nat) (d : List Byte), (s.reach c va 1 .engineStore = .place (.dram a)) ∧
      (0 < d.length) ∧ (s.repair.failed.elem (s.channelOf (a / 128)) = false) ∧ (a % 128 + d.length ≤ 128) ∧ ((∀ l,
      s.cached (a / 128) = some l → l.data.length = 128))) ∧
    (∃ (s : State) (c : Nat) (q : Nat), ((∀ st det r, (s.queue c q).work ≠ some (.done st det r))) ∧ ((∀ k, (s.queue c
      q).work ≠ some (.compute k)))) ∧
    (∃ (s : State) (c : Nat) (q : Nat) (st : Nat) (det : Nat) (r : Nat) (d : BitVec 512), ((s.queue c q).work = some
      (.done st det r)) ∧ ((s.queue c q).held = some d) ∧ (s.flights = []) ∧ (s.kernels = [])) ∧
    (∃ (st : Nat) (d : BitVec 512), (1 < st) ∧ (dCr d = false)) ∧
    (∃ (s : State) (c : Nat) (q : Nat) (a : Nat) (d : BitVec 512), (dCr d = false) ∧ (dSig d = false) ∧ (dIrq d =
      false) ∧ ((s.queue c q).st = .running) ∧ ((s.queue c q).overrun = none) ∧ ((s.queue c q).wb % 8 = 0) ∧ ((s.queue
      c q).wb < 2 ^ 48) ∧ ((s.ctx c).translate (s.queue c q).wb 1 = some (.dram a)) ∧ (a % 128 = (s.queue c q).wb %
      128) ∧ ((∀ l, s.cached (a / 128) = some l → l.data.length = 128))) ∧
    (∃ (s : State) (c : Nat) (q : Nat) (d : BitVec 512), (dCr d = false) ∧ (dSig d = true) ∧ ((s.queue c q).st =
      .running)) ∧
    (∃ (st : Nat) (tag : Nat) (c : Nat) (q : Nat) (det : Nat) (res : Nat), (st < 2 ^ 16) ∧ (tag < 2 ^ 16) ∧ (c < 2 ^
      12) ∧ (q < 16) ∧ (det < 2 ^ 16) ∧ (res < 2 ^ 64)) ∧
    (∃ (s : State) (c : Nat) (q : Nat) (id : Nat) (d : BitVec 512) (k : Kernel), ((s.queue c q).work = some (.compute
      id)) ∧ ((s.queue c q).held = some d) ∧ (s.kernels = [k]) ∧ (k.id = id)) ∧
    (∃ (s : State) (f : Nat) (off : Nat) (j : Nat) (c : Nat), ((s.fn f).enabled = true) ∧ (s.mod.hostUp = true) ∧ (off
      % 4096 = 0) ∧ (j = off / 4096 % 16) ∧ (s.bellCtx f (off / 4096 / 16) = some c)) ∧
    (∃ (s : State) (f : Nat) (off : Nat), ((s.fn f).enabled = true) ∧ (s.mod.hostUp = true) ∧ (off % 4096 = 0) ∧
      (s.bellCtx f (off / 4096 / 16) = none)) ∧
    (∃ (s : State) (c : Nat), ((s.ctx c).resident = true)) :=
  ⟨⟨State.reset, by decide +kernel⟩,
   ⟨3, 3, [3], by decide +kernel⟩,
   ⟨copyOf 0, by decide +kernel⟩,
   ⟨copyS [], 5, 0, 0, none, 0, 0, copyD, copyParts (copySegment (copyOf copyD) 0 (min (2 ^ 20) ((copyOf copyD).total
     - 0))) (fun r => r.1), ⟨by decide +kernel, by decide +kernel, by decide +kernel, by decide +kernel,
     by decide +kernel, rfl, by decide +kernel, fun p hp => ⟨0, (by decide +kernel : ∀ p ∈ copyParts (copySegment
     (copyOf copyD) 0 (min (2 ^ 20) ((copyOf copyD).total - 0))) (fun r => r.1), (copyS []).reach 5 p.1 0 .engineLoad
     = .place (.dram 0)) p hp⟩⟩⟩,
   ⟨copyS [copyLoad .moving], 5, 0, 0, none, 0, 0, copyD, by decide +kernel⟩,
   ⟨copyS [copyLoad (.served [1, 2, 3, 4] [])], (copyC (copyS [copyLoad (.served [1, 2, 3, 4] [])])).2, 5, 0, 0,
     (copyC (copyS [copyLoad (.served [1, 2, 3, 4] [])])).1.moved, 0, 4, 0, 0, copyD, (copyC (copyS [copyLoad (.served
     [1, 2, 3, 4] [])])).1.held, ⟨by decide +kernel, by decide +kernel, by decide +kernel, by decide +kernel,
     by decide +kernel, by decide +kernel, fun a ha => ⟨[1, 2, 3, 4], [], (by decide +kernel : ∀ a ∈ (copyS [copyLoad
     (.served [1, 2, 3, 4] [])]).copyLoads 5 0, a.stage = .served [1, 2, 3, 4] []) a ha⟩, by decide,
     by decide +kernel, moved_eq (copyC (copyS [copyLoad (.served [1, 2, 3, 4] [])])) (by decide +kernel)⟩⟩,
   ⟨queued 0 none, 5, 0, 0, [1], ⟨by decide +kernel, by decide +kernel, by decide +kernel, by decide +kernel,
     none_only (by decide +kernel)⟩⟩,
   ⟨queued 0 none, 5, 0, ⟨none_ne_done (by decide +kernel), none_ne_compute (by decide +kernel)⟩⟩,
   ⟨({ queued 0 (some (.done 0 0 0)) with kernels := [] } : State), 5, 0, 0, 0, 0, 0, by decide +kernel⟩,
   ⟨2, 0, by decide +kernel⟩,
   ⟨queued 0 none, 5, 0, 0, 0, ⟨by decide +kernel, by decide +kernel, by decide +kernel, by decide +kernel,
     by decide +kernel, by decide +kernel, by decide +kernel, by decide +kernel, by decide +kernel, none_only
     (by decide +kernel)⟩⟩,
   ⟨queued 0 none, 5, 0, 0x400, by decide +kernel⟩,
   ⟨65535, 65535, 4095, 15, 65535, 2 ^ 64 - 1, by decide +kernel⟩,
   ⟨({ queued 1 (some (.compute 3)) with kernels := [kernel3] } : State), 5, 0, 3, 0, kernel3, by decide +kernel⟩,
   ⟨running, 0, 327680, 0, 5, ⟨by decide +kernel, by decide +kernel, by decide +kernel, rfl, by decide +kernel⟩⟩,
   ⟨running, 0, 268435456, by decide +kernel⟩,
   ⟨threaded, 5, by decide +kernel⟩⟩

theorem witness_AdminCommandsAreCheckedAndRecorded :
    (∃ (i : Instr) (f : Nat) (d : BitVec 512) (ty : Nat) (pf : Bool), (adminRow i = some (f, d, ty, pf))) ∧
    (∃ (s : State) (f : Nat), ((s.fn f).enabled = true) ∧ (s.mod.hostUp = true)) :=
  ⟨⟨.ctxReset 0 0x22, 0, 0x22, 0x22, false, by decide +kernel⟩,
   ⟨running, 0, by decide +kernel⟩⟩

theorem witness_ContextCommandsCreateSetAndEnd :
    (∃ (s : State) (f : Nat) (d : BitVec 512), (s.adminTurn f) ∧ (s.adminBad f d 0x20 false = none)) ∧
    (∃ (f : Nat) (d : BitVec 512) (e : Instr × Nat), (e ∈ [(.ctxSetStep f d, 1), (.ctxSetFlags f d, 2),
      (.ctxSetWaitWdog f d, 3), (.ctxSetQuantum f d, 4), (.ctxSetWatchRing f d, 5), (.ctxSetSyncMap f d, 6),
      (.ctxSetHeap f d, 7), (.ctxSetFaultClear f d, 8)])) ∧
    (∃ (s : State) (f : Nat) (d : BitVec 512), (s.adminGo f d 0x21) ∧ (aA d = 0)) ∧
    (∃ (s : State) (f : Nat) (d : BitVec 512), (s.adminGo f d 0x21) ∧ (aA d = 0)) ∧
    (∃ (s : State) (c : Nat), (c < numCtxs) ∧ ((s.ctx c).st ≠ .free)) :=
  ⟨⟨announced, 0, 0x20, by unfold State.adminTurn; decide +kernel⟩,
   ⟨0, 0x21, (.ctxSetStep 0 0x21, 1), by simp⟩,
   ⟨announced, 0, 0x21, by unfold State.adminGo State.adminTurn; decide +kernel⟩,
   ⟨announced, 0, 0x21, by unfold State.adminGo State.adminTurn; decide +kernel⟩,
   ⟨announced, 0, by decide +kernel⟩⟩

theorem witness_AdminCommandsActOnQueuesObjectsAndPages :
    (∃ (s : State) (f : Nat) (d : BitVec 512), (s.adminGo f d 0x24)) ∧
    (∃ (s : State) (f : Nat) (d : BitVec 512), (s.adminGo f d 0x25)) ∧
    (∃ (s : State) (f : Nat) (q : Nat) (skip : Bool) (d : BitVec 512), (s.adminGo f d 0x26) ∧ (q < 16) ∧ (aB d = q +
      (if skip then 16 else 0))) ∧
    (∃ (s : State) (f : Nat) (d : BitVec 512), (s.adminTurn f) ∧ (s.adminBad f d 0x27 false = none)) ∧
    (∃ (s : State) (f : Nat) (d : BitVec 512), (s.adminTurn f) ∧ (s.adminBad f d 0x28 false = none)) ∧
    (∃ (s : State) (f : Nat) (p : Nat) (d : BitVec 512), (s.adminGo f d 0x29) ∧ (s.revoking = false ∨ (aB d).testBit
      24 = false) ∧ (p = (if (aD d).testBit 48 then 2 ^ 21 else 2 ^ 16))) ∧
    (∃ (s : State) (f : Nat) (d : BitVec 512), (s.adminGo f d 0x2A) ∧ (s.rangeBusy (aCtx d) (aA d) (aD d) = false)) ∧
    (∃ (s : State), (s.hal.reloading = false) ∧ (s.adminHeld = [])) ∧
    (∃ (s : State) (i : Instr), (s.hal.reloading = false) ∧ (s.adminHeld = [i]) ∧ (s.adminWaits i = false)) ∧
    (∃ (s : State) (f : Nat) (d : BitVec 512), (s.adminGo f d 0x2B) ∧ (s.revoking = false)) :=
  ⟨⟨announced, 0, 0x24, by unfold State.adminGo State.adminTurn; decide +kernel⟩,
   ⟨announced, 0, 0x25, by unfold State.adminGo State.adminTurn; decide +kernel⟩,
   ⟨announced, 0, 15, true, 0x26 + 31 * 2 ^ 256, by unfold State.adminGo State.adminTurn; decide +kernel⟩,
   ⟨announced, 0, 0x27, by unfold State.adminTurn; decide +kernel⟩,
   ⟨announced, 0, 0x28, by unfold State.adminTurn; decide +kernel⟩,
   ⟨announced, 0, 65536, 0x29, ⟨by unfold State.adminGo State.adminTurn; decide +kernel, by decide +kernel,
     by decide +kernel⟩⟩,
   ⟨announced, 0, 0x2A, by unfold State.adminGo State.adminTurn; decide +kernel⟩,
   ⟨State.reset, by decide +kernel⟩,
   ⟨({ State.reset with adminHeld := [.ctxCreate 0 0] } : State), .ctxCreate 0 0, by decide +kernel⟩,
   ⟨announced, 0, 0x2B, by unfold State.adminGo State.adminTurn; decide +kernel⟩⟩

theorem witness_AdminCommandsActOnSyncSharesAndFunctions :
    (∃ (s : State) (f : Nat) (d : BitVec 512), (s.adminGo f d 0x2C)) ∧
    (∃ (s : State) (i : Nat), (s.freeSync = some i)) ∧
    (∃ (s : State) (f : Nat) (d : BitVec 512), (s.adminGo f d 0x2C)) ∧
    (∃ (s : State) (f : Nat) (d : BitVec 512), (s.adminGo f d 0x2C)) ∧
    (∃ (s : State) (f : Nat) (d : BitVec 512), (s.adminGo f d 0x2D) ∧ (s.sync.active = true)) ∧
    (∃ (s : State) (f : Nat) (i : Nat) (e : Nat) (d : BitVec 512), (s.adminGo f d 0x2D) ∧ (e < 2 ^ 14) ∧ ((tabGet
      s.sync.shares Share.free e).obj = some i) ∧ (s.ownSync (aCtx d) i = true)) ∧
    (∃ (s : State) (f : Nat) (d : BitVec 512), (s.adminGo f d 0x2E)) ∧
    (∃ (s : State) (s1 : State) (f : Nat) (cred : BitVec 256) (d : BitVec 512), (s.adminGo f d 0x2F) ∧ (s.readDigest f
      (aA d) = (some cred, s1))) ∧
    (∃ (s : State) (d : BitVec 512), (s.adminTurn 0) ∧ (s.adminBad 0 d 0x30 true = none)) :=
  ⟨⟨announced, 0, 0x2C, by unfold State.adminGo State.adminTurn; decide +kernel⟩,
   ⟨State.reset, Config.pick 2 State.reset.freeCtr % numSync, rfl⟩,
   ⟨announced, 0, 0x2C, by unfold State.adminGo State.adminTurn; decide +kernel⟩,
   ⟨announced, 0, 0x2C, by unfold State.adminGo State.adminTurn; decide +kernel⟩,
   ⟨(announced).modSync (fun y => { y with active := true }), 0, 0x2D,
     by unfold State.adminGo State.adminTurn; decide +kernel⟩,
   ⟨(announced).modSync (fun y =>
     { y with active := true, objs := [(0, { SyncObj.free with kind := 1, owner := 0 })], shares := [(16383, { Share.free with obj := some 0 })] }),
     0, 0, 16383, 0x2D, by unfold State.adminGo State.adminTurn; decide +kernel⟩,
   ⟨announced, 0, 0x2E, by unfold State.adminGo State.adminTurn; decide +kernel⟩,
   ⟨announced, (announced).readDigest 0 (aA 0x2F) |>.2, 0, ((announced).readDigest 0 (aA 0x2F)).1.getD 0, 0x2F,
     ⟨by unfold State.adminGo State.adminTurn; decide +kernel, got_eq _ (by decide +kernel)⟩⟩,
   ⟨announced, 0x30, by unfold State.adminTurn; decide +kernel⟩⟩

theorem witness_TheHostPortServesWindowsMessagesAndResets :
    (∃ (s : State), (s.sec.running = none ∨ s.mod.hostUp = false)) ∧
    (∃ (s : State) (f : Nat), (s.fnDecoded = true) ∧ ((s.fn f).enabled = true)) ∧
    (∃ (s : State), (s.fnDecoded = true)) ∧
    (∃ (s : State), (s.mod.hostUp = false ∨ s.mod.memTrained = false)) ∧
    (∃ (s : State) (off : Nat) (n : Nat) (d : List Byte), (s.mod.hostUp = true) ∧ (s.mod.memTrained = true) ∧ (n =
      d.length) ∧ (off + n ≤ 2 ^ 36)) ∧
    (∃ (s : State) (f : Nat) (e : Nat), (s.fnDecoded = true) ∧ ((s.fn f).enabled = true) ∧ (e < s.vectors f)) ∧
    (∃ (s : State) (f : Nat), ((s.fn f).enabled = true) ∧ (f ≠ 0)) ∧
    (∃ (s : State), (tabWf Ctx.free s.ctxs = true) ∧ ((s.fn 0).enabled = true)) ∧
    (∃ (s : State) (f : Nat), ((s.fn f).enabled = false)) ∧
    (∃ (s : State), (tabWf Ctx.free s.ctxs = true)) :=
  ⟨⟨State.reset, by decide +kernel⟩,
   ⟨running, 0, by decide +kernel⟩,
   ⟨running, by decide +kernel⟩,
   ⟨State.reset, by decide +kernel⟩,
   ⟨running, 2 ^ 36 - 1, 1, [0], ⟨by decide +kernel, by decide +kernel, rfl, by decide +kernel⟩⟩,
   ⟨running, 0, 2047, by decide +kernel⟩,
   ⟨(running).modFn 1 (fun y => { y with enabled := true }), 1, by decide +kernel⟩,
   ⟨running, by decide +kernel⟩,
   ⟨running, 1, by decide +kernel⟩,
   ⟨State.reset, by decide +kernel⟩⟩

theorem witness_RegisterWritesChangeOnlyWhatTheirFieldsPermit :
    (∃ (s : State) (f : Nat), ((s.fn f).enabled = true) ∧ (s.mod.hostUp = true)) ∧
    (∃ (s : State) (f : Nat), ((s.fn f).enabled = false ∨ s.mod.hostUp = false)) ∧
    (∃ (r : Reg) (f : Fld), (f ∈ r.fields)) ∧
    (∃ (s : State) (a : Nat) (r : Reg), ((s.fn 0).enabled = true) ∧ (s.mod.hostUp = true) ∧ (s.sec.running ≠ none) ∧
      (s.hal.reloading = false) ∧ (a < 2 ^ 26) ∧ (foreignBlock 0 a = false) ∧ (regAt a = some (r, 0)) ∧ ((∀ f ∈
      r.fields, f.acc = .ro))) ∧
    (∃ (s : State) (a : Nat), ((s.fn 0).enabled = true) ∧ (s.mod.hostUp = true) ∧ (0x3800000 ≤ a) ∧ (a + 8 ≤
      0x4000000) ∧ (a % 8 = 0) ∧ (s.hal.reloading = false)) ∧
    (∃ (s : State), ((s.fn 0).enabled = true) ∧ (s.mod.hostUp = true) ∧ (s.sec.running ≠ none) ∧ (s.hal.reloading =
      false)) ∧
    (∃ t t' : Nat, t' ≠ t) :=
  ⟨⟨running, 0, by decide +kernel⟩,
   ⟨State.reset, 1, by decide +kernel⟩,
   ⟨.powerCap, (Reg.powerCap.fields.head?).getD ⟨0, 1, .rw⟩, by decide +kernel⟩,
   ⟨running, 0, .devInfo, by decide +kernel⟩,
   ⟨running, 0x3FFFFF8, by decide +kernel⟩,
   ⟨running, by decide +kernel⟩,
   ⟨0, 1, by decide⟩⟩

theorem witness_SluicesReleaseItemsAtTheirTick :
    (∃ (b : List Byte) (dest : Option (Nat × Nat)) (w : Payload), (w =
      (match dest with | some x => .scratch x.1 x.2 b | none => .bytes b))) ∧
    (∃ (s : State) (k : Nat) (v : TickStart), ((s.tile k).flume.before = some v)) ∧
    (∃ (s : State) (r : Region), (s.timed.region = some r) ∧ ((s.ctx r.ctx).st = .resident) ∧ ((s.ctx r.ctx).fault =
      none)) ∧
    (∃ (a : Nat × Nat × Nat) (b : Nat × Nat × Nat), (a.1 / 24 = b.1 / 24) ∧ (a.2.1 / 24 = b.2.1 / 24)) ∧
    (∃ (s : State) (x : Sluice) (it : Item), (s.nextSeen x = some it)) ∧
    (∃ (s : State) (i : SluiceId) (it : Item), (s.nextSeen (s.sluice i) = some it) ∧ (s.crossingRuns i = true)) ∧
    (∃ (s : State) (u : State) (i : SluiceId) (it : Item), ((s.sluice i).nextOut = some it) ∧ (s.crossingRuns i =
      true) ∧ (u = (if i.kind = .free then s else s.passWet (it.delay - s.itemAge i it)))) ∧
    (∃ (s : State) (i : SluiceId) (r : Region), (i.kind ≠ .port) ∧ (s.timed.region = some r)) ∧
    (∃ (s : State), (s.hal.events = [] ∨ s.running = false)) ∧
    (∃ (s : State) (p : Nat) (k : Nat) (t : Nat) (rest : List HalnorEvent), (s.hal.events = .ratio p k t :: rest) ∧
      (s.running = true)) ∧
    (∃ (s : State), (s.kernels ≠ []) ∧ ((∀ e ∈ s.ctxs, e.2.kind ≠ 3))) ∧
    (∃ (s : State), (s.hal.resets = [])) ∧
    (∃ (s : State) (u : State) (g : ResetGroup) (x : GroupState) (rest : List (ResetGroup × GroupState)),
      (s.hal.resets = (g, x) :: rest) ∧ (u = { s with hal := { s.hal with resets := rest } })) ∧
    (∃ (g : ResetGroup) (i : SluiceId), (onBoundary g i = true)) ∧
    (∃ (t : Nat), (t < 2304)) :=
  ⟨⟨[], none, .bytes [], rfl⟩,
   ⟨(State.reset).modTile 0 (fun y =>
     { y with flume := { y.flume with before := some ⟨[], MArray.reset, 0, [], 0, 0, [], [], []⟩ } }), 0, ⟨[],
     MArray.reset, 0, [], 0, 0, [], [], []⟩, by decide +kernel⟩,
   ⟨inRegion .running, region5 .running, by decide +kernel⟩,
   ⟨(0, 0, 0), (23, 23, 0), by decide +kernel⟩,
   ⟨State.reset, { Sluice.empty with items := [item0] }, item0, by decide +kernel⟩,
   ⟨({ running with sluices := [(mesh0, { Sluice.empty with items := [item0] })] } : State), mesh0, item0,
     by decide +kernel⟩,
   ⟨({ running with sluices := [(mesh0, { Sluice.empty with items := [{ item0 with visible := true, delay := 0 }] })] }
     : State), (if mesh0.kind = .free then
     ({ running with sluices := [(mesh0, { Sluice.empty with items := [{ item0 with visible := true, delay := 0 }] })] }
     : State) else
     (({ running with sluices := [(mesh0, { Sluice.empty with items := [{ item0 with visible := true, delay := 0 }] })] }
     : State)).passWet ((Item.delay ({ item0 with visible := true, delay := 0 })) -
     (({ running with sluices := [(mesh0, { Sluice.empty with items := [{ item0 with visible := true, delay := 0 }] })] }
     : State)).itemAge mesh0 { item0 with visible := true, delay := 0 })), mesh0,
     { item0 with visible := true, delay := 0 }, ⟨by decide +kernel, by decide +kernel, rfl⟩⟩,
   ⟨inRegion .running, mesh0, region5 .running, by decide +kernel⟩,
   ⟨State.reset, by decide +kernel⟩,
   ⟨(running).modHal (fun y => { y with events := [.ratio 1 2 3] }), 1, 2, 3, [], by decide +kernel⟩,
   ⟨threaded, by decide +kernel⟩,
   ⟨State.reset, by decide +kernel⟩,
   ⟨(running).modHal (fun y => { y with resets := [(.tile 0, .running)] }),
     ({ (running).modHal (fun y => { y with resets := [(.tile 0, .running)] }) with hal := { ((running).modHal (fun y => { y with resets := [(.tile 0, .running)] })).hal with resets := [] } }
     : State), .tile 0, .running, [], ⟨by decide +kernel, rfl⟩⟩,
   ⟨.tile 0, mesh0, by decide +kernel⟩,
   ⟨2303, by decide +kernel⟩⟩

theorem witness_TheEpochAlignsTheJobCounts :
    (∃ (s : State), (s.running = false ∨ s.fab.partValid = false ∨ s.timed.started = true ∨ s.probesMayStart = false)) ∧
    (∃ (s : State), (s.power.contribution ≠ 0 ∨ s.power.applied ≠ 0 ∨ (∃ e ∈ s.power.agreements, ∃ k, e.2 = some k ∧ k
      ≠ 0))) ∧
    (∃ (s : State), (s.running = true) ∧ (s.fab.partValid = true) ∧ (s.timed.started = false) ∧ (s.probesMayStart =
      true)) ∧
    (∃ (s : State) (r : Region), (s.timed.region = some r) ∧ (r.stage = .ready) ∧ (r.logical = 0)) ∧
    (∃ (s : State), (s.timed.region = none)) ∧
    (∃ (s : State) (r : Region), (s.timed.region = some r) ∧ (r.logical ≠ 0)) ∧
    (∃ (s : State) (r : Region), (s.timed.region = some r)) ∧
    (∃ (s : State) (k : Word64) (r : Region), (s.timed.region = some r) ∧ (r.stage = .entry k) ∧ (s.running = true)) ∧
    (∃ (s : State), (s.timed.region = none ∨ s.running = false ∨ (∃ r, s.timed.region = some r ∧ ∀ k, r.stage ≠ .entry
      k))) :=
  ⟨⟨State.reset, by decide +kernel⟩,
   ⟨(State.reset).modPower (fun y => { y with minRatio := 1 }), Or.inl (by decide)⟩,
   ⟨(running).modFab (fun y => { y with partValid := true }), by decide +kernel⟩,
   ⟨inRegion .ready, region5 .ready, by decide +kernel⟩,
   ⟨State.reset, by decide +kernel⟩,
   ⟨(threaded).modTimed (fun y => { y with region := some { region5 .ready with logical := 1 } }),
     { region5 .ready with logical := 1 }, by decide +kernel⟩,
   ⟨inRegion .ready, region5 .ready, by decide +kernel⟩,
   ⟨inRegion (.entry 5), 5, region5 (.entry 5), by decide +kernel⟩,
   ⟨State.reset, Or.inl rfl⟩⟩

theorem witness_RegionsLaunchFetchAndEnd :
    (∃ (s : State) (s1 : State) (c : Nat) (q : Nat) (x : BitVec 512) (par : List Byte), (s.hal.reloading = false) ∧
      (s.accepts c q x 0x03 (some 2) [(448, 64)]) ∧ (s.readStruct c (bvFld x 384 64) 48 = (.ok par, s1))) ∧
    (∃ (s : State) (tile : Nat), (s.timed.region = none ∨ s.running = false ∨ (s.tile tile).flume.active = false ∨
      (s.tile tile).flume.fetchEnd = true ∨ 1024 ≤ (s.tile tile).flume.buf.length)) ∧
    (∃ (s : State) (u : State) (tile : Nat) (va : Nat) (r : Region) (x : Flume), (s.timed.region = some r) ∧
      (s.running = true) ∧ (tile ∈ r.tiles) ∧ (x = (s.tile tile).flume) ∧ (x.active = true) ∧ (x.fetchEnd = false) ∧
      (x.buf.length < 1024) ∧ (va = x.prog + 32 * x.fetchAt) ∧ (u = (if x.fetched < 1024 then s else s.waitWet
      x.fetchFrom))) ∧
    (∃ (s : State) (r : Region), (s.timed.region = some r)) ∧
    (∃ (s : State), (s.timed.region = none)) :=
  ⟨⟨queued 2 none, (queued 2 none).readStruct 5 (bvFld (3 : BitVec 512) 384 64) 48 |>.2, 5, 0, 3, okVal ((queued 2
     none).readStruct 5 (bvFld (3 : BitVec 512) 384 64) 48), ⟨by decide +kernel,
     by unfold State.accepts; decide +kernel, ok_eq _ (by decide +kernel)⟩⟩,
   ⟨State.reset, 0, by decide +kernel⟩,
   ⟨flumed 0 [], (if (((flumed 0 []).tile 0).flume).fetched < 1024 then flumed 0 [] else (flumed 0 []).waitWet
     (((flumed 0 []).tile 0).flume).fetchFrom), 0, (((flumed 0 []).tile 0).flume).prog + 32 * (((flumed 0 []).tile
     0).flume).fetchAt, region5 .running, ((flumed 0 []).tile 0).flume, ⟨by decide +kernel, by decide +kernel,
     by decide +kernel, rfl, by decide +kernel, by decide +kernel, by decide +kernel, rfl, rfl⟩⟩,
   ⟨inRegion .running, region5 .running, by decide +kernel⟩,
   ⟨State.reset, by decide +kernel⟩⟩

theorem witness_ProgramEntriesExecuteAtTheirTicks :
    (∃ (tile : Nat) (op : RowOp) (len : Nat) (src : Nat) (dst : Nat) (d : DmaSpec) (i : Instr) (k : Nat), ((i, k) ∈
      flumeEntries tile op len src dst d)) ∧
    (∃ (s : State) (r : Region), (s.timed.region = some r) ∧ ((s.ctx r.ctx).st = .resident) ∧ ((s.ctx r.ctx).fault =
      none)) ∧
    (∃ (s : State) (u : State) (tile : Nat) (pos : Nat) (e : BitVec 256) (x : Flume) (n : Entry), (x = (u.tile
      tile).flume) ∧ (n = (s.tile tile).flume.entryAt s.timed.wetOffset pos e)) ∧
    (∃ (s : State) (u : State) (tile : Nat) (pos : Nat) (r : Region) (e : BitVec 256) (n : Entry), (n = (s.tile
      tile).flume.entryAt s.timed.wetOffset pos e) ∧ (s.entryDue tile 5 r pos e u)) ∧
    (∃ (s : State) (u : State) (v : State) (tile : Nat) (pos : Nat) (r : Region) (e : BitVec 256) (n : Entry) (id :
      Option Nat), (n = (s.tile tile).flume.entryAt s.timed.wetOffset pos e) ∧ (s.entryDue tile 12 r pos e u) ∧
      (u.engineSignal .set (.region tile) r.ctx (eArg e) n.op0 0
      { faultOf .syncDenied 0 with tile := tile, where' := BitVec.ofNat 64 n.place } = (v, id))) ∧
    (∃ (s : State) (u : State) (tile : Nat) (pos : Nat) (r : Region) (e : BitVec 256) (n : Entry), (n = (s.tile
      tile).flume.entryAt s.timed.wetOffset pos e) ∧ (s.entryDue tile 13 r pos e u)) :=
  ⟨⟨0, .reduce .sum, 0, 0, 0, dma0, .flumeNop 0, 0, by simp [flumeEntries]⟩,
   ⟨inRegion .running, region5 .running, by decide +kernel⟩,
   ⟨flumed 0 [], flumed 0 [], 0, 0, entry0 0, ((flumed 0 []).tile 0).flume, ((flumed 0 []).tile 0).flume.entryAt
     (flumed 0 []).timed.wetOffset 0 (entry0 0), ⟨rfl, rfl⟩⟩,
   ⟨flumed 5 [], dueState (flumed 5 []) 0 (entry0 5), 0, 0, region5 .running, entry0 5, ((flumed 5 []).tile
     0).flume.entryAt (flumed 5 []).timed.wetOffset 0 (entry0 5), ⟨rfl, ⟨by decide +kernel, by decide +kernel,
     by decide +kernel, by decide +kernel, by decide +kernel, by decide +kernel, by decide +kernel, ⟨[],
     by decide +kernel⟩, by decide +kernel, by decide +kernel, by decide +kernel, rfl, by decide +kernel⟩⟩⟩,
   ⟨flumed 12 [], dueState (flumed 12 []) 0 (entry0 12), ((dueState (flumed 12 []) 0 (entry0 12)).engineSignal .set
     (.region 0) 5 (eArg (entry0 12)) (((flumed 12 []).tile 0).flume.entryAt (flumed 12 []).timed.wetOffset 0 (entry0
     12)).op0 0
     { faultOf .syncDenied 0 with tile := 0, where' := BitVec.ofNat 64 (((flumed 12 []).tile 0).flume.entryAt (flumed 12 []).timed.wetOffset 0 (entry0 12)).place }).1,
     0, 0, region5 .running, entry0 12, ((flumed 12 []).tile 0).flume.entryAt (flumed 12 []).timed.wetOffset 0 (entry0
     12), ((dueState (flumed 12 []) 0 (entry0 12)).engineSignal .set (.region 0) 5 (eArg (entry0 12)) (((flumed 12
     []).tile 0).flume.entryAt (flumed 12 []).timed.wetOffset 0 (entry0 12)).op0 0
     { faultOf .syncDenied 0 with tile := 0, where' := BitVec.ofNat 64 (((flumed 12 []).tile 0).flume.entryAt (flumed 12 []).timed.wetOffset 0 (entry0 12)).place }).2,
     ⟨rfl, ⟨by decide +kernel, by decide +kernel, by decide +kernel, by decide +kernel, by decide +kernel,
     by decide +kernel, by decide +kernel, ⟨[], by decide +kernel⟩, by decide +kernel, by decide +kernel,
     by decide +kernel, rfl, by decide +kernel⟩, rfl⟩⟩,
   ⟨flumed 13 [], dueState (flumed 13 []) 0 (entry0 13), 0, 0, region5 .running, entry0 13, ((flumed 13 []).tile
     0).flume.entryAt (flumed 13 []).timed.wetOffset 0 (entry0 13), ⟨rfl, ⟨by decide +kernel, by decide +kernel,
     by decide +kernel, by decide +kernel, by decide +kernel, by decide +kernel, by decide +kernel, ⟨[],
     by decide +kernel⟩, by decide +kernel, by decide +kernel, by decide +kernel, rfl, by decide +kernel⟩⟩⟩⟩

theorem witness_UnitEntriesUseEachUnitOnceATick :
    (∃ (s : State) (u : State) (tile : Nat) (pos : Nat) (len : Nat) (src : Nat) (dst : Nat) (k : Nat) (unit : Nat) (op
      : RowOp) (d : DmaSpec) (r : Region) (e : BitVec 256) (n : Entry) (i : Instr), ((i, k, unit) ∈ [(.flumeMatrix
      tile, 1, 0), (.flumeRow tile op len src dst, 2, 2), (.flumeDma tile d, 3, 1), (.flumeSend tile, 4, 3 + sendPort
      (eWord e))]) ∧ (n = (s.tile tile).flume.entryAt s.timed.wetOffset pos e) ∧ (s.entryDue tile k r pos e u) ∧
      ((u.tile tile).flume.clash unit n.tw = true)) ∧
    (∃ (s : State) (u : State) (v : State) (tile : Nat) (pos : Nat) (r : Region) (e : BitVec 256) (n : Entry) (c :
      MCmd), (n = (s.tile tile).flume.entryAt s.timed.wetOffset pos e) ∧ (s.entryDue tile 1 r pos e u) ∧ (v =
      u.modFlume tile (fun x => { x with units := 0 :: x.units })) ∧ (c = matrixEntry (u.tile tile).flume r n)) ∧
    (∃ (s : State) (u : State) (v : State) (tile : Nat) (pos : Nat) (r : Region) (e : BitVec 256) (n : Entry), (n =
      (s.tile tile).flume.entryAt s.timed.wetOffset pos e) ∧ (s.entryDue tile 2 r pos e u) ∧ (v = u.modFlume tile (fun
      x => { x with units := 2 :: x.units })) ∧ ((u.tile tile).flume.clash 2 n.tw = false)) ∧
    (∃ (s : State) (u : State) (v : State) (tile : Nat) (pos : Nat) (r : Region) (e : BitVec 256) (n : Entry), (n =
      (s.tile tile).flume.entryAt s.timed.wetOffset pos e) ∧ (s.entryDue tile 3 r pos e u) ∧ (v = u.modFlume tile (fun
      x => { x with units := 1 :: x.units })) ∧ ((u.tile tile).flume.clash 1 n.tw = false)) ∧
    (∃ (s : State) (u : State) (v : State) (tile : Nat) (pos : Nat) (p : Nat) (dst : Nat) (r : Region) (e : BitVec
      256) (n : Entry) (i : SluiceId) (b : List Byte), (n = (s.tile tile).flume.entryAt s.timed.wetOffset pos e) ∧
      (s.entryDue tile 4 r pos e u) ∧ (p = sendPort (eWord e)) ∧ (v = u.modFlume tile (fun x =>
      { x with units := (3 + p) :: x.units })) ∧ ((u.tile tile).flume.clash (3 + p) n.tw = false) ∧ (tile < 2304) ∧
      (dst = (if p = 31 then sendTile (eWord e) else 2440 + p)) ∧ ((p = 31 ∧ sendTile (eWord e) < 2304) ∨ p < 18) ∧ (i
      = ⟨.mesh, tile, dst, 0⟩) ∧ (b = u.scratchBytes tile ((u.tile tile).flume.base + n.op0.toNat) n.op1.toNat)) :=
  ⟨⟨flumed 1 [(0, 100)], dueState (flumed 1 [(0, 100)]) 0 (entry0 1), 0, 0, 0, 0, 0, 1, 0, .reduce .sum, dma0, region5
     .running, entry0 1, ((flumed 1 [(0, 100)]).tile 0).flume.entryAt (flumed 1 [(0, 100)]).timed.wetOffset 0 (entry0
     1), .flumeMatrix 0, ⟨by simp, rfl, ⟨by decide +kernel, by decide +kernel, by decide +kernel, by decide +kernel,
     by decide +kernel, by decide +kernel, by decide +kernel, ⟨[], by decide +kernel⟩, by decide +kernel,
     by decide +kernel, by decide +kernel, rfl, by decide +kernel⟩, by decide +kernel⟩⟩,
   ⟨flumed 1 [], dueState (flumed 1 []) 0 (entry0 1), (dueState (flumed 1 []) 0 (entry0 1)).modFlume 0 (fun x =>
     { x with units := 0 :: x.units }), 0, 0, region5 .running, entry0 1, ((flumed 1 []).tile 0).flume.entryAt (flumed
     1 []).timed.wetOffset 0 (entry0 1), matrixEntry ((dueState (flumed 1 []) 0 (entry0 1)).tile 0).flume (region5
     .running) (((flumed 1 []).tile 0).flume.entryAt (flumed 1 []).timed.wetOffset 0 (entry0 1)), ⟨rfl,
     ⟨by decide +kernel, by decide +kernel, by decide +kernel, by decide +kernel, by decide +kernel,
     by decide +kernel, by decide +kernel, ⟨[], by decide +kernel⟩, by decide +kernel, by decide +kernel,
     by decide +kernel, rfl, by decide +kernel⟩, rfl, rfl⟩⟩,
   ⟨flumed 2 [], dueState (flumed 2 []) 0 (entry0 2), (dueState (flumed 2 []) 0 (entry0 2)).modFlume 0 (fun x =>
     { x with units := 2 :: x.units }), 0, 0, region5 .running, entry0 2, ((flumed 2 []).tile 0).flume.entryAt (flumed
     2 []).timed.wetOffset 0 (entry0 2), ⟨rfl, ⟨by decide +kernel, by decide +kernel, by decide +kernel,
     by decide +kernel, by decide +kernel, by decide +kernel, by decide +kernel, ⟨[], by decide +kernel⟩,
     by decide +kernel, by decide +kernel, by decide +kernel, rfl, by decide +kernel⟩, rfl, by decide +kernel⟩⟩,
   ⟨flumed 3 [], dueState (flumed 3 []) 0 (entry0 3), (dueState (flumed 3 []) 0 (entry0 3)).modFlume 0 (fun x =>
     { x with units := 1 :: x.units }), 0, 0, region5 .running, entry0 3, ((flumed 3 []).tile 0).flume.entryAt (flumed
     3 []).timed.wetOffset 0 (entry0 3), ⟨rfl, ⟨by decide +kernel, by decide +kernel, by decide +kernel,
     by decide +kernel, by decide +kernel, by decide +kernel, by decide +kernel, ⟨[], by decide +kernel⟩,
     by decide +kernel, by decide +kernel, by decide +kernel, rfl, by decide +kernel⟩, rfl, by decide +kernel⟩⟩,
   ⟨flumed 4 [], dueState (flumed 4 []) 0 (entry0 4), (dueState (flumed 4 []) 0 (entry0 4)).modFlume 0 (fun x =>
     { x with units := (3 + 0) :: x.units }), 0, 0, 0, 2440, region5 .running, entry0 4, ((flumed 4 []).tile
     0).flume.entryAt (flumed 4 []).timed.wetOffset 0 (entry0 4), ⟨.mesh, 0, 2440, 0⟩, (dueState (flumed 4 []) 0
     (entry0 4)).scratchBytes 0 (((dueState (flumed 4 []) 0 (entry0 4)).tile 0).flume.base + (((flumed 4 []).tile
     0).flume.entryAt (flumed 4 []).timed.wetOffset 0 (entry0 4)).op0.toNat) (((flumed 4 []).tile 0).flume.entryAt
     (flumed 4 []).timed.wetOffset 0 (entry0 4)).op1.toNat, ⟨rfl, ⟨by decide +kernel, by decide +kernel,
     by decide +kernel, by decide +kernel, by decide +kernel, by decide +kernel, by decide +kernel, ⟨[],
     by decide +kernel⟩, by decide +kernel, by decide +kernel, by decide +kernel, rfl, by decide +kernel⟩,
     by decide +kernel, rfl, by decide +kernel, by decide +kernel, by decide +kernel, by decide +kernel, rfl, rfl⟩⟩⟩

theorem witness_IntakeJobsAreCheckedRunAndReported :
    (∃ (s : State) (c : Nat) (q : Nat) (k : Nat) (va : Nat) (x : BitVec 512), (s.accepts c q x 0x04 (some 3) [(260,
      252)]) ∧ (va = bvFld x 192 64) ∧ (k = bvFld x 256 4)) ∧
    (∃ (d : List Byte), (jobBad d = false)) ∧
    (∃ (j : Job) (rec : Nat) (a : _), (j.overlaps rec = false) ∧ (j.dst ≤ a) ∧ (a < j.dst + j.tensorLen)) ∧
    (∃ (s : State) (k : Nat), ((s.headworks k).job ≠ none ∨ s.intakeQueues k = [])) ∧
    (∃ (s : State) (u : State) (k : Nat) (c : Nat) (q : Nat) (d : List Byte), (q < 16) ∧ ((s.headworks k).job = none)
      ∧ (nextOf (s.headworks k).lastServed (s.intakeQueues k) = some (16 * c + q)) ∧ ((s.queue c q).intakeOf k = some
      d) ∧ (u = s.modHeadworks k (fun h => { h with job := some (c, q), lastServed := 16 * c + q }))) ∧
    (∃ (s : State) (c : Nat) (q : Nat), ((s.ctx c).st = .resident) ∧ ((s.ctx c).fault = none) ∧ ((s.queue c q).st =
      .running)) ∧
    (∃ (s : State) (k : Nat), ((s.headworks k).job = none)) ∧
    (∃ (s : State) (k : Nat) (c : Nat) (q : Nat), ((s.headworks k).job = some (c, q)) ∧ ((s.queue c q).intakeOf k =
      none)) ∧
    (∃ (s : State) (s1 : State) (s2 : State) (k : Nat) (c : Nat) (q : Nat) (n : Nat) (draw : Nat) (d : List Byte) (x :
      Plan) (bad : Bool), ((s.headworks k).job = some (c, q)) ∧ ((s.queue c q).intakeOf k = some d) ∧ (s.jobPlan c
      (jobOf d) = (.ok x, s1)) ∧ (draw = (if (jobOf d).shuffle then shuffleDraw (s1.ctx c).jobSeed (jobOf d).pool
      (jobOf d).poolN (jobOf d).drawPos else 0)) ∧ (s1.writePictures c (jobOf d) x draw = (n, bad, s2))) ∧
    (∃ (j : Job) (cand : Nat), (cand < 2 ^ 32) ∧ (j.matrix < 8)) :=
  ⟨⟨queued 3 none, 5, 0, 11, 0x100, 4 + 0x100 * 2 ^ 192 + 11 * 2 ^ 256, ⟨by unfold State.accepts; decide +kernel,
     by decide +kernel, by decide +kernel⟩⟩,
   ⟨jobBytes, by decide +kernel⟩,
   ⟨job1, 0x3000000, 0x1000000, by decide +kernel⟩,
   ⟨State.reset, 0, by decide +kernel⟩,
   ⟨queued 3 (some (.intake 0 [])), (queued 3 (some (.intake 0 []))).modHeadworks 0 (fun h =>
     { h with job := some (5, 0), lastServed := 16 * 5 + 0 }), 0, 5, 0, [], ⟨by decide +kernel, by decide +kernel,
     by decide +kernel, by decide +kernel, rfl⟩⟩,
   ⟨queued 3 none, 5, 0, by decide +kernel⟩,
   ⟨State.reset, 0, by decide +kernel⟩,
   ⟨(queued 3 none).modHeadworks 0 (fun h => { h with job := some (5, 0) }), 0, 5, 0, by decide +kernel⟩,
   ⟨(queued 3 (some (.intake 0 []))).modHeadworks 0 (fun h => { h with job := some (5, 0) }), (queued 3 (some (.intake
     0 []))).modHeadworks 0 (fun h => { h with job := some (5, 0) }), (((queued 3 (some (.intake 0 []))).modHeadworks
     0 (fun h => { h with job := some (5, 0) })).writePictures 5 (jobOf []) (planOf (jobOf []) []) 0).2.2, 0, 5, 0,
     (((queued 3 (some (.intake 0 []))).modHeadworks 0 (fun h => { h with job := some (5, 0) })).writePictures 5
     (jobOf []) (planOf (jobOf []) []) 0).1, 0, [], planOf (jobOf []) [], (((queued 3 (some (.intake 0
     []))).modHeadworks 0 (fun h => { h with job := some (5, 0) })).writePictures 5 (jobOf []) (planOf (jobOf []) [])
     0).2.1, ⟨by decide +kernel, by decide +kernel, rfl, by decide +kernel, rfl⟩⟩,
   ⟨jobOf [], 2 ^ 32 - 1, by decide +kernel⟩⟩

theorem witness_EachEpochDrawsEveryClipOnce :
    (∃ (n : Nat) (c : Nat), (1 ≤ n) ∧ (n ≤ 2 ^ 40) ∧ (c < n)) ∧
    (∃ (n : Nat), (1 ≤ n) ∧ (n ≤ 2 ^ 40)) :=
  ⟨⟨2 ^ 40, 2 ^ 40 - 1, by decide +kernel⟩,
   ⟨2 ^ 40, by decide +kernel⟩⟩

/-! ## Ill-formed terms

One term for each check of `Instr.wf`, which the check refuses; and terms that it takes. -/

/-- A memory term with 31 addresses, a part of no bytes, and a head with a route that R252 does not have. -/
def lanes31 : LaneMem := ⟨w7, 4, List.replicate 31 0⟩
def headBad : FabHead := ⟨2, 1, 3, 0⟩
def fabHead : FabHead := ⟨2, 1, 0, 0⟩

theorem test_ill_formed_places :
    [Instr.gaugeExportGo 64, .blockStart 2304, .acquire 0 16 w7, .slotGiveUp 4096, .descriptorCompletion 0 16,
     .islandUnlocked 2460, .analogComparatorTrip 4, .droopReport 0 32, .intakeJobStart 12, .channelReplacement 384,
     .patrolScrub 0 0 4 false false, .readyMessage 65536, .linkSignalLoss 18, .tileDmaCompletion 0 16,
     .cisternEviction 4 0, .cisternEviction 0 8192, .msixUnmask 0 2048].all (fun i => !i.wf) = true := by decide +kernel

theorem test_ill_formed_values :
    [Instr.multicastGroupDefinition head1 4096 [], .multicastGroupDefinition head1 0 (List.replicate 65 0),
     .fabricAcknowledgement 0 3 0 .plain, .fabricIdentityAssignment head1 0 128, .frameRetry 0 18,
     .agreementReceipt 0 61, .epochProbe 0 0 0 0 ⟨0, [0, 0, 61]⟩, .levelReq 4, .fabricLoad fabHead (2 ^ 40) 4, .fabricLoad fabHead 0 129,
     .fabricLoad headBad 0 4, .fabricStore fabHead 0 [], .reductionLine fabHead 0 0 0 [1],
     .cisternFillCompletion 0 0 [none], .atsInvalidation (2 ^ 20) 0 0, .getCertificate 8].all (fun i => !i.wf) = true := by
  decide +kernel

theorem test_ill_formed_records :
    [Instr.getMeasurements 256 false 0, .syncFree 0 0 65536, .syncMapSet 0 0 65536 0,
     .partitionAssignment head1 0 [] [] false 0 [(18, 0)],
     .partitionAssignment head1 0 [] (List.replicate 129 0) false 0 [], .sluiceSend mesh0 false [] (some (2304, 0)), .sluiceSend mesh0 false (List.replicate 257 0) none,
     .sluiceRelease ⟨.mesh, 2460, 0, 0⟩, .scratchLoad 0 0 lanes31, .tileDmaStart 0 0 { dma0 with compress := 4 },
     .resetGroupRequest (.tile 2304) false, .controlPeriodBoundary Readings.none, .diagnosticsRequest (.tile 4 0 0),
     .portTraining 0 ⟨true, 0, 0, 0, 1, 0, 0, 3⟩, .pldmSensorRead (.link 18), .ageingMeasurement [0],
     .pathTableReweight (List.replicate 17 0)].all (fun i => !i.wf) = true := by decide +kernel

theorem test_well_formed :
    [Instr.blockStart 2303, .scratchLoad 2303 15 lanes4, .tileDmaStart 0 0 dma0, .fabricLoad fabHead 0 128,
     .portTraining 17 ⟨true, 0, 0, 0, 1, 0, 0, 2⟩, .msixUnmask 63 2047, .agreementReceipt 0 60].all Instr.wf = true := by
  decide

/-- No row of the table gives bits, so no word spells a command. -/
theorem test_no_word_is_a_command : decodeTableWord 64 0xE00000 = none := rfl

/-! ## Worked examples of the spec -/

/-- 04_matrix_array.md, "placing one element". -/
theorem test_diagonal_address : diagAddr false 0x4000 37 10 = 0x495E := by decide

/-- 05_number_formats_and_arithmetic.md, "cancellation in a ZF8a group": the group result is +0.0. -/
theorem test_group_cancellation :
    groupSum ([(zf8a.value 0x7E).mul (zf8a.value 0x7E), (zf8a.value 0x7E).mul (zf8a.value 0xFE),
      (zf8a.value 8).mul (zf8a.value 8)] ++ List.replicate 29 ((zf8a.value 0).mul (zf8a.value 0))) 0 = 0 := by
  decide +kernel

/-- 05_number_formats_and_arithmetic.md, "a stochastic ZF8a drain": the four codes. -/
theorem test_stochastic_drain :
    [zf8a.round (.sr 0x3A91) (.fin false 33 (-5)), zf8a.round (.sr 0xD20C) (.fin false 33 (-5)),
      zf8a.round (.sr 0x8F77) (.fin false 3 (-10)), zf8a.round (.sr 0xC000) (.fin true 33 (-5))] =
    [0x38, 0x39, 0x02, 0xB9] := by decide +kernel

/-- 07_memory_stacks_and_caches.md, "placing one address". -/
theorem test_placing_an_address : locateInterleaved 0x67890100 = (141, 4523520) := by decide +kernel

/-- 02_islands_ticks_and_sluices.md, "a path after repair": 30 wet ticks. -/
theorem test_path_release : meshDelay 1457 1480 = 30 := by decide +kernel

/-- 09_fabric_and_links.md, "one lossy block of binary32": 3.0 stays, 0.7 arrives as 0.75. -/
theorem test_lossy_block :
    lossyBlock f32 (fun _ => 0) [0x40400000, 0x3F333333] = [0x40400000, 0x3F400000] := by decide +kernel

/-- R408: 16 of 64 ticks are dry at a weir of 16/64: the first of every four. -/
theorem test_dry_ticks : (List.range 64).filter (dryTick 16) = (List.range 16).map (fun i => 4 * i) := by decide +kernel

/-! ## One step of a few commands -/

/-- The field of the next state, if there is one. -/
def after {α : Type} (o : Host.Outcome State Fault Refusal) (f : State → α) : Option α :=
  match o with
  | .next t => some (f t)
  | _ => none

/-- The queue's front runs, and its rest stays. -/
theorem test_queue_front :
    after (Machine.step { State.reset with pending := [.getCertificate 0, .tapReset] }) (fun t => t.pending) =
      some [.tapReset] := by decide +kernel

/-- R64: ADD of a scalar register with itself, which wraps at 64 bits. -/
theorem test_scalar_add_wraps :
    after (exec (.scalarControl 0 0 .add (wordOf 0 0 0 64 64 0 0)) (threadedBy { group0 with s := [(0, 0x8000000000000003)] }))
      (fun t => ((t.tile 0).groups.map (fun g => g.2.map (fun x => x.sreg 0)))) = some [some 6] := by decide +kernel

/-- R422: a trip takes the rails down, until PWR_EN is cycled. -/
theorem test_analog_trip :
    after (exec (.analogComparatorTrip 0) running) (fun t => (t.mod.state, t.mod.comparator, t.mod.pg)) =
      some (.aux, true, false) := by decide +kernel

end Sys2Proof.Tests
end

section
/-! What a write does to each field of a register (R13), bit by bit. -/

namespace Sys2Proof.Machine

theorem bit_fld (x lo w i : Nat) : bit (fld x lo w) i = (decide (i < w) && bit x (lo + i)) := by
  simp [bit, fld, Nat.testBit_div_two_pow, Nat.add_comm]

theorem bit_mod (x n i : Nat) : bit (x % 2 ^ n) i = (decide (i < n) && bit x i) := by
  simp [bit]

theorem bit_of_lt {x n i : Nat} (hx : x < 2 ^ n) (hi : n ≤ i) : bit x i = false :=
  Nat.testBit_lt_two_pow (hx.trans_le (Nat.pow_le_pow_right (by decide) hi))

theorem eq_of_bits {x y : Nat} (h : ∀ i, bit x i = bit y i) : x = y := Nat.eq_of_testBit_eq h

/-- A field set: what lay below it and above it stays. -/
theorem Fld.put_eq (f : Fld) (v x : Nat) :
    f.put v x = 2 ^ f.lo * (2 ^ f.w * (v / 2 ^ (f.lo + f.w)) + x % 2 ^ f.w) + v % 2 ^ f.lo := by
  have hv : v = v / 2 ^ f.lo % 2 ^ f.w * 2 ^ f.lo +
      (2 ^ f.lo * (2 ^ f.w * (v / 2 ^ (f.lo + f.w))) + v % 2 ^ f.lo) := by
    conv_lhs => rw [← Nat.div_add_mod v (2 ^ f.lo), ← Nat.div_add_mod (v / 2 ^ f.lo) (2 ^ f.w),
      Nat.div_div_eq_div_mul, ← pow_add]
    ring
  unfold Fld.put Fld.get fld
  conv_lhs => rw [show v - v / 2 ^ f.lo % 2 ^ f.w * 2 ^ f.lo =
    2 ^ f.lo * (2 ^ f.w * (v / 2 ^ (f.lo + f.w))) + v % 2 ^ f.lo by omega]
  ring

theorem Fld.bit_put (f : Fld) (v x i : Nat) :
    bit (f.put v x) i = if f.lo ≤ i ∧ i < f.lo + f.w then bit x (i - f.lo) else bit v i := by
  unfold bit
  rw [f.put_eq, Nat.testBit_two_pow_mul_add _ (Nat.mod_lt _ (Nat.two_pow_pos _)),
    Nat.testBit_two_pow_mul_add _ (Nat.mod_lt _ (Nat.two_pow_pos _))]
  by_cases h1 : i < f.lo
  · simp [h1, Nat.not_le.mpr h1]
  · by_cases h2 : i < f.lo + f.w
    · have : i - f.lo < f.w := by omega
      simp [h1, h2, this, Nat.not_lt.mp h1]
    · have h3 : ¬ i - f.lo < f.w := by omega
      have h4 : i - f.lo - f.w + (f.lo + f.w) = i := by omega
      simp [h1, h2, h3, Nat.testBit_div_two_pow, h4]

/-- Two fields share no bit. -/
def Fld.apart (f g : Fld) : Prop := f.lo + f.w ≤ g.lo ∨ g.lo + g.w ≤ f.lo

/-- A write changes no bit that lies in none of the fields. -/
theorem bit_writeFields_outside (mask v old i : Nat) (fs : List Fld) :
    ∀ a, (∀ f ∈ fs, ¬ (f.lo ≤ i ∧ i < f.lo + f.w)) →
      bit (fs.foldl (fun a f => if f.within mask then f.put a (f.written v old) else a) a) i = bit a i := by
  induction fs with
  | nil => intro a _; rfl
  | cons f r ih =>
    intro a h
    obtain ⟨hf, hr⟩ := List.forall_mem_cons.mp h
    rw [List.foldl_cons, ih _ hr]
    split
    · rw [f.bit_put, if_neg hf]
    · rfl

/-- R13: a bit of a field after a write. -/
theorem bit_writeFields {fs : List Fld} (hfs : fs.Pairwise Fld.apart) {f : Fld} (hf : f ∈ fs) {i : Nat} (hi : i < f.w)
    (mask v old : Nat) : bit (writeFields fs mask v old) (f.lo + i) =
      if f.within mask then bit (f.written v old) i else bit old (f.lo + i) := by
  unfold writeFields
  suffices h : ∀ a, bit a (f.lo + i) = bit old (f.lo + i) →
      bit (fs.foldl (fun a f => if f.within mask then f.put a (f.written v old) else a) a) (f.lo + i) =
        if f.within mask then bit (f.written v old) i else bit old (f.lo + i) from h old rfl
  induction fs with
  | nil => cases hf
  | cons g r ih =>
    intro a ha
    obtain ⟨hg, hr⟩ := List.pairwise_cons.mp hfs
    rw [List.foldl_cons]
    rcases List.mem_cons.mp hf with rfl | hf
    · rw [bit_writeFields_outside _ _ _ _ _ _ (fun g' hg' => by
        have h := hg g' hg'
        unfold Fld.apart at h
        omega)]
      split
      · rw [f.bit_put, if_pos (by omega), Nat.add_sub_cancel_left]
      · exact ha
    · refine ih hr hf _ ?_
      split
      · have h := hg f hf
        unfold Fld.apart at h
        rw [g.bit_put, if_neg (by omega), ha]
      · exact ha

/-! ## Sums of bits -/

/-- The number whose bits below `w` are those a predicate picks. -/
def bitSum (p : Nat → Bool) (w : Nat) : Nat := (List.range w).foldl (fun a i => if p i then a + 2 ^ i else a) 0

theorem bitSum_succ (p : Nat → Bool) (w : Nat) : bitSum p (w + 1) = if p w then bitSum p w + 2 ^ w else bitSum p w := by
  simp [bitSum, List.range_succ]

theorem bitSum_lt (p : Nat → Bool) (w : Nat) : bitSum p w < 2 ^ w := by
  induction w with
  | zero => simp [bitSum]
  | succ w ih =>
    rw [bitSum_succ, pow_succ]
    split <;> omega

theorem bit_bitSum (p : Nat → Bool) (w i : Nat) : bit (bitSum p w) i = (decide (i < w) && p i) := by
  induction w with
  | zero => simp [bitSum, bit]
  | succ w ih =>
    rw [bitSum_succ]
    rcases Nat.lt_trichotomy i w with h | h | h
    · have h' : i < w + 1 := by omega
      simp only [h, decide_true, Bool.true_and] at ih
      split
      · rw [bit, Nat.add_comm, Nat.testBit_two_pow_add_gt h, ← bit, ih]
        simp [h']
      · rw [ih]
        simp [h']
    · subst h
      have hz : bit (bitSum p i) i = false := bit_of_lt (bitSum_lt p i) le_rfl
      split
      · next hp => rw [bit, Nat.add_comm, Nat.testBit_two_pow_add_eq, ← bit, hz]; simp [hp]
      · next hp => rw [hz]; simp [hp]
    · have h' : ¬ i < w + 1 := by omega
      have hlt := bitSum_lt p w
      simp only [h', decide_false, Bool.false_and]
      refine bit_of_lt (n := w + 1) ?_ (by omega)
      rw [pow_succ]
      split <;> omega

/-! ## Fields after a write, by access code -/

theorem Fld.written_w1c {f : Fld} (h : f.acc = .w1c) (v old : Nat) :
    f.written v old = bitSum (fun i => bit (f.get old) i && !bit (f.get v) i) f.w := by
  unfold Fld.written
  rw [h]
  rfl

/-- R13: what a write leaves in a field fits it. -/
theorem Fld.written_lt (f : Fld) (v old : Nat) : f.written v old < 2 ^ f.w := by
  have hget : ∀ x, f.get x < 2 ^ f.w := fun x => Nat.mod_lt _ (Nat.two_pow_pos _)
  rcases hacc : f.acc
  case w1c => rw [Fld.written_w1c hacc]; exact bitSum_lt _ _
  case w1s => simpa only [Fld.written, hacc] using Nat.or_lt_two_pow (hget old) (hget v)
  all_goals simp only [Fld.written, hacc, hget]

/-- R13: a field after a write. -/
theorem get_writeFields {fs : List Fld} (hfs : fs.Pairwise Fld.apart) {f : Fld} (hf : f ∈ fs) (mask v old : Nat) :
    f.get (writeFields fs mask v old) = if f.within mask then f.written v old else f.get old := by
  refine eq_of_bits (fun i => ?_)
  rw [Fld.get, bit_fld]
  by_cases hi : i < f.w
  · rw [bit_writeFields hfs hf hi]
    split <;> simp [Fld.get, bit_fld, hi]
  · split
    · simp [hi, bit_of_lt (f.written_lt v old) (Nat.not_lt.mp hi)]
    · simp [hi, Fld.get, bit_fld]

end Sys2Proof.Machine
end

section
/-! REGISTER_WRITE (R13, R469 to R471, R476): which access reaches which register, and what each block's fields do. -/

namespace Sys2Proof.Machine

theorem exec_registerWrite (f off n : Nat) (v : Word64) (s : State) :
    exec (.registerWrite f off n v) s = execRegisterWrite f off n v s := rfl

theorem Reg.fields_apart (r : Reg) : r.fields.Pairwise Fld.apart := by
  cases r <;> simp [Reg.fields, ro, rw, w1c, wo, Fld.apart]

/-- R470: no field of a 32-bit register spans bit 32. -/
theorem spanMask_of_width {r : Reg} (h : r.width = 32) : spanMask r.fields = 0 := by
  cases r <;> simp [Reg.width] at h <;> rfl

/-- R13: a register of read-only fields takes no write. -/
theorem commitReg_readOnly {r : Reg} (h : ∀ f ∈ r.fields, f.acc = .ro) (s : State) (fn mask new old acts v : Nat) :
    s.commitReg fn r mask new old acts v = s := by
  cases r <;> simp [Reg.fields, ro, rw, w1c, wo] at h <;> rfl

theorem regAt_lt {a : Nat} {x : Reg × Nat} (h : regAt a = some x) : a < 0x1400000 := by
  by_contra hlt
  have hb : 0x140 ≤ a / 65536 := by omega
  unfold regAt at h
  dsimp only at h
  split at h
  · cases h
  · split at h
    iterate 11 · next hk => omega
    · split at h
      · next hk => omega
      · cases h

theorem regAt_aligned {a : Nat} {x : Reg × Nat} (h : regAt a = some x) : a % 4 = 0 := by
  by_contra hne
  simp [regAt, hne] at h

theorem bar0Write_reg {a : Nat} {x : Reg × Nat} (hreg : regAt a = some x) (hf : foreignBlock 0 a = false) (s : State)
    (n : Nat) (v : Word64) : s.bar0Write 0 a n v = s.busWrite 0 a n v.toNat := by
  have hlt := regAt_lt hreg
  have hw : ¬ fwWindowBase ≤ a := by unfold fwWindowBase; omega
  simp only [State.bar0Write, inWindow, hw, hf, decide_false, Bool.false_and, Bool.false_eq_true, if_false]

/-! ## An access that a running device decodes -/

section
variable {s : State} (hen : (s.fn 0).enabled = true) (hup : s.mod.hostUp = true) (hrel : s.hal.reloading = false)
include hen hup hrel

/-- R469, R471: an aligned access to a decoded offset of the PF is the bus write. -/
theorem exec_registerWrite_decoded {a n : Nat} (v : Word64) (hn : n = 4 ∨ n = 8) (ha : a % n = 0) (hlt : a < 2 ^ 26)
    (hopen : s.bar0Open a = true) : exec (.registerWrite 0 a n v) s = .next (s.bar0Write 0 a n v) := by
  have hsize : ¬ ((n ≠ 4 ∧ n ≠ 8) ∨ a % n ≠ 0) := by omega
  have hbus : busAddr 0 a = some a := by rw [busAddr, if_pos rfl, if_pos hlt]
  rw [exec_registerWrite]
  unfold execRegisterWrite doRegisterWrite
  simp only [hen, hup, hsize, hbus, hopen, hrel]
  simp

/-- The firmware window is decoded before an image is accepted, too (R471). -/
theorem exec_registerWrite_window {a : Nat} (hlo : 0x3800000 ≤ a) (hhi : a + 8 ≤ 0x4000000) (ha : a % 8 = 0) (v : Word64) :
    exec (.registerWrite 0 a 8 v) s = .next (s.modSec (fun x =>
      { x with fwWindow := tabWrite x.fwWindow 0 (a - 0x3800000) (leBytes 8 v.toNat) })) := by
  have hin : inWindow a = true := by
    rw [inWindow, decide_eq_true (by unfold fwWindowBase; omega), decide_eq_true (by unfold fwWindowBase; omega)]
    rfl
  rw [exec_registerWrite_decoded hen hup hrel v (.inr rfl) ha (by omega) (by simp [State.bar0Open, hin]),
    State.bar0Write, if_pos hin]
  rfl

variable (hrun : s.sec.running ≠ none)
include hrun

/-- R470: four bytes written to a 32-bit register of the PF. -/
theorem exec_registerWrite_four {a : Nat} {r : Reg} (hreg : regAt a = some (r, 0)) (hf : foreignBlock 0 a = false)
    (hw : r.width = 32) (v : Word64) :
    exec (.registerWrite 0 a 4 v) s = .next ((s.dropHalf 0).writeReg 0 r lowMask (v.toNat % 2 ^ 32)) := by
  have hlt := regAt_lt hreg
  rw [exec_registerWrite_decoded hen hup hrel v (.inl rfl) (regAt_aligned hreg) (by omega)
    (by simp [State.bar0Open, Option.isSome_iff_ne_none.mpr hrun]), bar0Write_reg hreg hf]
  simp [State.busWrite, State.write4, hreg, spanMask_of_width hw]

/-- R470: eight bytes written to a 64-bit register of the PF. -/
theorem exec_registerWrite_eight {a : Nat} {r : Reg} (hreg : regAt a = some (r, 0)) (hf : foreignBlock 0 a = false)
    (hw : r.width = 64) (ha : a % 8 = 0) (v : Word64) :
    exec (.registerWrite 0 a 8 v) s = .next ((s.dropHalf 0).writeReg 0 r (lowMask + highMask) v.toNat) := by
  have hlt := regAt_lt hreg
  rw [exec_registerWrite_decoded hen hup hrel v (.inr rfl) ha (by omega)
    (by simp [State.bar0Open, Option.isSome_iff_ne_none.mpr hrun]), bar0Write_reg hreg hf]
  simp [State.busWrite, hreg, hw]

end

/-! ## The fields of a register that four bytes write -/

/-- R470: a field below bit 32 lies within the lower half. -/
theorem Fld.within_low {f : Fld} (h : f.lo + f.w ≤ 32) : f.within lowMask = true := by
  have hlt : f.mask < 2 ^ 32 := by
    calc f.mask < 2 ^ f.w * 2 ^ f.lo := Nat.mul_lt_mul_of_pos_right (Nat.sub_lt (Nat.two_pow_pos _) one_pos) (Nat.two_pow_pos _)
      _ = 2 ^ (f.lo + f.w) := by rw [pow_add, Nat.mul_comm]
      _ ≤ 2 ^ 32 := Nat.pow_le_pow_right (by decide) h
  simp only [Fld.within, lowMask, Nat.and_two_pow_sub_one_eq_mod, Nat.mod_eq_of_lt hlt, beq_self_eq_true]

section
variable {r : Reg} {lo w i : Nat} {v : Word64} {old : Nat}

theorem fld_write_rw {mask x : Nat} (h : rw lo w ∈ r.fields) (hm : (rw lo w).within mask = true) :
    fld (writeFields r.fields mask x old) lo w = fld x lo w := by
  have hg := get_writeFields r.fields_apart h mask x old
  rw [if_pos hm] at hg
  exact hg

theorem fld_write4 (h : rw lo w ∈ r.fields) (hb : lo + w ≤ 32) :
    fld (writeFields r.fields lowMask (v.toNat % 2 ^ 32) old) lo w = bvFld v lo w := by
  rw [fld_write_rw h (Fld.within_low hb)]
  refine eq_of_bits (fun i => ?_)
  rw [bvFld, bit_fld, bit_fld, bit_mod]
  by_cases hi : i < w
  · have : lo + i < 32 := by omega
    simp [this]
  · simp [hi]

/-- R13: a bit written 1 of a W1C field clears. -/
theorem bit_write4_w1c (h : w1c lo w ∈ r.fields) (hb : lo + w ≤ 32) (hi : i < w) :
    bit (writeFields r.fields lowMask (v.toNat % 2 ^ 32) old) (lo + i) = (bit old (lo + i) && !v.getLsbD (lo + i)) := by
  have h32 : lo + i < 32 := by omega
  have hbit := bit_writeFields r.fields_apart h hi lowMask (v.toNat % 2 ^ 32) old
  rw [if_pos (Fld.within_low hb), Fld.written_w1c rfl, bit_bitSum] at hbit
  refine hbit.trans ?_
  have hv : bit v.toNat (lo + i) = v.getLsbD (lo + i) := rfl
  simp only [w1c, Fld.get, bit_fld, bit_mod, hi, h32, hv, decide_true, Bool.true_and]

theorem flag_write4_w1c (h : w1c i 1 ∈ r.fields) (hb : i + 1 ≤ 32) :
    bit (writeFields r.fields lowMask (v.toNat % 2 ^ 32) old) i = (bit old i && !v.getLsbD i) :=
  bit_write4_w1c (i := 0) h hb one_pos

theorem flag_write4_rw (h : rw i 1 ∈ r.fields) (hb : i + 1 ≤ 32) :
    bit (writeFields r.fields lowMask (v.toNat % 2 ^ 32) old) i = v.getLsbD i := by
  have h32 : i < 32 := by omega
  have hv : bit v.toNat i = v.getLsbD i := rfl
  have hbit := bit_writeFields (i := 0) r.fields_apart h one_pos lowMask (v.toNat % 2 ^ 32) old
  rw [if_pos (Fld.within_low hb)] at hbit
  refine hbit.trans ?_
  simp only [Fld.written, rw, Fld.get, bit_fld, bit_mod, Nat.add_zero, h32, hv, zero_lt_one, decide_true, Bool.true_and]

end

end Sys2Proof.Machine
end

section
/-! REGISTER_WRITE, block by block: the registers whose tables R222, R307, R376, R406, R429 and R481 to R488 give. -/

namespace Sys2Proof.Machine

/-! ## What the written content depends on -/

theorem bit_packed_memLayout {a b : Nat} (ha : a < 256) (hb : b < 256) (c : Bool) :
    bit (packed [(0, a), (8, b), flagAt 16 c]) 16 = c := by
  rw [bit, Nat.testBit_eq_decide_div_mod_eq]
  cases c <;> simp [packed, flagAt, ofBool] <;> omega

theorem bit_packed_hdwkCtl (a b c : Bool) : bit (packed [flagAt 0 a, flagAt 1 b, flagAt 2 c]) 2 = c := by
  cases a <;> cases b <;> cases c <;> rfl

theorem fld_one_of_clear {x i : Nat} (h : bit x i = false) : fld x i 1 = 0 := by
  simp only [bit, Nat.testBit_eq_decide_div_mod_eq, decide_eq_false_iff_not] at h
  simp only [fld, pow_one]
  omega

/-- R222: with KEEP_CLEAR 0 no action is asked for. -/
theorem writeActions_cacheCtl {x : Nat} (h : bit x 6 = false) : bit (writeActions Reg.cacheCtl.fields lowMask x) 6 = false := by
  have hzero : writeActions Reg.cacheCtl.fields lowMask x = 0 := by
    simp [writeActions, Reg.fields, rw, ro, w1c, wo, Fld.get, fld_one_of_clear h]
  rw [hzero]
  rfl

/-- R488: the bits of one word of a bitmap are its members. -/
theorem bit_wordOf (l : List Nat) (i : Nat) {j : Nat} (hj : j < 32) : bit (wordOf l i) j = l.elem (32 * i + j) := by
  have h : wordOf l i = bitSum (fun b => l.elem (32 * i + b)) 32 := by
    rw [wordOf, List.foldl_filter]
    rfl
  rw [h, bit_bitSum, decide_eq_true hj, Bool.true_and]

theorem rows_at {w n i : Nat} (hw : 0 < w) (hi : i < n) (base : Nat) (r : Nat → Reg) :
    rows (base + w * i) base w n r = some (r i, 0) := by
  have hlt : base + w * i < base + w * n := Nat.add_lt_add_left (Nat.mul_lt_mul_of_pos_left hi hw) base
  rw [rows, if_pos ⟨Nat.le_add_right _ _, hlt⟩, Nat.add_sub_cancel_left, Nat.mul_div_cancel_left i hw, Nat.mul_mod_right,
    Nat.zero_mul]

theorem rows_above {o base w n : Nat} (h : base + w * n ≤ o) (r : Nat → Reg) : rows o base w n r = none :=
  if_neg (by omega)

theorem half64_above {o base : Nat} (h : base + 8 ≤ o) (r : Reg) : half64 o base r = none := by
  rw [half64, if_neg (by omega), if_neg (by omega)]

theorem regAt_hdwkCtl {k : Nat} (hk : k < 12) : regAt (0xA0000 + 4 * k) = some (.hdwkCtl k, 0) := by
  have h4 : (0xA0000 + 4 * k) % 4 = 0 := by omega
  have hb : (0xA0000 + 4 * k) / 65536 = 10 := by omega
  have ho : (0xA0000 + 4 * k) % 65536 = 0 + 4 * k := by omega
  have hreg : hdwkReg (0 + 4 * k) = some (.hdwkCtl k, 0) := by
    rw [hdwkReg, rows_at (by decide) hk]
    rfl
  simp only [regAt, h4, hb, ho, hreg, ne_eq, not_true_eq_false, if_false]

theorem regAt_fnFaultPending {i : Nat} (hi : i < 128) : regAt (0x1000200 + 4 * i) = some (.fnFaultPending 0 i, 0) := by
  have h4 : (0x1000200 + 4 * i) % 4 = 0 := by omega
  have hb : (0x1000200 + 4 * i) / 65536 = 0x100 := by omega
  have ho : (0x1000200 + 4 * i) % 65536 = 0x200 + 4 * i := by omega
  have hreg : fnReg 0 (0x200 + 4 * i) = some (.fnFaultPending 0 i, 0) := by
    unfold fnReg
    simp (disch := omega) only [half64_above, rows_above, if_true]
    rw [rows_at (by decide) hi]
    rfl
  simp only [regAt, h4, hb, ho, ne_eq, not_true_eq_false, if_false]
  exact hreg

theorem foreignBlock_low {a : Nat} (h : a < 0x1010000) : foreignBlock 0 a = false := by
  simp [foreignBlock, Nat.not_le.mpr h]

/-- R418: a cap from 900 W to 2,800 W is stored. -/
theorem doHostCapWrite_inRange {s : State} {w : Nat} (h : 900 ≤ w ∧ w ≤ 2800) :
    doHostCapWrite w s = s.modPower (fun p => { p with hostCap := w }) :=
  if_pos (by rw [capInRange, decide_eq_true h.1, decide_eq_true h.2]; rfl)

/-- R418, R430: another sets CAP_REJECTED. -/
theorem doHostCapWrite_refused {s : State} {w : Nat} (h : w < 900 ∨ 2800 < w) :
    doHostCapWrite w s = s.modPower (fun p => { p with capRejected := true }) := by
  refine if_neg ?_
  simp only [capInRange, Bool.and_eq_true, decide_eq_true_eq]
  omega

/-! ## One register after another, on a running device -/

section
variable {s : State} (hen : (s.fn 0).enabled = true) (hup : s.mod.hostUp = true) (hrel : s.hal.reloading = false)
  (hrun : s.sec.running ≠ none) (v : Word64)
include hen hup hrel hrun

/-- R13: a register of read-only fields takes no write. -/
theorem exec_registerWrite_readOnly_eight {a : Nat} {r : Reg} (hreg : regAt a = some (r, 0)) (hf : foreignBlock 0 a = false)
    (hro : ∀ f ∈ r.fields, f.acc = .ro) (hw : r.width = 64) (ha : a % 8 = 0) :
    exec (.registerWrite 0 a 8 v) s = .next (s.dropHalf 0) := by
  rw [exec_registerWrite_eight hen hup hrel hrun hreg hf hw ha, State.writeReg, commitReg_readOnly hro]

theorem exec_registerWrite_readOnly_four {a : Nat} {r : Reg} (hreg : regAt a = some (r, 0)) (hf : foreignBlock 0 a = false)
    (hro : ∀ f ∈ r.fields, f.acc = .ro) (hw : r.width = 32) :
    exec (.registerWrite 0 a 4 v) s = .next (s.dropHalf 0) := by
  rw [exec_registerWrite_four hen hup hrel hrun hreg hf hw, State.writeReg, commitReg_readOnly hro]

/-- R481: DEV_ALERT's bits written 1 clear. -/
theorem exec_registerWrite_devAlert : exec (.registerWrite 0 0xC 4 v) s =
    .next ((s.dropHalf 0).modHal (fun h => { h with devAlert := h.devAlert &&& ~~~(v.setWidth 7) })) := by
  rw [exec_registerWrite_four hen hup hrel hrun (r := .devAlert) rfl rfl rfl]
  have hnew : ∀ d : BitVec 7, BitVec.ofNat 7 (writeFields Reg.devAlert.fields lowMask (v.toNat % 2 ^ 32) d.toNat) =
      d &&& ~~~(v.setWidth 7) := fun d => by
    refine BitVec.eq_of_getLsbD_eq (fun i hi => ?_)
    have hbit := bit_write4_w1c (r := .devAlert) (lo := 0) (w := 7) (v := v) (old := d.toNat) (by decide) (by decide) hi
    rw [Nat.zero_add] at hbit
    simp only [BitVec.getLsbD_ofNat, BitVec.getLsbD_and, BitVec.getLsbD_not, BitVec.getLsbD_setWidth, hi, decide_true,
      Bool.true_and]
    exact hbit
  exact congrArg (fun d => Host.Outcome.next ((s.dropHalf 0).modHal (fun h => { h with devAlert := d }))) (hnew s.hal.devAlert)

/-- R221: a layout in range is stored. -/
theorem exec_registerWrite_memLayout (hs : s.stackLocal < 256) (hl : s.localActive < 256) (hv : v.toNat % 256 ≤ 128)
    (h16 : v.getLsbD 16 = false) :
    exec (.registerWrite 0 0x30000 4 v) s = .next { s.dropHalf 0 with stackLocal := v.toNat % 256 } := by
  rw [exec_registerWrite_four hen hup hrel hrun (r := .memLayout) rfl rfl rfl]
  have hfld : bvFld v 0 8 = v.toNat % 256 := by simp [bvFld, fld]
  have hrej : bit ((s.dropHalf 0).regValue .memLayout) 16 = s.layoutRejected := bit_packed_memLayout hs hl _
  simp (disch := decide) only [State.writeReg, State.commitReg, State.writeMemLayout, fld_write4, hfld, Nat.not_lt.mpr hv,
    if_false, flag_write4_w1c, h16, hrej, Bool.not_false, Bool.and_true]
  rfl

/-- R221: one out of range is refused. -/
theorem exec_registerWrite_memLayout_refused (hv : 128 < v.toNat % 256) :
    exec (.registerWrite 0 0x30000 4 v) s = .next { s.dropHalf 0 with layoutRejected := true } := by
  rw [exec_registerWrite_four hen hup hrel hrun (r := .memLayout) rfl rfl rfl]
  have hfld : bvFld v 0 8 = v.toNat % 256 := by simp [bvFld, fld]
  simp (disch := decide) only [State.writeReg, State.commitReg, State.writeMemLayout, fld_write4, hfld, hv, if_true]

/-- R222: KEEP_CAP is clamped to 12; without KEEP_CLEAR no cache changes. -/
theorem exec_registerWrite_cacheCtl (h6 : v.getLsbD 6 = false) :
    ∃ t : State, exec (.registerWrite 0 0x30004 4 v) s = .next t ∧ t.keepCap = min (v.toNat % 16) 12 ∧
      t.deadPoison = v.getLsbD 4 ∧ (12 < v.toNat % 16 → t.capClamped = true) ∧ t.slices = s.slices ∧ t.dram = s.dram := by
  have hfld : bvFld v 0 4 = v.toNat % 16 := by simp [bvFld, fld]
  have hact := writeActions_cacheCtl ((bit_mod v.toNat 32 6).trans h6)
  refine ⟨_, exec_registerWrite_four hen hup hrel hrun (r := .cacheCtl) rfl rfl rfl v, ?_⟩
  simp (disch := decide) only [State.writeReg, State.commitReg, State.writeCacheCtl, fld_write4, hfld, flag_write4_rw, hact,
    Bool.false_and, Bool.false_eq_true, if_false]
  refine ⟨trivial, trivial, fun h => ?_, rfl, rfl⟩
  simp [h]

/-- R307. -/
theorem exec_registerWrite_timedCtl : ∃ t : State, exec (.registerWrite 0 0x60000 4 v) s = .next t ∧
    t.timed.refDomain = bvFld v 16 16 ∧
    t.timed.wdogExp = (if 16 ≤ v.toNat % 32 ∧ v.toNat % 32 ≤ 30 then v.toNat % 32 else s.timed.wdogExp) ∧
    t.power = s.power ∧ t.dram = s.dram := by
  have hfld : bvFld v 0 5 = v.toNat % 32 := by simp [bvFld, fld]
  refine ⟨_, exec_registerWrite_four hen hup hrel hrun (r := .timedCtl) rfl rfl rfl v, ?_⟩
  simp (disch := decide) only [State.writeReg, State.commitReg, State.modTimed, fld_write4, hfld]
  exact ⟨trivial, rfl, rfl, rfl⟩

/-- R429. -/
theorem exec_registerWrite_weirCtl : ∃ t : State, exec (.registerWrite 0 0x70000 4 v) s = .next t ∧
    t.power.enable = v.getLsbD 0 ∧ t.power.guard = bvFld v 1 5 ∧
    t.power.minRatio = (if 60 < bvFld v 6 6 then s.power.minRatio else bvFld v 6 6) ∧
    t.power.predict = v.getLsbD 12 ∧ t.timed = s.timed ∧ t.dram = s.dram := by
  refine ⟨_, exec_registerWrite_four hen hup hrel hrun (r := .weirCtl) rfl rfl rfl v, ?_⟩
  simp (disch := decide) only [State.writeReg, State.commitReg, State.writeWeirCtl, State.modPower, fld_write4, flag_write4_rw]
  exact ⟨trivial, trivial, rfl, trivial, rfl, rfl⟩

/-- R418, R430: HOST_CAP is written as the host's cap, once CAP_REJECTED has been cleared or not. -/
theorem exec_registerWrite_powerCap : ∃ b : Bool, exec (.registerWrite 0 0x70008 8 v) s =
    .next (doHostCapWrite (v.toNat % 4096) ((s.dropHalf 0).modPower (fun p => { p with capRejected := b }))) := by
  rw [exec_registerWrite_eight hen hup hrel hrun (r := .powerCap) rfl rfl rfl rfl]
  have hm : (rw 0 12).within (lowMask + highMask) = true := by decide
  have hfld : ∀ old, fld (writeFields Reg.powerCap.fields (lowMask + highMask) v.toNat old) 0 12 = v.toNat % 4096 := fun old => by
    rw [fld_write_rw (by decide) hm]
    simp [fld]
  simp only [State.writeReg, State.commitReg, State.writePowerCap, hm, if_true, hfld]
  exact ⟨_, rfl⟩

theorem exec_registerWrite_powerCap_inRange (h : 900 ≤ v.toNat % 4096 ∧ v.toNat % 4096 ≤ 2800) :
    ∃ t : State, exec (.registerWrite 0 0x70008 8 v) s = .next t ∧ t.power.hostCap = v.toNat % 4096 ∧
      t.power.mgmtCap = s.power.mgmtCap ∧ t.dram = s.dram := by
  obtain ⟨b, hb⟩ := exec_registerWrite_powerCap hen hup hrel hrun v
  rw [hb, doHostCapWrite_inRange h]
  exact ⟨_, rfl, rfl, rfl, rfl⟩

theorem exec_registerWrite_powerCap_refused (h : v.toNat % 4096 < 900 ∨ 2800 < v.toNat % 4096) :
    ∃ t : State, exec (.registerWrite 0 0x70008 8 v) s = .next t ∧ t.power.hostCap = s.power.hostCap ∧
      t.power.capRejected = true := by
  obtain ⟨b, hb⟩ := exec_registerWrite_powerCap hen hup hrel hrun v
  rw [hb, doHostCapWrite_refused h]
  exact ⟨_, rfl, rfl, rfl⟩

/-- R406. -/
theorem exec_registerWrite_seepBudget : ∃ t : State, exec (.registerWrite 0 0x80000 4 v) s = .next t ∧
    t.hal.nSteps = bvFld v 8 8 ∧ t.hal.seepLevel = (if 5 < bvFld v 0 3 then s.hal.seepLevel else bvFld v 0 3) ∧
    t.hal.pondW = (if bvFld v 16 8 = 0 then s.hal.pondW else bvFld v 16 8) ∧ t.power = s.power ∧ t.dram = s.dram := by
  refine ⟨_, exec_registerWrite_four hen hup hrel hrun (r := .seepBudget) rfl rfl rfl v, ?_⟩
  simp (disch := decide) only [State.writeReg, State.commitReg, State.writeSeepBudget, State.modHal, fld_write4]
  exact ⟨trivial, rfl, rfl, rfl, rfl⟩

/-- R376. -/
theorem exec_registerWrite_hdwkCtl {k : Nat} (hk : k < 12) :
    ∃ t : State, exec (.registerWrite 0 (0xA0000 + 4 * k) 4 v) s = .next t ∧ (t.headworks k).enable = v.getLsbD 0 ∧
      (t.headworks k).grainSeen = ((s.headworks k).grainSeen && !v.getLsbD 2) ∧
      (t.headworks k).job = (s.headworks k).job ∧ t.dram = s.dram := by
  have hseen : bit ((s.dropHalf 0).regValue (.hdwkCtl k)) 2 = (s.headworks k).grainSeen := bit_packed_hdwkCtl _ _ _
  refine ⟨_, exec_registerWrite_four hen hup hrel hrun (regAt_hdwkCtl hk) (foreignBlock_low (by omega)) rfl v, ?_⟩
  have h0 : rw 0 1 ∈ (Reg.hdwkCtl k).fields := by simp [Reg.fields]
  have h2 : w1c 2 1 ∈ (Reg.hdwkCtl k).fields := by simp [Reg.fields]
  simp only [State.writeReg, State.commitReg, flag_write4_rw h0 (by decide), flag_write4_w1c h2 (by decide), hseen,
    State.headworks, State.modHeadworks, tabGet_tabMod, if_true]
  exact ⟨trivial, trivial, rfl, rfl⟩

/-- R283, R257: with PATH_ADAPT as it was the path table stays. -/
theorem exec_registerWrite_fabCtl (h24 : v.getLsbD 24 = s.fab.pathAdapt) :
    ∃ t : State, exec (.registerWrite 0 0x50000 4 v) s = .next t ∧
      t.fab.reqTimeout = (if bvFld v 0 8 = 0 then s.fab.reqTimeout else bvFld v 0 8) ∧
      t.fab.retainGrace = bvFld v 8 16 ∧ t.fab.ports = s.fab.ports ∧ t.dram = s.dram := by
  refine ⟨_, exec_registerWrite_four hen hup hrel hrun (r := .fabCtl) rfl rfl rfl v, ?_⟩
  have hadapt : (s.dropHalf 0).fab.pathAdapt = v.getLsbD 24 := h24.symm
  simp (disch := decide) only [State.writeReg, State.commitReg, State.writeFabCtl, State.modFab, fld_write4, flag_write4_rw,
    hadapt, Bool.and_not_self, Bool.false_and, Bool.false_eq_true, if_false]
  exact ⟨rfl, trivial, rfl, rfl⟩

/-- R488: the bits of a word of FN_FAULT_PENDING written 1 clear. -/
theorem exec_registerWrite_fnFaultPending {i : Nat} (hi : i < 128) :
    ∃ t : State, exec (.registerWrite 0 (0x1000200 + 4 * i) 4 v) s = .next t ∧
      ∀ b, b ∈ (t.fn 0).pendingFaults ↔ b ∈ (s.fn 0).pendingFaults ∧ (b / 32 = i → v.getLsbD (b % 32) = false) := by
  refine ⟨_, exec_registerWrite_four hen hup hrel hrun (regAt_fnFaultPending hi) (foreignBlock_low (by omega)) rfl v, fun b => ?_⟩
  have hmem : w1c 0 32 ∈ (Reg.fnFaultPending 0 i).fields := by simp [Reg.fields]
  have hb : b % 32 < 32 := Nat.mod_lt _ (by decide)
  have hbit := bit_write4_w1c (v := v) (old := wordOf (s.fn 0).pendingFaults i) hmem (by decide) hb
  rw [Nat.zero_add, bit_wordOf _ _ hb] at hbit
  have hold : (s.dropHalf 0).regValue (.fnFaultPending 0 i) = wordOf (s.fn 0).pendingFaults i := rfl
  simp only [State.writeReg, State.commitReg, State.fn, State.modFn, tabGet_tabMod, if_true]
  rw [List.mem_filter, hold, hbit]
  refine and_congr_right (fun hin => ?_)
  by_cases hbi : b / 32 = i
  · have helem : (s.fn 0).pendingFaults.elem (32 * i + b % 32) = true := by
      rw [← hbi, Nat.div_add_mod]
      exact List.elem_iff.mpr hin
    rw [helem, hbi]
    simp
  · simp [hbi]

/-- R487: FN_ADMIN_DOORBELL is the doorbell. -/
theorem exec_registerWrite_fnAdminDoorbell :
    exec (.registerWrite 0 0x1000010 8 v) s = exec (.adminDoorbell 0 8 v) (s.dropHalf 0) := by
  rw [exec_registerWrite_eight hen hup hrel hrun (r := .fnAdminDoorbell 0) rfl rfl rfl rfl]
  have hm : (wo 0 64).within (lowMask + highMask) = true := by decide
  simp only [State.writeReg, State.commitReg, hm, if_true, BitVec.ofNat_toNat, BitVec.setWidth_eq]
  rfl

end

end Sys2Proof.Machine
end

section
/-! O53: REGISTER_WRITE as a whole. -/

namespace Sys2Proof.Machine

section
variable {s : State} {f off n : Nat} {v : Word64}

/-- R338, R469: a function that is off, or a host port that is down, answers nothing. -/
theorem exec_registerWrite_unreached (h : (s.fn f).enabled = false ∨ s.mod.hostUp = false) :
    exec (.registerWrite f off n v) s = .next s := by
  rw [exec_registerWrite, execRegisterWrite]
  rcases h with h | h <;> simp [h]

variable (hen : (s.fn f).enabled = true) (hup : s.mod.hostUp = true)
include hen hup

/-- R470: an access of another size, or a misaligned one, is counted. -/
theorem exec_registerWrite_malformed (h : (n ≠ 4 ∧ n ≠ 8) ∨ off % n ≠ 0) :
    exec (.registerWrite f off n v) s = .next (s.countBad f) := by
  rw [exec_registerWrite, execRegisterWrite, if_pos h]
  simp [hen, hup]

variable {a : Nat} (hn : n = 4 ∨ n = 8) (hoff : off % n = 0) (hbus : busAddr f off = some a)
include hn hoff hbus

/-- R471: before an image, an access beyond DEVICE, SECURITY and the firmware window is counted. -/
theorem exec_registerWrite_undecoded (hrun : s.sec.running = none) (ha : 0x20000 ≤ a) (hw : inWindow a = false) :
    exec (.registerWrite f off n v) s = .next (s.countBad f) := by
  have hsize : ¬ ((n ≠ 4 ∧ n ≠ 8) ∨ off % n ≠ 0) := by omega
  have hclosed : s.bar0Open a = false := by simp [State.bar0Open, hrun, hw, Nat.not_lt.mpr ha]
  rw [exec_registerWrite, execRegisterWrite, if_neg hsize, hbus]
  simp [hen, hup, hclosed]

/-- R476: a reload holds the writes of the Halnor domain and of staged fields. -/
theorem exec_registerWrite_held (hrun : s.sec.running ≠ none) (hrel : s.hal.reloading = true) (hheld : accessHeld a n = true)
    (hf : foreignBlock f a = false) :
    exec (.registerWrite f off n v) s = .next (s.defer (.registerWrite f off n v)) := by
  have hsize : ¬ ((n ≠ 4 ∧ n ≠ 8) ∨ off % n ≠ 0) := by omega
  have hopen : s.bar0Open a = true := by simp [State.bar0Open, Option.isSome_iff_ne_none.mpr hrun]
  rw [exec_registerWrite, execRegisterWrite, if_neg hsize, hbus]
  simp [hen, hup, hopen, hrel, hheld, hf]

end

/-- Settles O53: the access is checked as R469 to R471 and R476 say, each register's fields follow their codes, and each
block's register has its own lemma above. -/
theorem registerWritesChangeOnlyWhatTheirFieldsPermit : Obligations.RegisterWritesChangeOnlyWhatTheirFieldsPermit := by
  unfold Obligations.RegisterWritesChangeOnlyWhatTheirFieldsPermit
  exact ⟨fun s f off n v hen hup => ⟨exec_registerWrite_malformed hen hup,
      fun a hn hoff hbus => exec_registerWrite_undecoded hen hup hn hoff hbus,
      fun a hn hoff hbus => exec_registerWrite_held hen hup hn hoff hbus⟩,
    fun s f off n v h => exec_registerWrite_unreached h,
    fun r mask v old f hf => get_writeFields r.fields_apart hf mask v old,
    fun s a r v hen hup hrun hrel _ hforeign hreg hro =>
      ⟨exec_registerWrite_readOnly_eight hen hup hrel hrun v hreg hforeign hro,
        fun hw => ⟨s.dropHalf 0, exec_registerWrite_readOnly_four hen hup hrel hrun v hreg hforeign hro hw, rfl⟩⟩,
    fun s a v hen hup hlo hhi ha hrel => exec_registerWrite_window hen hup hrel hlo hhi ha v,
    fun s v hen hup hrun hrel => ⟨exec_registerWrite_devAlert hen hup hrel hrun v,
      exec_registerWrite_memLayout hen hup hrel hrun v,
      exec_registerWrite_memLayout_refused hen hup hrel hrun v,
      exec_registerWrite_cacheCtl hen hup hrel hrun v,
      exec_registerWrite_timedCtl hen hup hrel hrun v,
      exec_registerWrite_weirCtl hen hup hrel hrun v,
      fun _ => ⟨exec_registerWrite_powerCap_inRange hen hup hrel hrun v, exec_registerWrite_powerCap_refused hen hup hrel hrun v⟩,
      exec_registerWrite_seepBudget hen hup hrel hrun v,
      fun k hk => exec_registerWrite_hdwkCtl hen hup hrel hrun v hk,
      exec_registerWrite_fabCtl hen hup hrel hrun v,
      fun i hi => exec_registerWrite_fnFaultPending hen hup hrel hrun v hi,
      exec_registerWrite_fnAdminDoorbell hen hup hrel hrun v⟩⟩

end Sys2Proof.Machine
end

section
/-! What a read or a write of memory leaves to the engines: tiles, the timed plane, power, every queue. -/

namespace Sys2Proof.Machine

/-! ## One tile, one context -/

section
variable (s : State) (n k : Nat)

@[simp] theorem State.tile_modTile (f : Tile → Tile) :
    (s.modTile n f).tile k = if k = n then f (s.tile n) else s.tile k := tabGet_tabSet _ _ _ _ _

theorem State.ctx_modCtx (f : Ctx → Ctx) : (s.modCtx n f).ctx k = if k = n then f (s.ctx n) else s.ctx k :=
  tabGet_tabSet _ _ _ _ _

theorem State.queue_modQueue (c q : Nat) (f : Queue → Queue) : (s.modQueue c q f).queue c q = f (s.queue c q) := by
  simp only [State.queue, State.modQueue, State.ctx_modCtx, if_true, Ctx.queue, Ctx.modQueue, tabGet_tabMod]

/-- A change of a context that keeps its queues keeps every queue. -/
theorem State.queue_modCtx {f : Ctx → Ctx} (hf : ∀ x, (f x).queues = x.queues) (c : Nat) :
    (s.modCtx c f).queue = s.queue := by
  funext c' q
  simp only [State.queue, State.ctx_modCtx]
  split
  · next h => rw [h, Ctx.queue, hf, Ctx.queue]
  · rfl

end

theorem State.tile_congr {s t : State} (h : t.tiles = s.tiles) (k : Nat) : t.tile k = s.tile k := by
  rw [State.tile, State.tile, h]

theorem State.ctx_congr {s t : State} (h : t.ctxs = s.ctxs) (c : Nat) : t.ctx c = s.ctx c := by
  rw [State.ctx, State.ctx, h]

/-! ## The engines -/

def State.engines (s : State) : Tab Tile × Timed × Power × (Nat → Nat → Queue) := (s.tiles, s.timed, s.power, s.queue)

theorem State.engines_eq {s t : State} (h : t.engines = s.engines) :
    t.tiles = s.tiles ∧ t.timed = s.timed ∧ t.power = s.power ∧ t.queue = s.queue := by
  simpa [State.engines] using h

theorem engines_foldl {β : Type} {f : State → β → State} (hf : ∀ s a, (f s a).engines = s.engines) (l : List β) (s : State) :
    (l.foldl f s).engines = s.engines := foldl_field State.engines hf l s

section
variable (s : State)

@[simp] theorem State.setSlice_engines (ch : Nat) (x : Slice) : (s.setSlice ch x).engines = s.engines := rfl

@[simp] theorem State.memCount_engines (k : Nat) (f : MemCounters → MemCounters) : (s.memCount k f).engines = s.engines := rfl

@[simp] theorem State.logEntry_engines (k : LogKind) (l : List Nat) : (s.logEntry k l).engines = s.engines := rfl

@[simp] theorem State.countPoison_engines (line : Nat) : (s.countPoison line).engines = s.engines := s.memCount_engines _ _

@[simp] theorem State.modHal_engines (f : Halnor → Halnor) : (s.modHal f).engines = s.engines := rfl

@[simp] theorem State.drawn_engines : s.drawn.engines = s.engines := rfl

@[simp] theorem State.evictTo_engines (ch : Nat) (l : Line) : (s.evictTo ch l).engines = s.engines := by
  unfold State.evictTo
  dsimp only
  repeat' split
  all_goals rfl

@[simp] theorem State.countPressure_engines (ch : Nat) (set : List Line) (l : Line) :
    (s.countPressure ch set l).engines = s.engines := by
  unfold State.countPressure
  split <;> rfl

@[simp] theorem State.countDemoted_engines (ch : Nat) (b : Bool) : (s.countDemoted ch b).engines = s.engines := by
  unfold State.countDemoted
  split <;> rfl

@[simp] theorem State.sweepHome_engines (ch i : Nat) : (s.sweepHome ch i).engines = s.engines := by
  unfold State.sweepHome
  dsimp only
  repeat' split
  all_goals rfl

theorem State.touchLine_engines {s t : State} {line hint : Nat} {f : Line → Line} (h : s.touchLine line hint f = some t) :
    t.engines = s.engines := by
  unfold State.touchLine at h
  dsimp only at h
  repeat' split at h
  all_goals cases h
  all_goals simp

@[simp] theorem State.undead_engines (line : Nat) : (s.undead line).engines = s.engines := by
  unfold State.undead
  dsimp only
  split <;> rfl

@[simp] theorem State.recordDead_engines (line : Nat) : (s.recordDead line).engines = s.engines :=
  engines_foldl State.undead_engines _ _

@[simp] theorem State.dropLine_engines (line : Nat) : (s.dropLine line).engines = s.engines := by
  unfold State.dropLine
  dsimp only
  repeat' split
  · rfl
  · rw [State.logEntry_engines, State.recordDead_engines]
    rfl
  · rfl

@[simp] theorem State.storeLine_engines (line off hint : Nat) (d : List (Option Byte)) :
    (s.storeLine line off hint d).engines = s.engines := by
  unfold State.storeLine
  dsimp only
  split
  · next h => rw [State.touchLine_engines h, State.undead_engines]
  · simp

@[simp] theorem State.loadEffect_engines (line off n hint : Nat) : (s.loadEffect line off n hint).engines = s.engines := by
  unfold State.loadEffect
  split
  · split <;> simp
  · cases h : s.touchLine line hint (fillMissing (sectorsOf off n) (fun k => s.fetchSector line k)) with
    | none => rfl
    | some t => exact State.touchLine_engines h

@[simp] theorem State.loadLine_engines (line off n hint : Nat) : (s.loadLine line off n hint).2.engines = s.engines := by
  unfold State.loadLine
  split
  · exact s.countPoison_engines line
  · simp

theorem State.ats_engines (a : List (Nat × Nat)) : ({ s with ats := a } : State).engines = s.engines := rfl

@[simp] theorem State.hostPage_engines (space page : Nat) : (s.hostPage space page).2.engines = s.engines := by
  have h : ∀ gone : Bool, (if gone then s.drawn else s).engines = s.engines := fun gone => by cases gone <;> rfl
  unfold State.hostPage
  split
  · rfl
  · dsimp only
    split
    · exact (State.ats_engines _ _).trans (h _)
    · exact h _

@[simp] theorem State.hostRange_engines (space iova n : Nat) : (s.hostRange space iova n).2.engines = s.engines := by
  refine foldl_field (fun acc : Bool × State => acc.2.engines) (fun acc p => ?_) _ _
  split
  · simp
  · rfl

@[simp] theorem State.readPart_engines (c va n : Nat) : (s.readPart c va n).2.engines = s.engines := by
  unfold State.readPart
  split
  · rfl
  · rfl
  · next a _ =>
    have h := s.loadLine_engines (a / 128) (a % 128) n 0
    split <;> (next hl => rw [hl] at h; exact h)
  · next i _ =>
    have h := s.hostRange_engines (s.ctx c).pasid i n
    dsimp only
    split <;> exact h

@[simp] theorem State.readStruct_engines (c va n : Nat) : (s.readStruct c va n).2.engines = s.engines := by
  refine foldl_field (fun acc : Except StructErr (List Byte) × State => acc.2.engines) (fun acc p => ?_) _ _
  obtain ⟨r, u⟩ := acc
  cases r with
  | error e => rfl
  | ok d =>
    have h := u.readPart_engines c (p.1 * 128 + p.2.1) p.2.2
    dsimp only
    split <;> (next hr => rw [hr] at h; exact h)

theorem State.writePart_engines {s t : State} {c va : Nat} {d : List Byte} (h : s.writePart c va d = some t) :
    t.engines = s.engines := by
  unfold State.writePart at h
  split at h
  · cases h
    simp
  · next i _ =>
    dsimp only at h
    split at h
    · cases h
      exact s.hostRange_engines (s.ctx c).pasid i d.length
    · cases h
  · cases h

theorem State.writeStruct_engines {s t : State} {c va : Nat} {d : List Byte} (h : s.writeStruct c va d = some t) :
    t.engines = s.engines := by
  have hfold : ∀ (l : List (Nat × Nat × Nat)) (f : State → Nat × Nat × Nat → Option State),
      (∀ u p v, f u p = some v → v.engines = u.engines) →
      ∀ o : Option State, (∀ u, o = some u → u.engines = s.engines) →
        ∀ u, l.foldl (fun acc p => acc.bind (fun s => f s p)) o = some u → u.engines = s.engines := by
    intro l f hf
    induction l with
    | nil => exact fun o ho => ho
    | cons p r ih =>
      intro o ho
      refine ih _ (fun u hu => ?_)
      obtain ⟨x, hx, hxu⟩ := Option.bind_eq_some_iff.mp hu
      rw [hf x p u hxu, ho x hx]
  exact hfold _ _ (fun u p v hv => State.writePart_engines hv) _ (fun u hu => by cases hu; rfl) t h

end

/-! ## The numerics watch (R187, R385) -/

section
variable (s : State)

theorem State.modCtx_engines {f : Ctx → Ctx} (hf : ∀ x, (f x).queues = x.queues) (c : Nat) :
    (s.modCtx c f).engines = s.engines :=
  congrArg (fun q => (s.tiles, s.timed, s.power, q)) (s.queue_modCtx hf c)

@[simp] theorem State.watchDrop_engines (c : Nat) : (s.watchDrop c).engines = s.engines :=
  s.modCtx_engines (by exact fun _ => rfl) c

@[simp] theorem State.watchWrite_engines (c : Nat) (d : List Byte) : (s.watchWrite c d).engines = s.engines := by
  unfold State.watchWrite
  dsimp only
  split
  · rfl
  have hr := s.readStruct_engines c (s.ctx c).watchRing 4
  split
  · next hl => rw [hl] at hr; rw [State.watchDrop_engines, hr]
  · next hl =>
    rw [hl] at hr
    split
    · rw [State.watchDrop_engines, hr]
    · split
      · next hw =>
        obtain ⟨x, hx, hxu⟩ := Option.bind_eq_some_iff.mp hw
        refine (State.modCtx_engines _ (by exact fun _ => rfl) c).trans ?_
        rw [State.writeStruct_engines hxu, State.writeStruct_engines hx, hr]
      · rw [State.watchDrop_engines, hr]

@[simp] theorem State.watchLayer_engines (r : Region) (us : List Sys2Proof.Config.SeepUnit) (l : Nat) :
    (s.watchLayer r us l).engines = s.engines := by
  unfold State.watchLayer
  exact s.watchWrite_engines _ _

@[simp] theorem State.watchAll_engines (r : Region) : (s.watchAll r).engines = s.engines := by
  unfold State.watchAll
  refine (engines_foldl (fun u x => ?_) _ _).trans ((engines_foldl (fun u l => ?_) _ _).trans rfl)
  · rfl
  · exact u.watchLayer_engines r _ l

end

end Sys2Proof.Machine
end

section
/-! A stopping fault (R356) and the abort of a region (R303): the record, what stays in each flume sequencer, what was sent. -/

namespace Sys2Proof.Machine

/-- Every entry of a table changed, by a change that leaves the default. -/
theorem tabGet_map {α : Type} (t : Tab α) (f : α → α) {d : α} (hd : f d = d) (k : Nat) :
    tabGet (t.map (fun e => (e.1, f e.2))) d k = f (tabGet t d k) := by
  induction t with
  | nil => exact hd.symm
  | cons e r ih =>
    simp only [List.map_cons, tabGet, ih]
    split <;> rfl

/-- R356: what a stopping fault does is done by recording it, changes of the context that keep its record, the stop of its
groups, and a gauge request. -/
theorem State.takeFault_steps {s : State} {c : Nat} (hst : (s.ctx c).st.stoppable = true) (only : Option Nat) (f : FaultRec)
    {P : State → Prop} (hrec : P (s.recordFault c f))
    (hctx : ∀ u g, (∀ x, (g x).fault = x.fault) → P u → P (u.modCtx c g))
    (horder : ∀ u l, P u → P { u with pendingOrder := l })
    (hstop : ∀ u, P u → P (u.stopBlocks c)) (hgauge : ∀ u, P u → P (u.gaugeRequest 1 false false)) :
    P (s.takeFault c only f) := by
  have hhead := horder _ ((s.recordFault c f).pendingOrder.filter (fun x => x != c))
    (hctx _ (fun x => { x with st := .stopped }) (fun _ => rfl) hrec)
  unfold State.takeFault
  rw [if_pos hst]
  cases only with
  | none =>
    dsimp only
    have hall := hstop _ (hctx _ (fun x => { x with queues := x.queues.map (fun e =>
      (e.1, Queue.stopWith f.code.value (f.detail % 0x8000) e.2)) }) (fun _ => rfl) hhead)
    split
    · exact hall
    · exact hgauge _ hall
  | some q =>
    dsimp only
    have hone := hctx _ (fun x => x.modQueue q (Queue.stopWith f.code.value (f.detail % 0x8000))) (fun _ => rfl) hhead
    split
    · exact hone
    · exact hgauge _ hone

section
variable (s : State)

/-! ## What is sent -/

theorem State.sent_sendMsix (f e : Nat) {o : Out} (h : o ∈ s.sent) : o ∈ (s.sendMsix f e).sent := by
  unfold State.sendMsix
  dsimp only
  split
  · exact h
  · split
    · exact h
    · exact List.mem_cons_of_mem _ h

theorem State.sent_recordFault (c : Nat) (f : FaultRec) {o : Out} (h : o ∈ s.sent) : o ∈ (s.recordFault c f).sent := by
  unfold State.recordFault
  dsimp only
  split
  · exact h
  · exact State.sent_sendMsix _ _ _ h

theorem State.sent_gaugeRequest (src : Nat) (required hold : Bool) {o : Out} (h : o ∈ s.sent) :
    o ∈ (s.gaugeRequest src required hold).sent := by
  unfold State.gaugeRequest
  dsimp only
  split
  · split
    · exact List.mem_cons_of_mem _ h
    · exact h
  · exact h

/-! ## The sequencers and the record -/

/-- R92: groups stop, a tile's sequencer stays as it is. -/
theorem State.flume_stopBlocks (c k : Nat) : ((s.stopBlocks c).tile k).flume = (s.tile k).flume := by
  have h := tabGet_map s.tiles (fun x => if x.ctx = some c then
        { x with groups := x.groups.map (fun g => (g.1, g.2.map (fun x => { x with stopped := true })))
                 saved := x.saved.map (fun x => { x with stopped := true }) }
      else x) (d := Tile.reset) (if_neg nofun) k
  refine (congrArg Tile.flume h).trans ?_
  split <;> rfl

/-- R356: an empty FAULT takes the record, with the job tick. -/
theorem State.fault_recordFault {c : Nat} (f : FaultRec) (hf : (s.ctx c).fault = none) :
    ((s.recordFault c f).ctx c).fault = some { f with tick := s.jobTick } := by
  unfold State.recordFault
  simp only [hf]
  refine (congrArg Ctx.fault (State.ctx_congr (s := s.modCtx c (fun x => { x with fault := some { f with tick := s.jobTick } }))
    (by simp) c)).trans ?_
  rw [State.ctx_modCtx, if_pos rfl]

end

section
variable {s : State} {c : Nat} (hst : (s.ctx c).st.stoppable = true)
include hst

theorem State.sent_takeFault (only : Option Nat) (f : FaultRec) {o : Out} (h : o ∈ s.sent) :
    o ∈ (s.takeFault c only f).sent :=
  State.takeFault_steps hst only f (P := fun u => o ∈ u.sent) (s.sent_recordFault c f h) (fun _ _ _ h => h) (fun _ _ h => h)
    (fun _ h => h) (fun u h => u.sent_gaugeRequest _ _ _ h)

theorem State.flume_takeFault (only : Option Nat) (f : FaultRec) (k : Nat) :
    ((s.takeFault c only f).tile k).flume = (s.tile k).flume :=
  State.takeFault_steps hst only f (P := fun u => (u.tile k).flume = (s.tile k).flume)
    (by rw [State.tile_congr (s := s) (by simp)]) (fun _ _ _ h => h) (fun _ _ h => h)
    (fun u h => (u.flume_stopBlocks c k).trans h) (fun u h => by rw [State.tile_congr (s := u) (by simp), h])

theorem State.fault_takeFault (hf : (s.ctx c).fault = none) (only : Option Nat) (f : FaultRec) :
    ((s.takeFault c only f).ctx c).fault = some { f with tick := s.jobTick } :=
  State.takeFault_steps hst only f (P := fun u => (u.ctx c).fault = some { f with tick := s.jobTick })
    (s.fault_recordFault f hf)
    (fun u g hg h => by rw [State.ctx_modCtx, if_pos rfl, hg, h]) (fun _ _ h => h)
    (fun u h => by rw [State.ctx_congr (s := u) (by simp), h]) (fun u h => by rw [State.ctx_congr (s := u) (by simp), h])

end

/-! ## Tiles changed one after another -/

section
variable (f : Tile → Tile) {k : Nat}

theorem tile_foldl_modTile_of_not_mem {l : List Nat} (hk : k ∉ l) (s : State) :
    (l.foldl (fun s t => s.modTile t f) s).tile k = s.tile k := by
  induction l generalizing s with
  | nil => rfl
  | cons a r ih =>
    obtain ⟨hne, hr⟩ := not_or.mp (List.mem_cons.not.mp hk)
    rw [List.foldl_cons, ih hr, State.tile_modTile, if_neg hne]

/-- What one change brings about, whatever the tile, holds of every tile changed. -/
theorem tile_foldl_modTile_of_mem {P : Tile → Prop} (hP : ∀ x, P (f x)) {l : List Nat} (hk : k ∈ l) (s : State) :
    P ((l.foldl (fun s t => s.modTile t f) s).tile k) := by
  induction l generalizing s with
  | nil => cases hk
  | cons a r ih =>
    rw [List.foldl_cons]
    by_cases hr : k ∈ r
    · exact ih hr _
    · rcases List.mem_cons.mp hk with rfl | h
      · rw [tile_foldl_modTile_of_not_mem f hr, State.tile_modTile, if_pos rfl]
        exact hP _
      · exact absurd h hr

end

/-! ## The abort of a region -/

/-- R303: the region cut off, before its context takes the fault. -/
def State.cutRegion (s : State) (r : Region) (f : FaultRec) : State :=
  (((r.tiles.foldl (fun s t => s.modTile t (fun x => { x with flume := { x.flume with active := false, stopped := true } })) s).modTimed
    (fun t => { t with region := none, readies := [] })).emit (.abort none)).modQueue r.ctx r.queue (fun q => match q.work with
      | some .region => { q with work := some (.done f.code.value (f.detail % 0x8000) 0) }
      | _ => q)

theorem State.cutRegion_ctx {s : State} {r : Region} (f : FaultRec) (hst : (s.ctx r.ctx).st = .resident) :
    ((s.cutRegion r f).ctx r.ctx).st.stoppable = true ∧
    ((s.cutRegion r f).ctx r.ctx).fault = (s.ctx r.ctx).fault := by
  have h : ∀ u : State, u.ctx r.ctx = s.ctx r.ctx → ∀ g, ((u.modQueue r.ctx r.queue g).ctx r.ctx).st.stoppable = true ∧
      ((u.modQueue r.ctx r.queue g).ctx r.ctx).fault = (s.ctx r.ctx).fault := fun u hu g => by
    rw [State.modQueue, State.ctx_modCtx, if_pos rfl, hu, Ctx.modQueue, hst]
    exact ⟨rfl, rfl⟩
  exact h _ (State.ctx_congr (by simp) _) _

section
variable {s : State} {r : Region} (f : FaultRec) (hr : s.timed.region = some r)
include hr

theorem State.abortRegion_eq :
    s.abortRegion f = (s.cutRegion r f).takeFault r.ctx none { f with queue := r.queue } := by
  unfold State.abortRegion
  rw [hr]
  rfl

theorem State.abortRegion_region : (s.abortRegion f).timed.region = none := by
  rw [State.abortRegion_eq f hr]
  simp [State.cutRegion]

variable (hst : (s.ctx r.ctx).st = .resident)
include hst

/-- R303: every tile of the region stops. -/
theorem State.abortRegion_flume {k : Nat} (hk : k ∈ r.tiles) :
    ((s.abortRegion f).tile k).flume.active = false ∧ ((s.abortRegion f).tile k).flume.stopped = true := by
  obtain ⟨hstop, -⟩ := State.cutRegion_ctx f hst
  rw [State.abortRegion_eq f hr, State.flume_takeFault hstop]
  exact tile_foldl_modTile_of_mem (P := fun x => x.flume.active = false ∧ x.flume.stopped = true) _ (fun _ => ⟨rfl, rfl⟩) hk s

/-- R303: the abort goes out. -/
theorem State.abortRegion_sent : .abort none ∈ (s.abortRegion f).sent := by
  obtain ⟨hstop, -⟩ := State.cutRegion_ctx f hst
  rw [State.abortRegion_eq f hr]
  exact State.sent_takeFault hstop none _ List.mem_cons_self

/-- R303, R356: the region's context takes the fault. -/
theorem State.abortRegion_fault (hf : (s.ctx r.ctx).fault = none) : ∃ g, ((s.abortRegion f).ctx r.ctx).fault = some g ∧
    g.code = f.code ∧ g.tile = f.tile ∧ g.where' = f.where' := by
  obtain ⟨hstop, hnone⟩ := State.cutRegion_ctx f hst
  rw [State.abortRegion_eq f hr]
  exact ⟨_, State.fault_takeFault hstop (hnone.trans hf) none _, rfl, rfl, rfl⟩

end

end Sys2Proof.Machine
end

section
/-! How a timed region ends (R302 to R304): REGION_END, REGION_ABORT_MESSAGE, TIMED_WATCHDOG. -/

namespace Sys2Proof.Machine

theorem exec_regionEnd (s : State) : exec .regionEnd s = execRegionEnd s := rfl

theorem exec_regionAbortMessage (s : State) : exec .regionAbortMessage s = execRegionAbortMessage s := rfl

theorem exec_timedWatchdog (s : State) : exec .timedWatchdog s = execTimedWatchdog s := rfl

/-! ## No region -/

section
variable {s : State} (h : s.timed.region = none)
include h

theorem exec_regionEnd_idle : exec .regionEnd s = .next s := by
  rw [exec_regionEnd, execRegionEnd, h]

theorem exec_timedWatchdog_idle : exec .timedWatchdog s = .next s := by
  rw [exec_timedWatchdog, execTimedWatchdog, h]

/-- R303: the root passes an abort on. -/
theorem exec_regionAbortMessage_idle :
    exec .regionAbortMessage s = .next (if s.timed.root then s.emit (.abort none) else s) := by
  rw [exec_regionAbortMessage, execRegionAbortMessage, h]
  dsimp only
  split <;> rfl

end

/-! ## A region on the device -/

section
variable {s : State} {r : Region} (hr : s.timed.region = some r)
include hr

theorem exec_regionEnd_early (h : r.stage ≠ .running) : exec .regionEnd s = .next s := by
  rw [exec_regionEnd, execRegionEnd, hr]
  exact if_pos h

theorem exec_regionAbortMessage_eq : exec .regionAbortMessage s = .next (s.abortRegion (faultOf .partnerLost 0)) := by
  rw [exec_regionAbortMessage, execRegionAbortMessage, hr]

/-- R304: the limit has been reached. -/
theorem exec_timedWatchdog_due (hs : r.stage = .ready ∨ r.stage = .running) (hw : r.idle + 2 ^ s.timed.wdogExp ≤ s.wet.toNat) :
    exec .timedWatchdog s = .next (s.abortRegion (faultOf .timedWatchdog 0)) := by
  rw [exec_timedWatchdog, execTimedWatchdog, hr]
  exact if_pos ⟨hs, hw⟩

theorem exec_timedWatchdog_early (hw : s.wet.toNat < r.idle + 2 ^ s.timed.wdogExp) : exec .timedWatchdog s = .next s := by
  rw [exec_timedWatchdog, execTimedWatchdog, hr]
  exact if_neg (fun h => Nat.not_le.mpr hw h.2)

/-- R123: a drain that would read a row too early aborts the region at its tick. -/
theorem State.drainHazard_fault (h : Nat × Nat × Nat) (hst : (s.ctx r.ctx).st = .resident) (hf : (s.ctx r.ctx).fault = none) :
    ∃ f, ((s.drainHazard h).ctx r.ctx).fault = some f ∧ f.code = .basinHazard ∧ f.tile = h.2.1 ∧
      f.where' = BitVec.ofNat 64 h.2.2 ∧ (s.drainHazard h).timed.region = none := by
  have hctx : ∀ g, ((s.waitWet h.1).modTile h.2.1 g).ctx r.ctx = s.ctx r.ctx := fun g => State.ctx_congr (by simp) _
  have hreg : ∀ g, ((s.waitWet h.1).modTile h.2.1 g).timed.region = some r := fun g => by simp [hr]
  obtain ⟨f, hfault, hcode, htile, hplace⟩ := State.abortRegion_fault { faultOf .basinHazard 0 with
    tile := h.2.1, where' := BitVec.ofNat 64 h.2.2, address := BitVec.ofNat 64 0 } (hreg _)
    ((congrArg Ctx.st (hctx _)).trans hst) ((congrArg Ctx.fault (hctx _)).trans hf)
  exact ⟨f, hfault, hcode, htile, hplace, State.abortRegion_region _ (hreg _)⟩

variable (hrun : r.stage = .running)
include hrun

/-- R290: while a tile has not reached END, the region waits, up to entry + LENGTH. -/
theorem exec_regionEnd_unfinished (h : ∃ x ∈ r.tiles, (s.tile x).flume.ended = false) : ∃ x,
    exec .regionEnd s = .next (if r.entryWet + r.length ≤ s.jobWet.toNat then
      s.abortRegion { faultOf .scheduleLength 0 with tile := x } else s) := by
  obtain ⟨y, hy, hend⟩ := h
  have hfind : (r.tiles.find? (fun t => !(s.tile t).flume.ended)).isSome := by
    rw [List.find?_isSome]
    exact ⟨y, hy, by rw [hend]; rfl⟩
  obtain ⟨x, hx⟩ := Option.isSome_iff_exists.mp hfind
  refine ⟨x, ?_⟩
  rw [exec_regionEnd, execRegionEnd, hr]
  dsimp only
  rw [if_neg (not_not.mpr hrun), hx]
  dsimp only
  split <;> rfl

/-- R302: once every tile has reached END, a hazard ends the region, and else it ends when nothing it started is under way. -/
theorem exec_regionEnd_finished (h : ∀ x ∈ r.tiles, (s.tile x).flume.ended = true) {fin : Nat}
    (hfin : fin = r.tiles.foldl (fun m x => max m (s.tile x).workEnd) 0) :
    exec .regionEnd s = .next ((s.hazardBy r fin).elim
      (if s.regionPending r then s else (s.waitWet fin).endRegion r) s.drainHazard) := by
  have hfind : r.tiles.find? (fun t => !(s.tile t).flume.ended) = none := by
    rw [List.find?_eq_none]
    exact fun x hx => by simp [h x hx]
  subst hfin
  rw [exec_regionEnd, execRegionEnd, hr]
  dsimp only
  rw [if_neg (not_not.mpr hrun), hfind]
  dsimp only
  split
  · next hz => rw [hz, Option.elim_some]
  · next hz => rw [hz, Option.elim_none]; split <;> rfl

end

/-! ## What the end leaves (R302, R419) -/

section
variable (s : State) (r : Region)

@[simp] theorem State.learnPhases_fields : (s.learnPhases r).tiles = s.tiles ∧ (s.learnPhases r).queue = s.queue ∧
    (s.learnPhases r).power.waitBoundary = s.power.waitBoundary := by
  unfold State.learnPhases
  split
  · exact ⟨rfl, rfl, rfl⟩
  · exact ⟨rfl, rfl, rfl⟩

@[simp] theorem State.stepBoundary_fields : s.stepBoundary.tiles = s.tiles ∧ s.stepBoundary.timed = s.timed ∧
    s.stepBoundary.queue = s.queue ∧ (s.power.waitBoundary = true → s.stepBoundary.power.stepSeen = true) := by
  unfold State.stepBoundary
  split
  · exact ⟨rfl, rfl, rfl, fun _ => rfl⟩
  · next h => exact ⟨rfl, rfl, rfl, fun hb => absurd hb h⟩

/-- The region as it is once its tiles are the thread plane's again, before its records are written. -/
def State.regionFreed (s : State) (r : Region) : State :=
  ((r.tiles.foldl (fun s t => s.modTile t (fun x => { x with flume := Flume.idle })) s).learnPhases r).modTimed
    (fun t => { t with region := none })

theorem State.endRegion_eq : s.endRegion r = ((s.regionFreed r).watchAll r).stepBoundary.modQueue r.ctx r.queue
    (fun q => match q.work with
      | some .region => { q with work := some (.done 0 0 0) }
      | _ => q) := rfl

/-- What `endRegion` leaves, seen past the records: the tiles, the timed plane and the queues of the freed region. -/
theorem State.endRegion_fields : (s.endRegion r).tiles = (s.regionFreed r).tiles ∧ (s.endRegion r).timed.region = none ∧
    ((s.queue r.ctx r.queue).work = some .region → ((s.endRegion r).queue r.ctx r.queue).work = some (.done 0 0 0)) ∧
    (s.power.waitBoundary = true → (s.endRegion r).power.stepSeen = true) := by
  obtain ⟨htiles, htimed, hpower, hqueue⟩ := State.engines_eq ((s.regionFreed r).watchAll_engines r)
  obtain ⟨htiles', htimed', hqueue', hseen⟩ := State.stepBoundary_fields ((s.regionFreed r).watchAll r)
  rw [State.endRegion_eq]
  refine ⟨htiles'.trans htiles, congrArg Timed.region (htimed'.trans htimed), fun hw => ?_, fun hb => ?_⟩
  · have hfreed : (s.regionFreed r).queue r.ctx r.queue = s.queue r.ctx r.queue := by
      refine (congrFun (congrFun (State.learnPhases_fields _ r).2.1 r.ctx) r.queue).trans ?_
      rw [State.queue, State.ctx_congr (s := s) (by simp), State.queue]
    rw [State.queue_modQueue, hqueue', hqueue, hfreed, hw]
  · refine hseen ?_
    rw [hpower]
    exact (State.learnPhases_fields _ r).2.2.trans ((congrArg Power.waitBoundary (by simp)).trans hb)

/-- R302: the sequencer of each tile of the region is idle; no other tile changes. -/
theorem State.endRegion_tile (k : Nat) : (k ∈ r.tiles → ((s.endRegion r).tile k).flume = Flume.idle) ∧
    (k ∉ r.tiles → (s.endRegion r).tile k = s.tile k) := by
  have htile : (s.endRegion r).tile k =
      (r.tiles.foldl (fun s t => s.modTile t (fun x => { x with flume := Flume.idle })) s).tile k :=
    State.tile_congr ((State.endRegion_fields s r).1.trans (State.learnPhases_fields _ r).1) k
  rw [htile]
  exact ⟨fun h => tile_foldl_modTile_of_mem (P := fun x => x.flume = Flume.idle) _ (fun _ => rfl) h s,
    fun h => tile_foldl_modTile_of_not_mem _ h s⟩

end

@[simp] theorem State.tickOnce_waitBoundary (s : State) : s.tickOnce.power.waitBoundary = s.power.waitBoundary := by
  unfold State.tickOnce
  dsimp only
  split <;> rfl

@[simp] theorem State.waitWet_waitBoundary (s : State) (w : Nat) : (s.waitWet w).power.waitBoundary = s.power.waitBoundary :=
  tickUntil_field (fun s => s.power.waitBoundary) State.tickOnce_waitBoundary _ _ s

/-- R302: the region's end, on the state it began from. -/
theorem State.endRegion_waitWet (s : State) (r : Region) (fin : Nat) (hw : (s.queue r.ctx r.queue).work = some .region) :
    ((s.waitWet fin).endRegion r).timed.region = none ∧
    (∀ x ∈ r.tiles, (((s.waitWet fin).endRegion r).tile x).flume = Flume.idle) ∧
    (((s.waitWet fin).endRegion r).queue r.ctx r.queue).work = some (.done 0 0 0) ∧
    (∀ x, x ∉ r.tiles → ((s.waitWet fin).endRegion r).tile x = s.tile x) ∧
    (s.power.waitBoundary = true → ((s.waitWet fin).endRegion r).power.stepSeen = true) := by
  obtain ⟨-, hregion, hdone, hseen⟩ := State.endRegion_fields (s.waitWet fin) r
  have hqueue : (s.waitWet fin).queue r.ctx r.queue = s.queue r.ctx r.queue := by
    rw [State.queue, State.ctx_congr (s := s) (by simp), State.queue]
  refine ⟨hregion, fun x hx => (State.endRegion_tile _ r x).1 hx, hdone (by rw [hqueue, hw]), fun x hx => ?_, fun hb => hseen ?_⟩
  · rw [(State.endRegion_tile _ r x).2 hx, State.tile_congr (s := s) (by simp)]
  · rw [State.waitWet_waitBoundary, hb]

end Sys2Proof.Machine
end

section
/-! Program fetch (R291) and the way to READY (R300). -/

namespace Sys2Proof.Machine

/-! ## READY (R300 steps 4 and 5) -/

/-- The root's choice of the entry tick changes a region's stage only. -/
theorem State.chooseEntry_region {s : State} {r : Region} (hr : s.timed.region = some r) :
    ∃ st, s.chooseEntry.timed.region = some { r with stage := st } := by
  unfold State.chooseEntry
  rw [hr]
  dsimp only
  split
  · split <;> exact ⟨_, congrArg (Option.map _) hr⟩
  · exact ⟨r.stage, hr⟩

/-- READY changes a region's stage, and the tick from which the watchdog counts. -/
theorem State.tryReady_region {s : State} {r : Region} (hr : s.timed.region = some r) :
    ∃ st i, s.tryReady.timed.region = some { r with stage := st, idle := i } := by
  unfold State.tryReady
  rw [hr]
  dsimp only
  split
  · have hready : (s.modRegion (fun r => { r with stage := .ready, idle := s.wet.toNat })).timed.region =
        some { r with stage := .ready, idle := s.wet.toNat } := congrArg (Option.map _) hr
    split
    · obtain ⟨st, hst⟩ := State.chooseEntry_region (s := (s.modRegion (fun r =>
        { r with stage := .ready, idle := s.wet.toNat })).modTimed (fun x => { x with readies := addNew x.readies (r.map.getD 0 0) })) hready
      exact ⟨st, _, hst⟩
    · exact ⟨_, _, hready⟩
  · exact ⟨r.stage, r.idle, hr⟩

theorem State.tile_tryReady (s : State) (k : Nat) : s.tryReady.tile k = s.tile k := State.tile_congr (by simp) k

theorem State.queue_tryReady (s : State) : s.tryReady.queue = s.queue := by
  funext c q
  rw [State.queue, State.ctx_congr (s := s) (by simp), State.queue]

/-! ## The fetch unit's place (R291) -/

section
variable (x : Flume) (e : BitVec 256)

theorem Flume.fetchNext_buf : (x.fetchNext e).buf = x.buf ++ [(x.fetchAt, e)] := by
  unfold Flume.fetchNext
  dsimp only
  repeat' split
  all_goals rfl

theorem Flume.fetchNext_end (h : eKind e = kEnd) : (x.fetchNext e).fetchEnd = true := by
  unfold Flume.fetchNext
  dsimp only
  rw [if_pos h]

theorem Flume.fetchNext_loopBegin (h : eKind e = kLoopBegin) : (x.fetchNext e).fetchAt = x.fetchAt + 1 ∧
    (x.fetchNext e).fetchLoops = (eArg e, x.fetchAt + 1) :: x.fetchLoops := by
  unfold Flume.fetchNext
  dsimp only
  rw [if_neg (by rw [h]; decide), if_pos h]
  exact ⟨rfl, rfl⟩

theorem Flume.fetchNext_loopEnd (h : eKind e = kLoopEnd) {n b : Nat} {l : List (Nat × Nat)} (hl : x.fetchLoops = (n, b) :: l) :
    (1 < n → (x.fetchNext e).fetchAt = b ∧ (x.fetchNext e).fetchLoops = (n - 1, b) :: l) ∧
    (n ≤ 1 → (x.fetchNext e).fetchAt = x.fetchAt + 1 ∧ (x.fetchNext e).fetchLoops = l) := by
  unfold Flume.fetchNext
  dsimp only
  rw [if_neg (by rw [h]; decide), if_neg (by rw [h]; decide), if_pos h, hl]
  dsimp only
  exact ⟨fun hn => by rw [if_pos hn]; exact ⟨rfl, rfl⟩, fun hn => by rw [if_neg (Nat.not_lt.mpr hn)]; exact ⟨rfl, rfl⟩⟩

theorem Flume.fetchNext_other (hend : eKind e ≠ kEnd) (hbegin : eKind e ≠ kLoopBegin) (hback : eKind e ≠ kLoopEnd) :
    (x.fetchNext e).fetchAt = x.fetchAt + 1 := by
  unfold Flume.fetchNext
  dsimp only
  rw [if_neg hend, if_neg hbegin, if_neg hback]

end

/-! ## FLUME_ENTRY_FETCH -/

theorem exec_flumeEntryFetch (tile : Nat) (s : State) : exec (.flumeEntryFetch tile) s = execFlumeEntryFetch tile s := rfl

theorem exec_flumeEntryFetch_idle {s : State} {tile : Nat} (h : s.timed.region = none ∨ s.running = false ∨
    (s.tile tile).flume.active = false ∨ (s.tile tile).flume.fetchEnd = true ∨ 1024 ≤ (s.tile tile).flume.buf.length) :
    exec (.flumeEntryFetch tile) s = .next s := by
  rw [exec_flumeEntryFetch, execFlumeEntryFetch]
  split
  · rfl
  · next r hr =>
    refine if_pos ?_
    rcases h with h | h | h | h | h
    · rw [hr] at h
      cases h
    all_goals simp [h]

section
variable {s u s1 : State} {tile va : Nat} {r : Region} (hr : s.timed.region = some r)
  (hgo : (!s.running || !r.tiles.elem tile || !(s.tile tile).flume.active || (s.tile tile).flume.fetchEnd ||
    decide (1024 ≤ (s.tile tile).flume.buf.length)) = false)
  (hva : va = (s.tile tile).flume.prog + 32 * (s.tile tile).flume.fetchAt)
  (hu : u = if (s.tile tile).flume.fetched < 1024 then s else s.waitWet (s.tile tile).flume.fetchFrom)
include hr hgo hva hu

/-- R291: the next entry in execution order enters the buffer. -/
theorem exec_flumeEntryFetch_entry {d : List Byte} (hfetch : u.fetchEntry r.ctx va = (.ok d, s1)) :
    exec (.flumeEntryFetch tile) s = .next (s1.modTile tile (fun t => { t with
      flume := { t.flume.fetchNext (entryOf d) with fetchFrom := s1.wet.toNat + 1 } })).tryReady := by
  subst hva hu
  rw [exec_flumeEntryFetch, execFlumeEntryFetch, hr]
  dsimp only
  rw [if_neg (by rw [hgo]; decide), hfetch]

/-- R291, R303: a line whose page is not there aborts the region at the entry's address. -/
theorem exec_flumeEntryFetch_page {a : Nat} (hfetch : u.fetchEntry r.ctx va = (.error (.page a), s1)) :
    exec (.flumeEntryFetch tile) s = .next (s1.abortRegion { faultOf .translationFault 0 with
      tile := tile, where' := BitVec.ofNat 64 va, address := BitVec.ofNat 64 va }) := by
  subst hva hu
  rw [exec_flumeEntryFetch, execFlumeEntryFetch, hr]
  dsimp only
  rw [if_neg (by rw [hgo]; decide), hfetch]

/-- R291, R303: a poisoned line aborts the region at the entry's address. -/
theorem exec_flumeEntryFetch_poison {a : Nat} (hfetch : u.fetchEntry r.ctx va = (.error (.poison a), s1)) :
    exec (.flumeEntryFetch tile) s = .next (s1.abortRegion { faultOf .memUncorrectable 0 with
      tile := tile, where' := BitVec.ofNat 64 va, address := BitVec.ofNat 64 va }) := by
  subst hva hu
  rw [exec_flumeEntryFetch, execFlumeEntryFetch, hr]
  dsimp only
  rw [if_neg (by rw [hgo]; decide), hfetch]

end

end Sys2Proof.Machine
end

section
/-! The launch of a timed region (R300): its checks in order, and what a launch that passes leaves. -/

namespace Sys2Proof.Machine

/-! ## A tile taken by its sequencer (R89, R99, R300 step 2) -/

theorem State.tile_waitWet (s : State) (w k : Nat) : (s.waitWet w).tile k = s.tile k := State.tile_congr (by simp) k

section
variable (s : State) (n k : Nat) (hk : k ≠ n)
include hk

theorem State.tile_modTile_other (f : Tile → Tile) : (s.modTile n f).tile k = s.tile k := by
  rw [State.tile_modTile, if_neg hk]

theorem State.tile_modGroup_other (uid : Nat) (f : Group → Group) : (s.modGroup n uid f).tile k = s.tile k :=
  s.tile_modTile_other n k hk _

theorem State.tile_beginMatrix_other (c : MCmd) (t : Nat) (place : Option Nat) :
    (s.beginMatrix n c t place).tile k = s.tile k := by
  unfold State.beginMatrix
  dsimp only
  split
  · rw [State.tile_modGroup_other _ n k hk, State.tile_modTile_other _ n k hk]
  · rw [State.tile_modTile_other _ n k hk]

/-- The command that begins on a tile changes that tile alone. -/
theorem State.tile_beginOldest_other : (s.beginOldest n).tile k = s.tile k := by
  unfold State.beginOldest
  split
  · rfl
  · rw [State.tile_beginMatrix_other _ n k hk, State.tile_modTile_other _ n k hk, State.tile_waitWet]

end

section
variable (s : State) (c : Nat) (y : TileEntry)

theorem State.ownTile_other {k : Nat} (hk : k ≠ y.tile) : (s.ownTile c y).tile k = s.tile k := by
  unfold State.ownTile
  dsimp only
  rw [State.tile_modTile_other _ _ k hk, State.tile_waitWet]
  exact foldl_field (fun u => u.tile k) (fun u _ => u.tile_beginOldest_other _ k hk) _ s

/-- R300: the tile's sequencer begins with the entry's program and its window of the scratchpad. -/
theorem State.ownTile_flume : ((s.ownTile c y).tile y.tile).flume =
    { Flume.idle with active := true, prog := y.prog, base := y.base, size := y.size } := by
  unfold State.ownTile
  dsimp only
  rw [State.tile_modTile, if_pos rfl]

end

section
variable {ts : List TileEntry} (c : Nat)

theorem State.ownTiles_other {k : Nat} (hk : k ∉ ts.map (fun y => y.tile)) (s : State) :
    (ts.foldl (fun s y => s.ownTile c y) s).tile k = s.tile k := by
  induction ts generalizing s with
  | nil => rfl
  | cons z l ih =>
    rw [List.map_cons, List.mem_cons, not_or] at hk
    rw [List.foldl_cons, ih hk.2, State.ownTile_other _ _ _ hk.1]

/-- No tile is listed twice, so each keeps the entry it was taken with. -/
theorem State.ownTiles_flume (hnd : (ts.map (fun y => y.tile)).Nodup) {y : TileEntry} (hy : y ∈ ts) (s : State) :
    ((ts.foldl (fun s y => s.ownTile c y) s).tile y.tile).flume =
      { Flume.idle with active := true, prog := y.prog, base := y.base, size := y.size } := by
  induction ts generalizing s with
  | nil => cases hy
  | cons z l ih =>
    rw [List.map_cons, List.nodup_cons] at hnd
    rw [List.foldl_cons]
    rcases List.mem_cons.mp hy with rfl | hl
    · rw [State.ownTiles_other c hnd.1, State.ownTile_flume]
    · exact ih hnd.2 hl _

end

/-! ## The reason of a refusal (R300) -/

theorem firstReason_zero_left (b : Nat) : firstReason 0 b = b := if_pos rfl

theorem firstReason_zero_right (a : Nat) : firstReason a 0 = a := by
  unfold firstReason
  split
  · next h => exact h.symm
  · exact if_pos rfl

theorem firstReason_ne_zero {a b : Nat} (ha : a ≠ 0) (hb : b ≠ 0) : firstReason a b = min a b := by
  rw [firstReason, if_neg ha, if_neg hb]

/-- There is no reason only when neither check found one. -/
theorem firstReason_eq_zero {a b : Nat} : firstReason a b = 0 ↔ a = 0 ∧ b = 0 := by
  unfold firstReason
  split
  · next h => exact ⟨fun hb => ⟨h, hb⟩, And.right⟩
  · next h =>
    split
    · exact ⟨fun ha => absurd ha h, fun hab => absurd hab.1 h⟩
    · omega

section
variable (s : State) (c : Nat) (d : List Byte) (map : List Nat) (ts : List TileEntry)

theorem State.launchRefusal_busy (h : s.timed.region ≠ none) : s.launchRefusal c d map ts = 4 := by
  unfold State.launchRefusal
  exact if_pos (Option.isSome_iff_ne_none.mpr h)

theorem State.launchRefusal_epoch (h : s.timed.region = none) (hdev : 1 < imageDevices d) (hv : s.timed.valid = false) :
    s.launchRefusal c d map ts = 5 := by
  unfold State.launchRefusal
  rw [if_neg (by rw [h]; decide), if_pos ⟨.inl hdev, by rw [hv]; rfl⟩]

theorem tiles_nodup_of_tilesBad_eq_false {d : List Byte} {ts : List TileEntry} (h : tilesBad d ts = false) :
    (ts.map (fun y => y.tile)).Nodup := by
  unfold tilesBad at h
  rw [Bool.or_eq_false_iff, Bool.or_eq_false_iff] at h
  simpa using h.1.2

end

section
variable (u : PortUse) (e : BitVec 256)

theorem scanEntry_reservedKind (h : eKind e = 14) : scanEntry u e = 1 := if_pos h

theorem scanEntry_diagonalMode (h : eKind e = kMatrix) (hc : wClass (eWord e) = 8) (hop : wOp (eWord e) = mDiag) :
    scanEntry u e = 2 := by
  unfold scanEntry
  dsimp only
  rw [if_neg (by rw [h]; decide), if_neg (by rw [hc]; exact fun hx => absurd hx.2 (by decide)), if_pos h,
    if_neg (not_not.mpr hc), if_pos hop]

theorem scanEntry_sendTile (h : eKind e = kSend) (hb : sendBad u e = false) (ht : numTiles ≤ sendTile (eWord e)) :
    scanEntry u e = 3 := by
  unfold scanEntry
  dsimp only
  have hclass : ¬ (eKind e = kMatrix ∨ eKind e = kRow ∨ eKind e = kDma) := by rw [h]; decide
  rw [if_neg (by rw [h]; decide), if_neg (fun hx => hclass hx.1), if_neg (by rw [h]; decide), if_neg (by rw [h]; decide),
    if_neg (by rw [h]; decide), if_pos h, if_neg (by rw [hb]; decide), if_pos ht]

theorem scanEntry_emptyLoop (h : eKind e = kLoopBegin) (hn : eArg e = 0) : scanEntry u e = 1 := by
  unfold scanEntry
  dsimp only
  have hclass : ¬ (eKind e = kMatrix ∨ eKind e = kRow ∨ eKind e = kDma) := by rw [h]; decide
  rw [if_neg (by rw [h]; decide), if_neg (fun hx => hclass hx.1), if_neg (by rw [h]; decide), if_neg (by rw [h]; decide),
    if_neg (by rw [h]; decide), if_neg (by rw [h]; decide), if_neg (by rw [h]; decide), if_pos h, if_pos hn]

end

/-! ## The descriptor's checks, in order (R4, R300, R350) -/

theorem exec_descFlume {s : State} (hrel : s.hal.reloading = false) (c q : Nat) (x : BitVec 512) :
    exec (.descFlume c q x) s = .next (doDescFlume c q x s) := if_neg (by rw [hrel]; decide)

/-- R341, R350: a descriptor that may start and is well formed starts. -/
theorem State.startDesc_accepts {s : State} {c q type : Nat} {x : BitVec 512} {kind : Option Nat} {zeros : List (Nat × Nat)}
    (h : s.accepts c q x type kind zeros) (f : State → State) : s.startDesc c q x type kind zeros f = f s := by
  obtain ⟨hstart, hcheck⟩ := h
  unfold State.startDesc
  rw [if_pos hstart]
  unfold State.descCheck at hcheck
  cases kind with
  | none =>
    have hgood : descBad x type true (none == some kindCompute) (none == some kindCopy) zeros = none := hcheck
    dsimp only
    rw [hgood]
  | some k =>
    have hgood : descBad x type ((s.queue c q).kind == k) (some k == some kindCompute) (some k == some kindCopy) zeros = none :=
      hcheck
    dsimp only
    rw [hgood]

section
variable {s s1 s2 s3 : State} {c q : Nat} {x : BitVec 512} {par d m : List Byte} (hrel : s.hal.reloading = false)
  (hacc : s.accepts c q x 0x03 (some kindFlume) [(448, 64)]) (hpar : s.readStruct c (bvFld x 384 64) 48 = (.ok par, s1))
include hrel hacc hpar

theorem exec_descFlume_mismatch (hmatch : s1.paramsMatch par 0 = false) :
    exec (.descFlume c q x) s = .next (s1.descFault c q x .paramMismatch 0 0) := by
  rw [exec_descFlume hrel, doDescFlume, State.startDesc_accepts hacc, hpar]
  dsimp only
  rw [hmatch]
  rfl

variable (hmatch : s1.paramsMatch par 0 = true) (himage : s1.readStruct c (bvFld x 192 64) 256 = (.ok d, s2))
include hmatch himage

theorem exec_descFlume_imageBad (hbad : imageBad d = true) :
    exec (.descFlume c q x) s = .next (s2.refuseLaunch c q x 1) := by
  rw [exec_descFlume hrel, doDescFlume, State.startDesc_accepts hacc, hpar]
  dsimp only
  rw [hmatch, if_neg (by decide), himage]
  dsimp only
  rw [if_pos hbad]

/-- With the image and the member map read, the tile table and the programs are checked. -/
theorem exec_descFlume_tileTable (hgood : imageBad d = false)
    (hmap : s2.readStruct c (bvFld x 256 64) (2 * imageDevices d) = (.ok m, s3)) :
    exec (.descFlume c q x) s =
      .next (s3.launchRegion c q x d ((List.range (imageDevices d)).map (fun i => u16At m (2 * i)))) := by
  rw [exec_descFlume hrel, doDescFlume, State.startDesc_accepts hacc, hpar]
  dsimp only
  rw [hmatch, if_neg (by decide), himage]
  dsimp only
  rw [if_neg (by rw [hgood]; decide), hmap]

end

/-! ## The launch (R300) -/

/-- The state of a launch that passed every check. -/
def State.launched (s : State) (c q : Nat) (x : BitVec 512) (d : List Byte) (map : List Nat) (ts : List TileEntry) : State :=
  ((s.beginRegion c q (BitVec.ofNat 64 (bvFld x 320 64)) d map ts).setWork c q x .region).tryReady

/-- The region refused with the first reason, or launched. -/
theorem State.launchRegion_eq {s s4 s5 : State} {c q scan : Nat} {x : BitVec 512} {d tab : List Byte} {map : List Nat}
    {ts : List TileEntry} (htab : s.readStruct c (u64At d 24) (32 * imageTiles d) = (.ok tab, s4))
    (hts : ts = (List.range (imageTiles d)).map (fun i => tileEntry (sliceAt tab (32 * i) 32)))
    (hgood : ∀ i, i < imageTiles d → tileEntryBad (sliceAt tab (32 * i) 32) = false)
    (hscan : s4.scanAll c (imageUse d) ts = (.ok scan, s5)) {reason : Nat}
    (hreason : reason = firstReason scan (firstReason (if tilesBad d ts then 3 else 0) (s5.launchRefusal c d map ts))) :
    s.launchRegion c q x d map = if reason ≠ 0 then s5.refuseLaunch c q x reason else s5.launched c q x d map ts := by
  have hrows : ((List.range (imageTiles d)).map (fun i => sliceAt tab (32 * i) 32)).map tileEntry = ts := by
    rw [hts, List.map_map]
    rfl
  have hall : ((List.range (imageTiles d)).map (fun i => sliceAt tab (32 * i) 32)).any tileEntryBad = false := by
    simpa [List.any_eq_false] using hgood
  unfold State.launchRegion
  rw [htab]
  dsimp only
  rw [hrows, if_neg (by rw [hall]; decide), hscan]
  dsimp only
  rw [← hreason]
  rfl

section
variable (s : State) (c q : Nat) (x : BitVec 512) (d : List Byte) (map : List Nat) (ts : List TileEntry)

/-- What the rest of the launch keeps of the tiles as the sequencers took them. -/
theorem State.launched_tiles :
    (s.launched c q x d map ts).tiles = (ts.foldl (fun s y => s.ownTile c y) s).tiles := by
  refine Eq.trans (b := ((s.beginRegion c q (BitVec.ofNat 64 (bvFld x 320 64)) d map ts).setWork c q x .region).tiles) ?_ rfl
  rw [State.launched]
  simp

theorem State.launched_flume (hnd : (ts.map (fun y => y.tile)).Nodup) {y : TileEntry} (hy : y ∈ ts) :
    ((s.launched c q x d map ts).tile y.tile).flume =
      { Flume.idle with active := true, prog := y.prog, base := y.base, size := y.size } := by
  rw [State.tile_congr (s.launched_tiles c q x d map ts), State.ownTiles_flume c hnd hy]

/-- R300, R350: the descriptor waits for the region. -/
theorem State.launched_work : ((s.launched c q x d map ts).queue c q).work = some .region := by
  rw [State.launched, State.queue_tryReady, State.setWork, State.queue_modQueue]

/-- R300: the region that a launch makes. -/
theorem State.launched_region : ∃ r : Region, (s.launched c q x d map ts).timed.region = some r ∧
    r.id = BitVec.ofNat 64 (bvFld x 320 64) ∧ r.ctx = c ∧ r.queue = q ∧ r.length = u64At d 16 ∧ r.marker = u16At d 14 ∧
    r.tiles = ts.map (fun y => y.tile) ∧ r.map = map ∧ r.logical = u32At d 4 ∧ r.step = (s.ctx c).step := by
  have hbegun : ((s.beginRegion c q (BitVec.ofNat 64 (bvFld x 320 64)) d map ts).setWork c q x .region).timed.region =
      some { id := BitVec.ofNat 64 (bvFld x 320 64), ctx := c, queue := q, logical := (imageUse d).logical
             devices := imageDevices d, marker := u16At d 14, length := u64At d 16, phaseSet := u32At d 52
             portClass := (imageUse d).cls, portPeer := (imageUse d).peer, map := map
             tiles := ts.map (fun y => y.tile), stage := .launching, entryWet := 0, idle := s.wet.toNat, marks := []
             step := (s.ctx c).step, seed := (s.ctx c).jobSeed } := rfl
  obtain ⟨st, i, hregion⟩ := State.tryReady_region hbegun
  exact ⟨_, hregion, rfl, rfl, rfl, rfl, rfl, rfl, rfl, rfl, rfl⟩

end

end Sys2Proof.Machine
end

section
/-! O56: timed regions, their launch, program fetch and end. -/

namespace Sys2Proof.Machine

/-- A step that aborts the region `r` leaves no region, and its context with the abort's record. -/
theorem abort_outcome {s : State} {r : Region} {i : Instr} {f : FaultRec} (hr : s.timed.region = some r)
    (hi : exec i s = .next (s.abortRegion f)) (hst : (s.ctx r.ctx).st = .resident) (hf : (s.ctx r.ctx).fault = none) :
    ∃ (t : State) (g : FaultRec), exec i s = .next t ∧ t.timed.region = none ∧ (t.ctx r.ctx).fault = some g ∧ g.code = f.code := by
  obtain ⟨g, hg, hcode, -⟩ := State.abortRegion_fault f hr hst hf
  exact ⟨_, g, hi, State.abortRegion_region f hr, hg, hcode⟩

/-- Settles O56: the launch by its checks in order, the fetch by its place, the end by what each way of ending leaves. -/
theorem regionsLaunchFetchAndEnd : Obligations.RegionsLaunchFetchAndEnd := by
  refine ⟨?launch, ?refusal, ?reason, ?scan, ?fetchIdle, ?fetch, ?place, ?region, ?noRegion⟩
  case launch =>
    intro s s1 s2 s3 s4 s5 c q scan x par d m tab ts map hrel hacc hpar
    refine ⟨exec_descFlume_mismatch hrel hacc hpar, fun hmatch himage =>
      ⟨exec_descFlume_imageBad hrel hacc hpar hmatch himage, fun hgood hm hmap htab hts hrows hscan reason hreason => ?_⟩⟩
    have hexec := exec_descFlume_tileTable hrel hacc hpar hmatch himage hgood hm
    rw [← hmap, State.launchRegion_eq htab hts hrows hscan hreason] at hexec
    refine ⟨fun hne => by rw [hexec, if_pos hne, State.refuseLaunch], fun hzero => ?_⟩
    rw [if_neg (not_not.mpr hzero)] at hexec
    have htiles : tilesBad d ts = false := by
      have hrest := (firstReason_eq_zero.mp (hreason.symm.trans hzero)).2
      simpa using (firstReason_eq_zero.mp hrest).1
    have hflume := fun y hy => State.launched_flume s5 c q x d map ts (tiles_nodup_of_tilesBad_eq_false htiles) (y := y) hy
    obtain ⟨r, hregion, hid, hctx, hqueue, hlen, hmark, hrt, hrm, hlog, hstep⟩ := State.launched_region s5 c q x d map ts
    refine ⟨_, r, hexec, hregion, hid, hctx, hqueue, hlen, hmark, hrt, hrm, hlog, hstep, State.launched_work s5 c q x d map ts,
      fun y hy => ?_⟩
    rw [hflume y hy]
    exact ⟨rfl, rfl, rfl, rfl⟩
  case refusal =>
    exact fun s c d map ts => ⟨s.launchRefusal_busy c d map ts, s.launchRefusal_epoch c d map ts⟩
  case reason => exact fun a b => ⟨firstReason_zero_left b, firstReason_zero_right a, firstReason_ne_zero⟩
  case scan =>
    exact fun u e => ⟨scanEntry_reservedKind u e, scanEntry_diagonalMode u e, scanEntry_sendTile u e, scanEntry_emptyLoop u e⟩
  case fetchIdle => exact fun s tile h => exec_flumeEntryFetch_idle h
  case fetch =>
    intro s u s1 tile va r x hr hrun htile hx hact hend hlen hva hu
    subst hx
    have hgo : (!s.running || !r.tiles.elem tile || !(s.tile tile).flume.active || (s.tile tile).flume.fetchEnd ||
        decide (1024 ≤ (s.tile tile).flume.buf.length)) = false := by
      simp [hrun, htile, hact, hend, hlen]
    refine ⟨fun d hd => ⟨_, exec_flumeEntryFetch_entry hr hgo hva hu hd, ?_, ?_, ?_⟩,
      fun a ha => exec_flumeEntryFetch_page hr hgo hva hu ha, fun a ha => exec_flumeEntryFetch_poison hr hgo hva hu ha⟩
    · rw [State.tile_tryReady, State.tile_modTile, if_pos rfl]
    · simp
    · simp
  case place =>
    exact fun x e => ⟨x.fetchNext_buf e, x.fetchNext_end e, x.fetchNext_loopBegin e,
      fun n b l h hl => x.fetchNext_loopEnd e h hl, x.fetchNext_other e⟩
  case region =>
    intro s r hr
    refine ⟨exec_regionEnd_early hr, fun hrun hopen => ⟨fun hw => ?_, fun hw hst hf => ?_⟩, fun hrun hall fin hfin =>
      ⟨fun h hz => ?_, fun hz => ⟨fun hp => ?_, fun hp hwork => ?_⟩⟩,
      fun h hst hf => State.drainHazard_fault hr h hst hf, fun hst hf => ?_, fun hs hw hst hf => ?_, exec_timedWatchdog_early hr⟩
    · obtain ⟨x, hx⟩ := exec_regionEnd_unfinished hr hrun hopen
      rw [hx, if_neg (Nat.not_le.mpr hw)]
    · obtain ⟨x, hx⟩ := exec_regionEnd_unfinished hr hrun hopen
      rw [if_pos hw] at hx
      exact abort_outcome hr hx hst hf
    · rw [exec_regionEnd_finished hr hrun hall hfin, hz, Option.elim_some]
    · rw [exec_regionEnd_finished hr hrun hall hfin, hz, Option.elim_none, if_pos hp]
    · have hexec := exec_regionEnd_finished hr hrun hall hfin
      rw [hz, Option.elim_none, if_neg (by rw [hp]; decide)] at hexec
      exact ⟨_, hexec, s.endRegion_waitWet r fin hwork⟩
    · have hexec := exec_regionAbortMessage_eq hr
      obtain ⟨t, f, ht, hnone, hfault, hcode⟩ := abort_outcome hr hexec hst hf
      cases Host.Outcome.next.inj (ht.symm.trans hexec)
      exact ⟨_, f, ht, hnone, hfault, hcode, fun x hx => State.abortRegion_flume _ hr hst hx, State.abortRegion_sent _ hr hst⟩
    · exact abort_outcome hr (exec_timedWatchdog_due hr hs hw) hst hf
  case noRegion =>
    intro s h
    have habort := exec_regionAbortMessage_idle h
    exact ⟨exec_regionEnd_idle h, exec_timedWatchdog_idle h, fun hroot => by rw [habort, hroot]; rfl,
      fun hroot => by rw [habort, hroot]; rfl⟩

end Sys2Proof.Machine
end

section
/-! O5: PERST_N, DEVICE_RESET and a droop trip reset the device (R46, R425, R472, R473, R501). -/

namespace Sys2Proof.Machine

theorem exec_perstNAssert (short : Bool) (s : State) : exec (.perstNAssert short) s = execPerstNAssert short s := rfl

theorem exec_deviceReset (s : State) : exec .deviceReset s = .next (doDeviceReset s) := rfl

theorem exec_droopTrip (die monitor : Nat) (s : State) : exec (.droopTrip die monitor) s = execDroopTrip die monitor s := rfl

/-! ## The commands as device resets -/

/-- R501: PERST_N held low resets a module that is not OFF. -/
theorem exec_perstNAssert_alive {s : State} (h : s.mod.state ≠ .off) :
    exec (.perstNAssert false) s = .next ((s.modMod (fun m => { m with perstN := false })).deviceReset false) := by
  have halive : s.alive = true := bne_iff_ne.mpr h
  rw [exec_perstNAssert, execPerstNAssert, halive]
  rfl

/-- R473: a device reset that no other one keeps waiting. -/
theorem exec_deviceReset_idle {s : State} (h : s.mod.state ≠ .off) (hbusy : s.hal.resetBusy = false) :
    exec .deviceReset s = .next (s.deviceReset s.sec.running.isSome) := by
  have halive : s.alive = true := bne_iff_ne.mpr h
  rw [exec_deviceReset, doDeviceReset, halive, hbusy]
  rfl

/-- R482: while RESET_BUSY is 1 a further device reset has no effect. -/
theorem exec_deviceReset_busy {s : State} (hbusy : s.hal.resetBusy = true) : exec .deviceReset s = .next s := by
  rw [exec_deviceReset, doDeviceReset, hbusy]
  rfl

/-! ## A droop trip (R425, R426) -/

/-- What a droop trip records before it resets the device. -/
def State.droopRecorded (s : State) (die monitor : Nat) : State :=
  let s := (s.logEntry .droopTrip [die, monitor]).raiseAlert .droop
  let s := s.record (5, s.hal.ms, die, monitor, 0)
  if 2 ≤ s.recent 5 s.mod.bank.droops then s.logEntry .unrepairable [die, monitor] else s

theorem exec_droopTrip_powered {s : State} (hpg : s.mod.pg = true) (die monitor : Nat) :
    exec (.droopTrip die monitor) s = .next ((s.droopRecorded die monitor).deviceReset false) := by
  rw [exec_droopTrip]
  exact if_pos hpg

/-- R425: the trip is in the health log, and ALERT_N is low. -/
theorem State.droopRecorded_facts (s : State) (die monitor : Nat) :
    (s.droopRecorded die monitor).mod = { s.mod with alertN := false } ∧
    (∃ k ∈ (s.droopRecorded die monitor).hal.log, k.kind = .droopTrip ∧ k.args = [die, monitor]) := by
  unfold State.droopRecorded
  dsimp only
  split
  · exact ⟨rfl, ⟨.droopTrip, [die, monitor], s.tick.toNat⟩, by simp [State.record], rfl, rfl⟩
  · exact ⟨rfl, ⟨.droopTrip, [die, monitor], s.tick.toNat⟩, by simp [State.record], rfl, rfl⟩

/-- Settles O5: each command is a device reset, and what that leaves is `State.deviceReset_facts`. -/
theorem deviceResetEndsWork : Obligations.DeviceResetEndsWork := by
  refine ⟨fun s h => ⟨_, exec_perstNAssert_alive h, ?assert⟩, fun s h hbusy => ⟨_, exec_deviceReset_idle h hbusy, ?reset⟩,
    fun s _ hbusy => exec_deviceReset_busy hbusy, fun s d m hpg h => ⟨_, exec_droopTrip_powered hpg d m, ?droop⟩, fun s => rfl⟩
  case assert => simp [h]
  case reset => simp [h]
  case droop =>
    obtain ⟨hmod, hlog⟩ := s.droopRecorded_facts d m
    simp [hmod, h, hlog]

end Sys2Proof.Machine
end

section
/-! Ports (R48, R249, R257, R268, R486): what a change of one port, of IN_PATH, of the path table and a port going down leave. -/

namespace Sys2Proof.Machine

section
variable (s : State)

theorem State.port_modPort (p q : Nat) (f : Port → Port) :
    (s.modPort p f).port q = if q = p then f (s.port p) else s.port q := tabGet_tabMod _ _ _ _ _

theorem State.port_congr {s t : State} (h : t.fab.ports = s.fab.ports) (q : Nat) : t.port q = s.port q := by
  rw [State.port, State.port, h]

/-! ## IN_PATH and the path table -/

/-- Every port of `t` is that of `s` but for IN_PATH (R486). -/
def State.marks (s t : State) : Prop := ∀ q, t.port q = { s.port q with inPath := (t.port q).inPath }

theorem State.marks.trans {s t u : State} (h : s.marks t) (h' : t.marks u) : s.marks u := fun q => by
  rw [h' q, h q]

theorem State.marks_modPort (p : Nat) (b : Port → Bool) : s.marks (s.modPort p (fun x => { x with inPath := b x })) := by
  intro q
  rw [State.port_modPort]
  split
  · next h => rw [h]
  · rfl

/-- R486: the marking of ports by the path table changes IN_PATH alone. -/
theorem State.markPath_marks : s.marks s.markPath ∧ s.markPath = { s with fab := { s.fab with ports := s.markPath.fab.ports } } := by
  have hfold : ∀ (l : List Nat) (b : State → Nat → Port → Bool) (u : State),
      s.marks u ∧ u = { s with fab := { s.fab with ports := u.fab.ports } } →
      s.marks (l.foldl (fun s p => s.modPort p (fun x => { x with inPath := b s p x })) u) ∧
      l.foldl (fun s p => s.modPort p (fun x => { x with inPath := b s p x })) u = { s with fab := { s.fab with
        ports := (l.foldl (fun s p => s.modPort p (fun x => { x with inPath := b s p x })) u).fab.ports } } := by
    intro l b
    induction l with
    | nil => exact fun u h => h
    | cons p r ih =>
      intro u ⟨hm, hu⟩
      refine ih _ ⟨hm.trans (u.marks_modPort p _), ?_⟩
      rw [hu]
      rfl
  exact hfold _ (fun s p x => x.up && s.fab.partValid &&
    (List.range 256).any (fun b => (tabGet s.fab.path (0, 0) b).1 == p)) s ⟨fun _ => rfl, rfl⟩

theorem State.setPath_eq (f : Nat → Nat × Nat) :
    ∃ t, s.setPath f = (s.drawn.modFab (fun x => { x with path := t })).markPath := ⟨_, rfl⟩

/-- R257: a new path table comes with the ports marked by it, and takes one free value. -/
theorem State.setPath_marks (f : Nat → Nat × Nat) : s.marks (s.setPath f) ∧ s.setPath f = { s with
    fab := { s.fab with path := (s.setPath f).fab.path, ports := (s.setPath f).fab.ports }, freeCtr := s.freeCtr + 1 } := by
  obtain ⟨t, hset⟩ := s.setPath_eq f
  obtain ⟨hm, heq⟩ := State.markPath_marks (s.drawn.modFab (fun x => { x with path := t }))
  rw [hset]
  generalize (s.drawn.modFab (fun x => { x with path := t })).markPath = u at hm heq
  refine ⟨hm, ?_⟩
  rw [heq]
  rfl

/-! ## A port going down (R268) -/

variable (p : Nat)

theorem State.portDown_idle (h : (s.port p).up = false) : s.portDown p = s := by
  rw [State.portDown, h]
  rfl

/-- R268: the port's own state as it goes down. -/
def Port.dropped (x : Port) : Port := { x with up := false, inPath := false, downEvents := satAdd 32 x.downEvents 1 }

/-- R257, R268: the ports once `p` is down and out of the path table. -/
def State.portCut (s : State) (p : Nat) : State :=
  let s := s.modPort p Port.dropped
  if p < 16 ∧ s.fab.partValid then s.setPath s.pathEntry else s

theorem State.portDown_up (h : (s.port p).up = true) :
    s.portDown p = (((s.portCut p).resetPortSluices p).abortRegionOn p (faultOf .partnerLost 0)).emit .linkDown := by
  rw [State.portDown, h]
  rfl

theorem State.portCut_marks : (s.modPort p Port.dropped).marks (s.portCut p) := by
  unfold State.portCut
  dsimp only
  split
  · exact ((s.modPort p Port.dropped).setPath_marks _).1
  · exact fun _ => rfl

/-- A port going down leaves of the state what neither its link nor a region that uses it concerns. -/
theorem State.portCut_frame : (s.portCut p).mod = s.mod ∧ (s.portCut p).dram = s.dram ∧ (s.portCut p).hal = s.hal ∧
    (s.portCut p).repair = s.repair ∧ (s.portCut p).timed = s.timed ∧ (s.portCut p).ctxs = s.ctxs := by
  unfold State.portCut
  dsimp only
  split
  · rw [((s.modPort p Port.dropped).setPath_marks _).2]
    simp
  · simp

@[simp] theorem State.portDown_frame : (s.portDown p).mod = s.mod ∧ (s.portDown p).dram = s.dram ∧
    (s.portDown p).hal = s.hal ∧ (s.portDown p).repair = s.repair := by
  cases h : (s.port p).up with
  | false => rw [s.portDown_idle p h]; exact ⟨rfl, rfl, rfl, rfl⟩
  | true =>
    obtain ⟨hmod, hdram, hhal, hrepair, -, -⟩ := s.portCut_frame p
    rw [s.portDown_up p h]
    simp [State.resetPortSluices, hmod, hdram, hhal, hrepair]

theorem State.port_portDown_up (h : (s.port p).up = true) (q : Nat) : (s.portDown p).port q = (s.portCut p).port q := by
  rw [s.portDown_up p h]
  exact State.port_congr (by simp [State.resetPortSluices]) q

/-- R268: a port that goes down changes of any port whether it is up, IN_PATH and the count of such events, alone. -/
theorem State.port_portDown (q : Nat) : (s.portDown p).port q = { s.port q with
    up := ((s.portDown p).port q).up, inPath := ((s.portDown p).port q).inPath
    downEvents := ((s.portDown p).port q).downEvents } := by
  cases h : (s.port p).up with
  | false => rw [s.portDown_idle p h]
  | true =>
    rw [s.port_portDown_up p h, s.portCut_marks p q, State.port_modPort]
    split
    · next hq => rw [hq]; rfl
    · rfl

/-- R268: the lanes of a port and its ENABLE bit outlive its link. -/
theorem State.port_portDown_kept (q : Nat) : ((s.portDown p).port q).enable = (s.port q).enable ∧
    ((s.portDown p).port q).spare = (s.port q).spare ∧ ((s.portDown p).port q).laneMoves = (s.port q).laneMoves ∧
    ((s.portDown p).port q).broken = (s.port q).broken := by
  rw [State.port_portDown]
  exact ⟨rfl, rfl, rfl, rfl⟩

/-- R268: a port that is down stays down when another one goes down. -/
theorem State.port_portDown_stays {q : Nat} (hq : (s.port q).up = false) : ((s.portDown p).port q).up = false := by
  cases h : (s.port p).up with
  | false => rw [s.portDown_idle p h, hq]
  | true =>
    rw [s.port_portDown_up p h, s.portCut_marks p q, State.port_modPort]
    split
    · rfl
    · exact hq

/-- R268: the port is down. -/
theorem State.port_portDown_self : ((s.portDown p).port p).up = false := by
  cases h : (s.port p).up with
  | false => rw [s.portDown_idle p h, h]
  | true =>
    rw [s.port_portDown_up p h, s.portCut_marks p p, State.port_modPort, if_pos rfl]
    rfl

end

end Sys2Proof.Machine
end

section
/-! Link commands (R48, R249, R257, R268, R278 to R281, R285, R298, R400): ports down and up, lanes, the culvert, job boundaries. -/

namespace Sys2Proof.Machine

section
variable (s : State)

theorem exec_fabricPortDown (p : Nat) : exec (.fabricPortDown p) s = .next (s.portDown p) := rfl

theorem exec_linkSignalLoss (p : Nat) : exec (.linkSignalLoss p) s = .next (s.portDown p) := rfl

theorem exec_frameRetry (p a : Nat) : exec (.frameRetry p a) s = execFrameRetry p a s := rfl

theorem exec_retrain (d : Bool) : exec (.retrain d) s = .next (s.portDown (chainPort d)) := rfl

theorem exec_portTraining (p : Nat) (r : TrainResult) : exec (.portTraining p r) s = execPortTraining p r s := rfl

theorem exec_pathTableReweight (l : List Nat) : exec (.pathTableReweight l) s = execPathTableReweight l s := rfl

theorem exec_chainLoopbackTraining : exec .chainLoopbackTraining s = execChainLoopbackTraining s := rfl

theorem exec_chainEnableWrite (d enable : Bool) : exec (.chainEnableWrite d enable) s = .next (doChainEnableWrite d enable s) := rfl

theorem exec_laneMove {s : State} (hrel : s.hal.reloading = false) (p : Nat) (failed : Bool) :
    exec (.laneMove p failed) s = .next (doLaneMove p failed s) := if_neg (by rw [hrel]; decide)

theorem exec_jobBoundary {s : State} (hrel : s.hal.reloading = false) : exec .jobBoundary s = .next (doJobBoundary s) :=
  if_neg (by rw [hrel]; decide)

/-! ## Ports down (R249, R268) -/

/-- R268: with no region and no partition the port, its sluices and the report of the link are all that changes. -/
theorem State.portDown_alone {p : Nat} (hup : (s.port p).up = true) (hregion : s.timed.region = none)
    (hpart : s.fab.partValid = false) :
    s.portDown p = { s with
      fab := { s.fab with ports := (s.modPort p Port.dropped).fab.ports }
      sluices := (s.resetPortSluices p).sluices, sent := .linkDown :: s.sent } := by
  have hcut : s.portCut p = s.modPort p Port.dropped := if_neg (by simp [hpart])
  rw [s.portDown_up p hup, hcut, State.abortRegionOn]
  have hnone : ((s.modPort p Port.dropped).resetPortSluices p).timed.region = none := hregion
  rw [hnone]
  simp only [State.emit, State.resetPortSluices, State.modPort]

theorem exec_frameRetry_down {p : Nat} (h : (s.port p).up = false) (a : Nat) : exec (.frameRetry p a) s = .next s := by
  rw [exec_frameRetry, execFrameRetry, h]
  rfl

theorem exec_frameRetry_counted {p a : Nat} (h : (s.port p).up = true) (ha : a ≤ 16) :
    exec (.frameRetry p a) s = .next (s.modPort p (fun x => { x with frameRetries := satAdd 48 x.frameRetries 1 })) := by
  rw [exec_frameRetry, execFrameRetry, h]
  exact if_pos ha

theorem exec_frameRetry_last {p a : Nat} (h : (s.port p).up = true) (ha : 16 < a) :
    exec (.frameRetry p a) s = .next (s.portDown p) := by
  rw [exec_frameRetry, execFrameRetry, h]
  exact if_neg (Nat.not_le.mpr ha)

/-! ## Lanes (R249, R440) -/

/-- The state in which a lane's move takes its port down: the port changed by `f`, the move recorded for the bank as number
`n`, and logged. -/
def State.laneMoved (s : State) (p n : Nat) (f : Port → Port) : State :=
  (((s.modRepair (fun r => { r with laneWait := r.laneWait.filter (fun q => q != p) })).modPort p f).record
    (9, p, n, 0, 0)).logEntry .laneMove [p, n]

/-- R249: the first failing lane goes to the spare; a second one breaks the port. -/
theorem exec_laneMove_failed {s : State} {p : Nat} (hrel : s.hal.reloading = false) (hp : p < 18) :
    ((s.port p).spare = false → exec (.laneMove p true) s = .next ((s.laneMoved p 0 (fun x =>
      { x with spare := true, laneMoves := satAdd 32 x.laneMoves 1 })).portDown p)) ∧
    ((s.port p).spare = true →
      exec (.laneMove p true) s = .next ((s.laneMoved p 1 (fun x => { x with broken := true })).portDown p)) := by
  have hmove : doLaneMove p true s = s.moveLane p := by
    rw [doLaneMove, if_neg (Nat.not_le.mpr hp), if_neg (by simp)]
  rw [exec_laneMove hrel, hmove]
  exact ⟨fun h => congrArg _ (if_neg (by simpa [State.port, State.modRepair] using h)),
    fun h => congrArg _ (if_pos (by simpa [State.port, State.modRepair] using h))⟩

theorem State.port_laneMoved (p n : Nat) (f : Port → Port) : (s.laneMoved p n f).port p = f (s.port p) := by
  refine (State.port_congr (s := s.modPort p f) (by rfl) p).trans ?_
  rw [State.port_modPort, if_pos rfl]

/-! ## Training (R48, R281, R298) -/

theorem exec_portTraining_fails {p : Nat} {r : TrainResult} (hp : p < 18) (hup : (s.port p).up = false)
    (h : r.ok = false ∨ (s.port p).broken = true ∨ s.mod.pg = false ∨ (16 ≤ p ∧ 3 ≤ r.culverts)) :
    exec (.portTraining p r) s = .next (s.modPort p (fun x => { x with trainFailed := true })) := by
  rw [exec_portTraining, execPortTraining, if_neg (Nat.not_le.mpr hp), s.portDown_idle p hup]
  refine if_pos ?_
  unfold State.mayTrain
  rcases h with h | h | h | ⟨h, h'⟩
  · simp [h]
  · simp [h]
  · simp [h]
  · simp [h, h']

/-- R48, R298: a fabric port that trains comes up, with no partition nothing else changes but the report. -/
theorem exec_portTraining_up {p : Nat} {r : TrainResult} (hp : p < 16) (hup : (s.port p).up = false)
    (hpg : s.mod.pg = true) (hbroken : (s.port p).broken = false) (hok : r.ok = true) (hpart : s.fab.partValid = false)
    (hout : s.fab.out = []) : exec (.portTraining p r) s =
      .next ((s.modPort p (fun x => x.trained false false s.timed.refDomain r)).emit .linkUp) := by
  rw [exec_portTraining, execPortTraining, if_neg (by omega), s.portDown_idle p hup]
  dsimp only
  have hchain : decide (16 ≤ p) = false := decide_eq_false (by omega)
  rw [if_neg (by simp [State.mayTrain, hpg, hbroken, hok, hp, hchain]), if_neg (by simp [hpart]), hchain, hpart]
  have hpump : ∀ u : State, u.fab.out = [] → u.pumpOut = u := fun u hu => by rw [State.pumpOut, hu]; rfl
  rw [hpump _ (by simp [hout])]

/-- R298: with no partition a fabric port has the class that both ends agree on. -/
theorem Port.trained_alone (x : Port) (ref : Nat) (r : TrainResult) : (x.trained false false ref r).up = true ∧
    (x.trained false false ref r).peerId = r.peerId ∧ (x.trained false false ref r).vis = (r.rt + 1) / 2 + 1 ∧
    (x.trained false false ref r).cls = agreedClass (classOf false ((r.rt + 1) / 2 + 1) x.floor) r.peerClass ∧
    (x.trained false false ref r).trainFailed = false := ⟨rfl, rfl, rfl, rfl, rfl⟩

/-! ## The path table (R257) -/

theorem exec_pathTableReweight_idle (l : List Nat) (h : s.fab.pathAdapt = false ∨ s.fab.partValid = false) :
    exec (.pathTableReweight l) s = .next s := by
  rw [exec_pathTableReweight, execPathTableReweight, if_neg]
  rcases h with h | h <;> simp [h]

theorem exec_pathTableReweight_adapts (l : List Nat) (h : s.fab.pathAdapt = true) (h' : s.fab.partValid = true) :
    ∃ f, exec (.pathTableReweight l) s = .next (s.setPath f) := by
  rw [exec_pathTableReweight, execPathTableReweight, h, h']
  exact ⟨_, rfl⟩

/-! ## The culvert (R279, R280, R285) -/

theorem State.openChain_open (h16 : (s.port 16).loopback = true) (h17 : (s.port 17).loopback = true)
    (e16 : (s.port 16).enable = true) (e17 : (s.port 17).enable = true) (hheld : s.mod.computeHeld = false) :
    s.openChain = s.modMod (fun m => { m with chainActive := true }) := by
  rw [State.openChain, h16, h17, e16, e17, hheld]
  rfl

theorem State.closeChain_closed (h : s.mod.chainActive = false) : s.closeChain = s := by
  rw [State.closeChain, h]
  rfl

/-- R279: both chain ports in loopback. -/
def State.looped (s : State) : State :=
  (s.modPort 16 (fun x => { x with loopback := true })).modPort 17 (fun x => { x with loopback := true })

theorem State.port_looped : s.looped.port 16 = { s.port 16 with loopback := true } ∧
    s.looped.port 17 = { s.port 17 with loopback := true } := by
  unfold State.looped
  constructor
  · rw [State.port_modPort, if_neg (by decide), State.port_modPort, if_pos rfl]
  · rw [State.port_modPort, if_pos rfl, State.port_modPort, if_neg (by decide)]

/-- Two ports changed: no more than the table of ports changes. -/
theorem State.modPort_modPort_eq (p q : Nat) (f g : Port → Port) : (s.modPort p f).modPort q g = { s with
    fab := { s.fab with ports := ((s.modPort p f).modPort q g).fab.ports } } := rfl

theorem exec_chainLoopbackTraining_opens (hheld : s.mod.computeHeld = false) (hactive : s.mod.chainActive = false)
    (hpg : s.mod.pg = true) (e16 : (s.port 16).enable = true) (e17 : (s.port 17).enable = true) :
    exec .chainLoopbackTraining s = .next (s.looped.modMod (fun m => { m with chainActive := true })) := by
  obtain ⟨h16, h17⟩ := s.port_looped
  rw [exec_chainLoopbackTraining, execChainLoopbackTraining, if_neg (by simp [hheld, hactive, hpg])]
  refine congrArg Host.Outcome.next (State.openChain_open s.looped ?_ ?_ ?_ ?_ hheld)
  · rw [h16]
  · rw [h17]
  · rw [h16, ← e16]
  · rw [h17, ← e17]

theorem exec_chainLoopbackTraining_held (h : s.mod.computeHeld = true) : exec .chainLoopbackTraining s = .next s := by
  rw [exec_chainLoopbackTraining, execChainLoopbackTraining, h]
  rfl

/-- R280: with no context and no region, the culvert closes at once. -/
theorem exec_chainEnableWrite_closes (d : Bool) (hctxs : s.ctxs = []) (hregion : s.timed.region = none)
    (hactive : s.mod.chainActive = true) : exec (.chainEnableWrite d false) s =
      .next (((s.modPort (chainPort d) (fun x => { x with enable := false })).chainLow.portDown 16).portDown 17) := by
  rw [exec_chainEnableWrite, doChainEnableWrite]
  have hunused : ∀ f, (s.modPort (chainPort d) f).chainUsed (chainPort d) = false := fun f => by
    simp [State.chainUsed, State.regionUses, hregion, hctxs]
  rw [if_neg (by decide), if_neg (by rw [hunused]; decide), State.closeChain, if_pos (by simp [hactive])]

/-- R280: while a context lives, the culvert waits for the job boundary. -/
theorem exec_chainEnableWrite_waits (d : Bool) (hlive : s.liveCtxs.isEmpty = false) : exec (.chainEnableWrite d true) s =
      .next (s.modPort (chainPort d) (fun x => { x with enable := true })) := by
  have hlive' : (s.modPort (chainPort d) (fun x => { x with enable := true })).liveCtxs.isEmpty = false := hlive
  rw [exec_chainEnableWrite, doChainEnableWrite, if_pos rfl, if_neg (by rw [hlive']; decide)]

/-! ## Job boundaries (R280, R391, R395, R400) -/

/-- R391, R395: the reports of replays taken in. -/
def State.reportsTaken (s : State) : State :=
  (Config.hostReports s.freeCtr).foldl State.hostReport { s with freeCtr := s.freeCtr + 1 }

theorem State.hostReport_eq (r : Config.HostReport) : s.hostReport r = { s with hal := { s.hal with
    log := (s.hostReport r).hal.log, seepAlarms := (s.hostReport r).hal.seepAlarms } } := by
  unfold State.hostReport
  split <;> rfl

/-- Reports touch the health log and the count of alarms alone. -/
theorem State.reportsTaken_eq : s.reportsTaken = { s with freeCtr := s.freeCtr + 1, hal := { s.hal with
    log := s.reportsTaken.hal.log, seepAlarms := s.reportsTaken.hal.seepAlarms } } := by
  have hfold : ∀ (l : List Config.HostReport) (u v : State),
      v = { u with hal := { u.hal with log := v.hal.log, seepAlarms := v.hal.seepAlarms } } →
      l.foldl State.hostReport v = { u with hal := { u.hal with
        log := (l.foldl State.hostReport v).hal.log, seepAlarms := (l.foldl State.hostReport v).hal.seepAlarms } } := by
    intro l u
    induction l with
    | nil => exact fun v h => h
    | cons r rest ih =>
      refine fun v h => ih _ ?_
      rw [v.hostReport_eq r]
      rw [h]
  exact hfold _ { s with freeCtr := s.freeCtr + 1 } _ rfl

/-- R400: with nothing waiting, a job boundary takes the reports in and sees to the culvert. -/
theorem exec_jobBoundary_calm (hrel : s.hal.reloading = false) (hwaiting : s.repair.waiting = [])
    (hretire : s.repair.toRetire = []) (hunrec : s.repair.unrecorded = []) (hlane : s.repair.laneWait = [])
    (herrors : s.hal.memErrors = []) : exec .jobBoundary s = .next
      (if (s.port 16).enable && (s.port 17).enable then s.reportsTaken.openChain else s.reportsTaken.closeChain) := by
  have hrepair : s.reportsTaken.repair = s.repair := by rw [State.reportsTaken_eq]
  have hmem : s.reportsTaken.hal.memErrors = [] := by rw [State.reportsTaken_eq]; exact herrors
  have hport : s.reportsTaken.port = s.port := funext (State.port_congr (by rw [State.reportsTaken_eq]))
  have hlanes : s.reportsTaken.moveLanes = s.reportsTaken := s.reportsTaken.moveLanes_nil (by rw [hrepair, hlane])
  have hreports : (Config.hostReports s.freeCtr).foldl State.hostReport s.drawn = s.reportsTaken := rfl
  rw [exec_jobBoundary hrel, doJobBoundary, hreports, hlanes]
  simp only [hrepair, hmem, hwaiting, hretire, hunrec, hport, List.map_nil, List.filter_nil, List.append_nil,
    List.dedup_nil, List.foldl_nil, decide_true, Bool.true_or, if_true]

end

/-- Settles O18: each command by what it does to its port, the path table or the culvert. -/
theorem portsAndTheCulvert : Obligations.PortsAndTheCulvert := by
  refine ⟨⟨?down, ?downIdle, ?retrain, ?retry, ?retryLast, ?lane, ?laneAgain, ?train, ?trainFails,
    fun s l h => exec_pathTableReweight_idle s l h, ?reweight⟩, ?loopback, fun s h => exec_chainLoopbackTraining_held s h,
    ?closes, fun s d h => ?waits, ?opens, ?stays⟩
  case down =>
    intro s p hup hregion hpart
    have hport : ∀ q, (s.portDown p).port q = if q = p then Port.dropped (s.port p) else s.port q := fun q => by
      rw [State.port_congr (s := s.modPort p Port.dropped) (by rw [s.portDown_alone hup hregion hpart]) q, s.port_modPort p q]
    refine ⟨s.portDown p, exec_fabricPortDown s p, exec_linkSignalLoss s p, (hport p).trans (if_pos rfl),
      fun q hq => (hport q).trans (if_neg hq), ?_, ?_, ?_⟩
    · rw [s.portDown_alone hup hregion hpart]
    · rw [s.portDown_alone hup hregion hpart]
    · rw [s.portDown_alone hup hregion hpart]
      intro e he
      obtain ⟨hmem, hkept⟩ := List.mem_filter.mp he
      exact ⟨hmem, fun hk => by simpa [hk] using hkept⟩
  case downIdle =>
    intro s p h
    exact ⟨by rw [exec_fabricPortDown, s.portDown_idle p h], by rw [exec_linkSignalLoss, s.portDown_idle p h],
      exec_frameRetry_down s h⟩
  case retrain =>
    intro s d _ _
    exact ⟨_, exec_retrain s d, s.port_portDown_self _, (s.port_portDown_kept _ _).1, (s.portDown_frame _).1⟩
  case retry =>
    intro s p a hup ha
    exact ⟨_, exec_frameRetry_counted s hup ha, rfl, (s.port_modPort p p _).trans (if_pos rfl),
      fun q hq => (s.port_modPort p q _).trans (if_neg hq)⟩
  case retryLast => exact fun s p a hup ha => ⟨_, exec_frameRetry_last s hup ha, s.port_portDown_self p⟩
  case lane =>
    intro s p hrel hp hspare
    obtain ⟨-, hsp, hmoves, -⟩ := (s.laneMoved p 0 (fun x =>
      { x with spare := true, laneMoves := satAdd 32 x.laneMoves 1 })).port_portDown_kept p p
    rw [State.port_laneMoved] at hsp hmoves
    refine ⟨_, (exec_laneMove_failed hrel hp).1 hspare, hsp, State.port_portDown_self _ p, hmoves, ?_, ?_⟩
    · rw [(State.portDown_frame _ p).2.2.2]
      rfl
    · rw [(State.portDown_frame _ p).2.2.1]
      simp [State.laneMoved, State.record, State.modRepair]
  case laneAgain =>
    intro s p hrel hp hspare
    obtain ⟨-, -, -, hbroken⟩ := (s.laneMoved p 1 (fun x => { x with broken := true })).port_portDown_kept p p
    rw [State.port_laneMoved] at hbroken
    exact ⟨_, (exec_laneMove_failed hrel hp).2 hspare, hbroken, State.port_portDown_self _ p⟩
  case train =>
    intro s p r hp hup hpg hbroken hok hpart hout
    have hport : ((s.modPort p (fun x => x.trained false false s.timed.refDomain r)).emit .linkUp).port p =
        (s.port p).trained false false s.timed.refDomain r := (s.port_modPort p p _).trans (if_pos rfl)
    obtain ⟨h1, h2, h3, h4, h5⟩ := (s.port p).trained_alone s.timed.refDomain r
    refine ⟨_, exec_portTraining_up s hp hup hpg hbroken hok hpart hout, ?_, ?_, ?_, ?_, ?_, rfl, rfl, rfl⟩
    · rw [hport, h1]
    · rw [hport, h2]
    · rw [hport, h3]
    · rw [hport, h4]
    · rw [hport, h5]
  case trainFails =>
    exact fun s p r hp hup h => ⟨_, exec_portTraining_fails s hp hup h, (s.port_modPort p p _).trans (if_pos rfl), rfl⟩
  case reweight =>
    intro s l hadapt hpart
    obtain ⟨f, hexec⟩ := exec_pathTableReweight_adapts s l hadapt hpart
    obtain ⟨hmarks, heq⟩ := s.setPath_marks f
    generalize s.setPath f = t at hexec hmarks heq
    refine ⟨t, hexec, ?_, ?_, heq, fun p => ?_⟩
    · rw [heq]
    · rw [heq]
    · rw [hmarks p]
  case loopback =>
    intro s hheld hactive hpg e16 e17
    obtain ⟨h16, h17⟩ := s.port_looped
    have heq := s.modPort_modPort_eq 16 17 (fun x => { x with loopback := true }) (fun x => { x with loopback := true })
    have hexec := exec_chainLoopbackTraining_opens s hheld hactive hpg e16 e17
    change s.looped = { s with fab := { s.fab with ports := s.looped.fab.ports } } at heq
    generalize s.looped = u at h16 h17 heq hexec
    refine ⟨_, hexec, ?_, h16, h17, ?_⟩
    · rw [heq]
      rfl
    · rw [heq]
      rfl
  case closes =>
    intro s d hctxs hregion hactive
    refine ⟨_, exec_chainEnableWrite_closes s d hctxs hregion hactive, ?_, State.port_portDown_stays _ 17
      (State.port_portDown_self _ 16), State.port_portDown_self _ 17, ?_, ?_⟩
    · rw [(State.portDown_frame _ 17).1, (State.portDown_frame _ 16).1]
      rfl
    · rw [(State.port_portDown_kept _ 17 _).1, (State.port_portDown_kept _ 16 _).1]
      exact congrArg Port.enable ((s.port_modPort (chainPort d) _ _).trans (if_pos rfl))
    · rw [(State.portDown_frame _ 17).2.1, (State.portDown_frame _ 16).2.1]
      rfl
  case waits =>
    exact ⟨_, exec_chainEnableWrite_waits s d h, rfl,
      congrArg Port.enable ((s.port_modPort (chainPort d) _ _).trans (if_pos rfl)), rfl⟩
  case opens =>
    intro s hrel hwaiting hretire hunrec e16 e17 l16 l17 hheld hlane herrors
    have hport : s.reportsTaken.port = s.port := funext (State.port_congr (by rw [State.reportsTaken_eq]))
    have hmod : s.reportsTaken.mod = s.mod := by rw [State.reportsTaken_eq]
    rw [exec_jobBoundary_calm s hrel hwaiting hretire hunrec hlane herrors, e16, e17, Bool.and_self, if_pos rfl,
      State.openChain_open _ (by rw [hport, l16]) (by rw [hport, l17]) (by rw [hport, e16]) (by rw [hport, e17])
        (by rw [hmod, hheld]), State.modMod, hmod]
    rfl
  case stays =>
    intro s hrel hwaiting hretire hunrec e16 hactive hlane herrors
    have hmod : s.reportsTaken.mod = s.mod := by rw [State.reportsTaken_eq]
    rw [exec_jobBoundary_calm s hrel hwaiting hretire hunrec hlane herrors, e16, Bool.false_and, if_neg (by decide),
      State.closeChain_closed _ (by rw [hmod, hactive])]
    rfl

end Sys2Proof.Machine
end

section
/-! One sluice after a change of it or of others (R32, R33, R37, R44), and what the send half's operations leave. -/

namespace Sys2Proof.Machine

/-! ## The list of sluices -/

/-- `t` is `s` but for its sluices. -/
def State.sluicesOnly (s t : State) : Prop := t = { s with sluices := t.sluices }

section
variable {s t u : State}

theorem State.sluicesOnly.trans (h : s.sluicesOnly t) (h' : t.sluicesOnly u) : s.sluicesOnly u := by
  rw [State.sluicesOnly, h', h]

theorem State.sluicesOnly.field (h : s.sluicesOnly t) {γ : Type} (p : State → γ)
    (hp : ∀ u l, p { u with sluices := l } = p u) : p t = p s := by
  rw [h, hp]

theorem State.sluicesOnly_foldl {β : Type} {f : State → β → State} (hf : ∀ (s : State) a, s.sluicesOnly (f s a)) (l : List β) :
    ∀ s : State, s.sluicesOnly (l.foldl f s) := by
  induction l with
  | nil => exact fun _ => rfl
  | cons a r ih => exact fun s => (hf s a).trans (ih _)

end

section
variable (s : State) (i : SluiceId)

theorem State.setSluice_only (x : Sluice) : s.sluicesOnly (s.setSluice i x) := rfl

/-- The entry of a number in a list that holds none for it but at its end. -/
theorem State.sluice_setSluice (x : Sluice) : (s.setSluice i x).sluice i = x := by
  have hnone : (s.sluices.filter (fun e => e.1 != i)).find? (fun e => e.1 == i) = none := by
    simp [List.find?_eq_none]
  unfold State.sluice State.setSluice
  dsimp only
  rw [List.find?_append, hnone, Option.none_or]
  split
  · next h => rw [h]; rfl
  · simp

theorem State.sluice_setSluice_other {j : SluiceId} (hj : j ≠ i) (x : Sluice) : (s.setSluice i x).sluice j = s.sluice j := by
  have htail : (if x = Sluice.empty then [] else [(i, x)]).find? (fun e => e.1 == j) = none := by
    split
    · rfl
    · simp [Ne.symm hj]
  unfold State.sluice State.setSluice
  dsimp only
  rw [List.find?_append, htail, Option.or_none, List.find?_filter]
  congr 4
  funext e
  by_cases he : e.1 = j
  · simp [he, hj]
  · simp [he]

/-- A change of each sluice, by one that leaves the empty sluice as it is. -/
theorem State.sluice_map {f : SluiceId → Sluice → Sluice} (hf : ∀ j, f j Sluice.empty = Sluice.empty) (j : SluiceId) :
    ({ s with sluices := s.sluices.map (fun e => (e.1, f e.1 e.2)) } : State).sluice j = f j (s.sluice j) := by
  unfold State.sluice
  dsimp only
  induction s.sluices with
  | nil => exact (hf j).symm
  | cons e r ih =>
    rw [List.map_cons, List.find?_cons, List.find?_cons]
    cases he : e.1 == j with
    | false => exact ih
    | true => rw [← eq_of_beq he]; rfl

theorem State.sluice_congr {s t : State} (h : t.sluices = s.sluices) (j : SluiceId) : t.sluice j = s.sluice j := by
  rw [State.sluice, State.sluice, h]

/-! ## The send half (R33, R37, R44) -/

theorem State.put_only (timed : Bool) (w : Payload) : s.sluicesOnly (s.put i timed w) := rfl

/-- R32: the item stands behind the others, and the write pointer has moved. -/
theorem State.sluice_put (timed : Bool) (w : Payload) : (s.put i timed w).sluice i = { s.sluice i with
    wptr := nextGray (s.sluice i).wptr, items := (s.sluice i).items ++ [s.itemOf i timed w] } :=
  s.sluice_setSluice i _

theorem State.sluice_put_other {j : SluiceId} (hj : j ≠ i) (timed : Bool) (w : Payload) :
    (s.put i timed w).sluice j = s.sluice j := s.sluice_setSluice_other i hj _

theorem State.yieldSlots_only : s.sluicesOnly (s.yieldSlots i) := rfl

theorem modIf_length {α : Type} (l : List α) (p : α → Bool) (f : α → α) : (modIf l p f).length = l.length := by
  simp [modIf]

/-- R37, R89: the untimed items stamped `now` arrive a tick later. -/
def Sluice.yielded (x : Sluice) (now : BitVec 16) : Sluice :=
  { x with items := modIf x.items (fun it => !it.timed && it.stamp == now) (fun it => { it with arrive := it.arrive + 1 }) }

theorem State.yieldSlots_eq : s.yieldSlots i = { s with sluices := s.sluices.map (fun e =>
    (e.1, if sharesSend e.1 i then e.2.yielded (BitVec.ofNat 16 (s.stampCount i)) else e.2)) } := by
  unfold State.yieldSlots
  dsimp only
  refine congrArg (fun l => { s with sluices := l }) (List.map_congr_left (fun e _ => ?_))
  split <;> rfl

/-- R37, R89: giving way changes when items arrive, and no more. -/
theorem State.sluice_yieldSlots (j : SluiceId) : ∃ l, l.length = (s.sluice j).items.length ∧
    (s.yieldSlots i).sluice j = { s.sluice j with items := l } := by
  rw [State.yieldSlots_eq, s.sluice_map (f := fun j x => if sharesSend j i then
    x.yielded (BitVec.ofNat 16 (s.stampCount i)) else x) (fun j => ite_self _) j]
  split
  · exact ⟨_, modIf_length _ _ _, rfl⟩
  · exact ⟨_, rfl, rfl⟩

theorem State.sendTimed_only (w : Payload) : s.sluicesOnly (s.sendTimed i w) :=
  (s.yieldSlots_only i).trans (State.put_only _ i true w)

theorem State.credit_only : s.sluicesOnly (s.credit i) := by
  refine State.sluicesOnly_foldl (fun u w => ?_) _ s
  split
  · exact (State.setSluice_only _ _ _).trans (State.put_only _ _ _ _)
  · rfl

/-- R44: with nobody waiting no credit is used. -/
theorem State.credit_nil (h : (s.sluice i).waiting = []) : s.credit i = s := by
  rw [State.credit, h]
  rfl

/-- R44: with no free entry nobody goes on. -/
theorem State.credit_full (h : s.room i = false) : s.credit i = s := by
  unfold State.credit
  induction (s.sluice i).waiting with
  | nil => rfl
  | cons w r ih => rw [List.foldl_cons, if_neg (by rw [h]; decide), ih]

theorem State.sendUntimed_only (w : Payload) : s.sluicesOnly (s.sendUntimed i w) := by
  refine (s.credit_only i).trans ?_
  unfold State.sendUntimed
  dsimp only
  split
  · exact State.put_only _ _ _ _
  · exact State.setSluice_only _ _ _

/-- What a send into a half with a free entry leaves: the item behind the others, the write pointer moved, the rest as it was but
for the arrival of items that gave way. -/
theorem State.sendTimed_sluice (w : Payload) : ∃ l, l.length = (s.sluice i).items.length ∧
    (s.sendTimed i w).sluice i = { s.sluice i with
      wptr := nextGray (s.sluice i).wptr, items := l ++ [(s.yieldSlots i).itemOf i true w] } := by
  obtain ⟨l, hlen, hl⟩ := s.sluice_yieldSlots i i
  refine ⟨l, hlen, ?_⟩
  rw [State.sendTimed, State.sluice_put, hl]

theorem State.sendTimed_sluice_other {j : SluiceId} (hj : j ≠ i) (w : Payload) : ∃ l, l.length = (s.sluice j).items.length ∧
    (s.sendTimed i w).sluice j = { s.sluice j with items := l } := by
  obtain ⟨l, hlen, hl⟩ := s.sluice_yieldSlots i j
  exact ⟨l, hlen, (State.sluice_put_other _ i hj true w).trans hl⟩

/-! ## The item as it is stamped (R33, R35) -/

theorem State.itemOf_facts {d : Nat} (hd : s.sluiceDelay i = some d) (timed : Bool) (w : Payload) :
    (s.itemOf i timed w).stamp = BitVec.ofNat 16 (s.stampCount i) ∧ (s.itemOf i timed w).delay = d ∧
    (s.itemOf i timed w).visible = false ∧ (s.itemOf i timed w).timed = (timed && decide (i.kind ≠ .free)) ∧
    (s.itemOf i timed w).what = w :=
  ⟨rfl, by rw [State.itemOf, hd]; rfl, rfl, rfl, rfl⟩

theorem State.sluiceDelay_only {t : State} (h : s.sluicesOnly t) : t.sluiceDelay i = s.sluiceDelay i := by
  rw [h]
  rfl

theorem State.stampCount_only {t : State} (h : s.sluicesOnly t) : t.stampCount i = s.stampCount i := by
  rw [h]
  rfl

end

end Sys2Proof.Machine
end

section
/-! An entry of a flume program at its tick (R288, R290): the operation of its kind meets the state at that tick. -/

namespace Sys2Proof.Machine

section
variable (s : State) (tile : Nat)

@[simp] theorem State.tile_modFlume (k : Nat) (f : Flume → Flume) : (s.modFlume tile f).tile k =
    if k = tile then { s.tile tile with flume := f (s.tile tile).flume } else s.tile k := s.tile_modTile tile k _

/-- A change of a sequencer is no change of what the array and the scratchpad hold at a tick. -/
theorem State.scratchBytes_modFlume (f : Flume → Flume) (a n : Nat) :
    (s.modFlume tile f).scratchBytes tile a n = s.scratchBytes tile a n := by
  rw [State.scratchBytes, State.scratchBytes, State.nowTile, State.nowTile, State.tile_modFlume, if_pos rfl]
  rfl

/-- The units that entries of this tick use, `unit` among them. -/
def State.useUnit (s : State) (tile unit : Nat) : State := s.modFlume tile (fun x => { x with units := unit :: x.units })

theorem State.tile_useUnit (unit : Nat) : (s.useUnit tile unit).tile tile = { s.tile tile with
    flume := { (s.tile tile).flume with units := unit :: (s.tile tile).flume.units } } :=
  (s.tile_modFlume tile tile _).trans (if_pos rfl)

end

section
variable {s u : State} {tile kind pos : Nat} {r : Region} {e : BitVec 256} (hdue : s.entryDue tile kind r pos e u)
include hdue

/-- R288: at its tick the entry does what its kind does, on the state of that tick. -/
theorem State.entry_due (f : State → Region → Entry → State) :
    s.entry tile kind f = f u r ((s.tile tile).flume.entryAt s.timed.wetOffset pos e) := by
  obtain ⟨hregion, hrun, hstage, htile, hactive, hstopped, hended, ⟨rest, hbuf⟩, hkind, hgates, hfin, hhazard, hu, hin⟩ := hdue
  have hgo : ¬ (!s.running ∨ r.stage ≠ .running ∨ !r.tiles.elem tile ∨ !(s.tile tile).flume.active ∨
      (s.tile tile).flume.stopped ∨ (s.tile tile).flume.ended) := by
    simp [hrun, hstage, htile, hactive, hstopped, hended]
  have hskip : (gatedKind kind && (s.tile tile).flume.gates.any id) = false := by
    cases hk : gatedKind kind with
    | false => rfl
    | true => exact hgates hk
  have hmin := Nat.min_eq_left hfin
  have htimed : ∀ w, (s.passWet w).timed = s.timed := fun w => by simp [State.passWet]
  unfold State.entry
  rw [hregion]
  dsimp only
  rw [if_neg hgo, hbuf]
  dsimp only
  rw [if_neg (not_not.mpr hkind), hmin, hhazard]
  dsimp only
  rw [if_neg (Nat.not_lt.mpr hfin), hskip, htimed, if_neg (by decide)]
  simp only [Bool.not_false]
  rw [← hu, if_neg (Nat.not_lt.mpr hin)]
  rfl

/-- R290: a unit entry conflicts, or uses its unit and does what its kind does. -/
theorem State.unitEntry_due (unit : Entry → Nat) (f : State → Region → Entry → State) {n : Entry}
    (hn : n = (s.tile tile).flume.entryAt s.timed.wetOffset pos e) : s.unitEntry tile kind unit f =
      if (u.tile tile).flume.clash (unit n) n.tw then u.conflict tile n else f (u.useUnit tile (unit n)) r n := by
  subst hn
  exact State.entry_due hdue _

/-- R286: the program's address stays. -/
theorem State.entryDue_prog : (u.tile tile).flume.prog = (s.tile tile).flume.prog := by
  obtain ⟨-, -, -, -, -, -, -, -, -, -, -, -, hu, -⟩ := hdue
  have htile : ∀ v : State, ∀ f g, ((v.modTile tile f).modRegion g).tile tile = f (v.tile tile) := fun v f g =>
    (v.tile_modTile tile tile f).trans (if_pos rfl)
  rw [hu, htile, State.passWet, State.tile_waitWet]
  rfl

end

end Sys2Proof.Machine
end

section
/-! MATRIX and ROW entries (R81 to R83, R106, R111, R112, R123, R124, R509). -/

namespace Sys2Proof.Machine

theorem exec_flumeMatrix (tile : Nat) (s : State) : exec (.flumeMatrix tile) s = execFlumeMatrix tile s := rfl

theorem exec_flumeRow (tile : Nat) (op : RowOp) (len src dst : Nat) (s : State) :
    exec (.flumeRow tile op len src dst) s = execFlumeRow tile op len src dst s := rfl

theorem exec_flumeDma (tile : Nat) (d : DmaSpec) (s : State) : exec (.flumeDma tile d) s = execFlumeDma tile d s := rfl

theorem exec_flumeSend (tile : Nat) (s : State) : exec (.flumeSend tile) s = execFlumeSend tile s := rfl

/-! ## A unit used twice (R290) -/

section
variable {s u : State} {tile kind pos : Nat} {r : Region} {e : BitVec 256} {n : Entry}
  (hdue : s.entryDue tile kind r pos e u) (hn : n = (s.tile tile).flume.entryAt s.timed.wetOffset pos e)
include hdue hn

theorem State.unitEntry_clash {unit : Entry → Nat} (hclash : (u.tile tile).flume.clash (unit n) n.tw = true)
    (f : State → Region → Entry → State) : s.unitEntry tile kind unit f = u.conflict tile n := by
  rw [State.unitEntry_due hdue unit f hn, if_pos hclash]

theorem State.unitEntry_free {unit : Entry → Nat} (hfree : (u.tile tile).flume.clash (unit n) n.tw = false)
    (f : State → Region → Entry → State) : s.unitEntry tile kind unit f = f (u.useUnit tile (unit n)) r n := by
  rw [State.unitEntry_due hdue unit f hn, if_neg (by rw [hfree]; decide)]

end

/-! ## When a command breaks a rule of the array (R111, R112, R123, R124) -/

section
variable (a : MArray) {c : MCmd} {tw : Nat}

theorem MArray.collides_load (hop : c.op = mLoad) (h : tw < a.frontFrom (a.loadFmt c.word)) :
    a.collides c tw = some .frontCollision := if_pos ⟨hop, h⟩

theorem MArray.collides_pass (hop : c.op = mPass) (h : tw < a.entryFrom) : a.collides c tw = some .entryCollision := by
  rw [MArray.collides, if_neg (fun hx => absurd (hop.symm.trans hx.1) (by decide)), if_pos ⟨hop, h⟩]

theorem MArray.collides_drain (hop : c.op = mDrain)
    (h : tw < a.rowFree ((a.firstOf c).1 * (a.firstOf c).2) (((a.firstOf c).1 + 1) * (a.firstOf c).2)) :
    a.collides c tw = some .basinHazard := by
  rw [MArray.collides, if_neg (fun hx => absurd (hop.symm.trans hx.1) (by decide)),
    if_neg (fun hx => absurd (hop.symm.trans hx.1) (by decide)), if_pos ⟨hop, h⟩]

theorem MArray.collides_zero (hop : c.op = mZero) : a.collides c tw = none := by
  rw [MArray.collides, if_neg (fun hx => absurd (hop.symm.trans hx.1) (by decide)),
    if_neg (fun hx => absurd (hop.symm.trans hx.1) (by decide)), if_neg (fun hx => absurd (hop.symm.trans hx.1) (by decide))]

end

/-! ## MATRIX (R114, R509) -/

section
variable {s u : State} {tile pos : Nat} {r : Region} {e : BitVec 256} {n : Entry} {c : MCmd}
  (hdue : s.entryDue tile kMatrix r pos e u) (hn : n = (s.tile tile).flume.entryAt s.timed.wetOffset pos e)
  (hfree : (u.tile tile).flume.clash unitArray n.tw = false) (hc : c = matrixEntry (u.tile tile).flume r n)
include hdue hn hfree hc

/-- The command's checks, in order: the faults of its instruction, then the array's rules; then it begins. -/
theorem exec_flumeMatrix_due : exec (.flumeMatrix tile) s = .next (
    match matrixFault (u.tile tile).array.view (u.tile tile).flume.loaded false (u.tile tile).flume.size c with
    | some f => (u.useUnit tile unitArray).entryFault tile n f.1 0 f.2
    | none =>
      match (u.tile tile).array.collides c n.tw with
      | some k => (u.useUnit tile unitArray).entryFault tile n k 0 0
      | none =>
        let t := (u.useUnit tile unitArray).beginMatrix tile c n.tw (some n.place)
        if c.op = mLoad then t.modFlume tile (fun x => { x with loaded := true }) else t) := by
  subst hc
  rw [exec_flumeMatrix, execFlumeMatrix, State.unitEntry_free hdue hn (unit := fun _ => unitArray) hfree]
  dsimp only
  rw [State.tile_useUnit]
  rfl

end

/-! ## ROW (R81 to R83, R509) -/

section
variable {s u : State} {tile pos len src dst : Nat} {op : RowOp} {r : Region} {e : BitVec 256} {n : Entry}
  (hdue : s.entryDue tile kRow r pos e u) (hn : n = (s.tile tile).flume.entryAt s.timed.wetOffset pos e)
  (hfree : (u.tile tile).flume.clash unitRow n.tw = false)
include hdue hn hfree

/-- The row's checks, in order: its faults, the engine still held, an operand not there yet; then it runs. -/
theorem exec_flumeRow_due : exec (.flumeRow tile op len src dst) s = .next (
    let v := u.useUnit tile unitRow
    match rowFault op len src dst (u.tile tile).flume.size with
    | some f => v.entryFault tile n f.1 0 f.2
    | none =>
      if n.t < (u.tile tile).flume.rowBusy then v.conflict tile n
      else if n.tw < (u.tile tile).rowOperandFree (u.tile tile).flume.base src len then v.entryFault tile n .basinHazard 0 src
      else (v.modTile tile (fun _ => (v.nowTile tile).runRow op len (u.tile tile).flume.base src dst (n.op0.truncate 32)
        (n.op1.truncate 32) n.tw)).modFlume tile (fun x => { x with rowBusy := n.t + (len + 63) / 64 })) := by
  rw [exec_flumeRow, execFlumeRow, State.unitEntry_free hdue hn (unit := fun _ => unitRow) hfree]
  dsimp only
  rw [State.tile_useUnit]
  rfl

end

end Sys2Proof.Machine
end

section
/-! What starting a transfer leaves of the tiles (R84, R85, R234, R277). -/

namespace Sys2Proof.Machine

/-! ## Accesses on their way leave every tile as it is -/

section
variable (s : State)

theorem State.sendFabric_tiles (dev route : Nat) (op : FabOp) (access sync : Option Nat) (c : Nat) :
    (s.sendFabric dev route op access sync c).tiles = s.tiles := by
  unfold State.sendFabric
  dsimp only
  split <;> rfl

theorem State.launch_tiles (a : Access) : (s.launch a).tiles = s.tiles := by
  unfold State.launch
  dsimp only
  split
  · unfold State.sendAccess
    split
    · exact (State.sendUntimed_only _ _ _).field State.tiles (fun _ _ => rfl)
    · rfl
  · rfl

theorem State.cisUndead_tiles (dev n : Nat) : (s.cisUndead dev n).tiles = s.tiles := by
  unfold State.cisUndead
  split <;> rfl

theorem State.sendDirty_tiles (l : Line) (route c : Nat) : (s.sendDirty l route c).tiles = s.tiles := by
  unfold State.sendDirty
  split
  · rfl
  · exact s.sendFabric_tiles _ _ _ _ _ _

theorem State.flushLine_tiles (dev n route c : Nat) : (s.flushLine dev n route c).tiles = s.tiles := by
  have hbegun : ((s.cisUndead dev n).stopFills dev n).tiles = s.tiles := s.cisUndead_tiles dev n
  unfold State.flushLine
  dsimp only
  split
  · exact (State.sendDirty_tiles _ _ _ _).trans hbegun
  · exact hbegun

theorem State.dmaStore_tiles (a : Access) : (s.dmaStore a).tiles = s.tiles := by
  unfold State.dmaStore
  split
  · dsimp only
    rw [State.sendFabric_tiles, State.launch_tiles]
    exact foldl_field State.tiles (fun u d => u.flushLine_tiles d _ _ _) _ s
  · exact s.launch_tiles a

theorem State.reachFault_tiles (c va n perm : Nat) (u : FabUse) : (s.reachFault c va n perm u).2.tiles = s.tiles := by
  unfold State.reachFault
  split
  · rfl
  · rfl
  · split
    · rfl
    · exact (State.engines_eq (s.hostRange_engines _ _ _)).1
  · rfl

theorem State.dmaReach_tiles (c : Nat) (store : Bool) (ps : List (Nat × Nat × Nat)) :
    (s.dmaReach c store ps).2.2.tiles = s.tiles := by
  unfold State.dmaReach
  refine foldl_field (fun acc : List (Nat × Nat × Nat) × Option (Code × Nat) × State => acc.2.2.tiles) (fun acc p => ?_) _ _
  obtain ⟨ok, fault, u⟩ := acc
  cases fault with
  | some f => rfl
  | none =>
    dsimp only
    have h := u.reachFault_tiles c p.1 p.2.1 (ofBool store) (if store then .engineStore else .engineLoad)
    generalize u.reachFault c p.1 p.2.1 (ofBool store) (if store then .engineStore else .engineLoad) = z at h
    obtain ⟨f, v⟩ := z
    cases f with
    | some f => exact h
    | none =>
      dsimp only
      generalize v.hostPart c p.1 (ofBool store) _ = host
      cases host <;> exact h

end

/-! ## The start of a transfer (R84, R277) -/

section
variable (s : State) (tile k : Nat) (t : Dma) (cut : Option Nat)

/-- R84: the direction is taken; the transfer gets the tick by which it has passed. -/
theorem State.takeDma_facts : ((s.takeDma tile t cut).1.tile tile).flume = (s.tile tile).flume ∧
    ((s.takeDma tile t cut).1.tile tile).scratch = (s.tile tile).scratch ∧
    ∃ due, (s.takeDma tile t cut).2 = { t with due := due } := by
  unfold State.takeDma
  dsimp only
  refine ⟨?_, ?_, _, rfl⟩
  · rw [State.tile_modTile, if_pos rfl]
    split <;> rfl
  · rw [State.tile_modTile, if_pos rfl]
    split <;> rfl

/-- What holds of a tile once the transfer `t` stands in its entry `k`: the transfer as it was given, and with `cut`, of memory, the
fault it stops at; the sequencer and the scratchpad as they were. -/
def Tile.hasDma (x : Tile) (k : Nat) (t : Dma) (cut : Option Nat) (flume : Flume) (scratch : Tab Byte) : Prop :=
  (∃ y, tabGet x.dma none k = some y ∧ y.spec = t.spec ∧ y.ctx = t.ctx ∧ y.flume = t.flume ∧
    (∀ m va, cut = some m → t.spec.other = .memory va → y.fault = some (.linkBudget, va))) ∧
  x.flume = flume ∧ x.scratch = scratch

variable {s tile k t cut} in
/-- A transfer written to its entry stands there. -/
theorem State.hasDma_set {y : Dma} {flume : Flume} {scratch : Tab Byte} (hflume : (s.tile tile).flume = flume)
    (hscratch : (s.tile tile).scratch = scratch) (hspec : y.spec = t.spec) (hctx : y.ctx = t.ctx) (hof : y.flume = t.flume)
    (hcut : ∀ m va, cut = some m → t.spec.other = .memory va → y.fault = some (.linkBudget, va)) :
    ((s.modTile tile (fun x => { x with dma := tabSet x.dma none k (some y) })).tile tile).hasDma k t cut flume scratch := by
  rw [State.tile_modTile, if_pos rfl]
  exact ⟨⟨y, (tabGet_tabSet (s.tile tile).dma none (some y) k k).trans (if_pos rfl), hspec, hctx, hof, hcut⟩, hflume, hscratch⟩

theorem State.tile_fresh (j : Nat) : s.fresh.tile j = s.tile j := rfl

/-- The parts sent on their way. -/
theorem State.moveParts_tiles {β : Type} (access : State → β → Access) (inbound : Bool) (l : List β) :
    (l.foldl (fun u p => if inbound then u.launch (access u p) else u.dmaStore (access u p)) s).tiles = s.tiles :=
  foldl_field State.tiles (fun u p => by
    split
    · exact u.launch_tiles _
    · exact u.dmaStore_tiles _) l s

variable {s tile k t cut} in
theorem Tile.hasDma_congr {u v : State} {flume : Flume} {scratch : Tab Byte} (h : v.tiles = u.tiles)
    (hu : (u.tile tile).hasDma k t cut flume scratch) : (v.tile tile).hasDma k t cut flume scratch := by
  rwa [State.tile_congr h]

/-- R84, R277: the started transfer stands in its entry, with the fault it will stop at. -/
theorem State.startDma_hasDma (seed : Word64 × Word64) :
    ((s.startDma tile k t seed cut).tile tile).hasDma k t cut (s.tile tile).flume (s.tile tile).scratch := by
  obtain ⟨hflume, hscratch, due, hdue⟩ := s.takeDma_facts tile t cut
  unfold State.startDma
  generalize s.takeDma tile t cut = z at hflume hscratch hdue
  obtain ⟨v, t'⟩ := z
  dsimp only at hflume hscratch hdue ⊢
  subst hdue
  have hkeeps : ∀ w y, w = (v.modTile tile (fun x => { x with dma := tabSet x.dma none k (some y) })).fresh →
      (w.tile tile).flume = (s.tile tile).flume ∧ (w.tile tile).scratch = (s.tile tile).scratch := fun w y hw => by
    rw [hw, State.tile_fresh, State.tile_modTile, if_pos rfl]
    exact ⟨hflume, hscratch⟩
  cases hother : t.spec.other with
  | cluster rank off =>
    exact State.hasDma_set hflume hscratch rfl rfl rfl (fun m va _ hva => nomatch hother.symm.trans hva)
  | memory va | prefetch va =>
    dsimp only
    generalize hw : State.fresh _ = w
    obtain ⟨hflume', hscratch'⟩ := hkeeps w _ hw.symm
    have hreach := w.dmaReach_tiles t.ctx (!t.spec.inbound) (dmaParts t.spec va)
    generalize w.dmaReach t.ctx (!t.spec.inbound) (dmaParts t.spec va) = z at hreach
    obtain ⟨ok, fault, u⟩ := z
    rw [← State.tile_congr hreach] at hflume' hscratch'
    have hset : ∀ y : Dma, _ := fun y => State.hasDma_set (k := k) (t := t) (cut := cut) (y := y) hflume' hscratch'
    refine Tile.hasDma_congr (State.moveParts_tiles _ _ _ _) (hset _ rfl rfl rfl (fun m va' hm hva => ?_))
    subst hm
    cases hother.symm.trans hva
    all_goals rfl

end

end Sys2Proof.Machine
end

section
/-! DMA entries (R84, R85, R277, R289). -/

namespace Sys2Proof.Machine

/-- R289: the transfer a DMA entry starts. -/
def entryDma (x : Flume) (r : Region) (n : Entry) (d : DmaSpec) : Dma :=
  { spec := d, ctx := r.ctx, slot := 0, kern := 0, block := 0, flume := some (eArg n.bits % 16), base := x.base
    pc := BitVec.ofNat 64 n.place, mask := 0, issue := 0, due := 0, fault := none }

/-- R289: its transfer slot is tied to it; the tick's start knows of it. -/
def State.tieSlot (s : State) (tile k slot : Nat) : State :=
  (s.modFlume tile (fun x => { x with slots := tabSet x.slots 0 slot 1 })).noteStart tile (fun b => { b with dmas := k :: b.dmas })

theorem State.tile_tieSlot (s : State) (tile k slot : Nat) : ∃ b, (s.tieSlot tile k slot).tile tile = { s.tile tile with
    flume := { (s.tile tile).flume with slots := tabSet (s.tile tile).flume.slots 0 slot 1, before := b } } := by
  unfold State.tieSlot State.noteStart
  rw [State.tile_modFlume, if_pos rfl, State.tile_modFlume, if_pos rfl]
  exact ⟨_, rfl⟩

section
variable {s u : State} {tile pos : Nat} {d : DmaSpec} {r : Region} {e : BitVec 256} {n : Entry}
  (hdue : s.entryDue tile kDma r pos e u) (hn : n = (s.tile tile).flume.entryAt s.timed.wetOffset pos e)
  (hfree : (u.tile tile).flume.clash unitDma n.tw = false)
include hdue hn hfree

/-- The entry's checks, in order: its slot, the faults of its start, a free entry of the engine, its link budget; then it starts. -/
theorem exec_flumeDma_due : exec (.flumeDma tile d) s = .next (
    let v := u.useUnit tile unitDma
    if tabGet (u.tile tile).flume.slots 0 (eArg e % 16) = 1 then v.conflict tile n
    else match v.dmaFault d (u.tile tile).flume.size r.ctx none with
    | some f => v.entryFault tile n f.1 0 f.2
    | none =>
      match (u.tile tile).dmaFree with
      | none => v.conflict tile n
      | some k =>
        if v.overBudget tile (u.tile tile).flume.base d = some 0 then v.entryFault tile n .linkBudget 0 0
        else (v.startDma tile k (entryDma (u.tile tile).flume r n d) (r.seed, r.step)
          (v.overBudget tile (u.tile tile).flume.base d)).tieSlot tile k (eArg e % 16)) := by
  rw [exec_flumeDma, execFlumeDma, State.unitEntry_free hdue hn (unit := fun _ => unitDma) hfree]
  subst hn
  dsimp only
  rw [State.tile_useUnit]
  rfl

end

/-- What a DMA entry leaves that starts its transfer in the entry `k` of the engine. -/
theorem State.started_flumeDma (v t : State) (x : Flume) (tile k : Nat) (r : Region) (n : Entry) (d : DmaSpec) (cut : Option Nat)
    (ht : t = (v.startDma tile k (entryDma x r n d) (r.seed, r.step) cut).tieSlot tile k (eArg n.bits % 16)) :
    ∃ y, tabGet (t.tile tile).dma none k = some y ∧ y.spec = d ∧ y.ctx = r.ctx ∧ y.flume = some (eArg n.bits % 16) ∧
      (∀ m va, cut = some m → d.other = .memory va → y.fault = some (.linkBudget, va)) ∧
      tabGet (t.tile tile).flume.slots 0 (eArg n.bits % 16) = 1 ∧ (t.tile tile).scratch = (v.tile tile).scratch := by
  obtain ⟨⟨y, hy, hspec, hctx, hflume, hcut⟩, -, hscratch⟩ :=
    v.startDma_hasDma tile k (entryDma x r n d) cut (r.seed, r.step)
  generalize v.startDma tile k (entryDma x r n d) (r.seed, r.step) cut = w at hy hscratch ht
  obtain ⟨b, hb⟩ := w.tile_tieSlot tile k (eArg n.bits % 16)
  rw [ht, hb]
  have hslot := tabGet_tabSet (w.tile tile).flume.slots 0 1 (eArg n.bits % 16) (eArg n.bits % 16)
  exact ⟨y, hy, hspec, hctx, hflume, hcut, hslot.trans (if_pos rfl), hscratch⟩

end Sys2Proof.Machine
end

section
/-! SEND entries (R35, R39, R44, R277, R289). -/

namespace Sys2Proof.Machine

/-! ## A timed item into a mesh sluice -/

/-- R194, R196: a tile and a tile or a port are the ends of a mesh sluice. -/
theorem pathEnds_mesh {src dst : Nat} (hsrc : src < 2304) (hdst : dst < 2304 ∨ (2440 ≤ dst ∧ dst < 2458)) :
    (pathEnds ⟨.mesh, src, dst, 0⟩).isSome = true := by
  have hs : meshPos src 0 = some (tileRow src, tileCol src, 0) := if_pos hsrc
  have hd : ∃ b, meshPos dst 0 = some b := by
    rcases hdst with h | ⟨hlo, hhi⟩
    · exact ⟨_, if_pos h⟩
    · refine ⟨portPoint (dst - 2440), ?_⟩
      unfold meshPos
      rw [if_neg (by simp only [numTiles]; omega), if_neg (by omega), if_neg (by omega), if_pos ⟨hlo, hhi⟩]
  obtain ⟨b, hd⟩ := hd
  unfold pathEnds
  dsimp only
  rw [hs, hd]
  rfl

/-- R35: such a sluice has its path's delay. -/
theorem State.sluiceDelay_mesh (s : State) {src dst : Nat} (h : (pathEnds ⟨.mesh, src, dst, 0⟩).isSome = true) :
    ∃ d, s.sluiceDelay ⟨.mesh, src, dst, 0⟩ = some d := by
  obtain ⟨e, he⟩ := Option.isSome_iff_exists.mp h
  exact ⟨_, by rw [State.sluiceDelay, he]; rfl⟩

section
variable (v : State) {tile dst : Nat} (n : Entry) (w : Payload) (hends : (pathEnds ⟨.mesh, tile, dst, 0⟩).isSome = true)
include hends

/-- R44: with no free entry the region's send overruns. -/
theorem State.sendItem_full (hroom : v.room ⟨.mesh, tile, dst, 0⟩ = false) :
    v.sendItem tile n dst w = v.entryFault tile n .sluiceOverrun 0 0 := by
  unfold State.sendItem
  dsimp only
  rw [if_neg (by simp [Option.isNone_iff_eq_none, Option.isSome_iff_ne_none.mp hends]), if_neg (by rw [hroom]; decide)]

theorem State.sendItem_room (hroom : v.room ⟨.mesh, tile, dst, 0⟩ = true) : v.sendItem tile n dst w =
    (v.sendTimed ⟨.mesh, tile, dst, 0⟩ w).noteStart tile (fun b => { b with sends := ⟨.mesh, tile, dst, 0⟩ :: b.sends }) := by
  unfold State.sendItem
  dsimp only
  rw [if_neg (by simp [Option.isNone_iff_eq_none, Option.isSome_iff_ne_none.mp hends]), if_pos hroom]

/-- R33, R35: the item stands behind the others, timed, with the tick's stamp and the path's delay. -/
theorem State.sent_sendItem (hroom : v.room ⟨.mesh, tile, dst, 0⟩ = true) : ∃ it : Item,
    ((v.sendItem tile n dst w).sluice ⟨.mesh, tile, dst, 0⟩).items.getLast? = some it ∧
    ((v.sendItem tile n dst w).sluice ⟨.mesh, tile, dst, 0⟩).items.length =
      (v.sluice ⟨.mesh, tile, dst, 0⟩).items.length + 1 ∧
    it.stamp = BitVec.ofNat 16 v.wet.toNat ∧ it.timed = true ∧ it.visible = false ∧
    v.sluiceDelay ⟨.mesh, tile, dst, 0⟩ = some it.delay ∧ it.what = w ∧
    ((v.sendItem tile n dst w).tile tile).scratch = (v.tile tile).scratch := by
  rw [v.sendItem_room n w hends hroom]
  obtain ⟨l, hlen, hl⟩ := v.sendTimed_sluice ⟨.mesh, tile, dst, 0⟩ w
  obtain ⟨d, hd⟩ := v.sluiceDelay_mesh hends
  have hyield := v.yieldSlots_only ⟨.mesh, tile, dst, 0⟩
  obtain ⟨hstamp, hdelay, hvisible, htimed, hwhat⟩ := (v.yieldSlots ⟨.mesh, tile, dst, 0⟩).itemOf_facts ⟨.mesh, tile, dst, 0⟩
    ((v.sluiceDelay_only _ hyield).trans hd) true w
  have hscratch : ((v.sendTimed ⟨.mesh, tile, dst, 0⟩ w).tile tile).scratch = (v.tile tile).scratch := by
    rw [State.tile_congr ((v.sendTimed_only ⟨.mesh, tile, dst, 0⟩ w).field State.tiles (fun _ _ => rfl))]
  generalize v.sendTimed ⟨.mesh, tile, dst, 0⟩ w = t at hl hscratch
  generalize (v.yieldSlots ⟨.mesh, tile, dst, 0⟩).itemOf ⟨.mesh, tile, dst, 0⟩ true w = it at hl hstamp hdelay hvisible htimed hwhat
  have hnote : (t.noteStart tile (fun b => { b with sends := ⟨.mesh, tile, dst, 0⟩ :: b.sends })).sluice
      ⟨.mesh, tile, dst, 0⟩ = t.sluice ⟨.mesh, tile, dst, 0⟩ := State.sluice_congr rfl _
  refine ⟨it, ?_, ?_, ?_, by rw [htimed]; rfl, hvisible, by rw [hd, hdelay], hwhat, ?_⟩
  · rw [hnote, hl]; exact List.getLast?_concat
  · rw [hnote, hl, List.length_append, hlen]; rfl
  · rw [hstamp, v.stampCount_only _ hyield]; rfl
  · rw [State.noteStart, State.tile_modFlume, if_pos rfl]
    exact hscratch

end

/-! ## The entry -/

section
variable {s u : State} {tile pos p : Nat} {r : Region} {e : BitVec 256} {n : Entry} {b : List Byte}
  (hdue : s.entryDue tile kSend r pos e u) (hn : n = (s.tile tile).flume.entryAt s.timed.wetOffset pos e)
  (hp : p = sendPort (eWord e)) (hfree : (u.tile tile).flume.clash (unitPort p) n.tw = false)
  (hb : b = u.scratchBytes tile ((u.tile tile).flume.base + n.op0.toNat) n.op1.toNat)
include hdue hn hp hfree hb

/-- The entry's checks, in order: its length, the window, compression, the link budget; then the item is sent. -/
theorem exec_flumeSend_due : exec (.flumeSend tile) s = .next (
    let v := u.useUnit tile (unitPort p)
    let c := sendComp (eWord e)
    if n.op1.toNat = 0 ∨ 256 < n.op1.toNat then v.conflict tile n
    else if (u.tile tile).flume.size < n.op0.toNat + n.op1.toNat then v.entryFault tile n .scratchBounds 0 n.op0.toNat
    else if c ≠ 0 ∧ !v.compressOk (p - 15) then v.entryFault tile n .fabricAccess 0 0
    else if sendOver c tile pos b then v.entryFault tile n .linkBudget 0 0
    else v.sendItem tile n (if p = 31 then sendTile (eWord e) else 2440 + p)
      (if p = 31 then .scratch (sendTile (eWord e)) (eArg e) (sendData c tile pos r b)
        else .forward p (r.map.getD (sendDev (eWord e)) 0) (sendTile (eWord e)) (eArg e) (sendData c tile pos r b))) := by
  have hbits : n.bits = e := by rw [hn]; rfl
  have hpos : (n.place - (u.tile tile).flume.prog) / 32 = pos := by
    rw [State.entryDue_prog hdue, hn, Flume.entryAt, Nat.add_sub_cancel_left, Nat.mul_div_cancel_left _ (by decide)]
  rw [exec_flumeSend, execFlumeSend, State.unitEntry_free hdue hn (unit := fun n => unitPort (sendPort (eWord n.bits)))
    (by rw [hbits, ← hp]; exact hfree)]
  dsimp only
  have hv : (u.useUnit tile (unitPort (sendPort (eWord e)))).scratchBytes tile ((u.tile tile).flume.base + n.op0.toNat)
      n.op1.toNat = b := by rw [hb]; exact u.scratchBytes_modFlume tile _ _ _
  rw [State.tile_useUnit, hbits]
  dsimp only
  rw [hpos, hv, ← hp]
  congr 1
  by_cases h31 : p = 31
  · subst h31
    rfl
  · simp only [if_neg h31]
    rfl

end

end Sys2Proof.Machine
end

section
/-! MATRIX, ROW, DMA and SEND entries: the settled obligation. -/

namespace Sys2Proof.Machine

section
variable {s u v : State} {tile pos : Nat} {r : Region} {e : BitVec 256} {n : Entry}
  (hn : n = (s.tile tile).flume.entryAt s.timed.wetOffset pos e)
include hn

theorem unitEntry_conflicts {k unit len src dst : Nat} {op : RowOp} {d : DmaSpec} {i : Instr}
    (hi : (i, k, unit) ∈ [(.flumeMatrix tile, 1, 0), (.flumeRow tile op len src dst, 2, 2), (.flumeDma tile d, 3, 1),
      (.flumeSend tile, 4, 3 + sendPort (eWord e))])
    (hdue : s.entryDue tile k r pos e u) (hclash : (u.tile tile).flume.clash unit n.tw = true) :
    exec i s = .next (u.conflict tile n) := by
  have hbits : n.bits = e := by rw [hn]; rfl
  simp only [List.mem_cons, Prod.mk.injEq, List.not_mem_nil, or_false] at hi
  rcases hi with ⟨rfl, rfl, rfl⟩ | ⟨rfl, rfl, rfl⟩ | ⟨rfl, rfl, rfl⟩ | ⟨rfl, rfl, rfl⟩
  · exact congrArg _ (State.unitEntry_clash hdue hn (unit := fun _ => unitArray) hclash _)
  · exact congrArg _ (State.unitEntry_clash hdue hn (unit := fun _ => unitRow) hclash _)
  · exact congrArg _ (State.unitEntry_clash hdue hn (unit := fun _ => unitDma) hclash _)
  · exact congrArg _ (State.unitEntry_clash hdue hn (unit := fun n => unitPort (sendPort (eWord n.bits)))
      (by rw [hbits]; exact hclash) _)

/-- R84, R277: a DMA entry with a free entry of the engine and budget for its first chunk. -/
theorem flumeDma_starts {d : DmaSpec} {k : Nat} {cut : Option Nat} (hdue : s.entryDue tile kDma r pos e u)
    (hfree : (u.tile tile).flume.clash unitDma n.tw = false) (hv : v = u.useUnit tile unitDma)
    (hslot : tabGet (u.tile tile).flume.slots 0 (eArg e % 16) ≠ 1)
    (hnone : v.dmaFault d (u.tile tile).flume.size r.ctx none = none) (hk : (u.tile tile).dmaFree = some k)
    (hcut : cut = v.overBudget tile (u.tile tile).flume.base d) (hgo : cut ≠ some 0) :
    ∃ (t : State) (y : Dma), exec (.flumeDma tile d) s = .next t ∧ tabGet (t.tile tile).dma none k = some y ∧
      y.spec = d ∧ y.ctx = r.ctx ∧ y.flume = some (eArg e % 16) ∧
      (∀ m va, cut = some m → d.other = .memory va → y.fault = some (.linkBudget, va)) ∧
      tabGet (t.tile tile).flume.slots 0 (eArg e % 16) = 1 ∧ (t.tile tile).scratch = (u.tile tile).scratch := by
  have hbits : n.bits = e := by rw [hn]; rfl
  have hscratch : (v.tile tile).scratch = (u.tile tile).scratch := by rw [hv, State.tile_useUnit]
  rw [exec_flumeDma_due hdue hn hfree, ← hv, if_neg hslot, hnone, hk, ← hcut]
  dsimp only
  rw [if_neg hgo, ← hbits, ← hscratch]
  obtain ⟨y, hy⟩ := v.started_flumeDma _ (u.tile tile).flume tile k r n d cut rfl
  exact ⟨_, y, rfl, hy⟩

end

/-- Settles O58: each entry's checks in their order, and what it does when none of them holds. -/
theorem unitEntriesUseEachUnitOnceATick : Obligations.UnitEntriesUseEachUnitOnceATick := by
  unfold Obligations.UnitEntriesUseEachUnitOnceATick
  refine ⟨?_, ?_, ?_, ?_, ?_, ?_, ?_⟩
  · intro s u tile pos len src dst k unit op d r e n i hi hn hdue hclash
    exact unitEntry_conflicts hn hi hdue hclash
  · intro s u v tile pos r e n c hn hdue hv hc
    refine ⟨fun hclash => ?_, fun hfree => ?_⟩
    · exact congrArg _ (State.unitEntry_clash hdue hn (unit := fun _ => unitArray) hclash _)
    change v = u.useUnit tile unitArray at hv
    rw [exec_flumeMatrix_due hdue hn hfree hc, ← hv]
    refine ⟨fun f hf => by rw [hf], fun hnone => ⟨fun k hk => ?_, fun hk => ?_⟩⟩
    · rw [hnone, hk]
    · rw [hnone, hk]
  · intro a c tw
    exact ⟨a.collides_load, a.collides_pass, a.collides_drain, a.collides_zero⟩
  · intro s u v tile pos len src dst op r e n hn hdue hv hfree
    change v = u.useUnit tile unitRow at hv
    rw [exec_flumeRow_due hdue hn hfree, ← hv]
    refine ⟨fun f hf => by rw [hf], fun hnone => ?_⟩
    rw [hnone]
    dsimp only
    refine ⟨fun h => by rw [if_pos h], fun hrow hop => ?_, fun hrow hop => ?_⟩
    · rw [if_neg (Nat.not_lt.mpr hrow), if_pos hop]
    · rw [if_neg (Nat.not_lt.mpr hrow), if_neg (Nat.not_lt.mpr hop)]
  · intro s u v tile pos d r e n hn hdue hv hfree
    change v = u.useUnit tile unitDma at hv
    refine ⟨fun h => ?_, fun hslot => ⟨fun f hf => ?_, fun hnone => ⟨fun hk => ?_, fun k hk hcut => ?_, fun k cut hk hcut hgo =>
      flumeDma_starts hn hdue hfree hv hslot hnone hk hcut hgo⟩⟩⟩
    all_goals rw [exec_flumeDma_due hdue hn hfree, ← hv]
    · rw [if_pos h]
    · rw [if_neg hslot, hf]
    · rw [if_neg hslot, hnone, hk]
    · rw [if_neg hslot, hnone, hk, hcut]
      rfl
  · intro tile pos r d
    exact ⟨rfl, rfl, rfl, rfl⟩
  · intro s u v tile pos p dst r e n i b hn hdue hp hv hfree htile hdst hends hi hb
    change v = u.useUnit tile (unitPort p) at hv
    have hpath : (pathEnds ⟨.mesh, tile, dst, 0⟩).isSome = true := by
      refine pathEnds_mesh htile ?_
      rw [hdst]
      split <;> omega
    rw [exec_flumeSend_due hdue hn hp hfree hb, ← hv, ← hdst]
    dsimp only
    refine ⟨fun hlen => by rw [if_pos hlen], fun hpos hmax => ?_⟩
    rw [if_neg (by omega)]
    refine ⟨fun hsize => by rw [if_pos hsize], fun hsize => ?_⟩
    rw [if_neg (Nat.not_lt.mpr hsize)]
    refine ⟨fun hc hok => by rw [if_pos ⟨hc, by rw [hok]; rfl⟩], fun hc => ?_⟩
    rw [if_neg (by rintro ⟨h, h'⟩; simp [h] at hc; simp [hc] at h')]
    refine ⟨fun hover => by rw [if_pos hover], fun hover => ?_⟩
    rw [if_neg (by rw [hover]; decide)]
    subst hi
    refine ⟨fun hroom => by rw [v.sendItem_full n _ hpath hroom], fun hroom => ?_⟩
    have hsluice : v.sluice ⟨.mesh, tile, dst, 0⟩ = u.sluice ⟨.mesh, tile, dst, 0⟩ := hv ▸ State.sluice_congr rfl _
    have hwet : v.wet = u.wet := hv ▸ rfl
    have hdelay : v.sluiceDelay ⟨.mesh, tile, dst, 0⟩ = u.sluiceDelay ⟨.mesh, tile, dst, 0⟩ := hv ▸ rfl
    have hscratch : (v.tile tile).scratch = (u.tile tile).scratch := by rw [hv, State.tile_useUnit]
    rw [← hsluice, ← hwet, ← hdelay, ← hscratch]
    obtain ⟨it, hit⟩ := v.sent_sendItem n _ hpath hroom
    exact ⟨_, it, rfl, hit⟩

end Sys2Proof.Machine
end

section
/-! Sending into a sluice (R32, R33, R35, R44, R47, R48) and the fault of a crossing (R43, R114). -/

namespace Sys2Proof.Machine

theorem exec_sluiceSend (i : SluiceId) (timed : Bool) (b : List Byte) (dest : Option (Nat × Nat)) (s : State) :
    exec (.sluiceSend i timed b dest) s = execSluiceSend i timed b dest s := rfl

/-! ## Pointers (R32): shifts added without carry, twice, reach twice as far -/

/-- `x` and its shift by `k`, added without carry. -/
def xorShift (k : Nat) (x : BitVec 16) : BitVec 16 := x ^^^ (x >>> k)

theorem xorShift_twice (k : Nat) (x : BitVec 16) : xorShift k (xorShift k x) = xorShift (k + k) x := by
  unfold xorShift
  rw [BitVec.ushiftRight_xor_distrib, ← BitVec.shiftRight_add, BitVec.xor_assoc, ← BitVec.xor_assoc (x >>> k),
    BitVec.xor_self, BitVec.zero_xor]

theorem xorShift_comm (j k : Nat) (x : BitVec 16) : xorShift j (xorShift k x) = xorShift k (xorShift j x) := by
  simp only [xorShift, BitVec.ushiftRight_xor_distrib, ← BitVec.shiftRight_add, Nat.add_comm k j]
  ac_rfl

theorem xorShift_width (x : BitVec 16) : xorShift 16 x = x := by
  rw [xorShift, BitVec.ushiftRight_eq_zero (le_refl 16), BitVec.xor_zero]

theorem ofGray_toGray (x : BitVec 16) : ofGray (toGray x) = x := by
  calc ofGray (toGray x) = xorShift 1 (xorShift 2 (xorShift 4 (xorShift 8 (xorShift 1 x)))) := rfl
    _ = xorShift 1 (xorShift 1 (xorShift 2 (xorShift 4 (xorShift 8 x)))) := by
      rw [xorShift_comm 8 1, xorShift_comm 4 1, xorShift_comm 2 1]
    _ = xorShift 16 x := by
      rw [xorShift_twice 1, xorShift_twice 2, xorShift_twice 4, xorShift_twice 8]
    _ = x := xorShift_width x

theorem nextGray_toGray (x : BitVec 16) : nextGray (toGray x) = toGray (x + 1) := by rw [nextGray, ofGray_toGray]

/-! ## Delays (R35) -/

/-- R35: next to each other; from the first tile to the last, over both boundaries; across one boundary. -/
theorem State.sluiceDelay_samples (s : State) : s.sluiceDelay ⟨.mesh, 0, 1, 0⟩ = some 4 ∧
    s.sluiceDelay ⟨.mesh, 0, 2303, 0⟩ = some 105 ∧ s.sluiceDelay ⟨.mesh, 23, 24, 0⟩ = some 8 := ⟨rfl, rfl, rfl⟩

/-- R35: on one die no boundary adds to the hops. -/
theorem pathDelay_sameDie {a b : Nat × Nat × Nat} (hrow : a.1 / 24 = b.1 / 24) (hcol : a.2.1 / 24 = b.2.1 / 24) :
    pathDelay a b = 3 + (apart a.1 b.1 + apart a.2.1 b.2.1 + a.2.2 + b.2.2) := by
  have hbridges : bridgesOf a b = 0 := by
    rw [bridgesOf, hrow, hcol, bne_self_eq_false, bne_self_eq_false]
    rfl
  rw [pathDelay, hbridges, Nat.mul_zero, Nat.add_zero]

/-! ## A free entry (R33, R44, R47, R48) -/

theorem le_foldl_add {α : Type} (f : α → Nat) (l : List α) : ∀ k, k ≤ l.foldl (fun a e => a + f e) k := by
  induction l with
  | nil => exact fun _ => le_refl _
  | cons e r ih => exact fun k => (Nat.le_add_right _ _).trans (ih _)

theorem le_foldl_add_of_mem {α : Type} (f : α → Nat) {l : List α} {x : α} (hx : x ∈ l) :
    ∀ k, k + f x ≤ l.foldl (fun a e => a + f e) k := by
  induction l with
  | nil => cases hx
  | cons e r ih =>
    intro k
    rw [List.foldl_cons]
    rcases List.mem_cons.mp hx with rfl | h
    · exact le_foldl_add f r _
    · have := ih h (k + f e)
      omega

theorem sharesSend_self (i : SluiceId) : sharesSend i i = true := by simp [sharesSend]

section
variable (s : State) (i : SluiceId)

/-- R33: what a sluice holds is among what its send half counts. -/
theorem State.items_length_le_shared : (s.sluice i).items.length ≤
    (s.sluices.filter (fun e => sharesSend e.1 i)).foldl (fun a e => a + e.2.taken s.tick.toNat) 0 := by
  unfold State.sluice
  cases hfind : s.sluices.find? (fun e => e.1 == i) with
  | none => exact Nat.zero_le _
  | some e =>
    have he : e.1 = i := eq_of_beq (List.find?_some (p := fun e : SluiceId × Sluice => e.1 == i) hfind)
    have hmem : e ∈ s.sluices.filter (fun e => sharesSend e.1 i) :=
      List.mem_filter.mpr ⟨List.mem_of_find?_eq_some hfind, by rw [he]; exact sharesSend_self i⟩
    have hle := le_foldl_add_of_mem (fun e : SluiceId × Sluice => e.2.taken s.tick.toNat) hmem 0
    have htaken : e.2.items.length ≤ e.2.taken s.tick.toNat := Nat.le_add_right _ _
    exact htaken.trans (by simpa using hle)

theorem State.room_facts (h : s.room i = true) : s.quiesced i = false ∧ s.linkDown i = false ∧
    (s.sluice i).items.length < sluiceDepth i.kind := by
  simp only [State.room, Bool.and_eq_true, Bool.not_eq_true', decide_eq_true_eq] at h
  obtain ⟨⟨hquiet, hlink⟩, hdepth⟩ := h
  exact ⟨hquiet, hlink, (s.items_length_le_shared i).trans_lt hdepth⟩

/-- R48: a port sluice whose port is not up. -/
theorem State.linkDown_port (hkind : i.kind = .port) (hport : ∀ p, sluicePort i = some p → (s.port p).up = false) :
    s.linkDown i = true := by
  unfold State.linkDown
  rw [hkind]
  cases hp : sluicePort i with
  | none => rfl
  | some p => simp [hport p hp]

end

/-! ## SLUICE_SEND -/

section
variable {s : State} {i : SluiceId} {timed : Bool} {b : List Byte} {dest : Option (Nat × Nat)} {w : Payload} {d : Nat}
  (hw : w = (match dest with
    | some x => .scratch x.1 x.2 b
    | none => .bytes b))
  (hdelay : s.sluiceDelay i = some d) (hlen : b.length ≤ 256) (hlink : s.linkDown i = false)

/-- What a send with a free entry leaves of the sluice, of the others and of the tiles. -/
def State.sentItem (s t : State) (i : SluiceId) (timed : Bool) (d : Nat) (w : Payload) (it : Item) : Prop :=
  (t.sluice i).items.getLast? = some it ∧ (t.sluice i).items.length = (s.sluice i).items.length + 1 ∧
  (t.sluice i).wptr = nextGray (s.sluice i).wptr ∧ (t.sluice i).rptr = (s.sluice i).rptr ∧
  it.stamp = BitVec.ofNat 16 (s.stampCount i) ∧ it.delay = d ∧ it.visible = false ∧
  it.timed = (timed && decide (i.kind ≠ .free)) ∧ it.what = w ∧
  (∀ j, j ≠ i → (t.sluice j).wptr = (s.sluice j).wptr ∧ (t.sluice j).items.length = (s.sluice j).items.length) ∧
  t.tiles = s.tiles

theorem exec_sluiceSend_nothing (h : s.sluiceDelay i = none ∨ 256 < b.length ∨ s.linkDown i = true) :
    exec (.sluiceSend i timed b dest) s = .next s := by
  rw [exec_sluiceSend]
  unfold execSluiceSend
  exact if_pos h

include hdelay in
/-- R32, R33: an untimed item behind the others. -/
theorem State.sentItem_put : s.sentItem (s.put i false w) i false d w (s.itemOf i false w) := by
  obtain ⟨hstamp, hdel, hvisible, htimed, hwhat⟩ := s.itemOf_facts i hdelay false w
  have hput := s.sluice_put i false w
  have hother : ∀ j, j ≠ i → (s.put i false w).sluice j = s.sluice j := fun j hj => s.sluice_put_other i hj false w
  have htiles : (s.put i false w).tiles = s.tiles := rfl
  generalize s.put i false w = t at hput hother htiles
  refine ⟨?_, ?_, ?_, ?_, hstamp, hdel, hvisible, htimed, hwhat, fun j hj => ?_, htiles⟩
  · rw [hput]; exact List.getLast?_concat
  · rw [hput, List.length_append]; rfl
  · rw [hput]
  · rw [hput]
  · rw [hother j hj]
    exact ⟨rfl, rfl⟩

include hdelay in
/-- R32, R33, R37: a timed item behind the others. -/
theorem State.sentItem_sendTimed : s.sentItem (s.sendTimed i w) i true d w ((s.yieldSlots i).itemOf i true w) := by
  have hyield := s.yieldSlots_only i
  obtain ⟨hstamp, hdel, hvisible, htimed, hwhat⟩ :=
    (s.yieldSlots i).itemOf_facts i ((s.sluiceDelay_only i hyield).trans hdelay) true w
  obtain ⟨l, hlen, hsend⟩ := s.sendTimed_sluice i w
  have hother : ∀ j, j ≠ i → _ := fun j hj => s.sendTimed_sluice_other i hj w
  have htiles : (s.sendTimed i w).tiles = s.tiles := rfl
  rw [s.stampCount_only i hyield] at hstamp
  generalize (s.yieldSlots i).itemOf i true w = it at *
  generalize s.sendTimed i w = t at hsend hother htiles
  refine ⟨?_, ?_, ?_, ?_, hstamp, hdel, hvisible, htimed, hwhat, fun j hj => ?_, htiles⟩
  · rw [hsend]; exact List.getLast?_concat
  · rw [hsend, List.length_append, hlen]; rfl
  · rw [hsend]
  · rw [hsend]
  · obtain ⟨l', hlen', hj'⟩ := hother j hj
    rw [hj']
    exact ⟨rfl, hlen'⟩

include hw hdelay hlen hlink

/-- A send that may be made: timed ones, and the others. -/
theorem exec_sluiceSend_eq : exec (.sluiceSend i timed b dest) s =
    if timed ∧ i.kind ≠ .free then
      .next (if s.room i then s.sendTimed i w else (s.undoTick i.src).crossingFault .sluiceOverrun i)
    else .next (if s.quiesced i then s else s.sendUntimed i w) := by
  subst hw
  rw [exec_sluiceSend]
  unfold execSluiceSend
  have hmay : ¬ (s.sluiceDelay i = none ∨ 256 < b.length ∨ s.linkDown i = true) := by simp [hdelay, hlen, hlink]
  exact if_neg hmay

theorem exec_sluiceSend_room (hroom : s.room i = true)
    (hnext : (s.sluice i).waiting = [] ∨ (timed = true ∧ i.kind ≠ .free)) : ∃ (t : State) (it : Item),
      exec (.sluiceSend i timed b dest) s = .next t ∧ s.sentItem t i timed d w it := by
  rw [exec_sluiceSend_eq hw hdelay hlen hlink]
  by_cases ht : timed = true ∧ i.kind ≠ .free
  · rw [if_pos ht, if_pos hroom, ht.1]
    exact ⟨_, _, rfl, State.sentItem_sendTimed hdelay⟩
  · have hwait : (s.sluice i).waiting = [] := hnext.resolve_right ht
    have hfalse : (timed && decide (i.kind ≠ .free)) = (false && decide (i.kind ≠ .free)) := by
      cases timed <;> simp_all
    rw [if_neg ht, if_neg (by rw [(s.room_facts i hroom).1]; decide), State.sendUntimed, s.credit_nil i hwait]
    dsimp only
    rw [if_pos ⟨hwait, hroom⟩]
    have hsent := State.sentItem_put (w := w) hdelay
    unfold State.sentItem at hsent ⊢
    rw [hfalse]
    exact ⟨_, _, rfl, hsent⟩

theorem exec_sluiceSend_wait (hroom : s.room i = false) (huntimed : timed = false ∨ i.kind = .free)
    (hquiet : s.quiesced i = false) : exec (.sluiceSend i timed b dest) s =
      .next (s.setSluice i { s.sluice i with waiting := (s.sluice i).waiting ++ [w] }) := by
  rw [exec_sluiceSend_eq hw hdelay hlen hlink, if_neg (by rcases huntimed with h | h <;> simp [h]),
    if_neg (by rw [hquiet]; decide), State.sendUntimed, s.credit_full i hroom]
  dsimp only
  rw [if_neg (by rw [hroom]; exact fun h => nomatch h.2)]

theorem exec_sluiceSend_quiesced (huntimed : timed = false ∨ i.kind = .free)
    (hquiet : s.quiesced i = true) : exec (.sluiceSend i timed b dest) s = .next s := by
  rw [exec_sluiceSend_eq hw hdelay hlen hlink, if_neg (by rcases huntimed with h | h <;> simp [h]), if_pos hquiet]

theorem exec_sluiceSend_overrun (hroom : s.room i = false) (htimed : timed = true) (hkind : i.kind ≠ .free) :
    exec (.sluiceSend i timed b dest) s = .next ((s.undoTick i.src).crossingFault .sluiceOverrun i) := by
  rw [exec_sluiceSend_eq hw hdelay hlen hlink, if_pos ⟨htimed, hkind⟩, if_neg (by rw [hroom]; decide)]

end

/-! ## The tick undone (R114) and the region aborted (R43, R44, R303) -/

/-- R114: the tile's scratchpad and array are those of the tick's start. -/
theorem State.undoTick_tile {s : State} {k : Nat} {v : TickStart} (h : (s.tile k).flume.before = some v) :
    ((s.undoTick k).tile k).scratch = v.scratch ∧ ((s.undoTick k).tile k).array = v.array := by
  have htiles : ∀ (l : List SluiceId) (u : State), (l.foldl State.unsend u).tiles = u.tiles := fun l u =>
    foldl_field (f := State.unsend) State.tiles (fun _ _ => rfl) l u
  have hkept : ∀ (u : State) f g (l : List SluiceId),
      ((l.foldl State.unsend { u with flights := f }).modSync g).tile k = u.tile k := fun u f g l =>
    State.tile_congr ((htiles l { u with flights := f }).trans rfl) k
  unfold State.undoTick
  rw [h]
  dsimp only
  rw [hkept, State.tile_modTile, if_pos rfl]
  exact ⟨rfl, rfl⟩

section
variable {s : State} {c : Nat} (hst : (s.ctx c).st.stoppable = true)
include hst

/-- R341, R356: a stopping fault leaves its context STOPPED. -/
theorem State.takeFault_stopped (f : FaultRec) : ((s.takeFault c none f).ctx c).st = .stopped := by
  have hstate : ∀ u : State, ((u.modCtx c (fun x => { x with st := .stopped })).ctx c).st = .stopped := fun u => by
    rw [State.ctx_modCtx, if_pos rfl]
  have horder : ∀ (u : State) l, (u.ctx c).st = .stopped → (({ u with pendingOrder := l } : State).ctx c).st = .stopped :=
    fun _ _ h => h
  have hqueues : ∀ (u : State) (g : Ctx → Tab Queue), (u.ctx c).st = .stopped →
      ((u.modCtx c (fun x => { x with queues := g x })).ctx c).st = .stopped := fun u g h => by
    rw [State.ctx_modCtx, if_pos rfl, h]
  have hgauge : ∀ u : State, (u.ctx c).st = .stopped → ((u.gaugeRequest 1 false false).ctx c).st = .stopped := fun u h => by
    rw [State.ctx_congr (s := u) (by simp), h]
  have hstop : ∀ u : State, (u.ctx c).st = .stopped → ((u.stopBlocks c).ctx c).st = .stopped := fun u h => by
    rw [State.ctx_congr (s := u) (by simp), h]
  have hall := hstop _ (hqueues _ (fun x => x.queues.map (fun e => (e.1, Queue.stopWith f.code.value (f.detail % 0x8000) e.2)))
    (horder _ ((s.recordFault c f).pendingOrder.filter (fun x => x != c)) (hstate (s.recordFault c f))))
  unfold State.takeFault
  rw [if_pos hst]
  dsimp only
  split
  · exact hall
  · exact hgauge _ hall

end

/-- R43, R44: what the fault of a crossing leaves. -/
theorem State.crossingFault_facts {s : State} {r : Region} (c : Code) (i : SluiceId) (hr : s.timed.region = some r)
    (hst : (s.ctx r.ctx).st = .resident) (hf : (s.ctx r.ctx).fault = none) :
    ∃ f, ((s.crossingFault c i).ctx r.ctx).fault = some f ∧ f.code = c ∧ (s.crossingFault c i).timed.region = none ∧
      ((s.crossingFault c i).ctx r.ctx).st = .stopped ∧ (s.crossingFault c i).dram = s.dram ∧
      (c = .sluiceLate → ∃ e, (s.crossingFault c i).hal.log.head? = some e ∧ e.kind = .sluiceLate) := by
  have habort : ∀ u : State, u.timed = s.timed → u.ctxs = s.ctxs → u.dram = s.dram →
      ∃ f, ((u.abortRegion (faultOf c 0)).ctx r.ctx).fault = some f ∧ f.code = c ∧
        (u.abortRegion (faultOf c 0)).timed.region = none ∧ ((u.abortRegion (faultOf c 0)).ctx r.ctx).st = .stopped ∧
        (u.abortRegion (faultOf c 0)).dram = s.dram := fun u htimed hctxs hdram => by
    have hu := (congrArg Timed.region htimed).trans hr
    have hust : (u.ctx r.ctx).st = .resident := by rw [State.ctx_congr hctxs, hst]
    obtain ⟨f, hfault, hcode, -⟩ := State.abortRegion_fault (faultOf c 0) hu hust (by rw [State.ctx_congr hctxs, hf])
    refine ⟨f, hfault, hcode, State.abortRegion_region _ hu, ?_, (by simp [hdram])⟩
    rw [State.abortRegion_eq _ hu]
    exact State.takeFault_stopped (State.cutRegion_ctx _ hust).1 _
  unfold State.crossingFault
  by_cases hc : c = .sluiceLate
  · obtain ⟨f, hfault, hcode, hregion, hstopped, hdram⟩ := habort (s.logEntry .sluiceLate [i.src, i.dst, i.point])
      (by simp) (by simp) (by simp)
    simp only [if_pos hc]
    exact ⟨f, hfault, hcode, hregion, hstopped, hdram, fun _ => ⟨_, by simp; rfl, rfl⟩⟩
  · obtain ⟨f, hfault, hcode, hregion, hstopped, hdram⟩ := habort s rfl rfl rfl
    simp only [if_neg hc]
    exact ⟨f, hfault, hcode, hregion, hstopped, hdram, fun h => absurd h hc⟩

end Sys2Proof.Machine
end

section
/-! The receive half (R32, R34, R36, R37, R40, R43): pointer updates seen, items released, what a released item does. -/

namespace Sys2Proof.Machine

theorem exec_itemVisible (i : SluiceId) (s : State) : exec (.itemVisible i) s = execItemVisible i s := rfl

theorem exec_sluiceRelease (i : SluiceId) (s : State) : exec (.sluiceRelease i) s = execSluiceRelease i s := rfl

/-! ## Ticks that pass -/

theorem passTicks_field {γ : Type} (p : State → γ) (h : ∀ s : State, p s.tickOnce = p s) (n : Nat) :
    ∀ s, p (State.passTicks n s) = p s := by
  induction n with
  | zero => exact fun _ => rfl
  | succ n ih => exact fun s => (ih s.tickOnce).trans (h s)

theorem State.tick_tickOnce (s : State) : s.tickOnce.tick = s.tick + 1 := by
  unfold State.tickOnce
  dsimp only
  split <;> rfl

theorem tick_passTicks (n : Nat) : ∀ s : State, (State.passTicks n s).tick = s.tick + BitVec.ofNat 64 n := by
  induction n with
  | zero => exact fun s => (BitVec.add_zero _).symm
  | succ n ih =>
    intro s
    rw [State.passTicks, ih, State.tick_tickOnce, BitVec.add_assoc, BitVec.ofNat_add, BitVec.add_comm 1]
    rfl

/-- R30: the tick count after ticks that do not wrap it. -/
theorem toNat_tick_passTicks {n : Nat} {s : State} (h : s.tick.toNat + n < 2 ^ 64) :
    (State.passTicks n s).tick.toNat = s.tick.toNat + n := by
  rw [tick_passTicks, BitVec.toNat_add, BitVec.toNat_ofNat]
  omega

/-! ## The pointer update that passes (R32, R36, R37) -/

/-- The first such item of a list is the one marked. -/
theorem markSeen_split {it : Item} {l : List Item} (h : it ∈ l) :
    ∃ a b, l = a ++ it :: b ∧ markSeen it l = a ++ { it with visible := true } :: b := by
  induction l with
  | nil => cases h
  | cons y r ih =>
    by_cases hy : y = it
    · subst hy
      exact ⟨[], r, rfl, if_pos rfl⟩
    · obtain ⟨a, b, hr, hmark⟩ := ih (List.mem_of_ne_of_mem (Ne.symm hy) h)
      exact ⟨y :: a, b, by rw [hr]; rfl, by rw [markSeen, if_neg hy, hmark]; rfl⟩

section
variable (s : State)

theorem State.nextSeen_none {x : Sluice} (h : ∀ it ∈ x.items, it.visible = true) : s.nextSeen x = none := by
  unfold State.nextSeen
  rw [List.find?_eq_none.mpr (fun it hit => by simp [h it hit]), List.find?_eq_none.mpr (fun it hit => by simp [h it hit])]

theorem State.nextSeen_facts {x : Sluice} {it : Item} (h : s.nextSeen x = some it) : it ∈ x.items ∧ it.visible = false := by
  unfold State.nextSeen at h
  cases hfind : x.items.find? (fun it => !it.visible && it.timed && decide (it.arrive ≤ s.wet.toNat)) with
  | none =>
    rw [hfind] at h
    have hit := List.find?_some h
    exact ⟨List.mem_of_find?_eq_some h, by simpa using hit⟩
  | some y =>
    rw [hfind] at h
    cases h
    have hit := List.find?_some hfind
    simp only [Bool.and_eq_true, Bool.not_eq_true'] at hit
    obtain ⟨⟨hseen, -⟩, -⟩ := hit
    exact ⟨List.mem_of_find?_eq_some hfind, hseen⟩

variable (i : SluiceId) (it : Item)

/-- R36: while an update is on its way nothing of the sluices, the timed plane or the tiles changes. -/
theorem State.toVisible_keeps {γ : Type} (p : State → γ) (htick : ∀ u : State, p u.tickOnce = p u) :
    p (s.toVisible i it) = p s := by
  unfold State.toVisible
  split
  · dsimp only
    refine (passTicks_field p htick _ _).trans ?_
    split
    · exact tickUntil_field p htick _ _ _
    · rfl
  · rfl

/-- R32, R36: in the tick of its arrival an update has the synchroniser's cycles before it. -/
theorem State.toVisible_arrived (hrun : s.running = true) (h : s.wet.toNat = it.arrive) :
    (s.toVisible i it).tick = s.tick + BitVec.ofNat 64 (syncTicks i s.tick.toNat) := by
  unfold State.toVisible
  rw [if_pos hrun, if_neg (by omega)]
  dsimp only
  rw [h, Nat.sub_self, Nat.sub_zero]
  exact tick_passTicks _ _

theorem State.sluice_see : (s.see i it).sluice i = { s.sluice i with
    seenW := nextGray (s.sluice i).seenW, items := markSeen it (s.sluice i).items } := s.sluice_setSluice i _

theorem State.see_only : s.sluicesOnly (s.see i it) := rfl

/-! ## Items that leave (R34, R37, R44) -/

theorem State.sluice_takeItem : (s.takeItem i it).sluice i = { s.sluice i with
    rptr := nextGray (s.sluice i).rptr, items := (s.sluice i).items.erase it
    back := (s.sluice i).back.filter (fun t => decide (s.tick.toNat < t)) ++ [s.tick.toNat + 1 + syncTicks i s.tick.toNat] } :=
  s.sluice_setSluice i _

/-- Bytes are their receiver's, and with nobody waiting their entry stays free. -/
theorem State.releaseItem_bytes {b : List Byte} (hwait : (s.sluice i).waiting = []) (hwhat : it.what = .bytes b) :
    s.releaseItem i it = s.takeItem i it := by
  have hnone : ((s.takeItem i it).sluice i).waiting = [] := by rw [State.sluice_takeItem, hwait]
  rw [State.releaseItem, hwhat]
  exact State.credit_nil _ i hnone

end

/-! ## ITEM_VISIBLE -/

theorem exec_itemVisible_still {s : State} {i : SluiceId} (h : s.crossingRuns i = false) : exec (.itemVisible i) s = .next s := by
  rw [exec_itemVisible]
  unfold execItemVisible
  split
  · rfl
  · rw [h]
    rfl

theorem exec_itemVisible_none {s : State} {i : SluiceId} (h : s.nextSeen (s.sluice i) = none) :
    exec (.itemVisible i) s = .next s := by
  rw [exec_itemVisible]
  unfold execItemVisible
  rw [h]

section
variable {s : State} {i : SluiceId} {it : Item} (hseen : s.nextSeen (s.sluice i) = some it) (hrun : s.crossingRuns i = true)
include hseen hrun

theorem exec_itemVisible_seen : exec (.itemVisible i) s = .next (
    if i.kind = .free then ((s.toVisible i it).see i it).releaseItem i { it with visible := true }
    else (s.toVisible i it).see i it) := by
  rw [exec_itemVisible]
  unfold execItemVisible
  rw [hseen]
  dsimp only
  rw [if_neg (by rw [hrun]; decide)]

/-- R36, R37: over a crossing with stamps the item is seen, and no more. -/
theorem exec_itemVisible_stamped (hkind : i.kind ≠ .free) : ∃ (t : State) (a b : List Item), exec (.itemVisible i) s = .next t ∧
    (s.sluice i).items = a ++ it :: b ∧ (t.sluice i).items = a ++ { it with visible := true } :: b ∧
    (t.sluice i).seenW = nextGray (s.sluice i).seenW ∧ t.timed = s.timed ∧ t.tiles = s.tiles ∧
    (s.running = true → s.wet.toNat = it.arrive → t.tick = s.tick + BitVec.ofNat 64 (syncTicks i s.tick.toNat)) := by
  obtain ⟨hmem, -⟩ := s.nextSeen_facts hseen
  obtain ⟨a, b, hitems, hmark⟩ := markSeen_split hmem
  have hsluice : (s.toVisible i it).sluice i = s.sluice i :=
    State.sluice_congr (s.toVisible_keeps i it State.sluices (fun u => by simp)) i
  have hsee := (s.toVisible i it).see_only i it
  refine ⟨_, a, b, by rw [exec_itemVisible_seen hseen hrun, if_neg hkind], hitems, ?_, ?_, ?_, ?_, fun hon harrive => ?_⟩
  · rw [State.sluice_see, hsluice]
    exact hmark
  · rw [State.sluice_see, hsluice]
  · exact (hsee.field State.timed (fun _ _ => rfl)).trans (s.toVisible_keeps i it State.timed (fun u => by simp))
  · exact (hsee.field State.tiles (fun _ _ => rfl)).trans (s.toVisible_keeps i it State.tiles (fun u => by simp))
  · exact (hsee.field State.tick (fun _ _ => rfl)).trans (s.toVisible_arrived i it hon harrive)

/-- R40: over a free-release crossing the item is released as it is seen. -/
theorem exec_itemVisible_free (hkind : i.kind = .free) {b : List Byte} (hwhat : it.what = .bytes b)
    (hwait : (s.sluice i).waiting = []) : ∃ t : State, exec (.itemVisible i) s = .next t ∧
      (t.sluice i).items.length + 1 = (s.sluice i).items.length ∧ (t.sluice i).rptr = nextGray (s.sluice i).rptr ∧
      t.tiles = s.tiles := by
  obtain ⟨hmem, -⟩ := s.nextSeen_facts hseen
  obtain ⟨a, r, hitems, hmark⟩ := markSeen_split hmem
  have hsluice : (s.toVisible i it).sluice i = s.sluice i :=
    State.sluice_congr (s.toVisible_keeps i it State.sluices (fun u => by simp)) i
  have htiles := s.toVisible_keeps i it State.tiles (fun u => by simp)
  have hexec := exec_itemVisible_seen hseen hrun
  generalize s.toVisible i it = u at hsluice htiles hexec
  have hsee := u.sluice_see i it
  have hmem' : { it with visible := true } ∈ ((u.see i it).sluice i).items := by
    rw [hsee, hsluice, hmark]
    exact List.mem_append_right _ List.mem_cons_self
  refine ⟨(u.see i it).takeItem i { it with visible := true }, ?_, ?_, ?_, ?_⟩
  · rw [hexec, if_pos hkind]
    exact congrArg _ (State.releaseItem_bytes _ i { it with visible := true } (by rw [hsee, hsluice]; exact hwait) hwhat)
  · rw [State.sluice_takeItem]
    dsimp only
    rw [List.length_erase_of_mem hmem', hsee, hsluice, hmark, hitems]
    simp only [List.length_append, List.length_cons]
    omega
  · rw [State.sluice_takeItem, hsee, hsluice]
  · exact htiles

end

/-! ## SLUICE_RELEASE -/

theorem Sluice.nextOut_none {x : Sluice} (h : ∀ it ∈ x.items, it.visible = false ∧ it.timed = false) : x.nextOut = none :=
  List.find?_eq_none.mpr (fun it hit => by simp [h it hit])

theorem exec_sluiceRelease_still {s : State} {i : SluiceId} (h : s.crossingRuns i = false) :
    exec (.sluiceRelease i) s = .next s := by
  rw [exec_sluiceRelease]
  unfold execSluiceRelease
  split
  · rfl
  · rw [h]
    rfl

theorem exec_sluiceRelease_none {s : State} {i : SluiceId} (h : (s.sluice i).nextOut = none) :
    exec (.sluiceRelease i) s = .next s := by
  rw [exec_sluiceRelease]
  unfold execSluiceRelease
  rw [h]

section
variable {s u : State} {i : SluiceId} {it : Item} (hnext : (s.sluice i).nextOut = some it) (hrun : s.crossingRuns i = true)
  (hu : u = (if i.kind = .free then s else s.passWet (it.delay - s.itemAge i it)))
include hnext hrun

/-- R43: a timed item whose tick has passed. -/
theorem exec_sluiceRelease_late (htimed : it.timed = true) (hage : it.delay < s.itemAge i it) :
    exec (.sluiceRelease i) s = .next ((s.takeItem i it).crossingFault .sluiceLate i) := by
  rw [exec_sluiceRelease]
  unfold execSluiceRelease
  rw [hnext]
  dsimp only
  rw [if_neg (by rw [hrun]; decide), if_pos ⟨htimed, hage⟩]

include hu

/-- R34, R37: time passes to stamp + D, and the item goes if it is visible by then. -/
theorem exec_sluiceRelease_due (hdue : it.timed = false ∨ s.itemAge i it ≤ it.delay) : exec (.sluiceRelease i) s = .next (
    if !it.visible then (u.takeItem i it).crossingFault .sluiceLate i else (u.releaseEarlier i).releaseItem i it) := by
  have hnot : ¬ (it.timed = true ∧ it.delay < s.itemAge i it) := fun ⟨htimed, hage⟩ =>
    hdue.elim (fun h => Bool.false_ne_true (h.symm.trans htimed)) (fun h => absurd hage (Nat.not_lt.mpr h))
  subst hu
  rw [exec_sluiceRelease]
  unfold execSluiceRelease
  rw [hnext]
  dsimp only
  rw [if_neg (by rw [hrun]; decide), if_neg hnot]
  split <;> rfl

end

/-! ## A flume send's bytes at their tile (R289) -/

section
variable {α : Type} [DecidableEq α] (d : α)

theorem tabGet_tabWrite_below {k : Nat} (vs : List α) : ∀ (t : Tab α) {lo : Nat}, k < lo →
    tabGet (tabWrite t d lo vs) d k = tabGet t d k := by
  induction vs with
  | nil => exact fun _ _ _ => rfl
  | cons v r ih =>
    intro t lo hk
    rw [tabWrite, ih _ (Nat.lt_succ_of_lt hk), tabGet_tabSet, if_neg (Nat.ne_of_lt hk)]

/-- What is written to consecutive entries is read back. -/
theorem tabRange_tabWrite (vs : List α) : ∀ (t : Tab α) (lo : Nat), tabRange (tabWrite t d lo vs) d lo vs.length = vs := by
  induction vs with
  | nil => exact fun _ _ => rfl
  | cons v r ih =>
    intro t lo
    have hhead : tabGet (tabWrite (tabSet t d lo v) d (lo + 1) r) d lo = v := by
      rw [tabGet_tabWrite_below d r _ (Nat.lt_succ_self lo), tabGet_tabSet, if_pos rfl]
    have htail := ih (tabSet t d lo v) (lo + 1)
    rw [tabRange] at htail
    rw [tabRange, List.length_cons, List.range_succ_eq_map, List.map_cons, List.map_map, tabWrite]
    refine congrArg₂ List.cons hhead (Eq.trans (List.map_congr_left (fun k _ => ?_)) htail)
    rw [Function.comp_apply, Nat.succ_eq_add_one, Nat.add_comm k 1, ← Nat.add_assoc]

end

section
variable {s : State} {i : SluiceId} {t off : Nat} {d : List Byte} {r : Region} (hkind : i.kind ≠ .port)
  (hr : s.timed.region = some r) (hgoing : (s.tile t).flume.stopped = false)
include hkind hr hgoing

theorem State.deliver_scratch_inside (ht : t ∈ r.tiles) (hin : off + d.length ≤ (s.tile t).flume.size) :
    s.deliver i (.scratch t off d) = s.scratchWrite t ((s.tile t).flume.base + off) d := by
  unfold State.deliver
  dsimp only
  rw [if_neg hkind]
  unfold State.sendLands
  rw [hr]
  dsimp only
  rw [if_neg (by rw [hgoing]; decide), if_neg]
  simp [ht, hin]

/-- R289: outside its region's window a send aborts the region. -/
theorem State.deliver_scratch_outside (hout : t ∉ r.tiles ∨ (s.tile t).flume.size < off + d.length) :
    (s.deliver i (.scratch t off d)).timed.region = none := by
  have habort := State.abortRegion_region { faultOf .scratchBounds 0 with tile := t, address := BitVec.ofNat 64 off } hr
  unfold State.deliver
  dsimp only
  rw [if_neg hkind]
  unfold State.sendLands
  rw [hr]
  dsimp only
  rw [if_neg (by rw [hgoing]; decide), if_pos (by simpa using hout)]
  exact habort

end

theorem State.scratchWrite_facts (s : State) (t a : Nat) (d : List Byte) :
    tabRange ((s.scratchWrite t a d).tile t).scratch 0 a d.length = d ∧ (s.scratchWrite t a d).timed = s.timed ∧
    ∀ t', t' ≠ t → (s.scratchWrite t a d).tile t' = s.tile t' := by
  unfold State.scratchWrite
  refine ⟨?_, rfl, fun t' ht' => by rw [State.tile_modTile, if_neg ht']⟩
  rw [State.tile_modTile, if_pos rfl]
  exact tabRange_tabWrite 0 d _ a

end Sys2Proof.Machine
end

section
/-! Event lines (R41), Halnor's events (R42, R43) and the resets of groups (R45 to R48). -/

namespace Sys2Proof.Machine

theorem exec_eventLineToggle (l : Nat) (s : State) : exec (.eventLineToggle l) s = execEventLineToggle l s := rfl

theorem exec_halnorEventApply (s : State) : exec .halnorEventApply s = execHalnorEventApply s := rfl

theorem exec_resetGroupRequest (g : ResetGroup) (esc : Bool) (s : State) :
    exec (.resetGroupRequest g esc) s = execResetGroupRequest g esc s := rfl

theorem exec_resetGroupDrained (s : State) : exec .resetGroupDrained s = execResetGroupDrained s := rfl

theorem exec_resetGroupDrainTimeout (s : State) : exec .resetGroupDrainTimeout s = execResetGroupDrainTimeout s := rfl

/-! ## Event lines -/

/-- R41: the ticks that pass before a line may toggle again. -/
def State.lineWait (s : State) (l : Nat) : Nat :=
  if (tabGet s.lines EventLine.idle l).pulses = 0 then 0 else (tabGet s.lines EventLine.idle l).last + 4 - s.tick.toNat

theorem exec_eventLineToggle_runs {s : State} (l : Nat) (hrun : s.running = true)
    (hlast : (tabGet s.lines EventLine.idle l).last + 4 < 2 ^ 64) : ∃ t : State, exec (.eventLineToggle l) s = .next t ∧
      (tabGet t.lines EventLine.idle l).level = !(tabGet s.lines EventLine.idle l).level ∧
      (tabGet t.lines EventLine.idle l).pulses = (tabGet s.lines EventLine.idle l).pulses + 1 ∧
      (tabGet t.lines EventLine.idle l).last = t.tick.toNat ∧
      ((tabGet s.lines EventLine.idle l).pulses ≠ 0 → (tabGet s.lines EventLine.idle l).last + 4 ≤ t.tick.toNat) := by
  have htoggled : ∀ (u : State) (x : EventLine), tabGet ({ u with lines := tabSet u.lines EventLine.idle l x } : State).lines
      EventLine.idle l = x := fun u x => (tabGet_tabSet u.lines EventLine.idle x l l).trans (if_pos rfl)
  rw [exec_eventLineToggle]
  unfold execEventLineToggle
  rw [if_neg (by rw [hrun]; decide)]
  refine ⟨_, rfl, ?_⟩
  rw [htoggled]
  refine ⟨rfl, rfl, rfl, fun hpulses => ?_⟩
  change _ ≤ (State.passTicks (s.lineWait l) s).tick.toNat
  have hwait : s.lineWait l = (tabGet s.lines EventLine.idle l).last + 4 - s.tick.toNat := if_neg hpulses
  have hnow : s.tick.toNat < 2 ^ 64 := s.tick.isLt
  rw [hwait, toNat_tick_passTicks (by omega)]
  omega

/-! ## Halnor's events -/

theorem State.tickOnce_events (s : State) : s.tickOnce.hal = s.hal.passed (s.tick + 1).toNat ∧
    s.tickOnce.power.applied = s.hal.ratioAt (s.tick + 1).toNat s.power.applied := by
  unfold State.tickOnce
  dsimp only
  split <;> exact ⟨rfl, rfl⟩

/-- Events of other ticks leave the ratio. -/
theorem ratio_fold_other {tick k : Nat} {l : List HalnorEvent} (h : ∀ p' k' t', .ratio p' k' t' ∈ l → t' ≠ tick) :
    l.foldl (fun k e => match e with
      | .ratio _ r t => if t = tick then r else k) k = k := by
  induction l with
  | nil => rfl
  | cons e r ih =>
    obtain ⟨p', k', t'⟩ := e
    rw [List.foldl_cons]
    dsimp only
    rw [if_neg (h p' k' t' List.mem_cons_self)]
    exact ih (fun p k t ht => h p k t (List.mem_cons_of_mem _ ht))

/-- R42: the only event of a tick sets the ratio there. -/
theorem Halnor.ratioAt_head {h : Halnor} {p k t : Nat} {rest : List HalnorEvent} (hev : h.events = .ratio p k t :: rest)
    (hrest : ∀ p' k' t', .ratio p' k' t' ∈ rest → t' ≠ t) (old : Nat) : h.ratioAt t old = k := by
  unfold Halnor.ratioAt
  rw [hev, List.foldl_cons]
  dsimp only
  rw [if_pos rfl]
  exact ratio_fold_other hrest

/-- The events of a tick are gone after it. -/
theorem Halnor.passed_events (h : Halnor) (p k t : Nat) : .ratio p k t ∉ (h.passed t).events := by
  unfold Halnor.passed
  simp

/-- An event of a later tick stays, ahead of others that stay. -/
theorem Halnor.passed_head {h : Halnor} {p k t m : Nat} {rest : List HalnorEvent} (hev : h.events = .ratio p k t :: rest)
    (ht : t ≠ m) : ∃ rest', (h.passed m).events = .ratio p k t :: rest' ∧ ∀ e ∈ rest', e ∈ rest := by
  unfold Halnor.passed
  dsimp only
  rw [hev, List.filter_cons_of_pos (by simpa using ht)]
  exact ⟨_, rfl, fun e he => List.mem_of_mem_filter he⟩

/-- R42: ticks pass to the one that the first event names, and in it the ratio applies. -/
theorem ratio_passTicks {p k t : Nat} (ht : t < 2 ^ 64) : ∀ (n : Nat) {s : State} {rest : List HalnorEvent},
    s.tick.toNat + (n + 1) = t → s.hal.events = .ratio p k t :: rest → (∀ p' k' t', .ratio p' k' t' ∈ rest → t' ≠ t) →
    (State.passTicks (n + 1) s).power.applied = k ∧ .ratio p k t ∉ (State.passTicks (n + 1) s).hal.events := by
  intro n
  induction n with
  | zero =>
    intro s rest hn hev hrest
    have hnext : (s.tick + 1).toNat = t := by bv_omega
    obtain ⟨hhal, happlied⟩ := s.tickOnce_events
    change s.tickOnce.power.applied = k ∧ .ratio p k t ∉ s.tickOnce.hal.events
    rw [happlied, hhal, hnext]
    exact ⟨Halnor.ratioAt_head hev hrest _, Halnor.passed_events _ _ _ _⟩
  | succ n ih =>
    intro s rest hn hev hrest
    have hnext : (s.tick + 1).toNat = s.tick.toNat + 1 := by bv_omega
    obtain ⟨hhal, -⟩ := s.tickOnce_events
    obtain ⟨rest', hev', hsub⟩ := Halnor.passed_head hev (m := (s.tick + 1).toNat) (by omega)
    rw [State.passTicks]
    exact ih (by rw [State.tick_tickOnce]; omega) ((congrArg Halnor.events hhal).trans hev')
      (fun p' k' t' h => hrest p' k' t' (hsub _ h))

theorem exec_halnorEventApply_idle {s : State} (h : s.hal.events = [] ∨ s.running = false) :
    exec .halnorEventApply s = .next s := by
  rw [exec_halnorEventApply]
  unfold execHalnorEventApply
  split
  · rfl
  · next hev =>
    rcases h with h | h
    · exact nomatch hev.symm.trans h
    · dsimp only
      rw [h]
      rfl

section
variable {s : State} {p k t : Nat} {rest : List HalnorEvent} (hev : s.hal.events = .ratio p k t :: rest) (hrun : s.running = true)
include hev hrun

theorem exec_halnorEventApply_due (hnow : s.tick.toNat < t) (ht : t < 2 ^ 64)
    (hrest : ∀ p' k' t', .ratio p' k' t' ∈ rest → t' ≠ t) : ∃ u : State,
      exec .halnorEventApply s = .next u ∧ u.tick.toNat = t ∧ u.power.applied = k ∧ .ratio p k t ∉ u.hal.events := by
  obtain ⟨n, hn⟩ : ∃ n, t - s.tick.toNat = n + 1 := ⟨t - s.tick.toNat - 1, by omega⟩
  obtain ⟨happlied, hgone⟩ := ratio_passTicks ht n (by omega) hev hrest
  refine ⟨State.passTicks (t - s.tick.toNat) s, ?_, ?_, by rw [hn]; exact happlied, by rw [hn]; exact hgone⟩
  · rw [exec_halnorEventApply]
    unfold execHalnorEventApply
    rw [hev]
    dsimp only
    rw [if_neg (by rw [hrun]; decide), if_neg (Nat.not_le.mpr hnow)]
  · rw [toNat_tick_passTicks (by omega)]
    omega

/-- R43: an event whose tick has passed aborts the region. -/
theorem exec_halnorEventApply_late (hlate : t ≤ s.tick.toNat) : ∃ u : State, exec .halnorEventApply s = .next u ∧
    u.timed.region = none ∧ u.hal.events = rest ∧ u.power = s.power ∧ ∃ e, u.hal.log.head? = some e ∧ e.kind = .sluiceLate := by
  refine ⟨((s.modHal (fun h => { h with events := rest })).logEntry .sluiceLate [islandHalnor]).abortRegion
    (faultOf .sluiceLate 0), ?_, ?_, by simp, by simp, ⟨_, by simp; rfl, rfl⟩⟩
  · rw [exec_halnorEventApply]
    unfold execHalnorEventApply
    rw [hev]
    dsimp only
    rw [if_neg (by rw [hrun]; decide), if_pos hlate]
  · generalize (s.modHal (fun h => { h with events := rest })).logEntry .sluiceLate [islandHalnor] = v
    cases hr : v.timed.region with
    | none =>
      unfold State.abortRegion
      rw [hr]
      exact hr
    | some r => exact State.abortRegion_region _ hr

end

/-! ## Reset groups -/

/-- R47: a tile's group waits for a job boundary or a recovery context. -/
theorem State.mayReset_tile_busy {s : State} (hkernels : s.kernels ≠ []) (hctxs : ∀ e ∈ s.ctxs, e.2.kind ≠ 3) (t : Nat) :
    s.mayReset (.tile t) = false := by
  have hboundary : s.jobBoundary = false := by simp [State.jobBoundary, hkernels]
  have hrecovery : s.ctxs.any (fun e => e.2.kind == 3 && e.2.st != .free) = false :=
    List.any_eq_false.mpr (fun e he => by simp [hctxs e he])
  unfold State.mayReset
  rw [hboundary, hrecovery]
  rfl

section
variable {s : State} {g : ResetGroup} {esc : Bool}

theorem exec_resetGroupRequest_refused (h : s.mod.pg = false ∨ s.mayReset g = false ∨ (∃ x, (g, x) ∈ s.hal.resets)) :
    exec (.resetGroupRequest g esc) s = .next s := by
  rw [exec_resetGroupRequest]
  unfold execResetGroupRequest
  refine if_neg ?_
  rcases h with h | h | ⟨x, h⟩
  · simp [h]
  · simp [h]
  · have : s.hal.resets.any (fun r => r.1 == g) = true := List.any_eq_true.mpr ⟨_, h, beq_self_eq_true g⟩
    simp [this]

/-- R47 step 1: the group drains from now on. -/
theorem exec_resetGroupRequest_taken (hpg : s.mod.pg = true) (hmay : s.mayReset g = true) (hnew : ∀ x, (g, x) ∉ s.hal.resets) :
    exec (.resetGroupRequest g esc) s =
      .next (s.modHal (fun h => { h with resets := h.resets ++ [(g, .quiescing s.tick.toNat esc)] })) := by
  have hnone : s.hal.resets.any (fun r => r.1 == g) = false :=
    List.any_eq_false.mpr (fun r hr hg => hnew r.2 (by rw [← eq_of_beq hg]; exact hr))
  rw [exec_resetGroupRequest]
  unfold execResetGroupRequest
  rw [if_pos (by simp [hpg, hmay, hnone])]

/-- R47 step 1: senders on the paths of a group that drains are stopped. -/
theorem State.quiesced_draining {g : ResetGroup} {since : Nat} {i : SluiceId} (h : (g, .quiescing since esc) ∈ s.hal.resets)
    (hi : drainsWith g i = true) : s.quiesced i = true :=
  List.any_eq_true.mpr ⟨_, h, by rw [hi]; rfl⟩

end

theorem exec_resetGroup_idle {s : State} (h : s.hal.resets = []) :
    exec .resetGroupDrained s = .next s ∧ exec .resetGroupDrainTimeout s = .next s := by
  rw [exec_resetGroupDrained, exec_resetGroupDrainTimeout]
  unfold execResetGroupDrained execResetGroupDrainTimeout
  rw [h]
  exact ⟨rfl, rfl⟩

section
variable {s u : State} {g : ResetGroup} {x : GroupState} {rest : List (ResetGroup × GroupState)}
  (hresets : s.hal.resets = (g, x) :: rest) (hu : u = { s with hal := { s.hal with resets := rest } })
include hresets

theorem exec_resetGroupDrained_waits (h : ∃ e ∈ s.sluices, drainsWith g e.1 = true ∧ e.2.items ≠ []) :
    exec .resetGroupDrained s = .next s := by
  obtain ⟨e, he, hdrain, hitems⟩ := h
  rw [exec_resetGroupDrained]
  unfold execResetGroupDrained
  rw [hresets]
  exact if_pos (List.any_eq_true.mpr ⟨e, he, by rw [hdrain, decide_eq_true hitems]; rfl⟩)

theorem exec_resetGroupDrainTimeout_early {since : Nat} {esc : Bool} (hx : x = .quiescing since esc) (hrun : s.running = true)
    (hearly : s.tick.toNat < since + 65536) : exec .resetGroupDrainTimeout s = .next s := by
  subst hx
  rw [exec_resetGroupDrainTimeout]
  unfold execResetGroupDrainTimeout
  rw [hresets]
  exact if_pos (by rw [hrun, decide_eq_true hearly]; rfl)

include hu

/-- R45, R47: nothing is left, and the group resets. -/
theorem exec_resetGroupDrained_resets (h : ∀ e ∈ s.sluices, drainsWith g e.1 = true → e.2.items = []) :
    exec .resetGroupDrained s = .next ((u.clearBoundary g).groupReset g) := by
  subst hu
  rw [exec_resetGroupDrained]
  unfold execResetGroupDrained
  rw [hresets]
  refine if_neg ?_
  rw [Bool.not_eq_true]
  exact List.any_eq_false.mpr (fun e he hd => by
    rw [Bool.and_eq_true, decide_eq_true_eq] at hd
    exact hd.2 (h e he hd.1))

/-- R47: after 2^16 ticks the group is given up. -/
theorem exec_resetGroupDrainTimeout_over {since : Nat} {esc : Bool} (hx : x = .quiescing since esc)
    (hover : since + 65536 ≤ s.tick.toNat) : exec .resetGroupDrainTimeout s = .next (
      if esc then ((u.logEntry .resetFailed []).emit (.resetFailed g)).computeReset
      else (u.logEntry .resetFailed []).emit (.resetFailed g)) := by
  subst hx hu
  rw [exec_resetGroupDrainTimeout]
  unfold execResetGroupDrainTimeout
  rw [hresets]
  exact if_neg (by rw [decide_eq_false (Nat.not_lt.mpr hover), Bool.and_false]; decide)

end

/-- R45: both halves of a boundary sluice start afresh. -/
theorem State.sluice_clearBoundary (s : State) {g : ResetGroup} {i : SluiceId} (hi : onBoundary g i = true) :
    (s.clearBoundary g).sluice i = Sluice.empty := by
  unfold State.sluice State.clearBoundary
  dsimp only
  rw [List.find?_eq_none.mpr]
  · rfl
  · intro e he hei
    have hkept := (List.mem_filter.mp he).2
    rw [eq_of_beq hei, hi] at hkept
    exact Bool.false_ne_true hkept

theorem State.tile_groupReset (s : State) {t : Nat} (ht : t < 2304) (k : Nat) :
    (s.groupReset (.tile t)).tile k = if k = t then Tile.reset else s.tile k := by
  unfold State.groupReset
  dsimp only
  rw [if_pos (show t < numTiles from ht)]
  exact tabGet_tabSet s.tiles Tile.reset Tile.reset t k

end Sys2Proof.Machine
end

section
/-! Sluices, event lines, Halnor's events and the resets of groups: the settled obligation. -/

namespace Sys2Proof.Machine

/-- R47: a group whose reset is requested drains from then on. -/
theorem exec_resetGroupRequest_drains {s : State} {g : ResetGroup} (esc : Bool) (hpg : s.mod.pg = true)
    (hmay : s.mayReset g = true) (hnew : ∀ x, (g, x) ∉ s.hal.resets) : ∃ t : State,
      exec (.resetGroupRequest g esc) s = .next t ∧ t.hal.resets = s.hal.resets ++ [(g, .quiescing s.tick.toNat esc)] ∧
      t.tiles = s.tiles ∧ t.sluices = s.sluices ∧ ∀ i, drainsWith g i = true → t.quiesced i = true :=
  ⟨_, exec_resetGroupRequest_taken hpg hmay hnew, rfl, rfl, rfl, fun _ hi =>
    State.quiesced_draining (List.mem_append_right _ List.mem_cons_self) hi⟩

/-- Settles O54: each command's refusals, what it does, and the pointers, delays and resets it rests on. -/
theorem sluicesReleaseItemsAtTheirTick : Obligations.SluicesReleaseItemsAtTheirTick := by
  unfold Obligations.SluicesReleaseItemsAtTheirTick
  refine ⟨?_, ?_, ?_, ?_, ?_, ?_, ?_, ?_, ?_, ?_, ?_, ?_, ?_, ?_, ?_, ?_, ?_, ?_, ?_, ?_, ?_, ?_, ?_⟩
  · intro s i timed b dest w hw
    refine ⟨exec_sluiceSend_nothing, fun d hdelay hlen hlink => ⟨exec_sluiceSend_room hw hdelay hlen hlink, fun hroom =>
      ⟨fun huntimed => ⟨exec_sluiceSend_quiesced hw hdelay hlen hlink huntimed, fun hquiet => ?_⟩,
        exec_sluiceSend_overrun hw hdelay hlen hlink hroom⟩⟩⟩
    have hset := s.sluice_setSluice i { s.sluice i with waiting := (s.sluice i).waiting ++ [w] }
    refine ⟨_, exec_sluiceSend_wait hw hdelay hlen hlink hroom huntimed hquiet, ?_⟩
    rw [hset]
    exact ⟨rfl, rfl, rfl, rfl⟩
  · intro s k v
    exact State.undoTick_tile
  · intro s i
    exact ⟨s.room_facts i, s.linkDown_port i⟩
  · intro s c i r hr hst hf
    exact State.crossingFault_facts c i hr hst hf
  · intro x
    exact ⟨ofGray_toGray x, nextGray_toGray x⟩
  · exact State.sluiceDelay_samples
  · intro a b
    exact pathDelay_sameDie
  · intro s i
    refine ⟨fun h => ⟨exec_itemVisible_still h, exec_sluiceRelease_still h⟩, fun h => ?_, fun h => ?_⟩
    · exact exec_itemVisible_none (s.nextSeen_none h)
    · exact exec_sluiceRelease_none (Sluice.nextOut_none h)
  · intro s x it
    exact s.nextSeen_facts
  · intro s i it hseen hrun
    exact ⟨exec_itemVisible_stamped hseen hrun, fun hkind b hwhat hwait => exec_itemVisible_free hseen hrun hkind hwhat hwait⟩
  · intro i k
    unfold syncTicks
    cases Config.slowSync i.src i.dst k
    · exact Or.inl rfl
    · exact Or.inr rfl
  · intro s u i it hnext hrun hu
    refine ⟨exec_sluiceRelease_late hnext hrun, fun hdue => ?_⟩
    rw [exec_sluiceRelease_due hnext hrun hu hdue]
    exact ⟨fun h => by rw [h]; rfl, fun h => by rw [h]; rfl⟩
  · intro s i it
    refine ⟨?_, ?_, rfl, fun b => s.releaseItem_bytes i it⟩
    · rw [State.sluice_takeItem]
    · rw [State.sluice_takeItem]
  · intro s i t off d r hkind hr
    refine ⟨fun ht hgoing hin => ?_, fun hout hgoing => State.deliver_scratch_outside hkind hr hgoing hout⟩
    rw [State.deliver_scratch_inside hkind hr hgoing ht hin]
    exact s.scratchWrite_facts t _ d
  · intro s l
    exact ⟨fun h => by rw [exec_eventLineToggle, execEventLineToggle, h]; rfl, exec_eventLineToggle_runs l⟩
  · intro s
    exact exec_halnorEventApply_idle
  · intro s p k t rest hev hrun
    exact ⟨exec_halnorEventApply_due hev hrun, exec_halnorEventApply_late hev hrun⟩
  · intro s g esc
    exact ⟨exec_resetGroupRequest_refused, exec_resetGroupRequest_drains esc⟩
  · intro s t hkernels hctxs
    exact State.mayReset_tile_busy hkernels hctxs t
  · intro s
    exact exec_resetGroup_idle
  · intro s u g x rest hresets hu
    refine ⟨exec_resetGroupDrained_waits hresets, exec_resetGroupDrained_resets hresets hu, fun since esc hx =>
      ⟨exec_resetGroupDrainTimeout_early hresets hx, fun hover hesc => ?_, fun hover hesc => ?_⟩⟩
    · rw [exec_resetGroupDrainTimeout_over hresets hu hx hover, if_pos hesc]
    · refine ⟨_, exec_resetGroupDrainTimeout_over hresets hu hx hover, ?_⟩
      rw [if_neg (by rw [hesc]; decide), hu]
      exact ⟨rfl, List.mem_cons_self, rfl, rfl⟩
  · intro s g i hi
    exact ⟨s.sluice_clearBoundary hi, rfl⟩
  · intro s t ht
    refine ⟨by rw [s.tile_groupReset ht, if_pos rfl], fun t' ht' => by rw [s.tile_groupReset ht, if_neg ht']⟩

end Sys2Proof.Machine
end

section
/-! The issue of an instruction of a group (R56 to R63): what holds of the group and its path, the lanes it executes in, and the
group that an instruction leaves. -/

namespace Sys2Proof.Machine

/-! ## Lanes (R60, R63) -/

theorem mem_lanesOf {m : Word32} {l : Nat} : l ∈ lanesOf m ↔ l < 32 ∧ m.getLsbD l = true := by
  rw [lanesOf, List.mem_filter, List.mem_range]

theorem lane_lt_of_mem {m : Word32} {l : Nat} (h : l ∈ lanesOf m) : l < 32 := (mem_lanesOf.mp h).1

theorem nodup_lanesOf (m : Word32) : (lanesOf m).Nodup := List.nodup_range.filter _

/-- One lane's bit. -/
theorem getLsbD_lane {l i : Nat} (hl : l < 32) : (BitVec.ofNat 32 (2 ^ l)).getLsbD i = decide (i = l) := by
  rw [BitVec.getLsbD_ofNat, Nat.testBit_two_pow]
  by_cases h : i = l
  · simp [h, hl]
  · simp [h, Ne.symm h]

theorem getLsbD_foldl_lanes (c : Nat → Bool) (i : Nat) {ls : List Nat} (hls : ∀ l ∈ ls, l < 32) (a : Word32) :
    (ls.foldl (fun a l => if c l then a ||| BitVec.ofNat 32 (2 ^ l) else a) a).getLsbD i =
      (a.getLsbD i || (decide (i ∈ ls) && c i)) := by
  induction ls generalizing a with
  | nil => simp
  | cons l r ih =>
    rw [List.foldl_cons, ih (fun k hk => hls k (List.mem_cons_of_mem _ hk))]
    by_cases hc : c l
    · rw [if_pos hc, BitVec.getLsbD_or, getLsbD_lane (hls l List.mem_cons_self)]
      by_cases hi : i = l <;> simp [hi, hc]
    · rw [if_neg hc]
      by_cases hi : i = l <;> simp [hi, hc]

/-- R63: a lane of the path executes where its predicate is as the word asks. -/
theorem Group.getLsbD_active (g : Group) (p : Path) (w : Word64) (l : Nat) : (g.active p w).getLsbD l =
    (decide (l < 32) && (p.mask.getLsbD l && (g.preg (wPred w) l != wPneg w))) := by
  rw [Group.active, getLsbD_foldl_lanes (fun l => p.mask.getLsbD l && (g.preg (wPred w) l != wPneg w)) l
    (fun k hk => List.mem_range.mp hk)]
  simp

/-- R63: only lanes of the path execute. -/
theorem Group.mask_and_active (g : Group) (p : Path) (w : Word64) : p.mask &&& g.active p w = g.active p w := by
  refine BitVec.eq_of_getLsbD_eq fun i hi => ?_
  rw [BitVec.getLsbD_and, Group.getLsbD_active]
  cases p.mask.getLsbD i <;> simp

theorem Group.mask_ne_zero {g : Group} {p : Path} {w : Word64} (h : g.active p w ≠ 0) : p.mask ≠ 0 := by
  intro hm
  rw [← Group.mask_and_active, hm] at h
  exact h (by simp)

theorem and_not_self_mask (m : Word32) : m &&& ~~~m = 0 := by simp

/-! ## A group that issues (R56, R61) -/

section
variable {s u : State} {tile slot : Nat} {keys : List Nat} {g : Group} {p : Path}

/-- A group that may issue runs, is not stopped and waits for nothing; its path is one of its own, not parked. -/
theorem State.ready_facts (h : s.ready tile slot = some (g, p)) :
    s.running = true ∧ (∃ g₀, s.group tile slot = some g₀ ∧ g₀.atTurn = g) ∧ g.cur = some p ∧ p ∈ g.paths ∧
    p.park = .no ∧ p.low = g.turn := by
  unfold State.ready at h
  split at h
  · exact nomatch h
  next hrun =>
  split at h
  · exact nomatch h
  next g₀ hg =>
  split at h
  · exact nomatch h
  obtain ⟨q, hcur, hq⟩ := Option.map_eq_some_iff.mp h
  obtain ⟨rfl, rfl⟩ := Prod.mk.inj hq
  have hp := List.find?_some hcur
  rw [Bool.and_eq_true, beq_iff_eq, beq_iff_eq] at hp
  exact ⟨by simpa using hrun, ⟨g₀, hg, rfl⟩, hcur, List.mem_of_find?_eq_some hcur, hp.2, hp.1⟩

theorem Group.nextTurn_frame (g : Group) : g.nextTurn = { g with
    paths := g.nextTurn.paths, turn := g.nextTurn.turn, issued := g.nextTurn.issued } := by
  unfold Group.nextTurn
  dsimp only
  split <;> rfl

/-- R61: a turn changes paths, turn and count, and no more. -/
theorem Group.atTurn_frame (g : Group) : g.atTurn = { g with
    paths := g.atTurn.paths, turn := g.atTurn.turn, issued := g.atTurn.issued } := by
  unfold Group.atTurn
  split
  · rfl
  · exact g.nextTurn_frame

variable (h : s.mayIssue tile slot keys g p u)
include h

/-- R56, R57: an instruction that may issue does what it does at its tick, if its unit accepts it. -/
theorem State.issueIf_due (ok : State → Group → Path → Bool) (f : State → Group → Path → State) :
    s.issueIf tile slot keys ok f = if ok u g p then f u g p else s := by
  obtain ⟨hready, hline, hfinal, rfl⟩ := h
  unfold State.issueIf
  rw [hready]
  dsimp only
  rw [if_neg (by rw [hline]; decide), if_neg (Nat.not_le.mpr hfinal)]

theorem State.issue_due (f : State → Group → Path → State) : s.issue tile slot keys f = f u g p :=
  State.issueIf_due h _ f

theorem State.mayIssue_path : p ∈ g.paths ∧ p.park = .no ∧ p.low = g.turn := by
  obtain ⟨-, -, -, hrest⟩ := State.ready_facts h.1
  exact hrest

/-- R52, R57: the tile has noted the issue; beyond that only time has passed. -/
theorem State.mayIssue_tile : u.tile tile = { s.tile tile with lastSlot := slot, issueAt := u.wet.toNat + 1 } := by
  obtain ⟨-, -, -, rfl⟩ := h
  rw [State.issueFrom, State.tile_modTile, if_pos rfl, State.tile_waitWet]
  rfl

theorem State.mayIssue_tile_other {k : Nat} (hk : k ≠ tile) : u.tile k = s.tile k := by
  obtain ⟨-, -, -, rfl⟩ := h
  rw [State.issueFrom, State.tile_modTile_other _ _ _ hk, State.tile_waitWet]

theorem State.mayIssue_scratch (k : Nat) : (u.tile k).scratch = (s.tile k).scratch := by
  by_cases hk : k = tile
  · rw [hk, State.mayIssue_tile h]
  · rw [State.mayIssue_tile_other h hk]

/-- What passes of time leave: everything but the two counts, the ratio's events and the dry ticks. -/
theorem State.mayIssue_frame : u.mod = s.mod ∧ u.dram = s.dram ∧ u.slices = s.slices ∧ u.hostMem = s.hostMem ∧
    u.ctxs = s.ctxs ∧ u.kernels = s.kernels ∧ u.sync = s.sync ∧ u.flights = s.flights ∧ u.issues = s.issues ∧
    u.walks = s.walks ∧ u.cistern = s.cistern ∧ u.sluices = s.sluices ∧ u.nextId = s.nextId ∧ u.freeCtr = s.freeCtr ∧
    u.fab = s.fab ∧ u.timed = s.timed ∧ u.objs = s.objs := by
  obtain ⟨-, -, -, rfl⟩ := h
  simp [State.issueFrom]

end

/-! ## The group after an instruction (R60 to R62) -/

section
variable (s : State) (tile slot : Nat)

/-- R62: while a path is not parked none is released. -/
theorem Group.settle_running {g : Group} (h : ∃ q ∈ g.paths, q.park = .no) : g.settle = g := by
  obtain ⟨q, hq, hpark⟩ := h
  refine if_neg (fun hall => ?_)
  have := List.all_eq_true.mp hall.2.1 q hq
  simp [hpark] at this

/-- A group with a path that runs stays in its slot. -/
theorem State.finish_running {g : Group} (h : ∃ q ∈ g.paths, q.park = .no) : s.finish tile slot g = s.putGroup tile slot g := by
  obtain ⟨q, hq, hpark⟩ := h
  rw [State.finish, if_neg (List.ne_nil_of_mem hq), Group.settle_running ⟨q, hq, hpark⟩]

end

section
variable {g : Group} {p : Path}

/-- The path moved on. -/
theorem Group.replace_one {q : Path} (hq : q.mask ≠ 0) :
    g.replace p [q] = { g with paths := g.paths.filter (fun x => x != p) ++ [q] } := by
  have hone : [q].filter (fun q => decide (q.mask ≠ 0)) = [q] := List.filter_cons_of_pos (decide_eq_true hq)
  rw [Group.replace, hone]

theorem Group.replace_none {q : Path} (hq : q.mask = 0) :
    g.replace p [q] = { g with paths := g.paths.filter (fun x => x != p) } := by
  simp [Group.replace, hq]

theorem Group.step_eq (hmask : p.mask ≠ 0) (bytes : Nat) : g.step p bytes = { g with
    paths := g.paths.filter (fun x => x != p) ++ [{ p with pc := p.pc + BitVec.ofNat 64 bytes }], issued := g.issued + 1 } := by
  rw [Group.step, Group.replace_one (by exact hmask)]

/-- R61: the step of a path that runs leaves the group in its slot. -/
theorem State.finish_step (s : State) (tile slot : Nat) (hmask : p.mask ≠ 0) (hpark : p.park = .no) (bytes : Nat) :
    s.finish tile slot (g.step p bytes) = s.putGroup tile slot { g with
      paths := g.paths.filter (fun x => x != p) ++ [{ p with pc := p.pc + BitVec.ofNat 64 bytes }], issued := g.issued + 1 } := by
  rw [Group.step_eq hmask, State.finish_running]
  exact ⟨{ p with pc := p.pc + BitVec.ofNat 64 bytes }, by simp, hpark⟩

end

/-! ## Groups in their slots -/

/-- What a change of a tile leaves in it stays on every tile. -/
theorem State.tile_modTile_field {γ : Type} (q : Tile → γ) (s : State) (n k : Nat) {f : Tile → Tile}
    (hf : ∀ x, q (f x) = q x := by exact fun _ => rfl) :
    q ((s.modTile n f).tile k) = q (s.tile k) := by
  rw [State.tile_modTile]
  split
  · next h => rw [hf, h]
  · rfl

section
variable (s : State) (tile slot : Nat)

theorem Tile.group_tabSet (x : Tile) (v : Option Group) (n : Nat) :
    ({ x with groups := tabSet x.groups none slot v } : Tile).group n = if n = slot then v else x.group n :=
  tabGet_tabSet _ _ _ _ _

theorem State.tile_putGroup (g : Group) (k : Nat) : (s.putGroup tile slot g).tile k = if k = tile then
    { s.tile tile with groups := tabSet (s.tile tile).groups none slot (some g) } else s.tile k := s.tile_modTile _ _ _

theorem State.group_putGroup (g : Group) (n : Nat) : (s.putGroup tile slot g).group tile n =
    if n = slot then some g else s.group tile n := by
  rw [State.group, State.tile_putGroup, if_pos rfl, Tile.group_tabSet]
  rfl

theorem State.group_putGroup_same (g : Group) : (s.putGroup tile slot g).group tile slot = some g := by
  rw [State.group_putGroup, if_pos rfl]

theorem State.tile_putGroup_other {k : Nat} (hk : k ≠ tile) (g : Group) : (s.putGroup tile slot g).tile k = s.tile k := by
  rw [State.tile_putGroup, if_neg hk]

theorem State.scratch_putGroup (g : Group) (k : Nat) : ((s.putGroup tile slot g).tile k).scratch = (s.tile k).scratch := by
  rw [State.tile_putGroup]
  split
  · next h => rw [h]
  · rfl

theorem State.group_congr {s t : State} {tile : Nat} (h : (t.tile tile).groups = (s.tile tile).groups) (slot : Nat) :
    t.group tile slot = s.group tile slot := by
  rw [State.group, State.group, Tile.group, Tile.group, h]

/-- The change of a group in its slot is a change of its tile. -/
@[simp] theorem State.putGroup_fields (g : Group) : (s.putGroup tile slot g).mod = s.mod ∧
    (s.putGroup tile slot g).dram = s.dram ∧ (s.putGroup tile slot g).slices = s.slices ∧
    (s.putGroup tile slot g).hostMem = s.hostMem ∧ (s.putGroup tile slot g).ctxs = s.ctxs ∧
    (s.putGroup tile slot g).kernels = s.kernels ∧ (s.putGroup tile slot g).sync = s.sync ∧
    (s.putGroup tile slot g).flights = s.flights ∧ (s.putGroup tile slot g).issues = s.issues ∧
    (s.putGroup tile slot g).walks = s.walks ∧ (s.putGroup tile slot g).cistern = s.cistern ∧
    (s.putGroup tile slot g).sluices = s.sluices ∧ (s.putGroup tile slot g).nextId = s.nextId ∧
    (s.putGroup tile slot g).wet = s.wet ∧ (s.putGroup tile slot g).hal = s.hal ∧ (s.putGroup tile slot g).fab = s.fab ∧
    (s.putGroup tile slot g).timed = s.timed ∧ (s.putGroup tile slot g).objs = s.objs := by
  simp [State.putGroup]

end

/-! ## Registers (R52) -/

section
variable (g : Group)

theorem Group.sreg_setSreg (d n : Nat) (x : Word64) : (g.setSreg d x).sreg n = if n % 64 = d % 64 then x else g.sreg n :=
  tabGet_tabSet _ _ _ _ _

theorem Group.vreg_setVreg (d r : Nat) {l l' : Nat} (hl : l < 32) (hl' : l' < 32) (x : Word32) :
    (g.setVreg d l x).vreg r l' = if r = d ∧ l' = l then x else g.vreg r l' := by
  unfold Group.vreg Group.setVreg
  rw [tabGet_tabSet]
  have : 32 * r + l' = 32 * d + l ↔ r = d ∧ l' = l := by omega
  simp only [this]

theorem Group.preg_setPreg (d n : Nat) {l : Nat} (hl : l < 32) (l' : Nat) (b : Bool) :
    (g.setPreg d l b).preg n l' = if n % 8 = d % 8 ∧ d % 8 ≠ 7 ∧ l' = l then b else g.preg n l' := by
  unfold Group.setPreg Group.preg
  by_cases hd : d % 8 = 7
  · simp [hd]
  · by_cases hn : n % 8 = d % 8
    · simp only [hd, hn, if_false, tabGet_tabSet, if_true, ne_eq, not_false_eq_true, true_and]
      cases b
      · simp only [Bool.false_eq_true, if_false, BitVec.getLsbD_and, BitVec.getLsbD_not, getLsbD_lane hl]
        by_cases hll : l' = l
        · simp [hll]
        · by_cases h32 : l' < 32
          · simp [hll, h32]
          · simpa [hll, h32] using BitVec.getLsbD_of_ge _ _ (Nat.le_of_not_lt h32)
      · simp only [if_true, BitVec.getLsbD_or, getLsbD_lane hl]
        by_cases hll : l' = l <;> simp [hll]
    · simp [hd, hn, tabGet_tabSet]

/-- A vector result in some lanes. -/
theorem Group.foldl_setVreg (dst : Nat) (f : Nat → Word32) {ls : List Nat} (hls : ∀ l ∈ ls, l < 32) :
    (∀ r l, l < 32 → (ls.foldl (fun h l => h.setVreg dst l (f l)) g).vreg r l =
      if r = dst ∧ l ∈ ls then f l else g.vreg r l) ∧
    ls.foldl (fun h l => h.setVreg dst l (f l)) g =
      { g with v := (ls.foldl (fun h l => h.setVreg dst l (f l)) g).v } := by
  induction ls generalizing g with
  | nil => exact ⟨fun r l _ => by simp, rfl⟩
  | cons a t ih =>
    obtain ⟨hv, hf⟩ := ih (g.setVreg dst a (f a)) (fun l hl => hls l (List.mem_cons_of_mem _ hl))
    refine ⟨fun r l hl => ?_, ?_⟩
    · rw [List.foldl_cons, hv r l hl, Group.vreg_setVreg _ _ _ (hls a List.mem_cons_self) hl]
      by_cases hr : r = dst
      · by_cases hla : l = a <;> simp [hr, hla]
      · simp [hr]
    · rw [List.foldl_cons, hf]
      rfl

theorem Group.vreg_writeLanes (m : Word32) (dst : Nat) (f : Nat → Word32) (r : Nat) {l : Nat} (hl : l < 32) :
    (g.writeLanes m dst f).vreg r l = if r = dst ∧ m.getLsbD l = true then f l else g.vreg r l := by
  rw [Group.writeLanes, Group.eachLane, (Group.foldl_setVreg g dst f (fun _ => lane_lt_of_mem)).1 r l hl]
  simp [mem_lanesOf, hl]

theorem Group.writeLanes_frame (m : Word32) (dst : Nat) (f : Nat → Word32) :
    g.writeLanes m dst f = { g with v := (g.writeLanes m dst f).v } :=
  (Group.foldl_setVreg g dst f (fun _ => lane_lt_of_mem)).2

/-- A compare's result in some lanes. -/
theorem Group.foldl_setPreg (dst : Nat) (f : Nat → Bool) {ls : List Nat} (hls : ∀ l ∈ ls, l < 32) :
    (∀ n l, (ls.foldl (fun h l => h.setPreg dst l (f l)) g).preg n l =
      if n % 8 = dst % 8 ∧ dst % 8 ≠ 7 ∧ l ∈ ls then f l else g.preg n l) ∧
    ls.foldl (fun h l => h.setPreg dst l (f l)) g =
      { g with p := (ls.foldl (fun h l => h.setPreg dst l (f l)) g).p } := by
  induction ls generalizing g with
  | nil => exact ⟨fun n l => by simp, rfl⟩
  | cons a t ih =>
    obtain ⟨hv, hf⟩ := ih (g.setPreg dst a (f a)) (fun l hl => hls l (List.mem_cons_of_mem _ hl))
    refine ⟨fun n l => ?_, ?_⟩
    · rw [List.foldl_cons, hv n l, Group.preg_setPreg _ _ _ (hls a List.mem_cons_self)]
      by_cases hn : n % 8 = dst % 8
      · by_cases hla : l = a <;> by_cases hd : dst % 8 = 7 <;> simp [hn, hla, hd]
      · simp [hn]
    · rw [List.foldl_cons, hf]
      unfold Group.setPreg
      split <;> rfl

theorem Group.preg_writePred (m : Word32) (dst : Nat) (f : Nat → Bool) (n l : Nat) :
    (g.writePred m dst f).preg n l =
      if n % 8 = dst % 8 ∧ dst % 8 ≠ 7 ∧ l < 32 ∧ m.getLsbD l = true then f l else g.preg n l := by
  rw [Group.writePred, Group.eachLane, (Group.foldl_setPreg g dst f (fun _ => lane_lt_of_mem)).1 n l]
  simp only [mem_lanesOf]

theorem Group.writePred_frame (m : Word32) (dst : Nat) (f : Nat → Bool) :
    g.writePred m dst f = { g with p := (g.writePred m dst f).p } :=
  (Group.foldl_setPreg g dst f (fun _ => lane_lt_of_mem)).2

end

end Sys2Proof.Machine
end

section
/-! Class 0x0 (R60 to R64): arithmetic, branches, calls, returns, exits, immediate loads and reconvergence. -/

namespace Sys2Proof.Machine

theorem exec_scalarControl (tile slot : Nat) (op : ScalarOp) (w : Word64) (s : State) :
    exec (.scalarControl tile slot op w) s = execScalarControl tile slot op w s := rfl

theorem exec_immediateLoad (tile slot : Nat) (w imm : Word64) (s : State) :
    exec (.immediateLoad tile slot w imm) s = execImmediateLoad tile slot w imm s := rfl

theorem exec_reconverge (tile slot : Nat) (w : Word64) (s : State) :
    exec (.reconverge tile slot w) s = execReconverge tile slot w s := rfl

/-- The operations that leave the path's address to go on. -/
def goesOn : ScalarOp → Bool
  | .branch | .call | .ret | .exit => false
  | _ => true

theorem goesOn_iff (op : ScalarOp) :
    goesOn op = true ↔ op ≠ .branch ∧ op ≠ .call ∧ op ≠ .ret ∧ op ≠ .exit := by
  cases op <;> simp [goesOn]

/-! ## A scalar result (R52, R64) -/

/-- A scalar register written by an instruction that moves on by `bytes`. -/
theorem State.finish_scalar (u : State) (tile slot : Nat) {g : Group} {p : Path} (hmask : p.mask ≠ 0) (hpark : p.park = .no)
    (d : Nat) (v : Word64) (bytes : Nat) : ∃ h,
      u.finish tile slot (((g.setSreg d v).readyOn (keyS d) 0).step p bytes) = u.putGroup tile slot h ∧
      h = { g with s := h.s, paths := h.paths, issued := g.issued + 1, ready := h.ready } ∧
      (∀ n, h.sreg n = if n % 64 = d % 64 then v else g.sreg n) ∧
      h.paths = g.paths.filter (fun q => q != p) ++ [{ p with pc := p.pc + BitVec.ofNat 64 bytes }] :=
  ⟨_, u.finish_step tile slot hmask hpark bytes, rfl, fun n => g.sreg_setSreg d n v, rfl⟩

section
variable {s u : State} {tile slot : Nat} {g : Group} {p : Path} {w : Word64}

theorem exec_scalarControl_straight {op : ScalarOp} (h : s.mayIssue tile slot (ctlKeys op w) g p u)
    (hlegal : ctlLegal op w = true) (hop : goesOn op = true) : exec (.scalarControl tile slot op w) s =
      .next (u.finish tile slot ((if g.active p w = 0 then g else
        (g.setSreg (wDst w) (scalarValue op (g.sreg (wA w)) (g.sreg (wB w)))).readyOn (keyS (wDst w)) 0).step p 8)) := by
  rw [exec_scalarControl, execScalarControl, State.issue_due h, hlegal]
  cases op with
  | branch | call | ret | exit => exact nomatch hop
  | _ => rfl

theorem exec_scalarControl_illegal {op : ScalarOp} (h : s.mayIssue tile slot (ctlKeys op w) g p u)
    (hlegal : ctlLegal op w = false) :
    exec (.scalarControl tile slot op w) s = .next (u.illegal tile slot g p) := by
  rw [exec_scalarControl, execScalarControl, State.issue_due h, hlegal]
  rfl

/-- R64: arithmetic and compares write s(DST) where a lane is active. -/
theorem exec_scalarControl_writes {op : ScalarOp} (h : s.mayIssue tile slot (ctlKeys op w) g p u)
    (hlegal : ctlLegal op w = true) (hop : goesOn op = true) (hact : g.active p w ≠ 0) : ∃ h,
      exec (.scalarControl tile slot op w) s = .next (u.putGroup tile slot h) ∧
      h = { g with s := h.s, paths := h.paths, issued := g.issued + 1, ready := h.ready } ∧
      (∀ n, h.sreg n = if n % 64 = wDst w % 64 then scalarValue op (g.sreg (wA w)) (g.sreg (wB w)) else g.sreg n) ∧
      h.paths = g.paths.filter (fun q => q != p) ++ [{ p with pc := p.pc + 8 }] := by
  obtain ⟨k, hfin, hk⟩ := u.finish_scalar tile slot (g := g) (Group.mask_ne_zero hact) (State.mayIssue_path h).2.1 (wDst w)
    (scalarValue op (g.sreg (wA w)) (g.sreg (wB w))) 8
  refine ⟨k, ?_, hk⟩
  rw [exec_scalarControl_straight h hlegal hop, if_neg hact, hfin]

theorem exec_scalarControl_noLane {op : ScalarOp} (h : s.mayIssue tile slot (ctlKeys op w) g p u)
    (hlegal : ctlLegal op w = true) (hop : goesOn op = true) (hact : g.active p w = 0) (hmask : p.mask ≠ 0) :
    exec (.scalarControl tile slot op w) s = .next (u.putGroup tile slot { g with
      paths := g.paths.filter (fun q => q != p) ++ [{ p with pc := p.pc + 8 }], issued := g.issued + 1 }) := by
  rw [exec_scalarControl_straight h hlegal hop, if_pos hact, u.finish_step tile slot hmask (State.mayIssue_path h).2.1]
  rfl

/-! ## Branches, calls and returns (R60) -/

/-- R60: a jump of the whole path moves it. -/
theorem Group.jump_whole (hmask : p.mask ≠ 0) (target : Word64) : g.jump p p.mask target = { g with
    paths := g.paths.filter (fun q => q != p) ++ [{ p with pc := target }], issued := g.issued + 1 } := by
  simp [Group.jump, Group.replace, show ¬ p.mask = 0#32 from hmask]

/-- R60: a jump of some lanes splits the path. -/
theorem Group.jump_split {taken : Word32} (htaken : p.mask &&& taken ≠ 0) (hrest : p.mask &&& ~~~taken ≠ 0) (target : Word64) :
    g.jump p taken target = { g with
      paths := g.paths.filter (fun q => q != p) ++ [{ p with pc := target, mask := p.mask &&& taken },
        { p with pc := p.pc + 8, mask := p.mask &&& ~~~taken }]
      issued := g.issued + 1 } := by
  simp [Group.jump, Group.replace, show ¬ p.mask &&& taken = 0#32 from htaken, show ¬ p.mask &&& ~~~taken = 0#32 from hrest]

theorem exec_branch (h : s.mayIssue tile slot (ctlKeys .branch w) g p u) (hlegal : ctlLegal .branch w = true) :
    exec (.scalarControl tile slot .branch w) s =
      .next (u.finish tile slot (g.jump p (g.active p w) (p.pc + BitVec.ofInt 64 (wImmS w)))) := by
  rw [exec_scalarControl, execScalarControl, State.issue_due h, hlegal]
  rfl

theorem exec_call (h : s.mayIssue tile slot (ctlKeys .call w) g p u) (hlegal : ctlLegal .call w = true)
    (hact : g.active p w ≠ 0) : exec (.scalarControl tile slot .call w) s =
      .next (u.finish tile slot (((g.setSreg (wDst w) (p.pc + 8)).readyOn (keyS (wDst w)) 0).jump p (g.active p w)
        (p.pc + BitVec.ofInt 64 (wImmS w)))) := by
  rw [exec_scalarControl, execScalarControl, State.issue_due h, hlegal]
  simp only [Bool.not_true, Bool.false_eq_true, if_false, if_neg hact]
  rfl

theorem exec_ret (h : s.mayIssue tile slot (ctlKeys .ret w) g p u) (hlegal : ctlLegal .ret w = true) :
    exec (.scalarControl tile slot .ret w) s =
      .next (u.finish tile slot (g.jump p (g.active p w) (g.sreg (wA w)))) := by
  rw [exec_scalarControl, execScalarControl, State.issue_due h, hlegal]
  rfl

/-- The rest of a path whose lanes `gone` have exited. -/
def Path.without (p : Path) (gone : Word32) : Path := { p with pc := p.pc + 8, mask := p.mask &&& ~~~gone }

theorem exec_exit (h : s.mayIssue tile slot (ctlKeys .exit w) g p u) (hlegal : ctlLegal .exit w = true) :
    exec (.scalarControl tile slot .exit w) s = .next (u.finish tile slot { g.replace p [p.without (g.active p w)] with
      issued := g.issued + 1
      turn := if (p.without (g.active p w)).mask = 0 then g.turn else (p.without (g.active p w)).low }) := by
  rw [exec_scalarControl, execScalarControl, State.issue_due h, hlegal]
  rfl

/-- A jump of the whole path leaves the group in its slot. -/
theorem State.finish_jump_whole (u : State) (tile slot : Nat) (hmask : p.mask ≠ 0) (hpark : p.park = .no) (target : Word64) :
    u.finish tile slot (g.jump p p.mask target) = u.putGroup tile slot { g with
      paths := g.paths.filter (fun q => q != p) ++ [{ p with pc := target }], issued := g.issued + 1 } := by
  rw [Group.jump_whole hmask, State.finish_running]
  exact ⟨{ p with pc := target }, by simp, hpark⟩

/-! ## The end of a group (R53, R104) -/

section
variable (v : State) (f : State → State)

/-- What the end of a block leaves: memory, contexts and the groups of every tile. -/
theorem State.endBlock_facts (b : Block) : (v.endBlock tile b).dram = v.dram ∧ (v.endBlock tile b).ctxs = v.ctxs ∧
    ∀ k, ((v.endBlock tile b).tile k).groups = (v.tile k).groups := by
  have hempty : ∀ (l : List Nat) (x : State), (l.foldl State.emptyRo x).dram = x.dram ∧
      (l.foldl State.emptyRo x).ctxs = x.ctxs ∧ ∀ k, ((l.foldl State.emptyRo x).tile k).groups = (x.tile k).groups :=
    fun l x => ⟨foldl_field State.dram (fun x t => by simp [State.emptyRo]) l x,
      foldl_field State.ctxs (fun x t => by simp [State.emptyRo]) l x,
      fun k => foldl_field (fun x : State => (x.tile k).groups)
        (fun x t => State.tile_modTile_field Tile.groups x t k) l x⟩
  have hleft : ∀ k, ((v.modTile tile (fun x => { x with
      blocks := x.blocks.filter (fun y => !(y.kern == b.kern && y.index == b.index)) })).tile k).groups = (v.tile k).groups :=
    fun k => State.tile_modTile_field Tile.groups v tile k
  unfold State.endBlock
  dsimp only
  split
  · split
    · exact ⟨(hempty _ _).1, (hempty _ _).2.1, fun k => ((hempty _ _).2.2 k).trans (hleft k)⟩
    · exact ⟨rfl, rfl, hleft⟩
  · exact ⟨rfl, rfl, hleft⟩

/-- A group at its end leaves its slot; memory, contexts and the other tiles' groups stay. -/
theorem State.endGroup_facts (slot : Nat) (g : Group) : (v.endGroup tile slot g).group tile slot = none ∧
    (v.endGroup tile slot g).dram = v.dram ∧ (v.endGroup tile slot g).ctxs = v.ctxs ∧
    ∀ k, k ≠ tile → ((v.endGroup tile slot g).tile k).groups = (v.tile k).groups := by
  have hgone : ∀ k, (((v.noGroup tile slot).modTile tile (fun x => { x with array := x.array.release g.uid })).tile k).groups =
      if k = tile then tabSet (v.tile tile).groups none slot none else (v.tile k).groups := by
    intro k
    simp only [State.noGroup, State.tile_modTile, if_true]
    split <;> rfl
  have hcut : ∀ t : State, t.dram = v.dram → t.ctxs = v.ctxs →
      (∀ k, (t.tile k).groups = if k = tile then tabSet (v.tile tile).groups none slot none else (v.tile k).groups) →
      t.group tile slot = none ∧ t.dram = v.dram ∧ t.ctxs = v.ctxs ∧ ∀ k, k ≠ tile → (t.tile k).groups = (v.tile k).groups := by
    intro t hd hc ht
    refine ⟨?_, hd, hc, fun k hk => by rw [ht k, if_neg hk]⟩
    rw [State.group, Tile.group, ht tile, if_pos rfl, tabGet_tabSet, if_pos rfl]
  unfold State.endGroup
  dsimp only
  split
  · exact hcut _ (by simp [State.noGroup]) (by simp [State.noGroup]) hgone
  · next b _ =>
    split
    · obtain ⟨hd, hc, ht⟩ := State.endBlock_facts (tile := tile)
        ((v.noGroup tile slot).modTile tile (fun x => { x with array := x.array.release g.uid })) b
      exact hcut _ (hd.trans (by simp [State.noGroup])) (hc.trans (by simp [State.noGroup])) (fun k => (ht k).trans (hgone k))
    · exact hcut _ (by simp [State.noGroup]) (by simp [State.noGroup])
        (fun k => (State.tile_modTile_field Tile.groups _ tile k).trans (hgone k))

end

/-! ## Reconvergence (R62) -/

theorem exec_reconverge_parks (h : s.mayIssue tile slot [] g p u) (hword : plainWord 0 0 w = true) (hop : wOp w ≠ 0xFF) :
    exec (.reconverge tile slot w) s = .next (u.finish tile slot (g.parkAt p .reconverge u.hal.ms).endTurn) := by
  rw [exec_reconverge, execReconverge, State.issue_due h, if_neg (by simp [hword, hop])]

/-- A path that parks. -/
theorem Group.parkAt_paths (hmask : p.mask ≠ 0) (k : Park) (ms : Nat) :
    (g.parkAt p k ms).paths = g.paths.filter (fun q => q != p) ++ [{ p with park := k }] := by
  rw [Group.parkAt, Group.replace_one (by exact hmask)]

/-- R62: two paths parked at one reconverge address go on as one. -/
theorem mergePaths_pair {q : Path} (hpc : q.pc = p.pc) (hpark : q.park = p.park) :
    mergePaths [q, p] = [{ q with mask := q.mask ||| p.mask }] := by
  simp [mergePaths, hpc, hpark]

end

/-- Settles O19: a straight operation, a jump of all or some lanes, an exit, an immediate load and a reconverge each rewrite the
group alone, but for the exit of the last lanes, which ends it. -/
theorem scalarAndControlInstructions : Obligations.ScalarAndControlInstructions := by
  refine ⟨⟨?_, ?_, ?_, ?_, ?_, ?_, ?_, ?_⟩, ?_, ?_⟩
  · intro s u tile slot g p w op h hlegal hact hb hc hr he
    obtain ⟨k, hexec, hk, hs, hpaths⟩ := exec_scalarControl_writes h hlegal ((goesOn_iff op).mpr ⟨hb, hc, hr, he⟩) hact
    have hd : k.sreg (wDst w) = scalarValue op (g.sreg (wA w)) (g.sreg (wB w)) := by rw [hs, if_pos rfl]
    refine ⟨k, hexec, hk, fun n => by rw [hs n, hd], ?_, ?_, ?_, ?_, ?_, ?_, ?_, hpaths⟩ <;> rintro rfl <;> rw [hd]
    · rfl
    · rfl
    · rfl
    · by_cases hab : g.sreg (wA w) = g.sreg (wB w) <;> simp [scalarValue, ofBool, hab]
    · by_cases hab : g.sreg (wA w) = g.sreg (wB w) <;> simp [scalarValue, ofBool, hab]
    · by_cases hab : (g.sreg (wA w)).toInt < (g.sreg (wB w)).toInt <;> simp [scalarValue, ofBool, hab]
    · by_cases hab : (g.sreg (wA w)).toNat < (g.sreg (wB w)).toNat <;> simp [scalarValue, ofBool, hab]
  · intro s u tile slot g p w h hlegal hact hmask
    have hpark := (State.mayIssue_path h).2.1
    refine ⟨?_, { ((g.setSreg (wDst w) (p.pc + 8)).readyOn (keyS (wDst w)) 0) with
        paths := g.paths.filter (fun q => q != p) ++ [{ p with pc := p.pc + BitVec.ofInt 64 (wImmS w) }]
        issued := g.issued + 1 }, ?_, rfl, rfl, fun n => g.sreg_setSreg (wDst w) n (p.pc + 8), rfl⟩
    · rw [exec_branch h hlegal, hact, State.finish_jump_whole _ _ _ hmask hpark]
    · rw [exec_call (g := g) (p := p) (u := u) h hlegal (by rw [hact]; exact hmask), hact,
        State.finish_jump_whole _ _ _ hmask hpark]
      rfl
  · intro s u tile slot g p w h hlegal hact hmask
    rw [exec_ret h hlegal, hact, State.finish_jump_whole _ _ _ hmask (State.mayIssue_path h).2.1]
  · intro s u tile slot g p w h hact hrest
    have hpark := (State.mayIssue_path h).2.1
    refine ⟨fun hlegal => ?_, fun hlegal => ?_⟩
    · rw [exec_branch h hlegal, Group.jump_split (by rw [Group.mask_and_active]; exact hact) hrest, State.finish_running]
      exact ⟨{ p with pc := p.pc + 8, mask := p.mask &&& ~~~(g.active p w) }, by simp, hpark⟩
    · rw [exec_exit (g := g) (p := p) (u := u) h hlegal, Group.replace_one (by exact hrest), if_neg (by exact hrest),
        State.finish_running]
      · rfl
      · exact ⟨p.without (g.active p w), by simp, hpark⟩
  · intro s u tile slot g p w h hlegal hact hpaths
    have hgone : (p.without (g.active p w)).mask = 0 := by rw [Path.without, hact]; exact and_not_self_mask _
    obtain ⟨-, hdram, -, -, hctxs, -⟩ := State.mayIssue_frame h
    rw [exec_exit h hlegal, Group.replace_none hgone, State.finish, if_pos (by simp [hpaths])]
    obtain ⟨hgroup, hd, hc, htiles⟩ := State.endGroup_facts (tile := tile) u slot { g with
      paths := g.paths.filter (fun x => x != p), issued := g.issued + 1
      turn := if (p.without (g.active p w)).mask = 0 then g.turn else (p.without (g.active p w)).low }
    exact ⟨_, rfl, hgroup, hd.trans hdram, hc.trans hctxs, htiles⟩
  · intro s u tile slot g p w imm h hword hop hact
    obtain ⟨k, hfin, hk, hs, hpaths⟩ := u.finish_scalar tile slot (g := g) (Group.mask_ne_zero hact) (State.mayIssue_path h).2.1
      (wDst w) imm 16
    refine ⟨k, ?_, hk, hs, hpaths⟩
    rw [exec_immediateLoad, execImmediateLoad, State.issue_due h, if_neg (by simp [hword, hop])]
    dsimp only
    rw [if_neg hact, hfin]
  · intro s u tile slot g p w op h hlegal hact hmask hb hc hr he
    exact exec_scalarControl_noLane h hlegal ((goesOn_iff op).mpr ⟨hb, hc, hr, he⟩) hact hmask
  · intro s u tile slot g p w op h hlegal
    exact exec_scalarControl_illegal h hlegal
  · intro s u tile slot g p w h hword hop hmask hother
    obtain ⟨q, hq, hqp, hpark⟩ := hother
    have hpaths := Group.parkAt_paths (g := g) hmask .reconverge u.hal.ms
    refine ⟨(g.parkAt p .reconverge u.hal.ms).endTurn, ?_, hpaths, ?_⟩
    · rw [exec_reconverge_parks h hword hop, State.finish_running]
      exact ⟨q, hpaths ▸ List.mem_append_left _ (List.mem_filter.mpr ⟨hq, by simpa using hqp⟩), hpark⟩
    · rw [Group.endTurn, Group.parkAt, Group.replace_one (by exact hmask)]
  · intro s u tile slot g p q w h hword hop hmask hgp hqp hpc hpark
    have hmerge := mergePaths_pair (p := { p with park := .reconverge }) hpc hpark
    have hpaths : (g.parkAt p .reconverge u.hal.ms).endTurn.paths = [q, { p with park := .reconverge }] := by
      rw [Group.endTurn, Group.parkAt_paths hmask, hgp]
      simp [hqp]
    have hsettle : (g.parkAt p .reconverge u.hal.ms).endTurn.settle = { (g.parkAt p .reconverge u.hal.ms).endTurn with
        paths := [{ q with mask := q.mask ||| p.mask, pc := p.pc + 8, park := .no }] } := by
      rw [Group.settle, hpaths, if_pos (by simp [hpark]), hmerge, List.map_singleton, if_pos hpark, hpc]
    refine ⟨(g.parkAt p .reconverge u.hal.ms).endTurn.settle, ?_, by rw [hsettle], by rw [hsettle]; rfl, by rw [hsettle]; rfl,
      by rw [hsettle]; rfl⟩
    rw [exec_reconverge_parks h hword hop, State.finish, if_neg (by rw [hpaths]; exact List.cons_ne_nil _ _)]

end Sys2Proof.Machine
end

section
/-! Class 0x1 (R63, R64, R173): vector results, predicate results and RDRAW. -/

namespace Sys2Proof.Machine

theorem exec_vectorInteger (tile slot : Nat) (op : IntOp) (w : Word64) (s : State) :
    exec (.vectorInteger tile slot op w) s = execVectorInteger tile slot op w s := rfl

theorem exec_rdraw (tile slot : Nat) (w : Word64) (s : State) : exec (.rdraw tile slot w) s = execRdraw tile slot w s := rfl

/-! ## Results in lanes (R52) -/

section
variable (u : State) (tile slot : Nat) {g : Group} {p : Path} (hmask : p.mask ≠ 0) (hpark : p.park = .no)
include hmask hpark

/-- A vector register written in the lanes of `m` and ready at `at_`. -/
theorem State.finish_lanes (m : Word32) (d at_ : Nat) (f : Nat → Word32) : ∃ h,
    u.finish tile slot (((g.writeLanes m d f).readyOn (keyV d) at_).step p 8) = u.putGroup tile slot h ∧
    h = { g with v := h.v, paths := h.paths, issued := g.issued + 1, ready := h.ready } ∧
    (∀ r l, l < 32 → h.vreg r l = if r = d ∧ m.getLsbD l = true then f l else g.vreg r l) ∧
    h.paths = g.paths.filter (fun q => q != p) ++ [{ p with pc := p.pc + 8 }] ∧ tabGet h.ready 0 (keyV d) = at_ := by
  refine ⟨_, u.finish_step tile slot hmask hpark 8, ?_, fun r l hl => g.vreg_writeLanes m d f r hl, ?_, ?_⟩
  · rw [Group.writeLanes_frame]
    rfl
  · rw [Group.writeLanes_frame]
    rfl
  · exact (tabGet_tabSet _ _ _ _ _).trans (if_pos rfl)

/-- A predicate register written in the lanes of `m`; p7 stays as it is. -/
theorem State.predDone_facts (m : Word32) (d : Nat) (f : Nat → Bool) : ∃ h,
    u.predDone tile slot g p m d f = u.putGroup tile slot h ∧ h.v = g.v ∧ h.s = g.s ∧
    (∀ n l, l < 32 → h.preg n l = if n % 8 = d % 8 ∧ d % 8 ≠ 7 ∧ m.getLsbD l = true then f l else g.preg n l) := by
  unfold State.predDone
  by_cases hd : d % 8 = 7
  · rw [if_pos hd]
    exact ⟨_, u.finish_step tile slot hmask hpark 8, rfl, rfl, fun n l _ => by simp [hd]; rfl⟩
  · rw [if_neg hd]
    refine ⟨_, u.finish_step tile slot hmask hpark 8, ?_, ?_, fun n l hl => ?_⟩
    · rw [Group.writePred_frame]; rfl
    · rw [Group.writePred_frame]; rfl
    · exact (g.preg_writePred m d f n l).trans (by simp [hl])

end

section
variable {s u : State} {tile slot : Nat} {g : Group} {p : Path} {w : Word64}

/-- What an integer operation that writes a vector register puts into lane `l`. -/
def vectorValue (op : IntOp) (g : Group) (w : Word64) (l : Nat) : Word32 :=
  if op = .shuffle then g.vreg (wA w) ((g.vreg (wB w) l).toNat % 32) else intValue op (g.vreg (wA w) l) (g.vreg (wB w) l)

/-- What a compare writes for lane `l`. -/
def compareValue (op : IntOp) (g : Group) (w : Word64) (l : Nat) : Bool :=
  match op with
  | .cmpEq => g.vreg (wA w) l == g.vreg (wB w) l
  | .cmpNe => g.vreg (wA w) l != g.vreg (wB w) l
  | .cmpLtS => decide ((g.vreg (wA w) l).toInt < (g.vreg (wB w) l).toInt)
  | _ => decide ((g.vreg (wA w) l).toNat < (g.vreg (wB w) l).toNat)

/-- The compares of class 0x1. -/
def intCompares : List IntOp := [.cmpEq, .cmpNe, .cmpLtS, .cmpLtU]

section
variable (h : s.mayIssue tile slot (vecKeys w) g p u)
include h

theorem exec_vectorInteger_illegal {op : IntOp} (hword : plainWord 1 0 w = false) :
    exec (.vectorInteger tile slot op w) s = .next (u.illegal tile slot g p) := by
  rw [exec_vectorInteger, execVectorInteger, State.issue_due h, if_pos (by simp [hword])]

variable (hword : plainWord 1 0 w = true) (hop : wOp w ≠ 0x3C)
include hword hop

theorem exec_vectorInteger_vector {op : IntOp} (hvec : op ∉ intCompares) : exec (.vectorInteger tile slot op w) s =
    .next (u.vecDone tile slot g p (g.active p w) (wDst w) (vectorValue op g w)) := by
  rw [exec_vectorInteger, execVectorInteger, State.issue_due h, if_neg (by simp [hword, hop])]
  cases op with
  | cmpEq | cmpNe | cmpLtS | cmpLtU => exact absurd (by decide) hvec
  | _ => rfl

theorem exec_vectorInteger_compare {op : IntOp} (hcmp : op ∈ intCompares) : exec (.vectorInteger tile slot op w) s =
    .next (u.predDone tile slot g p (g.active p w) (wDst w) (compareValue op g w)) := by
  rw [exec_vectorInteger, execVectorInteger, State.issue_due h, if_neg (by simp [hword, hop])]
  cases op with
  | cmpEq | cmpNe | cmpLtS | cmpLtU => rfl
  | _ => exact absurd hcmp (by decide)

end

/-- R64: a shift by less than 32 shifts, one by 32 or more is a free value. -/
theorem shiftLane_eq (n : Nat) (f : Word32 → Nat → Word32) (a b : Word32) :
    (b.toNat < 32 → shiftLane n f a b = f a b.toNat) ∧ (32 ≤ b.toNat → shiftLane n f a b = Config.overShift n a b) :=
  ⟨fun h => if_pos h, fun h => if_neg (Nat.not_lt.mpr h)⟩

end

/-- Settles O20: the lanes of a vector result, of a compare's predicate and of a draw, by what a write in the active lanes leaves. -/
theorem vectorIntegerInstructions : Obligations.VectorIntegerInstructions := by
  refine ⟨?_, ?_, ?_, ?_⟩
  · intro s u tile slot g p w op h hword hop hmask hvec
    obtain ⟨k, hfin, hk, hv, hpaths, -⟩ := u.finish_lanes tile slot (g := g) hmask (State.mayIssue_path h).2.1 (g.active p w)
      (wDst w) (u.due 4) (vectorValue op g w)
    have hnc : op ∉ intCompares := by
      intro hc
      cases op with
      | cmpEq | cmpNe | cmpLtS | cmpLtU => exact absurd hvec (by decide)
      | _ => exact absurd hc (by decide)
    refine ⟨k, ?_, hk, fun r l hl hout => ?_, fun l hl hact => ?_, hpaths⟩
    · rw [exec_vectorInteger_vector h hword hop hnc, State.vecDone, hfin]
    · rw [hv r l hl, if_neg]
      rintro ⟨hr, hm⟩
      rcases hout with hne | hoff
      · exact hne hr
      · rw [hm] at hoff; exact nomatch hoff
    · have hval : k.vreg (wDst w) l = vectorValue op g w l := by rw [hv _ l hl, if_pos ⟨rfl, hact⟩]
      rw [hval]
      refine ⟨?_, ?_, ?_, ?_, ?_, ?_, ?_, fun hsmall => ⟨?_, ?_, ?_⟩, fun hbig => ?_⟩ <;> rintro rfl
      · rfl
      · rfl
      · rfl
      · rfl
      · rfl
      · rfl
      · rfl
      · exact (shiftLane_eq 0 _ _ _).1 hsmall
      · exact (shiftLane_eq 1 _ _ _).1 hsmall
      · exact (shiftLane_eq 2 _ _ _).1 hsmall
      · exact (shiftLane_eq 0 _ _ _).2 hbig
  · intro s u tile slot g p w op h hword hop hmask hcmp
    obtain ⟨k, hdone, hkv, hks, hp⟩ := u.predDone_facts tile slot (g := g) hmask (State.mayIssue_path h).2.1 (g.active p w)
      (wDst w) (compareValue op g w)
    refine ⟨k, ?_, hkv, hks, fun n l hl hout => ?_, fun l hl hact hd => ?_⟩
    · rw [exec_vectorInteger_compare h hword hop hcmp, hdone]
    · rw [hp n l hl, if_neg]
      rintro ⟨hn, hd, hm⟩
      rcases hout with hne | hoff | h7
      · exact hne hn
      · rw [hm] at hoff; exact nomatch hoff
      · exact hd (hn.symm.trans h7)
    · rw [hp _ l hl, if_pos ⟨rfl, hd, hact⟩]
      refine ⟨?_, ?_, ?_, ?_⟩ <;> rintro rfl <;> rfl
  · intro s u tile slot g p w h hword hop hpair hmask himm
    obtain ⟨k, hfin, hk, hv, -, hready⟩ := u.finish_lanes tile slot (g := g) hmask (State.mayIssue_path h).2.1 (g.active p w)
      (wDst w) (u.due 6) (fun l => BitVec.ofNat 32 (rngValue (g.sreg (wA w)) (((g.sreg (wB w)).toNat + l * wImm w) % 2 ^ 64)))
    refine ⟨k, ?_, by rw [hk], by rw [hk], fun r l hl hout => ?_, fun l hl hact => ?_, hready⟩
    · have himm0 : wImm w ≠ 0 := Nat.one_le_iff_ne_zero.mp himm
      rw [exec_rdraw, execRdraw, State.issue_due h, if_neg (by simp [show plainWord 1 131071 w = true from hword, hop, hpair, himm0])]
      exact congrArg _ hfin
    · rw [hv r l hl, if_neg]
      rintro ⟨hr, hm⟩
      rcases hout with hne | hoff
      · exact hne hr
      · rw [hm] at hoff; exact nomatch hoff
    · rw [hv _ l hl, if_pos ⟨rfl, hact⟩]
  · intro s u tile slot g p w h himm
    rw [exec_rdraw, execRdraw, State.issue_due h, if_pos (by simp [himm])]

end Sys2Proof.Machine
end

section
/-! A precise fault of an instruction (R92, R356): the record, the context that stops, and what stays on every tile. -/

namespace Sys2Proof.Machine

/-- R92: the groups of a tile that holds the context's blocks stop; nothing else of the tile changes. -/
def Tile.stopFor (x : Tile) (c : Nat) : Tile :=
  if x.ctx = some c then
    { x with groups := x.groups.map (fun g => (g.1, g.2.map (fun x => { x with stopped := true })))
             saved := x.saved.map (fun x => { x with stopped := true }) }
  else x

theorem Tile.stopFor_frame (x : Tile) (c : Nat) :
    x.stopFor c = { x with groups := (x.stopFor c).groups, saved := (x.stopFor c).saved } := by
  unfold Tile.stopFor
  split <;> rfl

theorem Tile.group_stopFor {x : Tile} {c : Nat} (h : x.ctx = some c) (n : Nat) :
    (x.stopFor c).group n = (x.group n).map (fun g => { g with stopped := true }) := by
  rw [Tile.stopFor, if_pos h]
  exact tabGet_map x.groups (Option.map (fun g : Group => { g with stopped := true })) rfl n

theorem State.tile_stopBlocks (s : State) (c k : Nat) : (s.stopBlocks c).tile k = (s.tile k).stopFor c :=
  tabGet_map s.tiles (fun x => x.stopFor c) (if_neg nofun) k

/-- R92: a stopping fault stops the context's groups and leaves the rest of every tile. -/
theorem State.tile_takeFault {s : State} {c : Nat} (hst : (s.ctx c).st.stoppable = true) (f : FaultRec) (k : Nat) :
    (s.takeFault c none f).tile k = (s.tile k).stopFor c := by
  have hstop : ∀ u : State, u.tiles = s.tiles → (u.stopBlocks c).tile k = (s.tile k).stopFor c := fun u h => by
    rw [State.tile_stopBlocks, State.tile_congr h]
  have hgauge : ∀ u : State, (u.gaugeRequest 1 false false).tile k = u.tile k := fun u => State.tile_congr (by simp) k
  unfold State.takeFault
  rw [if_pos hst]
  dsimp only
  split
  · exact hstop _ (by simp)
  · exact (hgauge _).trans (hstop _ (by simp))

section
variable {u : State} {g : Group} (tile slot : Nat) (p : Path) (code : Code) (detail address : Nat)

section
variable (hst : (u.ctx g.ctx).st = .resident) (hnone : (u.ctx g.ctx).fault = none)
include hst hnone

/-- R92, R356: the record names the instruction, and its context is STOPPED. -/
theorem State.preciseAt_fault : ∃ f, ((u.preciseAt tile slot g p code detail address).ctx g.ctx).fault = some f ∧
    f.code = code ∧ f.detail = detail ∧ f.tile = tile ∧ f.slot = slot ∧ f.where' = p.pc ∧ f.lanes = p.mask ∧
    f.deferred = false ∧ ((u.preciseAt tile slot g p code detail address).ctx g.ctx).st = .stopped := by
  have hstop : (u.ctx g.ctx).st.stoppable = true := by rw [hst]; rfl
  exact ⟨_, State.fault_takeFault hstop hnone none _, rfl, rfl, rfl, rfl, rfl, rfl, rfl, State.takeFault_stopped hstop _⟩

end

theorem State.tile_preciseAt (hst : (u.ctx g.ctx).st = .resident) (k : Nat) :
    (u.preciseAt tile slot g p code detail address).tile k = (u.tile k).stopFor g.ctx :=
  State.tile_takeFault (by rw [hst]; rfl) _ k

end

theorem exec_systemInstruction (tile slot : Nat) (op : SysOp) (w : Word64) (s : State) :
    exec (.systemInstruction tile slot op w) s = execSystemInstruction tile slot op w s := rfl

theorem exec_reservedClassInstruction (tile slot : Nat) (w : Word64) (s : State) :
    exec (.reservedClassInstruction tile slot w) s = execReservedClassInstruction tile slot w s := rfl

/-- Outside RUN no instruction issues. -/
theorem State.issue_off {s : State} (h : s.mod.state ≠ .run) (tile slot : Nat) (keys : List Nat)
    (f : State → Group → Path → State) : s.issue tile slot keys f = s := by
  have hrun : s.running = false := by simp [State.running, h]
  rw [State.issue, State.issueIf, State.ready, hrun]
  rfl

/-- Settles O23: the fault's record and what its stop leaves on each tile. -/
theorem preciseFaultsStopTheContext : Obligations.PreciseFaultsStopTheContext := by
  refine ⟨?_, ?_, ?_, ?_, ?_⟩
  · intro s u tile slot g p w h hst hnone
    obtain ⟨-, hdram, hslices, -⟩ := State.mayIssue_frame h
    obtain ⟨f, hf, hcode, -, htile, hslot, hwhere, hlanes, hdef, hstopped⟩ :=
      State.preciseAt_fault tile slot p .illegalInstruction 0 0 hst hnone
    have hk := State.tile_preciseAt tile slot p .illegalInstruction 0 0 hst
    refine ⟨_, f, ?_, hf, hcode, htile, hslot, hwhere, hlanes, hdef, hstopped, ?_, ?_, fun k => ?_, fun k n x hx hc => ?_⟩
    · rw [exec_reservedClassInstruction, execReservedClassInstruction, State.issue_due h]
      rfl
    · simp [State.preciseAt, hdram]
    · simp [State.preciseAt, hslices]
    · rw [hk, Tile.stopFor_frame]
      exact ⟨rfl, rfl⟩
    · rw [State.group, hk, Tile.group_stopFor hc, show (u.tile k).group n = some x from hx]
      rfl
  · intro s u tile slot g p w op h hkind hst hnone
    obtain ⟨f, hf, hcode, -, -, -, -, -, -, hstopped⟩ := State.preciseAt_fault tile slot p .privilegedInstruction 0 0 hst hnone
    refine ⟨_, f, ?_, hf, hcode, hstopped, ?_⟩
    · rw [exec_systemInstruction, execSystemInstruction.eq_def, State.issue_due h, if_pos (by simp [State.privileged, hkind])]
    · rw [State.tile_preciseAt tile slot p .privilegedInstruction 0 0 hst, Tile.stopFor_frame]
  · intro s u tile slot g p w op h hkind hword hmask
    have hexec : exec (.systemInstruction tile slot op w) s = .next ((u.modTile tile (fun x => { x with
        array := { x.array with diag := decide (op = .enableDiagonal) } })).putGroup tile slot { g with
          paths := g.paths.filter (fun q => q != p) ++ [{ p with pc := p.pc + 8 }], issued := g.issued + 1 }) := by
      rw [exec_systemInstruction, execSystemInstruction.eq_def, State.issue_due h, if_neg (by simp [State.privileged, hkind]),
        if_neg (by simp [hword])]
      dsimp only
      rw [State.finish_step _ tile slot hmask (State.mayIssue_path h).2.1]
      cases op <;> rfl
    refine ⟨_, hexec, ?_, State.group_putGroup_same _ _ _ _, rfl⟩
    rw [State.tile_putGroup, if_pos rfl, State.tile_modTile, if_pos rfl]
  · intro s u tile slot g p w op h hword
    exact exec_vectorInteger_illegal h hword
  · intro s tile slot w hoff
    rw [exec_reservedClassInstruction, execReservedClassInstruction, State.issue_off hoff]

end Sys2Proof.Machine
end

section
/-! What a lane's registers hold after bytes are written to them, and what stores of lanes leave in a window (R55, R66 to R69). -/

namespace Sys2Proof.Machine

/-! ## Bytes -/

@[simp] theorem length_leBytes (k n : Nat) : (leBytes k n).length = k := by
  induction k generalizing n with
  | zero => rfl
  | succ k ih => rw [leBytes, List.length_cons, ih]

section
variable {α : Type} [DecidableEq α] (d : α)

/-- One entry after a list is written to consecutive ones. -/
theorem tabGet_tabWrite (vs : List α) : ∀ (t : Tab α) (lo k : Nat),
    tabGet (tabWrite t d lo vs) d k = if lo ≤ k ∧ k < lo + vs.length then vs.getD (k - lo) d else tabGet t d k := by
  induction vs with
  | nil => intro t lo k; rw [tabWrite, if_neg (by simp)]
  | cons v r ih =>
    intro t lo k
    rw [tabWrite, ih, tabGet_tabSet, List.length_cons]
    rcases Nat.lt_trichotomy k lo with h | h | h
    · rw [if_neg (by omega), if_neg (by omega), if_neg (by omega)]
    · rw [if_neg (by omega), if_pos h, if_pos (by omega), h, Nat.sub_self]
      rfl
    · obtain ⟨j, rfl⟩ := Nat.exists_eq_add_of_lt h
      have h1 : lo + j + 1 - lo = j + 1 := by omega
      have h2 : lo + j + 1 - (lo + 1) = j := by omega
      rw [h1, h2, List.getD_cons_succ]
      by_cases hj : j < r.length
      · rw [if_pos (by omega), if_pos (by omega)]
      · rw [if_neg (by omega), if_neg (by omega), if_neg (by omega)]

end

/-- Bytes from a position of a range of memory are a range of memory. -/
theorem sliceAt_tabRange (t : Tab Byte) (a : Nat) {n lo k : Nat} (h : lo + k ≤ n) :
    sliceAt (tabRange t 0 a n) lo k = tabRange t 0 (a + lo) k := by
  have hlen : (tabRange t 0 a n).length = n := by simp [tabRange]
  rw [sliceAt, hlen, show k - (n - lo) = 0 by omega, List.replicate_zero, List.append_nil]
  refine List.ext_getElem (by simp [tabRange]; omega) (fun i h1 h2 => ?_)
  simp [tabRange, Nat.add_assoc]

/-! ## A lane's registers (R68) -/

/-- The register `r` of a lane whose result of `size` bytes `d` goes to the registers from `dst` on; `old` is what it held. -/
def laneReg (dst size : Nat) (d : List Byte) (r : Nat) (old : Word32) : Word32 :=
  if size < 4 then (if r = dst then narrowReg (8 * size) (leNat d) else old)
  else (List.range (wordsOf size)).foldl (fun x i =>
    if r = (dst + i) % 128 then BitVec.ofNat 32 (leNat (sliceAt d (4 * i) 4)) else x) old

section
variable (g : Group) (dst size : Nat) (d : List Byte)

theorem Group.vreg_setLane (r : Nat) {k l : Nat} (hk : k < 32) (hl : l < 32) : (g.setLane dst k size d).vreg r l =
    if l = k then laneReg dst size d r (g.vreg r l) else g.vreg r l := by
  unfold Group.setLane laneReg
  split
  · rw [Group.vreg_setVreg _ _ _ hk hl]
    by_cases h : l = k <;> simp [h]
  · generalize List.range (wordsOf size) = is
    induction is generalizing g with
    | nil => simp
    | cons i t ih =>
      rw [List.foldl_cons, ih, Group.vreg_setVreg _ _ _ hk hl]
      by_cases h : l = k
      · simp [h]
      · simp [h]

theorem Group.setLane_frame (k : Nat) : g.setLane dst k size d = { g with v := (g.setLane dst k size d).v } := by
  unfold Group.setLane
  split
  · rfl
  · generalize List.range (wordsOf size) = is
    induction is generalizing g with
    | nil => rfl
    | cons i t ih => rw [List.foldl_cons, ih]; rfl

end

section
variable (dst : Nat) {size : Nat} (d : List Byte) (old : Word32)

theorem laneReg_narrow (h : size < 4) : laneReg dst size d dst old = narrowReg (8 * size) (leNat d) := by
  rw [laneReg, if_pos h, if_pos rfl]

/-- The last of the registers that `r` is takes its word. -/
theorem foldl_laneReg_other (is : List Nat) (r : Nat) (h : ∀ i ∈ is, r ≠ (dst + i) % 128) :
    is.foldl (fun x i => if r = (dst + i) % 128 then BitVec.ofNat 32 (leNat (sliceAt d (4 * i) 4)) else x) old = old := by
  induction is with
  | nil => rfl
  | cons i t ih =>
    rw [List.foldl_cons, if_neg (h i List.mem_cons_self)]
    exact ih (fun j hj => h j (List.mem_cons_of_mem _ hj))

theorem wordsOf_of_laneSize (hs : LaneSize size = true) (h4 : 4 ≤ size) : wordsOf size = size / 4 ∧ size / 4 ≤ 4 := by
  simp only [LaneSize, Bool.or_eq_true, beq_iff_eq] at hs
  unfold wordsOf
  omega

theorem laneReg_word (hs : LaneSize size = true) {j : Nat} (hj : j < size / 4) :
    laneReg dst size d ((dst + j) % 128) old = BitVec.ofNat 32 (leNat (sliceAt d (4 * j) 4)) := by
  obtain ⟨hw, h4⟩ := wordsOf_of_laneSize hs (by omega)
  rw [laneReg, if_neg (by omega), hw]
  generalize size / 4 = n at hj h4 ⊢
  induction n with
  | zero => omega
  | succ n ih =>
    rw [List.range_succ, List.foldl_append, List.foldl_cons, List.foldl_nil]
    by_cases hjn : j = n
    · rw [hjn, if_pos rfl]
    · rw [if_neg (by omega)]
      exact ih (by omega) (by omega)

theorem laneReg_other (hd : dst < 128) {r : Nat} (hr : ∀ i, i < wordsOf size → r ≠ (dst + i) % 128) (hpos : 0 < size) :
    laneReg dst size d r old = old := by
  unfold laneReg
  split
  · have h0 := hr 0 (by unfold wordsOf; omega)
    rw [Nat.add_zero, Nat.mod_eq_of_lt hd] at h0
    rw [if_neg h0]
  · exact foldl_laneReg_other dst d old _ r (fun i hi => hr i (List.mem_range.mp hi))

end

/-! ## Lanes one after another -/

/-- The results of lanes, each with its bytes, written to the registers from `dst` on. -/
def Group.setLanes (g : Group) (dst size : Nat) (ds : List (Nat × List Byte)) : Group :=
  ds.foldl (fun g e => g.setLane dst e.1 size e.2) g

section
variable (g : Group) (dst size : Nat)

theorem Group.setLanes_frame (ds : List (Nat × List Byte)) :
    g.setLanes dst size ds = { g with v := (g.setLanes dst size ds).v } := by
  induction ds generalizing g with
  | nil => rfl
  | cons e r ih => rw [Group.setLanes, List.foldl_cons, ← Group.setLanes, ih, Group.setLane_frame]

/-- A lane that receives nothing keeps its registers. -/
theorem Group.vreg_setLanes_other (r : Nat) {l : Nat} (hl : l < 32) {ds : List (Nat × List Byte)} (hds : ∀ e ∈ ds, e.1 < 32)
    (h : ∀ e ∈ ds, e.1 ≠ l) : (g.setLanes dst size ds).vreg r l = g.vreg r l := by
  induction ds generalizing g with
  | nil => rfl
  | cons e t ih =>
    rw [Group.setLanes, List.foldl_cons, ← Group.setLanes, ih _ (fun x hx => hds x (List.mem_cons_of_mem _ hx))
      (fun x hx => h x (List.mem_cons_of_mem _ hx)), Group.vreg_setLane _ _ _ _ _ (hds e List.mem_cons_self) hl,
      if_neg (Ne.symm (h e List.mem_cons_self))]

/-- A lane named once receives its bytes. -/
theorem Group.vreg_setLanes (r : Nat) {ds : List (Nat × List Byte)} (hds : ∀ e ∈ ds, e.1 < 32)
    (hnd : (ds.map (fun e => e.1)).Nodup) {l : Nat} {d : List Byte} (hmem : (l, d) ∈ ds) :
    (g.setLanes dst size ds).vreg r l = laneReg dst size d r (g.vreg r l) := by
  induction ds generalizing g with
  | nil => exact nomatch hmem
  | cons e t ih =>
    rw [List.map_cons, List.nodup_cons] at hnd
    have ht : ∀ x ∈ t, x.1 < 32 := fun x hx => hds x (List.mem_cons_of_mem _ hx)
    have hl : l < 32 := hds (l, d) hmem
    have he := hds e List.mem_cons_self
    rw [Group.setLanes, List.foldl_cons, ← Group.setLanes]
    rcases List.mem_cons.mp hmem with rfl | hin
    · rw [Group.vreg_setLanes_other _ _ _ _ hl ht (fun x hx hxl => hnd.1 (List.mem_map.mpr ⟨x, hx, hxl⟩)),
        Group.vreg_setLane _ _ _ _ _ hl hl, if_pos rfl]
    · have hne : l ≠ e.1 := fun hle => hnd.1 (List.mem_map.mpr ⟨(l, d), hin, hle⟩)
      rw [ih _ ht hnd.2 hin, Group.vreg_setLane _ _ _ _ _ he hl, if_neg hne]

/-- Every lane of a mask receives its bytes. -/
theorem Group.vreg_setLanes_mask (m : Word32) (f : Nat → List Byte) (r : Nat) {l : Nat} (hl : l < 32) :
    (g.setLanes dst size ((lanesOf m).map (fun l => (l, f l)))).vreg r l =
      if m.getLsbD l = true then laneReg dst size (f l) r (g.vreg r l) else g.vreg r l := by
  have hds : ∀ e ∈ (lanesOf m).map (fun l => (l, f l)), e.1 < 32 := by
    intro e he
    obtain ⟨k, hk, rfl⟩ := List.mem_map.mp he
    exact lane_lt_of_mem hk
  split
  · next hm =>
    refine Group.vreg_setLanes _ _ _ _ hds ?_ (List.mem_map.mpr ⟨l, mem_lanesOf.mpr ⟨hl, hm⟩, rfl⟩)
    rw [List.map_map]
    exact (List.map_id'' (fun _ => rfl) (lanesOf m)).symm ▸ nodup_lanesOf m
  · next hm =>
    refine Group.vreg_setLanes_other _ _ _ _ hl hds (fun e he hel => ?_)
    obtain ⟨k, hk, rfl⟩ := List.mem_map.mp he
    exact hm (hel ▸ (mem_lanesOf.mp hk).2)

end

/-! ## Registers made ready -/

section
variable (g : Group) (dst size at_ : Nat)

theorem Group.foldl_readyOn_frame (is : List Nat) : is.foldl (fun g i => g.readyOn (keyV ((dst + i) % 128)) at_) g =
    { g with ready := (is.foldl (fun g i => g.readyOn (keyV ((dst + i) % 128)) at_) g).ready } := by
  induction is generalizing g with
  | nil => rfl
  | cons i t ih => rw [List.foldl_cons, ih]; rfl

theorem Group.readyDst_frame : g.readyDst dst size at_ = { g with ready := (g.readyDst dst size at_).ready } :=
  g.foldl_readyOn_frame dst at_ _

/-- R68: every register of the result is ready at that tick. -/
theorem Group.ready_readyDst {j : Nat} (hj : j < wordsOf size) :
    tabGet (g.readyDst dst size at_).ready 0 (keyV ((dst + j) % 128)) = at_ := by
  have hmem : j ∈ List.range (wordsOf size) := List.mem_range.mpr hj
  unfold Group.readyDst
  generalize List.range (wordsOf size) = is at hmem
  suffices h : ∀ is : List Nat, (j ∈ is ∨ tabGet g.ready 0 (keyV ((dst + j) % 128)) = at_) →
      tabGet (is.foldl (fun g i => g.readyOn (keyV ((dst + i) % 128)) at_) g).ready 0 (keyV ((dst + j) % 128)) = at_ from
    h is (Or.inl hmem)
  intro is
  induction is generalizing g with
  | nil => exact fun h => h.resolve_left List.not_mem_nil
  | cons i t ih =>
    intro h
    rw [List.foldl_cons]
    refine ih _ ?_
    rw [Group.readyOn, tabGet_tabSet]
    by_cases hi : keyV ((dst + j) % 128) = keyV ((dst + i) % 128)
    · exact Or.inr (if_pos hi)
    · rw [if_neg hi]
      exact h.imp (fun hm => (List.mem_cons.mp hm).resolve_left (fun hji => hi (by rw [hji]))) id

end

/-! ## A window of scratch (R55, R69) -/

theorem State.loadWindow_eq (v : State) (k base : Nat) (g : Group) (m : LaneMem) (lanes : List Nat) :
    v.loadWindow k base g m lanes = g.setLanes (wDst m.word) m.size
      (lanes.map (fun l => (l, v.scratchBytes k (base + laneAddr m l) m.size))) := by
  rw [State.loadWindow, Group.setLanes, List.foldl_map]

theorem length_laneBytes (g : Group) (r l size : Nat) : (g.laneBytes r l size).length = size := by
  have hlen : ((List.range (wordsOf size)).flatMap (fun i => leBytes 4 (g.vreg ((r + i) % 128) l).toNat)).length =
      4 * wordsOf size := by
    rw [List.length_flatMap]
    simp [Nat.mul_comm]
  rw [Group.laneBytes, List.length_take, hlen]
  unfold wordsOf
  omega

/-- Scratch with bytes written at addresses, one list after another. -/
def writeAll (t : Tab Byte) (ws : List (Nat × List Byte)) : Tab Byte := ws.foldl (fun t w => tabWrite t 0 w.1 w.2) t

/-- The address lies in what a write covers. -/
def covers (w : Nat × List Byte) (a : Nat) : Prop := w.1 ≤ a ∧ a < w.1 + w.2.length

theorem tabGet_writeAll_other {ws : List (Nat × List Byte)} {a : Nat} (h : ∀ w ∈ ws, ¬ covers w a) (t : Tab Byte) :
    tabGet (writeAll t ws) 0 a = tabGet t 0 a := by
  induction ws generalizing t with
  | nil => rfl
  | cons w r ih =>
    rw [writeAll, List.foldl_cons, ← writeAll, ih (fun x hx => h x (List.mem_cons_of_mem _ hx)), tabGet_tabWrite]
    exact if_neg (h w List.mem_cons_self)

/-- The last write that covers an address gives its byte. -/
theorem tabGet_writeAll {pre post : List (Nat × List Byte)} {w : Nat × List Byte} {a : Nat} (hw : covers w a)
    (hpost : ∀ x ∈ post, ¬ covers x a) (t : Tab Byte) :
    tabGet (writeAll t (pre ++ w :: post)) 0 a = w.2.getD (a - w.1) 0 := by
  rw [writeAll, List.foldl_append, List.foldl_cons, ← writeAll, tabGet_writeAll_other hpost, tabGet_tabWrite]
  exact if_pos hw

section
variable {v : State} {k : Nat} (hidle : (v.tile k).array.idle = true)
include hidle

theorem State.nowTile_idle : v.nowTile k = v.tile k := Tile.settled_idle _ _ _ hidle

/-- With an idle array what stands in the window is what the scratch holds. -/
theorem State.scratchBytes_idle (a n : Nat) : v.scratchBytes k a n = tabRange (v.tile k).scratch 0 a n := by
  rw [State.scratchBytes, State.nowTile_idle hidle]

theorem State.scratchWrite_tile (a : Nat) (d : List Byte) :
    (v.scratchWrite k a d).tile k = { v.tile k with scratch := tabWrite (v.tile k).scratch 0 a d } := by
  rw [State.scratchWrite, State.tile_modTile, if_pos rfl, State.nowTile_idle hidle]

theorem State.foldl_scratchWrite_tile {ws : List (Nat × List Byte)} :
    (ws.foldl (fun s w => s.scratchWrite k w.1 w.2) v).tile k = { v.tile k with scratch := writeAll (v.tile k).scratch ws } := by
  induction ws generalizing v with
  | nil => rfl
  | cons w r ih =>
    have hw := State.scratchWrite_tile hidle w.1 w.2
    rw [List.foldl_cons, ih (by rw [hw]; exact hidle), hw]
    rfl

end

/-- Writes to a tile's scratch change that tile alone. -/
theorem State.foldl_scratchWrite_frame (v : State) (k : Nat) (ws : List (Nat × List Byte)) :
    (∀ j, j ≠ k → (ws.foldl (fun s w => s.scratchWrite k w.1 w.2) v).tile j = v.tile j) ∧
    ws.foldl (fun s w => s.scratchWrite k w.1 w.2) v =
      { v with tiles := (ws.foldl (fun s w => s.scratchWrite k w.1 w.2) v).tiles } := by
  induction ws generalizing v with
  | nil => exact ⟨fun _ _ => rfl, rfl⟩
  | cons w r ih =>
    obtain ⟨htile, hframe⟩ := ih (v.scratchWrite k w.1 w.2)
    refine ⟨fun j hj => (htile j hj).trans ((State.scratchWrite_facts v k w.1 w.2).2.2 j hj), ?_⟩
    rw [List.foldl_cons, hframe]
    rfl

/-- What the lanes of a store write: each its bytes, in lane order. -/
def laneWrites (base : Nat) (g : Group) (m : LaneMem) (lanes : List Nat) : List (Nat × List Byte) :=
  lanes.map (fun l => (base + laneAddr m l, g.laneBytes (wB m.word) l m.size))

theorem State.storeWindow_eq (v : State) (k base : Nat) (g : Group) (m : LaneMem) (lanes : List Nat) :
    v.storeWindow k base g m lanes = (laneWrites base g m lanes).foldl (fun s w => s.scratchWrite k w.1 w.2) v := by
  rw [State.storeWindow, laneWrites, List.foldl_map]

theorem covers_laneWrite {base a l : Nat} {g : Group} {m : LaneMem} :
    covers (base + laneAddr m l, g.laneBytes (wB m.word) l m.size) a ↔
      base + laneAddr m l ≤ a ∧ a < base + laneAddr m l + m.size := by
  simp only [covers, length_laneBytes]

/-- The lanes of a mask around one of them: those after it are higher. -/
theorem lanesOf_split {m : Word32} {l : Nat} (hl : l < 32) (hm : m.getLsbD l = true) :
    ∃ pre post, lanesOf m = pre ++ l :: post ∧ ∀ k ∈ post, l < k ∧ k < 32 ∧ m.getLsbD k = true := by
  obtain ⟨pre, post, h⟩ := List.append_of_mem (mem_lanesOf.mpr ⟨hl, hm⟩)
  refine ⟨pre, post, h, fun k hk => ?_⟩
  have hsorted : (lanesOf m).Pairwise (· < ·) := List.pairwise_lt_range.filter _
  rw [h, List.pairwise_append, List.pairwise_cons] at hsorted
  exact ⟨hsorted.2.1.1 k hk, mem_lanesOf.mp (h ▸ List.mem_append_right _ (List.mem_cons_of_mem _ hk))⟩

/-! ## Faults of a scratch access (R55, R69) -/

section
variable (m : LaneMem) {lanes : List Nat} (size : Nat) (c : Code)

theorem misaligned_iff : misaligned m lanes = true ↔ ∃ l ∈ lanes, laneAddr m l % m.size ≠ 0 := by
  simp [misaligned]

theorem scratchFault_misaligned {l : Nat} (hl : l ∈ lanes) (hmis : laneAddr m l % m.size ≠ 0) :
    ∃ a, scratchFault m lanes size c = some (.misalignedAccess, a) :=
  ⟨_, if_pos ((misaligned_iff m).mpr ⟨l, hl, hmis⟩)⟩

theorem scratchFault_bounds (hal : ∀ k ∈ lanes, laneAddr m k % m.size = 0) {l : Nat} (hl : l ∈ lanes)
    (hout : size < laneAddr m l + m.size) : ∃ a, scratchFault m lanes size c = some (c, a) := by
  have hnot : ¬ misaligned m lanes = true := fun h => by
    obtain ⟨k, hk, hne⟩ := (misaligned_iff m).mp h
    exact hne (hal k hk)
  unfold scratchFault
  rw [if_neg hnot]
  split
  · exact ⟨_, rfl⟩
  · next hnone => exact absurd (decide_eq_true hout) (List.find?_eq_none.mp hnone l hl)

theorem scratchFault_none (h : ∀ k ∈ lanes, laneAddr m k % m.size = 0 ∧ laneAddr m k + m.size ≤ size) :
    scratchFault m lanes size c = none := by
  have hnot : ¬ misaligned m lanes = true := fun hm => by
    obtain ⟨k, hk, hne⟩ := (misaligned_iff m).mp hm
    exact hne (h k hk).1
  have hfind : lanes.find? (fun l => decide (size < laneAddr m l + m.size)) = none :=
    List.find?_eq_none.mpr (fun k hk => by simpa using (h k hk).2)
  rw [scratchFault, if_neg hnot, hfind]

end

/-! ## Time at the thread port (R67) -/

/-- No time passes to a tick that has come, if it is wet. -/
theorem State.waitWet_now {s : State} {w : Nat} (hw : w ≤ s.wet.toNat) (hdry : s.dryNow = false) : s.waitWet w = s := by
  unfold State.waitWet
  rw [show 17 * (w - s.wet.toNat) + 65 = 64 + 1 by omega, tickUntil, if_pos ⟨hw, by rw [hdry]; rfl⟩]

section
variable (s : State) (tile n : Nat)

/-- Taking the port passes time and notes until when it is held. -/
theorem State.takePort_frame : (s.takePort tile n).dram = s.dram ∧ (s.takePort tile n).slices = s.slices ∧
    (s.takePort tile n).ctxs = s.ctxs ∧ (s.takePort tile n).issues = s.issues ∧
    ∀ k, ((s.takePort tile n).tile k).scratch = (s.tile k).scratch ∧ ((s.takePort tile n).tile k).array = (s.tile k).array := by
  refine ⟨by simp [State.takePort], by simp [State.takePort], by simp [State.takePort], by simp [State.takePort], fun k => ?_⟩
  constructor
  · exact (State.tile_modTile_field Tile.scratch _ tile k).trans (by rw [State.tile_waitWet])
  · exact (State.tile_modTile_field Tile.array _ tile k).trans (by rw [State.tile_waitWet])

theorem State.takePort_wet (hbusy : (s.tile tile).portBusy ≤ s.wet.toNat) (hdry : s.dryNow = false) :
    (s.takePort tile n).wet = s.wet := by
  rw [State.takePort, State.waitWet_now hbusy hdry]
  simp

end

/-! ## SCRATCH_LOAD and SCRATCH_STORE -/

theorem exec_scratchLoad (tile slot : Nat) (m : LaneMem) (s : State) :
    exec (.scratchLoad tile slot m) s = execScratchLoad tile slot m s := rfl

theorem exec_scratchStore (tile slot : Nat) (m : LaneMem) (s : State) :
    exec (.scratchStore tile slot m) s = execScratchStore tile slot m s := rfl

section
variable {s u : State} {tile slot cls : Nat} {keys : List Nat} {g : Group} {p : Path} {m : LaneMem} {b : Block}
  (h : s.mayIssue tile slot keys g p u) (hb : u.blockOf tile g = some b)
include h hb

theorem State.scratchIssue_legal (hlegal : laneLegal cls m = true) (f : State → Group → Path → Block → List Nat → State) :
    s.scratchIssue tile slot cls keys m f = f u g p b (lanesOf (g.active p m.word)) := by
  rw [State.scratchIssue, State.issue_due h, hb, hlegal]
  rfl

theorem State.scratchIssue_illegal (hlegal : laneLegal cls m = false) (f : State → Group → Path → Block → List Nat → State) :
    s.scratchIssue tile slot cls keys m f = u.illegal tile slot g p := by
  rw [State.scratchIssue, State.issue_due h, hb, hlegal]
  rfl

end

/-- A load's results in its lanes' registers, ready at a tick, and the path moved on. -/
theorem State.finish_loaded (v : State) (tile slot : Nat) {g : Group} {p : Path} (hmask : p.mask ≠ 0) (hpark : p.park = .no)
    (k base : Nat) (m : LaneMem) (lanes : List Nat) (at_ : Nat) :
    v.finish tile slot (((v.loadWindow k base g m lanes).readyDst (wDst m.word) m.size at_).step p 8) =
      v.putGroup tile slot { (v.loadWindow k base g m lanes).readyDst (wDst m.word) m.size at_ with
        paths := g.paths.filter (fun q => q != p) ++ [{ p with pc := p.pc + 8 }], issued := g.issued + 1 } := by
  rw [State.finish_step v tile slot hmask hpark, Group.readyDst_frame, State.loadWindow_eq, Group.setLanes_frame]
  rfl

theorem wDst_lt (w : Word64) : wDst w < 128 := Nat.mod_lt _ (by decide)

/-- Settles O25: a load fills the lanes' registers, a store writes the lanes in order, each in the block's own window. -/
theorem scratchInstructionsUseTheBlocksWindow : Obligations.ScratchInstructionsUseTheBlocksWindow := by
  refine ⟨?_, ?_, ?_, ?_, ?_, ?_, ?_, ?_, ?_⟩
  · intro s u v tile slot g p m b lanes h hlegal hmask hb hlanes hfault hv
    obtain ⟨-, hdram, hslices, -, hctxs, -⟩ := State.mayIssue_frame h
    obtain ⟨hpd, hps, hpc, -, hpt⟩ := (u.waitWet ((u.tile tile).lanesReady b.base m lanes)).takePort_frame tile
      (portTicks (wordsAddressed b.base m lanes))
    rw [← hv] at hpd hps hpc hpt
    refine ⟨?_, hpd.trans (by simp [hdram]), hps.trans (by simp [hslices]), hpc.trans (by simp [hctxs]), fun k => ?_, ?_⟩
    · rw [exec_scratchLoad, execScratchLoad, State.scratchIssue_legal h hb hlegal, ← hlanes, hfault]
      dsimp only
      rw [← hv, State.finish_loaded v tile slot hmask (State.mayIssue_path h).2.1]
      rfl
    · rw [(hpt k).1, State.tile_waitWet, State.mayIssue_scratch h]
    · intro hbusy hready hdry
      rw [hv, State.waitWet_now hready hdry, State.takePort_wet _ _ _ hbusy hdry]
  · intro s u v tile slot g p m b lanes h hlegal hmask hb hlanes hfault hv
    obtain ⟨-, hdram, hslices, -, hctxs, -⟩ := State.mayIssue_frame h
    obtain ⟨hpd, hps, hpc, -, hpt⟩ := u.takePort_frame tile (portTicks (wordsAddressed b.base m lanes))
    rw [← hv] at hpd hps hpc hpt
    refine ⟨?_, hpd.trans hdram, hps.trans hslices, hpc.trans hctxs, fun k => (hpt k).1.trans (State.mayIssue_scratch h k)⟩
    rw [exec_scratchStore, execScratchStore, State.scratchIssue_legal h hb hlegal, ← hlanes, hfault]
    dsimp only
    rw [← hv, State.finish_step _ tile slot hmask (State.mayIssue_path h).2.1]
    rfl
  · intro v k base g m mask hsize
    rw [State.loadWindow_eq]
    refine ⟨fun l i hl hm hi => ?_, fun l hl hm h4 => ?_, fun r l hl hout => ?_⟩
    · rw [Group.vreg_setLanes_mask _ _ _ _ _ _ hl, if_pos hm, laneReg_word _ _ _ hsize hi, State.scratchBytes,
        sliceAt_tabRange _ _ (by omega)]
      rfl
    · rw [Group.vreg_setLanes_mask _ _ _ _ _ _ hl, if_pos hm, laneReg_narrow _ _ _ h4]
    · rw [Group.vreg_setLanes_mask _ _ _ _ _ _ hl]
      rcases hout with hoff | hr
      · rw [if_neg (by rw [hoff]; decide)]
      · rw [laneReg_other _ _ _ (wDst_lt _) hr (Nat.pos_of_ne_zero (by rintro h0; rw [h0] at hsize; exact nomatch hsize)), ite_self]
  · intro v k base g m mask hsize hidle
    rw [State.storeWindow_eq]
    have htile := State.foldl_scratchWrite_tile hidle (ws := laneWrites base g m (lanesOf mask))
    obtain ⟨hother, hframe⟩ := v.foldl_scratchWrite_frame k (laneWrites base g m (lanesOf mask))
    refine ⟨fun a l hl hm hlo hhi hlast => ?_, fun a hout => ?_, by rw [hframe], by rw [hframe], hother⟩
    · obtain ⟨pre, post, hsplit, hpost⟩ := lanesOf_split hl hm
      rw [htile, hsplit, laneWrites, List.map_append, List.map_cons]
      refine tabGet_writeAll (covers_laneWrite.mpr ⟨hlo, hhi⟩) (fun w hw hcov => ?_) _
      obtain ⟨x, hx, rfl⟩ := List.mem_map.mp hw
      obtain ⟨hlx, hx32, hxm⟩ := hpost x hx
      have hcov' := covers_laneWrite.mp hcov
      have := hlast x hlx hx32 hxm
      omega
    · rw [htile]
      refine tabGet_writeAll_other (fun w hw hcov => ?_) _
      obtain ⟨x, hx, rfl⟩ := List.mem_map.mp hw
      have hcov' := covers_laneWrite.mp hcov
      have := hout x (lane_lt_of_mem hx) (mem_lanesOf.mp hx).2
      omega
  · intro s u tile slot g p m b e hb hfault hlegal
    refine ⟨fun h => ?_, fun h => ?_⟩
    · rw [exec_scratchLoad, execScratchLoad, State.scratchIssue_legal h hb hlegal, hfault]
    · rw [exec_scratchStore, execScratchStore, State.scratchIssue_legal h hb hlegal, hfault]
  · intro s u tile slot g p m b hb hlegal
    refine ⟨fun h => ?_, fun h => ?_⟩
    · rw [exec_scratchLoad, execScratchLoad, State.scratchIssue_illegal h hb hlegal]
    · rw [exec_scratchStore, execScratchStore, State.scratchIssue_illegal h hb hlegal]
  · exact fun m lanes l size c hl hmis => scratchFault_misaligned m size c hl hmis
  · exact fun m lanes l size c hal hl hout => scratchFault_bounds m size c hal hl hout
  · exact fun m lanes size c h => scratchFault_none m size c h

end Sys2Proof.Machine
end

section
/-! What the end of an access allows its group (R232, R240, R324), and what it leaves. -/

namespace Sys2Proof.Machine

/-! ## Signals sent (R255, R256, R324) -/

/-- `t` is `s` but for the signals marked sent and the requests that left. -/
def State.sendsOnly (s t : State) : Prop :=
  t = { s with sync := { s.sync with ops := t.sync.ops }, fab := t.fab, sent := t.sent }

section
variable {s t u : State}

theorem State.sendsOnly.refl (s : State) : s.sendsOnly s := rfl

theorem State.sendsOnly.trans (h : s.sendsOnly t) (h' : t.sendsOnly u) : s.sendsOnly u := by
  rw [State.sendsOnly, h', h]

theorem State.sendFabric_sendsOnly (s : State) (dev route : Nat) (op : FabOp) (access sync : Option Nat) (c : Nat) :
    s.sendsOnly (s.sendFabric dev route op access sync c) := by
  unfold State.sendFabric
  dsimp only
  split <;> rfl

theorem State.sendOp_sendsOnly (s : State) (o : SyncOp) : s.sendsOnly (s.sendOp o) := by
  unfold State.sendOp
  dsimp only
  split
  · refine State.sendsOnly.trans ?_ (State.sendFabric_sendsOnly _ _ _ _ _ _ _)
    rfl
  · rfl

theorem State.sendOps_sendsOnly (s : State) (tile uid : Nat) : s.sendsOnly (s.sendOps tile uid) := by
  unfold State.sendOps
  generalize s.sync.ops.filter _ = l
  induction l generalizing s with
  | nil => exact State.sendsOnly.refl s
  | cons o r ih => exact (s.sendOp_sendsOnly o).trans (ih _)

end

/-! ## Groups by their number -/

section
variable (s : State) (tile uid : Nat) (f : Group → Group)

theorem State.group_modGroup (n : Nat) : (s.modGroup tile uid f).group tile n =
    (s.group tile n).map (fun g => if g.uid = uid then f g else g) := by
  rw [State.group, State.modGroup, State.tile_modTile, if_pos rfl]
  exact tabGet_map (s.tile tile).groups (Option.map (fun g => if g.uid = uid then f g else g)) rfl n

/-- A change of a group leaves its tile but for groups and save records. -/
theorem State.tile_modGroup : (s.modGroup tile uid f).tile tile = { s.tile tile with
    groups := ((s.modGroup tile uid f).tile tile).groups, saved := ((s.modGroup tile uid f).tile tile).saved } := by
  rw [State.modGroup, State.tile_modTile, if_pos rfl]

theorem State.tile_modGroup_field {γ : Type} (q : Tile → γ) (k : Nat)
    (hq : ∀ x gs sv, q { x with groups := gs, saved := sv } = q x := by exact fun _ _ _ => rfl) :
    q ((s.modGroup tile uid f).tile k) = q (s.tile k) :=
  State.tile_modTile_field q s tile k (fun _ => hq _ _ _)

end

/-! ## A group woken (R232) -/

/-- An acquire whose walk has ended waits for loads alone. -/
def wakeLoads (g : Group) : Group := if g.hold = .loads then { g with hold := .none } else g

/-- A release fence, or a signal held back, is over. -/
def wakeHeld (g : Group) : Group := match g.hold with
  | .fence | .send _ => { g with hold := .none }
  | _ => g

theorem wakeLoads_frame (g : Group) : wakeLoads g = { g with hold := (wakeLoads g).hold } := by
  unfold wakeLoads
  split <;> rfl

theorem wakeHeld_frame (g : Group) : wakeHeld g = { g with hold := (wakeHeld g).hold } := by
  unfold wakeHeld
  split <;> rfl

section
variable (s : State) (tile uid : Nat)

/-- The group that waits for loads woken where none is out. -/
def State.wokenLoads : State := if s.loadsOut tile uid then s else s.modGroup tile uid wakeLoads

theorem State.wokenLoads_frame : s.wokenLoads tile uid = { s with tiles := (s.wokenLoads tile uid).tiles } := by
  unfold State.wokenLoads
  split <;> rfl

theorem State.fenced_wokenLoads : (s.wokenLoads tile uid).fenced tile uid = s.fenced tile uid := by
  rw [State.wokenLoads_frame]
  rfl

theorem State.wakeFence_eq : s.wakeFence tile uid = if s.fenced tile uid then
      { (((s.wokenLoads tile uid).sendOps tile uid).modGroup tile uid wakeHeld) with
        walks := modIf s.walks (fun w => decide (w.who = .group tile uid) && w.untilTick.isNone)
          (fun w => { w with untilTick := some (s.wet.toNat + walkTicks w.ranges) }) }
    else s.wokenLoads tile uid := by
  have hwet : (((s.wokenLoads tile uid).sendOps tile uid).modGroup tile uid wakeHeld).wet = s.wet := by
    rw [State.modGroup, (State.modTile_fields _ _ _).2.2.1, State.sendOps_sendsOnly, State.wokenLoads_frame]
  have hwalks : (((s.wokenLoads tile uid).sendOps tile uid).modGroup tile uid wakeHeld).walks = s.walks := by
    rw [State.modGroup, State.sendOps_sendsOnly, State.wokenLoads_frame]
    rfl
  unfold State.wakeFence
  change (if (s.wokenLoads tile uid).fenced tile uid then _ else s.wokenLoads tile uid) = _
  rw [State.fenced_wokenLoads, ← hwet, ← hwalks]
  rfl

/-- What waking a group leaves: everything but groups, walks, and the signals that were held back. -/
def State.wakesOnly (s t : State) : Prop := t = { s with
  tiles := t.tiles, walks := t.walks, sync := { s.sync with ops := t.sync.ops }, fab := t.fab, sent := t.sent }

theorem State.wakeFence_wakesOnly : s.wakesOnly (s.wakeFence tile uid) := by
  rw [State.wakeFence_eq]
  split
  · rw [State.wakesOnly, State.modGroup, State.modTile, State.setTile, State.sendOps_sendsOnly, State.wokenLoads_frame]
  · rw [State.wakesOnly, State.wokenLoads_frame]

theorem State.tile_sendOps (k : Nat) : (s.sendOps tile uid).tile k = s.tile k :=
  State.tile_congr (by rw [State.sendOps_sendsOnly]) k

theorem State.tile_wakeFence_other {k : Nat} (hk : k ≠ tile) : (s.wakeFence tile uid).tile k = s.tile k := by
  have hloads : (s.wokenLoads tile uid).tile k = s.tile k := by
    unfold State.wokenLoads
    split
    · rfl
    · exact s.tile_modGroup_other _ _ hk _ _
  rw [State.wakeFence_eq]
  split
  · exact ((State.tile_modGroup_other _ _ _ hk _ _).trans (State.tile_sendOps _ _ _ k)).trans hloads
  · exact hloads

/-- Of a tile, waking a group changes groups and save records alone. -/
theorem State.tile_wakeFence_field {γ : Type} (q : Tile → γ) (k : Nat)
    (hq : ∀ x gs sv, q { x with groups := gs, saved := sv } = q x := by exact fun _ _ _ => rfl) :
    q ((s.wakeFence tile uid).tile k) = q (s.tile k) := by
  have hloads : q ((s.wokenLoads tile uid).tile k) = q (s.tile k) := by
    unfold State.wokenLoads
    split
    · rfl
    · exact s.tile_modGroup_field tile uid _ q k hq
  rw [State.wakeFence_eq]
  split
  · exact ((State.tile_modGroup_field _ tile uid _ q k hq).trans (by rw [State.tile_sendOps])).trans hloads
  · exact hloads

/-- What a group's end of an access does to the group: its hold may end. -/
def State.wake (s : State) (tile uid : Nat) (g : Group) : Group :=
  let h := if s.loadsOut tile uid then g else wakeLoads g
  if s.fenced tile uid then wakeHeld h else h

theorem State.wake_frame (g : Group) : s.wake tile uid g = { g with hold := (s.wake tile uid g).hold } := by
  have hloads : ∀ b : Bool, (if b then g else wakeLoads g) = { g with hold := (if b then g else wakeLoads g).hold } := fun b => by
    cases b
    · exact wakeLoads_frame g
    · rfl
  unfold State.wake
  dsimp only
  split
  · rw [wakeHeld_frame, hloads]
  · exact hloads _

theorem wakeLoads_uid (g : Group) : (wakeLoads g).uid = g.uid := by rw [wakeLoads_frame]

theorem State.group_wakeFence (n : Nat) : (s.wakeFence tile uid).group tile n =
    (s.group tile n).map (fun g => if g.uid = uid then s.wake tile uid g else g) := by
  have hloads : (s.wokenLoads tile uid).group tile n = (s.group tile n).map (fun g => if g.uid = uid then
      (if s.loadsOut tile uid then g else wakeLoads g) else g) := by
    unfold State.wokenLoads
    split
    · simp
    · exact s.group_modGroup _ _ _ n
  rw [State.wakeFence_eq]
  unfold State.wake
  cases hf : s.fenced tile uid with
  | false => exact hloads
  | true =>
    have hsent : ((s.wokenLoads tile uid).sendOps tile uid).group tile n = (s.wokenLoads tile uid).group tile n :=
      State.group_congr (by rw [State.tile_sendOps]) n
    refine (State.group_modGroup _ _ _ _ n).trans ?_
    rw [hsent, hloads, Option.map_map]
    refine congrArg (fun f => Option.map f _) (funext fun g => ?_)
    by_cases hu : g.uid = uid
    · by_cases hl : s.loadsOut tile uid <;> simp [hu, hl, wakeLoads_uid]
    · simp [hu]

/-! ## An operation over -/

/-- The state without an operation's record and parts. -/
def State.withoutIssue (s : State) (i : Issue) : State := { s with
  issues := s.issues.filter (fun x => x.id != i.id), flights := s.flights.filter (fun a => a.issue != i.id) }

theorem State.endIssue_eq (i : Issue) : s.endIssue i = (s.withoutIssue i).wakeFence i.tile i.uid := rfl

/-- An operation that is over: its record and its parts go, and its group may be woken. -/
theorem State.endIssue_facts (i : Issue) :
    (s.endIssue i).issues = s.issues.filter (fun x => x.id != i.id) ∧
    (s.endIssue i).flights = s.flights.filter (fun a => a.issue != i.id) ∧ (s.endIssue i).dram = s.dram ∧
    (s.endIssue i).ctxs = s.ctxs ∧ (s.endIssue i).slices = s.slices ∧
    (∀ k, k ≠ i.tile → (s.endIssue i).tile k = s.tile k) ∧ (∀ k, ((s.endIssue i).tile k).scratch = (s.tile k).scratch) ∧
    ∀ k n g, s.group k n = some g → ∃ hd, (s.endIssue i).group k n = some { g with hold := hd } := by
  have hw := State.wakeFence_wakesOnly (s.withoutIssue i) i.tile i.uid
  rw [State.endIssue_eq]
  refine ⟨by rw [hw]; rfl, by rw [hw]; rfl, by rw [hw]; rfl, by rw [hw]; rfl, by rw [hw]; rfl,
    fun k hk => State.tile_wakeFence_other _ _ _ hk, fun k => State.tile_wakeFence_field _ _ _ Tile.scratch k,
    fun k n g hg => ?_⟩
  by_cases hk : k = i.tile
  · subst hk
    refine ⟨if g.uid = i.uid then ((s.withoutIssue i).wake i.tile i.uid g).hold else g.hold, ?_⟩
    rw [State.group_wakeFence, show (s.withoutIssue i).group i.tile n = some g from hg, Option.map_some]
    split
    · rw [State.wake_frame]
    · rfl
  · refine ⟨g.hold, ?_⟩
    rw [State.group, State.tile_wakeFence_other _ _ _ hk]
    exact hg

end

end Sys2Proof.Machine
end

section
/-! Cluster scratch (R66, R69 to R72): requests and stores to another tile's scratch, their release, and the answer. -/

namespace Sys2Proof.Machine

theorem exec_clusterScratchLoad (tile slot rank : Nat) (m : LaneMem) (s : State) :
    exec (.clusterScratchLoad tile slot rank m) s = execClusterScratchLoad tile slot rank m s := rfl

theorem exec_clusterScratchStore (tile slot rank : Nat) (m : LaneMem) (s : State) :
    exec (.clusterScratchStore tile slot rank m) s = execClusterScratchStore tile slot rank m s := rfl

theorem exec_clusterScratchResponse (id : Nat) (s : State) :
    exec (.clusterScratchResponse id) s = execClusterScratchResponse id s := rfl

/-! ## A request to another tile (R72) -/

section
variable {s u : State} {tile slot : Nat} {keys : List Nat} {g : Group} {p : Path}

/-- What another tile's request leaves: the record of the operation, its item in the path's sluice, and registers that wait. -/
theorem State.sendCluster_facts (h : s.mayIssue tile slot keys g p u) (hmask : p.mask ≠ 0) (k base : Nat) (m : LaneMem)
    (what : Nat → Payload) : ∃ (t : State) (h : Group) (i : Issue), u.sendCluster tile slot k base g p m what = t ∧
      t.group tile slot = some h ∧
      h = { g with paths := g.paths.filter (fun q => q != p) ++ [{ p with pc := p.pc + 8 }], issued := g.issued + 1
                   ready := h.ready } ∧
      (∀ j, j < wordsOf m.size → tabGet h.ready 0 (keyV ((wDst m.word + j) % 128)) = never) ∧
      t.issues = s.issues ++ [i] ∧ i.rank = some k ∧ i.lanes = g.active p m.word ∧ i.dst = wDst m.word ∧
      i.size = m.size ∧ i.uid = g.uid ∧ i.tile = tile ∧ i.ready = u.wet.toNat + (3 + 2 * meshDelay tile k) ∧
      (∀ l, l < 32 → i.addrs.getD l 0 = base + laneAddr m l) ∧ i.data = none ∧
      t.sluices = (({ u.fresh with issues := s.issues ++ [i] } : State).sendUntimed (meshSluice tile k) (what i.id)).sluices ∧
      t.dram = s.dram ∧ ∀ j, (t.tile j).scratch = (s.tile j).scratch := by
  obtain ⟨-, hdram, -, -, -, -, -, -, hissues, -⟩ := State.mayIssue_frame h
  have hscratch := State.mayIssue_scratch h
  let i : Issue := { u.issueOf tile slot g p m (wDst m.word) with
    addrs := (List.range 32).map (fun l => base + laneAddr m l), rank := some k, ready := u.due (3 + 2 * meshDelay tile k) }
  let v : State := ({ u.fresh with issues := s.issues ++ [i] } : State).sendUntimed (meshSluice tile k) (what i.id)
  have hv : v = { ({ u.fresh with issues := s.issues ++ [i] } : State) with sluices := v.sluices } := State.sendUntimed_only _ _ _
  have hfin : u.sendCluster tile slot k base g p m what = v.putGroup tile slot { g.readyDst (wDst m.word) m.size never with
      paths := g.paths.filter (fun q => q != p) ++ [{ p with pc := p.pc + 8 }], issued := g.issued + 1 } := by
    have hstep : v.finish tile slot ((g.readyDst (wDst m.word) m.size never).step p 8) =
        v.putGroup tile slot { g.readyDst (wDst m.word) m.size never with
          paths := g.paths.filter (fun q => q != p) ++ [{ p with pc := p.pc + 8 }], issued := g.issued + 1 } := by
      rw [State.finish_step v tile slot hmask (State.mayIssue_path h).2.1, Group.readyDst_frame]
      rfl
    rw [← hstep]
    unfold State.sendCluster
    rw [hissues]
  have htile : ∀ j, (v.tile j).scratch = (s.tile j).scratch := fun j =>
    (congrArg Tile.scratch (State.tile_congr (s := u) (by rw [hv]; rfl) j)).trans (hscratch j)
  refine ⟨_, _, i, hfin, State.group_putGroup_same _ _ _ _, ?_, fun j hj => Group.ready_readyDst _ _ _ _ hj, ?_, rfl, rfl, rfl,
    rfl, rfl, rfl, rfl, fun l hl => ?_, rfl, ?_, ?_, fun j => (State.scratch_putGroup _ _ _ _ j).trans (htile j)⟩
  · rw [Group.readyDst_frame]
  · simp only [State.putGroup_fields]
    rw [hv]
  · simp [i, hl]
  · simp only [State.putGroup_fields]
    rfl
  · simp only [State.putGroup_fields]
    rw [hv]
    exact hdram

end

/-! ## The release of a cluster item (R34, R37, R72) -/

section
variable {s : State} {i : SluiceId} {x : Sluice} {it : Item} (hs : s.sluices = [(i, x)]) (hx : x.items = [it])
include hs

theorem State.sluice_alone : s.sluice i = x := by
  rw [State.sluice, hs]
  simp

/-- R34: a port that no other sluice feeds releases nothing before. -/
theorem State.releaseEarlier_alone : s.releaseEarlier i = s := by
  unfold State.releaseEarlier
  split
  · have hp : ∀ p ∈ List.range (inPort i), ((s.sluices.map (fun e => e.1)).filter
        (fun j => j.kind == .mesh && j.dst == i.dst && inPort j == p)) = [] := by
      intro p hp
      have hne : ¬ inPort i = p := fun h => absurd (List.mem_range.mp hp) (by omega)
      simp [hs, hne]
    generalize List.range (inPort i) = ps at hp
    induction ps with
    | nil => rfl
    | cons p r ih =>
      rw [List.foldl_cons, hp p List.mem_cons_self]
      exact ih (fun q hq => hp q (List.mem_cons_of_mem _ hq))
  · rfl

include hx

/-- An untimed item alone in the only sluice, visible and of age, is released in this tick. -/
theorem exec_sluiceRelease_alone (hvisible : it.visible = true) (htimed : it.timed = false) (hrun : s.running = true)
    (hage : it.delay ≤ s.itemAge i it) (hdry : s.dryNow = false) :
    exec (.sluiceRelease i) s = .next (s.releaseItem i it) := by
  have hnext : (s.sluice i).nextOut = some it := by
    rw [State.sluice_alone hs, Sluice.nextOut, hx, List.find?_cons_of_pos (by simp [hvisible])]
  have hnow : (if i.kind = .free then s else s.passWet (it.delay - s.itemAge i it)) = s := by
    split
    · rfl
    · rw [State.passWet, State.waitWet_now (by omega) hdry]
  rw [exec_sluiceRelease_due hnext (by simp [State.crossingRuns, hrun]) hnow.symm (.inl htimed), hvisible,
    State.releaseEarlier_alone hs]
  rfl

/-- The item taken out, nobody waits for its entry. -/
theorem State.sluice_takeItem_alone (hwait : x.waiting = []) :
    ((s.takeItem i it).sluice i).items = [] ∧ ((s.takeItem i it).sluice i).waiting = [] := by
  rw [State.sluice_takeItem, State.sluice_alone hs, hx, hwait]
  exact ⟨by simp, rfl⟩

end

section
variable {s : State} {i : SluiceId} {x : Sluice} {it : Item} (hs : s.sluices = [(i, x)]) (hx : x.items = [it])
  (hwait : x.waiting = [])
include hs hx hwait

/-- R72: a released store of another tile writes its bytes at the target. -/
theorem State.releaseItem_cells {tile uid k a : Nat} {d : List Byte} (hwhat : it.what = .cells tile uid k [(a, d)])
    (hidle : (s.tile k).array.idle = true) : ∃ t, s.releaseItem i it = t ∧
      (∀ j, tabGet (t.tile k).scratch 0 j = tabGet (tabWrite (s.tile k).scratch 0 a d) 0 j) ∧
      (∀ j, j ≠ k → (t.tile j).scratch = (s.tile j).scratch) ∧ t.dram = s.dram ∧ (t.sluice i).items = [] := by
  obtain ⟨hitems, hnone⟩ := State.sluice_takeItem_alone hs hx hwait
  let v : State := (s.takeItem i it).scratchWrite k a d
  have hw := State.wakeFence_wakesOnly v tile uid
  have hsl : (v.wakeFence tile uid).sluice i = (s.takeItem i it).sluice i := State.sluice_congr (by rw [hw]; rfl) i
  have hrel : s.releaseItem i it = v.wakeFence tile uid := by
    rw [State.releaseItem, hwhat]
    exact State.credit_nil _ i ((congrArg Sluice.waiting hsl).trans hnone)
  have hv := State.scratchWrite_tile (v := s.takeItem i it) (k := k) hidle a d
  refine ⟨_, hrel, fun j => ?_, fun j hj => ?_, by rw [hw]; rfl, by rw [hsl]; exact hitems⟩
  · rw [State.tile_wakeFence_field v tile uid Tile.scratch k, hv]
    rfl
  · rw [State.tile_wakeFence_field v tile uid Tile.scratch j, (State.scratchWrite_facts _ _ _ _).2.2 j hj]
    rfl

/-- R72: a released load of another tile samples its lanes' bytes. -/
theorem State.releaseItem_clusterLoad {id : Nat} {n : Issue} (hwhat : it.what = .clusterLoad id) (hn : s.issues = [n])
    (hid : n.id = id) (hidle : (s.tile (n.rank.getD 0)).array.idle = true) : ∃ (t : State) (ready : Nat), s.releaseItem i it = t ∧
      t.issues = [{ n with
        data := some ((lanesOf n.lanes).map (fun l => (l, s.scratchBytes (n.rank.getD 0) (n.addrs.getD l 0) n.size)))
        ready := ready }] ∧
      (∀ j, (t.tile j).scratch = (s.tile j).scratch) ∧ t.dram = s.dram := by
  obtain ⟨-, hnone⟩ := State.sluice_takeItem_alone hs hx hwait
  let words := n.targets.2.1.flatMap (fun l => (List.range ((l.2 % 4 + n.size + 3) / 4)).map (fun k => l.2 / 4 + k))
  let v : State := (s.takeItem i it).takePort (n.rank.getD 0) (portTicks words)
  obtain ⟨hvd, -, -, hvi, hvt⟩ := (s.takeItem i it).takePort_frame (n.rank.getD 0) (portTicks words)
  have hvsl : v.sluice i = (s.takeItem i it).sluice i := State.sluice_congr (by simp [v, State.takePort]) i
  have hbytes : ∀ a m, v.scratchBytes (n.rank.getD 0) a m = s.scratchBytes (n.rank.getD 0) a m := fun a m => by
    rw [State.scratchBytes_idle (by rw [(hvt _).2]; exact hidle), State.scratchBytes_idle hidle, (hvt _).1]
    rfl
  have hserve : (s.takeItem i it).clusterServe id clusterRead = { v with issues := [{ n with
      data := some ((lanesOf n.lanes).map (fun l => (l, s.scratchBytes (n.rank.getD 0) (n.addrs.getD l 0) n.size)))
      ready := max n.ready (v.wet.toNat + n.targets.2.2) }] } := by
    have hfind : (s.takeItem i it).issues.find? (fun i => i.id == id) = some n := by
      rw [show (s.takeItem i it).issues = [n] from hn, List.find?_cons_of_pos (by simp [hid])]
    have hdata : clusterRead v n = (v, (lanesOf n.lanes).map (fun l =>
        (l, s.scratchBytes (n.rank.getD 0) (n.addrs.getD l 0) n.size))) := by
      rw [clusterRead]
      refine congrArg (Prod.mk v) ?_
      rw [Issue.targets, List.map_map]
      exact List.map_congr_left (fun l _ => congrArg (Prod.mk l) (hbytes _ _))
    unfold State.clusterServe
    rw [hfind]
    change (let (s, data) := clusterRead v n
      { s with issues := modIf s.issues (fun x => x.id == id) (fun x =>
        { x with data := some data, ready := max x.ready (s.wet.toNat + n.targets.2.2) }) }) = _
    rw [hdata]
    dsimp only
    rw [hvi, show (s.takeItem i it).issues = [n] from hn, modIf, List.map_singleton, if_pos (by simp [hid])]
  have hrel : s.releaseItem i it = (s.takeItem i it).clusterServe id clusterRead := by
    rw [State.releaseItem, hwhat]
    refine State.credit_nil _ i ?_
    rw [State.deliver, hserve]
    exact (congrArg Sluice.waiting hvsl).trans hnone
  exact ⟨_, _, hrel.trans hserve, rfl, fun j => ((hvt j).1).trans rfl, hvd⟩

end

/-! ## The answer (R72) -/

/-- No item of a cluster request of that number is on its way. -/
theorem State.bringCluster_none {s : State} {id : Nat} (h : ∀ e ∈ s.sluices, ∀ it ∈ e.2.items, it.what ≠ .clusterLoad id ∧
    ∀ op ty l, it.what ≠ .clusterAtomic id op ty l) : s.bringCluster id = s := by
  unfold State.bringCluster
  dsimp only
  rw [List.find?_eq_none.mpr (fun e he => ?_)]
  rw [List.any_eq_true]
  rintro ⟨it, hit, hmine⟩
  obtain ⟨hload, hatomic⟩ := h e he it hit
  split at hmine
  · next k hk => exact hload (hk.trans (by rw [eq_of_beq hmine]))
  · next k op ty l hk => exact hatomic op ty l (hk.trans (by rw [eq_of_beq hmine]))
  · exact nomatch hmine

/-- A group that receives the results of lanes in registers that are ready at a tick. -/
def Group.receive (g : Group) (dst size at_ : Nat) (ds : List (Nat × List Byte)) : Group :=
  (g.setLanes dst size ds).readyDst dst size at_

theorem Group.receive_frame (g : Group) (dst size at_ : Nat) (ds : List (Nat × List Byte)) : g.receive dst size at_ ds =
    { g with v := (g.setLanes dst size ds).v, ready := (g.receive dst size at_ ds).ready } := by
  rw [Group.receive, Group.readyDst_frame, Group.setLanes_frame]

/-- The answer of an operation: its group receives the results, and the operation is over. -/
theorem State.answer_facts (v : State) (i : Issue) (ds : List (Nat × List Byte)) : ∃ t,
    (v.modGroup i.tile i.uid (fun g => g.receive i.dst i.size 0 ds)).endIssue i = t ∧
    t.issues = v.issues.filter (fun x => x.id != i.id) ∧ t.flights = v.flights.filter (fun a => a.issue != i.id) ∧
    t.dram = v.dram ∧ t.ctxs = v.ctxs ∧ (∀ k, k ≠ i.tile → t.tile k = v.tile k) ∧
    (∀ k, (t.tile k).scratch = (v.tile k).scratch) ∧
    ∀ slot g, v.group i.tile slot = some g → g.uid = i.uid → ∃ hd,
      t.group i.tile slot = some { g.receive i.dst i.size 0 ds with hold := hd } := by
  obtain ⟨hissues, hflights, hdram, hctxs, -, htile, hscratch, hgroup⟩ :=
    (v.modGroup i.tile i.uid (fun g => g.receive i.dst i.size 0 ds)).endIssue_facts i
  refine ⟨_, rfl, hissues.trans (by simp [State.modGroup]), hflights.trans (by simp [State.modGroup]),
    hdram.trans (by simp [State.modGroup]), hctxs.trans (by simp [State.modGroup]),
    fun k hk => (htile k hk).trans (State.tile_modGroup_other _ _ _ hk _ _),
    fun k => (hscratch k).trans (State.tile_modGroup_field _ _ _ _ Tile.scratch k), fun slot g hg hu => ?_⟩
  refine hgroup _ _ _ ?_
  rw [State.group_modGroup, hg, Option.map_some, if_pos hu]

/-- Settles O26: a store or load of the own tile is served at once; another tile's leaves as items and is answered later. -/
theorem clusterScratchReachesTheOtherRanks : Obligations.ClusterScratchReachesTheOtherRanks := by
  refine ⟨?_, ?_, ?_, ?_, ?_, ?_⟩
  · intro s u tile slot rank k g p m b y lanes hlegal hmask hb hrank hlanes hfault
    refine ⟨fun h => ⟨fun hk => ?_, fun hk => ?_⟩, fun h => ⟨fun v hk hv => ?_, fun hk => ?_⟩⟩
    · rw [exec_clusterScratchStore, execClusterScratchStore, State.scratchIssue_legal h hb hlegal, hrank]
      dsimp only
      rw [← hlanes, hfault]
      dsimp only
      rw [if_pos hk, State.finish_step _ tile slot hmask (State.mayIssue_path h).2.1]
      rfl
    · obtain ⟨-, hdram, -⟩ := State.mayIssue_frame h
      have honly := State.sluicesOnly_foldl (f := fun (s : State) ls => s.sendUntimed (meshSluice tile k)
          (.cells tile g.uid k (ls.map (fun l => (y.base + laneAddr m l, g.laneBytes (wB m.word) l m.size)))))
        (fun s _ => State.sendUntimed_only s _ _) (itemsOf (256 / m.size) 32 lanes) u
      refine ⟨_, ?_, rfl, ?_, fun j => ?_⟩
      · rw [exec_clusterScratchStore, execClusterScratchStore, State.scratchIssue_legal h hb hlegal, hrank]
        dsimp only
        rw [← hlanes, hfault]
        dsimp only
        rw [if_neg hk, State.finish_step _ tile slot hmask (State.mayIssue_path h).2.1]
        rfl
      · simp only [State.putGroup_fields]
        rw [honly]
        exact hdram
      · rw [State.scratch_putGroup]
        exact (congrArg Tile.scratch (State.tile_congr (s := u) (by rw [honly]) j)).trans (State.mayIssue_scratch h j)
    · rw [exec_clusterScratchLoad, execClusterScratchLoad, State.scratchIssue_legal h hb hlegal, hrank]
      dsimp only
      rw [← hlanes, hfault]
      dsimp only
      rw [if_pos hk, ← hv, State.finish_loaded v tile slot hmask (State.mayIssue_path h).2.1]
      rfl
    · obtain ⟨t, x, i, hsend, hgroup, hx, hnever, hissues, hirank, hilanes, hidst, hisize, hiuid, hitile, hiready, hiaddrs,
        hidata, hsl, hdram, hscratch⟩ := State.sendCluster_facts h hmask k y.base m .clusterLoad
      refine ⟨t, x, i, ?_, hgroup, hx, hnever, hissues, hirank, hilanes, hidst, hisize, hiuid, hitile, hiready, hiaddrs,
        hidata, hsl, hdram, hscratch⟩
      rw [exec_clusterScratchLoad, execClusterScratchLoad, State.scratchIssue_legal h hb hlegal, hrank]
      dsimp only
      rw [← hlanes, hfault]
      dsimp only
      rw [if_neg hk, hsend]
  · intro s u tile slot rank g p m b hlegal hb hrank
    refine ⟨fun h => ?_, fun h => ?_⟩
    · rw [exec_clusterScratchLoad, execClusterScratchLoad, State.scratchIssue_legal h hb hlegal, hrank]
    · rw [exec_clusterScratchStore, execClusterScratchStore, State.scratchIssue_legal h hb hlegal, hrank]
  · intro s u tile slot rank k g p m b y e hlegal hb hrank hfault
    refine ⟨fun h => ?_, fun h => ?_⟩
    · rw [exec_clusterScratchLoad, execClusterScratchLoad, State.scratchIssue_legal h hb hlegal, hrank]
      dsimp only
      rw [hfault]
    · rw [exec_clusterScratchStore, execClusterScratchStore, State.scratchIssue_legal h hb hlegal, hrank]
      dsimp only
      rw [hfault]
  · intro s i x it hs hx hwait hvisible htimed _ hrun hage hdry
    have hexec := exec_sluiceRelease_alone hs hx hvisible htimed hrun hage hdry
    refine ⟨fun tile uid k a d hwhat hidle => ?_, fun id n hwhat hn hid hidle => ?_⟩
    · obtain ⟨t, ht, hk, hother, hdram, hitems⟩ := State.releaseItem_cells hs hx hwait hwhat hidle
      refine ⟨t, by rw [hexec, ht], fun j hj => ?_, fun j hj => ?_, hother, hdram, hitems⟩
      · rw [hk, tabGet_tabWrite, if_pos (by omega), Nat.add_sub_cancel_left]
      · rw [hk, tabGet_tabWrite, if_neg (by omega)]
    · obtain ⟨t, ready, ht, hissues, hscratch, hdram⟩ := State.releaseItem_clusterLoad hs hx hwait hwhat hn hid hidle
      exact ⟨t, by rw [hexec, ht], by rw [hissues]; rfl, hscratch, hdram⟩
  · intro s id i ds hfind hdata hsize hds hnd hclear _
    have hfound := List.find?_some hfind
    have hid : i.id = id := eq_of_beq ((Bool.and_eq_true _ _).mp hfound).1
    obtain ⟨t, ht, hissues, -, hdram, -, htile, hscratch, hgroup⟩ := (s.waitWet i.ready).answer_facts i ds
    refine ⟨t, ?_, by simpa [hid] using hissues, hdram.trans (by simp), fun k hk => (htile k hk).trans (s.tile_waitWet _ k),
      fun k => (hscratch k).trans (by rw [s.tile_waitWet]), fun slot g hg hu => ?_⟩
    · rw [exec_clusterScratchResponse, execClusterScratchResponse, State.bringCluster_none hclear, hfind]
      dsimp only
      rw [hdata, ← ht]
      rfl
    · obtain ⟨hd, hh⟩ := hgroup slot g ((State.group_congr (by rw [s.tile_waitWet]) slot).trans hg) hu
      refine ⟨_, hh, fun l d j hld hj => ?_, fun r l hl hno => ?_, by rw [Group.receive_frame], by rw [Group.receive_frame],
        by rw [Group.receive_frame], fun j hj => Group.ready_readyDst _ _ _ _ hj⟩
      · rw [← laneReg_word i.dst d (g.vreg ((i.dst + j) % 128) l) hsize hj,
          ← Group.vreg_setLanes g i.dst i.size _ hds hnd hld, Group.receive_frame]
        rfl
      · rw [← Group.vreg_setLanes_other g i.dst i.size r hl hds hno, Group.receive_frame]
        rfl
  · intro s id hfind hclear
    rw [exec_clusterScratchResponse, execClusterScratchResponse, State.bringCluster_none hclear, hfind]

end Sys2Proof.Machine
end

section
/-! Loads, stores, flag stores and atomics on memory (R69, R74, R224 to R231, R259, R343): the checks, the operation's record, and
its parts. -/

namespace Sys2Proof.Machine

/-! ## Host pages translated (R343) -/

/-- `t` is `s` but for the translations cached and the free values drawn for them. -/
def State.translatesOnly (s t : State) : Prop := t = { s with ats := t.ats, freeCtr := t.freeCtr }

section
variable {s t u : State}

theorem State.translatesOnly.refl (s : State) : s.translatesOnly s := rfl

theorem State.translatesOnly.trans (h : s.translatesOnly t) (h' : t.translatesOnly u) : s.translatesOnly u := by
  rw [State.translatesOnly, h', h]

theorem State.hostPage_translates (s : State) (space page : Nat) : s.translatesOnly (s.hostPage space page).2 := by
  have hdrawn : s.translatesOnly s.drawn := rfl
  have hcached : ∀ (v : State) (l : List (Nat × Nat)), v.translatesOnly { v with ats := l } := fun _ _ => rfl
  unfold State.hostPage
  split
  · exact .refl s
  · generalize s.invalid.any _ = gone
    cases gone
    · exact hcached s _
    · dsimp only
      rw [if_pos rfl]
      split
      · exact hdrawn.trans (hcached _ _)
      · exact hdrawn

theorem State.hostRange_translates (s : State) (space iova n : Nat) : s.translatesOnly (s.hostRange space iova n).2 := by
  unfold State.hostRange
  generalize hostPages iova n = l
  suffices h : ∀ acc : Bool × State, acc.2.translatesOnly
      (l.foldl (fun acc p => if acc.1 then acc.2.hostPage space p else acc) acc).2 from h (true, s)
  induction l with
  | nil => exact fun acc => rfl
  | cons p r ih =>
    intro acc
    rw [List.foldl_cons]
    refine State.translatesOnly.trans ?_ (ih _)
    split
    · exact State.hostPage_translates _ _ _
    · rfl

theorem State.reachFault_translates (s : State) (c va n perm : Nat) (f : FabUse) :
    s.translatesOnly (s.reachFault c va n perm f).2 := by
  unfold State.reachFault
  split
  · rfl
  · rfl
  · split
    · rfl
    · exact State.hostRange_translates _ _ _ _
  · rfl

theorem State.firstFault_translates (s : State) (c perm : Nat) (f : FabUse) (spans : List (Nat × Nat)) :
    s.translatesOnly (s.firstFault c perm f spans).2 := by
  unfold State.firstFault
  suffices h : ∀ acc : Option (Code × Nat) × State, acc.2.translatesOnly (spans.foldl (fun acc v =>
      match acc with
      | (some e, s) => (some e, s)
      | (none, s) =>
        match s.reachFault c v.1 v.2 perm f with
        | (some e, s) => (some (e, v.1), s)
        | (none, s) => (none, s)) acc).2 from h (none, s)
  induction spans with
  | nil => exact fun acc => rfl
  | cons v r ih =>
    intro acc
    rw [List.foldl_cons]
    refine State.translatesOnly.trans ?_ (ih _)
    obtain ⟨_ | e, x⟩ := acc
    · have hr := x.reachFault_translates c v.1 v.2 perm f
      dsimp only
      split <;> next hx => rw [hx] at hr; exact hr
    · rfl

theorem State.translates_of_firstFault {c perm : Nat} {f : FabUse} {spans : List (Nat × Nat)} {e : Option (Code × Nat)}
    (h : s.firstFault c perm f spans = (e, t)) : s.translatesOnly t := by
  have hfirst := s.firstFault_translates c perm f spans
  rwa [h] at hfirst

end

/-! ## Parts sent (R225, R226, R74) -/

/-- `t` is `s` but for numbers taken, parts added, items sent and flag stores that wait. -/
def State.launchesOnly (s t : State) : Prop :=
  t = { s with nextId := t.nextId, flights := t.flights, sluices := t.sluices, walks := t.walks }

theorem State.launchesOnly.trans {s t u : State} (h : s.launchesOnly t) (h' : t.launchesOnly u) : s.launchesOnly u := by
  rw [State.launchesOnly, h', h]

theorem State.sluicesOnly.launches {s t : State} (h : s.sluicesOnly t) : s.launchesOnly t := by
  rw [State.launchesOnly, h]

/-- A part under a number. -/
def Access.withId (a : Access) (id : Nat) : Access := { a with id := id }

/-- A part goes at the end of the list, under the next number. -/
theorem State.launch_facts (s : State) (a : Access) :
    s.launchesOnly (s.launch a) ∧ (s.launch a).flights = s.flights ++ [a.withId s.nextId] := by
  have hsend : ∀ (v : State) (b : Access), v.sluicesOnly (v.sendAccess b) := fun v b => by
    unfold State.sendAccess
    split
    · exact State.sendUntimed_only _ _ _
    · rfl
  have hadd : s.launchesOnly { s.fresh with flights := s.flights ++ [{ a with id := s.nextId }] } := rfl
  unfold State.launch
  dsimp only
  split
  · refine ⟨hadd.trans (hsend _ _).launches, ?_⟩
    rw [hsend]
    rfl
  · exact ⟨hadd, rfl⟩

/-- One part after another: each stands behind the earlier ones, as `f` gives it under a number of its own. -/
theorem State.foldl_launches {β : Type} {step : State → β → State} {f : State → β → Access}
    (hstep : ∀ s n, s.launchesOnly (step s n) ∧ ∃ id, (step s n).flights = s.flights ++ [(f s n).withId id])
    (l : List β) (s : State) : s.launchesOnly (l.foldl step s) ∧
    ∃ new, (l.foldl step s).flights = s.flights ++ new ∧ List.Forall₂ (fun n a => ∃ v id, a = (f v n).withId id) l new := by
  induction l generalizing s with
  | nil => exact ⟨rfl, [], (List.append_nil _).symm, .nil⟩
  | cons n r ih =>
    obtain ⟨hfirst, id, hflights⟩ := hstep s n
    obtain ⟨hrest, new, hnew, hall⟩ := ih (step s n)
    refine ⟨hfirst.trans hrest, _, ?_, .cons ⟨s, id, rfl⟩ hall⟩
    rw [List.foldl_cons, hnew, hflights, List.append_assoc]
    rfl

/-- What every part has in common. -/
theorem forall₂_parts {β : Type} {f : State → β → Access} {l : List β} {new : List Access}
    (h : List.Forall₂ (fun n a => ∃ v id, a = (f v n).withId id) l new) {P : Access → Prop}
    (hP : ∀ v n id, P ((f v n).withId id)) : ∀ a ∈ new, P a := by
  induction h with
  | nil => exact fun _ ha => absurd ha List.not_mem_nil
  | cons hx _ ih =>
    obtain ⟨v, id, hx⟩ := hx
    refine List.forall_mem_cons.mpr ⟨?_, ih⟩
    rw [hx]
    exact hP v _ id

/-- A field of the parts, one for each. -/
theorem forall₂_parts_map {β γ : Type} {f : State → β → Access} {l : List β} {new : List Access}
    (h : List.Forall₂ (fun n a => ∃ v id, a = (f v n).withId id) l new) {q : Access → γ} {r : β → γ}
    (hq : ∀ v n id, q ((f v n).withId id) = r n) : new.map q = l.map r := by
  induction h with
  | nil => rfl
  | cons hx _ ih =>
    obtain ⟨v, id, hx⟩ := hx
    rw [List.map_cons, List.map_cons, ih, hx, hq]

/-! ## The parts of each instruction -/

/-- The part of an uncached load for line `n`. -/
def loadPart (tile : Nat) (g : Group) (i : Issue) (m : LaneMem) (lanes : List Nat) (s : State) (n : Nat) : Access :=
  { id := 0, issue := i.id, who := .group tile g.uid, ctx := g.ctx, op := .load
    place := s.placeOf g.ctx (n * 128 + (lineSpan m lanes n).1) 0 .threadLoad, va := n * 128 + (lineSpan m lanes n).1
    len := (lineSpan m lanes n).2.1, hint := partHint (wHint m.word) (lineSpan m lanes n).2.2, cached := false, flag := false
    join := none, stage := .moving }

/-- The part of a store for line `n`. -/
def storePart (g : Group) (i : Issue) (m : LaneMem) (lanes : List Nat) (flag : Bool) (s : State) (n : Nat) : Access :=
  { id := 0, issue := i.id, who := .group i.tile g.uid, ctx := g.ctx
    op := .store (storeData g m lanes n (lineSpan m lanes n).1 (lineSpan m lanes n).2.1)
    place := s.placeOf g.ctx (n * 128 + (lineSpan m lanes n).1) 1 .threadStore, va := n * 128 + (lineSpan m lanes n).1
    len := (lineSpan m lanes n).2.1, hint := partHint (wHint m.word) (lineSpan m lanes n).2.2, cached := false, flag := flag
    join := none, stage := if flag then .waiting else .moving }

/-- The operation of an atomic on address `a`. -/
def atomicPart (tile : Nat) (g : Group) (i : Issue) (m : LaneMem) (op : AtomOp) (ty : AtomTy) (lanes : List Nat) (s : State)
    (a : Nat) : Access :=
  { id := 0, issue := i.id, who := .group tile g.uid, ctx := g.ctx
    op := .atomic op ty ((lanesAt m lanes a).map (fun l => (a % 128, (g.atomArgs m.word ty l).1, (g.atomArgs m.word ty l).2)))
    place := s.placeOf g.ctx a 2 .threadAtomic, va := a, len := m.size, hint := wHint m.word
    cached := false, flag := false, join := none, stage := .moving }

/-- A flag store waits for the requests that have left the device (R259). -/
def State.holdFlag (s : State) (id : Nat) : State :=
  { s with walks := s.walks ++ [{ id := id, kind := .flush, ranges := some [], who := .device, untilTick := none
                                  acks := (s.fab.out.filter (fun r => r.left)).map (fun r => (r.dev, r.route, r.seq)), ended := true }] }

/-- The part of a store for one line. -/
def storeStep (g : Group) (i : Issue) (m : LaneMem) (lanes : List Nat) (flag : Bool) (s : State) (n : Nat) : State :=
  if flag then (s.launch (storePart g i m lanes flag s n)).holdFlag s.nextId else s.launch (storePart g i m lanes flag s n)

theorem State.sendStores_eq (s : State) (g : Group) (i : Issue) (m : LaneMem) (lanes : List Nat) (flag : Bool) :
    s.sendStores g i m lanes flag = (linesTouched m lanes).foldl (storeStep g i m lanes flag) s := rfl

theorem State.sendStores_facts (s : State) (g : Group) (i : Issue) (m : LaneMem) (lanes : List Nat) (flag : Bool) :
    s.launchesOnly (s.sendStores g i m lanes flag) ∧ ∃ new, (s.sendStores g i m lanes flag).flights = s.flights ++ new ∧
      List.Forall₂ (fun n a => ∃ v id, a = (storePart g i m lanes flag v n).withId id) (linesTouched m lanes) new := by
  have hheld : ∀ (v : State) (id : Nat), v.launchesOnly (v.holdFlag id) := fun _ _ => rfl
  rw [State.sendStores_eq]
  refine State.foldl_launches (fun v n => ?_) _ _
  obtain ⟨honly, hflights⟩ := v.launch_facts (storePart g i m lanes flag v n)
  unfold storeStep
  split
  · exact ⟨honly.trans (hheld _ _), v.nextId, hflights⟩
  · exact ⟨honly, v.nextId, hflights⟩

/-! ## The checks before anything is sent (R69, R343, R252) -/

theorem exec_memoryLoad (tile slot : Nat) (cached : Bool) (m : LaneMem) (s : State) :
    exec (.memoryLoad tile slot cached m) s = execMemoryLoad tile slot cached m s := rfl

theorem exec_memoryStore (tile slot : Nat) (m : LaneMem) (s : State) :
    exec (.memoryStore tile slot m) s = execMemoryStore tile slot m s := rfl

theorem exec_flagStore (tile slot : Nat) (m : LaneMem) (s : State) :
    exec (.flagStore tile slot m) s = execFlagStore tile slot m s := rfl

theorem exec_atomic (tile slot : Nat) (space : AtomSpace) (op : AtomOp) (ty : AtomTy) (m : LaneMem) (s : State) :
    exec (.atomic tile slot space op ty m) s = execAtomic tile slot space op ty m s := rfl

/-- The lines that the lanes touch, as the checks see them. -/
def spansOf (m : LaneMem) (lanes : List Nat) : List (Nat × Nat) :=
  (linesTouched m lanes).map (fun n => (n * 128 + (lineSpan m lanes n).1, (lineSpan m lanes n).2.1))

/-- The address that a misaligned access's record names. -/
def misalignedAt (m : LaneMem) (lanes : List Nat) : Nat :=
  (lanes.find? (fun l => decide (laneAddr m l % m.size ≠ 0))).elim 0 (laneAddr m)

section
variable {s u u' : State} {tile slot perm dst : Nat} {keys : List Nat} {g : Group} {p : Path} {m : LaneMem} {use : FabUse}
  {legal : Bool} {ok : State → Group → Path → Bool} {f : State → Group → Path → Issue → List Nat → State}
  (h : s.mayIssue tile slot keys g p u) (hok : ok u g p = true)
include h hok

theorem State.memIssue_illegal (hlegal : legal = false) :
    s.memIssue tile slot keys m perm use legal dst ok f = u.illegal tile slot g p := by
  rw [State.memIssue, State.issueIf_due h, if_pos hok, hlegal]
  rfl

variable (hlegal : legal = true)
include hlegal

theorem State.memIssue_misaligned (hmis : misaligned m (lanesOf (g.active p m.word)) = true) :
    s.memIssue tile slot keys m perm use legal dst ok f =
      u.preciseAt tile slot g p .misalignedAccess 0 (misalignedAt m (lanesOf (g.active p m.word))) := by
  rw [State.memIssue, State.issueIf_due h, if_pos hok, hlegal]
  dsimp only
  rw [if_neg (by decide), if_pos hmis]
  rfl

variable (hal : misaligned m (lanesOf (g.active p m.word)) = false)
include hal

theorem State.memIssue_fault {e : Code × Nat}
    (hfault : u.firstFault g.ctx perm use (spansOf m (lanesOf (g.active p m.word))) = (some e, u')) :
    s.memIssue tile slot keys m perm use legal dst ok f = u'.preciseAt tile slot g p e.1 0 e.2 := by
  unfold spansOf at hfault
  rw [State.memIssue, State.issueIf_due h, if_pos hok, hlegal]
  dsimp only
  rw [if_neg (by decide), if_neg (by rw [hal]; decide), hfault]

theorem State.memIssue_reachable
    (hfault : u.firstFault g.ctx perm use (spansOf m (lanesOf (g.active p m.word))) = (none, u')) :
    s.memIssue tile slot keys m perm use legal dst ok f =
      f u'.fresh g p (u'.issueOf tile slot g p m dst) (lanesOf (g.active p m.word)) := by
  unfold spansOf at hfault
  rw [State.memIssue, State.issueIf_due h, if_pos hok, hlegal]
  dsimp only
  rw [if_neg (by decide), if_neg (by rw [hal]; decide), hfault]

end

/-! ## What a memory instruction leaves (R225, R226) -/

/-- The state in which the parts are sent: the checks are passed, and the operation has its number and its record. -/
def State.registered (u' : State) (i : Issue) : State := { u'.fresh with issues := u'.issues ++ [i] }

/-- `v` is that state; its tiles are the same at every place. -/
def State.registersAs (u' : State) (i : Issue) (v : State) : Prop :=
  v = { u'.registered i with tiles := v.tiles } ∧ ∀ j, v.tile j = u'.tile j

theorem State.registersAs.refl (u' : State) (i : Issue) : u'.registersAs i (u'.registered i) := ⟨rfl, fun _ => rfl⟩

section
variable {s u u' t : State} {tile slot : Nat} {keys : List Nat} {g : Group} {p : Path} {i : Issue}
  (h : s.mayIssue tile slot keys g p u) (htr : u.translatesOnly u')
include h htr

theorem State.issueOf_id (m : LaneMem) (dst : Nat) : (u'.issueOf tile slot g p m dst).id = s.nextId := by
  obtain ⟨-, -, -, -, -, -, -, -, -, -, -, -, hid, -⟩ := State.mayIssue_frame h
  rw [State.issueOf, htr]
  exact hid

/-- Parts sent from a registered operation: nothing but its record, numbers, items and waiting flag stores is new. -/
theorem State.registered_launched {v : State} (hv : u'.registersAs i v) (hl : v.launchesOnly t) (k : Group) :
    (t.putGroup tile slot k).issues = s.issues ++ [i] ∧ (t.putGroup tile slot k).dram = s.dram ∧
    (t.putGroup tile slot k).slices = s.slices ∧ (t.putGroup tile slot k).hostMem = s.hostMem ∧
    (∀ j, ((t.putGroup tile slot k).tile j).scratch = (s.tile j).scratch) ∧
    (t.putGroup tile slot k).group tile slot = some k := by
  obtain ⟨-, hdram, hslices, hhost, -, -, -, -, hissues, -⟩ := State.mayIssue_frame h
  obtain ⟨hv, htiles⟩ := hv
  simp only [State.putGroup_fields]
  refine ⟨?_, ?_, ?_, ?_, fun j => ?_, State.group_putGroup_same _ _ _ _⟩
  · rw [hl, hv]
    exact congrArg (· ++ [i]) ((congrArg State.issues htr).trans hissues)
  · rw [hl, hv, State.registered, htr]
    exact hdram
  · rw [hl, hv, State.registered, htr]
    exact hslices
  · rw [hl, hv, State.registered, htr]
    exact hhost
  · rw [State.scratch_putGroup]
    calc (t.tile j).scratch = (v.tile j).scratch := congrArg Tile.scratch (State.tile_congr (by rw [hl]) j)
      _ = (u'.tile j).scratch := congrArg Tile.scratch (htiles j)
      _ = (u.tile j).scratch := congrArg Tile.scratch (State.tile_congr (by rw [htr]) j)
      _ = (s.tile j).scratch := State.mayIssue_scratch h j

theorem State.registered_flights : (u'.registered i).flights = s.flights := by
  obtain ⟨-, -, -, -, -, -, -, hflights, -⟩ := State.mayIssue_frame h
  rw [State.registered, htr]
  exact hflights

end

/-- The list of parts before and after. -/
theorem parts_after {l new t : List Access} (h : t = l ++ new) : t.take l.length = l ∧ t.drop l.length = new ∧
    t.length = l.length + new.length := by
  subst h
  exact ⟨List.take_left, List.drop_left, List.length_append⟩

/-- What a path leaves of its group when its instruction is issued. -/
def Group.wentOn (g : Group) (p : Path) : Group :=
  { g with paths := g.paths.filter (fun q => q != p) ++ [{ p with pc := p.pc + 8 }], issued := g.issued + 1 }

section
variable {s u u' : State} {tile slot : Nat} {keys : List Nat} {g : Group} {p : Path} {m : LaneMem}

theorem State.finish_wentOn (h : s.mayIssue tile slot keys g p u) (hmask : p.mask ≠ 0) (x : State) :
    x.finish tile slot (g.step p 8) = x.putGroup tile slot (g.wentOn p) :=
  State.finish_step x tile slot hmask (State.mayIssue_path h).2.1 8

theorem State.finish_wentOn_waiting (h : s.mayIssue tile slot keys g p u) (hmask : p.mask ≠ 0) (x : State) (d n : Nat) :
    x.finish tile slot ((g.readyDst d n never).step p 8) = x.putGroup tile slot ((g.readyDst d n never).wentOn p) := by
  rw [State.finish_step x tile slot hmask (State.mayIssue_path h).2.1, Group.readyDst_frame]
  rfl

/-- An uncached load that passes its checks sends a part a line; it takes no register of the cache. -/
theorem exec_memoryLoad_parts (h : s.mayIssue tile slot (oneKey m.word) g p u) (hlegal : laneLegal 6 m = true) (hmask : p.mask ≠ 0)
    (hal : misaligned m (lanesOf (g.active p m.word)) = false)
    (hfault : u.firstFault g.ctx 0 .threadLoad (spansOf m (lanesOf (g.active p m.word))) = (none, u')) :
    ∃ t v : State, exec (.memoryLoad tile slot false m) s =
        .next (t.putGroup tile slot ((g.readyDst (wDst m.word) m.size never).wentOn p)) ∧
      u'.registersAs (u'.issueOf tile slot g p m (wDst m.word)) v ∧ v.launchesOnly t ∧ ∃ new, t.flights = v.flights ++ new ∧
      List.Forall₂ (fun n a => ∃ x id, a = (loadPart tile g (u'.issueOf tile slot g p m (wDst m.word)) m
        (lanesOf (g.active p m.word)) x n).withId id) (linesTouched m (lanesOf (g.active p m.word))) new := by
  let i := u'.issueOf tile slot g p m (wDst m.word)
  let v : State := (u'.registered i).setTile tile ((u'.registered i).tile tile)
  have hparts := State.foldl_launches (f := loadPart tile g i m (lanesOf (g.active p m.word)))
    (step := fun s n => s.launch (loadPart tile g i m (lanesOf (g.active p m.word)) s n))
    (fun x n => ⟨(x.launch_facts _).1, x.nextId, (x.launch_facts _).2⟩) (linesTouched m (lanesOf (g.active p m.word))) v
  refine ⟨_, v, ?_, ⟨rfl, fun k => ?_⟩, hparts⟩
  · rw [exec_memoryLoad, ← State.finish_wentOn_waiting h hmask]
    unfold execMemoryLoad
    dsimp only
    rw [State.memIssue_reachable h (ok := _) (by rfl) hlegal hal hfault]
    rfl
  · refine (tabGet_tabSet _ _ _ _ _).trans ?_
    split
    · next hk => rw [hk]; rfl
    · rfl

/-- A store that passes its checks sends a part a line. -/
theorem exec_memoryStore_parts (h : s.mayIssue tile slot (storeKeys m.word m.size) g p u) (hlegal : laneLegal 6 m = true)
    (hmask : p.mask ≠ 0) (hlanes : lanesOf (g.active p m.word) ≠ []) (hal : misaligned m (lanesOf (g.active p m.word)) = false)
    (hfault : u.firstFault g.ctx 1 .threadStore (spansOf m (lanesOf (g.active p m.word))) = (none, u')) :
    exec (.memoryStore tile slot m) s = .next (((u'.registered (u'.issueOf tile slot g p m 0)).sendStores g
      (u'.issueOf tile slot g p m 0) m (lanesOf (g.active p m.word)) false).putGroup tile slot (g.wentOn p)) := by
  rw [exec_memoryStore, execMemoryStore, State.memIssue_reachable h (ok := fun _ _ _ => true) rfl hlegal hal hfault]
  dsimp only
  rw [if_neg hlanes, State.finish_wentOn h hmask]
  rfl

/-- A flag store's parts are held. -/
theorem exec_flagStore_parts (h : s.mayIssue tile slot (storeKeys m.word m.size) g p u) (hlegal : laneLegal 6 m = true)
    (hmask : p.mask ≠ 0) (hlanes : lanesOf (g.active p m.word) ≠ []) (hal : misaligned m (lanesOf (g.active p m.word)) = false)
    (hfault : u.firstFault g.ctx 1 .threadStore (spansOf m (lanesOf (g.active p m.word))) = (none, u')) :
    exec (.flagStore tile slot m) s = .next (((u'.registered (u'.issueOf tile slot g p m 0)).sendStores g
      (u'.issueOf tile slot g p m 0) m (lanesOf (g.active p m.word)) true).putGroup tile slot (g.wentOn p)) := by
  rw [exec_flagStore, execFlagStore, State.memIssue_reachable h (ok := fun _ _ _ => true) rfl hlegal hal hfault]
  dsimp only
  rw [if_neg hlanes, State.finish_wentOn h hmask]
  rfl

/-- An atomic that passes its checks sends one operation a distinct address (R74). -/
theorem exec_atomic_parts {op : AtomOp} {ty : AtomTy} (hsize : m.size = atomBytes ty)
    (h : s.mayIssue tile slot (atomKeys m.word m.size) g p u) (hlegal : laneLegal 7 m = true) (hop : atomLegal op ty = true)
    (hmask : p.mask ≠ 0) (hlanes : lanesOf (g.active p m.word) ≠ []) (hal : misaligned m (lanesOf (g.active p m.word)) = false)
    (hfault : u.firstFault g.ctx 2 .threadAtomic (spansOf m (lanesOf (g.active p m.word))) = (none, u')) :
    exec (.atomic tile slot .memory op ty m) s = .next (((atomAddrs m (lanesOf (g.active p m.word))).foldl
      (fun x a => x.launch (atomicPart tile g (u'.issueOf tile slot g p m (wDst m.word)) m op ty (lanesOf (g.active p m.word)) x a))
      (u'.registered (u'.issueOf tile slot g p m (wDst m.word)))).putGroup tile slot
        ((g.readyDst (wDst m.word) m.size never).wentOn p)) := by
  have hm : ({ m with size := atomBytes ty } : LaneMem) = m := by rw [← hsize]
  rw [exec_atomic, execAtomic]
  dsimp only
  rw [hm, ← hsize, State.memIssue_reachable h (ok := fun _ _ _ => true) rfl (by rw [hlegal, hop]; rfl) hal hfault]
  rw [if_neg hlanes, if_neg hlanes, State.finish_wentOn_waiting h hmask]
  rfl

/-- The loads, atomics and stores of one tile see only their own parts in the list of accesses. -/
theorem State.registered_after {t : State} {i : Issue} {new : List Access} (h : s.mayIssue tile slot keys g p u)
    (htr : u.translatesOnly u') {v : State} (hv : u'.registersAs i v) (hnew : t.flights = v.flights ++ new) (k : Group) :
    (t.putGroup tile slot k).flights.take s.flights.length = s.flights ∧
    (t.putGroup tile slot k).flights.drop s.flights.length = new ∧
    (t.putGroup tile slot k).flights.length = s.flights.length + new.length :=
  parts_after (hnew.trans (by rw [hv.1, State.registered_flights h htr]))

/-- The registers of a result that has not returned are not ready (R226). -/
theorem Group.ready_waiting (g : Group) (d n : Nat) (p : Path) (j : Nat) (hj : j < wordsOf n) :
    tabGet ((g.readyDst d n never).wentOn p).ready 0 (keyV ((d + j) % 128)) = never := Group.ready_readyDst g d n never hj

end

/-- Settles O27: the checks pass and change nothing but the translations cached, and each part is added behind the accesses that are
under way. -/
theorem memoryInstructionsSendTheirParts : Obligations.MemoryInstructionsSendTheirParts := by
  unfold Obligations.MemoryInstructionsSendTheirParts
  refine ⟨?_, ?_, ?_, ?_⟩
  · rintro s u u' tile slot g p m _ _ hlegal hmask rfl hlanes hal rfl
    refine ⟨fun h hfault => ?_, fun h hfault => ?_, fun e h hfault => ⟨?_, fun htakes => ?_⟩, fun e h hfault => ⟨?_, ?_⟩⟩
    · have htr : u.translatesOnly u' := State.translates_of_firstFault hfault
      obtain ⟨t, v, hexec, hv, hl, new, hnew, hall⟩ := exec_memoryLoad_parts h hlegal hmask hal hfault
      obtain ⟨hissues, hdram, hslices, hhost, hscratch, hgroup⟩ := State.registered_launched h htr hv hl
        ((g.readyDst (wDst m.word) m.size never).wentOn p)
      obtain ⟨htake, hdrop, hlength⟩ := State.registered_after h htr hv hnew
        ((g.readyDst (wDst m.word) m.size never).wentOn p)
      refine ⟨_, _, _, hexec, hgroup, ?_, Group.ready_waiting g _ _ p, hissues, State.issueOf_id h htr m _, rfl, rfl, rfl, rfl, rfl,
        hlength.trans (by rw [hall.length_eq]), ?_, htake, hdram, hslices, hhost, hscratch⟩
      · rw [Group.readyDst_frame]
        rfl
      · exact hdrop ▸ forall₂_parts hall (fun v n id => ⟨rfl, rfl, rfl⟩)
    · have htr : u.translatesOnly u' := State.translates_of_firstFault hfault
      refine ⟨?_, ?_⟩
      · obtain ⟨hl, new, hnew, hall⟩ := (u'.registered (u'.issueOf tile slot g p m 0)).sendStores_facts g
          (u'.issueOf tile slot g p m 0) m (lanesOf (g.active p m.word)) false
        obtain ⟨hissues, hdram, hslices, hhost, hscratch, hgroup⟩ := State.registered_launched h htr (.refl _ _) hl (g.wentOn p)
        obtain ⟨htake, hdrop, -⟩ := State.registered_after h htr (.refl _ _) hnew (g.wentOn p)
        refine ⟨_, _, exec_memoryStore_parts h hlegal hmask hlanes hal hfault, hgroup, hissues, State.issueOf_id h htr m 0, htake,
          ?_, ?_, hdram, hslices, hhost, hscratch⟩
        · exact hdrop ▸ forall₂_parts_map hall (fun v n id => rfl)
        · exact hdrop ▸ forall₂_parts hall (fun v n id => ⟨rfl, rfl, rfl⟩)
      · obtain ⟨hl, new, hnew, hall⟩ := (u'.registered (u'.issueOf tile slot g p m 0)).sendStores_facts g
          (u'.issueOf tile slot g p m 0) m (lanesOf (g.active p m.word)) true
        obtain ⟨hissues, hdram, hslices, -, -, hgroup⟩ := State.registered_launched h htr (.refl _ _) hl (g.wentOn p)
        obtain ⟨htake, hdrop, hlength⟩ := State.registered_after h htr (.refl _ _) hnew (g.wentOn p)
        refine ⟨_, _, exec_flagStore_parts h hlegal hmask hlanes hal hfault, hgroup, hissues, State.issueOf_id h htr m 0, htake,
          hlength.trans (by rw [hall.length_eq]), ?_, hdram, hslices⟩
        exact hdrop ▸ forall₂_parts hall (fun v n id => ⟨rfl, rfl, rfl⟩)
    · rw [exec_memoryLoad, execMemoryLoad]
      exact congrArg _ (State.memIssue_fault h rfl hlegal hal hfault)
    · rw [exec_memoryLoad, execMemoryLoad]
      exact congrArg _ (State.memIssue_fault h htakes hlegal hal hfault)
    · rw [exec_memoryStore, execMemoryStore]
      exact congrArg _ (State.memIssue_fault h rfl hlegal hal hfault)
    · rw [exec_flagStore, execFlagStore]
      exact congrArg _ (State.memIssue_fault h rfl hlegal hal hfault)
  · rintro s u u' tile slot g p m _ op ty hsize h hlegal hop hmask rfl hlanes hal hfault
    have htr : u.translatesOnly u' := State.translates_of_firstFault hfault
    obtain ⟨hl, new, hnew, hall⟩ := State.foldl_launches
      (f := atomicPart tile g (u'.issueOf tile slot g p m (wDst m.word)) m op ty (lanesOf (g.active p m.word)))
      (step := fun x a => x.launch (atomicPart tile g (u'.issueOf tile slot g p m (wDst m.word)) m op ty (lanesOf (g.active p m.word)) x a))
      (fun x a => ⟨(x.launch_facts _).1, x.nextId, (x.launch_facts _).2⟩) (atomAddrs m (lanesOf (g.active p m.word)))
      (u'.registered (u'.issueOf tile slot g p m (wDst m.word)))
    obtain ⟨hissues, hdram, hslices, -, -, hgroup⟩ := State.registered_launched h htr (.refl _ _) hl ((g.readyDst (wDst m.word) m.size never).wentOn p)
    obtain ⟨htake, hdrop, -⟩ := State.registered_after h htr (.refl _ _) hnew ((g.readyDst (wDst m.word) m.size never).wentOn p)
    refine ⟨_, _, _, exec_atomic_parts hsize h hlegal hop hmask hlanes hal hfault, hgroup, ?_, ?_, Group.ready_waiting g _ _ p, hissues,
      State.issueOf_id h htr m _, htake, ?_, ?_, hdram, hslices⟩
    · rw [Group.readyDst_frame]; rfl
    · rw [Group.readyDst_frame]; rfl
    · rw [hdrop, forall₂_parts_map hall (r := id) (fun v n id => rfl), List.map_id]
    · rw [hdrop, forall₂_parts_map hall (fun v n id => rfl)]
  · intro s u tile slot g p m hlegal hmis
    refine ⟨misalignedAt m (lanesOf (g.active p m.word)), fun h => ?_, fun h => ⟨?_, ?_⟩⟩
    · rw [exec_memoryLoad, execMemoryLoad]
      exact congrArg _ (State.memIssue_misaligned h rfl hlegal hmis)
    · rw [exec_memoryStore, execMemoryStore]
      exact congrArg _ (State.memIssue_misaligned h rfl hlegal hmis)
    · rw [exec_flagStore, execFlagStore]
      exact congrArg _ (State.memIssue_misaligned h rfl hlegal hmis)
  · intro s u tile slot g p m hlegal
    refine ⟨fun h => ?_, fun h => ⟨?_, ?_⟩⟩
    · rw [exec_memoryLoad, execMemoryLoad]
      exact congrArg _ (State.memIssue_illegal h rfl hlegal)
    · rw [exec_memoryStore, execMemoryStore]
      exact congrArg _ (State.memIssue_illegal h rfl hlegal)
    · rw [exec_flagStore, execFlagStore]
      exact congrArg _ (State.memIssue_illegal h rfl hlegal)

end Sys2Proof.Machine
end

section
/-! Atomics on scratch (R66, R71 to R74): what the lanes of each address do, read from the state before the instruction. -/

namespace Sys2Proof.Machine

/-! ## Bytes and numbers -/

theorem leNat_lt (d : List Byte) : leNat d < 256 ^ d.length := by
  induction d with
  | nil => exact Nat.one_pos
  | cons b r ih =>
    have hb := b.isLt
    rw [leNat, List.length_cons, Nat.pow_succ]
    omega

theorem leBytes_leNat (d : List Byte) : leBytes d.length (leNat d) = d := by
  induction d with
  | nil => rfl
  | cons b r ih =>
    have hb := b.isLt
    rw [List.length_cons, leBytes, leNat, show (b.toNat + 256 * leNat r) / 256 = leNat r by omega, ih]
    refine congrArg (· :: r) (BitVec.eq_of_toNat_eq ?_)
    rw [BitVec.toNat_ofNat]
    omega

/-- An operand of at most 64 bits keeps its bytes. -/
theorem leBytes_word {d : List Byte} {n : Nat} (hlen : d.length = n) (hn : n ≤ 8) :
    leBytes n (BitVec.ofNat 64 (leNat d)).toNat = d := by
  have hlt : leNat d < 2 ^ 64 := calc
    leNat d < 256 ^ d.length := leNat_lt d
    _ ≤ 256 ^ 8 := Nat.pow_le_pow_right (by decide) (hlen ▸ hn)
  rw [BitVec.toNat_ofNat, Nat.mod_eq_of_lt hlt, ← hlen, leBytes_leNat]

@[simp] theorem length_tabRange (t : Tab Byte) (d : Byte) (lo n : Nat) : (tabRange t d lo n).length = n := by
  rw [tabRange, List.length_map, List.length_range]

theorem tabRange_congr {t u : Tab Byte} {a n : Nat} (h : ∀ i, i < n → tabGet t 0 (a + i) = tabGet u 0 (a + i)) :
    tabRange t 0 a n = tabRange u 0 a n :=
  List.map_congr_left (fun i hi => h i (List.mem_range.mp hi))

/-- What was written is read. -/
theorem tabRange_eq {t : Tab Byte} {a n : Nat} {d : List Byte} (hlen : d.length = n)
    (h : ∀ i, i < n → tabGet t 0 (a + i) = d.getD i 0) : tabRange t 0 a n = d := by
  refine List.ext_getElem (by rw [length_tabRange, hlen]) (fun i h1 h2 => ?_)
  rw [← hlen] at h
  simp only [tabRange, List.getElem_map, List.getElem_range]
  rw [h i h2]
  exact List.getElem_eq_getD 0 |>.symm

theorem atomBytes_cases (ty : AtomTy) : atomBytes ty = 4 ∨ ty = .bits64 ∧ atomBytes ty = 8 := by cases ty <;> simp [atomBytes]

theorem laneSize_atomBytes (ty : AtomTy) : LaneSize (atomBytes ty) = true := by cases ty <;> rfl

/-! ## The addresses of an atomic and the lanes that name each (R74) -/

section
variable (m : LaneMem)

theorem atomAddrs_append (lanes : List Nat) (l : Nat) : atomAddrs m (lanes ++ [l]) =
    if (atomAddrs m lanes).elem (laneAddr m l) then atomAddrs m lanes else atomAddrs m lanes ++ [laneAddr m l] := by
  simp [atomAddrs]

theorem mem_atomAddrs {lanes : List Nat} {a : Nat} : a ∈ atomAddrs m lanes ↔ ∃ l ∈ lanes, laneAddr m l = a := by
  induction lanes using List.reverseRecOn with
  | nil => simp [atomAddrs]
  | append_singleton r l ih =>
    have hstep : a ∈ atomAddrs m (r ++ [l]) ↔ a ∈ atomAddrs m r ∨ laneAddr m l = a := by
      rw [atomAddrs_append]
      split
      · next h => exact ⟨Or.inl, fun hor => hor.elim id (fun e => e ▸ List.elem_iff.mp h)⟩
      · rw [List.mem_append, List.mem_singleton, eq_comm (a := a)]
    simp [hstep, ih, or_and_right, exists_or]

theorem nodup_atomAddrs (lanes : List Nat) : (atomAddrs m lanes).Nodup := by
  induction lanes using List.reverseRecOn with
  | nil => exact List.nodup_nil
  | append_singleton r l ih =>
    rw [atomAddrs_append]
    split
    · exact ih
    · next h => exact List.nodup_append.mpr ⟨ih, List.nodup_singleton _, fun a ha b hb hab =>
        h (List.elem_iff.mpr (List.mem_singleton.mp hb ▸ hab ▸ ha))⟩

theorem mem_lanesAt {lanes : List Nat} {a l : Nat} : l ∈ lanesAt m lanes a ↔ l ∈ lanes ∧ laneAddr m l = a := by
  simp [lanesAt]

/-- The lowest lane that names an address is the first of them. -/
theorem lanesAt_lowest {mask : Word32} {l : Nat} (hl : l < 32) (hm : mask.getLsbD l = true)
    (hlow : ∀ j, j < l → mask.getLsbD j = true → laneAddr m j ≠ laneAddr m l) :
    ∃ r, lanesAt m (lanesOf mask) (laneAddr m l) = l :: r := by
  have hmem := (mem_lanesAt m).mpr ⟨mem_lanesOf.mpr ⟨hl, hm⟩, rfl⟩
  have hsorted : (lanesAt m (lanesOf mask) (laneAddr m l)).Pairwise (· < ·) := (List.pairwise_lt_range.filter _).filter _
  cases hls : lanesAt m (lanesOf mask) (laneAddr m l) with
  | nil => exact absurd (hls ▸ hmem) List.not_mem_nil
  | cons k r =>
    rw [hls] at hmem hsorted
    obtain ⟨hk, hka⟩ := (mem_lanesAt m).mp (hls ▸ List.mem_cons_self : k ∈ lanesAt m (lanesOf mask) (laneAddr m l))
    rcases List.mem_cons.mp hmem with rfl | hin
    · exact ⟨r, rfl⟩
    · exact absurd hka (hlow k ((List.pairwise_cons.mp hsorted).1 l hin) (mem_lanesOf.mp hk).2)

end

/-! ## Lanes applied one after another (R74) -/

theorem applyLanes_append (op : AtomOp) (ty : AtomTy) (v : Word64) (l : List (Word64 × Word64)) (ab : Word64 × Word64) :
    applyLanes op ty v (l ++ [ab]) = ((applyLanes op ty v l).1 ++ [(applyLanes op ty v l).2],
      atomicNew op ty (applyLanes op ty v l).2 ab.1 ab.2) := by
  simp [applyLanes]

theorem length_applyLanes (op : AtomOp) (ty : AtomTy) (v : Word64) (l : List (Word64 × Word64)) :
    (applyLanes op ty v l).1.length = l.length := by
  induction l using List.reverseRecOn with
  | nil => rfl
  | append_singleton r ab ih => rw [applyLanes_append, List.length_append, List.length_append, ih]; rfl

/-- The first lane receives the old value. -/
theorem applyLanes_head (op : AtomOp) (ty : AtomTy) (v : Word64) (ab : Word64 × Word64) (l : List (Word64 × Word64)) :
    ∃ r, (applyLanes op ty v (ab :: l)).1 = v :: r := by
  induction l using List.reverseRecOn with
  | nil => exact ⟨[], rfl⟩
  | append_singleton r x ih =>
    obtain ⟨t, ht⟩ := ih
    rw [← List.cons_append, applyLanes_append, ht]
    exact ⟨_, rfl⟩

/-! ## All addresses -/

section
variable (v : State) (k base : Nat) (g : Group) (m : LaneMem) (op : AtomOp) (ty : AtomTy) (lanes : List Nat)

/-- What the lanes that name address `a` do to the value there: the values they receive, and the last. -/
def State.atomAt (a : Nat) : List Word64 × Word64 :=
  applyLanes op ty (BitVec.ofNat 64 (leNat (v.scratchBytes k (base + a) (atomBytes ty))))
    ((lanesAt m lanes a).map (fun l => g.atomArgs m.word ty l))

/-- The bytes left at `a`. -/
def State.atomWrite (a : Nat) : Nat × List Byte := (base + a, leBytes (atomBytes ty) (v.atomAt k base g m op ty lanes a).2.toNat)

/-- The bytes each lane that names `a` receives. -/
def State.atomResults (a : Nat) : List (Nat × List Byte) :=
  ((lanesAt m lanes a).zip (v.atomAt k base g m op ty lanes a).1).map (fun e => (e.1, leBytes (atomBytes ty) e.2.toNat))

/-- The lanes of one address. -/
def atomStep (acc : State × Group) (a : Nat) : State × Group :=
  (acc.1.scratchWrite k (acc.1.atomWrite k base g m op ty lanes a).1 (acc.1.atomWrite k base g m op ty lanes a).2,
    acc.2.setLanes (wDst m.word) (atomBytes ty) (acc.1.atomResults k base g m op ty lanes a))

theorem State.scratchAtomics_steps :
    v.scratchAtomics k base g m op ty lanes = (atomAddrs m lanes).foldl (atomStep k base g m op ty lanes) (v, g) := by
  unfold State.scratchAtomics
  congr 1
  funext acc a
  simp only [atomStep, State.atomWrite, State.atomResults, State.atomAt, Group.setLanes, List.foldl_map]

theorem Group.setLanes_append (h : Group) (d n : Nat) (x y : List (Nat × List Byte)) :
    (h.setLanes d n x).setLanes d n y = h.setLanes d n (x ++ y) := (List.foldl_append ..).symm

variable {v k base ty}

/-- A write elsewhere leaves what an address's lanes do. -/
theorem State.atomAt_scratchWrite (hidle : (v.tile k).array.idle = true) {a b : Nat} {d : List Byte} (hlen : d.length = atomBytes ty)
    (hapart : a + atomBytes ty ≤ b ∨ b + atomBytes ty ≤ a) :
    (v.scratchWrite k (base + b) d).atomAt k base g m op ty lanes a = v.atomAt k base g m op ty lanes a := by
  have hw := State.scratchWrite_tile hidle (base + b) d
  unfold State.atomAt
  rw [State.scratchBytes_idle hidle, State.scratchBytes_idle (by rw [hw]; exact hidle), hw]
  congr 3
  refine tabRange_congr (fun i hi => ?_)
  rw [tabGet_tabWrite, if_neg (by omega)]

/-- Addresses that do not overlap: each is served as if it were the only one. -/
theorem foldl_atomStep (hidle : (v.tile k).array.idle = true) {as : List Nat}
    (hapart : as.Pairwise (fun a b => a + atomBytes ty ≤ b ∨ b + atomBytes ty ≤ a)) (h : Group) :
    as.foldl (atomStep k base g m op ty lanes) (v, h) =
      ((as.map (v.atomWrite k base g m op ty lanes)).foldl (fun s w => s.scratchWrite k w.1 w.2) v,
        h.setLanes (wDst m.word) (atomBytes ty) (as.flatMap (v.atomResults k base g m op ty lanes))) := by
  induction as generalizing v h with
  | nil => rfl
  | cons a r ih =>
    obtain ⟨ha, hr⟩ := List.pairwise_cons.mp hapart
    let w := v.scratchWrite k (v.atomWrite k base g m op ty lanes a).1 (v.atomWrite k base g m op ty lanes a).2
    have hat : ∀ b ∈ r, w.atomAt k base g m op ty lanes b = v.atomAt k base g m op ty lanes b := fun b hb =>
      State.atomAt_scratchWrite g m op lanes hidle (length_leBytes _ _) ((ha b hb).symm)
    have hidle' : (w.tile k).array.idle = true := by rw [State.scratchWrite_tile hidle]; exact hidle
    have hwrites : r.map (w.atomWrite k base g m op ty lanes) = r.map (v.atomWrite k base g m op ty lanes) :=
      List.map_congr_left (fun b hb => by rw [State.atomWrite, hat b hb]; rfl)
    have hresults : r.flatMap (w.atomResults k base g m op ty lanes) = r.flatMap (v.atomResults k base g m op ty lanes) :=
      List.flatMap_congr (fun b hb => by rw [State.atomResults, hat b hb]; rfl)
    rw [List.foldl_cons, List.map_cons, List.foldl_cons, List.flatMap_cons, ← Group.setLanes_append]
    refine (ih hidle' hr _).trans ?_
    rw [hwrites, hresults]

/-- Aligned addresses that differ do not overlap. -/
theorem atomAddrs_apart (hsize : m.size = atomBytes ty) (hal : misaligned m lanes = false) :
    (atomAddrs m lanes).Pairwise (fun a b => a + atomBytes ty ≤ b ∨ b + atomBytes ty ≤ a) := by
  have hmul : ∀ a ∈ atomAddrs m lanes, atomBytes ty ∣ a := fun a ha => by
    obtain ⟨l, hl, rfl⟩ := (mem_atomAddrs m).mp ha
    refine Nat.dvd_of_mod_eq_zero (not_not.mp (fun hne => ?_))
    rw [(misaligned_iff m).mpr ⟨l, hl, by rwa [hsize]⟩] at hal
    exact nomatch hal
  refine (nodup_atomAddrs m lanes).imp_of_mem (fun {a b} ha hb hne => ?_)
  obtain ⟨x, rfl⟩ := hmul a ha
  obtain ⟨y, rfl⟩ := hmul b hb
  rcases Nat.lt_or_ge x y with hxy | hxy
  · exact .inl (Nat.mul_succ (atomBytes ty) x ▸ Nat.mul_le_mul_left _ hxy)
  · have hyx : y < x := Nat.lt_of_le_of_ne hxy (fun e => hne (by rw [e]))
    exact .inr (Nat.mul_succ (atomBytes ty) y ▸ Nat.mul_le_mul_left _ hyx)

theorem State.scratchAtomics_eq (hidle : (v.tile k).array.idle = true) (hsize : m.size = atomBytes ty)
    (hal : misaligned m lanes = false) : v.scratchAtomics k base g m op ty lanes =
      (((atomAddrs m lanes).map (v.atomWrite k base g m op ty lanes)).foldl (fun s w => s.scratchWrite k w.1 w.2) v,
        g.setLanes (wDst m.word) (atomBytes ty) ((atomAddrs m lanes).flatMap (v.atomResults k base g m op ty lanes))) := by
  rw [State.scratchAtomics_steps]
  exact foldl_atomStep g m op lanes hidle (atomAddrs_apart m lanes hsize hal) g

theorem covers_atomWrite {a x : Nat} : covers (v.atomWrite k base g m op ty lanes a) x ↔
    base + a ≤ x ∧ x < base + a + atomBytes ty := by
  simp only [covers, State.atomWrite, length_leBytes]

/-- The bytes at each address that a lane names. -/
theorem State.scratchAtomics_bytes (hidle : (v.tile k).array.idle = true) (hsize : m.size = atomBytes ty)
    (hal : misaligned m lanes = false) {a : Nat} (ha : a ∈ atomAddrs m lanes) :
    (v.scratchAtomics k base g m op ty lanes).1.scratchBytes k (base + a) (atomBytes ty) =
      leBytes (atomBytes ty) (v.atomAt k base g m op ty lanes a).2.toNat := by
  obtain ⟨pre, post, hsplit⟩ := List.append_of_mem ha
  have hapart := atomAddrs_apart (ty := ty) m lanes hsize hal
  rw [hsplit, List.pairwise_append, List.pairwise_cons] at hapart
  obtain ⟨-, ⟨hpost, -⟩, -⟩ := hapart
  rw [State.scratchAtomics_eq g m op lanes hidle hsize hal]
  have htile := State.foldl_scratchWrite_tile hidle (ws := (atomAddrs m lanes).map (v.atomWrite k base g m op ty lanes))
  rw [State.scratchBytes_idle (by rw [htile]; exact hidle), htile]
  refine tabRange_eq (length_leBytes _ _) (fun i hi => ?_)
  rw [hsplit, List.map_append, List.map_cons]
  refine (tabGet_writeAll ((covers_atomWrite g m op lanes).mpr ⟨by omega, by omega⟩) (fun w hw hcov => ?_) _).trans ?_
  · obtain ⟨b, hb, rfl⟩ := List.mem_map.mp hw
    have hcov' := (covers_atomWrite g m op lanes).mp hcov
    have := hpost b hb
    omega
  · simp [State.atomWrite]

/-- A byte that no lane names is left. -/
theorem State.scratchAtomics_other (hidle : (v.tile k).array.idle = true) (hsize : m.size = atomBytes ty)
    (hal : misaligned m lanes = false) {a : Nat}
    (hout : ∀ l ∈ lanes, a < base + laneAddr m l ∨ base + laneAddr m l + atomBytes ty ≤ a) :
    tabGet ((v.scratchAtomics k base g m op ty lanes).1.tile k).scratch 0 a = tabGet (v.tile k).scratch 0 a := by
  rw [State.scratchAtomics_eq g m op lanes hidle hsize hal, State.foldl_scratchWrite_tile hidle]
  refine tabGet_writeAll_other (fun w hw hcov => ?_) _
  obtain ⟨b, hb, rfl⟩ := List.mem_map.mp hw
  obtain ⟨l, hl, rfl⟩ := (mem_atomAddrs m).mp hb
  have hcov' := (covers_atomWrite g m op lanes).mp hcov
  have := hout l hl
  omega

theorem State.atomResults_lanes (a : Nat) :
    (v.atomResults k base g m op ty lanes a).map (fun e => e.1) = lanesAt m lanes a := by
  rw [State.atomResults, List.map_map]
  exact List.map_fst_zip (by rw [State.atomAt, length_applyLanes, List.length_map])

/-- Every lane of the instruction receives one result. -/
theorem atomResults_nodup (hnd : lanes.Nodup) :
    (((atomAddrs m lanes).flatMap (v.atomResults k base g m op ty lanes)).map (fun e => e.1)).Nodup := by
  rw [List.map_flatMap]
  simp only [State.atomResults_lanes]
  refine List.nodup_flatMap.mpr ⟨fun a _ => hnd.filter _, (nodup_atomAddrs m lanes).imp (fun {a b} hne l hla hlb => ?_)⟩
  exact hne (((mem_lanesAt m).mp hla).2.symm.trans ((mem_lanesAt m).mp hlb).2)

theorem mem_atomResults {e : Nat × List Byte}
    (he : e ∈ (atomAddrs m lanes).flatMap (v.atomResults k base g m op ty lanes)) : e.1 ∈ lanes := by
  obtain ⟨a, -, hea⟩ := List.mem_flatMap.mp he
  have hmem : e.1 ∈ (v.atomResults k base g m op ty lanes a).map (fun e => e.1) := List.mem_map.mpr ⟨e, hea, rfl⟩
  rw [State.atomResults_lanes] at hmem
  exact ((mem_lanesAt m).mp hmem).1

/-- The lowest lane that names an address receives the old bytes. -/
theorem lowest_atomResults {mask : Word32} {l : Nat} (hl : l < 32) (hm : mask.getLsbD l = true)
    (hlow : ∀ j, j < l → mask.getLsbD j = true → laneAddr m j ≠ laneAddr m l) :
    (l, v.scratchBytes k (base + laneAddr m l) (atomBytes ty)) ∈
      (atomAddrs m (lanesOf mask)).flatMap (v.atomResults k base g m op ty (lanesOf mask)) := by
  have hn : atomBytes ty ≤ 8 := by rcases atomBytes_cases ty with h | h <;> omega
  refine List.mem_flatMap.mpr ⟨laneAddr m l, (mem_atomAddrs m).mpr ⟨l, mem_lanesOf.mpr ⟨hl, hm⟩, rfl⟩, ?_⟩
  obtain ⟨r, hr⟩ := lanesAt_lowest m hl hm hlow
  obtain ⟨t, ht⟩ := applyLanes_head op ty (BitVec.ofNat 64 (leNat (v.scratchBytes k (base + laneAddr m l) (atomBytes ty))))
    (g.atomArgs m.word ty l) (r.map (fun l => g.atomArgs m.word ty l))
  rw [State.atomResults, State.atomAt, hr, List.map_cons, ht, List.zip_cons_cons, List.map_cons,
    leBytes_word (by rw [State.scratchBytes, length_tabRange]) hn]
  exact List.mem_cons_self

end

/-- Atomics on scratch change one tile's scratch and the registers that receive the old values. -/
theorem State.scratchAtomics_frame (v : State) (k base : Nat) (g : Group) (m : LaneMem) (op : AtomOp) (ty : AtomTy)
    (lanes : List Nat) :
    (v.scratchAtomics k base g m op ty lanes).1 = { v with tiles := (v.scratchAtomics k base g m op ty lanes).1.tiles } ∧
    (∀ j, j ≠ k → (v.scratchAtomics k base g m op ty lanes).1.tile j = v.tile j) ∧
    (v.scratchAtomics k base g m op ty lanes).2 = { g with v := (v.scratchAtomics k base g m op ty lanes).2.v } := by
  rw [State.scratchAtomics_steps]
  generalize atomAddrs m lanes = as
  suffices h : ∀ acc : State × Group,
      (as.foldl (atomStep k base g m op ty lanes) acc).1 =
        { acc.1 with tiles := (as.foldl (atomStep k base g m op ty lanes) acc).1.tiles } ∧
      (∀ j, j ≠ k → (as.foldl (atomStep k base g m op ty lanes) acc).1.tile j = acc.1.tile j) ∧
      (as.foldl (atomStep k base g m op ty lanes) acc).2 =
        { acc.2 with v := (as.foldl (atomStep k base g m op ty lanes) acc).2.v } from h (v, g)
  induction as with
  | nil => exact fun acc => ⟨rfl, fun _ _ => rfl, rfl⟩
  | cons a r ih =>
    intro acc
    obtain ⟨hstate, htile, hgroup⟩ := ih (atomStep k base g m op ty lanes acc a)
    have hw := State.scratchWrite_facts acc.1 k (acc.1.atomWrite k base g m op ty lanes a).1
      (acc.1.atomWrite k base g m op ty lanes a).2
    rw [List.foldl_cons]
    refine ⟨?_, fun j hj => (htile j hj).trans (hw.2.2 j hj), ?_⟩
    · rw [hstate]
      rfl
    · rw [hgroup, atomStep, Group.setLanes_frame]

/-! ## One operation at another tile's scratch (R72) -/

/-- An atomic of one lane receives the old bytes and leaves the new ones. -/
theorem clusterAtomics_one {s : State} {i : Issue} (op : AtomOp) (ty : AtomTy) (l a : Nat) (x y : Word64)
    (hidle : (s.tile (i.rank.getD 0)).array.idle = true) :
    (clusterAtomics op ty [(l, a, x, y)] s i).1.scratchBytes (i.rank.getD 0) a (atomBytes ty) = leBytes (atomBytes ty)
      (atomicNew op ty (BitVec.ofNat 64 (leNat (s.scratchBytes (i.rank.getD 0) a (atomBytes ty)))) x y).toNat := by
  let d := leBytes (atomBytes ty)
    (atomicNew op ty (BitVec.ofNat 64 (leNat (s.scratchBytes (i.rank.getD 0) a (atomBytes ty)))) x y).toNat
  have hw := State.scratchWrite_tile hidle a d
  change (s.scratchWrite (i.rank.getD 0) a d).scratchBytes (i.rank.getD 0) a (atomBytes ty) = d
  rw [State.scratchBytes_idle (by rw [hw]; exact hidle), hw]
  refine tabRange_eq (length_leBytes _ _) (fun j hj => ?_)
  rw [tabGet_tabWrite, if_pos (by rw [length_leBytes]; omega), Nat.add_sub_cancel_left]

/-! ## The operations (R73) -/

theorem setWidth_of_toNat {a : Word32} {x : Word64} (h : a.toNat = x.toNat) : x.setWidth 32 = a := by
  refine BitVec.eq_of_toNat_eq ?_
  rw [BitVec.toNat_setWidth, ← h]
  exact Nat.mod_eq_of_lt a.isLt

theorem toNat_setWidth64 (r : Word32) : (r.setWidth 64).toNat = r.toNat := by
  rw [BitVec.toNat_setWidth]
  exact Nat.mod_eq_of_lt (Nat.lt_of_lt_of_le r.isLt (by decide))

/-! ## ATOMIC on scratch (R71 to R74) -/

section
variable {s u : State} {tile slot : Nat} {g : Group} {p : Path} {m : LaneMem} {b : Block} {op : AtomOp} {ty : AtomTy}

/-- The atomic's own size is its type's. -/
theorem exec_atomic_scratch (hsize : m.size = atomBytes ty) :
    exec (.atomic tile slot .scratch op ty m) s = .next (s.scratchAtomic tile slot none op ty m) := by
  rw [exec_atomic, execAtomic, ← hsize]

theorem exec_atomic_cluster (hsize : m.size = atomBytes ty) (r : Nat) :
    exec (.atomic tile slot (.cluster r) op ty m) s = .next (s.scratchAtomic tile slot (some r) op ty m) := by
  rw [exec_atomic, execAtomic, ← hsize]

theorem State.scratchAtomic_illegal {rank : Option Nat} (h : s.mayIssue tile slot (atomKeys m.word m.size) g p u)
    (hb : u.blockOf tile g = some b) (hop : atomLegal op ty = false) :
    s.scratchAtomic tile slot rank op ty m = u.illegal tile slot g p := by
  cases hlegal : laneLegal 7 m with
  | false => exact State.scratchIssue_illegal h hb hlegal _
  | true =>
    rw [State.scratchAtomic, State.scratchIssue_legal h hb hlegal, hop]
    rfl

section
variable {k : Nat} {y : Block} {rank : Option Nat} (h : s.mayIssue tile slot (atomKeys m.word m.size) g p u)
  (hlegal : laneLegal 7 m = true) (hop : atomLegal op ty = true) (hb : u.blockOf tile g = some b)
  (hrank : rank.elim (some (tile, b)) (u.rankBlock b) = some (k, y))
  (hfault : scratchFault m (lanesOf (g.active p m.word)) y.size (if rank.isSome then .clusterRange else .scratchBounds) = none)
include h hlegal hop hb hrank hfault

theorem State.scratchAtomic_own (hmask : p.mask ≠ 0) (hk : k = tile) (n : Nat) (q : State × Group)
    (hn : n = portTicks (wordsAddressed y.base m (lanesOf (g.active p m.word))))
    (hq : q = (u.takePort tile n).scratchAtomics k y.base g m op ty (lanesOf (g.active p m.word))) :
    s.scratchAtomic tile slot rank op ty m = q.1.putGroup tile slot
      { q.2.readyDst (wDst m.word) (atomBytes ty) (q.1.wet.toNat + (2 + n)) with
        paths := g.paths.filter (fun q => q != p) ++ [{ p with pc := p.pc + 8 }], issued := g.issued + 1 } := by
  obtain ⟨-, -, hgroup⟩ := (u.takePort tile n).scratchAtomics_frame k y.base g m op ty (lanesOf (g.active p m.word))
  rw [← hq] at hgroup
  have hpaths : (q.2.readyDst (wDst m.word) (atomBytes ty) (q.1.due (2 + n))).paths = g.paths := by
    rw [Group.readyDst_frame, hgroup]
  have hissued : (q.2.readyDst (wDst m.word) (atomBytes ty) (q.1.due (2 + n))).issued = g.issued := by
    rw [Group.readyDst_frame, hgroup]
  have hfin := State.finish_step q.1 tile slot (g := q.2.readyDst (wDst m.word) (atomBytes ty) (q.1.due (2 + n))) hmask
    (State.mayIssue_path h).2.1 8
  rw [State.scratchAtomic, State.scratchIssue_legal h hb hlegal, hop, if_neg (by decide), hrank]
  dsimp only
  rw [hfault]
  dsimp only
  rw [if_pos hk, ← hn, ← hq, hfin, hpaths, hissued]
  rfl

theorem State.scratchAtomic_sent (hk : k ≠ tile) : s.scratchAtomic tile slot rank op ty m =
    u.sendCluster tile slot k y.base g p m (fun id => .clusterAtomic id op ty ((lanesOf (g.active p m.word)).map (fun l =>
      (l, y.base + laneAddr m l, (g.atomArgs m.word ty l).1, (g.atomArgs m.word ty l).2)))) := by
  rw [State.scratchAtomic, State.scratchIssue_legal h hb hlegal, hop, if_neg (by decide), hrank]
  dsimp only
  rw [hfault]
  dsimp only
  rw [if_neg hk]

end

end

/-- Settles O28: the lanes of each address are applied to what stood there before, because aligned addresses do not overlap. -/
theorem atomicsApplyLanesInOrder : Obligations.AtomicsApplyLanesInOrder := by
  unfold Obligations.AtomicsApplyLanesInOrder
  refine ⟨?_, ?_, ?_, ?_, ?_, ?_, ?_⟩
  · rintro s u tile slot k g p m b y op ty sp _ hsize h hlegal hmask hop hb rfl hsp
    obtain ⟨rank, hexec, hrank, hfault⟩ : ∃ rank : Option Nat,
        exec (.atomic tile slot sp op ty m) s = .next (s.scratchAtomic tile slot rank op ty m) ∧
        rank.elim (some (tile, b)) (u.rankBlock b) = some (k, y) ∧
        scratchFault m (lanesOf (g.active p m.word)) y.size (if rank.isSome then .clusterRange else .scratchBounds) = none := by
      rcases hsp with ⟨rfl, rfl, rfl, hfault⟩ | ⟨r, rfl, hr, hfault⟩
      · exact ⟨none, exec_atomic_scratch hsize, rfl, hfault⟩
      · exact ⟨some r, exec_atomic_cluster hsize r, hr, hfault⟩
    obtain ⟨-, hdram, hslices, -⟩ := State.mayIssue_frame h
    refine ⟨fun n q hk hn hq => ?_, fun hk => ?_⟩
    · obtain ⟨hstate, htile, -⟩ := (u.takePort tile n).scratchAtomics_frame k y.base g m op ty (lanesOf (g.active p m.word))
      obtain ⟨hpd, hps, -, -, hpt⟩ := u.takePort_frame tile n
      rw [← hq] at hstate htile
      refine ⟨?_, ?_, ?_, fun j hj => ?_⟩
      · rw [hexec, State.scratchAtomic_own h hlegal hop hb hrank hfault hmask hk n q hn hq]
      · rw [hstate]
        exact hpd.trans hdram
      · rw [hstate]
        exact hps.trans hslices
      · rw [htile j hj, (hpt j).1, State.mayIssue_scratch h]
    · obtain ⟨t, x, i, hsend, hgroup, hx, hnever, hissues, hirank, -, -, -, -, -, -, -, -, hsl, htd, hscratch⟩ :=
        State.sendCluster_facts h hmask k y.base m (fun id => .clusterAtomic id op ty ((lanesOf (g.active p m.word)).map (fun l =>
          (l, y.base + laneAddr m l, (g.atomArgs m.word ty l).1, (g.atomArgs m.word ty l).2))))
      refine ⟨t, x, i, ?_, hgroup, by rw [hx], by rw [hx], hissues, hirank, hnever, hsl, htd, hscratch⟩
      rw [hexec, State.scratchAtomic_sent h hlegal hop hb hrank hfault hk, hsend]
  · rintro v k base g m op ty mask _ hidle hsize hal rfl
    have heq := State.scratchAtomics_eq (base := base) g m op (lanesOf mask) hidle hsize hal
    have hlanes : ∀ e ∈ (atomAddrs m (lanesOf mask)).flatMap (v.atomResults k base g m op ty (lanesOf mask)), e.1 ∈ lanesOf mask :=
      fun e he => mem_atomResults g m op (lanesOf mask) he
    refine ⟨fun l hl hm => ?_, fun l hl hm hlow => ?_, fun r l hl hm => ?_, ?_, ?_, fun a hout => ?_⟩
    · exact State.scratchAtomics_bytes g m op (lanesOf mask) hidle hsize hal
        ((mem_atomAddrs m).mpr ⟨l, mem_lanesOf.mpr ⟨hl, hm⟩, rfl⟩)
    · have hreg : ∀ r, (v.scratchAtomics k base g m op ty (lanesOf mask)).2.vreg r l =
          laneReg (wDst m.word) (atomBytes ty) (v.scratchBytes k (base + laneAddr m l) (atomBytes ty)) r (g.vreg r l) := fun r => by
        rw [heq]
        exact Group.vreg_setLanes _ _ _ _ (fun e he => lane_lt_of_mem (hlanes e he))
          (atomResults_nodup g m op (lanesOf mask) (nodup_lanesOf mask)) (lowest_atomResults g m op hl hm hlow)
      have hword : ∀ j, j < atomBytes ty / 4 → (v.scratchAtomics k base g m op ty (lanesOf mask)).2.vreg ((wDst m.word + j) % 128) l =
          BitVec.ofNat 32 (leNat (v.scratchBytes k (base + laneAddr m l + 4 * j) 4)) := fun j hj => by
        rw [hreg, laneReg_word _ _ _ (laneSize_atomBytes ty) hj, State.scratchBytes, sliceAt_tabRange _ _ (by omega)]
        rfl
      refine ⟨?_, fun hty => ?_⟩
      · have h0 := hword 0 (by rcases atomBytes_cases ty with hn | hn <;> omega)
        rwa [Nat.add_zero, Nat.mod_eq_of_lt (wDst_lt _)] at h0
      · exact hword 1 (by rw [hty]; decide)
    · rw [heq]
      refine Group.vreg_setLanes_other _ _ _ _ hl (fun e he => lane_lt_of_mem (hlanes e he)) (fun e he hel => ?_)
      rw [← hel, (mem_lanesOf.mp (hlanes e he)).2] at hm
      exact nomatch hm
    · rw [(v.scratchAtomics_frame k base g m op ty (lanesOf mask)).2.2]
    · rw [(v.scratchAtomics_frame k base g m op ty (lanesOf mask)).2.2]
    · exact State.scratchAtomics_other g m op (lanesOf mask) hidle hsize hal
        (fun l hl => hout l (mem_lanesOf.mp hl).1 (mem_lanesOf.mp hl).2)
  · exact fun s i op ty l a x y hidle => ⟨rfl, clusterAtomics_one op ty l a x y hidle⟩
  · intro s u tile slot g p m b op ty sp h hb hop
    cases sp with
    | scratch => exact congrArg _ (State.scratchAtomic_illegal (m := { m with size := atomBytes ty }) h hb hop)
    | cluster r => exact congrArg _ (State.scratchAtomic_illegal (m := { m with size := atomBytes ty }) h hb hop)
    | memory =>
      exact congrArg _ (State.memIssue_illegal (m := { m with size := atomBytes ty }) h rfl (by rw [hop, Bool.and_false]))
  · intro a b x y ha hb
    have hx := setWidth_of_toNat ha
    have hy := setWidth_of_toNat hb
    simp only [atomicNew, hx, hy, toNat_setWidth64]
    refine ⟨trivial, trivial, trivial, trivial, trivial, ?_⟩
    split
    · next hle => exact (Nat.max_eq_right hle).symm
    · next hle => exact (Nat.max_eq_left (by omega)).symm
  · exact fun x y z => rfl
  · intro ty
    cases ty <;> rfl

end Sys2Proof.Machine
end

section
/-! Returns and acknowledgements (R80, R93, R231, R259, R326): what ends an operation and what a lane receives. -/

namespace Sys2Proof.Machine

/-! ## A fill of the read-only cache (R77, R80) -/

theorem overlayBytes_skip (l : List Byte) (n : Nat) (q : List (Option Byte)) :
    overlayBytes l (List.replicate n none ++ q) = l.take n ++ overlayBytes (l.drop n) q := by
  induction n generalizing l with
  | zero => rfl
  | succ n ih =>
    cases l with
    | nil => rfl
    | cons b r => exact congrArg (b :: ·) (ih r)

theorem overlayBytes_all (l d : List Byte) (h : d.length ≤ l.length) : overlayBytes l (d.map some) = d ++ l.drop d.length := by
  induction d generalizing l with
  | nil => cases l <;> rfl
  | cons v q ih =>
    cases l with
    | nil => exact absurd h (Nat.not_succ_le_zero _)
    | cons b r => exact congrArg (v :: ·) (ih r (Nat.le_of_succ_le_succ h))

theorem sliceAt_middle (x d y : List Byte) : sliceAt (x ++ d ++ y) x.length d.length = d := by
  rw [sliceAt, show d.length - ((x ++ d ++ y).length - x.length) = 0 by simp]
  simp

/-- The sector of a line not held before is what was filled. -/
theorem Tile.roData_roFill (x : Tile) (line sector : Nat) (d : List Byte) (hs : sector < 4) (hd : d.length = 32)
    (hnone : x.roLine line = none) : (x.roFill line sector d).roData line sector = some d := by
  let new : RoLine := ⟨line, (0 : BitVec 4) ||| BitVec.ofNat 4 (2 ^ sector),
    overlayBytes (List.replicate 128 0) (List.replicate (32 * sector) none ++ d.map some)⟩
  have hline : (x.roFill line sector d).roLine line = some new := by
    unfold Tile.roFill
    rw [hnone]
    unfold Tile.roClear Tile.roLine
    dsimp only
    rw [tabGet_tabSet, if_pos rfl]
    exact List.find?_cons_of_pos (beq_self_eq_true _)
  have hvalid : new.valid.getLsbD sector = true := by
    have hcases : sector = 0 ∨ sector = 1 ∨ sector = 2 ∨ sector = 3 := by omega
    rcases hcases with h | h | h | h <;> simp only [new, h] <;> decide
  have hdata : sliceAt new.data (32 * sector) 32 = d := by
    have hmid := sliceAt_middle ((List.replicate 128 (0 : Byte)).take (32 * sector)) d
      (((List.replicate 128 (0 : Byte)).drop (32 * sector)).drop d.length)
    have hlen : ((List.replicate 128 (0 : Byte)).take (32 * sector)).length = 32 * sector := by simp; omega
    rw [hlen, hd] at hmid
    simp only [new]
    rw [overlayBytes_skip, overlayBytes_all _ _ (by simp; omega), hd, ← List.append_assoc]
    exact hmid
  rw [Tile.roData, hline]
  dsimp only
  rw [if_pos hvalid, hdata]

/-! ## What a lane receives (R93) -/

/-- The result of a load of one part is the part's bytes. -/
theorem laneResult_load {a : Access} {i : Issue} {l k : Nat} {d : List Byte} {o : List Word64} (hop : a.op = .load)
    (hst : a.stage = .served d o) (hk : k < i.size) (hlo : a.va ≤ i.addrs.getD l 0 + k) (hhi : i.addrs.getD l 0 + k < a.va + a.len) :
    (laneResult [a] i l)[k]? = some (d.getD (i.addrs.getD l 0 + k - a.va) 0) := by
  have hpart : partByte [a] (i.addrs.getD l 0 + k) = d.getD (i.addrs.getD l 0 + k - a.va) 0 := by
    rw [partByte, List.find?_cons_of_pos (by rw [decide_eq_true hlo, decide_eq_true hhi]; rfl)]
    dsimp only
    rw [hst]
  unfold laneResult
  dsimp only
  split
  · next b hb =>
    have hfound := List.find?_some hb
    rw [List.mem_singleton.mp (List.mem_of_find?_eq_some hb), hop] at hfound
    simp at hfound
  · rw [List.getElem?_map, List.getElem?_range hk, Option.map_some, hpart]

theorem exec_memoryLoadReturn (id : Nat) (s : State) : exec (.memoryLoadReturn id) s = execMemoryLoadReturn id s := rfl

theorem exec_readOnlyCacheFill (tile line sector : Nat) (s : State) :
    exec (.readOnlyCacheFill tile line sector) s = execReadOnlyCacheFill tile line sector s := rfl

theorem exec_storeAcknowledgement (id : Nat) (s : State) :
    exec (.storeAcknowledgement id) s = execStoreAcknowledgement id s := rfl

theorem exec_flagStoreSend (id : Nat) (s : State) : exec (.flagStoreSend id) s = execFlagStoreSend id s := rfl

theorem exec_deferredFaultReturn (id : Nat) (s : State) :
    exec (.deferredFaultReturn id) s = execDeferredFaultReturn id s := rfl

/-- The bytes each lane of a returned operation receives. -/
def Issue.results (i : Issue) (parts : List Access) : List (Nat × List Byte) :=
  (lanesOf i.lanes).map (fun l => (l, laneResult parts i l))

/-- R93: every part is served: the group receives the results and the operation is over. -/
theorem exec_memoryLoadReturn_done {s : State} {id : Nat} {i : Issue}
    (hfind : s.issues.find? (fun x => x.id == id && x.rank.isNone) = some i)
    (hdone : ∀ a ∈ s.flights, a.issue = id → Access.done a = true) : exec (.memoryLoadReturn id) s =
      .next ((s.modGroup i.tile i.uid (fun g => g.receive i.dst i.size 0
        (i.results (s.flights.filter (fun a => a.issue == id))))).endIssue i) := by
  have hall : (s.flights.filter (fun a => a.issue == id)).all Access.done = true :=
    List.all_eq_true.mpr (fun a ha => hdone a (List.mem_filter.mp ha).1 (eq_of_beq (List.mem_filter.mp ha).2))
  rw [exec_memoryLoadReturn, execMemoryLoadReturn, hfind]
  dsimp only
  rw [if_pos hall]
  simp only [Group.receive, Group.setLanes, Issue.results, List.foldl_map]

theorem exec_memoryLoadReturn_waiting {s : State} {id : Nat} {a : Access} (ha : a ∈ s.flights) (hid : a.issue = id)
    (hnot : Access.done a = false) : exec (.memoryLoadReturn id) s = .next s := by
  have hall : ¬ (s.flights.filter (fun a => a.issue == id)).all Access.done = true := fun h => by
    rw [List.all_eq_true.mp h a (List.mem_filter.mpr ⟨ha, beq_iff_eq.mpr hid⟩)] at hnot
    exact nomatch hnot
  rw [exec_memoryLoadReturn, execMemoryLoadReturn]
  split
  · rfl
  · dsimp only
    rw [if_neg hall]

/-- A sector that is served goes to the cache and to the request that waited for it. -/
theorem exec_readOnlyCacheFill_one {s : State} {tile line sector : Nat} {a : Access} {d : List Byte} {o : List Word64}
    (hflights : s.flights = [a]) (hs : sector < 4) (hreq : sectorRequest tile (line * 128 + 32 * sector) a = true)
    (hst : a.stage = .served d o) (hd : d.length = 32) (hnone : (s.tile tile).roLine line = none)
    (hro : (s.tile tile).roRequest line sector = some a.id) :
    ∃ t, exec (.readOnlyCacheFill tile line sector) s = .next t ∧ (t.tile tile).roData line sector = some d ∧
      t.flights = [{ a with flag := true }] ∧ t.dram = s.dram ∧ t.issues = s.issues ∧ ∀ k, k ≠ tile → t.tile k = s.tile k := by
  let v := s.modTile tile (fun x => x.roFill line sector d)
  have hserved : ({ v with flights := [{ a with stage := a.stage, flag := true }] } : State) =
      { v with flights := [{ a with flag := true }] } := rfl
  refine ⟨{ v with flights := [{ a with flag := true }] }, ?_, ?_, rfl, by simp [v], by simp [v],
    fun k hk => s.tile_modTile_other tile k hk (fun x => x.roFill line sector d)⟩
  · rw [exec_readOnlyCacheFill, execReadOnlyCacheFill, hflights, List.find?_cons_of_pos (by rw [hreq, hst]; rfl)]
    dsimp only
    rw [if_pos hro]
    simp only [hst]
    simp [v, hflights, modIf]
  · change ((s.modTile tile (fun x => x.roFill line sector d)).tile tile).roData line sector = some d
    rw [State.tile_modTile, if_pos rfl, Tile.roData_roFill _ _ _ _ hs hd hnone]

theorem State.sendAccess_only (s : State) (a : Access) : s.sluicesOnly (s.sendAccess a) := by
  unfold State.sendAccess
  split
  · exact State.sendUntimed_only _ _ _
  · rfl

/-! ## Faults that return (R93, R356) -/

/-- A stopping fault changes nothing of a group but that it is marked stopped. -/
theorem State.group_takeFault {s : State} {c : Nat} (hst : (s.ctx c).st.stoppable = true) (f : FaultRec) {k n : Nat} {g : Group}
    (hg : s.group k n = some g) : ∃ b, (s.takeFault c none f).group k n = some { g with stopped := b } := by
  rw [State.group, State.tile_takeFault hst]
  by_cases hc : (s.tile k).ctx = some c
  · exact ⟨true, by rw [Tile.group_stopFor hc, show (s.tile k).group n = some g from hg]; rfl⟩
  · exact ⟨g.stopped, by rw [Tile.stopFor, if_neg hc]; exact hg⟩

/-- The record of a fault that a part of an operation returned. -/
def State.returned (s : State) (i : Issue) (a : Access) (c : Code) : FaultRec :=
  { faultOf c 0 with
    deferred := true, tile := i.tile, slot := i.slot, where' := i.pc, lanes := i.mask
    address := BitVec.ofNat 64 (match a.place with | .remote _ off _ _ => off | _ => a.va)
    device := match a.place with | .remote d _ _ _ => d | _ => 0
    queue := match s.kernels.find? (fun k => k.id == i.kern) with
      | some k => k.queue
      | none => 0xF }

theorem exec_deferredFaultReturn_part {s : State} {id : Nat} {i : Issue} {a : Access} {c : Code}
    (hfind : s.issues.find? (fun x => x.id == id) = some i)
    (hpart : (s.flights.filter (fun a => a.issue == id)).find? (fun a => a.fault.isSome) = some a) (hfault : a.fault = some c) :
    exec (.deferredFaultReturn id) s = .next ((s.takeFault i.ctx none (s.returned i a c)).endIssue i) := by
  rw [exec_deferredFaultReturn, execDeferredFaultReturn, hfind]
  dsimp only
  rw [hpart]
  dsimp only
  rw [hfault]
  unfold State.returned
  cases a.place <;> rfl

/-- Settles O29: a return writes its lanes' registers and ends the operation; a fault that returns stops its context. -/
theorem returnsEndWhatWasIssued : Obligations.ReturnsEndWhatWasIssued := by
  unfold Obligations.ReturnsEndWhatWasIssued
  refine ⟨?_, ?_, ?_, ?_, ?_, ?_, ?_, ?_, ?_⟩
  · intro s id i hfind hsize _ hdone
    have hfound := List.find?_some hfind
    have hid : i.id = id := eq_of_beq ((Bool.and_eq_true _ _).mp hfound).1
    obtain ⟨t, ht, hissues, hflights, hdram, hctxs, -, hscratch, hgroup⟩ :=
      s.answer_facts i (i.results (s.flights.filter (fun a => a.issue == id)))
    rw [hid] at hissues hflights
    refine ⟨t, by rw [exec_memoryLoadReturn_done hfind hdone, ht], hissues, hflights, hdram, hctxs, hscratch, fun slot g hg hu => ?_⟩
    obtain ⟨hd, hh⟩ := hgroup slot g hg hu
    refine ⟨_, hh, fun l j hl hm hj => ?_, fun r l hl hm => ?_, by rw [Group.receive_frame], by rw [Group.receive_frame],
      by rw [Group.receive_frame], fun j hj => Group.ready_readyDst _ _ _ _ hj⟩
    · have hreg := Group.vreg_setLanes_mask g i.dst i.size i.lanes
        (laneResult (s.flights.filter (fun a => a.issue == id)) i) ((i.dst + j) % 128) hl
      rw [if_pos hm, laneReg_word _ _ _ hsize hj] at hreg
      rw [Group.receive_frame]
      exact hreg
    · have hreg := Group.vreg_setLanes_mask g i.dst i.size i.lanes
        (laneResult (s.flights.filter (fun a => a.issue == id)) i) r hl
      rw [if_neg (by rw [hm]; decide)] at hreg
      rw [Group.receive_frame]
      exact hreg
  · exact fun s id a ha hid hnot => exec_memoryLoadReturn_waiting ha hid hnot
  · rintro _ i l k a d o rfl hop hst hk hlo hhi
    exact laneResult_load hop hst hk hlo hhi
  · intro s tile line sector a d o hflights hs hreq hst hd hnone hro
    exact exec_readOnlyCacheFill_one hflights hs hreq hst hd hnone hro
  · intro s id a i hacc hst hfind hlast _
    have hia : i.id = a.issue := eq_of_beq (List.find?_some hfind :)
    let v : State := { s with flights := s.flights.filter (fun b => b.id != id) }
    have hover : ¬ v.flights.any (fun b => b.issue == i.id) = true := fun h => by
      obtain ⟨b, hb, hbi⟩ := List.any_eq_true.mp h
      obtain ⟨hmem, hne⟩ := List.mem_filter.mp hb
      rw [hlast b hmem (eq_of_beq hbi)] at hne
      simp at hne
    obtain ⟨hissues, hflights, hdram, -⟩ := v.endIssue_facts i
    refine ⟨_, ?_, hissues, hdram, fun b hb => ?_⟩
    · rw [exec_storeAcknowledgement, execStoreAcknowledgement, hacc]
      dsimp only
      rw [if_pos hst, hfind]
      exact if_neg hover
    · rw [hflights] at hb
      obtain ⟨hmem, hne⟩ := List.mem_filter.mp (List.mem_filter.mp hb).1
      exact ⟨by simpa using hne, hmem⟩
  · intro s id a hacc hst
    rw [exec_storeAcknowledgement, execStoreAcknowledgement, hacc]
    exact if_neg hst
  · intro s id hacc
    rw [exec_storeAcknowledgement, execStoreAcknowledgement, hacc]
  · intro s id x a w hacc hw hflag hst hacks hplace
    let v : State := { s with walks := s.walks.filter (fun y => y.id != id) }
    have hsend := State.sendAccess_only (v.setStage id .moving) a
    refine ⟨(v.setStage id .moving).sendAccess a, ?_, by rw [hsend]; rfl, ?_, fun b hb hbid => ?_⟩
    · rw [exec_flagStoreSend, execFlagStoreSend, hacc, hw]
      dsimp only
      rw [if_pos ⟨hflag, hst, hacks⟩, hplace]
    · rw [hsend]
      exact (List.map_map ..).trans (List.map_congr_left (fun b _ => by dsimp only [Function.comp]; split <;> rfl))
    · rw [hsend] at hb
      obtain ⟨b', -, rfl⟩ := List.mem_map.mp hb
      dsimp only at hbid ⊢
      split
      · rfl
      · next hne => exact absurd (beq_iff_eq.mpr (by rwa [if_neg hne] at hbid)) hne
  · intro s id i a c hfind hpart hfault hst hnone _
    have hstop : (s.ctx i.ctx).st.stoppable = true := by rw [hst]; rfl
    obtain ⟨hissues, -, hdram, hctxs, -, -, -, hgroup⟩ := (s.takeFault i.ctx none (s.returned i a c)).endIssue_facts i
    have hctx := State.ctx_congr hctxs i.ctx
    refine ⟨_, _, exec_deferredFaultReturn_part hfind hpart hfault, by rw [hctx]; exact State.fault_takeFault hstop hnone none _,
      rfl, rfl, rfl, rfl, rfl, rfl, by rw [hctx]; exact State.takeFault_stopped hstop _, hdram.trans (by simp),
      hissues.trans (by simp), fun k n g hg => ?_⟩
    obtain ⟨b, hb⟩ := State.group_takeFault hstop (s.returned i a c) hg
    obtain ⟨hd, hh⟩ := hgroup k n _ hb
    exact ⟨_, hh, rfl, rfl, rfl, rfl⟩

end Sys2Proof.Machine
end

section
/-! The device-side allocator (R92, R351): where a block is put, and what its instructions leave. -/

namespace Sys2Proof.Machine

/-! ## A power of two that is large enough -/

theorem pow2Up_pow (x j f : Nat) : ∃ k, pow2Up x (2 ^ j) f = 2 ^ k ∧ j ≤ k := by
  induction f generalizing j with
  | zero => exact ⟨j, rfl, le_rfl⟩
  | succ f ih =>
    rw [pow2Up]
    split
    · exact ⟨j, rfl, le_rfl⟩
    · rw [← Nat.pow_succ']
      obtain ⟨k, hk, hjk⟩ := ih (j + 1)
      exact ⟨k, hk, by omega⟩

theorem le_pow2Up {x j f : Nat} (h : x ≤ 2 ^ (j + f)) : x ≤ pow2Up x (2 ^ j) f := by
  induction f generalizing j with
  | zero => exact h
  | succ f ih =>
    rw [pow2Up]
    split
    · next hx => exact hx
    · rw [← Nat.pow_succ']
      exact ih (by rwa [Nat.succ_add])

/-! ## A context's heap -/

/-- The heap's refusal is counted and changes nothing else. -/
def State.heapRefuses (s : State) (c : Nat) : State := s.modCtx c (fun x => { x with allocFailed := satAdd 32 x.allocFailed 1 })

/-- A block is given. -/
def State.heapGives (s : State) (c a n : Nat) : State := s.modCtx c (fun x => { x with heapBlocks := x.heapBlocks ++ [(a, n)] })

/-- A block at `a` of `n` bytes fits a request of `size` bytes: a power of two, aligned, that no other overlaps (R351). -/
def heapFits (x : Ctx) (size a n : Nat) : Prop := (∃ k, n = 2 ^ k) ∧ size ≤ n ∧ 64 ≤ n ∧ a % n = 0 ∧
  ∀ b ∈ x.heapBlocks, a + n ≤ b.1 ∨ b.1 + b.2 ≤ a

/-- The block at `a` is taken back. -/
def State.heapFrees (s : State) (c a : Nat) : State :=
  s.modCtx c (fun x => { x with heapBlocks := x.heapBlocks.filter (fun b => b.1 != a) })

theorem State.heapAlloc_refused (s : State) (tile c : Nat) {size : Nat} (h : size = 0 ∨ 2 ^ 30 < size) :
    s.heapAlloc tile c size = (0, s.heapRefuses c) := if_pos h

/-- R351: the allocator refuses, or gives a block that fits. -/
theorem State.heapAlloc_cases (s : State) (tile c size : Nat) : s.heapAlloc tile c size = (0, s.heapRefuses c) ∨
    ∃ a n, s.heapAlloc tile c size = (a, s.heapGives c a n) ∧ heapFits (s.ctx c) size a n := by
  by_cases hsize : size = 0 ∨ 2 ^ 30 < size
  · exact .inl (s.heapAlloc_refused tile c hsize)
  obtain ⟨k, hk, h6⟩ := pow2Up_pow size 6 32
  have hle : size ≤ pow2Up size (2 ^ 6) 32 := le_pow2Up (by omega)
  have h64 : 64 ≤ pow2Up size (2 ^ 6) 32 := hk ▸ Nat.pow_le_pow_right (n := 2) (by decide) h6
  unfold State.heapAlloc
  dsimp only
  rw [if_neg hsize]
  split
  · split
    · next off _ =>
      split
      · next hfit =>
        obtain ⟨hal, -, -, hclash⟩ := hfit
        refine .inr ⟨_, _, rfl, ⟨k, hk⟩, hle, h64, hal, fun b hb => ?_⟩
        simp only [Bool.not_eq_true', List.any_eq_false, Bool.and_eq_true, decide_eq_true_eq, not_and, Nat.not_lt] at hclash
        exact or_iff_not_imp_right.mpr (fun hlt => Nat.le_of_not_lt (fun h => hlt (hclash b hb h)))
      · exact .inl rfl
    · exact .inl rfl
  · exact .inl rfl

section
variable (s : State) (c a n : Nat)

theorem State.ctx_heapRefuses : (s.heapRefuses c).ctx c = { s.ctx c with allocFailed := satAdd 32 (s.ctx c).allocFailed 1 } := by
  rw [State.heapRefuses, State.ctx_modCtx, if_pos rfl]

theorem State.ctx_heapGives : (s.heapGives c a n).ctx c = { s.ctx c with heapBlocks := (s.ctx c).heapBlocks ++ [(a, n)] } := by
  rw [State.heapGives, State.ctx_modCtx, if_pos rfl]

theorem State.ctx_heapFrees :
    (s.heapFrees c a).ctx c = { s.ctx c with heapBlocks := (s.ctx c).heapBlocks.filter (fun b => b.1 != a) } := by
  rw [State.heapFrees, State.ctx_modCtx, if_pos rfl]

end

/-! ## ALLOC and FREE -/

theorem exec_heapAlloc (tile slot : Nat) (w : Word64) (s : State) : exec (.heapAlloc tile slot w) s = execHeapAlloc tile slot w s := rfl

theorem exec_heapFree (tile slot : Nat) (w : Word64) (s : State) : exec (.heapFree tile slot w) s = execHeapFree tile slot w s := rfl

/-- The path moves on and its group is not ready before a tick. -/
theorem State.finish_delayed (v : State) (tile slot : Nat) {g : Group} {p : Path} (hmask : p.mask ≠ 0) (hpark : p.park = .no)
    (at_ : Nat) : v.finish tile slot { g.step p 8 with readyAt := at_ } =
      v.putGroup tile slot { g.wentOn p with readyAt := at_ } := by
  rw [Group.step_eq hmask]
  exact State.finish_running v tile slot ⟨{ p with pc := p.pc + 8 }, List.mem_append_right _ List.mem_cons_self, hpark⟩

/-- What ALLOC leaves of its group: `x` in s(DST), and 40 ticks to wait. -/
def Group.allocated (g : Group) (p : Path) (w : Word64) (x at_ : Nat) : Group :=
  { ((g.setSreg (wDst w) (BitVec.ofNat 64 x)).readyOn (keyS (wDst w)) 0).wentOn p with readyAt := at_ }

theorem Group.sreg_allocated (g : Group) (p : Path) (w : Word64) (x at_ n : Nat) :
    (g.allocated p w x at_).sreg n = if n % 64 = wDst w % 64 then BitVec.ofNat 64 x else g.sreg n :=
  Group.sreg_setSreg g (wDst w) n _

section
variable {s u : State} {tile slot : Nat} {g : Group} {p : Path} {w : Word64}
  (h : s.mayIssue tile slot [keyS (wA w), keyP (wPred w)] g p u)
include h

theorem exec_heapAlloc_lanes (hlegal : heapLegal 0x30 w = true) (hlanes : g.active p w ≠ 0) : exec (.heapAlloc tile slot w) s =
    .next ((u.heapAlloc tile g.ctx (g.sreg (wA w)).toNat).2.putGroup tile slot
      (g.allocated p w (u.heapAlloc tile g.ctx (g.sreg (wA w)).toNat).1 (u.due 40))) := by
  rw [exec_heapAlloc, execHeapAlloc, State.issue_due h, hlegal, if_neg (by decide), if_neg hlanes]
  exact congrArg _ (State.finish_delayed _ tile slot (Group.mask_ne_zero hlanes) (State.mayIssue_path h).2.1 _)

theorem exec_heapFree_block (hlegal : heapLegal 0x31 w = true) (hlanes : g.active p w ≠ 0)
    (hblock : ∃ b ∈ (u.ctx g.ctx).heapBlocks, b.1 = (g.sreg (wA w)).toNat) : exec (.heapFree tile slot w) s =
    .next ((u.heapFrees g.ctx (g.sreg (wA w)).toNat).putGroup tile slot { g.wentOn p with readyAt := u.due 40 }) := by
  obtain ⟨b, hb, hba⟩ := hblock
  have hany : (u.ctx g.ctx).heapBlocks.any (fun b => b.1 == (g.sreg (wA w)).toNat) = true :=
    List.any_eq_true.mpr ⟨b, hb, beq_iff_eq.mpr hba⟩
  rw [exec_heapFree, execHeapFree, State.issue_due h, hlegal, if_neg (by decide), if_neg hlanes]
  dsimp only
  rw [if_pos hany]
  exact congrArg _ (State.finish_delayed _ tile slot (Group.mask_ne_zero hlanes) (State.mayIssue_path h).2.1 _)

theorem exec_heapFree_invalid (hlegal : heapLegal 0x31 w = true) (hlanes : g.active p w ≠ 0)
    (hnone : ∀ b ∈ (u.ctx g.ctx).heapBlocks, b.1 ≠ (g.sreg (wA w)).toNat) : exec (.heapFree tile slot w) s =
    .next (u.preciseAt tile slot g p .heapFreeInvalid 0 (g.sreg (wA w)).toNat) := by
  have hany : ¬ (u.ctx g.ctx).heapBlocks.any (fun b => b.1 == (g.sreg (wA w)).toNat) = true := fun hb => by
    obtain ⟨b, hb, hba⟩ := List.any_eq_true.mp hb
    exact hnone b hb (eq_of_beq hba)
  rw [exec_heapFree, execHeapFree, State.issue_due h, hlegal, if_neg (by decide), if_neg hlanes]
  dsimp only
  rw [if_neg hany]

end

/-- Settles O30: ALLOC writes 0 and counts, or gives a block that fits; FREE takes back the block it names. -/
theorem heapBlocksAreGivenAndTakenBack : Obligations.HeapBlocksAreGivenAndTakenBack := by
  refine ⟨?_, ?_, ?_, ?_, ?_⟩
  · intro s u tile slot g p w h hlegal hlanes hsize
    obtain ⟨-, hdram, -, -, hctxs, -⟩ := State.mayIssue_frame h
    have hctx := State.ctx_congr hctxs g.ctx
    have hexec := exec_heapAlloc_lanes h hlegal hlanes
    rw [u.heapAlloc_refused tile g.ctx hsize] at hexec
    refine ⟨_, _, hexec, State.group_putGroup_same _ _ _ _, (Group.sreg_allocated ..).trans (if_pos rfl), fun n hn => ?_, rfl, rfl, rfl, ?_, ?_, ?_⟩
    · exact (Group.sreg_allocated ..).trans (if_neg hn)
    · rw [State.ctx_congr (s := u.heapRefuses g.ctx) (by simp), State.ctx_heapRefuses, hctx]
    · rw [State.ctx_congr (s := u.heapRefuses g.ctx) (by simp), State.ctx_heapRefuses, hctx]
    · simp only [State.putGroup_fields]
      exact hdram
  · intro s u tile slot g p w h hlegal hlanes
    obtain ⟨-, hdram, -, -, hctxs, -⟩ := State.mayIssue_frame h
    have hctx := State.ctx_congr hctxs g.ctx
    have hexec := exec_heapAlloc_lanes h hlegal hlanes
    rcases u.heapAlloc_cases tile g.ctx (g.sreg (wA w)).toNat with hr | ⟨a, n, hr, ⟨k, hk⟩, hle, h64, hal, hapart⟩
    · rw [hr] at hexec
      refine ⟨_, _, hexec, State.group_putGroup_same _ _ _ _, rfl, ?_, .inl ⟨(Group.sreg_allocated ..).trans (if_pos rfl), ?_, ?_⟩⟩
      · simp only [State.putGroup_fields]
        exact hdram
      · rw [State.ctx_congr (s := u.heapRefuses g.ctx) (by simp), State.ctx_heapRefuses, hctx]
      · rw [State.ctx_congr (s := u.heapRefuses g.ctx) (by simp), State.ctx_heapRefuses, hctx]
    · rw [hr] at hexec
      refine ⟨_, _, hexec, State.group_putGroup_same _ _ _ _, rfl, ?_,
        .inr ⟨a, n, k, (Group.sreg_allocated ..).trans (if_pos rfl), hk, hle, h64, hal, ?_, ?_, hctx ▸ hapart⟩⟩
      · simp only [State.putGroup_fields]
        exact hdram
      · rw [State.ctx_congr (s := u.heapGives g.ctx a n) (by simp), State.ctx_heapGives, hctx]
      · rw [State.ctx_congr (s := u.heapGives g.ctx a n) (by simp), State.ctx_heapGives, hctx]
  · intro s u tile slot g p w h hlegal hlanes hblock
    obtain ⟨-, hdram, -, -, hctxs, -⟩ := State.mayIssue_frame h
    have hctx := State.ctx_congr hctxs g.ctx
    refine ⟨_, exec_heapFree_block h hlegal hlanes (hctx ▸ hblock), ?_, ?_, State.group_putGroup_same _ _ _ _⟩
    · rw [State.ctx_congr (s := u.heapFrees g.ctx _) (by simp; rfl), State.ctx_heapFrees, hctx]
    · simp only [State.putGroup_fields]
      exact hdram
  · intro s u tile slot g p w h hlegal hlanes hnone
    obtain ⟨-, -, -, -, hctxs, -⟩ := State.mayIssue_frame h
    exact exec_heapFree_invalid h hlegal hlanes (State.ctx_congr hctxs g.ctx ▸ hnone)
  · intro s u tile slot g p w h
    refine ⟨fun hlegal hlanes hmask => ?_, fun hlegal => ?_, fun hlegal => ?_⟩
    · rw [exec_heapAlloc, execHeapAlloc, State.issue_due h, hlegal, if_neg (by decide), if_pos hlanes,
        State.finish_step u tile slot hmask (State.mayIssue_path h).2.1]
      rfl
    · rw [exec_heapAlloc, execHeapAlloc, State.issue_due h, hlegal]
      rfl
    · rw [exec_heapFree, execHeapFree, State.issue_due h, hlegal]
      rfl

end Sys2Proof.Machine
end

section
/-! Blocks start on their tiles and descheduled groups return (R53 to R55, R59, R70, R99, R352). -/

namespace Sys2Proof.Machine

/-! ## The registers and lanes of a new group (R53, R352) -/

theorem tabGet_absent {α : Type} (d : α) {t : Tab α} {k : Nat} (h : k ∉ t.map (fun e => e.1)) : tabGet t d k = d := by
  induction t with
  | nil => rfl
  | cons e r ih =>
    rw [List.map_cons, List.mem_cons, not_or] at h
    rw [tabGet, if_neg (Ne.symm h.1), ih h.2]

/-- Entries that hold the default may be left out. -/
theorem tabGet_filter {α : Type} [DecidableEq α] (d : α) {t : Tab α} (hnd : (t.map (fun e => e.1)).Nodup) (k : Nat) :
    tabGet (t.filter (fun e => decide (e.2 ≠ d))) d k = tabGet t d k := by
  induction t with
  | nil => rfl
  | cons e r ih =>
    rw [List.map_cons, List.nodup_cons] at hnd
    rw [List.filter_cons]
    split
    · rw [tabGet, tabGet, ih hnd.2]
    · next hd =>
      rw [ih hnd.2, tabGet]
      split
      · next hk => exact (tabGet_absent d (hk ▸ hnd.1)).trans (not_not.mp (fun he => hd (decide_eq_true he))).symm
      · rfl

theorem newGroup_sreg (k : Kernel) (u i r tile j n : Nat) : (newGroup k u i r tile j).sreg n =
    tabGet [(0, k.args), (1, BitVec.ofNat 64 i), (2, BitVec.ofNat 64 r), (3, BitVec.ofNat 64 tile)] 0 (n % 64) :=
  tabGet_filter 0 (by simp) _

/-- R53: lane `l` of group `j` is a thread of the block. -/
theorem newGroup_mask (k : Kernel) (u i r tile j l : Nat) (hl : l < 32) {q : Path} (hq : q ∈ (newGroup k u i r tile j).paths) :
    q.pc = k.entry ∧ q.mask.getLsbD l = decide (32 * j + l < k.threads) := by
  rw [newGroup] at hq
  obtain rfl := List.mem_singleton.mp hq
  refine ⟨rfl, ?_⟩
  rw [BitVec.getLsbD_ofNat, Nat.testBit_two_pow_sub_one, decide_eq_true hl, Bool.true_and]
  exact decide_eq_decide.mpr (by omega)

/-! ## Free windows and slots (R55, R59) -/

/-- The lower of two addresses. -/
def least (m : Option Nat) (a : Nat) : Option Nat :=
  match m with
  | none => some a
  | some y => some (min y a)

theorem Tile.freeWindow_eq (x : Tile) (n : Nat) : x.freeWindow n =
    ((0 :: x.blocks.map (fun b => b.base + b.size)).filter (fun a => decide (a + n ≤ scratchSize) &&
      x.blocks.all (fun b => decide (a + n ≤ b.base) || decide (b.base + b.size ≤ a)))).foldl least none := rfl

theorem least_cases (m : Option Nat) (b : Nat) : least m b = some b ∨ least m b = m := by
  cases m with
  | none => exact .inl rfl
  | some y => exact (Nat.le_total y b).symm.imp (fun h => congrArg some (Nat.min_eq_right h)) (fun h => congrArg some (Nat.min_eq_left h))

theorem foldl_least_mem {l : List Nat} {acc : Option Nat} {a : Nat} (h : l.foldl least acc = some a) : a ∈ l ∨ acc = some a := by
  induction l generalizing acc with
  | nil => exact .inr h
  | cons b r ih =>
    rcases ih h with hr | hacc
    · exact .inl (List.mem_cons_of_mem _ hr)
    · rcases least_cases acc b with hb | hb
      · exact .inl (Option.some.inj (hb.symm.trans hacc) ▸ List.mem_cons_self)
      · exact .inr (hb ▸ hacc)

/-- R55: a free window lies in scratch and overlaps no block's. -/
theorem Tile.freeWindow_fits {x : Tile} {n a : Nat} (h : x.freeWindow n = some a) :
    a + n ≤ 1572864 ∧ ∀ b ∈ x.blocks, a + n ≤ b.base ∨ b.base + b.size ≤ a := by
  rw [Tile.freeWindow_eq] at h
  have hmem := (foldl_least_mem h).resolve_right nofun
  obtain ⟨hsize, hapart⟩ := (Bool.and_eq_true _ _).mp (List.mem_filter.mp hmem).2
  refine ⟨of_decide_eq_true hsize, fun b hb => ?_⟩
  simpa using List.all_eq_true.mp hapart b hb

theorem Tile.mem_freeSlots {x : Tile} {i : Nat} : i ∈ x.freeSlots ↔ i < 16 ∧ x.group i = none := by
  simp [Tile.freeSlots, groupSlots]

theorem Tile.nodup_freeSlots (x : Tile) : x.freeSlots.Nodup := List.nodup_range.filter _

/-- Values put in slots one after another. -/
def fillSlots {α : Type} (t : Tab (Option α)) [DecidableEq α] (slots : List Nat) (f : Nat → α) (n : Nat) : Tab (Option α) :=
  (List.range n).foldl (fun t g => tabSet t none (slots.getD g 0) (some (f g))) t

section
variable {α : Type} [DecidableEq α] (t : Tab (Option α)) {slots : List Nat} (f : Nat → α) {n : Nat}

theorem fillSlots_succ : fillSlots t slots f (n + 1) = tabSet (fillSlots t slots f n) none (slots.getD n 0) (some (f n)) := by
  rw [fillSlots, List.range_succ, List.foldl_append]
  rfl

theorem tabGet_fillSlots_other {i : Nat} (h : ∀ j, j < n → slots.getD j 0 ≠ i) :
    tabGet (fillSlots t slots f n) none i = tabGet t none i := by
  induction n with
  | zero => rfl
  | succ n ih =>
    rw [fillSlots_succ, tabGet_tabSet, if_neg (Ne.symm (h n (Nat.lt_succ_self n)))]
    exact ih (fun j hj => h j (Nat.lt_succ_of_lt hj))

theorem tabGet_fillSlots (hnd : slots.Nodup) (hn : n ≤ slots.length) {j : Nat} (hj : j < n) :
    tabGet (fillSlots t slots f n) none (slots.getD j 0) = some (f j) := by
  induction n with
  | zero => exact absurd hj (Nat.not_lt_zero j)
  | succ n ih =>
    rw [fillSlots_succ, tabGet_tabSet]
    by_cases hjn : j = n
    · rw [if_pos (by rw [hjn]), hjn]
    · have hlt : j < n := by omega
      have hne : slots.getD j 0 ≠ slots.getD n 0 := by
        rw [List.getD_eq_getElem _ _ (by omega), List.getD_eq_getElem _ _ (by omega)]
        exact fun he => hjn ((hnd.getElem_inj_iff).mp he)
      rw [if_neg hne, ih (by omega) hlt]

end

theorem State.tile_setTile (s : State) (n k : Nat) (x : Tile) : (s.setTile n x).tile k = if k = n then x else s.tile k :=
  tabGet_tabSet _ _ _ _ _

/-! ## A block placed on its tile -/

section
variable (s : State) (tile : Nat) (k : Kernel) (index rank origin : Nat)

theorem State.tile_placeBlock : (s.placeBlock tile k index rank origin).tile tile =
    { (s.tile tile).begin_ k.ctx with
      blocks := ((s.tile tile).begin_ k.ctx).blocks ++ [{ kern := k.id, index := index, rank := rank, origin := origin
                                                          base := (((s.tile tile).begin_ k.ctx).freeWindow k.scratch).getD 0
                                                          size := k.scratch, groups := groupsOf k.threads, counters := [] }]
      waiting := ((s.tile tile).begin_ k.ctx).waiting.drop 1
      groups := fillSlots ((s.tile tile).begin_ k.ctx).groups ((s.tile tile).begin_ k.ctx).freeSlots
        (fun g => newGroup k (s.nextId + g) index rank tile g) (groupsOf k.threads) } :=
  (tabGet_tabSet _ _ _ _ _).trans (if_pos rfl)

theorem State.tile_placeBlock_other {j : Nat} (hj : j ≠ tile) : (s.placeBlock tile k index rank origin).tile j = s.tile j :=
  (tabGet_tabSet _ _ _ _ _).trans (if_neg hj)

theorem State.placeBlock_frame : (s.placeBlock tile k index rank origin).dram = s.dram ∧
    (s.placeBlock tile k index rank origin).ctxs = s.ctxs ∧
    (s.placeBlock tile k index rank origin).nextId = s.nextId + groupsOf k.threads := ⟨rfl, rfl, rfl⟩

end

theorem exec_blockStart (tile : Nat) (s : State) : exec (.blockStart tile) s = execBlockStart tile s := rfl

theorem exec_groupRestore (tile : Nat) (s : State) : exec (.groupRestore tile) s = execGroupRestore tile s := rfl

/-- `v` is `s` at a later tick. -/
def State.laterAs (s v : State) : Prop :=
  (∀ j, v.tile j = s.tile j) ∧ v.nextId = s.nextId ∧ v.dram = s.dram ∧ v.ctxs = s.ctxs

theorem State.waitWet_laterAs (s : State) (w : Nat) : s.laterAs (s.waitWet w) :=
  ⟨fun j => s.tile_waitWet w j, by simp, by simp, by simp⟩

theorem State.laterAs.trans {s v u : State} (h : s.laterAs v) (h' : v.laterAs u) : s.laterAs u :=
  ⟨fun j => (h'.1 j).trans (h.1 j), h'.2.1.trans h.2.1, h'.2.2.1.trans h.2.2.1, h'.2.2.2.trans h.2.2.2⟩

/-- R54: the block of a cluster of one starts where it can. -/
theorem exec_blockStart_one {s : State} {tile index : Nat} {k : Kernel} {rest : List (Nat × Nat)} (hrun : s.mod.state = .run)
    (hwait : (s.tile tile).waiting = (k.id, index) :: rest) (hk : s.kernels.find? (fun x => x.id == k.id) = some k)
    (hcw : k.cw = 1) (hch : k.ch = 1) (hplace : k.place.getD index 0 = tile) (hcan : s.canStart tile k index = true) :
    ∃ v, exec (.blockStart tile) s = .next (v.placeBlock tile k index 0 tile) ∧ s.laterAs v := by
  have hr : s.running = true := by rw [State.running, hrun]; rfl
  have hsize : max 1 (k.cw * k.ch) = 1 := by rw [hcw, hch]; rfl
  rw [exec_blockStart, execBlockStart, hr, hwait]
  dsimp only
  rw [if_neg (by decide), hk]
  dsimp only
  rw [hsize]
  simp only [Nat.div_one, Nat.mul_one, List.range_one, List.map_singleton, Nat.add_zero, hplace, List.all_cons, List.all_nil, hcan,
    Bool.and_true, if_pos, List.foldl_cons, List.foldl_nil]
  refine ⟨_, rfl, ?_⟩
  split
  · exact (s.waitWet_laterAs _).trans (State.waitWet_laterAs _ _)
  · exact s.waitWet_laterAs _

theorem exec_blockStart_stopped {s : State} (tile : Nat) (h : s.running = false) : exec (.blockStart tile) s = .next s := by
  rw [exec_blockStart, execBlockStart, h]
  rfl

/-- R70: where a tile of the cluster cannot start its block nothing starts. -/
theorem exec_blockStart_waiting {s : State} {tile index r : Nat} {k : Kernel} {rest : List (Nat × Nat)}
    (hwait : (s.tile tile).waiting = (k.id, index) :: rest) (hk : s.kernels.find? (fun x => x.id == k.id) = some k)
    (hr : r < max 1 (k.cw * k.ch)) (hcannot : s.canStart (k.place.getD (index / max 1 (k.cw * k.ch) * max 1 (k.cw * k.ch) + r) 0) k
      (index / max 1 (k.cw * k.ch) * max 1 (k.cw * k.ch) + r) = false) : exec (.blockStart tile) s = .next s := by
  cases hrun : s.running with
  | false => exact exec_blockStart_stopped tile hrun
  | true =>
    rw [exec_blockStart, execBlockStart, hrun, hwait]
    dsimp only
    rw [if_neg (by decide), hk]
    dsimp only
    rw [if_neg]
    intro hall
    have := List.all_eq_true.mp hall _ (List.mem_map.mpr ⟨r, List.mem_range.mpr hr, rfl⟩)
    rw [hcannot] at this
    exact nomatch this

/-- R59: a returning group takes the first free slot. -/
theorem exec_groupRestore_slot {s : State} {tile slot : Nat} {g : Group} {r : List Nat} (hrun : s.mod.state = .run)
    (hret : s.returning tile = some g) (hfree : (s.tile tile).freeSlots = slot :: r) :
    exec (.groupRestore tile) s = .next ((s.waitWet (tabGet (s.tile tile).freeAt 0 slot)).setTile tile { s.tile tile with
      saved := (s.tile tile).saved.filter (fun y => y.uid != g.uid)
      groups := tabSet (s.tile tile).groups none slot (some { g with
        readyAt := max g.readyAt ((s.waitWet (tabGet (s.tile tile).freeAt 0 slot)).wet.toNat + 67) }) }) := by
  have hr : s.running = true := by rw [State.running, hrun]; rfl
  have hfrom : (s.tile tile).slotsFrom [slot] = tabGet (s.tile tile).freeAt 0 slot := Nat.zero_max _
  rw [exec_groupRestore, execGroupRestore, hr, if_neg (by decide)]
  dsimp only
  rw [hret, hfree]
  dsimp only
  rw [hfrom]
  rfl

/-- Settles O31: a block that can start takes the free window and slots of its tile, and nothing else of the tile changes. -/
theorem blocksStartOnTheirTiles : Obligations.BlocksStartOnTheirTiles := by
  refine ⟨?_, ?_, ?_, ?_, ?_, ?_, ?_⟩
  · intro s tile index base k rest hrun hwait hk hcw hch hplace hcan hctx hwin
    obtain ⟨v, hexec, htile, hnext, hdram, hctxs⟩ := exec_blockStart_one hrun hwait hk hcw hch hplace hcan
    have hroom : groupsOf k.threads ≤ (s.tile tile).freeSlots.length := by
      simp only [State.canStart, Bool.and_eq_true, decide_eq_true_eq] at hcan
      exact hcan.1.1.2
    have hbegin : (v.tile tile).begin_ k.ctx = s.tile tile := by rw [htile, Tile.begin_, if_pos hctx]
    have hx := v.tile_placeBlock tile k index 0 tile
    rw [hbegin, hnext, hwin] at hx
    obtain ⟨hd, hc, hn⟩ := v.placeBlock_frame tile k index 0 tile
    have hgroup : ∀ n, (v.placeBlock tile k index 0 tile).group tile n = tabGet (fillSlots (s.tile tile).groups
        (s.tile tile).freeSlots (fun g => newGroup k (s.nextId + g) index 0 tile g) (groupsOf k.threads)) none n := fun n => by
      rw [State.group, hx]
      rfl
    have hother : ∀ n, s.group tile n ≠ none → (v.placeBlock tile k index 0 tile).group tile n = s.group tile n := fun n hsome => by
      rw [hgroup]
      refine tabGet_fillSlots_other _ _ (fun j hj hslot => hsome ?_)
      rw [← hslot, List.getD_eq_getElem _ _ (by omega)]
      exact (Tile.mem_freeSlots.mp (List.getElem_mem _)).2
    refine ⟨_, hexec, by rw [hx]; rfl, by rw [hx, hwait]; rfl, fun n g hg => (hother n (by rw [hg]; exact nofun)).trans hg, fun j hj => ?_,
      fun n => ?_, hn.trans (by rw [hnext]), by rw [hx], by rw [hx], hd.trans hdram, hc.trans hctxs,
      fun j hj => (v.tile_placeBlock_other tile k index 0 tile hj).trans (htile j)⟩
    · have hmem : (s.tile tile).freeSlots.getD j 0 ∈ (s.tile tile).freeSlots := by
        rw [List.getD_eq_getElem _ _ (by omega)]
        exact List.getElem_mem _
      obtain ⟨hlt, hfree⟩ := Tile.mem_freeSlots.mp hmem
      exact ⟨_, hlt, hfree, (hgroup _).trans (tabGet_fillSlots _ _ (Tile.nodup_freeSlots _) hroom hj)⟩
    · exact or_iff_not_imp_right.mpr (hother n)
  · intro s tile index c k rest hrun hwait hk hcw hch hplace hcan hctx hne
    obtain ⟨v, hexec, htile, -⟩ := exec_blockStart_one hrun hwait hk hcw hch hplace hcan
    have hbegin : (v.tile tile).begin_ k.ctx =
        { s.tile tile with ctx := some k.ctx, array := { MArray.reset with diag := false }, ro := [], roMiss := [] } := by
      rw [htile, Tile.begin_, if_neg (by rw [hctx]; exact fun h => hne (Option.some.inj h))]
    have hx := v.tile_placeBlock tile k index 0 tile
    rw [hbegin] at hx
    exact ⟨_, hexec, by rw [hx], by rw [hx], by rw [hx], by rw [hx]⟩
  · exact fun s tile index r k rest hwait hk hr hcannot => exec_blockStart_waiting hwait hk hr hcannot
  · intro k u i r tile j n
    refine ⟨newGroup_sreg .., newGroup_sreg .., newGroup_sreg .., newGroup_sreg .., fun h4 h64 => ?_, fun l hl q hq => newGroup_mask k u i r tile j l hl hq⟩
    rw [newGroup_sreg]
    exact tabGet_absent _ (by simp; omega)
  · exact fun x n a h => Tile.freeWindow_fits h
  · rintro s _ tile slot g r hrun hret hfree rfl
    refine ⟨_, exec_groupRestore_slot hrun hret hfree, ?_, ?_, fun n hn => ?_, fun j hj => ?_, rfl⟩
    · rw [State.group, State.tile_setTile, if_pos rfl, Tile.group]
      dsimp only
      rw [tabGet_tabSet, if_pos rfl]
    · rw [State.tile_setTile, if_pos rfl]
    · rw [State.group, State.tile_setTile, if_pos rfl, Tile.group]
      dsimp only
      rw [tabGet_tabSet, if_neg hn]
      rfl
    · rw [State.tile_setTile, if_neg hj, State.tile_waitWet]
  · intro s tile hrun
    have hr : s.running = false := by rw [State.running]; exact beq_eq_false_iff_ne.mpr hrun
    refine ⟨exec_blockStart_stopped tile hr, ?_⟩
    rw [exec_groupRestore, execGroupRestore, hr]
    rfl

end Sys2Proof.Machine
end

section
/-! Ordering instructions and the ends of their cistern walks (R78, R216, R232, R233, R236). -/

namespace Sys2Proof.Machine

/-- The millisecond count is the host's: ticks do not change it. -/
theorem State.waitWet_ms (s : State) (w : Nat) : (s.waitWet w).hal.ms = s.hal.ms := by
  refine tickUntil_field (fun s => s.hal.ms) (fun v => ?_) _ _ s
  unfold State.tickOnce
  dsimp only
  split <;> rfl

theorem exec_fenceRel (tile slot : Nat) (w : Word64) (s : State) : exec (.fenceRel tile slot w) s = execFenceRel tile slot w s := rfl

theorem exec_acquire (tile slot : Nat) (w : Word64) (s : State) : exec (.acquire tile slot w) s = execAcquire tile slot w s := rfl

theorem exec_flush (tile slot : Nat) (w : Word64) (s : State) : exec (.flush tile slot w) s = execFlush tile slot w s := rfl

theorem exec_fenceOrd (tile slot : Nat) (w : Word64) (s : State) : exec (.fenceOrd tile slot w) s = execFenceOrd tile slot w s := rfl

theorem exec_cisternWalkEnd (walk : Nat) (s : State) : exec (.cisternWalkEnd walk) s = execCisternWalkEnd walk s := rfl

/-- The path moves on and its group waits. -/
theorem State.finish_held (v : State) (tile slot : Nat) {g : Group} {p : Path} (hmask : p.mask ≠ 0) (hpark : p.park = .no)
    (hold : Hold) (since : Nat) : v.finish tile slot { g.step p 8 with hold := hold, since := since } =
      v.putGroup tile slot { g.wentOn p with hold := hold, since := since } := by
  rw [Group.step_eq hmask]
  exact State.finish_running v tile slot ⟨{ p with pc := p.pc + 8 }, List.mem_append_right _ List.mem_cons_self, hpark⟩

section
variable {s u : State} {tile slot op immMax : Nat} {keys : List Nat} {g : Group} {p : Path} {w : Word64} {range : Bool}

section
variable (h : s.mayIssue tile slot keys g p u)
include h

theorem State.mayIssue_ms : u.hal.ms = s.hal.ms := by
  obtain ⟨-, -, -, rfl⟩ := h
  rw [State.issueFrom, State.modTile, State.setTile]
  exact s.waitWet_ms _

theorem State.mayIssue_fenced (uid : Nat) : u.fenced tile uid = s.fenced tile uid := by
  obtain ⟨-, -, -, -, -, -, -, -, hissues, -, -, hsluices, -⟩ := State.mayIssue_frame h
  unfold State.fenced State.cellsOut
  rw [hissues, hsluices]

end

/-! ## The instructions (R232, R233, R236) -/

theorem State.order_legal (h : s.mayIssue tile slot (if range then scalarKeys w else [keyP (wPred w)]) g p u)
    (hlegal : (orderLegal op w immMax && (!range || wImm w == 1 || scalarPair w)) = true) (f : State → Group → State) :
    s.order tile slot op w immMax range f = f u (g.step p 8) := by
  rw [State.order, State.issue_due h, if_pos hlegal]

theorem State.order_illegal (h : s.mayIssue tile slot (if range then scalarKeys w else [keyP (wPred w)]) g p u)
    (hlegal : orderLegal op w immMax = false) (f : State → Group → State) :
    s.order tile slot op w immMax range f = u.illegal tile slot g p := by
  rw [State.order, State.issue_due h, hlegal]
  rfl

/-- R232: the whole group's instruction is not predicated, and its IMM has only the bits defined. -/
theorem orderLegal_false (himm : immMax ≤ 1) (h : wPred w ≠ 7 ∨ wPneg w = true ∨ 1 < wImm w) : orderLegal op w immMax = false := by
  rcases h with h | h | h
  · simp [orderLegal, h]
  · simp [orderLegal, h]
  · simp [orderLegal, plainWord, show ¬ wImm w ≤ immMax by omega]

/-- The walk that a group's instruction begins. -/
def State.walkFor (s : State) (tile uid : Nat) (kind : WalkKind) (rs : Option (List (Nat × Nat × Nat))) : Walk :=
  { id := s.nextId, kind := kind, ranges := rs, who := .group tile uid
    untilTick := if decide (kind = .acquire) || s.fenced tile uid then some (s.wet.toNat + walkTicks rs) else none
    acks := [], ended := false }

/-- The state with a walk added under the next number. -/
def State.withWalk (s : State) (w : Walk) : State := { s.fresh with walks := s.walks ++ [w] }

theorem State.startWalk_eq (u : State) (tile slot : Nat) {g : Group} {p : Path} (hmask : p.mask ≠ 0) (hpark : p.park = .no)
    (kind : WalkKind) (rs : Option (List (Nat × Nat × Nat))) : u.startWalk tile slot (g.step p 8) kind rs =
      (u.withWalk (u.walkFor tile g.uid kind rs)).putGroup tile slot
        { g.wentOn p with hold := .walk u.nextId, since := u.hal.ms } := by
  have huid : (g.step p 8).uid = g.uid := by rw [Group.step_eq hmask]
  unfold State.startWalk
  rw [huid]
  exact State.finish_held _ tile slot hmask hpark _ _

/-- What a walk's beginning leaves: the walk is added, the group waits for it, and no line has moved. -/
theorem State.startWalk_facts (h : s.mayIssue tile slot keys g p u) (hmask : p.mask ≠ 0) (kind : WalkKind)
    (rs : Option (List (Nat × Nat × Nat))) : ∃ t, u.startWalk tile slot (g.step p 8) kind rs = t ∧
      t.walks = s.walks ++ [{ u.walkFor tile g.uid kind rs with id := s.nextId }] ∧ t.dram = s.dram ∧ t.cistern = s.cistern ∧
      t.group tile slot = some { g with
        paths := g.paths.filter (fun q => q != p) ++ [{ p with pc := p.pc + 8 }], issued := g.issued + 1
        hold := .walk s.nextId, since := s.hal.ms } := by
  obtain ⟨-, hdram, -, -, -, -, -, -, -, hwalks, hcis, -, hnext, -⟩ := State.mayIssue_frame h
  have hms := State.mayIssue_ms h
  refine ⟨_, State.startWalk_eq u tile slot hmask (State.mayIssue_path h).2.1 kind rs, ?_, ?_, ?_, ?_⟩
  · simp only [State.putGroup_fields]
    rw [State.withWalk, ← hwalks, ← hnext]
    rfl
  · simp only [State.putGroup_fields]
    exact hdram
  · simp only [State.putGroup_fields]
    exact hcis
  · rw [State.group_putGroup_same, hnext, hms]
    rfl

theorem exec_fenceRel_issued (h : s.mayIssue tile slot [keyP (wPred w)] g p u) (hlegal : orderLegal 0x40 w 0 = true) (hmask : p.mask ≠ 0) :
    exec (.fenceRel tile slot w) s = .next (u.putGroup tile slot { g.wentOn p with
      hold := if s.fenced tile g.uid then g.hold else .fence
      since := if s.fenced tile g.uid then g.since else s.hal.ms }) := by
  have hpark := (State.mayIssue_path h).2.1
  have huid : (g.step p 8).uid = g.uid := by rw [Group.step_eq hmask]
  rw [exec_fenceRel, execFenceRel, State.order_legal (range := false) h (by rw [hlegal]; rfl), huid, State.mayIssue_fenced h,
    State.mayIssue_ms h]
  cases s.fenced tile g.uid with
  | true => exact congrArg _ (State.finish_wentOn h hmask u)
  | false => exact congrArg _ (State.finish_held u tile slot hmask hpark _ _)

end

/-! ## The end of an acquire's walk (R78, R236) -/

section
variable {s : State} {rs : Option (List (Nat × Nat × Nat))} {l : Line}

theorem State.mem_cisLines : l ∈ s.cisLines ↔ ∃ e ∈ s.cistern, l ∈ e.2 := List.mem_flatMap

/-- A line after an acquire of a range: of the range, what is dirty is all that is valid. -/
def Line.acquired (rs : Option (List (Nat × Nat × Nat))) (l : Line) : Line :=
  if inRanges rs l then { l with valid := BitVec.ofNat 4 (fullSectors l.dirty.toNat) } else l

theorem Line.inRanges_acquired (l : Line) : inRanges rs (l.acquired rs) = inRanges rs l := by
  unfold Line.acquired
  split <;> rfl

theorem State.acquired_of_mem (h : l ∈ (s.acquireLines rs).cisLines) : ∃ l₀ ∈ s.cisLines, l = l₀.acquired rs := by
  obtain ⟨e, he, hl⟩ := State.mem_cisLines.mp h
  obtain ⟨e₀, he₀, rfl⟩ := List.mem_map.mp (List.mem_filter.mp he).1
  obtain ⟨l₀, hl₀, rfl⟩ := List.mem_map.mp (List.mem_filter.mp hl).1
  exact ⟨l₀, State.mem_cisLines.mpr ⟨e₀, he₀, hl₀⟩, rfl⟩

theorem State.valid_acquireLines (h : l ∈ (s.acquireLines rs).cisLines) (hin : inRanges rs l = true) :
    l.valid = BitVec.ofNat 4 (fullSectors l.dirty.toNat) := by
  obtain ⟨l₀, -, rfl⟩ := State.acquired_of_mem h
  rw [Line.inRanges_acquired] at hin
  rw [Line.acquired, if_pos hin]

theorem State.mem_acquireLines (h : l ∈ s.cisLines) (hout : inRanges rs l = false) (hdirty : l.dirty ≠ 0) :
    l ∈ (s.acquireLines rs).cisLines := by
  obtain ⟨e, he, hl⟩ := State.mem_cisLines.mp h
  have hsame : l.acquired rs = l := by rw [Line.acquired, if_neg (by rw [hout]; decide)]
  have hmem : l ∈ (e.2.map (Line.acquired rs)).filter
      (fun l => decide (l.valid ≠ 0) || decide (l.dirty ≠ 0) || (s.cisMissOf l.dev l.tag).isSome) :=
    List.mem_filter.mpr ⟨List.mem_map.mpr ⟨l, hl, hsame⟩, by rw [decide_eq_true hdirty]; simp⟩
  refine State.mem_cisLines.mpr ⟨(e.1, _), List.mem_filter.mpr ⟨List.mem_map.mpr ⟨e, he, rfl⟩, ?_⟩, hmem⟩
  exact decide_eq_true (List.ne_nil_of_mem hmem)

end

/-- A group that waited for a walk goes on, or waits for its loads (R236). -/
def walkOver (walk : Nat) (loads : Bool) (g : Group) : Group :=
  if g.hold = .walk walk then { g with hold := if loads then .loads else .none } else g

theorem walkOver_if (walk uid : Nat) (loads : Bool) (g : Group) : (if g.uid = uid then walkOver walk loads g else g) =
    if g.uid = uid ∧ g.hold = .walk walk then { g with hold := if loads then .loads else .none } else g := by
  unfold walkOver
  by_cases hu : g.uid = uid <;> simp [hu]

theorem exec_cisternWalkEnd_acquire {s : State} {walk n tile uid : Nat} {w : Walk}
    (hw : s.walks.find? (fun x => x.id == walk && !x.ended) = some w) (hkind : w.kind = .acquire) (hn : w.untilTick = some n)
    (hwho : w.who = .group tile uid) : exec (.cisternWalkEnd walk) s =
      .next ((({ ((s.waitWet n).acquireLines w.ranges) with walks := s.walks.filter (fun x => x.id != walk) } : State).emptyRo
        tile).modGroup tile uid (walkOver walk (s.loadsOut tile uid))) := by
  have hwalks : ((s.waitWet n).acquireLines w.ranges).walks = s.walks := by
    unfold State.acquireLines
    simp
  have hloads : ({ ((s.waitWet n).acquireLines w.ranges) with walks := s.walks.filter (fun x => x.id != walk) } : State).loadsOut
      tile uid = s.loadsOut tile uid := by
    unfold State.loadsOut State.acquireLines
    simp
  rw [exec_cisternWalkEnd, execCisternWalkEnd, hw]
  dsimp only
  rw [hn, hkind]
  dsimp only
  rw [hwalks, hwho, ← hloads]
  rfl

/-! ## The end of a flush's walk (R216, R232, R233) -/

/-- The walk is over and its write-backs are all acknowledged (R232). -/
def Walk.over (w : Walk) : Bool := w.ended && w.acks == [] && decide (w.who ≠ .device)

/-- Whoever waited for the walk goes on. -/
def State.releaseWaiter (s : State) (w : Walk) : State :=
  match w.who with
  | .group t u => s.modGroup t u (walkOver w.id false)
  | _ => s

theorem State.endWalks_eq (s : State) : s.endWalks =
    (s.walks.filter Walk.over).foldl State.releaseWaiter { s with walks := dropIf s.walks Walk.over } := rfl

theorem State.releaseWaiter_frame (s : State) (w : Walk) : s.releaseWaiter w = { s with tiles := (s.releaseWaiter w).tiles } := by
  unfold State.releaseWaiter
  split <;> rfl

/-- The end of walks drops them and releases groups, no more. -/
theorem State.endWalks_frame (s : State) :
    s.endWalks = { s with walks := dropIf s.walks Walk.over, tiles := s.endWalks.tiles } := by
  rw [State.endWalks_eq]
  generalize s.walks.filter Walk.over = l
  suffices h : ∀ v : State, l.foldl State.releaseWaiter v = { v with tiles := (l.foldl State.releaseWaiter v).tiles } from h _
  induction l with
  | nil => exact fun _ => rfl
  | cons w r ih =>
    intro v
    rw [List.foldl_cons, ih, State.releaseWaiter_frame]

/-- A dirty line leaves as one write. -/
theorem State.sendDirty_facts (s : State) {l : Line} (hdirty : l.dirty ≠ 0) (route c : Nat) :
    (s.sendDirty l route c).walks = s.walks ∧ (s.sendDirty l route c).cistern = s.cistern ∧
    (s.sendDirty l route c).dram = s.dram ∧ (s.sendDirty l route c).fab.out.length = s.fab.out.length + 1 := by
  have hsends := State.sendFabric_sendsOnly s l.dev route (.store (l.tag * 128) l.dirtyBytes) none none c
  have hout : (s.sendFabric l.dev route (.store (l.tag * 128) l.dirtyBytes) none none c).fab.out.length = s.fab.out.length + 1 := by
    unfold State.sendFabric
    dsimp only
    split <;> exact List.length_append
  rw [State.sendDirty, if_neg hdirty]
  refine ⟨?_, ?_, ?_, hout⟩
  · rw [State.overFills, hsends]
  · rw [State.overFills, hsends]
  · rw [State.overFills, hsends]

theorem tabSet_single {α : Type} [DecidableEq α] {d v x : α} (k : Nat) (hv : v ≠ d) : tabSet [(k, x)] d k v = [(k, v)] := by
  simp [tabSet, hv, tabPut]

theorem State.revokedDevs_congr {s t : State} (h : t.walks = s.walks) : t.revokedDevs = s.revokedDevs := by
  rw [State.revokedDevs, State.revokedDevs, h]

/-- R233: the one dirty line leaves, and its bytes stay in the cistern as clean ones. -/
theorem State.writeBackLines_one {s : State} {rs : Option (List (Nat × Nat × Nat))} {l : Line} (c : Nat)
    (hcis : s.cistern = [(cisKey l.dev l.tag, [l])]) (hin : inRanges rs l = true) (hdirty : l.dirty ≠ 0)
    (hkept : s.revokedDevs.elem l.dev = false) :
    (s.writeBackLines rs c).1 = { (s.sendDirty l l.route c) with cistern := [(cisKey l.dev l.tag, [l.cleaned])] } ∧
    (s.writeBackLines rs c).2 = [(l.dev, l.route, s.nextSeq l.dev l.route)] := by
  obtain ⟨-, hc, -⟩ := s.sendDirty_facts hdirty l.route c
  have hlines : s.cisLines.filter (fun l => inRanges rs l && decide (l.dirty ≠ 0) && !s.revokedDevs.elem l.dev) = [l] := by
    rw [State.cisLines, hcis, List.flatMap_singleton]
    exact List.filter_eq_self.mpr (fun x hx => by rw [List.mem_singleton.mp hx, hin, decide_eq_true hdirty, hkept]; rfl)
  have hset : tabGet [(cisKey l.dev l.tag, [l])] [] (cisKey l.dev l.tag) = [l] := if_pos rfl
  have hclean : modIf [l] (fun x => x.isFab l.dev l.tag) Line.cleaned = [l.cleaned] := by
    simp [modIf, Line.isFab]
  unfold State.writeBackLines
  rw [hlines, List.foldl_cons, List.foldl_nil]
  refine ⟨?_, rfl⟩
  dsimp only
  rw [hc, hcis, hset, hclean, State.setCis, hc, hcis, tabSet_single _ (List.cons_ne_nil _ _)]

/-- No line is dirty: nothing leaves. -/
theorem State.writeBackLines_none {s : State} (rs : Option (List (Nat × Nat × Nat))) (c : Nat)
    (hclean : ∀ l ∈ s.cisLines, l.dirty = 0) : s.writeBackLines rs c = (s, []) := by
  have hlines : s.cisLines.filter (fun l => inRanges rs l && decide (l.dirty ≠ 0) && !s.revokedDevs.elem l.dev) = [] :=
    List.filter_eq_nil_iff.mpr (fun l hl => by rw [hclean l hl]; simp)
  unfold State.writeBackLines
  rw [hlines]
  rfl

/-- The walk is noted as ended, with the writes it waits for. -/
def State.walkEnded (s : State) (walk : Nat) (acks : List (Nat × Nat × Nat)) : State :=
  { s with walks := modIf s.walks (fun x => x.id == walk) (fun x => { x with acks := acks, ended := true }) }

theorem exec_cisternWalkEnd_flush {s : State} {walk n : Nat} {w : Walk}
    (hw : s.walks.find? (fun x => x.id == walk && !x.ended) = some w) (hkind : w.kind = .flush) (hn : w.untilTick = some n) :
    exec (.cisternWalkEnd walk) s = .next ((((s.waitWet n).writeBackLines w.ranges ((s.waitWet n).walkCtx w)).1.walkEnded walk
      ((s.waitWet n).storesOut w.ranges ++ ((s.waitWet n).writeBackLines w.ranges ((s.waitWet n).walkCtx w)).2)).endWalks) := by
  rw [exec_cisternWalkEnd, execCisternWalkEnd, hw]
  dsimp only
  rw [hn, hkind]
  rfl

/-- A flush that sends nothing and waits for nothing is over at once. -/
theorem exec_cisternWalkEnd_quiet {s : State} {walk n tile uid : Nat} {w : Walk} (hwalks : s.walks = [w]) (hid : w.id = walk)
    (hended : w.ended = false) (hkind : w.kind = .flush) (hn : w.untilTick = some n) (hwho : w.who = .group tile uid)
    (hclean : ∀ l ∈ s.cisLines, l.dirty = 0) (hout : s.fab.out = []) :
    exec (.cisternWalkEnd walk) s = .next (({ s.waitWet n with walks := [] } : State).modGroup tile uid (walkOver walk false)) := by
  let w' : Walk := { w with acks := [], ended := true }
  have hfind : s.walks.find? (fun x => x.id == walk && !x.ended) = some w := by
    rw [hwalks]
    exact List.find?_cons_of_pos (by simp [hid, hended])
  have hlines : (s.waitWet n).cisLines = s.cisLines := by simp [State.cisLines]
  have hstores : (s.waitWet n).storesOut w.ranges = [] := by simp [State.storesOut, hout]
  have hover : w'.over = true := by
    unfold Walk.over
    rw [hwho]
    rfl
  have hE : ((s.waitWet n).walkEnded walk []) = { s.waitWet n with walks := [w'] } := by
    rw [State.walkEnded]
    simp [hwalks, modIf, hid, w']
  rw [exec_cisternWalkEnd_flush hfind hkind hn, State.writeBackLines_none _ _ (hlines ▸ hclean), hstores]
  rw [List.append_nil, hE, State.endWalks_eq]
  dsimp only
  rw [dropIf, List.filter_cons_of_pos hover, List.filter_cons_of_neg (by rw [hover]; decide), List.filter_nil, List.filter_nil,
    List.foldl_cons, List.foldl_nil, State.releaseWaiter]
  dsimp only [w']
  rw [hwho, hid]

/-- Settles O32: an instruction begins its walk or waits; a walk's end changes only its lines, its waiter and what it sends. -/
theorem orderingInstructionsWait : Obligations.OrderingInstructionsWait := by
  refine ⟨?_, ?_, ?_, ?_, ?_, ?_, ?_⟩
  · intro s u tile slot g p w hmask
    refine ⟨fun h hlegal => ?_, fun h hlegal hpair => ?_, fun h hlegal => ?_⟩
    · obtain ⟨-, hdram, -, -, -, -, -, -, -, hwalks, -⟩ := State.mayIssue_frame h
      refine ⟨_, exec_fenceRel_issued h hlegal hmask, ?_, ?_, State.group_putGroup_same _ _ _ _⟩
      · simp only [State.putGroup_fields]
        exact hdram
      · simp only [State.putGroup_fields]
        exact hwalks
    · obtain ⟨t, ht, hwalks, hdram, hcis, hgroup⟩ := State.startWalk_facts h hmask .flush (some (u.wordRange g w))
      refine ⟨t, _, ?_, hwalks, rfl, rfl, rfl, rfl, rfl, by rw [← State.mayIssue_fenced h]; rfl, hdram, hcis, hgroup⟩
      rw [exec_flush, execFlush, State.order_legal (range := true) h (by rw [hlegal, hpair]; simp), ← ht, Group.step_eq hmask]
      rfl
    · obtain ⟨t, ht, hwalks, -, hcis, hgroup⟩ := State.startWalk_facts h hmask .flush none
      refine ⟨t, _, ?_, hwalks, rfl, rfl, rfl, rfl, by rw [← State.mayIssue_fenced h]; rfl, hcis, hgroup⟩
      rw [exec_fenceOrd, execFenceOrd, State.order_legal (range := false) h (by rw [hlegal]; rfl), ← ht]
  · intro s u tile slot g p w h hlegal hrange hmask
    obtain ⟨t, ht, hwalks, -, hcis, hgroup⟩ := State.startWalk_facts h hmask .acquire (if wImm w = 1 then none else some (u.wordRange g w))
    refine ⟨t, _, ?_, hwalks, rfl, rfl, rfl, rfl, hcis, hgroup⟩
    have hsource : (orderLegal 0x41 w 1 && (!true || wImm w == 1 || scalarPair w)) = true := by
      rw [hlegal]
      rcases hrange with h1 | h1 <;> simp [h1]
    rw [exec_acquire, execAcquire, State.order_legal (range := true) h hsource, ← ht, Group.step_eq hmask]
    rfl
  · intro s u tile slot g p w hbad
    refine ⟨fun h => ⟨?_, ?_⟩, fun h => ⟨?_, ?_⟩⟩
    · rw [exec_fenceRel, execFenceRel, State.order_illegal (range := false) h (orderLegal_false (by decide) hbad)]
    · rw [exec_fenceOrd, execFenceOrd, State.order_illegal (range := false) h (orderLegal_false (by decide) hbad)]
    · rw [exec_flush, execFlush, State.order_illegal (range := true) h (orderLegal_false (by decide) hbad)]
    · rw [exec_acquire, execAcquire, State.order_illegal (range := true) h (orderLegal_false (by decide) hbad)]
  · intro s walk n tile uid w hw hkind hn hwho
    let v : State := { ((s.waitWet n).acquireLines w.ranges) with walks := s.walks.filter (fun x => x.id != walk) }
    have hvtile : v.tile tile = s.tile tile := s.tile_waitWet n tile
    have hlines : v.cisLines = (s.acquireLines w.ranges).cisLines := by
      unfold State.cisLines
      simp [v, State.acquireLines, State.cisMissOf]
    have htlines : ((v.emptyRo tile).modGroup tile uid (walkOver walk (s.loadsOut tile uid))).cisLines = v.cisLines := rfl
    refine ⟨_, exec_cisternWalkEnd_acquire hw hkind hn hwho, rfl, ?_, fun l hl hin => ?_, fun l hl hout hdirty => ?_, ?_, ?_,
      fun slot g hg => ?_⟩
    · have hdram : (s.waitWet n).dram = s.dram := by simp
      exact hdram
    · exact State.valid_acquireLines (by rw [htlines, hlines] at hl; exact hl) hin
    · rw [htlines, hlines]
      exact State.mem_acquireLines hl hout hdirty
    · rw [State.tile_modGroup_field _ _ _ _ Tile.ro, State.emptyRo, State.tile_modTile, if_pos rfl]
    · rw [State.tile_modGroup_field _ _ _ _ Tile.scratch, State.emptyRo, State.tile_modTile, if_pos rfl]
      change (v.tile tile).scratch = _
      rw [hvtile]
    · have hvgroup : (v.emptyRo tile).group tile slot = some g := by
        refine (State.group_congr (s := s) ?_ slot).trans hg
        rw [State.emptyRo, State.tile_modTile, if_pos rfl, hvtile]
      rw [State.group_modGroup, hvgroup, Option.map_some, walkOver_if]
  · intro s walk n tile uid w l hw hkind hn hwho hcis hin hdirty hkept
    let v := s.waitWet n
    obtain ⟨hstate, hacks⟩ := State.writeBackLines_one (s := v) (v.walkCtx w) (by simpa [v] using hcis) hin hdirty
      (by rw [State.revokedDevs_congr (s := s) (by simp [v])]; exact hkept)
    obtain ⟨hwalks, -, hdram, hlength⟩ := v.sendDirty_facts hdirty l.route (v.walkCtx w)
    have hexec := exec_cisternWalkEnd_flush hw hkind hn
    rw [hstate, hacks, State.endWalks_frame] at hexec
    have hfab : v.fab = s.fab := by simp [v]
    have hwmem := List.mem_of_find?_eq_some hw
    have hfound := List.find?_some hw
    have hid : w.id = walk := eq_of_beq ((Bool.and_eq_true _ _).mp hfound).1
    let acks := v.storesOut w.ranges ++ [(l.dev, l.route, v.nextSeq l.dev l.route)]
    refine ⟨_, hexec, rfl, ⟨{ w with acks := acks, ended := true }, List.mem_filter.mpr ⟨?_, ?_⟩, hid, rfl, ?_⟩, ?_, ?_⟩
    · refine List.mem_map.mpr ⟨w, ?_, by rw [if_pos (beq_iff_eq.mpr hid)]⟩
      rw [hwalks]
      simpa [v] using hwmem
    · simp [Walk.over, acks]
    · refine List.mem_append_right _ (List.mem_singleton.mpr ?_)
      rw [State.nextSeq, State.nextSeq, hfab]
    · exact hdram.trans (by simp [v])
    · exact hlength.trans (by rw [hfab])
  · intro s walk n tile uid w hwalks hid hended hkind hn hwho hclean hout
    refine ⟨_, exec_cisternWalkEnd_quiet hwalks hid hended hkind hn hwho hclean hout, rfl, by simp [State.modGroup],
      by simp [State.modGroup], fun slot g hg => ?_⟩
    have hvgroup : ({ s.waitWet n with walks := [] } : State).group tile slot = some g :=
      (State.group_congr (s := s) (congrArg Tile.groups (s.tile_waitWet n tile)) slot).trans hg
    rw [State.group_modGroup, hvgroup, Option.map_some, walkOver_if]
    rfl
  · intro s walk hnone
    rw [exec_cisternWalkEnd, execCisternWalkEnd, hnone]

end Sys2Proof.Machine
end

section
/-! Waits (R59, R314, R315, R321, R322, R326, R328): WAIT and TEST, registration at the home, wakes, polls and the watchdog. -/

namespace Sys2Proof.Machine

theorem exec_syncWait (tile slot : Nat) (w : Word64) (s : State) : exec (.syncWait tile slot w) s = execSyncWait tile slot w s := rfl

theorem exec_syncTest (tile slot : Nat) (w : Word64) (s : State) : exec (.syncTest tile slot w) s = execSyncTest tile slot w s := rfl

theorem exec_waitRegistration (id : Nat) (s : State) : exec (.waitRegistration id) s = execWaitRegistration id s := rfl

theorem exec_syncWake (id : Nat) (s : State) : exec (.syncWake id) s = execSyncWake id s := rfl

theorem exec_waiterPoll (id : Nat) (s : State) : exec (.waiterPoll id) s = execWaiterPoll id s := rfl

theorem exec_waitWatchdogExamination (s : State) : exec .waitWatchdogExamination s = execWaitWatchdogExamination s := rfl

/-! ## WAIT and TEST (R61, R314, R326) -/

/-- The registration that a group's WAIT sends. -/
def State.waitFor (s : State) (tile : Nat) (g : Group) (w : Word64) (i : Nat) (h : Option Nat) : Wait :=
  { id := s.nextId, who := .group tile g.uid, ctx := g.ctx, index := i, handle := h, vid := bvFld (g.sreg (wA w)) 0 32
    target := g.sreg (wB w), state := .moving, since := s.hal.ms }

/-- The state with a registration under way, under the next number. -/
def State.withWait (s : State) (w : Wait) : State := s.fresh.modSync (fun y => { y with waits := y.waits ++ [w] })

/-- A denied wait leaves everything but the count of what was denied. -/
theorem State.countWaitDenied_frame (s : State) (c vid r : Nat) : s.countWaitDenied c vid r =
    { s with sync := { s.sync with counters := (s.countWaitDenied c vid r).sync.counters } } := by
  unfold State.countWaitDenied
  split
  · rfl
  · unfold State.countStale
    split <;> rfl
  · rfl

section
variable {s u : State} {tile slot : Nat} {g : Group} {p : Path} {w : Word64} {i : Nat} {h : Option Nat}

theorem exec_syncWait_registered (hi : s.mayIssue tile slot (scalarKeys w) g p u) (hlegal : syncLegal 0x03 w 1 = true)
    (hdst : scalarField (wDst w) = true) (hmask : p.mask ≠ 0) (href : u.waitRef g.ctx (bvFld (g.sreg (wA w)) 0 32) = .ok (i, h)) :
    exec (.syncWait tile slot w) s = .next ((u.withWait (u.waitFor tile g w i h)).putGroup tile slot
      { g.wentOn p with issued := 16, hold := .wait u.nextId (wDst w) (wImm w == 1), since := u.hal.ms }) := by
  have hfin : ∀ x : State, x.finish tile slot { (g.step p 8).endTurn with
      hold := .wait u.nextId (wDst w) (wImm w == 1), since := u.hal.ms } = x.putGroup tile slot
        { g.wentOn p with issued := 16, hold := .wait u.nextId (wDst w) (wImm w == 1), since := u.hal.ms } := fun x => by
    rw [Group.endTurn, Group.step_eq hmask]
    exact State.finish_running x tile slot ⟨{ p with pc := p.pc + 8 }, List.mem_append_right _ List.mem_cons_self,
      (State.mayIssue_path hi).2.1⟩
  rw [exec_syncWait, execSyncWait, State.issue_due hi, hlegal, hdst, if_neg (by decide)]
  dsimp only
  rw [href]
  exact congrArg _ (hfin _)

theorem exec_syncTest_value (hi : s.mayIssue tile slot [keyS (wA w), keyP (wPred w)] g p u) (hlegal : orderLegal 0x04 w 0 = true)
    (hsrc : scalarField (wA w) = true) (hdst : scalarField (wDst w) = true) (hmask : p.mask ≠ 0)
    (href : u.waitRef g.ctx (bvFld (g.sreg (wA w)) 0 32) = .ok (i, h)) :
    exec (.syncTest tile slot w) s = .next (u.putGroup tile slot
      (((g.setSreg (wDst w) (u.syncObj i).value).readyOn (keyS (wDst w)) 0).wentOn p)) := by
  rw [exec_syncTest, execSyncTest, State.issue_due hi, hlegal, hsrc, hdst, if_neg (by decide)]
  dsimp only
  rw [href]
  exact congrArg _ (State.finish_step u tile slot hmask (State.mayIssue_path hi).2.1 8)

/-- The record of a denied WAIT or TEST. -/
def State.waitDenied (u : State) (tile slot : Nat) (g : Group) (p : Path) (w : Word64) (r : Nat) : State :=
  (u.countWaitDenied g.ctx (bvFld (g.sreg (wA w)) 0 32) r).takeFault g.ctx none
    { u.syncPlace tile slot g p (bvFld (g.sreg (wA w)) 0 32) with detail := r }

theorem exec_syncWait_denied {r : Nat} (hi : s.mayIssue tile slot (scalarKeys w) g p u) (hlegal : syncLegal 0x03 w 1 = true)
    (hdst : scalarField (wDst w) = true) (href : u.waitRef g.ctx (bvFld (g.sreg (wA w)) 0 32) = .error r) :
    exec (.syncWait tile slot w) s = .next (u.waitDenied tile slot g p w r) := by
  rw [exec_syncWait, execSyncWait, State.issue_due hi, hlegal, hdst, if_neg (by decide)]
  dsimp only
  rw [href]
  rfl

theorem exec_syncTest_denied {r : Nat} (hi : s.mayIssue tile slot [keyS (wA w), keyP (wPred w)] g p u)
    (hlegal : orderLegal 0x04 w 0 = true) (hsrc : scalarField (wA w) = true) (hdst : scalarField (wDst w) = true)
    (href : u.waitRef g.ctx (bvFld (g.sreg (wA w)) 0 32) = .error r) :
    exec (.syncTest tile slot w) s = .next (u.waitDenied tile slot g p w r) := by
  rw [exec_syncTest, execSyncTest, State.issue_due hi, hlegal, hsrc, hdst, if_neg (by decide)]
  dsimp only
  rw [href]
  rfl

theorem State.waitDenied_facts (r : Nat) (hst : (u.ctx g.ctx).st = .resident) (hnone : (u.ctx g.ctx).fault = none) :
    ∃ f, ((u.waitDenied tile slot g p w r).ctx g.ctx).fault = some f ∧ f.code = .syncDenied ∧ f.detail = r ∧ f.where' = p.pc ∧
      ((u.waitDenied tile slot g p w r).ctx g.ctx).st = .stopped ∧
      (u.waitDenied tile slot g p w r).sync.waits = u.sync.waits := by
  let v := u.countWaitDenied g.ctx (bvFld (g.sreg (wA w)) 0 32) r
  have hframe := u.countWaitDenied_frame g.ctx (bvFld (g.sreg (wA w)) 0 32) r
  have hctx : v.ctx g.ctx = u.ctx g.ctx := State.ctx_congr (congrArg State.ctxs hframe) g.ctx
  have hstop : (v.ctx g.ctx).st.stoppable = true := by rw [hctx, hst]; rfl
  refine ⟨_, State.fault_takeFault hstop (by rw [hctx]; exact hnone) none _, rfl, rfl, rfl, State.takeFault_stopped hstop _, ?_⟩
  have hsync : (u.waitDenied tile slot g p w r).sync = v.sync := by simp [State.waitDenied, v]
  rw [hsync, show v.sync.waits = u.sync.waits from congrArg (fun t => t.sync.waits) hframe]

end

/-! ## Registrations at the home (R321) -/

/-- The registration `id` in a new condition. -/
def State.setWait (s : State) (id : Nat) (st : WaitState) : State :=
  s.modSync (fun y => { y with waits := modIf y.waits (fun x => x.id == id) (fun x => { x with state := st }) })

/-- A wait that is registered at its object (R321). -/
def State.poolWait (s : State) (w : Wait) : State :=
  ((s.setWait w.id .pooled).setSyncObj w.index { s.syncObj w.index with waiters := (s.syncObj w.index).waiters + 1 }).syncCount
    (s.syncHome w.index) (fun x => { x with waitersHigh := max x.waitersHigh (min 65535 (s.poolUse (s.syncHome w.index) + 1)) })

/-- A wait that polls, because its pool is full, and is counted (R321). -/
def State.pollWait (s : State) (w : Wait) : State :=
  (s.setWait w.id .polling).syncCount (s.syncHome w.index) (fun x => { x with waiterOverflow := satAdd 32 x.waiterOverflow 1 })

section
variable (s : State) (w : Wait)

/-- What the home does with a wait on a value that is no poison. -/
theorem State.registerWait_eq (hpoison : (s.syncObj w.index).value.toNat < 2 ^ 63) : s.registerWait w =
    if w.target.toNat ≤ (s.syncObj w.index).value.toNat then s.setWait w.id (.wake 0)
    else if s.poolUse (s.syncHome w.index) < 4096 then s.poolWait w
    else if w.state = .polling then s else s.pollWait w := by
  unfold State.registerWait
  rw [if_neg (by rw [poisonBase]; omega)]
  rfl

/-- A home's answer to a wait changes the state of the homes alone. -/
theorem State.homes_only : (s.poolWait w = { s with sync := (s.poolWait w).sync }) ∧
    (s.pollWait w = { s with sync := (s.pollWait w).sync }) ∧ ∀ id st, s.setWait id st = { s with sync := (s.setWait id st).sync } :=
  ⟨rfl, rfl, fun _ _ => rfl⟩

theorem State.syncObj_poolWait : (s.poolWait w).syncObj w.index =
    { s.syncObj w.index with waiters := (s.syncObj w.index).waiters + 1 } :=
  (tabGet_tabSet _ _ _ _ _).trans (if_pos rfl)

end

section
variable {id : Nat} {st : WaitState} {ws : List Wait} {w : Wait}

/-- The waits with those of a number in a new condition. -/
def setWaits (ws : List Wait) (id : Nat) (st : WaitState) : List Wait :=
  modIf ws (fun x => x.id == id) (fun x => { x with state := st })

theorem setWaits_cons (x : Wait) : setWaits (x :: ws) id st =
    (if x.id = id then { x with state := st } else x) :: setWaits ws id st := by
  simp [setWaits, modIf]

theorem state_of_mem_setWaits {x : Wait} (hx : x ∈ setWaits ws id st) (hid : x.id = id) : x.state = st := by
  induction ws with
  | nil => exact absurd hx List.not_mem_nil
  | cons y r ih =>
    rw [setWaits_cons] at hx
    rcases List.mem_cons.mp hx with rfl | hr
    · split
      · rfl
      · next hne => exact absurd (by rwa [if_neg hne] at hid) hne
    · exact ih hr

/-- Waits with another number are as they were. -/
theorem filter_setWaits : (setWaits ws id st).filter (fun x => x.id != id) = ws.filter (fun x => x.id != id) := by
  induction ws with
  | nil => rfl
  | cons x r ih =>
    rw [setWaits_cons]
    by_cases hx : x.id = id
    · rw [if_pos hx, List.filter_cons_of_neg (by simp [hx]), List.filter_cons_of_neg (by simp [hx]), ih]
    · rw [if_neg hx, List.filter_cons_of_pos (by simp [hx]), List.filter_cons_of_pos (by simp [hx]), ih]

/-- The one registration of a number is found in its new condition. -/
theorem find?_setWaits (hw : w ∈ ws) (hwid : w.id = id) (hone : ∀ x ∈ ws, x.id = id → x = w) :
    (setWaits ws id st).find? (fun x => x.id == id) = some { w with state := st } := by
  induction ws with
  | nil => exact absurd hw List.not_mem_nil
  | cons x r ih =>
    rw [setWaits_cons]
    by_cases hx : x.id = id
    · rw [if_pos hx, hone x List.mem_cons_self hx]
      exact List.find?_cons_of_pos (beq_iff_eq.mpr hwid)
    · rw [if_neg hx, List.find?_cons_of_neg (by simpa using hx)]
      exact ih ((List.mem_cons.mp hw).resolve_left (fun e => hx (e ▸ hwid))) (fun z hz => hone z (List.mem_cons_of_mem _ hz))

end

/-! ## Waits completed (R59, R322) -/

/-- A group whose wait is over: the status in its register, and when it is ready. -/
def Group.woken (g : Group) (dst status at_ : Nat) : Group :=
  { (g.setSreg dst (BitVec.ofNat 64 status)).readyOn (keyS dst) 0 with hold := .none, readyAt := max g.readyAt at_ }

theorem Group.sreg_woken (g : Group) (dst status at_ n : Nat) : (g.woken dst status at_).sreg n =
    if n % 64 = dst % 64 then BitVec.ofNat 64 status else g.sreg n := Group.sreg_setSreg g dst n _

/-- The registration gone. -/
def State.withoutWait (s : State) (id : Nat) : State :=
  s.modSync (fun y => { y with waits := y.waits.filter (fun x => x.id != id) })

theorem State.becomePending_frame (s : State) (c : Nat) : s.becomePending c =
    { s with ctxs := (s.becomePending c).ctxs, pendingOrder := (s.becomePending c).pendingOrder } := by
  unfold State.becomePending
  split <;> rfl

/-- The record of a wait whose object's owner is lost: it names the WAIT. -/
def State.ownerLost (s : State) (tile uid : Nat) (g : Group) : FaultRec :=
  { faultOf .ownerLost 0 with
    tile := tile, slot := (s.slotOf tile uid).getD 0, queue := s.queueOfKern g.kern
    where' := (g.paths.headD ⟨8, 0, .no⟩).pc - 8, lanes := g.live }

/-- R342: only an idle context becomes pending, at the end of the order. -/
theorem State.becomePending_facts {s v : State} (hc : v.ctxs = s.ctxs) (ho : v.pendingOrder = s.pendingOrder) (c : Nat) :
    ((s.ctx c).st ≠ .idle → (v.becomePending c).ctxs = s.ctxs) ∧
    ((s.ctx c).st = .idle → ((v.becomePending c).ctx c).st = .pending ∧ (v.becomePending c).pendingOrder = s.pendingOrder ++ [c]) := by
  have hctx := State.ctx_congr hc c
  unfold State.becomePending
  refine ⟨fun h => ?_, fun h => ?_⟩
  · rw [if_neg (by rw [hctx]; exact h), hc]
  · rw [if_pos (by rw [hctx]; exact h), ← ho]
    refine ⟨?_, rfl⟩
    have hst : ((v.modCtx c (fun x => { x with st := .pending, since := v.tick.toNat })).ctx c).st = .pending := by
      rw [State.ctx_modCtx, if_pos rfl]
    exact hst

section
variable {s : State} {w : Wait} {tile uid slot dst status : Nat} {lost : Bool} {g : Group} (hwho : w.who = .group tile uid)
  (hslot : s.slotOf tile uid = some slot) (hg : s.group tile slot = some g) (hhold : g.hold = .wait w.id dst lost)
include hwho hslot hg hhold

/-- R322: the group goes on with the status. -/
theorem State.completeWait_group (at_ : Nat) (hstatus : lost = false ∨ status ≠ 1) : s.completeWait w status at_ =
    ((s.withoutWait w.id).modGroup tile uid (fun g => g.woken dst status at_)).becomePending g.ctx := by
  have hpass : (lost && status == 1) = false := by
    rcases hstatus with h | h
    · rw [h]; rfl
    · rw [beq_eq_false_iff_ne.mpr h, Bool.and_false]
  have hwaiter : (s.withoutWait w.id).waiter tile uid = some g := by
    unfold State.waiter
    rw [show (s.withoutWait w.id).slotOf tile uid = some slot from hslot]
    exact hg
  unfold State.completeWait
  dsimp only
  rw [hwho]
  dsimp only
  unfold State.completeGroupWait
  change (match (s.withoutWait w.id).waiter tile uid with | none => _ | some g => _) = _
  rw [hwaiter]
  dsimp only
  rw [hhold]
  dsimp only
  rw [hpass]
  rfl

/-- R322: under FAULT_ON_LOST a wait whose owner is lost stops its context. -/
theorem State.completeWait_lost (at_ : Nat) (hlost : lost = true) : s.completeWait w 1 at_ =
    (s.withoutWait w.id).takeFault g.ctx none (s.ownerLost tile uid g) := by
  have hwaiter : (s.withoutWait w.id).waiter tile uid = some g := by
    unfold State.waiter
    rw [show (s.withoutWait w.id).slotOf tile uid = some slot from hslot]
    exact hg
  unfold State.completeWait
  dsimp only
  rw [hwho]
  dsimp only
  unfold State.completeGroupWait
  change (match (s.withoutWait w.id).waiter tile uid with | none => _ | some g => _) = _
  rw [hwaiter]
  dsimp only
  rw [hhold]
  dsimp only
  rw [hlost]
  rfl

end

/-- What the end of a group's wait leaves. -/
theorem State.woken_facts {s v : State} {tile uid slot dst status at_ : Nat} {g : Group} (hv : v.tiles = s.tiles)
    (hg : s.group tile slot = some g) (huid : g.uid = uid) :
    ((v.modGroup tile uid (fun g => g.woken dst status at_)).becomePending g.ctx).group tile slot = some (g.woken dst status at_) ∧
    ((v.modGroup tile uid (fun g => g.woken dst status at_)).becomePending g.ctx).sync = v.sync ∧
    ((v.modGroup tile uid (fun g => g.woken dst status at_)).becomePending g.ctx).dram = v.dram := by
  have hframe := (v.modGroup tile uid (fun g => g.woken dst status at_)).becomePending_frame g.ctx
  refine ⟨?_, ?_, ?_⟩
  · have hgroup : (v.modGroup tile uid (fun g => g.woken dst status at_)).group tile slot = some (g.woken dst status at_) := by
      rw [State.group_modGroup, State.group_congr (s := s) (by rw [State.tile_congr hv]) slot, hg, Option.map_some, if_pos huid]
    refine (State.group_congr ?_ slot).trans hgroup
    rw [State.tile_congr (s := v.modGroup tile uid (fun g => g.woken dst status at_)) (by rw [hframe])]
  · rw [hframe]
    rfl
  · rw [hframe]
    rfl

/-! ## Slots given up (R59, R340) -/

/-- The save records a context's groups use. -/
def State.savesUsed (s : State) (c : Nat) : Nat := (s.tiles.flatMap (fun e => e.2.saved.filter (fun x => x.ctx == c))).length

section
variable {s v : State} {tile uid slot : Nat} {g : Group} (hv : v = { s with sync := v.sync })
  (hslot : s.slotOf tile uid = some slot) (hg : s.group tile slot = some g)
include hv hslot hg

theorem State.deschedule_stays (h : (s.tile tile).waiting = [] ∨ (s.ctx g.ctx).saveRecords ≤ s.savesUsed g.ctx) :
    v.deschedule tile uid = v := by
  rw [hv, State.deschedule]
  change (match s.slotOf tile uid with | none => _ | some slot => _) = _
  rw [hslot]
  change (match s.group tile slot with | none => _ | some g => _) = _
  rw [hg]
  exact if_pos h

/-- R59: the group gives its slot up, which is free 67 ticks later. -/
theorem State.deschedule_leaves (hwait : (s.tile tile).waiting ≠ []) (hfree : s.savesUsed g.ctx < (s.ctx g.ctx).saveRecords) :
    (v.deschedule tile uid).group tile slot = none ∧
    ((v.deschedule tile uid).tile tile).saved = (s.tile tile).saved ++ [g] ∧
    tabGet ((v.deschedule tile uid).tile tile).freeAt 0 slot = s.wet.toNat + 67 ∧
    ∀ k, k ≠ tile → (v.deschedule tile uid).tile k = s.tile k := by
  have htile : ∀ k, (v.deschedule tile uid).tile k = (s.modTile tile (fun x => { x with
      groups := tabSet x.groups none slot none, freeAt := tabSet x.freeAt 0 slot (s.due 67), saved := x.saved ++ [g] })).tile k :=
    fun k => by
      rw [hv, State.deschedule]
      change State.tile (match s.slotOf tile uid with | none => _ | some slot => _) k = _
      rw [hslot]
      change State.tile (match s.group tile slot with | none => _ | some g => _) k = _
      rw [hg]
      exact (congrArg (fun t : State => t.tile k) (if_neg (not_or.mpr ⟨hwait, Nat.not_le.mpr hfree⟩))).trans rfl
  refine ⟨?_, ?_, ?_, fun k hk => (htile k).trans (s.tile_modTile_other tile k hk _)⟩
  · rw [State.group, htile, State.tile_modTile, if_pos rfl, Tile.group]
    dsimp only
    rw [tabGet_tabSet, if_pos rfl]
  · rw [htile, State.tile_modTile, if_pos rfl]
  · rw [htile, State.tile_modTile, if_pos rfl]
    dsimp only
    rw [tabGet_tabSet, if_pos rfl]
    rfl

end

/-! ## WAIT_REGISTRATION (R321) -/

theorem State.waitFound {s : State} {id : Nat} {w : Wait}
    (hfind : s.sync.waits.find? (fun x => x.id == id && decide (x.state = .moving)) = some w) :
    w ∈ s.sync.waits ∧ w.id = id ∧ w.state = .moving := by
  have hfound := List.find?_some hfind
  obtain ⟨hid, hst⟩ := (Bool.and_eq_true _ _).mp hfound
  exact ⟨List.mem_of_find?_eq_some hfind, eq_of_beq hid, of_decide_eq_true hst⟩

section
variable {s : State} {id tile uid : Nat} {w : Wait}
  (hfind : s.sync.waits.find? (fun x => x.id == id && decide (x.state = .moving)) = some w) (hhandle : w.handle = none)
  (hone : ∀ x ∈ s.sync.waits, x.id = id → x = w) (hwho : w.who = .group tile uid)
  (hkind : (s.syncObj w.index).kind ≠ 0) (howner : (s.syncObj w.index).owner = w.ctx)
include hfind hhandle hone hwho hkind howner

/-- A wait of an own object goes on as the home's answer says. -/
theorem exec_waitRegistration_own {st : WaitState} (hreg : (s.registerWait w).sync.waits = setWaits s.sync.waits id st)
    (hst : st = .wake 0 ∨ st = .pooled ∨ st = .polling) : exec (.waitRegistration id) s = .next (if st = .wake 0
      then (s.registerWait w).completeWait { w with state := .wake 0 } 0 0 else (s.registerWait w).deschedule tile uid) := by
  obtain ⟨hmem, hid, -⟩ := State.waitFound hfind
  have hfound : (s.registerWait w).sync.waits.find? (fun x => x.id == id) = some { w with state := st } := by
    rw [hreg]
    exact find?_setWaits hmem hid hone
  have hallowed : ((s.syncObj w.index).kind != 0 && (s.syncObj w.index).owner == w.ctx) = true := by
    simp [hkind, howner]
  rw [exec_waitRegistration, execWaitRegistration, hfind]
  dsimp only
  rw [hhandle]
  dsimp only
  rw [hallowed, if_neg (by decide), hfound]
  dsimp only
  rw [hwho]
  rcases hst with rfl | rfl | rfl <;> rfl

end

/-! ## The watchdog (R328) -/

theorem watchedWaits_code (s : State) (c : Nat) {e : Nat × FaultRec} (he : e ∈ s.watchedWaits c) : e.2.code = .waitWatchdog := by
  unfold State.watchedWaits at he
  rcases List.mem_append.mp he with hreg | hheld
  · obtain ⟨w, -, rfl⟩ := List.mem_map.mp hreg
    dsimp only
    split
    · rfl
    · split <;> rfl
    · rfl
  · obtain ⟨t, -, hx⟩ := List.mem_flatMap.mp hheld
    obtain ⟨x, -, hx⟩ := List.mem_filterMap.mp hx
    split at hx
    · split at hx
      · obtain ⟨w, -, rfl⟩ := Option.map_eq_some_iff.mp hx
        rfl
      · exact nomatch hx
    · exact nomatch hx

/-- A registered wait of the context is watched from when it began. -/
theorem watchedWaits_pooled (s : State) {c : Nat} {w : Wait} (hw : w ∈ s.sync.waits) (hc : w.ctx = c) (hst : w.state = .pooled) :
    ∃ e ∈ s.watchedWaits c, e.1 = w.since := by
  refine ⟨_, List.mem_append_left _ (List.mem_map.mpr ⟨w, List.mem_filter.mpr ⟨hw, ?_⟩, rfl⟩), rfl⟩
  rw [hc, hst]
  simp

/-- The older of two waits. -/
def older (a : Option (Nat × FaultRec)) (w : Nat × FaultRec) : Option (Nat × FaultRec) :=
  match a with
  | some b => if w.1 < b.1 then some w else some b
  | none => some w

theorem oldestPast_eq (now limit : Nat) (ws : List (Nat × FaultRec)) : oldestPast now limit ws =
    ((ws.filter (fun w => decide (limit * 1000 < now - w.1))).foldl older none).map (fun w => w.2) := rfl

theorem older_some (a : Option (Nat × FaultRec)) (w : Nat × FaultRec) :
    ∃ b, older a w = some b ∧ (b = w ∨ a = some b) := by
  cases a with
  | none => exact ⟨w, rfl, .inl rfl⟩
  | some b =>
    by_cases h : w.1 < b.1
    · exact ⟨w, if_pos h, .inl rfl⟩
    · exact ⟨b, if_neg h, .inr rfl⟩

theorem foldl_older (l : List (Nat × FaultRec)) (a : Option (Nat × FaultRec)) (h : l ≠ [] ∨ a.isSome = true) :
    ∃ b, l.foldl older a = some b ∧ (b ∈ l ∨ a = some b) := by
  induction l generalizing a with
  | nil =>
    obtain ⟨b, hb⟩ := Option.isSome_iff_exists.mp (h.resolve_left (fun hn => hn rfl))
    exact ⟨b, hb, .inr hb⟩
  | cons w r ih =>
    obtain ⟨x, hx, hxw⟩ := older_some a w
    obtain ⟨b, hb, hbr⟩ := ih (older a w) (.inr (by rw [hx]; rfl))
    refine ⟨b, hb, ?_⟩
    rcases hbr with hbr | hbr
    · exact .inl (List.mem_cons_of_mem _ hbr)
    · rw [hx] at hbr
      obtain rfl := Option.some.inj hbr
      rcases hxw with rfl | ha
      · exact .inl List.mem_cons_self
      · exact .inr ha

/-- R328: a wait past the limit is found. -/
theorem oldestPast_some {now limit : Nat} {ws : List (Nat × FaultRec)} {e : Nat × FaultRec} (he : e ∈ ws)
    (hpast : limit * 1000 < now - e.1) : ∃ b ∈ ws, oldestPast now limit ws = some b.2 := by
  have hmem : e ∈ ws.filter (fun w => decide (limit * 1000 < now - w.1)) := List.mem_filter.mpr ⟨he, decide_eq_true hpast⟩
  obtain ⟨b, hb, hbl⟩ := foldl_older _ none (.inl (List.ne_nil_of_mem hmem))
  refine ⟨b, (List.mem_filter.mp (hbl.resolve_right nofun)).1, ?_⟩
  rw [oldestPast_eq, hb]
  rfl

/-- Halnor's millisecond, and a debug session's second. -/
def State.oneMs (s : State) : State :=
  let v := s.modHal (fun h => { h with ms := h.ms + 1 })
  if v.hal.ms % 1000 = 0 then v.modSec (fun x => { x with remaining := x.remaining - 1 }) else v

theorem State.oneMs_frame (s : State) : s.oneMs = { s with hal := s.oneMs.hal, sec := s.oneMs.sec } := by
  unfold State.oneMs
  dsimp only
  split <;> rfl

theorem State.oneMs_ms (s : State) : s.oneMs.hal.ms = s.hal.ms + 1 := by
  unfold State.oneMs
  dsimp only
  split <;> rfl

theorem State.oneMs_remaining (s : State) :
    s.oneMs.sec.remaining = if (s.hal.ms + 1) % 1000 = 0 then s.sec.remaining - 1 else s.sec.remaining := by
  unfold State.oneMs
  dsimp only
  split
  · next h => exact (if_pos h).symm
  · next h => exact (if_neg h).symm

theorem State.watchedWaits_oneMs (s : State) (c : Nat) : s.oneMs.watchedWaits c = s.watchedWaits c := by
  rw [State.oneMs_frame]
  rfl

/-- One context examined. -/
def State.examineCtx (s : State) (c : Nat) : State :=
  match oldestPast s.hal.ms (s.ctx c).waitWdog (s.watchedWaits c) with
  | some f => if decide ((s.ctx c).st = .stopped) && !(s.ctx c).queues.any (fun e => decide (e.2.st = .running)) then s
      else s.takeFault c none f
  | none => s

theorem exec_waitWatchdogExamination_examine {s : State} (h : s.mod.standby = true) :
    exec .waitWatchdogExamination s = .next (s.liveCtxs.foldl State.examineCtx s.oneMs) := by
  have hlive : s.oneMs.liveCtxs = s.liveCtxs := by rw [State.oneMs_frame]; rfl
  rw [exec_waitWatchdogExamination, execWaitWatchdogExamination, h, if_neg (by decide), ← hlive]
  rfl

theorem State.foldl_examineCtx_quiet {v : State} (l : List Nat)
    (h : ∀ c ∈ l, oldestPast v.hal.ms (v.ctx c).waitWdog (v.watchedWaits c) = none) : l.foldl State.examineCtx v = v := by
  induction l with
  | nil => rfl
  | cons c r ih =>
    rw [List.foldl_cons, State.examineCtx, h c List.mem_cons_self]
    exact ih (fun x hx => h x (List.mem_cons_of_mem _ hx))

/-- Settles O34: a wait is registered, completed or counted as the home's value and room say; only its own record, group and context
change. -/
theorem waitsRegisterWakeAndExpire : Obligations.WaitsRegisterWakeAndExpire := by
  refine ⟨?_, ?_, ?_, ?_, ?_, ?_, ?_⟩
  · intro s u tile slot g p w hmask hdst
    refine ⟨fun i h hi hlegal href => ?_, fun i h hi hlegal hsrc href => ?_, fun r href hst hnone => ⟨fun hi hlegal => ?_,
      fun hi hlegal hsrc => ?_⟩⟩
    · obtain ⟨-, hdram, -, -, -, -, hsync, -, -, -, -, -, hnext, -⟩ := State.mayIssue_frame hi
      have hms := State.mayIssue_ms hi
      refine ⟨_, u.waitFor tile g w i h, exec_syncWait_registered hi hlegal hdst hmask href, ?_, hnext, rfl, rfl, rfl, rfl, rfl, hms, ?_, ?_, ?_⟩
      · simp only [State.putGroup_fields]
        rw [← hsync]
        rfl
      · simp only [State.putGroup_fields]
        rw [← hsync]
        rfl
      · simp only [State.putGroup_fields]
        exact hdram
      · rw [State.group_putGroup_same, hnext, hms]
        rfl
    · obtain ⟨-, hdram, -, -, -, -, hsync, -⟩ := State.mayIssue_frame hi
      refine ⟨_, _, exec_syncTest_value hi hlegal hsrc hdst hmask href, State.group_putGroup_same _ _ _ _, fun n => ?_, rfl, rfl, rfl, ?_, ?_⟩
      · rw [State.syncObj, State.syncObj, ← hsync]
        exact Group.sreg_setSreg g (wDst w) n _
      · simp only [State.putGroup_fields]
        exact hsync
      · simp only [State.putGroup_fields]
        exact hdram
    · obtain ⟨-, -, -, -, hctxs, -, hsync, -⟩ := State.mayIssue_frame hi
      have hctx := State.ctx_congr hctxs g.ctx
      obtain ⟨f, hf, hcode, hdetail, hwhere, hstopped, hwaits⟩ := State.waitDenied_facts (tile := tile) (slot := slot) (p := p) (w := w) r
        (hctx ▸ hst) (hctx ▸ hnone)
      exact ⟨_, f, exec_syncWait_denied hi hlegal hdst href, hf, hcode, hdetail, hwhere, hstopped, by rw [hwaits, hsync]⟩
    · obtain ⟨-, -, -, -, hctxs, -⟩ := State.mayIssue_frame hi
      have hctx := State.ctx_congr hctxs g.ctx
      obtain ⟨f, hf, hcode, hdetail, -, hstopped, -⟩ := State.waitDenied_facts (tile := tile) (slot := slot) (p := p) (w := w) r
        (hctx ▸ hst) (hctx ▸ hnone)
      exact ⟨_, f, exec_syncTest_denied hi hlegal hsrc hdst href, hf, hcode, hdetail, hstopped⟩
  · intro s id tile uid slot dst lost w g hfind hhandle hone hwho hslot hg huid hhold hpoison hkind howner
    obtain ⟨hmem, hid, hmoving⟩ := State.waitFound hfind
    have hreg := s.registerWait_eq w hpoison
    refine ⟨fun hmet => ?_, fun hunmet hroom hwait => ?_, fun hunmet hroom hwait hfree => ?_, fun hunmet hfull hwait => ?_⟩
    · rw [if_pos hmet, hid] at hreg
      have hexec := exec_waitRegistration_own hfind hhandle hone hwho hkind howner (st := .wake 0) (by rw [hreg]; rfl) (.inl rfl)
      have hdone := State.completeWait_group (s := s.setWait id (.wake 0)) (w := { w with state := .wake 0 }) hwho hslot hg
        (hid ▸ hhold) 0 (status := 0) (.inr (by decide))
      rw [if_pos rfl, hreg, hdone] at hexec
      obtain ⟨hgroup, hsync, hdram⟩ := State.woken_facts (v := (s.setWait id (.wake 0)).withoutWait w.id) (dst := dst) (status := 0)
        (at_ := 0) rfl hg huid
      refine ⟨_, _, hexec, hgroup, (Group.sreg_woken ..).trans (if_pos rfl), fun n hn => (Group.sreg_woken ..).trans (if_neg hn), rfl, rfl,
        rfl, rfl, ?_, ?_, hdram⟩
      · rw [hsync, hid]
        exact filter_setWaits
      · rw [hsync]
        rfl
    · rw [if_neg (Nat.not_le.mpr hunmet), if_pos hroom] at hreg
      have hexec := exec_waitRegistration_own hfind hhandle hone hwho hkind howner (st := .pooled) (by rw [hreg, ← hid]; rfl) (.inr (.inl rfl))
      rw [if_neg nofun, hreg, State.deschedule_stays (s.homes_only w).1 hslot hg (.inl hwait)] at hexec
      have hobj := s.syncObj_poolWait w
      exact ⟨_, hexec, rfl, fun x hx hxid => state_of_mem_setWaits (id := w.id) hx (hxid.trans hid.symm), by rw [hobj], by rw [hobj], rfl⟩
    · rw [if_neg (Nat.not_le.mpr hunmet), if_pos hroom] at hreg
      have hexec := exec_waitRegistration_own hfind hhandle hone hwho hkind howner (st := .pooled) (by rw [hreg, ← hid]; rfl) (.inr (.inl rfl))
      rw [if_neg nofun, hreg] at hexec
      exact ⟨_, hexec, State.deschedule_leaves (s.homes_only w).1 hslot hg hwait hfree⟩
    · rw [if_neg (Nat.not_le.mpr hunmet), if_neg (Nat.not_lt.mpr hfull), if_neg (by rw [hmoving]; exact nofun)] at hreg
      have hexec := exec_waitRegistration_own hfind hhandle hone hwho hkind howner (st := .polling) (by rw [hreg, ← hid]; rfl) (.inr (.inr rfl))
      rw [if_neg nofun, hreg, State.deschedule_stays (s.homes_only w).2.1 hslot hg (.inl hwait)] at hexec
      exact ⟨_, hexec, rfl, fun x hx hxid => state_of_mem_setWaits (id := w.id) hx (hxid.trans hid.symm), rfl⟩
  · intro s id tile uid slot dst st lost w g hfind hwst hwho hslot hg huid hhold
    have hexec : exec (.syncWake id) s = .next (s.completeWait w st (s.due 4)) := by
      rw [exec_syncWake, execSyncWake, hfind]
      dsimp only
      rw [hwst]
    refine ⟨fun hstatus => ?_, fun hlost hst hres hnone => ?_⟩
    · rw [State.completeWait_group hwho hslot hg hhold (s.due 4) hstatus] at hexec
      obtain ⟨hgroup, hsync, hdram⟩ := State.woken_facts (v := s.withoutWait w.id) (dst := dst) (status := st)
        (at_ := s.due 4) rfl hg huid
      obtain ⟨hstay, hidle⟩ := State.becomePending_facts (s := s)
        (v := (s.withoutWait w.id).modGroup tile uid (fun g => g.woken dst st (s.due 4))) rfl rfl g.ctx
      exact ⟨_, _, hexec, hgroup, (Group.sreg_woken ..).trans (if_pos rfl), fun n hn => (Group.sreg_woken ..).trans (if_neg hn), rfl, rfl,
        rfl, rfl, rfl, congrArg Sync.waits hsync, hdram, hstay, hidle⟩
    · subst hst
      rw [State.completeWait_lost hwho hslot hg hhold (s.due 4) hlost] at hexec
      have hstop : ((s.withoutWait w.id).ctx g.ctx).st.stoppable = true := by
        rw [show (s.withoutWait w.id).ctx g.ctx = s.ctx g.ctx from rfl, hres]
        rfl
      obtain ⟨b, hb⟩ := State.group_takeFault hstop (s.ownerLost tile uid g) (show (s.withoutWait w.id).group tile slot = some g from hg)
      exact ⟨_, _, hexec, State.fault_takeFault hstop hnone none _, rfl, State.takeFault_stopped hstop _, _, hb, rfl⟩
  · intro s id w hfind hpoison
    have hid : w.id = id := by
      have hfound := List.find?_some hfind
      exact eq_of_beq ((Bool.and_eq_true _ _).mp hfound).1
    have hpolling : w.state = .polling := by
      have hfound := List.find?_some hfind
      exact of_decide_eq_true ((Bool.and_eq_true _ _).mp hfound).2
    have hexec : exec (.waiterPoll id) s = .next (s.registerWait w) := by
      rw [exec_waiterPoll, execWaiterPoll, hfind]
    have hreg := s.registerWait_eq w hpoison
    refine ⟨fun hmet => ?_, fun hunmet hfull => ?_⟩
    · rw [if_pos hmet, hid] at hreg
      rw [hreg] at hexec
      exact ⟨_, hexec, fun x hx hxid => state_of_mem_setWaits hx hxid, rfl, rfl⟩
    · rw [if_neg (Nat.not_le.mpr hunmet), if_neg (Nat.not_lt.mpr hfull), if_pos hpolling] at hreg
      rw [hexec, hreg]
  · intro s c x w hstandby hctxs hres hnone hw hc hst hpast
    have hctx : s.ctx c = x := by rw [State.ctx, hctxs]; exact if_pos rfl
    have hlive : s.liveCtxs = [c] := by
      rw [State.liveCtxs, hctxs]
      simp [hres]
    obtain ⟨e, he, hsince⟩ := watchedWaits_pooled s hw hc hst
    obtain ⟨b, hb, hold⟩ := oldestPast_some (now := s.hal.ms + 1) (limit := x.waitWdog) he (by rw [hsince]; exact hpast)
    have hctx' : s.oneMs.ctx c = x := (State.ctx_congr (s := s) (by rw [State.oneMs_frame]) c).trans hctx
    have hexam : s.oneMs.examineCtx c = s.oneMs.takeFault c none b.2 := by
      rw [State.examineCtx, State.watchedWaits_oneMs, State.oneMs_ms, hctx', hold]
      dsimp only
      rw [hres]
      rfl
    have hstop : (s.oneMs.ctx c).st.stoppable = true := by rw [hctx', hres]; rfl
    refine ⟨s.oneMs.takeFault c none b.2, _, ?_, by simp [State.oneMs_ms], State.fault_takeFault hstop (by rw [hctx']; exact hnone) none _,
      watchedWaits_code s c hb, State.takeFault_stopped hstop _, ?_⟩
    · rw [exec_waitWatchdogExamination_examine hstandby, hlive, List.foldl_cons, List.foldl_nil, hexam]
    · have hdram : (s.oneMs.takeFault c none b.2).dram = s.oneMs.dram := by simp
      rw [hdram, State.oneMs_frame]
  · intro s hstandby hquiet
    have hexam : s.liveCtxs.foldl State.examineCtx s.oneMs = s.oneMs := by
      refine State.foldl_examineCtx_quiet _ (fun c hc => ?_)
      rw [State.watchedWaits_oneMs, State.oneMs_ms, State.ctx_congr (s := s) (by rw [State.oneMs_frame]) c]
      exact hquiet c hc
    refine ⟨s.oneMs, ?_, s.oneMs_ms, by rw [State.oneMs_frame], by rw [State.oneMs_frame], by rw [State.oneMs_frame], s.oneMs_remaining⟩
    rw [exec_waitWatchdogExamination_examine hstandby, hexam]
  · intro s hstandby
    rw [exec_waitWatchdogExamination, execWaitWatchdogExamination, hstandby]
    rfl

end Sys2Proof.Machine
end

section
/-! Matrix instructions at their issue (R86 to R90, R104 to R107): the paths of a group meet, and the array takes the command. -/

namespace Sys2Proof.Machine

theorem exec_matrix {tile slot op : Nat} {w : Word64} {i : Instr} (h : (i, op) ∈ matrixInstrs tile slot w) (s : State) :
    exec i s = .next (s.matrix tile slot op w) := by
  simp only [matrixInstrs, List.mem_cons, Prod.mk.injEq, List.not_mem_nil, or_false] at h
  rcases h with ⟨rfl, rfl⟩ | ⟨rfl, rfl⟩ | ⟨rfl, rfl⟩ | ⟨rfl, rfl⟩ | ⟨rfl, rfl⟩ | ⟨rfl, rfl⟩ | ⟨rfl, rfl⟩ | ⟨rfl, rfl⟩ <;> rfl

theorem State.matrix_off {s : State} (h : s.running = false) (tile slot op : Nat) (w : Word64) : s.matrix tile slot op w = s := by
  rw [State.matrix, h]
  rfl

/-! ## A path reaches a matrix instruction (R86, R87) -/

/-- In RUN the group's current path `p` has the turn, and its line is in the instruction cache. -/
def State.reaches (s : State) (tile slot : Nat) (g : Group) (p : Path) : Prop :=
  s.running = true ∧ s.group tile slot = some g ∧ g.stopped = false ∧ g.hold = .none ∧ g.cur = some p ∧ g.issued < 16 ∧
  (s.tile tile).iHit (p.pc.toNat / 128) = true

/-- The whole group is at the instruction: it issues once its sources are final and the array takes it (R86, R88, R90). -/
def State.matrixWhole (s : State) (tile slot op : Nat) (w : Word64) (g : Group) (p : Path) : State :=
  match s.blockOf tile g with
  | none => s
  | some b =>
    if never ≤ g.readyAll (matrixKeys op w) then s
    else
      let u := s.issueFrom tile slot (g.readyAll (matrixKeys op w))
      if !matrixWord op w then u.illegal tile slot g p
      else if !(u.tile tile).array.accepts g.uid ∨
          u.owned tile 0 (2 + matrixTicks (u.tile tile).array.view (s.matrixCmd g b slot op w)) then s
      else u.matrixIssue tile slot g p b (s.matrixCmd g b slot op w)

/-- Path `p` is at the instruction: it diverges from another, waits for one, or is the group's last (R86, R87). -/
def State.matrixAt (s : State) (tile slot op : Nat) (w : Word64) (g : Group) (p : Path) : State :=
  match g.divergent p with
  | some q => s.divergence tile slot g p q
  | none =>
    if g.othersOut p then s.finish tile slot (g.parkAt p .matrix s.hal.ms).endTurn
    else s.matrixWhole tile slot op w { g with paths := [{ p with mask := g.live, park := .no }]
                                               turn := ({ p with mask := g.live, park := .no } : Path).low }
      { p with mask := g.live, park := .no }

theorem Group.cur_first {g : Group} {p : Path} {r : List Path} (hpaths : g.paths = p :: r) (hpark : p.park = .no)
    (hturn : g.turn = p.low) : g.cur = some p := by
  rw [Group.cur, hpaths]
  exact List.find?_cons_of_pos (by simp [hturn, hpark])

section
variable {s : State} {tile slot op : Nat} {w : Word64} {g : Group} {p q : Path} (h : s.reaches tile slot g p)
include h

theorem State.reaches_atTurn : g.atTurn = g := by
  obtain ⟨-, -, -, -, hcur, hissued, -⟩ := h
  rw [Group.atTurn, hcur, decide_eq_true hissued]
  rfl

theorem State.reaches_ready : s.ready tile slot = some (g, p) := by
  have hturn := State.reaches_atTurn h
  obtain ⟨hrun, hg, hstop, hhold, hcur, -, -⟩ := h
  rw [State.ready, hrun, hg, if_neg (by decide)]
  dsimp only
  rw [hstop, hhold, if_neg (by decide), hturn, hcur]
  rfl

theorem State.matrix_reached : s.matrix tile slot op w = s.matrixAt tile slot op w g p := by
  have hpath : g.matrixPath = some (g, p) := by
    unfold Group.matrixPath
    rw [State.reaches_atTurn h]
    obtain ⟨-, -, -, -, hcur, -⟩ := h
    dsimp only
    rw [hcur]
  obtain ⟨hrun, hg, hstop, hhold, -, -, hline⟩ := h
  unfold State.matrix
  rw [hrun, hg, if_neg (by decide)]
  dsimp only
  rw [hstop, hhold, if_neg (by decide), hpath]
  dsimp only
  rw [hline]
  rfl

/-- R87: a path parked at another matrix instruction. -/
theorem State.matrix_diverges (hd : g.divergent p = some q) : s.matrix tile slot op w = s.divergence tile slot g p q := by
  rw [State.matrix_reached h, State.matrixAt, hd]

/-- R86: another path is not yet here. -/
theorem State.matrix_parks (hd : g.divergent p = none) (ho : g.othersOut p = true) :
    s.matrix tile slot op w = s.finish tile slot (g.parkAt p .matrix s.hal.ms).endTurn := by
  rw [State.matrix_reached h, State.matrixAt, hd]
  exact if_pos ho

end

/-! ## A group of one path issues (R86, R105) -/

section
variable {s u : State} {tile slot op : Nat} {w : Word64} {g : Group} {p : Path} {b : Block}

section
variable (h : s.reaches tile slot g p) (hpaths : g.paths = [p]) (hpark : p.park = .no) (hturn : g.turn = p.low)
  (hb : s.blockOf tile g = some b) (hfinal : g.readyAll (matrixKeys op w) < never)
include h hpaths hpark hturn hb hfinal

theorem State.matrix_whole (hu : u = s.issueFrom tile slot (g.readyAll (matrixKeys op w))) : s.matrix tile slot op w =
    if !matrixWord op w then u.illegal tile slot g p
    else if !(u.tile tile).array.accepts g.uid ∨
        u.owned tile 0 (2 + matrixTicks (u.tile tile).array.view (s.matrixCmd g b slot op w)) then s
    else u.matrixIssue tile slot g p b (s.matrixCmd g b slot op w) := by
  have hlive : g.live = p.mask := by
    rw [Group.live, hpaths]
    simp
  have hp : ({ p with mask := p.mask, park := .no } : Path) = p := by rw [← hpark]
  have hg : ({ g with paths := [p], turn := p.low } : Group) = g := by rw [← hpaths, ← hturn]
  have hd : g.divergent p = none := by
    rw [Group.divergent, hpaths]
    simp [hpark]
  have ho : g.othersOut p = false := by
    rw [Group.othersOut, hpaths]
    simp
  rw [State.matrix_reached h, State.matrixAt, hd]
  dsimp only
  rw [ho, if_neg (by decide), hlive, hp, hg, State.matrixWhole, hb]
  dsimp only
  rw [if_neg (Nat.not_le.mpr hfinal), ← hu]

theorem State.matrix_illegal (hword : matrixWord op w = false) :
    s.matrix tile slot op w = (s.issueFrom tile slot (g.readyAll (matrixKeys op w))).illegal tile slot g p := by
  rw [State.matrix_whole h hpaths hpark hturn hb hfinal rfl, hword]
  rfl

end

theorem matrixWord_false (h : wClass w ≠ 8 ∨ wOp w ≠ op ∨ wPred w ≠ 7 ∨ wHint w ≠ 0) : matrixWord op w = false := by
  rcases h with h | h | h | h <;> simp [matrixWord, h]

/-! ## The array takes the command (R88, R90, R104) -/

section
variable (h : s.mayQueue tile slot op w g p b u)
include h

theorem State.mayQueue_reaches : s.reaches tile slot g p := by
  obtain ⟨hrun, hg, hstop, hhold, hpaths, hpark, -, hturn, hissued, hline, -⟩ := h
  exact ⟨by rw [State.running, hrun]; rfl, hg, hstop, hhold, Group.cur_first hpaths hpark hturn, hissued, hline⟩

/-- A command that may be queued is an instruction that may issue. -/
theorem State.mayQueue_mayIssue : s.mayIssue tile slot (matrixKeys op w) g p u := by
  have hready := State.reaches_ready (State.mayQueue_reaches h)
  obtain ⟨-, -, -, -, -, -, -, -, -, hline, -, -, hfinal, hu, -⟩ := h
  exact ⟨hready, hline, hfinal, hu⟩

theorem State.matrix_queued : s.matrix tile slot op w = u.matrixIssue tile slot g p b (s.matrixCmd g b slot op w) := by
  have hreach := State.mayQueue_reaches h
  have hmay := State.mayQueue_mayIssue h
  have htile := State.mayIssue_tile hmay
  obtain ⟨-, -, -, -, -, -, -, -, -, -, -, -, -, -, -, htimed, -⟩ := State.mayIssue_frame hmay
  obtain ⟨-, -, -, -, hpaths, hpark, -, hturn, -, -, hb, hword, hfinal, hu, haccepts, hclaimed⟩ := h
  have harray : (u.tile tile).array = (s.tile tile).array := by rw [htile]
  have hfree : ∀ n, u.owned tile 0 n = false := fun n => by
    have hc : u.claimed tile true = s.claimed tile true := by
      rw [State.claimed, State.claimed, htimed, htile]
    rw [State.owned, show (0 != 2) = true from rfl, hc, hclaimed]
    rfl
  rw [State.matrix_whole hreach hpaths hpark hturn hb hfinal hu, hword, if_neg (by decide), harray, haccepts, hfree]
  rfl

/-- The array as the command finds it. -/
theorem State.mayQueue_array : (u.tile tile).array = (s.tile tile).array := by
  rw [State.mayIssue_tile (State.mayQueue_mayIssue h)]

theorem State.matrix_faults {e : Code × Nat} (hfault : matrixFault (s.tile tile).array.view
      (((s.tile tile).array.holder == some g.uid) && (s.tile tile).array.loaded) (s.tile tile).array.diag b.size
      (s.matrixCmd g b slot op w) = some e) : s.matrix tile slot op w = u.preciseAt tile slot g p e.1 0 e.2 := by
  rw [State.matrix_queued h, State.matrixIssue, State.mayQueue_array h, hfault]

/-- What the group of a command is left with: an MBREAD's registers are not ready until the command has begun. -/
def Group.queued (g : Group) (op : Nat) (w : Word64) : Group :=
  if op = mBread then (g.readyOn (keyV (wDst w)) never).readyOn (keyV ((wDst w + 1) % 128)) never else g

theorem State.matrix_accepted (hfault : matrixFault (s.tile tile).array.view
      (((s.tile tile).array.holder == some g.uid) && (s.tile tile).array.loaded) (s.tile tile).array.diag b.size
      (s.matrixCmd g b slot op w) = none) : s.matrix tile slot op w =
    (u.modTile tile (fun x => { x with array := x.array.accept (s.matrixCmd g b slot op w) u.wet.toNat })).putGroup tile slot
      ((g.queued op w).wentOn p) := by
  have hmask : p.mask ≠ 0 := by
    obtain ⟨-, -, -, -, -, -, hmask, -⟩ := h
    exact hmask
  have hpark := (State.mayIssue_path (State.mayQueue_mayIssue h)).2.1
  rw [State.matrix_queued h, State.matrixIssue, State.mayQueue_array h, hfault]
  exact State.finish_step _ tile slot hmask hpark 8

end

end

theorem Group.queued_frame (g : Group) (op : Nat) (w : Word64) : g.queued op w = { g with ready := (g.queued op w).ready } := by
  unfold Group.queued
  split <;> rfl

/-- R104: a MEND with nothing queued releases the array at once; any other command joins the queue. -/
theorem MArray.accept_queued {a : MArray} {c : MCmd} (t : Nat) (h : c.op ≠ mEnd ∨ a.cmds ≠ []) : a.accept c t =
    { a with holder := some c.uid, loaded := ((a.holder == some c.uid) && a.loaded) || c.op == mLoad
             cmds := a.cmds ++ [{ c with tick := t }] } := by
  refine if_neg (fun hend => ?_)
  rcases h with h | h
  · exact h hend.1
  · exact h hend.2

theorem MArray.accept_released {a : MArray} {c : MCmd} (t : Nat) (hop : c.op = mEnd) (hcmds : a.cmds = []) :
    a.accept c t = { a with holder := none, loaded := false } :=
  (if_pos ⟨hop, hcmds⟩).trans (if_pos rfl)

section
variable {s u : State} {tile slot : Nat} {keys : List Nat} {g k : Group} {p : Path} (f : MArray → MArray)
  (h : s.mayIssue tile slot keys g p u)
include h

/-- A change of the array and of one group: nothing else of the tile, and no other tile, changes. -/
theorem State.arrayGroup_facts : ∃ t, (u.modTile tile (fun x => { x with array := f x.array })).putGroup tile slot k = t ∧
    t.group tile slot = some k ∧ (t.tile tile).array = f (u.tile tile).array ∧
    (∀ n, n ≠ slot → t.group tile n = s.group tile n) ∧ (∀ j, j ≠ tile → t.tile j = s.tile j) ∧
    (t.tile tile).scratch = (s.tile tile).scratch ∧ t.dram = s.dram ∧ t.ctxs = s.ctxs ∧ t.wet = u.wet := by
  obtain ⟨-, hdram, -, -, hctxs, -⟩ := State.mayIssue_frame h
  have hmod : (u.modTile tile (fun x => { x with array := f x.array })).tile tile =
      { u.tile tile with array := f (u.tile tile).array } := by rw [State.tile_modTile, if_pos rfl]
  refine ⟨_, rfl, State.group_putGroup_same _ _ _ _, ?_, fun n hn => ?_, fun j hj => ?_, ?_, ?_, ?_, ?_⟩
  · rw [State.tile_putGroup, if_pos rfl, hmod]
  · rw [State.group_putGroup, if_neg hn]
    refine State.group_congr ?_ n
    rw [hmod, State.mayIssue_tile h]
  · rw [State.tile_putGroup_other _ _ _ hj, State.tile_modTile_other _ _ _ hj, State.mayIssue_tile_other h hj]
  · rw [State.scratch_putGroup, hmod]
    exact State.mayIssue_scratch h tile
  · simp [hdram]
  · simp [hctxs]
  · simp

end

/-- R87: the precise fault of two paths at different matrix instructions names both. -/
theorem State.divergence_facts {s : State} (tile slot : Nat) {g : Group} (p q : Path) (hst : (s.ctx g.ctx).st = .resident)
    (hnone : (s.ctx g.ctx).fault = none) : ∃ f, ((s.divergence tile slot g p q).ctx g.ctx).fault = some f ∧
      f.code = .matrixDivergence ∧ f.where' = p.pc ∧ f.lanes = p.mask ∧ f.address2 = q.pc ∧ f.lanes2 = q.mask ∧
      ((s.divergence tile slot g p q).ctx g.ctx).st = .stopped ∧
      ((s.divergence tile slot g p q).tile tile).array.basin = (s.tile tile).array.basin := by
  have hstop : (s.ctx g.ctx).st.stoppable = true := by rw [hst]; rfl
  refine ⟨_, State.fault_takeFault hstop hnone none _, rfl, rfl, rfl, rfl, rfl, State.takeFault_stopped hstop _, ?_⟩
  rw [State.divergence, State.tile_takeFault hstop, Tile.stopFor_frame]

/-- Settles O35: the last path of a group issues, and its command joins the queue; an earlier one parks or diverges. -/
theorem matrixInstructionsQueueForTheArray : Obligations.MatrixInstructionsQueueForTheArray := by
  refine ⟨?_, ?_, ?_, ?_, ?_, ?_⟩
  · rintro s u tile slot op w g p b i _ hi h rfl hfault hjoins
    obtain ⟨t, ht, hgroup, harray, hslots, htiles, hscratch, hdram, hctxs, hwet⟩ := State.arrayGroup_facts
      (f := fun a => a.accept (s.matrixCmd g b slot op w) u.wet.toNat) (k := (g.queued op w).wentOn p) (State.mayQueue_mayIssue h)
    refine ⟨t, by rw [exec_matrix hi, State.matrix_accepted h hfault, ht], ?_, ?_, hslots, htiles, hscratch, hdram, hctxs, hwet⟩
    · obtain ⟨-, -, -, -, hpaths, -⟩ := h
      have hready : (g.queued op w).ready = if op = mBread
          then ((g.readyOn (keyV (wDst w)) never).readyOn (keyV ((wDst w + 1) % 128)) never).ready else g.ready := by
        unfold Group.queued
        split <;> rfl
      rw [hgroup, ← hready, Group.queued_frame, Group.wentOn, hpaths]
      simp
    · rw [harray, State.mayQueue_array h]
      exact MArray.accept_queued _ hjoins
  · rintro s u tile slot w g p b _ h rfl himm hcmds
    have hfault : matrixFault (s.tile tile).array.view (((s.tile tile).array.holder == some g.uid) && (s.tile tile).array.loaded)
        (s.tile tile).array.diag b.size (s.matrixCmd g b slot mEnd w) = none := by
      have hword : wImm (s.matrixCmd g b slot mEnd w).word = 0 := himm
      unfold matrixFault
      rw [show (s.matrixCmd g b slot mEnd w).op = mEnd from rfl, hword]
      rfl
    obtain ⟨t, ht, hgroup, harray, -, -, hscratch, hdram, -⟩ := State.arrayGroup_facts
      (f := fun a => a.accept (s.matrixCmd g b slot mEnd w) u.wet.toNat) (k := (g.queued mEnd w).wentOn p) (State.mayQueue_mayIssue h)
    have hi : (Instr.mend tile slot w, mEnd) ∈ matrixInstrs tile slot w := by simp [matrixInstrs]
    refine ⟨t, by rw [exec_matrix hi, State.matrix_accepted h hfault, ht], ?_, ?_, hscratch, hdram⟩
    · rw [harray, State.mayQueue_array h]
      exact MArray.accept_released _ rfl hcmds
    · obtain ⟨-, -, -, -, hpaths, -⟩ := h
      rw [hgroup, Group.queued, if_neg (by decide), Group.wentOn, hpaths]
      simp
  · rintro s u tile slot op w g p b i _ e hi h rfl hfault
    rw [exec_matrix hi, State.matrix_faults h hfault]
  · intro s tile slot op w g p b i hi hrun hg hstop hhold hpaths hpark _ hturn hissued hline hb hfinal hword
    have hreach : s.reaches tile slot g p :=
      ⟨by rw [State.running, hrun]; rfl, hg, hstop, hhold, Group.cur_first hpaths hpark hturn, hissued, hline⟩
    rw [exec_matrix hi, State.matrix_illegal hreach hpaths hpark hturn hb hfinal (matrixWord_false hword)]
  · intro s tile slot op w g p q i hi hrun hg hstop hhold hpaths hpark hmask hturn hissued hqp hline
    have hreach : s.reaches tile slot g p :=
      ⟨by rw [State.running, hrun]; rfl, hg, hstop, hhold, Group.cur_first hpaths hpark hturn, hissued, hline⟩
    refine ⟨fun hq => ?_, fun hq hpc hst hnone => ?_⟩
    · have hd : g.divergent p = none := by
        rw [Group.divergent, hpaths]
        simp [hpark, hq]
      have ho : g.othersOut p = true := by
        rw [Group.othersOut, hpaths]
        simp [hqp, hq]
      have hparked : (g.parkAt p .matrix s.hal.ms).endTurn = { g with
          paths := [q, { p with park := .matrix }], since := s.hal.ms, issued := 16 } := by
        rw [Group.endTurn, Group.parkAt, Group.replace_one (by exact hmask), hpaths]
        simp [hpark, hq, hqp]
      rw [exec_matrix hi, State.matrix_parks hreach hd ho, hparked]
      exact congrArg _ (State.finish_running s tile slot ⟨q, List.mem_cons_self, hq⟩)
    · have hd : g.divergent p = some q := by
        rw [Group.divergent, hpaths]
        simp [hpark, hq, hpc]
      obtain ⟨f, hfacts⟩ := State.divergence_facts tile slot p q hst hnone
      exact ⟨_, f, by rw [exec_matrix hi, State.matrix_diverges hreach hd], hfacts⟩
  · intro s tile slot op w i hi hrun
    have hoff : s.running = false := by rw [State.running]; exact beq_eq_false_iff_ne.mpr hrun
    rw [exec_matrix hi, State.matrix_off hoff]

end Sys2Proof.Machine
end

section
/-! The row engine as a thread-plane operation (R81 to R83): what it reads and writes, when its tile lets it issue, and what it
faults on (R55, R82). -/

namespace Sys2Proof.Machine

theorem exec_rowEngine (tile slot : Nat) (op : RowOp) (len src dst : Nat) (w : Word64) (s : State) :
    exec (.rowEngine tile slot op len src dst w) s = execRowEngine tile slot op len src dst w s := rfl

/-! ## Functions and reductions (R155, R156) -/

/-- R155: a NaN gives the canonical NaN in every function. -/
theorem rowFnValue_nan (f : RowFn) {x : Word32} (h : (f32Val x).isNan = true) : rowFnValue f x = f32Nan := by
  have hnan : f32Val x = .nan := by
    cases hv : f32Val x with
    | nan => rfl
    | inf neg => rw [hv] at h; exact nomatch h
    | fin neg m e => rw [hv] at h; exact nomatch h
  unfold rowFnValue
  rw [hnan]

/-- Reductions give one element, functions one for each they are given. -/
theorem length_rowResult (op : RowOp) (a b : Word32) (xs : List Word32) :
    (rowResult op a b xs).length = rowOutLen op xs.length := by
  cases op with
  | elem f => exact List.length_map ..
  | reduce r => rfl
  | fused f => rfl

theorem length_flatMap_leBytes (ws : List Word32) : (ws.flatMap (fun x => leBytes 4 x.toNat)).length = 4 * ws.length := by
  induction ws with
  | nil => rfl
  | cons x r ih => rw [List.flatMap_cons, List.length_append, ih, length_leBytes, List.length_cons]; omega

/-- R155: the special values. -/
theorem rowFnValue_special :
    (rowFnValue .exp2 0x80000000 = 0x3F800000 ∧ rowFnValue .exp2 0xFF800000 = 0 ∧ rowFnValue .exp2 0x7F800000 = 0x7F800000 ∧
    rowFnValue .log2 0 = 0xFF800000 ∧ rowFnValue .log2 0xFF800000 = 0x7FC00000 ∧ rowFnValue .log2 0x7F800000 = 0x7F800000 ∧
    rowFnValue .recip 0 = 0x7F800000 ∧ rowFnValue .recip 0x80000000 = 0xFF800000 ∧ rowFnValue .recip 0xFF800000 = 0x80000000 ∧
    rowFnValue .recip 0x7F800000 = 0 ∧ rowFnValue .rsqrt 0 = 0x7F800000 ∧ rowFnValue .rsqrt 0x80000000 = 0xFF800000 ∧
    rowFnValue .rsqrt 0x7F800000 = 0 ∧ rowFnValue .rsqrt 0xBF800000 = 0x7FC00000) := by
  refine ⟨?_, ?_, ?_, ?_, ?_, ?_, ?_, ?_, ?_, ?_, ?_, ?_, ?_, ?_⟩ <;> rfl

/-- R156: the tree's combinations of few elements. -/
theorem rowReduce_few (a b c d : Word32) :
    rowReduce .sum [a, b, c, d] = canonNan (f32Add (f32Add a b) (f32Add c d)) ∧
    rowReduce .sum [a, b, c] = canonNan (f32Add (f32Add a b) c) ∧
    rowReduce .sumSq [a, b] = canonNan (f32Add (f32Mul a a) (f32Mul b b)) ∧ rowReduce .max [a, b] = canonNan (f32Max a b) :=
  by
  simp [rowReduce, chunks64, redTree, redLevel, redOp, List.range_succ]

/-! ## When its tile lets it issue (R83) -/

section
variable {s u : State} {tile slot : Nat} {keys : List Nat} {g : Group} {p : Path}

theorem State.claimed_congr {s t : State} {tile : Nat} (hflume : (t.tile tile).flume.active = (s.tile tile).flume.active)
    (htimed : t.timed = s.timed) (b : Bool) : t.claimed tile b = s.claimed tile b := by
  rw [State.claimed, State.claimed, hflume, htimed]

/-- What passes between two instructions claims no tile. -/
theorem State.mayIssue_claimed (h : s.mayIssue tile slot keys g p u) (b : Bool) : u.claimed tile b = s.claimed tile b :=
  State.claimed_congr (by rw [State.mayIssue_tile h]) (by
    obtain ⟨-, -, -, -, -, -, -, -, -, -, -, -, -, -, -, htimed, -⟩ := State.mayIssue_frame h
    exact htimed) b

/-- R83: a tile that no region claims keeps no row engine from the thread plane; scratch operands need no basin. -/
theorem State.rowMay_unclaimed (hclaim : u.claimed tile false = false) {src dst : Nat} (hsrc : src < 2 ^ 24) (hdst : dst < 2 ^ 24)
    (op : RowOp) (len base : Nat) : u.rowMay tile op len src dst base = true := by
  have howned : (u.waitWet (u.rowStart tile op len src dst base)).owned tile 2 ((len + 63) / 64) = false := by
    rw [State.owned, show ((2 : Nat) != 2) = false from rfl, State.claimed_congr (s := u) (by rw [State.tile_waitWet]) (by simp), hclaim,
      Bool.false_and]
  have hplaces : decide (rowBasin ≤ src) = false ∧ decide (rowBasin ≤ dst) = false :=
    ⟨decide_eq_false (Nat.not_le.mpr hsrc), decide_eq_false (Nat.not_le.mpr hdst)⟩
  rw [State.rowMay, State.rowOpen, howned, hplaces.1, hplaces.2]
  rfl

/-! ## The instruction (R81) -/

variable {op : RowOp} {len src dst : Nat} {w : Word64} {b : Block}

/-- At its tick: the checks of the word and of its operands, then the row. -/
theorem exec_rowEngine_due (h : s.mayIssue tile slot (scalarKeys w) g p u) (hb : u.blockOf tile g = some b)
    (hok : (rowFault op len src dst b.size).isSome = true ∨ u.rowMay tile op len src dst b.base = true) :
    exec (.rowEngine tile slot op len src dst w) s = .next (
      if !plainWord 9 0 w ∨ !scalarPair w then u.illegal tile slot g p else
      match rowFault op len src dst b.size with
      | some e => u.preciseAt tile slot g p e.1 0 e.2
      | none =>
        if g.active p w = 0 then u.finish tile slot (g.step p 8)
        else
          let v := u.waitWet (u.rowStart tile op len src dst b.base)
          (v.modTile tile (fun _ => (v.nowTile tile).runRow op len b.base src dst ((g.sreg (wA w)).truncate 32)
            ((g.sreg (wB w)).truncate 32) v.wet.toNat)).finish tile slot (g.step p 8)) := by
  rw [exec_rowEngine, execRowEngine, State.issueIf_due h, hb]
  exact congrArg _ (if_pos (by rw [Bool.or_eq_true]; exact hok))

theorem plainWord_scalarPair_false (hbad : wClass w ≠ 9 ∨ wHint w ≠ 0 ∨ wImm w ≠ 0 ∨ wA w < 64 ∨ wB w < 64) :
    !plainWord 9 0 w ∨ !scalarPair w := by
  simp only [plainWord, scalarPair, scalarField, Bool.not_eq_true', Bool.and_eq_false_iff, beq_eq_false_iff_ne,
    decide_eq_false_iff_not]
  omega

end

/-! ## Its effect on the tile -/

section
variable (x : Tile) (op : RowOp) {len base src dst : Nat} (a b : Word32) (t : Nat)

/-- The row read from scratch. -/
theorem Tile.rowRead_scratch (hsrc : src < 2 ^ 24) (n : Nat) : x.rowRead base src n =
    (List.range n).map (fun i => BitVec.ofNat 32 (leNat (tabRange x.scratch 0 (base + src + 4 * i) 4))) :=
  if_neg (Nat.not_le.mpr hsrc)

/-- The result written to scratch, the engine held for the row's chunks. -/
theorem Tile.runRow_scratch (hdst : dst < 2 ^ 24) : x.runRow op len base src dst a b t = { x with
    scratch := tabWrite x.scratch 0 (base + dst)
      ((rowResult op a b (x.rowRead base src len)).flatMap (fun w => leBytes 4 w.toNat))
    rowBusy := t + (len + 63) / 64
    rowOut := x.rowOut.filter (fun e => decide (t < e.2.2)) ++
      [(base + dst, base + dst + 4 * rowOutLen op len, t + (len + 63) / 64 - 1 + rowLatency op)] } := by
  have hscratch : ¬ rowBasin ≤ dst := Nat.not_le.mpr hdst
  rw [Tile.runRow, Tile.rowWrite, if_neg hscratch, rowPlace, if_neg hscratch]

/-- R81: bytes under way are ready when the last result that covers them is. -/
theorem Tile.outReady_last {x : Tile} {es : List (Nat × Nat × Nat)} {l r q lo hi : Nat} (hout : x.rowOut = es ++ [(l, r, q)])
    (hlo : lo < r) (hhi : l < hi) : q ≤ x.outReady lo hi := by
  rw [Tile.outReady, hout, List.foldl_append, List.foldl_cons, List.foldl_nil, if_pos ⟨hlo, hhi⟩]
  exact Nat.le_max_right _ _

end

/-! ## The obligation -/

/-- R82: a row has 1 to 65,536 elements. -/
theorem rowFault_length (op : RowOp) {len : Nat} (h : len = 0 ∨ 65536 < len) (src dst win : Nat) :
    rowFault op len src dst win = some (.illegalInstruction, 0) := by
  rw [rowFault, if_pos h]
  rfl

/-- A result without a fault is not empty. -/
theorem rowOutLen_pos {op : RowOp} {len src dst win : Nat} (h : rowFault op len src dst win = none) : 0 < rowOutLen op len := by
  by_cases hlen : len = 0 ∨ 65536 < len
  · rw [rowFault_length op hlen] at h
    exact nomatch h
  · cases op <;> simp only [rowOutLen] <;> omega

/-- R55: the row read lies in the window. -/
theorem rowFault_source (op : RowOp) {len src win : Nat} (hlen : 0 < len ∧ len ≤ 65536) (hsrc : src < 2 ^ 24)
    (hwin : win < src + 4 * len) (dst : Nat) : rowFault op len src dst win = some (.scratchBounds, src) := by
  rw [rowFault, if_neg (by omega)]
  dsimp only
  have hscratch : ¬ rowBasin ≤ src := Nat.not_le.mpr hsrc
  rw [if_neg hscratch, if_pos hwin]
  rfl

section
variable {s u v : State} {tile slot len src dst : Nat} {g : Group} {p : Path} {w : Word64} {b : Block} {op : RowOp}
  {xs : List Word32}

/-- R81: the row's result in its place, the engine held, and the path moved on; nothing else. -/
theorem exec_rowEngine_effect (h : s.mayIssue tile slot (scalarKeys w) g p u) (hword : plainWord 9 0 w = true)
    (hpair : scalarPair w = true) (hb : u.blockOf tile g = some b)
    (hfault : rowFault op len src dst b.size = none) (hsrc : src < 2 ^ 24) (hdst : dst < 2 ^ 24)
    (hclaim : s.claimed tile false = false) (hidle : (s.tile tile).array.idle = true)
    (hv : v = u.waitWet (u.rowStart tile op len src dst b.base))
    (hxs : xs = (List.range len).map (fun i => BitVec.ofNat 32 (leNat (s.scratchBytes tile (b.base + src + 4 * i) 4))))
    (hactive : g.active p w ≠ 0) : ∃ x : Tile,
      exec (.rowEngine tile slot op len src dst w) s = .next ((v.modTile tile (fun _ => x)).putGroup tile slot { g with
        paths := g.paths.filter (fun q => q != p) ++ [{ p with pc := p.pc + 8 }], issued := g.issued + 1 }) ∧
      x.scratch = tabWrite (s.tile tile).scratch 0 (b.base + dst)
        ((rowResult op ((g.sreg (wA w)).truncate 32) ((g.sreg (wB w)).truncate 32) xs).flatMap (fun y => leBytes 4 y.toNat)) ∧
      x.array = (s.tile tile).array ∧ x.rowBusy = v.wet.toNat + (len + 63) / 64 ∧
      ∃ es, x.rowOut = es ++ [(b.base + dst, b.base + dst + 4 * rowOutLen op len,
        v.wet.toNat + (len + 63) / 64 - 1 + rowLatency op)] := by
  have hv_tile : v.tile tile = u.tile tile := by rw [hv, State.tile_waitWet]
  have hv_idle : (v.tile tile).array.idle = true := by rw [hv_tile, State.mayIssue_tile h]; exact hidle
  have hread : (v.tile tile).rowRead b.base src len = xs := by
    rw [Tile.rowRead_scratch _ hsrc, hxs, hv_tile, State.mayIssue_scratch h]
    exact List.map_congr_left fun i _ => by rw [State.scratchBytes_idle hidle]
  refine ⟨(v.nowTile tile).runRow op len b.base src dst ((g.sreg (wA w)).truncate 32) ((g.sreg (wB w)).truncate 32)
    v.wet.toNat, ?_, ?_⟩
  · rw [exec_rowEngine_due h hb (.inr (State.rowMay_unclaimed ((State.mayIssue_claimed h false).trans hclaim) hsrc hdst op len b.base)),
      if_neg (by simp [hword, hpair]), hfault]
    dsimp only
    rw [if_neg hactive, State.finish_step _ tile slot (Group.mask_ne_zero hactive) (State.mayIssue_path h).2.1, ← hv]
    rfl
  · rw [State.nowTile_idle hv_idle, Tile.runRow_scratch _ _ _ _ _ hdst, hread]
    refine ⟨?_, ?_, rfl, _, rfl⟩
    · rw [hv_tile, State.mayIssue_scratch h]
    · rw [hv_tile, State.mayIssue_tile h]

end

/-- Settles O38: by the row's effect on its tile, the order of the checks and the reductions' shape. -/
theorem rowEngineWorksOnRows : Obligations.RowEngineWorksOnRows := by
  unfold Obligations.RowEngineWorksOnRows
  refine ⟨?_, ?_, ?_, fun op len src dst win hlen => rowFault_length op hlen src dst win,
    fun op len src dst win h1 h2 hsrc hwin => rowFault_source op ⟨h1, h2⟩ hsrc hwin dst, rowFnValue_special,
    fun f x => rowFnValue_nan f, rowReduce_few, fun _ _ _ _ => rfl, fun _ _ _ _ => rfl⟩
  · intro s u v tile slot len src dst g p w b op xs h hword hpair hmask hb hfault hsrc hdst hclaim hidle hv hxs
    refine ⟨fun hactive => ?_, fun hactive => ?_⟩
    · obtain ⟨x, hexec, hscratch, harray, hbusy, es, hout⟩ :=
        exec_rowEngine_effect h hword hpair hb hfault hsrc hdst hclaim hidle hv hxs hactive
      have hdram : v.dram = s.dram := by
        obtain ⟨-, hdram, -⟩ := State.mayIssue_frame h
        rw [hv]
        simpa using hdram
      have hlen : ((rowResult op ((g.sreg (wA w)).truncate 32) ((g.sreg (wB w)).truncate 32) xs).flatMap
          (fun y => leBytes 4 y.toNat)).length = 4 * rowOutLen op len := by
        rw [length_flatMap_leBytes, length_rowResult, hxs, List.length_map, List.length_range]
      have htile (y : Group) : ((v.modTile tile (fun _ => x)).putGroup tile slot y).tile tile =
          { x with groups := tabSet x.groups none slot (some y) } := by
        rw [State.tile_putGroup, if_pos rfl, State.tile_modTile, if_pos rfl]
      refine ⟨_, hexec, ?_, ?_, by simp, ?_, ?_, ?_, ?_, ?_, State.group_putGroup_same ..⟩
      · rw [State.scratchBytes_idle (by rw [htile]; exact (congrArg MArray.idle harray).trans hidle), htile]
        refine tabRange_eq hlen (fun i hi => ?_)
        rw [hscratch, tabGet_tabWrite, if_pos (by omega)]
        congr 1
        omega
      · intro n hn
        rw [htile, hscratch, tabGet_tabWrite, if_neg (by omega)]
      · rw [htile]
        exact hbusy
      · rw [htile]
        exact Tile.outReady_last hout (by have := rowOutLen_pos hfault; omega) (by omega)
      · rw [htile]
        exact harray
      · simpa using hdram
      · intro k hk
        rw [State.tile_putGroup_other _ _ _ hk, State.tile_modTile_other v tile k hk, hv, State.tile_waitWet,
          State.mayIssue_tile_other h hk]
    · have hok := State.rowMay_unclaimed ((State.mayIssue_claimed h false).trans hclaim) hsrc hdst op len b.base
      rw [exec_rowEngine_due h hb (.inr hok), if_neg (by simp [hword, hpair]), hfault]
      dsimp only
      rw [if_pos hactive, State.finish_step _ tile slot hmask (State.mayIssue_path h).2.1]
      rfl
  · intro s u tile slot len src dst g p w b op e h hb hfault
    rw [exec_rowEngine_due h hb (.inl (by rw [hfault]; rfl)), hfault]
    cases plainWord 9 0 w <;> cases scalarPair w <;> rfl
  · intro s u tile slot len src dst g p w b op h hb hclaim hsrc hdst hbad
    have hok := State.rowMay_unclaimed ((State.mayIssue_claimed h false).trans hclaim) hsrc hdst op len b.base
    rw [exec_rowEngine_due h hb (.inr hok), if_pos (plainWord_scalarPair_false hbad)]

end Sys2Proof.Machine
end

section
/-! The tile DMA engine's transfers (R84, R85, R90): where they start, what their start leaves, tests and waits, and what their
completion does. -/

namespace Sys2Proof.Machine

theorem exec_tileDmaStart (tile slot : Nat) (d : DmaSpec) (s : State) :
    exec (.tileDmaStart tile slot d) s = execTileDmaStart tile slot d s := rfl

theorem exec_tileDmaTestWait (tile slot entry : Nat) (wait : Bool) (w : Word64) (s : State) :
    exec (.tileDmaTestWait tile slot entry wait w) s = execTileDmaTestWait tile slot entry wait w s := rfl

theorem exec_tileDmaCompletion (tile entry : Nat) (s : State) :
    exec (.tileDmaCompletion tile entry) s = execTileDmaCompletion tile entry s := rfl

/-! ## Accesses on their way leave device memory as it is (R234) -/

section
variable (s : State)

theorem State.launch_dram (a : Access) : (s.launch a).dram = s.dram := by rw [(s.launch_facts a).1]

theorem State.sendFabric_dram (dev route : Nat) (op : FabOp) (access sync : Option Nat) (c : Nat) :
    (s.sendFabric dev route op access sync c).dram = s.dram := by rw [State.sendFabric_sendsOnly]

theorem State.flushLine_dram (dev n route c : Nat) : (s.flushLine dev n route c).dram = s.dram := by
  have hbegun : ((s.cisUndead dev n).stopFills dev n).dram = s.dram := by
    unfold State.cisUndead
    split <;> rfl
  unfold State.flushLine
  dsimp only
  split
  · next l _ =>
    refine Eq.trans ?_ hbegun
    unfold State.sendDirty
    split
    · rfl
    · exact State.sendFabric_dram ..
  · exact hbegun

theorem State.dmaStore_dram (a : Access) : (s.dmaStore a).dram = s.dram := by
  unfold State.dmaStore
  split
  · dsimp only
    rw [State.sendFabric_dram, State.launch_dram]
    exact foldl_field State.dram (fun u d => u.flushLine_dram d _ _ _) _ s
  · exact s.launch_dram a

theorem State.moveParts_dram {β : Type} (access : State → β → Access) (inbound : Bool) (l : List β) :
    (l.foldl (fun u p => if inbound then u.launch (access u p) else u.dmaStore (access u p)) s).dram = s.dram :=
  foldl_field State.dram (fun u p => by
    split
    · exact u.launch_dram _
    · exact u.dmaStore_dram _) l s

theorem State.dmaReach_dram (c : Nat) (store : Bool) (ps : List (Nat × Nat × Nat)) : (s.dmaReach c store ps).2.2.dram = s.dram := by
  unfold State.dmaReach
  refine foldl_field (fun acc : List (Nat × Nat × Nat) × Option (Code × Nat) × State => acc.2.2.dram) (fun acc p => ?_) _ _
  obtain ⟨ok, fault, u⟩ := acc
  cases fault with
  | some f => rfl
  | none =>
    dsimp only
    have h := congrArg State.dram (u.reachFault_translates c p.1 p.2.1 (ofBool store) (if store then .engineStore else .engineLoad))
    generalize u.reachFault c p.1 p.2.1 (ofBool store) (if store then .engineStore else .engineLoad) = z at h
    obtain ⟨f, v⟩ := z
    cases f with
    | some f => exact h
    | none =>
      dsimp only
      generalize v.hostPart c p.1 (ofBool store) _ = host
      cases host <;> exact h

end

/-! ## The start of a transfer (R84) -/

/-- `x'` is the tile `x` with the transfer `z` in entry `k` of its engine, and the ports' ticks. -/
def Tile.setsDma (x x' : Tile) (k : Nat) (z : Dma) : Prop :=
  x' = { x with dma := x'.dma, dmaIn := x'.dmaIn, dmaOut := x'.dmaOut } ∧
  ∀ e, tabGet x'.dma none e = if e = k then some z else tabGet x.dma none e

/-- The tick by which the transfer's bytes have passed the ports, after those before them. -/
def State.dmaDue (s : State) (tile : Nat) (t : Dma) : Nat :=
  max s.wet.toNat (if t.spec.inbound then (s.tile tile).dmaIn else (s.tile tile).dmaOut) + dmaTicks t.spec

section
variable {s u : State} {tile k : Nat} {t y z : Dma}

/-- A state in which transfer `z` stands in the entry, every other tile and device memory as they were. -/
def State.setsDma (s u : State) (tile k : Nat) (z : Dma) : Prop :=
  (s.tile tile).setsDma (u.tile tile) k z ∧ (∀ j, j ≠ tile → u.tile j = s.tile j) ∧ u.dram = s.dram

theorem State.setsDma.congr {v : State} (h : s.setsDma u tile k z) (htiles : v.tiles = u.tiles) (hdram : v.dram = u.dram) :
    s.setsDma v tile k z := by
  obtain ⟨hx, hother, hd⟩ := h
  refine ⟨?_, fun j hj => (State.tile_congr htiles j).trans (hother j hj), hdram.trans hd⟩
  rw [State.tile_congr htiles]
  exact hx

/-- The entry written once more. -/
theorem State.setsDma.again (h : s.setsDma u tile k z) :
    s.setsDma (u.modTile tile (fun x => { x with dma := tabSet x.dma none k (some y) })) tile k y := by
  obtain ⟨⟨hx, hget⟩, hother, hd⟩ := h
  refine ⟨⟨?_, fun e => ?_⟩, fun j hj => (u.tile_modTile_other tile j hj _).trans (hother j hj), by simpa using hd⟩
  · rw [State.tile_modTile, if_pos rfl, hx]
  · rw [State.tile_modTile, if_pos rfl, tabGet_tabSet, hget]
    split <;> rfl

/-- R84: the direction is taken and the entry written. -/
theorem State.takeDma_sets : (s.takeDma tile t none).2 = { t with due := s.dmaDue tile t } ∧
    s.setsDma ((s.takeDma tile t none).1.modTile tile (fun x => { x with dma := tabSet x.dma none k (some y) })) tile k y := by
  refine ⟨rfl, ⟨?_, fun e => ?_⟩, fun j hj => ?_, ?_⟩
  · unfold State.takeDma
    dsimp only
    rw [State.tile_modTile, if_pos rfl, State.tile_modTile, if_pos rfl]
    split <;> rfl
  · unfold State.takeDma
    dsimp only
    rw [State.tile_modTile, if_pos rfl, State.tile_modTile, if_pos rfl, tabGet_tabSet]
    split
    · rfl
    · split <;> rfl
  · rw [State.tile_modTile_other _ _ _ hj]
    exact State.tile_modTile_other _ _ _ hj _
  · simp [State.takeDma]

/-- R84: the started transfer stands in its entry, under a number of its own and with the fault it will stop at; no byte has
moved. -/
theorem State.startDma_sets (s : State) (tile k : Nat) (t : Dma) (seed : Word64 × Word64) :
    ∃ n f, s.setsDma (s.startDma tile k t seed none) tile k { t with due := s.dmaDue tile t, issue := n, fault := f } := by
  obtain ⟨hdue, hset⟩ := State.takeDma_sets (s := s) (tile := tile) (t := t) (k := k)
    (y := { t with due := s.dmaDue tile t, issue := (s.takeDma tile t none).1.nextId })
  unfold State.startDma
  generalize s.takeDma tile t none = q at hdue hset
  obtain ⟨v, t'⟩ := q
  dsimp only at hdue hset ⊢
  subst hdue
  cases hother : t.spec.other with
  | cluster rank off => exact ⟨_, _, hset⟩
  | memory va | prefetch va =>
    dsimp only
    generalize hw : State.fresh _ = w
    have hw_set : s.setsDma w tile k { t with due := s.dmaDue tile t, issue := v.nextId } := by
      rw [← hw]
      exact hset
    have htiles := w.dmaReach_tiles t.ctx (!t.spec.inbound) (dmaParts t.spec va)
    have hdram := w.dmaReach_dram t.ctx (!t.spec.inbound) (dmaParts t.spec va)
    generalize w.dmaReach t.ctx (!t.spec.inbound) (dmaParts t.spec va) = z at htiles hdram
    obtain ⟨ok, fault, u⟩ := z
    exact ⟨_, _, (hw_set.congr htiles hdram).again.congr (State.moveParts_tiles _ _ _ _) (State.moveParts_dram _ _ _ _)⟩

end

section
variable {s u : State} {tile slot entry : Nat} {g : Group} {p : Path}

/-- The engine's entries stand as time passes. -/
theorem State.mayIssue_dmaFree {keys : List Nat} (h : s.mayIssue tile slot keys g p u) :
    (u.tile tile).dmaFree = (s.tile tile).dmaFree := by
  rw [State.mayIssue_tile h]
  rfl

/-- R90: a tile that no region claims keeps nothing from the thread plane. -/
theorem State.owned_unclaimed (hclaim : u.claimed tile true = false) {resource : Nat} (hr : (resource != 2) = true) (n : Nat) :
    u.owned tile resource n = false := by
  rw [State.owned, hr, hclaim, Bool.false_and]

variable {d : DmaSpec} {b : Block}

/-- R84, R85: at its tick, with an entry free: the checks, then the start. -/
theorem exec_tileDmaStart_due (h : s.mayIssue tile slot [keyP (wPred d.word)] g p u) (hb : u.blockOf tile g = some b)
    (hfree : (s.tile tile).dmaFree = some entry) (hclaim : s.claimed tile true = false) :
    exec (.tileDmaStart tile slot d) s = .next (
      if wClass d.word ≠ 0xA then u.illegal tile slot g p
      else match u.dmaFault d b.size g.ctx (some b) with
      | some e => u.preciseAt tile slot g p e.1 0 e.2
      | none =>
        if g.active p d.word = 0 then u.finish tile slot (g.step p 8)
        else (u.startDma tile entry { spec := d, ctx := g.ctx, slot := slot, kern := g.kern, block := g.block, flume := none
                                      base := b.base, pc := p.pc, mask := p.mask, issue := 0, due := 0, fault := none }
          (u.seedOf g) none).finish tile slot (g.step p 8)) := by
  have howned : u.owned tile 1 (dmaTicks d) = false :=
    State.owned_unclaimed ((State.mayIssue_claimed h true).trans hclaim) (by decide) _
  rw [exec_tileDmaStart, execTileDmaStart, State.issueIf_due h, hb, howned, State.mayIssue_dmaFree h, hfree]
  rfl

/-- R84: with no free entry the group is not ready. -/
theorem exec_tileDmaStart_full (h : s.mayIssue tile slot [keyP (wPred d.word)] g p u) (hfull : (s.tile tile).dmaFree = none) :
    exec (.tileDmaStart tile slot d) s = .next s := by
  rw [exec_tileDmaStart, execTileDmaStart, State.issueIf_due h, State.mayIssue_dmaFree h, hfull]
  simp

end

/-! ## The faults of a start (R84, R85) -/

theorem State.dmaFault_shape (s : State) {d : DmaSpec} (h : dmaShape d = false) (win c : Nat) (b : Option Block) :
    s.dmaFault d win c b = some (.illegalInstruction, 0) := by
  rw [State.dmaFault, h]
  rfl

theorem State.dmaFault_window (s : State) {d : DmaSpec} {win : Nat} (hshape : dmaShape d = true) (h : dmaInWindow d win = false)
    (c : Nat) (b : Option Block) : s.dmaFault d win c b = some (.scratchBounds, d.scratch) := by
  rw [State.dmaFault, hshape, h]
  rfl

theorem dmaShape_false {d : DmaSpec} (h : d.rows = 0 ∨ 65536 < d.rows ∨ 1572864 < d.rows * d.rowLen) : dmaShape d = false := by
  rcases h with h | h | h
  · simp [dmaShape, h]
  · simp [dmaShape, Nat.not_le.mpr h]
  · simp [dmaShape, Nat.not_le.mpr h]

/-! ## Tests and waits (R84) -/

/-- A transfer of the group's context that a test finds under way. -/
def Tile.dmaBusy (x : Tile) (entry : Nat) (g : Group) : Bool :=
  match tabGet x.dma none entry with
  | some t => t.ctx == g.ctx && t.flume.isNone
  | none => false

/-! ## Completion (R84, R85, R193) -/

/-- R85: the transfer's accesses are over, its entry is free and the groups that wait for it go on. -/
def State.dmaOver (s : State) (tile entry : Nat) : State :=
  ({ s with flights := s.flights.filter (fun a => decide (a.who ≠ .dma tile entry)) } : State).modTile tile (fun x =>
    ({ x with dma := tabSet x.dma none entry none }).dmaWake entry)

/-- A waiting group of the entry goes on. -/
def wakeDma (entry : Nat) (g : Group) : Group := if g.hold = .dma entry then { g with hold := .none } else g

theorem Tile.group_dmaWake (x : Tile) (entry n : Nat) : (x.dmaWake entry).group n = (x.group n).map (wakeDma entry) :=
  tabGet_map x.groups (Option.map (wakeDma entry)) rfl n

/-- A counter is a block's: nothing but the tiles changes. -/
@[simp] theorem State.dmaCount_fields (s : State) (tile : Nat) (x : Dma) (k : Nat) :
    (s.dmaCount tile x k).flights = s.flights ∧ (s.dmaCount tile x k).dram = s.dram ∧ (s.dmaCount tile x k).ctxs = s.ctxs ∧
    (s.dmaCount tile x k).wet = s.wet := ⟨rfl, rfl, rfl, rfl⟩

/-- R85: a served transfer completed: its bytes in scratch, its counter one lower. -/
def State.dmaServed (s : State) (tile entry k : Nat) (x : Dma) (data : List Byte) : State :=
  (((s.scratchWrite tile (x.base + x.spec.scratch) data).dmaOver tile entry).dmaCount tile x k).tryReady

section
variable (s : State) (tile entry : Nat)

theorem State.tile_dmaOver : (s.dmaOver tile entry).tile tile =
    ({ s.tile tile with dma := tabSet (s.tile tile).dma none entry none } : Tile).dmaWake entry := by
  rw [State.dmaOver, State.tile_modTile, if_pos rfl]
  rfl

theorem State.dmaOver_free : tabGet ((s.dmaOver tile entry).tile tile).dma none entry = none := by
  rw [State.tile_dmaOver]
  exact (tabGet_tabSet (s.tile tile).dma none none entry entry).trans (if_pos rfl)

end

section
variable {s : State} {tile entry : Nat} {x : Dma}

/-- Nothing to complete: no transfer, a device that does not run, or an access under way. -/
theorem exec_tileDmaCompletion_early (h : tabGet (s.tile tile).dma none entry = none ∨ s.mod.state ≠ .run ∨
    (∃ a ∈ s.flights, a.who = .dma tile entry ∧ (a.stage = .moving ∨ a.stage = .waiting ∨ a.stage = .forwarded))) :
    exec (.tileDmaCompletion tile entry) s = .next s := by
  rw [exec_tileDmaCompletion, execTileDmaCompletion]
  cases hx : tabGet (s.tile tile).dma none entry with
  | none => rfl
  | some x =>
    refine if_pos ?_
    rcases h with h | h | ⟨a, ha, hwho, hstage⟩
    · rw [hx] at h
      exact nomatch h
    · exact .inl (by simpa [State.running] using h)
    · refine .inr (List.any_eq_true.mpr ⟨a, List.mem_filter.mpr ⟨ha, by simpa using hwho⟩, ?_⟩)
      rcases hstage with h | h | h <;> rw [Access.open_, h]

variable {a : Access} {va : Nat}
  (hx : tabGet (s.tile tile).dma none entry = some x) (hrun : s.mod.state = .run)
  (hparts : s.flights.filter (fun a => decide (a.who = .dma tile entry)) = [a]) (hflume : x.flume = none)
  (hother : x.spec.other = .memory va) (hin : x.spec.inbound = true) (hcompress : x.spec.compress ≠ 2)
include hx hrun hparts hflume hother hin hcompress

/-- A transfer from memory in one part that was served: its bytes in scratch, its counter one lower. -/
theorem exec_tileDmaCompletion_served {data : List Byte} {o : List Word64} {k : Nat} (hsignal : x.spec.signal = none)
    (hcounter : x.spec.counter = some k) (hfault : x.fault = none)
    (hpart : dmaParts x.spec va = [(va, x.spec.rowLen, x.spec.scratch)]) (hstage : a.stage = .served data o) :
    exec (.tileDmaCompletion tile entry) s = .next
      ((s.waitWet x.due).dmaServed tile entry k x data) := by
  have hopen : a.open_ = false := by rw [Access.open_, hstage]
  have hgood : a.fault = none := by rw [Access.fault, hstage]
  have hdata : a.data = data := by rw [Access.data, hstage]
  have hend : dmaEnd x [a] = none := by simp [dmaEnd, hgood, hfault]
  rw [exec_tileDmaCompletion, execTileDmaCompletion, hx]
  dsimp only
  rw [hparts, if_neg (by simp [State.running, hrun, hopen]), hend, hflume, hsignal, hcounter, hother, hin]
  dsimp only
  rw [if_pos rfl, State.dmaArrive, if_neg hcompress, hpart]
  simp only [List.takeWhile_cons, hgood, Option.isNone_none, if_true, List.takeWhile_nil, List.zip_cons_cons, List.zip_nil_left,
    List.foldl_cons, List.foldl_nil, hdata]
  rfl

/-- A part that comes back poisoned: no byte arrives, and the context stops. -/
theorem exec_tileDmaCompletion_poisoned (hstage : a.stage = .poisoned) : ∃ f,
    exec (.tileDmaCompletion tile entry) s = .next ((((s.waitWet x.due).dmaOver tile entry).takeFault x.ctx none f).tryReady) ∧
    f.code = .memUncorrectable ∧ f.deferred = true ∧ f.tile = tile ∧ f.slot = x.slot ∧ f.lanes = x.mask := by
  have hopen : a.open_ = false := by rw [Access.open_, hstage]
  have hbad : a.fault = some .memUncorrectable := by rw [Access.fault, hstage]
  have hend : dmaEnd x [a] = some (.memUncorrectable, a.va) := by simp [dmaEnd, hbad]
  have hrejected : rejectedAt [a] = none := by simp [rejectedAt, hbad, hstage]
  refine ⟨((s.waitWet x.due).dmaOver tile entry).dmaFaultRec tile x (.memUncorrectable, a.va), ?_, rfl, rfl, rfl, rfl, rfl⟩
  rw [exec_tileDmaCompletion, execTileDmaCompletion, hx]
  dsimp only
  rw [hparts, if_neg (by simp [State.running, hrun, hopen]), hend, hflume, hrejected, hother, hin]
  dsimp only
  rw [if_pos rfl, State.dmaArrive, if_neg hcompress]
  simp only [List.takeWhile_cons, hbad, Option.isNone_some, Bool.false_eq_true, if_false, List.zip_nil_left, List.foldl_nil]
  rfl

end

/-- R85: one completion fewer to wait for. -/
def countedDown (k : Nat) (b : Block) : Block :=
  { b with counters := tabSet b.counters 0 k ((tabGet b.counters 0 k + 2 ^ 32 - 1) % 2 ^ 32) }

theorem State.tile_dmaCount (s : State) (tile : Nat) (x : Dma) (k : Nat) : (s.dmaCount tile x k).tile tile =
    { s.tile tile with blocks := modIf (s.tile tile).blocks (fun b => b.kern == x.kern && b.index == x.block) (countedDown k) } := by
  rw [State.dmaCount, State.tile_modTile, if_pos rfl]
  rfl

section
variable {v : State} {tile entry k : Nat} (x : Dma) (data : List Byte)

theorem State.tile_dmaServed (hidle : (v.tile tile).array.idle = true) : (v.dmaServed tile entry k x data).tile tile =
    { ({ v.tile tile with dma := tabSet (v.tile tile).dma none entry none } : Tile).dmaWake entry with
      scratch := tabWrite (v.tile tile).scratch 0 (x.base + x.spec.scratch) data
      blocks := modIf (v.tile tile).blocks (fun b => b.kern == x.kern && b.index == x.block) (countedDown k) } := by
  rw [State.dmaServed, State.tile_tryReady, State.tile_dmaCount, State.tile_dmaOver, State.scratchWrite_tile hidle]
  rfl

theorem State.dmaServed_fields :
    (v.dmaServed tile entry k x data).flights = v.flights.filter (fun a => decide (a.who ≠ .dma tile entry)) ∧
    (v.dmaServed tile entry k x data).dram = v.dram ∧ (v.dmaServed tile entry k x data).ctxs = v.ctxs ∧
    (v.dmaServed tile entry k x data).wet = v.wet := by
  simp [State.dmaServed, State.dmaOver, State.scratchWrite]

end

/-- Settles O39: the start's entry, the checks in their order, and the completion's effect on the tile. -/
theorem tileDmaTransfersMoveTheirRows : Obligations.TileDmaTransfersMoveTheirRows := by
  unfold Obligations.TileDmaTransfersMoveTheirRows
  refine ⟨?_, fun s u tile slot g p d h => exec_tileDmaStart_full h, ?_, ?_, ?_, ?_, ?_, ?_,
    fun s tile entry h => exec_tileDmaCompletion_early h⟩
  · intro s u tile slot entry g p d b h hclass hmask hb hfree hclaim
    refine ⟨fun hfault hactive => ?_, fun e hfault => ?_⟩
    · let x : Dma := { spec := d, ctx := g.ctx, slot := slot, kern := g.kern, block := g.block, flume := none
                       base := b.base, pc := p.pc, mask := p.mask, issue := 0, due := 0, fault := none }
      obtain ⟨n, f, ⟨htile, hget⟩, hother, hdram⟩ := u.startDma_sets tile entry x (u.seedOf g)
      have hexec := exec_tileDmaStart_due h hb hfree hclaim
      rw [if_neg (by simp [hclass]), hfault] at hexec
      dsimp only at hexec
      rw [if_neg hactive, State.finish_wentOn h hmask] at hexec
      generalize u.startDma tile entry _ (u.seedOf g) none = v at hexec htile hget hother hdram
      have hdma (e : Nat) : tabGet ((v.putGroup tile slot (g.wentOn p)).tile tile).dma none e = tabGet (v.tile tile).dma none e := by
        rw [State.tile_putGroup, if_pos rfl]
      refine ⟨_, _, hexec, (hdma entry).trans ((hget entry).trans (if_pos rfl)), rfl, rfl, rfl, rfl, rfl, rfl, rfl, rfl, ?_, fun e he => ?_,
        fun k => ?_, ?_, State.group_putGroup_same ..⟩
      · rw [State.dmaDue, State.mayIssue_tile h]
      · rw [hdma, hget, if_neg he, State.mayIssue_tile h]
      · rw [State.scratch_putGroup, ← State.mayIssue_scratch h]
        by_cases hk : k = tile
        · rw [hk, htile]
        · rw [hother k hk]
      · obtain ⟨-, hd, -⟩ := State.mayIssue_frame h
        simpa using hdram.trans hd
    · rw [exec_tileDmaStart_due h hb hfree hclaim, if_neg (by simp [hclass]), hfault]
  · intro s u tile slot g p d b h hclass hb hfree hclaim
    obtain ⟨entry, hentry⟩ := Option.isSome_iff_exists.mp hfree
    rw [exec_tileDmaStart_due h hb hentry hclaim, if_pos hclass]
  · exact fun s d win c b => ⟨fun h => s.dmaFault_shape (dmaShape_false h) win c b,
      fun hshape hwin => s.dmaFault_window hshape hwin c b⟩
  · refine fun d va => ⟨fun h => ?_, fun h => ?_⟩
    · rw [dmaTicks, h]
      cases d.inbound <;> rfl
    · rw [dmaTicks, h]
  · intro s u tile slot entry g p w h hclass hmask hentry
    have hgo : ¬ (16 ≤ entry ∨ wClass w ≠ 0xA) := by omega
    have hpark : p.park = .no := (State.mayIssue_path h).2.1
    refine ⟨?_, fun hactive => ?_⟩
    · rw [exec_tileDmaTestWait, execTileDmaTestWait, State.issue_due h]
      dsimp only
      rw [if_neg hgo, if_pos rfl, State.finish_held u tile slot hmask hpark, State.mayIssue_tile h]
      rfl
    · obtain ⟨y, hfin, hy, hsreg, hpaths⟩ := u.finish_scalar tile slot hmask hpark (wDst w)
        (BitVec.ofNat 64 (ofBool (!(u.tile tile).dmaBusy entry g))) 8
      refine ⟨y, ?_, by rw [hy], by rw [hy], hpaths, fun n hn => (hsreg n).trans (if_neg hn), fun hfree => ?_,
        fun t ht hctx hflume => ?_⟩
      · rw [exec_tileDmaTestWait, execTileDmaTestWait, State.issue_due h]
        dsimp only
        rw [if_neg hgo, if_neg hactive]
        exact congrArg _ hfin
      · rw [hsreg, if_pos rfl, State.mayIssue_tile h, Tile.dmaBusy, hfree]
        rfl
      · rw [hsreg, if_pos rfl, State.mayIssue_tile h, Tile.dmaBusy, ht]
        simp [hctx, hflume, ofBool]
  · intro s u tile slot entry g p w wait h hbad
    rw [exec_tileDmaTestWait, execTileDmaTestWait, State.issue_due h]
    exact congrArg _ (if_pos hbad)
  · intro s tile entry va k x a data o hx hrun hregion hidle hparts hflume hsignal hother hin hcompress hcounter hfault hpart
    refine ⟨fun hstage hlen => ?_, fun hstage hst hnone => ?_⟩
    · have hv : (s.waitWet x.due).tile tile = s.tile tile := State.tile_waitWet ..
      have htile := State.tile_dmaServed (v := s.waitWet x.due) (entry := entry) (k := k) x data (by rw [hv]; exact hidle)
      rw [hv] at htile
      obtain ⟨hflights, hdram, hctxs, hwet⟩ :=
        State.dmaServed_fields (v := s.waitWet x.due) (tile := tile) (entry := entry) (k := k) x data
      refine ⟨_, exec_tileDmaCompletion_served hx hrun hparts hflume hother hin hcompress hsignal hcounter hfault hpart hstage,
        ?_, fun n hn => ?_, ?_, hwet, fun b hb hkern hblock => ?_, fun slot y hy => ?_, hflights.trans (by simp),
        hdram.trans (by simp), hctxs.trans (by simp)⟩
      · rw [State.scratchBytes_idle (by rw [htile]; exact hidle), htile, ← hlen]
        exact tabRange_tabWrite 0 data _ _
      · rw [htile]
        exact (tabGet_tabWrite 0 data _ _ n).trans (if_neg (by omega))
      · rw [htile]
        exact (tabGet_tabSet (s.tile tile).dma none none entry entry).trans (if_pos rfl)
      · rw [htile]
        exact List.mem_map.mpr ⟨b, hb, if_pos (by simp [hkern, hblock])⟩
      · rw [State.group, htile]
        exact (Tile.group_dmaWake (s.tile tile) entry slot).trans (by rw [show (s.tile tile).group slot = some y from hy]; rfl)
    · obtain ⟨f, hexec, hcode, hdef, hftile, hslot, hlanes⟩ :=
        exec_tileDmaCompletion_poisoned hx hrun hparts hflume hother hin hcompress hstage
      have hctx : ((s.waitWet x.due).dmaOver tile entry).ctx x.ctx = s.ctx x.ctx :=
        State.ctx_congr (by simp [State.dmaOver]) _
      have hstop : (((s.waitWet x.due).dmaOver tile entry).ctx x.ctx).st.stoppable = true := by rw [hctx, hst]; rfl
      have hfree := (s.waitWet x.due).dmaOver_free tile entry
      have hready (v : State) : v.tryReady.ctx x.ctx = v.ctx x.ctx := State.ctx_congr (by simp) _
      have htile {γ : Type} (q : Tile → γ) (hq : ∀ (y : Tile) l l', q { y with groups := l, saved := l' } = q y) :
          q ((((s.waitWet x.due).dmaOver tile entry).takeFault x.ctx none f).tryReady.tile tile) =
            q (((s.waitWet x.due).dmaOver tile entry).tile tile) := by
        rw [State.tile_tryReady, State.tile_takeFault hstop, Tile.stopFor_frame, hq]
      have hrecord := (congrArg Ctx.fault (hready _)).trans (State.fault_takeFault hstop (by rw [hctx, hnone]) none f)
      have hstopped := (congrArg Ctx.st (hready _)).trans (State.takeFault_stopped hstop f)
      refine ⟨_, _, hexec, hrecord, hcode, hdef, hftile, hslot, hlanes, hstopped, ?_, fun n => ?_⟩
      · rw [htile Tile.dma (fun _ _ _ => rfl)]
        exact hfree
      · rw [htile Tile.scratch (fun _ _ _ => rfl), State.tile_dmaOver, State.tile_waitWet]
        rfl

end Sys2Proof.Machine
end

section
/-! The order of a flume program's entries (R288, R290, R291, R293): what the next entry waits for, what ends the region instead,
and what a closed gated phase skips. -/

namespace Sys2Proof.Machine

/-- Each entry's command executes the next entry if it is of its kind. -/
theorem flumeEntries_entry (tile : Nat) (op : RowOp) (len src dst : Nat) (d : DmaSpec) :
    ∀ x ∈ flumeEntries tile op len src dst d, ∃ f, ∀ s, exec x.1 s = .next (s.entry tile x.2 f) := by
  simp only [flumeEntries, List.forall_mem_cons]
  exact ⟨⟨_, fun _ => rfl⟩, ⟨_, fun _ => rfl⟩, ⟨_, fun _ => rfl⟩, ⟨_, fun _ => rfl⟩, ⟨_, fun _ => rfl⟩, ⟨_, fun _ => rfl⟩,
    ⟨_, fun _ => rfl⟩, ⟨_, fun _ => rfl⟩, ⟨_, fun _ => rfl⟩, ⟨_, fun _ => rfl⟩, ⟨_, fun _ => rfl⟩, ⟨_, fun _ => rfl⟩,
    ⟨_, fun _ => rfl⟩, ⟨_, fun _ => rfl⟩, ⟨_, fun _ => rfl⟩, fun _ h => absurd h List.not_mem_nil⟩

section
variable {s : State} {tile kind : Nat} (f : State → Region → Entry → State)

/-- Without a running region, or with an entry of another kind next, nothing happens. -/
theorem State.entry_other (h : s.timed.region = none ∨ s.running = false ∨
    (∃ pos e l, (s.tile tile).flume.buf = (pos, e) :: l ∧ eKind e ≠ kind)) : s.entry tile kind f = s := by
  unfold State.entry
  cases hr : s.timed.region with
  | none => rfl
  | some r =>
    dsimp only
    rcases h with h | h | ⟨pos, e, l, hbuf, hkind⟩
    · exact nomatch hr.symm.trans h
    · exact if_pos (.inl (by simp [h]))
    · split
      · rfl
      · rw [hbuf]
        exact if_pos hkind

variable {r : Region} {x : Flume} (hregion : s.timed.region = some r) (hrun : s.running = true) (hstage : r.stage = .running)
  (htile : tile ∈ r.tiles) (hx : x = (s.tile tile).flume) (hactive : x.active = true) (hstopped : x.stopped = false)
  (hended : x.ended = false)
include hregion hrun hstage htile hx hactive hstopped hended

omit hregion in
theorem State.entry_goes : ¬ (!s.running ∨ r.stage ≠ .running ∨ !r.tiles.elem tile ∨ !(s.tile tile).flume.active ∨
    (s.tile tile).flume.stopped ∨ (s.tile tile).flume.ended) := by
  subst hx
  simp [hrun, hstage, htile, hactive, hstopped, hended]

/-- R291: an entry that has not been fetched is late. -/
theorem State.entry_late (hbuf : x.buf = []) (hend : x.fetchEnd = false) :
    s.entry tile kind f = s.entryAbort tile (x.prog + 32 * x.fetchAt) .lateAdmission 2 0 := by
  have hgo := State.entry_goes hrun hstage htile hx hactive hstopped hended
  subst hx
  unfold State.entry
  rw [hregion]
  dsimp only
  rw [if_neg hgo, hbuf]
  dsimp only
  rw [if_neg (by rw [hend]; decide)]

variable {pos : Nat} {e : BitVec 256} {l : List (Nat × BitVec 256)} (hbuf : x.buf = (pos, e) :: l) (hkind : eKind e = kind)
include hbuf hkind

/-- R123: a drain in progress that would read a row too early by the entry's tick aborts the region there. -/
theorem State.entry_hazard {h : Nat × Nat × Nat}
    (hhazard : s.hazardBy r (s.wet.toNat + (min (x.lastTick + eDelta e) (r.entryWet + r.length) - s.jobWet.toNat)) = some h) :
    s.entry tile kind f = s.drainHazard h := by
  have hgo := State.entry_goes hrun hstage htile hx hactive hstopped hended
  subst hx
  unfold State.entry
  rw [hregion]
  dsimp only
  rw [if_neg hgo, hbuf]
  dsimp only
  rw [if_neg (not_not.mpr hkind), hhazard]

/-- R290: an entry past entry + LENGTH aborts the region at that tick. -/
theorem State.entry_past (hpast : r.entryWet + r.length < x.lastTick + eDelta e)
    (hhazard : s.hazardBy r (s.wet.toNat + (r.entryWet + r.length - s.jobWet.toNat)) = none) :
    s.entry tile kind f =
      (s.passWet (r.entryWet + r.length - s.jobWet.toNat)).entryAbort tile (x.prog + 32 * pos) .scheduleLength 0 0 := by
  have hgo := State.entry_goes hrun hstage htile hx hactive hstopped hended
  subst hx
  unfold State.entry
  rw [hregion]
  dsimp only
  rw [if_neg hgo, hbuf]
  dsimp only
  rw [if_neg (not_not.mpr hkind), Nat.min_eq_right hpast.le, hhazard]
  dsimp only
  rw [if_pos hpast]

/-- R293: in a closed gated phase the entry leaves the buffer at its tick. -/
theorem State.entry_skipped (hfin : x.lastTick + eDelta e ≤ r.entryWet + r.length)
    (hhazard : s.hazardBy r (s.wet.toNat + (x.lastTick + eDelta e - s.jobWet.toNat)) = none) (hgated : gatedKind kind = true)
    (hclosed : x.gates.any id = true) : ∃ tw, s.entry tile kind f =
      ((s.passWet (x.lastTick + eDelta e - s.jobWet.toNat)).modTile tile (fun y =>
        (y.endSpans tw).takeEntry (x.lastTick + eDelta e) false)).modRegion (fun r => { r with idle := max r.idle tw }) := by
  have hgo := State.entry_goes hrun hstage htile hx hactive hstopped hended
  subst hx
  let t := (s.tile tile).flume.lastTick + eDelta e
  refine ⟨(BitVec.ofNat 64 t - (s.passWet (t - s.jobWet.toNat)).timed.wetOffset).toNat, ?_⟩
  unfold State.entry
  rw [hregion]
  dsimp only
  rw [if_neg hgo, hbuf]
  dsimp only
  rw [if_neg (not_not.mpr hkind), Nat.min_eq_left hfin, hhazard]
  dsimp only
  rw [if_neg (Nat.not_lt.mpr hfin), hgated, hclosed]
  rfl

end

/-- What a skipped entry leaves: the sequencer behind it, the scratchpad, the sluices and the objects as they were. -/
theorem State.skip_facts (s : State) (tile n tw t : Nat) (g : Region → Region) :
    let v := ((s.passWet n).modTile tile (fun y => (y.endSpans tw).takeEntry t false)).modRegion g
    (v.tile tile).flume.buf = (s.tile tile).flume.buf.drop 1 ∧ (v.tile tile).flume.lastTick = t ∧
    (v.tile tile).scratch = (s.tile tile).scratch ∧ v.sluices = s.sluices ∧ v.sync = s.sync := by
  intro v
  have htile : v.tile tile = ((s.tile tile).endSpans tw).takeEntry t false := by
    refine (State.tile_congr (s := (s.passWet n).modTile tile (fun y => (y.endSpans tw).takeEntry t false)) rfl tile).trans ?_
    rw [State.tile_modTile, if_pos rfl, State.passWet, State.tile_waitWet]
  refine ⟨by rw [htile]; rfl, by rw [htile]; rfl, by rw [htile]; rfl, ?_, ?_⟩
  · simp [v, State.passWet]
  · simp [v, State.passWet]

theorem gatedKind_iff (k : Nat) : gatedKind k = true ↔ k ∈ [1, 2, 3, 4, 12, 13] := by
  simp [gatedKind, kMatrix, kRow, kDma, kSend, or_assoc]

end Sys2Proof.Machine
end

section
/-! The entries of a flume program that use no unit (R114, R289 to R293, R301, R316): faults, registers, gates, loops,
admissions, signals and released spans. -/

namespace Sys2Proof.Machine

theorem exec_flumeNop (tile : Nat) (s : State) : exec (.flumeNop tile) s = execFlumeNop tile s := rfl
theorem exec_gateBegin (tile : Nat) (s : State) : exec (.gateBegin tile) s = execGateBegin tile s := rfl
theorem exec_gateEnd (tile : Nat) (s : State) : exec (.gateEnd tile) s = execGateEnd tile s := rfl
theorem exec_flumePhase (tile : Nat) (s : State) : exec (.flumePhase tile) s = execFlumePhase tile s := rfl
theorem exec_loopBegin (tile : Nat) (s : State) : exec (.loopBegin tile) s = execLoopBegin tile s := rfl
theorem exec_loopEnd (tile : Nat) (s : State) : exec (.loopEnd tile) s = execLoopEnd tile s := rfl
theorem exec_flumeSeta (tile : Nat) (s : State) : exec (.flumeSeta tile) s = execFlumeSeta tile s := rfl
theorem exec_flumeEnd (tile : Nat) (s : State) : exec (.flumeEnd tile) s = execFlumeEnd tile s := rfl
theorem exec_flumeAdmission (tile : Nat) (s : State) : exec (.flumeAdmission tile) s = execFlumeAdmission tile s := rfl
theorem exec_flumeSignal (tile : Nat) (s : State) : exec (.flumeSignal tile) s = execFlumeSignal tile s := rfl
theorem exec_flumeRelease (tile : Nat) (s : State) : exec (.flumeRelease tile) s = execFlumeRelease tile s := rfl
theorem exec_releaseSpanEnd (tile : Nat) (s : State) : exec (.releaseSpanEnd tile) s = execReleaseSpanEnd tile s := rfl

/-! ## A precise fault (R114, R290) -/

/-- The undone tick concerns no context and no region. -/
theorem State.undoTick_fields (s : State) (tile : Nat) :
    (s.undoTick tile).timed = s.timed ∧ (s.undoTick tile).ctxs = s.ctxs := by
  have hsends : ∀ (l : List SluiceId) (u : State), (l.foldl State.unsend u).timed = u.timed ∧
      (l.foldl State.unsend u).ctxs = u.ctxs := fun l u =>
    ⟨foldl_field (f := State.unsend) State.timed (fun _ _ => rfl) l u,
      foldl_field (f := State.unsend) State.ctxs (fun _ _ => rfl) l u⟩
  unfold State.undoTick
  split
  · exact ⟨rfl, rfl⟩
  · exact ⟨(hsends _ _).1, (hsends _ _).2⟩

/-- R303: of the array and the scratchpad an abort changes nothing. -/
theorem State.abortRegion_work {s : State} {r : Region} (hr : s.timed.region = some r) (hst : (s.ctx r.ctx).st = .resident)
    (f : FaultRec) (k : Nat) : ((s.abortRegion f).tile k).scratch = (s.tile k).scratch ∧
      ((s.abortRegion f).tile k).array = (s.tile k).array := by
  obtain ⟨hstop, -⟩ := State.cutRegion_ctx f hst
  have hcut {γ : Type} (q : Tile → γ) (hq : ∀ (x : Tile) y, q { x with flume := y } = q x) :
      q ((s.cutRegion r f).tile k) = q (s.tile k) :=
    foldl_field (f := fun (s : State) t => s.modTile t (fun x => { x with flume := { x.flume with active := false, stopped := true } }))
      (fun s : State => q (s.tile k)) (fun u t => u.tile_modTile_field q t k (fun x => hq x _)) r.tiles s
  rw [State.abortRegion_eq f hr, State.tile_takeFault hstop, Tile.stopFor_frame]
  exact ⟨hcut Tile.scratch (fun _ _ => rfl), hcut Tile.array (fun _ _ => rfl)⟩

/-- R303, R356: the record of an abort. -/
theorem State.abortRegion_record {s : State} {r : Region} (hr : s.timed.region = some r) (hst : (s.ctx r.ctx).st = .resident)
    (hf : (s.ctx r.ctx).fault = none) (f : FaultRec) :
    ((s.abortRegion f).ctx r.ctx).fault = some { f with queue := r.queue, tick := (s.cutRegion r f).jobTick } := by
  obtain ⟨hstop, hnone⟩ := State.cutRegion_ctx f hst
  rw [State.abortRegion_eq f hr]
  exact State.fault_takeFault hstop (hnone.trans hf) none _

/-- R114, R509: a precise fault undoes the tick and aborts the region, with the entry's address in its record. -/
theorem State.entryFault_facts {s : State} {r : Region} (hr : s.timed.region = some r) (hst : (s.ctx r.ctx).st = .resident)
    (hf : (s.ctx r.ctx).fault = none) (tile : Nat) (n : Entry) (code : Code) (detail a : Nat) :
    ∃ f, ((s.entryFault tile n code detail a).ctx r.ctx).fault = some f ∧ f.code = code ∧ f.detail = detail ∧ f.tile = tile ∧
      f.where' = BitVec.ofNat 64 n.place ∧ (s.entryFault tile n code detail a).timed.region = none ∧
      (∀ b, (s.tile tile).flume.before = some b → ((s.entryFault tile n code detail a).tile tile).scratch = b.scratch ∧
        ((s.entryFault tile n code detail a).tile tile).array = b.array) := by
  obtain ⟨htimed, hctxs⟩ := s.undoTick_fields tile
  have hctx : (s.undoTick tile).ctx r.ctx = s.ctx r.ctx := State.ctx_congr hctxs _
  have hr' : (s.undoTick tile).timed.region = some r := by rw [htimed, hr]
  have hst' : ((s.undoTick tile).ctx r.ctx).st = .resident := by rw [hctx, hst]
  refine ⟨_, State.abortRegion_record hr' hst' (by rw [hctx, hf]) _, rfl, rfl, rfl, rfl, State.abortRegion_region _ hr',
    fun b hb => ?_⟩
  obtain ⟨hscratch, harray⟩ := State.undoTick_tile hb
  obtain ⟨hscratch', harray'⟩ := State.abortRegion_work hr' hst' _ tile
  exact ⟨hscratch'.trans hscratch, harray'.trans harray⟩

/-! ## Entries of one register or none (R289, R290, R293) -/

/-- R288: LOOP_END and SETA take their operands as they stand. -/
theorem Flume.operand_plain (x : Flume) {e : BitVec 256} (h : eKind e = kLoopEnd ∨ eKind e = 11) (flag : Nat) (v : Word64) :
    x.operand e flag v = v := by
  refine if_neg (fun hc => ?_)
  obtain ⟨-, hloop, hseta⟩ := hc
  exact h.elim hloop hseta

/-- R289: the registers a LOOP_END adds to. -/
def loopSteps (e : BitVec 256) (a : Tab Word64) : Tab Word64 :=
  tabMod (tabMod a 0 (eFlags e % 16) (fun v => v + eOp0 e)) 0 (eFlags e / 16) (fun v => v + eOp1 e)

theorem tabGet_loopSteps {e : BitVec 256} (hne : eFlags e % 16 ≠ eFlags e / 16) (a : Tab Word64) :
    tabGet (loopSteps e a) 0 (eFlags e % 16) = tabGet a 0 (eFlags e % 16) + eOp0 e ∧
    tabGet (loopSteps e a) 0 (eFlags e / 16) = tabGet a 0 (eFlags e / 16) + eOp1 e := by
  simp [loopSteps, hne, hne.symm]

section
variable {s u : State} {tile pos : Nat} {r : Region} {e : BitVec 256}

theorem exec_flumeNop_due (hdue : s.entryDue tile 0 r pos e u) : exec (.flumeNop tile) s = .next u := by
  rw [exec_flumeNop, execFlumeNop, State.entry_due hdue]

variable {n : Entry} (hn : n = (s.tile tile).flume.entryAt s.timed.wetOffset pos e)
include hn

theorem exec_gateBegin_due (hdue : s.entryDue tile 6 r pos e u) : exec (.gateBegin tile) s = .next (
    if 4 ≤ (u.tile tile).flume.gates.length then u.conflict tile n
    else u.modFlume tile (fun x => { x with gates := (tabGet x.g 0 (eFlags e % 4) != 0) :: x.gates })) := by
  subst hn
  rw [exec_gateBegin, execGateBegin, State.entry_due hdue]
  rfl

theorem exec_gateEnd_due (hdue : s.entryDue tile 7 r pos e u) : exec (.gateEnd tile) s = .next (
    if (u.tile tile).flume.gates = [] then u.conflict tile n
    else u.modFlume tile (fun x => { x with gates := x.gates.drop 1 })) := by
  subst hn
  rw [exec_gateEnd, execGateEnd, State.entry_due hdue]

omit hn in
theorem exec_flumePhase_due (hdue : s.entryDue tile 8 r pos e u) :
    exec (.flumePhase tile) s = .next (if tile = r.marker then u.markPhase (eArg e % 65536) else u) := by
  rw [exec_flumePhase, execFlumePhase, State.entry_due hdue]
  rfl

/-- The loop goes back to the entry after its LOOP_BEGIN. -/
theorem exec_loopBegin_due (hdue : s.entryDue tile 9 r pos e u) : exec (.loopBegin tile) s = .next (
    if 4 ≤ (u.tile tile).flume.loops.length then u.conflict tile n
    else u.modFlume tile (fun x => { x with loops := (eArg e, pos + 1) :: x.loops })) := by
  subst hn
  have hback : ((s.tile tile).flume.prog + 32 * pos - (u.tile tile).flume.prog) / 32 + 1 = pos + 1 := by
    rw [State.entryDue_prog hdue, Nat.add_sub_cancel_left, Nat.mul_div_cancel_left pos (by decide)]
  rw [exec_loopBegin, execLoopBegin, State.entry_due (kind := kLoopBegin) hdue, ← hback]
  rfl

theorem exec_loopEnd_none (hdue : s.entryDue tile 10 r pos e u) (hnone : (u.tile tile).flume.loops = []) :
    exec (.loopEnd tile) s = .next (u.conflict tile n) := by
  subst hn
  rw [exec_loopEnd, execLoopEnd, State.entry_due (kind := kLoopEnd) hdue, hnone]

omit hn in
theorem exec_loopEnd_some (hdue : s.entryDue tile 10 r pos e u) {k back : Nat} {rest : List (Nat × Nat)}
    (hloops : (u.tile tile).flume.loops = (k, back) :: rest) : exec (.loopEnd tile) s = .next (u.modFlume tile (fun x =>
      { x with a := loopSteps e x.a, loops := if 1 < k then (k - 1, back) :: rest else rest })) := by
  obtain ⟨-, -, -, -, -, -, -, -, hkind, -⟩ := id hdue
  have hop := fun flag v => (s.tile tile).flume.operand_plain (.inl hkind) flag v
  rw [exec_loopEnd, execLoopEnd, State.entry_due (kind := kLoopEnd) hdue, hloops, Flume.entryAt]
  dsimp only
  rw [hop, hop]
  rfl

omit hn in
theorem exec_flumeSeta_due (hdue : s.entryDue tile 11 r pos e u) : exec (.flumeSeta tile) s = .next (u.modFlume tile (fun x =>
    { x with a := tabSet x.a 0 (eFlags e % 16) (if bit (eFlags e) 4 then tabGet x.a 0 (eFlags e % 16) + eOp0 e else eOp0 e) })) := by
  obtain ⟨-, -, -, -, -, -, -, -, hkind, -⟩ := id hdue
  rw [exec_flumeSeta, execFlumeSeta, State.entry_due hdue, Flume.entryAt]
  dsimp only
  rw [Flume.operand_plain _ (.inr hkind)]

theorem exec_flumeEnd_due (hdue : s.entryDue tile 15 r pos e u) : exec (.flumeEnd tile) s = .next (
    if n.t ≠ r.entryWet + r.length then u.entryFault tile n .scheduleLength 0 0
    else u.modFlume tile (fun x => { x with ended := true })) := by
  subst hn
  rw [exec_flumeEnd, execFlumeEnd, State.entry_due (kind := kEnd) hdue]

end

end Sys2Proof.Machine
end

section
/-! ADMIT, SIGNAL, RELEASE and the end of released spans (R90, R289, R292, R316), and the obligation on program entries. -/

namespace Sys2Proof.Machine

/-! ## ADMIT (R292) -/

/-- R292: the word at OP1 goes to a gate register, where the entry asks for it. -/
def State.loadGate (u : State) (tile : Nat) (e : BitVec 256) (op1 : Word64) : State :=
  u.modFlume tile (fun x => { x with
    g := tabSet x.g 0 (bvFld (eWord e) 2 2) (BitVec.ofNat 64 (leNat (u.scratchBytes tile ((u.tile tile).flume.base + op1.toNat) 8))) })

section
variable {u : State} {tile : Nat} {r : Region} {n : Entry}

theorem State.admission_slot (h : (eWord n.bits).getLsbD 0 = true) : u.admission tile r n =
    (if tabGet (u.tile tile).flume.slots 0 (eArg n.bits % 16) = 2 then none else some 1, u) := by
  rw [State.admission, if_pos h]

theorem State.admission_denied (h : (eWord n.bits).getLsbD 0 = false) {x : Nat} (hx : u.waitRef r.ctx (eArg n.bits) = .error x) :
    u.admission tile r n = (some (0x100 + x), u.countWaitDenied r.ctx (eArg n.bits) x) := by
  rw [State.admission, h, hx]
  rfl

theorem State.admission_object (h : (eWord n.bits).getLsbD 0 = false) {i : Nat} {k : Option Nat}
    (hi : u.waitRef r.ctx (eArg n.bits) = .ok (i, k)) : u.admission tile r n =
      (if n.op0.toNat ≤ (u.syncObj i).value.toNat ∧ (u.syncObj i).value.toNat < poisonBase then none else some 1, u) := by
  rw [State.admission, h, hi]
  rfl

end

section
variable {s u : State} {tile pos : Nat} {r : Region} {e : BitVec 256} {n : Entry}
  (hdue : s.entryDue tile 5 r pos e u) (hn : n = (s.tile tile).flume.entryAt s.timed.wetOffset pos e)
include hdue hn

/-- An admission whose condition does not hold is late. -/
theorem exec_flumeAdmission_late {d : Nat} {v : State} (h : u.admission tile r n = (some d, v)) :
    exec (.flumeAdmission tile) s = .next (v.entryFault tile n .lateAdmission d 0) := by
  subst hn
  rw [exec_flumeAdmission, execFlumeAdmission, State.entry_due (kind := kAdmit) hdue, h]

theorem exec_flumeAdmission_plain (h : u.admission tile r n = (none, u)) (hgate : (eWord e).getLsbD 1 = false) :
    exec (.flumeAdmission tile) s = .next u := by
  subst hn
  rw [exec_flumeAdmission, execFlumeAdmission, State.entry_due (kind := kAdmit) hdue, h]
  exact congrArg _ (if_pos (by rw [Flume.entryAt, hgate]; rfl))

theorem exec_flumeAdmission_gate (h : u.admission tile r n = (none, u)) (hgate : (eWord e).getLsbD 1 = true)
    (hsize : n.op1.toNat + 8 ≤ (u.tile tile).flume.size) :
    exec (.flumeAdmission tile) s = .next (u.loadGate tile e n.op1) := by
  subst hn
  rw [exec_flumeAdmission, execFlumeAdmission, State.entry_due (kind := kAdmit) hdue, h]
  dsimp only
  rw [if_neg (by rw [Flume.entryAt, hgate]; decide), if_neg (Nat.not_lt.mpr hsize)]
  rfl

end

/-! ## SIGNAL (R316) -/

section
variable {s u v : State} {tile pos : Nat} {r : Region} {e : BitVec 256} {n : Entry}

/-- The signal is the engine's; the tick's start knows of it. -/
theorem exec_flumeSignal_due (hdue : s.entryDue tile 12 r pos e u) (hn : n = (s.tile tile).flume.entryAt s.timed.wetOffset pos e)
    {id : Option Nat} (hsignal : u.engineSignal .set (.region tile) r.ctx (eArg e) n.op0 0
      { faultOf .syncDenied 0 with tile := tile, where' := BitVec.ofNat 64 n.place } = (v, id)) :
    exec (.flumeSignal tile) s =
      .next (id.elim v (fun i => v.noteStart tile (fun b => { b with signals := i :: b.signals }))) := by
  subst hn
  have harg : eArg ((s.tile tile).flume.entryAt s.timed.wetOffset pos e).bits = eArg e := rfl
  rw [exec_flumeSignal, execFlumeSignal, State.entry_due hdue]
  dsimp only
  rw [harg, hsignal]
  cases id <;> rfl

theorem State.noteStart_fields (s : State) (tile : Nat) (f : TickStart → TickStart) : (s.noteStart tile f).sync = s.sync ∧
    (s.noteStart tile f).ctxs = s.ctxs ∧ (s.noteStart tile f).dram = s.dram := by
  simp [State.noteStart, State.modFlume]

/-! ## RELEASE (R289, R90) -/

/-- R289: spans opened for the units the entry names. -/
def Flume.release (x : Flume) (us : List Nat) (fin : Nat) : Flume :=
  { x with units := us ++ x.units, released := x.released ++ us.map (fun u => (u, fin)), loaded := x.loaded && !us.elem unitArray }

theorem exec_flumeRelease_due (hdue : s.entryDue tile 13 r pos e u) (hn : n = (s.tile tile).flume.entryAt s.timed.wetOffset pos e) :
    exec (.flumeRelease tile) s = .next (
      if (releaseUnits e).any (fun k => (u.tile tile).flume.clash k n.tw) then u.conflict tile n
      else u.modFlume tile (fun x => x.release (releaseUnits e) (n.tw + n.op0.toNat))) := by
  subst hn
  rw [exec_flumeRelease, execFlumeRelease, State.entry_due hdue]
  rfl

theorem mem_releaseUnits {k : Nat} : k ∈ releaseUnits e ↔ k ∈ [0, 1, 2] ∧ bit (eArg e) k = true := List.mem_filter

end

/-! ## The end of a released span (R90, R108) -/

section
variable {s : State} {tile : Nat}

theorem exec_releaseSpanEnd_idle (h : (s.tile tile).flume.released = [] ∨ s.running = false) :
    exec (.releaseSpanEnd tile) s = .next s := by
  rw [exec_releaseSpanEnd, execReleaseSpanEnd]
  cases hrel : (s.tile tile).flume.released with
  | nil => rfl
  | cons x l =>
    have hrun := h.resolve_left (by rw [hrel]; exact List.cons_ne_nil _ _)
    exact if_pos (by rw [hrun]; rfl)

theorem exec_releaseSpanEnd_one (hrun : s.running = true) {k fin : Nat} (hrel : (s.tile tile).flume.released = [(k, fin)]) :
    exec (.releaseSpanEnd tile) s =
      .next ((s.passWet (fin - s.wet.toNat)).modTile tile (fun x => x.endSpans fin)) := by
  rw [exec_releaseSpanEnd, execReleaseSpanEnd, hrel]
  exact if_neg (by rw [hrun]; decide)

/-- The span's unit is free; after one of the array the capture buffer is empty. -/
theorem Tile.endSpans_one {x : Tile} {k fin : Nat} (hrel : x.flume.released = [(k, fin)]) :
    (x.endSpans fin).flume.released = [] ∧ (k = 0 → (x.endSpans fin).array.capture = none) ∧
    (x.endSpans fin).array.basin = x.array.basin ∧ (x.endSpans fin).scratch = x.scratch := by
  rw [Tile.endSpans, hrel]
  refine ⟨by simp, fun hk => ?_, ?_, rfl⟩
  · subst hk
    have hover : ([(0, fin)].any fun e => e.1 == unitArray && decide (e.2 ≤ fin)) = true := by simp [unitArray]
    rw [if_pos hover]
  · dsimp only
    split <;> rfl

end

/-! ## The obligation -/

/-- Settles O57: by the next entry's tick and, kind by kind, what it does there. -/
theorem programEntriesExecuteAtTheirTicks : Obligations.ProgramEntriesExecuteAtTheirTicks := by
  unfold Obligations.ProgramEntriesExecuteAtTheirTicks
  refine ⟨?_, gatedKind_iff, fun s tile n code detail a r hr hst hf => State.entryFault_facts hr hst hf tile n code detail a,
    ?_, ?_, ?_, ?_, ?_⟩
  · intro s tile op len src dst d i k hi
    obtain ⟨f, hf⟩ := flumeEntries_entry tile op len src dst d _ hi
    refine ⟨fun h => by rw [hf, State.entry_other f h], fun r x hr hrun hstage htile hx hactive hstopped hended =>
      ⟨fun hbuf hend => ?_, fun pos e l hbuf hkind => ⟨fun h hh => ?_, fun hpast hh => ?_, fun hfin hh hgated hclosed => ?_⟩⟩⟩
    · rw [hf, State.entry_late f hr hrun hstage htile hx hactive hstopped hended hbuf hend]
    · rw [hf, State.entry_hazard f hr hrun hstage htile hx hactive hstopped hended hbuf hkind hh]
    · rw [hf, State.entry_past f hr hrun hstage htile hx hactive hstopped hended hbuf hkind hpast hh]
    · obtain ⟨tw, hskip⟩ :=
        State.entry_skipped f hr hrun hstage htile hx hactive hstopped hended hbuf hkind hfin hh hgated hclosed
      obtain ⟨hbuf', hlast, hkept⟩ := s.skip_facts tile (x.lastTick + eDelta e - s.jobWet.toNat) tw (x.lastTick + eDelta e)
        (fun r => { r with idle := max r.idle tw })
      exact ⟨_, (hf s).trans (congrArg _ hskip), hbuf'.trans (by rw [← hx, hbuf]; rfl), hlast, hkept⟩
  · intro s u tile pos r e x n hx hn
    subst hx
    refine ⟨exec_flumeNop_due, fun hdue => ⟨fun h => ?_, fun h => ?_⟩, fun hdue => ⟨fun h => ?_, fun h => ?_⟩,
      exec_flumePhase_due, fun hdue => ⟨fun h => ?_, fun h => ?_⟩,
      fun hdue => ⟨exec_loopEnd_none hn hdue, fun k b l hl => ⟨_, exec_loopEnd_some hdue hl, ?_, fun hne => ?_, ?_⟩⟩,
      fun hdue => ⟨_, exec_flumeSeta_due hdue, ?_, fun k hk => ?_⟩, fun hdue => ⟨fun h => ?_, fun h => ?_⟩⟩
    · rw [exec_gateBegin_due hn hdue, if_pos h]
    · rw [exec_gateBegin_due hn hdue, if_neg (Nat.not_le.mpr h)]
    · rw [exec_gateEnd_due hn hdue, if_pos h]
    · rw [exec_gateEnd_due hn hdue, if_neg h]
    · rw [exec_loopBegin_due hn hdue, if_pos h]
    · rw [exec_loopBegin_due hn hdue, if_neg (Nat.not_le.mpr h)]
    · rw [State.tile_modFlume, if_pos rfl]
    · rw [State.tile_modFlume, if_pos rfl]
      exact tabGet_loopSteps hne _
    · rw [State.tile_modFlume, if_pos rfl]
    · rw [State.tile_modFlume, if_pos rfl]
      exact (tabGet_tabSet _ _ _ _ _).trans (if_pos rfl)
    · rw [State.tile_modFlume, if_pos rfl]
      exact (tabGet_tabSet _ _ _ _ _).trans (if_neg hk)
    · rw [exec_flumeEnd_due hn hdue, if_neg (not_not.mpr h)]
    · rw [exec_flumeEnd_due hn hdue, if_pos h]
  · intro s u tile pos r e n hn hdue
    have hbits : n.bits = e := by rw [hn]; rfl
    refine ⟨fun hslot hfree => ?_, fun x hobj hx => ?_, fun i k hobj hi hv => ?_, fun hgo => ?_⟩
    · refine exec_flumeAdmission_late hdue hn ((State.admission_slot (by rw [hbits]; exact hslot)).trans ?_)
      rw [hbits, if_neg hfree]
    · rw [exec_flumeAdmission_late hdue hn (State.admission_denied (by rw [hbits]; exact hobj) (by rw [hbits]; exact hx)), hbits]
    · refine exec_flumeAdmission_late hdue hn
        ((State.admission_object (by rw [hbits]; exact hobj) (by rw [hbits]; exact hi)).trans ?_)
      rw [if_neg (by omega)]
    · have hnone : u.admission tile r n = (none, u) := by
        rcases hgo with ⟨hslot, hready⟩ | ⟨hobj, i, k, hi, hmet, hpoison⟩
        · rw [State.admission_slot (by rw [hbits]; exact hslot), hbits, if_pos hready]
        · rw [State.admission_object (by rw [hbits]; exact hobj) (by rw [hbits]; exact hi), if_pos ⟨hmet, hpoison⟩]
      exact ⟨exec_flumeAdmission_plain hdue hn hnone, exec_flumeAdmission_gate hdue hn hnone⟩
  · intro s u v tile pos r e n id hn hdue hsignal
    refine ⟨_, exec_flumeSignal_due hdue hn hsignal, ?_⟩
    cases id with
    | none => exact ⟨rfl, rfl, rfl, fun _ => rfl⟩
    | some i =>
      obtain ⟨hsync, hctxs, hdram⟩ := v.noteStart_fields tile (fun b => { b with signals := i :: b.signals })
      exact ⟨hsync, hctxs, hdram, nofun⟩
  · intro s u tile pos r e n hn hdue
    have hexec := exec_flumeRelease_due hdue hn
    refine ⟨fun hclash => ?_, fun hfree => ?_⟩
    · rw [hexec, if_pos (List.any_eq_true.mpr hclash)]
    · rw [if_neg (by simpa using hfree)] at hexec
      have htile : (u.modFlume tile (fun x => x.release (releaseUnits e) (n.tw + n.op0.toNat))).tile tile = { u.tile tile with
          flume := (u.tile tile).flume.release (releaseUnits e) (n.tw + n.op0.toNat) } :=
        (State.tile_modFlume ..).trans (if_pos rfl)
      refine ⟨_, hexec, fun k hk hbit => ?_, fun hbit => ?_, by rw [htile], by rw [htile]⟩
      · rw [htile]
        exact List.mem_append_right _ (List.mem_map.mpr ⟨k, mem_releaseUnits.mpr ⟨hk, hbit⟩, rfl⟩)
      · have hmem : (releaseUnits e).elem unitArray = true :=
          List.elem_iff.mpr (mem_releaseUnits.mpr ⟨by decide, hbit⟩)
        rw [htile]
        dsimp only [Flume.release]
        rw [hmem, Bool.not_true, Bool.and_false]
  · intro s tile
    refine ⟨exec_releaseSpanEnd_idle, fun k fin hrun hrel => ⟨_, exec_releaseSpanEnd_one hrun hrel, ?_⟩⟩
    rw [State.tile_modTile, if_pos rfl, State.passWet, State.tile_waitWet]
    exact Tile.endSpans_one hrel

end Sys2Proof.Machine
end

section
/-! A matrix command begins (R100, R104 to R107, R110, R112, R120, R123, R510): time of the array keeps its queue, and the oldest
command does to an array at rest what its operation says. -/

namespace Sys2Proof.Machine

theorem exec_matrixCommandBegin (tile : Nat) (s : State) :
    exec (.matrixCommandBegin tile) s = execMatrixCommandBegin tile s := rfl

/-! ## The queue of the array (R105) -/

theorem Sweep.cmds_row (w : Sweep) (tile : Nat) (a : MArray) (sc : Tab Byte) : (w.row tile a sc).1.cmds = a.cmds := by
  unfold Sweep.row
  dsimp only
  split
  · rfl
  · dsimp only
    split <;> rfl

theorem Sweep.cmds_tick (tile t : Nat) (x : MArray × Tab Byte) (w : Sweep) : (w.tick tile t x).1.cmds = x.1.cmds := by
  unfold Sweep.tick
  dsimp only
  split
  · rfl
  split
  · split <;> rfl
  · dsimp only
    split <;> exact w.cmds_row tile x.1 x.2

/-- What the array does in a tick is no command's beginning. -/
theorem arrayTick_cmds (tile t : Nat) (x : MArray × Tab Byte) : (arrayTick tile t x).1.cmds = x.1.cmds :=
  foldl_field (fun y : MArray × Tab Byte => y.1.cmds) (fun y w => w.cmds_tick tile t y) _ _

theorem arrayTo_cmds (tile now : Nat) (x : MArray × Tab Byte) : (arrayTo tile now x).1.cmds = x.1.cmds := by
  unfold arrayTo
  split
  · rfl
  · exact foldl_field (fun y : MArray × Tab Byte => y.1.cmds) (fun y _ => arrayTick_cmds tile _ y) _ x

theorem Tile.cmds_settled (x : Tile) (tile now : Nat) : (x.settled tile now).array.cmds = x.array.cmds :=
  arrayTo_cmds tile now (x.array, x.scratch)

theorem MArray.cmds_begin (a : MArray) (c : MCmd) (t : Nat) (place : Option Nat) : (a.begin_ c t place).cmds = a.cmds := by
  unfold MArray.begin_ MArray.release
  split_ifs <;> rfl

/-! ## The command begins on its tile (R105) -/

section
variable (s : State) (tile : Nat) (c : MCmd) (t : Nat) (place : Option Nat)

theorem State.beginMatrix_fields : (s.beginMatrix tile c t place).wet = s.wet ∧ (s.beginMatrix tile c t place).dram = s.dram ∧
    (s.beginMatrix tile c t place).ctxs = s.ctxs := by
  unfold State.beginMatrix
  dsimp only
  split <;> simp [State.modGroup]

/-- What a command's beginning leaves of its tile beside the groups. -/
theorem State.tile_beginMatrix_field {γ : Type} (q : Tile → γ)
    (hq : ∀ x gs sv, q { x with groups := gs, saved := sv } = q x := by exact fun _ _ _ => rfl) :
    q ((s.beginMatrix tile c t place).tile tile) = q { (s.tile tile).settled tile t with
      array := ((s.tile tile).settled tile t).array.begin_ c t place } := by
  unfold State.beginMatrix
  dsimp only
  split
  · rw [State.tile_modGroup_field _ _ _ _ q tile hq, State.tile_modTile, if_pos rfl]
  · rw [State.tile_modTile, if_pos rfl]

/-- R100: an MBREAD gives its group the row. -/
theorem State.group_beginMatrix_bread (hop : c.op = mBread) (slot : Nat) : (s.beginMatrix tile c t place).group tile slot =
    (s.group tile slot).map (fun g => if g.uid = c.uid then
      giveRow c (tabRange ((s.tile tile).settled tile t).array.basin 0 (c.b.toNat * 64) 64) t g else g) := by
  rw [State.beginMatrix, if_pos hop, State.group_modGroup]
  refine congrArg (Option.map _) (State.group_congr ?_ slot)
  rw [State.tile_modTile, if_pos rfl]
  rfl

end

/-- The tile whose array's queue is `rest`. -/
def Tile.queued (x : Tile) (rest : List MCmd) : Tile := { x with array := { x.array with cmds := rest } }

/-- A queue is no work in progress. -/
theorem Tile.settled_queued {x : Tile} (hidle : x.array.idle = true) (rest : List MCmd) (tile now : Nat) :
    (x.queued rest).settled tile now = x.queued rest := Tile.settled_idle _ _ _ hidle

section
variable {s : State} {tile : Nat}

/-- With nothing queued, or outside RUN, there is nothing to begin. -/
theorem exec_matrixCommandBegin_none (h : (s.tile tile).array.cmds = [] ∨ s.mod.state ≠ .run) :
    exec (.matrixCommandBegin tile) s = .next s := by
  rw [exec_matrixCommandBegin, execMatrixCommandBegin]
  rcases h with hcmds | hrun
  · rw [State.beginOldest, hcmds]
    exact ite_self _
  · exact if_pos (Or.inl (by simp [State.running, hrun]))

section
variable (hrun : s.mod.state = .run) (hclaim : s.claimed tile false = false)
include hrun hclaim

theorem exec_matrixCommandBegin_oldest : exec (.matrixCommandBegin tile) s = .next (s.beginOldest tile) := by
  rw [exec_matrixCommandBegin, execMatrixCommandBegin, if_neg (by simp [State.running, hrun, hclaim])]

end

variable {c : MCmd} {rest : List MCmd} {n : Nat} (hcmds : (s.tile tile).array.cmds = c :: rest)
  (hn : n = (s.waitWet ((s.tile tile).array.beginAt c)).wet.toNat)
include hcmds hn

/-- R105: the first tick allowed comes, the command leaves the queue, and it begins. -/
theorem State.beginOldest_cons : s.beginOldest tile =
    ((s.waitWet ((s.tile tile).array.beginAt c)).modTile tile (fun x => x.queued rest)).beginMatrix tile c n none := by
  rw [State.beginOldest, hcmds, hn]
  rfl

theorem State.tile_beginOldest_field {γ : Type} (q : Tile → γ)
    (hq : ∀ x gs sv, q { x with groups := gs, saved := sv } = q x := by exact fun _ _ _ => rfl) :
    q ((s.beginOldest tile).tile tile) =
      q { ((s.tile tile).queued rest).settled tile n with
        array := (((s.tile tile).queued rest).settled tile n).array.begin_ c n none } := by
  rw [State.beginOldest_cons hcmds hn, State.tile_beginMatrix_field _ _ _ _ _ q hq, State.tile_modTile, if_pos rfl,
    State.tile_waitWet]

/-- R105: whatever the command, it leaves the queue in its tick, and nothing but its own tile changes. -/
theorem State.beginOldest_facts : ((s.beginOldest tile).tile tile).array.cmds = rest ∧
    (s.beginOldest tile).wet = (s.waitWet ((s.tile tile).array.beginAt c)).wet ∧ (s.beginOldest tile).dram = s.dram ∧
    (s.beginOldest tile).ctxs = s.ctxs := by
  refine ⟨?_, ?_⟩
  · rw [State.tile_beginOldest_field hcmds hn (fun x => x.array.cmds)]
    exact (MArray.cmds_begin _ _ _ _).trans (Tile.cmds_settled _ _ _)
  · rw [State.beginOldest_cons hcmds hn]
    obtain ⟨hwet, hdram, hctxs⟩ := State.beginMatrix_fields
      ((s.waitWet ((s.tile tile).array.beginAt c)).modTile tile (fun x => x.queued rest)) tile c n none
    rw [hwet, hdram, hctxs]
    simp

section
variable (hidle : (s.tile tile).array.idle = true)
include hidle

/-- With nothing of the array in progress the command meets the array as it stands. -/
theorem State.array_beginOldest_idle : ((s.beginOldest tile).tile tile).array =
    ({ (s.tile tile).array with cmds := rest } : MArray).begin_ c n none := by
  rw [State.tile_beginOldest_field hcmds hn Tile.array, Tile.settled_queued hidle]
  rfl

theorem State.scratch_beginOldest_idle : ((s.beginOldest tile).tile tile).scratch = (s.tile tile).scratch := by
  rw [State.tile_beginOldest_field hcmds hn Tile.scratch, Tile.settled_queued hidle]
  rfl

theorem State.group_beginOldest_bread (hop : c.op = mBread) {slot : Nat} {g : Group} (hg : s.group tile slot = some g)
    (huid : g.uid = c.uid) : (s.beginOldest tile).group tile slot =
      some (giveRow c (tabRange (s.tile tile).array.basin 0 (c.b.toNat * 64) 64) n g) := by
  have hgroup : ((s.waitWet ((s.tile tile).array.beginAt c)).modTile tile (fun x => x.queued rest)).group tile slot = some g := by
    refine (State.group_congr ?_ slot).trans hg
    rw [State.tile_modTile, if_pos rfl, State.tile_waitWet]
    rfl
  rw [State.beginOldest_cons hcmds hn, State.group_beginMatrix_bread _ _ _ _ _ hop, hgroup, Option.map_some, if_pos huid,
    State.tile_modTile, if_pos rfl, State.tile_waitWet, Tile.settled_queued hidle]
  rfl

end

end

/-! ## What each operation does to the array -/

section
variable (a : MArray) {c : MCmd} (t : Nat) (place : Option Nat)

theorem MArray.begin_load (hop : c.op = mLoad) : a.begin_ c t place = a.loadBlock c t := by
  rw [MArray.begin_, hop]
  rfl

theorem MArray.begin_pass (hop : c.op = mPass) : a.begin_ c t place = a.startPass c t := by
  rw [MArray.begin_, hop]
  rfl

theorem MArray.begin_sweep (hop : c.op = mDrain ∨ c.op = mDiag) : a.begin_ c t place = a.startSweep c t place := by
  rcases hop with hop | hop
  all_goals
    rw [MArray.begin_, hop]
    rfl

theorem MArray.begin_zero (hop : c.op = mZero) : a.begin_ c t place = { a with
    basin := fillRows a.basin (firstRow c.b) (rowCount c.b) (basinWidth a.mode a.fmt) (initWord a.mode a.fmt) } := by
  rw [MArray.begin_, hop]
  rfl

theorem MArray.begin_bread (hop : c.op = mBread) : a.begin_ c t place = a := by
  rw [MArray.begin_, hop]
  rfl

theorem MArray.begin_bwrite (hop : c.op = mBwrite) : a.begin_ c t place = { a with basin := takeRow c a.basin } := by
  rw [MArray.begin_, hop]
  rfl

theorem MArray.begin_end (hop : c.op = mEnd) (hholder : a.holder = some c.uid) :
    a.begin_ c t place = { a with holder := none, loaded := false } := by
  rw [MArray.begin_, hop]
  exact if_pos hholder

/-- What an array at rest holds: no sweep, every pass through, every front read. -/
theorem MArray.idle_facts {a : MArray} (h : a.idle = true) : a.sweeps = [] ∧
    (∀ p ∈ a.passes, p.flight = [] ∧ p.entered = p.rows) ∧ ∀ f ∈ a.blocks, f.read = (gridOf f.fmt).2 := by
  simpa [MArray.idle, List.isEmpty_iff, and_assoc] using h

/-- R95, R112: an array at rest keeps no other block than the new one. -/
theorem MArray.blocks_loadBlock {a : MArray} (hidle : a.idle = true) (hport : mlCapture c.word = false) : a.loadBlock c t = { a with
    mode := mlMode c.word, fmt := mlFmt c.word, front := some (t, mlFmt c.word)
    blocks := [{ num := (a.blocks.getLast?.elim 0 (fun f => f.num)) + 1, start := t, base := c.base + c.a.toNat
                 trans := mlTrans c.word, read := 0, mode := mlMode c.word, fmt := mlFmt c.word, codes := [], scales := [] }] } := by
  obtain ⟨-, hpasses, -⟩ := MArray.idle_facts hidle
  have hold : a.blocks.filter (fun b => a.passes.any (fun p => p.num == b.num && !(p.entered == p.rows && p.flight.isEmpty))) = [] := by
    refine List.filter_eq_nil_iff.mpr (fun b _ hany => ?_)
    obtain ⟨p, hp, hbusy⟩ := List.any_eq_true.mp hany
    obtain ⟨hflight, hentered⟩ := hpasses p hp
    simp [hflight, hentered] at hbusy
  unfold MArray.loadBlock MArray.loadFmt
  rw [hold, hport]
  rfl

/-- R510: a run of basin rows set to one value. -/
theorem tabGet_fillRows (b : Tab Word32) (first rows w : Nat) (v : Word32) (k : Nat) : tabGet (fillRows b first rows w v) 0 k =
    if first * w ≤ k ∧ k < (first + rows) * w then v else tabGet b 0 k := by
  rw [fillRows, tabGet_tabWrite, List.length_replicate, ← Nat.add_mul]
  refine ite_congr rfl (fun h => ?_) (fun _ => rfl)
  rw [Nat.add_mul] at h
  rw [List.getD_replicate _ (by omega)]

end

/-! ## Words of lanes (R100, R106) -/

section
variable (d : List Word32) (base : Nat) {ls : List Nat}

/-- Words 2k and 2k + 1 of each lane k go to the basin. -/
theorem tabGet_foldl_pairs (i : Nat) (b : Tab Word32) :
    tabGet (ls.foldl (fun b k => tabWrite b 0 (base + 2 * k) [d.getD (2 * k) 0, d.getD (2 * k + 1) 0]) b) 0 (base + i) =
      if i / 2 ∈ ls then d.getD i 0 else tabGet b 0 (base + i) := by
  induction ls generalizing b with
  | nil => rfl
  | cons k r ih =>
    rw [List.foldl_cons, ih, tabGet_tabWrite]
    by_cases hr : i / 2 ∈ r
    · rw [if_pos hr, if_pos (List.mem_cons_of_mem _ hr)]
    rw [if_neg hr]
    by_cases hk : i / 2 = k
    · have hcases : i = 2 * k ∨ i = 2 * k + 1 := by omega
      rw [if_pos (by simp only [List.length_cons, List.length_nil]; omega), if_pos (hk ▸ List.mem_cons_self)]
      rcases hcases with rfl | rfl
      · rw [Nat.sub_self]
        rfl
      · rw [show base + (2 * k + 1) - (base + 2 * k) = 1 by omega]
        rfl
    · rw [if_neg (by simp only [List.length_cons, List.length_nil]; omega), if_neg (by simp [hk, hr])]

theorem tabGet_foldl_pairs_below {n : Nat} (hn : n < base) (b : Tab Word32) :
    tabGet (ls.foldl (fun b k => tabWrite b 0 (base + 2 * k) [d.getD (2 * k) 0, d.getD (2 * k + 1) 0]) b) 0 n = tabGet b 0 n :=
  foldl_field (fun b => tabGet b 0 n) (fun b k => tabGet_tabWrite_below 0 _ b (by omega)) ls b

end

/-- R106: an MBWRITE's words of a live lane are the command's. -/
theorem tabGet_takeRow_lane (c : MCmd) (b : Tab Word32) {k : Nat} (hk : k < 32) (hlive : c.live.getLsbD k = true) :
    tabGet (takeRow c b) 0 (c.b.toNat * 64 + 2 * k) = c.data.getD (2 * k) 0 ∧
    tabGet (takeRow c b) 0 (c.b.toNat * 64 + 2 * k + 1) = c.data.getD (2 * k + 1) 0 := by
  have hmem : k ∈ lanesOf c.live := mem_lanesOf.mpr ⟨hk, hlive⟩
  refine ⟨?_, ?_⟩
  · rw [takeRow, tabGet_foldl_pairs, if_pos (by rwa [show 2 * k / 2 = k by omega])]
  · rw [takeRow, Nat.add_assoc, tabGet_foldl_pairs, if_pos (by rwa [show (2 * k + 1) / 2 = k by omega])]

/-- R106: it writes one row of 64 words. -/
theorem tabGet_takeRow_other (c : MCmd) (b : Tab Word32) {n : Nat} (hn : n < c.b.toNat * 64 ∨ c.b.toNat * 64 + 64 ≤ n) :
    tabGet (takeRow c b) 0 n = tabGet b 0 n := by
  rcases hn with hn | hn
  · exact tabGet_foldl_pairs_below _ _ hn b
  · obtain ⟨i, rfl⟩ := Nat.exists_eq_add_of_le (Nat.le_of_add_right_le hn)
    rw [takeRow, tabGet_foldl_pairs, if_neg (fun h => absurd (lane_lt_of_mem h) (by omega))]

section
variable (d d' : Nat) (f f' : Nat → Word32) {ls : List Nat}

theorem Group.foldl_setPair_frame (g : Group) : ls.foldl (fun g k => (g.setVreg d k (f k)).setVreg d' k (f' k)) g =
    { g with v := (ls.foldl (fun g k => (g.setVreg d k (f k)).setVreg d' k (f' k)) g).v } := by
  induction ls generalizing g with
  | nil => rfl
  | cons k t ih =>
    rw [List.foldl_cons, ih]
    rfl

/-- Two registers of some lanes take a word each. -/
theorem Group.vreg_foldl_setPair (hls : ∀ l ∈ ls, l < 32) {l : Nat} (hl : l < 32) (r : Nat) (g : Group) :
    (ls.foldl (fun g k => (g.setVreg d k (f k)).setVreg d' k (f' k)) g).vreg r l =
      if l ∈ ls then (if r = d' then f' l else if r = d then f l else g.vreg r l) else g.vreg r l := by
  induction ls generalizing g with
  | nil => rfl
  | cons k t ih =>
    have hk := hls k List.mem_cons_self
    rw [List.foldl_cons, ih (fun x hx => hls x (List.mem_cons_of_mem _ hx)), Group.vreg_setVreg _ _ _ hk hl,
      Group.vreg_setVreg _ _ _ hk hl]
    by_cases hlk : l = k
    · subst hlk
      by_cases ht : l ∈ t <;> by_cases hd' : r = d' <;> by_cases hd : r = d <;> simp [ht, hd, hd']
    · simp [hlk]

end

section
variable (c : MCmd) (row : List Word32) (t : Nat) (g : Group)

/-- R100: an MBREAD changes vector registers and their ready ticks, and no more. -/
theorem giveRow_frame : giveRow c row t g = { g with v := (giveRow c row t g).v, ready := (giveRow c row t g).ready } := by
  unfold giveRow
  dsimp only
  rw [Group.foldl_setPair_frame]
  rfl

/-- R100: lane k's two words of a row, in the two registers. -/
theorem giveRow_vreg (r : Nat) {k : Nat} (hk : k < 32) : (giveRow c row t g).vreg r k =
    if c.live.getLsbD k = true then (if r = (wDst c.word + 1) % 128 then row.getD (2 * k + 1) 0
      else if r = wDst c.word then row.getD (2 * k) 0 else g.vreg r k) else g.vreg r k := by
  refine (Group.vreg_foldl_setPair (wDst c.word) ((wDst c.word + 1) % 128) (fun k => row.getD (2 * k) 0)
    (fun k => row.getD (2 * k + 1) 0) (fun _ => lane_lt_of_mem) hk r g).trans ?_
  simp [mem_lanesOf, hk]

/-- R100: both registers are ready 3 ticks after the beginning. -/
theorem giveRow_ready : tabGet (giveRow c row t g).ready 0 (keyV (wDst c.word)) = t + 3 ∧
    tabGet (giveRow c row t g).ready 0 (keyV ((wDst c.word + 1) % 128)) = t + 3 := by
  simp [giveRow, Group.readyOn]

end

theorem getD_tabRange {α : Type} (t : Tab α) (d e : α) (lo : Nat) {n i : Nat} (hi : i < n) :
    (tabRange t d lo n).getD i e = tabGet t d (lo + i) := by
  simp [tabRange, List.getD, hi]

/-! ## The obligation -/

/-- Settles O36: by the command that leaves the queue, and operation by operation what it does to an array at rest. -/
theorem matrixCommandsActWhenTheyBegin : Obligations.MatrixCommandsActWhenTheyBegin := by
  unfold Obligations.MatrixCommandsActWhenTheyBegin
  refine ⟨?_, ?_, fun s tile h => exec_matrixCommandBegin_none h⟩
  · intro s tile c rest hrun hclaim hcmds
    obtain ⟨hrest, hwet, hdram, hctxs⟩ := State.beginOldest_facts hcmds rfl
    exact ⟨_, exec_matrixCommandBegin_oldest hrun hclaim, hrest, hwet, hdram, hctxs, fun k hk => s.tile_beginOldest_other tile k hk⟩
  · rintro s tile n c rest _ hrun hclaim rfl hcmds hidle hn
    have hexec := exec_matrixCommandBegin_oldest hrun hclaim
    have harray := State.array_beginOldest_idle hcmds hn hidle
    have hscratch := State.scratch_beginOldest_idle hcmds hn hidle
    obtain ⟨hsweeps, -, -⟩ := MArray.idle_facts hidle
    refine ⟨fun hop hport => ?_, fun hop => ?_, fun hop => ?_, fun hop => ?_, fun hop => ?_, fun hop => ?_, fun hop hholder => ?_⟩
    · exact ⟨_, hexec, harray.trans ((MArray.begin_load _ _ _ hop).trans (MArray.blocks_loadBlock _ hidle hport)), hscratch⟩
    · rw [MArray.begin_pass _ _ _ hop] at harray
      refine ⟨_, _, hexec, harray, rfl, rfl, rfl, rfl, ?_, hscratch⟩
      exact List.getLast?_concat
    · rw [MArray.begin_sweep _ _ _ hop, MArray.startSweep, hsweeps] at harray
      exact ⟨_, hexec, harray, hscratch⟩
    · rw [MArray.begin_zero _ _ _ hop] at harray
      exact ⟨_, _, hexec, harray, rfl, fun k => tabGet_fillRows _ _ _ _ _ k⟩
    · rw [MArray.begin_bwrite _ _ _ hop] at harray
      exact ⟨_, _, hexec, harray, rfl, fun k hk hlive => tabGet_takeRow_lane c _ hk hlive, fun k hk => tabGet_takeRow_other c _ hk⟩
    · refine ⟨_, hexec, harray.trans (MArray.begin_bread _ _ _ hop), fun slot g hg huid => ?_⟩
      obtain ⟨hready, hready'⟩ := giveRow_ready c (tabRange (s.tile tile).array.basin 0 (c.b.toNat * 64) 64) n g
      refine ⟨_, State.group_beginOldest_bread hcmds hn hidle hop hg huid, by rw [giveRow_frame], by rw [giveRow_frame],
        by rw [giveRow_frame], hready, hready', fun k hk hlive => ⟨?_, ?_⟩, fun r k hk hr hr' => ?_⟩
      · have hdst := wDst_lt c.word
        rw [giveRow_vreg _ _ _ _ _ hk, if_pos hlive, if_neg (by omega), if_pos rfl, getD_tabRange _ _ _ _ (by omega)]
      · rw [giveRow_vreg _ _ _ _ _ hk, if_pos hlive, if_pos rfl, getD_tabRange _ _ _ _ (by omega), Nat.add_assoc]
      · rw [giveRow_vreg _ _ _ _ _ hk, if_neg hr', if_neg hr, ite_self]
    · exact ⟨_, hexec, harray.trans (MArray.begin_end _ _ _ hop hholder), hscratch⟩

end Sys2Proof.Machine
end

section
/-! Fronts and results of the array in time (R95, R96, R98, R100, R101, R117): the columns port B has read, the exact sum of an
int8 pass, and the words of a row that have reached the basin. -/

namespace Sys2Proof.Machine

/-! ## Columns of a stationary block (R95, R101, R103) -/

/-- Element i of column j of the front's block, as scratch holds it. -/
def Front.codeAt (f : Front) (sc : Tab Byte) (i j : Nat) : Nat :=
  if kvecFmt f.fmt then kvecCode sc (f.base + j * kPitch f.fmt) i
  else if f.trans then tileCode sc f.fmt f.base j i else tileCode sc f.fmt f.base i j

theorem columnCodes_front (f : Front) (sc : Tab Byte) (j : Nat) : columnCodes sc f.fmt f.base f.trans j =
    (List.range (gridOf f.fmt).1).map (fun i => (256 * i + j, f.codeAt sc i j)) := rfl

theorem gridOf_columns (fmt : Nat) : (gridOf fmt).2 ≤ 256 := by
  unfold gridOf
  split <;> decide

/-- A column's elements fill its places and no other column's. -/
theorem tabGet_tabFill_column (v : Nat → Nat) (t : Tab Nat) {i j k : Nat} (hj : j < 256) (hk : k < 256) (n : Nat) :
    tabGet (tabFill t ((List.range n).map (fun i => (256 * i + j, v i)))) 0 (256 * i + k) =
      if i < n ∧ k = j then v i else tabGet t 0 (256 * i + k) := by
  induction n with
  | zero => rfl
  | succ n ih =>
    have hlast : tabFill t ((List.range (n + 1)).map (fun i => (256 * i + j, v i))) =
        tabSet (tabFill t ((List.range n).map (fun i => (256 * i + j, v i)))) 0 (256 * n + j) (v n) := by
      rw [List.range_succ, List.map_append]
      exact List.foldl_append
    rw [hlast, tabGet_tabSet, ih]
    by_cases hi : i = n ∧ k = j
    · rw [if_pos (by omega), if_pos (by omega), hi.1]
    · rw [if_neg (by omega)]
      exact if_congr (by omega) rfl rfl

/-- The first `m` columns, read one after another. -/
theorem tabGet_foldl_columns (f : Front) (sc : Tab Byte) (t : Tab Nat) {i j : Nat} (hi : i < (gridOf f.fmt).1) (hj : j < 256)
    {m : Nat} (hm : m ≤ 256) :
    tabGet ((List.range m).foldl (fun c j => tabFill c (columnCodes sc f.fmt f.base f.trans j)) t) 0 (256 * i + j) =
      if j < m then f.codeAt sc i j else tabGet t 0 (256 * i + j) := by
  induction m with
  | zero => rfl
  | succ m ih =>
    rw [List.range_succ, List.foldl_append, List.foldl_cons, List.foldl_nil, columnCodes_front,
      tabGet_tabFill_column (fun i => f.codeAt sc i m) _ (by omega) hj, ih (by omega)]
    by_cases hjm : j = m
    · rw [if_pos ⟨hi, hjm⟩, if_pos (by omega), hjm]
    · rw [if_neg (fun h => hjm h.2)]
      exact if_congr (by omega) rfl rfl

/-- R95: at the end of tick t the front holds the columns up to t's own. -/
theorem Front.codes_readTo {f : Front} (sc : Tab Byte) (t : Nat) {i j : Nat} (hread : f.read = 0) (hcodes : f.codes = [])
    (hi : i < (gridOf f.fmt).1) (hj : j < (gridOf f.fmt).2) :
    tabGet (f.readTo sc t).codes 0 (256 * i + j) = if t + 1 < f.start + j then 0 else f.codeAt sc i j := by
  have hgrid := gridOf_columns f.fmt
  have hcols : f.columns t = min (gridOf f.fmt).2 (t + 2 - f.start) := rfl
  rw [Front.readTo, hread, hcodes, List.drop_zero]
  refine (tabGet_foldl_columns f sc [] hi (by omega) (by omega)).trans ?_
  by_cases hlate : t + 1 < f.start + j
  · rw [if_neg (by omega), if_pos hlate]
    rfl
  · rw [if_pos (by omega), if_neg hlate]

/-! ## An int8 multiply-add (R98, R117) -/

/-- Sign and magnitude of an integer are the integer. -/
theorem signedMant_natAbs (x : Int) : signedMant (decide (x < 0)) x.natAbs = x := by
  unfold signedMant
  by_cases hx : x < 0
  · rw [if_pos (decide_eq_true hx)]
    omega
  · rw [if_neg (by simpa using hx)]
    omega

theorem signedMant_mul (a b : Bool) (m n : Nat) : signedMant (a != b) (m * n) = signedMant a m * signedMant b n := by
  cases a <;> cases b <;> simp [signedMant]

/-- A whole number of units loses nothing. -/
theorem scaleTo_zero (m : Nat) : scaleTo m (0 + 0) 0 = (m, 0, 0) := by simp [scaleTo]

/-- The exact product of two integers is an integer. -/
theorem FP.toInt_mul_ofInt (x y : Int) : ((FP.ofInt x).mul (FP.ofInt y)).toInt = x * y := by
  change signedMant (decide (x < 0) != decide (y < 0)) (scaleTo (x.natAbs * y.natAbs) (0 + 0) 0).1 = x * y
  rw [scaleTo_zero, signedMant_mul, signedMant_natAbs, signedMant_natAbs]

theorem passTerms_int8 {b : Front} {p : Pass} {r : RowIn} (hmode : b.mode = 0) (hstat : b.fmt = 0) (hstream : p.fmt = 0)
    (hlive : r.live = true) (j : Nat) : passTerms b p r j = (List.range p.kst).map (fun i =>
      (FP.ofInt (signed 8 (r.codes.getD i 0))).mul (FP.ofInt (signed 8 (tabGet b.codes 0 (256 * i + j))))) := by
  unfold passTerms
  rw [hmode, hstat, hstream, hlive]
  rfl

/-- R98, R117: the sum of the products wraps into the word that ACC keeps, or into zero. -/
theorem passCell_int8 {b : Front} {p : Pass} {r : RowIn} (hmode : b.mode = 0) (hstat : b.fmt = 0) (hstream : p.fmt = 0)
    (hlive : r.live = true) (j : Nat) (old : Word32) : passCell b p r j [old] = [(if p.acc then old else 0) + BitVec.ofInt 32
      (((List.range p.kst).map (fun i => signed 8 (r.codes.getD i 0) * signed 8 (tabGet b.codes 0 (256 * i + j)))).sum)] := by
  have hsum : (passTerms b p r j).foldl (fun a t => a + t.toInt) 0 =
      ((List.range p.kst).map (fun i => signed 8 (r.codes.getD i 0) * signed 8 (tabGet b.codes 0 (256 * i + j)))).sum := by
    rw [passTerms_int8 hmode hstat hstream hlive, List.sum_eq_foldl, List.foldl_map, List.foldl_map]
    simp only [FP.toInt_mul_ofInt]
  unfold passCell
  rw [hmode, hstat, if_neg (by decide)]
  change [if !p.acc then BitVec.ofInt 32 ((passTerms b p r j).foldl (fun a t => a + t.toInt) 0)
    else old + BitVec.ofInt 32 ((passTerms b p r j).foldl (fun a t => a + t.toInt) 0)] = _
  rw [hsum]
  cases p.acc <;> simp

/-! ## Results that reach the basin (R96) -/

theorem passCell_word {b : Front} (hmode : b.mode ≠ 7) (p : Pass) (r : RowIn) (j : Nat) (old : List Word32) :
    passCell b p r j old = [(passCell b p r j old).headD 0] := by
  unfold passCell
  rw [if_neg hmode]
  rfl

/-- Distinct columns of a row change each its own word. -/
theorem tabGet_foldl_cells {b : Front} (hmode : b.mode ≠ 7) (p : Pass) (r : RowIn) (k : Nat) {js : List Nat} (hjs : js.Nodup)
    (w : Tab Word32) : tabGet (js.foldl (fun w j => tabWrite w 0 (p.cell b.mode r.row j).1
        (passCell b p r j (tabRange w 0 (p.cell b.mode r.row j).1 (p.cell b.mode r.row j).2))) w) 0 k =
      if (p.first + r.row) * p.width ≤ k ∧ k - (p.first + r.row) * p.width ∈ js then
        (passCell b p r (k - (p.first + r.row) * p.width) [tabGet w 0 k]).headD 0 else tabGet w 0 k := by
  have hcell : ∀ j, p.cell b.mode r.row j = ((p.first + r.row) * p.width + j, 1) := fun j => if_neg hmode
  generalize hlo : (p.first + r.row) * p.width = lo at hcell ⊢
  simp only [hcell]
  induction js generalizing w with
  | nil => simp
  | cons j js ih =>
    obtain ⟨hj, hjs⟩ := List.nodup_cons.mp hjs
    have hold : tabRange w 0 (lo + j) 1 = [tabGet w 0 (lo + j)] := rfl
    rw [List.foldl_cons, ih hjs, tabGet_tabWrite, hold, passCell_word hmode p r j [tabGet w 0 (lo + j)], List.length_singleton]
    by_cases hk : k = lo + j
    · subst hk
      have hsub : lo + j - lo = j := Nat.add_sub_cancel_left lo j
      rw [if_neg (by rw [hsub]; exact fun h => hj h.2), if_pos (by omega), if_pos (by rw [hsub]; simp), hsub, Nat.sub_self]
      rfl
    · have hne : k - lo = j → ¬ lo ≤ k := by omega
      rw [if_neg (c := lo + j ≤ k ∧ k < lo + j + 1) (by omega)]
      refine if_congr ?_ rfl rfl
      rw [List.mem_cons]
      exact ⟨fun h => ⟨h.1, Or.inr h.2⟩, fun h => ⟨h.1, h.2.resolve_left (fun hkj => hne hkj h.1)⟩⟩

/-- R96: the columns of a row due by tick t that were not yet in the basin reach it; no other word changes. -/
theorem Pass.basin_applyRow (p : Pass) {b : Front} (hmode : b.mode ≠ 7) (t : Nat) (w : Tab Word32) (rs : List RowIn) (r : RowIn)
    (k : Nat) : tabGet (p.applyRow b t (w, rs) r).1 0 k =
      if (p.first + r.row) * p.width + r.done ≤ k ∧ k < (p.first + r.row) * p.width + p.nst ∧
        k + p.start + r.row + p.kst + 5 ≤ t + (p.first + r.row) * p.width then
        (passCell b p r (k - (p.first + r.row) * p.width) [tabGet w 0 k]).headD 0
      else tabGet w 0 k := by
  have hjs : ((List.range (p.columnsBy r.row t)).drop r.done).Nodup := List.nodup_range.sublist (List.drop_sublist _ _)
  have hcols : p.columnsBy r.row t = min p.nst (t + 1 - (p.start + r.row + p.kst + 5)) := rfl
  rw [Pass.applyRow]
  refine (tabGet_foldl_cells hmode p r k hjs w).trans (if_congr ?_ rfl rfl)
  rw [List.range_eq_range', List.drop_range', List.mem_range'_1, hcols]
  omega

theorem MArray.basin_updates {a : MArray} {p : Pass} {r : RowIn} (hpasses : a.passes = [p]) (hflight : p.flight = [r]) (t : Nat) :
    (a.updates t).basin = (p.applyRow (a.blockOf p.num) t (a.basin, []) r).1 := by
  unfold MArray.updates
  rw [hpasses, List.foldl_cons, List.foldl_nil, hflight]
  rfl

end Sys2Proof.Machine
end

section
/-! Drains and diagonal runs in time (R100, R101, R120, R123): the row a sweep takes, and the updates it waits for. -/

namespace Sys2Proof.Machine

/-! ## A linear int32 drain (R123) -/

/-- A whole number within range is not rounded. -/
theorem FP.toIntSat_ofInt {x lo hi : Int} (hlo : lo ≤ x) (hhi : x ≤ hi) : ((FP.ofInt x).scale 0).toIntSat .rne lo hi = x := by
  have hround : roundInt .rne x.natAbs 0 0 = x.natAbs := if_pos ⟨rfl, rfl⟩
  unfold FP.ofInt FP.scale FP.toIntSat
  dsimp only
  rw [scaleTo_zero, if_neg (by decide)]
  dsimp only
  rw [hround, signedMant_natAbs, if_neg (by omega), if_neg (by omega)]

/-- An int32 word drained as int32 keeps its bits. -/
theorem fmtNarrow_int32 (w : Word32) : fmtNarrow .int32 .rne ((FP.ofInt w.toInt).scale 0) = w.toNat := by
  have hlo := BitVec.le_toInt w
  have hhi := BitVec.toInt_lt (x := w)
  have hlt := w.isLt
  have hsat : ((FP.ofInt w.toInt).scale 0).toIntSat .rne (-2147483648) 2147483647 = w.toInt :=
    FP.toIntSat_ofInt (by omega) (by omega)
  have hmod : w.toInt % (2 : Int) ^ 32 = w.toNat := by
    rw [BitVec.toInt_eq_toNat_cond]
    split <;> omega
  rw [fmtNarrow, hsat, unsigned, hmod]
  rfl

/-- Words written one behind another are read back. -/
theorem tabRange_writeAll_words (f : Nat → List Byte) (hf : ∀ j, (f j).length = 4) (t : Tab Byte) (base : Nat) {n j : Nat}
    (hj : j < n) : tabRange (writeAll t ((List.range n).map (fun j => (base + 4 * j, f j)))) 0 (base + 4 * j) 4 = f j := by
  obtain ⟨pre, post, hsplit⟩ := List.append_of_mem (List.mem_range.mpr hj)
  have hnot : j ∉ post := by
    have hnd := hsplit ▸ List.nodup_range (n := n)
    exact (List.nodup_cons.mp (List.nodup_append.mp hnd).2.1).1
  refine tabRange_eq (hf j) (fun i hi => ?_)
  rw [hsplit, List.map_append, List.map_cons, tabGet_writeAll ⟨Nat.le_add_right _ _, by simp only [hf]; omega⟩,
    Nat.add_sub_cancel_left]
  intro x hx hcovers
  obtain ⟨k, hk, rfl⟩ := List.mem_map.mp hx
  have hne : k ≠ j := fun h => hnot (h ▸ hk)
  simp only [covers, hf] at hcovers
  omega

section
variable {w : Sweep} {base : Nat} (tile : Nat) (a : MArray) (sc : Tab Byte) (hmode : w.mode = 0)
  (hout : mlFmt w.cmd.word = 10) (hwidth : w.width = 64)
include hmode hout hwidth

/-- Rounded to nearest and unscaled, the codes of an int32 row are its words. -/
theorem Sweep.codes_int32 (hfmt : w.fmt = 0) (hrne : bit (wImm w.cmd.word) 5 = false) (hexp : expField w.cmd.b = 0)
    (b : Tab Word32) (lo : Nat) :
    w.codes tile (tabRange b 0 lo 64) = (List.range 64).map (fun j => (tabGet b 0 (lo + j)).toNat) := by
  unfold Sweep.codes
  dsimp only
  rw [hmode, hfmt, hout, hrne, hexp, hwidth, if_neg (by decide)]
  refine List.map_congr_left (fun j hj => (fmtNarrow_int32 ((tabRange b 0 lo 64).getD j 0)).trans ?_)
  rw [getD_tabRange _ _ _ _ (List.mem_range.mp hj)]

/-- A linear drain writes 4-byte values one behind another from the row's place. -/
theorem Sweep.put_linear (hlinear : bit (wImm w.cmd.word) 4 = false)
    (hbase : base = w.cmd.base + w.cmd.a.toNat + w.next * 256) {row : List Word32} {f : Nat → Nat}
    (hcodes : w.codes tile row = (List.range 64).map f) :
    w.put tile row sc = writeAll sc ((List.range 64).map (fun j => (base + 4 * j, leBytes 4 (f j)))) := by
  have haddr : ∀ j, drainAddr (w.cmd.base + w.cmd.a.toNat) 64 4 false w.next j = base + 4 * j := fun j => by
    rw [hbase, drainAddr, if_neg (by decide)]
    omega
  unfold Sweep.put
  dsimp only
  rw [hmode, hout, hwidth, hlinear, hcodes, if_neg (by decide), ← List.map_prod_left_eq_zip, List.foldl_map,
    writeAll, List.foldl_map]
  simp only [← haddr]
  rfl

end

/-- R123: a drained row goes to scratch, and the array stays but for CLEAR. -/
theorem Sweep.row_drain {w : Sweep} (hop : w.cmd.op = mDrain) (hclear : bit (wImm w.cmd.word) 6 = false) (tile : Nat) (a : MArray)
    (sc : Tab Byte) : w.row tile a sc = (a, w.put tile (tabRange a.basin 0 (w.lo w.next) w.width) sc) := by
  have hdiag : w.cmd.op ≠ mDiag := by rw [hop]; decide
  rw [Sweep.row, if_neg hdiag, hclear]
  rfl

/-! ## A diagonal run (R120) -/

/-- R120: the row takes one product more, element by element; scratch and the rest of the array stay. -/
theorem Sweep.row_diag {w : Sweep} (hop : w.cmd.op = mDiag) (tile : Nat) (a : MArray) (sc : Tab Byte) : w.row tile a sc =
    ({ a with
        basin := tabWrite a.basin 0 ((firstRow w.cmd.c + w.next) * 64)
          (w.diag sc (tabRange a.basin 0 ((firstRow w.cmd.c + w.next) * 64) 64)) }, sc) := by
  have hwidth : w.width = 64 := if_pos hop
  have hlo : w.lo w.next = (firstRow w.cmd.c + w.next) * 64 := by rw [Sweep.lo, if_pos hop, hwidth]
  rw [Sweep.row, if_pos hop, hlo, hwidth]

theorem Sweep.length_diag (w : Sweep) (sc : Tab Byte) (old : List Word32) : (w.diag sc old).length = 64 := by simp [Sweep.diag]

/-- Element j of the row, every lane live: C + A·B, rounded once. -/
theorem Sweep.getD_diag {w : Sweep} (hlive : w.cmd.live = BitVec.allOnes 32) (sc : Tab Byte) (old : List Word32) {j : Nat}
    (hj : j < 64) : (w.diag sc old).getD j 0 = f32Of ((f32Val (old.getD j 0)).add
      ((codeValue (Config.diagFormat % 4) 0 (streamCode sc 2 (w.cmd.base + w.cmd.a.toNat) w.next j false)).mul
        (codeValue (Config.diagFormat % 4) 0 (streamCode sc 2 (w.cmd.base + w.cmd.b.toNat) w.next j false)))) := by
  have hrow : rowLive w.cmd.live w.next = true := by
    rw [rowLive, hlive, BitVec.getLsbD_allOnes]
    exact decide_eq_true (by omega)
  simp [Sweep.diag, hrow, List.getD, hj]

/-! ## Rows with updates to come (R100, R123) -/

/-- A fold that only rises passes `t` where its start or one of its steps does. -/
theorem lt_foldl_iff {β : Type} {f : Nat → β → Nat} {Q : β → Prop} {t : Nat} (h : ∀ a x, t < f a x ↔ t < a ∨ Q x) (l : List β) :
    ∀ a, t < l.foldl f a ↔ t < a ∨ ∃ x ∈ l, Q x := by
  induction l with
  | nil => simp
  | cons x r ih =>
    intro a
    rw [List.foldl_cons, ih, h, or_assoc, List.exists_mem_cons_iff]

/-- R100: words are not yet free at tick t if a row of a pass that overlaps them has its update at t or later. -/
theorem lt_freeFrom_iff (ps : List Pass) (lo hi t : Nat) : t < freeFrom ps lo hi ↔
    ∃ p ∈ ps, ∃ m, m < p.rows ∧ t ≤ p.update m ∧ (p.first + m) * p.width < hi ∧ lo < (p.first + m + 1) * p.width := by
  have hrow : ∀ (p : Pass) (a m : Nat), t < (if (p.first + m) * p.width < hi ∧ lo < (p.first + m + 1) * p.width then
      max a (p.update m + 1) else a) ↔
      t < a ∨ t ≤ p.update m ∧ (p.first + m) * p.width < hi ∧ lo < (p.first + m + 1) * p.width := fun p a m => by
    split <;> omega
  have hpass : ∀ (a : Nat) (p : Pass), t < (List.range p.rows).foldl (fun a m =>
      if (p.first + m) * p.width < hi ∧ lo < (p.first + m + 1) * p.width then max a (p.update m + 1) else a) a ↔
      t < a ∨ ∃ m, m < p.rows ∧ t ≤ p.update m ∧ (p.first + m) * p.width < hi ∧ lo < (p.first + m + 1) * p.width := fun a p => by
    rw [lt_foldl_iff (hrow p)]
    simp only [List.mem_range]
  rw [freeFrom, lt_foldl_iff hpass]
  simp

theorem Sweep.blocked_iff (w : Sweep) (a : MArray) (t : Nat) : w.blocked a t = true ↔ ∃ p ∈ a.passes, p.start < t ∧ ∃ m,
    m < p.rows ∧ t ≤ p.update m ∧ (p.first + m) * p.width < w.lo w.next + w.width ∧
    w.lo w.next < (p.first + m + 1) * p.width := by
  rw [Sweep.blocked, decide_eq_true_iff, lt_freeFrom_iff]
  simp only [List.mem_filter, decide_eq_true_iff, and_assoc]

/-- R100, R123: a row that is due with updates to come waits a tick, or is a hazard that ends a flume program's drain. -/
theorem Sweep.tick_blocked {w : Sweep} {a : MArray} {t : Nat} (hdue : w.due ≤ t) (hblocked : w.blocked a t = true) (tile : Nat)
    (sc : Tab Byte) : w.tick tile t (a, sc) = match w.place with
      | none => ({ a with sweeps := a.sweeps ++ [{ w with due := t + 1 }] }, sc)
      | some e => ({ a with hazard := some (a.hazard.getD (t, e)) }, sc) := by
  unfold Sweep.tick
  dsimp only
  refine (if_neg (Nat.not_lt.mpr hdue)).trans ((if_pos hblocked).trans ?_)
  cases w.place <;> rfl

/-! ## The obligation -/

/-- Settles O37: by the columns a front has read, the cell of an int8 pass, the words due of a row, and a sweep's next row. -/
theorem theArrayWorksTickByTick : Obligations.TheArrayWorksTickByTick := by
  unfold Obligations.TheArrayWorksTickByTick
  refine ⟨fun f sc t i j hread hcodes hi hj => f.codes_readTo sc t hread hcodes hi hj, ?_, ?_, ?_, ?_,
    fun w a t => w.blocked_iff a t, fun w tile t a sc hdue hblocked => Sweep.tick_blocked hdue hblocked tile sc⟩
  · intro b p r j old hmode hstat hstream hkst hlive
    rw [passCell_int8 hmode hstat hstream hlive, hkst]
  · rintro a _ p r t k hpasses hflight rfl hmode
    rw [MArray.basin_updates hpasses hflight]
    exact p.basin_applyRow hmode t a.basin [] r k
  · intro w tile base a sc hop hmode hfmt hout hlinear hrne hclear hexp hbase
    have hdiag : w.cmd.op ≠ mDiag := by rw [hop]; decide
    have hwidth : w.width = 64 := by rw [Sweep.width, if_neg hdiag, hmode, hfmt]; rfl
    have hlo : w.lo w.next = (firstRow w.cmd.b + w.next) * 64 := by rw [Sweep.lo, if_neg hdiag, hwidth]
    rw [Sweep.row_drain hop hclear, hlo, hwidth, Sweep.put_linear tile sc hmode hout hwidth hlinear hbase
      (Sweep.codes_int32 tile hmode hout hwidth hfmt hrne hexp a.basin _)]
    refine ⟨rfl, fun j hj => tabRange_writeAll_words
      (fun j => leBytes 4 (tabGet a.basin 0 ((firstRow w.cmd.b + w.next) * 64 + j)).toNat) (fun _ => length_leBytes _ _) sc base hj,
      fun n hn => tabGet_writeAll_other (fun x hx => ?_) sc⟩
    obtain ⟨j, hj, rfl⟩ := List.mem_map.mp hx
    have hj := List.mem_range.mp hj
    simp only [covers, length_leBytes]
    omega
  · intro w tile a sc hop hlive
    rw [Sweep.row_diag hop]
    refine ⟨rfl, rfl, fun j hj => ?_, fun n hn => ?_⟩
    · dsimp only
      rw [tabGet_tabWrite, Sweep.length_diag, if_pos (by omega), Nat.add_sub_cancel_left, Sweep.getD_diag hlive sc _ hj,
        getD_tabRange _ _ _ _ hj]
    · dsimp only
      rw [tabGet_tabWrite, Sweep.length_diag, if_neg (by omega)]

end Sys2Proof.Machine
end

section
/-! Lines of a cache (R201, R204 to R207): the bytes of a line after a store or a fill, and what changes of the keep marks and of the
order of a set leave of its lines. -/

namespace Sys2Proof.Machine

/-! ## Masks of bytes and of sectors -/

@[simp] theorem length_overlayBytes : ∀ (l : List Byte) (d : List (Option Byte)), (overlayBytes l d).length = l.length
  | [], d => by cases d <;> rfl
  | _ :: _, [] => rfl
  | _ :: r, some _ :: q => by simp [overlayBytes, length_overlayBytes r q]
  | _ :: r, none :: q => by simp [overlayBytes, length_overlayBytes r q]

theorem getD_overlayBytes : ∀ (l : List Byte) (d : List (Option Byte)) {j : Nat}, j < l.length →
    (overlayBytes l d).getD j 0 = (d.getD j none).getD (l.getD j 0)
  | [], _, _, h => absurd h (Nat.not_lt_zero _)
  | _ :: _, [], _, _ => by simp [overlayBytes]
  | _ :: _, some _ :: _, 0, _ => rfl
  | _ :: _, none :: _, 0, _ => rfl
  | _ :: r, some _ :: q, j + 1, h => by simpa [overlayBytes] using getD_overlayBytes r q (Nat.lt_of_succ_lt_succ h)
  | _ :: r, none :: q, j + 1, h => by simpa [overlayBytes] using getD_overlayBytes r q (Nat.lt_of_succ_lt_succ h)

/-- Bytes that give nothing leave the list as it is. -/
theorem overlayBytes_none : ∀ (l : List Byte) {d : List (Option Byte)}, (∀ x ∈ d, x = none) → overlayBytes l d = l
  | [], d, _ => by cases d <;> rfl
  | _ :: _, [], _ => rfl
  | _ :: _, some _ :: _, h => absurd (h _ List.mem_cons_self) (by simp)
  | _ :: r, none :: q, h => by rw [overlayBytes, overlayBytes_none r fun x hx => h x (List.mem_cons_of_mem _ hx)]

theorem maskOf_shift : ∀ (d : List (Option Byte)) (i : Nat), maskOf i d = 2 ^ i * maskOf 0 d
  | [], _ => rfl
  | none :: r, i => by rw [maskOf, maskOf, maskOf_shift r (i + 1), maskOf_shift r (0 + 1)]; ring
  | some _ :: r, i => by rw [maskOf, maskOf, maskOf_shift r (i + 1), maskOf_shift r (0 + 1)]; ring

theorem testBit_maskOf : ∀ (d : List (Option Byte)) (j : Nat), (maskOf 0 d).testBit j = (d.getD j none).isSome
  | [], j => by simp [maskOf]
  | none :: r, 0 => by
    rw [maskOf, maskOf_shift r (0 + 1), Nat.testBit_zero]
    simp
  | some _ :: r, 0 => by
    rw [maskOf, maskOf_shift r (0 + 1), Nat.testBit_zero]
    simp [Nat.add_mod]
  | none :: r, j + 1 => by
    rw [maskOf, maskOf_shift r (0 + 1), Nat.testBit_succ, show 2 ^ (0 + 1) * maskOf 0 r / 2 = maskOf 0 r by omega, testBit_maskOf r j]
    rfl
  | some _ :: r, j + 1 => by
    rw [maskOf, maskOf_shift r (0 + 1), Nat.testBit_succ, show (2 ^ 0 + 2 ^ (0 + 1) * maskOf 0 r) / 2 = maskOf 0 r by omega,
      testBit_maskOf r j]
    rfl

theorem getD_placeAt {off : Nat} {d : List (Option Byte)} (hfit : off + d.length ≤ 128) (j : Nat) :
    (placeAt off d).getD j none = if off ≤ j then d.getD (j - off) none else none := by
  have hlen : (List.replicate off none ++ d).length ≤ 128 := by simpa using hfit
  rw [placeAt, List.take_of_length_le hlen]
  split
  · next h => rw [List.getD_append_right _ _ _ _ (by simpa using h), List.length_replicate]
  · next h =>
    rw [List.getD_append _ _ _ _ (by simpa using h)]
    simp only [List.getD_eq_getElem?_getD, List.getElem?_replicate]
    split <;> rfl

theorem fullSectors_eq (m : Nat) : fullSectors m = bitSum (fun k => decide (fld m (32 * k) 32 = 2 ^ 32 - 1)) 4 := by
  simp [fullSectors, bitSum]

theorem sectorsOf_eq (off n : Nat) : sectorsOf off n = bitSum (fun k => decide (32 * k < off + n ∧ off < 32 * k + 32)) 4 := by
  simp [sectorsOf, bitSum]

theorem testBit_sectorsOf (off n k : Nat) :
    (sectorsOf off n).testBit k = decide (k < 4 ∧ 32 * k < off + n ∧ off < 32 * k + 32) := by
  rw [sectorsOf_eq, ← bit, bit_bitSum, ← Bool.decide_and]

/-- R192, R204: of a sector written whole every byte is in the mask. -/
theorem testBit_of_fullSectors {m k : Nat} (h : (fullSectors m).testBit k = true) {j : Nat} (hj : j / 32 = k) :
    m.testBit j = true := by
  rw [fullSectors_eq, ← bit, bit_bitSum, Bool.and_eq_true, decide_eq_true_iff, decide_eq_true_iff, fld] at h
  have hbit : (m / 2 ^ (32 * k) % 2 ^ 32).testBit (j % 32) = true := by
    rw [h.2, Nat.testBit_two_pow_sub_one]
    simp [Nat.mod_lt]
  rw [Nat.testBit_mod_two_pow, Bool.and_eq_true, Nat.testBit_div_two_pow] at hbit
  rw [← hbit.2]
  congr 1
  omega

/-! ## A line after a store and after a fill -/

theorem Line.getD_store {l : Line} (hlen : l.data.length = 128) (d : List (Option Byte)) {j : Nat} (hj : j < 128) :
    (l.store d).data.getD j 0 = (d.getD j none).getD (l.data.getD j 0) := getD_overlayBytes _ _ (hlen ▸ hj)

theorem Line.dirty_store (l : Line) (d : List (Option Byte)) {j : Nat} (hj : j < 128) :
    (l.store d).dirty.getLsbD j = (l.dirty.getLsbD j || (d.getD j none).isSome) := by
  simp only [Line.store, BitVec.getLsbD_ofNat, Nat.testBit_or, Nat.testBit_mod_two_pow, hj, decide_true, Bool.true_and,
    testBit_maskOf]
  rfl

/-- R204: a store makes no byte held that it does not write. -/
theorem Line.holds_store (l : Line) (d : List (Option Byte)) {j : Nat} (hj : j < 128) :
    (l.store d).holds j = (l.holds j || (d.getD j none).isSome) := by
  have hvalid : (l.store d).valid.getLsbD (j / 32) =
      (l.valid.getLsbD (j / 32) || (fullSectors (l.dirty.toNat ||| maskOf 0 d % 2 ^ 128)).testBit (j / 32)) := by
    simp only [Line.store, BitVec.getLsbD_or, BitVec.getLsbD_ofNat, show j / 32 < 4 by omega, decide_true, Bool.true_and]
  have hfull : (fullSectors (l.dirty.toNat ||| maskOf 0 d % 2 ^ 128)).testBit (j / 32) = true →
      (l.dirty.getLsbD j || (d.getD j none).isSome) = true := by
    intro h
    have hbit := testBit_of_fullSectors h rfl
    rw [Nat.testBit_or, Nat.testBit_mod_two_pow, testBit_maskOf, decide_eq_true hj, Bool.true_and] at hbit
    exact hbit
  rw [Line.holds, Line.holds, hvalid, l.dirty_store d hj]
  cases hf : (fullSectors (l.dirty.toNat ||| maskOf 0 d % 2 ^ 128)).testBit (j / 32)
  · simp only [Bool.or_false]
    ac_rfl
  · rw [hfull hf, Bool.true_or, Bool.or_right_comm, hfull hf, Bool.true_or]

theorem Line.getD_fill {l : Line} (hlen : l.data.length = 128) (k : Nat) (d : List Byte) {j : Nat} (hj : j < 128) :
    (l.fill k d).data.getD j 0 = if j / 32 = k ∧ l.dirty.getLsbD j = false then d.getD (j % 32) 0 else l.data.getD j 0 := by
  rw [Line.fill, getD_overlayBytes _ _ (hlen ▸ hj)]
  simp only [List.getD_eq_getElem?_getD, List.getElem?_map, List.getElem?_range hj, Option.map_some, Option.getD_some]
  split <;> simp_all

@[simp] theorem Line.dirty_fill (l : Line) (k : Nat) (d : List Byte) : (l.fill k d).dirty = l.dirty := rfl

@[simp] theorem Line.length_fill (l : Line) (k : Nat) (d : List Byte) : (l.fill k d).data.length = l.data.length :=
  length_overlayBytes _ _

@[simp] theorem Line.length_store (l : Line) (d : List (Option Byte)) : (l.store d).data.length = l.data.length :=
  length_overlayBytes _ _

theorem Line.valid_fill (l : Line) {k : Nat} (hk : k < 4) (d : List Byte) (i : Nat) :
    (l.fill k d).valid.getLsbD i = (l.valid.getLsbD i || decide (i = k)) := by
  simp only [Line.fill, BitVec.getLsbD_or, BitVec.getLsbD_ofNat, Nat.testBit_two_pow]
  by_cases h : i = k
  · simp [h, hk]
  · simp [h, Ne.symm h]

/-! ## The keep marks and the order of a set (R206 to R208) -/

/-- A line without its keep mark. -/
def Line.body (l : Line) : Line := { l with keep := false }

/-- A change of a line that neither sees nor makes a keep mark and keeps the line what it is. -/
def Line.plain (f : Line → Line) : Prop :=
  (∀ l, (f l).body = f l.body) ∧ ∀ l, (f l).tag = l.tag ∧ (f l).dev = l.dev

/-- A choice of lines by what they are of. -/
def Line.named (p : Line → Bool) : Prop := ∀ l k : Line, k.tag = l.tag → k.dev = l.dev → p k = p l

theorem Line.named_tag (n : Nat) : Line.named (fun l => l.tag == n) := fun l k h _ => by simp only [h]

theorem Line.named_isFab (dev n : Nat) : Line.named (fun l => l.isFab dev n) := fun l k h h' => by
  simp only [Line.isFab, h, h']

theorem Line.plain_id : Line.plain id := ⟨fun _ => rfl, fun _ => ⟨rfl, rfl⟩⟩

theorem Line.plain_store (d : List (Option Byte)) : Line.plain (fun l => l.store d) := ⟨fun _ => rfl, fun _ => ⟨rfl, rfl⟩⟩

theorem Line.plain.body {f : Line → Line} (h : Line.plain f) {l k : Line} (hlk : l.body = k.body) : (f l).body = (f k).body := by
  rw [h.1, hlk, ← h.1]

section
variable {p : Line → Bool} (hp : Line.named p)
include hp

theorem find_body (ls : List Line) : (ls.find? p).map Line.body = (ls.map Line.body).find? p := by
  rw [List.find?_map]
  congr 2
  funext l
  exact (hp l l.body rfl rfl).symm

/-- Two sets of the same lines, but for their keep marks, hold the same line. -/
theorem find_of_bodies {ls ks : List Line} (h : ls.map Line.body = ks.map Line.body) :
    (ls.find? p).map Line.body = (ks.find? p).map Line.body := by rw [find_body hp, find_body hp, h]

/-- R206: wherever a hint puts a line, the set holds it, and of the others what the rest held. -/
theorem find_hintLine {l : Line} {rest : List Line} (hrest : p l = true → ∀ x ∈ rest, p x = false) (hint cap : Nat) :
    ((hintLine hint cap l rest).1.find? p).map Line.body = if p l = true then some l.body else (rest.find? p).map Line.body := by
  have hfront : ((l :: rest).find? p).map Line.body = if p l = true then some l.body else (rest.find? p).map Line.body := by
    rw [List.find?_cons]
    split <;> simp_all
  have hkept : (({ l with keep := true } :: rest).find? p).map Line.body = ((l :: rest).find? p).map Line.body :=
    find_of_bodies hp rfl
  have hback : ((rest ++ [{ l with keep := false }]).find? p).map Line.body =
      if p l = true then some l.body else (rest.find? p).map Line.body := by
    have hl : p { l with keep := false } = p l := hp l _ rfl rfl
    rw [List.find?_append]
    by_cases h : p l = true
    · rw [List.find?_eq_none.mpr (fun x hx => by simp [hrest h x hx])]
      simp [h, hl, Line.body]
    · simp [h, hl]
  unfold hintLine
  split
  · split
    · exact hfront
    · split
      · exact hkept.trans hfront
      · exact hfront
  · exact hback
  · exact hfront

end

theorem bodies_demote_go (ls : List Line) : ∀ room, (demoteKeep.go ls room).map Line.body = ls.map Line.body := by
  induction ls with
  | nil => exact fun _ => rfl
  | cons l r ih =>
    intro room
    unfold demoteKeep.go
    split
    · split <;> simp [ih, Line.body]
    · simp [ih]

@[simp] theorem bodies_demoteKeep (cap : Nat) (ls : List Line) : (demoteKeep cap ls).map Line.body = ls.map Line.body :=
  bodies_demote_go ls cap

@[simp] theorem bodies_unkeepSet (ls : List Line) : (unkeepSet ls).map Line.body = ls.map Line.body := by
  simp [unkeepSet, Line.body]

theorem length_of_bodies {ls ks : List Line} (h : ls.map Line.body = ks.map Line.body) : ls.length = ks.length := by
  simpa using congrArg List.length h

/-- Lines taken out leave what a choice of others finds. -/
theorem find_filter_out {p q : Line → Bool} {ls : List Line} (h : ∀ x ∈ ls, p x = true → q x = true) :
    (ls.filter q).find? p = ls.find? p := by
  rw [List.find?_filter]
  refine List.find?_congr fun x hx => ?_
  cases hpx : p x
  · simp
  · simp [h x hx hpx]

/-- A change of some lines of a list, seen by a choice that it leaves alone. -/
theorem find_modIf {p q : Line → Bool} {f : Line → Line} (hf : ∀ l, p (f l) = p l) (ls : List Line) :
    (modIf ls q f).find? p = (ls.find? p).map (fun l => if q l then f l else l) := by
  rw [modIf, List.find?_map]
  congr 2
  funext l
  simp only [Function.comp]
  split
  · exact hf l
  · rfl

end Sys2Proof.Machine
end

section
/-! A line at its home (R202, R204, R206, R207, R210): the byte the home reads, by the copy the cache holds, and what bringing a line
to hand leaves of every other line. -/

namespace Sys2Proof.Machine

/-! ## Where a line lies -/

section
variable {s t : State}

theorem State.locate_congr (h : t.localActive = s.localActive) (a : Nat) : t.locate a = s.locate a := by
  cases s
  cases t
  cases h
  rfl

theorem State.channelOf_congr (h : t.localActive = s.localActive) (line : Nat) : t.channelOf line = s.channelOf line := by
  cases s
  cases t
  cases h
  rfl

theorem State.setOf_eq (s : State) (line : Nat) : s.setOf line = (let l := (s.locate (line * 128)).2 / 128
    l % 512 ^^^ l / 512 % 512) := rfl

theorem State.setOf_congr (h : t.localActive = s.localActive) (line : Nat) : t.setOf line = s.setOf line := by
  rw [State.setOf_eq, State.setOf_eq, State.locate_congr h]

theorem State.slice_setSlice (s : State) (ch k : Nat) (x : Slice) : (s.setSlice ch x).slice k = if k = ch then x else s.slice k :=
  tabGet_tabSet _ _ _ _ _

theorem State.slice_congr (h : t.slices = s.slices) (k : Nat) : t.slice k = s.slice k := by rw [State.slice, State.slice, h]

theorem Slice.set_setSet (x : Slice) (i j : Nat) (l : List Line) : (x.setSet i l).set j = if j = i then l else x.set j :=
  tabGet_tabSet _ _ _ _ _

/-! ## The byte the home reads -/

/-- The lines of a set, without their keep marks. -/
def State.bodies (s : State) (ch i : Nat) : List Line := ((s.slice ch).set i).map Line.body

/-- The cache's copy of a line, without its keep mark. -/
def State.copy (s : State) (line : Nat) : Option Line := (s.cached line).map Line.body

theorem State.copy_eq (s : State) (line : Nat) :
    s.copy line = (s.bodies (s.channelOf line) (s.setOf line)).find? (fun l => l.tag == line) :=
  find_body (Line.named_tag line) _

theorem State.copy_congr (hlocal : t.localActive = s.localActive) {line : Nat}
    (h : t.bodies (s.channelOf line) (s.setOf line) = s.bodies (s.channelOf line) (s.setOf line)) : t.copy line = s.copy line := by
  rw [State.copy_eq, State.copy_eq, State.channelOf_congr hlocal, State.setOf_congr hlocal, h]

theorem State.copy_of_cached {line : Nat} {l : Line} (h : s.cached line = some l) : s.copy line = some l.body := by
  rw [State.copy, h, Option.map_some]

theorem State.copy_none {line : Nat} : s.copy line = none ↔ s.cached line = none := Option.map_eq_none_iff

theorem State.tag_of_cached {line : Nat} {l : Line} (h : s.cached line = some l) : l.tag = line :=
  beq_iff_eq.mp (List.find?_some (p := fun l : Line => l.tag == line) h)

/-- R202, R204, R210: the cached copy's byte where it holds one, else the byte under it. -/
theorem State.homeByte_eq (s : State) (a : Nat) : s.homeByte a = match s.copy (a / 128) with
    | some l => if l.holds (a % 128) then l.data.getD (a % 128) 0 else s.underByte a
    | none => if (s.slice (s.channelOf (a / 128))).dead.elem (a / 128) then deadByte a else s.underByte a := by
  rw [State.homeByte, State.copy]
  cases s.cached (a / 128) <;> rfl

theorem State.homeByte_copied {a : Nat} {l : Line} (h : s.copy (a / 128) = some l) :
    s.homeByte a = if l.holds (a % 128) then l.data.getD (a % 128) 0 else s.underByte a := by
  rw [State.homeByte_eq, h]

theorem State.homeByte_uncopied {a : Nat} (h : s.copy (a / 128) = none)
    (hdead : (s.slice (s.channelOf (a / 128))).dead.elem (a / 128) = false) : s.homeByte a = s.underByte a := by
  rw [State.homeByte_eq, h, hdead]
  rfl

/-- What lies under the cache of a channel: the write-back buffer and DRAM. -/
theorem State.underByte_congr (hlocal : t.localActive = s.localActive) {a : Nat}
    (hwb : (t.slice (s.channelOf (a / 128))).wb = (s.slice (s.channelOf (a / 128))).wb) (hdram : t.dram = s.dram) :
    t.underByte a = s.underByte a := by
  rw [State.underByte, State.underByte, State.channelOf_congr hlocal, hwb, hdram]

theorem State.homeByte_congr (hlocal : t.localActive = s.localActive) {a : Nat} (hcopy : t.copy (a / 128) = s.copy (a / 128))
    (hwb : (t.slice (s.channelOf (a / 128))).wb = (s.slice (s.channelOf (a / 128))).wb)
    (hdead : (t.slice (s.channelOf (a / 128))).dead = (s.slice (s.channelOf (a / 128))).dead) (hdram : t.dram = s.dram) :
    t.homeByte a = s.homeByte a := by
  rw [State.homeByte_eq, State.homeByte_eq, hcopy, State.underByte_congr hlocal hwb hdram, State.channelOf_congr hlocal, hdead]

/-! ## Changes of the sets alone -/

/-- What a slice holds beside its sets. -/
def Slice.rest (x : Slice) : List Miss × List Nat × List Line × List Nat := (x.miss, x.inq, x.wb, x.dead)

@[simp] theorem Slice.rest_setSet (x : Slice) (i : Nat) (l : List Line) : (x.setSet i l).rest = x.rest := rfl

theorem Slice.rest_eq {x y : Slice} (h : x.rest = y.rest) : x.miss = y.miss ∧ x.inq = y.inq ∧ x.wb = y.wb ∧ x.dead = y.dead := by
  simpa [Slice.rest] using h

/-- `t` is `s` but for the sets of its slices, a sweep's visits and the counters of memory. -/
def State.setsOnly (s t : State) : Prop :=
  t = { s with slices := t.slices, memCounters := t.memCounters, keepSweep := t.keepSweep } ∧ ∀ k, (t.slice k).rest = (s.slice k).rest

/-- `t` is `s` but for the caches, the write-back buffers and DRAM. -/
def State.cachesOnly (s t : State) : Prop :=
  t = { s with slices := t.slices, memCounters := t.memCounters, keepSweep := t.keepSweep, dram := t.dram, poison := t.poison }

theorem State.cachesOnly.refl (s : State) : s.cachesOnly s := rfl

theorem State.cachesOnly.trans {u : State} (h : s.cachesOnly t) (h' : t.cachesOnly u) : s.cachesOnly u := by
  rw [State.cachesOnly, h', h]

theorem State.cachesOnly.field (h : s.cachesOnly t) {γ : Type} (p : State → γ)
    (hp : ∀ u a b c d e, p { u with slices := a, memCounters := b, keepSweep := c, dram := d, poison := e } = p u) : p t = p s := by
  rw [h, hp]

/-- As `setsOnly`, but lines may also go to the write-back buffer, and from it to DRAM. -/
def State.evicts (s t : State) : Prop :=
  s.cachesOnly t ∧ ∀ k, (t.slice k).miss = (s.slice k).miss ∧ (t.slice k).inq = (s.slice k).inq ∧ (t.slice k).dead = (s.slice k).dead

theorem State.setsOnly.refl (s : State) : s.setsOnly s := ⟨rfl, fun _ => rfl⟩

theorem State.setsOnly.trans {u : State} (h : s.setsOnly t) (h' : t.setsOnly u) : s.setsOnly u :=
  ⟨by rw [h'.1, h.1], fun k => (h'.2 k).trans (h.2 k)⟩

theorem State.evicts.refl (s : State) : s.evicts s := ⟨rfl, fun _ => ⟨rfl, rfl, rfl⟩⟩

theorem State.evicts.trans {u : State} (h : s.evicts t) (h' : t.evicts u) : s.evicts u := by
  refine ⟨h.1.trans h'.1, fun k => ?_⟩
  obtain ⟨hm, hi, hd⟩ := h.2 k
  obtain ⟨hm', hi', hd'⟩ := h'.2 k
  exact ⟨hm'.trans hm, hi'.trans hi, hd'.trans hd⟩

theorem State.setsOnly.evicts (h : s.setsOnly t) : s.evicts t := by
  refine ⟨by rw [State.cachesOnly, h.1], fun k => ?_⟩
  obtain ⟨hm, hi, -, hd⟩ := Slice.rest_eq (h.2 k)
  exact ⟨hm, hi, hd⟩

theorem State.evicts.field (h : s.evicts t) {γ : Type} (p : State → γ)
    (hp : ∀ u a b c d e, p { u with slices := a, memCounters := b, keepSweep := c, dram := d, poison := e } = p u) : p t = p s :=
  h.1.field p hp

theorem State.evicts.localActive (h : s.evicts t) : t.localActive = s.localActive := by rw [h.1]

theorem State.setsOnly.localActive (h : s.setsOnly t) : t.localActive = s.localActive := by rw [h.1]

theorem State.setsOnly.dram (h : s.setsOnly t) : t.dram = s.dram := by rw [h.1]

theorem State.setsOnly.wb (h : s.setsOnly t) (k : Nat) : (t.slice k).wb = (s.slice k).wb := (Slice.rest_eq (h.2 k)).2.2.1

theorem State.setsOnly.dead (h : s.setsOnly t) (k : Nat) : (t.slice k).dead = (s.slice k).dead := (Slice.rest_eq (h.2 k)).2.2.2

theorem State.setsOnly.homeByte (h : s.setsOnly t) {a : Nat} (hcopy : t.copy (a / 128) = s.copy (a / 128)) :
    t.homeByte a = s.homeByte a :=
  State.homeByte_congr h.localActive hcopy (h.wb _) (h.dead _) h.dram

end

/-! ## The sweep, a set put back, a victim (R204, R207, R208) -/

section
variable (s : State)

theorem State.countDemoted_only (ch : Nat) (ov : Bool) : s.setsOnly (s.countDemoted ch ov) := by
  unfold State.countDemoted
  split
  · exact ⟨rfl, fun _ => rfl⟩
  · exact .refl s

theorem State.countDemoted_slices (ch : Nat) (ov : Bool) : (s.countDemoted ch ov).slices = s.slices := by
  unfold State.countDemoted
  split <;> rfl

theorem State.countPressure_only (ch : Nat) (set : List Line) (l : Line) : s.setsOnly (s.countPressure ch set l) := by
  unfold State.countPressure
  split
  · exact ⟨rfl, fun _ => rfl⟩
  · exact .refl s

theorem State.countPressure_slices (ch : Nat) (set : List Line) (l : Line) : (s.countPressure ch set l).slices = s.slices := by
  unfold State.countPressure
  split <;> rfl

theorem State.rest_setSlice {ch : Nat} {x : Slice} (hx : x.rest = (s.slice ch).rest) (k : Nat) :
    ((s.setSlice ch x).slice k).rest = (s.slice k).rest := by
  rw [State.slice_setSlice]
  split
  · next h => rw [hx, h]
  · rfl

theorem State.setSlice_only {ch : Nat} {x : Slice} (hx : x.rest = (s.slice ch).rest) : s.setsOnly (s.setSlice ch x) :=
  ⟨rfl, s.rest_setSlice hx⟩

theorem State.set_setSlice (ch i k j : Nat) (x : Slice) (L : List Line) (hx : x = s.slice ch) :
    ((s.setSlice ch (x.setSet i L)).slice k).set j = if k = ch ∧ j = i then L else (s.slice k).set j := by
  rw [State.slice_setSlice]
  split
  · next h => subst hx h; simp [Slice.set_setSet]
  · next h => simp [h]

/-- R208: a visit of the sweep takes keep marks away, nothing else. -/
theorem State.sweepHome_facts (ch i : Nat) : s.setsOnly (s.sweepHome ch i) ∧ ∀ k j, (s.sweepHome ch i).bodies k j = s.bodies k j := by
  unfold State.sweepHome
  split
  · exact ⟨.refl s, fun _ _ => rfl⟩
  · split
    · dsimp only
      refine ⟨⟨rfl, State.rest_setSlice _ (Slice.rest_setSet _ _ _)⟩, fun k j => ?_⟩
      rw [State.bodies, State.set_setSlice _ ch i k j (s.slice ch) _ (by rfl)]
      split
      · next h => rw [bodies_unkeepSet, h.1, h.2]; rfl
      · rfl
    · exact ⟨.refl s, fun _ _ => rfl⟩

/-- R204: a victim's dirty bytes go to the write-back buffer, and the oldest of the buffer to DRAM where it is full. -/
theorem State.evictTo_facts (ch : Nat) (l : Line) : s.evicts (s.evictTo ch l) ∧
    (∀ k, ((s.evictTo ch l).slice k).sets = (s.slice k).sets) ∧
    ((s.slice ch).wb.length < 32 → (s.evictTo ch l).dram = s.dram) := by
  have hslice : ∀ (u : State) (wb : List Line), (∀ k, u.slice k = s.slice k) → ∀ k,
      ((u.setSlice ch { s.slice ch with wb := wb }).slice k).miss = (s.slice k).miss ∧
      ((u.setSlice ch { s.slice ch with wb := wb }).slice k).inq = (s.slice k).inq ∧
      ((u.setSlice ch { s.slice ch with wb := wb }).slice k).dead = (s.slice k).dead ∧
      ((u.setSlice ch { s.slice ch with wb := wb }).slice k).sets = (s.slice k).sets := by
    intro u wb hu k
    rw [State.slice_setSlice]
    split
    · next h => rw [h]; exact ⟨rfl, rfl, rfl, rfl⟩
    · rw [hu]; exact ⟨rfl, rfl, rfl, rfl⟩
  unfold State.evictTo
  split
  · exact ⟨.refl s, fun _ => rfl, fun _ => rfl⟩
  · dsimp only
    split
    · have h := hslice s ((s.slice ch).wb ++ [l]) (fun _ => rfl)
      exact ⟨⟨rfl, fun k => ⟨(h k).1, (h k).2.1, (h k).2.2.1⟩⟩, fun k => (h k).2.2.2, fun _ => rfl⟩
    · next hfull =>
      split
      · next o r _ =>
        have h := hslice (s.writeBack o) (r ++ [l]) (fun _ => rfl)
        exact ⟨⟨rfl, fun k => ⟨(h k).1, (h k).2.1, (h k).2.2.1⟩⟩, fun k => (h k).2.2.2, fun hwb => absurd hwb hfull⟩
      · exact ⟨.refl s, fun _ => rfl, fun _ => rfl⟩

end

/-! ## A line brought to hand (R204, R206, R207) -/

/-- The set in which a line is looked for: after the sweep's visit, with no more keep lines than the cap. -/
def State.readied (s : State) (line : Nat) : List Line :=
  demoteKeep (s.sweepHome (s.channelOf line) (s.setOf line)).keepCap
    (((s.sweepHome (s.channelOf line) (s.setOf line)).slice (s.channelOf line)).set (s.setOf line))

/-- The state with a set put back in the place of the line's. -/
def State.placed (s : State) (line : Nat) (p : List Line × Bool) : State :=
  (s.setSlice (s.channelOf line) ((s.slice (s.channelOf line)).setSet (s.setOf line) p.1)).countDemoted (s.channelOf line) p.2

section
variable {s : State} {line : Nat}

theorem State.bodies_readied (s : State) (line : Nat) :
    (s.readied line).map Line.body = s.bodies (s.channelOf line) (s.setOf line) := by
  rw [State.readied, bodies_demoteKeep]
  exact (s.sweepHome_facts _ _).2 _ _

theorem State.find_readied (s : State) (line : Nat) :
    ((s.readied line).find? (fun l => l.tag == line)).map Line.body = s.copy line := by
  rw [find_body (Line.named_tag line), State.bodies_readied, State.copy_eq]

theorem State.length_readied (s : State) (line : Nat) :
    (s.readied line).length = ((s.slice (s.channelOf line)).set (s.setOf line)).length :=
  length_of_bodies (s.bodies_readied line)

theorem State.placed_only (s : State) (line : Nat) (p : List Line × Bool) : s.setsOnly (s.placed line p) :=
  (s.setSlice_only (Slice.rest_setSet _ _ _)).trans (State.countDemoted_only _ _ _)

theorem State.bodies_placed (s : State) (line : Nat) (p : List Line × Bool) (k j : Nat) :
    (s.placed line p).bodies k j = if k = s.channelOf line ∧ j = s.setOf line then p.1.map Line.body else s.bodies k j := by
  rw [State.bodies, State.placed, State.slice_congr (State.countDemoted_slices _ _ _), State.set_setSlice _ _ _ _ _ _ _ rfl]
  split <;> rfl

/-- What `touchLine` starts from: the line that the set holds, or a new one. -/
def State.before (s : State) (line : Nat) (l : Line) : Prop :=
  s.copy line = some l.body ∨ s.copy line = none ∧ l = Line.new line 0 0

/-- A line put into a set whose other lines are those it had: the copies after it. -/
theorem State.copy_put {t : State} (hlocal : t.localActive = s.localActive) {l : Line} (hl : l.tag = line) {rest : List Line}
    (hrest : ∀ x ∈ rest, x.tag ≠ line) (hint cap : Nat)
    (hhere : t.bodies (s.channelOf line) (s.setOf line) = (hintLine hint cap l rest).1.map Line.body)
    (hthere : ∀ k j, ¬ (k = s.channelOf line ∧ j = s.setOf line) → t.bodies k j = s.bodies k j) :
    t.copy line = some l.body ∧
    ((∀ n, n ≠ line → (rest.find? (fun x => x.tag == n)).map Line.body =
        (s.bodies (s.channelOf line) (s.setOf line)).find? (fun x => x.tag == n)) → ∀ n, n ≠ line → t.copy n = s.copy n) := by
  have hnone : ∀ n, (l.tag == n) = true → ∀ x ∈ rest, (x.tag == n) = false := fun n hn x hx => by
    rw [← beq_iff_eq.mp hn, hl]
    exact beq_eq_false_iff_ne.mpr (hrest x hx)
  have hfind : ∀ n, (t.bodies (s.channelOf line) (s.setOf line)).find? (fun x => x.tag == n) =
      if (l.tag == n) = true then some l.body else (rest.find? (fun x => x.tag == n)).map Line.body := fun n => by
    rw [hhere, ← find_body (Line.named_tag n), find_hintLine (Line.named_tag n) (hnone n)]
  constructor
  · rw [State.copy_eq, State.channelOf_congr hlocal, State.setOf_congr hlocal, hfind, if_pos (beq_iff_eq.mpr hl)]
  · intro hothers n hn
    rw [State.copy_eq, State.copy_eq, State.channelOf_congr hlocal, State.setOf_congr hlocal]
    by_cases h : s.channelOf n = s.channelOf line ∧ s.setOf n = s.setOf line
    · rw [h.1, h.2, hfind, if_neg (by rw [beq_iff_eq, hl]; exact Ne.symm hn), hothers n hn]
    · rw [hthere _ _ h]

end

end Sys2Proof.Machine
end

section
/-! Lines brought to hand and stores at the home (R204, R206, R207, R210): which line is changed, what stays, and the bytes that are
read back. -/

namespace Sys2Proof.Machine

section
variable {s t : State} {line hint : Nat} {f : Line → Line}

/-- The set's other lines, beside the one brought to hand. -/
def State.others (s : State) (line : Nat) : List Line := (s.readied line).filter (fun l => l.tag != line)

/-- The state in which the set is looked at. -/
def State.visited (s : State) (line : Nat) : State := s.sweepHome (s.channelOf line) (s.setOf line)

theorem State.visited_only (s : State) (line : Nat) : s.setsOnly (s.visited line) := (s.sweepHome_facts _ _).1

theorem State.bodies_visited (s : State) (line k j : Nat) : (s.visited line).bodies k j = s.bodies k j := (s.sweepHome_facts _ _).2 k j

theorem State.visited_locates (s : State) (line n : Nat) :
    (s.visited line).channelOf n = s.channelOf n ∧ (s.visited line).setOf n = s.setOf n :=
  ⟨State.channelOf_congr (s.visited_only line).localActive n, State.setOf_congr (s.visited_only line).localActive n⟩

/-- The visited state with a set put back is the state with a line in the place of the set's. -/
theorem State.placed_visited (s : State) (line : Nat) (p : List Line × Bool) : (s.visited line).placed line p =
    ((s.visited line).setSlice (s.channelOf line) (((s.visited line).slice (s.channelOf line)).setSet (s.setOf line) p.1)).countDemoted
      (s.channelOf line) p.2 := by
  rw [State.placed, (s.visited_locates line line).1, (s.visited_locates line line).2]

/-! ## The three outcomes of `touchLine` -/

theorem State.touchLine_hit {l : Line} (hl : (s.readied line).find? (fun l => l.tag == line) = some l) :
    s.touchLine line hint f = some ((s.visited line).placed line (hintLine hint (s.visited line).keepCap (f l) (s.others line))) := by
  rw [State.placed_visited]
  unfold State.touchLine
  dsimp only
  rw [show demoteKeep (s.sweepHome (s.channelOf line) (s.setOf line)).keepCap
    (((s.sweepHome (s.channelOf line) (s.setOf line)).slice (s.channelOf line)).set (s.setOf line)) = s.readied line from rfl, hl]
  rfl

theorem State.touchLine_miss (hl : (s.readied line).find? (fun l => l.tag == line) = none) :
    s.touchLine line hint f = match roomIn ((s.visited line).slice (s.channelOf line)).busy (s.readied line) with
      | .none => none
      | .free => some ((s.visited line).placed line
          (hintLine hint (s.visited line).keepCap (f (Line.new line 0 0)) (s.readied line)))
      | .evict v =>
        let p := hintLine hint (s.visited line).keepCap (f (Line.new line 0 0)) ((s.readied line).filter (fun l => l.tag != v.tag))
        let u := (s.visited line).countPressure (s.channelOf line) (s.readied line) v
        some (((u.setSlice (s.channelOf line) (((s.visited line).slice (s.channelOf line)).setSet (s.setOf line) p.1)).evictTo
          (s.channelOf line) v).countDemoted (s.channelOf line) p.2) := by
  unfold State.touchLine
  dsimp only
  rw [show demoteKeep (s.sweepHome (s.channelOf line) (s.setOf line)).keepCap
    (((s.sweepHome (s.channelOf line) (s.setOf line)).slice (s.channelOf line)).set (s.setOf line)) = s.readied line from rfl, hl]
  dsimp only
  rw [show (s.sweepHome (s.channelOf line) (s.setOf line)) = s.visited line from rfl]
  cases roomIn ((s.visited line).slice (s.channelOf line)).busy (s.readied line) with
  | none => rfl
  | free => dsimp only; rw [State.placed_visited]
  | evict v => rfl

/-! ## What it leaves -/

/-- `t` is `s` but for the copy of one line, which is then as given, for keep marks and for counters. -/
def State.touches (s t : State) (line : Nat) (l : Line) : Prop :=
  s.setsOnly t ∧ t.copy line = some l.body ∧ ∀ n, n ≠ line → t.copy n = s.copy n

theorem State.touches.homeByte {l : Line} (h : s.touches t line l) {a : Nat} (ha : a / 128 ≠ line) : t.homeByte a = s.homeByte a :=
  h.1.homeByte (h.2.2 _ ha)

theorem State.readied_rest {l : Line} (hl : l.tag = line) {rest : List Line} (hrest : ∀ x ∈ rest, x.tag ≠ line)
    (hfind : ∀ n, n ≠ line → rest.find? (fun x => x.tag == n) = (s.readied line).find? (fun x => x.tag == n)) :
    s.touches ((s.visited line).placed line (hintLine hint (s.visited line).keepCap l rest)) line l := by
  have honly := (s.visited_only line).trans ((s.visited line).placed_only line (hintLine hint (s.visited line).keepCap l rest))
  have hput := State.copy_put honly.localActive hl hrest hint (s.visited line).keepCap
    (by rw [State.bodies_placed, if_pos ⟨((s.visited_locates line line).1).symm, ((s.visited_locates line line).2).symm⟩])
    (fun k j hkj => by
      rw [State.bodies_placed, (s.visited_locates line line).1, (s.visited_locates line line).2, if_neg hkj, State.bodies_visited])
  refine ⟨honly, hput.1, hput.2 fun n hn => ?_⟩
  rw [hfind n hn, find_body (Line.named_tag n), State.bodies_readied]

theorem State.others_facts (s : State) (line : Nat) : (∀ x ∈ s.others line, x.tag ≠ line) ∧
    ∀ n, n ≠ line → (s.others line).find? (fun x => x.tag == n) = (s.readied line).find? (fun x => x.tag == n) := by
  refine ⟨fun x hx => by simpa using (List.mem_filter.mp hx).2, fun n hn => find_filter_out fun x _ hx => ?_⟩
  rw [beq_iff_eq.mp hx]
  simpa using hn

theorem State.readied_none (hl : s.cached line = none) : (s.readied line).find? (fun l => l.tag == line) = none := by
  have h := s.find_readied line
  rwa [State.copy_none.mpr hl, Option.map_eq_none_iff] at h

theorem State.readied_other (hl : s.cached line = none) {x : Line} (hx : x ∈ s.readied line) : x.tag ≠ line := fun h =>
  List.find?_eq_none.mp (State.readied_none hl) x hx (beq_iff_eq.mpr h)

theorem Line.plain.tag_new (hf : Line.plain f) (line : Nat) : (f (Line.new line 0 0)).tag = line := (hf.2 _).1

variable (hf : Line.plain f)
include hf

/-- A line that the cache holds is changed in its place. -/
theorem State.touchLine_cached {l : Line} (hl : s.cached line = some l) :
    ∃ t k, s.touchLine line hint f = some t ∧ k.body = l.body ∧ s.touches t line (f k) := by
  have hfind : ((s.readied line).find? (fun l => l.tag == line)).map Line.body = some l.body := by
    rw [State.find_readied, State.copy_of_cached hl]
  obtain ⟨k, hk, hkl⟩ := Option.map_eq_some_iff.mp hfind
  have htag : (f k).tag = line := by
    rw [(hf.2 k).1]
    exact beq_iff_eq.mp (List.find?_some (p := fun l : Line => l.tag == line) hk)
  exact ⟨_, k, State.touchLine_hit hk, hkl, State.readied_rest htag (s.others_facts line).1 (s.others_facts line).2⟩

/-- A line that the cache does not hold is allocated where its set has room. -/
theorem State.touchLine_room (hl : s.cached line = none)
    (hroom : ((s.slice (s.channelOf line)).set (s.setOf line)).length < 16) :
    ∃ t, s.touchLine line hint f = some t ∧ s.touches t line (f (Line.new line 0 0)) := by
  have hnone := State.readied_none hl
  have hfree : roomIn ((s.visited line).slice (s.channelOf line)).busy (s.readied line) = .free := by
    rw [roomIn, State.length_readied, if_pos hroom]
  refine ⟨_, by rw [State.touchLine_miss hnone, hfree], State.readied_rest (hf.tag_new line) (fun x hx => State.readied_other hl hx) fun _ _ => rfl⟩

/-- R204, R206, R207: a line brought to hand is then cached as changed; where the write-back buffer has an entry free, DRAM is as it
was. -/
theorem State.touchLine_some (h : s.touchLine line hint f = some t) : s.evicts t ∧
    ((s.slice (s.channelOf line)).wb.length < 32 → t.dram = s.dram) ∧
    ∃ k : Line, (s.copy line = some k.body ∨ s.copy line = none ∧ k = Line.new line 0 0) ∧ t.copy line = some (f k).body := by
  cases hl : s.cached line with
  | some l =>
    obtain ⟨v, k, hv, hkl, htouch, hhere, -⟩ := State.touchLine_cached (hint := hint) hf hl
    cases hv.symm.trans h
    exact ⟨htouch.evicts, fun _ => htouch.dram, k, .inl (by rw [State.copy_of_cached hl, hkl]), hhere⟩
  | none =>
    have hnone := State.readied_none hl
    have horigin : s.copy line = none ∧ Line.new line 0 0 = Line.new line 0 0 := ⟨State.copy_none.mpr hl, rfl⟩
    rw [State.touchLine_miss hnone] at h
    split at h
    · cases h
    · cases h
      have htouch : s.touches _ line (f (Line.new line 0 0)) := State.readied_rest (hint := hint) (hf.tag_new line)
        (fun x hx => State.readied_other hl hx) fun _ _ => rfl
      exact ⟨htouch.1.evicts, fun _ => htouch.1.dram, _, .inr horigin, htouch.2.1⟩
    · next v hroom =>
      dsimp only at h
      cases h
      generalize hp : hintLine hint (s.visited line).keepCap (f (Line.new line 0 0))
        ((s.readied line).filter (fun l => l.tag != v.tag)) = p
      have hpress : (s.visited line).setsOnly ((s.visited line).countPressure (s.channelOf line) (s.readied line) v) :=
        State.countPressure_only _ _ _ _
      have hslice : ∀ k, ((s.visited line).countPressure (s.channelOf line) (s.readied line) v).slice k = (s.visited line).slice k :=
        State.slice_congr (State.countPressure_slices _ _ _ _)
      generalize (s.visited line).countPressure (s.channelOf line) (s.readied line) v = u at hpress hslice
      rw [← hslice]
      have hset : u.setsOnly (u.setSlice (s.channelOf line) ((u.slice (s.channelOf line)).setSet (s.setOf line) p.1)) :=
        State.setSlice_only _ (Slice.rest_setSet _ _ _)
      have hbefore := ((s.visited_only line).trans hpress).trans hset
      obtain ⟨hevicts, hsets, hdram⟩ := State.evictTo_facts
        (u.setSlice (s.channelOf line) ((u.slice (s.channelOf line)).setSet (s.setOf line) p.1)) (s.channelOf line) v
      have hbodies : ∀ k j, (((u.setSlice (s.channelOf line) ((u.slice (s.channelOf line)).setSet (s.setOf line) p.1)).evictTo
          (s.channelOf line) v).countDemoted (s.channelOf line) p.2).bodies k j =
          if k = s.channelOf line ∧ j = s.setOf line then p.1.map Line.body else s.bodies k j := by
        intro k j
        rw [State.bodies, State.slice_congr (State.countDemoted_slices _ _ _), Slice.set, hsets, ← Slice.set,
          State.set_setSlice _ _ _ _ _ _ _ rfl]
        split
        · rfl
        · rw [hslice, ← State.bodies, State.bodies_visited]
      have hall := (hbefore.evicts.trans hevicts).trans (State.countDemoted_only _ (s.channelOf line) p.2).evicts
      have hput := State.copy_put (s := s) hall.localActive (hf.tag_new line)
        (rest := (s.readied line).filter (fun l => l.tag != v.tag))
        (fun x hx => State.readied_other hl (List.mem_filter.mp hx).1) hint (s.visited line).keepCap
        (by rw [hbodies, if_pos ⟨rfl, rfl⟩, hp]) (fun k j hkj => by rw [hbodies, if_neg hkj])
      refine ⟨hall, fun hwb => ?_, _, .inr horigin, hput.1⟩
      rw [(State.countDemoted_only _ (s.channelOf line) p.2).dram, hdram (by rw [hbefore.wb]; exact hwb), hbefore.dram]

end

end Sys2Proof.Machine
end

section
/-! A store at its home (R204, R210, R229): the bytes stored are the bytes read back, and no other byte changes. -/

namespace Sys2Proof.Machine

section
variable {s t : State} {line : Nat}

/-! ## Records under DEAD_POISON (R210) -/

theorem State.undead_alive (h : (s.slice (s.channelOf line)).dead.elem line = false) : s.undead line = s := by
  unfold State.undead
  dsimp only
  rw [h]
  rfl

/-- R210: of a line filled with the pattern, the sectors that are written whole. -/
def Line.undead (l : Line) : Line := { l with valid := BitVec.ofNat 4 (fullSectors l.dirty.toNat) }

/-- R210: ending a line's record takes only sectors of the line's copy away. -/
theorem State.undead_facts (s : State) (line : Nat) : (s.undead line).localActive = s.localActive ∧
    ((s.undead line).slice (s.channelOf line)).dead.elem line = false ∧
    ((∀ l, s.cached line = some l → l.data.length = 128) → ∀ l, (s.undead line).cached line = some l → l.data.length = 128) := by
  cases hdead : (s.slice (s.channelOf line)).dead.elem line with
  | false =>
    rw [State.undead_alive hdead]
    exact ⟨rfl, hdead, id⟩
  | true =>
    have hundead : s.undead line = s.setSlice (s.channelOf line) { (s.slice (s.channelOf line)).setSet (s.setOf line)
          (modIf ((s.slice (s.channelOf line)).set (s.setOf line)) (fun l => l.tag == line)
            Line.undead) with
          dead := (s.slice (s.channelOf line)).dead.filter (fun l => l != line) } := by
      unfold State.undead
      dsimp only
      rw [hdead]
      rfl
    have hlocal : (s.undead line).localActive = s.localActive := by rw [hundead]; rfl
    refine ⟨hlocal, ?_, fun hlen l hl => ?_⟩
    · rw [hundead, State.slice_setSlice, if_pos rfl]
      simp
    · rw [State.cached, State.channelOf_congr hlocal, State.setOf_congr hlocal, hundead, State.slice_setSlice, if_pos rfl] at hl
      have hset : ∀ (x : Slice) (L : List Line) (dead : List Nat),
          ({ x.setSet (s.setOf line) L with dead := dead } : Slice).set (s.setOf line) = L :=
        fun x L _ => (Slice.set_setSet x _ _ L).trans (if_pos rfl)
      rw [hset, find_modIf (f := Line.undead) fun _ => rfl] at hl
      obtain ⟨k, hk, rfl⟩ := Option.map_eq_some_iff.mp hl
      rw [← hlen k hk]
      split <;> rfl

/-! ## A store that no set has room for -/

theorem State.touchLine_none {hint : Nat} {f : Line → Line} (hf : Line.plain f) (h : s.touchLine line hint f = none) :
    s.cached line = none := by
  cases hl : s.cached line with
  | none => rfl
  | some l =>
    obtain ⟨t, k, ht, -⟩ := State.touchLine_cached (hint := hint) hf hl
    cases ht.symm.trans h

theorem State.wb_evictTo (s : State) (ch : Nat) {l : Line} (hdirty : l.dirty ≠ 0) :
    ∃ w, ((s.evictTo ch l).slice ch).wb = w ++ [l] := by
  unfold State.evictTo
  rw [if_neg hdirty]
  dsimp only
  split
  · exact ⟨(s.slice ch).wb, by rw [State.slice_setSlice, if_pos rfl]⟩
  · next hfull =>
    split
    · next o r _ => exact ⟨r, by rw [State.slice_setSlice, if_pos rfl]⟩
    · next h => exact absurd (by simp [h]) hfull

theorem State.underByte_last {a : Nat} {w : List Line} {l : Line} (hwb : (s.slice (s.channelOf (a / 128))).wb = w ++ [l])
    (htag : l.tag = a / 128) (hdirty : l.dirty.getLsbD (a % 128) = true) : s.underByte a = l.data.getD (a % 128) 0 := by
  have hpick : (l.tag == a / 128 && l.dirty.getLsbD (a % 128)) = true := by rw [htag, hdirty, beq_self_eq_true]; rfl
  have hfind : ((s.slice (s.channelOf (a / 128))).wb.reverse).find? (fun l => l.tag == a / 128 && l.dirty.getLsbD (a % 128)) =
      some l := by
    rw [hwb, List.reverse_append]
    exact List.find?_cons_of_pos hpick
  rw [State.underByte, hfind]

/-! ## What is stored is what is read back -/

/-- The line from which a store of `d` at `off` starts, stored to. -/
theorem Line.store_facts {k : Line} (hlen : k.data.length = 128) {off : Nat} {d : List (Option Byte)} (hfit : off + d.length ≤ 128)
    {i : Nat} (hi : i < d.length) {b : Byte} (hb : d.getD i none = some b) :
    (k.store (placeAt off d)).holds (off + i) = true ∧ (k.store (placeAt off d)).dirty.getLsbD (off + i) = true ∧
    (k.store (placeAt off d)).data.getD (off + i) 0 = b := by
  have hput : (placeAt off d).getD (off + i) none = some b := by
    rw [getD_placeAt hfit, if_pos (Nat.le_add_right _ _), Nat.add_sub_cancel_left, hb]
  refine ⟨?_, ?_, ?_⟩
  · rw [Line.holds_store _ _ (by omega), hput]; simp
  · rw [Line.dirty_store _ _ (by omega), hput]; simp
  · rw [Line.getD_store hlen _ (by omega), hput]; rfl

theorem Line.length_of_before {k : Line} (hlen : ∀ l, s.cached line = some l → l.data.length = 128)
    (hk : s.copy line = some k.body ∨ s.copy line = none ∧ k = Line.new line 0 0) : k.data.length = 128 := by
  rcases hk with hk | ⟨-, rfl⟩
  · obtain ⟨l, hl, hlk⟩ := Option.map_eq_some_iff.mp hk
    rw [show k.data = l.data from (congrArg Line.data hlk).symm]
    exact hlen l hl
  · exact List.length_replicate

/-- R204, R229: each byte stored is the byte read back, whatever room the line's set has. -/
theorem State.storeLine_reads (hlen : ∀ l, s.cached line = some l → l.data.length = 128) {off : Nat} {d : List (Option Byte)}
    (hfit : off + d.length ≤ 128) (hint : Nat) {i : Nat} (hi : i < d.length) {b : Byte} (hb : d.getD i none = some b) :
    (s.storeLine line off hint d).homeByte (line * 128 + off + i) = b := by
  obtain ⟨hlocal, halive, hlenU⟩ := s.undead_facts line
  specialize hlenU hlen
  have hq : (line * 128 + off + i) / 128 = line := by omega
  have hr : (line * 128 + off + i) % 128 = off + i := by omega
  rw [← State.channelOf_congr hlocal line] at halive
  unfold State.storeLine
  dsimp only
  generalize s.undead line = u at hlocal halive hlenU
  split
  · next t h =>
    obtain ⟨-, -, k, hk, hcopy⟩ := State.touchLine_some (Line.plain_store _) h
    obtain ⟨hholds, -, hdata⟩ := Line.store_facts (Line.length_of_before hlenU hk) hfit hi hb
    rw [State.homeByte_copied (by rw [hq]; exact hcopy), hr]
    exact (if_pos hholds).trans hdata
  · next h =>
    have hnone := State.touchLine_none (Line.plain_store _) h
    obtain ⟨-, hdirty, hdata⟩ := Line.store_facts (k := Line.new line 0 0) List.length_replicate hfit hi hb
    obtain ⟨hevicts, hsets, -⟩ := u.evictTo_facts (u.channelOf line) ((Line.new line 0 0).store (placeAt off d))
    obtain ⟨w, hw⟩ := u.wb_evictTo (u.channelOf line) (l := (Line.new line 0 0).store (placeAt off d)) (fun h0 => by
      rw [h0] at hdirty
      simp at hdirty)
    have hch := State.channelOf_congr hevicts.localActive line
    have hcopy : (u.evictTo (u.channelOf line) ((Line.new line 0 0).store (placeAt off d))).copy line = none := by
      rw [State.copy_congr hevicts.localActive (by rw [State.bodies, State.bodies, Slice.set, hsets, Slice.set]), State.copy_none, hnone]
    rw [State.homeByte_uncopied (by rw [hq]; exact hcopy) (by rw [hq, hch, (hevicts.2 _).2.2]; exact halive),
      State.underByte_last (by rw [hq, hch]; exact hw) hq.symm (by rw [hr]; exact hdirty), hr, hdata]

/-! ## What a store leaves -/

theorem State.undead_caches (s : State) (line : Nat) : s.cachesOnly (s.undead line) := by
  unfold State.undead
  dsimp only
  split <;> rfl

theorem State.storeLine_caches (s : State) (line off hint : Nat) (d : List (Option Byte)) :
    s.cachesOnly (s.storeLine line off hint d) := by
  unfold State.storeLine
  dsimp only
  split
  · next h => exact (s.undead_caches line).trans (State.touchLine_some (Line.plain_store _) h).1.1
  · exact (s.undead_caches line).trans ((s.undead line).evictTo_facts _ _).1.1

/-- R204: where the home holds the line or has room for it, a store changes its own line's copy and nothing else. -/
theorem State.storeLine_touches (halive : (s.slice (s.channelOf line)).dead.elem line = false)
    (hroom : (s.cached line).isSome = true ∨ ((s.slice (s.channelOf line)).set (s.setOf line)).length < 16) (off hint : Nat)
    (d : List (Option Byte)) : ∃ k : Line, (s.copy line = some k.body ∨ s.copy line = none ∧ k = Line.new line 0 0) ∧
    s.touches (s.storeLine line off hint d) line (k.store (placeAt off d)) := by
  unfold State.storeLine
  dsimp only
  rw [State.undead_alive halive]
  cases hl : s.cached line with
  | some l =>
    obtain ⟨t, k, ht, hk, htouch⟩ := State.touchLine_cached (hint := if hint = 3 then 0 else hint) (Line.plain_store (placeAt off d)) hl
    rw [ht]
    exact ⟨k, .inl (by rw [State.copy_of_cached hl, hk]), htouch⟩
  | none =>
    obtain ⟨t, ht, htouch⟩ := State.touchLine_room (hint := if hint = 3 then 0 else hint) (Line.plain_store (placeAt off d)) hl
      (hroom.resolve_left (by simp [hl]))
    rw [ht]
    exact ⟨_, .inr ⟨State.copy_none.mpr hl, rfl⟩, htouch⟩

/-- A byte of the line that a store does not give reads as before. -/
theorem State.homeByte_stored {k : Line} {d : List (Option Byte)} (hk : s.copy line = some k.body ∨ s.copy line = none ∧ k = Line.new line 0 0)
    (htouch : s.touches t line (k.store d)) (halive : (s.slice (s.channelOf line)).dead.elem line = false)
    (hlen : ∀ l, s.cached line = some l → l.data.length = 128) {j : Nat} (hj : j < 128) (hd : d.getD j none = none) :
    t.homeByte (line * 128 + j) = s.homeByte (line * 128 + j) := by
  have hq : (line * 128 + j) / 128 = line := by omega
  have hr : (line * 128 + j) % 128 = j := by omega
  have hunder : t.underByte (line * 128 + j) = s.underByte (line * 128 + j) :=
    State.underByte_congr htouch.1.localActive (htouch.1.wb _) htouch.1.dram
  have hholds : (k.store d).body.holds j = k.holds j := by
    rw [show (k.store d).body.holds j = (k.store d).holds j from rfl, Line.holds_store _ _ hj, hd]
    simp
  have hdata : (k.store d).body.data.getD j 0 = k.data.getD j 0 := by
    rw [show (k.store d).body.data = (k.store d).data from rfl, Line.getD_store (Line.length_of_before hlen hk) _ hj, hd]
    rfl
  rw [State.homeByte_copied (by rw [hq]; exact htouch.2.1), hr, hholds, hdata, hunder]
  rcases hk with hk | ⟨hk, rfl⟩
  · rw [State.homeByte_copied (by rw [hq]; exact hk), hr]
    rfl
  · rw [State.homeByte_uncopied (by rw [hq]; exact hk) (by rw [hq]; exact halive)]
    refine if_neg ?_
    simp [Line.holds, Line.new]

/-- R204, R229: a store of `d` from byte `a` of device memory changes no byte outside it, nor one it does not give. -/
theorem State.homeByte_storeLine (halive : (s.slice (s.channelOf line)).dead.elem line = false)
    (hroom : (s.cached line).isSome = true ∨ ((s.slice (s.channelOf line)).set (s.setOf line)).length < 16)
    (hlen : ∀ l, s.cached line = some l → l.data.length = 128) {off : Nat} (hint : Nat) {d : List (Option Byte)}
    (hfit : off + d.length ≤ 128) {x : Nat}
    (hx : ∀ i, i < d.length → x = line * 128 + off + i → d.getD i none = none) :
    (s.storeLine line off hint d).homeByte x = s.homeByte x := by
  obtain ⟨k, hk, htouch⟩ := State.storeLine_touches halive hroom off hint d
  by_cases hq : x / 128 = line
  · obtain ⟨j, hj, rfl⟩ : ∃ j, j < 128 ∧ x = line * 128 + j := ⟨x % 128, Nat.mod_lt _ (by decide), by omega⟩
    refine State.homeByte_stored hk htouch halive hlen hj ?_
    rw [getD_placeAt hfit]
    split
    · next h =>
      by_cases hi : j - off < d.length
      · exact hx _ hi (by omega)
      · exact List.getD_eq_default _ _ (by omega)
    · rfl
  · exact htouch.homeByte hq

end

end Sys2Proof.Machine
end

section
/-! Accesses on their way (R37, R202): what an arrival leaves, the stage of an access, and the lines served at the home. -/

namespace Sys2Proof.Machine

/-! ## An item arrives (R37) -/

/-- `v` is `s` at a later tick, with items of its sluices taken. -/
def State.passes (s v : State) : Prop :=
  v = { s with sluices := v.sluices, tick := v.tick, wet := v.wet, hal := v.hal, power := v.power }

section
variable {s t v : State} {id : Nat}

theorem State.passes.refl (s : State) : s.passes s := rfl

theorem State.passes.trans (h : s.passes t) (h' : t.passes v) : s.passes v := by
  rw [State.passes, h', h]

theorem State.passes.field (h : s.passes v) {γ : Type} (p : State → γ)
    (hp : ∀ u a b c d e, p { u with sluices := a, tick := b, wet := c, hal := d, power := e } = p u) : p v = p s := by
  rw [h, hp]

theorem State.sluicesOnly.passes (h : s.sluicesOnly t) : s.passes t := by
  rw [State.passes, h]

theorem State.tickOnce_passes (s : State) : s.passes s.tickOnce := by
  unfold State.tickOnce
  dsimp only
  split <;> rfl

theorem tickUntil_passes (w n : Nat) : ∀ s : State, s.passes (tickUntil n w s) := by
  induction n with
  | zero => exact State.passes.refl
  | succ n ih =>
    intro s
    unfold tickUntil
    split
    · exact .refl s
    · exact s.tickOnce_passes.trans (ih _)

theorem State.passWet_passes (s : State) (n : Nat) : s.passes (s.passWet n) := tickUntil_passes _ _ s

theorem State.takeItem_only (s : State) (i : SluiceId) (it : Item) : s.sluicesOnly (s.takeItem i it) := rfl

theorem State.arrive_passes (h : s.arrive id = some v) : s.passes v := by
  unfold State.arrive at h
  split at h
  · cases h
    exact .refl s
  · next i _ =>
    dsimp only at h
    have hcredit := (State.credit_only s i).passes
    have htaken := fun l => (State.sluicesOnly_foldl (fun u it => u.takeItem_only i it) l (s.credit i)).passes
    split at h
    · split at h
      · cases h
        exact ((hcredit.trans (htaken _)).trans (State.passWet_passes _ _)).trans (State.takeItem_only _ i _).passes
      · cases h
    · cases h

/-! ## The stage of an access -/

theorem State.id_of_access {a : Access} (h : s.access id = some a) : a.id = id :=
  beq_iff_eq.mp (List.find?_some (p := fun a : Access => a.id == id) h)

theorem State.access_congr (h : t.flights = s.flights) (id : Nat) : t.access id = s.access id := by
  rw [State.access, State.access, h]

theorem State.stage_setStage (s : State) (id : Nat) (st : AccStage) : ∀ b ∈ (s.setStage id st).flights, b.id = id → b.stage = st := by
  intro b hb hid
  obtain ⟨a, -, rfl⟩ := List.mem_map.mp hb
  dsimp only at hid ⊢
  by_cases ha : a.id = id
  · rw [if_pos (beq_iff_eq.mpr ha)]
  · rw [if_neg (by simpa using ha)] at hid
    exact absurd hid ha

theorem State.mem_setStage {b : Access} (hb : b ∈ s.flights) (hid : b.id ≠ id) (st : AccStage) : b ∈ (s.setStage id st).flights :=
  List.mem_map.mpr ⟨b, hb, by simp [hid]⟩

theorem State.access_setStage {a : Access} (h : s.access id = some a) (st : AccStage) :
    (s.setStage id st).access id = some { a with stage := st } := by
  have hpick : ∀ b : Access, ((if (b.id == id) = true then { b with stage := st } else b).id == id) = (b.id == id) := fun b => by
    split <;> rfl
  rw [State.access, State.setStage, modIf, List.find?_map]
  simp only [Function.comp_def, hpick]
  rw [show s.flights.find? (fun b => b.id == id) = some a from h, Option.map_some, if_pos (beq_iff_eq.mpr (State.id_of_access h))]

/-! ## States of the same memory -/

/-- The layout, the caches and DRAM are the same. -/
def State.sameMemory (s t : State) : Prop := t.localActive = s.localActive ∧ t.slices = s.slices ∧ t.dram = s.dram

theorem State.sameMemory.trans (h : s.sameMemory t) (h' : t.sameMemory v) : s.sameMemory v :=
  ⟨h'.1.trans h.1, h'.2.1.trans h.2.1, h'.2.2.trans h.2.2⟩

theorem State.setStage_memory (s : State) (id : Nat) (st : AccStage) : s.sameMemory (s.setStage id st) := ⟨rfl, rfl, rfl⟩

theorem State.passes.memory (h : s.passes v) : s.sameMemory v :=
  ⟨h.field State.localActive fun _ _ _ _ _ _ => rfl, h.field State.slices fun _ _ _ _ _ _ => rfl,
    h.field State.dram fun _ _ _ _ _ _ => rfl⟩

section
variable (h : s.sameMemory t)
include h

theorem State.sameMemory.slice (k : Nat) : t.slice k = s.slice k := State.slice_congr h.2.1 k

theorem State.sameMemory.channelOf (line : Nat) : t.channelOf line = s.channelOf line := State.channelOf_congr h.1 line

theorem State.sameMemory.cached (line : Nat) : t.cached line = s.cached line := by
  rw [State.cached, State.cached, h.channelOf, State.setOf_congr h.1, h.slice]

theorem State.sameMemory.homeByte (x : Nat) : t.homeByte x = s.homeByte x :=
  State.homeByte_congr h.1 (by rw [State.copy, State.copy, h.cached]) (by rw [h.slice]) (by rw [h.slice]) h.2.2

theorem State.sameMemory.homeBytes (a n : Nat) : t.homeBytes a n = s.homeBytes a n := by
  simp only [State.homeBytes, h.homeByte]

theorem State.sameMemory.validAt (line : Nat) : t.validAt line = s.validAt line := by
  rw [State.validAt, State.validAt, h.cached, h.channelOf, h.slice]

end

/-- Every slice reads as before, though its table may be written in another form. -/
def State.rereads (s t : State) : Prop := t = { s with slices := t.slices } ∧ ∀ k, t.slice k = s.slice k

theorem State.rereads.refl (s : State) : s.rereads s := ⟨rfl, fun _ => rfl⟩

theorem State.rereads.setsOnly (h : s.rereads t) : s.setsOnly t := ⟨by rw [h.1], fun k => by rw [h.2]⟩

theorem State.rereads.cached (h : s.rereads t) (line : Nat) : t.cached line = s.cached line := by
  rw [State.cached, State.cached, State.channelOf_congr h.setsOnly.localActive, State.setOf_congr h.setsOnly.localActive, h.2]

theorem State.rereads.homeByte (h : s.rereads t) (x : Nat) : t.homeByte x = s.homeByte x :=
  h.setsOnly.homeByte (by rw [State.copy, State.copy, h.cached])

theorem State.rereads.field (h : s.rereads t) {γ : Type} (p : State → γ) (hp : ∀ u a, p { u with slices := a } = p u) : p t = p s := by
  rw [h.1, hp]

theorem State.setSlice_rereads (s : State) (ch : Nat) : s.rereads (s.setSlice ch (s.slice ch)) := by
  refine ⟨rfl, fun k => ?_⟩
  rw [State.slice_setSlice]
  split
  · next hk => rw [hk]
  · rfl

/-- With nothing waiting at the slice's input, trying again changes nothing that is read. -/
theorem State.retryInput_none {ch : Nat} (h : (s.slice ch).inq = []) : s.rereads (s.retryInput ch) := by
  have heq : s.retryInput ch = s.setSlice ch (s.slice ch) := by
    unfold State.retryInput
    dsimp only
    rw [h, List.foldl_nil]
    exact congrArg (s.setSlice ch) (by rw [← h])
  rw [heq]
  exact s.setSlice_rereads ch

theorem State.lineHeld_congr (hflights : t.flights = s.flights) (hslices : t.slices = s.slices) (ch line id : Nat) :
    t.lineHeld ch line id = s.lineHeld ch line id := by
  rw [State.lineHeld, State.lineHeld, hflights, State.slice_congr hslices]

/-! ## Lines brought to hand for loads (R206, R207) -/

/-- A line that is brought to hand unchanged leaves every byte. -/
theorem State.touches.same {line : Nat} {l : Line} (h : s.touches t line l) (hl : s.copy line = some l.body) (x : Nat) :
    t.homeByte x = s.homeByte x := by
  by_cases hx : x / 128 = line
  · exact h.1.homeByte (by rw [hx, h.2.1, hl])
  · exact h.homeByte hx

/-- R206: a load served at the home gets the bytes the home reads; but for a dead one it changes marks and order alone. -/
theorem State.serveLoad_facts (s : State) (a : Access) (dpa : Nat) (hhint : a.hint ≠ 3) :
    (s.setStage a.id (.served (s.homeBytes dpa a.len) [])).setsOnly (s.serveLoad a dpa) ∧
    ∀ x, (s.serveLoad a dpa).homeByte x = s.homeByte x := by
  have hmem := s.setStage_memory a.id (.served (s.homeBytes dpa a.len) [])
  unfold State.serveLoad
  dsimp only
  rw [if_neg hhint]
  cases hl : (s.setStage a.id (.served (s.homeBytes dpa a.len) [])).cached (dpa / 128) with
  | none => exact ⟨.refl _, hmem.homeByte⟩
  | some l =>
    obtain ⟨t, k, ht, hk, htouch⟩ := State.touchLine_cached (hint := a.hint) Line.plain_id hl
    dsimp only
    rw [ht]
    exact ⟨htouch.1, fun x => (htouch.same (by rw [State.copy_of_cached hl, ← hk]; rfl) x).trans (hmem.homeByte x)⟩

theorem State.allocFor_facts (s : State) (line hint : Nat) : s.evicts (s.allocFor line hint) ∧
    ((s.slice (s.channelOf line)).wb.length < 32 → (s.allocFor line hint).dram = s.dram) := by
  unfold State.allocFor
  split
  · exact ⟨.refl s, fun _ => rfl⟩
  · cases h : s.touchLine line (if hint = 1 then 0 else hint) id with
    | none => exact ⟨.refl s, fun _ => rfl⟩
    | some t =>
      obtain ⟨hevicts, hdram, -⟩ := State.touchLine_some Line.plain_id h
      exact ⟨hevicts, hdram⟩

/-- R203: a miss register of the line, new or joined, with the waiters. -/
theorem State.fillLine_some {line missing hint : Nat} {waiters : List Nat} (hroom : (s.slice (s.channelOf line)).miss.length < 64)
    (hwait : ∀ m ∈ (s.slice (s.channelOf line)).miss, m.waiters.length + waiters.length ≤ 16) :
    ∃ t, s.fillLine line missing hint waiters = some t ∧ t = { s.allocFor line hint with slices := t.slices } ∧
      ∃ m ∈ (t.slice (s.channelOf line)).miss, m.tag = line ∧ ∀ w ∈ waiters, w ∈ m.waiters := by
  have hmiss : ((s.allocFor line hint).slice (s.channelOf line)).miss = (s.slice (s.channelOf line)).miss :=
    ((s.allocFor_facts line hint).1.2 _).1
  unfold State.fillLine
  dsimp only
  split
  · next m hm =>
    have htag := List.find?_some hm
    have hmem : m ∈ ((s.allocFor line hint).slice (s.channelOf line)).miss := hmiss ▸ List.mem_of_find?_eq_some hm
    rw [if_pos (hwait m (List.mem_of_find?_eq_some hm))]
    refine ⟨_, rfl, rfl, { m with sectors := m.sectors ||| BitVec.ofNat 4 missing, waiters := m.waiters ++ waiters }, ?_, ?_⟩
    · rw [State.slice_setSlice, if_pos rfl]
      exact List.mem_map.mpr ⟨m, hmem, if_pos htag⟩
    · exact ⟨beq_iff_eq.mp htag, fun w hw => List.mem_append_right _ hw⟩
  · rw [if_pos hroom]
    refine ⟨_, rfl, rfl, ⟨line, 0, BitVec.ofNat 4 missing, waiters, false, []⟩, ?_, rfl, fun w hw => hw⟩
    rw [State.slice_setSlice, if_pos rfl]
    exact List.mem_append_right _ (List.mem_singleton.mpr rfl)

end

end Sys2Proof.Machine
end

section
/-! O40: HOME_ACCESS and ATOMIC_UNIT_OPERATION (R193, R202 to R204, R211, R336). -/

namespace Sys2Proof.Machine

theorem exec_homeAccess (id : Nat) (s : State) : exec (.homeAccess id) s = execHomeAccess id s := rfl

theorem exec_atomicUnitOperation (id : Nat) (s : State) : exec (.atomicUnitOperation id) s = .next (s.atomicUnit id).drainAll := rfl

theorem State.drainAll_none {s : State} (h : s.fab.early = []) : s.drainAll = s := by
  unfold State.drainAll
  rw [h]
  rfl

/-! ## An access at its home -/

section
variable {s v : State} {id : Nat} {a : Access} (ha : s.access id = some a) (hmoving : a.stage = .moving) (hv : s.arrive id = some v)
include ha hmoving hv

theorem exec_homeAccess_host {iova : Nat} (hplace : a.place = .host iova) : exec (.homeAccess id) s = .next (v.serveHost a iova) := by
  rw [exec_homeAccess, execHomeAccess, ha]
  dsimp only
  rw [if_neg (by simp [hmoving]), hplace, hv]

variable {dpa : Nat} (hplace : a.place = .dram dpa)
include hplace

theorem exec_homeAccess_dram : exec (.homeAccess id) s = .next (v.serveHome a dpa false) := by
  rw [exec_homeAccess, execHomeAccess, ha]
  dsimp only
  rw [if_neg (by simp [hmoving]), hplace, hv]

/-- R219: an access to a channel that has failed gets poison. -/
theorem exec_homeAccess_failed (hfailed : s.repair.failed.elem (s.channelOf (dpa / 128)) = true) :
    exec (.homeAccess id) s = .next (v.servePoison a (dpa / 128)) := by
  have hpass := State.arrive_passes hv
  rw [exec_homeAccess_dram ha hmoving hv hplace, State.serveHome]
  dsimp only
  rw [hpass.memory.channelOf, hpass.field State.repair fun _ _ _ _ _ _ => rfl, if_pos hfailed]

variable (hgood : s.repair.failed.elem (s.channelOf (dpa / 128)) = false)
include hgood

/-- R202: an access whose line an earlier one holds waits. -/
theorem exec_homeAccess_held (hheld : s.lineHeld (s.channelOf (dpa / 128)) (dpa / 128) id = true) :
    exec (.homeAccess id) s = .next (v.waitAt (s.channelOf (dpa / 128)) id false) := by
  have hpass := State.arrive_passes hv
  rw [exec_homeAccess_dram ha hmoving hv hplace, State.serveHome]
  dsimp only
  rw [hpass.memory.channelOf, hpass.field State.repair fun _ _ _ _ _ _ => rfl, hgood, State.id_of_access ha,
    State.lineHeld_congr (hpass.field State.flights fun _ _ _ _ _ _ => rfl) hpass.memory.2.1, hheld]
  rfl

variable (hfree : s.lineHeld (s.channelOf (dpa / 128)) (dpa / 128) id = false)
include hfree

theorem exec_homeAccess_store {d : List (Option Byte)} (hop : a.op = .store d) :
    exec (.homeAccess id) s = .next ((v.storeLine (dpa / 128) (dpa % 128) a.hint d).setStage id .acked) := by
  have hpass := State.arrive_passes hv
  rw [exec_homeAccess_dram ha hmoving hv hplace, State.serveHome]
  dsimp only
  rw [hpass.memory.channelOf, hpass.field State.repair fun _ _ _ _ _ _ => rfl, hgood, State.id_of_access ha,
    State.lineHeld_congr (hpass.field State.flights fun _ _ _ _ _ _ => rfl) hpass.memory.2.1, hfree, hop]
  rfl

theorem exec_homeAccess_load (hop : a.op = .load) : exec (.homeAccess id) s = .next (
    if sectorsOf (dpa % 128) a.len &&& (15 - s.validAt (dpa / 128)) = 0 then v.serveLoad a dpa
    else v.missAt a (dpa / 128) (sectorsOf (dpa % 128) a.len &&& (15 - s.validAt (dpa / 128))) false) := by
  have hpass := State.arrive_passes hv
  have hneeds : a.needs (dpa % 128) = sectorsOf (dpa % 128) a.len := by rw [Access.needs, hop]
  rw [exec_homeAccess_dram ha hmoving hv hplace, State.serveHome]
  dsimp only
  rw [hpass.memory.channelOf, hpass.field State.repair fun _ _ _ _ _ _ => rfl, hgood, State.id_of_access ha,
    State.lineHeld_congr (hpass.field State.flights fun _ _ _ _ _ _ => rfl) hpass.memory.2.1, hfree, hop, hneeds,
    hpass.memory.validAt]
  rfl

end

/-- An access that has not arrived, or is no longer on its way, is left as it is. -/
theorem exec_homeAccess_early {s : State} {id : Nat}
    (h : s.access id = none ∨ (∃ a, s.access id = some a ∧ a.stage ≠ .moving) ∨ s.arrive id = none) :
    exec (.homeAccess id) s = .next s := by
  rw [exec_homeAccess, execHomeAccess]
  rcases h with h | ⟨a, ha, hstage⟩ | h
  · rw [h]
  · rw [ha]
    exact if_pos hstage
  · cases s.access id with
    | none => rfl
    | some a =>
      dsimp only
      rw [h]
      split
      · rfl
      · split <;> simp_all

/-! ## Waiting and host memory -/

/-- R203: an access at the slice's input changes no byte. -/
theorem State.waitAt_facts (s : State) (ch id : Nat) : (s.waitAt ch id false).dram = s.dram ∧
    (∀ x, (s.waitAt ch id false).homeByte x = s.homeByte x) ∧
    ((s.waitAt ch id false).slice ch).inq = (s.slice ch).inq ++ [id] ∧
    (∀ b ∈ (s.waitAt ch id false).flights, b.id = id → b.stage = .waiting) := by
  have hslice : ∀ k, ((s.waitAt ch id false).slice k) =
      if k = ch then { s.slice ch with inq := (s.slice ch).inq ++ [id] } else s.slice k :=
    fun k => s.slice_setSlice ch k _
  have hsame : ∀ k, ((s.waitAt ch id false).slice k).sets = (s.slice k).sets ∧
      ((s.waitAt ch id false).slice k).wb = (s.slice k).wb ∧ ((s.waitAt ch id false).slice k).dead = (s.slice k).dead := fun k => by
    rw [hslice]
    split
    · next h => rw [h]; exact ⟨rfl, rfl, rfl⟩
    · exact ⟨rfl, rfl, rfl⟩
  refine ⟨rfl, fun x => State.homeByte_congr (s := s) (t := s.waitAt ch id false) rfl ?_ (hsame _).2.1 (hsame _).2.2 rfl, by rw [hslice, if_pos rfl], ?_⟩
  · exact State.copy_congr (s := s) (t := s.waitAt ch id false) rfl (by rw [State.bodies, State.bodies, Slice.set, (hsame _).1, Slice.set])
  · exact State.stage_setStage _ id .waiting

/-- A masked write: the bytes given, and every other byte as it was. -/
theorem tabGet_tabWriteMasked {α : Type} [DecidableEq α] (d : α) (vs : List (Option α)) : ∀ (t : Tab α) (lo x : Nat),
    tabGet (tabWriteMasked t d lo vs) d x =
      if lo ≤ x ∧ x < lo + vs.length then (vs.getD (x - lo) none).getD (tabGet t d x) else tabGet t d x := by
  induction vs with
  | nil => exact fun t lo x => (if_neg (by simp)).symm
  | cons v r ih =>
    intro t lo x
    have hstep : tabGet (tabWriteMasked t d lo (v :: r)) d x =
        if lo + 1 ≤ x ∧ x < lo + 1 + r.length then (r.getD (x - (lo + 1)) none).getD (tabGet t d x)
        else if x = lo then v.getD (tabGet t d x) else tabGet t d x := by
      cases v with
      | none => rw [tabWriteMasked, ih]; simp
      | some b =>
        rw [tabWriteMasked, ih, tabGet_tabSet]
        by_cases hx : x = lo
        · subst hx; simp
        · simp [hx]
    rw [hstep, List.length_cons]
    rcases Nat.lt_trichotomy x lo with h | h | h
    · rw [if_neg (by omega), if_neg (by omega), if_neg (by omega)]
    · subst h
      rw [if_neg (by omega), if_pos rfl, if_pos (by omega), Nat.sub_self]
      rfl
    · rw [if_neg (show x ≠ lo by omega), show x - lo = x - (lo + 1) + 1 by omega, List.getD_cons_succ]
      exact if_congr (by omega) rfl rfl

/-! ## The atomic unit (R211) -/

section
variable {s : State} {id dpa : Nat} {a : Access} {op : AtomOp} {ty : AtomTy} {lanes : List (Nat × Word64 × Word64)}

variable (ha : s.access id = some a) (hstage : a.stage = .forwarded) (hplace : a.place = .dram dpa) (hop : a.op = .atomic op ty lanes)
include ha hstage hplace hop

theorem State.atomicUnit_poisoned (hpoison : s.poisoned (dpa / 128 * 128) 128 = true) :
    s.atomicUnit id = (s.servePoison a (dpa / 128)).retryInput (s.channelOf (dpa / 128)) := by
  unfold State.atomicUnit
  rw [ha]
  dsimp only
  rw [hop, hplace, hstage]
  exact if_pos hpoison

theorem State.atomicUnit_applied (hclean : s.poisoned (dpa / 128 * 128) 128 = false) : s.atomicUnit id =
    (((s.storeLine (dpa / 128) (dpa % 128) a.hint ((leBytes (atomBytes ty) (applyLanes op ty
        (BitVec.ofNat 64 (leNat (s.homeBytes dpa (atomBytes ty)))) (lanes.map (fun l => l.2))).2.toNat).map some)).setStage id
      (.served [] (applyLanes op ty (BitVec.ofNat 64 (leNat (s.homeBytes dpa (atomBytes ty)))) (lanes.map (fun l => l.2))).1)).retryInput
        (s.channelOf (dpa / 128))) := by
  unfold State.atomicUnit
  rw [ha]
  dsimp only
  rw [hop, hplace, hstage]
  dsimp only
  rw [hclean]
  rfl

end

/-! ## Bytes written by a store of numbers -/

theorem getD_map_some (l : List Byte) {i : Nat} (hi : i < l.length) : (l.map some).getD i none = some (l.getD i 0) := by
  simp [List.getD_eq_getElem?_getD, hi]

theorem State.homeBytes_eq {s : State} {a : Nat} {l : List Byte} (h : ∀ i, i < l.length → s.homeByte (a + i) = l.getD i 0) :
    s.homeBytes a l.length = l := by
  refine List.ext_getElem (by simp [State.homeBytes]) fun i hi hi' => ?_
  simp only [State.homeBytes, List.getElem_map, List.getElem_range, h i hi', List.getD_eq_getElem _ _ hi']

/-- An aligned number lies in one line. -/
theorem atom_within {a : Nat} {ty : AtomTy} (h : a % atomBytes ty = 0) : a % 128 + atomBytes ty ≤ 128 := by
  rcases atomBytes_cases ty with hn | ⟨-, hn⟩ <;> rw [hn] at h ⊢ <;> omega

/-! ## What the accesses leave -/

section
variable {s v : State} {id dpa : Nat} {a : Access} (ha : s.access id = some a) (hmoving : a.stage = .moving) (hv : s.arrive id = some v)
  (hplace : a.place = .dram dpa) (hgood : s.repair.failed.elem (s.channelOf (dpa / 128)) = false)
  (hfree : s.lineHeld (s.channelOf (dpa / 128)) (dpa / 128) id = false)
include ha hmoving hv hplace hgood hfree

/-- R204, R229: a store is acknowledged, and its bytes are read back. -/
theorem homeAccess_store {d : List (Option Byte)} (hop : a.op = .store d) (hfit : dpa % 128 + d.length ≤ 128)
    (halive : (s.slice (s.channelOf (dpa / 128))).dead.elem (dpa / 128) = false)
    (hlen : ∀ l, s.cached (dpa / 128) = some l → l.data.length = 128) :
    ∃ t : State, exec (.homeAccess id) s = .next t ∧
      (∀ i v, i < d.length → d.getD i none = some v → t.homeByte (dpa + i) = v) ∧ t.ctxs = s.ctxs ∧
      t.tiles = s.tiles ∧ t.wet = v.wet ∧ (∀ b ∈ t.flights, b.id = id → b.stage = .acked) ∧
      (∀ b ∈ s.flights, b.id ≠ id → b ∈ t.flights) ∧
      ((s.cached (dpa / 128)).isSome = true ∨
        ((s.slice (s.channelOf (dpa / 128))).set (s.setOf (dpa / 128))).length < 16 →
        t.dram = s.dram ∧ (∀ i, i < d.length → d.getD i none = none → t.homeByte (dpa + i) = s.homeByte (dpa + i)) ∧
        ∀ x, x < dpa ∨ dpa + d.length ≤ x → t.homeByte x = s.homeByte x) := by
  have hpass := State.arrive_passes hv
  have hmem := hpass.memory
  have hstored : ∀ x, ((v.storeLine (dpa / 128) (dpa % 128) a.hint d).setStage id .acked).homeByte x =
      (v.storeLine (dpa / 128) (dpa % 128) a.hint d).homeByte x := (State.setStage_memory _ id .acked).homeByte
  have hdpa : ∀ i, dpa + i = dpa / 128 * 128 + dpa % 128 + i := by omega
  have hcaches := (v.storeLine_caches (dpa / 128) (dpa % 128) a.hint d)
  refine ⟨_, exec_homeAccess_store ha hmoving hv hplace hgood hfree hop, ?_, ?_, ?_, ?_, State.stage_setStage _ id _, ?_, ?_⟩
  · intro i b hi hb
    rw [hstored, hdpa]
    exact State.storeLine_reads (by rw [hmem.cached]; exact hlen) hfit a.hint hi hb
  · exact (hcaches.field State.ctxs fun _ _ _ _ _ _ => rfl).trans (hpass.field State.ctxs fun _ _ _ _ _ _ => rfl)
  · exact (hcaches.field State.tiles fun _ _ _ _ _ _ => rfl).trans (hpass.field State.tiles fun _ _ _ _ _ _ => rfl)
  · exact hcaches.field State.wet fun _ _ _ _ _ _ => rfl
  · intro b hb hid
    refine State.mem_setStage ?_ hid _
    rw [hcaches.field State.flights fun _ _ _ _ _ _ => rfl, hpass.field State.flights fun _ _ _ _ _ _ => rfl]
    exact hb
  · intro hroom
    rw [← hmem.cached, ← hmem.channelOf, ← hmem.slice, ← State.setOf_congr hmem.1] at hroom
    rw [← hmem.channelOf, ← hmem.slice] at halive
    have hbytes : ∀ x, (∀ i, i < d.length → x = dpa + i → d.getD i none = none) →
        ((v.storeLine (dpa / 128) (dpa % 128) a.hint d).setStage id .acked).homeByte x = s.homeByte x := fun x hx => by
      rw [hstored, State.homeByte_storeLine halive hroom (by rw [hmem.cached]; exact hlen) a.hint hfit (fun i hi hxi =>
        hx i hi (by omega)), hmem.homeByte]
    obtain ⟨k, -, htouch⟩ := State.storeLine_touches halive hroom (dpa % 128) a.hint d
    refine ⟨htouch.1.dram.trans hmem.2.2, fun i hi hd => hbytes _ fun j hj hij => ?_, fun x hx => hbytes x fun j hj hij => ?_⟩
    · rw [show j = i by omega, hd]
    · omega

/-- R202, R206: a load whose sectors are at hand gets the home's bytes. -/
theorem homeAccess_load_hit (hop : a.op = .load) (hhit : sectorsOf (dpa % 128) a.len &&& (15 - s.validAt (dpa / 128)) = 0)
    (hhint : a.hint ≠ 3) : ∃ t : State, exec (.homeAccess id) s = .next t ∧ t.dram = s.dram ∧ t.ctxs = s.ctxs ∧
      (∀ b ∈ t.flights, b.id = id → b.stage = .served (s.homeBytes dpa a.len) []) ∧ ∀ x, t.homeByte x = s.homeByte x := by
  have hpass := State.arrive_passes hv
  have hmem := hpass.memory
  obtain ⟨honly, hbytes⟩ := v.serveLoad_facts a dpa hhint
  have hid := State.id_of_access ha
  have hexec := exec_homeAccess_load ha hmoving hv hplace hgood hfree hop
  rw [if_pos hhit] at hexec
  refine ⟨_, hexec, honly.dram.trans hmem.2.2, ?_, ?_, fun x => (hbytes x).trans (hmem.homeByte x)⟩
  · exact (honly.evicts.field State.ctxs fun _ _ _ _ _ _ => rfl).trans (hpass.field State.ctxs fun _ _ _ _ _ _ => rfl)
  · rw [honly.evicts.field State.flights fun _ _ _ _ _ _ => rfl, hid, hmem.homeBytes]
    exact State.stage_setStage v id _

/-- R203: a load that misses waits at a miss register of its line. -/
theorem homeAccess_load_miss (hop : a.op = .load) (hmiss : sectorsOf (dpa % 128) a.len &&& (15 - s.validAt (dpa / 128)) ≠ 0)
    (hroom : (s.slice (s.channelOf (dpa / 128))).miss.length < 64)
    (hwait : ∀ m ∈ (s.slice (s.channelOf (dpa / 128))).miss, m.waiters.length < 16) :
    ∃ t : State, exec (.homeAccess id) s = .next t ∧ (∀ b ∈ t.flights, b.id = id → b.stage = .waiting) ∧ t.tiles = s.tiles ∧
      ((s.slice (s.channelOf (dpa / 128))).wb.length < 32 → t.dram = s.dram) ∧
      ∃ m ∈ (t.slice (t.channelOf (dpa / 128))).miss, m.tag = dpa / 128 ∧ a.id ∈ m.waiters := by
  have hpass := State.arrive_passes hv
  have hmem := hpass.memory
  have hch := hmem.channelOf (dpa / 128)
  obtain ⟨u, hu, hframe, m, hm, htag, hin⟩ := State.fillLine_some (s := v) (line := dpa / 128)
    (missing := sectorsOf (dpa % 128) a.len &&& (15 - s.validAt (dpa / 128))) (hint := a.hint) (waiters := [a.id])
    (by rw [hch, hmem.slice]; exact hroom) (by rw [hch, hmem.slice]; exact fun m hm => hwait m hm)
  obtain ⟨hevicts, hdram⟩ := v.allocFor_facts (dpa / 128) a.hint
  have hexec := exec_homeAccess_load ha hmoving hv hplace hgood hfree hop
  rw [if_neg hmiss, State.missAt, hu, State.id_of_access ha] at hexec
  have hulocal : (u.setStage id .waiting).channelOf (dpa / 128) = v.channelOf (dpa / 128) :=
    State.channelOf_congr ((congrArg State.localActive hframe).trans hevicts.localActive) _
  refine ⟨_, hexec, State.stage_setStage u id _, ?_, fun hwb => ?_, m, ?_, htag, hin a.id (List.mem_singleton.mpr rfl)⟩
  · exact ((congrArg State.tiles hframe).trans (hevicts.field State.tiles fun _ _ _ _ _ _ => rfl)).trans
      (hpass.field State.tiles fun _ _ _ _ _ _ => rfl)
  · exact ((congrArg State.dram hframe).trans (hdram (by rw [hch, hmem.slice]; exact hwb))).trans hmem.2.2
  · rw [hulocal]
    exact hm

end

section
variable {s : State} {id dpa : Nat} {a : Access} {op : AtomOp} {ty : AtomTy} {lanes : List (Nat × Word64 × Word64)}
  (ha : s.access id = some a) (hstage : a.stage = .forwarded) (hplace : a.place = .dram dpa) (hop : a.op = .atomic op ty lanes)
  (hinq : (s.slice (s.channelOf (dpa / 128))).inq = []) (hearly : s.fab.early = [])
include ha hstage hplace hop hinq hearly

/-- R192, R211: over poison the atomic is not applied. -/
theorem atomicUnit_poison (hpoison : s.poisoned (dpa / 128 * 128) 128 = true) :
    ∃ t : State, exec (.atomicUnitOperation id) s = .next t ∧ (∀ k, t.slice k = s.slice k) ∧
      t.dram = s.dram ∧ ∀ b ∈ t.flights, b.id = id → b.stage = .poisoned := by
  have hslice : ∀ k, (s.servePoison a (dpa / 128)).slice k = s.slice k := fun k => rfl
  have hinq' := (congrArg Slice.inq (hslice (s.channelOf (dpa / 128)))).trans hinq
  have hretry := State.retryInput_none hinq'
  have hexec : exec (.atomicUnitOperation id) s = .next ((s.servePoison a (dpa / 128)).retryInput (s.channelOf (dpa / 128))) := by
    rw [exec_atomicUnitOperation, State.atomicUnit_poisoned ha hstage hplace hop hpoison, State.drainAll_none]
    rw [hretry.field State.fab fun _ _ => rfl]
    exact hearly
  refine ⟨_, hexec, fun k => (hretry.2 k).trans (hslice k), hretry.field State.dram fun _ _ => rfl, ?_⟩
  rw [hretry.field State.flights fun _ _ => rfl, ← State.id_of_access ha]
  exact State.stage_setStage _ a.id _

/-- R211: the atomic's lanes applied one after another to the line's bytes. -/
theorem atomicUnit_apply (halign : dpa % atomBytes ty = 0)
    (halive : (s.slice (s.channelOf (dpa / 128))).dead.elem (dpa / 128) = false)
    (hlen : ∀ l, s.cached (dpa / 128) = some l → l.data.length = 128)
    (hroom : (s.cached (dpa / 128)).isSome = true ∨
      ((s.slice (s.channelOf (dpa / 128))).set (s.setOf (dpa / 128))).length < 16)
    (hclean : s.poisoned (dpa / 128 * 128) 128 = false) : ∃ t : State, exec (.atomicUnitOperation id) s = .next t ∧
      t.homeBytes dpa (atomBytes ty) = leBytes (atomBytes ty) (applyLanes op ty
        (BitVec.ofNat 64 (leNat (s.homeBytes dpa (atomBytes ty)))) (lanes.map (fun l => l.2))).2.toNat ∧
      (∀ x, x < dpa ∨ dpa + atomBytes ty ≤ x → t.homeByte x = s.homeByte x) ∧ t.dram = s.dram ∧
      ∀ b ∈ t.flights, b.id = id → b.stage = .served [] (applyLanes op ty
        (BitVec.ofNat 64 (leNat (s.homeBytes dpa (atomBytes ty)))) (lanes.map (fun l => l.2))).1 := by
  have happly := State.atomicUnit_applied ha hstage hplace hop hclean
  generalize applyLanes op ty (BitVec.ofNat 64 (leNat (s.homeBytes dpa (atomBytes ty)))) (lanes.map (fun l => l.2)) = r at happly ⊢
  have hwrite : (leBytes (atomBytes ty) r.2.toNat).length = atomBytes ty := length_leBytes _ _
  generalize leBytes (atomBytes ty) r.2.toNat = w at happly hwrite ⊢
  have hfit : dpa % 128 + (w.map some).length ≤ 128 := by
    rw [List.length_map, hwrite]
    exact atom_within halign
  obtain ⟨k, -, htouch⟩ := State.storeLine_touches halive hroom (dpa % 128) a.hint (w.map some)
  have hsame : ∀ x, ((s.storeLine (dpa / 128) (dpa % 128) a.hint (w.map some)).setStage id (.served [] r.1)).homeByte x =
      (s.storeLine (dpa / 128) (dpa % 128) a.hint (w.map some)).homeByte x := (State.setStage_memory _ id _).homeByte
  have hinq' : (((s.storeLine (dpa / 128) (dpa % 128) a.hint (w.map some)).setStage id (.served [] r.1)).slice
      (s.channelOf (dpa / 128))).inq = [] := ((htouch.1.evicts.2 _).2.1).trans hinq
  have hretry := State.retryInput_none hinq'
  have hexec : exec (.atomicUnitOperation id) s = .next (((s.storeLine (dpa / 128) (dpa % 128) a.hint (w.map some)).setStage id
      (.served [] r.1)).retryInput (s.channelOf (dpa / 128))) := by
    rw [exec_atomicUnitOperation, happly, State.drainAll_none]
    rw [hretry.field State.fab fun _ _ => rfl]
    exact (congrArg Fabric.early (htouch.1.evicts.field State.fab fun _ _ _ _ _ _ => rfl)).trans hearly
  refine ⟨_, hexec, ?_, fun x hx => ?_, ?_, ?_⟩
  · rw [← hwrite]
    refine State.homeBytes_eq fun i hi => ?_
    rw [hretry.homeByte, hsame, show dpa + i = dpa / 128 * 128 + dpa % 128 + i by omega]
    exact State.storeLine_reads hlen hfit a.hint (by simpa using hi) (getD_map_some w hi)
  · rw [hretry.homeByte, hsame]
    refine State.homeByte_storeLine halive hroom hlen a.hint hfit fun i hi hxi => ?_
    rw [List.length_map, hwrite] at hi
    omega
  · exact (hretry.field State.dram fun _ _ => rfl).trans htouch.1.dram
  · rw [hretry.field State.flights fun _ _ => rfl]
    exact State.stage_setStage _ id _

end

/-- Settles O40: a store changes its own line's copy, so its bytes are the ones read back; the other accesses change no byte. -/
theorem localAccessesAreServedAtTheHome : Obligations.LocalAccessesAreServedAtTheHome := by
  unfold Obligations.LocalAccessesAreServedAtTheHome
  refine ⟨fun s v id dpa a d ha hm hv hheld hplace hop hgood hfit halive hlen =>
      homeAccess_store ha hm hv hplace hgood hheld hop hfit halive hlen,
    fun s v id dpa a ha hm hplace hv hheld hop hgood =>
      ⟨homeAccess_load_hit ha hm hv hplace hgood hheld hop, homeAccess_load_miss ha hm hv hplace hgood hheld hop⟩,
    ?_, ?_, ?_, fun s id => exec_homeAccess_early, fun s id dpa a op ty lanes ha hstage hplace hop hinq hearly hal halive hlen hroom =>
      ⟨atomicUnit_apply ha hstage hplace hop hinq hearly hal halive hlen hroom, atomicUnit_poison ha hstage hplace hop hinq hearly⟩⟩
  · intro s v id dpa a ha hm hplace hv hgood hheld
    have hmem := (State.arrive_passes hv).memory
    obtain ⟨hdram, hbytes, hinq, hstage⟩ := v.waitAt_facts (s.channelOf (dpa / 128)) id
    exact ⟨_, exec_homeAccess_held ha hm hv hplace hgood hheld, hdram.trans hmem.2.2, fun x => (hbytes x).trans (hmem.homeByte x),
      hinq.trans (by rw [hmem.slice]), hstage⟩
  · intro s v id dpa a ha hm hplace hv hfailed
    have hmem := (State.arrive_passes hv).memory
    refine ⟨_, exec_homeAccess_failed ha hm hv hplace hfailed, hmem.2.2, hmem.2.1, ?_⟩
    rw [← State.id_of_access ha]
    exact State.stage_setStage _ a.id _
  · intro s v id iova a ha hm hplace hv
    have hpass := State.arrive_passes hv
    have hctx : v.ctx a.ctx = s.ctx a.ctx := State.ctx_congr (hpass.field State.ctxs fun _ _ _ _ _ _ => rfl) _
    have hhost : v.hostMem = s.hostMem := hpass.field State.hostMem fun _ _ _ _ _ _ => rfl
    have hexec := exec_homeAccess_host ha hm hv hplace
    refine ⟨fun hop => ?_, fun d hop => ?_⟩
    · rw [State.serveHost, hop, State.id_of_access ha] at hexec
      refine ⟨_, hexec, rfl, ?_⟩
      rw [← hctx, ← hhost]
      exact State.stage_setStage _ id _
    · rw [State.serveHost, hop, State.id_of_access ha] at hexec
      refine ⟨_, hexec, rfl, State.stage_setStage _ id _, fun x => ?_⟩
      rw [← hctx, ← hhost]
      exact tabGet_tabWriteMasked 0 d v.hostMem _ x

end Sys2Proof.Machine
end

section
/-! What DRAM returns (R191, R192, R203 to R205): the code's outcome, a sector that fills its line, and the accesses that waited. -/

namespace Sys2Proof.Machine

/-! ## The code of a sector (R191, R192) -/

section
variable {s t : State} {line sector : Nat} {symbols : BitVec 2}

/-- `t` is `s` but for what is counted, logged and noted of sectors in error, and for poison. -/
def State.notes (s t : State) : Prop := t = { s with memCounters := t.memCounters, hal := t.hal, poison := t.poison }

theorem State.notes.refl (s : State) : s.notes s := rfl

theorem State.notes.trans {u : State} (h : s.notes t) (h' : t.notes u) : s.notes u := by rw [State.notes, h', h]

theorem State.notes.field (h : s.notes t) {γ : Type} (p : State → γ)
    (hp : ∀ u a b c, p { u with memCounters := a, hal := b, poison := c } = p u) : p t = p s := by rw [h, hp]

theorem State.notes.memory (h : s.notes t) : s.sameMemory t :=
  ⟨h.field State.localActive fun _ _ _ _ => rfl, h.field State.slices fun _ _ _ _ => rfl, h.field State.dram fun _ _ _ _ => rfl⟩

theorem State.countCorrected_notes (s : State) (line sector : Nat) (symbols : BitVec 2) :
    s.notes (s.countCorrected line sector symbols) ∧ (s.countCorrected line sector symbols).poison = s.poison := by
  unfold State.countCorrected
  split
  · exact ⟨rfl, rfl⟩
  · exact ⟨.refl s, rfl⟩

theorem mem_addNew {α : Type} [DecidableEq α] {l : List α} {x y : α} : y ∈ addNew l x ↔ y ∈ l ∨ y = x := by
  unfold addNew
  split
  · next h => exact ⟨.inl, fun hy => hy.elim id fun he => he ▸ by simpa using h⟩
  · rw [List.mem_append, List.mem_singleton]

theorem State.poisonSector_facts (s : State) (line sector : Nat) : s.notes (s.poisonSector line sector) ∧
    (s.poisonSector line sector).poison = addNew s.poison (line * 4 + sector) := ⟨rfl, rfl⟩

theorem State.codeCheck_notes (s : State) (line sector : Nat) (symbols : BitVec 2) : s.notes (s.codeCheck line sector symbols) := by
  have h := (s.countCorrected_notes line sector symbols).1
  unfold State.codeCheck
  dsimp only
  split
  · exact h.trans (State.poisonSector_facts _ _ _).1
  · exact h

/-- R191: at most one symbol in error is corrected. -/
theorem State.codeCheck_corrected (h : ¬ 1 < symbols) : s.codeCheck line sector symbols = s.countCorrected line sector symbols := by
  unfold State.codeCheck
  exact if_neg fun hh => h hh.1

/-- R191, R192: with more the sector is poisoned, if it was not already. -/
theorem State.codeCheck_lost (h : 1 < symbols) : line * 4 + sector ∈ (s.codeCheck line sector symbols).poison := by
  unfold State.codeCheck
  dsimp only
  split
  · rw [(State.poisonSector_facts _ _ _).2]
    exact mem_addNew.mpr (.inr rfl)
  · next hn =>
    by_contra hnot
    exact hn ⟨h, by simpa using hnot⟩

theorem wrongSymbols_few (odd : Bool) : ¬ 1 < wrongSymbols odd false := by revert odd; decide

theorem wrongSymbols_many (odd : Bool) : 1 < wrongSymbols odd true := by revert odd; decide

/-! ## A sector that arrives (R203 to R205) -/

/-- The miss registers of a slice once a sector of a line has come in. -/
def Slice.missAfter (x : Slice) (m : Miss) (line sector : Nat) : List Miss :=
  if m.sectors &&& ~~~(BitVec.ofNat 4 (2 ^ sector)) = 0 then x.miss.filter (fun m => m.tag != line)
  else modIf x.miss (fun m => m.tag == line) (fun x => { x with sectors := m.sectors &&& ~~~(BitVec.ofNat 4 (2 ^ sector)) })

/-- A sector's bytes put into its line's copy. -/
def State.takesFill (s : State) (m : Miss) (line sector : Nat) : State :=
  s.setSlice (s.channelOf line) { (s.slice (s.channelOf line)).setSet (s.setOf line)
      (modIf ((s.slice (s.channelOf line)).set (s.setOf line)) (fun l => l.tag == line)
        (fun l => l.fill sector (s.fetchSector line sector))) with
    miss := (s.slice (s.channelOf line)).missAfter m line sector }

/-- A sector's fill ended without its bytes. -/
def State.losesFill (s : State) (m : Miss) (line sector : Nat) : State :=
  s.setSlice (s.channelOf line) { s.slice (s.channelOf line) with miss := (s.slice (s.channelOf line)).missAfter m line sector }

/-- The accesses that a fill lets go on: its waiters, and with the last sector those at the slice's input. -/
def State.served (s : State) (m : Miss) (sector ch : Nat) : State :=
  let v := m.waiters.foldl (fun s id => s.serveWaiter id (m.sectors &&& ~~~(BitVec.ofNat 4 (2 ^ sector))).toNat) s
  if m.sectors &&& ~~~(BitVec.ofNat 4 (2 ^ sector)) = 0 then v.retryInput ch else v

theorem State.fillSector_clean (m : Miss) (h : (s.codeCheck line sector symbols).poison.elem (line * 4 + sector) = false) :
    s.fillSector m line sector symbols =
      ((s.codeCheck line sector symbols).takesFill m line sector).served m sector (s.channelOf line) := by
  have hmem := (s.codeCheck_notes line sector symbols).memory
  unfold State.fillSector State.takesFill
  dsimp only
  rw [h, hmem.channelOf]
  rfl

theorem State.fillSector_poisoned (m : Miss) (h : (s.codeCheck line sector symbols).poison.elem (line * 4 + sector) = true) :
    s.fillSector m line sector symbols =
      (((s.codeCheck line sector symbols).losesFill m line sector).poisonWaiters m.waiters line sector).served m sector
        (s.channelOf line) := by
  have hmem := (s.codeCheck_notes line sector symbols).memory
  unfold State.fillSector State.losesFill
  dsimp only
  rw [h, hmem.channelOf]
  rfl

theorem exec_sectorFillCompletion (ch line sector : Nat) (odd many : Bool) (s : State) :
    exec (.sectorFillCompletion ch line sector odd many) s = execSectorFillCompletion ch line sector odd many s := rfl

theorem exec_sectorFillCompletion_some {ch : Nat} {odd many : Bool} {m : Miss} (hch : s.channelOf line = ch)
    (hm : (s.slice ch).miss.find? (fun m => m.tag == line && m.sectors.getLsbD sector) = some m) :
    exec (.sectorFillCompletion ch line sector odd many) s =
      .next (s.fillSector m line sector (wrongSymbols odd many)).drainAll := by
  rw [exec_sectorFillCompletion, execSectorFillCompletion, hm]
  dsimp only
  rw [if_pos hch]

theorem exec_sectorFillCompletion_none {ch : Nat} {odd many : Bool}
    (hm : (s.slice ch).miss.find? (fun m => m.tag == line && m.sectors.getLsbD sector) = none) :
    exec (.sectorFillCompletion ch line sector odd many) s = .next s := by
  rw [exec_sectorFillCompletion, execSectorFillCompletion, hm]

/-! ## The line that was filled -/

/-- `t` is `s` but for the sets and the miss registers of its slices. -/
def State.fillsOnly (s t : State) : Prop := t = { s with slices := t.slices } ∧
  ∀ k, (t.slice k).inq = (s.slice k).inq ∧ (t.slice k).wb = (s.slice k).wb ∧ (t.slice k).dead = (s.slice k).dead

theorem State.fillsOnly.field (h : s.fillsOnly t) {γ : Type} (p : State → γ) (hp : ∀ u a, p { u with slices := a } = p u) :
    p t = p s := by rw [h.1, hp]

theorem State.setSlice_fills {ch : Nat} {x : Slice} (hinq : x.inq = (s.slice ch).inq) (hwb : x.wb = (s.slice ch).wb)
    (hdead : x.dead = (s.slice ch).dead) : s.fillsOnly (s.setSlice ch x) := by
  refine ⟨rfl, fun k => ?_⟩
  rw [State.slice_setSlice]
  split
  · next h => rw [h, hinq, hwb, hdead]; exact ⟨rfl, rfl, rfl⟩
  · exact ⟨rfl, rfl, rfl⟩

theorem State.takesFill_only (s : State) (m : Miss) (line sector : Nat) : s.fillsOnly (s.takesFill m line sector) :=
  State.setSlice_fills rfl rfl rfl

theorem State.losesFill_only (s : State) (m : Miss) (line sector : Nat) : s.fillsOnly (s.losesFill m line sector) :=
  State.setSlice_fills rfl rfl rfl

theorem State.missAfter_takesFill (s : State) (m : Miss) (line sector : Nat) : ((s.takesFill m line sector).slice (s.channelOf line)).miss =
    (s.slice (s.channelOf line)).missAfter m line sector := by
  rw [State.takesFill, State.slice_setSlice, if_pos rfl]

theorem State.set_takesFill (s : State) (m : Miss) (line sector k j : Nat) : ((s.takesFill m line sector).slice k).set j =
    if k = s.channelOf line ∧ j = s.setOf line then
      modIf ((s.slice (s.channelOf line)).set (s.setOf line)) (fun l => l.tag == line)
        (fun l => l.fill sector (s.fetchSector line sector))
    else (s.slice k).set j := by
  rw [State.takesFill, State.slice_setSlice]
  split
  · next h => exact (Slice.set_setSet _ _ _ _).trans (if_congr (by simp [h]) rfl (by rw [h]))
  · next h => rw [if_neg fun hh => h hh.1]

/-- R204, R205: the fill goes into the line's copy, and no other line changes. -/
theorem State.cached_takesFill (s : State) (m : Miss) (line sector n : Nat) : (s.takesFill m line sector).cached n =
    if n = line then (s.cached line).map (fun l => l.fill sector (s.fetchSector line sector)) else s.cached n := by
  have hlocal : (s.takesFill m line sector).localActive = s.localActive := rfl
  rw [State.cached, State.channelOf_congr hlocal, State.setOf_congr hlocal, State.set_takesFill]
  split
  · next h =>
    rw [find_modIf (p := fun l => l.tag == n) (f := fun l => l.fill sector (s.fetchSector line sector)) fun _ => rfl,
      ← h.1, ← h.2, ← State.cached]
    cases hl : s.cached n with
    | none =>
      split
      · next hn => rw [← hn, hl]; rfl
      · rfl
    | some l =>
      have htag := State.tag_of_cached hl
      split
      · next hn => rw [← hn, hl, Option.map_some, Option.map_some, if_pos (by rw [htag]; exact beq_self_eq_true _)]
      · next hn => rw [Option.map_some, if_neg (by rw [htag, beq_iff_eq]; exact hn)]
  · next h =>
    rw [if_neg (fun hn => h (by rw [hn]; exact ⟨rfl, rfl⟩)), ← State.cached]

theorem State.getD_fetchSector (halive : (s.slice (s.channelOf line)).dead.elem line = false) {j : Nat} (hj : j < 32) :
    (s.fetchSector line sector).getD j 0 = s.underByte (line * 128 + 32 * sector + j) := by
  simp only [State.fetchSector, halive, List.getD_eq_getElem?_getD, List.getElem?_map, List.getElem?_range hj, Option.map_some,
    Option.getD_some]
  rfl

/-- R204, R205: a fill brings what the home read already: no byte changes. -/
theorem State.homeByte_takesFill (m : Miss) {l : Line} (hl : s.cached line = some l) (hlen : l.data.length = 128)
    (halive : (s.slice (s.channelOf line)).dead.elem line = false) (hsector : sector < 4) (hvalid : l.valid.getLsbD sector = false)
    (x : Nat) : (s.takesFill m line sector).homeByte x = s.homeByte x := by
  have hfills := s.takesFill_only m line sector
  have hunder : (s.takesFill m line sector).underByte x = s.underByte x :=
    State.underByte_congr (s := s) (t := s.takesFill m line sector) rfl (hfills.2 _).2.1 rfl
  by_cases hx : x / 128 = line
  · have hcopy : (s.takesFill m line sector).copy (x / 128) = some (l.fill sector (s.fetchSector line sector)).body := by
      rw [State.copy, State.cached_takesFill, if_pos hx, hl]
      rfl
    have hj : x % 128 < 128 := Nat.mod_lt _ (by decide)
    rw [State.homeByte_copied hcopy, State.homeByte_copied (l := l.body) (by rw [hx]; exact State.copy_of_cached hl), hunder]
    have hholds : (l.fill sector (s.fetchSector line sector)).body.holds (x % 128) =
        (l.holds (x % 128) || decide (x % 128 / 32 = sector)) := by
      rw [show (l.fill sector (s.fetchSector line sector)).body.holds (x % 128) =
        (l.fill sector (s.fetchSector line sector)).holds (x % 128) from rfl, Line.holds, Line.holds, Line.dirty_fill,
        Line.valid_fill _ hsector, Bool.or_assoc]
    have hdata : (l.fill sector (s.fetchSector line sector)).body.data.getD (x % 128) 0 = _ := l.getD_fill hlen sector _ hj
    rw [hholds, hdata, show l.body.holds (x % 128) = l.holds (x % 128) from rfl, show l.body.data = l.data from rfl]
    by_cases hs : x % 128 / 32 = sector
    · cases hd : l.dirty.getLsbD (x % 128) with
      | true => simp [Line.holds, hd]
      | false =>
        have hnot : l.holds (x % 128) = false := by rw [Line.holds, hd, hs, hvalid]; rfl
        rw [hnot, if_pos (by simp [hs]), if_pos ⟨hs, rfl⟩, if_neg (by simp),
          State.getD_fetchSector halive (Nat.mod_lt _ (by decide))]
        congr 1
        omega
    · simp [hs]
  · exact State.homeByte_congr (s := s) (t := s.takesFill m line sector) rfl (by rw [State.copy, State.copy, State.cached_takesFill, if_neg hx]) (hfills.2 _).2.1
      (hfills.2 _).2.2 rfl

/-! ## The accesses that waited -/

/-- With nobody at the slice's input, the waiters alone go on. -/
theorem State.served_rereads {ch : Nat} {m : Miss} {v : State}
    (hv : m.waiters.foldl (fun s id => s.serveWaiter id (m.sectors &&& ~~~(BitVec.ofNat 4 (2 ^ sector))).toNat) s = v)
    (hinq : (v.slice ch).inq = []) : v.rereads (s.served m sector ch) := by
  unfold State.served
  dsimp only
  rw [hv]
  split
  · exact State.retryInput_none hinq
  · exact .refl v

theorem State.serveWaiter_load {id d : Nat} {a : Access} (ha : s.access id = some a) (hplace : a.place = .dram d)
    (hstage : a.stage = .waiting) (hop : a.op = .load) : s.serveWaiter id 0 = s.serveLoad a d := by
  unfold State.serveWaiter
  rw [ha]
  dsimp only [Access.dpa?]
  rw [hplace]
  dsimp only
  rw [if_pos ⟨hstage, Nat.and_zero _⟩, hop]

theorem State.serveWaiter_ended {id n : Nat} {a : Access} (ha : s.access id = some a) (hstage : a.stage ≠ .waiting) :
    s.serveWaiter id n = s := by
  unfold State.serveWaiter
  rw [ha]
  dsimp only
  split
  · rfl
  · exact if_neg fun h => hstage h.1

theorem State.poisonWaiters_one {id d : Nat} {a : Access} (ha : s.access id = some a) (hplace : a.place = .dram d)
    (hneeds : (a.needs (d % 128)).testBit sector = true) : s.poisonWaiters [id] line sector = s.servePoison a line := by
  unfold State.poisonWaiters
  rw [List.foldl_cons, List.foldl_nil, ha]
  dsimp only [Access.dpa?]
  rw [hplace]
  dsimp only
  rw [if_pos hneeds]

end

end Sys2Proof.Machine
end

section
/-! O41: SECTOR_FILL_COMPLETION, WRITE_BACK_ACKNOWLEDGEMENT, PATROL_SCRUB, KEEP_CLEAR and KEEP_SWEEP_END (R191 to R193, R203, R204,
R208, R222). -/

namespace Sys2Proof.Machine

theorem exec_writeBackAcknowledgement (ch line : Nat) (s : State) :
    exec (.writeBackAcknowledgement ch line) s = execWriteBackAcknowledgement ch line s := rfl

theorem exec_patrolScrub (ch line sector : Nat) (odd many : Bool) (s : State) :
    exec (.patrolScrub ch line sector odd many) s = execPatrolScrub ch line sector odd many s := rfl

theorem exec_keepSweepEnd (s : State) : exec .keepSweepEnd s = execKeepSweepEnd s := rfl

/-! ## Fills -/

/-- The one register that waits for the sector alone is its line's, and it ends with the fill. -/
theorem oneMiss {s : State} {ch line sector : Nat} {m : Miss} (hmiss : (s.slice ch).miss = [m]) (htag : m.tag = line)
    (hsectors : m.sectors = BitVec.ofNat 4 (2 ^ sector)) (hsector : sector < 4) :
    (s.slice ch).miss.find? (fun m => m.tag == line && m.sectors.getLsbD sector) = some m ∧
    m.sectors &&& ~~~(BitVec.ofNat 4 (2 ^ sector)) = 0 ∧ ∀ x : Slice, x.miss = [m] → x.missAfter m line sector = [] := by
  have hleft : m.sectors &&& ~~~(BitVec.ofNat 4 (2 ^ sector)) = 0 := by rw [hsectors]; simp
  refine ⟨?_, hleft, fun x hx => ?_⟩
  · rw [hmiss, List.find?_cons_of_pos]
    rw [htag, hsectors, BitVec.getLsbD_ofNat, Nat.testBit_two_pow_self]
    simp [hsector]
  · rw [Slice.missAfter, if_pos hleft, hx]
    simp [htag]

section
variable {s : State} {ch line sector : Nat} {odd : Bool} {m : Miss} (hch : s.channelOf line = ch) (hsector : sector < 4)
  (hearly : s.fab.early = []) (hinq : (s.slice ch).inq = [])
include hch hsector hearly hinq

/-- R204: a sector with at most one symbol in error goes into its line's copy; no byte changes. -/
theorem sectorFill_valid {l : Line} (hm : (s.slice ch).miss.find? (fun m => m.tag == line && m.sectors.getLsbD sector) = some m)
    (hwaiters : m.waiters = []) (hl : s.cached line = some l) (hlen : l.data.length = 128) (hvalid : l.valid.getLsbD sector = false)
    (halive : (s.slice ch).dead.elem line = false) (hclean : s.poison.elem (line * 4 + sector) = false) :
    ∃ (t : State) (l' : Line), exec (.sectorFillCompletion ch line sector odd false) s = .next t ∧
      t.cached line = some l' ∧ l'.valid.getLsbD sector = true ∧ l'.dirty = l.dirty ∧
      (∀ x, t.homeByte x = s.homeByte x) ∧ t.dram = s.dram ∧ t.poison = s.poison ∧ t.flights = s.flights := by
  have hexec := exec_sectorFillCompletion_some (odd := odd) (many := false) hch hm
  have hcheck := State.codeCheck_corrected (s := s) (line := line) (sector := sector) (wrongSymbols_few odd)
  obtain ⟨hnotes, hpoison⟩ := s.countCorrected_notes line sector (wrongSymbols odd false)
  rw [State.fillSector_clean m (by rw [hcheck, hpoison]; exact hclean), hcheck, hch] at hexec
  generalize s.countCorrected line sector (wrongSymbols odd false) = u at hexec hnotes hpoison
  have hmem := hnotes.memory
  have huch : u.channelOf line = ch := (hmem.channelOf line).trans hch
  have hfills := u.takesFill_only m line sector
  have hserved := State.served_rereads (s := u.takesFill m line sector) (m := m) (sector := sector) (ch := ch)
    (v := u.takesFill m line sector) (by rw [hwaiters]; rfl)
    (by rw [(hfills.2 ch).1, hmem.slice]; exact hinq)
  have hnone : ((u.takesFill m line sector).served m sector ch).fab.early = [] := by
    rw [hserved.field State.fab fun _ _ => rfl, hfills.field State.fab fun _ _ => rfl, hnotes.field State.fab fun _ _ _ _ => rfl]
    exact hearly
  rw [State.drainAll_none hnone] at hexec
  have hul : u.cached line = some l := (hmem.cached line).trans hl
  refine ⟨_, l.fill sector (u.fetchSector line sector), hexec, by rw [hserved.cached, State.cached_takesFill, if_pos rfl, hul, Option.map_some], ?_, rfl, fun x => ?_, ?_, ?_, ?_⟩
  · rw [Line.valid_fill _ hsector, decide_eq_true rfl, Bool.or_true]
  · rw [hserved.homeByte, State.homeByte_takesFill m hul hlen (by rw [huch, hmem.slice]; exact halive) hsector hvalid, hmem.homeByte]
  · rw [hserved.field State.dram fun _ _ => rfl, hfills.field State.dram fun _ _ => rfl, hmem.2.2]
  · rw [hserved.field State.poison fun _ _ => rfl, hfills.field State.poison fun _ _ => rfl, hpoison]
  · rw [hserved.field State.flights fun _ _ => rfl, hfills.field State.flights fun _ _ => rfl,
      hnotes.field State.flights fun _ _ _ _ => rfl]

variable {id : Nat} {a : Access} (hmiss : (s.slice ch).miss = [m]) (htag : m.tag = line) (hsectors : m.sectors = BitVec.ofNat 4 (2 ^ sector))
  (hwaiters : m.waiters = [id]) (ha : s.access id = some a) (hwaiting : a.stage = .waiting) (hop : a.op = .load)
  (hplace : a.place = .dram (line * 128 + 32 * sector))
include hmiss htag hsectors hwaiters ha hwaiting hop hplace

/-- R203: the load that waited for the sector alone is served. -/
theorem sectorFill_serves (hhint : a.hint = 0) (hclean : s.poison.elem (line * 4 + sector) = false) :
    ∃ t : State, exec (.sectorFillCompletion ch line sector odd false) s = .next t ∧ (t.slice ch).miss = [] ∧ t.dram = s.dram ∧
      ∀ b ∈ t.flights, b.id = id → ∃ d, b.stage = .served d [] ∧ d.length = a.len := by
  obtain ⟨hm, hleft, hafter⟩ := oneMiss hmiss htag hsectors hsector
  have hexec := exec_sectorFillCompletion_some (odd := odd) (many := false) hch hm
  have hcheck := State.codeCheck_corrected (s := s) (line := line) (sector := sector) (wrongSymbols_few odd)
  obtain ⟨hnotes, hpoison⟩ := s.countCorrected_notes line sector (wrongSymbols odd false)
  rw [State.fillSector_clean m (by rw [hcheck, hpoison]; exact hclean), hcheck, hch] at hexec
  generalize s.countCorrected line sector (wrongSymbols odd false) = u at hexec hnotes hpoison
  have hmem := hnotes.memory
  have huch : u.channelOf line = ch := (hmem.channelOf line).trans hch
  have hfills := u.takesFill_only m line sector
  have hmissAfter := u.missAfter_takesFill m line sector
  rw [huch, hmem.slice, hafter _ hmiss] at hmissAfter
  generalize u.takesFill m line sector = w at hexec hfills hmissAfter
  have hflights : w.flights = s.flights :=
    (hfills.field State.flights fun _ _ => rfl).trans (hnotes.field State.flights fun _ _ _ _ => rfl)
  have hload : m.waiters.foldl (fun s id => s.serveWaiter id (m.sectors &&& ~~~(BitVec.ofNat 4 (2 ^ sector))).toNat) w =
      w.serveLoad a (line * 128 + 32 * sector) := by
    rw [hwaiters, hleft]
    exact State.serveWaiter_load ((State.access_congr hflights id).trans ha) hplace hwaiting hop
  obtain ⟨honly, -⟩ := w.serveLoad_facts a (line * 128 + 32 * sector) (by rw [hhint]; decide)
  have hrest : ((w.serveLoad a (line * 128 + 32 * sector)).slice ch).rest = (w.slice ch).rest := honly.2 ch
  have hserved := State.served_rereads (ch := ch) hload
    (by rw [(Slice.rest_eq hrest).2.1, (hfills.2 ch).1, hmem.slice]; exact hinq)
  have hfab : (w.served m sector ch).fab.early = [] := by
    rw [hserved.field State.fab fun _ _ => rfl, honly.evicts.field State.fab fun _ _ _ _ _ _ => rfl]
    exact (congrArg Fabric.early ((hfills.field State.fab fun _ _ => rfl).trans (hnotes.field State.fab fun _ _ _ _ => rfl))).trans hearly
  rw [State.drainAll_none hfab] at hexec
  refine ⟨_, hexec, ?_, ?_, fun b hb hid => ?_⟩
  · rw [hserved.2, (Slice.rest_eq hrest).1, hmissAfter]
  · rw [hserved.field State.dram fun _ _ => rfl, honly.dram]
    exact (hfills.field State.dram fun _ _ => rfl).trans hmem.2.2
  · rw [hserved.field State.flights fun _ _ => rfl, honly.evicts.field State.flights fun _ _ _ _ _ _ => rfl] at hb
    refine ⟨_, State.stage_setStage w a.id _ b hb (hid.trans (State.id_of_access ha).symm), ?_⟩
    simp [State.homeBytes]

omit hwaiting in
/-- R191 to R193: a sector of two or three symbols in error is poisoned, and its waiter gets poison. -/
theorem sectorFill_poisons (hlo : 0 < a.len) (hhi : a.len ≤ 32) :
    ∃ t : State, exec (.sectorFillCompletion ch line sector odd true) s = .next t ∧ (line * 4 + sector) ∈ t.poison ∧
      t.dram = s.dram ∧ ∀ b ∈ t.flights, b.id = id → b.stage = .poisoned := by
  obtain ⟨hm, hleft, hafter⟩ := oneMiss hmiss htag hsectors hsector
  have hexec := exec_sectorFillCompletion_some (odd := odd) (many := true) hch hm
  have hlost := State.codeCheck_lost (s := s) (line := line) (sector := sector) (wrongSymbols_many odd)
  have hnotes := s.codeCheck_notes line sector (wrongSymbols odd true)
  rw [State.fillSector_poisoned m (by simpa using hlost), hch] at hexec
  generalize s.codeCheck line sector (wrongSymbols odd true) = u at hexec hnotes hlost
  have hmem := hnotes.memory
  have hfills := u.losesFill_only m line sector
  generalize u.losesFill m line sector = w at hexec hfills
  have haw : w.access id = some a := (State.access_congr
    ((hfills.field State.flights fun _ _ => rfl).trans (hnotes.field State.flights fun _ _ _ _ => rfl)) id).trans ha
  have hid := State.id_of_access ha
  have hneeds : (a.needs ((line * 128 + 32 * sector) % 128)).testBit sector = true := by
    rw [Access.needs, hop, testBit_sectorsOf]
    exact decide_eq_true ⟨hsector, by omega, by omega⟩
  rw [hwaiters, State.poisonWaiters_one haw hplace hneeds] at hexec
  have hended : m.waiters.foldl (fun s id => s.serveWaiter id (m.sectors &&& ~~~(BitVec.ofNat 4 (2 ^ sector))).toNat)
      (w.servePoison a line) = w.servePoison a line := by
    rw [hwaiters]
    have hacc : (w.servePoison a line).access id = some { a with stage := .poisoned } := by
      rw [State.servePoison]
      conv_lhs => rw [hid]
      exact State.access_setStage (s := (w.countPoison line).logPoison line) haw _
    exact State.serveWaiter_ended hacc (by simp)
  have hserved := State.served_rereads (ch := ch) hended ((hfills.2 ch).1.trans (by rw [hmem.slice]; exact hinq))
  have hfab : ((w.servePoison a line).served m sector ch).fab.early = [] := by
    rw [hserved.field State.fab fun _ _ => rfl]
    exact (congrArg Fabric.early ((hfills.field State.fab fun _ _ => rfl).trans (hnotes.field State.fab fun _ _ _ _ => rfl))).trans hearly
  rw [State.drainAll_none hfab] at hexec
  refine ⟨_, hexec, ?_, ?_, ?_⟩
  · rw [hserved.field State.poison fun _ _ => rfl]
    exact (hfills.field State.poison fun _ _ => rfl).symm ▸ hlost
  · rw [hserved.field State.dram fun _ _ => rfl]
    exact (hfills.field State.dram fun _ _ => rfl).trans hmem.2.2
  · rw [hserved.field State.flights fun _ _ => rfl, ← hid]
    exact State.stage_setStage _ a.id _

end

/-! ## Write-backs and the scrub -/

theorem Line.getD_dirtyBytes (l : Line) {i : Nat} (hi : i < 128) :
    l.dirtyBytes.getD i none = if l.dirty.getLsbD i then some (l.data.getD i 0) else none := by
  simp only [Line.dirtyBytes, List.getD_eq_getElem?_getD, List.getElem?_map, List.getElem?_range hi, Option.map_some, Option.getD_some]

theorem Line.length_dirtyBytes (l : Line) : l.dirtyBytes.length = 128 := by simp [Line.dirtyBytes]

/-- R204: a write-back puts a line's dirty bytes into DRAM and leaves every other byte of it. -/
theorem State.read_writeBack (s : State) (l : Line) :
    (∀ i, i < 128 → (s.writeBack l).dram.read (l.tag * 128 + i) =
      if l.dirty.getLsbD i then l.data.getD i 0 else s.dram.read (l.tag * 128 + i)) ∧
    (∀ x, x < l.tag * 128 ∨ l.tag * 128 + 128 ≤ x → (s.writeBack l).dram.read x = s.dram.read x) := by
  refine ⟨fun i hi => ?_, fun x hx => ?_⟩
  · have hbyte : l.dirtyBytes[l.tag * 128 + i - l.tag * 128]?.getD none =
        if l.dirty.getLsbD i then some (l.data.getD i 0) else none := by
      rw [Nat.add_sub_cancel_left, ← List.getD_eq_getElem?_getD, l.getD_dirtyBytes hi]
    rw [State.writeBack, Mem.read_writeList, if_pos (Nat.le_add_right _ _), hbyte]
    split <;> rfl
  · rw [State.writeBack, Mem.read_writeList]
    split
    · rw [List.getElem?_eq_none (by rw [l.length_dirtyBytes]; omega)]
      rfl
    · rfl

theorem exec_writeBackAcknowledgement_some {s : State} {ch line : Nat} {l : Line}
    (hl : (s.slice ch).wb.find? (fun l => l.tag == line) = some l) : exec (.writeBackAcknowledgement ch line) s =
      .next ((s.writeBack l).setSlice ch { s.slice ch with wb := (s.slice ch).wb.erase l }) := by
  rw [exec_writeBackAcknowledgement, execWriteBackAcknowledgement]
  dsimp only
  rw [hl]

theorem exec_patrolScrub_here {s : State} (htrained : s.mod.memTrained = true) (line : Nat) {sector : Nat} (hsector : sector < 4)
    (odd many : Bool) : exec (.patrolScrub (s.channelOf line) line sector odd many) s =
      .next (s.codeCheck line sector (wrongSymbols odd many)) := by
  rw [exec_patrolScrub, execPatrolScrub, if_pos ⟨htrained, rfl⟩, Nat.mod_eq_of_lt hsector]

/-- Settles O41: a fill brings the bytes the home read already, a write-back the line's dirty bytes; the rest changes no byte. -/
theorem fillsWriteBacksScrubsAndKeep : Obligations.FillsWriteBacksScrubsAndKeep := by
  unfold Obligations.FillsWriteBacksScrubsAndKeep
  refine ⟨?_, ?_, ?_, fun s ch line sector odd many => exec_sectorFillCompletion_none, ?_, ?_, ?_, ?_, fun s => rfl, ?_, ?_⟩
  · rintro s ch line sector odd many l m hch hsector rfl hearly hm hwaiters hinq hl hlen hvalid halive hclean
    exact sectorFill_valid hch hsector hearly hinq hm hwaiters hl hlen hvalid halive hclean
  · rintro s ch line sector id odd many a m hch hsector rfl hearly hmiss htag hsectors hwaiters hinq ha hstage hop hhint hplace - - hclean
    exact sectorFill_serves hch hsector hearly hinq hmiss htag hsectors hwaiters ha hstage hop hplace hhint hclean
  · rintro s ch line sector id odd many a m hch hsector rfl hearly hmiss htag hsectors hwaiters hinq ha hstage hop hplace hlo hhi
    exact sectorFill_poisons hch hsector hearly hinq hmiss htag hsectors hwaiters ha hop hplace hlo hhi
  · intro s ch line l hl
    obtain rfl : l.tag = line := beq_iff_eq.mp (List.find?_some (p := fun l : Line => l.tag == line) hl)
    have hslice : ∀ k, ((s.writeBack l).setSlice ch { s.slice ch with wb := (s.slice ch).wb.erase l }).slice k =
        if k = ch then { s.slice ch with wb := (s.slice ch).wb.erase l } else s.slice k := fun k => State.slice_setSlice _ _ _ _
    refine ⟨_, exec_writeBackAcknowledgement_some hl, by rw [hslice, if_pos rfl], (s.read_writeBack l).1, (s.read_writeBack l).2,
      fun p => ?_, by rw [hslice, if_pos rfl], rfl, fun k hk => by rw [hslice, if_neg hk]⟩
    refine List.mem_filter.trans (and_congr_right fun _ => ?_)
    simp [imp_iff_not_or]
  · intro s ch line hl
    rw [exec_writeBackAcknowledgement, execWriteBackAcknowledgement, hl]
  · intro s line sector odd many htrained hsector
    have hnotes := s.codeCheck_notes line sector (wrongSymbols odd many)
    refine ⟨?_, ?_⟩
    · rintro rfl
      exact ⟨_, exec_patrolScrub_here htrained line hsector odd true, State.codeCheck_lost (wrongSymbols_many odd), hnotes.memory.2.2,
        hnotes.memory.2.1⟩
    · rintro rfl
      have hexec := exec_patrolScrub_here htrained line hsector odd false
      rw [State.codeCheck_corrected (wrongSymbols_few odd)] at hexec
      refine ⟨_, hexec, (s.countCorrected_notes _ _ _).2, ?_, ?_⟩
      · cases odd <;> rfl
      · rintro rfl hlt
        have hcounters : (s.countCorrected line sector (wrongSymbols true false)).memCounters = tabMod s.memCounters MemCounters.zero
            (s.stackOf line) (fun c => { c with ceSectors := satAdd 48 c.ceSectors 1 }) := rfl
        rw [hcounters, tabGet_tabMod, if_pos rfl]
        exact Nat.min_eq_right (by omega)
  · intro s ch line sector odd many htrained
    rw [exec_patrolScrub, execPatrolScrub, if_neg (by simp [htrained])]
  · intro s w hw
    refine ⟨{ w.rest s with keepSweep := none }, by rw [exec_keepSweepEnd, execKeepSweepEnd, hw], rfl, ?_, ?_, ?_, rfl, ?_⟩
    · intro e he f hf hdone l hl
      obtain ⟨e', -, rfl⟩ := List.mem_map.mp he
      obtain ⟨f', -, rfl⟩ := List.mem_map.mp hf
      dsimp only at hdone hl
      rw [if_neg (by simpa using hdone)] at hl
      obtain ⟨k, -, rfl⟩ := List.mem_map.mp hl
      rfl
    · intro e he hdone l hl
      obtain ⟨e', -, rfl⟩ := List.mem_map.mp he
      dsimp only at hdone hl
      rw [if_neg (by simpa using hdone)] at hl
      obtain ⟨k, -, rfl⟩ := List.mem_map.mp hl
      rfl
    · intro e he hdone
      exact List.mem_map.mpr ⟨e, he, by rw [if_pos (by simpa using hdone)]⟩
    · simp only [State.cisLines, KeepSweep.rest, List.flatMap_map, List.map_flatMap]
      congr 1
      funext e
      split
      · rfl
      · rw [unkeepSet, List.map_map]
        rfl
  · intro s hs
    rw [exec_keepSweepEnd, execKeepSweepEnd, hs]

end Sys2Proof.Machine
end

section
/-! The cistern's lines and the requests that leave (R206, R207, R212 to R214, R236, R256). -/

namespace Sys2Proof.Machine

section
variable {s t : State} {dev n : Nat}

/-! ## Changes of the cistern alone -/

/-- `t` is `s` but for the cistern's lines, its records under DEAD_POISON, its counters and a sweep's visits. -/
def State.cisOnly (s t : State) : Prop :=
  t = { s with cistern := t.cistern, cisDead := t.cisDead, cisCounters := t.cisCounters, keepSweep := t.keepSweep }

/-- As `cisOnly`, with requests that leave and fills told of them. -/
def State.remoteOnly (s t : State) : Prop :=
  t = { s with cistern := t.cistern, cisDead := t.cisDead, cisCounters := t.cisCounters, keepSweep := t.keepSweep
               cisMiss := t.cisMiss, fab := t.fab, sent := t.sent }

theorem State.cisOnly.refl (s : State) : s.cisOnly s := rfl

theorem State.cisOnly.trans {u : State} (h : s.cisOnly t) (h' : t.cisOnly u) : s.cisOnly u := by rw [State.cisOnly, h', h]

theorem State.cisOnly.field (h : s.cisOnly t) {γ : Type} (p : State → γ)
    (hp : ∀ u a b c d, p { u with cistern := a, cisDead := b, cisCounters := c, keepSweep := d } = p u) : p t = p s := by rw [h, hp]

theorem State.remoteOnly.refl (s : State) : s.remoteOnly s := rfl

theorem State.remoteOnly.trans {u : State} (h : s.remoteOnly t) (h' : t.remoteOnly u) : s.remoteOnly u := by
  rw [State.remoteOnly, h', h]

theorem State.remoteOnly.field (h : s.remoteOnly t) {γ : Type} (p : State → γ)
    (hp : ∀ u a b c d e f g, p { u with cistern := a, cisDead := b, cisCounters := c, keepSweep := d, cisMiss := e, fab := f, sent := g } = p u) :
    p t = p s := by rw [h, hp]

theorem State.cisOnly.remote (h : s.cisOnly t) : s.remoteOnly t := by rw [State.remoteOnly, h]

theorem State.cisLine_congr (h : t.cistern = s.cistern) (dev n : Nat) : t.cisLine dev n = s.cisLine dev n := by
  rw [State.cisLine, State.cisLine, h]

theorem State.tabGet_setCis (s : State) (k j : Nat) (L : List Line) :
    tabGet (s.setCis k L).cistern [] j = if j = k then L else tabGet s.cistern [] j := tabGet_tabSet _ _ _ _ _

theorem State.setCis_only (s : State) (k : Nat) (L : List Line) : s.cisOnly (s.setCis k L) := rfl

theorem State.countCisDemoted_facts (s : State) (k : Nat) (b : Bool) :
    s.cisOnly (s.countCisDemoted k b) ∧ (s.countCisDemoted k b).cistern = s.cistern := by
  unfold State.countCisDemoted
  split
  · exact ⟨rfl, rfl⟩
  · exact ⟨.refl s, rfl⟩

/-- R208: a visit of the sweep takes keep marks away, nothing else. -/
theorem State.sweepCis_facts (s : State) (k : Nat) : s.cisOnly (s.sweepCis k) ∧
    ∀ j, (tabGet (s.sweepCis k).cistern [] j).map Line.body = (tabGet s.cistern [] j).map Line.body := by
  unfold State.sweepCis
  split
  · exact ⟨.refl s, fun _ => rfl⟩
  · split
    · refine ⟨rfl, fun j => ?_⟩
      rw [State.tabGet_setCis]
      split
      · next h => rw [bodies_unkeepSet, h]
      · rfl
    · exact ⟨.refl s, fun _ => rfl⟩

theorem State.isFab_of_cisLine {l : Line} (h : s.cisLine dev n = some l) : l.tag = n ∧ l.dev = dev := by
  have hfab : l.isFab dev n = true := List.find?_some (p := fun l : Line => l.isFab dev n) h
  simpa [Line.isFab] using hfab

/-! ## A line brought to hand (R206, R207, R213) -/

/-- The set in which a fabric line is looked for. -/
def State.cisReadied (s : State) (dev n : Nat) : List Line :=
  demoteKeep (s.sweepCis (cisKey dev n)).keepCap (tabGet (s.sweepCis (cisKey dev n)).cistern [] (cisKey dev n))

/-- A set put back in the place of a fabric line's. -/
def State.cisPlaced (s : State) (dev n : Nat) (p : List Line × Bool) : State :=
  (s.setCis (cisKey dev n) p.1).countCisDemoted (cisSlice dev n) p.2

theorem State.bodies_cisReadied (s : State) (dev n : Nat) :
    (s.cisReadied dev n).map Line.body = (tabGet s.cistern [] (cisKey dev n)).map Line.body := by
  rw [State.cisReadied, bodies_demoteKeep]
  exact (s.sweepCis_facts _).2 _

theorem State.find_cisReadied (s : State) (dev n : Nat) :
    ((s.cisReadied dev n).find? (fun l => l.isFab dev n)).map Line.body = (s.cisLine dev n).map Line.body :=
  find_of_bodies (Line.named_isFab dev n) (s.bodies_cisReadied dev n)

theorem State.cisPlaced_facts (s : State) (dev n : Nat) (p : List Line × Bool) : s.cisOnly (s.cisPlaced dev n p) ∧
    (s.cisPlaced dev n p).cisLine dev n = p.1.find? (fun l => l.isFab dev n) := by
  obtain ⟨honly, hcistern⟩ := (s.setCis (cisKey dev n) p.1).countCisDemoted_facts (cisSlice dev n) p.2
  refine ⟨(s.setCis_only _ _).trans honly, ?_⟩
  rw [State.cisPlaced, State.cisLine_congr hcistern, State.cisLine, State.tabGet_setCis, if_pos rfl]

theorem State.touchCis_hit {hint : Nat} {f : Line → Line} {l : Line}
    (hl : (s.cisReadied dev n).find? (fun l => l.isFab dev n) = some l) : s.touchCis dev n hint f =
      some ((s.sweepCis (cisKey dev n)).cisPlaced dev n (hintLine hint (s.sweepCis (cisKey dev n)).keepCap (f l)
        ((s.cisReadied dev n).filter (fun l => !l.isFab dev n)))) := by
  unfold State.touchCis
  dsimp only
  rw [← State.cisReadied, hl]
  rfl

theorem State.touchCis_free {hint : Nat} {f : Line → Line} (hl : (s.cisReadied dev n).find? (fun l => l.isFab dev n) = none)
    (hroom : (s.cisReadied dev n).length < 16) : s.touchCis dev n hint f =
      some ((s.sweepCis (cisKey dev n)).cisPlaced dev n (hintLine hint (s.sweepCis (cisKey dev n)).keepCap (f (Line.new n dev 0))
        (s.cisReadied dev n))) := by
  unfold State.touchCis
  dsimp only
  rw [← State.cisReadied, hl]
  dsimp only
  rw [show ∀ busy, roomIn busy (s.cisReadied dev n) = .free from fun busy => if_pos hroom]
  rfl

variable {hint : Nat} {f : Line → Line} (hf : Line.plain f)
include hf

theorem State.touchCis_cached {l : Line} (hl : s.cisLine dev n = some l) :
    ∃ t k, s.touchCis dev n hint f = some t ∧ k.body = l.body ∧ s.cisOnly t ∧ (t.cisLine dev n).map Line.body = some (f k).body := by
  have hfind := s.find_cisReadied dev n
  rw [hl] at hfind
  obtain ⟨k, hk, hkl⟩ := Option.map_eq_some_iff.mp hfind
  have hfab : (f k).isFab dev n = true := (Line.named_isFab dev n k (f k) (hf.2 k).1 (hf.2 k).2).trans
    (List.find?_some (p := fun l : Line => l.isFab dev n) hk)
  obtain ⟨honly, hline⟩ := (s.sweepCis (cisKey dev n)).cisPlaced_facts dev n (hintLine hint (s.sweepCis (cisKey dev n)).keepCap (f k)
    ((s.cisReadied dev n).filter (fun l => !l.isFab dev n)))
  refine ⟨_, k, State.touchCis_hit hk, hkl, (s.sweepCis_facts _).1.trans honly, ?_⟩
  rw [hline, find_hintLine (Line.named_isFab dev n) (fun _ x hx => by simpa using (List.mem_filter.mp hx).2), if_pos hfab]

theorem State.touchCis_room (hl : s.cisLine dev n = none) (hroom : (tabGet s.cistern [] (cisKey dev n)).length < 16) :
    ∃ t, s.touchCis dev n hint f = some t ∧ s.cisOnly t ∧ (t.cisLine dev n).map Line.body = some (f (Line.new n dev 0)).body := by
  have hfind := s.find_cisReadied dev n
  rw [hl, Option.map_none, Option.map_eq_none_iff] at hfind
  have hfab : (f (Line.new n dev 0)).isFab dev n = true :=
    (Line.named_isFab dev n (Line.new n dev 0) _ (hf.2 _).1 (hf.2 _).2).trans (by simp [Line.isFab, Line.new])
  obtain ⟨honly, hline⟩ := (s.sweepCis (cisKey dev n)).cisPlaced_facts dev n (hintLine hint (s.sweepCis (cisKey dev n)).keepCap
    (f (Line.new n dev 0)) (s.cisReadied dev n))
  refine ⟨_, State.touchCis_free hfind (by rw [length_of_bodies (s.bodies_cisReadied dev n)]; exact hroom),
    (s.sweepCis_facts _).1.trans honly, ?_⟩
  rw [hline, find_hintLine (Line.named_isFab dev n) (fun _ x hx => by simpa using List.find?_eq_none.mp hfind x hx), if_pos hfab]

/-- R206, R213: a line that the cistern holds, or has room for, is brought to hand and changed; nothing leaves. -/
theorem State.touchCis_some (hroom : (s.cisLine dev n).isSome = true ∨ (tabGet s.cistern [] (cisKey dev n)).length < 16) :
    ∃ t k, s.touchCis dev n hint f = some t ∧ s.cisOnly t ∧ (t.cisLine dev n).map Line.body = some (f k).body ∧
      ((s.cisLine dev n).map Line.body = some k.body ∨ s.cisLine dev n = none ∧ k = Line.new n dev 0) := by
  cases hl : s.cisLine dev n with
  | some l =>
    obtain ⟨t, k, ht, hk, honly, hline⟩ := State.touchCis_cached (hint := hint) hf hl
    exact ⟨t, k, ht, honly, hline, .inl (by rw [hk]; rfl)⟩
  | none =>
    obtain ⟨t, ht, honly, hline⟩ := State.touchCis_room (hint := hint) hf hl (hroom.resolve_left (by simp [hl]))
    exact ⟨t, _, ht, honly, hline, .inr ⟨rfl, rfl⟩⟩

end

/-! ## Records under DEAD_POISON (R210, R215) -/

section
variable {s : State} {dev n : Nat}

theorem State.cisUndead_only (s : State) (dev n : Nat) : s.cisOnly (s.cisUndead dev n) := by
  unfold State.cisUndead
  split <;> rfl

/-- Ending a record leaves every line of the set, but for the validity of the line's own sectors. -/
theorem State.cisUndead_facts (s : State) (dev n : Nat) :
    (tabGet (s.cisUndead dev n).cistern [] (cisKey dev n)).length = (tabGet s.cistern [] (cisKey dev n)).length ∧
    ((s.cisUndead dev n).cisLine dev n = s.cisLine dev n ∨
      (s.cisUndead dev n).cisLine dev n = (s.cisLine dev n).map Line.undead) := by
  unfold State.cisUndead
  split
  · dsimp only
    rw [State.cisLine, State.tabGet_setCis, if_pos rfl]
    refine ⟨modIf_length _ _ _, .inr ?_⟩
    rw [State.cisLine, show (fun l : Line => ({ l with valid := BitVec.ofNat 4 (fullSectors l.dirty.toNat) } : Line)) = Line.undead from rfl,
      find_modIf (f := Line.undead) fun _ => rfl]
    cases hl : (tabGet s.cistern [] (cisKey dev n)).find? (fun l => l.isFab dev n) with
    | none => rfl
    | some l => rw [Option.map_some, Option.map_some, if_pos (List.find?_some (p := fun l : Line => l.isFab dev n) hl)]
  · exact ⟨rfl, .inl rfl⟩

/-! ## Requests that leave (R213, R256) -/

/-- R256: a request takes the next number of its destination and route, behind those that are out. -/
theorem State.sendFabric_facts (s : State) (dev route : Nat) (op : FabOp) (access sync : Option Nat) (c : Nat) :
    s.remoteOnly (s.sendFabric dev route op access sync c) ∧
    (s.sendFabric dev route op access sync c).cistern = s.cistern ∧ (s.sendFabric dev route op access sync c).cisMiss = s.cisMiss ∧
    (s.sendFabric dev route op access sync c).nextSeq dev route = s.nextSeq dev route + 1 ∧
    ∃ r, (s.sendFabric dev route op access sync c).fab.out = s.fab.out ++ [r] ∧ r.dev = dev ∧ r.route = route ∧ r.op = op.toDest dev ∧
      r.access = access ∧ r.seq = s.nextSeq dev route := by
  have hseq : ∀ u : State, u.fab.outSeq = tabSet s.fab.outSeq 0 (seqKey dev route) (tabGet s.fab.outSeq 0 (seqKey dev route) + 1) →
      u.nextSeq dev route = s.nextSeq dev route + 1 := fun u hu => by
    rw [State.nextSeq, hu, tabGet_tabSet, if_pos rfl]
    rfl
  unfold State.sendFabric
  dsimp only
  split <;> exact ⟨rfl, rfl, rfl, hseq _ rfl, _, rfl, rfl, rfl, rfl, rfl, rfl⟩

theorem FabOp.toDest_store {dev : Nat} (h : dev < 65536) (o : Nat) (d : List (Option Byte)) : (FabOp.store o d).toDest dev = .store o d :=
  if_neg (by omega)

theorem FabOp.toDest_multicast {dev : Nat} (h : 65536 ≤ dev) (o : Nat) (d : List (Option Byte)) :
    (FabOp.store o d).toDest dev = .multicast (dev - 65536) o d := if_pos h

theorem State.sendDirty_clean {l : Line} (h : l.dirty = 0) (route c : Nat) : s.sendDirty l route c = s := if_pos h

/-- R213: a line's dirty bytes leave as one write on a route. -/
theorem State.sendDirty_sends (s : State) {l : Line} (hdirty : l.dirty ≠ 0) (route c : Nat) :
    (s.sendDirty l route c).nextSeq l.dev route = s.nextSeq l.dev route + 1 ∧
    ∃ r, (s.sendDirty l route c).fab.out = s.fab.out ++ [r] ∧ r.dev = l.dev ∧ r.route = route ∧
      r.op = (FabOp.store (l.tag * 128) l.dirtyBytes).toDest l.dev ∧ r.seq = s.nextSeq l.dev route := by
  obtain ⟨-, -, -, hseq, r, hout, hdev, hroute, hop, -, hr⟩ :=
    s.sendFabric_facts l.dev route (.store (l.tag * 128) l.dirtyBytes) none none c
  rw [State.sendDirty, if_neg hdirty]
  exact ⟨hseq, r, hout, hdev, hroute, hop, hr⟩

theorem State.sendDirty_remote (s : State) (l : Line) (route c : Nat) :
    s.remoteOnly (s.sendDirty l route c) ∧ (s.sendDirty l route c).cistern = s.cistern := by
  unfold State.sendDirty
  split
  · exact ⟨.refl s, rfl⟩
  · obtain ⟨hremote, hcistern, -⟩ := s.sendFabric_facts l.dev route (.store (l.tag * 128) l.dirtyBytes) none none c
    exact ⟨hremote.trans rfl, hcistern⟩

/-- R236: the copy is gone. -/
theorem State.cisLine_cisInvalidate (s : State) (dev n : Nat) : (s.cisInvalidate dev n).cisLine dev n = none := by
  rw [State.cisLine, State.cisInvalidate, State.tabGet_setCis, if_pos rfl, List.find?_eq_none]
  intro l hl
  simpa using (List.mem_filter.mp hl).2

theorem State.cisInvalidate_only (s : State) (dev n : Nat) : s.cisOnly (s.cisInvalidate dev n) := rfl

/-! ## Dirty bytes first (R214, R234) -/

/-- The state whose dirty line is to leave. -/
def State.flushing (s : State) (dev n : Nat) : State := (s.cisUndead dev n).stopFills dev n

theorem State.flushing_facts (s : State) (dev n : Nat) : s.remoteOnly (s.flushing dev n) ∧ (s.flushing dev n).fab = s.fab ∧
    (s.flushing dev n).cisLine dev n = (s.cisUndead dev n).cisLine dev n := by
  have honly := s.cisUndead_only dev n
  have hstop : (s.cisUndead dev n).remoteOnly ((s.cisUndead dev n).stopFills dev n) := rfl
  exact ⟨honly.remote.trans hstop, honly.field State.fab fun _ _ _ _ _ => rfl, rfl⟩

theorem State.flushLine_none (route c : Nat) (h : s.cisLine dev n = none) : s.flushLine dev n route c = s.flushing dev n := by
  have hnone : (s.flushing dev n).cisLine dev n = none := by
    rw [(s.flushing_facts dev n).2.2]
    rcases (s.cisUndead_facts dev n).2 with hu | hu <;> rw [hu, h]
    rfl
  unfold State.flushLine
  dsimp only
  rw [← State.flushing, hnone]

/-- The line as it leaves: what is valid of it may have changed, its bytes have not. -/
theorem State.flushLine_some (route c : Nat) {l : Line} (h : s.cisLine dev n = some l) : ∃ k : Line, k.tag = l.tag ∧ k.dev = l.dev ∧
    k.dirty = l.dirty ∧ k.dirtyBytes = l.dirtyBytes ∧
    s.flushLine dev n route c = ((s.flushing dev n).sendDirty k route c).cisInvalidate dev n := by
  have hstep : ∀ k, (s.flushing dev n).cisLine dev n = some k →
      s.flushLine dev n route c = ((s.flushing dev n).sendDirty k route c).cisInvalidate dev n := fun k hk => by
    unfold State.flushLine
    dsimp only
    rw [← State.flushing, hk]
  rcases (s.cisUndead_facts dev n).2 with hu | hu
  · exact ⟨l, rfl, rfl, rfl, rfl, hstep l (by rw [(s.flushing_facts dev n).2.2, hu, h])⟩
  · exact ⟨l.undead, rfl, rfl, rfl, rfl, hstep l.undead (by rw [(s.flushing_facts dev n).2.2, hu, h]; rfl)⟩

theorem State.flushLine_remote (s : State) (dev n route c : Nat) :
    s.remoteOnly (s.flushLine dev n route c) ∧ (s.flushLine dev n route c).cisLine dev n = none := by
  have hflush := (s.flushing_facts dev n).1
  cases h : s.cisLine dev n with
  | none =>
    rw [State.flushLine_none route c h]
    refine ⟨hflush, ?_⟩
    rw [(s.flushing_facts dev n).2.2]
    rcases (s.cisUndead_facts dev n).2 with hu | hu <;> rw [hu, h]
    rfl
  | some l =>
    obtain ⟨k, -, -, -, -, hk⟩ := State.flushLine_some route c h
    rw [hk]
    exact ⟨(hflush.trans (State.sendDirty_remote _ k route c).1).trans (State.cisInvalidate_only _ dev n).remote,
      State.cisLine_cisInvalidate _ dev n⟩

theorem State.flushFirst_remote (s : State) (dev n route c : Nat) : s.remoteOnly (s.flushFirst dev n route c) := by
  have hfold : ∀ (l : List Nat) (u : State), u.remoteOnly (l.foldl (fun s d => s.flushLine d n route c) u) := by
    intro l
    induction l with
    | nil => exact State.remoteOnly.refl
    | cons d r ih => exact fun u => (State.flushLine_remote u d n route c).1.trans (ih _)
  exact hfold _ s

theorem State.flushFirst_one (h : dev < 65536) (route c : Nat) : s.flushFirst dev n route c = s.flushLine dev n route c := by
  rw [State.flushFirst, State.targets, if_neg (by omega)]
  rfl

end

end Sys2Proof.Machine
end

section
/-! O42: CISTERN_LOAD, CISTERN_STORE, CISTERN_FILL_COMPLETION, CISTERN_EVICTION and REMOTE_ATOMIC_FORWARD (R212 to R214, R228, R231,
R236). -/

namespace Sys2Proof.Machine

theorem exec_cisternLoad (id : Nat) (s : State) : exec (.cisternLoad id) s = execCisternLoad id s := rfl

theorem exec_cisternStore (id : Nat) (s : State) : exec (.cisternStore id) s = execCisternStore id s := rfl

theorem exec_remoteAtomicForward (id : Nat) (s : State) : exec (.remoteAtomicForward id) s = execRemoteAtomicForward id s := rfl

theorem exec_cisternFillCompletion (dev line : Nat) (data : List (Option (List Byte))) (s : State) :
    exec (.cisternFillCompletion dev line data) s = execCisternFillCompletion dev line data s := rfl

theorem exec_cisternEviction (sl set : Nat) (s : State) : exec (.cisternEviction sl set) s = execCisternEviction sl set s := rfl

/-! ## The sectors one request fetches (R228) -/

/-- The first and the last sector of a mask of neighbouring sectors. -/
theorem sectorMask_ends : ∀ b < 4, ∀ a < 4, a ≤ b →
    bitSum (fun k => decide (k ≤ b ∧ a ≤ k)) 4 ≠ 0 ∧ (lowBit (bitSum (fun k => decide (k ≤ b ∧ a ≤ k)) 4) 4).getD 0 = a ∧
    ((List.range 4).filter (fun k => (bitSum (fun k => decide (k ≤ b ∧ a ≤ k)) 4).testBit k)).foldl max 0 = b := by decide

theorem sectorsOf_ends {off n : Nat} (hn : 0 < n) (hfit : off + n ≤ 128) : sectorsOf off n ≠ 0 ∧
    (lowBit (sectorsOf off n) 4).getD 0 = off / 32 ∧
    ((List.range 4).filter (fun k => (sectorsOf off n).testBit k)).foldl max 0 = (off + n - 1) / 32 := by
  have hmask : sectorsOf off n = bitSum (fun k => decide (k ≤ (off + n - 1) / 32 ∧ off / 32 ≤ k)) 4 := by
    rw [sectorsOf_eq]
    congr 1
    funext k
    exact decide_eq_decide.mpr (by omega)
  rw [hmask]
  exact sectorMask_ends _ (by omega) _ (by omega) (by omega)

/-! ## Accesses at the cistern -/

section
variable {s v : State} {id dev off route sl : Nat} {a : Access} (ha : s.access id = some a) (hmoving : a.stage = .moving)
  (hv : s.arrive id = some v) (hplace : a.place = .remote dev off route sl)

theorem State.cisHeld_none (h : s.cisInq = []) (dev n id : Nat) : s.cisHeld dev n id = false := by
  rw [State.cisHeld, h]
  rfl

theorem State.retryCis_none (h : s.cisInq = []) : s.retryCis = s := by
  unfold State.retryCis
  rw [h, List.foldl_nil, ← h]

include ha hmoving hv hplace

theorem exec_cisternLoad_arrived (hop : a.op = .load) : exec (.cisternLoad id) s = .next (v.loadCis a dev off route false) := by
  rw [exec_cisternLoad, execCisternLoad, ha]
  dsimp only [Access.remote?]
  rw [hplace, hop, hmoving, hv]

theorem exec_cisternStore_arrived {d : List (Option Byte)} (hop : a.op = .store d) :
    exec (.cisternStore id) s = .next (v.storeCis a dev off route d) := by
  rw [exec_cisternStore, execCisternStore, ha]
  dsimp only [Access.remote?]
  rw [hplace, hop, hmoving, hv]

theorem exec_remoteAtomicForward_arrived {op : AtomOp} {ty : AtomTy} {lanes : List (Nat × Word64 × Word64)}
    (hop : a.op = .atomic op ty lanes) : exec (.remoteAtomicForward id) s =
      .next (((v.flushFirst dev (off / 128) route a.ctx).sendFabric dev route (.atomic off op ty lanes) (some id) none a.ctx).setStage
        id .forwarded) := by
  rw [exec_remoteAtomicForward, execRemoteAtomicForward, ha]
  dsimp only [Access.remote?]
  rw [hplace, hop, hmoving, hv]

end

/-- An access that has not arrived is left as it is. -/
theorem exec_cistern_early {s : State} {id : Nat} (h : s.access id = none ∨ s.arrive id = none) :
    exec (.cisternLoad id) s = .next s ∧ exec (.cisternStore id) s = .next s ∧ exec (.remoteAtomicForward id) s = .next s := by
  rw [exec_cisternLoad, exec_cisternStore, exec_remoteAtomicForward, execCisternLoad, execCisternStore, execRemoteAtomicForward]
  cases ha : s.access id with
  | none => exact ⟨rfl, rfl, rfl⟩
  | some a =>
    dsimp only
    rw [h.resolve_left (by simp [ha])]
    refine ⟨?_, ?_, ?_⟩
    all_goals split <;> simp_all

/-! ## Loads (R213, R228) -/

section
variable {s v : State} {id dev off route sl : Nat} {a : Access} (ha : s.access id = some a) (hmoving : a.stage = .moving)
  (hv : s.arrive id = some v) (hinq : s.cisInq = []) (hplace : a.place = .remote dev off route sl) (hop : a.op = .load)
  (hfit : off % 128 + a.len ≤ 128) (hhint : a.hint ≠ 3)

/-- R206: a line served from the cistern changes its place and its keep mark. -/
theorem State.serveCis_only (s : State) (a : Access) (dev off : Nat) (l : Line) (hhint : a.hint ≠ 3) :
    (s.setStage a.id (.served (sliceAt l.data (off % 128) a.len) [])).cisOnly (s.serveCis a dev off l) := by
  unfold State.serveCis State.cisHint
  rw [if_neg hhint]
  cases hl : (s.setStage a.id (.served (sliceAt l.data (off % 128) a.len) [])).cisLine dev (off / 128) with
  | none => exact .refl _
  | some k =>
    obtain ⟨t, -, ht, -, honly, -⟩ := State.touchCis_cached (hint := a.hint) Line.plain_id hl
    dsimp only
    rw [ht]
    exact honly

include ha hmoving hv hinq hplace hop hhint

theorem cisternLoad_hit {l : Line} (hl : s.cisLine dev (off / 128) = some l)
    (hvalid : sectorsOf (off % 128) a.len &&& l.valid.toNat = sectorsOf (off % 128) a.len) :
    ∃ t : State, exec (.cisternLoad id) s = .next t ∧ t.fab.out = s.fab.out ∧ t.dram = s.dram ∧
      ∀ b ∈ t.flights, b.id = id → b.stage = .served (sliceAt l.data (off % 128) a.len) [] := by
  have hpass := State.arrive_passes hv
  have hline : v.cisLine dev (off / 128) = some l :=
    (State.cisLine_congr (hpass.field State.cistern fun _ _ _ _ _ _ => rfl) _ _).trans hl
  have hload : v.loadCis a dev off route false = v.serveCis a dev off l := by
    rw [State.loadCis, State.cisHeld_none ((hpass.field State.cisInq fun _ _ _ _ _ _ => rfl).trans hinq), if_neg (by decide), hline]
    dsimp only
    rw [show cisFetchMask (some l) (off % 128) a.len = 0 from if_pos hvalid]
    rfl
  have honly := v.serveCis_only a dev off l hhint
  rw [← hload] at honly
  refine ⟨_, exec_cisternLoad_arrived ha hmoving hv hplace hop, congrArg Fabric.out ?_, ?_, ?_⟩
  · exact (honly.field State.fab fun _ _ _ _ _ => rfl).trans (hpass.field State.fab fun _ _ _ _ _ _ => rfl)
  · exact (honly.field State.dram fun _ _ _ _ _ => rfl).trans hpass.memory.2.2
  · rw [honly.field State.flights fun _ _ _ _ _ => rfl, ← State.id_of_access ha]
    exact State.stage_setStage v a.id _

include hfit

theorem cisternLoad_miss (hl : s.cisLine dev (off / 128) = none) (hmiss : s.cisMiss = []) (hlen : 0 < a.len)
    (hroom : (tabGet s.cistern [] (cisKey dev (off / 128))).length < 16) :
    ∃ (t : State) (r : OutReq), exec (.cisternLoad id) s = .next t ∧ t.fab.out = s.fab.out ++ [r] ∧ r.dev = dev ∧ r.route = route ∧
      (∃ o n, r.op = .load o n ∧ o / 128 = off / 128 ∧ o ≤ off ∧ off + a.len ≤ o + n) ∧ r.seq = s.nextSeq dev route ∧
      (∃ m, t.cisMissOf dev (off / 128) = some m ∧ m.waiters = [id] ∧
        m.sectors = BitVec.ofNat 4 (sectorsOf (off % 128) a.len)) ∧ t.dram = s.dram ∧
      ∀ b ∈ t.flights, b.id = id → b.stage = .waiting := by
  have hpass := State.arrive_passes hv
  have hid := State.id_of_access ha
  have hcistern : v.cistern = s.cistern := hpass.field State.cistern fun _ _ _ _ _ _ => rfl
  have hmissV : v.cisMiss = [] := (hpass.field State.cisMiss fun _ _ _ _ _ _ => rfl).trans hmiss
  have hline : v.cisLine dev (off / 128) = none := (State.cisLine_congr hcistern _ _).trans hl
  obtain ⟨hmask, hlo, hhi⟩ := sectorsOf_ends (off := off % 128) hlen hfit
  obtain ⟨u, hu, honly, -⟩ := State.touchCis_room (s := v) (hint := if a.hint = 1 then 0 else a.hint) Line.plain_id hline
    (by rw [hcistern]; exact hroom)
  have hfull : v.cisFull dev (off / 128) = false := by
    rw [State.cisFull, hmissV]
    rfl
  have humiss : u.cisMiss = [] := (honly.field State.cisMiss fun _ _ _ _ _ => rfl).trans hmissV
  have hload : v.loadCis a dev off route false = v.missCis a dev off route (sectorsOf (off % 128) a.len) false := by
    rw [State.loadCis, State.cisHeld_none ((hpass.field State.cisInq fun _ _ _ _ _ _ => rfl).trans hinq), if_neg (by decide), hline]
    rfl
  have hmissCis : v.missCis a dev off route (sectorsOf (off % 128) a.len) false =
      ({ u.setStage id .waiting with
        cisMiss := [⟨off / 128, dev, BitVec.ofNat 4 (sectorsOf (off % 128) a.len), [id], false, []⟩] } : State).fetchCis dev (off / 128)
        route (sectorsOf (off % 128) a.len) a.ctx := by
    rw [State.missCis]
    dsimp only
    rw [hfull, if_neg (by decide), if_neg hhint, hu, hid]
    dsimp only
    rw [show (u.setStage id .waiting).cisMiss = [] from humiss]
    rfl
  generalize hw : ({ u.setStage id .waiting with
    cisMiss := [⟨off / 128, dev, BitVec.ofNat 4 (sectorsOf (off % 128) a.len), [id], false, []⟩] } : State) = w at hmissCis
  have hwfab : w.fab = s.fab := by
    rw [← hw]
    exact (honly.field State.fab fun _ _ _ _ _ => rfl).trans (hpass.field State.fab fun _ _ _ _ _ _ => rfl)
  rw [State.fetchCis, hlo, hhi] at hmissCis
  obtain ⟨hremote, -, hwmiss, -, r, hout, hdev, hroute, hrop, -, hseq⟩ := w.sendFabric_facts dev route
    (.load (off / 128 * 128 + 32 * (off % 128 / 32)) (32 * ((off % 128 + a.len - 1) / 32 + 1 - off % 128 / 32))) none none a.ctx
  rw [← hmissCis, ← hload] at hremote hwmiss hout
  refine ⟨_, r, exec_cisternLoad_arrived ha hmoving hv hplace hop, by rw [hout, hwfab], hdev, hroute, ⟨_, _, hrop, ?_, ?_, ?_⟩,
    by rw [hseq, State.nextSeq, hwfab]; rfl, ⟨⟨off / 128, dev, BitVec.ofNat 4 (sectorsOf (off % 128) a.len), [id], false, []⟩, ?_, rfl, rfl⟩,
    ?_, ?_⟩
  · omega
  · omega
  · omega
  · rw [State.cisMissOf, hwmiss, ← hw]
    exact List.find?_cons_of_pos (by simp [Miss.isFab])
  · rw [hremote.field State.dram fun _ _ _ _ _ _ _ _ => rfl, ← hw]
    exact (honly.field State.dram fun _ _ _ _ _ => rfl).trans hpass.memory.2.2
  · rw [hremote.field State.flights fun _ _ _ _ _ _ _ _ => rfl, ← hw]
    exact State.stage_setStage u id .waiting

end

/-! ## Stores (R213, R214) -/

/-- What a store makes of its line: the first that dirties it gives its route (R213). -/
def Line.cisStored (route off : Nat) (d : List (Option Byte)) (l : Line) : Line :=
  (if l.dirty = 0 then { l with route := route } else l).store (placeAt off d)

theorem Line.cisStored_eq (route off : Nat) (d : List (Option Byte)) (l : Line) : l.cisStored route off d =
    { l.store (placeAt off d) with route := if l.dirty = 0 then route else l.route } := by
  unfold Line.cisStored
  split <;> rfl

theorem Line.plain_cisStored (route off : Nat) (d : List (Option Byte)) : Line.plain (Line.cisStored route off d) := by
  refine ⟨fun l => ?_, fun l => ?_⟩
  · rw [Line.cisStored_eq, Line.cisStored_eq]
    rfl
  · rw [Line.cisStored_eq]
    exact ⟨rfl, rfl⟩

/-- R213: where the line is held or there is room, the store goes into it; its bytes so far are those it had. -/
theorem State.cisStore_facts {s : State} {dev n : Nat} (route off hint : Nat) (d : List (Option Byte))
    (hroom : (s.cisLine dev n).isSome = true ∨ (tabGet s.cistern [] (cisKey dev n)).length < 16) :
    ∃ (t : State) (k l : Line), s.cisStore dev n route off hint d = some t ∧ s.cisOnly t ∧ t.cisLine dev n = some l ∧
      l.body = (k.cisStored route off d).body ∧
      (∀ l0, s.cisLine dev n = some l0 → k.data = l0.data ∧ k.dirty = l0.dirty ∧ k.route = l0.route) ∧
      (s.cisLine dev n = none → k = Line.new n dev 0) := by
  obtain ⟨hlength, hline⟩ := s.cisUndead_facts dev n
  have hroomU : ((s.cisUndead dev n).cisLine dev n).isSome = true ∨
      (tabGet (s.cisUndead dev n).cistern [] (cisKey dev n)).length < 16 := by
    rw [hlength]
    refine hroom.imp_left fun h => ?_
    rcases hline with hline | hline <;> simpa [hline] using h
  obtain ⟨t, k, ht, honly, hbody, hk⟩ := State.touchCis_some (hint := if hint = 3 then 0 else hint)
    (Line.plain_cisStored route off d) hroomU
  obtain ⟨l, hl, hlk⟩ := Option.map_eq_some_iff.mp hbody
  refine ⟨t, k, l, ht, (s.cisUndead_only dev n).trans honly, hl, hlk, fun l0 hl0 => ?_, fun hnone => ?_⟩
  · have hsame : ∀ x : Line, some x.body = some k.body → k.data = x.data ∧ k.dirty = x.dirty ∧ k.route = x.route := fun x hx => by
      have hb := Option.some.inj hx
      exact ⟨(congrArg Line.data hb).symm, (congrArg Line.dirty hb).symm, (congrArg Line.route hb).symm⟩
    rcases hline with hline | hline <;> rw [hline, hl0] at hk
    · exact hsame l0 (hk.resolve_right (by simp))
    · exact hsame l0.undead (hk.resolve_right (by simp))
  · rcases hline with hline | hline <;> rw [hline, hnone] at hk <;> exact (hk.resolve_left (by simp)).2

section
variable {s v : State} {id dev off route sl : Nat} {a : Access} {d : List (Option Byte)} (ha : s.access id = some a)
  (hmoving : a.stage = .moving) (hv : s.arrive id = some v) (hplace : a.place = .remote dev off route sl) (hop : a.op = .store d)
include ha hmoving hv hplace hop

/-- R214: a multicast store goes past the cistern. -/
theorem cisternStore_multicast (hdev : 65536 ≤ dev) : ∃ (t : State) (r : OutReq), exec (.cisternStore id) s = .next t ∧ r ∈ t.fab.out ∧
    r.access = some id ∧ r.op = .multicast (dev - 65536) off d ∧ t.dram = s.dram ∧ ∀ b ∈ t.flights, b.id = id → b.stage = .forwarded := by
  have hpass := State.arrive_passes hv
  have hstore : v.storeCis a dev off route d =
      ((v.flushFirst dev (off / 128) route a.ctx).sendFabric dev route (.store off d) (some id) none a.ctx).setStage id .forwarded := by
    rw [State.storeCis, if_pos hdev, State.storePast, State.id_of_access ha]
  have hflush := v.flushFirst_remote dev (off / 128) route a.ctx
  obtain ⟨hsend, -, -, -, r, hout, -, -, hrop, haccess, -⟩ := (v.flushFirst dev (off / 128) route a.ctx).sendFabric_facts dev route
    (.store off d) (some id) none a.ctx
  refine ⟨_, r, exec_cisternStore_arrived ha hmoving hv hplace hop, ?_, haccess, by rw [hrop, FabOp.toDest_multicast hdev], ?_, ?_⟩
  · rw [hstore]
    exact hout ▸ List.mem_append_right _ (List.mem_singleton.mpr rfl)
  · rw [hstore]
    exact ((hflush.trans hsend).field State.dram fun _ _ _ _ _ _ _ _ => rfl).trans hpass.memory.2.2
  · rw [hstore]
    exact State.stage_setStage _ id _

/-- R213, R231: a store is held in the line, and nothing is sent. -/
theorem cisternStore_held (hinq : s.cisInq = []) (hdev : dev < 65536) (hfit : off % 128 + d.length ≤ 128)
    (hlen : ∀ l, s.cisLine dev (off / 128) = some l → l.data.length = 128)
    (hroom : (s.cisLine dev (off / 128)).isSome = true ∨ (tabGet s.cistern [] (cisKey dev (off / 128))).length < 16) :
    ∃ (t : State) (l : Line), exec (.cisternStore id) s = .next t ∧ t.cisLine dev (off / 128) = some l ∧ t.fab = s.fab ∧ t.dram = s.dram ∧
      (∀ i, i < d.length → ∀ v, d.getD i none = some v →
        l.data.getD (off % 128 + i) 0 = v ∧ l.dirty.getLsbD (off % 128 + i) = true) ∧
      (∀ l0, s.cisLine dev (off / 128) = some l0 →
        (∀ j, j < 128 → l0.dirty.getLsbD j = true → l.dirty.getLsbD j = true) ∧
        (∀ j, j < off % 128 ∨ off % 128 + d.length ≤ j →
          l.data.getD j 0 = l0.data.getD j 0 ∧ l.dirty.getLsbD j = l0.dirty.getLsbD j) ∧
        l.route = (if l0.dirty = 0 then route else l0.route)) ∧
      (s.cisLine dev (off / 128) = none → l.route = route) ∧ (∀ b ∈ t.flights, b.id = id → b.stage = .acked) := by
  have hpass := State.arrive_passes hv
  have hcistern : v.cistern = s.cistern := hpass.field State.cistern fun _ _ _ _ _ _ => rfl
  rw [← hcistern, ← State.cisLine_congr hcistern] at hroom
  obtain ⟨t, k, l, ht, honly, hl, hbody, hold, hnew⟩ := State.cisStore_facts route (off % 128) a.hint d hroom
  rw [State.cisLine_congr hcistern] at hold hnew
  have hstore : v.storeCis a dev off route d = t.setStage id .acked := by
    rw [State.storeCis, if_neg (by omega), State.cisHeld_none ((hpass.field State.cisInq fun _ _ _ _ _ _ => rfl).trans hinq),
      if_neg (by decide), ht, State.id_of_access ha]
  have hdata : l.data = (k.store (placeAt (off % 128) d)).data := by
    have h : l.data = (k.cisStored route (off % 128) d).data := (congrArg Line.data hbody :)
    rw [h, Line.cisStored_eq]
  have hdirty : l.dirty = (k.store (placeAt (off % 128) d)).dirty := by
    have h : l.dirty = (k.cisStored route (off % 128) d).dirty := (congrArg Line.dirty hbody :)
    rw [h, Line.cisStored_eq]
  have hroute : l.route = if k.dirty = 0 then route else k.route := by
    have h : l.route = (k.cisStored route (off % 128) d).route := (congrArg Line.route hbody :)
    rw [h, Line.cisStored_eq]
  have hklen : k.data.length = 128 := by
    cases hs : s.cisLine dev (off / 128) with
    | none => rw [hnew hs]; exact List.length_replicate
    | some l0 => rw [(hold l0 hs).1, hlen l0 hs]
  rw [exec_cisternStore_arrived ha hmoving hv hplace hop, hstore]
  refine ⟨_, l, rfl, hl, ?_, ?_, fun i hi b hb => ?_, fun l0 hl0 => ?_, fun hs => ?_, State.stage_setStage t id _⟩
  · exact (honly.field State.fab fun _ _ _ _ _ => rfl).trans (hpass.field State.fab fun _ _ _ _ _ _ => rfl)
  · exact (honly.field State.dram fun _ _ _ _ _ => rfl).trans hpass.memory.2.2
  · obtain ⟨-, hbit, hbyte⟩ := Line.store_facts hklen hfit hi hb
    exact ⟨by rw [hdata, hbyte], by rw [hdirty, hbit]⟩
  · obtain ⟨hd0, hm0, hr0⟩ := hold l0 hl0
    refine ⟨fun j hj hbit => ?_, fun j hj => ?_, by rw [hroute, hm0, hr0]⟩
    · rw [hdirty, Line.dirty_store _ _ hj, hm0, hbit, Bool.true_or]
    · by_cases h : j < 128
      · have hnone : (placeAt (off % 128) d).getD j none = none := by
          rw [getD_placeAt hfit]
          split
          · exact List.getD_eq_default _ _ (by omega)
          · rfl
        rw [hdata, hdirty, Line.getD_store hklen _ h, Line.dirty_store _ _ h, hnone, hd0, hm0]
        exact ⟨rfl, by simp⟩
      · rw [List.getD_eq_default _ _ (by rw [hdata, Line.length_store, hklen]; omega),
          List.getD_eq_default _ _ (by rw [hlen l0 hl0]; omega), BitVec.getLsbD_of_ge _ _ (by omega), BitVec.getLsbD_of_ge _ _ (by omega)]
        exact ⟨rfl, rfl⟩
  · rw [hroute, hnew hs]
    rfl

end

/-! ## Fills (R228, R236, R237) -/

theorem Line.keepNewer_nil (l : Line) : l.keepNewer [] = l := by
  have hnone : overlayBytes l.data ((List.range 128).map (fun i => if l.dirty.getLsbD i then none else ([] : List (Option Byte)).getD i none)) =
      l.data := overlayBytes_none _ fun x hx => by
    obtain ⟨i, -, rfl⟩ := List.mem_map.mp hx
    split <;> rfl
  rw [Line.keepNewer, hnone]

/-- The sectors below `n` of those that arrived, put into a line. -/
def fillTo (data : List (Option (List Byte))) (n : Nat) (l : Line) : Line :=
  (List.range n).foldl (fun l k => match data.getD k none with
    | some d => l.fill k d
    | none => l) l

theorem fillTo_succ (data : List (Option (List Byte))) (n : Nat) (l : Line) :
    fillTo data (n + 1) l = match data.getD n none with
      | some d => (fillTo data n l).fill n d
      | none => fillTo data n l := by
  rw [fillTo, List.range_succ, List.foldl_append]
  rfl

/-- What the sectors that arrived leave of a line, and what each of them gives it. -/
theorem fillTo_facts (data : List (Option (List Byte))) {l : Line} (hlen : l.data.length = 128) : ∀ n, n ≤ 4 →
    (fillTo data n l).tag = l.tag ∧ (fillTo data n l).dev = l.dev ∧ (fillTo data n l).dirty = l.dirty ∧
    (fillTo data n l).data.length = 128 ∧
    (∀ j, j < 128 → (l.dirty.getLsbD j = true ∨ n ≤ j / 32) → (fillTo data n l).data.getD j 0 = l.data.getD j 0) ∧
    ∀ k b, k < n → data.getD k none = some b → (fillTo data n l).valid.getLsbD k = true ∧
      ∀ i, i < 32 → l.dirty.getLsbD (32 * k + i) = false → (fillTo data n l).data.getD (32 * k + i) 0 = b.getD i 0 := by
  intro n
  induction n with
  | zero => exact fun _ => ⟨rfl, rfl, rfl, hlen, fun _ _ _ => rfl, fun k b hk => absurd hk (Nat.not_lt_zero k)⟩
  | succ n ih =>
    intro hn
    obtain ⟨htag, hdev, hdirty, hlength, hsame, hgot⟩ := ih (by omega)
    rw [fillTo_succ]
    cases hd : data.getD n none with
    | none =>
      refine ⟨htag, hdev, hdirty, hlength, fun j hj h => hsame j hj (h.imp_right (by omega)), fun k b hk hb => ?_⟩
      have hne : k ≠ n := fun h => by rw [h, hd] at hb; cases hb
      exact hgot k b (by omega) hb
    | some d =>
      refine ⟨htag, hdev, hdirty, hlength ▸ Line.length_fill _ _ _, fun j hj h => ?_, fun k b hk hb => ⟨?_, fun i hi hclean => ?_⟩⟩
      · rw [Line.getD_fill hlength _ _ hj, hdirty, if_neg ?_, hsame j hj (h.imp_right (by omega))]
        rintro ⟨rfl, hclean⟩
        rcases h with h | h
        · rw [h] at hclean; cases hclean
        · omega
      · rw [Line.valid_fill _ (by omega)]
        by_cases hkn : k = n
        · simp [hkn]
        · rw [(hgot k b (by omega) hb).1, Bool.true_or]
      · rw [Line.getD_fill hlength _ _ (by omega), hdirty]
        by_cases hkn : k = n
        · rw [hkn, hd] at hb
          cases hb
          rw [if_pos ⟨by omega, hclean⟩, show (32 * k + i) % 32 = i by omega]
        · rw [if_neg (by omega), (hgot k b (by omega) hb).2 i hi hclean]

/-- R228, R237: of a line that was not dropped, with nothing newer than its fill, the sectors that arrived under its dirty bytes. -/
theorem State.filledLine_plain {s : State} {dev line : Nat} {m : Miss} {data : List (Option (List Byte))} {l : Line}
    (hl : s.cisLine dev line = some l) (hnewer : m.newer = []) (halive : s.cisDead.elem (dev, line) = false) :
    s.filledLine dev line m data = fillTo data 4 l := by
  have hdata : ∀ k, k < 4 → ((List.range 4).map (fun k => (data.getD k none).map
      (fun d => if s.cisDead.elem (dev, line) then (List.range 32).map deadByte else d))).getD k none = data.getD k none := by
    intro k hk
    simp only [halive, List.getD_eq_getElem?_getD, List.getElem?_map, List.getElem?_range hk, Option.map_some, Option.getD_some]
    exact Option.map_id'
  rw [State.filledLine, hnewer, Line.keepNewer_nil, hl, Option.getD_some, fillSectors, fillTo]
  refine List.foldl_ext _ _ _ fun l k hk => ?_
  exact congrArg (fun o : Option (List Byte) => match o with
    | some d => l.fill k d
    | none => l) (hdata k (List.mem_range.mp hk))

/-- A line replaced by one of the same name is found in its place. -/
theorem find_replaced {p : Line → Bool} {ls : List Line} {l k : Line} (hk : p k = true) (hl : ls.find? p = some l) :
    (modIf ls p (fun _ => k)).find? p = some k := by
  have hpick : (p ∘ fun x => if p x = true then k else x) = p := by
    funext x
    simp only [Function.comp]
    split
    · next hx => rw [hk, hx]
    · rfl
  rw [modIf, List.find?_map, hpick, hl, Option.map_some, if_pos (List.find?_some hl)]

/-- R228: a fill that no acquire met, with nobody waiting for it, goes into the line that is held. -/
theorem exec_cisternFillCompletion_held {s : State} {dev line : Nat} {m : Miss} {data : List (Option (List Byte))}
    (hm : s.cisMiss.find? (fun m => m.isFab dev line && m.sectors.toNat == gotSectors data) = some m)
    (hwaiters : m.waiters = []) (hkept : m.discard = false) (hinq : s.cisInq = []) :
    exec (.cisternFillCompletion dev line data) s = .next (({ s with cisMiss := s.cisMiss.erase m } : State).setCis (cisKey dev line)
      (modIf (tabGet s.cistern [] (cisKey dev line)) (fun x => x.isFab dev line) (fun _ => s.filledLine dev line m data))) := by
  rw [exec_cisternFillCompletion, execCisternFillCompletion, hm]
  dsimp only
  rw [hkept, hwaiters, List.foldl_nil, if_neg (by decide)]
  exact congrArg Host.Outcome.next (State.retryCis_none hinq)

/-! ## Evictions (R213) -/

/-- R213: the victim of a set whose marks no sweep has still to take leaves. -/
theorem exec_cisternEviction_some {s : State} {sl set : Nat} {v : Line} (hsl : sl < 4) (hset : set < 8192) (hinq : s.cisInq = [])
    (hsweep : s.keepSweep = none) (hv : victim (fun l => (s.cisMissOf l.dev l.tag).isSome || s.revokedDevs.elem l.dev)
      (demoteKeep s.keepCap (tabGet s.cistern [] (sl * 8192 + set))) = some v) :
    ∃ u : State, s.cisOnly u ∧ u.cistern = s.cistern ∧ exec (.cisternEviction sl set) s = .next ((u.setCis (sl * 8192 + set)
      ((demoteKeep s.keepCap (tabGet s.cistern [] (sl * 8192 + set))).filter (fun l => !l.isFab v.dev v.tag))).sendDirty v v.route numCtxs) := by
  have hk : sl % 4 * 8192 + set % 8192 = sl * 8192 + set := by omega
  have hsame : s.sweepCis (sl * 8192 + set) = s := by
    unfold State.sweepCis
    rw [hsweep]
  have hretry : ∀ u : State, s.cisOnly u → ((u.setCis (sl * 8192 + set)
      ((demoteKeep s.keepCap (tabGet s.cistern [] (sl * 8192 + set))).filter (fun l => !l.isFab v.dev v.tag))).sendDirty v v.route
        numCtxs).retryCis = (u.setCis (sl * 8192 + set)
      ((demoteKeep s.keepCap (tabGet s.cistern [] (sl * 8192 + set))).filter (fun l => !l.isFab v.dev v.tag))).sendDirty v v.route
        numCtxs := fun u hu => by
    refine State.retryCis_none ?_
    rw [(State.sendDirty_remote _ v v.route numCtxs).1.field State.cisInq fun _ _ _ _ _ _ _ _ => rfl]
    exact (hu.field State.cisInq fun _ _ _ _ _ => rfl).trans hinq
  rw [exec_cisternEviction, execCisternEviction]
  dsimp only
  rw [hk, hsame, hv]
  dsimp only
  split
  · have honly : s.cisOnly (s.cisCount (sl % 4) (fun c => { c with keepPressure := satAdd 48 c.keepPressure 1 })) := by exact rfl
    exact ⟨_, honly, rfl, congrArg Host.Outcome.next (hretry _ honly)⟩
  · exact ⟨s, .refl s, rfl, congrArg Host.Outcome.next (hretry s (.refl s))⟩

/-! ## Remote atomics (R214) -/

section
variable {s : State} {dev n route c : Nat}

/-- R214: a line that is clean or not held sends nothing before the operation. -/
theorem State.flushFirst_clean (hdev : dev < 65536) (h : ∀ l, s.cisLine dev n = some l → l.dirty = 0) :
    (s.flushFirst dev n route c).fab = s.fab := by
  rw [State.flushFirst_one hdev]
  cases hl : s.cisLine dev n with
  | none => rw [State.flushLine_none route c hl, (s.flushing_facts dev n).2.1]
  | some l =>
    obtain ⟨k, -, -, hdirty, -, hk⟩ := State.flushLine_some route c hl
    rw [hk, State.sendDirty_clean (by rw [hdirty, h l hl])]
    exact (s.flushing_facts dev n).2.1

/-- R214: the dirty bytes of a line leave as one write, on the operation's own route. -/
theorem State.flushFirst_dirty (hdev : dev < 65536) {l : Line} (hl : s.cisLine dev n = some l) (hdirty : l.dirty ≠ 0) :
    (s.flushFirst dev n route c).nextSeq dev route = s.nextSeq dev route + 1 ∧
    ∃ q, (s.flushFirst dev n route c).fab.out = s.fab.out ++ [q] ∧ q.dev = dev ∧ q.route = route ∧
      q.op = .store (l.tag * 128) l.dirtyBytes ∧ q.seq = s.nextSeq dev route := by
  obtain ⟨-, hfab, -⟩ := s.flushing_facts dev n
  obtain ⟨k, htag, hkdev, hkdirty, hbytes, hk⟩ := State.flushLine_some route c hl
  have hldev := (State.isFab_of_cisLine hl).2
  obtain ⟨hseq, q, hout, hqdev, hqroute, hqop, hqseq⟩ := (s.flushing dev n).sendDirty_sends (l := k) (by rw [hkdirty]; exact hdirty) route c
  have hnext : (s.flushing dev n).nextSeq dev route = s.nextSeq dev route := by rw [State.nextSeq, hfab]; rfl
  rw [hkdev, hldev] at hseq hqdev hqop hqseq
  rw [State.flushFirst_one hdev, hk]
  refine ⟨hseq.trans (by rw [hnext]), q, ?_, hqdev, hqroute, by rw [hqop, htag, hbytes, FabOp.toDest_store hdev], by rw [hqseq, hnext]⟩
  exact hout.trans (by rw [hfab])

end

/-- Settles O42: a hit is the line's bytes, a miss one request, a store its line's bytes; what leaves goes out in order. -/
theorem theCisternHoldsRemoteLines : Obligations.TheCisternHoldsRemoteLines := by
  unfold Obligations.TheCisternHoldsRemoteLines
  refine ⟨?_, ?_, ?_, ?_, ?_, ?_, fun s id => exec_cistern_early⟩
  · rintro s v id dev off route sl a ha hm hv hinq hplace hop hfit hhint
    exact ⟨fun l => cisternLoad_hit ha hm hv hinq hplace hop hhint,
      fun hl hmiss hlen _ hroom => cisternLoad_miss ha hm hv hinq hplace hop hfit hhint hl hmiss hlen hroom⟩
  · rintro s v id dev off route sl a d ha hm hv hinq hplace hop
    exact ⟨cisternStore_multicast ha hm hv hplace hop,
      fun hdev hfit hlen hroom => cisternStore_held ha hm hv hplace hop hinq hdev hfit hlen hroom⟩
  · rintro s dev line m l data hm hl hwaiters hkept hnewer hinq halive hlen
    obtain ⟨htag, hdev, hdirty, -, hsame, hgot⟩ := fillTo_facts data hlen 4 le_rfl
    have hfilled := State.filledLine_plain (data := data) hl hnewer halive
    have hfab : (fillTo data 4 l).isFab dev line = true := (Line.named_isFab dev line l _ htag hdev).trans
      (List.find?_some (p := fun l : Line => l.isFab dev line) hl)
    refine ⟨_, fillTo data 4 l, exec_cisternFillCompletion_held hm hwaiters hkept hinq, ?_, hdirty,
      fun i hi hbit => hsame i hi (.inl hbit), hgot, rfl, rfl, rfl⟩
    rw [State.cisLine, State.tabGet_setCis, if_pos rfl, hfilled]
    exact find_replaced hfab hl
  · intro s dev line data hm
    rw [exec_cisternFillCompletion, execCisternFillCompletion, hm]
  · rintro s sl set v hsl hset hinq hsweep hv
    obtain ⟨u, honly, hcistern, hexec⟩ := exec_cisternEviction_some hsl hset hinq hsweep hv
    have hfab : u.fab = s.fab := honly.field State.fab fun _ _ _ _ _ => rfl
    generalize hL : (demoteKeep s.keepCap (tabGet s.cistern [] (sl * 8192 + set))).filter (fun l => !l.isFab v.dev v.tag) = L at hexec
    obtain ⟨hremote, hafter⟩ := (u.setCis (sl * 8192 + set) L).sendDirty_remote v v.route numCtxs
    refine ⟨_, hexec, ?_, fun k hk => ?_, ?_, fun hclean => ?_, fun hdirty hdev => ?_⟩
    · intro l hl
      rw [hafter, State.tabGet_setCis, if_pos rfl, ← hL] at hl
      have hout := (List.mem_filter.mp hl).2
      by_contra hboth
      rw [not_or, not_not, not_not] at hboth
      simp [Line.isFab, hboth] at hout
    · rw [hafter, State.tabGet_setCis, if_neg hk, hcistern]
    · rw [hremote.field State.dram fun _ _ _ _ _ _ _ _ => rfl]
      exact honly.field State.dram fun _ _ _ _ _ => rfl
    · rw [State.sendDirty_clean hclean]
      exact hfab
    · obtain ⟨-, r, hout, hrdev, hroute, hrop, -⟩ := (u.setCis (sl * 8192 + set) L).sendDirty_sends hdirty v.route numCtxs
      exact ⟨r, hout.trans (by rw [← hfab]; rfl), hrdev, hroute, by rw [hrop, FabOp.toDest_store hdev]⟩
  · rintro s v id dev off route sl a op ty lanes ha hm hv hplace hop hdev
    have hpass := State.arrive_passes hv
    have hline : ∀ n, v.cisLine dev n = s.cisLine dev n := State.cisLine_congr (hpass.field State.cistern fun _ _ _ _ _ _ => rfl) dev
    have hfab : v.fab = s.fab := hpass.field State.fab fun _ _ _ _ _ _ => rfl
    have hnext : v.nextSeq dev route = s.nextSeq dev route := by rw [State.nextSeq, hfab]; rfl
    have hflush := v.flushFirst_remote dev (off / 128) route a.ctx
    have hgone := (v.flushLine_remote dev (off / 128) route a.ctx).2
    rw [← State.flushFirst_one hdev] at hgone
    obtain ⟨hsend, hcistern, -, -, r, hout, hrdev, hroute, hrop, haccess, hseq⟩ :=
      (v.flushFirst dev (off / 128) route a.ctx).sendFabric_facts dev route (.atomic off op ty lanes) (some id) none a.ctx
    refine ⟨_, r, exec_remoteAtomicForward_arrived ha hm hv hplace hop, hrdev, hroute, hrop, haccess, State.stage_setStage _ id _,
      (State.cisLine_congr hcistern _ _).trans hgone, fun hclean => ?_, fun l hl hdirty => ?_, ?_⟩
    · have hkept := State.flushFirst_clean (route := route) (c := a.ctx) hdev (fun l hl => hclean l (by rw [← hline, hl]))
      exact ⟨hout.trans (by rw [hkept, hfab]), hseq.trans ((congrArg (fun f : Fabric => tabGet f.outSeq 0 (seqKey dev route))
        hkept).trans hnext)⟩
    · obtain ⟨hqnext, q, hqout, hqdev, hqroute, hqop, hqseq⟩ := State.flushFirst_dirty (route := route) (c := a.ctx) hdev
        ((hline _).trans hl) hdirty
      refine ⟨q, hout.trans ?_, hqroute, hqdev, hqop, by rw [hqseq, hnext], by rw [hseq, hqnext, hnext]⟩
      rw [hqout, hfab, List.append_assoc]
      rfl
    · exact ((hflush.trans hsend).field State.dram fun _ _ _ _ _ _ _ _ => rfl).trans hpass.memory.2.2

end Sys2Proof.Machine
end

section
/-! O43: FABRIC_LOAD, FABRIC_STORE, FABRIC_ATOMIC, REDUCTION_LINE, CONTRIBUTION_CLOSE, MULTICAST_STORE and FENCE_SIGNAL at the target
(R211, R245, R250, R251, R255, R256, R258, R260, R330). That a request applied before is not answered again, and what names a
multicast's sequence, are the model's readings (logs 59 and 61). -/

namespace Sys2Proof.Machine

/-- Every request is handled as its header and operation say. -/
theorem exec_of_fabricRequest {i : Instr} {h : FabHead} {op : FabOp} (hreq : fabricRequest i = some (h, op)) (s : State) :
    exec i s = .next (s.arriveFab h op) := by
  unfold fabricRequest at hreq
  split at hreq <;> cases hreq <;> rfl

/-! ## Ranges within one line -/

theorem partsOf_line {a n : Nat} (hn : 0 < n) (hfit : a % 128 + n ≤ 128) : partsOf a n = [(a / 128, a % 128, n)] := by
  obtain ⟨m, rfl⟩ := Nat.exists_eq_succ_of_ne_zero hn.ne'
  rw [partsOf, lineParts, Nat.min_eq_left (by omega), Nat.sub_self, lineParts]
  all_goals exact Nat.succ_ne_zero _

theorem State.storeRange_line (s : State) {a hint : Nat} {d : List (Option Byte)} (hd : 0 < d.length) (hfit : a % 128 + d.length ≤ 128) :
    s.storeRange a hint d = s.storeLine (a / 128) (a % 128) hint d := by
  rw [State.storeRange, partsOf_line hd hfit, List.foldl_cons, List.foldl_nil]
  dsimp only
  rw [show a / 128 * 128 + a % 128 - a = 0 by omega, List.drop_zero, List.take_length]

/-- A range that holds poison returns none of its bytes (R193); another returns what the home reads. -/
theorem State.loadRange_line (s : State) {a n : Nat} (hint : Nat) (hn : 0 < n) (hfit : a % 128 + n ≤ 128) :
    (s.poisoned a n = true → s.loadRange a n hint = ([], true, s.countPoison (a / 128))) ∧
    (s.poisoned a n = false → s.loadRange a n hint = (s.homeBytes a n, false, s.loadEffect (a / 128) (a % 128) n hint)) := by
  have hload : s.loadRange a n hint = match s.loadLine (a / 128) (a % 128) n hint with
    | (some d, u) => ([] ++ d, false, u)
    | (none, u) => ([], true, u) := by
    rw [State.loadRange, partsOf_line hn hfit]
    rfl
  have hat : a / 128 * 128 + a % 128 = a := by omega
  rw [hload, State.loadLine, hat]
  exact ⟨fun h => by rw [h]; rfl, fun h => by rw [h]; rfl⟩

/-! ## What a request changes beside memory -/

theorem State.storeRange_caches (a hint : Nat) (d : List (Option Byte)) : ∀ s : State, s.cachesOnly (s.storeRange a hint d) := by
  unfold State.storeRange
  induction partsOf a d.length with
  | nil => exact State.cachesOnly.refl
  | cons p ps ih => exact fun s => (s.storeLine_caches p.1 p.2.1 hint _).trans (ih _)

theorem State.fabStore_fab (s : State) (dpa : Nat) (d : List (Option Byte)) : (s.fabStore dpa d).1.fab = s.fab := by
  unfold State.fabStore
  split
  · rfl
  · exact (s.storeRange_caches dpa 0 d).field State.fab fun _ _ _ _ _ _ => rfl

/-- R256: a store that is served moves its sequence on by one. -/
theorem State.serveFab_store (s : State) (h : FabHead) (o : Nat) (d : List (Option Byte)) : (s.serveFab h (.store o d)).fab =
    { s.fab with inSeq := tabSet s.fab.inSeq 0 (seqKey h.src h.route) (tabGet s.fab.inSeq 0 (seqKey h.src h.route) + 1) } := by
  have happly : (s.applyFab h (.store o d)).1.fab = s.fab := by
    rw [State.applyFab]
    split
    · rfl
    · exact State.fabStore_fab s _ d
  rw [← happly]
  rfl

theorem State.fillLine_caches {s t : State} {line missing hint : Nat} {waiters : List Nat}
    (h : s.fillLine line missing hint waiters = some t) : s.cachesOnly t := by
  unfold State.fillLine at h
  dsimp only at h
  split at h <;> split at h
  all_goals cases h
  all_goals exact (s.allocFor_facts line hint).1.1.trans rfl

theorem State.fabFill_caches (s : State) (op : FabOp) : s.cachesOnly (s.fabFill op) := by
  unfold State.fabFill
  generalize s.fabMissing op = missing
  induction missing generalizing s with
  | nil => exact .refl s
  | cons e es ih =>
    refine State.cachesOnly.trans ?_ (ih _)
    dsimp only
    cases h : s.fillLine e.1 e.2 0 [] with
    | none => exact .refl s
    | some t => exact State.fillLine_caches h

/-- R256: a store reads no line, so none has to be filled for it. -/
theorem State.fabReady_store (s : State) (o : Nat) (d : List (Option Byte)) : s.fabReady (.store o d) = true := rfl

/-! ## The order of a sequence (R256, R258) -/

section
variable {s : State} {h : FabHead} {op : FabOp}

theorem State.arriveFab_serves (hs : s.serves h) : s.arriveFab h op = (
    if h.seq < tabGet s.fab.inSeq 0 (seqOf h op) then s
    else if h.seq = tabGet s.fab.inSeq 0 (seqOf h op) ∧ !s.fabReady op then
      (if s.fab.early.any (fun e => seqOf e.head e.op == seqOf h op && e.head.seq == h.seq) then s
       else s.modFab (fun f => { f with early := f.early ++ [⟨h, op⟩] })).fabFill op
    else if h.seq = tabGet s.fab.inSeq 0 (seqOf h op) then State.drainEarly s.fab.early.length (seqOf h op) (s.serveFab h op)
    else if s.fab.early.any (fun e => seqOf e.head e.op == seqOf h op && e.head.seq == h.seq) then s
    else if 8192 ≤ s.fab.early.length then s.emit (.answer h.src h.route h.seq .refusedEarly)
    else s.modFab (fun f => { f with early := f.early ++ [⟨h, op⟩] })) := by
  obtain ⟨htrained, hvalid, hpart, hsame⟩ := hs
  rw [State.arriveFab, htrained, hvalid, hpart, hsame]
  simp

theorem State.arriveFab_next (hs : s.serves h) (hseq : h.seq = tabGet s.fab.inSeq 0 (seqOf h op)) (hready : s.fabReady op = true) :
    s.arriveFab h op = State.drainEarly s.fab.early.length (seqOf h op) (s.serveFab h op) := by
  rw [State.arriveFab_serves hs, if_neg (by omega), hready, if_neg (by simp), if_pos hseq]

theorem State.arriveFab_waits (hs : s.serves h) (hseq : h.seq = tabGet s.fab.inSeq 0 (seqOf h op)) (hearly : s.fab.early = [])
    (hready : s.fabReady op = false) :
    s.arriveFab h op = (s.modFab (fun f => { f with early := f.early ++ [⟨h, op⟩] })).fabFill op := by
  rw [State.arriveFab_serves hs, if_neg (by omega), hready, if_pos ⟨hseq, rfl⟩, hearly, List.any_nil, if_neg (by decide)]

theorem State.arriveFab_early (hs : s.serves h) (hseq : tabGet s.fab.inSeq 0 (seqOf h op) < h.seq)
    (hnew : ∀ e ∈ s.fab.early, seqOf e.head e.op ≠ seqOf h op ∨ e.head.seq ≠ h.seq) :
    s.arriveFab h op = if 8192 ≤ s.fab.early.length then s.emit (.answer h.src h.route h.seq .refusedEarly)
      else s.modFab (fun f => { f with early := f.early ++ [⟨h, op⟩] }) := by
  have hnone : s.fab.early.any (fun e => seqOf e.head e.op == seqOf h op && e.head.seq == h.seq) = false := by
    simpa [← imp_iff_not_or] using hnew
  rw [State.arriveFab_serves hs, if_neg (by omega), if_neg (by omega), if_neg (by omega), hnone, if_neg (by decide)]

/-- A request that waits and whose turn has come is served. -/
theorem State.drainEarly_one {e : Early} (hearly : s.fab.early = [e]) (hseq : e.head.seq = tabGet s.fab.inSeq 0 (seqOf e.head e.op))
    (hready : s.fabReady e.op = true) : State.drainEarly 1 (seqOf e.head e.op) s =
      (s.modFab (fun x => { x with early := x.early.erase e })).serveFab e.head e.op := by
  rw [State.drainEarly, hearly, List.find?_cons_of_pos (by simp [hseq])]
  dsimp only
  rw [hready, if_pos rfl, State.drainEarly]

end

/-! ## Checks (R245, R250, R251) -/

section
variable {s : State} {h : FabHead} {op : FabOp}

theorem State.arriveFab_untrained (htrained : s.mod.memTrained = false) : s.arriveFab h op = s := by
  rw [State.arriveFab, htrained]
  rfl

theorem State.arriveFab_rejects (htrained : s.mod.memTrained = true) (hrevoked : s.fab.revoked.elem h.part = false)
    (hout : s.fab.valid = false ∨ s.fab.partValid = false ∨ s.fab.partition ≠ h.part) :
    s.arriveFab h op = s.emit (.answer h.src h.route h.seq (.reject .access)) := by
  rw [State.arriveFab, htrained, hrevoked, Bool.and_false, if_neg (by decide), if_neg (by decide), if_pos ?_]
  simpa [or_assoc] using hout

theorem State.arriveFab_revoked (htrained : s.mod.memTrained = true) (hrevoked : s.fab.revoked.elem h.part = true)
    (hout : s.fab.partValid = false ∨ s.fab.partition ≠ h.part) : s.arriveFab h op = s.discardFab op := by
  rw [State.arriveFab, htrained, hrevoked, if_neg (by decide), if_pos ?_]
  simpa [← imp_iff_not_or] using hout

theorem State.discardFab_other (hop : ∀ c k a b v n, op ≠ .fence c k a b v n) : s.discardFab op = s := by
  cases op with
  | fence c k a b v n => exact absurd rfl (hop c k a b v n)
  | _ => rfl

end

/-! ## The operations (R193, R211, R255, R260, R330) -/

section
variable {s : State} {off : Nat} {o : Obj × Nat} (h : FabHead)

theorem State.applyFab_load {n : Nat} (ha : s.aperture off n 0 = some o) (hn : 0 < n) (hfit : o.2 % 128 + n ≤ 128) :
    (s.poisoned o.2 n = false → (s.applyFab h (.load off n)).2 = .data (s.homeBytes o.2 n)) ∧
    (s.poisoned o.2 n = true → (s.applyFab h (.load off n)).2 = .poison) := by
  obtain ⟨hpoison, hclean⟩ := s.loadRange_line 0 hn hfit
  rw [State.applyFab]
  rw [ha]
  exact ⟨fun hp => by dsimp only; rw [hclean hp], fun hp => by dsimp only; rw [hpoison hp]⟩

theorem State.applyFab_store {d : List (Option Byte)} (ha : s.aperture off d.length 1 = some o) :
    s.applyFab h (.store off d) = s.fabStore o.2 d := by
  rw [State.applyFab]
  rw [ha]

theorem State.applyFab_multicast {g : Nat} {d : List (Option Byte)} (ha : s.aperture off d.length 1 = some o)
    (hg : (tabGet s.fab.groups [] g).elem s.fab.deviceId = true) : s.applyFab h (.multicast g off d) = s.fabStore o.2 d := by
  rw [State.applyFab]
  rw [ha]
  exact if_pos hg

theorem State.applyFab_multicast_other {g : Nat} {d : List (Option Byte)}
    (hg : (tabGet s.fab.groups [] g).elem s.fab.deviceId = false) : s.applyFab h (.multicast g off d) = (s, .reject .access) := by
  rw [State.applyFab]
  split
  · rw [hg, if_neg (by decide)]
  · rfl

theorem State.applyFab_shut {n : Nat} :
    (s.aperture off n 0 = none → s.applyFab h (.load off n) = (s, .reject .access)) ∧
    (∀ d : List (Option Byte), s.aperture off d.length 1 = none → s.applyFab h (.store off d) = (s, .reject .access) ∧
      ∀ g, s.applyFab h (.multicast g off d) = (s, .reject .access)) ∧
    ∀ op ty lanes, s.aperture off (atomBytes ty) 2 = none → s.applyFab h (.atomic off op ty lanes) = (s, .reject .access) := by
  refine ⟨fun ha => ?_, fun d ha => ⟨?_, fun g => ?_⟩, fun op ty lanes ha => ?_⟩
  all_goals
    rw [State.applyFab]
    rw [ha]

theorem State.fabStore_failed {dpa : Nat} (d : List (Option Byte)) (hf : s.repair.failed.elem (s.channelOf (dpa / 128)) = true) :
    s.fabStore dpa d = (s.fabPoison dpa, .poison) := if_pos hf

theorem State.fabStore_works {dpa : Nat} (d : List (Option Byte)) (hf : s.repair.failed.elem (s.channelOf (dpa / 128)) = false) :
    s.fabStore dpa d = (s.storeRange dpa 0 d, .ack) := if_neg (by rw [hf]; decide)

theorem State.applyFab_atomic {op : AtomOp} {ty : AtomTy} {a b : Word64} (ha : s.aperture off (atomBytes ty) 2 = some o) :
    s.applyFab h (.atomic off op ty [(0, a, b)]) = s.fabAtomic o.2 op ty [(a, b)] := by
  rw [State.applyFab]
  rw [ha]
  rfl

theorem State.fabAtomic_poisoned {dpa : Nat} (op : AtomOp) (ty : AtomTy) (args : List (Word64 × Word64))
    (hp : s.poisoned (dpa / 128 * 128) 128 = true) : s.fabAtomic dpa op ty args = (s.fabPoison dpa, .poison) := if_pos hp

theorem State.fabAtomic_applied {dpa : Nat} (op : AtomOp) (ty : AtomTy) (a b : Word64) (hp : s.poisoned (dpa / 128 * 128) 128 = false) :
    s.fabAtomic dpa op ty [(a, b)] = (s.storeBytes dpa (leBytes (atomBytes ty) (atomicNew op ty
      (BitVec.ofNat 64 (leNat (s.homeBytes dpa (atomBytes ty)))) a b).toNat),
      .old [BitVec.ofNat 64 (leNat (s.homeBytes dpa (atomBytes ty)))]) := if_neg (by rw [hp]; decide)

theorem State.fabFence_denied {src c k : Nat} (hc : s.shareCheck k src c false = none) (add arrive : Bool) (v : Word64) (n : Nat) :
    s.fabFence src c k add arrive v n = (s.countDeniedHandle k, .denied 4) := by
  rw [State.fabFence, hc]

end

/-! ## The clauses -/

/-- R258: the request after a store that fills the gap follows it at once. -/
theorem fabricStore_drains {s : State} {h h' : FabHead} {o o' : Nat} {d d' : List (Option Byte)} (hs : s.serves h)
    (hseq : h.seq = tabGet s.fab.inSeq 0 (seqKey h.src h.route)) (hearly : s.fab.early = [⟨h', .store o' d'⟩]) (hsrc : h'.src = h.src)
    (hroute : h'.route = h.route) (hseq' : h'.seq = h.seq + 1) : ∃ t : State, exec (.fabricStore h o d) s = .next t ∧ t.fab.early = [] ∧
      tabGet t.fab.inSeq 0 (seqKey h.src h.route) = h.seq + 2 := by
  have hkey : seqKey h'.src h'.route = seqKey h.src h.route := by rw [hsrc, hroute]
  have hserved := s.serveFab_store h o d
  have hnow : tabGet (s.serveFab h (.store o d)).fab.inSeq 0 (seqKey h.src h.route) = h.seq + 1 := by
    rw [hserved, tabGet_tabSet, if_pos rfl, ← hseq]
  have hdrain := State.drainEarly_one (s := s.serveFab h (.store o d)) (e := ⟨h', .store o' d'⟩) (by rw [hserved]; exact hearly)
    (by
    show h'.seq = tabGet _ 0 (seqKey h'.src h'.route)
    rw [hkey, hnow, hseq']) (State.fabReady_store _ o' d')
  have hlast := ((s.serveFab h (.store o d)).modFab (fun x => { x with early := x.early.erase ⟨h', .store o' d'⟩ })).serveFab_store
    h' o' d'
  rw [← hdrain] at hlast
  have harrive : s.arriveFab h (.store o d) = State.drainEarly 1 (seqKey h'.src h'.route) (s.serveFab h (.store o d)) := by
    rw [State.arriveFab_next (op := .store o d) hs hseq (State.fabReady_store s o d), hearly, hkey]
    rfl
  refine ⟨_, (exec_of_fabricRequest rfl s).trans (congrArg _ harrive), ?_, ?_⟩
  · refine (congrArg Fabric.early hlast).trans ?_
    show (s.serveFab h (.store o d)).fab.early.erase _ = []
    rw [hserved, show ({ s.fab with inSeq := _ } : Fabric).early = _ from hearly]
    simp
  · refine (congrArg (fun f : Fabric => tabGet f.inSeq 0 (seqKey h.src h.route)) hlast).trans ?_
    show tabGet (tabSet (s.serveFab h (.store o d)).fab.inSeq 0 _ (tabGet (s.serveFab h (.store o d)).fab.inSeq 0 _ + 1)) 0 _ = _
    rw [hkey, tabGet_tabSet, if_pos rfl, hnow]

/-- Settles O43: the checks, then the order of the sequence, then the operation, each from what it can do. -/
theorem fabricRequestsAreAppliedInTurn : Obligations.FabricRequestsAreAppliedInTurn := by
  refine ⟨fun s i h op hreq hs => ⟨fun hseq hearly hready => ?_, fun hseq hearly hready => ?_, fun hseq => ?_, fun hseq hnew => ?_⟩,
    fun s h h' o o' d d' => fabricStore_drains,
    fun s i h op hreq => ⟨fun ht hr hout => ?_, fun ht hr hout hop => ?_, fun ht => ?_⟩,
    fun s h off n => ⟨State.applyFab_shut h |>.1, fun o => State.applyFab_load h⟩,
    fun s h off g d => ⟨fun ha => ?_, State.applyFab_multicast_other h, fun o ha hf => ?_, fun o ha hf => ⟨?_, fun hg => ?_⟩⟩,
    fun s dpa d hd hfit hlen i v hi hv => ?_,
    fun s h off op ty a b => ⟨fun ha => ?_, fun o ha hp => ?_, fun o ha hp => ?_⟩,
    fun s h c k n add arrive v hc => ?_⟩
  · rw [exec_of_fabricRequest hreq, State.arriveFab_next hs hseq hready, hearly]
    rfl
  · have hfill := State.fabFill_caches (s.modFab (fun f => { f with early := f.early ++ [⟨h, op⟩] })) op
    rw [exec_of_fabricRequest hreq, State.arriveFab_waits hs hseq hearly hready]
    have hfab := hfill.field State.fab fun _ _ _ _ _ _ => rfl
    refine ⟨_, rfl, ?_, (congrArg Fabric.inSeq hfab :), hfill.field State.sent fun _ _ _ _ _ _ => rfl,
      hfill.field State.flights fun _ _ _ _ _ _ => rfl, hfill.field State.ctxs fun _ _ _ _ _ _ => rfl⟩
    refine (congrArg Fabric.early hfab).trans ?_
    show s.fab.early ++ _ = _
    rw [hearly, List.nil_append]
  · rw [exec_of_fabricRequest hreq, State.arriveFab_serves hs, if_pos hseq]
  · rw [exec_of_fabricRequest hreq, State.arriveFab_early hs hseq hnew]
    rfl
  · rw [exec_of_fabricRequest hreq, State.arriveFab_rejects ht hr hout]
  · rw [exec_of_fabricRequest hreq, State.arriveFab_revoked ht hr hout, State.discardFab_other hop]
  · rw [exec_of_fabricRequest hreq, State.arriveFab_untrained ht]
  · obtain ⟨hstore, hmulticast⟩ := (State.applyFab_shut (n := 0) h).2.1 d ha
    exact ⟨hstore, hmulticast g⟩
  · rw [State.applyFab_store h ha, State.fabStore_failed d hf]
  · rw [State.applyFab_store h ha, State.fabStore_works d hf]
  · rw [State.applyFab_multicast h ha hg, State.fabStore_works d hf]
  · have hread := State.storeLine_reads hlen hfit (hint := 0) hi hv
    rwa [← State.storeRange_line s hd hfit, show dpa / 128 * 128 + dpa % 128 = dpa by omega] at hread
  · exact (State.applyFab_shut (n := 0) h).2.2 op ty _ ha
  · rw [State.applyFab_atomic h ha, State.fabAtomic_poisoned op ty _ hp]
  · rw [State.applyFab_atomic h ha, State.fabAtomic_applied op ty a b hp]
  · rw [State.applyFab, State.fabFence_denied hc]
    exact ⟨rfl, rfl⟩

end Sys2Proof.Machine
end

section
/-! O13: ROW_REPAIR, ROW_REPAIR_SWITCH, TSV_SHIFT, CHANNEL_REPLACEMENT, DIAGNOSTICS_REQUEST, AGEING_MEASUREMENT and EYE_MONITOR_SAMPLE
(R217 to R219, R400, R401, R403, R404, R440, R460, R462). Which spare a channel is bound to, what a copy finds uncorrectable and the
dates of the ageing are the model's free values. -/

namespace Sys2Proof.Machine

theorem exec_rowRepairSwitch (ch d b r : Nat) (s : State) : exec (.rowRepairSwitch ch d b r) s = execRowRepairSwitch ch d b r s := rfl

theorem exec_diagnosticsRequest (r : DiagResult) (s : State) : exec (.diagnosticsRequest r) s = execDiagnosticsRequest r s := rfl

theorem exec_ageingMeasurement (l : List Nat) (s : State) : exec (.ageingMeasurement l) s = execAgeingMeasurement l s := rfl

/-! ## Outside a reload repairs are made at once (R402) -/

section
variable {s : State} (h : s.hal.reloading = false)
include h

theorem State.orDefer_now (c : Instr) (f : State) : s.orDefer c f = .next f := if_neg (by rw [h]; decide)

theorem exec_rowRepair_now (ch d b r : Nat) : exec (.rowRepair ch d b r) s = .next (doRowRepair ch d b r s) := State.orDefer_now h _ _

theorem exec_tsvShift_now (ch g : Nat) : exec (.tsvShift ch g) s = .next (doTsvShift ch g s) := State.orDefer_now h _ _

theorem exec_channelReplacement_now (ch : Nat) : exec (.channelReplacement ch) s = .next (doChannelReplacement ch s) :=
  State.orDefer_now h _ _

end

/-! ## Repairs done -/

/-- `t` is `s` but for its repairs, Halnor's records, the poison, its counters and the free values drawn. -/
def State.mends (s t : State) : Prop :=
  t = { s with repair := t.repair, hal := t.hal, freeCtr := t.freeCtr, poison := t.poison, memCounters := t.memCounters }

theorem State.mends.trans {s t u : State} (h : s.mends t) (h' : t.mends u) : s.mends u := by
  rw [State.mends, h', h]

theorem State.notes.mends {s t : State} (h : s.notes t) : s.mends t := by rw [State.mends, h]

theorem State.notes.repair {s t : State} (h : s.notes t) : t.repair = s.repair := by rw [h]

theorem State.notes.freeCtr {s t : State} (h : s.notes t) : t.freeCtr = s.freeCtr := by rw [h]

theorem State.notes.tick {s t : State} (h : s.notes t) : t.tick = s.tick := by rw [h]

theorem State.drawn_mends (s : State) : s.mends s.drawn := rfl

/-- `t` is `s` but for its repairs and Halnor's records. -/
def State.records (s t : State) : Prop := t = { s with repair := t.repair, hal := t.hal }

theorem State.records.trans {s t u : State} (h : s.records t) (h' : t.records u) : s.records u := by
  rw [State.records, h', h]

theorem State.records.mends {s t : State} (h : s.records t) : s.mends t := by rw [State.mends, h]

theorem State.modRepair_records (s : State) (f : Repair → Repair) : s.records (s.modRepair f) := rfl

theorem State.modHal_records (s : State) (f : Halnor → Halnor) : s.records (s.modHal f) := rfl

theorem State.record_records (s : State) (u : Nat × Nat × Nat × Nat × Nat) : s.records (s.record u) := rfl

theorem State.logEntry_records (s : State) (k : LogKind) (args : List Nat) : s.records (s.logEntry k args) := rfl

theorem State.repair_logEntry (s : State) (k : LogKind) (args : List Nat) : (s.logEntry k args).repair = s.repair := rfl

theorem State.head_logEntry (s : State) (k : LogKind) (args : List Nat) :
    (s.logEntry k args).hal.log.head? = some ⟨k, args, s.tick.toNat⟩ := by
  simp [State.logEntry, State.modHal]

theorem State.repaired_records (s : State) (u : Nat × Nat × Nat × Nat × Nat) : s.records (s.repaired u) :=
  ((s.modRepair_records _).trans (State.record_records _ u)).trans (State.logEntry_records _ _ _)

/-- R400, R440: a repair done is applied, and it is the last of those still to be recorded. -/
theorem State.repair_repaired (s : State) (u : Nat × Nat × Nat × Nat × Nat) :
    (s.repaired u).repair = { s.repair.apply u with unrecorded := (s.repair.apply u).unrecorded ++ [u] } := rfl

/-- R217, R219: the sectors a copy finds uncorrectable are poison, those that were remain so, and no other becomes it. -/
theorem State.poisonCopied_facts (secs : List Nat) : ∀ s : State, s.notes (s.poisonCopied secs) ∧
    ∀ c, c ∈ (s.poisonCopied secs).poison ↔ c ∈ s.poison ∨ c ∈ secs := by
  induction secs with
  | nil => exact fun s => ⟨.refl s, fun c => by simp [State.poisonCopied]⟩
  | cons c cs ih =>
    intro s
    obtain ⟨hnotes, hmem⟩ : s.notes (if s.poison.elem c then s else s.poisonSector (c / 4) (c % 4)) ∧
        ∀ x, x ∈ (if s.poison.elem c then s else s.poisonSector (c / 4) (c % 4)).poison ↔ x ∈ s.poison ∨ x = c := by
      split
      · next hc => exact ⟨.refl s, fun x => ⟨.inl, fun hx => hx.elim id (fun hx => hx ▸ List.mem_of_elem_eq_true hc)⟩⟩
      · obtain ⟨hn, hp⟩ := s.poisonSector_facts (c / 4) (c % 4)
        refine ⟨hn, fun x => ?_⟩
        rw [hp, mem_addNew, show c / 4 * 4 + c % 4 = c by omega]
    obtain ⟨hnotes', hmem'⟩ := ih (if s.poison.elem c then s else s.poisonSector (c / 4) (c % 4))
    refine ⟨hnotes.trans hnotes', fun x => (hmem' x).trans ?_⟩
    rw [hmem, List.mem_cons, or_assoc]

/-- R217: what waits no longer once a row is copied: the row itself, and the errors counted in it. -/
def State.copied (s : State) (ch d b r : Nat) : State :=
  (s.modHal (fun h => { h with memErrors := h.memErrors.filter (fun e => !s.inRow ch d b r e.sector) })).modRepair
    (fun x => { x with rows := x.rows.filter (fun y => y != (ch, d, b, r)) })

theorem State.copied_records (s : State) (ch d b r : Nat) : s.records (s.copied ch d b r) :=
  (s.modHal_records _).trans (State.modRepair_records _ _)

theorem exec_rowRepairSwitch_some {s : State} {ch d b r : Nat} (hrow : (ch, d, b, r) ∈ s.repair.rows) : exec (.rowRepairSwitch ch d b r) s =
    .next (((s.poisonCopied ((Config.copyPoison s.freeCtr ch).filter (s.inRow ch d b r))).drawn.copied ch d b r).repaired
      (1, ch, d, b, r)) := by
  rw [exec_rowRepairSwitch, execRowRepairSwitch, if_pos (List.elem_eq_true_of_mem hrow)]
  rfl

/-- R217: the copy's end: the row's repair is applied, recorded and logged, and only its own sectors become poison. -/
theorem rowRepairSwitch_applies {s : State} {ch d b r : Nat} (hrows : s.repair.rows = [(ch, d, b, r)]) :
    ∃ t, exec (.rowRepairSwitch ch d b r) s = .next t ∧
      t = { s with
        repair := t.repair, hal := t.hal, freeCtr := s.freeCtr + 1, poison := t.poison
        memCounters := t.memCounters } ∧
      (∀ c ∈ s.poison, c ∈ t.poison) ∧ (∀ c ∈ t.poison, c ∈ s.poison ∨ s.inRow ch d b r c = true) ∧
      t.repair.rows = [] ∧
      tabGet t.repair.rowsDone 0 (rowKey ch d b) = tabGet s.repair.rowsDone 0 (rowKey ch d b) + 1 ∧
      t.repair.unrecorded = s.repair.unrecorded ++ [(1, ch, d, b, r)] ∧
      t.hal.log.head? = some ⟨.repair, [1, ch, d, b, r], s.tick.toNat⟩ := by
  rw [exec_rowRepairSwitch_some (by rw [hrows]; exact List.mem_singleton.mpr rfl)]
  obtain ⟨hnotes, hmem⟩ := State.poisonCopied_facts ((Config.copyPoison s.freeCtr ch).filter (s.inRow ch d b r)) s
  generalize s.poisonCopied ((Config.copyPoison s.freeCtr ch).filter (s.inRow ch d b r)) = u at hnotes hmem
  have hmends := (hnotes.mends.trans u.drawn_mends).trans
    ((u.drawn.copied_records ch d b r).trans (State.repaired_records _ (1, ch, d, b, r))).mends
  have hrepair := State.repair_repaired (u.drawn.copied ch d b r) (1, ch, d, b, r)
  have hlog := State.head_logEntry (((u.drawn.copied ch d b r).modRepair (fun x => x.apply (1, ch, d, b, r))).record (1, ch, d, b, r))
    .repair [1, ch, d, b, r]
  have hctr : ((u.drawn.copied ch d b r).repaired (1, ch, d, b, r)).freeCtr = s.freeCtr + 1 := congrArg (· + 1) hnotes.freeCtr
  refine ⟨_, rfl, ?_, fun c hc => (hmem c).mpr (.inl hc), fun c hc => ((hmem c).mp hc).imp_right fun h => (List.mem_filter.mp h).2, ?_, ?_,
    ?_, ?_⟩
  · rw [← hctr]
    exact hmends
  · rw [hrepair]
    show u.repair.rows.filter _ = []
    rw [hnotes.repair, hrows]
    simp
  · rw [hrepair]
    refine (tabGet_tabMod u.repair.rowsDone 0 (fun n => n + 1) (rowKey ch d b) (rowKey ch d b)).trans ?_
    rw [if_pos rfl, hnotes.repair]
  · rw [hrepair]
    show u.repair.unrecorded ++ _ = _
    rw [hnotes.repair]
  · rw [← hnotes.tick]
    exact hlog

/-- R219: the channel no longer waits. -/
def State.unwait (s : State) (ch : Nat) : State := s.modRepair (fun r => { r with waiting := r.waiting.filter (fun c => c != ch) })

/-- R219: nor are its errors counted. -/
def State.undue (s : State) (ch : Nat) : State := (s.unwait ch).modHal
  (fun h => { h with memErrors := h.memErrors.filter (fun e => decide ((s.unwait ch).channelOf (e.sector / 4) ≠ ch)) })

theorem State.undue_records (s : State) (ch : Nat) : s.records (s.undue ch) :=
  (s.modRepair_records _ : s.records (s.unwait ch)).trans (State.modHal_records _ _)

theorem State.repair_undue (s : State) (ch : Nat) :
    (s.undue ch).repair = { s.repair with waiting := s.repair.waiting.filter (fun c => c != ch) } := rfl

/-- Of the sectors a copy finds uncorrectable, those of the channel (R219). -/
def State.lostOf (s : State) (ch : Nat) : List Nat :=
  (Config.copyPoison s.freeCtr ch).filter (fun c => decide (s.channelOf (c / 4) = ch))

theorem State.replaceChannel_eq (s : State) (ch : Nat) : s.replaceChannel ch =
    if tabGet s.repair.channels 0 (ch / 32) < 2 then ((s.undue ch).poisonCopied ((s.undue ch).lostOf ch)).drawn.repaired
      (3, ch, ((s.undue ch).spareChannel (ch / 32)).getD (32 + tabGet s.repair.channels 0 (ch / 32)), 0, 0)
    else (((s.undue ch).modRepair (fun r => r.apply (4, ch, 0, 0, 0))).record (4, ch, 0, 0, 0)).logEntry .unrepairable [1, ch] := rfl

theorem State.spareChannel_undue (s : State) (ch k : Nat) : (s.undue ch).spareChannel k = s.spareChannel k := rfl

/-- R219: a channel that has a spare is rebound to it, and every address keeps its bytes. -/
theorem State.replaceChannel_rebinds {s : State} {ch : Nat} (hspare : tabGet s.repair.channels 0 (ch / 32) < 2) :
    ∃ t, s.replaceChannel ch = t ∧
      t = { s with
        repair := t.repair, hal := t.hal, freeCtr := s.freeCtr + 1, poison := t.poison
        memCounters := t.memCounters } ∧
      t.physicalOf ch = (s.spareChannel (ch / 32)).getD (32 + tabGet s.repair.channels 0 (ch / 32)) ∧
      tabGet t.repair.channels 0 (ch / 32) = tabGet s.repair.channels 0 (ch / 32) + 1 ∧
      t.repair.failed = s.repair.failed := by
  rw [State.replaceChannel_eq, if_pos hspare, State.spareChannel_undue]
  generalize (s.spareChannel (ch / 32)).getD (32 + tabGet s.repair.channels 0 (ch / 32)) = p
  obtain ⟨hnotes, -⟩ := State.poisonCopied_facts ((s.undue ch).lostOf ch) (s.undue ch)
  have hmends := (((s.undue_records ch).mends.trans hnotes.mends).trans (State.drawn_mends _)).trans
    (State.repaired_records _ (3, ch, p, 0, 0)).mends
  generalize (s.undue ch).poisonCopied ((s.undue ch).lostOf ch) = u at hnotes hmends
  have hrepair := State.repair_repaired u.drawn (3, ch, p, 0, 0)
  have hold : u.repair = { s.repair with waiting := s.repair.waiting.filter (fun c => c != ch) } :=
    hnotes.repair.trans (s.repair_undue ch)
  have hctr : (u.drawn.repaired (3, ch, p, 0, 0)).freeCtr = s.freeCtr + 1 := congrArg (· + 1) hnotes.freeCtr
  refine ⟨_, rfl, ?_, ?_, ?_, ?_⟩
  · rw [← hctr]
    exact hmends
  · rw [State.physicalOf, hrepair]
    exact (tabGet_tabPut u.repair.bound _ p ch ch).trans (if_pos rfl)
  · rw [hrepair]
    refine (tabGet_tabMod u.repair.channels 0 (fun n => n + 1) (ch / 32) (ch / 32)).trans ?_
    rw [if_pos rfl, hold]
  · rw [hrepair]
    show u.repair.failed = _
    rw [hold]

/-- R219: the third channel of a stack has no spare left and is failed. -/
theorem State.replaceChannel_fails {s : State} {ch : Nat} (hspent : 2 ≤ tabGet s.repair.channels 0 (ch / 32)) :
    ∃ t, s.replaceChannel ch = t ∧ t = { s with repair := t.repair, hal := t.hal } ∧ ch ∈ t.repair.failed := by
  have hundue := s.undue_records ch
  rw [State.replaceChannel_eq, if_neg (by omega)]
  generalize s.undue ch = u at hundue
  refine ⟨_, rfl, ((hundue.trans (State.modRepair_records _ (fun r => r.apply (4, ch, 0, 0, 0)))).trans
    (State.record_records _ (4, ch, 0, 0, 0))).trans (State.logEntry_records _ .unrepairable [1, ch]), ?_⟩
  rw [State.repair_logEntry]
  exact mem_addNew.mpr (.inr rfl)

end Sys2Proof.Machine
end

section
/-! O13: the thresholds and job boundaries of repairs, diagnostics (R400, R401), and the prediction of the end of life (R403, R404). -/

namespace Sys2Proof.Machine

/-! ## When a repair is made (R217 to R219, R400) -/

section
variable {s : State} {ch d b r : Nat}

theorem doRowRepair_begins (hdue : s.rowDue ch d b r = true) (hrows : s.repair.rows = [])
    (hleft : tabGet s.repair.rowsDone 0 (rowKey ch d b) < 16) :
    doRowRepair ch d b r s = { s with repair := { s.repair with rows := [(ch, d, b, r)] } } := by
  rw [doRowRepair, hdue, if_neg (by decide), hrows]
  refine (if_pos hleft).trans ?_
  rw [State.modRepair, hrows]
  rfl

theorem doRowRepair_other (hdue : s.rowDue ch d b r = false) : doRowRepair ch d b r s = s := by
  rw [doRowRepair, hdue, if_pos (by decide)]

theorem doRowRepair_spent (hdue : s.rowDue ch d b r = true) (hspent : 16 ≤ tabGet s.repair.rowsDone 0 (rowKey ch d b)) :
    doRowRepair ch d b r s = s.awaitChannel ch := by
  rw [doRowRepair, hdue, if_neg (by decide), if_neg (by omega)]

theorem doTsvShift_shifts {g : Nat} (hleft : tabGet s.repair.tsvs 0 ch < 2) : doTsvShift ch g s = s.repaired (2, ch, g, 0, 0) := if_pos hleft

theorem doTsvShift_spent {g : Nat} (hspent : 2 ≤ tabGet s.repair.tsvs 0 ch) : doTsvShift ch g s = s.awaitChannel ch :=
  if_neg (Nat.not_lt.mpr hspent)

theorem doChannelReplacement_other (hdue : s.channelDue ch = false) : doChannelReplacement ch s = s := by
  rw [doChannelReplacement, hdue, if_pos (by decide)]

theorem doChannelReplacement_now (hdue : s.channelDue ch = true) (hkernels : s.kernels = []) (hregion : s.timed.region = none) :
    doChannelReplacement ch s = s.replaceChannel ch := by
  have hjob : s.jobBoundary = true := by rw [State.jobBoundary, hkernels, hregion]; rfl
  rw [doChannelReplacement, hdue, if_neg (by decide), hjob, if_pos rfl]

theorem doChannelReplacement_later (hdue : s.channelDue ch = true) (hkernels : s.kernels ≠ []) :
    doChannelReplacement ch s = s.awaitChannel ch := by
  have hjob : s.jobBoundary = false := by rw [State.jobBoundary, List.isEmpty_eq_false_iff.mpr hkernels]; rfl
  rw [doChannelReplacement, hdue, if_neg (by decide), hjob, if_neg (by decide)]

theorem tsvShift_shifts {g : Nat} (hreload : s.hal.reloading = false) (hleft : tabGet s.repair.tsvs 0 ch < 2) :
    ∃ t, exec (.tsvShift ch g) s = .next t ∧ t = { s with repair := t.repair, hal := t.hal } ∧
      tabGet t.repair.tsvs 0 ch = tabGet s.repair.tsvs 0 ch + 1 ∧
      t.repair.unrecorded = s.repair.unrecorded ++ [(2, ch, g, 0, 0)] := by
  rw [exec_tsvShift_now hreload, doTsvShift_shifts hleft]
  refine ⟨_, rfl, s.repaired_records _, ?_, by rw [State.repair_repaired]; rfl⟩
  rw [State.repair_repaired]
  exact (tabGet_tabMod s.repair.tsvs 0 (fun n => n + 1) ch ch).trans (if_pos rfl)

end

/-! ## Diagnostics (R401) -/

/-- R401: a quarantine recorded and logged. -/
def State.quarantined (s : State) : State := (s.record (6, s.hal.ms, 0, 0, 0)).logEntry .quarantine []

/-- R400, R401: the diagnosis: the second quarantine within 30 days is a defect beyond repair, and the recovery is complete. -/
def State.diagnosed (s : State) : State :=
  (if 2 ≤ s.quarantined.recent 6 s.quarantined.mod.bank.quarantines then s.quarantined.logEntry .unrepairable [2] else s.quarantined).modHal
    (fun h => { h with needRecovery := false })

theorem State.repair_modHal (s : State) (f : Halnor → Halnor) : (s.modHal f).repair = s.repair := rfl

theorem State.quarantined_facts (s : State) : s.records s.quarantined ∧
    s.quarantined.repair = { s.repair with unrecorded := s.repair.unrecorded ++ [(6, s.hal.ms, 0, 0, 0)] } :=
  ⟨(s.record_records _).trans (State.logEntry_records _ _ _), State.repair_logEntry _ _ _⟩

theorem State.diagnosed_facts (s : State) : s.records s.diagnosed ∧
    s.diagnosed.repair = { s.repair with unrecorded := s.repair.unrecorded ++ [(6, s.hal.ms, 0, 0, 0)] } ∧
    s.diagnosed.hal.needRecovery = false := by
  obtain ⟨hrecords, hrepair⟩ := s.quarantined_facts
  unfold State.diagnosed
  generalize s.quarantined = u at hrecords hrepair
  refine ⟨State.records.trans ?_ (State.modHal_records _ _), ?_, rfl⟩
  · split
    · exact hrecords.trans (u.logEntry_records _ _)
    · exact hrecords
  · rw [State.repair_modHal]
    split
    · exact (u.repair_logEntry _ _).trans hrepair
    · exact hrepair

theorem exec_diagnosticsRequest_none {s : State} (r : DiagResult) (h : s.ctxs.all (fun e => e.2.kind != 3) = true) :
    exec (.diagnosticsRequest r) s = .next s := by
  rw [exec_diagnosticsRequest, execDiagnosticsRequest, if_neg]
  intro hany
  obtain ⟨e, he, hkind⟩ := List.any_eq_true.mp hany
  have hother := List.all_eq_true.mp h e he
  simp_all

theorem exec_diagnosticsRequest_tile {s : State} (d row col : Nat) (h : s.ctxs.any (fun e => e.2.kind == 3 && e.2.st != .free) = true) :
    exec (.diagnosticsRequest (.tile d row col)) s =
      .next (s.diagnosed.modRepair (fun x => { x with toRetire := addNew x.toRetire (d, row, col) })) := by
  rw [exec_diagnosticsRequest, execDiagnosticsRequest, if_pos h]
  rfl

theorem diagnosticsRequest_quarantines {s : State} (d row col : Nat)
    (h : s.ctxs.any (fun e => e.2.kind == 3 && e.2.st != .free) = true) :
    ∃ t, exec (.diagnosticsRequest (.tile d row col)) s = .next t ∧
      t = { s with repair := t.repair, hal := t.hal } ∧ (d, row, col) ∈ t.repair.toRetire ∧
      t.repair.unrecorded = s.repair.unrecorded ++ [(6, s.hal.ms, 0, 0, 0)] ∧ t.hal.needRecovery = false := by
  obtain ⟨hrecords, hrepair, hrecovery⟩ := s.diagnosed_facts
  refine ⟨_, exec_diagnosticsRequest_tile d row col h, hrecords.trans (State.modRepair_records _ _), ?_, ?_, hrecovery⟩
  · exact mem_addNew.mpr (.inr rfl)
  · exact congrArg Repair.unrecorded hrepair

/-! ## The end of life (R404) -/

theorem earliest_cons (x : Nat × Nat) (l : List (Nat × Nat)) (a : Nat × Nat) :
    earliest (x :: l) a = earliest l (if x.2 < a.2 then x else a) := rfl

/-- The earliest of some dates is one of them, and none is before it. -/
theorem earliest_facts (l : List (Nat × Nat)) : ∀ a, earliest l a ∈ a :: l ∧ ∀ x ∈ a :: l, (earliest l a).2 ≤ x.2 := by
  induction l with
  | nil => exact fun a => ⟨List.mem_singleton.mpr rfl, fun x hx => by rw [List.mem_singleton.mp hx]; exact le_rfl⟩
  | cons y ys ih =>
    intro a
    rw [earliest_cons]
    split
    · next h =>
      obtain ⟨hmem, hmin⟩ := ih y
      refine ⟨List.mem_cons_of_mem a hmem, fun x hx => ?_⟩
      rcases List.mem_cons.mp hx with rfl | hx
      · exact (hmin y List.mem_cons_self).trans h.le
      · exact hmin x hx
    · next h =>
      obtain ⟨hmem, hmin⟩ := ih a
      simp only [List.mem_cons] at hmem hmin ⊢
      refine ⟨hmem.imp_right .inr, fun x hx => ?_⟩
      rcases hx with hx | rfl | hx
      · exact hmin x (.inl hx)
      · exact (hmin a (.inl rfl)).trans (not_lt.mp h)
      · exact hmin x (.inr hx)

/-- The date that comes first, with what it belongs to. -/
def State.lifeEnd (s : State) : Nat × Nat := earliest (s.endDates.drop 1) (s.endDates.headD (0, 0))

theorem State.lifeEnd_facts (s : State) : s.lifeEnd ∈ s.endDates ∧ ∀ e ∈ s.endDates, s.lifeEnd.2 ≤ e.2 := by
  obtain ⟨x, xs, hdates⟩ : ∃ x xs, s.endDates = x :: xs := ⟨_, _, rfl⟩
  rw [State.lifeEnd, hdates]
  exact earliest_facts xs x

/-- R404: a prediction is of the same dies, lanes and record as before. -/
def State.measures (s t : State) : Prop :=
  t = { s with hal := t.hal, mod := t.mod, sent := t.sent } ∧ t.hal.slowdown = s.hal.slowdown ∧ t.hal.eyes = s.hal.eyes ∧
    t.hal.ms = s.hal.ms ∧ t.mod.record = s.mod.record ∧ t.mod.bank = s.mod.bank

theorem State.measures.endDates {s t : State} (h : s.measures t) : t.endDates = s.endDates := by
  obtain ⟨-, hslowdown, heyes, -, hrecord, hbank⟩ := h
  rw [State.endDates, State.endDates, hslowdown, heyes, hrecord, hbank]
  simp only [State.exponentOf, hrecord, hbank]

/-- R404: the date that comes first, noted with its monitor. -/
def State.foretold (s : State) : State := s.modHal (fun h => { h with eolDate := s.lifeEnd.2, eolMonitor := s.lifeEnd.1 })

theorem State.foretold_measures (s : State) : s.measures s.foretold := ⟨rfl, rfl, rfl, rfl, rfl, rfl⟩

theorem State.predictLife_eq (s : State) : s.predictLife =
    if s.foretold.hal.eolDays < 30 ∨ s.foretold.hal.slowdown.any (fun x => decide (s.foretold.mod.record.margin ≤ x))
    then s.foretold.raiseAlert .eol else s.foretold := rfl

theorem State.raiseAlert_measures (s : State) (a : Alert) : s.measures (s.raiseAlert a) ∧ (s.raiseAlert a).mod.alertN = false ∧
    (s.raiseAlert a).hal.eolDate = s.hal.eolDate ∧ (s.raiseAlert a).hal.eolMonitor = s.hal.eolMonitor :=
  ⟨⟨rfl, rfl, rfl, rfl, rfl, rfl⟩, rfl, rfl, rfl⟩

theorem State.measures.trans {s t u : State} (h : s.measures t) (h' : t.measures u) : s.measures u := by
  obtain ⟨ht, hslowdown, heyes, hms, hrecord, hbank⟩ := h
  obtain ⟨hu, hslowdown', heyes', hms', hrecord', hbank'⟩ := h'
  exact ⟨by rw [hu, ht], hslowdown'.trans hslowdown, heyes'.trans heyes, hms'.trans hms, hrecord'.trans hrecord, hbank'.trans hbank⟩

/-- R404: the prediction is the earliest date, and the end that is near or reached is an alert. -/
theorem State.predictLife_facts (s : State) : s.measures s.predictLife ∧
    (s.predictLife.hal.eolMonitor, s.predictLife.hal.eolDate) = s.lifeEnd ∧
    (s.lifeEnd.2 - s.hal.ms < 2592000000 ∨ (∃ x ∈ s.hal.slowdown, s.mod.record.margin ≤ x) → s.predictLife.mod.alertN = false) := by
  have hforetold := s.foretold_measures
  obtain ⟨hraised, halert, hdate, hmonitor⟩ := s.foretold.raiseAlert_measures .eol
  rw [State.predictLife_eq]
  split
  · exact ⟨hforetold.trans hraised, by rw [hdate, hmonitor]; rfl, fun _ => halert⟩
  · next hfar =>
    refine ⟨hforetold, rfl, fun hnear => absurd ?_ hfar⟩
    refine hnear.imp (fun hdays => ?_) fun ⟨x, hx, hmargin⟩ => List.any_eq_true.mpr ⟨x, hx, decide_eq_true hmargin⟩
    show (s.lifeEnd.2 - s.hal.ms) / 86400000 < 30
    omega

end Sys2Proof.Machine
end

section
/-! O13: AGEING_MEASUREMENT and EYE_MONITOR_SAMPLE (R403, R404), and the obligation. -/

namespace Sys2Proof.Machine

/-- R404: what a renewed prediction says, in the state it leaves. -/
theorem State.predictLife_ends {u t : State} (ht : u.predictLife = t) : u.measures t ∧ (t.hal.eolMonitor, t.hal.eolDate) ∈ t.endDates ∧
    (∀ e ∈ t.endDates, t.hal.eolDate ≤ e.2) ∧
    (t.hal.eolDate - u.hal.ms < 2592000000 ∨ (∃ x ∈ t.hal.slowdown, u.mod.record.margin ≤ x) → t.mod.alertN = false) := by
  obtain ⟨hmeasures, hend, halert⟩ := u.predictLife_facts
  obtain ⟨hmem, hmin⟩ := u.lifeEnd_facts
  rw [ht] at hmeasures hend halert
  have hdate : t.hal.eolDate = u.lifeEnd.2 := congrArg Prod.snd hend
  rw [hmeasures.endDates, hend, hdate, hmeasures.2.1]
  exact ⟨hmeasures, hmem, hmin, halert⟩

/-- R403: the dies' slowdown as measured. -/
def State.slowed (s : State) (l : List Nat) : State := s.modHal (fun h => { h with slowdown := (List.range 4).map (fun d => l.getD d 0) })

/-- R440: the days whose measurement is recorded, in the bank or still to be written there. -/
def State.daysMeasured (s : State) : Nat := s.mod.bank.ageing.length + (s.repair.unrecorded.filter (fun u => u.1 == 8)).length

/-- R440: the measurement recorded, once a day. -/
def State.aged (s : State) (l : List Nat) : State :=
  if s.daysMeasured ≤ s.hal.ms / 86400000 then (s.slowed l).record (8, l.getD 0 0, l.getD 1 0, l.getD 2 0, l.getD 3 0) else s.slowed l

theorem exec_ageingMeasurement_alive {s : State} (l : List Nat) (h : s.mod.state ≠ .off) :
    exec (.ageingMeasurement l) s = .next (s.aged l).predictLife := by
  have halive : s.alive = true := by simpa [State.alive] using h
  rw [exec_ageingMeasurement, execAgeingMeasurement, halive, if_neg (by decide)]
  rfl

theorem State.slowed_facts (s : State) (l : List Nat) : s.records (s.slowed l) ∧ (s.slowed l).mod = s.mod ∧
    (s.slowed l).hal.ms = s.hal.ms ∧ (s.slowed l).hal.slowdown = (List.range 4).map (fun d => l.getD d 0) ∧
    (s.slowed l).repair = s.repair := ⟨rfl, rfl, rfl, rfl, rfl⟩

theorem State.aged_facts (s : State) (l : List Nat) : s.records (s.aged l) ∧ (s.aged l).mod = s.mod ∧ (s.aged l).hal.ms = s.hal.ms ∧
    (s.aged l).hal.slowdown = (List.range 4).map (fun d => l.getD d 0) ∧
    (s.hal.ms / 86400000 < s.mod.bank.ageing.length → (s.aged l).repair = s.repair) := by
  obtain ⟨hrecords, hmod, hms, hslowdown, hrepair⟩ := s.slowed_facts l
  unfold State.aged
  generalize s.slowed l = u at *
  split
  · next hdue =>
    refine ⟨hrecords.trans (u.record_records _), hmod, hms, hslowdown, fun hday => absurd hdue ?_⟩
    rw [State.daysMeasured]
    omega
  · exact ⟨hrecords, hmod, hms, hslowdown, fun _ => hrepair⟩

theorem ageingMeasurement_predicts {s : State} (l : List Nat) (h : s.mod.state ≠ .off) :
    ∃ t, exec (.ageingMeasurement l) s = .next t ∧
      t.hal.slowdown = (List.range 4).map (fun d => l.getD d 0) ∧
      (t.hal.eolMonitor, t.hal.eolDate) ∈ t.endDates ∧ (∀ e ∈ t.endDates, t.hal.eolDate ≤ e.2) ∧
      (t.hal.eolDate - s.hal.ms < 2592000000 ∨ (∃ x ∈ t.hal.slowdown, s.mod.record.margin ≤ x) → t.mod.alertN = false) ∧
      t = { s with hal := t.hal, mod := t.mod, repair := t.repair, sent := t.sent } ∧
      (s.hal.ms / 86400000 < s.mod.bank.ageing.length → t.repair = s.repair) := by
  rw [exec_ageingMeasurement_alive l h]
  obtain ⟨hrecords, hmod, hms, hslowdown, hrepair⟩ := s.aged_facts l
  generalize ht : (s.aged l).predictLife = t
  obtain ⟨⟨hframe, hslow, -⟩, hmem, hmin, halert⟩ := State.predictLife_ends ht
  rw [hms, hmod] at halert
  refine ⟨t, rfl, hslow.trans hslowdown, hmem, hmin, halert, ?_, fun hday => ?_⟩
  · rw [hframe, hrecords]
  · rw [hframe]
    exact hrepair hday

/-- R403, R249: a lane's eye and its port's corrected frames, noted. -/
def State.sampled (s : State) (p l : Nat) (e : EyeSample) : State :=
  (s.modHal (fun h => { h with eyes := tabPut h.eyes (p * 16 + l) e.height })).modPort p
    (fun x => { x with ceFrames := satAdd 48 x.ceFrames e.corrected })

/-- R462: both are logged. -/
def State.eyed (s : State) (p l : Nat) (e : EyeSample) : State :=
  ((s.sampled p l e).logEntry .eye [p, l, e.height]).logEntry .corrected [p, e.corrected]

theorem exec_eyeMonitorSample_up {s : State} (p l : Nat) (e : EyeSample) (h : s.mod.pg = true) :
    exec (.eyeMonitorSample p l e) s = .next (s.eyed p l e).predictLife := if_pos h

theorem exec_eyeMonitorSample_down {s : State} (p l : Nat) (e : EyeSample) (h : s.mod.pg = false) :
    exec (.eyeMonitorSample p l e) s = .next s := if_neg (by rw [h]; decide)

theorem State.sampled_facts (s : State) (p l : Nat) (e : EyeSample) :
    s.sampled p l e = { s with hal := (s.sampled p l e).hal, fab := { s.fab with ports := (s.sampled p l e).fab.ports } } ∧
    (s.sampled p l e).port p = { s.port p with ceFrames := min (2 ^ 48 - 1) ((s.port p).ceFrames + e.corrected) } ∧
    (∀ q, q ≠ p → (s.sampled p l e).port q = s.port q) ∧ tabGet (s.sampled p l e).hal.eyes 0 (p * 16 + l) = e.height ∧
    (s.sampled p l e).hal.ms = s.hal.ms := by
  refine ⟨rfl, ?_, fun q hq => ?_, (tabGet_tabPut s.hal.eyes 0 e.height (p * 16 + l) (p * 16 + l)).trans (if_pos rfl), rfl⟩
  · rw [State.sampled, State.port_modPort, if_pos rfl]
    rfl
  · rw [State.sampled, State.port_modPort, if_neg hq]
    rfl

/-- `t` is `s` but for Halnor's records. -/
def State.notesDown (s t : State) : Prop := t = { s with hal := t.hal }

theorem State.notesDown.trans {s t u : State} (h : s.notesDown t) (h' : t.notesDown u) : s.notesDown u := by
  rw [State.notesDown, h', h]

theorem State.logEntry_keeps (s : State) (k : LogKind) (args : List Nat) : s.notesDown (s.logEntry k args) ∧
    (s.logEntry k args).hal.eyes = s.hal.eyes ∧ (s.logEntry k args).hal.ms = s.hal.ms := ⟨rfl, rfl, rfl⟩

theorem State.eyed_facts (s : State) (p l : Nat) (e : EyeSample) : (s.sampled p l e).notesDown (s.eyed p l e) ∧
    (s.eyed p l e).hal.eyes = (s.sampled p l e).hal.eyes ∧ (s.eyed p l e).hal.ms = (s.sampled p l e).hal.ms := by
  unfold State.eyed
  generalize s.sampled p l e = u
  obtain ⟨hlog, heyes, hms⟩ := u.logEntry_keeps .eye [p, l, e.height]
  obtain ⟨hlog', heyes', hms'⟩ := (u.logEntry .eye [p, l, e.height]).logEntry_keeps .corrected [p, e.corrected]
  exact ⟨hlog.trans hlog', heyes'.trans heyes, hms'.trans hms⟩

theorem eyeMonitorSample_predicts {s : State} (p l : Nat) (e : EyeSample) (h : s.mod.pg = true) :
    ∃ t, exec (.eyeMonitorSample p l e) s = .next t ∧
      t.port p = { s.port p with ceFrames := min (2 ^ 48 - 1) ((s.port p).ceFrames + e.corrected) } ∧
      (∀ q, q ≠ p → t.port q = s.port q) ∧ tabGet t.hal.eyes 0 (p * 16 + l) = e.height ∧
      (t.hal.eolMonitor, t.hal.eolDate) ∈ t.endDates ∧ (∀ e ∈ t.endDates, t.hal.eolDate ≤ e.2) ∧
      (t.hal.eolDate - s.hal.ms < 2592000000 → t.mod.alertN = false) ∧
      t = { s with
        hal := t.hal, mod := t.mod, sent := t.sent, fab := { s.fab with ports := t.fab.ports } } := by
  rw [exec_eyeMonitorSample_up p l e h]
  obtain ⟨hsampled, hport, hother, heye, hms⟩ := s.sampled_facts p l e
  obtain ⟨hlogged, heyesLogged, hmsLogged⟩ := s.eyed_facts p l e
  generalize s.sampled p l e = v at *
  generalize s.eyed p l e = u at *
  generalize ht : u.predictLife = t
  obtain ⟨⟨hframe, -, heyes, -⟩, hmem, hmin, halert⟩ := State.predictLife_ends ht
  have hports : ∀ q, t.port q = v.port q := State.port_congr (by rw [hframe, hlogged])
  rw [hmsLogged, hms] at halert
  refine ⟨t, rfl, (hports p).trans hport, fun q hq => (hports q).trans (hother q hq), by rw [heyes, heyesLogged, heye], hmem, hmin,
    fun hdays => halert (.inl hdays), ?_⟩
  rw [hframe, hlogged, hsampled]

/-- R404: with 90 days measured the exponent is within 0.1 to 0.5. -/
theorem State.exponentOf_bounds {s : State} (d : Nat) (h : 90 ≤ s.mod.bank.ageing.length) : 100 ≤ s.exponentOf d ∧ s.exponentOf d ≤ 500 := by
  rw [State.exponentOf, if_neg (by omega)]
  omega

/-- Settles O13: each repair by its threshold, and each measurement by the prediction it renews. -/
theorem repairsAndAgeing : Obligations.RepairsAndAgeing := by
  refine ⟨⟨fun s ch d b r hreload hdue hrows hleft => ?_, fun s ch d b r hreload hdue => ?_, fun s ch d b r hreload hdue hspent => ?_,
    fun s ch d b r => rowRepairSwitch_applies, fun s ch g => tsvShift_shifts, fun s ch g hreload hspent => ?_,
    fun s ch hreload hdue hkernels hregion hspare => ?_, fun s ch hreload hdue => ?_, fun s ch hreload hdue hkernels => ?_,
    fun s ch hreload hdue hkernels hregion hspent => ?_, fun s r => exec_diagnosticsRequest_none r,
    fun s d row col => diagnosticsRequest_quarantines d row col⟩,
    fun s l => ageingMeasurement_predicts l, fun s p l e => eyeMonitorSample_predicts p l e,
    fun s p l e => exec_eyeMonitorSample_down p l e, fun s d hdays => if_pos hdays, fun s d => State.exponentOf_bounds d⟩
  · rw [exec_rowRepair_now hreload, doRowRepair_begins hdue hrows hleft]
  · rw [exec_rowRepair_now hreload, doRowRepair_other hdue]
  · rw [exec_rowRepair_now hreload, doRowRepair_spent hdue hspent]
    rfl
  · rw [exec_tsvShift_now hreload, doTsvShift_spent hspent]
    rfl
  · obtain ⟨t, ht, hrebound⟩ := State.replaceChannel_rebinds hspare
    rw [exec_channelReplacement_now hreload, doChannelReplacement_now hdue hkernels hregion, ht]
    exact ⟨t, rfl, hrebound⟩
  · rw [exec_channelReplacement_now hreload, doChannelReplacement_other hdue]
  · rw [exec_channelReplacement_now hreload, doChannelReplacement_later hdue hkernels]
    rfl
  · obtain ⟨t, ht, hfailed⟩ := State.replaceChannel_fails hspent
    rw [exec_channelReplacement_now hreload, doChannelReplacement_now hdue hkernels hregion, ht]
    exact ⟨t, rfl, hfailed⟩

end Sys2Proof.Machine
end

section
/-! Messages of the fabric manager, and what a revocation ends (R241, R244, R245, R250, R270, R271). -/

namespace Sys2Proof.Machine

theorem exec_partitionRevocation (m : FmHead) (p : Nat) (s : State) :
    exec (.partitionRevocation m p) s = .next (doPartitionRevocation m p s) := rfl

theorem exec_revocationWalkEnd (s : State) : exec .revocationWalkEnd s = execRevocationWalkEnd s := rfl

theorem exec_requestTimeout (dev route seq : Nat) (s : State) :
    exec (.requestTimeout dev route seq) s = execRequestTimeout dev route seq s := rfl

theorem exec_fabricTimeout (s : State) : exec .fabricTimeout s = execFabricTimeout s := rfl

theorem exec_retainGraceExpiry (s : State) : exec .retainGraceExpiry s = execRetainGraceExpiry s := rfl

/-! ## A message accepted or refused (R461) -/

section
variable {s : State} {m : FmHead} {ok : Bool} (f : State → State)

theorem State.fmMessage_accepted (hm : s.fmOk m = true) (hok : ok = true) :
    s.fmMessage m ok f = f (s.modFab (fun x => { x with lastIssue := m.issue })) := if_pos (by rw [hm, hok]; rfl)

theorem State.fmMessage_refused (hok : ok = false) : s.fmMessage m ok f = s.fmRefuse := if_neg (by rw [hok, Bool.and_false]; decide)

end

section
variable {s : State} (hrel : s.hal.reloading = false) (m : FmHead)
include hrel

theorem exec_partitionAssignment_now (p : Nat) (ms ds : List Nat) (root : Bool) (pp : Nat) (cs : List (Nat × Nat)) :
    exec (.partitionAssignment m p ms ds root pp cs) s = .next (doPartitionAssignment m p ms ds root pp cs s) :=
  State.orDefer_now hrel _ _

theorem exec_multicastGroupDefinition_now (g : Nat) (ms : List Nat) :
    exec (.multicastGroupDefinition m g ms) s = .next (doMulticastGroupDefinition m g ms s) := State.orDefer_now hrel _ _

/-- R250, R26: another partition than the one served, or a domain of more than 128 devices, is rejected. -/
theorem exec_partitionAssignment_rejected {p : Nat} (ms : List Nat) {ds : List Nat} (root : Bool) (pp : Nat) (cs : List (Nat × Nat))
    (h : s.fab.partValid = true ∧ s.fab.partition ≠ p ∨ 128 < ds.length) :
    exec (.partitionAssignment m p ms ds root pp cs) s = .next s.fmRefuse := by
  rw [exec_partitionAssignment_now hrel, doPartitionAssignment, State.fmMessage_refused]
  rcases h with ⟨hv, hp⟩ | hd
  · simp [hv, hp]
  · simp [hd]

end

/-! ## A partition formed (R250, R254, R256, R257) -/

theorem State.formPartition_fresh {s : State} (hv : s.fab.partValid = false) (p : Nat) (ms ds : List Nat) (root : Bool) (pp : Nat)
    (cs : List (Nat × Nat)) :
    ∃ t, s.formPartition p ms ds root pp cs = t ∧ t.fab.partition = p ∧ t.fab.partValid = true ∧ t.fab.members = ms ∧
      t.fab.domain = ds ∧ t.fab.outSeq = [] ∧ t.fab.inSeq = [] ∧ t.fab.groups = [] ∧ t.timed.valid = false ∧
      t.timed.root = root ∧ t.timed.children = cs ∧ t.fab.lastIssue = s.fab.lastIssue ∧ t.ctxs = s.ctxs ∧ t.dram = s.dram ∧
      t.tiles = s.tiles ∧ t.mod = s.mod := by
  refine ⟨_, rfl, ?_⟩
  unfold State.formPartition
  simp only [State.modFab_fields, hv, Bool.false_and, Bool.not_false, if_true]
  rw [(State.setPath_marks _ uniformPath).2]
  refine ⟨rfl, rfl, rfl, rfl, rfl, rfl, rfl, rfl, rfl, rfl, rfl, ?_⟩
  simp

/-! ## What a revocation ends (R270) -/

/-- The region of the partition cut off, and its contexts stopped. -/
def State.partStopped (s : State) (code : Code) : State :=
  s.partCtxs.foldl (fun u c => u.takeFault c none (faultOf code 0)) (s.abortRegion (faultOf code 0))

/-- `t` is `s` as to the module, the clock and the memory of the host. -/
def State.sameModule (s t : State) : Prop := t.mod = s.mod ∧ t.tick = s.tick ∧ t.hostMem = s.hostMem

theorem State.sameModule.trans {s t u : State} (h : s.sameModule t) (h' : t.sameModule u) : s.sameModule u :=
  ⟨h'.1.trans h.1, h'.2.1.trans h.2.1, h'.2.2.trans h.2.2⟩

/-- R303, R356: the stop leaves the fabric's own state and no region. -/
theorem State.partStopped_facts (s : State) (code : Code) : s.sameModule (s.partStopped code) ∧
    (s.partStopped code).fab = s.fab ∧ (s.partStopped code).timed.region = none := by
  have hfold : ∀ {γ : Type} (p : State → γ), (∀ (u : State) c f, p (u.takeFault c none f) = p u) →
      p (s.partStopped code) = p (s.abortRegion (faultOf code 0)) := fun p hp => foldl_field p (fun u c => hp u c _) _ _
  refine ⟨⟨?_, ?_, ?_⟩, ?_, ?_⟩
  · rw [hfold State.mod fun u c f => by simp]; simp
  · rw [hfold State.tick fun u c f => by simp]; simp
  · rw [hfold State.hostMem fun u c f => by simp]; simp
  · rw [hfold State.fab fun u c f => by simp]; simp
  · rw [hfold (fun u => u.timed.region) fun u c f => by simp]
    cases hr : s.timed.region with
    | none => rw [State.abortRegion, hr]; exact hr
    | some r => exact State.abortRegion_region _ hr

theorem State.endWalks_fields (s : State) : s.endWalks.mod = s.mod ∧ s.endWalks.tick = s.tick ∧ s.endWalks.hostMem = s.hostMem ∧
    s.endWalks.fab = s.fab ∧ s.endWalks.timed = s.timed ∧ s.endWalks.flights = s.flights := by
  rw [State.endWalks_frame]
  exact ⟨rfl, rfl, rfl, rfl, rfl, rfl⟩

/-- R241, R245: nothing of the partition is under way any more. -/
theorem State.dropRemote_facts (s : State) : s.sameModule s.dropRemote ∧
    s.dropRemote.fab = { s.fab with out := [], early := [], reports := [] } ∧ s.dropRemote.timed = s.timed ∧
    s.dropRemote.flights = s.flights.filter (fun a => !a.place.isRemote) := by
  unfold State.dropRemote State.sameModule
  simp [State.endWalks_fields]

/-- R271: what is neither in its grace period nor another partition's is out of the aperture. -/
theorem State.graceObjs_facts (s : State) (cs : List Nat) : s.sameModule (s.graceObjs cs) ∧ (s.graceObjs cs).fab = s.fab ∧
    (s.graceObjs cs).timed = s.timed ∧ (s.graceObjs cs).flights = s.flights ∧
    ∀ o ∈ (s.graceObjs cs).objs, o.grace = true ∨ o.aperture = none := by
  refine ⟨⟨rfl, rfl, rfl⟩, rfl, rfl, rfl, fun o ho => ?_⟩
  obtain ⟨p, -, rfl⟩ := List.mem_map.mp (List.mem_filter.mp ho).1
  dsimp only
  split
  · split
    · exact .inr rfl
    · exact .inl rfl
  · split
    · next h => exact .inl h
    · exact .inr rfl

/-- The walk that a revocation begins (R244). -/
def State.revokeWalk (s : State) : Walk :=
  { id := s.nextId, kind := .revoke, ranges := some (s.fab.members.map (fun d => (d, 0, 2 ^ 33))), who := .device,
    untilTick := some (s.wet.toNat + 16384), acks := [], ended := false }

theorem State.revoke_eq (s : State) (code : Code) : ∃ u : State, u = (s.partStopped code).dropRemote.graceObjs s.partCtxs ∧
    s.revoke code = ({ u.fresh with walks := u.walks ++ [u.revokeWalk] } : State).dropEpoch.modFab (fun f =>
      { f with partValid := false, revoked := addNew f.revoked f.partition }) := ⟨_, rfl, rfl⟩

/-- R244, R270: a revocation leaves no partition served, nothing of it under way and no aperture but of retained objects. -/
theorem State.revoke_facts (s : State) (code : Code) : ∃ t, s.revoke code = t ∧ t.fab.partValid = false ∧
    s.fab.partition ∈ t.fab.revoked ∧ t.timed.region = none ∧ t.timed.valid = false ∧ t.fab.out = [] ∧ t.fab.reports = [] ∧
    (∀ a ∈ t.flights, a.place.isRemote = false) ∧ (∀ o ∈ t.objs, o.grace = true ∨ o.aperture = none) ∧ s.sameModule t := by
  obtain ⟨u, hu, hrevoke⟩ := s.revoke_eq code
  obtain ⟨hmodStop, hfabStop, hregion⟩ := s.partStopped_facts code
  obtain ⟨hmodDrop, hfabDrop, htimedDrop, hflightsDrop⟩ := (s.partStopped code).dropRemote_facts
  obtain ⟨hmodGrace, hfabGrace, htimedGrace, hflightsGrace, hobjs⟩ := (s.partStopped code).dropRemote.graceObjs_facts s.partCtxs
  rw [← hu] at hmodGrace hfabGrace htimedGrace hflightsGrace hobjs
  have hfab : u.fab = { s.fab with out := [], early := [], reports := [] } := by rw [hfabGrace, hfabDrop, hfabStop]
  refine ⟨_, hrevoke, rfl, ?_, ?_, rfl, ?_, ?_, fun a ha => ?_, hobjs, (hmodStop.trans hmodDrop).trans hmodGrace⟩
  · show s.fab.partition ∈ addNew u.fab.revoked u.fab.partition
    rw [hfab]
    exact mem_addNew.mpr (.inr rfl)
  · exact (congrArg Timed.region (htimedGrace.trans htimedDrop)).trans hregion
  · exact congrArg Fabric.out hfab
  · exact congrArg Fabric.reports hfab
  · have hlocal : a ∈ u.flights := ha
    rw [hflightsGrace, hflightsDrop] at hlocal
    simpa using (List.mem_filter.mp hlocal).2

/-- R270: the manager's revocation of the partition served. -/
theorem exec_partitionRevocation_served {s : State} {m : FmHead} (hm : s.fmOk m = true) (hv : s.fab.partValid = true) :
    exec (.partitionRevocation m s.fab.partition) s =
      .next ((s.modFab (fun x => { x with lastIssue := m.issue })).revoke .partitionRevoked) := by
  rw [exec_partitionRevocation, doPartitionRevocation, State.fmMessage_accepted _ hm rfl]
  exact congrArg Host.Outcome.next (if_pos (by simp [hv]))

end Sys2Proof.Machine
end

section
/-! O15: the walk's end, the timeouts of requests and of the partition, the grace period (R244, R269, R271), and the obligation. -/

namespace Sys2Proof.Machine

/-! ## The end of the walk (R244) -/

/-- R402: with nothing held back, the commands that waited are none. -/
theorem State.retryHeld_none {s : State} (h : s.adminHeld = []) : s.retryHeld = s := by
  unfold State.retryHeld
  rw [h, List.foldl_nil, ← h]
  exact ite_self _

theorem State.revokeLines_cistern (s : State) (devs : List Nat) :
    ∀ e ∈ (s.revokeLines devs).cistern, ∀ l ∈ e.2, devs.elem l.dev = false := by
  intro e he l hl
  obtain ⟨e', -, rfl⟩ := List.mem_map.mp (List.mem_filter.mp he).1
  simpa using (List.mem_filter.mp hl).2

/-- Invalidating lines logs those that were dirty; walks and commands held back stay. -/
theorem State.revokeLines_fields (s : State) (devs : List Nat) :
    (s.revokeLines devs).walks = s.walks ∧ (s.revokeLines devs).adminHeld = s.adminHeld := by
  have hlog : ∀ {γ : Type} (p : State → γ), (∀ u l, p (State.logEntry u .revokedLine l) = p u) → ∀ ls : List Line,
      p (ls.foldl (fun u l => u.logEntry .revokedLine [l.dev, l.tag]) s) = p s := fun p hp ls => foldl_field p (fun u l => hp u _) ls s
  exact ⟨hlog State.walks (fun _ _ => rfl) _, hlog State.adminHeld (fun _ _ => rfl) _⟩

theorem exec_revocationWalkEnd_one {s : State} {w : Walk} {rs : List (Nat × Nat × Nat)} (hw : s.walks = [w]) (hkind : w.kind = .revoke)
    (hranges : w.ranges = some rs) (huntil : w.untilTick = none) (hheld : s.adminHeld = []) :
    exec .revocationWalkEnd s = .next { s.revokeLines (rs.map (fun r => r.1)) with walks := [] } := by
  obtain ⟨hwalks, hkept⟩ := s.revokeLines_fields (rs.map (fun r => r.1))
  have hfind : s.walks.find? (fun w => decide (w.kind = .revoke)) = some w := by rw [hw, List.find?_cons, hkind]; rfl
  rw [exec_revocationWalkEnd, execRevocationWalkEnd, hfind]
  simp only [huntil, hranges, Option.getD_some]
  have hover : (s.revokeLines (rs.map (fun r => r.1))).walks.filter (fun x => x.id != w.id) = [] := by rw [hwalks, hw]; simp
  rw [hover, State.retryHeld_none (by exact hkept.trans hheld)]

theorem exec_revocationWalkEnd_none {s : State} (hw : s.walks = []) (hheld : s.adminHeld = []) :
    exec .revocationWalkEnd s = .next s := by
  rw [exec_revocationWalkEnd, execRevocationWalkEnd, hw, List.find?_nil, State.retryHeld_none hheld]

/-! ## Timeouts (R269) -/

theorem exec_requestTimeout_one {s : State} {r : OutReq} (hout : s.fab.out = [r]) (hleft : r.left = true)
    (hfirst : r.reported = false) (hdue : r.sentAt + s.fab.reqTimeout * 60000 ≤ s.tick.toNat) :
    exec (.requestTimeout r.dev r.route r.seq) s = .next { s with
      fab := { s.fab with out := [{ r with reported := true }], reports := s.fab.reports ++ [(r.dev, s.hal.ms)] }
      sent := .timeoutReport r.dev r.route r.seq r.port r.plane :: s.sent } := by
  have hfind : s.fab.out.find? (fun x => x.left && !x.reported &&
      decide (x.sentAt + s.fab.reqTimeout * quantumTicks ≤ s.tick.toNat) && x.dev == r.dev && x.route == r.route && x.seq == r.seq) =
      some r := by
    rw [hout, List.find?_cons]
    simp [hleft, hfirst, quantumTicks, hdue]
  rw [exec_requestTimeout, execRequestTimeout, hfind]
  simp [State.modFab, State.emit, hout, modIf]

theorem exec_fabricTimeout_due {s : State} {r : Nat × Nat} (hv : s.fab.partValid = true) (hr : r ∈ s.fab.reports)
    (hdue : r.2 + 1000 ≤ s.hal.ms) : exec .fabricTimeout s = .next (s.revoke .fabricTimeout) := by
  have hany : s.fab.reports.any (fun r => decide (r.2 + 1000 ≤ s.hal.ms)) = true := List.any_eq_true.mpr ⟨r, hr, decide_eq_true hdue⟩
  rw [exec_fabricTimeout, execFabricTimeout, hv, hany]
  rfl

theorem exec_fabricTimeout_early {s : State} (h : ∀ r ∈ s.fab.reports, s.hal.ms < r.2 + 1000) : exec .fabricTimeout s = .next s := by
  have hany : s.fab.reports.any (fun r => decide (r.2 + 1000 ≤ s.hal.ms)) = false :=
    List.any_eq_false.mpr fun r hr => by simpa using h r hr
  rw [exec_fabricTimeout, execFabricTimeout, hany, Bool.and_false]
  rfl

/-! ## The grace period (R271) -/

section
variable {s : State} {o : Obj} (hobjs : s.objs = [o]) (hgrace : o.grace = true)
include hobjs hgrace

theorem exec_retainGraceExpiry_one : exec .retainGraceExpiry s =
    if s.hal.ms < o.since + s.fab.retainGrace * 1000 then .next s else .next { s.zeroRange o.dpa o.size with objs := [] } := by
  have hdates : (s.objs.filter (fun o => o.grace)).map (fun o => o.since) = [o.since] := by simp [hobjs, hgrace]
  rw [exec_retainGraceExpiry, execRetainGraceExpiry, hdates]
  simp [hobjs, hgrace, dropIf, State.zeroRange, State.forget]

theorem exec_retainGraceExpiry_due (hdue : o.since + s.fab.retainGrace * 1000 ≤ s.hal.ms) :
    ∃ t, exec .retainGraceExpiry s = .next t ∧ t.objs = [] ∧ (∀ a, o.dpa ≤ a → a < o.dpa + o.size → t.dram.read a = 0) ∧
      (∀ a, a < o.dpa ∨ o.dpa + o.size ≤ a → t.dram.read a = s.dram.read a) ∧ t.ctxs = s.ctxs :=
  ⟨_, (exec_retainGraceExpiry_one hobjs hgrace).trans (if_neg (not_lt.mpr hdue)), rfl,
    fun _ hlo hhi => Mem.read_zero_in _ _ _ _ ⟨hlo, hhi⟩, fun _ ha => Mem.read_zero _ _ _ _ ha, rfl⟩

end

theorem exec_retainGraceExpiry_none {s : State} (h : s.objs.all (fun o => !o.grace) = true) : exec .retainGraceExpiry s = .next s := by
  have hnone : s.objs.filter (fun o => o.grace) = [] := List.filter_eq_nil_iff.mpr fun o ho => by simpa using List.all_eq_true.mp h o ho
  rw [exec_retainGraceExpiry, execRetainGraceExpiry, hnone]
  rfl

/-- Settles O15: a manager's message takes effect when its fields fit, and a revocation, whoever orders it, ends all of the
partition's work in one state. -/
theorem partitionsAreFormedAndRevoked : Obligations.PartitionsAreFormedAndRevoked := by
  refine ⟨fun s m p ms ds root pp cs hrel hm hv hp hds => ?_,
    fun s m p ms ds root pp cs hrel hv hp => exec_partitionAssignment_rejected hrel m ms root pp cs (.inl ⟨hv, hp⟩),
    fun s m p ms ds root pp cs hrel hds => exec_partitionAssignment_rejected hrel m ms root pp cs (.inr hds),
    fun s m g ms hrel hm hv hg hms hin => ?_, fun s m hm hv => ?_, fun s r hv hr hdue => ?_,
    fun s h => exec_fabricTimeout_early h, fun s w rs hw hkind hranges huntil hheld => ?_,
    fun s hw hheld => exec_revocationWalkEnd_none hw hheld, fun s r hout hleft hfirst hdue => exec_requestTimeout_one hout hleft hfirst hdue,
    fun s o hobjs hgrace hdue => exec_retainGraceExpiry_due hobjs hgrace hdue,
    fun s o hobjs hgrace hearly => (exec_retainGraceExpiry_one hobjs hgrace).trans (if_pos hearly),
    fun s h => exec_retainGraceExpiry_none h⟩
  · rw [exec_partitionAssignment_now hrel, doPartitionAssignment, State.fmMessage_accepted _ hm (by rw [decide_eq_true hp, decide_eq_true hds, hv]; rfl)]
    obtain ⟨t, ht, hformed⟩ := State.formPartition_fresh (s := s.modFab (fun x => { x with lastIssue := m.issue })) hv p ms ds root pp cs
    exact ⟨t, congrArg _ ht, hformed⟩
  · have hmembers : ms.all (fun d => s.fab.members.elem d) = true := List.all_eq_true.mpr fun d hd => List.elem_iff.mpr (hin d hd)
    rw [exec_multicastGroupDefinition_now hrel, doMulticastGroupDefinition, State.fmMessage_accepted _ hm (by rw [hv, hmembers]; simp [hg, hms])]
    rfl
  · obtain ⟨t, ht, hvalid, hrevoked, hregion, hepoch, hout, -, hflights, hobjs, hmod, htick, hhost⟩ :=
      (s.modFab (fun x => { x with lastIssue := m.issue })).revoke_facts .partitionRevoked
    exact ⟨t, (exec_partitionRevocation_served hm hv).trans (congrArg _ ht), hvalid, hrevoked, hregion, hepoch, hout, hflights, hobjs, hmod,
      htick, hhost⟩
  · obtain ⟨t, ht, hvalid, -, -, -, hout, hreports, -⟩ := s.revoke_facts .fabricTimeout
    exact ⟨t, (exec_fabricTimeout_due hv hr hdue).trans (congrArg _ ht), hvalid, hreports, hout⟩
  · refine ⟨_, exec_revocationWalkEnd_one hw hkind hranges huntil hheld, rfl, fun r hr e he l hl hdev => ?_⟩
    have hgone := s.revokeLines_cistern (rs.map (fun r => r.1)) e he l hl
    rw [hdev, List.elem_iff.mpr (List.mem_map_of_mem hr)] at hgone
    cases hgone

end Sys2Proof.Machine
end

section
/-! BAR4, the admin queue's enable, MSI-X unmasking, invalidations (R225, R239, R336, R338, R349, R485, R487). -/

namespace Sys2Proof.Machine

theorem exec_adminQueueEnable (f : Nat) (b : Bool) (n : Nat) (s : State) :
    exec (.adminQueueEnable f b n) s = execAdminQueueEnable f b n s := rfl

theorem exec_bar4WindowWrite (b : Nat) (s : State) : exec (.bar4WindowWrite b) s = execBar4WindowWrite b s := rfl

theorem exec_bar4Write (off : Nat) (d : List Byte) (s : State) : exec (.bar4Write off d) s = execBar4Write off d s := rfl

theorem exec_bar4Read (off n : Nat) (s : State) : exec (.bar4Read off n) s = execBar4Read off n s := rfl

theorem exec_msixUnmask (f e : Nat) (s : State) : exec (.msixUnmask f e) s = execMsixUnmask f e s := rfl

theorem exec_functionLevelReset (f : Nat) (s : State) : exec (.functionLevelReset f) s = execFunctionLevelReset f s := rfl

theorem exec_vfDisable (s : State) : exec .vfDisable s = .next s.dropVfs := rfl

theorem exec_atsInvalidation (p i n : Nat) (s : State) : exec (.atsInvalidation p i n) s = execAtsInvalidation p i n s := rfl

/-! ## The blocks of a function (R471, R487) -/

@[simp] theorem State.fn_modFn (s : State) (f k : Nat) (g : Fn → Fn) : (s.modFn f g).fn k = if k = f then g (s.fn f) else s.fn k :=
  tabGet_tabMod _ _ _ _ _

theorem exec_undecoded {s : State} (h : s.sec.running = none ∨ s.mod.hostUp = false) (f n : Nat) :
    (∀ b, exec (.adminQueueEnable f b n) s = .next s) ∧ exec (.bar4WindowWrite n) s = .next s ∧
    exec (.msixUnmask f n) s = .next s := by
  have hclosed : s.fnDecoded = false := by
    rcases h with h | h
    · rw [State.fnDecoded, h]; rfl
    · rw [State.fnDecoded, h, Bool.and_false]
  refine ⟨fun b => ?_, ?_, ?_⟩
  · rw [exec_adminQueueEnable, execAdminQueueEnable, hclosed]; rfl
  · rw [exec_bar4WindowWrite, execBar4WindowWrite, hclosed]; rfl
  · rw [exec_msixUnmask, execMsixUnmask, hclosed]; rfl

section
variable {s : State} {f : Nat} (hdec : s.fnDecoded = true) (hen : (s.fn f).enabled = true)
include hdec

theorem exec_adminQueueEnable_decoded (b : Bool) (n : Nat) : exec (.adminQueueEnable f b n) s = .next (doAdminQueueEnable f b n s) := by
  rw [exec_adminQueueEnable, execAdminQueueEnable, if_pos hdec]

theorem exec_bar4WindowWrite_base (b : Nat) : exec (.bar4WindowWrite b) s = .next { s with bar4Base := b % 2 ^ 19 } := by
  rw [exec_bar4WindowWrite, execBar4WindowWrite, if_pos hdec]
  rfl

include hen

/-- R487: ENABLE set from 0 starts the queue; set again, it changes nothing. -/
theorem adminQueueEnable_set (n : Nat) : ∃ t : State, exec (.adminQueueEnable f true n) s = .next t ∧ (t.fn f).enable = true ∧
    t.ctxs = s.ctxs ∧
    ((s.fn f).enable = false → (t.fn f).p = 0 ∧ (t.fn f).c = 0 ∧ (t.fn f).stopped = false ∧
      (t.fn f).log2 = if 4 ≤ n ∧ n ≤ 16 then n else (s.fn f).log2) ∧
    ((s.fn f).enable = true → (t.fn f).p = (s.fn f).p ∧ (t.fn f).c = (s.fn f).c ∧ (t.fn f).log2 = (s.fn f).log2) := by
  refine ⟨_, exec_adminQueueEnable_decoded hdec true n, ?_⟩
  rw [doAdminQueueEnable, hen]
  simp only [Bool.not_true, Bool.false_eq_true, if_false, State.fn_modFn, if_true]
  cases hold : (s.fn f).enable with
  | false =>
    by_cases hn : 4 ≤ n ∧ n ≤ 16
    · simp [hn]
    · simp [hold, -not_and, hn]
  | true => simp [hold]

/-- R487: ENABLE cleared keeps both counts. -/
theorem adminQueueEnable_cleared (n : Nat) : ∃ t : State, exec (.adminQueueEnable f false n) s = .next t ∧ (t.fn f).enable = false ∧
    (t.fn f).p = (s.fn f).p ∧ (t.fn f).c = (s.fn f).c := by
  refine ⟨_, exec_adminQueueEnable_decoded hdec false n, ?_⟩
  rw [doAdminQueueEnable, hen]
  simp only [Bool.not_true, Bool.false_eq_true, if_false, State.fn_modFn, if_true, Bool.false_and]
  split <;> simp

/-- R349: a vector unmasked sends what it held back. -/
theorem msixUnmask_sends {e : Nat} (he : e < s.vectors f) : ∃ t : State, (tabGet (t.fn f).vectors Vector.reset e).masked = false ∧
    (tabGet (t.fn f).vectors Vector.reset e).pending = false ∧ (t.fn f).msixEnable = true ∧ (t.fn f).funcMask = false ∧
    t.ctxs = s.ctxs ∧ t.sent = s.sent ∧ exec (.msixUnmask f e) s =
      .next (if (tabGet (s.fn f).vectors Vector.reset e).pending then t.emit (.msix f e) else t) := by
  refine ⟨s.modFn f (fun x => { x with msixEnable := true, funcMask := false, vectors := tabMod x.vectors Vector.reset e (fun v =>
    { v with masked := false, pending := false }) }), ?_, ?_, ?_, ?_, rfl, rfl, ?_⟩
  · simp
  · simp
  · simp
  · simp
  · rw [exec_msixUnmask, execMsixUnmask, if_pos hdec, doMsixUnmask, hen, decide_eq_false (not_le.mpr he)]
    rfl

end

/-! ## BAR4 (R239, R338, R485) -/

theorem State.bar4Bad_iff (s : State) (a n : Nat) : s.bar4Bad a n = true ↔ memBytes < a + n ∨ s.meetsReserved a n = true := by
  simp [State.bar4Bad]

theorem exec_bar4_shut {s : State} (h : s.mod.hostUp = false ∨ s.mod.memTrained = false) (off n : Nat) (d : List Byte) :
    exec (.bar4Write off d) s = .next s ∧ exec (.bar4Read off n) s = .next s := by
  have hshut : ∀ n, s.bar4Open off n = false := fun n => by rcases h with h | h <;> simp [State.bar4Open, h]
  refine ⟨?_, ?_⟩
  · rw [exec_bar4Write, execBar4Write, hshut]; rfl
  · rw [exec_bar4Read, execBar4Read, hshut]; rfl

/-- A read within one line that holds no poison returns the home's bytes. -/
theorem State.bar4Bytes_line {s : State} {a n : Nat} (hn : 0 < n) (hfit : a % 128 + n ≤ 128) (hclean : s.poisoned a n = false) :
    s.bar4Bytes a n = (s.homeBytes a n, s.loadEffect (a / 128) (a % 128) n 0) := by
  have hat : a / 128 * 128 + a % 128 = a := by omega
  rw [State.bar4Bytes, partsOf_line hn hfit, List.foldl_cons, List.foldl_nil, State.loadLine]
  dsimp only
  rw [hat, hclean]
  rfl

theorem Line.plain.comp {f g : Line → Line} (hf : Line.plain f) (hg : Line.plain g) : Line.plain (fun l => f (g l)) :=
  ⟨fun l => (hf.1 (g l)).trans (congrArg f (hg.1 l)), fun l => ⟨(hf.2 _).1.trans (hg.2 l).1, (hf.2 _).2.trans (hg.2 l).2⟩⟩

/-- Sectors filled leave the line what it is and its keep mark unseen. -/
theorem Line.plain_fillMissing (mask : Nat) (fetch : Nat → List Byte) : Line.plain (fillMissing mask fetch) := by
  have hstep : ∀ i, Line.plain (fun l => if mask.testBit i && !l.valid.getLsbD i then l.fill i (fetch i) else l) := by
    refine fun i => ⟨fun l => ?_, fun l => ?_⟩
    · exact apply_ite Line.body _ _ _
    · dsimp only
      split <;> exact ⟨rfl, rfl⟩
  unfold fillMissing
  induction List.range 4 with
  | nil => exact Line.plain_id
  | cons i is ih => exact ih.comp (hstep i)

/-- R206: a load that is not dead brings its line to hand, at most. -/
theorem State.loadEffect_caches (s : State) (line off n : Nat) {hint : Nat} (hhint : hint ≠ 3) :
    s.cachesOnly (s.loadEffect line off n hint) := by
  rw [State.loadEffect, if_neg hhint]
  cases h : s.touchLine line hint (fillMissing (sectorsOf off n) (fun k => s.fetchSector line k)) with
  | none => exact .refl s
  | some t => exact (State.touchLine_some (Line.plain_fillMissing _ _) h).1.1

section
variable {s : State} (hup : s.mod.hostUp = true) (htrained : s.mod.memTrained = true) {off : Nat}
include hup htrained

theorem State.bar4Open_within {n : Nat} (hfit : off + n ≤ 2 ^ 36) : s.bar4Open off n = true := by
  rw [State.bar4Open, hup, htrained, decide_eq_true hfit]
  rfl

/-- R485: a blocked access is counted, writes nothing and reads zeros. -/
theorem exec_bar4_blocked {d : List Byte} (hfit : off + d.length ≤ 2 ^ 36)
    (hbad : s.bar4Bad (s.bar4Base * 2 ^ 21 + off) d.length = true) :
    exec (.bar4Write off d) s = .next s.countBlocked ∧
    exec (.bar4Read off d.length) s = .next (s.countBlocked.emit (.bar4Data (List.replicate d.length 0))) := by
  have hopen := State.bar4Open_within hup htrained hfit
  refine ⟨?_, ?_⟩
  · rw [exec_bar4Write, execBar4Write]
    simp only [hopen, hbad, Bool.not_true, Bool.false_eq_true, if_false, if_true]
  · rw [exec_bar4Read, execBar4Read]
    simp only [hopen, hbad, Bool.not_true, Bool.false_eq_true, if_false, if_true]

section
variable {n : Nat} (hfit : off + n ≤ 2 ^ 36) (hgood : s.bar4Bad (s.bar4Base * 2 ^ 21 + off) n = false) (hn : 0 < n)
  (hline : off % 128 + n ≤ 128)
include hfit hgood hn hline

/-- R239: the bytes written are at their homes. -/
theorem bar4Write_reads {d : List Byte} (hd : n = d.length)
    (hlen : ∀ l, s.cached ((s.bar4Base * 2 ^ 21 + off) / 128) = some l → l.data.length = 128) :
    ∃ t : State, exec (.bar4Write off d) s = .next t ∧ t.ctxs = s.ctxs ∧ t.bar4Blocked = s.bar4Blocked ∧
      ∀ i, i < n → t.homeByte (s.bar4Base * 2 ^ 21 + off + i) = d.getD i 0 := by
  subst hd
  have hmod : (s.bar4Base * 2 ^ 21 + off) % 128 = off % 128 := by omega
  have hexec : exec (.bar4Write off d) s = .next (s.storeBytes (s.bar4Base * 2 ^ 21 + off) d) := by
    rw [exec_bar4Write, execBar4Write]
    simp only [State.bar4Open_within hup htrained hfit, hgood, Bool.not_true, Bool.false_eq_true, if_false]
  rw [hexec]
  generalize s.bar4Base * 2 ^ 21 + off = a at *
  have hcaches := s.storeRange_caches a 0 (d.map some)
  refine ⟨_, rfl, hcaches.field State.ctxs fun _ _ _ _ _ _ => rfl, hcaches.field State.bar4Blocked fun _ _ _ _ _ _ => rfl, fun i hi => ?_⟩
  have hreads := State.storeLine_reads hlen (off := a % 128) (d := d.map some) (by rw [List.length_map]; omega) 0 (i := i)
    (by rwa [List.length_map]) (b := d.getD i 0) (by simp [hi])
  rw [show a / 128 * 128 + a % 128 + i = a + i by omega] at hreads
  rw [State.storeBytes, State.storeRange_line s (by rwa [List.length_map]) (by rw [List.length_map]; omega), hreads]

/-- R239: a read returns the homes' bytes. -/
theorem bar4Read_reads (hclean : s.poisoned (s.bar4Base * 2 ^ 21 + off) n = false) :
    ∃ t : State, t.ctxs = s.ctxs ∧ t.bar4Blocked = s.bar4Blocked ∧
      exec (.bar4Read off n) s = .next (t.emit (.bar4Data (s.homeBytes (s.bar4Base * 2 ^ 21 + off) n))) := by
  have hexec : exec (.bar4Read off n) s = .next ((s.bar4Bytes (s.bar4Base * 2 ^ 21 + off) n).2.emit
      (.bar4Data (s.bar4Bytes (s.bar4Base * 2 ^ 21 + off) n).1)) := by
    rw [exec_bar4Read, execBar4Read]
    simp only [State.bar4Open_within hup htrained hfit, hgood, Bool.not_true, Bool.false_eq_true, if_false]
  have hcaches := s.loadEffect_caches ((s.bar4Base * 2 ^ 21 + off) / 128) ((s.bar4Base * 2 ^ 21 + off) % 128) n (hint := 0) (by decide)
  rw [hexec, State.bar4Bytes_line hn (by omega) hclean]
  exact ⟨_, hcaches.field State.ctxs fun _ _ _ _ _ _ => rfl, hcaches.field State.bar4Blocked fun _ _ _ _ _ _ => rfl, rfl⟩

end

end

/-! ## Translations (R336) -/

/-- R336: an invalidated range leaves the translation cache, and nothing else does. -/
theorem atsInvalidation_drops (s : State) (p i n : Nat) : ∃ t : State, exec (.atsInvalidation p i n) s = .next t ∧
    (p, i, n) ∈ t.invalid ∧ (∀ e, e ∈ t.ats ↔ e ∈ s.ats ∧ ¬ (e.1 = p ∧ e.2 * 4096 < i + n ∧ i < (e.2 + 1) * 4096)) ∧
    t.ctxs = s.ctxs ∧ t.hostMem = s.hostMem := by
  refine ⟨_, exec_atsInvalidation p i n s, mem_addNew.mpr (.inr rfl), fun e => ?_, rfl, rfl⟩
  refine List.mem_filter.trans (and_congr_right fun _ => ?_)
  simp only [Bool.not_eq_true', ← Bool.not_eq_true, Bool.and_eq_true, beq_iff_eq, decide_eq_true_eq, and_assoc]

end Sys2Proof.Machine
end

section
/-! The end of a context (R355): what it leaves of the table of contexts. -/

namespace Sys2Proof.Machine

/-! ## Entries of a table -/

/-- What is read beside the default stands in the table. -/
theorem mem_of_tabGet_ne {α : Type} {t : Tab α} {d : α} {k : Nat} (h : tabGet t d k ≠ d) : (k, tabGet t d k) ∈ t := by
  induction t with
  | nil => exact absurd rfl h
  | cons e r ih =>
    rw [tabGet] at h ⊢
    split
    · next hk => exact hk ▸ List.mem_cons_self
    · next hk => exact List.mem_cons_of_mem _ (ih (by rwa [if_neg hk] at h))

theorem le_of_mem_tabWfFrom {α : Type} [DecidableEq α] {d : α} {t : Tab α} : ∀ {lo : Nat}, tabWfFrom d lo t = true →
    ∀ e ∈ t, lo ≤ e.1 := by
  induction t with
  | nil => exact fun _ _ he => nomatch he
  | cons a r ih =>
    intro lo h e he
    simp only [tabWfFrom, Bool.and_eq_true, decide_eq_true_eq] at h
    obtain ⟨⟨hlo, -⟩, hr⟩ := h
    rcases List.mem_cons.mp he with rfl | he
    · exact hlo
    · exact hlo.trans (Nat.le_of_succ_le (ih hr e he))

/-- A table in canonical form lists each number once. -/
theorem nodup_of_tabWf {α : Type} [DecidableEq α] {d : α} {t : Tab α} (h : tabWf d t = true) : (t.map (fun e => e.1)).Nodup := by
  unfold tabWf at h
  generalize (0 : Nat) = lo at h
  induction t generalizing lo with
  | nil => exact List.nodup_nil
  | cons a r ih =>
    simp only [tabWfFrom, Bool.and_eq_true, decide_eq_true_eq] at h
    obtain ⟨-, hr⟩ := h
    refine List.nodup_cons.mpr ⟨fun hmem => ?_, ih _ hr⟩
    obtain ⟨e, he, hea⟩ := List.mem_map.mp hmem
    exact Nat.not_succ_le_self _ (hea ▸ le_of_mem_tabWfFrom hr e he)

/-! ## Changes of one context -/

/-- From `s` to `t` no context but `c` changes, and a canonical table stays canonical. -/
def State.changesCtx (c : Nat) (s t : State) : Prop :=
  (∀ k, k ≠ c → t.ctx k = s.ctx k) ∧ (tabWf Ctx.free s.ctxs = true → tabWf Ctx.free t.ctxs = true)

section
variable {s t u : State} {c : Nat}

theorem State.changesCtx_of_eq (h : t.ctxs = s.ctxs) : s.changesCtx c t := by
  refine ⟨fun k _ => State.ctx_congr h k, fun hwf => ?_⟩
  rwa [h]

theorem State.changesCtx.trans (h : s.changesCtx c t) (h' : t.changesCtx c u) : s.changesCtx c u :=
  ⟨fun k hk => (h'.1 k hk).trans (h.1 k hk), fun hwf => h'.2 (h.2 hwf)⟩

theorem State.changesCtx_setCtx (s : State) (c : Nat) (x : Ctx) : s.changesCtx c (s.setCtx c x) :=
  ⟨fun _ hk => (tabGet_tabSet _ _ _ _ _).trans (if_neg hk), fun hwf => tabSet_wf (Nat.zero_le c) hwf⟩

theorem State.changesCtx_modCtx (s : State) (c : Nat) (g : Ctx → Ctx) : s.changesCtx c (s.modCtx c g) := s.changesCtx_setCtx c _

theorem State.changesCtx_recordFault (s : State) (c : Nat) (f : FaultRec) : s.changesCtx c (s.recordFault c f) := by
  unfold State.recordFault
  dsimp only
  split
  · exact s.changesCtx_modCtx c _
  · exact (s.changesCtx_modCtx c (fun x => { x with fault := some { f with tick := s.jobTick } })).trans (State.changesCtx_of_eq (by simp))

/-- R356: a stopping fault is its own context's. -/
theorem State.changesCtx_takeFault (s : State) (c : Nat) (only : Option Nat) (f : FaultRec) : s.changesCtx c (s.takeFault c only f) := by
  cases hst : (s.ctx c).st.stoppable with
  | true =>
    exact State.takeFault_steps hst only f (P := s.changesCtx c) (s.changesCtx_recordFault c f)
      (fun u g _ h => h.trans (u.changesCtx_modCtx c g)) (fun _ _ h => h) (fun u h => h.trans (State.changesCtx_of_eq (by simp)))
      (fun u h => h.trans (State.changesCtx_of_eq (by simp)))
  | false =>
    rw [State.takeFault, if_neg (by rw [hst]; decide)]
    exact State.changesCtx_of_eq rfl

/-- R355 step 2: the region that aborts with a context is that context's. -/
theorem State.changesCtx_abortRegionOf (s : State) (c : Nat) : s.changesCtx c (s.abortRegionOf c) := by
  unfold State.abortRegionOf
  split
  · next r hr =>
    split
    · next hc =>
      subst hc
      rw [State.abortRegion_eq _ hr]
      refine State.changesCtx.trans ?_ (State.changesCtx_takeFault _ _ _ _)
      exact (State.changesCtx_of_eq (by simp)).trans (State.changesCtx_modCtx _ _ _)
    · exact State.changesCtx_of_eq rfl
  · exact State.changesCtx_of_eq rfl

end

/-! ## Work served, lines written back (R213, R355) -/

theorem State.touchCis_remote {s t : State} {dev n hint : Nat} {f : Line → Line} (h : s.touchCis dev n hint f = some t) :
    s.remoteOnly t := by
  have hplaced : ∀ (u : State) k p sl b, u.remoteOnly ((u.setCis k p).countCisDemoted sl b) := fun u k p sl b =>
    ((u.setCis_only k p).trans (State.countCisDemoted_facts _ sl b).1).remote
  refine (s.sweepCis_facts (cisKey dev n)).1.remote.trans ?_
  unfold State.touchCis at h
  dsimp only at h
  generalize s.sweepCis (cisKey dev n) = u at *
  split at h
  · cases h
    exact hplaced _ _ _ _ _
  · split at h
    · cases h
    · cases h
      exact hplaced _ _ _ _ _
    · cases h
      refine State.remoteOnly.trans ?_ (State.sendDirty_remote _ _ _ _).1
      refine State.remoteOnly.trans ?_ (hplaced _ _ _ _ _)
      split
      · exact State.cisOnly.remote rfl
      · exact .refl u

/-- The contexts and the number of VFs. -/
def State.functions (s : State) : Tab Ctx × Nat := (s.ctxs, s.nVf)

theorem State.remoteOnly.functions {s t : State} (h : s.remoteOnly t) : t.functions = s.functions :=
  h.field State.functions fun _ _ _ _ _ _ _ _ => rfl

theorem State.cachesOnly.functions {s t : State} (h : s.cachesOnly t) : t.functions = s.functions :=
  h.field State.functions fun _ _ _ _ _ _ => rfl

theorem State.functions_landStore (s : State) (a : Access) : (s.landStore a).functions = s.functions := by
  unfold State.landStore
  split
  · exact (s.storeLine_caches _ _ _ _).functions
  · next d dev off route slot _ _ =>
    cases h : s.cisStore dev (off / 128) route (off % 128) a.hint d with
    | none => rfl
    | some t =>
      exact (((s.cisUndead_only dev (off / 128)).remote).trans (State.touchCis_remote h)).functions
  · rfl

theorem State.functions_drainCtx (s : State) (c : Nat) : (s.drainCtx c).functions = s.functions :=
  foldl_field State.functions State.functions_landStore _ s

theorem State.functions_writeBackCtx (s : State) (c : Nat) : (s.writeBackCtx c).functions = s.functions := by
  unfold State.writeBackCtx State.writeBackLines
  refine foldl_field (fun acc : State × List (Nat × Nat × Nat) => acc.1.functions) (fun acc l => ?_) _ _
  exact ((State.sendDirty_remote acc.1 l l.route c).1.trans (State.setCis_only _ _ _).remote).functions

/-! ## Contexts destroyed (R355) -/

/-- Process death as far as its context's objects: work served, sync objects poisoned, lines written back. -/
def State.dying (s : State) (c : Nat) : State := (((s.endWork c).poisonOwned c 1).dropWaits c).writeBackCtx c

theorem State.functions_dying (s : State) (c : Nat) : (s.dying c).functions = (s.abortRegionOf c).functions := by
  have hpoison : ∀ u : State, ((u.poisonOwned c 1).dropWaits c).functions = u.functions := fun u => by simp [State.functions]
  rw [State.dying, State.functions_writeBackCtx, hpoison]
  exact State.functions_drainCtx _ c

theorem State.destroyCtx_eq {s : State} {c : Nat} (hst : (s.ctx c).st ≠ .free) : ∃ ts f, s.destroyCtx c =
    ({ (s.dying c).releaseObjs c with tiles := ts } : State).setCtx c { Ctx.free with fn := f } := ⟨_, _, if_neg hst⟩

/-- What process death leaves of the contexts: the region's end, and then a free record. -/
theorem State.functions_destroyCtx {s : State} {c : Nat} (hst : (s.ctx c).st ≠ .free) : ∃ f,
    (s.destroyCtx c).ctxs = ((s.abortRegionOf c).setCtx c { Ctx.free with fn := f }).ctxs ∧ (s.destroyCtx c).nVf = s.nVf := by
  obtain ⟨ts, f, heq⟩ := State.destroyCtx_eq hst
  obtain ⟨hctxs, hvfs⟩ := Prod.mk.inj (s.functions_dying c)
  rw [heq]
  generalize s.dying c = u at hctxs hvfs
  exact ⟨f, congrArg (fun t => tabSet t Ctx.free c { Ctx.free with fn := f }) hctxs, Eq.trans hvfs (by simp)⟩

theorem State.destroyCtx_facts (s : State) (c : Nat) : s.changesCtx c (s.destroyCtx c) ∧ ((s.destroyCtx c).ctx c).st = .free ∧
    (s.destroyCtx c).nVf = s.nVf := by
  by_cases hst : (s.ctx c).st = .free
  · rw [State.destroyCtx, if_pos hst]
    exact ⟨State.changesCtx_of_eq rfl, hst, rfl⟩
  · obtain ⟨f, hctxs, hvfs⟩ := State.functions_destroyCtx hst
    refine ⟨((s.changesCtx_abortRegionOf c).trans (State.changesCtx_setCtx _ c _)).trans (State.changesCtx_of_eq hctxs), ?_, hvfs⟩
    rw [State.ctx_congr hctxs]
    exact congrArg Ctx.st ((tabGet_tabSet _ _ _ _ _).trans (if_pos rfl))

/-- Contexts destroyed one after another: each is free, the others are as they were. -/
theorem foldl_destroyCtx (l : List Nat) : ∀ s : State, (∀ c ∈ l, ((l.foldl State.destroyCtx s).ctx c).st = .free) ∧
    (∀ c, c ∉ l → (l.foldl State.destroyCtx s).ctx c = s.ctx c) ∧ (l.foldl State.destroyCtx s).nVf = s.nVf ∧
    (tabWf Ctx.free s.ctxs = true → tabWf Ctx.free (l.foldl State.destroyCtx s).ctxs = true) := by
  induction l with
  | nil => exact fun _ => ⟨nofun, fun _ _ => rfl, rfl, id⟩
  | cons a r ih =>
    intro s
    obtain ⟨hchange, hfree, hvfs⟩ := s.destroyCtx_facts a
    obtain ⟨hdead, hother, hnum, hwf⟩ := ih (s.destroyCtx a)
    refine ⟨fun c hc => ?_, fun c hc => ?_, hnum.trans hvfs, fun h => hwf (hchange.2 h)⟩
    · by_cases hr : c ∈ r
      · exact hdead c hr
      · obtain rfl := (List.mem_cons.mp hc).resolve_right hr
        exact (congrArg Ctx.st (hother c hr)).trans hfree
    · obtain ⟨hca, hcr⟩ := not_or.mp (List.mem_cons.not.mp hc)
      exact (hother c hcr).trans (hchange.1 c hca)

theorem State.mem_liveCtxs {s : State} {c : Nat} (h : (s.ctx c).st ≠ .free) : c ∈ s.liveCtxs :=
  List.mem_map.mpr ⟨(c, s.ctx c), List.mem_filter.mpr ⟨mem_of_tabGet_ne fun he => h (congrArg Ctx.st he), by simpa using h⟩, rfl⟩

/-- Of the contexts, those that a choice names are free once they have been destroyed. -/
theorem State.foldl_destroyCtx_live (s : State) (p : Nat → Bool) {c : Nat} (hc : p c = true) :
    (((s.liveCtxs.filter p).foldl State.destroyCtx s).ctx c).st = .free := by
  obtain ⟨hdead, hother, -⟩ := foldl_destroyCtx (s.liveCtxs.filter p) s
  by_cases hmem : c ∈ s.liveCtxs.filter p
  · exact hdead c hmem
  · rw [hother c hmem]
    exact by_contra fun hst => hmem (List.mem_filter.mpr ⟨State.mem_liveCtxs hst, hc⟩)

end Sys2Proof.Machine
end

section
/-! O52: function-level resets and the VFs disabled (R339, R355), and the obligation. -/

namespace Sys2Proof.Machine

/-- R355: a function that is reset has no context left, and its MSI-X capability is reset. -/
theorem State.resetFn_facts (s : State) (f : Nat) : ((s.resetFn f).fn f).vectors = [] ∧ ((s.resetFn f).fn f).msixEnable = false ∧
    ((s.resetFn f).fn f).funcMask = false ∧ (s.resetFn f).nVf = s.nVf ∧
    ∀ c, (s.ctx c).fn = f → ((s.resetFn f).ctx c).st = .free := by
  unfold State.resetFn
  dsimp only
  rw [State.fn_modFn, if_pos rfl]
  exact ⟨rfl, rfl, rfl, (foldl_destroyCtx _ s).2.2.1, fun c hc => s.foldl_destroyCtx_live (fun c => (s.ctx c).fn == f) (beq_iff_eq.mpr hc)⟩

/-- R339, R355: with the VFs disabled each context is the PF's, and those that were a VF's are free. -/
theorem State.dropVfs_facts {s : State} (hwf : tabWf Ctx.free s.ctxs = true) : s.dropVfs.nVf = 0 ∧
    (∀ c, (s.dropVfs.ctx c).fn = 0 ∧ ((s.ctx c).fn ≠ 0 → (s.dropVfs.ctx c).st = .free)) ∧ ∀ f, f ≠ 0 → s.dropVfs.fn f = Fn.reset := by
  have hctx : ∀ c, s.dropVfs.ctx c =
      { ((s.liveCtxs.filter (fun c => (s.ctx c).fn != 0)).foldl State.destroyCtx s).ctx c with fn := 0 } := by
    intro c
    have hkeys := nodup_of_tabWf ((foldl_destroyCtx (s.liveCtxs.filter (fun c => (s.ctx c).fn != 0)) s).2.2.2 hwf)
    refine (tabGet_filter Ctx.free ?_ c).trans (tabGet_map _ (fun x : Ctx => { x with fn := 0 }) rfl c)
    rwa [List.map_map]
  refine ⟨rfl, fun c => ?_, fun f hf => ?_⟩
  · rw [hctx]
    exact ⟨rfl, fun hc => s.foldl_destroyCtx_live (fun c => (s.ctx c).fn != 0) (bne_iff_ne.mpr hc)⟩
  · refine tabGet_absent _ fun hmem => ?_
    obtain ⟨e, he, rfl⟩ := List.mem_map.mp hmem
    exact hf (beq_iff_eq.mp (List.mem_filter.mp he).2)

theorem exec_functionLevelReset_enabled {s : State} {f : Nat} (hen : (s.fn f).enabled = true) :
    exec (.functionLevelReset f) s = .next ((if f = 0 then s.dropVfs else s).resetFn f) := by
  rw [exec_functionLevelReset, execFunctionLevelReset, hen]
  rfl

/-- Settles O52: each access, message and reset of the host port by its own lemma. -/
theorem theHostPortServesWindowsMessagesAndResets : Obligations.TheHostPortServesWindowsMessagesAndResets := by
  refine ⟨fun s f n h => exec_undecoded h f n,
    fun s f n hdec hen => ⟨adminQueueEnable_set hdec hen n, adminQueueEnable_cleared hdec hen n⟩,
    fun s b hdec => exec_bar4WindowWrite_base hdec b, fun s off n d h => exec_bar4_shut h off n d,
    fun s off n d hup htrained hd hfit => ⟨fun hbad => ?_, fun hgood hn hline =>
      ⟨bar4Write_reads hup htrained hfit hgood hn hline hd, bar4Read_reads hup htrained hfit hgood hn hline⟩⟩,
    fun s a n => s.bar4Bad_iff a n, fun s f e hdec hen he => msixUnmask_sends hdec hen he, fun s f hen hf => ?_, fun s hwf hen => ?_,
    fun s f hoff => ?_, fun s hwf => ⟨_, exec_vfDisable s, State.dropVfs_facts hwf⟩, fun s p i n => atsInvalidation_drops s p i n⟩
  · subst hd
    exact exec_bar4_blocked hup htrained hfit hbad
  · rw [exec_functionLevelReset_enabled hen, if_neg hf]
    exact ⟨_, rfl, s.resetFn_facts f⟩
  · rw [exec_functionLevelReset_enabled hen, if_pos rfl]
    obtain ⟨hvfs, hctxs, -⟩ := State.dropVfs_facts hwf
    obtain ⟨hvectors, hmsix, -, hnum, hfree⟩ := s.dropVfs.resetFn_facts 0
    exact ⟨_, rfl, hnum.trans hvfs, hvectors, hmsix, fun c => hfree c (hctxs c).1⟩
  · rw [exec_functionLevelReset, execFunctionLevelReset, hoff]
    rfl

end Sys2Proof.Machine
end

section
/-! An admin command at the front of its ring (R244, R345, R402). -/

namespace Sys2Proof.Machine

/-! ## A command goes on, or waits -/

section
variable {s : State} {f type e r : Nat} {d : BitVec 512} {pf : Bool} {i : Instr}

theorem State.adminBlocked_alone (hheld : s.adminHeld = []) (i : Instr) : s.adminBlocked i = s.adminWaits i := by
  rw [State.adminBlocked, hheld]
  rfl

section
variable (hrel : s.hal.reloading = false) (hheld : s.adminHeld = []) (g : State → State)
include hrel hheld

theorem State.adminNow_alone : s.adminNow i g = .next (if s.adminWaits i then s.holdBack i else g s) := by
  rw [State.adminNow, State.orDefer_now hrel, State.retryHeld_none hheld]
  dsimp only
  rw [State.adminBlocked_alone hheld]

theorem State.adminNow_goes (hwait : s.adminWaits i = false) : s.adminNow i g = .next (g s) := by
  rw [State.adminNow_alone hrel hheld, hwait]
  rfl

theorem State.adminNow_waits (hwait : s.adminWaits i = true) : s.adminNow i g = .next (s.holdBack i) := by
  rw [State.adminNow_alone hrel hheld, hwait]
  rfl

end

/-- What waited alone has its effect once it no longer waits. -/
theorem State.retryHeld_one (hrel : s.hal.reloading = false) (hheld : s.adminHeld = [i]) (hwait : s.adminWaits i = false) :
    s.retryHeld = ({ s with adminHeld := [] } : State).runAdmin i := by
  have hfree : ({ s with adminHeld := [] } : State).adminWaits i = false := hwait
  rw [State.retryHeld, if_neg (by rw [hrel]; decide), hheld, List.foldl_cons, List.foldl_nil, State.adminStep,
    State.adminBlocked_alone rfl, hfree]
  rfl

theorem State.admin_due (hturn : s.adminTurn f) : (!(s.fn f).enabled || !(s.fn f).enable || (s.fn f).p == (s.fn f).c) = false := by
  obtain ⟨_, hen, hqueue, hcount, _⟩ := hturn
  rw [hen, hqueue, beq_eq_false_iff_ne.mpr hcount]
  rfl

section
variable (hturn : s.adminTurn f) (hbad : s.adminBad f d type pf = none) (hwait : s.adminWaits i = false)
  {g : State → Nat → Except Nat (State × Nat)}
include hturn hbad hwait

/-- R345: a command that is refused changes nothing but its ring. -/
theorem State.admin_refused (hg : g s (aCtx d) = .error e) : s.adminNow i (fun s => s.admin f d type pf g) =
    .next (s.adminDone f d Code.descInvalid.value e 0) := by
  have hdue := State.admin_due hturn
  obtain ⟨hrel, _, _, _, hheld⟩ := hturn
  rw [State.adminNow_goes hrel hheld _ hwait, State.admin]
  simp only [hdue, hbad, hg, Bool.false_eq_true, if_false]

theorem State.admin_done {t : State} (hg : g s (aCtx d) = .ok (t, r)) : s.adminNow i (fun s => s.admin f d type pf g) =
    .next (t.adminDone f d 0 0 r) := by
  have hdue := State.admin_due hturn
  obtain ⟨hrel, _, _, _, hheld⟩ := hturn
  rw [State.adminNow_goes hrel hheld _ hwait, State.admin]
  simp only [hdue, hbad, hg, Bool.false_eq_true, if_false]

end

end

/-! ## QUEUE_CREATE, QUEUE_DESTROY (R345, R346, R348) -/

section
variable {s : State} {f : Nat} {d : BitVec 512}

theorem fld_queue {b : Nat} (hb : b < 16) : fld b 0 4 = b := by simp only [fld]; omega

theorem State.passes_live {c : Nat} (h : s.live c = true) : ¬ (!s.live c) = true := by rw [h]; decide

section
variable (hgo : s.adminGo f d 0x24)
include hgo

theorem queueCreate_ring (h : aA d % 64 ≠ 0) :
    exec (.queueCreate f d) s = .next (s.adminDone f d Code.descInvalid.value 0x10C0 0) := by
  obtain ⟨hturn, hbad, hlive⟩ := hgo
  exact State.admin_refused hturn hbad rfl ((if_neg (State.passes_live hlive)).trans (if_pos (.inl h)))

variable (hring : aA d % 64 = 0) (hlocal : s.isFabric (aCtx d) (aA d) = false)
include hring hlocal

theorem queueCreate_size (h : 2 ^ 22 ≤ aB d ∨ fld (aB d) 6 5 < 4 ∨ 16 < fld (aB d) 6 5 ∨ s.vectors f ≤ fld (aB d) 11 11) :
    exec (.queueCreate f d) s = .next (s.adminDone f d Code.descInvalid.value 0x1100 0) := by
  obtain ⟨hturn, hbad, hlive⟩ := hgo
  exact State.admin_refused hturn hbad rfl ((if_neg (State.passes_live hlive)).trans ((if_neg (by simp [hring, hlocal])).trans (if_pos h)))

variable (hb : ¬ (2 ^ 22 ≤ aB d ∨ fld (aB d) 6 5 < 4 ∨ 16 < fld (aB d) 6 5 ∨ s.vectors f ≤ fld (aB d) 11 11))
include hb

theorem queueCreate_writeBack (h : aC d % 8 ≠ 0) :
    exec (.queueCreate f d) s = .next (s.adminDone f d Code.descInvalid.value 0x1140 0) := by
  obtain ⟨hturn, hbad, hlive⟩ := hgo
  exact State.admin_refused hturn hbad rfl ((if_neg (State.passes_live hlive)).trans ((if_neg (by simp [hring, hlocal])).trans
    ((if_neg hb).trans (if_pos (.inl h)))))

variable (hwb : aC d % 8 = 0) (hhost : s.isFabric (aCtx d) (aC d) = false)
include hwb hhost

theorem queueCreate_exists (h : (s.queue (aCtx d) (fld (aB d) 0 4)).st = .running ∨ (s.queue (aCtx d) (fld (aB d) 0 4)).st = .stopped) :
    exec (.queueCreate f d) s = .next (s.adminDone f d Code.descInvalid.value 0x1FFF 0) := by
  obtain ⟨hturn, hbad, hlive⟩ := hgo
  exact State.admin_refused hturn hbad rfl ((if_neg (State.passes_live hlive)).trans ((if_neg (by simp [hring, hlocal])).trans
    ((if_neg hb).trans ((if_neg (by simp [hwb, hhost])).trans (if_pos (by rcases h with h | h <;> simp [h]))))))

/-- R348: a queue starts with both counts at 0. -/
theorem queueCreate_starts (h : (s.queue (aCtx d) (fld (aB d) 0 4)).st = .absent ∨ (s.queue (aCtx d) (fld (aB d) 0 4)).st = .destroyed) :
    exec (.queueCreate f d) s = .next ((s.modQueue (aCtx d) (fld (aB d) 0 4) (fun _ => { Queue.absent with
      st := .running, kind := fld (aB d) 4 2, log2 := fld (aB d) 6 5, ring := aA d, wb := aC d
      msix := fld (aB d) 11 11 })).adminDone f d 0 0 0) := by
  obtain ⟨hturn, hbad, hlive⟩ := hgo
  exact State.admin_done hturn hbad rfl ((if_neg (State.passes_live hlive)).trans ((if_neg (by simp [hring, hlocal])).trans
    ((if_neg hb).trans ((if_neg (by simp [hwb, hhost])).trans (if_neg (by rcases h with h | h <;> simp [h]))))))

end

section
variable (hgo : s.adminGo f d 0x25)
include hgo

theorem queueDestroy_number (hb : 16 ≤ aB d) :
    exec (.queueDestroy f d) s = .next (s.adminDone f d Code.descInvalid.value 0x1100 0) := by
  obtain ⟨hturn, hbad, hlive⟩ := hgo
  exact State.admin_refused hturn hbad rfl ((if_neg (State.passes_live hlive)).trans (if_pos hb))

variable (hb : aB d < 16)
include hb

/-- R345: a queue with a descriptor in progress is not destroyed. -/
theorem queueDestroy_busy (hwork : (s.queue (aCtx d) (aB d)).work ≠ none) :
    exec (.queueDestroy f d) s = .next (s.adminDone f d Code.descInvalid.value 0x1FFF 0) := by
  obtain ⟨hturn, hbad, hlive⟩ := hgo
  refine State.admin_refused hturn hbad rfl ((if_neg (State.passes_live hlive)).trans ((if_neg (not_le.mpr hb)).trans (if_pos ?_)))
  rw [fld_queue hb]
  exact .inr (.inr (Option.isSome_iff_ne_none.mpr hwork))

theorem queueDestroy_idle (hwork : (s.queue (aCtx d) (aB d)).work = none)
    (hst : (s.queue (aCtx d) (aB d)).st = .running ∨ (s.queue (aCtx d) (aB d)).st = .stopped) :
    exec (.queueDestroy f d) s = .next ((s.modQueue (aCtx d) (aB d) (fun x => { x with st := .destroyed })).adminDone f d 0 0 0) := by
  obtain ⟨hturn, hbad, hlive⟩ := hgo
  have hq := fld_queue hb
  refine State.admin_done hturn hbad rfl ((if_neg (State.passes_live hlive)).trans ((if_neg (not_le.mpr hb)).trans ((if_neg ?_).trans ?_)))
  · rw [hq, hwork]
    rcases hst with h | h <;> simp [h]
  · rw [hq]

end

end

end Sys2Proof.Machine
end

section
/-! QUEUE_RESTART, and the slots of the fabric table (R252, R341, R345, R346). -/

namespace Sys2Proof.Machine

/-! ## QUEUE_RESTART (R341, R345, R346) -/

/-- R341: with no queue of it stopped, a stopped context is pending or idle. -/
theorem State.resumeCtx_st {u : State} {c : Nat} (hst : (u.ctx c).st = .stopped) (hrun : ∀ e ∈ (u.ctx c).queues, e.2.st ≠ .stopped) :
    ((u.resumeCtx c).ctx c).st = .pending ∨ ((u.resumeCtx c).ctx c).st = .idle := by
  have hnone : (u.ctx c).queues.any (fun e => decide (e.2.st = .stopped)) = false := by
    rw [List.any_eq_false]
    simpa using hrun
  have hidle : ((u.modCtx c (fun x => { x with st := .idle, resident := false, expired := false })).ctx c).st = .idle := by
    rw [State.ctx_modCtx, if_pos rfl]
  unfold State.resumeCtx
  rw [if_pos ⟨hst, by rw [hnone]; rfl⟩]
  split
  · exact .inl ((State.becomePending_facts rfl rfl c).2 hidle).1
  · exact .inr hidle

theorem State.queue_becomePending (u : State) (c : Nat) : (u.becomePending c).queue = u.queue := by
  have horder (v : State) (l : List Nat) : ({ v with pendingOrder := l } : State).queue = v.queue := rfl
  unfold State.becomePending
  split
  · rw [horder, State.queue_modCtx]
    exact fun _ => rfl
  · rfl

theorem State.queue_resumeCtx (u : State) (c : Nat) : (u.resumeCtx c).queue = u.queue := by
  unfold State.resumeCtx
  dsimp only
  split
  · split
    · rw [State.queue_becomePending, State.queue_modCtx]
      exact fun _ => rfl
    · rw [State.queue_modCtx]
      exact fun _ => rfl
  · rfl

/-- A context whose one queue is changed to a running one has no stopped queue. -/
theorem State.queues_modQueue_one {s : State} {c q : Nat} {x : Queue} (hq : (s.ctx c).queues = [(q, x)]) {g : Queue → Queue}
    (hrun : (g x).st = .running) : ∀ e ∈ ((s.modQueue c q g).ctx c).queues, e.2.st ≠ .stopped := by
  have hnew : g x ≠ Queue.absent := fun h => by
    rw [h] at hrun
    exact absurd hrun (by decide)
  have hqs : ((s.modQueue c q g).ctx c).queues = [(q, g x)] := by
    rw [State.modQueue, State.ctx_modCtx, if_pos rfl, Ctx.modQueue, hq, tabMod]
    simp only [tabGet, if_true]
    exact tabSet_single q hnew
  rw [hqs]
  simp [hrun]

/-- QUEUE_RESTART's operand B: the queue's number, and SKIP in bit 4. -/
theorem restart_operand : ∀ q < 16, ∀ skip : Bool, (q + if skip then 16 else 0) < 32 ∧
    fld (q + if skip then 16 else 0) 0 4 = q ∧ (q + if skip then 16 else 0).testBit 4 = skip := by decide

section
variable {s : State} {f q : Nat} {skip : Bool} {d : BitVec 512} (hgo : s.adminGo f d 0x26) (hq : q < 16)
  (hb : aB d = q + (if skip then 16 else 0))
include hgo hq hb

/-- R346: a queue is restarted only where it is stopped and FAULT holds no record. -/
theorem queueRestart_refused (h : (s.queue (aCtx d) q).st ≠ .stopped ∨ (s.ctx (aCtx d)).fault ≠ none) :
    exec (.queueRestart f d) s = .next (s.adminDone f d Code.descInvalid.value 0x1FFF 0) := by
  obtain ⟨hturn, hbad, hlive⟩ := hgo
  obtain ⟨hlt, hfld, _⟩ := restart_operand q hq skip
  rw [← hb] at hlt hfld
  refine State.admin_refused hturn hbad rfl ((if_neg (State.passes_live hlive)).trans ((if_neg (not_le.mpr hlt)).trans (if_pos ?_)))
  rw [hfld]
  exact h.imp_right (fun h => .inl (Option.isSome_iff_ne_none.mpr h))

/-- A stopped queue at rest runs again; with SKIP the descriptor that failed completes as skipped. -/
theorem queueRestart_runs (hst : (s.queue (aCtx d) q).st = .stopped) (hfault : (s.ctx (aCtx d)).fault = none)
    (hwork : (s.queue (aCtx d) q).work = none) (hfailed : (s.queue (aCtx d) q).failed = true)
    (hquiet : ∀ a ∈ s.flights, a.who ≠ .queue (aCtx d) q) :
    exec (.queueRestart f d) s = .next (((s.modQueue (aCtx d) q (fun x => { x with
      st := .running, failed := false
      work := if skip then some (.done 1 0 0) else x.work
      held := if skip ∨ x.work.isSome then x.held else none })).resumeCtx (aCtx d)).adminDone f d 0 0 0) := by
  obtain ⟨hturn, hbad, hlive⟩ := hgo
  obtain ⟨hlt, hfld, hskip⟩ := restart_operand q hq skip
  rw [← hb] at hlt hfld hskip
  refine State.admin_done hturn hbad rfl ((if_neg (State.passes_live hlive)).trans ((if_neg (not_le.mpr hlt)).trans ((if_neg ?_).trans ?_)))
  · rw [hfld, hst, hfault, hwork]
    simpa using fun a ha h => absurd h (hquiet a ha)
  · rw [hfld, hwork, hskip]
    dsimp only
    rw [hfailed, Bool.and_true]

theorem queueRestart_facts (hst : (s.queue (aCtx d) q).st = .stopped) (hfault : (s.ctx (aCtx d)).fault = none)
    (hwork : (s.queue (aCtx d) q).work = none) (hfailed : (s.queue (aCtx d) q).failed = true)
    (hstopped : (s.ctx (aCtx d)).st = .stopped) (hquiet : ∀ a ∈ s.flights, a.who ≠ .queue (aCtx d) q)
    (hone : (s.ctx (aCtx d)).queues = [(q, s.queue (aCtx d) q)]) :
    ∃ t : State, exec (.queueRestart f d) s = .next (t.adminDone f d 0 0 0) ∧ (t.queue (aCtx d) q).st = .running ∧
      (t.queue (aCtx d) q).c = (s.queue (aCtx d) q).c ∧ (t.queue (aCtx d) q).failed = false ∧
      (t.queue (aCtx d) q).work = (if skip then some (.done 1 0 0) else none) ∧
      ((t.ctx (aCtx d)).st = .pending ∨ (t.ctx (aCtx d)).st = .idle) := by
  refine ⟨_, queueRestart_runs hgo hq hb hst hfault hwork hfailed hquiet, ?_, ?_, ?_, ?_, ?_⟩
  · rw [State.queue_resumeCtx, State.queue_modQueue]
  · rw [State.queue_resumeCtx, State.queue_modQueue]
  · rw [State.queue_resumeCtx, State.queue_modQueue]
  · rw [State.queue_resumeCtx, State.queue_modQueue, ← hwork]
  · refine State.resumeCtx_st ?_ (State.queues_modQueue_one hone rfl)
    rw [State.modQueue, State.ctx_modCtx, if_pos rfl]
    exact hstopped

end

/-! ## SLOT_SET (R252) -/

theorem slotSet_free {s : State} {f : Nat} {d : BitVec 512} (h : s.revoking = false) : s.adminWaits (.slotSet f d) = false := h

section
variable {s : State} {f : Nat} {d : BitVec 512} (hgo : s.adminGo f d 0x2B) (hfree : s.revoking = false)
include hgo hfree

theorem slotSet_number (hb : 128 ≤ aB d) :
    exec (.slotSet f d) s = .next (s.adminDone f d Code.descInvalid.value 0x1100 0) := by
  obtain ⟨hturn, hbad, hlive⟩ := hgo
  exact State.admin_refused hturn hbad (slotSet_free hfree) ((if_neg (State.passes_live hlive)).trans (if_pos hb))

theorem slotSet_writes (hb : aB d < 128) (hlow : fld (aC d) 8 8 = 0) (hhigh : fld (aC d) 32 32 = 0) (hd : aD d < 2 ^ 40) :
    exec (.slotSet f d) s = .next ((s.modCtx (aCtx d) (fun x => { x with
      slots := tabSet x.slots 0 (aB d) (BitVec.ofNat 128 (aC d + aD d * 2 ^ 64)) })).adminDone f d 0 0 0) := by
  obtain ⟨hturn, hbad, hlive⟩ := hgo
  exact State.admin_done hturn hbad (slotSet_free hfree) ((if_neg (State.passes_live hlive)).trans ((if_neg (not_le.mpr hb)).trans
    ((if_neg (by simp [hlow, hhigh])).trans (if_neg (not_le.mpr hd)))))

end

/-! ## A command that waits (R244, R345) -/

section
variable {s : State} (f : Nat) (d : BitVec 512) (hrel : s.hal.reloading = false) (hheld : s.adminHeld = [])
include hrel hheld

theorem unmapPages_waits (h : s.rangeBusy (aCtx d) (aA d) (aD d) = true) :
    exec (.unmapPages f d) s = .next (s.holdBack (.unmapPages f d)) := State.adminNow_waits hrel hheld _ h

theorem slotSet_waits (h : s.revoking = true) : exec (.slotSet f d) s = .next (s.holdBack (.slotSet f d)) :=
  State.adminNow_waits hrel hheld _ h

theorem mapPages_waits (h : s.revoking = true) (hb : (aB d).testBit 24 = true) :
    exec (.mapPages f d) s = .next (s.holdBack (.mapPages f d)) := by
  refine State.adminNow_waits hrel hheld _ ?_
  show (s.revoking && (aB d).testBit 24) = true
  rw [h, hb]
  rfl

end

end Sys2Proof.Machine
end

section
/-! OBJ_ALLOC and OBJ_FREE (R344, R345): where an object goes, the memory it gets, and what its freeing waits for. -/

namespace Sys2Proof.Machine

/-! ## A zeroed range (R225, R344) -/

/-- The line begins in the range. -/
def lineIn (a n line : Nat) : Bool := decide (a ≤ line * 128) && decide (line * 128 < a + n)

/-- A slice of the home without the lines that begin in a range. -/
def Slice.without (x : Slice) (a n : Nat) : Slice :=
  { x with
    sets := x.sets.map (fun f => (f.1, f.2.filter (fun l => !lineIn a n l.tag)))
    wb := x.wb.filter (fun l => !lineIn a n l.tag)
    dead := x.dead.filter (fun l => !lineIn a n l) }

theorem Slice.set_without (x : Slice) (a n i : Nat) : (x.without a n).set i = (x.set i).filter (fun l => !lineIn a n l.tag) :=
  tabGet_map x.sets (fun ls => ls.filter (fun l => !lineIn a n l.tag)) rfl i

theorem State.slice_zeroRange (s : State) (a n k : Nat) : (s.zeroRange a n).slice k = (s.slice k).without a n :=
  tabGet_map s.slices (fun x => x.without a n) rfl k

theorem lineIn_of_mem {a n i : Nat} (ha : a % 128 = 0) (hi : i < n) : lineIn a n ((a + i) / 128) = true := by
  simp only [lineIn, Bool.and_eq_true, decide_eq_true_eq]
  omega

/-- A filter that removes every line of a tag leaves none to find. -/
theorem find_filter_none {α : Type} {l : List α} {p q : α → Bool} (h : ∀ x, p x = true → q x = false) : (l.filter q).find? p = none := by
  rw [List.find?_eq_none]
  intro x hx hp
  exact absurd (List.mem_filter.mp hx).2 (by rw [h x hp]; decide)

section
variable (s : State) {a n : Nat}

theorem State.cached_zeroRange {line : Nat} (h : lineIn a n line = true) : (s.zeroRange a n).cached line = none := by
  rw [State.cached, State.slice_zeroRange, Slice.set_without]
  refine find_filter_none fun l hl => ?_
  rw [beq_iff_eq.mp hl, h]
  rfl

theorem State.underByte_zeroRange {b : Nat} (h : lineIn a n (b / 128) = true) (hb : a ≤ b ∧ b < a + n) :
    (s.zeroRange a n).underByte b = 0 := by
  have hnone : (((s.zeroRange a n).slice ((s.zeroRange a n).channelOf (b / 128))).wb.reverse).find?
      (fun l => l.tag == b / 128 && l.dirty.getLsbD (b % 128)) = none := by
    rw [State.slice_zeroRange, Slice.without, ← List.filter_reverse]
    refine find_filter_none fun l hl => ?_
    rw [beq_iff_eq.mp (Bool.and_eq_true_iff.mp hl).1, h]
    rfl
  rw [State.underByte, hnone]
  exact Mem.read_zero_in s.dram a n b hb

/-- R344: every byte of a zeroed range that begins with a line reads 0. -/
theorem State.homeByte_zeroRange {i : Nat} (ha : a % 128 = 0) (hi : i < n) : (s.zeroRange a n).homeByte (a + i) = 0 := by
  have hline := lineIn_of_mem ha hi
  have hdead : ((s.zeroRange a n).slice ((s.zeroRange a n).channelOf ((a + i) / 128))).dead.elem ((a + i) / 128) = false := by
    rw [State.slice_zeroRange, Slice.without, Bool.eq_false_iff, ne_eq, List.elem_iff, List.mem_filter, hline]
    exact fun h => absurd h.2 (by decide)
  rw [State.homeByte]
  simp only [s.cached_zeroRange hline, hdead, Bool.false_eq_true, if_false]
  exact s.underByte_zeroRange hline (by omega)

end

/-! ## A free place and a free number (R344) -/

theorem State.placeFree_of_placeObj {s : State} {n a : Nat} {k : Option Nat} (h : s.placeObj k n = some a) : s.placeFree k a n = true := by
  unfold State.placeObj at h
  dsimp only at h
  split at h
  · next hfree =>
    cases h
    exact hfree
  · have hfound := List.find?_some h
    exact hfound

theorem regionsClash_eq_false {a b : Nat × Nat} : regionsClash a b = false ↔ a.1 + a.2 ≤ b.1 ∨ b.1 + b.2 ≤ a.1 := by
  rw [regionsClash, Bool.eq_false_iff, ne_eq, Bool.and_eq_true, decide_eq_true_eq, decide_eq_true_eq]
  omega

/-- R344: an interleaved object lies below the stacks' own windows, clear of the reserved regions and of other objects. -/
theorem State.placeObj_free {s : State} {n a : Nat} (h : s.placeObj none n = some a) :
    a + n ≤ s.interleaved ∧ s.meetsReserved a n = false ∧ ∀ o ∈ s.objs, o.dpa + o.size ≤ a ∨ a + n ≤ o.dpa := by
  have hfree := State.placeFree_of_placeObj h
  simp only [State.placeFree, Bool.and_eq_true, Bool.not_eq_true', decide_eq_true_eq, List.any_eq_false, Bool.not_eq_true] at hfree
  obtain ⟨⟨⟨_, hend⟩, hreserved⟩, hobjs⟩ := hfree
  exact ⟨hend, hreserved, fun o ho => regionsClash_eq_false.mp (hobjs o ho)⟩

theorem roundUp_mod (x m : Nat) : roundUp x m % m = 0 := Nat.mul_mod_left _ _

/-- R344: an interleaved object begins at a multiple of 64 KiB. -/
theorem State.placeObj_aligned {s : State} {n a : Nat} (h : s.placeObj none n = some a) : a % 65536 = 0 := by
  unfold State.placeObj State.placement at h
  dsimp only at h
  split at h
  · cases h
    omega
  · have hmem := List.mem_of_find?_eq_some h
    simp only [List.mem_cons, List.mem_append, List.mem_map] at hmem
    rcases hmem with rfl | ⟨o, _, rfl⟩ | ⟨r, _, rfl⟩
    · rfl
    · rw [Nat.zero_add]
      exact roundUp_mod _ _
    · rw [Nat.zero_add]
      exact roundUp_mod _ _

theorem State.objNumber_fresh {s : State} {k : Nat} (h : s.objNumber = some k) : 1 ≤ k ∧ k < 2 ^ 24 ∧ ∀ o ∈ s.objs, o.num ≠ k := by
  have hunused {j : Nat} (hj : (!s.objs.any (fun o => o.num == j)) = true) : ∀ o ∈ s.objs, o.num ≠ j := by simpa using hj
  unfold State.objNumber at h
  dsimp only at h
  split at h
  · next hfree =>
    cases h
    exact ⟨by omega, by omega, hunused hfree⟩
  · obtain ⟨i, _, hi⟩ := List.exists_of_findSome?_eq_some h
    split at hi
    · next hfree =>
      cases hi
      obtain ⟨hfree, hlt⟩ := Bool.and_eq_true_iff.mp hfree
      exact ⟨by omega, of_decide_eq_true hlt, hunused hfree⟩
    · cases hi

/-! ## OBJ_ALLOC (R344, R345) -/

section
variable {s : State} {f : Nat} {d : BitVec 512} (hturn : s.adminTurn f) (hbad : s.adminBad f d 0x27 false = none)
include hturn hbad

theorem objAlloc_size (h : aA d = 0 ∨ aA d % 65536 ≠ 0 ∨ 512000000000 < aA d) :
    exec (.objAlloc f d) s = .next (s.adminDone f d Code.descInvalid.value 0x10C0 0) :=
  State.admin_refused hturn hbad rfl (if_pos h)

variable (hA : ¬ (aA d = 0 ∨ aA d % 65536 ≠ 0 ∨ 512000000000 < aA d)) (hB : aB d < 4)
include hA hB

omit hturn hbad hA in
theorem objAlloc_flags : (aB d).testBit 2 = false ∧ (aB d).testBit 3 = false :=
  ⟨Nat.testBit_lt_two_pow (by omega), Nat.testBit_lt_two_pow (by omega)⟩

theorem objAlloc_noRoom (hplace : s.placeObj none (aA d) = none) :
    exec (.objAlloc f d) s = .next (s.adminDone f d Code.descInvalid.value 0x1FFE 0) := by
  obtain ⟨h2, h3⟩ := objAlloc_flags hB
  refine State.admin_refused hturn hbad rfl ((if_neg hA).trans ((if_neg (by simp [h2, h3]; omega)).trans ?_))
  simp only [h2, Bool.false_eq_true, if_false, hplace]
  rfl

/-- The object that OBJ_ALLOC makes. -/
def newObj (d : BitVec 512) (a k : Nat) : Obj :=
  { num := k, owner := aCtx d, dpa := a, size := aA d, stackLocal := none, retained := (aB d).testBit 0, heap := (aB d).testBit 1
    aperture := none, orphan := false, grace := false, since := 0, credential := 0 }

theorem objAlloc_done {a k : Nat} (hplace : s.placeObj none (aA d) = some a) (hnum : s.objNumber = some k) :
    exec (.objAlloc f d) s = .next (({ s.drawn.zeroRange a (aA d) with objs := s.objs ++ [newObj d a k] } : State).adminDone f d 0 0 k) := by
  obtain ⟨h2, h3⟩ := objAlloc_flags hB
  refine State.admin_done hturn hbad rfl ((if_neg hA).trans ((if_neg (by simp [h2, h3]; omega)).trans ?_))
  simp only [h2, Bool.false_eq_true, if_false, hplace, hnum]
  rfl

theorem objAlloc_facts {a k : Nat} (hplace : s.placeObj none (aA d) = some a) (hnum : s.objNumber = some k) :
    ∃ (t : State) (o : Obj), exec (.objAlloc f d) s = .next (t.adminDone f d 0 0 k) ∧ t.objs = s.objs ++ [o] ∧ o.num = k ∧
      o.owner = aCtx d ∧ o.dpa = a ∧ o.size = aA d ∧ o.retained = (aB d).testBit 0 ∧ o.heap = (aB d).testBit 1 ∧
      o.aperture = none ∧ t.ctxs = s.ctxs ∧ ∀ i, i < aA d → t.homeByte (a + i) = 0 := by
  refine ⟨_, newObj d a k, objAlloc_done hturn hbad hA hB hplace hnum, rfl, rfl, rfl, rfl, rfl, rfl, rfl, rfl, rfl, fun i hi => ?_⟩
  have haligned := State.placeObj_aligned hplace
  exact s.drawn.homeByte_zeroRange (by omega) hi

end

/-! ## OBJ_FREE (R345) -/

theorem State.obj_num {s : State} {n : Nat} {o : Obj} (h : s.obj n = some o) : o.num = n := by
  have hfound := List.find?_some h
  exact beq_iff_eq.mp hfound

theorem State.ownObj_eq {s : State} {c n : Nat} {o : Obj} (h : s.ownObj c n = some o) : s.obj n = some o := by
  unfold State.ownObj at h
  split at h
  · next p hp =>
    split at h
    · cases h
      exact hp
    · cases h
  · cases h

/-- The objects of a number are to be freed. -/
def State.orphaned (s : State) (n : Nat) : State := s.modObj n (fun o => { o with orphan := true })

theorem State.obj_orphaned (s : State) (n : Nat) : (s.orphaned n).obj n = (s.obj n).map (fun o => { o with orphan := true }) := by
  rw [State.obj, State.orphaned, State.modObj, modIf, State.obj]
  induction s.objs with
  | nil => rfl
  | cons o os ih =>
    rw [List.map_cons, List.find?_cons, List.find?_cons]
    cases h : o.num == n
    · simpa [h] using ih
    · simp [h]

theorem State.orphan_of_orphaned {s : State} {n : Nat} {p : Obj} (hp : p ∈ (s.orphaned n).objs) (hn : p.num = n) : p.orphan = true := by
  simp only [State.orphaned, State.modObj, modIf, List.mem_map] at hp
  obtain ⟨o, _, rfl⟩ := hp
  split at hn
  · next h => rw [if_pos h]
  · next h => exact absurd (beq_iff_eq.mpr hn) h

section
variable {s : State} {c n : Nat} {o : Obj} (hown : s.ownObj c n = some o)
include hown

theorem State.objInUse_orphaned : (s.orphaned n).objInUse n none =
    (o.aperture.isSome || s.ctxs.any (fun e => some e.1 != none && e.2.st != .free && e.2.maps.any (fun m => m.obj == n))) := by
  rw [State.objInUse, State.obj_orphaned, State.ownObj_eq hown]
  rfl

/-- R345: an object that nothing refers to is freed. -/
theorem State.objs_dropOrphans (hap : o.aperture = none) (hmaps : ∀ e ∈ s.ctxs, e.2.maps = []) :
    ∀ p ∈ (s.orphaned n).dropOrphans.objs, p.num ≠ n := by
  intro p hp hn
  obtain ⟨hp, hkept⟩ := List.mem_filter.mp hp
  have hunused : (s.orphaned n).objInUse n none = false := by
    rw [State.objInUse_orphaned hown, hap, Option.isSome_none, Bool.false_or, List.any_eq_false]
    intro e he
    simp [hmaps e he]
  rw [State.orphan_of_orphaned hp hn, hn, hunused] at hkept
  exact absurd hkept (by decide)

/-- R345: an object exported to the aperture stays until it is taken out. -/
theorem State.obj_dropOrphans (hap : o.aperture ≠ none) : (s.orphaned n).dropOrphans.obj n = some { o with orphan := true } := by
  have hused : (s.orphaned n).objInUse n none = true := by
    rw [State.objInUse_orphaned hown, Option.isSome_iff_ne_none.mpr hap, Bool.true_or]
  have hobj : (s.orphaned n).obj n = some { o with orphan := true } := by
    rw [State.obj_orphaned, State.ownObj_eq hown]
    rfl
  generalize s.orphaned n = u at hused hobj
  rw [State.obj, State.dropOrphans, List.find?_filter, ← hobj, State.obj]
  congr 1
  funext p
  cases h : p.num == n
  · simp
  · rw [beq_iff_eq.mp h, hused]
    simp

end

section
variable {s : State} {f : Nat} {d : BitVec 512} (hturn : s.adminTurn f) (hbad : s.adminBad f d 0x28 false = none)
include hturn hbad

theorem objFree_unknown (h : s.ownObj (aCtx d) (aA d) = none) :
    exec (.objFree f d) s = .next (s.adminDone f d Code.descInvalid.value 0x10C0 0) := by
  refine State.admin_refused hturn hbad rfl ?_
  simp only [h]
  rfl

theorem objFree_done {o : Obj} (hown : s.ownObj (aCtx d) (aA d) = some o) :
    exec (.objFree f d) s = .next ((s.orphaned (aA d)).dropOrphans.adminDone f d 0 0 0) := by
  refine State.admin_done hturn hbad rfl ?_
  simp only [hown, State.obj_num (State.ownObj_eq hown)]
  rfl

end

end Sys2Proof.Machine
end

section
/-! MAP and UNMAP (R343 to R345): what an address translates to after them. -/

namespace Sys2Proof.Machine

/-! ## What an address meets in a list of mappings (R343) -/

/-- The target of an address of a mapping, none without the permission. -/
def Mapping.look (m : Mapping) (a k : Nat) : Option MapTarget := if m.allows k then some (m.at a) else none

/-- What the first mapping that covers an address says of it. -/
def lookIn (ms : List Mapping) (a k : Nat) : Option (Option MapTarget) := (ms.find? (fun m => m.covers a)).map (fun m => m.look a k)

theorem Ctx.translate_eq {x : Ctx} {a : Nat} (ha : a < 2 ^ 48) (k : Nat) : x.translate a k = (lookIn x.maps a k).join := by
  rw [Ctx.translate, Nat.mod_eq_of_lt ha, Ctx.mapOf, lookIn]
  cases x.maps.find? (fun m => m.covers a) <;> rfl

section
variable (ms ns : List Mapping) (m : Mapping) (a k : Nat)

theorem lookIn_append : lookIn (ms ++ ns) a k = (lookIn ms a k).or (lookIn ns a k) := by
  rw [lookIn, List.find?_append, lookIn, lookIn]
  cases ms.find? (fun m => m.covers a) <;> rfl

theorem lookIn_cons : lookIn (m :: ms) a k = if m.covers a then some (m.look a k) else lookIn ms a k := by
  rw [lookIn, List.find?_cons, lookIn]
  cases m.covers a <;> rfl

end

theorem lookIn_none {ms : List Mapping} {a : Nat} (h : ∀ m ∈ ms, m.covers a = false) (k : Nat) : lookIn ms a k = none := by
  rw [lookIn, List.find?_eq_none.mpr fun m hm => by rw [h m hm]; decide]
  rfl

theorem Mapping.covers_iff {m : Mapping} {a : Nat} : m.covers a = true ↔ m.va ≤ a ∧ a < m.va + m.len := by
  rw [Mapping.covers, Bool.and_eq_true, decide_eq_true_eq, decide_eq_true_eq]

theorem Mapping.covers_eq_false {m : Mapping} {a : Nat} : m.covers a = false ↔ a < m.va ∨ m.va + m.len ≤ a := by
  rw [Bool.eq_false_iff, ne_eq, Mapping.covers_iff]
  omega

/-! ## MAP (R343, R344, R345) -/

section
variable {s : State} {f : Nat} {d : BitVec 512} (hgo : s.adminGo f d 0x29) (hfree : s.adminWaits (.mapPages f d) = false)
include hgo hfree

theorem mapPages_range (h : aA d % pageSize ((aD d).testBit 48) ≠ 0 ∨ 2 ^ 48 < aA d + fld (aD d) 0 48) :
    exec (.mapPages f d) s = .next (s.adminDone f d Code.descInvalid.value 0x10C0 0) := by
  obtain ⟨hturn, hbad, hlive⟩ := hgo
  exact State.admin_refused hturn hbad hfree ((if_neg (State.passes_live hlive)).trans (if_pos h))

variable (hrange : ¬ (aA d % pageSize ((aD d).testBit 48) ≠ 0 ∨ 2 ^ 48 < aA d + fld (aD d) 0 48))
include hrange

theorem mapPages_mapped (h : ∃ m ∈ (s.ctx (aCtx d)).maps, m.va < aA d + fld (aD d) 0 48 ∧ aA d < m.va + m.len) :
    exec (.mapPages f d) s = .next (s.adminDone f d Code.descInvalid.value 0x10C0 0) := by
  obtain ⟨hturn, hbad, hlive⟩ := hgo
  obtain ⟨m, hm, hclash⟩ := h
  have hany : (s.ctx (aCtx d)).maps.any (fun m => regionsClash (m.va, m.len) (aA d, fld (aD d) 0 48)) = true :=
    List.any_eq_true.mpr ⟨m, hm, by simpa [regionsClash] using hclash⟩
  exact State.admin_refused hturn hbad hfree ((if_neg (State.passes_live hlive)).trans ((if_neg hrange).trans (if_pos hany)))

variable (hclear : ∀ m ∈ (s.ctx (aCtx d)).maps, m.va + m.len ≤ aA d ∨ aA d + fld (aD d) 0 48 ≤ m.va)
include hclear

omit hgo hfree hrange in
theorem mapPages_clear : ¬ (s.ctx (aCtx d)).maps.any (fun m => regionsClash (m.va, m.len) (aA d, fld (aD d) 0 48)) = true := by
  rw [Bool.not_eq_true, List.any_eq_false]
  intro m hm
  rw [regionsClash_eq_false.mpr (hclear m hm)]
  decide

theorem mapPages_offset (h : aC d % pageSize ((aD d).testBit 48) ≠ 0) :
    exec (.mapPages f d) s = .next (s.adminDone f d Code.descInvalid.value 0x1140 0) := by
  obtain ⟨hturn, hbad, hlive⟩ := hgo
  exact State.admin_refused hturn hbad hfree ((if_neg (State.passes_live hlive)).trans ((if_neg hrange).trans
    ((if_neg (mapPages_clear hclear)).trans (if_pos h))))

/-- The entries that MAP installs. -/
def newMapping (d : BitVec 512) (t : MapTarget) (n : Nat) : Mapping :=
  ⟨aA d, fld (aD d) 0 48, (aD d).testBit 48, t, n, (aD d).testBit 49, (aD d).testBit 50, (aD d).testBit 51⟩

variable {t : MapTarget} {n : Nat} (hC : aC d % pageSize ((aD d).testBit 48) = 0)
  (htarget : s.mapTarget (aCtx d) (aB d) (aC d) (fld (aD d) 0 48) ((aD d).testBit 49) ((aD d).testBit 50) ((aD d).testBit 51) = .ok (t, n))
  (hlen : fld (aD d) 0 48 % pageSize ((aD d).testBit 48) = 0) (hpos : fld (aD d) 0 48 ≠ 0) (hD : aD d < 2 ^ 52)
include hC htarget hlen hpos hD

theorem mapPages_done : exec (.mapPages f d) s =
    .next ((s.modCtx (aCtx d) (fun x => { x with maps := x.maps ++ [newMapping d t n] })).adminDone f d 0 0 0) := by
  obtain ⟨hturn, hbad, hlive⟩ := hgo
  refine State.admin_done hturn hbad hfree ((if_neg (State.passes_live hlive)).trans ((if_neg hrange).trans
    ((if_neg (mapPages_clear hclear)).trans ((if_neg (not_not.mpr hC)).trans ?_))))
  simp only [htarget]
  rw [if_neg (by omega), if_neg hpos]
  rfl

end

/-- Entries put at the end speak of the addresses no other covers. -/
theorem lookIn_installed {ms : List Mapping} {m : Mapping} {a : Nat} (h : ∀ e ∈ ms, e.covers a = false) (hm : m.covers a = true) (k : Nat) :
    lookIn (ms ++ [m]) a k = some (m.look a k) := by
  rw [lookIn_append, lookIn_none h, lookIn_cons, if_pos hm]
  rfl

theorem lookIn_elsewhere {m : Mapping} {a : Nat} (hm : m.covers a = false) (ms : List Mapping) (k : Nat) :
    lookIn (ms ++ [m]) a k = lookIn ms a k := by
  rw [lookIn_append, lookIn_cons, hm]
  exact Option.or_none

theorem State.maps_modCtx (s : State) (c : Nat) (g : List Mapping → List Mapping) :
    ((s.modCtx c (fun x => { x with maps := g x.maps })).ctx c).maps = g (s.ctx c).maps := by
  rw [State.ctx_modCtx, if_pos rfl]

/-- R343, R345: after a MAP its range translates with the permissions given, and the other addresses as before. -/
theorem mapPages_facts {s : State} {f p : Nat} {d : BitVec 512} {t : MapTarget} {n : Nat} (hgo : s.adminGo f d 0x29)
    (hfree : s.adminWaits (.mapPages f d) = false) (hp : p = pageSize ((aD d).testBit 48))
    (hA : aA d % p = 0) (hend : aA d + fld (aD d) 0 48 ≤ 2 ^ 48)
    (hclear : ∀ m ∈ (s.ctx (aCtx d)).maps, m.va + m.len ≤ aA d ∨ aA d + fld (aD d) 0 48 ≤ m.va) (hC : aC d % p = 0)
    (htarget : s.mapTarget (aCtx d) (aB d) (aC d) (fld (aD d) 0 48) ((aD d).testBit 49) ((aD d).testBit 50) ((aD d).testBit 51) = .ok (t, n))
    (hlen : fld (aD d) 0 48 % p = 0) (hpos : fld (aD d) 0 48 ≠ 0) (hD : aD d < 2 ^ 52) :
    ∃ u : State, exec (.mapPages f d) s = .next (u.adminDone f d 0 0 0) ∧ u.objs = s.objs ∧
      (∀ a, aA d ≤ a → a < aA d + fld (aD d) 0 48 →
        (u.ctx (aCtx d)).translate a 0 = (if (aD d).testBit 49 then
          some ((⟨aA d, fld (aD d) 0 48, false, t, n, true, true, true⟩ : Mapping).at a) else none) ∧
        (u.ctx (aCtx d)).translate a 1 = (if (aD d).testBit 50 then
          some ((⟨aA d, fld (aD d) 0 48, false, t, n, true, true, true⟩ : Mapping).at a) else none)) ∧
      (∀ a k, a < 2 ^ 48 → a < aA d ∨ aA d + fld (aD d) 0 48 ≤ a →
        (u.ctx (aCtx d)).translate a k = (s.ctx (aCtx d)).translate a k) := by
  subst hp
  refine ⟨_, mapPages_done hgo hfree (by omega) hclear hC htarget hlen hpos hD, rfl, fun a hlo hhi => ?_, fun a k ha hout => ?_⟩
  · have hothers : ∀ m ∈ (s.ctx (aCtx d)).maps, m.covers a = false := fun m hm => by
      have hm := hclear m hm
      rw [Mapping.covers_eq_false]
      omega
    have hnew : (newMapping d t n).covers a = true := Mapping.covers_iff.mpr ⟨hlo, hhi⟩
    have hin (k : Nat) := lookIn_installed hothers hnew k
    rw [Ctx.translate_eq (by omega), Ctx.translate_eq (by omega), State.maps_modCtx s _ (fun ms => ms ++ [newMapping d t n]), hin, hin]
    exact ⟨rfl, rfl⟩
  · have hnew : (newMapping d t n).covers a = false := Mapping.covers_eq_false.mpr hout
    rw [Ctx.translate_eq ha, Ctx.translate_eq ha, State.maps_modCtx s _ (fun ms => ms ++ [newMapping d t n]), lookIn_elsewhere hnew]

/-! ## What a MAP names (R344) -/

section
variable (s : State) (c off len : Nat) (r w a : Bool)

theorem State.mapTarget_host (h : off + len ≤ 2 ^ 64) : s.mapTarget c 0 off len r w a = .ok (.host off, 0) := by
  rw [State.mapTarget, if_pos rfl, if_pos h]

variable {s c off len} {o : Obj} (hpos : 0 < o.num) (hnum : o.num < 2 ^ 24) (hobj : s.obj o.num = some o)
include hpos hnum hobj

theorem State.mapTarget_own (horphan : o.orphan = false) (hgrace : o.grace = false) (howner : o.owner = c) (hfits : off + len ≤ o.size)
    (hclear : s.meetsReserved (o.dpa + off) len = false) :
    s.mapTarget c o.num off len r w a = .ok (.dram (o.dpa + off), o.num) := by
  have hlocal : ¬ o.num.testBit 24 = true := by rw [Nat.testBit_lt_two_pow hnum]; decide
  rw [State.mapTarget, if_neg (by omega), if_neg hlocal, hobj]
  dsimp only
  rw [if_neg (by simp [horphan, hgrace]), if_pos howner]
  dsimp only
  rw [if_neg (by rw [hclear]; simpa using hfits)]

/-- R344: an object of another context that is not exported is not mapped. -/
theorem State.mapTarget_foreign (howner : o.owner ≠ c) (hap : o.aperture = none) :
    s.mapTarget c o.num off len r w a = .error 0x1100 := by
  have hlocal : ¬ o.num.testBit 24 = true := by rw [Nat.testBit_lt_two_pow hnum]; decide
  rw [State.mapTarget, if_neg (by omega), if_neg hlocal, hobj]
  dsimp only
  by_cases hgone : o.orphan = true ∨ o.grace = true
  · rw [if_pos hgone]
    rfl
  · rw [if_neg hgone, if_neg howner, hap]
    rfl

end

/-! ## UNMAP (R345) -/

/-- What UNMAP leaves of a mapping: its pages below the range and above it. -/
def Mapping.outside (m : Mapping) (va len : Nat) : List Mapping := m.part 0 va ++ m.part (va + len) (2 ^ 48)

theorem Mapping.look_part {m : Mapping} {lo a : Nat} (hlo : m.va ≤ lo) (ha : lo ≤ a) (n k : Nat) :
    ({ m with va := lo, len := n, target := m.at lo } : Mapping).look a k = m.look a k := by
  have hat : ({ m with va := lo, len := n, target := m.at lo } : Mapping).at a = m.at a := by
    unfold Mapping.at
    cases m.target <;> simp only [MapTarget.dram.injEq, MapTarget.fabric.injEq, MapTarget.host.injEq, true_and] <;> omega
  rw [Mapping.look, hat]
  rfl

/-- A part of a mapping speaks of the addresses between its bounds, as the mapping did. -/
theorem lookIn_part (m : Mapping) (lo hi a k : Nat) :
    lookIn (m.part lo hi) a k = if (lo ≤ a ∧ a < hi) ∧ m.covers a = true then some (m.look a k) else none := by
  unfold Mapping.part
  dsimp only
  split
  · rw [lookIn_cons]
    split
    · next hpart hcov =>
      obtain ⟨h1, h2⟩ := Mapping.covers_iff.mp hcov
      dsimp only at h1 h2
      rw [Mapping.look_part (le_max_right _ _) h1, if_pos ⟨by omega, Mapping.covers_iff.mpr (by omega)⟩]
    · next hpart hcov =>
      rw [if_neg]
      · rfl
      · rintro ⟨⟨h1, h2⟩, h3⟩
        obtain ⟨h4, h5⟩ := Mapping.covers_iff.mp h3
        exact hcov (Mapping.covers_iff.mpr (by dsimp only; omega))
  · next hpart =>
    rw [if_neg]
    · rfl
    · rintro ⟨⟨h1, h2⟩, h3⟩
      obtain ⟨h4, h5⟩ := Mapping.covers_iff.mp h3
      omega

section
variable {va len a : Nat} (k : Nat)

theorem Mapping.lookIn_outside_kept (ha : a < 2 ^ 48) (hout : a < va ∨ va + len ≤ a) (m : Mapping) :
    lookIn (m.outside va len) a k = if m.covers a = true then some (m.look a k) else none := by
  rw [Mapping.outside, lookIn_append, lookIn_part, lookIn_part]
  cases m.covers a
  · simp
  · rcases hout with h | h
    · rw [if_pos ⟨⟨by omega, h⟩, rfl⟩, if_pos rfl]
      rfl
    · rw [if_neg (by omega), if_pos ⟨⟨h, ha⟩, rfl⟩, if_pos rfl]
      rfl

theorem Mapping.lookIn_outside_gone (hin : va ≤ a ∧ a < va + len) (m : Mapping) : lookIn (m.outside va len) a k = none := by
  rw [Mapping.outside, lookIn_append, lookIn_part, lookIn_part, if_neg (by omega), if_neg (by omega)]
  rfl

theorem lookIn_unmapped_kept (ha : a < 2 ^ 48) (hout : a < va ∨ va + len ≤ a) (ms : List Mapping) :
    lookIn (ms.flatMap (fun m => m.outside va len)) a k = lookIn ms a k := by
  induction ms with
  | nil => rfl
  | cons m ms ih =>
    rw [List.flatMap_cons, lookIn_append, ih, Mapping.lookIn_outside_kept k ha hout, lookIn_cons]
    split <;> rfl

theorem lookIn_unmapped_gone (hin : va ≤ a ∧ a < va + len) (ms : List Mapping) :
    lookIn (ms.flatMap (fun m => m.outside va len)) a k = none := by
  induction ms with
  | nil => rfl
  | cons m ms ih =>
    rw [List.flatMap_cons, lookIn_append, ih, Mapping.lookIn_outside_gone k hin]
    rfl

end

theorem mod_pageSize {n : Nat} (h : n % 2 ^ 21 = 0) (big : Bool) : n % pageSize big = 0 := by
  cases big
  · show n % 65536 = 0
    omega
  · exact h

section
variable {s : State} {f : Nat} {d : BitVec 512} (hgo : s.adminGo f d 0x2A) (hfree : s.adminWaits (.unmapPages f d) = false)
include hgo hfree

theorem unmapPages_range (h : 2 ^ 48 < aA d + aD d) :
    exec (.unmapPages f d) s = .next (s.adminDone f d Code.descInvalid.value 0x10C0 0) := by
  obtain ⟨hturn, hbad, hlive⟩ := hgo
  exact State.admin_refused hturn hbad hfree ((if_neg (State.passes_live hlive)).trans (if_pos (.inl h)))

variable (hend : aA d + aD d ≤ 2 ^ 48) (hA : aA d % 2 ^ 21 = 0) (hD : aD d % 2 ^ 21 = 0)
include hend hA hD

theorem unmapPages_done : exec (.unmapPages f d) s = .next ((s.modCtx (aCtx d) (fun x => { x with
    maps := x.maps.flatMap (fun m => m.outside (aA d) (aD d)) })).dropOrphans.adminDone f d 0 0 0) := by
  obtain ⟨hturn, hbad, hlive⟩ := hgo
  refine State.admin_done hturn hbad hfree ((if_neg (State.passes_live hlive)).trans ((if_neg ?_).trans (if_neg ?_)))
  · simp only [mod_pageSize hA]
    simpa using hend
  · simp only [mod_pageSize hD]
    simp

/-- R345: every page of the range is unmapped, and the others stay. -/
theorem unmapPages_facts : ∃ u : State, exec (.unmapPages f d) s = .next (u.adminDone f d 0 0 0) ∧
    (∀ a k, aA d ≤ a → a < aA d + aD d → (u.ctx (aCtx d)).translate a k = none) ∧
    (∀ a k, a < 2 ^ 48 → a < aA d ∨ aA d + aD d ≤ a →
      (u.ctx (aCtx d)).translate a k = (s.ctx (aCtx d)).translate a k) := by
  have hmaps := s.maps_modCtx (aCtx d) (fun ms => ms.flatMap (fun m => m.outside (aA d) (aD d)))
  have hctx (v : State) : v.dropOrphans.ctx = v.ctx := rfl
  refine ⟨_, unmapPages_done hgo hfree hend hA hD, fun a k hlo hhi => ?_, fun a k ha hout => ?_⟩
  · rw [hctx, Ctx.translate_eq (by omega), hmaps, lookIn_unmapped_gone k ⟨hlo, hhi⟩]
    rfl
  · rw [hctx, Ctx.translate_eq ha, Ctx.translate_eq ha, hmaps, lookIn_unmapped_kept k ha hout]

end

/-! ## The statement (O50) -/

theorem mapPages_free {s : State} {f : Nat} {d : BitVec 512} (h : s.revoking = false ∨ (aB d).testBit 24 = false) :
    s.adminWaits (.mapPages f d) = false := Bool.and_eq_false_iff.mpr h

/-- Settles O50: a command at the front of its ring that need not wait is refused, or has its effect (`State.admin_refused`,
`State.admin_done`); MAP and UNMAP by what the first covering mapping says of an address (`lookIn`), OBJ_ALLOC by the
zeroed range's home bytes. -/
theorem adminCommandsActOnQueuesObjectsAndPages : Obligations.AdminCommandsActOnQueuesObjectsAndPages := by
  refine ⟨fun s f d hgo => ?_, fun s f d hgo => ?_, fun s f q skip d hgo hq hb => ?_, fun s f d hturn hbad => ?_,
    fun s n a k => ⟨State.placeObj_free, State.objNumber_fresh⟩, fun s f d hturn hbad => ?_, fun s f p d t n hgo hwait hp => ?_,
    fun s c off len o r w a => ?_, fun s f d hgo hwait => ?_, fun s f d hrel hheld => ?_,
    fun s i hrel hheld hwait => State.retryHeld_one hrel hheld hwait, fun s f d hgo hfree => ?_⟩
  case refine_1 =>
    refine ⟨queueCreate_ring hgo, fun hring hlocal => ⟨queueCreate_size hgo hring hlocal, fun h22 h4 h16 hvec => ?_⟩⟩
    have hb : ¬ (2 ^ 22 ≤ aB d ∨ fld (aB d) 6 5 < 4 ∨ 16 < fld (aB d) 6 5 ∨ s.vectors f ≤ fld (aB d) 11 11) := by omega
    exact ⟨queueCreate_writeBack hgo hring hlocal hb, fun hwb hhost =>
      ⟨queueCreate_exists hgo hring hlocal hb hwb hhost, queueCreate_starts hgo hring hlocal hb hwb hhost⟩⟩
  case refine_2 => exact ⟨queueDestroy_number hgo, queueDestroy_busy hgo, queueDestroy_idle hgo⟩
  case refine_3 => exact ⟨queueRestart_refused hgo hq hb, queueRestart_facts hgo hq hb⟩
  case refine_4 =>
    refine ⟨objAlloc_size hturn hbad, fun h0 hunit hmax hB => ?_⟩
    have hA : ¬ (aA d = 0 ∨ aA d % 65536 ≠ 0 ∨ 512000000000 < aA d) := by omega
    exact ⟨objAlloc_noRoom hturn hbad hA hB, fun a k => objAlloc_facts hturn hbad hA hB⟩
  case refine_5 =>
    refine ⟨objFree_unknown hturn hbad, fun o hown hap hmaps => ?_, fun o hown hap => ?_⟩
    · exact ⟨_, objFree_done hturn hbad hown, State.objs_dropOrphans hown hap hmaps, rfl⟩
    · exact ⟨_, _, objFree_done hturn hbad hown, State.obj_dropOrphans hown hap, rfl⟩
  case refine_6 =>
    have hfree : s.adminWaits (.mapPages f d) = false := mapPages_free hwait
    have hpage : p = pageSize ((aD d).testBit 48) := hp
    refine ⟨fun h => mapPages_range hgo hfree (hpage ▸ h), fun hA hend => ?_⟩
    have hrange : ¬ (aA d % pageSize ((aD d).testBit 48) ≠ 0 ∨ 2 ^ 48 < aA d + fld (aD d) 0 48) := by rw [← hpage]; omega
    exact ⟨mapPages_mapped hgo hfree hrange, fun hclear => ⟨fun hC => mapPages_offset hgo hfree hrange hclear (hpage ▸ hC),
      fun hC htarget hlen hpos hD => mapPages_facts hgo hfree hpage hA hend hclear hC htarget hlen hpos hD⟩⟩
  case refine_7 =>
    exact ⟨State.mapTarget_host s c off len r w a, State.mapTarget_own r w a, State.mapTarget_foreign r w a⟩
  case refine_8 => exact ⟨unmapPages_range hgo hwait, unmapPages_facts hgo hwait⟩
  case refine_9 => exact ⟨unmapPages_waits f d hrel hheld, fun h => ⟨slotSet_waits f d hrel hheld h, mapPages_waits f d hrel hheld h⟩⟩
  case refine_10 => exact ⟨slotSet_number hgo hfree, slotSet_writes hgo hfree⟩

end Sys2Proof.Machine
end
